-- ==== Sys2Proof/Word.lean ====
section
/-! DEFINITION. The widths of the machine's words, and reading a two's-complement field. -/

namespace Sys2Proof

/-- A register word (R46). -/
abbrev Word := BitVec 32

/-- A pair, address or program counter (R47, R75). -/
abbrev DWord := BitVec 64

/-- A byte of memory (R2). -/
abbrev Byte := BitVec 8

/-- A field read as two's complement and extended to `n` bits. -/
abbrev sext {m : Nat} (n : Nat) (x : BitVec m) : BitVec n := x.signExtend n

/-- The low word of a pair, bits [31:0] (R47). -/
def DWord.lo (x : DWord) : Word := x.setWidth 32

/-- The high word of a pair, bits [63:32] (R47). -/
def DWord.hi (x : DWord) : Word := (x >>> 32).setWidth 32

/-- The pair with the given halves. -/
def DWord.mk (hi lo : Word) : DWord := hi ++ lo

end Sys2Proof
end

