-- ==== Sys2Proof/Syntax.lean ====
section
/-! DEFINITION. The instruction set: one constructor per row of spec/opcode_table.json.
A row with an encoding carries the table's fields, by the table's own field names and in its order;
a row without one (a step or an event of the part) carries operands of the model's own that say where it happens. -/

namespace Sys2Proof

/-- One row of the table of operations and events per constructor. -/
inductive Instr where
  -- integer arithmetic and moves (R193-R196)
  /-- ADD (R193). -/
  | add (v : BitVec 1) (b : BitVec 6) (a : BitVec 6) (d : BitVec 6) (n : BitVec 1) (p : BitVec 4)
  /-- SUB (R193). -/
  | sub (v : BitVec 1) (b : BitVec 6) (a : BitVec 6) (d : BitVec 6) (n : BitVec 1) (p : BitVec 4)
  /-- MUL (R193). -/
  | mul (v : BitVec 1) (b : BitVec 6) (a : BitVec 6) (d : BitVec 6) (n : BitVec 1) (p : BitVec 4)
  /-- MULH (R193). -/
  | mulh (v : BitVec 1) (b : BitVec 6) (a : BitVec 6) (d : BitVec 6) (n : BitVec 1) (p : BitVec 4)
  /-- DIV (R194). -/
  | div (v : BitVec 1) (b : BitVec 6) (a : BitVec 6) (d : BitVec 6) (n : BitVec 1) (p : BitVec 4)
  /-- REM (R194). -/
  | rem (v : BitVec 1) (b : BitVec 6) (a : BitVec 6) (d : BitVec 6) (n : BitVec 1) (p : BitVec 4)
  /-- AND (R193). -/
  | and (v : BitVec 1) (b : BitVec 6) (a : BitVec 6) (d : BitVec 6) (n : BitVec 1) (p : BitVec 4)
  /-- OR (R193). -/
  | or (v : BitVec 1) (b : BitVec 6) (a : BitVec 6) (d : BitVec 6) (n : BitVec 1) (p : BitVec 4)
  /-- XOR (R193). -/
  | xor (v : BitVec 1) (b : BitVec 6) (a : BitVec 6) (d : BitVec 6) (n : BitVec 1) (p : BitVec 4)
  /-- ANDN (R193). -/
  | andn (v : BitVec 1) (b : BitVec 6) (a : BitVec 6) (d : BitVec 6) (n : BitVec 1) (p : BitVec 4)
  /-- SHL (R193). -/
  | shl (v : BitVec 1) (b : BitVec 6) (a : BitVec 6) (d : BitVec 6) (n : BitVec 1) (p : BitVec 4)
  /-- SHR (R193). -/
  | shr (v : BitVec 1) (b : BitVec 6) (a : BitVec 6) (d : BitVec 6) (n : BitVec 1) (p : BitVec 4)
  /-- SRA (R193). -/
  | sra (v : BitVec 1) (b : BitVec 6) (a : BitVec 6) (d : BitVec 6) (n : BitVec 1) (p : BitVec 4)
  /-- MIN (R193). -/
  | min (v : BitVec 1) (b : BitVec 6) (a : BitVec 6) (d : BitVec 6) (n : BitVec 1) (p : BitVec 4)
  /-- MAX (R193). -/
  | max (v : BitVec 1) (b : BitVec 6) (a : BitVec 6) (d : BitVec 6) (n : BitVec 1) (p : BitVec 4)
  /-- ADDI (R195). -/
  | addi (i : BitVec 7) (a : BitVec 6) (d : BitVec 6) (n : BitVec 1) (p : BitVec 4)
  /-- ANDI (R195). -/
  | andi (i : BitVec 7) (a : BitVec 6) (d : BitVec 6) (n : BitVec 1) (p : BitVec 4)
  /-- ORI (R195). -/
  | ori (i : BitVec 7) (a : BitVec 6) (d : BitVec 6) (n : BitVec 1) (p : BitVec 4)
  /-- XORI (R195). -/
  | xori (i : BitVec 7) (a : BitVec 6) (d : BitVec 6) (n : BitVec 1) (p : BitVec 4)
  /-- SHLI (R195). -/
  | shli (i : BitVec 7) (a : BitVec 6) (d : BitVec 6) (n : BitVec 1) (p : BitVec 4)
  /-- SHRI (R195). -/
  | shri (i : BitVec 7) (a : BitVec 6) (d : BitVec 6) (n : BitVec 1) (p : BitVec 4)
  /-- SRAI (R195). -/
  | srai (i : BitVec 7) (a : BitVec 6) (d : BitVec 6) (n : BitVec 1) (p : BitVec 4)
  /-- MOVI (R196). -/
  | movi (i : BitVec 13) (d : BitVec 6) (n : BitVec 1) (p : BitVec 4)
  /-- MOVH (R196). -/
  | movh (i : BitVec 13) (d : BitVec 6) (n : BitVec 1) (p : BitVec 4)
  -- compares, predicates, bit operations (R197-R201)
  /-- CEQ (R199). -/
  | ceq (b : BitVec 6) (a : BitVec 6) (w : BitVec 1) (q : BitVec 4) (n : BitVec 1) (p : BitVec 4)
  /-- CNE (R199). -/
  | cne (b : BitVec 6) (a : BitVec 6) (w : BitVec 1) (q : BitVec 4) (n : BitVec 1) (p : BitVec 4)
  /-- CLT (R199). -/
  | clt (v : BitVec 1) (b : BitVec 6) (a : BitVec 6) (w : BitVec 1) (q : BitVec 4) (n : BitVec 1) (p : BitVec 4)
  /-- CLE (R199). -/
  | cle (v : BitVec 1) (b : BitVec 6) (a : BitVec 6) (w : BitVec 1) (q : BitVec 4) (n : BitVec 1) (p : BitVec 4)
  /-- PLOG (R200). -/
  | plog (b : BitVec 4) (u : BitVec 3) (a : BitVec 4) (d : BitVec 4) (n : BitVec 1) (p : BitVec 4)
  /-- PRD (R201). -/
  | prd (a : BitVec 4) (d : BitVec 6) (n : BitVec 1) (p : BitVec 4)
  /-- PWR (R201). -/
  | pwr (a : BitVec 6) (d : BitVec 4) (n : BitVec 1) (p : BitVec 4)
  /-- PSET (R201). -/
  | pset (d : BitVec 4) (n : BitVec 1) (p : BitVec 4)
  /-- PCLR (R201). -/
  | pclr (d : BitVec 4) (n : BitVec 1) (p : BitVec 4)
  /-- POPC (R197). -/
  | popc (l : BitVec 4) (a : BitVec 6) (d : BitVec 6) (n : BitVec 1) (p : BitVec 4)
  /-- CLZ (R197). -/
  | clz (l : BitVec 4) (a : BitVec 6) (d : BitVec 6) (n : BitVec 1) (p : BitVec 4)
  /-- CTZ (R197). -/
  | ctz (l : BitVec 4) (a : BitVec 6) (d : BitVec 6) (n : BitVec 1) (p : BitVec 4)
  /-- BREV (R197). -/
  | brev (l : BitVec 4) (a : BitVec 6) (d : BitVec 6) (n : BitVec 1) (p : BitVec 4)
  /-- BSWAP (R197). -/
  | bswap (l : BitVec 4) (a : BitVec 6) (d : BitVec 6) (n : BitVec 1) (p : BitVec 4)
  /-- SEXB (R197). -/
  | sexb (l : BitVec 4) (a : BitVec 6) (d : BitVec 6) (n : BitVec 1) (p : BitVec 4)
  /-- SEXH (R197). -/
  | sexh (l : BitVec 4) (a : BitVec 6) (d : BitVec 6) (n : BitVec 1) (p : BitVec 4)
  /-- MOVD (R197). -/
  | movd (l : BitVec 4) (a : BitVec 6) (d : BitVec 6) (n : BitVec 1) (p : BitVec 4)
  /-- BFE (R198). -/
  | bfe (v : BitVec 1) (b : BitVec 6) (a : BitVec 6) (d : BitVec 6) (n : BitVec 1) (p : BitVec 4)
  -- floating point, conversions, narrow formats (ch. 10)
  /-- FADD (R229). -/
  | fadd (v : BitVec 1) (b : BitVec 6) (a : BitVec 6) (d : BitVec 6) (n : BitVec 1) (p : BitVec 4)
  /-- FSUB (R229). -/
  | fsub (v : BitVec 1) (b : BitVec 6) (a : BitVec 6) (d : BitVec 6) (n : BitVec 1) (p : BitVec 4)
  /-- FMUL (R229). -/
  | fmul (v : BitVec 1) (b : BitVec 6) (a : BitVec 6) (d : BitVec 6) (n : BitVec 1) (p : BitVec 4)
  /-- FDIV (R229). -/
  | fdiv (v : BitVec 1) (b : BitVec 6) (a : BitVec 6) (d : BitVec 6) (n : BitVec 1) (p : BitVec 4)
  /-- FMIN (R229). -/
  | fmin (v : BitVec 1) (b : BitVec 6) (a : BitVec 6) (d : BitVec 6) (n : BitVec 1) (p : BitVec 4)
  /-- FMAX (R229). -/
  | fmax (v : BitVec 1) (b : BitVec 6) (a : BitVec 6) (d : BitVec 6) (n : BitVec 1) (p : BitVec 4)
  /-- FMAC (R230). -/
  | fmac (v : BitVec 1) (b : BitVec 6) (a : BitVec 6) (d : BitVec 6) (n : BitVec 1) (p : BitVec 4)
  /-- FNMAC (R230). -/
  | fnmac (v : BitVec 1) (b : BitVec 6) (a : BitVec 6) (d : BitVec 6) (n : BitVec 1) (p : BitVec 4)
  /-- HADD (R231). -/
  | hadd (v : BitVec 1) (b : BitVec 6) (a : BitVec 6) (d : BitVec 6) (n : BitVec 1) (p : BitVec 4)
  /-- HSUB (R231). -/
  | hsub (v : BitVec 1) (b : BitVec 6) (a : BitVec 6) (d : BitVec 6) (n : BitVec 1) (p : BitVec 4)
  /-- HMUL (R231). -/
  | hmul (v : BitVec 1) (b : BitVec 6) (a : BitVec 6) (d : BitVec 6) (n : BitVec 1) (p : BitVec 4)
  /-- HMAC (R231). -/
  | hmac (v : BitVec 1) (b : BitVec 6) (a : BitVec 6) (d : BitVec 6) (n : BitVec 1) (p : BitVec 4)
  /-- FCMP (R232). -/
  | fcmp (v : BitVec 1) (b : BitVec 6) (a : BitVec 6) (c : BitVec 2) (q : BitVec 4) (n : BitVec 1) (p : BitVec 4)
  /-- FRCP (R235). -/
  | frcp (l : BitVec 4) (a : BitVec 6) (d : BitVec 6) (n : BitVec 1) (p : BitVec 4)
  /-- FRSQ (R235). -/
  | frsq (l : BitVec 4) (a : BitVec 6) (d : BitVec 6) (n : BitVec 1) (p : BitVec 4)
  /-- FSQRT_F32 (R235). -/
  | fsqrtF32 (l : BitVec 4) (a : BitVec 6) (d : BitVec 6) (n : BitVec 1) (p : BitVec 4)
  /-- FEXP2 (R235). -/
  | fexp2 (l : BitVec 4) (a : BitVec 6) (d : BitVec 6) (n : BitVec 1) (p : BitVec 4)
  /-- FLOG2 (R235). -/
  | flog2 (l : BitVec 4) (a : BitVec 6) (d : BitVec 6) (n : BitVec 1) (p : BitVec 4)
  /-- FSIN (R235). -/
  | fsin (l : BitVec 4) (a : BitVec 6) (d : BitVec 6) (n : BitVec 1) (p : BitVec 4)
  /-- FCOS (R235). -/
  | fcos (l : BitVec 4) (a : BitVec 6) (d : BitVec 6) (n : BitVec 1) (p : BitVec 4)
  /-- FTANH (R235). -/
  | ftanh (l : BitVec 4) (a : BitVec 6) (d : BitVec 6) (n : BitVec 1) (p : BitVec 4)
  /-- FABS_F32 (R233). -/
  | fabsF32 (l : BitVec 4) (a : BitVec 6) (d : BitVec 6) (n : BitVec 1) (p : BitVec 4)
  /-- FNEG_F32 (R233). -/
  | fnegF32 (l : BitVec 4) (a : BitVec 6) (d : BitVec 6) (n : BitVec 1) (p : BitVec 4)
  /-- FABS_F64 (R233). -/
  | fabsF64 (l : BitVec 4) (a : BitVec 6) (d : BitVec 6) (n : BitVec 1) (p : BitVec 4)
  /-- FNEG_F64 (R233). -/
  | fnegF64 (l : BitVec 4) (a : BitVec 6) (d : BitVec 6) (n : BitVec 1) (p : BitVec 4)
  /-- FCLASS_F32 (R233). -/
  | fclassF32 (l : BitVec 4) (a : BitVec 6) (d : BitVec 6) (n : BitVec 1) (p : BitVec 4)
  /-- FCLASS_F64 (R233). -/
  | fclassF64 (l : BitVec 4) (a : BitVec 6) (d : BitVec 6) (n : BitVec 1) (p : BitVec 4)
  /-- FSQRT_F64 (R233). -/
  | fsqrtF64 (l : BitVec 4) (a : BitVec 6) (d : BitVec 6) (n : BitVec 1) (p : BitVec 4)
  /-- FSCALE (R234). -/
  | fscale (v : BitVec 1) (b : BitVec 6) (a : BitVec 6) (d : BitVec 6) (n : BitVec 1) (p : BitVec 4)
  /-- CVTF (R237). -/
  | cvtf (l : BitVec 4) (u : BitVec 3) (a : BitVec 6) (d : BitVec 6) (n : BitVec 1) (p : BitVec 4)
  /-- CVTI (R238). -/
  | cvti (l : BitVec 4) (u : BitVec 3) (a : BitVec 6) (d : BitVec 6) (n : BitVec 1) (p : BitVec 4)
  /-- QNT (R241). -/
  | qnt (v : BitVec 1) (b : BitVec 6) (a : BitVec 6) (d : BitVec 6) (n : BitVec 1) (p : BitVec 4)
  /-- DQNT (R242). -/
  | dqnt (v : BitVec 1) (b : BitVec 6) (a : BitVec 6) (d : BitVec 6) (n : BitVec 1) (p : BitVec 4)
  /-- PACK (R239). -/
  | pack (v : BitVec 1) (b : BitVec 6) (a : BitVec 6) (d : BitVec 6) (n : BitVec 1) (p : BitVec 4)
  /-- UNPK (R239). -/
  | unpk (l : BitVec 4) (u : BitVec 2) (a : BitVec 6) (d : BitVec 6) (n : BitVec 1) (p : BitVec 4)
  /-- MXSC (R243). -/
  | mxsc (l : BitVec 4) (u : BitVec 3) (a : BitVec 6) (d : BitVec 6) (n : BitVec 1) (p : BitVec 4)
  -- control, convergence, SPAWN, barriers, fences (R203-R210, R262, R263)
  /-- BR (R203). -/
  | br (d : BitVec 19) (n : BitVec 1) (p : BitVec 4)
  /-- CALL (R204). -/
  | call (d : BitVec 19) (n : BitVec 1) (p : BitVec 4)
  /-- JMP (R205). -/
  | jmp (l : BitVec 4) (a : BitVec 6) (n : BitVec 1) (p : BitVec 4)
  /-- CALLR (R204). -/
  | callr (l : BitVec 4) (a : BitVec 6) (d : BitVec 6) (n : BitVec 1) (p : BitVec 4)
  /-- RET (R205). -/
  | ret (l : BitVec 4) (a : BitVec 6) (n : BitVec 1) (p : BitVec 4)
  /-- REFORM (R206). -/
  | reform (n : BitVec 1) (p : BitVec 4)
  /-- ENROL (R206). -/
  | enrol (j : BitVec 2) (n : BitVec 1) (p : BitVec 4)
  /-- PARK (R206). -/
  | park (j : BitVec 2) (n : BitVec 1) (p : BitVec 4)
  /-- STRIKE (R206). -/
  | strike (j : BitVec 2) (n : BitVec 1) (p : BitVec 4)
  /-- EXIT (R207). -/
  | exit (n : BitVec 1) (p : BitVec 4)
  /-- NOP (R206). -/
  | nop (n : BitVec 1) (p : BitVec 4)
  /-- SAFEPT (R209). -/
  | safept (k : BitVec 3) (f : BitVec 1) (c : BitVec 5) (n : BitVec 1) (p : BitVec 4)
  /-- SPAWN (R210). -/
  | spawn (x : BitVec 4) (a : BitVec 6) (d : BitVec 6) (n : BitVec 1) (p : BitVec 4)
  /-- BAR (R262). -/
  | bar (c : BitVec 3) (n : BitVec 1) (p : BitVec 4)
  /-- GBAR (R262). -/
  | gbar (c : BitVec 3) (n : BitVec 1) (p : BitVec 4)
  /-- FENCE_IO (R121). -/
  | fenceIo (n : BitVec 1) (p : BitVec 4)
  /-- CODEPUB (R120). -/
  | codepub (a : BitVec 6) (d : BitVec 6) (n : BitVec 1) (p : BitVec 4)
  /-- ISYNC (R120). -/
  | isync (n : BitVec 1) (p : BitVec 4)
  -- cross-lane (R212-R220)
  /-- QX_H (R212). -/
  | qxH (l : BitVec 4) (a : BitVec 6) (d : BitVec 6) (n : BitVec 1) (p : BitVec 4)
  /-- QX_V (R212). -/
  | qxV (l : BitVec 4) (a : BitVec 6) (d : BitVec 6) (n : BitVec 1) (p : BitVec 4)
  /-- QX_D (R212). -/
  | qxD (l : BitVec 4) (a : BitVec 6) (d : BitVec 6) (n : BitVec 1) (p : BitVec 4)
  /-- QBC (R212). -/
  | qbc (l : BitVec 4) (k : BitVec 2) (a : BitVec 6) (d : BitVec 6) (n : BitVec 1) (p : BitVec 4)
  /-- PERM (R214). -/
  | perm (b : BitVec 6) (a : BitVec 6) (d : BitVec 6) (n : BitVec 1) (p : BitVec 4)
  /-- SHFL (R215). -/
  | shfl (m : BitVec 2) (k : BitVec 5) (a : BitVec 6) (d : BitVec 6) (n : BitVec 1) (p : BitVec 4)
  /-- VOTE (R216). -/
  | vote (l : BitVec 4) (u : BitVec 2) (a : BitVec 6) (d : BitVec 6) (n : BitVec 1) (p : BitVec 4)
  /-- CRED (R217). -/
  | cred (l : BitVec 4) (u : BitVec 3) (a : BitVec 6) (d : BitVec 6) (n : BitVec 1) (p : BitVec 4)
  /-- CREDF (R218). -/
  | credf (l : BitVec 4) (u : BitVec 3) (a : BitVec 6) (d : BitVec 6) (n : BitVec 1) (p : BitVec 4)
  /-- CSCAN (R219). -/
  | cscan (l : BitVec 4) (u : BitVec 3) (a : BitVec 6) (d : BitVec 6) (n : BitVec 1) (p : BitVec 4)
  /-- BLUT (R220). -/
  | blut (v : BitVec 1) (k : BitVec 1) (a : BitVec 6) (d : BitVec 6) (n : BitVec 1) (p : BitVec 4)
  -- crew-uniform scalar unit (R179)
  /-- KADD (R179). -/
  | kadd (w : BitVec 1) (b : BitVec 5) (a : BitVec 5) (d : BitVec 5) (n : BitVec 1) (p : BitVec 4)
  /-- KSUB (R179). -/
  | ksub (w : BitVec 1) (b : BitVec 5) (a : BitVec 5) (d : BitVec 5) (n : BitVec 1) (p : BitVec 4)
  /-- KADDI (R179). -/
  | kaddi (i : BitVec 7) (a : BitVec 5) (d : BitVec 5) (n : BitVec 1) (p : BitVec 4)
  /-- KMOVI (R179). -/
  | kmovi (i : BitVec 13) (d : BitVec 5) (n : BitVec 1) (p : BitVec 4)
  /-- KMOVH (R179). -/
  | kmovh (i : BitVec 13) (d : BitVec 5) (n : BitVec 1) (p : BitVec 4)
  /-- KLD (R179). -/
  | kld (l : BitVec 4) (b : BitVec 3) (o : BitVec 3) (w : BitVec 1) (k : BitVec 5) (n : BitVec 1) (p : BitVec 4)
  /-- KST (R179). -/
  | kst (l : BitVec 4) (b : BitVec 3) (o : BitVec 3) (w : BitVec 1) (k : BitVec 5) (n : BitVec 1) (p : BitVec 4)
  /-- KFIRST (R179). -/
  | kfirst (l : BitVec 4) (a : BitVec 6) (d : BitVec 5) (n : BitVec 1) (p : BitVec 4)
  -- memory, tags, atomics, capability memory (ch. 11)
  /-- LD_B (R251). -/
  | ldB (l : BitVec 4) (b : BitVec 3) (o : BitVec 6) (d : BitVec 6) (n : BitVec 1) (p : BitVec 4)
  /-- LD_H (R251). -/
  | ldH (l : BitVec 4) (b : BitVec 3) (o : BitVec 6) (d : BitVec 6) (n : BitVec 1) (p : BitVec 4)
  /-- LD_W (R251). -/
  | ldW (l : BitVec 4) (b : BitVec 3) (o : BitVec 6) (d : BitVec 6) (n : BitVec 1) (p : BitVec 4)
  /-- LD_D (R251). -/
  | ldD (l : BitVec 4) (b : BitVec 3) (o : BitVec 6) (d : BitVec 6) (n : BitVec 1) (p : BitVec 4)
  /-- LD_Q (R251). -/
  | ldQ (l : BitVec 4) (b : BitVec 3) (o : BitVec 6) (d : BitVec 3) (n : BitVec 1) (p : BitVec 4)
  /-- ST_B (R251). -/
  | stB (l : BitVec 4) (b : BitVec 3) (o : BitVec 6) (d : BitVec 6) (n : BitVec 1) (p : BitVec 4)
  /-- ST_H (R251). -/
  | stH (l : BitVec 4) (b : BitVec 3) (o : BitVec 6) (d : BitVec 6) (n : BitVec 1) (p : BitVec 4)
  /-- ST_W (R251). -/
  | stW (l : BitVec 4) (b : BitVec 3) (o : BitVec 6) (d : BitVec 6) (n : BitVec 1) (p : BitVec 4)
  /-- ST_D (R251). -/
  | stD (l : BitVec 4) (b : BitVec 3) (o : BitVec 6) (d : BitVec 6) (n : BitVec 1) (p : BitVec 4)
  /-- ST_Q (R251). -/
  | stQ (l : BitVec 4) (b : BitVec 3) (o : BitVec 6) (d : BitVec 3) (n : BitVec 1) (p : BitVec 4)
  /-- LDF (R252). -/
  | ldf (c : BitVec 3) (l : BitVec 1) (b : BitVec 3) (o : BitVec 6) (d : BitVec 6) (n : BitVec 1) (p : BitVec 4)
  /-- LDFK (R252). -/
  | ldfk (c : BitVec 3) (l : BitVec 1) (b : BitVec 3) (o : BitVec 6) (d : BitVec 6) (n : BitVec 1) (p : BitVec 4)
  /-- STE (R252). -/
  | ste (c : BitVec 3) (l : BitVec 1) (b : BitVec 3) (o : BitVec 6) (d : BitVec 6) (n : BitVec 1) (p : BitVec 4)
  /-- STF (R252). -/
  | stf (c : BitVec 3) (l : BitVec 1) (b : BitVec 3) (o : BitVec 6) (d : BitVec 6) (n : BitVec 1) (p : BitVec 4)
  /-- SETE (R252). -/
  | sete (c : BitVec 3) (l : BitVec 1) (b : BitVec 3) (o : BitVec 6) (n : BitVec 1) (p : BitVec 4)
  /-- WAITV (R252). -/
  | waitv (c : BitVec 3) (l : BitVec 1) (b : BitVec 3) (o : BitVec 6) (d : BitVec 6) (n : BitVec 1) (p : BitVec 4)
  /-- ATOM_INT_W (R256). -/
  | atomIntW (c : BitVec 3) (l : BitVec 1) (u : BitVec 3) (a : BitVec 4) (d : BitVec 6) (n : BitVec 1) (p : BitVec 4)
  /-- ATOM_INT_D (R256). -/
  | atomIntD (c : BitVec 3) (l : BitVec 1) (u : BitVec 3) (a : BitVec 4) (d : BitVec 6) (n : BitVec 1) (p : BitVec 4)
  /-- ATOM_SWAP (R256). -/
  | atomSwap (c : BitVec 3) (l : BitVec 1) (w : BitVec 1) (a : BitVec 4) (d : BitVec 6) (n : BitVec 1) (p : BitVec 4)
  /-- ATOM_CAS (R257). -/
  | atomCas (c : BitVec 3) (l : BitVec 1) (w : BitVec 1) (a : BitVec 4) (d : BitVec 6) (n : BitVec 1) (p : BitVec 4)
  /-- ATOM_FADD (R256). -/
  | atomFadd (c : BitVec 3) (l : BitVec 1) (w : BitVec 1) (a : BitVec 4) (d : BitVec 6) (n : BitVec 1) (p : BitVec 4)
  /-- ATOM_FMIN_F32 (R256). -/
  | atomFminF32 (c : BitVec 3) (l : BitVec 1) (a : BitVec 4) (d : BitVec 6) (n : BitVec 1) (p : BitVec 4)
  /-- ATOM_FMAX_F32 (R256). -/
  | atomFmaxF32 (c : BitVec 3) (l : BitVec 1) (a : BitVec 4) (d : BitVec 6) (n : BitVec 1) (p : BitVec 4)
  /-- RED_INT_W (R255). -/
  | redIntW (c : BitVec 3) (l : BitVec 1) (u : BitVec 3) (a : BitVec 4) (d : BitVec 6) (n : BitVec 1) (p : BitVec 4)
  /-- RED_INT_D (R255). -/
  | redIntD (c : BitVec 3) (l : BitVec 1) (u : BitVec 3) (a : BitVec 4) (d : BitVec 6) (n : BitVec 1) (p : BitVec 4)
  /-- RED_FLOAT (R255). -/
  | redFloat (c : BitVec 3) (l : BitVec 1) (u : BitVec 3) (a : BitVec 4) (d : BitVec 6) (n : BitVec 1) (p : BitVec 4)
  /-- CAPLD (R264). -/
  | capld (l : BitVec 4) (b : BitVec 3) (o : BitVec 6) (c : BitVec 3) (n : BitVec 1) (p : BitVec 4)
  /-- CAPST (R264). -/
  | capst (l : BitVec 4) (b : BitVec 3) (o : BitVec 6) (c : BitVec 3) (n : BitVec 1) (p : BitVec 4)
  -- index registers, names, remote access, capabilities
  /-- XSET (R211). -/
  | xset (l : BitVec 4) (a : BitVec 6) (x : BitVec 3) (n : BitVec 1) (p : BitVec 4)
  /-- XGET (R211). -/
  | xget (l : BitVec 4) (x : BitVec 3) (d : BitVec 6) (n : BitVec 1) (p : BitVec 4)
  /-- XSTEP (R211). -/
  | xstep (l : BitVec 4) (a : BitVec 6) (x : BitVec 3) (n : BitVec 1) (p : BitVec 4)
  /-- XCUR (R211). -/
  | xcur (l : BitVec 4) (a : BitVec 6) (x : BitVec 3) (n : BitVec 1) (p : BitVec 4)
  /-- PUTREG (R271). -/
  | putreg (v : BitVec 1) (c : BitVec 3) (a : BitVec 6) (t : BitVec 5) (n : BitVec 1) (p : BitVec 4)
  /-- HOLD (R270). -/
  | hold (l : BitVec 4) (d : BitVec 6) (n : BitVec 1) (p : BitVec 4)
  /-- GNAME (R269). -/
  | gname (l : BitVec 4) (c : BitVec 3) (n : BitVec 1) (p : BitVec 4)
  /-- SJOIN (R276). -/
  | sjoin (l : BitVec 4) (a : BitVec 6) (n : BitVec 1) (p : BitVec 4)
  /-- SLEAVE (R276). -/
  | sleave (l : BitVec 4) (a : BitVec 6) (n : BitVec 1) (p : BitVec 4)
  /-- SMAP (R276). -/
  | smap (l : BitVec 4) (a : BitVec 4) (t : BitVec 6) (n : BitVec 1) (p : BitVec 4)
  /-- LDC (R268). -/
  | ldc (w : BitVec 3) (l : BitVec 1) (c : BitVec 3) (o : BitVec 6) (d : BitVec 6) (n : BitVec 1) (p : BitVec 4)
  /-- STC (R268). -/
  | stc (w : BitVec 3) (l : BitVec 1) (c : BitVec 3) (o : BitVec 6) (d : BitVec 6) (n : BitVec 1) (p : BitVec 4)
  /-- AMOC (R268). -/
  | amoc (c : BitVec 3) (u : BitVec 3) (o : BitVec 6) (d : BitVec 6) (n : BitVec 1) (p : BitVec 4)
  /-- AMOC_RED (R268). -/
  | amocRed (c : BitVec 3) (u : BitVec 3) (o : BitVec 6) (d : BitVec 6) (n : BitVec 1) (p : BitVec 4)
  /-- CAPSET_A (R265). -/
  | capsetA (l : BitVec 4) (a : BitVec 6) (s : BitVec 3) (d : BitVec 3) (n : BitVec 1) (p : BitVec 4)
  /-- CAPSET_B (R266). -/
  | capsetB (l : BitVec 4) (a : BitVec 6) (s : BitVec 3) (d : BitVec 3) (n : BitVec 1) (p : BitVec 4)
  /-- CAPSET_P (R265). -/
  | capsetP (l : BitVec 4) (a : BitVec 6) (s : BitVec 3) (d : BitVec 3) (n : BitVec 1) (p : BitVec 4)
  /-- CAPSET_SEAL (R265). -/
  | capsetSeal (l : BitVec 4) (s : BitVec 3) (d : BitVec 3) (n : BitVec 1) (p : BitVec 4)
  /-- CAPRD (R267). -/
  | caprd (l : BitVec 4) (a : BitVec 6) (s : BitVec 3) (k : BitVec 3) (n : BitVec 1) (p : BitVec 4)
  -- chutes, engines, windows, benches (ch. 12, 13)
  /-- CHDEF (R280). -/
  | chdef (l : BitVec 4) (a : BitVec 6) (c : BitVec 5) (n : BitVec 1) (p : BitVec 4)
  /-- CHPUSH (R280). -/
  | chpush (l : BitVec 4) (a : BitVec 6) (c : BitVec 5) (n : BitVec 1) (p : BitVec 4)
  /-- CHTAKE (R280). -/
  | chtake (l : BitVec 4) (c : BitVec 5) (n : BitVec 1) (p : BitVec 4)
  /-- COPY (R286). -/
  | copy (l : BitVec 4) (a : BitVec 6) (f : BitVec 1) (t : BitVec 1) (n : BitVec 1) (p : BitVec 4)
  /-- RETILE (R287). -/
  | retile (l : BitVec 4) (a : BitVec 6) (f : BitVec 1) (n : BitVec 1) (p : BitVec 4)
  /-- GATH (R288). -/
  | gath (l : BitVec 4) (a : BitVec 6) (f : BitVec 1) (n : BitVec 1) (p : BitVec 4)
  /-- CHAIN (R289). -/
  | chain (l : BitVec 4) (a : BitVec 6) (f : BitVec 1) (n : BitVec 1) (p : BitVec 4)
  /-- COLL (R291). -/
  | coll (l : BitVec 4) (a : BitVec 6) (f : BitVec 1) (n : BitVec 1) (p : BitVec 4)
  /-- WOPEN (R259). -/
  | wopen (l : BitVec 4) (a : BitVec 6) (d : BitVec 6) (n : BitVec 1) (p : BitVec 4)
  /-- WFINAL (R260). -/
  | wfinal (l : BitVec 4) (a : BitVec 6) (n : BitVec 1) (p : BitVec 4)
  /-- BKLOAD (R320). -/
  | bkload (l : BitVec 4) (a : BitVec 6) (d : BitVec 6) (n : BitVec 1) (p : BitVec 4)
  /-- BKVEC (R320). -/
  | bkvec (l : BitVec 4) (a : BitVec 6) (d : BitVec 6) (n : BitVec 1) (p : BitVec 4)
  /-- BKRUN (R320). -/
  | bkrun (l : BitVec 4) (a : BitVec 6) (d : BitVec 6) (n : BitVec 1) (p : BitVec 4)
  /-- BKDRAIN (R320). -/
  | bkdrain (l : BitVec 4) (a : BitVec 6) (d : BitVec 6) (n : BitVec 1) (p : BitVec 4)
  /-- OWNB (R320). -/
  | ownb (l : BitVec 4) (a : BitVec 6) (d : BitVec 6) (n : BitVec 1) (p : BitVec 4)
  /-- OWNC (R320). -/
  | ownc (l : BitVec 4) (a : BitVec 6) (d : BitVec 6) (n : BitVec 1) (p : BitVec 4)
  -- tile sequencer (R296-R304)
  /-- MRES (R298). -/
  | mres (s : BitVec 4) (h : BitVec 4) (n : BitVec 1)
  /-- MREL (R298). -/
  | mrel (h : BitVec 4) (n : BitVec 1)
  /-- MLOAD (R299). -/
  | mload (s : BitVec 4) (h : BitVec 4) (n : BitVec 1)
  /-- MCHIN (R299). -/
  | mchin (s : BitVec 4) (h : BitVec 4) (n : BitVec 1)
  /-- MMA (R300). -/
  | mma (v : BitVec 1) (b : BitVec 4) (a : BitVec 4) (c : BitVec 3) (n : BitVec 1)
  /-- MZERO (R303). -/
  | mzero (c : BitVec 3) (n : BitVec 1)
  /-- MOUT (R303). -/
  | mout (s : BitVec 4) (c : BitVec 3) (n : BitVec 1)
  /-- MSTORE (R303). -/
  | mstore (s : BitVec 4) (c : BitVec 3) (n : BitVec 1)
  -- system (R347, R399, R221)
  /-- TRAP (R399). -/
  | trap (k : BitVec 6) (n : BitVec 1) (p : BitVec 4)
  /-- TRET (R399). -/
  | tret (n : BitVec 1) (p : BitVec 4)
  /-- TRET_NEXT (R399). -/
  | tretNext (n : BitVec 1) (p : BitVec 4)
  /-- BRK (R399). -/
  | brk (k : BitVec 6) (n : BitVec 1) (p : BitVec 4)
  /-- TICKET (R347). -/
  | ticket (a : BitVec 4) (d : BitVec 6) (n : BitVec 1) (p : BitVec 4)
  /-- MFS (R221). -/
  | mfs (k : BitVec 7) (d : BitVec 6) (n : BitVec 1) (p : BitVec 4)
  /-- MTS (R221). -/
  | mts (k : BitVec 7) (a : BitVec 6) (n : BitVec 1) (p : BitVec 4)
  -- 16-bit forms (R180)
  /-- ADD_16 (R180). -/
  | add16 (b : BitVec 5) (d : BitVec 6)
  /-- SUB_16 (R180). -/
  | sub16 (b : BitVec 5) (d : BitVec 6)
  /-- MUL_16 (R180). -/
  | mul16 (b : BitVec 5) (d : BitVec 6)
  /-- AND_16 (R180). -/
  | and16 (b : BitVec 5) (d : BitVec 6)
  /-- OR_16 (R180). -/
  | or16 (b : BitVec 5) (d : BitVec 6)
  /-- XOR_16 (R180). -/
  | xor16 (b : BitVec 5) (d : BitVec 6)
  /-- SHL_16 (R180). -/
  | shl16 (b : BitVec 5) (d : BitVec 6)
  /-- SHR_16 (R180). -/
  | shr16 (b : BitVec 5) (d : BitVec 6)
  /-- SRA_16 (R180). -/
  | sra16 (b : BitVec 5) (d : BitVec 6)
  /-- MOV_16 (R180). -/
  | mov16 (b : BitVec 5) (d : BitVec 6)
  /-- MIN_16 (R180). -/
  | min16 (b : BitVec 5) (d : BitVec 6)
  /-- MAX_16 (R180). -/
  | max16 (b : BitVec 5) (d : BitVec 6)
  /-- FADD_16 (R180). -/
  | fadd16 (b : BitVec 5) (d : BitVec 6)
  /-- FMUL_16 (R180). -/
  | fmul16 (b : BitVec 5) (d : BitVec 6)
  /-- FMAD_16 (R180). -/
  | fmad16 (b : BitVec 5) (d : BitVec 6)
  /-- FMAX_16 (R180). -/
  | fmax16 (b : BitVec 5) (d : BitVec 6)
  -- bench program words (R311-R315)
  /-- FD (R313). -/
  | fd (g : BitVec 2) (a : BitVec 16) (w : BitVec 8)
  /-- FS (R313). -/
  | fs (b : BitVec 2) (q : BitVec 1) (z : BitVec 1) (a : BitVec 16) (w : BitVec 8)
  /-- MAC (R314). -/
  | mac (f : BitVec 8) (y : BitVec 2) (g : BitVec 2) (e : BitVec 3) (z : BitVec 1) (w : BitVec 8)
  /-- YZERO (R314). -/
  | yzero (f : BitVec 8) (y : BitVec 2) (w : BitVec 8)
  /-- PUSH (R315). -/
  | push (f : BitVec 8) (a : BitVec 16) (y : BitVec 2)
  /-- NEXT (R315). -/
  | next (f : BitVec 8) (a : BitVec 16)
  /-- PUSHN (R315). -/
  | pushn (f : BitVec 8) (a : BitVec 16) (y : BitVec 2)
  -- steps and events that have no encoding; the operands are the model's own
  /-- TAIL_REGISTER_WRITE (R339). -/
  | tailRegisterWrite (q : BitVec 10) (val : BitVec 64)
  /-- REGISTER_WRITE (R370). -/
  | registerWrite (off : BitVec 30) (wide : BitVec 1) (val : BitVec 64)
  /-- PUT_DELIVERY (R272). -/
  | putDelivery (src : BitVec 10) (tag : BitVec 12) (name : BitVec 32) (thread : BitVec 10) (reg : BitVec 5) (wide : BitVec 1) (data : BitVec 64) (ts : BitVec 64)
  /-- REMOTE_REQUEST (R366). -/
  | remoteRequest (hdr : BitVec 256) (offs : BitVec 512) (data : BitVec 4096)
  /-- PLACEMENT_REPLY (R114). -/
  | placementReply (die : BitVec 1) (tag : BitVec 12) (status : BitVec 5) (ts : BitVec 64) (mask : BitVec 32) (data : BitVec 4096)
  /-- PREPARE (R353). -/
  | prepare (coord : BitVec 10) (id : BitVec 42) (part : BitVec 6) (ctx : BitVec 16) (addr : BitVec 64) (timeout : BitVec 32)
  /-- READY (R353). -/
  | ready (id : BitVec 42) (part : BitVec 6) (ts : BitVec 64)
  /-- REFUSE (R353). -/
  | refuse (id : BitVec 42) (part : BitVec 6)
  /-- COMMIT (R353). -/
  | commit (coord : BitVec 10) (id : BitVec 42) (part : BitVec 6) (ts : BitVec 64)
  /-- ABORT (R353). -/
  | abort (coord : BitVec 10) (id : BitVec 42) (part : BitVec 6)
  /-- PART_DONE_REPORT (R447). -/
  | partDoneReport (id : BitVec 42) (part : BitVec 6) (status : BitVec 15)
  /-- PAGE_FILL_COMPLETE (R433). -/
  | pageFillComplete (pte : BitVec 52)
  /-- COMMAND_COMPLETE (R354). -/
  | commandComplete (q : BitVec 10) (i : BitVec 32)
  /-- SPAWN_BIN_AGEING (R38). -/
  | spawnBinAgeing (q : BitVec 10) (i : BitVec 32)
  /-- PROTOCOL_VALIDATION_DONE (R129). -/
  | protocolValidationDone (slot : BitVec 3)
  /-- FILL_LINE_LANDS (R89). -/
  | fillLineLands (line : BitVec 45)
  /-- CXL_MEM_REQUEST (R368). -/
  | cxlMemRequest (agent : BitVec 9) (write : BitVec 1) (addr : BitVec 52) (mask : BitVec 64) (data : BitVec 512)
  /-- GETS (R132). -/
  | gets (agent : BitVec 9) (line : BitVec 45) (pt : BitVec 64)
  /-- GETX (R132). -/
  | getx (agent : BitVec 9) (line : BitVec 45) (pt : BitVec 64) (off : BitVec 7) (size : BitVec 3) (op : BitVec 8) (data : BitVec 128)
  /-- UPG (R132). -/
  | upg (agent : BitVec 9) (line : BitVec 45) (pt : BitVec 64) (off : BitVec 7) (size : BitVec 3) (op : BitVec 8) (data : BitVec 128)
  /-- PUTX (R132). -/
  | putx (agent : BitVec 9) (line : BitVec 45)
  /-- INVACK (R132). -/
  | invack (agent : BitVec 9) (line : BitVec 45)
  /-- UNCORRECTABLE_ERROR (R425). -/
  | uncorrectableError (unit : BitVec 4) (id : BitVec 32) (addr : BitVec 52)
  /-- SENSOR_REFRESH (R378). -/
  | sensorRefresh (die : BitVec 1) (watts : BitVec 16) (temp : BitVec 8)
  /-- PORT_DOWN (R440). -/
  | portDown (port : BitVec 7)
  /-- WAITFOR_REEVALUATE (R342). -/
  | waitforReevaluate (q : BitVec 10) (i : BitVec 32)
  /-- DETOUR_FORWARD (R361). -/
  | detourForward (hdr : BitVec 256) (offs : BitVec 512) (data : BitVec 4096)
  /-- MGOVSTAT_CLEAR (R370). -/
  | mgovstatClear (cluster : BitVec 7) (val : BitVec 32)
  /-- BUNDLE_DRAW (R29). -/
  | bundleDraw (core : BitVec 9) (pipe : BitVec 1)
  /-- BIN_AGEING_LIMIT (R29). -/
  | binAgeingLimit (core : BitVec 9) (bin : BitVec 32)
  /-- LANE_CHOICE_LIMIT (R23). -/
  | laneChoiceLimit (core : BitVec 9) (slot : BitVec 6) (quad : BitVec 3)
  /-- SCHEDULER_WAIT_SATISFIED (R44). -/
  | schedulerWaitSatisfied (core : BitVec 9) (slot : BitVec 6) (lane : BitVec 5)
  /-- CREW_SAVE (R40). -/
  | crewSave (core : BitVec 9) (slot : BitVec 6)
  /-- FORCED_SAVE (R42). -/
  | forcedSave (core : BitVec 9) (slot : BitVec 6)
  /-- PROGRAM_TIME_TICK (R109). -/
  | programTimeTick
  /-- PUTS (R132). -/
  | puts (agent : BitVec 9) (line : BitVec 45)
  /-- PUTC (R132). -/
  | putc (agent : BitVec 9) (line : BitVec 45)
  /-- ATOMIC (R132). -/
  | atomic (agent : BitVec 9) (line : BitVec 45) (pt : BitVec 64) (off : BitVec 7) (size : BitVec 3) (op : BitVec 8) (data : BitVec 128)
  /-- WRITE (R132). -/
  | write (agent : BitVec 9) (line : BitVec 45) (pt : BitVec 64) (data : BitVec 1024)
  /-- RENEW (R132). -/
  | renew (agent : BitVec 9) (line : BitVec 45) (pt : BitVec 64)
  /-- RECALL (R132). -/
  | recall (line : BitVec 45)
  /-- FWDDATA (R132). -/
  | fwddata (agent : BitVec 9) (line : BitVec 45)
  /-- FWDNACK (R132). -/
  | fwdnack (agent : BitVec 9) (line : BitVec 45)
  /-- MEMDATA (R132). -/
  | memdata (line : BitVec 45)
  /-- MEMACK (R132). -/
  | memack (line : BitVec 45)
  /-- ACKZERO (R132). -/
  | ackzero (line : BitVec 45)
  /-- UPDACK (R132). -/
  | updack (agent : BitVec 9) (line : BitVec 45)
  /-- POISONED (R427). -/
  | poisoned (line : BitVec 45)
  /-- AGENTLOST (R427). -/
  | agentlost (agent : BitVec 9) (line : BitVec 45)
  /-- TIMEOUT (R426). -/
  | timeout (line : BitVec 45)
  /-- MESSAGE_RESEND (R426). -/
  | messageResend (line : BitVec 45)
  /-- DEFERRED_REQUEST (R125). -/
  | deferredRequest (line : BitVec 45)
  /-- INV (R135). -/
  | inv (agent : BitVec 9) (line : BitVec 45)
  /-- FWDS (R135). -/
  | fwds (agent : BitVec 9) (line : BitVec 45)
  /-- FWDX (R135). -/
  | fwdx (agent : BitVec 9) (line : BitVec 45)
  /-- UPD (R135). -/
  | upd (agent : BitVec 9) (line : BitVec 45)
  /-- PUBLISH_REQUEST (R140). -/
  | publishRequest (line : BitVec 45)
  /-- CHUTE_ACQUIRE (R279). -/
  | chuteAcquire (cluster : BitVec 7) (chute : BitVec 5)
  /-- COPY_FIRING (R286). -/
  | copyFiring (cluster : BitVec 7) (place : BitVec 6)
  /-- RETILE_RUN (R287). -/
  | retileRun (cluster : BitVec 7) (place : BitVec 6)
  /-- GATH_FIRING (R288). -/
  | gathFiring (cluster : BitVec 7) (place : BitVec 6)
  /-- CHAIN_FIRING (R290). -/
  | chainFiring (cluster : BitVec 7) (place : BitVec 6)
  /-- COLL_FIRING (R291). -/
  | collFiring (cluster : BitVec 7) (place : BitVec 6)
  /-- WFINAL_WRITER (R260). -/
  | wfinalWriter (win : BitVec 8)
  /-- SLOT_FILL_DONE (R299). -/
  | slotFillDone (cluster : BitVec 7) (h : BitVec 4) (slot : BitVec 11)
  /-- MATRIX_QUEUE_START (R302). -/
  | matrixQueueStart (cluster : BitVec 7)
  /-- MGOV_WINDOW (R307). -/
  | mgovWindow (die : BitVec 1)
  /-- TILE_SEQUENCER_SAVE (R295). -/
  | tileSequencerSave (cluster : BitVec 7)
  /-- BENCH_COMMAND_START (R322). -/
  | benchCommandStart (entry : BitVec 5)
  /-- BENCH_COMMAND_COMPLETE (R322). -/
  | benchCommandComplete (entry : BitVec 5)
  /-- BENCH_ROUND (R324). -/
  | benchRound (stack : BitVec 4)
  /-- COLUMN_COMMAND (R324). -/
  | columnCommand (stack : BitVec 4)
  /-- BENCH_REFRESH (R331). -/
  | benchRefresh (stack : BitVec 4)
  /-- DRAIN_PATH_CYCLE (R333). -/
  | drainPathCycle (stack : BitVec 4)
  /-- DRAIN_ENTRY_ARRIVAL (R334). -/
  | drainEntryArrival (die : BitVec 1)
  /-- BENCH_GOVERNOR_WINDOW (R380). -/
  | benchGovernorWindow (stack : BitVec 4)
  /-- SLAB_TO_BANK (R326). -/
  | slabToBank (slab : BitVec 22)
  /-- SLAB_TO_CORE (R326). -/
  | slabToCore (slab : BitVec 22)
  /-- BENCH_PARITY_ERROR (R448). -/
  | benchParityError (entry : BitVec 5)
  /-- PACKET_RESEND (R441). -/
  | packetResend (die : BitVec 1) (tag : BitVec 12)
  /-- PORT_UP (R440). -/
  | portUp (port : BitVec 7)
  /-- HOST_SNOOP (R135). -/
  | hostSnoop (line : BitVec 45)
  /-- HOST_AGENT_LOST (R426). -/
  | hostAgentLost (die : BitVec 1)
  /-- RECONCILE_PASS (R340). -/
  | reconcilePass
  /-- LAUNCH (R344). -/
  | launch (q : BitVec 10) (i : BitVec 32)
  /-- GANGLAUNCH (R353). -/
  | ganglaunch (q : BitVec 10) (i : BitVec 32)
  /-- SIGNAL (R342). -/
  | signal (q : BitVec 10) (i : BitVec 32)
  /-- WAITFOR (R342). -/
  | waitfor (q : BitVec 10) (i : BitVec 32)
  /-- HINTS (R342). -/
  | hints (q : BitVec 10) (i : BitVec 32)
  /-- PREEMPT_YIELD (R342). -/
  | preemptYield (q : BitVec 10) (i : BitVec 32)
  /-- PREEMPT_HOLD (R342). -/
  | preemptHold (q : BitVec 10) (i : BitVec 32)
  /-- PREEMPT_RELEASE (R342). -/
  | preemptRelease (q : BitVec 10) (i : BitVec 32)
  /-- CONTEXT (R437). -/
  | context (q : BitVec 10) (i : BitVec 32)
  /-- CTXFREE (R342). -/
  | ctxfree (q : BitVec 10) (i : BitVec 32)
  /-- QCREATE (R345). -/
  | qcreate (q : BitVec 10) (i : BitVec 32)
  /-- QFREE (R342). -/
  | qfree (q : BitVec 10) (i : BitVec 32)
  /-- SLICECFG (R84). -/
  | slicecfg (q : BitVec 10) (i : BitVec 32)
  /-- RANGE (R127). -/
  | range (q : BitVec 10) (i : BitVec 32)
  /-- PROTLOAD (R129). -/
  | protload (q : BitVec 10) (i : BitVec 32)
  /-- PROTFREE (R129). -/
  | protfree (q : BitVec 10) (i : BitVec 32)
  /-- GOVCFG (R342). -/
  | govcfg (q : BitVec 10) (i : BitVec 32)
  /-- CAPMINT (R343). -/
  | capmint (q : BitVec 10) (i : BitVec 32)
  /-- PLACEMENT_PASS (R349). -/
  | placementPass
  /-- PLACEMENT_PASS_TIMER (R348). -/
  | placementPassTimer
  /-- HEAD_AGE_BAR (R351). -/
  | headAgeBar
  /-- FIRMWARE_MESSAGE_RESEND (R447). -/
  | firmwareMessageResend (id : BitVec 42) (part : BitVec 6)
  /-- GANGLAUNCH_PHASE_ONE_TIMEOUT (R353). -/
  | ganglaunchPhaseOneTimeout (q : BitVec 10) (i : BitVec 32)
  /-- PART_RESERVATION_EXPIRY (R447). -/
  | partReservationExpiry (coord : BitVec 10) (id : BitVec 42) (part : BitVec 6)
  /-- PART_UNREACHABLE_TIMEOUT (R447). -/
  | partUnreachableTimeout (q : BitVec 10) (i : BitVec 32) (part : BitVec 6)
  /-- LAUNCH_WATCHDOG (R450). -/
  | launchWatchdog (q : BitVec 10) (i : BitVec 32)
  /-- FIRMWARE_CREW_RESTART (R451). -/
  | firmwareCrewRestart (core : BitVec 9) (err : BitVec 1)
  /-- CREW_DIVERGENCE_DEADLOCK (R409). -/
  | crewDivergenceDeadlock (core : BitVec 9) (slot : BitVec 6)
  /-- CORRECTION_SUMMARY (R419). -/
  | correctionSummary (unit : BitVec 4) (die : BitVec 1) (id : BitVec 32) (addr : BitVec 52) (count : BitVec 16)
  /-- PATROL_SCRUB (R416). -/
  | patrolScrub (granule : BitVec 48) (bad : BitVec 1)
  /-- BOOTCTL_GO (R374). -/
  | bootctlGo
  /-- BRINGUP_PHASE_COMPLETE (R374). -/
  | bringupPhaseComplete
  /-- ATTGO (R377). -/
  | attgo (val : BitVec 32)
  /-- ATTESTATION_REPORT (R377). -/
  | attestationReport
  /-- MSTATUS_ATTDONE_CLEAR (R372). -/
  | mstatusAttdoneClear (val : BitVec 32)
  /-- POWER_GOOD_RESET (R374). -/
  | powerGoodReset
  /-- PCIE_CONVENTIONAL_RESET (R374). -/
  | pcieConventionalReset
  /-- PACKAGE_RESET (R451). -/
  | packageReset
  /-- THERMAL_EMERGENCY_CAP (R449). -/
  | thermalEmergencyCap (die : BitVec 1)
  /-- THERMAL_SHUTDOWN (R449). -/
  | thermalShutdown (die : BitVec 1)
  /-- REQUESTER_REPLY (R133). -/
  | requesterReply (agent : BitVec 9) (line : BitVec 45)
  /-- ILLEGAL_INSTRUCTION (R402). -/
  | illegalInstruction (word : BitVec 32)
  /-- FETCH_FAULT (R400). -/
  | fetchFault
  /-- SUMMARISING_RECORD (R418). -/
  | summarisingRecord (unit : BitVec 5) (id : BitVec 32)
deriving DecidableEq, Repr

end Sys2Proof
end

