-- ==== Sys2Proof/WellFormed.lean ====
section
/-! DEFINITION. Which instructions are well formed: the field values that R175, R177, R195, R200, R209, R222, R267, R277
and R311 leave legal whatever the launch. Operand specifiers are not judged here: whether they are legal depends on the launch's
register count (R47), so an illegal one traps when the instruction issues (R402). -/

namespace Sys2Proof

/-- R57, R177: predicate selectors 12-14 are illegal. -/
abbrev selOk (p : BitVec 4) : Prop := p.toNat < 12 ∨ p.toNat = 15

/-- R222: a predicate field names p0-p11. -/
abbrev predOk (q : BitVec 4) : Prop := q.toNat < 12

/-- R175: scope codes 6 and 7 are illegal. -/
abbrev scopeOk (c : BitVec 3) : Prop := c.toNat < 6

/-- R311: the arithmetic slot of a bench word (bits [23:8]) is ANOP, MAC or YZERO with its zero fields zero. The limits that the mxfp4
layout adds are checked by BKLOAD, which knows the layout. -/
abbrev arithOk (a : BitVec 16) : Prop :=
  a = 0 ∨ (a.toNat / 4096 = 1 ∧ a.toNat % 16 = 0) ∨ (a.toNat / 4096 = 2 ∧ a.toNat % 1024 = 0)

/-- R311: the write-back slot of a bench word (bits [7:0]) is WNOP, PUSH, NEXT or PUSHN with its zero fields zero. -/
abbrev backOk (w : BitVec 8) : Prop :=
  w = 0 ∨ (w.toNat / 32 = 1 ∧ w.toNat % 8 = 0) ∨ w.toNat = 64 ∨ (w.toNat / 32 = 3 ∧ w.toNat % 8 = 0)

/-- The well-formed instructions. A bench word that fetches is written as its fetch (FD, FS), one that computes without fetching as its
arithmetic slot (MAC, YZERO), and any other as its write-back slot, so each word has one well-formed reading. -/
def Instr.wf (i : Instr) : Bool :=
  match i with
  | .add _ _ _ _ _ p => decide (selOk p)
  | .sub _ _ _ _ _ p => decide (selOk p)
  | .mul _ _ _ _ _ p => decide (selOk p)
  | .mulh _ _ _ _ _ p => decide (selOk p)
  | .div _ _ _ _ _ p => decide (selOk p)
  | .rem _ _ _ _ _ p => decide (selOk p)
  | .and _ _ _ _ _ p => decide (selOk p)
  | .or _ _ _ _ _ p => decide (selOk p)
  | .xor _ _ _ _ _ p => decide (selOk p)
  | .andn _ _ _ _ _ p => decide (selOk p)
  | .shl _ _ _ _ _ p => decide (selOk p)
  | .shr _ _ _ _ _ p => decide (selOk p)
  | .sra _ _ _ _ _ p => decide (selOk p)
  | .min _ _ _ _ _ p => decide (selOk p)
  | .max _ _ _ _ _ p => decide (selOk p)
  | .addi _ _ _ _ p => decide (selOk p)
  | .andi _ _ _ _ p => decide (selOk p)
  | .ori _ _ _ _ p => decide (selOk p)
  | .xori _ _ _ _ p => decide (selOk p)
  | .shli i _ _ _ p => decide (selOk p ∧ i.toNat < 32)
  | .shri i _ _ _ p => decide (selOk p ∧ i.toNat < 32)
  | .srai i _ _ _ p => decide (selOk p ∧ i.toNat < 32)
  | .movi _ _ _ p => decide (selOk p)
  | .movh _ _ _ p => decide (selOk p)
  | .ceq _ _ _ q _ p => decide (selOk p ∧ predOk q)
  | .cne _ _ _ q _ p => decide (selOk p ∧ predOk q)
  | .clt _ _ _ _ q _ p => decide (selOk p ∧ predOk q)
  | .cle _ _ _ _ q _ p => decide (selOk p ∧ predOk q)
  | .plog b u a d _ p => decide (selOk p ∧ predOk b ∧ u.toNat < 6 ∧ predOk a ∧ predOk d)
  | .prd a _ _ p => decide (selOk p ∧ predOk a)
  | .pwr _ d _ p => decide (selOk p ∧ predOk d)
  | .pset d _ p => decide (selOk p ∧ predOk d)
  | .pclr d _ p => decide (selOk p ∧ predOk d)
  | .popc _ _ _ _ p => decide (selOk p)
  | .clz _ _ _ _ p => decide (selOk p)
  | .ctz _ _ _ _ p => decide (selOk p)
  | .brev _ _ _ _ p => decide (selOk p)
  | .bswap _ _ _ _ p => decide (selOk p)
  | .sexb _ _ _ _ p => decide (selOk p)
  | .sexh _ _ _ _ p => decide (selOk p)
  | .movd _ _ _ _ p => decide (selOk p)
  | .bfe _ _ _ _ _ p => decide (selOk p)
  | .fadd _ _ _ _ _ p => decide (selOk p)
  | .fsub _ _ _ _ _ p => decide (selOk p)
  | .fmul _ _ _ _ _ p => decide (selOk p)
  | .fdiv _ _ _ _ _ p => decide (selOk p)
  | .fmin _ _ _ _ _ p => decide (selOk p)
  | .fmax _ _ _ _ _ p => decide (selOk p)
  | .fmac _ _ _ _ _ p => decide (selOk p)
  | .fnmac _ _ _ _ _ p => decide (selOk p)
  | .hadd _ _ _ _ _ p => decide (selOk p)
  | .hsub _ _ _ _ _ p => decide (selOk p)
  | .hmul _ _ _ _ _ p => decide (selOk p)
  | .hmac _ _ _ _ _ p => decide (selOk p)
  | .fcmp _ _ _ _ q _ p => decide (selOk p ∧ predOk q)
  | .frcp _ _ _ _ p => decide (selOk p)
  | .frsq _ _ _ _ p => decide (selOk p)
  | .fsqrtF32 _ _ _ _ p => decide (selOk p)
  | .fexp2 _ _ _ _ p => decide (selOk p)
  | .flog2 _ _ _ _ p => decide (selOk p)
  | .fsin _ _ _ _ p => decide (selOk p)
  | .fcos _ _ _ _ p => decide (selOk p)
  | .ftanh _ _ _ _ p => decide (selOk p)
  | .fabsF32 _ _ _ _ p => decide (selOk p)
  | .fnegF32 _ _ _ _ p => decide (selOk p)
  | .fabsF64 _ _ _ _ p => decide (selOk p)
  | .fnegF64 _ _ _ _ p => decide (selOk p)
  | .fclassF32 _ _ _ _ p => decide (selOk p)
  | .fclassF64 _ _ _ _ p => decide (selOk p)
  | .fsqrtF64 _ _ _ _ p => decide (selOk p)
  | .fscale _ _ _ _ _ p => decide (selOk p)
  | .cvtf _ _ _ _ _ p => decide (selOk p)
  | .cvti _ _ _ _ _ p => decide (selOk p)
  | .qnt _ _ _ _ _ p => decide (selOk p)
  | .dqnt _ _ _ _ _ p => decide (selOk p)
  | .pack _ _ _ _ _ p => decide (selOk p)
  | .unpk _ _ _ _ _ p => decide (selOk p)
  | .mxsc _ _ _ _ _ p => decide (selOk p)
  | .br _ _ p => decide (selOk p)
  | .call _ _ p => decide (selOk p)
  | .jmp _ _ _ p => decide (selOk p)
  | .callr _ _ _ _ p => decide (selOk p)
  | .ret _ _ _ p => decide (selOk p)
  | .reform _ p => decide (selOk p)
  | .enrol _ _ p => decide (selOk p)
  | .park _ _ p => decide (selOk p)
  | .strike _ _ p => decide (selOk p)
  | .exit _ p => decide (selOk p)
  | .nop _ p => decide (selOk p)
  | .safept _ _ c _ p => decide (selOk p ∧ c.toNat < 17)
  | .spawn _ _ _ _ p => decide (selOk p)
  | .bar c _ p => decide (selOk p ∧ scopeOk c)
  | .gbar c _ p => decide (selOk p ∧ scopeOk c)
  | .fenceIo _ p => decide (selOk p)
  | .codepub _ _ _ p => decide (selOk p)
  | .isync _ p => decide (selOk p)
  | .qxH _ _ _ _ p => decide (selOk p)
  | .qxV _ _ _ _ p => decide (selOk p)
  | .qxD _ _ _ _ p => decide (selOk p)
  | .qbc _ _ _ _ _ p => decide (selOk p)
  | .perm _ _ _ _ p => decide (selOk p)
  | .shfl _ _ _ _ _ p => decide (selOk p)
  | .vote _ _ _ _ _ p => decide (selOk p)
  | .cred _ _ _ _ _ p => decide (selOk p)
  | .credf _ u _ _ _ p => decide (selOk p ∧ u.toNat < 6)
  | .cscan _ _ _ _ _ p => decide (selOk p)
  | .blut _ _ _ _ _ p => decide (selOk p)
  | .kadd _ _ _ _ _ p => decide (selOk p)
  | .ksub _ _ _ _ _ p => decide (selOk p)
  | .kaddi _ _ _ _ p => decide (selOk p)
  | .kmovi _ _ _ p => decide (selOk p)
  | .kmovh _ _ _ p => decide (selOk p)
  | .kld _ _ _ _ _ _ p => decide (selOk p)
  | .kst _ _ _ _ _ _ p => decide (selOk p)
  | .kfirst _ _ _ _ p => decide (selOk p)
  | .ldB _ _ _ _ _ p => decide (selOk p)
  | .ldH _ _ _ _ _ p => decide (selOk p)
  | .ldW _ _ _ _ _ p => decide (selOk p)
  | .ldD _ _ _ _ _ p => decide (selOk p)
  | .ldQ _ _ _ _ _ p => decide (selOk p)
  | .stB _ _ _ _ _ p => decide (selOk p)
  | .stH _ _ _ _ _ p => decide (selOk p)
  | .stW _ _ _ _ _ p => decide (selOk p)
  | .stD _ _ _ _ _ p => decide (selOk p)
  | .stQ _ _ _ _ _ p => decide (selOk p)
  | .ldf c _ _ _ _ _ p => decide (selOk p ∧ scopeOk c)
  | .ldfk c _ _ _ _ _ p => decide (selOk p ∧ scopeOk c)
  | .ste c _ _ _ _ _ p => decide (selOk p ∧ scopeOk c)
  | .stf c _ _ _ _ _ p => decide (selOk p ∧ scopeOk c)
  | .sete c _ _ _ _ p => decide (selOk p ∧ scopeOk c)
  | .waitv c _ _ _ _ _ p => decide (selOk p ∧ scopeOk c)
  | .atomIntW c _ _ _ _ _ p => decide (selOk p ∧ scopeOk c)
  | .atomIntD c _ _ _ _ _ p => decide (selOk p ∧ scopeOk c)
  | .atomSwap c _ _ _ _ _ p => decide (selOk p ∧ scopeOk c)
  | .atomCas c _ _ _ _ _ p => decide (selOk p ∧ scopeOk c)
  | .atomFadd c _ _ _ _ _ p => decide (selOk p ∧ scopeOk c)
  | .atomFminF32 c _ _ _ _ p => decide (selOk p ∧ scopeOk c)
  | .atomFmaxF32 c _ _ _ _ p => decide (selOk p ∧ scopeOk c)
  | .redIntW c _ _ _ _ _ p => decide (selOk p ∧ scopeOk c)
  | .redIntD c _ _ _ _ _ p => decide (selOk p ∧ scopeOk c)
  | .redFloat c _ u _ _ _ p => decide (selOk p ∧ u.toNat < 6 ∧ scopeOk c)
  | .capld _ _ _ _ _ p => decide (selOk p)
  | .capst _ _ _ _ _ p => decide (selOk p)
  | .xset _ _ _ _ p => decide (selOk p)
  | .xget _ _ _ _ p => decide (selOk p)
  | .xstep _ _ _ _ p => decide (selOk p)
  | .xcur _ _ _ _ p => decide (selOk p)
  | .putreg _ _ _ _ _ p => decide (selOk p)
  | .hold _ _ _ p => decide (selOk p)
  | .gname _ _ _ p => decide (selOk p)
  | .sjoin _ _ _ p => decide (selOk p)
  | .sleave _ _ _ p => decide (selOk p)
  | .smap _ _ _ _ p => decide (selOk p)
  | .ldc w _ _ _ _ _ p => decide (selOk p ∧ w.toNat < 5)
  | .stc w _ _ _ _ _ p => decide (selOk p ∧ w.toNat < 5)
  | .amoc _ _ _ _ _ p => decide (selOk p)
  | .amocRed _ _ _ _ _ p => decide (selOk p)
  | .capsetA _ _ _ _ _ p => decide (selOk p)
  | .capsetB _ _ _ _ _ p => decide (selOk p)
  | .capsetP _ _ _ _ _ p => decide (selOk p)
  | .capsetSeal _ _ _ _ p => decide (selOk p)
  | .caprd _ _ _ k _ p => decide (selOk p ∧ k.toNat < 5)
  | .chdef _ _ _ _ p => decide (selOk p)
  | .chpush _ _ _ _ p => decide (selOk p)
  | .chtake _ _ _ p => decide (selOk p)
  | .copy _ _ _ _ _ p => decide (selOk p)
  | .retile _ _ _ _ p => decide (selOk p)
  | .gath _ _ _ _ p => decide (selOk p)
  | .chain _ _ _ _ p => decide (selOk p)
  | .coll _ _ _ _ p => decide (selOk p)
  | .wopen _ _ _ _ p => decide (selOk p)
  | .wfinal _ _ _ p => decide (selOk p)
  | .bkload _ _ _ _ p => decide (selOk p)
  | .bkvec _ _ _ _ p => decide (selOk p)
  | .bkrun _ _ _ _ p => decide (selOk p)
  | .bkdrain _ _ _ _ p => decide (selOk p)
  | .ownb _ _ _ _ p => decide (selOk p)
  | .ownc _ _ _ _ p => decide (selOk p)
  | .mres _ _ _ => true
  | .mrel _ _ => true
  | .mload _ _ _ => true
  | .mchin _ _ _ => true
  | .mma _ _ _ _ _ => true
  | .mzero _ _ => true
  | .mout _ _ _ => true
  | .mstore _ _ _ => true
  | .trap _ _ p => decide (selOk p)
  | .tret _ p => decide (selOk p)
  | .tretNext _ p => decide (selOk p)
  | .brk _ _ p => decide (selOk p)
  | .ticket _ _ _ p => decide (selOk p)
  | .mfs _ _ _ p => decide (selOk p)
  | .mts _ _ _ p => decide (selOk p)
  | .add16 b d => decide ((b ≠ 0 ∨ d ≠ 0))
  | .sub16 _ _ => true
  | .mul16 _ _ => true
  | .and16 _ _ => true
  | .or16 _ _ => true
  | .xor16 _ _ => true
  | .shl16 _ _ => true
  | .shr16 _ _ => true
  | .sra16 _ _ => true
  | .mov16 _ _ => true
  | .min16 _ _ => true
  | .max16 _ _ => true
  | .fadd16 _ _ => true
  | .fmul16 _ _ => true
  | .fmad16 _ _ => true
  | .fmax16 _ _ => true
  | .fd _ a w => decide (arithOk a ∧ backOk w)
  | .fs _ _ _ a w => decide (arithOk a ∧ backOk w)
  | .mac f _ _ _ _ w => decide (f = 0 ∧ backOk w)
  | .yzero f _ w => decide (f = 0 ∧ backOk w)
  | .push f a _ => decide (f = 0 ∧ a = 0)
  | .next f a => decide (f = 0 ∧ a = 0)
  | .pushn f a _ => decide (f = 0 ∧ a = 0)
  | .tailRegisterWrite _ _ => true
  | .registerWrite _ _ _ => true
  | .putDelivery _ _ _ _ _ _ _ _ => true
  | .remoteRequest _ _ _ => true
  | .placementReply _ _ _ _ _ _ => true
  | .prepare _ _ _ _ _ _ => true
  | .ready _ _ _ => true
  | .refuse _ _ => true
  | .commit _ _ _ _ => true
  | .abort _ _ _ => true
  | .partDoneReport _ _ _ => true
  | .pageFillComplete _ => true
  | .commandComplete _ _ => true
  | .spawnBinAgeing _ _ => true
  | .protocolValidationDone _ => true
  | .fillLineLands _ => true
  | .cxlMemRequest _ _ _ _ _ => true
  | .gets _ _ _ => true
  | .getx _ _ _ _ _ _ _ => true
  | .upg _ _ _ _ _ _ _ => true
  | .putx _ _ => true
  | .invack _ _ => true
  | .uncorrectableError _ _ _ => true
  | .sensorRefresh _ _ _ => true
  | .portDown _ => true
  | .waitforReevaluate _ _ => true
  | .detourForward _ _ _ => true
  | .mgovstatClear _ _ => true
  | .bundleDraw _ _ => true
  | .binAgeingLimit _ _ => true
  | .laneChoiceLimit _ _ _ => true
  | .schedulerWaitSatisfied _ _ _ => true
  | .crewSave _ _ => true
  | .forcedSave _ _ => true
  | .programTimeTick => true
  | .puts _ _ => true
  | .putc _ _ => true
  | .atomic _ _ _ _ _ _ _ => true
  | .write _ _ _ _ => true
  | .renew _ _ _ => true
  | .recall _ => true
  | .fwddata _ _ => true
  | .fwdnack _ _ => true
  | .memdata _ => true
  | .memack _ => true
  | .ackzero _ => true
  | .updack _ _ => true
  | .poisoned _ => true
  | .agentlost _ _ => true
  | .timeout _ => true
  | .messageResend _ => true
  | .deferredRequest _ => true
  | .inv _ _ => true
  | .fwds _ _ => true
  | .fwdx _ _ => true
  | .upd _ _ => true
  | .publishRequest _ => true
  | .chuteAcquire _ _ => true
  | .copyFiring _ _ => true
  | .retileRun _ _ => true
  | .gathFiring _ _ => true
  | .chainFiring _ _ => true
  | .collFiring _ _ => true
  | .wfinalWriter _ => true
  | .slotFillDone _ _ _ => true
  | .matrixQueueStart _ => true
  | .mgovWindow _ => true
  | .tileSequencerSave _ => true
  | .benchCommandStart _ => true
  | .benchCommandComplete _ => true
  | .benchRound _ => true
  | .columnCommand _ => true
  | .benchRefresh _ => true
  | .drainPathCycle _ => true
  | .drainEntryArrival _ => true
  | .benchGovernorWindow _ => true
  | .slabToBank _ => true
  | .slabToCore _ => true
  | .benchParityError _ => true
  | .packetResend _ _ => true
  | .portUp _ => true
  | .hostSnoop _ => true
  | .hostAgentLost _ => true
  | .reconcilePass => true
  | .launch _ _ => true
  | .ganglaunch _ _ => true
  | .signal _ _ => true
  | .waitfor _ _ => true
  | .hints _ _ => true
  | .preemptYield _ _ => true
  | .preemptHold _ _ => true
  | .preemptRelease _ _ => true
  | .context _ _ => true
  | .ctxfree _ _ => true
  | .qcreate _ _ => true
  | .qfree _ _ => true
  | .slicecfg _ _ => true
  | .range _ _ => true
  | .protload _ _ => true
  | .protfree _ _ => true
  | .govcfg _ _ => true
  | .capmint _ _ => true
  | .placementPass => true
  | .placementPassTimer => true
  | .headAgeBar => true
  | .firmwareMessageResend _ _ => true
  | .ganglaunchPhaseOneTimeout _ _ => true
  | .partReservationExpiry _ _ _ => true
  | .partUnreachableTimeout _ _ _ => true
  | .launchWatchdog _ _ => true
  | .firmwareCrewRestart _ _ => true
  | .crewDivergenceDeadlock _ _ => true
  | .correctionSummary _ _ _ _ _ => true
  | .patrolScrub _ _ => true
  | .bootctlGo => true
  | .bringupPhaseComplete => true
  | .attgo _ => true
  | .attestationReport => true
  | .mstatusAttdoneClear _ => true
  | .powerGoodReset => true
  | .pcieConventionalReset => true
  | .packageReset => true
  | .thermalEmergencyCap _ => true
  | .thermalShutdown _ => true
  | .requesterReply _ _ => true
  | .illegalInstruction _ => true
  | .fetchFault => true
  | .summarisingRecord _ _ => true

/-- Well-formedness as a proposition. -/
abbrev Instr.WF (i : Instr) : Prop := i.wf = true

end Sys2Proof
end

