-- ==== Sys2Proof/Decode.lean ====
section
/-! DEFINITION. Decoding and encoding, from R170-R182, R175, R176 and R311-R315. The decoder is total: a word that no row of the
table fits, or that holds a field value the rules refuse, is rejected with the trap code, SUB and DETAIL that R402 gives it. -/

namespace Sys2Proof

/-- Bits [lo+n-1:lo] of a word. -/
def bits (w lo n : Nat) : BitVec n := BitVec.ofNat n (w / 2 ^ lo % 2 ^ n)

/-- Bits [lo+n-1:lo] of a word, as a number. -/
def nbits (w lo n : Nat) : Nat := w / 2 ^ lo % 2 ^ n

/-- Why an encoding is refused: the trap code (0x01 or 0x02), the SUB of R402 or R400, and the DETAIL (R400). -/
structure Illegal where
  code : Nat
  sub : Nat
  detail : Nat
deriving DecidableEq, Repr


/-- Words of major 0x00: ADD. -/
def decodeMajor00 (w : Nat) : Option Instr :=
  some (.add (bits w 31 1) (bits w 25 6) (bits w 19 6) (bits w 13 6) (bits w 12 1) (bits w 8 4))

/-- Words of major 0x01: SUB. -/
def decodeMajor01 (w : Nat) : Option Instr :=
  some (.sub (bits w 31 1) (bits w 25 6) (bits w 19 6) (bits w 13 6) (bits w 12 1) (bits w 8 4))

/-- Words of major 0x02: MUL. -/
def decodeMajor02 (w : Nat) : Option Instr :=
  some (.mul (bits w 31 1) (bits w 25 6) (bits w 19 6) (bits w 13 6) (bits w 12 1) (bits w 8 4))

/-- Words of major 0x03: MULH. -/
def decodeMajor03 (w : Nat) : Option Instr :=
  some (.mulh (bits w 31 1) (bits w 25 6) (bits w 19 6) (bits w 13 6) (bits w 12 1) (bits w 8 4))

/-- Words of major 0x04: DIV. -/
def decodeMajor04 (w : Nat) : Option Instr :=
  some (.div (bits w 31 1) (bits w 25 6) (bits w 19 6) (bits w 13 6) (bits w 12 1) (bits w 8 4))

/-- Words of major 0x05: REM. -/
def decodeMajor05 (w : Nat) : Option Instr :=
  some (.rem (bits w 31 1) (bits w 25 6) (bits w 19 6) (bits w 13 6) (bits w 12 1) (bits w 8 4))

/-- Words of major 0x06: AND. -/
def decodeMajor06 (w : Nat) : Option Instr :=
  some (.and (bits w 31 1) (bits w 25 6) (bits w 19 6) (bits w 13 6) (bits w 12 1) (bits w 8 4))

/-- Words of major 0x07: OR. -/
def decodeMajor07 (w : Nat) : Option Instr :=
  some (.or (bits w 31 1) (bits w 25 6) (bits w 19 6) (bits w 13 6) (bits w 12 1) (bits w 8 4))

/-- Words of major 0x08: XOR. -/
def decodeMajor08 (w : Nat) : Option Instr :=
  some (.xor (bits w 31 1) (bits w 25 6) (bits w 19 6) (bits w 13 6) (bits w 12 1) (bits w 8 4))

/-- Words of major 0x09: ANDN. -/
def decodeMajor09 (w : Nat) : Option Instr :=
  some (.andn (bits w 31 1) (bits w 25 6) (bits w 19 6) (bits w 13 6) (bits w 12 1) (bits w 8 4))

/-- Words of major 0x0a: SHL. -/
def decodeMajor0a (w : Nat) : Option Instr :=
  some (.shl (bits w 31 1) (bits w 25 6) (bits w 19 6) (bits w 13 6) (bits w 12 1) (bits w 8 4))

/-- Words of major 0x0b: SHR. -/
def decodeMajor0b (w : Nat) : Option Instr :=
  some (.shr (bits w 31 1) (bits w 25 6) (bits w 19 6) (bits w 13 6) (bits w 12 1) (bits w 8 4))

/-- Words of major 0x0c: SRA. -/
def decodeMajor0c (w : Nat) : Option Instr :=
  some (.sra (bits w 31 1) (bits w 25 6) (bits w 19 6) (bits w 13 6) (bits w 12 1) (bits w 8 4))

/-- Words of major 0x0d: MIN. -/
def decodeMajor0d (w : Nat) : Option Instr :=
  some (.min (bits w 31 1) (bits w 25 6) (bits w 19 6) (bits w 13 6) (bits w 12 1) (bits w 8 4))

/-- Words of major 0x0e: MAX. -/
def decodeMajor0e (w : Nat) : Option Instr :=
  some (.max (bits w 31 1) (bits w 25 6) (bits w 19 6) (bits w 13 6) (bits w 12 1) (bits w 8 4))

/-- Words of major 0x0f: ADDI. -/
def decodeMajor0f (w : Nat) : Option Instr :=
  some (.addi (bits w 25 7) (bits w 19 6) (bits w 13 6) (bits w 12 1) (bits w 8 4))

/-- Words of major 0x10: ANDI. -/
def decodeMajor10 (w : Nat) : Option Instr :=
  some (.andi (bits w 25 7) (bits w 19 6) (bits w 13 6) (bits w 12 1) (bits w 8 4))

/-- Words of major 0x11: ORI. -/
def decodeMajor11 (w : Nat) : Option Instr :=
  some (.ori (bits w 25 7) (bits w 19 6) (bits w 13 6) (bits w 12 1) (bits w 8 4))

/-- Words of major 0x12: XORI. -/
def decodeMajor12 (w : Nat) : Option Instr :=
  some (.xori (bits w 25 7) (bits w 19 6) (bits w 13 6) (bits w 12 1) (bits w 8 4))

/-- Words of major 0x13: SHLI. -/
def decodeMajor13 (w : Nat) : Option Instr :=
  some (.shli (bits w 25 7) (bits w 19 6) (bits w 13 6) (bits w 12 1) (bits w 8 4))

/-- Words of major 0x14: SHRI. -/
def decodeMajor14 (w : Nat) : Option Instr :=
  some (.shri (bits w 25 7) (bits w 19 6) (bits w 13 6) (bits w 12 1) (bits w 8 4))

/-- Words of major 0x15: SRAI. -/
def decodeMajor15 (w : Nat) : Option Instr :=
  some (.srai (bits w 25 7) (bits w 19 6) (bits w 13 6) (bits w 12 1) (bits w 8 4))

/-- Words of major 0x16: MOVI. -/
def decodeMajor16 (w : Nat) : Option Instr :=
  some (.movi (bits w 19 13) (bits w 13 6) (bits w 12 1) (bits w 8 4))

/-- Words of major 0x17: MOVH. -/
def decodeMajor17 (w : Nat) : Option Instr :=
  some (.movh (bits w 19 13) (bits w 13 6) (bits w 12 1) (bits w 8 4))

/-- Words of major 0x18: CEQ. -/
def decodeMajor18 (w : Nat) : Option Instr :=
  if nbits w 18 1 = 0 ∧ nbits w 31 1 = 0 then some (.ceq (bits w 25 6) (bits w 19 6) (bits w 17 1) (bits w 13 4) (bits w 12 1) (bits w 8 4)) else
  none

/-- Words of major 0x19: CNE. -/
def decodeMajor19 (w : Nat) : Option Instr :=
  if nbits w 18 1 = 0 ∧ nbits w 31 1 = 0 then some (.cne (bits w 25 6) (bits w 19 6) (bits w 17 1) (bits w 13 4) (bits w 12 1) (bits w 8 4)) else
  none

/-- Words of major 0x1a: CLT. -/
def decodeMajor1a (w : Nat) : Option Instr :=
  if nbits w 18 1 = 0 then some (.clt (bits w 31 1) (bits w 25 6) (bits w 19 6) (bits w 17 1) (bits w 13 4) (bits w 12 1) (bits w 8 4)) else
  none

/-- Words of major 0x1b: CLE. -/
def decodeMajor1b (w : Nat) : Option Instr :=
  if nbits w 18 1 = 0 then some (.cle (bits w 31 1) (bits w 25 6) (bits w 19 6) (bits w 17 1) (bits w 13 4) (bits w 12 1) (bits w 8 4)) else
  none

/-- Words of major 0x1c: PLOG. -/
def decodeMajor1c (w : Nat) : Option Instr :=
  if nbits w 17 2 = 0 ∧ nbits w 23 2 = 0 then some (.plog (bits w 28 4) (bits w 25 3) (bits w 19 4) (bits w 13 4) (bits w 12 1) (bits w 8 4)) else
  none

/-- Words of major 0x1d: PRD, PWR, PSET, PCLR. -/
def decodeMajor1d (w : Nat) : Option Instr :=
  if nbits w 23 9 = 0 then some (.prd (bits w 19 4) (bits w 13 6) (bits w 12 1) (bits w 8 4)) else
  if nbits w 17 2 = 0 ∧ nbits w 25 7 = 1 then some (.pwr (bits w 19 6) (bits w 13 4) (bits w 12 1) (bits w 8 4)) else
  if nbits w 17 15 = 512 then some (.pset (bits w 13 4) (bits w 12 1) (bits w 8 4)) else
  if nbits w 17 15 = 768 then some (.pclr (bits w 13 4) (bits w 12 1) (bits w 8 4)) else
  none

/-- Words of major 0x1e: POPC, CLZ, CTZ, BREV, BSWAP, SEXB, SEXH, MOVD. -/
def decodeMajor1e (w : Nat) : Option Instr :=
  if nbits w 25 3 = 0 then some (.popc (bits w 28 4) (bits w 19 6) (bits w 13 6) (bits w 12 1) (bits w 8 4)) else
  if nbits w 25 3 = 1 then some (.clz (bits w 28 4) (bits w 19 6) (bits w 13 6) (bits w 12 1) (bits w 8 4)) else
  if nbits w 25 3 = 2 then some (.ctz (bits w 28 4) (bits w 19 6) (bits w 13 6) (bits w 12 1) (bits w 8 4)) else
  if nbits w 25 3 = 3 then some (.brev (bits w 28 4) (bits w 19 6) (bits w 13 6) (bits w 12 1) (bits w 8 4)) else
  if nbits w 25 3 = 4 then some (.bswap (bits w 28 4) (bits w 19 6) (bits w 13 6) (bits w 12 1) (bits w 8 4)) else
  if nbits w 25 3 = 5 then some (.sexb (bits w 28 4) (bits w 19 6) (bits w 13 6) (bits w 12 1) (bits w 8 4)) else
  if nbits w 25 3 = 6 then some (.sexh (bits w 28 4) (bits w 19 6) (bits w 13 6) (bits w 12 1) (bits w 8 4)) else
  if nbits w 25 3 = 7 then some (.movd (bits w 28 4) (bits w 19 6) (bits w 13 6) (bits w 12 1) (bits w 8 4)) else
  none

/-- Words of major 0x1f: BFE. -/
def decodeMajor1f (w : Nat) : Option Instr :=
  some (.bfe (bits w 31 1) (bits w 25 6) (bits w 19 6) (bits w 13 6) (bits w 12 1) (bits w 8 4))

/-- Words of major 0x20: FADD. -/
def decodeMajor20 (w : Nat) : Option Instr :=
  some (.fadd (bits w 31 1) (bits w 25 6) (bits w 19 6) (bits w 13 6) (bits w 12 1) (bits w 8 4))

/-- Words of major 0x21: FSUB. -/
def decodeMajor21 (w : Nat) : Option Instr :=
  some (.fsub (bits w 31 1) (bits w 25 6) (bits w 19 6) (bits w 13 6) (bits w 12 1) (bits w 8 4))

/-- Words of major 0x22: FMUL. -/
def decodeMajor22 (w : Nat) : Option Instr :=
  some (.fmul (bits w 31 1) (bits w 25 6) (bits w 19 6) (bits w 13 6) (bits w 12 1) (bits w 8 4))

/-- Words of major 0x23: FDIV. -/
def decodeMajor23 (w : Nat) : Option Instr :=
  some (.fdiv (bits w 31 1) (bits w 25 6) (bits w 19 6) (bits w 13 6) (bits w 12 1) (bits w 8 4))

/-- Words of major 0x24: FMIN. -/
def decodeMajor24 (w : Nat) : Option Instr :=
  some (.fmin (bits w 31 1) (bits w 25 6) (bits w 19 6) (bits w 13 6) (bits w 12 1) (bits w 8 4))

/-- Words of major 0x25: FMAX. -/
def decodeMajor25 (w : Nat) : Option Instr :=
  some (.fmax (bits w 31 1) (bits w 25 6) (bits w 19 6) (bits w 13 6) (bits w 12 1) (bits w 8 4))

/-- Words of major 0x26: FMAC. -/
def decodeMajor26 (w : Nat) : Option Instr :=
  some (.fmac (bits w 31 1) (bits w 25 6) (bits w 19 6) (bits w 13 6) (bits w 12 1) (bits w 8 4))

/-- Words of major 0x27: FNMAC. -/
def decodeMajor27 (w : Nat) : Option Instr :=
  some (.fnmac (bits w 31 1) (bits w 25 6) (bits w 19 6) (bits w 13 6) (bits w 12 1) (bits w 8 4))

/-- Words of major 0x28: HADD. -/
def decodeMajor28 (w : Nat) : Option Instr :=
  some (.hadd (bits w 31 1) (bits w 25 6) (bits w 19 6) (bits w 13 6) (bits w 12 1) (bits w 8 4))

/-- Words of major 0x29: HSUB. -/
def decodeMajor29 (w : Nat) : Option Instr :=
  some (.hsub (bits w 31 1) (bits w 25 6) (bits w 19 6) (bits w 13 6) (bits w 12 1) (bits w 8 4))

/-- Words of major 0x2a: HMUL. -/
def decodeMajor2a (w : Nat) : Option Instr :=
  some (.hmul (bits w 31 1) (bits w 25 6) (bits w 19 6) (bits w 13 6) (bits w 12 1) (bits w 8 4))

/-- Words of major 0x2b: HMAC. -/
def decodeMajor2b (w : Nat) : Option Instr :=
  some (.hmac (bits w 31 1) (bits w 25 6) (bits w 19 6) (bits w 13 6) (bits w 12 1) (bits w 8 4))

/-- Words of major 0x2c: FCMP. -/
def decodeMajor2c (w : Nat) : Option Instr :=
  some (.fcmp (bits w 31 1) (bits w 25 6) (bits w 19 6) (bits w 17 2) (bits w 13 4) (bits w 12 1) (bits w 8 4))

/-- Words of major 0x2d: FRCP, FRSQ, FSQRT_F32, FEXP2, FLOG2, FSIN, FCOS, FTANH. -/
def decodeMajor2d (w : Nat) : Option Instr :=
  if nbits w 25 3 = 0 then some (.frcp (bits w 28 4) (bits w 19 6) (bits w 13 6) (bits w 12 1) (bits w 8 4)) else
  if nbits w 25 3 = 1 then some (.frsq (bits w 28 4) (bits w 19 6) (bits w 13 6) (bits w 12 1) (bits w 8 4)) else
  if nbits w 25 3 = 2 then some (.fsqrtF32 (bits w 28 4) (bits w 19 6) (bits w 13 6) (bits w 12 1) (bits w 8 4)) else
  if nbits w 25 3 = 3 then some (.fexp2 (bits w 28 4) (bits w 19 6) (bits w 13 6) (bits w 12 1) (bits w 8 4)) else
  if nbits w 25 3 = 4 then some (.flog2 (bits w 28 4) (bits w 19 6) (bits w 13 6) (bits w 12 1) (bits w 8 4)) else
  if nbits w 25 3 = 5 then some (.fsin (bits w 28 4) (bits w 19 6) (bits w 13 6) (bits w 12 1) (bits w 8 4)) else
  if nbits w 25 3 = 6 then some (.fcos (bits w 28 4) (bits w 19 6) (bits w 13 6) (bits w 12 1) (bits w 8 4)) else
  if nbits w 25 3 = 7 then some (.ftanh (bits w 28 4) (bits w 19 6) (bits w 13 6) (bits w 12 1) (bits w 8 4)) else
  none

/-- Words of major 0x2e: FABS_F32, FNEG_F32, FABS_F64, FNEG_F64, FCLASS_F32, FCLASS_F64, FSQRT_F64. -/
def decodeMajor2e (w : Nat) : Option Instr :=
  if nbits w 25 3 = 0 then some (.fabsF32 (bits w 28 4) (bits w 19 6) (bits w 13 6) (bits w 12 1) (bits w 8 4)) else
  if nbits w 25 3 = 1 then some (.fnegF32 (bits w 28 4) (bits w 19 6) (bits w 13 6) (bits w 12 1) (bits w 8 4)) else
  if nbits w 25 3 = 2 then some (.fabsF64 (bits w 28 4) (bits w 19 6) (bits w 13 6) (bits w 12 1) (bits w 8 4)) else
  if nbits w 25 3 = 3 then some (.fnegF64 (bits w 28 4) (bits w 19 6) (bits w 13 6) (bits w 12 1) (bits w 8 4)) else
  if nbits w 25 3 = 4 then some (.fclassF32 (bits w 28 4) (bits w 19 6) (bits w 13 6) (bits w 12 1) (bits w 8 4)) else
  if nbits w 25 3 = 5 then some (.fclassF64 (bits w 28 4) (bits w 19 6) (bits w 13 6) (bits w 12 1) (bits w 8 4)) else
  if nbits w 25 3 = 6 then some (.fsqrtF64 (bits w 28 4) (bits w 19 6) (bits w 13 6) (bits w 12 1) (bits w 8 4)) else
  none

/-- Words of major 0x2f: FSCALE. -/
def decodeMajor2f (w : Nat) : Option Instr :=
  some (.fscale (bits w 31 1) (bits w 25 6) (bits w 19 6) (bits w 13 6) (bits w 12 1) (bits w 8 4))

/-- Words of major 0x30: CVTF. -/
def decodeMajor30 (w : Nat) : Option Instr :=
  some (.cvtf (bits w 28 4) (bits w 25 3) (bits w 19 6) (bits w 13 6) (bits w 12 1) (bits w 8 4))

/-- Words of major 0x31: CVTI. -/
def decodeMajor31 (w : Nat) : Option Instr :=
  some (.cvti (bits w 28 4) (bits w 25 3) (bits w 19 6) (bits w 13 6) (bits w 12 1) (bits w 8 4))

/-- Words of major 0x32: QNT. -/
def decodeMajor32 (w : Nat) : Option Instr :=
  some (.qnt (bits w 31 1) (bits w 25 6) (bits w 19 6) (bits w 13 6) (bits w 12 1) (bits w 8 4))

/-- Words of major 0x33: DQNT. -/
def decodeMajor33 (w : Nat) : Option Instr :=
  some (.dqnt (bits w 31 1) (bits w 25 6) (bits w 19 6) (bits w 13 6) (bits w 12 1) (bits w 8 4))

/-- Words of major 0x34: PACK. -/
def decodeMajor34 (w : Nat) : Option Instr :=
  some (.pack (bits w 31 1) (bits w 25 6) (bits w 19 6) (bits w 13 6) (bits w 12 1) (bits w 8 4))

/-- Words of major 0x35: UNPK. -/
def decodeMajor35 (w : Nat) : Option Instr :=
  if nbits w 27 1 = 0 then some (.unpk (bits w 28 4) (bits w 25 2) (bits w 19 6) (bits w 13 6) (bits w 12 1) (bits w 8 4)) else
  none

/-- Words of major 0x36: MXSC. -/
def decodeMajor36 (w : Nat) : Option Instr :=
  some (.mxsc (bits w 28 4) (bits w 25 3) (bits w 19 6) (bits w 13 6) (bits w 12 1) (bits w 8 4))

/-- Words of major 0x38: BR. -/
def decodeMajor38 (w : Nat) : Option Instr :=
  some (.br (bits w 13 19) (bits w 12 1) (bits w 8 4))

/-- Words of major 0x39: CALL. -/
def decodeMajor39 (w : Nat) : Option Instr :=
  some (.call (bits w 13 19) (bits w 12 1) (bits w 8 4))

/-- Words of major 0x3a: JMP, CALLR, RET. -/
def decodeMajor3a (w : Nat) : Option Instr :=
  if nbits w 13 6 = 0 ∧ nbits w 25 3 = 0 then some (.jmp (bits w 28 4) (bits w 19 6) (bits w 12 1) (bits w 8 4)) else
  if nbits w 25 3 = 1 then some (.callr (bits w 28 4) (bits w 19 6) (bits w 13 6) (bits w 12 1) (bits w 8 4)) else
  if nbits w 13 6 = 0 ∧ nbits w 25 3 = 2 then some (.ret (bits w 28 4) (bits w 19 6) (bits w 12 1) (bits w 8 4)) else
  none

/-- Words of major 0x3b: REFORM, ENROL, PARK, STRIKE, EXIT, NOP. -/
def decodeMajor3b (w : Nat) : Option Instr :=
  if nbits w 13 19 = 0 then some (.reform (bits w 12 1) (bits w 8 4)) else
  if nbits w 15 17 = 1024 then some (.enrol (bits w 13 2) (bits w 12 1) (bits w 8 4)) else
  if nbits w 15 17 = 2048 then some (.park (bits w 13 2) (bits w 12 1) (bits w 8 4)) else
  if nbits w 15 17 = 3072 then some (.strike (bits w 13 2) (bits w 12 1) (bits w 8 4)) else
  if nbits w 13 19 = 16384 then some (.exit (bits w 12 1) (bits w 8 4)) else
  if nbits w 13 19 = 20480 then some (.nop (bits w 12 1) (bits w 8 4)) else
  none

/-- Words of major 0x3c: SAFEPT. -/
def decodeMajor3c (w : Nat) : Option Instr :=
  if nbits w 22 10 = 7 then some (.safept (bits w 19 3) (bits w 18 1) (bits w 13 5) (bits w 12 1) (bits w 8 4)) else
  none

/-- Words of major 0x3d: SPAWN. -/
def decodeMajor3d (w : Nat) : Option Instr :=
  if nbits w 25 3 = 0 then some (.spawn (bits w 28 4) (bits w 19 6) (bits w 13 6) (bits w 12 1) (bits w 8 4)) else
  none

/-- Words of major 0x3e: BAR, GBAR, FENCE_IO, CODEPUB, ISYNC. -/
def decodeMajor3e (w : Nat) : Option Instr :=
  if nbits w 13 16 = 0 then some (.bar (bits w 29 3) (bits w 12 1) (bits w 8 4)) else
  if nbits w 13 16 = 4096 then some (.gbar (bits w 29 3) (bits w 12 1) (bits w 8 4)) else
  if nbits w 13 19 = 8192 then some (.fenceIo (bits w 12 1) (bits w 8 4)) else
  if nbits w 25 7 = 3 then some (.codepub (bits w 19 6) (bits w 13 6) (bits w 12 1) (bits w 8 4)) else
  if nbits w 13 19 = 16384 then some (.isync (bits w 12 1) (bits w 8 4)) else
  none

/-- Words of major 0x40: QX_H, QX_V, QX_D, QBC. -/
def decodeMajor40 (w : Nat) : Option Instr :=
  if nbits w 25 3 = 0 then some (.qxH (bits w 28 4) (bits w 19 6) (bits w 13 6) (bits w 12 1) (bits w 8 4)) else
  if nbits w 25 3 = 1 then some (.qxV (bits w 28 4) (bits w 19 6) (bits w 13 6) (bits w 12 1) (bits w 8 4)) else
  if nbits w 25 3 = 2 then some (.qxD (bits w 28 4) (bits w 19 6) (bits w 13 6) (bits w 12 1) (bits w 8 4)) else
  if nbits w 27 1 = 1 then some (.qbc (bits w 28 4) (bits w 25 2) (bits w 19 6) (bits w 13 6) (bits w 12 1) (bits w 8 4)) else
  none

/-- Words of major 0x41: PERM. -/
def decodeMajor41 (w : Nat) : Option Instr :=
  if nbits w 31 1 = 0 then some (.perm (bits w 25 6) (bits w 19 6) (bits w 13 6) (bits w 12 1) (bits w 8 4)) else
  none

/-- Words of major 0x42: SHFL. -/
def decodeMajor42 (w : Nat) : Option Instr :=
  some (.shfl (bits w 30 2) (bits w 25 5) (bits w 19 6) (bits w 13 6) (bits w 12 1) (bits w 8 4))

/-- Words of major 0x43: VOTE. -/
def decodeMajor43 (w : Nat) : Option Instr :=
  if nbits w 27 1 = 0 then some (.vote (bits w 28 4) (bits w 25 2) (bits w 19 6) (bits w 13 6) (bits w 12 1) (bits w 8 4)) else
  none

/-- Words of major 0x44: CRED. -/
def decodeMajor44 (w : Nat) : Option Instr :=
  some (.cred (bits w 28 4) (bits w 25 3) (bits w 19 6) (bits w 13 6) (bits w 12 1) (bits w 8 4))

/-- Words of major 0x45: CREDF. -/
def decodeMajor45 (w : Nat) : Option Instr :=
  some (.credf (bits w 28 4) (bits w 25 3) (bits w 19 6) (bits w 13 6) (bits w 12 1) (bits w 8 4))

/-- Words of major 0x46: CSCAN. -/
def decodeMajor46 (w : Nat) : Option Instr :=
  some (.cscan (bits w 28 4) (bits w 25 3) (bits w 19 6) (bits w 13 6) (bits w 12 1) (bits w 8 4))

/-- Words of major 0x47: BLUT. -/
def decodeMajor47 (w : Nat) : Option Instr :=
  if nbits w 25 2 = 0 ∧ nbits w 28 3 = 7 then some (.blut (bits w 31 1) (bits w 27 1) (bits w 19 6) (bits w 13 6) (bits w 12 1) (bits w 8 4)) else
  none

/-- Words of major 0x48: KADD. -/
def decodeMajor48 (w : Nat) : Option Instr :=
  if nbits w 18 1 = 0 ∧ nbits w 24 1 = 0 ∧ nbits w 30 1 = 0 then some (.kadd (bits w 31 1) (bits w 25 5) (bits w 19 5) (bits w 13 5) (bits w 12 1) (bits w 8 4)) else
  none

/-- Words of major 0x49: KSUB. -/
def decodeMajor49 (w : Nat) : Option Instr :=
  if nbits w 18 1 = 0 ∧ nbits w 24 1 = 0 ∧ nbits w 30 1 = 0 then some (.ksub (bits w 31 1) (bits w 25 5) (bits w 19 5) (bits w 13 5) (bits w 12 1) (bits w 8 4)) else
  none

/-- Words of major 0x4a: KADDI. -/
def decodeMajor4a (w : Nat) : Option Instr :=
  if nbits w 18 1 = 0 ∧ nbits w 24 1 = 0 then some (.kaddi (bits w 25 7) (bits w 19 5) (bits w 13 5) (bits w 12 1) (bits w 8 4)) else
  none

/-- Words of major 0x4b: KMOVI. -/
def decodeMajor4b (w : Nat) : Option Instr :=
  if nbits w 18 1 = 0 then some (.kmovi (bits w 19 13) (bits w 13 5) (bits w 12 1) (bits w 8 4)) else
  none

/-- Words of major 0x4c: KMOVH. -/
def decodeMajor4c (w : Nat) : Option Instr :=
  if nbits w 18 1 = 0 then some (.kmovh (bits w 19 13) (bits w 13 5) (bits w 12 1) (bits w 8 4)) else
  none

/-- Words of major 0x4d: KLD. -/
def decodeMajor4d (w : Nat) : Option Instr :=
  if nbits w 22 3 = 7 then some (.kld (bits w 28 4) (bits w 25 3) (bits w 19 3) (bits w 18 1) (bits w 13 5) (bits w 12 1) (bits w 8 4)) else
  none

/-- Words of major 0x4e: KST. -/
def decodeMajor4e (w : Nat) : Option Instr :=
  if nbits w 22 3 = 7 then some (.kst (bits w 28 4) (bits w 25 3) (bits w 19 3) (bits w 18 1) (bits w 13 5) (bits w 12 1) (bits w 8 4)) else
  none

/-- Words of major 0x4f: KFIRST. -/
def decodeMajor4f (w : Nat) : Option Instr :=
  if nbits w 18 1 = 0 ∧ nbits w 25 3 = 0 then some (.kfirst (bits w 28 4) (bits w 19 6) (bits w 13 5) (bits w 12 1) (bits w 8 4)) else
  none

/-- Words of major 0x50: LD_B. -/
def decodeMajor50 (w : Nat) : Option Instr :=
  some (.ldB (bits w 28 4) (bits w 25 3) (bits w 19 6) (bits w 13 6) (bits w 12 1) (bits w 8 4))

/-- Words of major 0x51: LD_H. -/
def decodeMajor51 (w : Nat) : Option Instr :=
  some (.ldH (bits w 28 4) (bits w 25 3) (bits w 19 6) (bits w 13 6) (bits w 12 1) (bits w 8 4))

/-- Words of major 0x52: LD_W. -/
def decodeMajor52 (w : Nat) : Option Instr :=
  some (.ldW (bits w 28 4) (bits w 25 3) (bits w 19 6) (bits w 13 6) (bits w 12 1) (bits w 8 4))

/-- Words of major 0x53: LD_D. -/
def decodeMajor53 (w : Nat) : Option Instr :=
  some (.ldD (bits w 28 4) (bits w 25 3) (bits w 19 6) (bits w 13 6) (bits w 12 1) (bits w 8 4))

/-- Words of major 0x54: LD_Q. -/
def decodeMajor54 (w : Nat) : Option Instr :=
  if nbits w 13 2 = 0 ∧ nbits w 18 1 = 0 then some (.ldQ (bits w 28 4) (bits w 25 3) (bits w 19 6) (bits w 15 3) (bits w 12 1) (bits w 8 4)) else
  none

/-- Words of major 0x55: ST_B. -/
def decodeMajor55 (w : Nat) : Option Instr :=
  some (.stB (bits w 28 4) (bits w 25 3) (bits w 19 6) (bits w 13 6) (bits w 12 1) (bits w 8 4))

/-- Words of major 0x56: ST_H. -/
def decodeMajor56 (w : Nat) : Option Instr :=
  some (.stH (bits w 28 4) (bits w 25 3) (bits w 19 6) (bits w 13 6) (bits w 12 1) (bits w 8 4))

/-- Words of major 0x57: ST_W. -/
def decodeMajor57 (w : Nat) : Option Instr :=
  some (.stW (bits w 28 4) (bits w 25 3) (bits w 19 6) (bits w 13 6) (bits w 12 1) (bits w 8 4))

/-- Words of major 0x58: ST_D. -/
def decodeMajor58 (w : Nat) : Option Instr :=
  some (.stD (bits w 28 4) (bits w 25 3) (bits w 19 6) (bits w 13 6) (bits w 12 1) (bits w 8 4))

/-- Words of major 0x59: ST_Q. -/
def decodeMajor59 (w : Nat) : Option Instr :=
  if nbits w 13 2 = 0 ∧ nbits w 18 1 = 0 then some (.stQ (bits w 28 4) (bits w 25 3) (bits w 19 6) (bits w 15 3) (bits w 12 1) (bits w 8 4)) else
  none

/-- Words of major 0x5a: LDF. -/
def decodeMajor5a (w : Nat) : Option Instr :=
  some (.ldf (bits w 29 3) (bits w 28 1) (bits w 25 3) (bits w 19 6) (bits w 13 6) (bits w 12 1) (bits w 8 4))

/-- Words of major 0x5b: LDFK. -/
def decodeMajor5b (w : Nat) : Option Instr :=
  some (.ldfk (bits w 29 3) (bits w 28 1) (bits w 25 3) (bits w 19 6) (bits w 13 6) (bits w 12 1) (bits w 8 4))

/-- Words of major 0x5c: STE. -/
def decodeMajor5c (w : Nat) : Option Instr :=
  some (.ste (bits w 29 3) (bits w 28 1) (bits w 25 3) (bits w 19 6) (bits w 13 6) (bits w 12 1) (bits w 8 4))

/-- Words of major 0x5d: STF. -/
def decodeMajor5d (w : Nat) : Option Instr :=
  some (.stf (bits w 29 3) (bits w 28 1) (bits w 25 3) (bits w 19 6) (bits w 13 6) (bits w 12 1) (bits w 8 4))

/-- Words of major 0x5e: SETE. -/
def decodeMajor5e (w : Nat) : Option Instr :=
  if nbits w 13 6 = 0 then some (.sete (bits w 29 3) (bits w 28 1) (bits w 25 3) (bits w 19 6) (bits w 12 1) (bits w 8 4)) else
  none

/-- Words of major 0x5f: WAITV. -/
def decodeMajor5f (w : Nat) : Option Instr :=
  some (.waitv (bits w 29 3) (bits w 28 1) (bits w 25 3) (bits w 19 6) (bits w 13 6) (bits w 12 1) (bits w 8 4))

/-- Words of major 0x60: ATOM_INT_W. -/
def decodeMajor60 (w : Nat) : Option Instr :=
  if nbits w 19 1 = 0 ∧ nbits w 24 1 = 0 then some (.atomIntW (bits w 29 3) (bits w 28 1) (bits w 25 3) (bits w 20 4) (bits w 13 6) (bits w 12 1) (bits w 8 4)) else
  none

/-- Words of major 0x61: ATOM_INT_D. -/
def decodeMajor61 (w : Nat) : Option Instr :=
  if nbits w 19 1 = 0 ∧ nbits w 24 1 = 0 then some (.atomIntD (bits w 29 3) (bits w 28 1) (bits w 25 3) (bits w 20 4) (bits w 13 6) (bits w 12 1) (bits w 8 4)) else
  none

/-- Words of major 0x62: ATOM_SWAP, ATOM_CAS, ATOM_FADD, ATOM_FMIN_F32, ATOM_FMAX_F32. -/
def decodeMajor62 (w : Nat) : Option Instr :=
  if nbits w 19 1 = 0 ∧ nbits w 24 1 = 0 ∧ nbits w 26 2 = 0 then some (.atomSwap (bits w 29 3) (bits w 28 1) (bits w 25 1) (bits w 20 4) (bits w 13 6) (bits w 12 1) (bits w 8 4)) else
  if nbits w 19 1 = 0 ∧ nbits w 24 1 = 0 ∧ nbits w 26 2 = 1 then some (.atomCas (bits w 29 3) (bits w 28 1) (bits w 25 1) (bits w 20 4) (bits w 13 6) (bits w 12 1) (bits w 8 4)) else
  if nbits w 19 1 = 0 ∧ nbits w 24 1 = 0 ∧ nbits w 26 2 = 2 then some (.atomFadd (bits w 29 3) (bits w 28 1) (bits w 25 1) (bits w 20 4) (bits w 13 6) (bits w 12 1) (bits w 8 4)) else
  if nbits w 19 1 = 0 ∧ nbits w 24 4 = 12 then some (.atomFminF32 (bits w 29 3) (bits w 28 1) (bits w 20 4) (bits w 13 6) (bits w 12 1) (bits w 8 4)) else
  if nbits w 19 1 = 0 ∧ nbits w 24 4 = 14 then some (.atomFmaxF32 (bits w 29 3) (bits w 28 1) (bits w 20 4) (bits w 13 6) (bits w 12 1) (bits w 8 4)) else
  none

/-- Words of major 0x63: RED_INT_W. -/
def decodeMajor63 (w : Nat) : Option Instr :=
  if nbits w 19 1 = 0 ∧ nbits w 24 1 = 0 then some (.redIntW (bits w 29 3) (bits w 28 1) (bits w 25 3) (bits w 20 4) (bits w 13 6) (bits w 12 1) (bits w 8 4)) else
  none

/-- Words of major 0x64: RED_INT_D. -/
def decodeMajor64 (w : Nat) : Option Instr :=
  if nbits w 19 1 = 0 ∧ nbits w 24 1 = 0 then some (.redIntD (bits w 29 3) (bits w 28 1) (bits w 25 3) (bits w 20 4) (bits w 13 6) (bits w 12 1) (bits w 8 4)) else
  none

/-- Words of major 0x65: RED_FLOAT. -/
def decodeMajor65 (w : Nat) : Option Instr :=
  if nbits w 19 1 = 0 ∧ nbits w 24 1 = 0 then some (.redFloat (bits w 29 3) (bits w 28 1) (bits w 25 3) (bits w 20 4) (bits w 13 6) (bits w 12 1) (bits w 8 4)) else
  none

/-- Words of major 0x66: CAPLD. -/
def decodeMajor66 (w : Nat) : Option Instr :=
  if nbits w 16 3 = 0 then some (.capld (bits w 28 4) (bits w 25 3) (bits w 19 6) (bits w 13 3) (bits w 12 1) (bits w 8 4)) else
  none

/-- Words of major 0x67: CAPST. -/
def decodeMajor67 (w : Nat) : Option Instr :=
  if nbits w 16 3 = 0 then some (.capst (bits w 28 4) (bits w 25 3) (bits w 19 6) (bits w 13 3) (bits w 12 1) (bits w 8 4)) else
  none

/-- Words of major 0x68: XSET, XGET, XSTEP, XCUR. -/
def decodeMajor68 (w : Nat) : Option Instr :=
  if nbits w 16 3 = 0 ∧ nbits w 25 3 = 0 then some (.xset (bits w 28 4) (bits w 19 6) (bits w 13 3) (bits w 12 1) (bits w 8 4)) else
  if nbits w 22 6 = 8 then some (.xget (bits w 28 4) (bits w 19 3) (bits w 13 6) (bits w 12 1) (bits w 8 4)) else
  if nbits w 16 3 = 0 ∧ nbits w 25 3 = 2 then some (.xstep (bits w 28 4) (bits w 19 6) (bits w 13 3) (bits w 12 1) (bits w 8 4)) else
  if nbits w 16 3 = 0 ∧ nbits w 25 3 = 3 then some (.xcur (bits w 28 4) (bits w 19 6) (bits w 13 3) (bits w 12 1) (bits w 8 4)) else
  none

/-- Words of major 0x69: PUTREG. -/
def decodeMajor69 (w : Nat) : Option Instr :=
  if nbits w 18 1 = 0 ∧ nbits w 28 3 = 0 then some (.putreg (bits w 31 1) (bits w 25 3) (bits w 19 6) (bits w 13 5) (bits w 12 1) (bits w 8 4)) else
  none

/-- Words of major 0x6a: HOLD, GNAME, SJOIN, SLEAVE, SMAP. -/
def decodeMajor6a (w : Nat) : Option Instr :=
  if nbits w 19 9 = 0 then some (.hold (bits w 28 4) (bits w 13 6) (bits w 12 1) (bits w 8 4)) else
  if nbits w 16 12 = 512 then some (.gname (bits w 28 4) (bits w 13 3) (bits w 12 1) (bits w 8 4)) else
  if nbits w 13 6 = 0 ∧ nbits w 25 3 = 2 then some (.sjoin (bits w 28 4) (bits w 19 6) (bits w 12 1) (bits w 8 4)) else
  if nbits w 13 6 = 0 ∧ nbits w 25 3 = 3 then some (.sleave (bits w 28 4) (bits w 19 6) (bits w 12 1) (bits w 8 4)) else
  if nbits w 19 1 = 0 ∧ nbits w 24 4 = 8 then some (.smap (bits w 28 4) (bits w 20 4) (bits w 13 6) (bits w 12 1) (bits w 8 4)) else
  none

/-- Words of major 0x6b: LDC. -/
def decodeMajor6b (w : Nat) : Option Instr :=
  some (.ldc (bits w 29 3) (bits w 28 1) (bits w 25 3) (bits w 19 6) (bits w 13 6) (bits w 12 1) (bits w 8 4))

/-- Words of major 0x6c: STC. -/
def decodeMajor6c (w : Nat) : Option Instr :=
  some (.stc (bits w 29 3) (bits w 28 1) (bits w 25 3) (bits w 19 6) (bits w 13 6) (bits w 12 1) (bits w 8 4))

/-- Words of major 0x6d: AMOC, AMOC_RED. -/
def decodeMajor6d (w : Nat) : Option Instr :=
  if nbits w 28 1 = 0 then some (.amoc (bits w 29 3) (bits w 25 3) (bits w 19 6) (bits w 13 6) (bits w 12 1) (bits w 8 4)) else
  if nbits w 28 1 = 1 then some (.amocRed (bits w 29 3) (bits w 25 3) (bits w 19 6) (bits w 13 6) (bits w 12 1) (bits w 8 4)) else
  none

/-- Words of major 0x6e: CAPSET_A, CAPSET_B, CAPSET_P, CAPSET_SEAL, CAPRD. -/
def decodeMajor6e (w : Nat) : Option Instr :=
  if nbits w 25 3 = 0 then some (.capsetA (bits w 28 4) (bits w 19 6) (bits w 16 3) (bits w 13 3) (bits w 12 1) (bits w 8 4)) else
  if nbits w 25 3 = 1 then some (.capsetB (bits w 28 4) (bits w 19 6) (bits w 16 3) (bits w 13 3) (bits w 12 1) (bits w 8 4)) else
  if nbits w 25 3 = 2 then some (.capsetP (bits w 28 4) (bits w 19 6) (bits w 16 3) (bits w 13 3) (bits w 12 1) (bits w 8 4)) else
  if nbits w 19 9 = 192 then some (.capsetSeal (bits w 28 4) (bits w 16 3) (bits w 13 3) (bits w 12 1) (bits w 8 4)) else
  if nbits w 25 3 = 4 then some (.caprd (bits w 28 4) (bits w 19 6) (bits w 16 3) (bits w 13 3) (bits w 12 1) (bits w 8 4)) else
  none

/-- Words of major 0x70: CHDEF, CHPUSH, CHTAKE. -/
def decodeMajor70 (w : Nat) : Option Instr :=
  if nbits w 18 1 = 0 ∧ nbits w 25 3 = 0 then some (.chdef (bits w 28 4) (bits w 19 6) (bits w 13 5) (bits w 12 1) (bits w 8 4)) else
  if nbits w 18 1 = 0 ∧ nbits w 25 3 = 1 then some (.chpush (bits w 28 4) (bits w 19 6) (bits w 13 5) (bits w 12 1) (bits w 8 4)) else
  if nbits w 18 10 = 256 then some (.chtake (bits w 28 4) (bits w 13 5) (bits w 12 1) (bits w 8 4)) else
  none

/-- Words of major 0x71: COPY, RETILE, GATH, CHAIN, COLL. -/
def decodeMajor71 (w : Nat) : Option Instr :=
  if nbits w 15 4 = 0 ∧ nbits w 25 3 = 0 then some (.copy (bits w 28 4) (bits w 19 6) (bits w 14 1) (bits w 13 1) (bits w 12 1) (bits w 8 4)) else
  if nbits w 13 1 = 0 ∧ nbits w 15 4 = 0 ∧ nbits w 25 3 = 1 then some (.retile (bits w 28 4) (bits w 19 6) (bits w 14 1) (bits w 12 1) (bits w 8 4)) else
  if nbits w 13 1 = 0 ∧ nbits w 15 4 = 0 ∧ nbits w 25 3 = 2 then some (.gath (bits w 28 4) (bits w 19 6) (bits w 14 1) (bits w 12 1) (bits w 8 4)) else
  if nbits w 13 1 = 0 ∧ nbits w 15 4 = 0 ∧ nbits w 25 3 = 3 then some (.chain (bits w 28 4) (bits w 19 6) (bits w 14 1) (bits w 12 1) (bits w 8 4)) else
  if nbits w 13 1 = 0 ∧ nbits w 15 4 = 0 ∧ nbits w 25 3 = 4 then some (.coll (bits w 28 4) (bits w 19 6) (bits w 14 1) (bits w 12 1) (bits w 8 4)) else
  none

/-- Words of major 0x72: WOPEN, WFINAL. -/
def decodeMajor72 (w : Nat) : Option Instr :=
  if nbits w 25 3 = 0 then some (.wopen (bits w 28 4) (bits w 19 6) (bits w 13 6) (bits w 12 1) (bits w 8 4)) else
  if nbits w 13 6 = 0 ∧ nbits w 25 3 = 1 then some (.wfinal (bits w 28 4) (bits w 19 6) (bits w 12 1) (bits w 8 4)) else
  none

/-- Words of major 0x73: BKLOAD, BKVEC, BKRUN, BKDRAIN, OWNB, OWNC. -/
def decodeMajor73 (w : Nat) : Option Instr :=
  if nbits w 25 3 = 0 then some (.bkload (bits w 28 4) (bits w 19 6) (bits w 13 6) (bits w 12 1) (bits w 8 4)) else
  if nbits w 25 3 = 1 then some (.bkvec (bits w 28 4) (bits w 19 6) (bits w 13 6) (bits w 12 1) (bits w 8 4)) else
  if nbits w 25 3 = 2 then some (.bkrun (bits w 28 4) (bits w 19 6) (bits w 13 6) (bits w 12 1) (bits w 8 4)) else
  if nbits w 25 3 = 3 then some (.bkdrain (bits w 28 4) (bits w 19 6) (bits w 13 6) (bits w 12 1) (bits w 8 4)) else
  if nbits w 25 3 = 4 then some (.ownb (bits w 28 4) (bits w 19 6) (bits w 13 6) (bits w 12 1) (bits w 8 4)) else
  if nbits w 25 3 = 5 then some (.ownc (bits w 28 4) (bits w 19 6) (bits w 13 6) (bits w 12 1) (bits w 8 4)) else
  none

/-- Words of major 0x78: MRES, MREL. -/
def decodeMajor78 (w : Nat) : Option Instr :=
  if nbits w 8 4 = 15 ∧ nbits w 17 2 = 0 ∧ nbits w 23 9 = 0 then some (.mres (bits w 19 4) (bits w 13 4) (bits w 12 1)) else
  if nbits w 8 4 = 15 ∧ nbits w 17 15 = 256 then some (.mrel (bits w 13 4) (bits w 12 1)) else
  none

/-- Words of major 0x79: MLOAD, MCHIN. -/
def decodeMajor79 (w : Nat) : Option Instr :=
  if nbits w 8 4 = 15 ∧ nbits w 17 2 = 0 ∧ nbits w 23 9 = 0 then some (.mload (bits w 19 4) (bits w 13 4) (bits w 12 1)) else
  if nbits w 8 4 = 15 ∧ nbits w 17 2 = 0 ∧ nbits w 23 9 = 4 then some (.mchin (bits w 19 4) (bits w 13 4) (bits w 12 1)) else
  none

/-- Words of major 0x7a: MMA. -/
def decodeMajor7a (w : Nat) : Option Instr :=
  if nbits w 8 4 = 15 ∧ nbits w 16 3 = 0 ∧ nbits w 23 2 = 0 ∧ nbits w 29 2 = 0 then some (.mma (bits w 31 1) (bits w 25 4) (bits w 19 4) (bits w 13 3) (bits w 12 1)) else
  none

/-- Words of major 0x7b: MZERO, MOUT, MSTORE. -/
def decodeMajor7b (w : Nat) : Option Instr :=
  if nbits w 8 4 = 15 ∧ nbits w 16 16 = 0 then some (.mzero (bits w 13 3) (bits w 12 1)) else
  if nbits w 8 4 = 15 ∧ nbits w 16 3 = 0 ∧ nbits w 23 9 = 4 then some (.mout (bits w 19 4) (bits w 13 3) (bits w 12 1)) else
  if nbits w 8 4 = 15 ∧ nbits w 16 3 = 0 ∧ nbits w 23 9 = 8 then some (.mstore (bits w 19 4) (bits w 13 3) (bits w 12 1)) else
  none

/-- Words of major 0x7c: TRAP, TRET, TRET_NEXT, BRK, TICKET. -/
def decodeMajor7c (w : Nat) : Option Instr :=
  if nbits w 13 6 = 0 ∧ nbits w 25 7 = 0 then some (.trap (bits w 19 6) (bits w 12 1) (bits w 8 4)) else
  if nbits w 13 19 = 4096 then some (.tret (bits w 12 1) (bits w 8 4)) else
  if nbits w 13 19 = 4097 then some (.tretNext (bits w 12 1) (bits w 8 4)) else
  if nbits w 13 6 = 0 ∧ nbits w 25 7 = 2 then some (.brk (bits w 19 6) (bits w 12 1) (bits w 8 4)) else
  if nbits w 19 1 = 0 ∧ nbits w 24 8 = 6 then some (.ticket (bits w 20 4) (bits w 13 6) (bits w 12 1) (bits w 8 4)) else
  none

/-- Words of major 0x7d: MFS. -/
def decodeMajor7d (w : Nat) : Option Instr :=
  if nbits w 19 6 = 0 then some (.mfs (bits w 25 7) (bits w 13 6) (bits w 12 1) (bits w 8 4)) else
  none

/-- Words of major 0x7e: MTS. -/
def decodeMajor7e (w : Nat) : Option Instr :=
  if nbits w 13 6 = 0 then some (.mts (bits w 25 7) (bits w 19 6) (bits w 12 1) (bits w 8 4)) else
  none

/-- A 32-bit word by its major opcode (R176), before the checks on field values. -/
def decodeFields (w : Nat) : Option Instr :=
  let m := nbits w 1 7
  if m = 0x00 then decodeMajor00 w else
  if m = 0x01 then decodeMajor01 w else
  if m = 0x02 then decodeMajor02 w else
  if m = 0x03 then decodeMajor03 w else
  if m = 0x04 then decodeMajor04 w else
  if m = 0x05 then decodeMajor05 w else
  if m = 0x06 then decodeMajor06 w else
  if m = 0x07 then decodeMajor07 w else
  if m = 0x08 then decodeMajor08 w else
  if m = 0x09 then decodeMajor09 w else
  if m = 0x0a then decodeMajor0a w else
  if m = 0x0b then decodeMajor0b w else
  if m = 0x0c then decodeMajor0c w else
  if m = 0x0d then decodeMajor0d w else
  if m = 0x0e then decodeMajor0e w else
  if m = 0x0f then decodeMajor0f w else
  if m = 0x10 then decodeMajor10 w else
  if m = 0x11 then decodeMajor11 w else
  if m = 0x12 then decodeMajor12 w else
  if m = 0x13 then decodeMajor13 w else
  if m = 0x14 then decodeMajor14 w else
  if m = 0x15 then decodeMajor15 w else
  if m = 0x16 then decodeMajor16 w else
  if m = 0x17 then decodeMajor17 w else
  if m = 0x18 then decodeMajor18 w else
  if m = 0x19 then decodeMajor19 w else
  if m = 0x1a then decodeMajor1a w else
  if m = 0x1b then decodeMajor1b w else
  if m = 0x1c then decodeMajor1c w else
  if m = 0x1d then decodeMajor1d w else
  if m = 0x1e then decodeMajor1e w else
  if m = 0x1f then decodeMajor1f w else
  if m = 0x20 then decodeMajor20 w else
  if m = 0x21 then decodeMajor21 w else
  if m = 0x22 then decodeMajor22 w else
  if m = 0x23 then decodeMajor23 w else
  if m = 0x24 then decodeMajor24 w else
  if m = 0x25 then decodeMajor25 w else
  if m = 0x26 then decodeMajor26 w else
  if m = 0x27 then decodeMajor27 w else
  if m = 0x28 then decodeMajor28 w else
  if m = 0x29 then decodeMajor29 w else
  if m = 0x2a then decodeMajor2a w else
  if m = 0x2b then decodeMajor2b w else
  if m = 0x2c then decodeMajor2c w else
  if m = 0x2d then decodeMajor2d w else
  if m = 0x2e then decodeMajor2e w else
  if m = 0x2f then decodeMajor2f w else
  if m = 0x30 then decodeMajor30 w else
  if m = 0x31 then decodeMajor31 w else
  if m = 0x32 then decodeMajor32 w else
  if m = 0x33 then decodeMajor33 w else
  if m = 0x34 then decodeMajor34 w else
  if m = 0x35 then decodeMajor35 w else
  if m = 0x36 then decodeMajor36 w else
  if m = 0x38 then decodeMajor38 w else
  if m = 0x39 then decodeMajor39 w else
  if m = 0x3a then decodeMajor3a w else
  if m = 0x3b then decodeMajor3b w else
  if m = 0x3c then decodeMajor3c w else
  if m = 0x3d then decodeMajor3d w else
  if m = 0x3e then decodeMajor3e w else
  if m = 0x40 then decodeMajor40 w else
  if m = 0x41 then decodeMajor41 w else
  if m = 0x42 then decodeMajor42 w else
  if m = 0x43 then decodeMajor43 w else
  if m = 0x44 then decodeMajor44 w else
  if m = 0x45 then decodeMajor45 w else
  if m = 0x46 then decodeMajor46 w else
  if m = 0x47 then decodeMajor47 w else
  if m = 0x48 then decodeMajor48 w else
  if m = 0x49 then decodeMajor49 w else
  if m = 0x4a then decodeMajor4a w else
  if m = 0x4b then decodeMajor4b w else
  if m = 0x4c then decodeMajor4c w else
  if m = 0x4d then decodeMajor4d w else
  if m = 0x4e then decodeMajor4e w else
  if m = 0x4f then decodeMajor4f w else
  if m = 0x50 then decodeMajor50 w else
  if m = 0x51 then decodeMajor51 w else
  if m = 0x52 then decodeMajor52 w else
  if m = 0x53 then decodeMajor53 w else
  if m = 0x54 then decodeMajor54 w else
  if m = 0x55 then decodeMajor55 w else
  if m = 0x56 then decodeMajor56 w else
  if m = 0x57 then decodeMajor57 w else
  if m = 0x58 then decodeMajor58 w else
  if m = 0x59 then decodeMajor59 w else
  if m = 0x5a then decodeMajor5a w else
  if m = 0x5b then decodeMajor5b w else
  if m = 0x5c then decodeMajor5c w else
  if m = 0x5d then decodeMajor5d w else
  if m = 0x5e then decodeMajor5e w else
  if m = 0x5f then decodeMajor5f w else
  if m = 0x60 then decodeMajor60 w else
  if m = 0x61 then decodeMajor61 w else
  if m = 0x62 then decodeMajor62 w else
  if m = 0x63 then decodeMajor63 w else
  if m = 0x64 then decodeMajor64 w else
  if m = 0x65 then decodeMajor65 w else
  if m = 0x66 then decodeMajor66 w else
  if m = 0x67 then decodeMajor67 w else
  if m = 0x68 then decodeMajor68 w else
  if m = 0x69 then decodeMajor69 w else
  if m = 0x6a then decodeMajor6a w else
  if m = 0x6b then decodeMajor6b w else
  if m = 0x6c then decodeMajor6c w else
  if m = 0x6d then decodeMajor6d w else
  if m = 0x6e then decodeMajor6e w else
  if m = 0x70 then decodeMajor70 w else
  if m = 0x71 then decodeMajor71 w else
  if m = 0x72 then decodeMajor72 w else
  if m = 0x73 then decodeMajor73 w else
  if m = 0x78 then decodeMajor78 w else
  if m = 0x79 then decodeMajor79 w else
  if m = 0x7a then decodeMajor7a w else
  if m = 0x7b then decodeMajor7b w else
  if m = 0x7c then decodeMajor7c w else
  if m = 0x7d then decodeMajor7d w else
  if m = 0x7e then decodeMajor7e w else
  none

/-- A 16-bit form (R180): the operation is bits [4:1]. -/
def decodeShort (w : Nat) : Option Instr :=
  let op := nbits w 1 4
  if op = 0 then some (.add16 (bits w 11 5) (bits w 5 6)) else
  if op = 1 then some (.sub16 (bits w 11 5) (bits w 5 6)) else
  if op = 2 then some (.mul16 (bits w 11 5) (bits w 5 6)) else
  if op = 3 then some (.and16 (bits w 11 5) (bits w 5 6)) else
  if op = 4 then some (.or16 (bits w 11 5) (bits w 5 6)) else
  if op = 5 then some (.xor16 (bits w 11 5) (bits w 5 6)) else
  if op = 6 then some (.shl16 (bits w 11 5) (bits w 5 6)) else
  if op = 7 then some (.shr16 (bits w 11 5) (bits w 5 6)) else
  if op = 8 then some (.sra16 (bits w 11 5) (bits w 5 6)) else
  if op = 9 then some (.mov16 (bits w 11 5) (bits w 5 6)) else
  if op = 10 then some (.min16 (bits w 11 5) (bits w 5 6)) else
  if op = 11 then some (.max16 (bits w 11 5) (bits w 5 6)) else
  if op = 12 then some (.fadd16 (bits w 11 5) (bits w 5 6)) else
  if op = 13 then some (.fmul16 (bits w 11 5) (bits w 5 6)) else
  if op = 14 then some (.fmad16 (bits w 11 5) (bits w 5 6)) else
  if op = 15 then some (.fmax16 (bits w 11 5) (bits w 5 6)) else
  none

/-- A bench program word (R311): read by its fetch slot if it fetches, else by its arithmetic slot, else by its write-back slot.
The word whose three slots are all no-operations is no row of the table. -/
def decodeBench (w : Nat) : Option Instr :=
  if nbits w 26 6 = 8 then some (.fd (bits w 24 2) (bits w 8 16) (bits w 0 8)) else
  if nbits w 28 4 = 4 then some (.fs (bits w 26 2) (bits w 25 1) (bits w 24 1) (bits w 8 16) (bits w 0 8)) else
  if nbits w 8 4 = 0 ∧ nbits w 20 4 = 1 then some (.mac (bits w 24 8) (bits w 18 2) (bits w 16 2) (bits w 13 3) (bits w 12 1) (bits w 0 8)) else
  if nbits w 8 10 = 0 ∧ nbits w 20 4 = 2 then some (.yzero (bits w 24 8) (bits w 18 2) (bits w 0 8)) else
  if nbits w 0 3 = 0 ∧ nbits w 5 3 = 1 then some (.push (bits w 24 8) (bits w 8 16) (bits w 3 2)) else
  if nbits w 0 8 = 64 then some (.next (bits w 24 8) (bits w 8 16)) else
  if nbits w 0 3 = 0 ∧ nbits w 5 3 = 3 then some (.pushn (bits w 24 8) (bits w 8 16) (bits w 3 2)) else
  none

/-- Which bits R175 and R176 require to be zero, by major and sub-op (8: whatever the sub-op). -/
def zeroBits : List (Nat × Nat × Nat) :=
  [(0x18, 8, 0x40000), (0x19, 8, 0x40000), (0x1a, 8, 0x40000), (0x1b, 8, 0x40000), (0x1c, 8, 0x1860000), (0x1d, 0, 0xf1800000), (0x1d, 1, 0xf0060000), (0x1d, 2, 0xf1fe0000), (0x1d, 3, 0xf1fe0000), (0x3a, 0, 0x7e000), (0x3a, 2, 0x7e000), (0x3b, 0, 0x1ffe000)] ++
  [(0x3b, 1, 0x1ff8000), (0x3b, 2, 0x1ff8000), (0x3b, 3, 0x1ff8000), (0x3b, 4, 0x1ffe000), (0x3b, 5, 0x1ffe000), (0x3e, 0, 0x1ffe000), (0x3e, 1, 0x1ffe000), (0x3e, 2, 0x1ffe000), (0x3e, 4, 0x1ffe000), (0x48, 8, 0x41040000), (0x49, 8, 0x41040000), (0x4a, 8, 0x1040000)] ++
  [(0x4b, 8, 0x40000), (0x4c, 8, 0x40000), (0x4f, 0, 0x40000), (0x5e, 8, 0x7e000), (0x66, 8, 0x70000), (0x67, 8, 0x70000), (0x68, 0, 0x70000), (0x68, 1, 0x1c00000), (0x68, 2, 0x70000), (0x68, 3, 0x70000), (0x69, 8, 0x70040000), (0x6a, 0, 0x1f80000)] ++
  [(0x6a, 1, 0x1ff0000), (0x6a, 2, 0x7e000), (0x6a, 3, 0x7e000), (0x6e, 3, 0x1f80000), (0x70, 0, 0x40000), (0x70, 1, 0x40000), (0x70, 2, 0x1fc0000), (0x71, 0, 0x78000), (0x71, 1, 0x7a000), (0x71, 2, 0x7a000), (0x71, 3, 0x7a000), (0x71, 4, 0x7a000)] ++
  [(0x72, 1, 0x7e000), (0x78, 0, 0xf1860000), (0x78, 1, 0xf1fe0000), (0x79, 0, 0xf1860000), (0x79, 1, 0xf1860000), (0x7a, 8, 0x61870000), (0x7b, 0, 0xf1ff0000), (0x7b, 1, 0xf1870000), (0x7b, 2, 0xf1870000), (0x7c, 0, 0x7e000), (0x7c, 1, 0x1ffc000), (0x7c, 2, 0x7e000)] ++
  [(0x7d, 8, 0x1f80000), (0x7e, 8, 0x7e000)]

/-- Majors that R176 does not assign (R177). -/
def badMajor (m : Nat) : Bool :=
  m == 0x37 || m == 0x3F || m == 0x6F || (0x74 ≤ m && m ≤ 0x77) || m == 0x7F

/-- How many sub-ops of [27:25] a major assigns; 8 where it assigns all or has none (R176). -/
def subOps (m : Nat) : Nat :=
  if m = 0x1C ∨ m = 0x3B ∨ m = 0x45 ∨ m = 0x65 ∨ m = 0x73 then 6
  else if m = 0x1D ∨ m = 0x35 ∨ m = 0x43 ∨ m = 0x68 ∨ m = 0x7C then 4
  else if m = 0x2E then 7
  else if m = 0x3A ∨ m = 0x70 ∨ m = 0x7B then 3
  else if m = 0x3C ∨ m = 0x3D ∨ m = 0x4F then 1
  else if m = 0x3E ∨ m = 0x6A ∨ m = 0x6E ∨ m = 0x71 then 5
  else if m = 0x72 ∨ m = 0x78 ∨ m = 0x79 then 2
  else 8

/-- R402 SUB 2: a sub-op, variant or scope code that the major does not assign (DEDUCED for the scope codes, notes/assumptions/3.md). -/
def badSubOp (w : Nat) : Bool :=
  let m := nbits w 1 7
  let u := nbits w 25 3
  let scope := nbits w 29 3
  decide (subOps m ≤ u) || (m == 0x40 && u == 3)
    || ((m == 0x18 || m == 0x19 || m == 0x41) && nbits w 31 1 == 1)
    || ((0x5A ≤ m && m ≤ 0x5F || 0x60 ≤ m && m ≤ 0x65 || m == 0x3E && u < 2) && 6 ≤ scope)

/-- R402 SUB 3: a non-zero bit where the layout requires zero. -/
def badZero (w : Nat) : Bool :=
  let m := nbits w 1 7
  let u := nbits w 25 3
  zeroBits.any fun (m', u', z) => m' == m && (u' == 8 || u' == u) && (w &&& z) != 0

/-- R402 SUB 4: a predicate selector 12-14, or a predicate field p12-p15. -/
def badPredicate (w : Nat) : Bool :=
  let m := nbits w 1 7
  let u := nbits w 25 3
  let sel := nbits w 8 4
  (12 ≤ sel && sel ≤ 14)
    || ((0x18 ≤ m && m ≤ 0x1C || m == 0x2C || m == 0x1D && u != 0) && 12 ≤ nbits w 13 4)
    || ((m == 0x1C || m == 0x1D && u == 0) && 12 ≤ nbits w 19 4)
    || (m == 0x1C && 12 ≤ nbits w 28 4)

/-- R402 SUB 6: a non-zero lookahead in CONV, SYNC, SAFEPT or SYS. -/
def badLookahead (w : Nat) : Bool :=
  let m := nbits w 1 7
  let u := nbits w 25 3
  ((m == 0x3B || m == 0x3C || m == 0x7C || m == 0x3E && 2 ≤ u) && nbits w 28 4 != 0)
    || (m == 0x3E && u < 2 && nbits w 28 1 != 0)

/-- R402 SUB 7: an immediate or literal out of range. -/
def badLiteral (w : Nat) : Bool :=
  let m := nbits w 1 7
  (0x13 ≤ m && m ≤ 0x15 && 32 ≤ nbits w 25 7) || (m == 0x3C && 17 ≤ nbits w 13 5)
    || ((m == 0x6B || m == 0x6C) && 5 ≤ nbits w 29 3) || (m == 0x6E && nbits w 25 3 == 4 && 5 ≤ nbits w 13 3)

/-- The operand field that a word's layout fixes to a named register, a pair, v(4n) or a k register, as code 0x02's SUB and the
specifier (R400, R402). -/
def badField (w : Nat) : Illegal :=
  let m := nbits w 1 7
  if m = 0x54 ∨ m = 0x59 then ⟨2, 4, nbits w 13 6⟩
  else if m = 0x4D ∨ m = 0x4E then ⟨2, 5, nbits w 19 6⟩
  else if m = 0x47 then ⟨2, 3, nbits w 25 6⟩
  else ⟨2, 2, nbits w 19 6⟩

/-- The trap that a refused 32-bit word takes: the least SUB of code 0x01 that applies, else code 0x02 (R402). That the least SUB comes
first is DEDUCED (notes/assumptions/3.md). -/
def illegal32 (w : Nat) : Illegal :=
  if badMajor (nbits w 1 7) then ⟨1, 1, 0⟩
  else if badSubOp w then ⟨1, 2, 0⟩
  else if badZero w then ⟨1, 3, 0⟩
  else if badPredicate w then ⟨1, 4, 0⟩
  else if badLookahead w then ⟨1, 6, 0⟩
  else if badLiteral w then ⟨1, 7, 0⟩
  else if 0x78 ≤ nbits w 1 7 ∧ nbits w 1 7 ≤ 0x7B then ⟨1, 8, 0⟩
  else badField w

/-- A 32-bit word of a thread or stream (R171): its instruction, or why it is refused. -/
def decode32 (w : Nat) : Except Illegal Instr :=
  match decodeFields w with
  | some i => if i.wf then .ok i else .error (illegal32 w)
  | none => .error (illegal32 w)

/-- A 16-bit word (R180, R181): the halfword 0x0000 is illegal. -/
def decode16 (w : Nat) : Except Illegal Instr :=
  match decodeShort w with
  | some i => if i.wf then .ok i else .error ⟨1, 5, 0⟩
  | none => .error ⟨1, 5, 0⟩

/-- A bench program word (R311), or none where BKLOAD refuses it or its slots are all no-operations. -/
def decodeWord (w : Nat) : Option Instr :=
  match decodeBench w with
  | some i => if i.wf then some i else none
  | none => none

/-- Read an instruction from bytes, the byte at the lowest address first (R2, R170): the instruction or the reason it is refused, and how
many bytes it takes. A list too short for its instruction reads zero bytes beyond its end. -/
def decodeBytes (b : List (BitVec 8)) : Except Illegal Instr × Nat :=
  let byte := fun n => (b.getD n 0).toNat
  let first := byte 0 + 256 * byte 1
  if first % 2 = 0 then (decode16 first, 2)
  else (decode32 (first + 65536 * (byte 2 + 256 * byte 3)), 4)

/-- The instruction a table word denotes. A 32-bit word whose bit 0 is 0 is a bench word: a lane instruction of that length has bit 0 = 1
(R170), and a bench word has [2:0] = 0 (R311). -/
def decodeTableWord (nbits w : Nat) : Option Instr :=
  if nbits = 16 then (decode16 (w % 65536)).toOption
  else if w % 2 = 1 then (decode32 w).toOption
  else decodeWord w

/-- Fields added to a word: each value shifted to the place of its lowest bit. -/
def place (w : Nat) : List (Nat × Nat) → Nat
  | [] => w
  | (v, lo) :: r => place (w + v * 2 ^ lo) r

/-- The words of an instruction, with how many bits they take (R171, R175, R176, R180, R311); an event has none. -/
def encode : Instr → Option (Nat × Nat)
  | .add v b a d n p => some (32, place 0x1 [(v.toNat, 31), (b.toNat, 25), (a.toNat, 19), (d.toNat, 13), (n.toNat, 12), (p.toNat, 8)])
  | .sub v b a d n p => some (32, place 0x3 [(v.toNat, 31), (b.toNat, 25), (a.toNat, 19), (d.toNat, 13), (n.toNat, 12), (p.toNat, 8)])
  | .mul v b a d n p => some (32, place 0x5 [(v.toNat, 31), (b.toNat, 25), (a.toNat, 19), (d.toNat, 13), (n.toNat, 12), (p.toNat, 8)])
  | .mulh v b a d n p => some (32, place 0x7 [(v.toNat, 31), (b.toNat, 25), (a.toNat, 19), (d.toNat, 13), (n.toNat, 12), (p.toNat, 8)])
  | .div v b a d n p => some (32, place 0x9 [(v.toNat, 31), (b.toNat, 25), (a.toNat, 19), (d.toNat, 13), (n.toNat, 12), (p.toNat, 8)])
  | .rem v b a d n p => some (32, place 0xb [(v.toNat, 31), (b.toNat, 25), (a.toNat, 19), (d.toNat, 13), (n.toNat, 12), (p.toNat, 8)])
  | .and v b a d n p => some (32, place 0xd [(v.toNat, 31), (b.toNat, 25), (a.toNat, 19), (d.toNat, 13), (n.toNat, 12), (p.toNat, 8)])
  | .or v b a d n p => some (32, place 0xf [(v.toNat, 31), (b.toNat, 25), (a.toNat, 19), (d.toNat, 13), (n.toNat, 12), (p.toNat, 8)])
  | .xor v b a d n p => some (32, place 0x11 [(v.toNat, 31), (b.toNat, 25), (a.toNat, 19), (d.toNat, 13), (n.toNat, 12), (p.toNat, 8)])
  | .andn v b a d n p => some (32, place 0x13 [(v.toNat, 31), (b.toNat, 25), (a.toNat, 19), (d.toNat, 13), (n.toNat, 12), (p.toNat, 8)])
  | .shl v b a d n p => some (32, place 0x15 [(v.toNat, 31), (b.toNat, 25), (a.toNat, 19), (d.toNat, 13), (n.toNat, 12), (p.toNat, 8)])
  | .shr v b a d n p => some (32, place 0x17 [(v.toNat, 31), (b.toNat, 25), (a.toNat, 19), (d.toNat, 13), (n.toNat, 12), (p.toNat, 8)])
  | .sra v b a d n p => some (32, place 0x19 [(v.toNat, 31), (b.toNat, 25), (a.toNat, 19), (d.toNat, 13), (n.toNat, 12), (p.toNat, 8)])
  | .min v b a d n p => some (32, place 0x1b [(v.toNat, 31), (b.toNat, 25), (a.toNat, 19), (d.toNat, 13), (n.toNat, 12), (p.toNat, 8)])
  | .max v b a d n p => some (32, place 0x1d [(v.toNat, 31), (b.toNat, 25), (a.toNat, 19), (d.toNat, 13), (n.toNat, 12), (p.toNat, 8)])
  | .addi i a d n p => some (32, place 0x1f [(i.toNat, 25), (a.toNat, 19), (d.toNat, 13), (n.toNat, 12), (p.toNat, 8)])
  | .andi i a d n p => some (32, place 0x21 [(i.toNat, 25), (a.toNat, 19), (d.toNat, 13), (n.toNat, 12), (p.toNat, 8)])
  | .ori i a d n p => some (32, place 0x23 [(i.toNat, 25), (a.toNat, 19), (d.toNat, 13), (n.toNat, 12), (p.toNat, 8)])
  | .xori i a d n p => some (32, place 0x25 [(i.toNat, 25), (a.toNat, 19), (d.toNat, 13), (n.toNat, 12), (p.toNat, 8)])
  | .shli i a d n p => some (32, place 0x27 [(i.toNat, 25), (a.toNat, 19), (d.toNat, 13), (n.toNat, 12), (p.toNat, 8)])
  | .shri i a d n p => some (32, place 0x29 [(i.toNat, 25), (a.toNat, 19), (d.toNat, 13), (n.toNat, 12), (p.toNat, 8)])
  | .srai i a d n p => some (32, place 0x2b [(i.toNat, 25), (a.toNat, 19), (d.toNat, 13), (n.toNat, 12), (p.toNat, 8)])
  | .movi i d n p => some (32, place 0x2d [(i.toNat, 19), (d.toNat, 13), (n.toNat, 12), (p.toNat, 8)])
  | .movh i d n p => some (32, place 0x2f [(i.toNat, 19), (d.toNat, 13), (n.toNat, 12), (p.toNat, 8)])
  | .ceq b a w q n p => some (32, place 0x31 [(b.toNat, 25), (a.toNat, 19), (w.toNat, 17), (q.toNat, 13), (n.toNat, 12), (p.toNat, 8)])
  | .cne b a w q n p => some (32, place 0x33 [(b.toNat, 25), (a.toNat, 19), (w.toNat, 17), (q.toNat, 13), (n.toNat, 12), (p.toNat, 8)])
  | .clt v b a w q n p => some (32, place 0x35 [(v.toNat, 31), (b.toNat, 25), (a.toNat, 19), (w.toNat, 17), (q.toNat, 13), (n.toNat, 12), (p.toNat, 8)])
  | .cle v b a w q n p => some (32, place 0x37 [(v.toNat, 31), (b.toNat, 25), (a.toNat, 19), (w.toNat, 17), (q.toNat, 13), (n.toNat, 12), (p.toNat, 8)])
  | .plog b u a d n p => some (32, place 0x39 [(b.toNat, 28), (u.toNat, 25), (a.toNat, 19), (d.toNat, 13), (n.toNat, 12), (p.toNat, 8)])
  | .prd a d n p => some (32, place 0x3b [(a.toNat, 19), (d.toNat, 13), (n.toNat, 12), (p.toNat, 8)])
  | .pwr a d n p => some (32, place 0x200003b [(a.toNat, 19), (d.toNat, 13), (n.toNat, 12), (p.toNat, 8)])
  | .pset d n p => some (32, place 0x400003b [(d.toNat, 13), (n.toNat, 12), (p.toNat, 8)])
  | .pclr d n p => some (32, place 0x600003b [(d.toNat, 13), (n.toNat, 12), (p.toNat, 8)])
  | .popc l a d n p => some (32, place 0x3d [(l.toNat, 28), (a.toNat, 19), (d.toNat, 13), (n.toNat, 12), (p.toNat, 8)])
  | .clz l a d n p => some (32, place 0x200003d [(l.toNat, 28), (a.toNat, 19), (d.toNat, 13), (n.toNat, 12), (p.toNat, 8)])
  | .ctz l a d n p => some (32, place 0x400003d [(l.toNat, 28), (a.toNat, 19), (d.toNat, 13), (n.toNat, 12), (p.toNat, 8)])
  | .brev l a d n p => some (32, place 0x600003d [(l.toNat, 28), (a.toNat, 19), (d.toNat, 13), (n.toNat, 12), (p.toNat, 8)])
  | .bswap l a d n p => some (32, place 0x800003d [(l.toNat, 28), (a.toNat, 19), (d.toNat, 13), (n.toNat, 12), (p.toNat, 8)])
  | .sexb l a d n p => some (32, place 0xa00003d [(l.toNat, 28), (a.toNat, 19), (d.toNat, 13), (n.toNat, 12), (p.toNat, 8)])
  | .sexh l a d n p => some (32, place 0xc00003d [(l.toNat, 28), (a.toNat, 19), (d.toNat, 13), (n.toNat, 12), (p.toNat, 8)])
  | .movd l a d n p => some (32, place 0xe00003d [(l.toNat, 28), (a.toNat, 19), (d.toNat, 13), (n.toNat, 12), (p.toNat, 8)])
  | .bfe v b a d n p => some (32, place 0x3f [(v.toNat, 31), (b.toNat, 25), (a.toNat, 19), (d.toNat, 13), (n.toNat, 12), (p.toNat, 8)])
  | .fadd v b a d n p => some (32, place 0x41 [(v.toNat, 31), (b.toNat, 25), (a.toNat, 19), (d.toNat, 13), (n.toNat, 12), (p.toNat, 8)])
  | .fsub v b a d n p => some (32, place 0x43 [(v.toNat, 31), (b.toNat, 25), (a.toNat, 19), (d.toNat, 13), (n.toNat, 12), (p.toNat, 8)])
  | .fmul v b a d n p => some (32, place 0x45 [(v.toNat, 31), (b.toNat, 25), (a.toNat, 19), (d.toNat, 13), (n.toNat, 12), (p.toNat, 8)])
  | .fdiv v b a d n p => some (32, place 0x47 [(v.toNat, 31), (b.toNat, 25), (a.toNat, 19), (d.toNat, 13), (n.toNat, 12), (p.toNat, 8)])
  | .fmin v b a d n p => some (32, place 0x49 [(v.toNat, 31), (b.toNat, 25), (a.toNat, 19), (d.toNat, 13), (n.toNat, 12), (p.toNat, 8)])
  | .fmax v b a d n p => some (32, place 0x4b [(v.toNat, 31), (b.toNat, 25), (a.toNat, 19), (d.toNat, 13), (n.toNat, 12), (p.toNat, 8)])
  | .fmac v b a d n p => some (32, place 0x4d [(v.toNat, 31), (b.toNat, 25), (a.toNat, 19), (d.toNat, 13), (n.toNat, 12), (p.toNat, 8)])
  | .fnmac v b a d n p => some (32, place 0x4f [(v.toNat, 31), (b.toNat, 25), (a.toNat, 19), (d.toNat, 13), (n.toNat, 12), (p.toNat, 8)])
  | .hadd v b a d n p => some (32, place 0x51 [(v.toNat, 31), (b.toNat, 25), (a.toNat, 19), (d.toNat, 13), (n.toNat, 12), (p.toNat, 8)])
  | .hsub v b a d n p => some (32, place 0x53 [(v.toNat, 31), (b.toNat, 25), (a.toNat, 19), (d.toNat, 13), (n.toNat, 12), (p.toNat, 8)])
  | .hmul v b a d n p => some (32, place 0x55 [(v.toNat, 31), (b.toNat, 25), (a.toNat, 19), (d.toNat, 13), (n.toNat, 12), (p.toNat, 8)])
  | .hmac v b a d n p => some (32, place 0x57 [(v.toNat, 31), (b.toNat, 25), (a.toNat, 19), (d.toNat, 13), (n.toNat, 12), (p.toNat, 8)])
  | .fcmp v b a c q n p => some (32, place 0x59 [(v.toNat, 31), (b.toNat, 25), (a.toNat, 19), (c.toNat, 17), (q.toNat, 13), (n.toNat, 12), (p.toNat, 8)])
  | .frcp l a d n p => some (32, place 0x5b [(l.toNat, 28), (a.toNat, 19), (d.toNat, 13), (n.toNat, 12), (p.toNat, 8)])
  | .frsq l a d n p => some (32, place 0x200005b [(l.toNat, 28), (a.toNat, 19), (d.toNat, 13), (n.toNat, 12), (p.toNat, 8)])
  | .fsqrtF32 l a d n p => some (32, place 0x400005b [(l.toNat, 28), (a.toNat, 19), (d.toNat, 13), (n.toNat, 12), (p.toNat, 8)])
  | .fexp2 l a d n p => some (32, place 0x600005b [(l.toNat, 28), (a.toNat, 19), (d.toNat, 13), (n.toNat, 12), (p.toNat, 8)])
  | .flog2 l a d n p => some (32, place 0x800005b [(l.toNat, 28), (a.toNat, 19), (d.toNat, 13), (n.toNat, 12), (p.toNat, 8)])
  | .fsin l a d n p => some (32, place 0xa00005b [(l.toNat, 28), (a.toNat, 19), (d.toNat, 13), (n.toNat, 12), (p.toNat, 8)])
  | .fcos l a d n p => some (32, place 0xc00005b [(l.toNat, 28), (a.toNat, 19), (d.toNat, 13), (n.toNat, 12), (p.toNat, 8)])
  | .ftanh l a d n p => some (32, place 0xe00005b [(l.toNat, 28), (a.toNat, 19), (d.toNat, 13), (n.toNat, 12), (p.toNat, 8)])
  | .fabsF32 l a d n p => some (32, place 0x5d [(l.toNat, 28), (a.toNat, 19), (d.toNat, 13), (n.toNat, 12), (p.toNat, 8)])
  | .fnegF32 l a d n p => some (32, place 0x200005d [(l.toNat, 28), (a.toNat, 19), (d.toNat, 13), (n.toNat, 12), (p.toNat, 8)])
  | .fabsF64 l a d n p => some (32, place 0x400005d [(l.toNat, 28), (a.toNat, 19), (d.toNat, 13), (n.toNat, 12), (p.toNat, 8)])
  | .fnegF64 l a d n p => some (32, place 0x600005d [(l.toNat, 28), (a.toNat, 19), (d.toNat, 13), (n.toNat, 12), (p.toNat, 8)])
  | .fclassF32 l a d n p => some (32, place 0x800005d [(l.toNat, 28), (a.toNat, 19), (d.toNat, 13), (n.toNat, 12), (p.toNat, 8)])
  | .fclassF64 l a d n p => some (32, place 0xa00005d [(l.toNat, 28), (a.toNat, 19), (d.toNat, 13), (n.toNat, 12), (p.toNat, 8)])
  | .fsqrtF64 l a d n p => some (32, place 0xc00005d [(l.toNat, 28), (a.toNat, 19), (d.toNat, 13), (n.toNat, 12), (p.toNat, 8)])
  | .fscale v b a d n p => some (32, place 0x5f [(v.toNat, 31), (b.toNat, 25), (a.toNat, 19), (d.toNat, 13), (n.toNat, 12), (p.toNat, 8)])
  | .cvtf l u a d n p => some (32, place 0x61 [(l.toNat, 28), (u.toNat, 25), (a.toNat, 19), (d.toNat, 13), (n.toNat, 12), (p.toNat, 8)])
  | .cvti l u a d n p => some (32, place 0x63 [(l.toNat, 28), (u.toNat, 25), (a.toNat, 19), (d.toNat, 13), (n.toNat, 12), (p.toNat, 8)])
  | .qnt v b a d n p => some (32, place 0x65 [(v.toNat, 31), (b.toNat, 25), (a.toNat, 19), (d.toNat, 13), (n.toNat, 12), (p.toNat, 8)])
  | .dqnt v b a d n p => some (32, place 0x67 [(v.toNat, 31), (b.toNat, 25), (a.toNat, 19), (d.toNat, 13), (n.toNat, 12), (p.toNat, 8)])
  | .pack v b a d n p => some (32, place 0x69 [(v.toNat, 31), (b.toNat, 25), (a.toNat, 19), (d.toNat, 13), (n.toNat, 12), (p.toNat, 8)])
  | .unpk l u a d n p => some (32, place 0x6b [(l.toNat, 28), (u.toNat, 25), (a.toNat, 19), (d.toNat, 13), (n.toNat, 12), (p.toNat, 8)])
  | .mxsc l u a d n p => some (32, place 0x6d [(l.toNat, 28), (u.toNat, 25), (a.toNat, 19), (d.toNat, 13), (n.toNat, 12), (p.toNat, 8)])
  | .br d n p => some (32, place 0x71 [(d.toNat, 13), (n.toNat, 12), (p.toNat, 8)])
  | .call d n p => some (32, place 0x73 [(d.toNat, 13), (n.toNat, 12), (p.toNat, 8)])
  | .jmp l a n p => some (32, place 0x75 [(l.toNat, 28), (a.toNat, 19), (n.toNat, 12), (p.toNat, 8)])
  | .callr l a d n p => some (32, place 0x2000075 [(l.toNat, 28), (a.toNat, 19), (d.toNat, 13), (n.toNat, 12), (p.toNat, 8)])
  | .ret l a n p => some (32, place 0x4000075 [(l.toNat, 28), (a.toNat, 19), (n.toNat, 12), (p.toNat, 8)])
  | .reform n p => some (32, place 0x77 [(n.toNat, 12), (p.toNat, 8)])
  | .enrol j n p => some (32, place 0x2000077 [(j.toNat, 13), (n.toNat, 12), (p.toNat, 8)])
  | .park j n p => some (32, place 0x4000077 [(j.toNat, 13), (n.toNat, 12), (p.toNat, 8)])
  | .strike j n p => some (32, place 0x6000077 [(j.toNat, 13), (n.toNat, 12), (p.toNat, 8)])
  | .exit n p => some (32, place 0x8000077 [(n.toNat, 12), (p.toNat, 8)])
  | .nop n p => some (32, place 0xa000077 [(n.toNat, 12), (p.toNat, 8)])
  | .safept k f c n p => some (32, place 0x1c00079 [(k.toNat, 19), (f.toNat, 18), (c.toNat, 13), (n.toNat, 12), (p.toNat, 8)])
  | .spawn x a d n p => some (32, place 0x7b [(x.toNat, 28), (a.toNat, 19), (d.toNat, 13), (n.toNat, 12), (p.toNat, 8)])
  | .bar c n p => some (32, place 0x7d [(c.toNat, 29), (n.toNat, 12), (p.toNat, 8)])
  | .gbar c n p => some (32, place 0x200007d [(c.toNat, 29), (n.toNat, 12), (p.toNat, 8)])
  | .fenceIo n p => some (32, place 0x400007d [(n.toNat, 12), (p.toNat, 8)])
  | .codepub a d n p => some (32, place 0x600007d [(a.toNat, 19), (d.toNat, 13), (n.toNat, 12), (p.toNat, 8)])
  | .isync n p => some (32, place 0x800007d [(n.toNat, 12), (p.toNat, 8)])
  | .qxH l a d n p => some (32, place 0x81 [(l.toNat, 28), (a.toNat, 19), (d.toNat, 13), (n.toNat, 12), (p.toNat, 8)])
  | .qxV l a d n p => some (32, place 0x2000081 [(l.toNat, 28), (a.toNat, 19), (d.toNat, 13), (n.toNat, 12), (p.toNat, 8)])
  | .qxD l a d n p => some (32, place 0x4000081 [(l.toNat, 28), (a.toNat, 19), (d.toNat, 13), (n.toNat, 12), (p.toNat, 8)])
  | .qbc l k a d n p => some (32, place 0x8000081 [(l.toNat, 28), (k.toNat, 25), (a.toNat, 19), (d.toNat, 13), (n.toNat, 12), (p.toNat, 8)])
  | .perm b a d n p => some (32, place 0x83 [(b.toNat, 25), (a.toNat, 19), (d.toNat, 13), (n.toNat, 12), (p.toNat, 8)])
  | .shfl m k a d n p => some (32, place 0x85 [(m.toNat, 30), (k.toNat, 25), (a.toNat, 19), (d.toNat, 13), (n.toNat, 12), (p.toNat, 8)])
  | .vote l u a d n p => some (32, place 0x87 [(l.toNat, 28), (u.toNat, 25), (a.toNat, 19), (d.toNat, 13), (n.toNat, 12), (p.toNat, 8)])
  | .cred l u a d n p => some (32, place 0x89 [(l.toNat, 28), (u.toNat, 25), (a.toNat, 19), (d.toNat, 13), (n.toNat, 12), (p.toNat, 8)])
  | .credf l u a d n p => some (32, place 0x8b [(l.toNat, 28), (u.toNat, 25), (a.toNat, 19), (d.toNat, 13), (n.toNat, 12), (p.toNat, 8)])
  | .cscan l u a d n p => some (32, place 0x8d [(l.toNat, 28), (u.toNat, 25), (a.toNat, 19), (d.toNat, 13), (n.toNat, 12), (p.toNat, 8)])
  | .blut v k a d n p => some (32, place 0x7000008f [(v.toNat, 31), (k.toNat, 27), (a.toNat, 19), (d.toNat, 13), (n.toNat, 12), (p.toNat, 8)])
  | .kadd w b a d n p => some (32, place 0x91 [(w.toNat, 31), (b.toNat, 25), (a.toNat, 19), (d.toNat, 13), (n.toNat, 12), (p.toNat, 8)])
  | .ksub w b a d n p => some (32, place 0x93 [(w.toNat, 31), (b.toNat, 25), (a.toNat, 19), (d.toNat, 13), (n.toNat, 12), (p.toNat, 8)])
  | .kaddi i a d n p => some (32, place 0x95 [(i.toNat, 25), (a.toNat, 19), (d.toNat, 13), (n.toNat, 12), (p.toNat, 8)])
  | .kmovi i d n p => some (32, place 0x97 [(i.toNat, 19), (d.toNat, 13), (n.toNat, 12), (p.toNat, 8)])
  | .kmovh i d n p => some (32, place 0x99 [(i.toNat, 19), (d.toNat, 13), (n.toNat, 12), (p.toNat, 8)])
  | .kld l b o w k n p => some (32, place 0x1c0009b [(l.toNat, 28), (b.toNat, 25), (o.toNat, 19), (w.toNat, 18), (k.toNat, 13), (n.toNat, 12), (p.toNat, 8)])
  | .kst l b o w k n p => some (32, place 0x1c0009d [(l.toNat, 28), (b.toNat, 25), (o.toNat, 19), (w.toNat, 18), (k.toNat, 13), (n.toNat, 12), (p.toNat, 8)])
  | .kfirst l a d n p => some (32, place 0x9f [(l.toNat, 28), (a.toNat, 19), (d.toNat, 13), (n.toNat, 12), (p.toNat, 8)])
  | .ldB l b o d n p => some (32, place 0xa1 [(l.toNat, 28), (b.toNat, 25), (o.toNat, 19), (d.toNat, 13), (n.toNat, 12), (p.toNat, 8)])
  | .ldH l b o d n p => some (32, place 0xa3 [(l.toNat, 28), (b.toNat, 25), (o.toNat, 19), (d.toNat, 13), (n.toNat, 12), (p.toNat, 8)])
  | .ldW l b o d n p => some (32, place 0xa5 [(l.toNat, 28), (b.toNat, 25), (o.toNat, 19), (d.toNat, 13), (n.toNat, 12), (p.toNat, 8)])
  | .ldD l b o d n p => some (32, place 0xa7 [(l.toNat, 28), (b.toNat, 25), (o.toNat, 19), (d.toNat, 13), (n.toNat, 12), (p.toNat, 8)])
  | .ldQ l b o d n p => some (32, place 0xa9 [(l.toNat, 28), (b.toNat, 25), (o.toNat, 19), (d.toNat, 15), (n.toNat, 12), (p.toNat, 8)])
  | .stB l b o d n p => some (32, place 0xab [(l.toNat, 28), (b.toNat, 25), (o.toNat, 19), (d.toNat, 13), (n.toNat, 12), (p.toNat, 8)])
  | .stH l b o d n p => some (32, place 0xad [(l.toNat, 28), (b.toNat, 25), (o.toNat, 19), (d.toNat, 13), (n.toNat, 12), (p.toNat, 8)])
  | .stW l b o d n p => some (32, place 0xaf [(l.toNat, 28), (b.toNat, 25), (o.toNat, 19), (d.toNat, 13), (n.toNat, 12), (p.toNat, 8)])
  | .stD l b o d n p => some (32, place 0xb1 [(l.toNat, 28), (b.toNat, 25), (o.toNat, 19), (d.toNat, 13), (n.toNat, 12), (p.toNat, 8)])
  | .stQ l b o d n p => some (32, place 0xb3 [(l.toNat, 28), (b.toNat, 25), (o.toNat, 19), (d.toNat, 15), (n.toNat, 12), (p.toNat, 8)])
  | .ldf c l b o d n p => some (32, place 0xb5 [(c.toNat, 29), (l.toNat, 28), (b.toNat, 25), (o.toNat, 19), (d.toNat, 13), (n.toNat, 12), (p.toNat, 8)])
  | .ldfk c l b o d n p => some (32, place 0xb7 [(c.toNat, 29), (l.toNat, 28), (b.toNat, 25), (o.toNat, 19), (d.toNat, 13), (n.toNat, 12), (p.toNat, 8)])
  | .ste c l b o d n p => some (32, place 0xb9 [(c.toNat, 29), (l.toNat, 28), (b.toNat, 25), (o.toNat, 19), (d.toNat, 13), (n.toNat, 12), (p.toNat, 8)])
  | .stf c l b o d n p => some (32, place 0xbb [(c.toNat, 29), (l.toNat, 28), (b.toNat, 25), (o.toNat, 19), (d.toNat, 13), (n.toNat, 12), (p.toNat, 8)])
  | .sete c l b o n p => some (32, place 0xbd [(c.toNat, 29), (l.toNat, 28), (b.toNat, 25), (o.toNat, 19), (n.toNat, 12), (p.toNat, 8)])
  | .waitv c l b o d n p => some (32, place 0xbf [(c.toNat, 29), (l.toNat, 28), (b.toNat, 25), (o.toNat, 19), (d.toNat, 13), (n.toNat, 12), (p.toNat, 8)])
  | .atomIntW c l u a d n p => some (32, place 0xc1 [(c.toNat, 29), (l.toNat, 28), (u.toNat, 25), (a.toNat, 20), (d.toNat, 13), (n.toNat, 12), (p.toNat, 8)])
  | .atomIntD c l u a d n p => some (32, place 0xc3 [(c.toNat, 29), (l.toNat, 28), (u.toNat, 25), (a.toNat, 20), (d.toNat, 13), (n.toNat, 12), (p.toNat, 8)])
  | .atomSwap c l w a d n p => some (32, place 0xc5 [(c.toNat, 29), (l.toNat, 28), (w.toNat, 25), (a.toNat, 20), (d.toNat, 13), (n.toNat, 12), (p.toNat, 8)])
  | .atomCas c l w a d n p => some (32, place 0x40000c5 [(c.toNat, 29), (l.toNat, 28), (w.toNat, 25), (a.toNat, 20), (d.toNat, 13), (n.toNat, 12), (p.toNat, 8)])
  | .atomFadd c l w a d n p => some (32, place 0x80000c5 [(c.toNat, 29), (l.toNat, 28), (w.toNat, 25), (a.toNat, 20), (d.toNat, 13), (n.toNat, 12), (p.toNat, 8)])
  | .atomFminF32 c l a d n p => some (32, place 0xc0000c5 [(c.toNat, 29), (l.toNat, 28), (a.toNat, 20), (d.toNat, 13), (n.toNat, 12), (p.toNat, 8)])
  | .atomFmaxF32 c l a d n p => some (32, place 0xe0000c5 [(c.toNat, 29), (l.toNat, 28), (a.toNat, 20), (d.toNat, 13), (n.toNat, 12), (p.toNat, 8)])
  | .redIntW c l u a d n p => some (32, place 0xc7 [(c.toNat, 29), (l.toNat, 28), (u.toNat, 25), (a.toNat, 20), (d.toNat, 13), (n.toNat, 12), (p.toNat, 8)])
  | .redIntD c l u a d n p => some (32, place 0xc9 [(c.toNat, 29), (l.toNat, 28), (u.toNat, 25), (a.toNat, 20), (d.toNat, 13), (n.toNat, 12), (p.toNat, 8)])
  | .redFloat c l u a d n p => some (32, place 0xcb [(c.toNat, 29), (l.toNat, 28), (u.toNat, 25), (a.toNat, 20), (d.toNat, 13), (n.toNat, 12), (p.toNat, 8)])
  | .capld l b o c n p => some (32, place 0xcd [(l.toNat, 28), (b.toNat, 25), (o.toNat, 19), (c.toNat, 13), (n.toNat, 12), (p.toNat, 8)])
  | .capst l b o c n p => some (32, place 0xcf [(l.toNat, 28), (b.toNat, 25), (o.toNat, 19), (c.toNat, 13), (n.toNat, 12), (p.toNat, 8)])
  | .xset l a x n p => some (32, place 0xd1 [(l.toNat, 28), (a.toNat, 19), (x.toNat, 13), (n.toNat, 12), (p.toNat, 8)])
  | .xget l x d n p => some (32, place 0x20000d1 [(l.toNat, 28), (x.toNat, 19), (d.toNat, 13), (n.toNat, 12), (p.toNat, 8)])
  | .xstep l a x n p => some (32, place 0x40000d1 [(l.toNat, 28), (a.toNat, 19), (x.toNat, 13), (n.toNat, 12), (p.toNat, 8)])
  | .xcur l a x n p => some (32, place 0x60000d1 [(l.toNat, 28), (a.toNat, 19), (x.toNat, 13), (n.toNat, 12), (p.toNat, 8)])
  | .putreg v c a t n p => some (32, place 0xd3 [(v.toNat, 31), (c.toNat, 25), (a.toNat, 19), (t.toNat, 13), (n.toNat, 12), (p.toNat, 8)])
  | .hold l d n p => some (32, place 0xd5 [(l.toNat, 28), (d.toNat, 13), (n.toNat, 12), (p.toNat, 8)])
  | .gname l c n p => some (32, place 0x20000d5 [(l.toNat, 28), (c.toNat, 13), (n.toNat, 12), (p.toNat, 8)])
  | .sjoin l a n p => some (32, place 0x40000d5 [(l.toNat, 28), (a.toNat, 19), (n.toNat, 12), (p.toNat, 8)])
  | .sleave l a n p => some (32, place 0x60000d5 [(l.toNat, 28), (a.toNat, 19), (n.toNat, 12), (p.toNat, 8)])
  | .smap l a t n p => some (32, place 0x80000d5 [(l.toNat, 28), (a.toNat, 20), (t.toNat, 13), (n.toNat, 12), (p.toNat, 8)])
  | .ldc w l c o d n p => some (32, place 0xd7 [(w.toNat, 29), (l.toNat, 28), (c.toNat, 25), (o.toNat, 19), (d.toNat, 13), (n.toNat, 12), (p.toNat, 8)])
  | .stc w l c o d n p => some (32, place 0xd9 [(w.toNat, 29), (l.toNat, 28), (c.toNat, 25), (o.toNat, 19), (d.toNat, 13), (n.toNat, 12), (p.toNat, 8)])
  | .amoc c u o d n p => some (32, place 0xdb [(c.toNat, 29), (u.toNat, 25), (o.toNat, 19), (d.toNat, 13), (n.toNat, 12), (p.toNat, 8)])
  | .amocRed c u o d n p => some (32, place 0x100000db [(c.toNat, 29), (u.toNat, 25), (o.toNat, 19), (d.toNat, 13), (n.toNat, 12), (p.toNat, 8)])
  | .capsetA l a s d n p => some (32, place 0xdd [(l.toNat, 28), (a.toNat, 19), (s.toNat, 16), (d.toNat, 13), (n.toNat, 12), (p.toNat, 8)])
  | .capsetB l a s d n p => some (32, place 0x20000dd [(l.toNat, 28), (a.toNat, 19), (s.toNat, 16), (d.toNat, 13), (n.toNat, 12), (p.toNat, 8)])
  | .capsetP l a s d n p => some (32, place 0x40000dd [(l.toNat, 28), (a.toNat, 19), (s.toNat, 16), (d.toNat, 13), (n.toNat, 12), (p.toNat, 8)])
  | .capsetSeal l s d n p => some (32, place 0x60000dd [(l.toNat, 28), (s.toNat, 16), (d.toNat, 13), (n.toNat, 12), (p.toNat, 8)])
  | .caprd l a s k n p => some (32, place 0x80000dd [(l.toNat, 28), (a.toNat, 19), (s.toNat, 16), (k.toNat, 13), (n.toNat, 12), (p.toNat, 8)])
  | .chdef l a c n p => some (32, place 0xe1 [(l.toNat, 28), (a.toNat, 19), (c.toNat, 13), (n.toNat, 12), (p.toNat, 8)])
  | .chpush l a c n p => some (32, place 0x20000e1 [(l.toNat, 28), (a.toNat, 19), (c.toNat, 13), (n.toNat, 12), (p.toNat, 8)])
  | .chtake l c n p => some (32, place 0x40000e1 [(l.toNat, 28), (c.toNat, 13), (n.toNat, 12), (p.toNat, 8)])
  | .copy l a f t n p => some (32, place 0xe3 [(l.toNat, 28), (a.toNat, 19), (f.toNat, 14), (t.toNat, 13), (n.toNat, 12), (p.toNat, 8)])
  | .retile l a f n p => some (32, place 0x20000e3 [(l.toNat, 28), (a.toNat, 19), (f.toNat, 14), (n.toNat, 12), (p.toNat, 8)])
  | .gath l a f n p => some (32, place 0x40000e3 [(l.toNat, 28), (a.toNat, 19), (f.toNat, 14), (n.toNat, 12), (p.toNat, 8)])
  | .chain l a f n p => some (32, place 0x60000e3 [(l.toNat, 28), (a.toNat, 19), (f.toNat, 14), (n.toNat, 12), (p.toNat, 8)])
  | .coll l a f n p => some (32, place 0x80000e3 [(l.toNat, 28), (a.toNat, 19), (f.toNat, 14), (n.toNat, 12), (p.toNat, 8)])
  | .wopen l a d n p => some (32, place 0xe5 [(l.toNat, 28), (a.toNat, 19), (d.toNat, 13), (n.toNat, 12), (p.toNat, 8)])
  | .wfinal l a n p => some (32, place 0x20000e5 [(l.toNat, 28), (a.toNat, 19), (n.toNat, 12), (p.toNat, 8)])
  | .bkload l a d n p => some (32, place 0xe7 [(l.toNat, 28), (a.toNat, 19), (d.toNat, 13), (n.toNat, 12), (p.toNat, 8)])
  | .bkvec l a d n p => some (32, place 0x20000e7 [(l.toNat, 28), (a.toNat, 19), (d.toNat, 13), (n.toNat, 12), (p.toNat, 8)])
  | .bkrun l a d n p => some (32, place 0x40000e7 [(l.toNat, 28), (a.toNat, 19), (d.toNat, 13), (n.toNat, 12), (p.toNat, 8)])
  | .bkdrain l a d n p => some (32, place 0x60000e7 [(l.toNat, 28), (a.toNat, 19), (d.toNat, 13), (n.toNat, 12), (p.toNat, 8)])
  | .ownb l a d n p => some (32, place 0x80000e7 [(l.toNat, 28), (a.toNat, 19), (d.toNat, 13), (n.toNat, 12), (p.toNat, 8)])
  | .ownc l a d n p => some (32, place 0xa0000e7 [(l.toNat, 28), (a.toNat, 19), (d.toNat, 13), (n.toNat, 12), (p.toNat, 8)])
  | .mres s h n => some (32, place 0xff1 [(s.toNat, 19), (h.toNat, 13), (n.toNat, 12)])
  | .mrel h n => some (32, place 0x2000ff1 [(h.toNat, 13), (n.toNat, 12)])
  | .mload s h n => some (32, place 0xff3 [(s.toNat, 19), (h.toNat, 13), (n.toNat, 12)])
  | .mchin s h n => some (32, place 0x2000ff3 [(s.toNat, 19), (h.toNat, 13), (n.toNat, 12)])
  | .mma v b a c n => some (32, place 0xff5 [(v.toNat, 31), (b.toNat, 25), (a.toNat, 19), (c.toNat, 13), (n.toNat, 12)])
  | .mzero c n => some (32, place 0xff7 [(c.toNat, 13), (n.toNat, 12)])
  | .mout s c n => some (32, place 0x2000ff7 [(s.toNat, 19), (c.toNat, 13), (n.toNat, 12)])
  | .mstore s c n => some (32, place 0x4000ff7 [(s.toNat, 19), (c.toNat, 13), (n.toNat, 12)])
  | .trap k n p => some (32, place 0xf9 [(k.toNat, 19), (n.toNat, 12), (p.toNat, 8)])
  | .tret n p => some (32, place 0x20000f9 [(n.toNat, 12), (p.toNat, 8)])
  | .tretNext n p => some (32, place 0x20020f9 [(n.toNat, 12), (p.toNat, 8)])
  | .brk k n p => some (32, place 0x40000f9 [(k.toNat, 19), (n.toNat, 12), (p.toNat, 8)])
  | .ticket a d n p => some (32, place 0x60000f9 [(a.toNat, 20), (d.toNat, 13), (n.toNat, 12), (p.toNat, 8)])
  | .mfs k d n p => some (32, place 0xfb [(k.toNat, 25), (d.toNat, 13), (n.toNat, 12), (p.toNat, 8)])
  | .mts k a n p => some (32, place 0xfd [(k.toNat, 25), (a.toNat, 19), (n.toNat, 12), (p.toNat, 8)])
  | .add16 b d => some (16, place 0x0 [(b.toNat, 11), (d.toNat, 5)])
  | .sub16 b d => some (16, place 0x2 [(b.toNat, 11), (d.toNat, 5)])
  | .mul16 b d => some (16, place 0x4 [(b.toNat, 11), (d.toNat, 5)])
  | .and16 b d => some (16, place 0x6 [(b.toNat, 11), (d.toNat, 5)])
  | .or16 b d => some (16, place 0x8 [(b.toNat, 11), (d.toNat, 5)])
  | .xor16 b d => some (16, place 0xa [(b.toNat, 11), (d.toNat, 5)])
  | .shl16 b d => some (16, place 0xc [(b.toNat, 11), (d.toNat, 5)])
  | .shr16 b d => some (16, place 0xe [(b.toNat, 11), (d.toNat, 5)])
  | .sra16 b d => some (16, place 0x10 [(b.toNat, 11), (d.toNat, 5)])
  | .mov16 b d => some (16, place 0x12 [(b.toNat, 11), (d.toNat, 5)])
  | .min16 b d => some (16, place 0x14 [(b.toNat, 11), (d.toNat, 5)])
  | .max16 b d => some (16, place 0x16 [(b.toNat, 11), (d.toNat, 5)])
  | .fadd16 b d => some (16, place 0x18 [(b.toNat, 11), (d.toNat, 5)])
  | .fmul16 b d => some (16, place 0x1a [(b.toNat, 11), (d.toNat, 5)])
  | .fmad16 b d => some (16, place 0x1c [(b.toNat, 11), (d.toNat, 5)])
  | .fmax16 b d => some (16, place 0x1e [(b.toNat, 11), (d.toNat, 5)])
  | .fd g a w => some (32, place 0x20000000 [(g.toNat, 24), (a.toNat, 8), (w.toNat, 0)])
  | .fs b q z a w => some (32, place 0x40000000 [(b.toNat, 26), (q.toNat, 25), (z.toNat, 24), (a.toNat, 8), (w.toNat, 0)])
  | .mac f y g e z w => some (32, place 0x100000 [(f.toNat, 24), (y.toNat, 18), (g.toNat, 16), (e.toNat, 13), (z.toNat, 12), (w.toNat, 0)])
  | .yzero f y w => some (32, place 0x200000 [(f.toNat, 24), (y.toNat, 18), (w.toNat, 0)])
  | .push f a y => some (32, place 0x20 [(f.toNat, 24), (a.toNat, 8), (y.toNat, 3)])
  | .next f a => some (32, place 0x40 [(f.toNat, 24), (a.toNat, 8)])
  | .pushn f a y => some (32, place 0x60 [(f.toNat, 24), (a.toNat, 8), (y.toNat, 3)])
  | .tailRegisterWrite _ _ => none
  | .registerWrite _ _ _ => none
  | .putDelivery _ _ _ _ _ _ _ _ => none
  | .remoteRequest _ _ _ => none
  | .placementReply _ _ _ _ _ _ => none
  | .prepare _ _ _ _ _ _ => none
  | .ready _ _ _ => none
  | .refuse _ _ => none
  | .commit _ _ _ _ => none
  | .abort _ _ _ => none
  | .partDoneReport _ _ _ => none
  | .pageFillComplete _ => none
  | .commandComplete _ _ => none
  | .spawnBinAgeing _ _ => none
  | .protocolValidationDone _ => none
  | .fillLineLands _ => none
  | .cxlMemRequest _ _ _ _ _ => none
  | .gets _ _ _ => none
  | .getx _ _ _ _ _ _ _ => none
  | .upg _ _ _ _ _ _ _ => none
  | .putx _ _ => none
  | .invack _ _ => none
  | .uncorrectableError _ _ _ => none
  | .sensorRefresh _ _ _ => none
  | .portDown _ => none
  | .waitforReevaluate _ _ => none
  | .detourForward _ _ _ => none
  | .mgovstatClear _ _ => none
  | .bundleDraw _ _ => none
  | .binAgeingLimit _ _ => none
  | .laneChoiceLimit _ _ _ => none
  | .schedulerWaitSatisfied _ _ _ => none
  | .crewSave _ _ => none
  | .forcedSave _ _ => none
  | .programTimeTick => none
  | .puts _ _ => none
  | .putc _ _ => none
  | .atomic _ _ _ _ _ _ _ => none
  | .write _ _ _ _ => none
  | .renew _ _ _ => none
  | .recall _ => none
  | .fwddata _ _ => none
  | .fwdnack _ _ => none
  | .memdata _ => none
  | .memack _ => none
  | .ackzero _ => none
  | .updack _ _ => none
  | .poisoned _ => none
  | .agentlost _ _ => none
  | .timeout _ => none
  | .messageResend _ => none
  | .deferredRequest _ => none
  | .inv _ _ => none
  | .fwds _ _ => none
  | .fwdx _ _ => none
  | .upd _ _ => none
  | .publishRequest _ => none
  | .chuteAcquire _ _ => none
  | .copyFiring _ _ => none
  | .retileRun _ _ => none
  | .gathFiring _ _ => none
  | .chainFiring _ _ => none
  | .collFiring _ _ => none
  | .wfinalWriter _ => none
  | .slotFillDone _ _ _ => none
  | .matrixQueueStart _ => none
  | .mgovWindow _ => none
  | .tileSequencerSave _ => none
  | .benchCommandStart _ => none
  | .benchCommandComplete _ => none
  | .benchRound _ => none
  | .columnCommand _ => none
  | .benchRefresh _ => none
  | .drainPathCycle _ => none
  | .drainEntryArrival _ => none
  | .benchGovernorWindow _ => none
  | .slabToBank _ => none
  | .slabToCore _ => none
  | .benchParityError _ => none
  | .packetResend _ _ => none
  | .portUp _ => none
  | .hostSnoop _ => none
  | .hostAgentLost _ => none
  | .reconcilePass => none
  | .launch _ _ => none
  | .ganglaunch _ _ => none
  | .signal _ _ => none
  | .waitfor _ _ => none
  | .hints _ _ => none
  | .preemptYield _ _ => none
  | .preemptHold _ _ => none
  | .preemptRelease _ _ => none
  | .context _ _ => none
  | .ctxfree _ _ => none
  | .qcreate _ _ => none
  | .qfree _ _ => none
  | .slicecfg _ _ => none
  | .range _ _ => none
  | .protload _ _ => none
  | .protfree _ _ => none
  | .govcfg _ _ => none
  | .capmint _ _ => none
  | .placementPass => none
  | .placementPassTimer => none
  | .headAgeBar => none
  | .firmwareMessageResend _ _ => none
  | .ganglaunchPhaseOneTimeout _ _ => none
  | .partReservationExpiry _ _ _ => none
  | .partUnreachableTimeout _ _ _ => none
  | .launchWatchdog _ _ => none
  | .firmwareCrewRestart _ _ => none
  | .crewDivergenceDeadlock _ _ => none
  | .correctionSummary _ _ _ _ _ => none
  | .patrolScrub _ _ => none
  | .bootctlGo => none
  | .bringupPhaseComplete => none
  | .attgo _ => none
  | .attestationReport => none
  | .mstatusAttdoneClear _ => none
  | .powerGoodReset => none
  | .pcieConventionalReset => none
  | .packageReset => none
  | .thermalEmergencyCap _ => none
  | .thermalShutdown _ => none
  | .requesterReply _ _ => none
  | .illegalInstruction _ => none
  | .fetchFault => none
  | .summarisingRecord _ _ => none

end Sys2Proof
end

