-- ==== Sys2Proof/Machine/Maps.lean ====
section
/-! DEFINITION. The two containers of the state: a map from numbers to records, kept as a list of pairs, and byte memory. -/

namespace Sys2Proof.Machine

/-- A finite map from numbers, as a list of pairs. What an unlisted key means is said where the map is read. -/
abbrev Map (α : Type) := List (Nat × α)

/-- The value listed for a key. -/
def mfind {α : Type} (m : Map α) (k : Nat) : Option α :=
  match m with
  | [] => none
  | (k', v) :: r => if k' = k then some v else mfind r k

/-- The value of a key, or `d` where none is listed. -/
def mget {α : Type} (d : α) (m : Map α) (k : Nat) : α := (mfind m k).getD d

/-- The map without a key. -/
def mdel {α : Type} (m : Map α) (k : Nat) : Map α :=
  match m with
  | [] => []
  | e :: r => if e.1 = k then mdel r k else e :: mdel r k

/-- Put a pair before the first greater key. -/
def minsert {α : Type} (m : Map α) (k : Nat) (v : α) : Map α :=
  match m with
  | [] => [(k, v)]
  | e :: r => if k < e.1 then (k, v) :: e :: r else e :: minsert r k v

/-- The map with a key's value replaced. -/
def mset {α : Type} (m : Map α) (k : Nat) (v : α) : Map α := minsert (mdel m k) k v

/-- Change every value of a map. -/
def mmap {α : Type} (m : Map α) (f : Nat → α → α) : Map α := m.map fun e => (e.1, f e.1 e.2)

/-- Keep the entries that meet a condition. -/
def mkeep {α : Type} (m : Map α) (p : Nat → α → Bool) : Map α := m.filter fun e => p e.1 e.2

/-- Whether some entry meets a condition. -/
def many {α : Type} (m : Map α) (p : Nat → α → Bool) : Bool := m.any fun e => p e.1 e.2

/-- The keys of the entries that meet a condition, in order. -/
def mkeys {α : Type} (m : Map α) (p : Nat → α → Bool) : List Nat := (mkeep m p).map (·.1)

/-- Put an element before the first that does not come before it. -/
def sortInto {α : Type} (le : α → α → Bool) (x : α) : List α → List α
  | [] => [x]
  | y :: r => if le x y then x :: y :: r else y :: sortInto le x r

/-- A list in order; equals keep their places. -/
def sortBy {α : Type} (le : α → α → Bool) (l : List α) : List α := l.foldr (sortInto le) []

/-- Byte memory: pairs of address and byte, addresses strictly rising, no zero byte listed; an unlisted address reads zero
(notes/assumptions/1.md). -/
abbrev Memory := List Host.Cell

/-- The byte at an address. -/
def memGet (m : Memory) (a : Nat) : BitVec 8 := mget 0 m a

/-- The pairs that list bytes at rising addresses from `a`; a zero byte is not listed. -/
def cellsOf (a : Nat) : List (BitVec 8) → Memory
  | [] => []
  | b :: r => if b = 0 then cellsOf (a + 1) r else (a, b) :: cellsOf (a + 1) r

/-- The pairs whose addresses lie below `a`. -/
def memBelow (m : Memory) (a : Nat) : Memory := m.filter fun e => decide (e.1 < a)

/-- The pairs whose addresses are not below `a`. -/
def memFrom (m : Memory) (a : Nat) : Memory := m.filter fun e => decide (a ≤ e.1)

/-- Write bytes at rising addresses from `a`. -/
def memPuts (m : Memory) (a : Nat) (b : List (BitVec 8)) : Memory := memBelow m a ++ cellsOf a b ++ memFrom m (a + b.length)

/-- Write zero to `n` bytes from `a`. -/
def memClear (m : Memory) (a n : Nat) : Memory := memBelow m a ++ memFrom m (a + n)

/-- The bytes that pairs in rising order list from `a` on, zero where none is listed. -/
def memWalk : Memory → (a n : Nat) → List (BitVec 8)
  | _, _, 0 => []
  | [], a, n + 1 => 0 :: memWalk [] (a + 1) n
  | (k, b) :: r, a, n + 1 => if k = a then b :: memWalk r (a + 1) n else 0 :: memWalk ((k, b) :: r) (a + 1) n

/-- Read `n` bytes from `a`. -/
def memGets (m : Memory) (a n : Nat) : List (BitVec 8) := memWalk (memBelow (memFrom m a) (a + n)) a n

/-- The canonical form of memory: addresses strictly rising from a bound, and no zero byte. -/
def Memory.wfFrom (lo : Nat) : Memory → Bool
  | [] => true
  | (a, b) :: r => decide (lo ≤ a) && decide (b ≠ 0) && Memory.wfFrom (a + 1) r

/-- The canonical form of memory. -/
def Memory.wf (m : Memory) : Bool := Memory.wfFrom 0 m

/-- Little-endian bytes of a number (R2). -/
def leBytes (x : Nat) : Nat → List (BitVec 8)
  | 0 => []
  | n + 1 => BitVec.ofNat 8 x :: leBytes (x / 256) n

/-- The number that bytes denote, little-endian (R2). -/
def leNat : List (BitVec 8) → Nat
  | [] => 0
  | b :: r => b.toNat + 256 * leNat r

end Sys2Proof.Machine
end

