-- ==== Sys2Proof/Machine/State.lean ====
section
/-! DEFINITION. The state of one package: everything the spec gives the machine, as plain data, and the state after reset.
Tables of like things are maps from a number: a thread's key is 32 x crew key + lane, a crew's key is 64 x core + slot, a group's key is
its name index (firmware crews: 16384 + core), a gang's key is the model's own number. An unlisted entry stands for the state at reset or
formation, which the accessors of Machine/Ops.lean supply. -/

namespace Sys2Proof.Machine

/-! ## Threads and crews -/

/-- An index register (R53). -/
structure IndexReg where
  mode : BitVec 2 := 0
  step : BitVec 4 := 0
  cursor : BitVec 12 := 0
  bound : BitVec 12 := 0
  base : BitVec 11 := 0
deriving DecidableEq, Repr

/-- A capability register or a granule: 128 bits and the hidden tag (R60, R98). -/
structure Cap where
  bits : BitVec 128 := 0
  tag : Bool := false
deriving DecidableEq, Repr

/-- What a descheduled or not-ready lane waits for: the list of R413 from LDF, then the waits that are not scheduler-visible. -/
inductive WaitKind where
  | ldf | ldfk | ste | waitv | bar | gbar | spawn | heldReg | chtake | eng | bench | presence
  /-- the other lanes of its quad that executed the same instruction (R253) -/
  | peers
  /-- a firmware page fill (R433) -/
  | pageFill
  /-- a remote reply (R114) -/
  | remote
  /-- a place in egress (R364) -/
  | egress
  /-- the answer to a request on a line (R132), or the end of its slice's earlier request on it (R125) -/
  | miss
  /-- an entry of the outstanding-transaction table (R122) -/
  | entry
  /-- the slice, which has performed an operation on the staging word in this arith cycle (R254) -/
  | slice
deriving DecidableEq, Repr

/-! ## Operations on lines -/

/-- The operations of R256. -/
inductive AtomOp where
  | add | minS | maxS | minN | maxN | and | or | xor | swap | fadd | fmin | fmax
deriving DecidableEq, Repr

/-- What an access does to the 128 bytes of its line, from an offset in the line (R105). -/
inductive LineOp where
  | load (off n : Nat)
  | store (off n x : Nat)
  /-- CAPST: a granule with its tag (R101) -/
  | capst (off x : Nat) (tag : Bool)
  | atomic (op : AtomOp) (wide : Bool) (off x : Nat)
  /-- ATOM CAS, with the value compared and the new one (R257) -/
  | cas (wide : Bool) (off old new : Nat)
  /-- a RED, whose flags go to a context's memory-exception word (R258) -/
  | reduce (op : AtomOp) (wide : Bool) (off x ctx : Nat)
  /-- TICKET: claims the next entry of a ticket record (R347) -/
  | ticket (off : Nat)
  /-- bytes of a write whose mask may leave some out (R422) -/
  | masked (off mask : Nat) (b : List Byte)
  /-- a whole line without read (R132) -/
  | whole (b : List Byte)
deriving DecidableEq, Repr

/-- What an access gives its agent: the value it read, whether the granule read was tagged, whether what it read was poisoned, and its
timestamp. -/
structure LineResult where
  val : Nat := 0
  tag : Bool := false
  poison : Bool := false
  ts : Nat := 0
deriving DecidableEq, Repr

/-- An access of a lane's instruction that a home has performed, or that its reply has let its slice perform: where it was made, and its
result. -/
structure Got where
  pa : Nat
  op : LineOp
  result : LineResult
deriving DecidableEq, Repr

/-- A line's bytes, its poisoned granules and its tagged ones, by number in the line (R98, R420). -/
structure Line where
  data : List Byte := []
  poison : List Nat := []
  tags : List Nat := []
deriving DecidableEq, Repr

/-- A lane's access to another package, as egress accepted it (R102, R365). -/
structure RemoteReq where
  /-- OP with bit 7 for KIND 1 -/
  op : Nat
  size : Nat
  peer : Nat
  ctx : Nat
  page : Nat
  off : Nat
  data : Nat := 0
  ts : Nat := 0
  reg : Nat := 0
  wide : Bool := false
deriving DecidableEq, Repr

/-- What the reply to a lane's access to another package, or to a put, has brought: STATUS and the lane's element (R365), and the operand that
the packet carried for the lane. -/
structure Answer where
  status : Nat
  data : Nat := 0
  sent : Nat := 0
  /-- the lane's address -/
  addr : DWord := 0
deriving DecidableEq, Repr

/-- A wait: its kind, the address or instance it waits on (R413), and the operands needed to try again. -/
structure Wait where
  kind : WaitKind
  /-- the lane's address, for the saved image -/
  addr : DWord := 0
  /-- what is waited on: a physical word address, barrier instance, chute, page-table entry or egress tag -/
  key : Nat := 0
  /-- the data, offset and base fields of a tagged operation, and its length -/
  data : BitVec 6 := 0
  off : BitVec 6 := 0
  base : BitVec 3 := 0
  /-- the value that a WAITV waits to see change (R252); of a wait on a held register, the registers that the instruction reads, as a mask
  (R115) -/
  old : Nat := 0
  /-- order of arrival among waiters (R254) -/
  since : Nat := 0
  /-- what the lane was before: 0 running, 1 exited, 2 a helper from formation -/
  was : Nat := 0
  /-- the instruction is issued again to the whole quad or crew, as nothing of it has been done: a quad exchange or crew-wide instruction, or
  a fetch -/
  refile : Bool := false
  /-- an access that egress has still to send (R364) -/
  req : Option RemoteReq := none
  /-- the number of the request whose answer is awaited (R132) -/
  ticket : Nat := 0
deriving DecidableEq, Repr

/-- Where a lane stands (R23, R24, R32, R36, R40, R44; the states of R453). -/
inductive LaneState where
  | run
  /-- stopped at a SAFEPT with its live mask, count and array flag (R209) -/
  | safept (mask : Word) (live : Nat) (arr : Bool)
  /-- stopped after an instruction by a forced save (R42) -/
  | stopped
  | parked (j : BitVec 2)
  | standing
  | waiting (w : Wait)
  /-- its wait is met, and it issues its instruction again before its quad goes on (R27, R44); what it was before as in Wait -/
  | retry (was : Nat)
  | exited
  /-- no thread from formation (R24) -/
  | helper
deriving DecidableEq, Repr

/-- A thread: the state held per lane (R46, R66). -/
structure Thread where
  /-- named registers; unlisted ones hold zero (R63) -/
  v : Map Word := []
  /-- hold bits of v0-v31 (R51), and those a HOLD has set in this arith cycle (R270) -/
  hold : Word := 0
  holdNow : Word := 0
  /-- the result queue, newest first; entries beyond the list hold zero (R48, R63) -/
  q : List Word := []
  /-- array words (R52) -/
  arr : Map Word := []
  x : Map IndexReg := []
  c : Map Cap := []
  fpstat : Word := 0
  fpctl : Word := 0
  seed : DWord := 0
  tcause : Word := 0
  tpc : DWord := 0
  taddr : DWord := 0
  pc : DWord := 0
  st : LaneState := .run
  /-- safe-point counter (R42) -/
  safeCount : Nat := 0
  /-- consecutive issues of the quad at another program counter (R23) -/
  behind : Nat := 0
  barCount : Nat := 0
  gbarCount : Nat := 0
  /-- program time (R107) -/
  time : Nat := 0
  /-- what a reply has brought for the lane's instruction, which the next attempt takes (R365) -/
  reply : Option Answer := none
  /-- accesses of the lane's instruction that requests on lines have performed, which the next attempt takes (R133) -/
  got : List Got := []
  /-- timestamp of the last put into a register, or of the read that joined it (R115) -/
  puts : Map Nat := []
deriving DecidableEq, Repr

/-- A crew (R57-R59, R35). -/
structure Crew where
  group : Nat
  /-- crew index within the group -/
  index : Nat
  p : Map Word := []
  j : Map Word := []
  k : Map Word := []
  spawned : Bool := false
  /-- R41: the forced-save column applies -/
  forced : Bool := false
  /-- the crew has stopped for a save (R40) -/
  saved : Bool := false
deriving DecidableEq, Repr

/-- Where a group stands (R272, R452). -/
inductive Place where
  | resident | saved | held
  /-- its save has begun, and its image is not yet written: some crews have stopped and been saved, and others have not -/
  | moving
deriving DecidableEq, Repr

/-- What a pending pre-emption asks for (R342, R412). -/
inductive Preempt where
  | none | yield | hold
  /-- firmware frees the storage of a group all of whose quads are descheduled (R45, R352) -/
  | storage
deriving DecidableEq, Repr

/-- A spawn record (R210). -/
structure SpawnRec where
  pc : DWord
  a0 : Word
  a1 : Word
  a2 : Word
  a3 : Word
  time : Nat
  /-- arith cycle of arrival -/
  at_ : Nat
deriving DecidableEq, Repr

/-- A group (R20, R67, R85, R272, R275). -/
structure Group where
  name : Word
  core : Nat
  gslot : Nat
  /-- key of the launch -/
  launch : Nat
  index : Word
  nregs : Nat
  asize : Nat
  threads : Nat
  crews : Nat
  /-- serial number of its first crew (R74) -/
  serial : Nat := 0
  /-- key of the gang; none for a spawned group or a firmware crew -/
  gang : Option Nat := none
  gangPos : Nat := 0
  place : Place := .resident
  preempt : Preempt := .none
  forced : Bool := false
  putErr : Word := 0
  /-- window 0: slice, offset in the slice's staging, bytes -/
  win0Slice : Nat := 0
  win0Off : Nat := 0
  win0Size : Nat := 0
  /-- sharing slots: the name index mapped (R90) -/
  slots : Map Nat := []
  /-- arrivals at the barrier instance in progress: largest timestamp so far (R113) -/
  barMax : Nat := 0
  barInst : Nat := 0
  /-- spawn records the group was formed from, and how often it has been killed (R424) -/
  records : List SpawnRec := []
  kills : Nat := 0
  /-- threads of a saved group, beside the image in the save area: what R453 does not lay out (program times), and the tags of c0-c7, which no
  debugger sets (R60, R412) -/
  savedTimes : List Nat := []
  savedTags : List Nat := []
  /-- timestamps of puts delivered into the image, by thread and register -/
  savedPuts : Map Nat := []
  /-- what its descheduled threads wait for, with the word's value where one waits on a word -/
  savedWaits : List (Nat × Wait × Nat) := []
  /-- offset of the saved image in the save area -/
  image : Nat := 0
deriving DecidableEq, Repr

/-- A chute (R278, R279). -/
structure Chute where
  image : DWord := 0
  wacq : Nat := 0
  pub : Nat := 0
  racq : Nat := 0
  rel : Nat := 0
  written : List Nat := []
  freed : List Nat := []
  /-- sequence numbers the thread end holds acquired -/
  held : List Nat := []
  /-- program times of the last releases by the writer and by the reader, by slot (R282) -/
  pubTime : Map Nat := []
  relTime : Map Nat := []
  /-- releases by the writer and by the reader that have still to be served: entry and program time (R281) -/
  wreleases : List (Nat × Nat) := []
  rreleases : List (Nat × Nat) := []
  /-- one past the cycle of the last acquire by the writer and by the reader, and of the last release served at each end (R281) -/
  wacqAt : Nat := 0
  racqAt : Nat := 0
  wrelAt : Nat := 0
  rrelAt : Nat := 0
deriving DecidableEq, Repr

/-- A fill in progress or stopped (R299, R435). -/
structure Fill where
  handle : Nat
  slot : Nat
  tile : Nat
  progress : Nat := 0
  /-- the chute entry of an MCHIN, its chute and sequence number -/
  entry : Option (Nat × Nat) := none
  stopped : Option Nat := none
  time : Nat := 0
  order : Nat := 0
deriving DecidableEq, Repr

/-- A gang (R20, R85, R278). -/
structure Gang where
  launch : Nat
  index : Nat
  cluster : Nat
  /-- name indices of its groups, by position -/
  groups : List Nat
  tile : Bool := false
  /-- window 1: bytes, the cluster whose slices granted it, and the offset of each quarter in its slice's staging -/
  win1Size : Nat := 0
  win1Cluster : Nat := 0
  win1Off : List Nat := []
  chutes : Map Chute := []
  gbarMax : Nat := 0
  gbarInst : Nat := 0
  saved : Bool := false
  held : Bool := false
  preempt : Bool := false
  /-- the stream has stopped and settled for a save (R295) -/
  tileSaved : Bool := false
  /-- offset of the stream's image in the save area, and what R453 does not lay out: the stream's program time, and the chute entries that
  its stopped fills and kept instructions hold -/
  image : Nat := 0
  streamTime : Nat := 0
  fillEntries : List (Option (Nat × Nat)) := []
  queueEntries : List (Option Nat) := []
  /-- stopped fills beyond the 64 that the image holds -/
  moreFills : List Fill := []
deriving DecidableEq, Repr

/-! ## Issue -/

/-- A bundle of quads of one group (R28): the crew key and quad of each column. -/
structure Bundle where
  group : Nat
  pc : DWord
  quads : List (Nat × Nat)
  issued : Nat := 0
  reform : Bool := false
  crewWide : Bool := false
deriving DecidableEq, Repr

/-- A filed quad: its crew's key, its column and the stamp of the cycle in which it was filed or became ready (R26). -/
structure Filed where
  crew : Nat
  quad : Nat
  stamp : Nat
  /-- a quad that waits for a result is filed not ready (R27) -/
  ready : Bool := true
deriving DecidableEq, Repr

/-- A bin (R26): its key and the quads filed in it; a crew bin (R32) holds one crew. -/
structure Bin where
  number : Nat
  group : Nat
  pc : DWord
  quads : List Filed := []
  /-- the oldest quad has waited 64 arith cycles (R29) -/
  aged : Bool := false
  /-- the crew of a crew bin, and the cycle at which it became drawable -/
  crew : Option (Nat × Option Nat) := none
deriving DecidableEq, Repr

/-- Lanes of one crew to which an instruction is issued. -/
structure Part where
  crew : Nat
  lanes : Word
deriving DecidableEq, Repr

/-- An entry of the outstanding-transaction table: a memory instruction some of whose lanes' operations are still to be performed (R122). -/
structure Outstanding where
  part : Part
  pc : DWord
deriving DecidableEq, Repr

/-- What a core holds besides its crews (R26, R28, R62, R122). -/
structure Core where
  bins : List Bin := []
  nextBin : Nat := 0
  pipes : Map Bundle := []
  table : List Outstanding := []
deriving DecidableEq, Repr

/-- One issue of an instruction to lanes (R23, R28, R32). -/
structure Issue where
  core : Nat
  pipe : Nat
  parts : List Part
  pc : DWord
  len : Nat
  word : Nat
deriving DecidableEq, Repr

/-- Which unit is executing the instruction that exec is given. -/
inductive Unit_ where
  | none
  | lanes (i : Issue)
  /-- the tile-sequencer stream of a cluster, with the instruction's address and its word -/
  | stream (cluster : Nat) (pc : DWord) (word : Nat)
  /-- the bench command path of a stack -/
  | column (stack : Nat)
deriving DecidableEq, Repr

/-! ## Engines and the tile sequencer -/

/-- Whose addresses are resolved: the context, the issuing group (its name index), and whether it is the firmware (R75, R80). -/
structure View where
  ctx : Nat
  group : Nat
  firmware : Bool := false
deriving DecidableEq, Repr

/-- A forked agent (R117, R285): its issuer's view and gang, and the windows 0 and 1 its issuer had, which stay its own when the issuer
retires before it. -/
structure Agent where
  view : View := { ctx := 0, group := 0 }
  /-- the slice beside the issuing group's core, through which it reaches lines (R124, R142) -/
  slice : Nat := 0
  gang : Option Nat := none
  /-- window 0: slice, offset, bytes -/
  win0 : Nat × Nat × Nat := (0, 0, 0)
  /-- window 1: cluster, bytes, offsets of its quarters -/
  win1 : Nat × Nat × List Nat := (0, 0, [])
deriving DecidableEq, Repr

/-- The five engine operations (R283). -/
inductive EngineKind where
  | copy | retile | gath | chain | coll
deriving DecidableEq, Repr

/-- An entry that a firing holds: the chute, the sequence number, and its offset in window 1 (R279). -/
structure Entry_ where
  chute : Nat
  seq : Nat
  off : Nat
deriving DecidableEq, Repr

/-- A firing in flight (R285): the entries it holds, what it has done, from which it goes on after a wait (R435): bytes written or sent, or
elements; the flags it has raised, and RETILE's generator. -/
structure Firing where
  in0 : Option Entry_ := none
  in1 : Option Entry_ := none
  out : Option Entry_ := none
  progress : Nat := 0
  flags : BitVec 6 := 0
  gen : DWord := 0
  /-- staging lines that a COPY fills and whose writes have still to land (R89) -/
  lines : List Nat := []
  /-- what has been read for the work to come: a RETILE's slab addresses, or the index of a GATH's row and whether it was poisoned -/
  held : List Nat := []
deriving DecidableEq, Repr

/-- An armed engine operation (R283-R291). -/
structure Armed where
  kind : EngineKind
  agent : Agent := {}
  launch : Nat
  /-- the descriptor's bytes, read at arming -/
  desc : List Byte
  tag : Bool := false
  full : Bool := false
  /-- firings made so far -/
  fired : Nat := 0
  firing : Option Firing := none
  /-- no further firing is made, and DONE is not written (R397, R423) -/
  withdrawn : Bool := false
  /-- RETILE's generator, and the source record, SLABLIST and SLABCOUNT read at arming (R287) -/
  gen : DWord := 0
  srcRec : List Byte := []
  slabList : Nat := 0
  slabCount : Nat := 0
  /-- COLL's capability, read at arming (R291) -/
  cap : Cap := {}
  time : Nat := 0
  order : Nat := 0
  /-- the page-table entry whose fill it waits for (R435) -/
  stopped : Option Nat := none
  /-- replies to COLL packets still to come, and a STATUS that was not 0 (R291) -/
  awaited : Nat := 0
  bad : Option Nat := none
deriving DecidableEq, Repr

/-- A slot's state (R298). -/
inductive SlotState where
  | empty
  | filling (progress : Nat)
  | ready
deriving DecidableEq, Repr

/-- A reservation handle (R296, R298). -/
structure Handle where
  record : List Byte
  cur : Nat := 0
  slots : Map SlotState := []
deriving DecidableEq, Repr

/-- The type an accumulator carries (R301). -/
inductive AccType where
  | zero | fp32 | int32 | fp64
deriving DecidableEq, Repr

/-- A queued matrix instruction with the s-register values it read at issue, its word and the chute entry it holds (R302, R295). -/
structure MatOp where
  instr : Instr
  word : Nat
  s0 : DWord := 0
  s1 : DWord := 0
  entry : Option Nat := none
  /-- arith cycles left of an MMA that has started -/
  busy : Nat := 0
  /-- the governor has held it (R306) -/
  held : Bool := false
  /-- rows that an MOUT or MSTORE has written (R304) -/
  rows : Nat := 0
  /-- the page-table entry whose fill it waits for -/
  stopped : Option Nat := none
  time : Nat := 0
  order : Nat := 0
deriving DecidableEq, Repr

/-- The stream of a tile sequencer (R293). -/
inductive StreamState where
  | ended | running
  /-- stalled on a full queue, a chute acquire or MREL (R302, R299, R303, R298) -/
  | stalled
  /-- waits for a page fill (R403) -/
  | faulted (pte : Nat)
deriving DecidableEq, Repr

/-- A cluster: tile sequencer, matrix unit, operand buffer, governor, armed operations (R61, R283, R293-R307). -/
structure Cluster where
  gang : Option Nat := none
  s : Map DWord := []
  accs : Map (List Word) := []
  accType : Map AccType := []
  accPoison : Map (List Nat) := []
  handles : Map Handle := []
  nz : Bool := false
  pc : DWord := 0
  stream : StreamState := .ended
  fpstat : Word := 0
  gen : DWord := 0
  time : Nat := 0
  /-- the operand buffer: byte b of quarter bank q at 524288 q + b (R297), and the poisoned bytes -/
  opbuf : Memory := []
  opPoison : List Nat := []
  queue : List MatOp := []
  fills : List Fill := []
  /-- MGOV.BUDGET as configured (R305), MGOVSTAT.CREDIT and STALLED (R306) -/
  budget : Nat := 64
  credit : Int := 64
  stalled : Nat := 0
  armed : Map Armed := []
deriving DecidableEq, Repr

/-! ## Benches -/

/-- One column or scale register of a bench (R308). -/
structure ColReg where
  data : BitVec 256 := 0
  bank : Nat := 0
  col : Nat := 0
  poison : Bool := false
deriving DecidableEq, Repr

/-- One accumulator of a bench: sixteen FP32 lanes and six flags (R308); unlisted lanes hold +0. -/
structure YReg where
  lanes : Map Word := []
  flags : BitVec 6 := 0
  poison : List Nat := []
deriving DecidableEq, Repr

/-- A drain entry (R315, R333). -/
structure DrainEntry where
  lanes : List Word
  flags : BitVec 6
  row : Nat
  launch : Nat
  poison : List Nat := []
deriving DecidableEq, Repr

/-- What is particular to one bench (R308, R333). The instruction store and e0-e7 are written by broadcast only and are held per stack. -/
structure Bench where
  g : Map ColReg := []
  z : Map ColReg := []
  y : Map YReg := []
  cc : Map Nat := []
  nb : Nat := 0
  slot : Nat := 0
  drain : List DrainEntry := []
deriving DecidableEq, Repr

/-- What a stack's command path holds (R324, R330, R331, R333, R380). -/
structure Stack where
  store : Map Word := []
  e : Map (BitVec 256) := []
  /-- the activation registers that hold poisoned data (R421) -/
  ePoison : List Nat := []
  /-- launch whose program is loaded -/
  launch : Option Nat := none
  /-- a BKRUN in progress: START, LEN, ITER, SLOT0, J0, EFIRST, ECOUNT -/
  run : Option (List Nat) := none
  round : Nat := 0
  /-- words stepped in the round -/
  word : Nat := 0
  opened : Bool := false
  /-- column cycles the path still waits: row open, row close, refresh (R329) -/
  wait : Nat := 0
  /-- the round's words are done and its rows are closing -/
  closing : Bool := false
  finished : Bool := false
  /-- bank the previous word fetched, per the lock step of R317 -/
  lastBank : Option Nat := none
  /-- last bench the drain path served -/
  served : Nat := 0
  budget : Nat := 64
  credit : Int := 64
deriving DecidableEq, Repr

/-- A queued bench command: its kind (sub-op of R320), its parameter block read at issue (R321). -/
structure BenchCmd where
  op : Nat
  block : List Byte
  time : Nat := 0
deriving DecidableEq, Repr

/-- An entry of the bench launch table (R318, R319, R323). -/
structure BenchLaunch where
  gen : Nat := 0
  live : Bool := false
  agent : Agent := {}
  launch : Nat := 0
  /-- order of acceptance, which decides who waits for a shared stack (R322) -/
  accepted : Nat := 0
  queue : List BenchCmd := []
  current : Option BenchCmd := none
  /-- column cycles until the current BKLOAD completes (R323) -/
  left : Nat := 0
  /-- the page-table entry whose fill the command waits for (R405) -/
  stopped : Option Nat := none
  /-- commands completed -/
  count : Nat := 0
  /-- an OWNC has been queued; by the firmware -/
  ownc : Bool := false
  firmwareOwnc : Bool := false
  /-- the launch-wide fields latched by BKLOAD, the shape record, and the program's words (R321, R323) -/
  block : List Byte := []
  shape : List Byte := []
  words : List Word := []
  loaded : Bool := false
  /-- the slabs of the tensor, in slab-list order, once OWNB has translated them; whether it has completed -/
  slabs : List Nat := []
  owned : Bool := false
  /-- the slabs are being returned (R326) -/
  returning : Bool := false
  /-- entries pushed and not yet delivered -/
  outstanding : Nat := 0
  /-- DMODE 1: the accumulators reserved in the crusher, and the die (R334) -/
  reserved : Nat := 0
  die : Nat := 0
  /-- stopped while its slab list is translated again (R336) -/
  stalled : Bool := false
  /-- program time of the launch agent (R118) -/
  time : Nat := 0
deriving DecidableEq, Repr

/-- An exact accumulator (R166): the sum in units of the least subnormal, and the special values seen. -/
structure ExactAcc where
  sum : Int := 0
  nan : Bool := false
  pinf : Bool := false
  ninf : Bool := false
  /-- some value has been added -/
  any_ : Bool := false
  /-- every value added so far was a negative zero -/
  negZero : Bool := true
  poison : Bool := false
  nv : Bool := false
  count : Nat := 0
deriving DecidableEq, Repr

/-- A reduction window (R259). -/
structure Window where
  gen : Nat := 0
  open_ : Bool := false
  agent : Agent := {}
  launch : Nat := 0
  target : Nat := 0
  length : Nat := 0
  f64 : Bool := false
  setFull : Bool := false
  done : Nat := 0
  die : Nat := 0
  accs : Map ExactAcc := []
  /-- the targets' physical bytes: runs of first address and length -/
  phys : List (Nat × Nat) := []
  time : Nat := 0
deriving DecidableEq, Repr

/-! ## Coherence -/

/-- A directory entry (R137). -/
structure DirEntry where
  wts : Nat := 0
  rts : Nat := 0
  state : Nat := 0
  slot : Nat := 0
  coarse : Bool := false
  nsv : Bool := false
  nscope : BitVec 3 := 0
  nsagent : Nat := 0
  /-- a publish request has gone to NSAGENT, and its answer has not come (R140) -/
  nswait : Bool := false
  ackcnt : Nat := 0
  hostc : BitVec 2 := 0
  /-- pointers 0-3 (valid ones), or the clusters of the coarse vector -/
  ptrs : List (Option Nat) := [none, none, none, none]
  coarseBits : BitVec 80 := 0
  /-- order of last use, for the choice of R139 -/
  used : Nat := 0
deriving DecidableEq, Repr

/-- Who awaits the answer to a request: a lane, by its thread's key; an engine operation, by cluster and place; a tile sequencer's stream, one of
its fills by its order, or its matrix queue; a bench launch; a request of a host agent over CXL.mem, by its address (R119). -/
inductive Waiter where
  | lane (key : Nat)
  | engine (cluster place : Nat)
  | stream (cluster : Nat)
  | fill (cluster order : Nat)
  | matrix (cluster : Nat)
  | bench (entry : Nat)
  | cxl (addr : Nat)
deriving DecidableEq, Repr

/-- A request as an engine keeps it: its event, its agent and its program time, the access it serves (R132), and who awaits its answer, who knows
it by a number. -/
structure Req where
  event : Nat
  agent : Nat
  time : Nat := 0
  op : Option LineOp := none
  who : Option Waiter := none
  ticket : Nat := 0
deriving DecidableEq, Repr

/-- What an agent that is no lane waits for, or has got, at the lines it works on (R132): a line, the slice that asks, the number of the request
whose answer is awaited (0: the end of the slice's earlier request on the line), and the accesses performed for the work in hand. -/
structure AgentWait where
  line : Nat
  slice : Nat
  ticket : Nat := 0
  got : List Got := []
deriving DecidableEq, Repr

/-- An open transaction of a home engine (R125): the request, the home buffer, and what is outstanding. -/
structure Trans where
  req : Option Req := none
  /-- the agent whose transaction it is (512 for a recall), its program time, and whether an eviction opened it (R132, R133) -/
  agent : Nat := 512
  time : Nat := 0
  evict : Bool := false
  /-- the home buffer, once RDMEM or TAKE has filled it -/
  buffer : Option Line := none
  /-- the requester's operation has been applied, and what that gave it (R133) -/
  applied : Bool := false
  result : LineResult := {}
  /-- last timestamp given (R133) -/
  ts : Nat := 0
  /-- agents whose answer to MSG is outstanding, with the message: 1 INV, 2 FWDS, 3 FWDX, 4 UPD -/
  msgs : List (Nat × Nat) := []
  memData : Bool := false
  memAck : Bool := false
  ackZero : Bool := false
  sentAt : Nat := 0
  resent : Bool := false
deriving DecidableEq, Repr

/-- A copy in a slice or host agent (R135). -/
structure Copy where
  write : Bool := false
  dirty : Bool := false
  /-- a copy that its home records (FLAGS bit 0, R130) -/
  tracked : Bool := false
  /-- a read copy whose lease only the home extends (R108) -/
  leased : Bool := false
  /-- a read copy of a READONLY line, in no directory, whose lease never expires (R143) -/
  forever : Bool := false
  /-- a write copy of a PRIVATE line, in no directory: the name index of the owning group (R142) -/
  owner : Option Nat := none
  line : Line := {}
  wts : Nat := 0
  rts : Nat := 0
  /-- order of last use, for the choice of the copy that makes way -/
  used : Nat := 0
deriving DecidableEq, Repr

/-- A protocol message in flight to a home, to a copy or to a requester (R125, R132, R133). -/
structure Msg where
  event : Nat
  agent : Nat
  line : Nat
  wts : Nat := 0
  rts : Nat := 0
  data : Option Line := none
  /-- REPLYD or REPLYA: the timestamp, whether it grants a write copy, whether it acknowledges an eviction, whether the home has applied the
  requester's operation and what that gave, and the protocol's FLAGS; an eviction: its agent's program time -/
  ts : Nat := 0
  grantx : Bool := false
  evict : Bool := false
  applied : Bool := false
  result : LineResult := {}
  flags : Nat := 0
  /-- a request on its way to its home -/
  req : Option Req := none
deriving DecidableEq, Repr

/-- A protocol slot: its status register's fields and the table loaded (R128-R131). -/
structure ProtSlot where
  status : BitVec 2 := 0
  check : BitVec 8 := 0
  failEvent : BitVec 5 := 0
  failState : BitVec 6 := 0
  image : List Byte := []
deriving DecidableEq, Repr

/-- A range table entry (R126). -/
structure RangeEntry where
  limit : Nat := 0
  base : Nat := 0
  slot : Nat := 0
  valid : Bool := false
deriving DecidableEq, Repr

/-! ## Firmware -/

/-- A context descriptor (R342). -/
structure Context where
  l0 : Nat
  mexc : Nat
  priomax : Nat
deriving DecidableEq, Repr

/-- A committed command that has not completed (R346, R354). -/
structure Cmd where
  index : Nat
  op : Nat
  /-- the 128 bytes of its entry -/
  entry : List Byte
  started : Bool := false
  /-- its commit's timestamp -/
  time : Nat := 0
  /-- PREEMPT: the groups still to be saved, by name; CONTEXT: the requests on lines still to be answered (R437); SLICECFG: 1 once STAGE has
  changed -/
  groups : List Nat := []
deriving DecidableEq, Repr

/-- A command queue (R337-R346). -/
structure Queue where
  ring : Nat
  depth : Nat
  ctx : Nat
  shadow : Nat
  headpub : Nat
  journal : Nat
  jdepth : Nat
  msix : Nat
  uint : Nat
  runword : Nat
  notify : Nat
  lseq : Nat := 0
  tail : Nat := 0
  head : Nat := 0
  malformed : Nat := 0
  /-- the entry at HEAD had another LAP, and is read again at the next accepted tail write or reconcile pass (R338) -/
  waitLap : Bool := false
  /-- committed commands that have not completed, in index order -/
  open_ : List Cmd := []
  /-- largest timestamp of the queue's completed commands -/
  time : Nat := 0
  /-- what the check of an entry has read, by entry index: the list of a HINTS command, or the physical address of a CAPMINT's granule -/
  hints : Map (List Byte) := []
deriving DecidableEq, Repr

/-- A launch (R344, R37, R38, R354). -/
structure Launch where
  queue : Nat
  index : Nat
  ctx : Nat
  body : List Byte
  rootcap : Cap := {}
  compand : List Byte := []
  /-- chutes declared by the program's .chute directives, in declaration order: number, depth, bytes of an entry (R187, R278) -/
  chutes : List (Nat × Nat × Nat) := []
  hintList : List Byte := []
  prio : Nat := 0
  idemp : Bool := false
  /-- timestamp, CLOCK and order of its commit -/
  time : Nat := 0
  committed : Nat := 0
  order : Nat := 0
  /-- crew serial of the next crew formed (R74) -/
  serial : Nat := 0
  bins : List (Nat × List SpawnRec) := []
  /-- kills per group index (R424) -/
  kills : Map Nat := []
  /-- largest timestamp that a thread, stream or agent of the launch ended with -/
  last : Nat := 0
  heldBack : Bool := false
  atBrk : Bool := false
  brkSince : Nat := 0
  brkTime : Nat := 0
  status : Option Nat := none
  done : Bool := false
  /-- it is being terminated with a STATUS, once the firings in flight have finished (R397) -/
  ending : Option Nat := none
  /-- a part of a GANGLAUNCH of another package: coordinator, its command, the part (R353) -/
  part : Option (Nat × Nat × Nat) := none
  started : Bool := true
deriving DecidableEq, Repr

/-- A pending unit (R349): a gang, a group, a saved gang or group, or a spawned group's records. -/
structure PUnit where
  launch : Nat
  prio : Nat
  order : Nat
  /-- group indices of a new unit -/
  first : Nat := 0
  count : Nat := 1
  /-- one past the last group index of the like units that follow it; 0 where it stands alone -/
  stop : Nat := 0
  /-- a saved gang's key or a saved spawned group's name index -/
  savedGang : Option Nat := none
  savedGroup : Option Nat := none
  spawn : List SpawnRec := []
  kills : Nat := 0
  held : Bool := false
  /-- saved by firmware to free storage: not pending until a wait of it is met (R45) -/
  asleep : Bool := false
  /-- when it became ready, and whether the meeting of a wait made it so (R45) -/
  ready : Nat := 0
  woken : Bool := false
  /-- the unit's own number; arith cycles it has stood as the blocked head, and whether its bar is up (R351) -/
  id : Nat := 0
  age : Nat := 0
  bars : Bool := false
deriving DecidableEq, Repr

/-- A GANGLAUNCH at its coordinator (R353, R447). -/
structure GangLaunch where
  queue : Nat
  index : Nat
  entry : List Byte
  /-- TIMEOUT in arith cycles, and the cycle in which phase one began -/
  timeout : Nat
  began : Nat
  /-- per part: its package and its entry's address there -/
  parts : List (Nat × Nat)
  /-- by part: the timestamp of its READY, the STATUS of its DONE report, and since when there is no route to it -/
  ready : Map Nat := []
  report : Map Nat := []
  lost : Map Nat := []
  /-- 0 undecided, 1 committed, 2 aborted; the coordinator's program time, which is the commit's timestamp once it is decided, and the commit's
  cycle -/
  decision : Nat := 0
  time : Nat := 0
  committed : Nat := 0
  /-- 0x0403 once a part has been out of reach for 1 s after COMMIT -/
  status : Nat := 0
deriving DecidableEq, Repr

/-- A reservation that this package holds for a part of a GANGLAUNCH, or the record of one that has started (R353): the coordinator, its
command, the part, the key of the part's launch, the timestamp given with READY, the cycle it was made in, and its life in cycles. -/
structure Reservation where
  coord : Nat
  id : Nat
  part : Nat
  launch : Nat
  time : Nat
  at_ : Nat
  life : Nat
deriving DecidableEq, Repr

/-! ## Fabric -/

/-- A request packet of R365: header, offsets and data elements by lane. -/
structure Packet where
  hdr : BitVec 256
  offs : BitVec 512
  data : BitVec 4096
  /-- some data element is poisoned (R421; notes/assumptions/129.md) -/
  poison : Bool := false
deriving DecidableEq, Repr

/-- A packet egress keeps until its reply arrives (R364, R441). -/
structure Sent where
  packet : Packet
  crew : Nat := 0
  /-- a COLL firing: cluster x 64 + place -/
  engine : Option Nat := none
  route : Nat := 0
  sends : Nat := 1
  lastSent : Nat := 0
deriving DecidableEq, Repr

/-- Who is told what has become of a put (R114, R272): the lane that issued it, by its thread's key, or the request of another package that
carried it, by its key. -/
inductive PutFrom where
  | lane (key : Nat)
  | request (key : Nat)
deriving DecidableEq, Repr

/-- A put on its way to its register: its target's name, thread and register, .d or .w, its value and the program time it carries (R271). -/
structure QueuedPut where
  name : Nat
  thread : Nat
  reg : Nat
  wide : Bool
  data : DWord
  time : Nat
  from_ : PutFrom
deriving DecidableEq, Repr

/-- A vector request of another package that is being performed, lane by lane (R366): the lanes done, its puts that are still to be delivered, the
largest timestamp, the first refusal and the elements to return. -/
structure Served where
  packet : Packet
  next : Nat := 0
  puts : Nat := 0
  ts : Nat := 0
  status : Nat := 0
  elems : List Nat := []
deriving DecidableEq, Repr

/-- Something the package has sent to the outside: fabric packets, host writes and interrupts, firmware messages. -/
inductive Out where
  /-- a packet's bytes, on a virtual channel of a port, and whether the link marks its data poisoned (R363, R365, R421) -/
  | packet (port vc : Nat) (bytes : List Byte) (poison : Bool)
  | msix (vector : Nat)
  | hostWrite (addr : Nat) (val : Nat)
  | firmware (pkg : Nat) (i : Instr)
  | snoop (agent : Nat) (line : Nat)
  /-- a CXL.cache request for a host-memory line, for reading or for writing (R119, R135) -/
  | cxlCache (line : Nat) (write : Bool)
  /-- the completion of a CXL.mem request: the bytes read, and the poison indication -/
  | cxl (agent : Nat) (addr : Nat) (data : List Byte) (poison : Bool)
deriving DecidableEq, Repr

/-- A page fill in progress (R433), or one that has failed and whose waiters are to learn of it (R434): the physical address of the fill
entry, its value and level. -/
structure PageFill where
  pte : Nat
  entry : Nat
  level : Nat
  at_ : Nat := 0
  /-- the fill has failed, with the SUB that its waiters take (R430) -/
  failed : Option Nat := none
deriving DecidableEq, Repr

/-! ## The package -/

/-- The state of one package. -/
structure State where
  /-- CLOCK: arith cycles since reset (R73); the two dies' counts are kept equal -/
  clock : Nat
  /-- what executes the instruction given to exec -/
  unit : Unit_
  /-- the package's id, assigned by system software (R16) -/
  pkg : BitVec 10
  -- memory
  mem : Memory
  /-- tags by 16-byte granule, poison by granule, full bits by staging word, fills in flight by staging line (R101, R420, R88, R89) -/
  tags : Map Bool
  poison : Map Bool
  full : Map Bool
  filling : Map Nat
  /-- slab ownership: codes of R325; unlisted slabs are CORE -/
  slabs : Map (BitVec 2)
  /-- STAGE per slice (R83) -/
  stage : Map Nat
  -- execution
  threads : Map Thread
  crews : Map Crew
  /-- registers of retired groups' crews and threads, by crew key, until a crew takes the slot (R63, R383) -/
  remains : Map (Crew × List Thread)
  groups : Map Group
  gangs : Map Gang
  nextGang : Nat
  cores : Map Core
  clusters : Map Cluster
  /-- name table: generation of each index, and the indices freed, longest free first (R67) -/
  gens : Map Nat
  freed : List Nat
  nextName : Nat
  /-- sharing groups: context and key with the member name indices (R90) -/
  sharing : List ((Nat × Nat) × List Nat)
  /-- the model's own: which unit goes on next within the arith cycle (Machine/Schedule.lean) -/
  turn : Nat
  /-- stamps for waiters, armed operations and queue entries -/
  stamp : Nat
  -- benches and windows
  benches : Map Bench
  hbmStacks : Map Stack
  benchLaunches : Map BenchLaunch
  windows : Map Window
  /-- windows that WFINAL has closed, whose writer has still to run, by window number (R260) -/
  writers : List (Nat × Window)
  /-- drain entries on their way to the crusher of each die -/
  drains : Map (List DrainEntry)
  /-- exact accumulators of DMODE 1 launches: launch entry x 2^24 + row (R334) -/
  epoch : Map ExactAcc
  /-- column cycles since reset (R5, R331) -/
  column : Nat
  -- coherence
  dir : Map DirEntry
  floor : Map Nat
  trans : Map Trans
  /-- events that wait for their line to be stable, in order of arrival (R125, R131) -/
  deferred : Map (List Msg)
  copies : Map Copy
  /-- requests a slice has outstanding (R125) -/
  pendingReq : List (Nat × Nat × Req)
  /-- what agents other than lanes wait for or have got (R132) -/
  agentWaits : List (Waiter × AgentWait)
  /-- home slices whose engines have handled an event in this arith cycle (R125) -/
  handled : List Nat
  msgs : List Msg
  slots : Map ProtSlot
  ranges : Map RangeEntry
  lostAgents : List Nat
  /-- program times of host caching agents, and those that replies have given to requesting slices (R106, R133) -/
  agentTime : Map Nat
  /-- host-memory lines that this package holds under CXL.cache (R119, R135) -/
  cxlHeld : List Nat
  /-- wts and rts of staging lines, by line (R107) -/
  stageTime : Map (Nat × Nat)
  /-- timestamps of the last OWNB or OWNC of a slab (R105, R118) -/
  slabTime : Map Nat
  /-- staging words operated on in this arith cycle: runs of first word and one past the last (R254) -/
  touched : List (Nat × Nat)
  -- firmware
  contexts : Map Context
  queues : Map Queue
  launches : Map Launch
  pending : List PUnit
  nextOrder : Nat
  /-- the unit that the last pass left as the blocked head (R351) -/
  headUnit : Option Nat
  /-- the .chute declarations of programs, by context and CODE, as system software has made them known (R187, R278;
  notes/assumptions/28.md) -/
  declared : List ((Nat × Nat) × List (Nat × Nat × Nat))
  gangLaunches : Map GangLaunch
  reservations : List Reservation
  pageFills : List PageFill
  /-- memory-exception flags waiting to be ORed are written at once; the ORs skipped, by context (R157, R418) -/
  skippedOrs : Map Nat
  -- fabric
  sent : Map Sent
  /-- replies kept by source package and tag, with the cycle they were sent in (R441) -/
  kept : Map (Nat × Packet)
  /-- tags in use or cooling, by die: cycle after which a tag may be used again (R441) -/
  tagFree : Map Nat
  ports : Map Bool
  /-- ports of clique peers that are down, as (package, port), which the choice of a detour needs (R361; notes/assumptions/65.md) -/
  peerDown : List (Nat × Nat)
  /-- requests of other packages that are being performed, by source package and tag -/
  served : Map Served
  /-- puts that have arrived and are still to be delivered, oldest first (R272) -/
  putQueue : List QueuedPut
  outbox : List Out
  -- management (R370)
  mstatus : Word
  bootctl : Word
  q0desc : DWord
  patchaddr : DWord
  attNonce : BitVec 384
  attAddr : DWord
  attBusy : Nat
  power : Map Word
  therm : Map Word
  /-- cycles TEMP has stood at or above TLIMIT + 10, and the emergency cap in force, per die (R449) -/
  hot : Map Nat
  cap8 : Map Bool
  dead : Map Bool
  /-- the block that Q0DESC names, as read at GO (R371) -/
  q0block : List Byte
  /-- ELOG, ELOGDEPTH, LWATCH, SAVEAREA, SAVESIZE, read at GO (R417, R450, R452), and the next record number -/
  elog : Nat
  elogDepth : Nat
  lwatch : Nat
  saveArea : Nat
  saveSize : Nat
  errSeq : Nat
  /-- by unit and die: the cycle of its last CLASS 1 record, and the corrections counted since (R419) -/
  corrections : Map (Nat × Nat)
  patchVersion : Nat
  /-- SHA-384 of the active patch image -/
  patchHash : BitVec 384
  booted : Bool
  -- the outside and the model's own
  /-- events from outside the package, oldest first -/
  inputs : List Instr
  /-- internal events that are due: cycle and event -/
  agenda : List (Nat × Instr)
  /-- the model's own: how many free values have been drawn (Config.freeWord) -/
  free : Nat
deriving DecidableEq, Repr

/-! ## How a step can stop -/

/-- A step that cannot go on. -/
inductive Fault where
  /-- Machine/Step.lean, when a die has stopped its clocks at 125 degrees C (R449): the package runs again only after a power-good
  reset, which is an input. Safe: the machine does nothing. -/
  | clocksStopped
deriving DecidableEq, Repr

/-- An instruction without a meaning. -/
inductive Refusal where
  /-- Machine/Dispatch.lean, for an instruction that has no meaning yet. Safe. -/
  | notModelled (mnemonic : String)
deriving DecidableEq, Repr

/-- The package right after reset, as R374 says; fields the spec gives no value are named in notes/assumptions/2.md. -/
def State.reset : State where
  clock := 0
  unit := .none
  pkg := 0
  mem := []
  tags := []
  poison := []
  full := []
  filling := []
  slabs := []
  stage := []
  threads := []
  crews := []
  remains := []
  groups := []
  gangs := []
  nextGang := 0
  cores := []
  clusters := []
  gens := []
  freed := []
  nextName := 0
  sharing := []
  turn := 0
  stamp := 0
  benches := []
  hbmStacks := []
  benchLaunches := []
  windows := []
  writers := []
  drains := []
  epoch := []
  column := 0
  dir := []
  floor := []
  trans := []
  deferred := []
  copies := []
  pendingReq := []
  agentWaits := []
  handled := []
  msgs := []
  slots := []
  ranges := []
  lostAgents := []
  agentTime := []
  cxlHeld := []
  stageTime := []
  slabTime := []
  touched := []
  contexts := []
  queues := []
  launches := []
  pending := []
  nextOrder := 0
  headUnit := none
  declared := []
  gangLaunches := []
  reservations := []
  pageFills := []
  skippedOrs := []
  sent := []
  kept := []
  tagFree := []
  ports := []
  peerDown := []
  served := []
  putQueue := []
  outbox := []
  mstatus := 0
  bootctl := 0
  q0desc := 0
  patchaddr := 0
  attNonce := 0
  attAddr := 0
  attBusy := 0
  power := []
  therm := []
  hot := []
  cap8 := []
  dead := []
  q0block := []
  elog := 0
  elogDepth := 0
  lwatch := 0
  saveArea := 0
  saveSize := 0
  errSeq := 0
  corrections := []
  patchVersion := 0
  patchHash := 0
  booted := false
  inputs := []
  agenda := []
  free := 0

/-- The package right after reset, with the id that system software has assigned to it (R16; notes/assumptions/58.md). -/
def State.resetAs (id : BitVec 10) : State := { State.reset with pkg := id }

end Sys2Proof.Machine
end

