-- ==== Sys2Proof/Machine/Access.lean ====
section
/-! DEFINITION. Reading and replacing the records of the state, and the numbers by which the spec names units (R16, R17, R76). -/

namespace Sys2Proof.Machine

/-- The package's id as a number (R16). -/
def State.pkgId (s : State) : Nat := s.pkg.toNat

/-- Key of a crew: global core and slot. -/
def crewKey (core slot : Nat) : Nat := 64 * core + slot

/-- Core of a crew key. -/
def coreOf (crew : Nat) : Nat := crew / 64

/-- Slot of a crew key. -/
def slotOf (crew : Nat) : Nat := crew % 64

/-- Global cluster of a core (R16). -/
def clusterOf (core : Nat) : Nat := core / 4

/-- Die of a core or yard slice (R16). -/
def dieOf (core : Nat) : Nat := core / 160

def State.thread (s : State) (crew lane : Nat) : Thread := mget {} s.threads (32 * crew + lane)

def State.setThread (s : State) (crew lane : Nat) (t : Thread) : State :=
  { s with threads := mset s.threads (32 * crew + lane) t }

/-- Change one thread. -/
def State.modThread (s : State) (crew lane : Nat) (f : Thread → Thread) : State :=
  s.setThread crew lane (f (s.thread crew lane))

def noCrew : Crew := { group := 0, index := 0 }

def State.crew (s : State) (key : Nat) : Crew := mget noCrew s.crews key

def State.setCrew (s : State) (key : Nat) (c : Crew) : State := { s with crews := mset s.crews key c }

def State.modCrew (s : State) (key : Nat) (f : Crew → Crew) : State := s.setCrew key (f (s.crew key))

def noGroup : Group := { name := 0, core := 0, gslot := 0, launch := 0, index := 0, nregs := 8, asize := 0, threads := 0, crews := 0 }

def State.group (s : State) (key : Nat) : Group := mget noGroup s.groups key

/-- Whether a group stands on a core: it is resident, or its save has begun and is not done. -/
def Group.present (g : Group) : Bool := g.place == .resident || g.place == .moving

def State.setGroup (s : State) (key : Nat) (g : Group) : State := { s with groups := mset s.groups key g }

def State.modGroup (s : State) (key : Nat) (f : Group → Group) : State := s.setGroup key (f (s.group key))

def noGang : Gang := { launch := 0, index := 0, cluster := 0, groups := [] }

def State.gang (s : State) (key : Nat) : Gang := mget noGang s.gangs key

def State.modGang (s : State) (key : Nat) (f : Gang → Gang) : State :=
  { s with gangs := mset s.gangs key (f (s.gang key)) }

def State.core (s : State) (key : Nat) : Core := mget {} s.cores key

def State.modCore (s : State) (key : Nat) (f : Core → Core) : State :=
  { s with cores := mset s.cores key (f (s.core key)) }

def State.cluster (s : State) (key : Nat) : Cluster := mget {} s.clusters key

def State.modCluster (s : State) (key : Nat) (f : Cluster → Cluster) : State :=
  { s with clusters := mset s.clusters key (f (s.cluster key)) }

def State.stack (s : State) (key : Nat) : Stack := mget {} s.hbmStacks key

def State.modStack (s : State) (key : Nat) (f : Stack → Stack) : State :=
  { s with hbmStacks := mset s.hbmStacks key (f (s.stack key)) }

def State.bench (s : State) (key : Nat) : Bench := mget {} s.benches key

def State.modBench (s : State) (key : Nat) (f : Bench → Bench) : State :=
  { s with benches := mset s.benches key (f (s.bench key)) }

def State.benchLaunch (s : State) (key : Nat) : BenchLaunch := mget {} s.benchLaunches key

def State.modBenchLaunch (s : State) (key : Nat) (f : BenchLaunch → BenchLaunch) : State :=
  { s with benchLaunches := mset s.benchLaunches key (f (s.benchLaunch key)) }

def State.window (s : State) (key : Nat) : Window := mget {} s.windows key

def State.modWindow (s : State) (key : Nat) (f : Window → Window) : State :=
  { s with windows := mset s.windows key (f (s.window key)) }

def Armed.group (a : Armed) : Nat := a.agent.view.group
def Armed.gang (a : Armed) : Option Nat := a.agent.gang
def Armed.ctx (a : Armed) : Nat := a.agent.view.ctx
def Window.group (w : Window) : Nat := w.agent.view.group
def Window.ctx (w : Window) : Nat := w.agent.view.ctx
def BenchLaunch.group (b : BenchLaunch) : Nat := b.agent.view.group
def BenchLaunch.ctx (b : BenchLaunch) : Nat := b.agent.view.ctx

def noLaunch : Launch := { queue := 0, index := 0, ctx := 0, body := [] }

/-- Key of a launch: its queue and entry index. -/
def launchKey (queue index : Nat) : Nat := queue * 2 ^ 32 + index

def State.launch (s : State) (key : Nat) : Launch := mget noLaunch s.launches key

def State.modLaunch (s : State) (key : Nat) (f : Launch → Launch) : State :=
  { s with launches := mset s.launches key (f (s.launch key)) }

def noQueue : Queue :=
  { ring := 0, depth := 16, ctx := 0, shadow := 0, headpub := 0, journal := 0, jdepth := 16, msix := 0, uint := 0, runword := 0, notify := 0 }

def State.queue (s : State) (key : Nat) : Queue := mget noQueue s.queues key

def State.modQueue (s : State) (key : Nat) (f : Queue → Queue) : State :=
  { s with queues := mset s.queues key (f (s.queue key)) }

/-- A field of a byte record, little-endian (R2). -/
def field (b : List Byte) (off n : Nat) : Nat := leNat ((b.drop off).take n)

/-- Field of a launch's body, by its offset in the command entry (R344). -/
def Launch.f (l : Launch) (off n : Nat) : Nat := field l.body off n

/-- Bits [lo+n-1:lo] of a number. -/
def natBits (x lo n : Nat) : Nat := x / 2 ^ lo % 2 ^ n

/-- The physical map of R76. -/
inductive Region where
  | hbm | staging | device | host | reserved
deriving DecidableEq, Repr

def stagingBase : Nat := 0x10000000000
def deviceBase : Nat := 0x20000000000
def hostBase : Nat := 0x8000000000000

/-- Which part of the physical map an address lies in (R76). -/
def region (pa : Nat) : Region :=
  if pa < 0xC000000000 then .hbm
  else if stagingBase ≤ pa ∧ pa < stagingBase + 0x28000000 then .staging
  else if deviceBase ≤ pa ∧ pa < deviceBase + 0x40000000 then .device
  else if hostBase ≤ pa ∧ pa < 2 * hostBase then .host
  else .reserved

/-- Slab of an HBM address (R77). -/
def slabOf (pa : Nat) : Nat := pa / 2 ^ 18

/-- State of a slab (R325); every slab is CORE at reset (R92). -/
def State.slab (s : State) (n : Nat) : BitVec 2 := mget 0 s.slabs n

/-- Whether an address may be used by cores and engines: it is no HBM address of a slab that is not CORE (R92). -/
def State.coreOwned (s : State) (pa : Nat) : Bool := region pa != .hbm || s.slab (slabOf pa) == 0

/-- Home slice of a coherent line, or the slice that holds a staging word (R123, R86). -/
def homeSlice (pa : Nat) : Nat :=
  match region pa with
  | .hbm => 160 * (natBits pa 36 4 / 6) + natBits pa 7 33 % 160
  | .staging => (pa - stagingBase) / 0x200000
  | _ => 160 * natBits pa 50 1 + natBits pa 7 43 % 160

/-- Physical address of an offset in a slice's staging (R76). -/
def stagingAt (slice off : Nat) : Nat := stagingBase + 0x200000 * slice + off

end Sys2Proof.Machine
end

