-- ==== Sys2Proof/Machine/Flags.lean ====
section
/-! DEFINITION. The six exception flags (R156), the fields of FPCTL (R71), and the generator of stochastic rounding (R158). Machine/Operands.lean raises
flags into a lane's FPSTAT. -/

namespace Sys2Proof.Machine

/-- A set of flags, in FPSTAT bit order (R70). -/
abbrev Flags := BitVec 6

def flagNV : Flags := 1
def flagDZ : Flags := 2
def flagOF : Flags := 4
def flagUF : Flags := 8
def flagNX : Flags := 16
def flagSAT : Flags := 32

/-- A flag where a condition holds. -/
def flagIf (b : Bool) (f : Flags) : Flags := if b then f else 0

/-- FPCTL.RM (R71). -/
def Thread.rm (t : Thread) : Nat := natBits t.fpctl.toNat 0 3

/-- FPCTL.FTZ (R71). -/
def Thread.ftz (t : Thread) : Bool := t.fpctl.getLsbD 6

/-- FPCTL.DAZ (R71). -/
def Thread.daz (t : Thread) : Bool := t.fpctl.getLsbD 7

/-- FPCTL.TRAPEN (R71). -/
def Thread.trapen (t : Thread) : Flags := BitVec.ofNat 6 (natBits t.fpctl.toNat 8 6)

/-! ## The generator of stochastic rounding -/

/-- One step of the generator (R158). -/
def stepSeed (x : DWord) : DWord :=
  let x := if x = 0 then 0x9E3779B97F4A7C15#64 else x
  let x := x ^^^ (x <<< 13)
  let x := x ^^^ (x >>> 7)
  x ^^^ (x <<< 17)

/-- The 24 bits that decide a rounding (R158). -/
def seedDraw (x : DWord) : Nat := natBits x.toNat 40 24

end Sys2Proof.Machine
end

