-- ==== Sys2Proof/Config.lean ====
section
/-! DEFINITION. What an implementation fixes and the spec leaves open, as constants without a body: a claim about one holds whatever it is.
Each is named in the assumption log. -/

namespace Sys2Proof

/-- The choice among the results that R235 and R236 allow a special function: operation, operand, candidates
(notes/assumptions/21.md). -/
opaque Config.sfuPick (op : Nat) (x : BitVec 32) : Nat

/-- The patch public key, a point of brainpoolP384r1: its coordinates (R375; notes/assumptions/22.md). -/
opaque Config.patchKey : BitVec 384 × BitVec 384

/-- The private identity key (R376; notes/assumptions/22.md). -/
opaque Config.identityKey : BitVec 384

/-- The secret number of a signature, one for each drawn (R377; notes/assumptions/22.md). -/
opaque Config.signNonce (n : Nat) : BitVec 384

/-- IDCERT, the device certificate, by byte (R376; notes/assumptions/22.md). -/
opaque Config.idCert (offset : Nat) : Byte

/-- The serial number, as in IDCERT (R377; notes/assumptions/22.md). -/
opaque Config.serial : BitVec 64

/-- SHA-384 of the ROM firmware (R377; notes/assumptions/22.md). -/
opaque Config.romHash : BitVec 384

/-- Entries of a core's outstanding-transaction table, beyond the first (R122; notes/assumptions/126.md). -/
opaque Config.tableSize : Nat

/-- A value the spec does not state, one for each number drawn from State.free (notes/assumptions/23.md). -/
opaque Config.freeWord (n : Nat) : BitVec 64

end Sys2Proof
end

