-- ==== Sys2Proof/Machine/Inflate.lean ====
section
/-! DEFINITION. The inline decompressor of R434: a raw DEFLATE stream as RFC 1951 defines it, all three block types, window 32 KiB. -/

namespace Sys2Proof.Machine

/-- The decompressor: source bytes, next bit, bytes produced. -/
structure Infl where
  src : Array Byte
  pos : Nat := 0
  out : Array Byte := #[]

/-- Take `n` bits, the first as bit 0. -/
def Infl.take (z : Infl) : Nat → Option (Nat × Infl)
  | 0 => some (0, z)
  | n + 1 =>
    if z.pos / 8 < z.src.size then
      let b := (z.src.getD (z.pos / 8) 0).toNat / 2 ^ (z.pos % 8) % 2
      match Infl.take { z with pos := z.pos + 1 } n with
      | some (x, z) => some (b + 2 * x, z)
      | none => none
    else none

/-- A canonical Huffman code: how many codes of each length 0-15, and the symbols in code order. -/
structure Huff where
  counts : List Nat
  syms : Array Nat

/-- The code that a list of code lengths denotes. -/
def huffOf (lens : List Nat) : Huff where
  counts := (List.range 16).map fun l => (lens.filter (· == l)).length
  syms := ((List.range 15).flatMap fun l =>
    (lens.zipIdx.filter (fun p => p.1 == l + 1)).map (·.2)).toArray

/-- Codes left unused at length 15; negative where the lengths are over-subscribed. -/
def Huff.left (h : Huff) : Int :=
  (List.range 15).foldl (fun l i => if l < 0 then l else 2 * l - (h.counts.getD (i + 1) 0 : Int)) 1

/-- A code that RFC 1951 admits: complete, or a single code of one bit. -/
def Huff.ok (h : Huff) (n : Nat) : Bool :=
  h.left == 0 || (decide (0 < h.left) && n == h.counts.getD 0 0 + h.counts.getD 1 0)

/-- Decode one symbol, trying lengths from 1. -/
def Huff.decode (h : Huff) : (fuel len code first index : Nat) → Infl → Option (Nat × Infl)
  | 0, _, _, _, _, _ => none
  | fuel + 1, len, code, first, index, z =>
    match z.take 1 with
    | none => none
    | some (b, z) =>
      let code := code + b
      let count := h.counts.getD len 0
      if code < first + count then some (h.syms.getD (index + code - first) 0, z)
      else h.decode fuel (len + 1) (2 * code) (2 * (first + count)) (index + count) z

def lenBase : List Nat := [3, 4, 5, 6, 7, 8, 9, 10, 11, 13, 15, 17, 19, 23, 27, 31, 35, 43, 51, 59, 67, 83, 99, 115, 131, 163, 195, 227, 258]
def lenExtra : List Nat := [0, 0, 0, 0, 0, 0, 0, 0, 1, 1, 1, 1, 2, 2, 2, 2, 3, 3, 3, 3, 4, 4, 4, 4, 5, 5, 5, 5, 0]
def distBase : List Nat := [1, 2, 3, 4, 5, 7, 9, 13, 17, 25, 33, 49, 65, 97, 129, 193, 257, 385, 513, 769, 1025, 1537, 2049, 3073, 4097,
  6145, 8193, 12289, 16385, 24577]
def distExtra : List Nat := [0, 0, 0, 0, 1, 1, 2, 2, 3, 3, 4, 4, 5, 5, 6, 6, 7, 7, 8, 8, 9, 9, 10, 10, 11, 11, 12, 12, 13, 13]

/-- Repeat the bytes that lie `dist` back. -/
def Infl.copyBack (z : Infl) (dist : Nat) : Nat → Infl
  | 0 => z
  | n + 1 => Infl.copyBack { z with out := z.out.push (z.out.getD (z.out.size - dist) 0) } dist n

/-- The symbols of one compressed block. -/
def Infl.codes (lit dist : Huff) (limit : Nat) : Nat → Infl → Option Infl
  | 0, _ => none
  | fuel + 1, z =>
    match lit.decode 15 1 0 0 0 z with
    | none => none
    | some (sym, z) =>
      if limit < z.out.size then none
      else if sym < 256 then Infl.codes lit dist limit fuel { z with out := z.out.push (BitVec.ofNat 8 sym) }
      else if sym = 256 then some z
      else if 286 ≤ sym then none
      else do
        let (e, z) ← z.take (lenExtra.getD (sym - 257) 0)
        let len := lenBase.getD (sym - 257) 0 + e
        let (ds, z) ← dist.decode 15 1 0 0 0 z
        if 30 ≤ ds then none
        else
          let (e, z) ← z.take (distExtra.getD ds 0)
          let d := distBase.getD ds 0 + e
          if z.out.size < d then none else Infl.codes lit dist limit fuel (z.copyBack d len)

/-- A stored block. -/
def Infl.stored (z : Infl) : Option Infl := do
  let z := { z with pos := (z.pos + 7) / 8 * 8 }
  let (len, z) ← z.take 16
  let (nlen, z) ← z.take 16
  if len + nlen ≠ 65535 ∨ z.src.size < z.pos / 8 + len then none
  else some { z with pos := z.pos + 8 * len, out := z.out ++ z.src.extract (z.pos / 8) (z.pos / 8 + len) }

/-- The order in which code-length code lengths are sent. -/
def clOrder : List Nat := [16, 17, 18, 0, 8, 7, 9, 6, 10, 5, 11, 4, 12, 3, 13, 2, 14, 1, 15]

/-- Read `n` three-bit lengths. -/
def Infl.clens (z : Infl) : Nat → Option (List Nat × Infl)
  | 0 => some ([], z)
  | n + 1 => do
    let (x, z) ← z.take 3
    let (r, z) ← z.clens n
    some (x :: r, z)

/-- Read the literal and distance code lengths of a dynamic block. -/
def Infl.lens (h : Huff) (total : Nat) : Nat → List Nat → Infl → Option (List Nat × Infl)
  | 0, _, _ => none
  | fuel + 1, acc, z =>
    if total ≤ acc.length then if acc.length = total then some (acc, z) else none
    else do
      let (sym, z) ← h.decode 15 1 0 0 0 z
      if sym < 16 then Infl.lens h total fuel (acc ++ [sym]) z
      else if sym = 16 then
        let prev ← acc.getLast?
        let (n, z) ← z.take 2
        Infl.lens h total fuel (acc ++ List.replicate (3 + n) prev) z
      else if sym = 17 then
        let (n, z) ← z.take 3
        Infl.lens h total fuel (acc ++ List.replicate (3 + n) 0) z
      else
        let (n, z) ← z.take 7
        Infl.lens h total fuel (acc ++ List.replicate (11 + n) 0) z

/-- A block with its own codes. -/
def Infl.dynamic (limit : Nat) (z : Infl) : Option Infl := do
  let (hlit, z) ← z.take 5
  let (hdist, z) ← z.take 5
  let (hclen, z) ← z.take 4
  if 286 < hlit + 257 ∨ 30 < hdist + 1 then none
  else
    let (cl, z) ← z.clens (hclen + 4)
    let clLens := (List.range 19).map fun s => ((clOrder.zip cl).find? (·.1 == s)).elim 0 (·.2)
    let h := huffOf clLens
    if h.left ≠ 0 then none
    else
      let total := hlit + 257 + hdist + 1
      let (ls, z) ← Infl.lens h total (total + 1) [] z
      let lit := huffOf (ls.take (hlit + 257))
      let dist := huffOf (ls.drop (hlit + 257))
      if ls.getD 256 0 = 0 ∨ !lit.ok (hlit + 257) ∨ !dist.ok (hdist + 1) then none
      else Infl.codes lit dist limit (limit + 1) z

/-- The fixed codes. -/
def fixedLit : Huff :=
  huffOf (List.replicate 144 8 ++ List.replicate 112 9 ++ List.replicate 24 7 ++ List.replicate 8 8)
def fixedDist : Huff := huffOf (List.replicate 30 5)

/-- Blocks up to the final one. -/
def Infl.blocks (limit : Nat) : Nat → Infl → Option Infl
  | 0, _ => none
  | fuel + 1, z => do
    let (final, z) ← z.take 1
    let (type, z) ← z.take 2
    let z ← if type = 0 then z.stored
      else if type = 1 then Infl.codes fixedLit fixedDist limit (limit + 1) z
      else if type = 2 then Infl.dynamic limit z
      else none
    if limit < z.out.size then none
    else if final = 1 then some z
    else Infl.blocks limit fuel z

/-- Decompress a stream that must produce exactly `size` bytes (R434). -/
def inflate (src : List Byte) (size : Nat) : Option (List Byte) :=
  match Infl.blocks size (8 * src.length + 1) { src := src.toArray } with
  | some z => if z.out.size = size then some z.out.toList else none
  | none => none

end Sys2Proof.Machine
end

