-- ==== Sys2Proof/Machine/Numbers.lean ====
section
/-! DEFINITION. Number formats and rounding (R144 to R155, R161, R162, R165): exact values, decode_fmt, round_fmt, and the exact operations
whose results are rounded once. -/

namespace Sys2Proof.Machine

/-! ## Exact values -/

/-- An exact value: a NaN and whether it signals, an infinity, or the signed rational (-1)^neg x n / d x 2^e; n = 0 is a signed zero. -/
inductive Val where
  | nan (sig : Bool)
  | inf (neg : Bool)
  | fin (neg : Bool) (n d : Nat) (e : Int)
deriving DecidableEq, Repr

def Val.zero (neg : Bool) : Val := .fin neg 0 1 0
def Val.isNan : Val → Bool | .nan _ => true | _ => false
def Val.isSig : Val → Bool | .nan b => b | _ => false
def Val.isInf : Val → Bool | .inf _ => true | _ => false
def Val.isZero : Val → Bool | .fin _ n _ _ => n == 0 | _ => false
def Val.neg : Val → Bool | .nan _ => false | .inf b => b | .fin b _ _ _ => b

/-- The value with a sign. -/
def Val.withSign (b : Bool) : Val → Val
  | .nan s => .nan s
  | .inf _ => .inf b
  | .fin _ n d e => .fin b n d e

def Val.negate (x : Val) : Val := x.withSign (!x.neg)

/-- The exact value of an integer. -/
def Val.ofInt (x : Int) : Val := .fin (decide (x < 0)) x.natAbs 1 0

/-- Numerator and denominator of n / d x 2^e in units of 2^q. -/
def scaled (n d : Nat) (e q : Int) : Nat × Nat :=
  if q ≤ e then (n * 2 ^ (e - q).toNat, d) else (n, d * 2 ^ (q - e).toNat)

/-- Exponent of the leading bit of n / d x 2^e, for n > 0. -/
def leadingExp (n d : Nat) (e : Int) : Int :=
  let k : Int := (Nat.log2 n : Int) - (Nat.log2 d : Int)
  let (a, b) := scaled n d 0 k
  if b ≤ a then k + e else k - 1 + e

/-- Compare magnitudes of two finite values. -/
def magLt (n1 d1 : Nat) (e1 : Int) (n2 d2 : Nat) (e2 : Int) : Bool :=
  let q := min e1 e2
  let (a, b) := scaled n1 d1 e1 q
  let (x, y) := scaled n2 d2 e2 q
  decide (a * y < x * b)

/-- Whether a value lies below another; NaNs lie nowhere and zeros are equal. -/
def Val.lt (x y : Val) : Bool :=
  match x, y with
  | .nan _, _ | _, .nan _ => false
  | .inf a, .inf b => a && !b
  | .inf a, .fin _ _ _ _ => a
  | .fin _ _ _ _, .inf b => !b
  | .fin a n1 d1 e1, .fin b n2 d2 e2 =>
    if n1 = 0 ∧ n2 = 0 then false
    else if n1 = 0 then !b
    else if n2 = 0 then a
    else if a && !b then true
    else if !a && b then false
    else if a then magLt n2 d2 e2 n1 d1 e1
    else magLt n1 d1 e1 n2 d2 e2

/-- Equality of values: zeros of either sign are equal, a NaN equals nothing. -/
def Val.eq (x y : Val) : Bool := !x.isNan && !y.isNan && !x.lt y && !y.lt x

/-! ## Exact operations -/

/-- The sum of two finite values; a zero sum of terms of opposite sign has the sign `down` (R227). -/
def finAdd (down : Bool) (a : Bool) (n1 d1 : Nat) (e1 : Int) (b : Bool) (n2 d2 : Nat) (e2 : Int) : Val :=
  let q := min e1 e2
  let x : Int := (scaled n1 d1 e1 q).1 * d2
  let y : Int := (scaled n2 d2 e2 q).1 * d1
  let s := (if a then -x else x) + (if b then -y else y)
  if s = 0 then .zero (if a = b then a else down) else .fin (decide (s < 0)) s.natAbs (d1 * d2) q

/-- a + b (R229). -/
def Val.add (down : Bool) (x y : Val) : Val × Flags :=
  let sig := flagIf (x.isSig || y.isSig) flagNV
  match x, y with
  | .nan _, _ | _, .nan _ => (.nan false, sig)
  | .inf a, .inf b => if a = b then (.inf a, 0) else (.nan false, flagNV)
  | .inf a, _ => (.inf a, 0)
  | _, .inf b => (.inf b, 0)
  | .fin a n1 d1 e1, .fin b n2 d2 e2 => (finAdd down a n1 d1 e1 b n2 d2 e2, 0)

/-- a x b (R229). -/
def Val.mul (x y : Val) : Val × Flags :=
  let sig := flagIf (x.isSig || y.isSig) flagNV
  match x, y with
  | .nan _, _ | _, .nan _ => (.nan false, sig)
  | .fin a n1 d1 e1, .fin b n2 d2 e2 => (.fin (a != b) (n1 * n2) (d1 * d2) (e1 + e2), 0)
  | x, y => if x.isZero || y.isZero then (.nan false, flagNV) else (.inf (x.neg != y.neg), 0)

/-- a / b (R229). -/
def Val.div (x y : Val) : Val × Flags :=
  let sig := flagIf (x.isSig || y.isSig) flagNV
  let s := x.neg != y.neg
  match x, y with
  | .nan _, _ | _, .nan _ => (.nan false, sig)
  | .inf _, .inf _ => (.nan false, flagNV)
  | .inf _, _ => (.inf s, 0)
  | _, .inf _ => (.zero s, 0)
  | .fin _ n1 d1 e1, .fin _ n2 d2 e2 =>
    if n2 = 0 then if n1 = 0 then (.nan false, flagNV) else (.inf s, flagDZ)
    else (.fin s (n1 * d2) (d1 * n2) (e1 - e2), 0)

/-- Whether z + x y meets 0 x infinity (R230). -/
def mulInvalid (x y : Val) : Bool := (x.isZero && y.isInf) || (x.isInf && y.isZero)

/-- c + a x b, exact (R230). -/
def Val.fma (down : Bool) (c a b : Val) : Val × Flags :=
  if mulInvalid a b then (.nan false, flagNV)
  else
    let (p, f) := a.mul b
    let (z, g) := c.add down p
    (z, f ||| g)

/-- The square root, as a value that rounds as the exact one does: where it is irrational, 2^-200 of its leading bit's weight or less lies
between (R233). -/
def Val.sqrt (x : Val) : Val × Flags :=
  match x with
  | .nan s => (.nan false, flagIf s flagNV)
  | .inf b => if b then (.nan false, flagNV) else (.inf false, 0)
  | .fin b n d e =>
    if n = 0 then (.zero b, 0)
    else if b then (.nan false, flagNV)
    else
      let k := leadingExp n d e
      let q := 2 * (k / 2 - 240)
      let (num, den) := scaled n d e q
      let v := num / den
      let r := Nat.sqrt v
      if r * r = v ∧ num % den = 0 then (.fin false r 1 (q / 2), 0) else (.fin false (2 * r + 1) 1 (q / 2 - 1), 0)

/-- exact_sum of a list (R165), with the flags it raises itself. DESIGN CHOICE (notes/assumptions/127.md): a list with a NaN and infinities of both
signs falls under the first case, which raises no NV. -/
def exactSum (l : List Val) : Val × Flags :=
  let sig := flagIf (l.any Val.isSig) flagNV
  let pos := l.any fun x => x == .inf false
  let neg := l.any fun x => x == .inf true
  if l.any Val.isNan then (.nan false, sig)
  else if pos && neg then (.nan false, sig ||| flagNV)
  else if pos then (.inf false, sig)
  else if neg then (.inf true, sig)
  else
    match l with
    | [] => (.zero false, 0)
    | x :: r => (r.foldl (fun a y => (a.add false y).1) x, 0)

/-- The lesser of two values: -0 lies below +0, a NaN gives NaN (R229). -/
def Val.min (x y : Val) : Val × Flags :=
  let sig := flagIf (x.isSig || y.isSig) flagNV
  if x.isNan || y.isNan then (.nan false, sig)
  else (if x.lt y || (x.eq y && x.neg) then x else y, 0)

/-- The greater of two values. -/
def Val.max (x y : Val) : Val × Flags :=
  let sig := flagIf (x.isSig || y.isSig) flagNV
  if x.isNan || y.isNan then (.nan false, sig)
  else (if y.lt x || (x.eq y && !x.neg) then x else y, 0)

/-! ## Formats -/

/-- Which special values a floating-point format has (R144). -/
inductive Special where
  | ieee | e4m3 | none
deriving DecidableEq, Repr

/-- A number format (R144, R148). -/
inductive Fmt where
  | flt (ebits mbits : Nat) (special : Special)
  /-- an integer of `bits` bits, in units of 2^-frac -/
  | int (bits : Nat) (signed : Bool) (frac : Nat)
  | pp8
  | e8m0
deriving DecidableEq, Repr

def fmtFP64 : Fmt := .flt 11 52 .ieee
def fmtFP32 : Fmt := .flt 8 23 .ieee
def fmtFP19 : Fmt := .flt 8 10 .ieee
def fmtBF16 : Fmt := .flt 8 7 .ieee
def fmtFP16 : Fmt := .flt 5 10 .ieee

/-- Exponent bias (R144). -/
def biasOf (ebits : Nat) : Int := 2 ^ (ebits - 1) - 1

/-- Bits of the largest finite magnitude. -/
def maxBits (ebits mbits : Nat) : Special → Nat
  | .ieee => (2 ^ ebits - 1) * 2 ^ mbits - 1
  | .e4m3 => 2 ^ (ebits + mbits) - 2
  | .none => 2 ^ (ebits + mbits) - 1

/-- Width of a format's encoding. -/
def Fmt.bits : Fmt → Nat
  | .flt e m _ => e + m + 1 | .int b _ _ => b | .pp8 => 8 | .e8m0 => 8

/-- The canonical quiet NaN (R146). -/
def nanBits (ebits mbits : Nat) : Special → Nat
  | .ieee => (2 ^ ebits - 1) * 2 ^ mbits + 2 ^ (mbits - 1)
  | _ => 2 ^ (ebits + mbits) - 1

/-- One PP8 term in units of 2^-6 (R149). -/
def ppTerm (s e : Nat) : Int := if e = 7 then 0 else if s = 1 then -(2 ^ (6 - e) : Int) else 2 ^ (6 - e)

/-- decode_fmt (R152). -/
def decodeFmt (f : Fmt) (b : Nat) : Val :=
  match f with
  | .flt eb mb sp =>
    let s := natBits b (eb + mb) 1 == 1
    let e := natBits b mb eb
    let m := natBits b 0 mb
    let mag := natBits b 0 (eb + mb)
    if sp = .ieee ∧ e = 2 ^ eb - 1 then if m = 0 then .inf s else .nan (natBits m (mb - 1) 1 == 0)
    else if sp = .e4m3 ∧ mag = 2 ^ (eb + mb) - 1 then .nan false
    else if e = 0 then .fin s m 1 (1 - biasOf eb - mb)
    else .fin s (2 ^ mb + m) 1 (e - biasOf eb - mb)
  | .int w signed frac =>
    let x := b % 2 ^ w
    let i : Int := if signed && decide (2 ^ (w - 1) ≤ x) then (x : Int) - 2 ^ w else x
    .fin (decide (i < 0)) i.natAbs 1 (-(frac : Int))
  | .pp8 =>
    let i := ppTerm (natBits b 7 1) (natBits b 4 3) + ppTerm (natBits b 3 1) (natBits b 0 3)
    .fin (decide (i < 0)) i.natAbs 1 (-6)
  | .e8m0 => if b % 256 = 255 then .nan false else .fin false 1 1 ((b % 256 : Nat) - 127)

/-- The largest finite value. -/
def maxFin : Fmt → Val
  | .flt eb mb sp => decodeFmt (.flt eb mb sp) (maxBits eb mb sp)
  | .int w signed frac => .fin false (if signed then 2 ^ (w - 1) - 1 else 2 ^ w - 1) 1 (-(frac : Int))
  | .pp8 => .fin false 128 1 (-6)
  | .e8m0 => .fin false 1 1 127

/-- sat_fmt (R152). -/
def satFmt (f : Fmt) (x : Val) : Val :=
  match x, maxFin f with
  | .nan s, _ => .nan s
  | .fin b n d e, .fin c n' d' e' => if magLt n' d' e' n d e then .fin b n' d' e' else .fin (b || (c && b)) n d e
  | .inf b, m => m.withSign b
  | x, _ => x

/-! ## Rounding -/

/-- Choose between the neighbours of lo + rem / den by the mode (R153, R158): modes 0 nearest-even, 1 toward zero, 2 up, 3 down,
4 stochastic with the draw r. -/
def pickNeighbour (mode r : Nat) (neg : Bool) (lo rem den : Nat) : Nat :=
  if rem = 0 then lo
  else
    let up := match mode with
      | 0 => decide (den < 2 * rem) || (decide (den = 2 * rem) && lo % 2 == 1)
      | 1 => false
      | 2 => !neg
      | 3 => neg
      | _ => decide (r < rem * 2 ^ 24 / den)
    if up then lo + 1 else lo

/-- The overflow result of a floating-point format (R154). -/
def overflowFlt (eb mb : Nat) (sp : Special) (mode : Nat) (neg : Bool) : Nat × Flags :=
  let toInf := sp == .ieee && (mode == 0 || (mode == 2 && !neg) || (mode == 3 && neg))
  if toInf then ((2 ^ eb - 1) * 2 ^ mb, flagOF ||| flagNX) else (maxBits eb mb sp, flagOF ||| flagNX ||| flagSAT)

/-- Round a finite non-zero magnitude to a floating-point format: the magnitude's bits and the flags. -/
def roundFlt (eb mb : Nat) (sp : Special) (mode r : Nat) (neg : Bool) (n d : Nat) (e : Int) : Nat × Flags :=
  let emin := 1 - biasOf eb
  let k := leadingExp n d e
  let q := (if k < emin then emin else k) - mb
  let (a, b) := scaled n d e q
  let m := pickNeighbour mode r neg (a / b) (a % b) b
  let inexact := decide (a % b ≠ 0)
  let bits := if m < 2 ^ mb then m else ((q + mb + biasOf eb - 1) * 2 ^ mb).toNat + m
  if maxBits eb mb sp < bits then overflowFlt eb mb sp mode neg
  else (bits, flagIf inexact flagNX ||| flagIf (inexact && decide (k < emin)) flagUF)

/-- Whether a magnitude in units of 2^-6 is one PP8 represents (R149). -/
def ppHas (u : Nat) : Bool :=
  u == 0 || (List.range 7).any fun i => u == 2 ^ i || (List.range 7).any fun j => u == 2 ^ i + 2 ^ j || u + 2 ^ j == 2 ^ i

/-- The canonical PP8 byte of a magnitude in units of 2^-6 (R150). -/
def ppByte (neg : Bool) (u : Nat) : Nat :=
  let s := if neg then 1 else 0
  let byte := fun (s1 e1 s2 e2 : Nat) => 128 * s1 + 16 * e1 + 8 * s2 + e2
  if u = 0 then 0x77
  else if u = 128 then byte s 0 s 0
  else
    match (List.range 7).find? fun a => u == 2 ^ (6 - a) with
    | some a => byte s a 0 7
    | none =>
      let pairs := (List.range 7).flatMap fun a => (List.range 7).map fun b => (a, b)
      match pairs.find? fun (x : Nat × Nat) => x.1 < x.2 && u == 2 ^ (6 - x.1) + 2 ^ (6 - x.2) with
      | some (a, b) => byte s a s b
      | none =>
        match pairs.find? fun (x : Nat × Nat) => x.1 < x.2 && u + 2 ^ (6 - x.2) == 2 ^ (6 - x.1) with
        | some (a, b) => byte s a (1 - s) b
        | none => 0x77

/-- Round a finite non-zero magnitude to PP8 (R150, R153, R154). -/
def roundPP8 (mode r : Nat) (neg : Bool) (n d : Nat) (e : Int) : Nat × Flags :=
  let (a, b) := scaled n d e (-6)
  if 128 * b < a then (ppByte neg 128, flagOF ||| flagNX ||| flagSAT)
  else if a % b = 0 && ppHas (a / b) then (ppByte neg (a / b), 0)
  else
    let lo := ((List.range 129).filter fun u => ppHas u && decide (u * b < a)).getLastD 0
    let hi := ((List.range 129).find? fun u => ppHas u && decide (a < u * b)).getD 128
    let up := match mode with
      | 0 => decide ((hi + lo) * b < 2 * a)
      | 1 => false
      | 2 => !neg
      | 3 => neg
      | _ => decide (r < (a - lo * b) * 2 ^ 24 / ((hi - lo) * b))
    (ppByte neg (if up then hi else lo), flagNX)

/-- round_fmt (R153): the encoding and the flags raised. `r` decides a stochastic rounding. -/
def roundFmt (f : Fmt) (mode r : Nat) (x : Val) : Nat × Flags :=
  match f with
  | .flt eb mb sp =>
    let sign := fun (b : Bool) => if b then 2 ^ (eb + mb) else 0
    match x with
    | .nan _ => if sp = .none then (0, flagNV) else (nanBits eb mb sp, 0)
    | .inf b =>
      if sp = .ieee then (sign b + (2 ^ eb - 1) * 2 ^ mb, 0) else (sign b + maxBits eb mb sp, flagSAT)
    | .fin b n d e =>
      if n = 0 then (sign b, 0)
      else
        let (m, g) := roundFlt eb mb sp mode r b n d e
        (sign b + m, g)
  | .int w signed frac =>
    let top : Nat := if signed then 2 ^ (w - 1) - 1 else 2 ^ w - 1
    let bottom : Nat := if signed then 2 ^ (w - 1) else 0
    let enc := fun (b : Bool) (m : Nat) => if b then (2 ^ w - m % 2 ^ w) % 2 ^ w else m
    match x with
    | .nan _ => (0, flagNV)
    | .inf b => (if b then enc true bottom else top, flagSAT)
    | .fin b n d e =>
      let (a, c) := scaled n d e (-(frac : Int))
      let m := pickNeighbour mode r b (a / c) (a % c) c
      if b && decide (bottom < m) then (enc true bottom, flagNX ||| flagSAT)
      else if !b && decide (top < m) then (top, flagNX ||| flagSAT)
      else (enc b m, flagIf (decide (a % c ≠ 0)) flagNX)
  | .pp8 =>
    match x with
    | .nan _ => (0x77, flagNV)
    | .inf b => (ppByte b 128, flagSAT)
    | .fin b n d e => if n = 0 then (0x77, 0) else roundPP8 mode r b n d e
  | .e8m0 =>
    match x with
    | .nan s => (0xFF, flagIf s flagNV)
    | .inf b => (if b then 0 else 0xFE, flagSAT)
    | .fin b n d e =>
      if n = 0 || b then (0, flagNX ||| flagSAT)
      else
        let k := leadingExp n d e
        if k < -127 then (0, flagNX ||| flagSAT)
        else
          let (a, c) := scaled n d e k
          let code := (k + 127).toNat
          let up := if a = c then false else match mode with
            | 0 => decide (3 * c < 2 * a) || (decide (3 * c = 2 * a) && code % 2 == 1)
            | 1 => false
            | 2 => true
            | 3 => false
            | _ => decide (r < (a - c) * 2 ^ 24 / c)
          let code := if up then code + 1 else code
          if 254 < code then (0xFE, flagOF ||| flagNX ||| flagSAT) else (code, flagIf (decide (a ≠ c)) flagNX)

/-- The least normal magnitude's bits of a floating-point format. -/
def Fmt.isSubnormal (f : Fmt) (b : Nat) : Bool :=
  match f with
  | .flt eb mb _ => natBits b mb eb == 0 && natBits b 0 mb != 0
  | _ => false

/-- FTZ: a rounded result below the normal range becomes a zero of its sign, with UF and NX (R225). -/
def flush (ftz : Bool) (f : Fmt) (x : Nat × Flags) : Nat × Flags :=
  match f with
  | .flt eb mb _ =>
    if ftz && f.isSubnormal x.1 then (natBits x.1 (eb + mb) 1 * 2 ^ (eb + mb), x.2 ||| flagUF ||| flagNX) else x
  | _ => x

/-- decode_fmt after DAZ (R225). -/
def decodeIn (daz : Bool) (f : Fmt) (b : Nat) : Val :=
  if daz && f.isSubnormal b then .zero (decodeFmt f b).neg else decodeFmt f b

/-! ## Tensor formats, blocks and companding -/

/-- Element format of a format code of R95, by its low bits; `mx` applies the factors of R148. -/
def elementFmt (mx : Bool) (code : Nat) : Fmt :=
  match code with
  | 0 => fmtFP64
  | 1 => fmtFP32
  | 2 => fmtFP19
  | 3 => fmtBF16
  | 4 => fmtFP16
  | 5 => .flt 4 3 .e4m3
  | 6 => .flt 5 2 .ieee
  | 7 => .flt 3 2 .none
  | 8 => .flt 2 3 .none
  | 9 => .flt 2 1 .none
  | 0xA => .int 8 true (if mx then 6 else 0)
  | 0xB => .int 4 true (if mx then 2 else 0)
  | _ => .pp8

/-- emax of an element format (R162). -/
def emaxOf (code : Nat) : Int :=
  match code with
  | 5 => 8 | 6 => 15 | 7 => 4 | 8 => 2 | 9 => 2 | 0xC => 1 | _ => 0

/-- The scale code of a block whose largest magnitude is a finite non-zero value (R162). -/
def scaleCode (code : Nat) (n d : Nat) (e : Int) : Nat :=
  let k := leadingExp n d e - emaxOf code + 127
  if k < 0 then 0 else if 254 < k then 254 else k.toNat

/-- The value times 2^k. -/
def Val.scale (x : Val) (k : Int) : Val :=
  match x with
  | .fin b n d e => .fin b n d (e + k)
  | x => x

/-- A compand table's breakpoint i of the sequence at byte `base` of the table, in 1/65536 (R160). -/
def breakpoint (block : List Byte) (table base i : Nat) : Nat :=
  if i = 0 then 0 else if 16 ≤ i then 65536 else field block (64 * table + base + 2 * (i - 1)) 2

/-- The piecewise linear map of a table, or its inverse, on a magnitude n / d x 2^e: exact (R160). -/
def compandMap (block : List Byte) (table : Nat) (inv : Bool) (n d : Nat) (e : Int) : Nat × Nat × Int :=
  let from_ := breakpoint block table (if inv then 30 else 0)
  let into := breakpoint block table (if inv then 0 else 30)
  let (a, b) := scaled n d e (-16)
  let i := ((List.range 15).filter fun i => decide (from_ (i + 1) * b ≤ a)).length
  let x0 := from_ i
  let x1 := from_ (i + 1)
  let y0 := into i
  let y1 := into (i + 1)
  (y0 * (x1 - x0) * b + (a - x0 * b) * (y1 - y0), (x1 - x0) * b, -16)

/-- sign(x) M f(|x| / M), or with the inverse (R161); PP8 is never companded, and a NaN or infinity passes through. -/
def compand (block : List Byte) (table : Nat) (inv : Bool) (f : Fmt) (x : Val) : Val :=
  match x, maxFin f with
  | .fin b n d e, .fin _ mn md me =>
    if f = .pp8 ∨ n = 0 then x
    else
      let (n', d', e') := compandMap block table inv (n * md) (d * mn) (e - me)
      .fin b (n' * mn) (d' * md) (e' + me)
  | x, _ => x

/-- FP64 or FP32: the format of an atomic's operands or of a window's targets. -/
def fmtW (f64 : Bool) : Fmt := if f64 then fmtFP64 else fmtFP32

end Sys2Proof.Machine
end

