-- ==== Sys2Proof/Machine/Phys.lean ====
section
/-! DEFINITION. Physical memory with its tags and poison, the bits of staging words and lines, and what the package sends outside. -/

namespace Sys2Proof.Machine

/-- Why an instruction does not complete in a lane: a trap (R400: code, SUB, DETAIL, TADDR; `after` where TPC is the next instruction), a
wait, a page that firmware fills first (R433), data that is poisoned, at a physical address or 0 (R421), or a line that the slice has to ask
its home for (R132); `refile` where the whole quad or crew issues the instruction again. -/
inductive Stop where
  | trap (code sub detail : Nat) (addr : DWord) (after : Bool)
  | wait (w : Wait)
  | fill (pte entry level : Nat)
  | poisoned (pa : Nat)
  | miss (line : Nat) (r : Req) (addr : DWord) (refile : Bool)
deriving DecidableEq, Repr

/-! ## Poison, tags and bytes -/

/-- The 16-byte granules of `n` bytes from `pa`. -/
def granules (pa n : Nat) : List Nat :=
  if n = 0 then [] else (List.range ((pa + n - 1) / 16 - pa / 16 + 1)).map (· + pa / 16)

/-- Whether some granule of the bytes is poisoned (R420). -/
def State.poisonedAt (s : State) (pa n : Nat) : Bool := (granules pa n).any fun g => mget false s.poison g

/-- Mark or unmark a granule poisoned (R420). -/
def State.setPoison (s : State) (g : Nat) (b : Bool) : State :=
  { s with poison := if b then mset s.poison g true else mdel s.poison g }

/-- Set or clear a granule's tag; memory outside HBM and staging keeps none (R101). -/
def State.setTag (s : State) (g : Nat) (b : Bool) : State :=
  { s with tags := if b then mset s.tags g true else mdel s.tags g }

/-- Write bytes that lie in one granule: the tag is cleared (R101); a whole granule replaces poison, and a partial write of a poisoned
granule takes no effect (R422). -/
def State.writeGranule (s : State) (pa : Nat) (b : List Byte) : State :=
  if b.length = 16 then
    ({ s with mem := memPuts s.mem pa b }.setTag (pa / 16) false).setPoison (pa / 16) false
  else if mget false s.poison (pa / 16) then s
  else { s with mem := memPuts s.mem pa b }.setTag (pa / 16) false

/-- Write bytes granule by granule, with enough fuel for their number. -/
def State.writeGranules (s : State) (pa : Nat) (b : List Byte) : Nat → State
  | 0 => s
  | fuel + 1 =>
    if b.isEmpty then s
    else
      let n := 16 - pa % 16
      (s.writeGranule pa (b.take n)).writeGranules (pa + (b.take n).length) (b.drop n) fuel

/-- Write bytes at rising physical addresses. -/
def State.write (s : State) (pa : Nat) (b : List Byte) : State := s.writeGranules pa b b.length

/-- Whether a granule number lies outside the whole granules of `n` bytes from `pa`. -/
def granuleOutside (pa n k : Nat) : Bool := decide (16 * k < pa) || decide (pa + n ≤ 16 * k)

/-- Write whole granules at once; their tags and poison are cleared (R101, R422). -/
def State.writeBlock (s : State) (pa : Nat) (b : List Byte) : State :=
  { s with mem := memPuts s.mem pa b, tags := mkeep s.tags fun k _ => granuleOutside pa b.length k
           poison := mkeep s.poison fun k _ => granuleOutside pa b.length k }

/-- Write zero to whole granules at once. -/
def State.zeroBlock (s : State) (pa n : Nat) : State :=
  { s with mem := memClear s.mem pa n, tags := mkeep s.tags fun k _ => granuleOutside pa n k
           poison := mkeep s.poison fun k _ => granuleOutside pa n k }

/-- Read bytes at rising physical addresses. -/
def State.read (s : State) (pa n : Nat) : List Byte := memGets s.mem pa n

/-- Read a little-endian number. -/
def State.readNat (s : State) (pa n : Nat) : Nat := leNat (s.read pa n)

/-- Write a little-endian number. -/
def State.writeNat (s : State) (pa x n : Nat) : State := s.write pa (leBytes x n)

/-- The full/empty bit of a staging word (R88). -/
def State.isFull (s : State) (pa : Nat) : Bool := mget false s.full (pa / 4)

/-- Set or clear the full/empty bit of a staging word (R88). -/
def State.setFull (s : State) (pa : Nat) (b : Bool) : State :=
  { s with full := if b then mset s.full (pa / 4) true else mdel s.full (pa / 4) }

/-- Whether a staging line is present: no fill into it is in flight (R89). -/
def State.present (s : State) (pa : Nat) : Bool := mget 0 s.filling (pa / 128) == 0

/-- Whether a slice has performed an operation on some of the words of `n` bytes in this arith cycle (R254). -/
def State.busyWord (s : State) (pa n : Nat) : Bool := s.touched.any fun r => decide (r.1 < (pa + n + 3) / 4) && decide (pa / 4 < r.2)

/-- A slice performs an operation on the staging words of `n` bytes: their one operation of the arith cycle (R254). -/
def State.touch (s : State) (pa n : Nat) : State := { s with touched := (pa / 4, (pa + n + 3) / 4) :: s.touched }

/-- Something goes out of the package. -/
def State.send (s : State) (o : Out) : State := { s with outbox := s.outbox ++ [o] }

end Sys2Proof.Machine
end

