-- ==== Sys2Proof/Machine/Lines.lean ====
section
/-! DEFINITION. Operations on lines and their places in the pod-wide order (R104 to R111): what an access does to a line's bytes, the copy of a
line that a slice holds (R108, R135, R142, R143), and operations performed at the home. The protocol engines are in Machine/Protocol.lean. -/

namespace Sys2Proof.Machine

/-! ## Read-modify-writes -/

/-- The integer operations by sub-op (R255). -/
def AtomOp.ofInt (u : Nat) : AtomOp :=
  match u with
  | 0 => .add | 1 => .minS | 2 => .maxS | 3 => .minN | 4 => .maxN | 5 => .and | 6 => .or | _ => .xor

/-- The order of AMOC's sub-ops (R176). -/
def AtomOp.ofAmoc (u : Nat) : AtomOp :=
  match u with
  | 0 => .add | 1 => .minS | 2 => .maxS | 3 => .and | 4 => .or | 5 => .xor | 6 => .swap | _ => .fadd

/-- The new value of a word or doubleword, and the flags (R256). -/
def AtomOp.apply (op : AtomOp) (wide : Bool) (old x : Nat) : Nat × Flags :=
  let w := if wide then 64 else 32
  let f := fmtW wide
  let signed := fun (y : Nat) => (BitVec.ofNat w y).toInt
  let rounded := fun (v : Val × Flags) =>
    let (b, g) := roundFmt f 0 0 v.1
    (b, v.2 ||| g)
  let a := decodeFmt f old
  let b := decodeFmt f x
  match op with
  | .add => ((old + x) % 2 ^ w, 0)
  | .minS => (if signed old ≤ signed x then old else x, 0)
  | .maxS => (if signed old ≤ signed x then x else old, 0)
  | .minN => (min old x, 0)
  | .maxN => (max old x, 0)
  | .and => (old &&& x, 0)
  | .or => (old ||| x, 0)
  | .xor => (old ^^^ x, 0)
  | .swap => (x, 0)
  | .fadd => rounded (a.add false b)
  | .fmin => rounded (a.min b)
  | .fmax => rounded (a.max b)

/-- Bytes of a word or doubleword. -/
def wideBytes (wide : Bool) : Nat := if wide then 8 else 4

/-! ## The contents of a line -/

/-- Some bytes of a line. -/
def Line.part (l : Line) (off n : Nat) : List Byte := (l.data.drop off).take n

/-- Whether some of the bytes are poisoned (R420). -/
def Line.bad (l : Line) (off n : Nat) : Bool := (granules off n).any l.poison.contains

/-- Write bytes that lie in one granule of a line: as State.writeGranule in memory (R101, R422). -/
def Line.writeGranule (l : Line) (off : Nat) (b : List Byte) : Line :=
  let data := l.data.take off ++ b ++ l.data.drop (off + b.length)
  if b.length = 16 then
    { data := data, poison := l.poison.filter (· ≠ off / 16), tags := l.tags.filter (· ≠ off / 16) }
  else if l.poison.contains (off / 16) then l
  else { l with data := data, tags := l.tags.filter (· ≠ off / 16) }

/-- Write bytes granule by granule, with enough fuel for their number. -/
def Line.writeGranules (l : Line) (off : Nat) (b : List Byte) : Nat → Line
  | 0 => l
  | fuel + 1 =>
    if b.isEmpty then l
    else
      let n := 16 - off % 16
      (l.writeGranule off (b.take n)).writeGranules (off + (b.take n).length) (b.drop n) fuel

/-- Write bytes of a line. -/
def Line.write (l : Line) (off : Nat) (b : List Byte) : Line := l.writeGranules off b b.length

/-- A line as memory holds it. -/
def State.lineAt (s : State) (line : Nat) : Line where
  data := s.read (128 * line) 128
  poison := (List.range 8).filter fun i => mget false s.poison (8 * line + i)
  tags := (List.range 8).filter fun i => mget false s.tags (8 * line + i)

/-- Memory holds a line's contents. -/
def State.putLine (s : State) (line : Nat) (l : Line) : State :=
  { s with
    mem := memPuts s.mem (128 * line) l.data
    poison := (List.range 8).foldl (fun m i => if l.poison.contains i then mset m (8 * line + i) true else mdel m (8 * line + i)) s.poison
    tags := (List.range 8).foldl (fun m i => if l.tags.contains i then mset m (8 * line + i) true else mdel m (8 * line + i)) s.tags }

/-! ## What an operation does -/

/-- Whether an operation is a load (R105). -/
def LineOp.isLoad : LineOp → Bool
  | .load _ _ => true
  | _ => false

/-- Where in the line an operation begins, and how many bytes it covers. -/
def LineOp.span : LineOp → Nat × Nat
  | .load off n | .store off n _ => (off, n)
  | .capst off _ _ => (off, 16)
  | .atomic _ w off _ | .cas w off _ _ | .reduce _ w off _ _ => (off, wideBytes w)
  | .ticket off => (off, 8)
  | .masked off _ b => (off, b.length)
  | .whole _ => (0, 128)

/-- Whether a ticket record has an entry to claim (R347): NEXT in its low word, LIMIT in its high word. -/
def ticketOpen (rec_ : Nat) : Bool :=
  let ahead := (rec_ / 2 ^ 32 + 2 ^ 32 - rec_ % 2 ^ 32) % 2 ^ 32
  decide (1 ≤ ahead ∧ ahead ≤ 2 ^ 31)

/-- The new value of a read-modify-write of a word or doubleword. -/
def LineOp.next (op : LineOp) (old : Nat) : Nat :=
  match op with
  | .atomic a w _ x | .reduce a w _ x _ => (a.apply w old x).1
  | .cas _ _ cmp new => if old = cmp then new else old
  | .ticket _ => if ticketOpen old then (old % 2 ^ 32 + 1) % 2 ^ 32 + old / 2 ^ 32 * 2 ^ 32 else old
  | _ => old

/-- Perform an operation on a line's contents (R105, R256, R257, R422). -/
def LineOp.run (op : LineOp) (l : Line) : LineResult × Line :=
  let (off, n) := op.span
  let old := leNat (l.part off n)
  match op with
  | .load _ _ => ({ val := old, tag := l.tags.contains (off / 16), poison := l.bad off n }, l)
  | .store _ _ x => ({}, l.write off (leBytes x n))
  | .capst _ x tag =>
    let l := l.write off (leBytes x 16)
    ({}, if tag then { l with tags := off / 16 :: l.tags } else l)
  | .masked _ mask b =>
    ({}, (List.range ((n + 15) / 16)).foldl (fun (l : Line) (g : Nat) =>
      if natBits mask (16 * g) 16 = 2 ^ 16 - 1 then l.write (off + 16 * g) ((b.drop (16 * g)).take 16)
      else (List.range 16).foldl (fun (l : Line) (i : Nat) =>
        if natBits mask (16 * g + i) 1 = 1 then l.write (off + 16 * g + i) ((b.drop (16 * g + i)).take 1) else l) l) l)
  | .whole b => ({}, { data := b })
  | _ => ({ val := old, poison := l.bad off n }, l.write off (leBytes (op.next old) n))

/-- The flags of a floating-point read-modify-write that found a value and was performed (R256, R258). -/
def LineOp.flags (op : LineOp) (r : LineResult) : Flags :=
  if r.poison then 0
  else match op with
    | .atomic a w _ x | .reduce a w _ x _ => (a.apply w r.val x).2
    | _ => 0

/-- Perform an operation on memory itself. -/
def State.memRun (s : State) (pa : Nat) (op : LineOp) : LineResult × State :=
  match op with
  | .load _ n => ({ val := s.readNat pa n, tag := mget false s.tags (pa / 16), poison := s.poisonedAt pa n }, s)
  | _ =>
    let (r, l) := op.run (s.lineAt (pa / 128))
    (r, s.putLine (pa / 128) l)

/-! ## Homes and times -/

/-- Whether a line has a home (R123). -/
def coherent (line : Nat) : Bool := region (128 * line) == .hbm || region (128 * line) == .host

/-- The lowest-numbered valid range that holds an address, or slot 0 (R126). -/
def State.slotFor (s : State) (pa : Nat) : Nat :=
  match s.ranges.find? fun (_, r) => r.valid && decide (r.base ≤ pa / 65536) && decide (pa / 65536 ≤ r.limit) with
  | some (_, r) => r.slot
  | none => 0

/-- The directory's view of a line; a line with no entry is in state 0 with both times at its slice's floor (R139), and no earlier than the last
OWNB or OWNC of its slab, a read-modify-write of each of its lines (R105). -/
def State.dirAt (s : State) (line : Nat) : DirEntry :=
  match mfind s.dir line with
  | some d => d
  | none =>
    let f := max (mget 0 s.floor (homeSlice (line * 128))) (if region (line * 128) = .hbm then mget 0 s.slabTime (slabOf (line * 128)) else 0)
    { wts := f, rts := f, slot := s.slotFor (line * 128) }

/-- Replace a line's directory entry, which is then the one used last. -/
def State.setDir (s : State) (line : Nat) (d : DirEntry) : State :=
  { s with dir := mset s.dir line { d with used := s.stamp }, stamp := s.stamp + 1 }

/-- Set the times of a line at its home; where it has no entry they become its slice's floor, as when an entry is freed (R139). -/
def State.stampHome (s : State) (line wts rts : Nat) : State :=
  match mfind s.dir line with
  | some d => { s with dir := mset s.dir line { d with wts := max d.wts wts, rts := max d.rts rts } }
  | none =>
    let home := homeSlice (line * 128)
    { s with floor := mset s.floor home (max (mget 0 s.floor home) (max wts rts)) }

/-- Key of a copy: agent and line. -/
def copyKey (agent line : Nat) : Nat := agent * 2 ^ 45 + line

/-- The copies of a line, by agent. -/
def State.copiesOf (s : State) (line : Nat) : List (Nat × Copy) :=
  s.copies.filterMap fun e => if e.1 % 2 ^ 45 = line then some (e.1 / 2 ^ 45, e.2) else none

/-- Replace a copy, which is then its agent's last used. -/
def State.setCopy (s : State) (agent line : Nat) (c : Copy) : State :=
  { s with copies := mset s.copies (copyKey agent line) { c with used := s.stamp }, stamp := s.stamp + 1 }

def State.dropCopy (s : State) (agent line : Nat) : State := { s with copies := mdel s.copies (copyKey agent line) }

/-- Whether an agent is a host caching agent (R17). -/
def isHost (agent : Nat) : Bool := decide (320 ≤ agent ∧ agent < 352)

/-- The contents of a line as the last store in the order has left them: in a dirty write copy, in the home buffer, in a message on its way, or
in memory. -/
def State.latest (s : State) (line : Nat) : Line :=
  match (s.copiesOf line).find? fun x => x.2.write && x.2.dirty with
  | some x => x.2.line
  | none =>
    match (mfind s.trans line).bind (·.buffer) with
    | some l => l
    | none =>
      match s.msgs.find? fun m => m.line == line && m.data.isSome with
      | some m => m.data.getD {}
      | none => s.lineAt line

/-- Read bytes as the last stores in the order have left them; lines without a home are read in memory. -/
def State.peekLines (s : State) (pa n : Nat) : (fuel : Nat) → List Byte
  | 0 => []
  | fuel + 1 =>
    if n = 0 then []
    else
      let k := min n (128 - pa % 128)
      (if coherent (pa / 128) then (s.latest (pa / 128)).part (pa % 128) k else s.read pa k) ++ s.peekLines (pa + k) (n - k) fuel

/-- Read bytes as the last stores in the order have left them. -/
def State.peek (s : State) (pa n : Nat) : List Byte :=
  if s.copies.isEmpty && s.msgs.isEmpty && s.trans.isEmpty then s.read pa n else s.peekLines pa n (n / 128 + 2)

/-- Whether some of the bytes are poisoned as the last stores have left them. -/
def State.peekBad (s : State) (pa n : Nat) : Bool :=
  if s.copies.isEmpty && s.msgs.isEmpty && s.trans.isEmpty then s.poisonedAt pa n
  else (granules pa n).any fun g => if coherent (g / 8) then (s.latest (g / 8)).poison.contains (g % 8) else mget false s.poison g

/-- The lines that a slice, a host agent, a home buffer or a message holds. -/
def State.elsewhere (s : State) : List Nat := s.copies.map (fun e => e.1 % 2 ^ 45) ++ s.msgs.map (fun m => m.line) ++ s.trans.map (fun e => e.1)

/-- The state whose memory holds the lines of a range as the last stores have left them. -/
def State.flat (s : State) (pa n : Nat) : State :=
  (s.elsewhere.filter fun l => decide (pa ≤ 128 * l + 127 ∧ 128 * l < pa + n)).foldl (fun (m : State) l => m.putLine l (s.latest l)) s

/-- A little-endian number as the last stores have left it. -/
def State.peekNat (s : State) (pa n : Nat) : Nat := leNat (s.peek pa n)

/-- The largest write time and lease of a line, over its home, its copies and the messages on their way (R134); an unending lease does not
count (R143). -/
def State.topTimes (s : State) (line : Nat) : Nat × Nat :=
  let d := s.dirAt line
  let (w, r) := (s.copiesOf line).foldl (fun (a : Nat × Nat) x => (max a.1 x.2.wts, if x.2.forever then a.2 else max a.2 x.2.rts)) (d.wts, d.rts)
  (s.msgs.filter fun m => m.line == line).foldl (fun (a : Nat × Nat) m =>
    (max a.1 m.wts, max a.2 (max m.rts (if m.event = 40 then m.ts else 0)))) (w, r)

/-- Whether a reply grants a write copy: GRANTX under a protocol with WRITECOPY (R130, R131). -/
def Msg.grants (m : Msg) : Bool := m.event == 40 && m.grantx && !m.evict && !m.applied && natBits m.flags 1 1 == 1

/-! ## Operations at the home -/

/-- A load at the home has extended the line's lease: no write copy, and no write on its way, stands before it (R108). -/
def State.noteLoad (s : State) (line ts : Nat) : State :=
  let s := s.stampHome line 0 ts
  if s.copies.isEmpty && s.msgs.isEmpty then s
  else { s with
    copies := mmap s.copies fun k c => if k % 2 ^ 45 = line && c.write then { c with rts := max c.rts ts } else c
    msgs := s.msgs.map fun m =>
      if m.line == line && m.grants && decide (m.ts ≤ ts) then { m with ts := ts + 1, wts := ts + 1, rts := ts + 1 } else m }

/-- The package asks for a host-memory line under CXL.cache before it reads or writes the line at its home (R119, R135). -/
def State.holdHost (s : State) (line : Nat) (write : Bool) : State :=
  if region (128 * line) = .host ∧ !s.cxlHeld.contains line then { s.send (.cxlCache line write) with cxlHeld := line :: s.cxlHeld } else s

/-- A load performed at the line's home, at program time `t` (R108). -/
def State.loadHome (s : State) (pa : Nat) (op : LineOp) (t : Nat) : LineResult × State :=
  let line := pa / 128
  let ts := max t (s.topTimes line).1
  ({ (op.run (s.latest line)).1 with ts := ts }, (s.holdHost line false).noteLoad line ts)

/-- The lanes that WAITV has descheduled on a word of a line with a home, and whose load has still to be performed: thread keys and words. -/
def State.watchers (s : State) (line : Nat) : List (Nat × Wait) :=
  s.threads.filterMap fun e =>
    match e.2.st with
    | .waiting w => if w.kind = .waitv ∧ w.key / 128 = line ∧ e.2.got.isEmpty then some (e.1, w) else none
    | _ => none

/-- The home of a word retries its waiters when the word changes: the load of one that finds another value is performed (R253). -/
def State.wakeWatchers (s : State) (line : Nat) : State :=
  (s.watchers line).foldl (fun (s : State) x =>
    let op := LineOp.load (x.2.key % 128) 4
    let t := mget {} s.threads x.1
    if (op.run (s.latest line)).1.val = x.2.old then s
    else
      let (r, s) := s.loadHome x.2.key op t.time
      { s with threads := mset s.threads x.1 { t with got := [{ pa := x.2.key, op := op, result := r }] } }) s

/-- A store at the home has given the line new contents, which every copy and message of the line then holds with the store's timestamp, as UPD
gives them (R133, R135); a host agent's copy is called back by a snoop. -/
def State.noteStore (s : State) (line ts : Nat) (l : Line) : State :=
  let s := (s.putLine line l).stampHome line ts ts
  State.wakeWatchers (line := line) <|
  if s.copies.isEmpty && s.msgs.isEmpty && s.trans.isEmpty then s
  else
    let hosts := (s.copiesOf line).filter fun x => isHost x.1
    let s := hosts.foldl (fun (s : State) x => (s.dropCopy x.1 line).send (.snoop x.1 line)) s
    { s with
      copies := mmap s.copies fun k c => if k % 2 ^ 45 = line then { c with line := l, wts := ts, rts := ts } else c
      trans := mmap s.trans fun k t => if k = line then { t with buffer := t.buffer.map fun _ => l } else t
      msgs := s.msgs.map fun m =>
        if m.line == line && m.data.isSome then
          let t := if m.grants then ts + 1 else ts
          { m with data := some l, ts := if m.event = 40 then t else m.ts, wts := t, rts := t }
        else m }

/-- An operation performed at the line's home, at program time `t` (R108): by agents that keep no copy, such as other packages (R124), the
firmware and the page walker. -/
def State.atHome (s : State) (pa : Nat) (op : LineOp) (t : Nat) : LineResult × State :=
  if op.isLoad then s.loadHome pa op t
  else
    let line := pa / 128
    let (x, l) := op.run (s.latest line)
    let ts := max t ((s.topTimes line).2 + 1)
    ({ x with ts := ts }, (s.holdHost line true).noteStore line ts l)

/-- A change of a line's bytes that is no operation of the order, wherever the line stands: the walker's update of an entry (R82). -/
def State.amend (s : State) (line : Nat) (f : Line → Line) : State :=
  let s := s.putLine line (f (s.lineAt line))
  if s.copies.isEmpty && s.msgs.isEmpty && s.trans.isEmpty then s
  else { s with
    copies := mmap s.copies fun k c => if k % 2 ^ 45 = line then { c with line := f c.line } else c
    trans := mmap s.trans fun k t => if k = line then { t with buffer := t.buffer.map f } else t
    msgs := s.msgs.map fun m => if m.line == line then { m with data := m.data.map f } else m }

/-- Poison the granules of some bytes, wherever the line stands (R421). -/
def State.poisonBytes (s : State) (pa n : Nat) : State :=
  (granules pa n).foldl (fun (s : State) g => s.amend (g / 8) fun l => { l with poison := g % 8 :: l.poison }) s

/-- Replace bytes of a line, and nothing else. -/
def Line.setBytes (off : Nat) (b : List Byte) (l : Line) : Line :=
  { l with data := l.data.take off ++ b ++ l.data.drop (off + b.length) }

/-! ## Staging words -/

/-- enter_order on a staging line, which has no home and no protocol (R108, R123): the timestamp, and the line's new times. -/
def State.stageEnter (s : State) (pa : Nat) (load : Bool) (t : Nat) : Nat × State :=
  let (w, r) := mget (0, 0) s.stageTime (pa / 128)
  let ts := if load then max t w else max t (r + 1)
  (ts, { s with stageTime := mset s.stageTime (pa / 128) (if load then (w, max r ts) else (ts, ts)) })

/-- An operation on a staging word, at its slice (R86, R254). -/
def State.stageOp (s : State) (pa : Nat) (op : LineOp) (t : Nat) : LineResult × State :=
  let (ts, s) := s.stageEnter pa op.isLoad t
  let (x, s) := s.memRun pa op
  ({ x with ts := ts }, s.touch pa op.span.2)

/-! ## A slice's own copies -/

/-- The timestamp at which a copy performs a load, where its lease covers it: a leased copy's lease is the home's to extend (R108, R135). -/
def Copy.loadTime (c : Copy) (t : Nat) : Option Nat :=
  let ts := max t c.wts
  if !c.leased || ts ≤ c.rts then some ts else none

/-- A copy after a load at a timestamp: its lease is extended, but for a lease that the home keeps or that never ends. -/
def Copy.loaded (c : Copy) (ts : Nat) : Copy := if c.leased || c.forever then c else { c with rts := max c.rts ts }

/-- An operation on the copy that an agent holds, where the copy serves it (R108, R135): a load under its lease, anything under a write
grant. -/
def State.atOwn (s : State) (agent line : Nat) (op : LineOp) (t : Nat) : Option (LineResult × State) :=
  match mfind s.copies (copyKey agent line) with
  | none => none
  | some c =>
    let (x, l) := op.run c.line
    if op.isLoad then (c.loadTime t).map fun ts => ({ x with ts := ts }, s.setCopy agent line (c.loaded ts))
    else if c.write then
      let ts := max t (c.rts + 1)
      some ({ x with ts := ts }, (s.setCopy agent line { c with line := l, dirty := true, wts := ts, rts := ts }).wakeWatchers line)
    else none

/-- The ways of a slice that cache lines (R83). -/
def State.ways (s : State) (slice : Nat) : Nat := 24 - 4 * mget 0 s.stage slice

/-- An agent gives up its copy (R135): a private line goes home with its times (R142); a write copy, and a read copy that is tracked, is
announced to its home; another is dropped silently. -/
def State.evictOwn (s : State) (agent line : Nat) : State :=
  match mfind s.copies (copyKey agent line) with
  | none => s
  | some c =>
    let s := s.dropCopy agent line
    let put := fun (event : Nat) (d : Option Line) => { s with msgs := s.msgs ++ [{
      event := event, agent := agent, line := line, wts := c.wts, rts := c.rts, data := d, ts := mget 0 s.agentTime agent }] }
    if c.owner.isSome then (if c.dirty then s.putLine line c.line else s).stampHome line c.wts c.rts
    else if c.write then put (if c.dirty then 4 else 5) (some c.line)
    else if c.tracked then put 3 none
    else s

/-- The copies of a slice that share a set with a line, of 512 sets (R83); the sets are the line numbers modulo 512
(notes/assumptions/26.md). -/
def State.setMates (s : State) (agent line : Nat) : List (Nat × Nat) :=
  s.copies.filterMap fun e =>
    if e.1 / 2 ^ 45 = agent ∧ e.1 % 2 ^ 45 % 512 = line % 512 then some (e.1 % 2 ^ 45, e.2.used) else none

/-- The line used least lately. -/
def leastUsed (l : List (Nat × Nat)) : Option Nat :=
  (l.foldl (fun (b : Option (Nat × Nat)) x => match b with
    | none => some x
    | some y => if x.2 < y.2 then some x else b) none).map (·.1)

/-- A slice evicts, least lately used first, what a set holds beyond its ways (R83). -/
def State.fitSet (s : State) (agent line : Nat) : (fuel : Nat) → State
  | 0 => s
  | fuel + 1 =>
    let mates := s.setMates agent line
    if mates.length ≤ s.ways agent then s
    else
      match leastUsed mates with
      | some old => (s.evictOwn agent old).fitSet agent line fuel
      | none => s

/-- An agent takes a copy; a slice makes room for it (R83). -/
def State.install (s : State) (agent line : Nat) (c : Copy) : State :=
  let s := s.setCopy agent line c
  if isHost agent then s else s.fitSet agent line 25

/-- The slice beside the owning group's core holds a private line as a write copy, in no directory (R142). -/
def State.bringPrivate (s : State) (agent line group : Nat) : State :=
  match mfind s.copies (copyKey agent line) with
  | some c => if c.write then s else s.setCopy agent line { c with write := true, leased := false, forever := false, owner := some group }
  | none =>
    let s := ((s.copiesOf line).filter fun x => x.2.owner.isSome).foldl (fun (s : State) x => s.evictOwn x.1 line) s
    let (w, r) := s.topTimes line
    s.install agent line { write := true, owner := some group, line := s.latest line, wts := w, rts := r }

/-- A slice holds a READONLY line as a read copy whose lease never expires, in no directory (R143). -/
def State.bringReadonly (s : State) (agent line : Nat) : State :=
  match mfind s.copies (copyKey agent line) with
  | some _ => s
  | none => s.install agent line { forever := true, line := s.latest line, wts := (s.topTimes line).1 }

/-! ## Kinds of page -/

/-- What an access reaches (R81, R123): a line under a protocol, a private or a read-only one, a staging word, or a page outside the order
(MTYPE 1 or 2). -/
inductive PageKind where
  | coherent | priv | readonly | staging | io | device
deriving DecidableEq, Repr

/-- Whether accesses have places in the order (R105). -/
def PageKind.ordered : PageKind → Bool
  | .io | .device => false
  | _ => true

/-- An operation at a slice on a line with a home, for a group: at the slice's copy where that serves it; a private line, and a read-only one,
always is served. None where the slice has to ask the home (R124, R132). -/
def State.sliceOp (s : State) (agent group : Nat) (k : PageKind) (pa : Nat) (op : LineOp) (t : Nat) : Option (LineResult × State) :=
  let line := pa / 128
  match k with
  | .priv =>
    let s := s.bringPrivate agent line group
    some ((s.atOwn agent line op t).getD (s.atHome pa op t))
  | .readonly =>
    let s := s.bringReadonly agent line
    some ((s.atOwn agent line op t).getD (s.atHome pa op t))
  | _ => s.atOwn agent line op t

/-- The event by which a slice asks the home (R132): a load misses or renews its lease; a reduction, and an atomic of scope .pod, is performed
at the home; a write upgrades a read copy, or asks for the line. -/
def State.requestEvent (s : State) (agent line : Nat) (op : LineOp) (scope : Nat) : Nat :=
  let c := mfind s.copies (copyKey agent line)
  match op with
  | .load _ _ => if c.any (·.leased) then 8 else 0
  | .whole _ => 7
  | .reduce _ _ _ _ _ | .ticket _ => 6
  | .atomic _ _ _ _ | .cas _ _ _ _ => if scope = 0 then 6 else if c.isSome then 2 else 1
  | _ => if c.isSome then 2 else 1

/-- The directory notes the holder of a narrow-scope operation (R112, R137, R140); the scope codes are those of R175. -/
def State.noteNarrow (s : State) (agent line scope : Nat) : State :=
  match mfind s.dir line with
  | some d =>
    if scope = 0 then s
    else { s with dir := mset s.dir line { d with nsv := true, nscope := BitVec.ofNat 3 (5 - scope), nsagent := agent } }
  | none => s

/-- A slice sends a request to the line's home; it has at most one outstanding on a line (R125). -/
def State.ask (s : State) (line : Nat) (r : Req) : State :=
  { s with pendingReq := s.pendingReq ++ [(r.agent, line, r)]
           msgs := s.msgs ++ [{ event := r.event, agent := r.agent, line := line, req := some r }] }

/-- Whether an agent has a request outstanding on a line (R125). -/
def State.asking (s : State) (agent line : Nat) : Bool := s.pendingReq.any fun x => x.1 == agent && x.2.1 == line

/-- What an agent that is no lane waits for or has got. -/
def State.agentWaitOf (s : State) (w : Waiter) : Option AgentWait := (s.agentWaits.find? fun x => x.1 == w).map (·.2)

/-- The accesses performed for the work that an agent has in hand. -/
def State.gotOf (s : State) (w : Waiter) : List Got := match s.agentWaitOf w with
  | some x => x.got
  | none => []

/-- An agent's work in hand is done. -/
def State.clearAgent (s : State) (w : Waiter) : State := { s with agentWaits := s.agentWaits.filter fun x => x.1 != w }

/-- Whether an agent still waits for an answer. -/
def State.agentBlocked (s : State) (w : Waiter) : Bool :=
  match s.agentWaitOf w with
  | none => false
  | some x => if x.ticket = 0 then s.asking x.slice x.line else s.pendingReq.any fun p => p.2.2.ticket == x.ticket

/-- A slice sends a request for an agent, which waits for the answer; where the slice has one on the line outstanding, for the end of that (R125,
R132). -/
def State.missAgent (s : State) (w : Waiter) (line : Nat) (r : Req) : State :=
  let got := s.gotOf w
  let s := s.clearAgent w
  let waits := fun (s : State) (n : Nat) =>
    { s with agentWaits := s.agentWaits ++ [(w, ({ line := line, slice := r.agent, ticket := n, got := got } : AgentWait))] }
  if s.asking r.agent line then waits s 0
  else
    let n := s.stamp + 1
    (waits { s with stamp := n } n).ask line { r with who := some w, ticket := n }

/-! ## Ranges of memory -/

/-- An operation performed where the address lies: at the slice of a staging word, at a line's home, or in memory that has neither. -/
def State.opAt (s : State) (pa : Nat) (op : LineOp) (t : Nat) : LineResult × State :=
  if region pa = .staging then s.stageOp pa op t
  else if coherent (pa / 128) then s.atHome pa op t
  else
    let (x, s) := s.memRun pa op
    ({ x with ts := t }, s)

/-- The first number of bytes from an address that lie in one line. -/
def linePart (pa n : Nat) : Nat := min n (128 - pa % 128)

/-- Load bytes line by line (R105): the bytes, the largest timestamp, and the state. -/
def State.loadParts (s : State) (pa n t : Nat) : (fuel : Nat) → List Byte × Nat × State
  | 0 => ([], t, s)
  | fuel + 1 =>
    if n = 0 then ([], t, s)
    else
      let k := linePart pa n
      let (x, s) := s.opAt pa (.load (pa % 128) k) t
      let (b, ts, s) := s.loadParts (pa + k) (n - k) t fuel
      (leBytes x.val k ++ b, max x.ts ts, s)

def State.loadBytes (s : State) (pa n t : Nat) : List Byte × Nat × State := s.loadParts pa n t (n / 128 + 2)

/-- The store of bytes that lie in one line: a whole line at once, or the bytes given. -/
def storeOp (pa : Nat) (b : List Byte) : LineOp := if b.length = 128 then .whole b else .masked (pa % 128) (2 ^ b.length - 1) b

/-- Store bytes line by line: the largest timestamp, and the state. -/
def State.storeParts (s : State) (pa : Nat) (b : List Byte) (t : Nat) : (fuel : Nat) → Nat × State
  | 0 => (t, s)
  | fuel + 1 =>
    if b.isEmpty then (t, s)
    else
      let k := linePart pa b.length
      let (x, s) := s.opAt pa (storeOp pa (b.take k)) t
      let (ts, s) := s.storeParts (pa + k) (b.drop k) t fuel
      (max x.ts ts, s)

def State.storeBytes (s : State) (pa : Nat) (b : List Byte) (t : Nat) : Nat × State := s.storeParts pa b t (b.length / 128 + 2)

/-- Store a little-endian number. -/
def State.storeNat (s : State) (pa x n t : Nat) : Nat × State := s.storeBytes pa (leBytes x n) t

/-- Memory has been given new contents in a range of lines, a store of time `t` on each: their homes, and whatever holds them elsewhere, follow. -/
def State.storeRange (m : State) (pa n t : Nat) : Nat × State :=
  let inside := fun (l : Nat) => decide (pa ≤ 128 * l + 127 ∧ 128 * l < pa + n)
  let held : List Nat := (m.elsewhere.eraseDups).filter inside
  let homes := (List.range (min 160 ((n + 127) / 128))).map fun i => homeSlice (pa + 128 * i)
  let top := homes.foldl (fun x h => max x (mget 0 m.floor h)) t
  let top := m.dir.foldl (fun x e => if inside e.1 then max x e.2.rts else x) (held.foldl (fun x l => max x (m.topTimes l).2) top)
  let ts := top + 1
  let m := { m with
    floor := homes.foldl (fun f h => mset f h ts) m.floor
    dir := mmap m.dir fun l d => if inside l then { d with wts := ts, rts := ts } else d }
  (ts, held.foldl (fun m l => m.noteStore l ts (m.lineAt l)) m)

/-- Store whole lines of a block: one write of memory where no line of the package is held elsewhere. -/
def State.storeBlock (s : State) (pa : Nat) (b : List Byte) (t : Nat) : Nat × State :=
  if s.copies.isEmpty && s.msgs.isEmpty && s.trans.isEmpty then
    let lines := (List.range (b.length / 128)).map (pa / 128 + ·)
    let ts := lines.foldl (fun m l => max m ((s.dirAt l).rts + 1)) t
    (ts, lines.foldl (fun (s : State) l => s.stampHome l ts ts) (s.writeBlock pa b))
  else s.storeBytes pa b t

end Sys2Proof.Machine
end

