-- ==== Sys2Proof/Machine/Pages.lean ====
section
/-! DEFINITION. Page-table walks (R78 to R82, R430), the staging windows (R85 to R87), the checks of an access (R401), and forked agents
(R117, R285). -/

namespace Sys2Proof.Machine

/-! ## Page tables -/


/-- A valid leaf (R80) and where it stands. -/
structure Leaf where
  pa : Nat
  entry : Nat
  pte : Nat
  level : Nat
deriving DecidableEq, Repr

def Leaf.bit (l : Leaf) (n : Nat) : Bool := natBits l.entry n 1 == 1
def Leaf.mtype (l : Leaf) : Nat := natBits l.entry 12 2
def Leaf.owner (l : Leaf) : Nat := natBits l.entry 50 14
def Leaf.priv (l : Leaf) : Bool := l.bit 11
def Leaf.readonly (l : Leaf) : Bool := l.bit 10

/-- The outcome of a walk (R430). -/
inductive Walked where
  | leaf (l : Leaf)
  | bad (sub level : Nat)
  | fill (pte entry level : Nat)
deriving DecidableEq, Repr

/-- Index bits and page size of each level (R78): lowest index bit and number of bits; the page of a leaf is 2^lowest bytes. -/
def levelLow (level : Nat) : Nat := match level with | 0 => 48 | 1 => 39 | 2 => 30 | 3 => 21 | _ => 16
def levelBits (level : Nat) : Nat := match level with | 0 => 8 | 4 => 5 | _ => 9

/-- Whether a valid leaf entry is well formed at a level (R76, R78, R80, R81). -/
def leafOk (entry level : Nat) : Bool :=
  let pfn := natBits entry 14 36 * 65536
  let size := 2 ^ levelLow level
  let b := fun n => natBits entry n 1 == 1
  decide (2 ≤ level) && decide (pfn % size = 0) && !(b 11 && b 10) && !(b 10 && b 6) && decide (natBits entry 12 2 ≠ 3)
    && region pfn != .reserved && region pfn != .staging && region (pfn + size - 1) == region pfn

/-- One walk from a table, by levels left (R78, R79, R80, R430, R431). -/
def State.walkFrom (s : State) (va : Nat) : (fuel level table : Nat) → Walked
  | 0, level, _ => .bad 2 level
  | fuel + 1, level, table =>
    let pte := table + 8 * natBits va (levelLow level) (levelBits level)
    let e := s.peekNat pte 8
    let isLeaf := natBits e 1 1 = 1
    if s.peekBad pte 8 then .bad 3 level
    else if e % 2 = 0 then
      if isLeaf ∧ 2 ≤ level ∧ natBits e 2 1 = 1 then
        match s.pageFills.find? fun f => f.pte == pte && f.failed.isSome with
        | some f => .bad (f.failed.getD 4) level
        | none => .fill pte e level
      else .bad 1 level
    else if isLeaf then
      if leafOk e level then
        .leaf { pa := natBits e 14 36 * 65536 + va % 2 ^ levelLow level, entry := e, pte := pte, level := level }
      else .bad 2 level
    else
      let next := natBits e 8 44 * 256
      if level = 4 ∨ (level ≠ 3 ∧ next % 4096 ≠ 0) then .bad 2 level
      else s.walkFrom va fuel (level + 1) next

/-- Walk a context's tables for a virtual address (R78). Translation buffers hold nothing in this model (notes/assumptions/5.md). -/
def State.walk (s : State) (ctx va : Nat) : Walked :=
  match mfind s.contexts ctx with
  | some c => s.walkFrom va 5 0 c.l0
  | none => .bad 1 0

/-- What an access to a leaf's page reaches (R81, R142, R143). -/
def Leaf.kind (l : Leaf) : PageKind :=
  if region l.pa = .device ∨ l.mtype = 2 then .device
  else if l.mtype = 1 then .io
  else if l.priv then .priv
  else if l.readonly then .readonly
  else .coherent

/-- The walker's atomic update of A, and of D on a write (R82). -/
def State.markUsed (s : State) (l : Leaf) (write : Bool) : State :=
  let e := l.entry ||| 8 ||| (if write then 4 else 0)
  if e = l.entry then s else s.amend (l.pte / 128) (Line.setBytes (l.pte % 128) (leBytes e 8))

/-! ## Staging windows -/

/-- The first virtual address of the staging region (R75). -/
def stagingVA : Nat := 0xFFFF0000000000

/-- Physical address of an offset in a group's window 0 (R85). -/
def Group.win0 (g : Group) (off : Nat) : Nat := stagingAt g.win0Slice (g.win0Off + off)

/-- Physical address of an offset in a gang window, spread over the four slices of the cluster (R85). -/
def Gang.win1 (g : Gang) (off : Nat) : Nat :=
  let quarter := g.win1Size / 4
  let n := off / quarter
  stagingAt (4 * g.win1Cluster + n) (g.win1Off.getD n 0 + off % quarter)

/-- Resolve an address of the staging region (R87): its physical address, or the SUB of the staging-window fault. -/
def State.stagingWindow (s : State) (group va n : Nat) : Except Nat Nat :=
  let window := natBits va 24 16
  let off := natBits va 0 24
  let g := s.group group
  if window = 0 then if off + n ≤ g.win0Size then .ok (g.win0 off) else .error 3
  else if window = 1 then
    match g.gang with
    | none => .error 1
    | some k => if off + n ≤ (s.gang k).win1Size then .ok ((s.gang k).win1 off) else .error 3
  else if window ≤ 65 then
    match mfind g.slots (window - 2) with
    | none => .error 2
    | some m => if off + n ≤ (s.group m).win0Size then .ok ((s.group m).win0 off) else .error 3
  else .error 1

/-! ## Access checks -/

/-- The class of an access (R249). -/
inductive Class where
  | load (size : Nat)
  | store (size : Nat)
  | tagged
  | waitv
  | atomic (size : Nat)
  | capld
  | capst
  | fetch
  /-- an engine, bench or crusher access, which its own rule checks for permission: read, write -/
  | engine (read write : Bool)
deriving DecidableEq, Repr

def Class.size : Class → Nat
  | .load n => n | .store n => n | .tagged => 4 | .waitv => 4 | .atomic n => n | .capld => 16 | .capst => 16 | .fetch => 2 | .engine _ _ => 1

def Class.reads : Class → Bool
  | .load _ => true | .store _ => false | .tagged => true | .waitv => true | .atomic _ => true | .capld => true | .capst => false
  | .fetch => false | .engine r _ => r

def Class.writes : Class → Bool
  | .load _ => false | .store _ => true | .tagged => true | .waitv => false | .atomic _ => true | .capld => false | .capst => true
  | .fetch => false | .engine _ w => w

/-- Whether a page's MTYPE admits the class (R81, R249). -/
def Class.admits (c : Class) (mtype : Nat) : Bool :=
  if mtype = 0 then true
  else match c with
    | .load n => if mtype = 1 then decide (n ≤ 8) else n == 4 || n == 8
    | .store n => if mtype = 1 then decide (n ≤ 8) else n == 4 || n == 8
    | _ => false

/-- Check the page of a translated access, in the order of R401: U, owner, class, RD, W; then the tag fault of CAPST to host memory. A fetch is
checked for U and X, then as any access to a PRIVATE page or one that is not coherent (R81). -/
def pageCheck (v : View) (c : Class) (l : Leaf) (addr : DWord) : Except Stop Unit :=
  if c = .fetch then
    if !l.bit 4 && !v.firmware then .error (.trap 4 4 0 addr false)
    else if !l.bit 7 then .error (.trap 4 3 0 addr false)
    else if l.priv && l.owner != v.group then .error (.trap 8 4 0 addr false)
    else if !c.admits l.mtype then .error (.trap 8 5 0 addr false)
    else .ok ()
  else if !l.bit 4 && !v.firmware then .error (.trap 8 3 0 addr false)
  else if l.priv && l.owner != v.group then .error (.trap 8 4 0 addr false)
  else if !c.admits l.mtype then .error (.trap 8 5 0 addr false)
  else if c.reads && !l.bit 5 then .error (.trap 8 1 0 addr false)
  else if c.writes && !l.bit 6 then .error (.trap 8 2 0 addr false)
  else if c = .capst && region l.pa != .hbm then .error (.trap 12 0 0 addr false)
  else .ok ()

/-- Resolve an address for an access: the checks of R401 from the address fault to the tag fault, the walk with its A and D updates, and
the wait for presence of a staging line (R89). The result is the physical address and what it reaches. -/
def State.resolve (s : State) (v : View) (va : DWord) (c : Class) : Except Stop (State × Nat × PageKind) :=
  let a := va.toNat
  if c = .fetch ∧ a % 2 ≠ 0 then .error (.trap 4 1 0 va false)
  else if a / 2 ^ 56 ≠ 0 then .error (if c = .fetch then .trap 4 2 0 va false else .trap 5 0 0 va false)
  else if c.size ≠ 0 ∧ a % c.size ≠ 0 then .error (.trap 6 0 0 va false)
  else if stagingVA ≤ a then
    match s.stagingWindow v.group a c.size with
    | .error sub => .error (if c = .fetch then .trap 4 3 0 va false else .trap 10 sub 0 va false)
    | .ok pa =>
      if s.present pa then .ok (s, pa, .staging)
      else .error (.wait { kind := .presence, addr := va, key := pa / 128 })
  else if c = .tagged then .error (.trap 9 0 0 va false)
  else
    match s.walk v.ctx a with
    | .bad sub level =>
      .error (if c = .fetch then .trap 4 (if sub = 1 then 5 else if sub = 2 then 6 else if sub = 3 then 7 else 8) level va false
        else .trap 7 sub level va false)
    | .fill pte e level => .error (.fill pte e level)
    | .leaf l =>
      match pageCheck v c l va with
      | .error e => .error e
      | .ok () => .ok (s.markUsed l c.writes, l.pa, l.kind)

/-! ## Forked agents -/

/-- An agent with its issuer's windows (R117, R285). -/
def State.agentOf (s : State) (v : View) (gang : Option Nat) : Agent :=
  let g := s.group v.group
  { view := v, slice := g.core, gang := gang, win0 := (g.win0Slice, g.win0Off, g.win0Size)
    win1 := match gang with
      | some k => ((s.gang k).win1Cluster, (s.gang k).win1Size, (s.gang k).win1Off)
      | none => (0, 0, []) }

/-- Physical address of an offset in an agent's window 0 or 1 (R85, R87). -/
def Agent.window (a : Agent) (window off : Nat) : Option Nat :=
  if window = 0 then if off < a.win0.2.2 then some (stagingAt a.win0.1 (a.win0.2.1 + off)) else none
  else
    let (cl, size, offs) := a.win1
    if off < size then some (stagingAt (4 * cl + off / (size / 4)) (offs.getD (off / (size / 4)) 0 + off % (size / 4))) else none

/-- Resolve one byte's address for an agent (R285, R92). A fill does not wait for presence (R89); a staging word that has had its operation of
the arith cycle waits for the next (R254). -/
def State.agentResolve (s : State) (a : Agent) (va : Nat) (write fill : Bool) : Except Stop (State × Nat × PageKind) :=
  let addr := BitVec.ofNat 64 va
  let window := natBits va 24 16
  let free := fun (r : State × Nat × PageKind) =>
    if r.2.2 = .staging && s.busyWord r.2.1 1 then .error (.wait { kind := .slice, key := r.2.1 / 4 }) else .ok r
  if stagingVA ≤ va ∧ va < 2 ^ 56 ∧ window < 2 ∧ (window = 0 ∨ a.gang.isSome) then
    match a.window window (natBits va 0 24) with
    | none => .error (.trap 10 3 0 addr false)
    | some pa => if fill || s.present pa then free (s, pa, .staging) else .error (.wait { kind := .presence, key := pa / 128 })
  else
    match ({ s with filling := if fill then [] else s.filling }).resolve a.view addr (.engine (!write) write) with
    | .ok (s', pa, k) =>
      if s'.coreOwned pa then free ({ s' with filling := s.filling }, pa, k) else .error (.trap 0x0D 2 0 addr false)
    | .error e => .error e

/-- Resolve the address of an agent's completion word (R117, R252): a staging word, aligned. -/
def State.agentTagged (s : State) (a : Agent) (va : Nat) : Except Stop (State × Nat × PageKind) :=
  let addr := BitVec.ofNat 64 va
  if 2 ^ 56 ≤ va then .error (.trap 5 0 0 addr false)
  else if va % 4 ≠ 0 then .error (.trap 6 0 0 addr false)
  else if va < stagingVA then .error (.trap 9 0 0 addr false)
  else s.agentResolve a va true false

end Sys2Proof.Machine
end

