-- ==== Sys2Proof/Machine/Paging.lean ====
section
/-! DEFINITION. Demand fills of pages (R431-R434), firmware's own accesses, and the records firmware writes for the host: error records
(R418), flag ORs (R157), journal and completion words (R354-R356). -/

namespace Sys2Proof.Machine

/-- Whether a fill's byte range may be read: in HBM or host memory, in CORE slabs, without poison (R434). -/
def State.fillSource (s : State) (pa n : Nat) : Bool :=
  (region pa == .hbm || region pa == .host) && region (pa + n - 1) == region pa
    && (region pa != .hbm || ((List.range ((pa + n - 1) / 2 ^ 18 - pa / 2 ^ 18 + 1)).all fun i => s.slab (pa / 2 ^ 18 + i) == 0))

/-- The bytes a fill descriptor gives the frame, or none where the fill fails (R432, R434). -/
def State.fillBytes (s : State) (src slen size : Nat) (infl zero : Bool) : Option (List Byte) :=
  if zero then some (List.replicate size 0)
  else if !s.fillSource src slen || s.peekBad src slen then none
  else if infl then inflate (s.peek src slen) size
  else some (s.peek src slen)

/-- The outcome of one fill: the SUB its waiters take (2 a descriptor that breaks R432, 3 a poisoned one, 4 a failed fill). -/
abbrev FillResult := Except Nat State

/-- Firmware fills the page of a fill entry (R433): it reads the descriptor, writes the frame, and then puts LEAF in place of the entry where that
still holds the value read, by an atomic compare that stands in the order after the frame's writes. -/
def State.fillPage (s : State) (pte entry level : Nat) : FillResult :=
  let fdesc := natBits entry 5 47 * 32
  let size := 2 ^ levelLow level
  if region fdesc ≠ .hbm then .error 2
  else if s.peekBad fdesc 32 then .error 3
  else
    let src := s.peekNat fdesc 8
    let slen := s.peekNat (fdesc + 8) 4
    let flags := s.peekNat (fdesc + 12) 1
    let leaf := s.peekNat (fdesc + 16) 8
    let infl := natBits leaf 9 1 == 1
    let zero := flags % 2 == 1
    let frame := natBits leaf 14 36 * 65536
    if 2 ≤ flags ∨ s.peekNat (fdesc + 13) 3 ≠ 0 ∨ s.peekNat (fdesc + 24) 8 ≠ 0 ∨ leaf % 4 ≠ 3 ∨ !leafOk leaf level
        ∨ (!zero ∧ (if infl then slen = 0 ∨ size < slen else slen ≠ size)) then .error 2
    else if !s.fillSource frame size then .error 4
    else
      match s.fillBytes src slen size infl zero with
      | none => .error 4
      | some b =>
        let (ts, s) := s.storeBlock frame b 0
        let s := { s with pageFills := s.pageFills.filter fun f => f.pte ≠ pte }
        .ok (s.opAt pte (.cas true (pte % 128) entry leaf) ts).2

/-! ## Firmware's accesses -/

/-- Whether a die's host link is down: its caching agents are lost (R426). -/
def State.linkDown (s : State) (die : Nat) : Bool := (List.range 16).all fun i => s.lostAgents.contains (320 + 16 * die + i)

/-- Whether a host address lies behind a link that is down (R76, R354). -/
def State.cutOff (s : State) (pa : Nat) : Bool := region pa == .host && s.linkDown (natBits pa 50 1)

/-- Firmware reaches an address of a context, filling its page first where the entry asks for it (R445, R354); context 0 stands for queue
0, whose addresses are physical (R371). An address with bits [63:56] set or in the staging region translates in no page table (R75), and a
PRIVATE page is its group's alone (R81). -/
def State.fwReach (s : State) (ctx va : Nat) (write : Bool) : Option (State × Nat × PageKind) :=
  if ctx = 0 then
    if region va = .reserved ∨ region va = .device ∨ !s.coreOwned va ∨ (write ∧ s.cutOff va) then none
    else some (s, va, if region va = .staging then .staging else .coherent)
  else if stagingVA ≤ va then none
  else
    let found := fun (s : State) (l : Leaf) =>
      if (if write then l.bit 6 else l.bit 5) && !l.priv && region l.pa != .device && s.coreOwned l.pa && !(write && s.cutOff l.pa) then
        some (s.markUsed l write, l.pa, l.kind)
      else none
    match s.walk ctx va with
    | .leaf l => found s l
    | .bad _ _ => none
    | .fill pte e level =>
      match s.fillPage pte e level with
      | .error _ => none
      | .ok s =>
        match s.walk ctx va with
        | .leaf l => found s l
        | _ => none

/-- Firmware's load or store where an address has been reached: an operation of the order, or an access to a page outside it, whose write is
posted (R121, R369). -/
def State.fwOp (s : State) (pa : Nat) (k : PageKind) (op : LineOp) (t : Nat) : LineResult × State :=
  if k.ordered then s.opAt pa op t
  else
    let (x, s) := s.memRun pa op
    ({ x with ts := t }, s)

/-- Firmware reads `n` bytes of a context; none where they cannot be read (R445). Pages are reached one by one. The result has the bytes and
the largest timestamp of the loads. -/
def State.fwRead (s : State) (ctx va : Nat) : (n fuel : Nat) → Option (State × List Byte × Nat)
  | _, 0 => none
  | n, fuel + 1 =>
    if n = 0 then some (s, [], 0)
    else
      match s.fwReach ctx va false with
      | none => none
      | some (s, pa, k) =>
        let m := min n (65536 - va % 65536)
        if s.peekBad pa m then none
        else
          let (b, ts, s) := if k.ordered then s.loadBytes pa m 0 else (s.read pa m, 0, s)
          match s.fwRead ctx (va + m) (n - m) fuel with
          | none => none
          | some (s', b', t) => some (s', b ++ b', max ts t)

/-- Firmware reads a capability granule with its tag (R344, R353); none where it cannot be read. The result has the load's timestamp. -/
def State.fwCap (s : State) (ctx va : Nat) : Option (State × Cap × Nat) :=
  match s.fwReach ctx va false with
  | none => none
  | some (s, pa, k) =>
    if s.peekBad pa 16 then none
    else
      let (r, s) := s.fwOp pa k (.load (pa % 128) 16) 0
      some (s, { bits := BitVec.ofNat 128 r.val, tag := r.tag }, r.ts)

/-- Firmware stores a number at an address of a context, as a store of time `t`; none where it cannot be written (R354). -/
def State.fwStore (s : State) (ctx va x n t : Nat) : Option (State × Nat) :=
  match s.fwReach ctx va true with
  | none => none
  | some (s, pa, k) =>
    let (r, s) := s.fwOp pa k (.store (pa % 128) n x) t
    some (s, r.ts)

/-- Firmware's own store at a physical address: its journals, records and images. -/
def State.fwWrite (s : State) (pa : Nat) (b : List Byte) : State := (s.storeBytes pa b 0).2

/-- Firmware's own store of a number at a physical address. -/
def State.fwPut (s : State) (pa x n : Nat) : State := s.fwWrite pa (leBytes x n)

/-! ## Records for the host -/

/-- MSI-X on the vector of queue 0's block (R371, R419). -/
def State.msix0 (s : State) : State :=
  match mfind s.queues 0 with
  | some q => s.send (.msix q.msix)
  | none => s

/-- Firmware writes error record k, SEQ last, and signals every record of CLASS 2 to 4 (R418, R419). -/
def State.errorRecord (s : State) (cls unit count paddr unitid ctx gname action : Nat) : State :=
  if s.elog = 0 then s
  else
    let a := s.elog + 64 * (s.errSeq % s.elogDepth)
    let body := leBytes cls 1 ++ leBytes unit 1 ++ leBytes (min count 65535) 2 ++ leBytes paddr 8 ++ leBytes unitid 4 ++ leBytes ctx 2
      ++ leBytes 0 2 ++ leBytes gname 4 ++ leBytes action 1 ++ leBytes 0 3 ++ leBytes s.clock 8 ++ List.replicate 24 0
    let (t, s) := s.storeBytes (a + 4) body 0
    let s := { (s.storeNat a (s.errSeq + 1) 4 t).2 with errSeq := s.errSeq + 1 }
    if 2 ≤ cls then s.msix0 else s

/-- OR flags into the memory-exception word of a context (R157), as a read-modify-write that an agent at program time `t` makes after what raised
them; a word that cannot be written is counted for the summarising record. -/
def State.orFlags (s : State) (ctx : Nat) (flags : BitVec 6) (t : Nat) : State :=
  if flags = 0 then s
  else
    match mfind s.contexts ctx with
    | none => s
    | some c =>
      let skip : State := { s with skippedOrs := mset s.skippedOrs ctx (mget 0 s.skippedOrs ctx + 1) }
      match s.fwReach ctx c.mexc true with
      | some (s', pa, k) =>
        match s'.walk ctx c.mexc with
        | .leaf l => if l.bit 5 && k.ordered then (s'.opAt pa (.atomic .or false (pa % 128) flags.toNat) t).2 else skip
        | _ => skip
      | none => skip

/-- Address of the journal record of an entry (R356). -/
def Queue.journalAt (q : Queue) (i : Nat) : Nat := q.journal + 32 * (i % q.jdepth)

/-- Write a journal record at commit (R356). -/
def State.journalCommit (s : State) (qn i cmdid opcode state status ts : Nat) : State :=
  match mfind s.queues qn with
  | none => s
  | some q =>
    s.fwWrite (q.journalAt i) (leBytes i 4 ++ leBytes cmdid 4 ++ leBytes opcode 1 ++ leBytes state 1 ++ leBytes status 2 ++ leBytes 0 4
      ++ leBytes ts 8 ++ leBytes s.clock 8)

/-- Rewrite STATE and STATUS of a journal record, and CLOCK where STATE changes (R356). -/
def State.journalState (s : State) (qn i state status : Nat) : State :=
  match mfind s.queues qn with
  | none => s
  | some q =>
    let a := q.journalAt i
    if s.peekNat a 4 = i then
      let old := s.peekNat (a + 9) 1
      let s := (s.fwPut (a + 9) state 1).fwPut (a + 10) status 2
      if old = state then s else s.fwPut (a + 24) s.clock 8
    else s

/-- Notify the host of a completion (R355), whose completion word was written at time `t`: the NOTIFY bit, then a user interrupt or MSI-X.
RUNWORD's address is physical (R371). -/
def State.notifyHost (s : State) (qn : Nat) (noint : Bool) (t : Nat) : State :=
  match mfind s.queues qn with
  | none => s
  | some q =>
    if noint || q.uint == 0 then s
    else
      let skip := fun (s : State) (a : Nat) => s.errorRecord 4 14 1 a qn 0 0 4
      let (s, t) := match s.fwReach q.ctx q.notify true with
        | some (s, pa, k) =>
          let (r, s) := s.fwOp pa k (.atomic .or true (pa % 128) (2 ^ (qn % 64))) t
          (s, r.ts)
        | none => (skip s q.notify, t)
      let running := match s.fwReach 0 q.runword false with
        | some (s, pa, _) => s.peekNat pa 8 != 0
        | none => false
      if running then
        match s.fwStore q.ctx q.uint qn 8 t with
        | some (s, _) => s.send (.hostWrite q.uint qn)
        | none => skip s q.uint
      else s.send (.msix q.msix)

/-- A command completes (R354): its completion word as one store, its journal record, the notification. -/
def State.complete (s : State) (qn i jstate status : Nat) (done cmdid : Nat) (noint : Bool) (t : Nat) : State :=
  match mfind s.queues qn with
  | none => s
  | some q =>
    let s := s.journalState qn i jstate status
    let (s, t') :=
      if done = 0 then (s, t)
      else
        match s.fwStore q.ctx done (2 ^ 63 + status * 2 ^ 48 + cmdid) 8 t with
        | some x => x
        | none => ((s.journalState qn i 3 status).errorRecord 4 14 1 done qn 0 0 4, t)
    let s := s.notifyHost qn noint t'
    s.modQueue qn fun q => { q with open_ := q.open_.filter (·.index ≠ i), time := max q.time t }

/-- A bit of a 32-bit opcode word's command flags: NOINT (R341). -/
def entryNoint (body : List Byte) : Bool := field body 1 1 / 2 % 2 == 1

end Sys2Proof.Machine
end

