-- ==== Sys2Proof/Machine/Lifecycle.lean ====
section
/-! DEFINITION. How groups, gangs and launches end: retirement (R20, R207), the end of a launch (R354), termination (R397), killing a group
and running it again (R423, R424). -/

namespace Sys2Proof.Machine

/-- Lane numbers of a crew. -/
def lanes32 : List Nat := List.range 32

/-- Whether a lane has no thread that has not exited (R24). -/
def Thread.gone (t : Thread) : Bool :=
  match t.st with
  | .exited | .helper => true
  | .waiting w => w.was != 0
  | .retry w => w != 0
  | _ => false

/-- The crews of a group. -/
def State.crewsOf (s : State) (gk : Nat) : List Nat := mkeys s.crews fun _ c => c.group == gk

/-- Whether every lane of a crew has exited (R20). -/
def State.crewRetired (s : State) (ck : Nat) : Bool := lanes32.all fun l => (s.thread ck l).gone

/-- Ask for an internal event in the present cycle. -/
def State.soon (s : State) (i : Instr) : State :=
  if s.agenda.any (· == (s.clock, i)) then s else { s with agenda := s.agenda ++ [(s.clock, i)] }

/-- Ask for an internal event after some arith cycles. -/
def State.later (s : State) (n : Nat) (i : Instr) : State := { s with agenda := s.agenda ++ [(s.clock + n, i)] }

/-- A unit becomes pending (R349). -/
def State.pend (s : State) (u : PUnit) : State := { s with pending := s.pending ++ [{ u with id := s.stamp, ready := s.stamp }], stamp := s.stamp + 1 }

/-- A group leaves a sharing group, or every one (R91): slots that map its allocation, and its own slots, are unmapped. -/
def State.leaveSharing (s : State) (gk : Nat) (key : Option (Nat × Nat)) : State :=
  let hit := fun (k : Nat × Nat) => match key with | none => true | some k' => k == k'
  let mates := (s.sharing.filter fun e => hit e.1 && e.2.contains gk).flatMap (·.2)
  let left := s.sharing.map fun e => if hit e.1 then (e.1, e.2.filter (· ≠ gk)) else e
  let s := { s with
    sharing := left.filter fun e => !e.2.isEmpty
    groups := mmap s.groups fun k g => if mates.contains k && k != gk then { g with slots := mkeep g.slots fun _ m => m ≠ gk } else g }
  if mates.isEmpty then s else s.modGroup gk fun g => { g with slots := [] }

/-- The crew key that stands for none: a packet whose sender is gone. -/
def noOwner : Nat := 2 ^ 20

/-- A thread or agent of a launch ends with a program time, which the launch's completion follows (R354). -/
def State.noteTime (s : State) (lk t : Nat) : State :=
  match mfind s.launches lk with
  | some l => if l.last < t then s.modLaunch lk fun l => { l with last := t } else s
  | none => s

/-- Remove a group's crews, threads, bundles and bins from its core. -/
def State.dropCrews (s : State) (gk : Nat) : State :=
  let cks := s.crewsOf gk
  { s with
    threads := mkeep s.threads fun k _ => !cks.contains (k / 32)
    sent := mmap s.sent fun _ x => if cks.contains x.crew && x.engine.isNone then { x with crew := noOwner } else x
    crews := mkeep s.crews fun k _ => !cks.contains k
    cores := mmap s.cores fun _ c => { c with
      bins := c.bins.filter (·.group ≠ gk)
      pipes := mkeep c.pipes fun _ b => b.group ≠ gk } }

/-- The registers of a retired group's crews stay in their storage until other crews take the slots (R63, R383). -/
def State.keepRemains (s : State) (gk : Nat) : State :=
  (s.crewsOf gk).foldl (fun (s : State) ck =>
    { s with remains := mset s.remains ck (s.crew ck, lanes32.map fun l => s.thread ck l) }) s

/-- A group's place, storage, staging and name are freed (R20, R67, R85, R91). -/
def State.freeGroup (s : State) (gk : Nat) : State :=
  let cks := s.crewsOf gk
  let t := s.threads.foldl (fun t e => if cks.contains (e.1 / 32) then max t e.2.time else t) 0
  let s := ((s.noteTime (s.group gk).launch t).dropCrews gk).leaveSharing gk none
  { s with groups := mdel s.groups gk, freed := s.freed ++ [gk], pending := s.pending.filter fun u => u.savedGroup ≠ some gk }

/-- A cluster's tile sequencer is given up. -/
def State.freeCluster (s : State) (cl : Nat) : State :=
  let s := match (s.cluster cl).gang with
    | some k => s.noteTime (s.gang k).launch (s.cluster cl).time
    | none => s
  { s with agentWaits := s.agentWaits.filter fun x => !(match x.1 with
      | .stream k | .fill k _ | .matrix k => k == cl
      | _ => false) }.modCluster cl fun c => { c with
    gang := none, s := [], accs := [], accType := [], accPoison := [], handles := [], nz := false, pc := 0, stream := .ended, fpstat := 0,
    gen := 0, opbuf := [], opPoison := [], queue := [], fills := [] }

/-- Whether a gang has a group, a stream at work, or is saved. -/
def State.gangLives (s : State) (gang : Nat) : Bool :=
  match mfind s.gangs gang with
  | none => false
  | some g =>
    let cl := s.cluster g.cluster
    (many s.groups fun _ x => x.gang == some gang) || g.saved
      || (g.tile && cl.gang == some gang && (cl.stream != .ended || !cl.queue.isEmpty || !cl.fills.isEmpty))

/-- A gang retires when all its groups have retired, its stream has ended (R20) and the matrix instructions and fills the stream issued have
finished; its chutes and window 1 stay while an operation of a retired group is armed (R292). -/
def State.gangRetire (s : State) (gang : Nat) : State :=
  match mfind s.gangs gang with
  | none => s
  | some g =>
    if s.gangLives gang then s
    else
      let s := if g.tile && (s.cluster g.cluster).gang == some gang then s.freeCluster g.cluster else s
      if many s.clusters fun _ c => many c.armed fun _ a => a.gang == some gang then s
      else { s with gangs := mdel s.gangs gang }

/-- Whether a launch has engine operations armed (R20). -/
def State.enginesOf (s : State) (lk : Nat) : Bool :=
  many s.clusters fun _ c => many c.armed fun _ a => a.launch == lk

/-- Whether a launch has all its groups retired and no pending unit or spawn record (R20). -/
def State.groupsDone (s : State) (lk : Nat) : Bool :=
  let l := s.launch lk
  !(many s.groups fun _ g => g.launch == lk) && !(many s.gangs fun k g => g.launch == lk && s.gangLives k)
    && !(s.pending.any fun u => u.launch == lk) && l.bins.isEmpty

/-- The completion of a launch: journal, completion word and notification of its queue, or the report of a part to its coordinator
(R354, R356, R447). -/
def State.launchEnd (s : State) (lk jstate status : Nat) : State :=
  let l := s.launch lk
  let s := s.modLaunch lk fun l => { l with done := true, status := some status }
  match l.part with
  | some (coord, id, part) =>
    let i := Instr.partDoneReport (BitVec.ofNat 42 id) (BitVec.ofNat 6 part) (BitVec.ofNat 15 status)
    if coord = s.pkgId then s.soon i else s.send (.firmware coord i)
  | none => s.complete l.queue l.index jstate status (l.f 8 8) (l.f 4 4) (entryNoint l.body) (max l.time (s.launch lk).last)

/-- When a launch's groups are all retired, each of its bench launches that has not completed an OWNC gets one queued by firmware, as if the
group had issued it at its end (R319); the launch then completes once none of them and no engine operation remains. -/
def State.launchCheck (s : State) (lk : Nat) : State :=
  match mfind s.launches lk with
  | none => s
  | some l =>
    if l.done || l.ending.isSome || !s.groupsDone lk then s
    else
      let s := { s with benchLaunches := mmap s.benchLaunches fun _ b =>
        if b.live && b.launch == lk && !b.ownc && !b.firmwareOwnc then
          if b.owned || b.queue.any (·.op == 4) || b.current.any (fun (c : BenchCmd) => c.op == 4) then
            { b with
              ownc := true, firmwareOwnc := true
              queue := b.queue ++ [({ op := 5, block := b.block, time := max b.time l.last } : BenchCmd)] }
          else { b with firmwareOwnc := true }
        else b }
      let s := { s with benchLaunches := mmap s.benchLaunches fun _ b =>
        if b.live && b.launch == lk && b.firmwareOwnc && !b.ownc && b.queue.isEmpty && b.current.isNone then { b with live := false }
        else b }
      if s.enginesOf lk || many s.benchLaunches fun _ b => b.live && b.launch == lk then s
      else if l.part.isSome then s.launchEnd lk 3 0
      else s.soon (.commandComplete (BitVec.ofNat 10 l.queue) (BitVec.ofNat 32 l.index))

/-- What follows when a cluster's stream, matrix queue or fills have ended: its gang and its launch may be over (R20). -/
def State.gangOver (s : State) (cl : Nat) : State :=
  match (s.cluster cl).gang with
  | some g =>
    let lk := (s.gang g).launch
    (s.gangRetire g).launchCheck lk
  | none => s

/-- Retire a group if all its crews have retired, then its gang and its launch in turn (R20). A group that retires on a core starts a
placement pass (R348). -/
def State.groupRetire (s : State) (gk : Nat) : State :=
  match mfind s.groups gk with
  | none => s
  | some g =>
    if (s.crewsOf gk).isEmpty || !((s.crewsOf gk).all s.crewRetired) then s
    else
      let s := (s.keepRemains gk).freeGroup gk
      let s := match g.gang with | some k => s.gangRetire k | none => s
      let s := s.soon .placementPass
      s.launchCheck g.launch

/-! ## Ending work early -/

/-- Close the windows that meet a condition without WFINAL; targets keep their memory contents (R397). -/
def State.closeWindows (s : State) (p : Window → Bool) : State :=
  { s with windows := mmap s.windows fun _ w => if p w then { w with open_ := false, accs := [] } else w }

/-- A read-modify-write on every line of a slab at an agent's program time (R105, R108): its timestamp, after every operation on a line of the
slab. -/
def State.slabEnter (s : State) (n t : Nat) : Nat × State :=
  let homes := (List.range 160).map (160 * (natBits (n * 2 ^ 18) 36 4 / 6) + ·)
  let m := homes.foldl (fun m h => max m (mget 0 s.floor h)) (mget 0 s.slabTime n)
  let m := s.dir.foldl (fun m e => if region (e.1 * 128) = .hbm ∧ slabOf (e.1 * 128) = n then max m e.2.rts else m) m
  let m := s.copies.foldl (fun m e =>
    let l := e.1 % 2 ^ 45
    if region (l * 128) = .hbm ∧ slabOf (l * 128) = n ∧ !e.2.forever then max m e.2.rts else m) m
  let ts := max t (m + 1)
  (ts, { s with
    slabTime := mset s.slabTime n ts
    dir := mmap s.dir fun k d => if region (k * 128) = .hbm ∧ slabOf (k * 128) = n then { d with wts := ts, rts := ts } else d })

/-- The slabs of a bench launch return to core ownership, as OWNC returns them (R326): the largest timestamp. -/
def State.returnSlabs_ (s : State) (l : List Nat) (t : Nat) : Nat × State :=
  l.foldl (fun (r : Nat × State) n =>
    let (ts, s) := r.2.slabEnter n t
    (max r.1 ts, { s with slabs := mdel s.slabs n })) (t, s)

/-- Stop a bench launch after the word in progress and return its slabs, with no drain, target write or DONE write (R397 step 3, R319). -/
def State.stopBench (s : State) (e : Nat) : State :=
  let b := s.benchLaunch e
  let (ts, s) := s.returnSlabs_ b.slabs b.time
  let s := s.noteTime b.launch ts
  let s := { s with
    hbmStacks := mmap s.hbmStacks fun _ st =>
      if st.launch == some e then { st with launch := none, run := none, opened := false, wait := 0, closing := false, finished := false } else st
    benches := mmap s.benches fun _ x => { x with drain := x.drain.filter (·.launch ≠ e) }
    drains := mmap s.drains fun _ l => l.filter (·.launch ≠ e)
    epoch := mkeep s.epoch fun k _ => k / 2 ^ 24 ≠ e }
  s.modBenchLaunch e fun b => { gen := b.gen }

/-- Bench launches that meet a condition are stopped. -/
def State.stopBenches (s : State) (p : BenchLaunch → Bool) : State :=
  (mkeys s.benchLaunches fun _ b => b.live && p b).foldl State.stopBench s

/-- Withdraw armed engine operations that meet a condition (R397 step 2): at once where no firing is in flight, and otherwise once the firing has
finished. -/
def State.withdraw (s : State) (p : Armed → Bool) : State :=
  { s with clusters := mmap s.clusters fun _ c => { c with
    armed := mmap (mkeep c.armed fun _ a => !(p a && a.firing.isNone && a.awaited == 0)) fun _ a =>
      if p a then { a with withdrawn := true } else a } }

/-- A gang ends: its groups, its stream, itself. -/
def State.freeGang (s : State) (gang : Nat) : State :=
  let g := s.gang gang
  let s := (mkeys s.groups fun _ x => x.gang == some gang).foldl State.freeGroup s
  let s := if g.tile && (s.cluster g.cluster).gang == some gang then s.freeCluster g.cluster else s
  { s with gangs := mdel s.gangs gang, pending := s.pending.filter fun u => u.savedGang ≠ some gang }

/-- The last steps of a termination, once no engine operation of the launch is left (R397). -/
def State.endingCheck (s : State) (lk : Nat) : State :=
  match (s.launch lk).ending with
  | some status =>
    if s.enginesOf lk || (s.launch lk).done then s
    else ((s.stopBenches (·.launch == lk)).closeWindows (·.launch == lk)).launchEnd lk 3 status
  | none => s

/-- Firmware terminates a launch with a STATUS, in the order of R397. -/
def State.terminate (s : State) (lk status : Nat) : State :=
  match mfind s.launches lk with
  | none => s
  | some l =>
    if l.done || l.ending.isSome then s
    else
      let s := (mkeys s.gangs fun _ g => g.launch == lk).foldl State.freeGang s
      let s := (mkeys s.groups fun _ g => g.launch == lk).foldl State.freeGroup s
      let s := { s with pending := s.pending.filter (·.launch ≠ lk) }
      let s := s.modLaunch lk fun l => { l with bins := [], ending := some status }
      (s.withdraw (·.launch == lk)).endingCheck lk

/-- What follows when an armed operation has left its place: its gang may retire, and its launch may complete or end (R20, R292, R397). -/
def State.armedGone (s : State) (a : Armed) : State :=
  let s := match a.gang with
    | some k => s.gangRetire k
    | none => s
  (s.launchCheck a.launch).endingCheck a.launch

/-- The groups that a kill of one group ends, with the index of the first and how many there are, and its gang (R423). -/
def State.killSet (s : State) (gk : Nat) : List Nat :=
  match (s.group gk).gang with
  | none => [gk]
  | some k => mkeys s.groups fun _ g => g.gang == some k

/-- Kill a group, and with it its gang, and run it again or terminate its launch with `status` (R423, R424). -/
def State.killGroup (s : State) (gk status : Nat) : State :=
  match mfind s.groups gk with
  | none => s
  | some g =>
    let set := s.killSet gk
    let l := s.launch g.launch
    let idx := g.index.toNat
    let kills := if g.gang.isNone then g.kills else mget 0 l.kills idx
    let s := s.withdraw fun a => set.contains a.group
    let s := s.closeWindows fun w => set.contains w.group
    let s := set.foldl (fun (s : State) (k : Nat) => let x := s.group k; s.zeroBlock (x.win0 0) x.win0Size) s
    let s := match g.gang with
      | none => s.freeGroup gk
      | some k =>
        let x := s.gang k
        let s := (List.range 4).foldl (fun (s : State) (n : Nat) => s.zeroBlock (stagingAt (4 * x.win1Cluster + n) (x.win1Off.getD n 0)) (x.win1Size / 4)) s
        s.freeGang k
    let first := idx - g.gangPos
    let count := max 1 (l.f 54 1)
    let s := if g.gang.isNone then s
      else s.modLaunch g.launch fun l => { l with
        kills := (List.range count).foldl (fun m i => mset m (first + i) (mget 0 m (first + i) + 1)) l.kills }
    if l.idemp && kills < 2 then
      let u : PUnit :=
        if g.gang.isNone then
          { launch := g.launch, prio := l.prio, order := l.order, first := 2 ^ 32, spawn := g.records, kills := kills + 1, held := l.heldBack }
        else { launch := g.launch, prio := l.prio, order := l.order, first := first, count := count, held := l.heldBack }
      s.pend u
    else s.terminate g.launch status

/-- UNIT and UNITID of the storage at a physical address (R16, R77, R418). -/
def storageUnit (pa : Nat) : Nat × Nat :=
  match region pa with
  | .staging => (3, homeSlice pa)
  | .host => (9, homeSlice pa)
  | _ => (1, 64 * (pa / 2 ^ 32) + natBits pa 9 6)

/-- Kill a group for an uncorrectable error or poison, and write the record (R418, R421, R424). -/
def State.killError (s : State) (gk unit unitid pa : Nat) : State :=
  match mfind s.groups gk with
  | none => s
  | some g =>
    let l := s.launch g.launch
    let again := l.idemp && decide ((if g.gang.isNone then g.kills else mget 0 l.kills g.index.toNat) < 2)
    (s.killGroup gk 0x0201).errorRecord (if again then 2 else 3) unit 1 pa unitid l.ctx g.name.toNat (if again then 2 else 3)

/-- Kill a group that has read poisoned data (R421). -/
def State.killPoisoned (s : State) (gk pa : Nat) : State := s.killError gk (storageUnit pa).1 (storageUnit pa).2 pa

end Sys2Proof.Machine
end

