-- ==== Sys2Proof/Machine/Ops.lean ====
section
/-! DEFINITION. The operations that lane instructions share: the lane's own computation, pushing results, rejoin masks, taking a trap
(R394) and returning from one (R399), and running an instruction in every lane it is issued to (R189, R392, R393). -/

namespace Sys2Proof.Machine

/-- A lane executing an instruction: where it stands, its launch's register count and array size, the instruction's address and that of
the next, and the instruction's word (for TADDR). -/
structure Ctx where
  core : Nat
  pipe : Nat
  crew : Nat
  lane : Nat
  group : Nat
  n : Nat
  a : Nat
  helper : Bool
  pc : DWord
  next : DWord
  word : Nat
  /-- what a remote reply has brought (R365) -/
  reply : Option Answer := none
  /-- accesses of the instruction that have been performed (R132) -/
  got : List Got := []
deriving DecidableEq, Repr

/-- A lane's computation: it changes the state, or stops with nothing done (R392). -/
abbrev LaneM (α : Type) := StateT State (Except Stop) α

/-- Stop the lane's instruction. -/
def stop {α : Type} (e : Stop) : LaneM α := fun _ => .error e

/-- Take a trap whose TPC is the instruction's own address. -/
def trap {α : Type} (code sub detail : Nat) (addr : DWord) : LaneM α := stop (.trap code sub detail addr false)

/-- The lane's thread. -/
def me (c : Ctx) : LaneM Thread := fun s => .ok (s.thread c.crew c.lane, s)

/-- Change the lane's thread. -/
def modMe (c : Ctx) (f : Thread → Thread) : LaneM Unit := fun s => .ok ((), s.modThread c.crew c.lane f)

/-- The crew of the lane. -/
def myCrew (c : Ctx) : LaneM Crew := fun s => .ok (s.crew c.crew, s)

/-- Change the crew of the lane. -/
def modMyCrew (c : Ctx) (f : Crew → Crew) : LaneM Unit := fun s => .ok ((), s.modCrew c.crew f)

/-- The lane's launch. -/
def myLaunch (c : Ctx) : LaneM Launch := fun s => .ok (s.launch (s.group c.group).launch, s)

/-- The lane's view of memory (R75). -/
def myView (c : Ctx) : LaneM View := fun s =>
  .ok ({ ctx := (s.launch (s.group c.group).launch).ctx, group := c.group, firmware := slotOf c.crew == 63 }, s)

/-! ## The result queue -/

/-- Push one entry: the sixteenth is lost (R48). -/
def Thread.push (t : Thread) (x : Word) : Thread := { t with q := (x :: t.q).take 16 }

/-- Push a 64-bit result as two entries, bits [31:0] first (R48). -/
def Thread.push2 (t : Thread) (x : DWord) : Thread := (t.push x.lo).push x.hi

/-- The value of queue entry q(n), n from 1 (R48). -/
def Thread.qval (t : Thread) (n : Nat) : Word := t.q.getD (n - 1) 0

/-- The value of a named register. -/
def Thread.reg (t : Thread) (n : Nat) : Word := mget 0 t.v n

/-- Replace a named register. -/
def Thread.setReg (t : Thread) (n : Nat) (x : Word) : Thread := { t with v := mset t.v n x }

/-- An array word (R52). -/
def Thread.word (t : Thread) (n : Nat) : Word := mget 0 t.arr n

/-- Whether a register's hold bit is set (R51). -/
def Thread.held (t : Thread) (n : Nat) : Bool := t.hold.getLsbD n

/-- A lane's bit in a 32-bit mask. -/
def bitOf (lane : Nat) : Word := BitVec.ofNat 32 (2 ^ lane)

/-! ## Rejoin masks -/

/-- Whether a lane is parked on mask j. -/
def State.parkedOn (s : State) (crew j lane : Nat) : Bool :=
  match (s.thread crew lane).st with
  | .parked k => k.toNat == j
  | _ => false

/-- A quad one of whose lanes is released leaves its bundle, to be filed by its quad program counter (R27, R35). -/
def State.leaveBundle (s : State) (crew lane : Nat) : State :=
  s.modCore (coreOf crew) fun k => { k with pipes := mmap k.pipes fun _ b =>
    if b.crewWide then b else { b with quads := b.quads.filter fun x => x != (crew, lane / 4) } }

/-- The check of R35 on one mask: if it is non-empty and every lane set in it is parked on it, those lanes continue at the instruction
after their PARK, filed with one stamp, and the mask is cleared. -/
def State.checkMask (s : State) (crew j : Nat) : State :=
  let m := mget 0 (s.crew crew).j j
  if m ≠ 0 ∧ (lanes32.all fun l => !m.getLsbD l || s.parkedOn crew j l) then
    let s := lanes32.foldl (fun s l => if m.getLsbD l then (s.modThread crew l fun t => { t with st := .run }).leaveBundle crew l else s) s
    s.modCrew crew fun c => { c with j := mset c.j j 0 }
  else s

/-- The check of R35 on all four masks. -/
def State.checkMasks (s : State) (crew : Nat) : State := (List.range 4).foldl (fun s j => s.checkMask crew j) s

/-! ## Waiting -/

/-- What a lane is while it waits: a thread, an exited one, or none from formation. -/
def LaneState.code : LaneState → Nat
  | .exited => 1
  | .helper => 2
  | .waiting w => w.was
  | .retry w => w
  | _ => 0

/-- The state a lane returns to when its wait is met. -/
def LaneState.ofCode (n : Nat) : LaneState :=
  match n with
  | 0 => .run
  | 1 => .exited
  | _ => .helper

/-- Deschedule a lane, or make it not ready (R44, R27): it keeps its program counter and tries again. -/
def State.deschedule (s : State) (crew lane : Nat) (w : Wait) : State :=
  { s.modThread crew lane fun t => { t with st := .waiting { w with since := s.stamp, was := t.st.code } } with stamp := s.stamp + 1 }

/-- The lanes of a lane's quad (R20). -/
def quadLanes (lane : Nat) : List Nat := (List.range 4).map (4 * (lane / 4) + ·)

/-- Whether a lane has still to complete the instruction at an address (R253). -/
def Thread.stillAt (t : Thread) (pc : Nat) : Bool :=
  match t.st with
  | .waiting w => w.kind != .peers && w.kind != .bar && w.kind != .gbar && t.pc.toNat == pc
  | .retry _ => t.pc.toNat == pc
  | _ => false

/-- Release the lanes of a quad that wait only for the others to complete one instruction (R253). -/
def State.releasePeers (s : State) (crew lane : Nat) : State :=
  (quadLanes lane).foldl (fun s l =>
    match (s.thread crew l).st with
    | .waiting w =>
      if w.kind = .peers && !w.refile && !((quadLanes lane).any fun m => (s.thread crew m).stillAt w.key) then
        (s.modThread crew l fun t => { t with st := .ofCode w.was }).leaveBundle crew l
      else s
    | _ => s) s

/-- A lane that has completed an instruction waits for those of its quad that have still to complete it (R253). -/
def State.joinPeers (s : State) (crew lane pc : Nat) : State :=
  if (s.thread crew lane).st = .run && (quadLanes lane).any fun m => (s.thread crew m).stillAt pc then
    s.modThread crew lane fun t => { t with st := .waiting { kind := .peers, key := pc } }
  else s.releasePeers crew lane

/-- A lane's wait is met: its quad is filed ready (R44). -/
def State.wake (s : State) (crew lane : Nat) : State :=
  ((s.modThread crew lane fun t => { t with st := .ofCode t.st.code }).leaveBundle crew lane).releasePeers crew lane

/-! ## Traps -/

/-- How a cause is disposed of (R394, R400, R442). A page that firmware can fill (F) never reaches here. -/
inductive Disposition where
  | user | held | kill | rerun
deriving DecidableEq, Repr

/-- The disposition of a cause (R400, R403, R405, R442, R448). -/
def disposition (code sub : Nat) : Disposition :=
  if code = 0x13 ∨ code = 0x16 ∨ code = 0x1A then .kill
  else if code = 0x0D ∧ sub = 2 then .kill
  else if code = 0x10 ∧ sub = 6 then .kill
  else if code = 0x14 ∧ sub ≠ 6 then .kill
  else if code = 0x1B ∧ sub = 2 then .rerun
  else if code = 0x18 then .held
  else .user

/-- TCAUSE of a trap (R395). -/
def tcauseOf (inh : Bool) (detail sub code : Nat) : Word :=
  BitVec.ofNat 32 ((if inh then 2 ^ 31 else 0) + detail % 64 * 65536 + sub % 256 * 256 + code % 256)

/-- Whether a thread is in its handler: TCAUSE.INH (R395). -/
def Thread.inh (t : Thread) : Bool := t.tcause.getLsbD 31

/-- Deliver a trap to the handler: the frame of R395 and R396, and the program counter (R394). -/
def Thread.enterHandler (t : Thread) (handler : DWord) (code sub detail : Nat) (tpc addr : DWord) : Thread :=
  { t with tcause := tcauseOf true detail sub code, tpc := tpc, taddr := addr, pc := handler, st := .run, reply := none, got := [] }

/-- A BRK with no handler holds the breaking lane's gang (R412): TCAUSE without INH, TPC the next instruction, and a forced save of every
group of the gang, held. -/
def State.holdAtBreak (s : State) (c : Ctx) (detail : Nat) : State :=
  let s := s.modThread c.crew c.lane fun t =>
    { t with tcause := tcauseOf false detail 0 0x18, tpc := c.next, taddr := 0, pc := c.next, st := .stopped }
  let lk := (s.group c.group).launch
  let mates := s.killSet c.group
  let s := mates.foldl (fun s k => s.modGroup k fun g => { g with preempt := .hold, forced := true }) s
  let s := match (s.group c.group).gang with
    | some k => s.modGang k fun g => { g with preempt := true, held := true }
    | none => s
  let l := s.launch lk
  let s := s.modLaunch lk fun l => { l with atBrk := true, brkSince := s.clock }
  (s.journalState l.queue l.index 2 0x0118).notifyHost l.queue (entryNoint l.body) (s.thread c.crew c.lane).time

/-- Take a trap in a lane (R394): `tpc` is the instruction's address for a fault and the next instruction's for causes taken after it. -/
def State.takeTrap (s : State) (c : Ctx) (code sub detail : Nat) (tpc addr : DWord) : State :=
  let t := s.thread c.crew c.lane
  let lk := (s.group c.group).launch
  let handler := BitVec.ofNat 64 ((s.launch lk).f 40 8)
  match disposition code sub with
  | .kill => s.terminate lk (0x100 + code)
  | .rerun => s.killGroup c.group (0x100 + code)
  | _ =>
    if t.inh then s.terminate lk 0x11A
    else if handler = 0 then
      if code = 0x18 then s.holdAtBreak c detail else s.terminate lk (0x100 + code)
    else s.modThread c.crew c.lane fun t => t.enterHandler handler code sub detail tpc addr

/-- Return from a trap (R399): INH is cleared and the program counter becomes TPC; CODE, SUB, DETAIL, TPC and TADDR stay. -/
def Thread.leaveHandler (t : Thread) : Thread := { t with tcause := t.tcause &&& 0x7FFFFFFF#32, pc := t.tpc }

/-- Firmware begins the fill of a page, once per entry (R433); the lane waits for it. -/
def State.beginFill (s : State) (pte entry level : Nat) : State :=
  if s.pageFills.any fun f => f.pte == pte then s
  else { s with pageFills := s.pageFills ++ [{ pte := pte, entry := entry, level := level, at_ := s.clock }] }

/-- The slice beside a lane's core sends a request on a line, and the lane's quad is not ready until the answer has come; where the slice has a
request on the line outstanding already, the lane waits for that one to end (R27, R125, R132). -/
def State.missLane (s : State) (c : Ctx) (line : Nat) (r : Req) (addr : DWord) (refile : Bool) : State :=
  if s.asking r.agent line then s.deschedule c.crew c.lane { kind := .miss, addr := addr, key := line, refile := refile }
  else
    let n := s.stamp + 1
    (({ s with stamp := n }).ask line { r with who := some (.lane (32 * c.crew + c.lane)), ticket := n }).deschedule c.crew c.lane
      { kind := .miss, addr := addr, key := line, refile := refile, ticket := n }

/-- What stops an instruction in a lane that is not a helper: its effects are undone already (R392). TPC of a fetch fault is the fetch address
(R400), which of an instruction that straddles two pages may be its second parcel's (notes/assumptions/53.md). -/
def State.stopLane (s : State) (c : Ctx) : Stop → State
  | .trap code sub detail addr after =>
    s.takeTrap c code sub detail (if after then c.next else if code = 4 then addr else c.pc) addr
  | .wait w => s.deschedule c.crew c.lane w
  | .fill pte entry level =>
    (s.beginFill pte entry level).deschedule c.crew c.lane { kind := .pageFill, key := pte }
  | .poisoned pa => s.killPoisoned c.group pa
  | .miss line r addr refile => s.missLane c line r addr refile

/-! ## The lanes of an issue -/

/-- The context of a lane under an issue. -/
def State.ctxOf (s : State) (i : Issue) (crew lane : Nat) : Ctx :=
  let gk := (s.crew crew).group
  let g := s.group gk
  { core := i.core, pipe := i.pipe, crew := crew, lane := lane, group := gk, n := g.nregs, a := g.asize,
    helper := (s.thread crew lane).gone, pc := i.pc, next := i.pc + BitVec.ofNat 64 i.len, word := i.word
    reply := (s.thread crew lane).reply, got := (s.thread crew lane).got }

/-- A guard: predicate selector and sense (R57). -/
structure Guard where
  sel : BitVec 4
  sense : BitVec 1
deriving DecidableEq, Repr

/-- Whether the guard passes in a lane (R57). -/
def Guard.passes (g : Guard) (c : Crew) (lane : Nat) : Bool :=
  if g.sel = 15 then true
  else (mget 0 c.p g.sel.toNat).getLsbD lane != (g.sense == 1)

/-- The lane moves past the instruction, and stands at it or tries it again no longer (R32, R44). -/
def Thread.advance (t : Thread) (next : DWord) : Thread :=
  { t with pc := next, reply := none, got := []
           st := match t.st with
             | .standing => .run
             | .retry w => .ofCode w
             | x => x }

/-- A lane that executes an instruction counts a step of the safe-point counter, which saturates (R42, R189). -/
def Thread.countStep (t : Thread) : Thread := { t with safeCount := min (t.safeCount + 1) 2048 }

/-- After an instruction, a running lane of a crew under a forced save stops (R42). -/
def State.afterInstr (s : State) (c : Ctx) : State :=
  if ((s.group c.group).forced || (s.crew c.crew).forced) && (s.thread c.crew c.lane).st == .run then
    s.modThread c.crew c.lane fun t => { t with st := .stopped }
  else s

/-- Fold over the lanes of an issue, the lowest lane first (R254), and the crews in order for each. -/
def overLanes (i : Issue) (f : State → Nat → Nat → State) (s : State) : State :=
  lanes32.foldl (fun s l => i.parts.foldl (fun s p => if p.lanes.getLsbD l then f s p.crew l else s) s) s

/-! ## The outstanding-transaction table -/

/-- Whether a wait is one that makes a quad not ready, and keeps its instruction's entry (R27, R122); the others are scheduler-visible (R44). -/
def WaitKind.visible : WaitKind → Bool
  | .pageFill | .remote | .egress | .miss | .entry | .slice => false
  | _ => true

/-- Whether a lane's operation for the instruction at an address is still to be performed (R122). -/
def Thread.outstanding (t : Thread) (pc : DWord) : Bool :=
  match t.st with
  | .waiting w => !w.kind.visible && w.kind != .entry && t.pc == pc
  | .retry _ => t.pc == pc
  | _ => false

/-- A core's entries that have not retired (R122). -/
def State.entries (s : State) (core : Nat) : List Outstanding :=
  (s.core core).table.filter fun e => lanes32.any fun l => e.part.lanes.getLsbD l && (s.thread e.part.crew l).outstanding e.pc

/-- Whether a core's table has a free entry (R122). -/
def State.entryFree (s : State) (core : Nat) : Bool := decide ((s.entries core).length ≤ Config.tableSize)

/-- Whether a lane holds an entry for the instruction at an address. -/
def State.holdsEntry (s : State) (core : Nat) (p : Part) (pc : DWord) : Bool :=
  (s.core core).table.any fun e => e.part.crew == p.crew && e.pc == pc && e.part.lanes &&& p.lanes != 0

/-- The parts of an issue that hold an entry or take a free one, and those that find the table full (R122). -/
def State.enterTable (s : State) (i : Issue) : List Part → (used : Nat) → List Part × List Part
  | [], _ => ([], [])
  | p :: r, used =>
    if s.holdsEntry i.core p i.pc then
      let (a, b) := s.enterTable i r used
      (p :: a, b)
    else if used ≤ Config.tableSize then
      let (a, b) := s.enterTable i r (used + 1)
      (p :: a, b)
    else
      let (a, b) := s.enterTable i r used
      (a, p :: b)

/-- After a memory instruction: the entries of parts whose operations are all performed have retired (R122). -/
def State.keepEntries (s : State) (i : Issue) (parts : List Part) : State :=
  let left := parts.filter fun p => !s.holdsEntry i.core p i.pc && lanes32.any fun l => p.lanes.getLsbD l && (s.thread p.crew l).outstanding i.pc
  if left.isEmpty && (s.core i.core).table.isEmpty then s
  else s.modCore i.core fun k => { k with table := s.entries i.core ++ left.map fun p => { part := p, pc := i.pc } }

/-- Lanes whose memory instruction finds the table full: their quads are not ready until an entry is free, and issue it again (R27, R122). -/
def State.awaitEntry (s : State) (i : Issue) (parts : List Part) : State :=
  if parts.isEmpty then s
  else
    overLanes { i with parts := parts } (fun s crew lane =>
      match (s.thread crew lane).st with
      | .run | .standing => s.deschedule crew lane { kind := .entry, key := i.core, refile := true }
      | .retry _ => s.deschedule crew lane { kind := .entry, key := i.core }
      | _ => s) s

/-- Whether an instruction is issued to a lane. -/
def Issue.has (i : Issue) (crew lane : Nat) : Bool := i.parts.any fun p => p.crew == crew && p.lanes.getLsbD lane

/-- The executing lanes of a quad with a lane that waits at the instruction are descheduled together until each has succeeded (R253); `ran`
says which lanes executed. -/
def State.holdPeers (s : State) (i : Issue) (ran : Nat → Nat → Bool) : State :=
  overLanes i (fun s crew lane =>
    if (s.thread crew lane).st == .run && ran crew lane
        && (quadLanes lane).any fun l => i.has crew l && (s.thread crew l).stillAt i.pc.toNat then
      s.modThread crew lane fun t => { t with st := .waiting { kind := .peers, key := i.pc.toNat } }
    else s) s

end Sys2Proof.Machine
end

