-- ==== Sys2Proof/Machine/Operands.lean ====
section
/-! DEFINITION. Operands of lane instructions: which specifiers each instruction admits (R47, R172, R173, R277) and what it pushes where it
does not execute (R49), array uses (R54, R55), reading sources and writing destinations (R48, R51, R190, R273), and running an instruction
in every lane it is issued to (R189, R392, R393). -/

namespace Sys2Proof.Machine

/-- The outcome of an instruction or of a step. -/
abbrev Res := Host.Outcome State Fault Refusal

/-! ## The shape of an instruction -/

/-- What an operand field must name (R47, R172, R173). -/
inductive Need where
  | srcW | srcD | dstW | dstD
  /-- the data of a RED (R277) -/
  | redW | redD
  /-- a named register -/
  | named
  /-- an even named register, whose pair is meant -/
  | even
  /-- a named register v(a) with a + 3 below the register count -/
  | four
  /-- v(4n) -/
  | quad
  /-- an even crew-uniform register -/
  | evenK
  /-- no constraint beyond the field's width -/
  | any_
deriving DecidableEq, Repr

/-- Whether a specifier meets the need in a launch with `n` named registers. -/
def Need.ok (n : Nat) (need : Need) (f : Nat) : Bool :=
  let pair := decide (f < 32 ∧ f % 2 = 0 ∧ f + 1 < n)
  let array := decide (48 ≤ f ∧ f < 56)
  match need with
  | .srcW => decide (f < n ∨ 32 ≤ f)
  | .srcD => pair || decide (32 ≤ f ∧ f ≤ 46) || array || decide (56 ≤ f ∧ f % 2 = 0)
  | .dstW => decide (f < n ∧ f < 32) || f == 32 || array
  | .dstD => pair || f == 32 || array
  | .redW => decide (f < n ∧ f < 32 ∨ f = 32 ∨ 56 ≤ f)
  | .redD => pair || f == 32 || decide (56 ≤ f ∧ f % 2 = 0)
  | .named => decide (f < 32 ∧ f < n)
  | .even => pair
  | .four => decide (f < 32 ∧ f + 3 < n)
  | .quad => decide (f < 32 ∧ f % 4 = 0 ∧ f + 3 < n)
  | .evenK => f % 2 == 0
  | .any_ => true

/-- What an instruction pushes, and from where an idle lane takes the value it pushes (R48, R49). -/
inductive Push where
  | none
  /-- one entry; the destination specifier -/
  | word (d : Nat)
  /-- two entries -/
  | pair (d : Nat)
  /-- four entries, from v(d) -/
  | quad (d : Nat)
  /-- an instruction without a destination field that pushes this many entries -/
  | zeros (n : Nat)
deriving DecidableEq, Repr

/-- How many entries are pushed. -/
def Push.count : Push → Nat
  | .none => 0 | .word _ => 1 | .pair _ => 2 | .quad _ => 4 | .zeros n => n

/-- What the lanes need to know of an instruction before they execute it. -/
structure Shape where
  guard : Guard := ⟨15, 0⟩
  push : Push := .none
  /-- SUB of cause 0x02, need and specifier of each operand field; a destination that is read as well stands twice -/
  uses : List (Nat × Need × Nat) := []
  /-- a load, whose fault in a helper lane gives zero (R393) -/
  load : Bool := false
  /-- a memory instruction, which takes an entry of the outstanding-transaction table (R122, R248) -/
  entry : Bool := false
  /-- one of the majors a tile-sequencer stream executes (R178) -/
  stream : Bool := false
  /-- SUB of cause 0x01 when a thread is issued it (R402) -/
  bad : Option Nat := .none
deriving DecidableEq, Repr

/-- Destination need of an operand whose variant bit chooses .w or .d. -/
def dstBy (v : BitVec 1) : Need := if v = 0 then .dstW else .dstD

/-- Source need of an operand whose variant bit chooses .w or .d. -/
def srcBy (v : BitVec 1) : Need := if v = 0 then .srcW else .srcD

/-- Need of a crew-uniform operand: .d names an even register (R179). -/
def kBy (w : BitVec 1) : Need := if w = 0 then .any_ else .evenK

/-- Need of a PUTREG target: .d names an even register (R271); its range is the target's own affair (R272). -/
def putTo (v : BitVec 1) : Need := if v = 0 then .any_ else .evenK

/-- Specifier named by the 5-bit field of a 16-bit form (R180). -/
def short (b : BitVec 5) : Nat := if b.toNat < 16 then b.toNat else b.toNat + 16

/-- Selectors of 64-bit system registers (R66). -/
def wideSelector (k : BitVec 7) : Bool := k == 0 || k == 6 || k == 7 || k == 0x11 || k == 0x12

/-- Selectors that R66 lists. -/
def mfsSelector (k : BitVec 7) : Bool := decide (k.toNat ≤ 10) || k == 0x10 || k == 0x11 || k == 0x12

/-- The shape of an instruction, from R172 to R181, R193 to R222, R229 to R245, R251 to R277 and R399; the fields of SUBs stand in
ascending order, so that the least is taken (notes/assumptions/3.md). -/
def shapeOf : Instr → Shape
  | .add v b a d n p => { guard := ⟨p, n⟩, push := if v = 0 then .word d.toNat else .pair d.toNat, uses := [(1, dstBy v, d.toNat), (2, srcBy v, a.toNat), (3, srcBy v, b.toNat)], stream := true }
  | .sub v b a d n p => { guard := ⟨p, n⟩, push := if v = 0 then .word d.toNat else .pair d.toNat, uses := [(1, dstBy v, d.toNat), (2, srcBy v, a.toNat), (3, srcBy v, b.toNat)], stream := true }
  | .mul v b a d n p => { guard := ⟨p, n⟩, push := if v = 0 then .word d.toNat else .pair d.toNat, uses := [(1, dstBy v, d.toNat), (2, srcBy v, a.toNat), (3, srcBy v, b.toNat)], stream := true }
  | .mulh _ b a d n p => { guard := ⟨p, n⟩, push := .word d.toNat, uses := [(1, .dstW, d.toNat), (2, .srcW, a.toNat), (3, .srcW, b.toNat)], stream := true }
  | .div _ b a d n p => { guard := ⟨p, n⟩, push := .word d.toNat, uses := [(1, .dstW, d.toNat), (2, .srcW, a.toNat), (3, .srcW, b.toNat)], stream := true }
  | .rem _ b a d n p => { guard := ⟨p, n⟩, push := .word d.toNat, uses := [(1, .dstW, d.toNat), (2, .srcW, a.toNat), (3, .srcW, b.toNat)], stream := true }
  | .and v b a d n p => { guard := ⟨p, n⟩, push := if v = 0 then .word d.toNat else .pair d.toNat, uses := [(1, dstBy v, d.toNat), (2, srcBy v, a.toNat), (3, srcBy v, b.toNat)], stream := true }
  | .or v b a d n p => { guard := ⟨p, n⟩, push := if v = 0 then .word d.toNat else .pair d.toNat, uses := [(1, dstBy v, d.toNat), (2, srcBy v, a.toNat), (3, srcBy v, b.toNat)], stream := true }
  | .xor v b a d n p => { guard := ⟨p, n⟩, push := if v = 0 then .word d.toNat else .pair d.toNat, uses := [(1, dstBy v, d.toNat), (2, srcBy v, a.toNat), (3, srcBy v, b.toNat)], stream := true }
  | .andn v b a d n p => { guard := ⟨p, n⟩, push := if v = 0 then .word d.toNat else .pair d.toNat, uses := [(1, dstBy v, d.toNat), (2, srcBy v, a.toNat), (3, srcBy v, b.toNat)], stream := true }
  | .shl v b a d n p => { guard := ⟨p, n⟩, push := if v = 0 then .word d.toNat else .pair d.toNat, uses := [(1, dstBy v, d.toNat), (2, srcBy v, a.toNat), (3, srcBy v, b.toNat)], stream := true }
  | .shr v b a d n p => { guard := ⟨p, n⟩, push := if v = 0 then .word d.toNat else .pair d.toNat, uses := [(1, dstBy v, d.toNat), (2, srcBy v, a.toNat), (3, srcBy v, b.toNat)], stream := true }
  | .sra v b a d n p => { guard := ⟨p, n⟩, push := if v = 0 then .word d.toNat else .pair d.toNat, uses := [(1, dstBy v, d.toNat), (2, srcBy v, a.toNat), (3, srcBy v, b.toNat)], stream := true }
  | .min _ b a d n p => { guard := ⟨p, n⟩, push := .word d.toNat, uses := [(1, .dstW, d.toNat), (2, .srcW, a.toNat), (3, .srcW, b.toNat)], stream := true }
  | .max _ b a d n p => { guard := ⟨p, n⟩, push := .word d.toNat, uses := [(1, .dstW, d.toNat), (2, .srcW, a.toNat), (3, .srcW, b.toNat)], stream := true }
  | .addi _ a d n p => { guard := ⟨p, n⟩, push := .word d.toNat, uses := [(1, .dstW, d.toNat), (2, .srcW, a.toNat)], stream := true }
  | .andi _ a d n p => { guard := ⟨p, n⟩, push := .word d.toNat, uses := [(1, .dstW, d.toNat), (2, .srcW, a.toNat)], stream := true }
  | .ori _ a d n p => { guard := ⟨p, n⟩, push := .word d.toNat, uses := [(1, .dstW, d.toNat), (2, .srcW, a.toNat)], stream := true }
  | .xori _ a d n p => { guard := ⟨p, n⟩, push := .word d.toNat, uses := [(1, .dstW, d.toNat), (2, .srcW, a.toNat)], stream := true }
  | .shli _ a d n p => { guard := ⟨p, n⟩, push := .word d.toNat, uses := [(1, .dstW, d.toNat), (2, .srcW, a.toNat)], stream := true }
  | .shri _ a d n p => { guard := ⟨p, n⟩, push := .word d.toNat, uses := [(1, .dstW, d.toNat), (2, .srcW, a.toNat)], stream := true }
  | .srai _ a d n p => { guard := ⟨p, n⟩, push := .word d.toNat, uses := [(1, .dstW, d.toNat), (2, .srcW, a.toNat)], stream := true }
  | .movi _ d n p => { guard := ⟨p, n⟩, push := .word d.toNat, uses := [(1, .dstW, d.toNat)], stream := true }
  | .movh _ d n p => { guard := ⟨p, n⟩, push := .word d.toNat, uses := [(1, .dstW, d.toNat), (1, .srcW, d.toNat)], stream := true }
  | .ceq b a w _ n p => { guard := ⟨p, n⟩, uses := [(2, srcBy w, a.toNat), (3, srcBy w, b.toNat)] }
  | .cne b a w _ n p => { guard := ⟨p, n⟩, uses := [(2, srcBy w, a.toNat), (3, srcBy w, b.toNat)] }
  | .clt _ b a w _ n p => { guard := ⟨p, n⟩, uses := [(2, srcBy w, a.toNat), (3, srcBy w, b.toNat)] }
  | .cle _ b a w _ n p => { guard := ⟨p, n⟩, uses := [(2, srcBy w, a.toNat), (3, srcBy w, b.toNat)] }
  | .plog _ _ _ _ n p => { guard := ⟨p, n⟩ }
  | .prd _ d n p => { guard := ⟨p, n⟩, push := .word d.toNat, uses := [(1, .dstW, d.toNat)] }
  | .pwr a _ n p => { guard := ⟨p, n⟩, uses := [(2, .srcW, a.toNat)] }
  | .pset _ n p => { guard := ⟨p, n⟩ }
  | .pclr _ n p => { guard := ⟨p, n⟩ }
  | .popc _ a d n p => { guard := ⟨p, n⟩, push := .word d.toNat, uses := [(1, .dstW, d.toNat), (2, .srcW, a.toNat)] }
  | .clz _ a d n p => { guard := ⟨p, n⟩, push := .word d.toNat, uses := [(1, .dstW, d.toNat), (2, .srcW, a.toNat)] }
  | .ctz _ a d n p => { guard := ⟨p, n⟩, push := .word d.toNat, uses := [(1, .dstW, d.toNat), (2, .srcW, a.toNat)] }
  | .brev _ a d n p => { guard := ⟨p, n⟩, push := .word d.toNat, uses := [(1, .dstW, d.toNat), (2, .srcW, a.toNat)] }
  | .bswap _ a d n p => { guard := ⟨p, n⟩, push := .word d.toNat, uses := [(1, .dstW, d.toNat), (2, .srcW, a.toNat)] }
  | .sexb _ a d n p => { guard := ⟨p, n⟩, push := .word d.toNat, uses := [(1, .dstW, d.toNat), (2, .srcW, a.toNat)] }
  | .sexh _ a d n p => { guard := ⟨p, n⟩, push := .word d.toNat, uses := [(1, .dstW, d.toNat), (2, .srcW, a.toNat)] }
  | .movd _ a d n p => { guard := ⟨p, n⟩, push := .pair d.toNat, uses := [(1, .dstD, d.toNat), (2, .srcD, a.toNat)] }
  | .bfe _ b a d n p => { guard := ⟨p, n⟩, push := .word d.toNat, uses := [(1, .dstW, d.toNat), (2, .srcW, a.toNat), (3, .srcW, b.toNat)] }
  | .fadd v b a d n p => { guard := ⟨p, n⟩, push := if v = 0 then .word d.toNat else .pair d.toNat, uses := [(1, dstBy v, d.toNat), (2, srcBy v, a.toNat), (3, srcBy v, b.toNat)] }
  | .fsub v b a d n p => { guard := ⟨p, n⟩, push := if v = 0 then .word d.toNat else .pair d.toNat, uses := [(1, dstBy v, d.toNat), (2, srcBy v, a.toNat), (3, srcBy v, b.toNat)] }
  | .fmul v b a d n p => { guard := ⟨p, n⟩, push := if v = 0 then .word d.toNat else .pair d.toNat, uses := [(1, dstBy v, d.toNat), (2, srcBy v, a.toNat), (3, srcBy v, b.toNat)] }
  | .fdiv v b a d n p => { guard := ⟨p, n⟩, push := if v = 0 then .word d.toNat else .pair d.toNat, uses := [(1, dstBy v, d.toNat), (2, srcBy v, a.toNat), (3, srcBy v, b.toNat)] }
  | .fmin v b a d n p => { guard := ⟨p, n⟩, push := if v = 0 then .word d.toNat else .pair d.toNat, uses := [(1, dstBy v, d.toNat), (2, srcBy v, a.toNat), (3, srcBy v, b.toNat)] }
  | .fmax v b a d n p => { guard := ⟨p, n⟩, push := if v = 0 then .word d.toNat else .pair d.toNat, uses := [(1, dstBy v, d.toNat), (2, srcBy v, a.toNat), (3, srcBy v, b.toNat)] }
  | .fmac v b a d n p => { guard := ⟨p, n⟩, push := if v = 0 then .word d.toNat else .pair d.toNat, uses := [(1, dstBy v, d.toNat), (1, srcBy v, d.toNat), (2, srcBy v, a.toNat), (3, srcBy v, b.toNat)] }
  | .fnmac v b a d n p => { guard := ⟨p, n⟩, push := if v = 0 then .word d.toNat else .pair d.toNat, uses := [(1, dstBy v, d.toNat), (1, srcBy v, d.toNat), (2, srcBy v, a.toNat), (3, srcBy v, b.toNat)] }
  | .hadd _ b a d n p => { guard := ⟨p, n⟩, push := .word d.toNat, uses := [(1, .dstW, d.toNat), (2, .srcW, a.toNat), (3, .srcW, b.toNat)] }
  | .hsub _ b a d n p => { guard := ⟨p, n⟩, push := .word d.toNat, uses := [(1, .dstW, d.toNat), (2, .srcW, a.toNat), (3, .srcW, b.toNat)] }
  | .hmul _ b a d n p => { guard := ⟨p, n⟩, push := .word d.toNat, uses := [(1, .dstW, d.toNat), (2, .srcW, a.toNat), (3, .srcW, b.toNat)] }
  | .hmac _ b a d n p => { guard := ⟨p, n⟩, push := .word d.toNat, uses := [(1, .dstW, d.toNat), (1, .srcW, d.toNat), (2, .srcW, a.toNat), (3, .srcW, b.toNat)] }
  | .fcmp v b a _ _ n p => { guard := ⟨p, n⟩, uses := [(2, srcBy v, a.toNat), (3, srcBy v, b.toNat)] }
  | .frcp _ a d n p => { guard := ⟨p, n⟩, push := .word d.toNat, uses := [(1, .dstW, d.toNat), (2, .srcW, a.toNat)] }
  | .frsq _ a d n p => { guard := ⟨p, n⟩, push := .word d.toNat, uses := [(1, .dstW, d.toNat), (2, .srcW, a.toNat)] }
  | .fsqrtF32 _ a d n p => { guard := ⟨p, n⟩, push := .word d.toNat, uses := [(1, .dstW, d.toNat), (2, .srcW, a.toNat)] }
  | .fexp2 _ a d n p => { guard := ⟨p, n⟩, push := .word d.toNat, uses := [(1, .dstW, d.toNat), (2, .srcW, a.toNat)] }
  | .flog2 _ a d n p => { guard := ⟨p, n⟩, push := .word d.toNat, uses := [(1, .dstW, d.toNat), (2, .srcW, a.toNat)] }
  | .fsin _ a d n p => { guard := ⟨p, n⟩, push := .word d.toNat, uses := [(1, .dstW, d.toNat), (2, .srcW, a.toNat)] }
  | .fcos _ a d n p => { guard := ⟨p, n⟩, push := .word d.toNat, uses := [(1, .dstW, d.toNat), (2, .srcW, a.toNat)] }
  | .ftanh _ a d n p => { guard := ⟨p, n⟩, push := .word d.toNat, uses := [(1, .dstW, d.toNat), (2, .srcW, a.toNat)] }
  | .fabsF32 _ a d n p => { guard := ⟨p, n⟩, push := .word d.toNat, uses := [(1, .dstW, d.toNat), (2, .srcW, a.toNat)] }
  | .fnegF32 _ a d n p => { guard := ⟨p, n⟩, push := .word d.toNat, uses := [(1, .dstW, d.toNat), (2, .srcW, a.toNat)] }
  | .fabsF64 _ a d n p => { guard := ⟨p, n⟩, push := .pair d.toNat, uses := [(1, .dstD, d.toNat), (2, .srcD, a.toNat)] }
  | .fnegF64 _ a d n p => { guard := ⟨p, n⟩, push := .pair d.toNat, uses := [(1, .dstD, d.toNat), (2, .srcD, a.toNat)] }
  | .fclassF32 _ a d n p => { guard := ⟨p, n⟩, push := .word d.toNat, uses := [(1, .dstW, d.toNat), (2, .srcW, a.toNat)] }
  | .fclassF64 _ a d n p => { guard := ⟨p, n⟩, push := .word d.toNat, uses := [(1, .dstW, d.toNat), (2, .srcD, a.toNat)] }
  | .fsqrtF64 _ a d n p => { guard := ⟨p, n⟩, push := .pair d.toNat, uses := [(1, .dstD, d.toNat), (2, .srcD, a.toNat)] }
  | .fscale v b a d n p => { guard := ⟨p, n⟩, push := if v = 0 then .word d.toNat else .pair d.toNat, uses := [(1, dstBy v, d.toNat), (2, srcBy v, a.toNat), (3, .srcW, b.toNat)] }
  | .cvtf _ u a d n p => { guard := ⟨p, n⟩, push := if u = 0 then .pair d.toNat else .word d.toNat, uses := [(1, if u = 0 then .dstD else .dstW, d.toNat), (2, if u = 1 then .srcD else .srcW, a.toNat)] }
  | .cvti _ u a d n p => { guard := ⟨p, n⟩, push := if u = 4 ∨ u = 6 ∨ u = 7 then .pair d.toNat else .word d.toNat, uses := [(1, if u = 4 ∨ u = 6 ∨ u = 7 then .dstD else .dstW, d.toNat), (2, if u = 5 ∨ u = 6 ∨ u = 7 then .srcD else .srcW, a.toNat)] }
  | .qnt _ b a d n p => { guard := ⟨p, n⟩, push := .word d.toNat, uses := [(1, .dstW, d.toNat), (1, .srcW, d.toNat), (2, .srcW, a.toNat), (3, .srcW, b.toNat)] }
  | .dqnt _ b a d n p => { guard := ⟨p, n⟩, push := .word d.toNat, uses := [(1, .dstW, d.toNat), (2, .srcW, a.toNat), (3, .srcW, b.toNat)] }
  | .pack _ b a d n p => { guard := ⟨p, n⟩, push := .word d.toNat, uses := [(1, .dstW, d.toNat), (2, .srcW, a.toNat), (3, .srcW, b.toNat)] }
  | .unpk _ _ a d n p => { guard := ⟨p, n⟩, push := .word d.toNat, uses := [(1, .dstW, d.toNat), (2, .srcW, a.toNat)] }
  | .mxsc _ _ a d n p => { guard := ⟨p, n⟩, push := .word d.toNat, uses := [(1, .dstW, d.toNat), (2, .srcW, a.toNat)] }
  | .br _ n p => { guard := ⟨p, n⟩, stream := true }
  | .call _ n p => { guard := ⟨p, n⟩, push := .zeros 2, stream := true }
  | .jmp _ a n p => { guard := ⟨p, n⟩, uses := [(2, .srcD, a.toNat)], stream := true }
  | .callr _ a d n p => { guard := ⟨p, n⟩, push := .pair d.toNat, uses := [(1, .dstD, d.toNat), (2, .srcD, a.toNat)], stream := true }
  | .ret _ a n p => { guard := ⟨p, n⟩, uses := [(2, .srcD, a.toNat)], stream := true }
  | .reform n p => { guard := ⟨p, n⟩ }
  | .enrol _ n p => { guard := ⟨p, n⟩ }
  | .park _ n p => { guard := ⟨p, n⟩ }
  | .strike _ n p => { guard := ⟨p, n⟩ }
  | .exit n p => { guard := ⟨p, n⟩ }
  | .nop n p => { guard := ⟨p, n⟩ }
  | .safept _ _ _ n p => { guard := ⟨p, n⟩ }
  | .spawn _ a d n p => { guard := ⟨p, n⟩, uses := [(1, .four, d.toNat), (2, .srcD, a.toNat)] }
  | .bar _ n p => { guard := ⟨p, n⟩ }
  | .gbar _ n p => { guard := ⟨p, n⟩ }
  | .fenceIo n p => { guard := ⟨p, n⟩ }
  | .codepub a d n p => { guard := ⟨p, n⟩, uses := [(1, .srcW, d.toNat), (2, .even, a.toNat)], entry := true }
  | .isync n p => { guard := ⟨p, n⟩ }
  | .qxH _ a d n p => { guard := ⟨p, n⟩, push := .word d.toNat, uses := [(1, .dstW, d.toNat), (2, .srcW, a.toNat)] }
  | .qxV _ a d n p => { guard := ⟨p, n⟩, push := .word d.toNat, uses := [(1, .dstW, d.toNat), (2, .srcW, a.toNat)] }
  | .qxD _ a d n p => { guard := ⟨p, n⟩, push := .word d.toNat, uses := [(1, .dstW, d.toNat), (2, .srcW, a.toNat)] }
  | .qbc _ _ a d n p => { guard := ⟨p, n⟩, push := .word d.toNat, uses := [(1, .dstW, d.toNat), (2, .srcW, a.toNat)] }
  | .perm b a d n p => { guard := ⟨p, n⟩, push := .word d.toNat, uses := [(1, .dstW, d.toNat), (2, .srcW, a.toNat), (3, .srcW, b.toNat)] }
  | .shfl _ _ a d n p => { guard := ⟨p, n⟩, push := .word d.toNat, uses := [(1, .dstW, d.toNat), (2, .srcW, a.toNat)] }
  | .vote _ _ a d n p => { guard := ⟨p, n⟩, push := .word d.toNat, uses := [(1, .dstW, d.toNat), (2, .srcW, a.toNat)] }
  | .cred _ _ a d n p => { guard := ⟨p, n⟩, push := .word d.toNat, uses := [(1, .dstW, d.toNat), (2, .srcW, a.toNat)] }
  | .credf _ u a d n p => { guard := ⟨p, n⟩, push := if 3 ≤ u then .pair d.toNat else .word d.toNat, uses := [(1, if 3 ≤ u then .dstD else .dstW, d.toNat), (2, if 3 ≤ u then .srcD else .srcW, a.toNat)] }
  | .cscan _ _ a d n p => { guard := ⟨p, n⟩, push := .word d.toNat, uses := [(1, .dstW, d.toNat), (2, .srcW, a.toNat)] }
  | .blut _ _ a d n p => { guard := ⟨p, n⟩, push := .word d.toNat, uses := [(1, .dstW, d.toNat), (2, .srcW, a.toNat)] }
  | .kadd w b a d n p => { guard := ⟨p, n⟩, uses := [(1, kBy w, d.toNat), (2, kBy w, a.toNat), (3, kBy w, b.toNat)] }
  | .ksub w b a d n p => { guard := ⟨p, n⟩, uses := [(1, kBy w, d.toNat), (2, kBy w, a.toNat), (3, kBy w, b.toNat)] }
  | .kaddi _ _ _ n p => { guard := ⟨p, n⟩ }
  | .kmovi _ _ n p => { guard := ⟨p, n⟩ }
  | .kmovh _ _ n p => { guard := ⟨p, n⟩ }
  | .kld _ _ _ w k n p => { guard := ⟨p, n⟩, uses := [(4, kBy w, k.toNat)], entry := true }
  | .kst _ _ _ w k n p => { guard := ⟨p, n⟩, uses := [(4, kBy w, k.toNat)], entry := true }
  | .kfirst _ a _ n p => { guard := ⟨p, n⟩, uses := [(2, .srcW, a.toNat)] }
  | .ldB _ _ o d n p => { guard := ⟨p, n⟩, push := .word d.toNat, uses := [(4, .dstW, d.toNat), (5, .srcW, o.toNat)], load := true, entry := true }
  | .ldH _ _ o d n p => { guard := ⟨p, n⟩, push := .word d.toNat, uses := [(4, .dstW, d.toNat), (5, .srcW, o.toNat)], load := true, entry := true }
  | .ldW _ _ o d n p => { guard := ⟨p, n⟩, push := .word d.toNat, uses := [(4, .dstW, d.toNat), (5, .srcW, o.toNat)], load := true, entry := true }
  | .ldD _ _ o d n p => { guard := ⟨p, n⟩, push := .pair d.toNat, uses := [(4, .dstD, d.toNat), (5, .srcW, o.toNat)], load := true, entry := true }
  | .ldQ _ _ o d n p => { guard := ⟨p, n⟩, push := .quad (4 * d.toNat), uses := [(4, .quad, (4 * d.toNat)), (5, .srcW, o.toNat)], load := true, entry := true }
  | .stB _ _ o d n p => { guard := ⟨p, n⟩, uses := [(4, .srcW, d.toNat), (5, .srcW, o.toNat)], entry := true }
  | .stH _ _ o d n p => { guard := ⟨p, n⟩, uses := [(4, .srcW, d.toNat), (5, .srcW, o.toNat)], entry := true }
  | .stW _ _ o d n p => { guard := ⟨p, n⟩, uses := [(4, .srcW, d.toNat), (5, .srcW, o.toNat)], entry := true }
  | .stD _ _ o d n p => { guard := ⟨p, n⟩, uses := [(4, .srcD, d.toNat), (5, .srcW, o.toNat)], entry := true }
  | .stQ _ _ o d n p => { guard := ⟨p, n⟩, uses := [(4, .quad, (4 * d.toNat)), (5, .srcW, o.toNat)], entry := true }
  | .ldf _ _ _ o d n p => { guard := ⟨p, n⟩, push := .word d.toNat, uses := [(4, .dstW, d.toNat), (5, .srcW, o.toNat)], entry := true }
  | .ldfk _ _ _ o d n p => { guard := ⟨p, n⟩, push := .word d.toNat, uses := [(4, .dstW, d.toNat), (5, .srcW, o.toNat)], entry := true }
  | .ste _ _ _ o d n p => { guard := ⟨p, n⟩, uses := [(4, .srcW, d.toNat), (5, .srcW, o.toNat)], entry := true }
  | .stf _ _ _ o d n p => { guard := ⟨p, n⟩, uses := [(4, .srcW, d.toNat), (5, .srcW, o.toNat)], entry := true }
  | .sete _ _ _ o n p => { guard := ⟨p, n⟩, uses := [(5, .srcW, o.toNat)], entry := true }
  | .waitv _ _ _ o d n p => { guard := ⟨p, n⟩, push := .word d.toNat, uses := [(4, .dstW, d.toNat), (5, .srcW, o.toNat)], entry := true }
  | .atomIntW _ _ _ a d n p => { guard := ⟨p, n⟩, push := .word d.toNat, uses := [(1, .dstW, d.toNat), (1, .srcW, d.toNat), (2, .even, (2 * a.toNat))], entry := true }
  | .atomIntD _ _ _ a d n p => { guard := ⟨p, n⟩, push := .pair d.toNat, uses := [(1, .dstD, d.toNat), (1, .srcD, d.toNat), (2, .even, (2 * a.toNat))], entry := true }
  | .atomSwap _ _ w a d n p => { guard := ⟨p, n⟩, push := if w = 0 then .word d.toNat else .pair d.toNat, uses := [(1, dstBy w, d.toNat), (1, srcBy w, d.toNat), (2, .even, (2 * a.toNat))], entry := true }
  | .atomCas _ _ w a d n p => { guard := ⟨p, n⟩, push := if w = 0 then .word d.toNat else .pair d.toNat, uses := [(1, if w = 0 then .even else .quad, d.toNat), (2, .even, (2 * a.toNat))], entry := true }
  | .atomFadd _ _ w a d n p => { guard := ⟨p, n⟩, push := if w = 0 then .word d.toNat else .pair d.toNat, uses := [(1, dstBy w, d.toNat), (1, srcBy w, d.toNat), (2, .even, (2 * a.toNat))], entry := true }
  | .atomFminF32 _ _ a d n p => { guard := ⟨p, n⟩, push := .word d.toNat, uses := [(1, .dstW, d.toNat), (1, .srcW, d.toNat), (2, .even, (2 * a.toNat))], entry := true }
  | .atomFmaxF32 _ _ a d n p => { guard := ⟨p, n⟩, push := .word d.toNat, uses := [(1, .dstW, d.toNat), (1, .srcW, d.toNat), (2, .even, (2 * a.toNat))], entry := true }
  | .redIntW _ _ _ a d n p => { guard := ⟨p, n⟩, uses := [(1, .redW, d.toNat), (2, .even, (2 * a.toNat))], entry := true }
  | .redIntD _ _ _ a d n p => { guard := ⟨p, n⟩, uses := [(1, .redD, d.toNat), (2, .even, (2 * a.toNat))], entry := true }
  | .redFloat _ _ u a d n p => { guard := ⟨p, n⟩, uses := [(1, if u = 1 ∨ 4 ≤ u then .redD else .redW, d.toNat), (2, .even, (2 * a.toNat))], entry := true }
  | .capld _ _ o _ n p => { guard := ⟨p, n⟩, uses := [(5, .srcW, o.toNat)], entry := true }
  | .capst _ _ o _ n p => { guard := ⟨p, n⟩, uses := [(5, .srcW, o.toNat)], entry := true }
  | .xset _ a _ n p => { guard := ⟨p, n⟩, uses := [(2, .srcD, a.toNat)] }
  | .xget _ _ d n p => { guard := ⟨p, n⟩, push := .pair d.toNat, uses := [(1, .dstD, d.toNat)] }
  | .xstep _ a _ n p => { guard := ⟨p, n⟩, uses := [(2, .srcW, a.toNat)] }
  | .xcur _ a _ n p => { guard := ⟨p, n⟩, uses := [(2, .srcW, a.toNat)] }
  | .putreg v _ a t n p => { guard := ⟨p, n⟩, uses := [(1, putTo v, t.toNat), (2, srcBy v, a.toNat)], entry := true }
  | .hold _ d n p => { guard := ⟨p, n⟩, uses := [(1, .named, d.toNat)] }
  | .gname _ _ n p => { guard := ⟨p, n⟩ }
  | .sjoin _ a n p => { guard := ⟨p, n⟩, uses := [(2, .srcW, a.toNat)] }
  | .sleave _ a n p => { guard := ⟨p, n⟩, uses := [(2, .srcW, a.toNat)] }
  | .smap _ a _ n p => { guard := ⟨p, n⟩, uses := [(2, .even, (2 * a.toNat))] }
  | .ldc w _ _ o d n p => { guard := ⟨p, n⟩, push := if w = 4 then .quad d.toNat else if w = 3 then .pair d.toNat else .word d.toNat, uses := [(4, if w = 4 then .quad else if w = 3 then .dstD else .dstW, d.toNat), (5, .srcW, o.toNat)], load := true, entry := true }
  | .stc w _ _ o d n p => { guard := ⟨p, n⟩, uses := [(4, if w = 4 then .quad else if w = 3 then .srcD else .srcW, d.toNat), (5, .srcW, o.toNat)], entry := true }
  | .amoc _ _ o d n p => { guard := ⟨p, n⟩, push := .word d.toNat, uses := [(1, .dstW, d.toNat), (1, .srcW, d.toNat), (2, .srcW, o.toNat)], entry := true }
  | .amocRed _ _ o d n p => { guard := ⟨p, n⟩, uses := [(1, .srcW, d.toNat), (2, .srcW, o.toNat)], entry := true }
  | .capsetA _ a _ _ n p => { guard := ⟨p, n⟩, uses := [(2, .srcD, a.toNat)] }
  | .capsetB _ a _ _ n p => { guard := ⟨p, n⟩, uses := [(2, .srcD, a.toNat)] }
  | .capsetP _ a _ _ n p => { guard := ⟨p, n⟩, uses := [(2, .srcW, a.toNat)] }
  | .capsetSeal _ _ _ n p => { guard := ⟨p, n⟩ }
  | .caprd _ a _ k n p => { guard := ⟨p, n⟩, push := if k = 4 then .word a.toNat else .pair a.toNat, uses := [(2, if k = 4 then .dstW else .dstD, a.toNat)] }
  | .chdef _ a _ n p => { guard := ⟨p, n⟩, uses := [(2, .srcD, a.toNat)] }
  | .chpush _ a _ n p => { guard := ⟨p, n⟩, uses := [(2, .srcW, a.toNat)] }
  | .chtake _ _ n p => { guard := ⟨p, n⟩, push := .zeros 1 }
  | .copy _ a _ _ n p => { guard := ⟨p, n⟩, uses := [(2, .even, a.toNat)] }
  | .retile _ a _ n p => { guard := ⟨p, n⟩, uses := [(2, .even, a.toNat)] }
  | .gath _ a _ n p => { guard := ⟨p, n⟩, uses := [(2, .even, a.toNat)] }
  | .chain _ a _ n p => { guard := ⟨p, n⟩, uses := [(2, .even, a.toNat)] }
  | .coll _ a _ n p => { guard := ⟨p, n⟩, uses := [(2, .even, a.toNat)] }
  | .wopen _ a d n p => { guard := ⟨p, n⟩, push := .word d.toNat, uses := [(1, .dstW, d.toNat), (2, .even, a.toNat)], entry := true }
  | .wfinal _ a n p => { guard := ⟨p, n⟩, uses := [(2, .srcW, a.toNat)], entry := true }
  | .bkload _ a d n p => { guard := ⟨p, n⟩, push := .word d.toNat, uses := [(1, .dstW, d.toNat), (2, .even, a.toNat)], entry := true }
  | .bkvec _ a d n p => { guard := ⟨p, n⟩, uses := [(1, .srcW, d.toNat), (2, .even, a.toNat)], entry := true }
  | .bkrun _ a d n p => { guard := ⟨p, n⟩, uses := [(1, .srcW, d.toNat), (2, .even, a.toNat)], entry := true }
  | .bkdrain _ a d n p => { guard := ⟨p, n⟩, uses := [(1, .srcW, d.toNat), (2, .even, a.toNat)], entry := true }
  | .ownb _ a d n p => { guard := ⟨p, n⟩, uses := [(1, .srcW, d.toNat), (2, .even, a.toNat)], entry := true }
  | .ownc _ a d n p => { guard := ⟨p, n⟩, uses := [(1, .srcW, d.toNat), (2, .even, a.toNat)], entry := true }
  | .mres s _ n => { guard := ⟨15, n⟩, uses := [(2, .srcW, s.toNat)], stream := true, bad := some 8 }
  | .mrel _ n => { guard := ⟨15, n⟩, stream := true, bad := some 8 }
  | .mload s _ n => { guard := ⟨15, n⟩, uses := [(2, .srcW, s.toNat)], stream := true, bad := some 8 }
  | .mchin s _ n => { guard := ⟨15, n⟩, uses := [(2, .srcW, s.toNat)], stream := true, bad := some 8 }
  | .mma _ _ _ _ n => { guard := ⟨15, n⟩, stream := true, bad := some 8 }
  | .mzero _ n => { guard := ⟨15, n⟩, stream := true, bad := some 8 }
  | .mout s _ n => { guard := ⟨15, n⟩, uses := [(2, .srcW, s.toNat)], stream := true, bad := some 8 }
  | .mstore s _ n => { guard := ⟨15, n⟩, uses := [(2, .srcW, s.toNat)], stream := true, bad := some 8 }
  | .trap _ n p => { guard := ⟨p, n⟩ }
  | .tret n p => { guard := ⟨p, n⟩ }
  | .tretNext n p => { guard := ⟨p, n⟩ }
  | .brk _ n p => { guard := ⟨p, n⟩ }
  | .ticket a d n p => { guard := ⟨p, n⟩, push := .pair d.toNat, uses := [(1, .dstD, d.toNat), (2, .even, (2 * a.toNat))], entry := true }
  | .mfs k d n p => { guard := ⟨p, n⟩, push := if wideSelector k then .pair d.toNat else .word d.toNat, uses := [(1, if wideSelector k then .dstD else .dstW, d.toNat)], stream := true, bad := if mfsSelector k then none else some 9 }
  | .mts k a n p => { guard := ⟨p, n⟩, uses := [(2, if k = 6 then .srcD else .srcW, a.toNat)], stream := true, bad := if k = 4 ∨ k = 5 ∨ k = 6 then none else some 9 }
  | .add16 b d => { push := .word d.toNat, uses := [(1, .dstW, d.toNat), (1, .srcW, d.toNat), (3, .srcW, (short b))] }
  | .sub16 b d => { push := .word d.toNat, uses := [(1, .dstW, d.toNat), (1, .srcW, d.toNat), (3, .srcW, (short b))] }
  | .mul16 b d => { push := .word d.toNat, uses := [(1, .dstW, d.toNat), (1, .srcW, d.toNat), (3, .srcW, (short b))] }
  | .and16 b d => { push := .word d.toNat, uses := [(1, .dstW, d.toNat), (1, .srcW, d.toNat), (3, .srcW, (short b))] }
  | .or16 b d => { push := .word d.toNat, uses := [(1, .dstW, d.toNat), (1, .srcW, d.toNat), (3, .srcW, (short b))] }
  | .xor16 b d => { push := .word d.toNat, uses := [(1, .dstW, d.toNat), (1, .srcW, d.toNat), (3, .srcW, (short b))] }
  | .shl16 b d => { push := .word d.toNat, uses := [(1, .dstW, d.toNat), (1, .srcW, d.toNat), (3, .srcW, (short b))] }
  | .shr16 b d => { push := .word d.toNat, uses := [(1, .dstW, d.toNat), (1, .srcW, d.toNat), (3, .srcW, (short b))] }
  | .sra16 b d => { push := .word d.toNat, uses := [(1, .dstW, d.toNat), (1, .srcW, d.toNat), (3, .srcW, (short b))] }
  | .mov16 b d => { push := .word d.toNat, uses := [(1, .dstW, d.toNat), (3, .srcW, (short b))] }
  | .min16 b d => { push := .word d.toNat, uses := [(1, .dstW, d.toNat), (1, .srcW, d.toNat), (3, .srcW, (short b))] }
  | .max16 b d => { push := .word d.toNat, uses := [(1, .dstW, d.toNat), (1, .srcW, d.toNat), (3, .srcW, (short b))] }
  | .fadd16 b d => { push := .word d.toNat, uses := [(1, .dstW, d.toNat), (1, .srcW, d.toNat), (3, .srcW, (short b))] }
  | .fmul16 b d => { push := .word d.toNat, uses := [(1, .dstW, d.toNat), (1, .srcW, d.toNat), (3, .srcW, (short b))] }
  | .fmad16 b d => { push := .word d.toNat, uses := [(1, .dstW, d.toNat), (1, .srcW, d.toNat), (3, .srcW, (short b))] }
  | .fmax16 b d => { push := .word d.toNat, uses := [(1, .dstW, d.toNat), (1, .srcW, d.toNat), (3, .srcW, (short b))] }
  | _ => {}

/-! ## Array uses -/

/-- The index register xi of the lane. -/
def Thread.xreg (t : Thread) (i : Nat) : IndexReg := mget {} t.x i

/-- The cursor moved by one step (R54). -/
def IndexReg.stepped (x : IndexReg) : BitVec 12 := x.cursor + sext 12 x.step

/-- The cursor moved by one step within the window of a ring (R54). -/
def IndexReg.ringStepped (x : IndexReg) : BitVec 12 :=
  BitVec.ofInt 12 ((x.cursor.toNat + x.step.toInt) % x.bound.toNat)

/-- One use of [xi] for one or two words (R54): the first word's index; the index register is stepped. -/
def arrayUse (c : Ctx) (i words : Nat) : LaneM Nat := do
  let t ← me c
  let x := t.xreg i
  if x.mode = 3 then trap 0x0E (i + 8) 0 (BitVec.ofNat 64 (x.base.toNat + x.cursor.toNat))
  let cur := if x.mode = 1 then x.stepped.toNat else x.cursor.toNat
  let fails := fun (k : Nat) => decide (x.bound.toNat ≤ k ∨ c.a ≤ x.base.toNat + k)
  if fails cur then trap 0x0E i 0 (BitVec.ofNat 64 (x.base.toNat + cur))
  if words = 2 && fails (cur + 1) then trap 0x0E i 0 (BitVec.ofNat 64 (x.base.toNat + cur + 1))
  let next := if x.mode = 0 || x.mode = 1 then x.stepped else x.ringStepped
  modMe c fun t => { t with x := mset t.x i { x with cursor := next } }
  pure (x.base.toNat + cur)

/-! ## Sources -/

/-- A read of, or a write to, a held register waits for a put (R51, R273); a helper lane does not wait. -/
def awaitHold (c : Ctx) (t : Thread) (r : Nat) : LaneM Unit :=
  if t.held r && !c.helper then stop (.wait { kind := .heldReg, key := r }) else pure ()

/-- Read a 32-bit source (R172, R190). -/
def src (c : Ctx) (f : Nat) : LaneM Word := do
  let t ← me c
  if f < 32 then do
    awaitHold c t f
    pure (t.reg f)
  else if f < 48 then pure (t.qval (f - 31))
  else if f < 56 then do
    let w ← arrayUse c (f - 48) 1
    pure (t.word w)
  else do
    let cr ← myCrew c
    pure (mget 0 cr.k (f - 56))

/-- Read a 64-bit source (R173). -/
def srcD (c : Ctx) (f : Nat) : LaneM DWord := do
  let t ← me c
  if f < 32 then do
    awaitHold c t f
    awaitHold c t (f + 1)
    pure (DWord.mk (t.reg (f + 1)) (t.reg f))
  else if f < 48 then pure (DWord.mk (t.qval (f - 31)) (t.qval (f - 30)))
  else if f < 56 then do
    let w ← arrayUse c (f - 48) 2
    pure (DWord.mk (t.word (w + 1)) (t.word w))
  else do
    let cr ← myCrew c
    pure (DWord.mk (mget 0 cr.k (f - 55)) (mget 0 cr.k (f - 56)))

/-- Read a source whose variant bit chooses 32 or 64 bits; a 32-bit value stands in the low word. -/
def srcV (c : Ctx) (v : BitVec 1) (f : Nat) : LaneM DWord := do
  if v = 0 then do
    let x ← src c f
    pure (x.setWidth 64)
  else srcD c f

/-- Read four named registers (R173). -/
def srcQ (c : Ctx) (f : Nat) : LaneM (List Word) := do
  let t ← me c
  awaitHold c t f
  awaitHold c t (f + 1)
  awaitHold c t (f + 2)
  awaitHold c t (f + 3)
  pure [t.reg f, t.reg (f + 1), t.reg (f + 2), t.reg (f + 3)]

/-! ## Destinations -/

/-- Where a result goes besides the queue. -/
inductive Place_ where
  | queue
  | named (r : Nat)
  | array (w : Nat)
deriving DecidableEq, Repr

/-- The destination use of a specifier for `words` words: the wait for a hold and the array step come before anything is written. -/
def dst (c : Ctx) (f words : Nat) : LaneM Place_ := do
  if f < 32 then do
    let t ← me c
    awaitHold c t f
    if words = 2 then awaitHold c t (f + 1)
    pure (.named f)
  else if f < 48 then pure .queue
  else do
    let w ← arrayUse c (f - 48) words
    pure (.array w)

/-- Store a word at a place. -/
def Thread.store (t : Thread) (p : Place_) (i : Nat) (x : Word) : Thread :=
  match p with
  | .queue => t
  | .named r => t.setReg (r + i) x
  | .array w => { t with arr := mset t.arr (w + i) x }

/-- Write a 32-bit result and push it (R48). -/
def put (c : Ctx) (p : Place_) (x : Word) : LaneM Unit := modMe c fun t => (t.store p 0 x).push x

/-- Write a 64-bit result and push it, bits [31:0] first (R48, R173). -/
def putD (c : Ctx) (p : Place_) (x : DWord) : LaneM Unit := modMe c fun t => ((t.store p 0 x.lo).store p 1 x.hi).push2 x

/-- Write a result whose variant bit chooses 32 or 64 bits. -/
def putV (c : Ctx) (v : BitVec 1) (p : Place_) (x : DWord) : LaneM Unit := if v = 0 then put c p x.lo else putD c p x

/-- The destination use of a specifier whose variant bit chooses 32 or 64 bits. -/
def dstV (c : Ctx) (v : BitVec 1) (f : Nat) : LaneM Place_ := dst c f (if v = 0 then 1 else 2)

/-! ## Lanes that do not execute -/

/-- What a lane pushes whose guard fails (R49): its named destination's value, or zero. -/
def Thread.idlePush (t : Thread) (p : Push) : Thread :=
  let value := fun (d : Nat) => if d < 32 then t.reg d else 0
  match p with
  | .none => t
  | .word d => t.push (value d)
  | .pair d => if d < 32 then (t.push (t.reg d)).push (t.reg (d + 1)) else (t.push 0).push 0
  | .quad d => (((t.push (t.reg d)).push (t.reg (d + 1))).push (t.reg (d + 2))).push (t.reg (d + 3))
  | .zeros 0 => t
  | .zeros 1 => t.push 0
  | .zeros _ => (t.push 0).push 0

/-- What a helper lane pushes whose use faults (R393): zero for each result. -/
def Thread.zeroPush (t : Thread) (p : Push) : Thread := { t with q := (List.replicate p.count 0 ++ t.q).take 16 }

/-- A helper lane's suppressed or faulting instruction that returns a value writes zero to its destination and pushes zero (R248, R393); an
array destination that cannot be reached is left. -/
def writeZero (c : Ctx) (p : Push) : LaneM Unit := do
  match p with
  | .none => pure ()
  | .word d => do
    let pl ← dst c d 1
    put c pl 0
  | .pair d => do
    let pl ← dst c d 2
    putD c pl 0
  | .quad d => do
    modMe c fun t => ((((t.setReg d 0).setReg (d + 1) 0).setReg (d + 2) 0).setReg (d + 3) 0).zeroPush p
  | .zeros _ => modMe c fun t => t.zeroPush p

/-! ## Running an instruction -/

/-- What an executing lane reports beside its effect: a cause taken after the instruction, with DETAIL (R394, R408). -/
abbrev After := Option (Nat × Nat)

/-- The first operand field that names no legal operand (R402). -/
def Shape.refusal (sh : Shape) (n : Nat) : Option (Nat × Nat × Nat) :=
  match sh.bad with
  | some sub => some (1, sub, 0)
  | none =>
    match sh.uses.find? fun u => !u.2.1.ok n u.2.2 with
    | some u => some (2, u.1, u.2.2)
    | none => none

/-- The named registers that an instruction reads. -/
def Shape.reads (sh : Shape) : List Nat :=
  (sh.uses.flatMap fun u =>
    match u.2.1 with
    | .srcW | .redW => [u.2.2]
    | .srcD | .redD | .even => [u.2.2, u.2.2 + 1]
    | .four | .quad => if sh.load then [] else (List.range 4).map (u.2.2 + ·)
    | _ => []).filter (· < 32)

/-- A wait on a held register names the registers that the instruction reads: the lane joins a put into any of them (R115). -/
def Shape.joining (sh : Shape) : Stop → Stop
  | .wait w => .wait (if w.kind = .heldReg then { w with old := sh.reads.foldl (fun m r => m ||| 2 ^ r) 0 } else w)
  | e => e

/-- Whether a lane executes an instruction issued to it (R189): a helper always, another where its guard passes. -/
def executes (sh : Shape) (s : State) (crew lane : Nat) : Bool :=
  (s.thread crew lane).gone || sh.guard.passes (s.crew crew) lane

/-- The state with the lane moved past the instruction. -/
def State.past (s : State) (c : Ctx) : State := s.modThread c.crew c.lane fun t => t.advance c.next

/-- What happens in one lane that an instruction is issued to (R189, R248, R392, R393, R402). -/
def runLane (sh : Shape) (body : Ctx → LaneM After) (i : Issue) (s : State) (crew lane : Nat) : State :=
  if (mfind s.crews crew).isNone then s
  else
    let c := s.ctxOf i crew lane
    let word := BitVec.ofNat 64 i.word
    match sh.refusal c.n with
    | some (code, sub, detail) =>
      if c.helper then s.past c else (s.stopLane c (.trap code sub detail word false)).afterInstr c
    | none =>
      if !executes sh s crew lane then
        ((s.past c).modThread crew lane fun t => t.idlePush sh.push).afterInstr c
      else
        match body c ((s.past c).modThread crew lane Thread.countStep) with
        | .ok (after, s') =>
          let s' := match after with
            | some (code, detail) => if c.helper then s' else s'.takeTrap c code 0 detail c.next 0
            | none => s'
          s'.afterInstr c
        | .error e =>
          if c.helper then
            let zero := fun (s : State) => s.modThread crew lane fun t => t.zeroPush sh.push
            match e with
            | .trap 0x0E _ _ _ _ => zero (s.past c)
            | .trap _ _ _ _ _ | .poisoned _ =>
              if sh.load then
                match writeZero c sh.push (s.past c) with
                | .ok (_, s') => s'
                | .error _ => zero (s.past c)
              else zero (s.past c)
            | .wait w => if w.refile then s else s.stopLane c e
            | e => s.stopLane c (sh.joining e)
          else
            match e with
            | .trap _ _ _ _ _ => (s.stopLane c e).afterInstr c
            | e => s.stopLane c (sh.joining e)

/-- Run an instruction in every lane it is issued to. -/
def runAll (sh : Shape) (body : Ctx → LaneM After) (s : State) (i : Issue) : State :=
  (overLanes i (runLane sh body i) s).holdPeers i fun crew lane => executes sh s crew lane && !(s.thread crew lane).gone

/-- Run an instruction in every lane it is issued to; a memory instruction takes an entry of the core's table for each crew (R122). -/
def runLanes (sh : Shape) (body : Ctx → LaneM After) (s : State) (i : Issue) : State :=
  if sh.entry then
    let (run, wait) := s.enterTable i i.parts (s.entries i.core).length
    ((runAll sh body s { i with parts := run }).keepEntries i run).awaitEntry i wait
  else runAll sh body s i

/-! ## The tile-sequencer stream -/

/-- The launch whose stream a cluster runs. -/
def State.streamLaunch (s : State) (cl : Nat) : Nat :=
  match (s.cluster cl).gang with
  | some k => (s.gang k).launch
  | none => 0

/-- A trap in a stream terminates the launch (R403). -/
def State.streamTrap (s : State) (cl code : Nat) : State := s.terminate (s.streamLaunch cl) (0x100 + code)

/-- Whether the stream may execute the instruction (R178, R402, R403): its major, its guard selector, and its operand fields s0 to s15. -/
def Shape.streamRefusal (sh : Shape) (free : Bool) : Option Nat :=
  if !sh.stream then some 1
  else if sh.guard.sel ≠ 15 then some 1
  else if !free && sh.uses.any fun u => decide (16 ≤ u.2.2) then some 2
  else none

/-- Run a stream instruction that changes the cluster and goes on at the next one. -/
def streamStep (sh : Shape) (s : State) (cl : Nat) (pc : DWord) (f : Cluster → Cluster) : State :=
  match sh.streamRefusal false with
  | some code => s.streamTrap cl code
  | none => s.modCluster cl fun k => { f k with pc := pc + 4 }

/-- A sequencer scalar (R61). -/
def Cluster.sreg (k : Cluster) (f : Nat) : DWord := mget 0 k.s f

/-- Replace a sequencer scalar. -/
def Cluster.setS (k : Cluster) (f : Nat) (x : DWord) : Cluster := { k with s := mset k.s f x }

/-- Write the result of an integer instruction, which sets NZ (R293). -/
def Cluster.result (k : Cluster) (f : Nat) (x : DWord) : Cluster := { k.setS f x with nz := x != 0 }

/-- An instruction that lanes execute, and that ends the launch where a stream holds it (R178, R403). -/
def onThreads (sh : Shape) (body : Ctx → LaneM After) (s : State) : Res :=
  match s.unit with
  | .lanes i => .next (runLanes sh body s i)
  | .stream cl _ _ => .next (s.streamTrap cl 1)
  | _ => .next s

/-- An instruction that lanes and streams execute (R178, R202). -/
def onBoth (sh : Shape) (body : Ctx → LaneM After) (f : Cluster → Cluster) (s : State) : Res :=
  match s.unit with
  | .lanes i => .next (runLanes sh body s i)
  | .stream cl pc _ => .next (streamStep sh s cl pc f)
  | _ => .next s

/-- A lane computation that raises nothing after the instruction. -/
def quietly (body : Ctx → LaneM Unit) (c : Ctx) : LaneM After := do
  body c
  pure none

/-! ## Flags and rounding in a lane -/

/-- Raise flags into the lane's FPSTAT and report the enabled ones, which trap after the instruction (R226, R408). -/
def raise (c : Ctx) (f : Flags) : LaneM After := do
  let t ← me c
  modMe c fun t => { t with fpstat := t.fpstat ||| f.setWidth 32 }
  let on := f &&& t.trapen
  pure (if on = 0 then none else some (0x0F, on.toNat))

/-- Draw for one rounding of the lane: the generator steps under mode 4 only (R224). -/
def draw (c : Ctx) (mode : Nat) : LaneM Nat := do
  if mode = 4 then do
    modMe c fun t => { t with seed := stepSeed t.seed }
    let t ← me c
    pure (seedDraw t.seed)
  else pure 0

end Sys2Proof.Machine
end

