-- ==== Sys2Proof/Machine/Barrier.lean ====
section
/-! DEFINITION. The barrier instances of a group and of a gang (R113, R262): arrivals, and departure when every participant has arrived or
exited. -/

namespace Sys2Proof.Machine

/-- The threads of some groups that take part in a barrier: neither exited nor helpers, as crew key and lane (R113). -/
def State.participants (s : State) (groups : List Nat) : List (Nat × Nat) :=
  (groups.flatMap s.crewsOf).flatMap fun ck => (lanes32.filter fun l => !(s.thread ck l).gone).map fun l => (ck, l)

/-- Whether a lane waits at a barrier of the given kind. -/
def Thread.atBarrier (t : Thread) (k : WaitKind) : Bool :=
  match t.st with
  | .waiting w => w.kind == k
  | _ => false

/-- Release the lanes that wait at a barrier: their program time becomes the largest arrival timestamp (R113). -/
def State.depart (s : State) (k : WaitKind) (time : Nat) (who : List (Nat × Nat)) : State :=
  who.foldl (fun s e =>
    if (s.thread e.1 e.2).atBarrier k then (s.modThread e.1 e.2 fun t => { t with time := time }).wake e.1 e.2 else s) s

/-- The check of a group barrier: its instance completes when every participant has made its arrival (R262). -/
def State.checkBar (s : State) (gk : Nat) : State :=
  let g := s.group gk
  let who := s.participants [gk]
  if !who.isEmpty && who.all fun e => decide (g.barInst < (s.thread e.1 e.2).barCount) then
    (s.depart .bar g.barMax who).modGroup gk fun g => { g with barInst := g.barInst + 1, barMax := 0 }
  else s

/-- The groups of a gang that have not retired. -/
def State.groupsOf (s : State) (gang : Nat) : List Nat := mkeys s.groups fun _ g => g.gang == some gang

/-- The check of a gang barrier (R262). -/
def State.checkGbar (s : State) (gang : Nat) : State :=
  let g := s.gang gang
  let who := s.participants (s.groupsOf gang)
  if !who.isEmpty && who.all fun e => decide (g.gbarInst < (s.thread e.1 e.2).gbarCount) then
    (s.depart .gbar g.gbarMax who).modGang gang fun g => { g with gbarInst := g.gbarInst + 1, gbarMax := 0 }
  else s

/-- The checks of the barriers that a group takes part in. -/
def State.checkBarriers (s : State) (gk : Nat) : State :=
  let s := s.checkBar gk
  match (s.group gk).gang with
  | some k => s.checkGbar k
  | none => s

/-- A lane arrives at a barrier: a read-modify-write on the instance (R108, R113), after which it waits. -/
def Thread.arrive (t : Thread) (k : WaitKind) (inst ts since : Nat) : Thread :=
  { t with time := ts, st := .waiting { kind := k, key := inst, since := since } }

/-- Arrival at the group barrier. -/
def State.arriveBar (s : State) (c : Ctx) : State :=
  let t := s.thread c.crew c.lane
  let ts := max t.time ((s.group c.group).barMax + 1)
  let s := s.modThread c.crew c.lane fun t => { t.arrive .bar (t.barCount + 1) ts s.stamp with barCount := t.barCount + 1 }
  { s.modGroup c.group fun g => { g with barMax := ts } with stamp := s.stamp + 1 }

/-- Arrival at the gang barrier. -/
def State.arriveGbar (s : State) (c : Ctx) (gang : Nat) : State :=
  let t := s.thread c.crew c.lane
  let ts := max t.time ((s.gang gang).gbarMax + 1)
  let s := s.modThread c.crew c.lane fun t => { t.arrive .gbar (t.gbarCount + 1) ts s.stamp with gbarCount := t.gbarCount + 1 }
  { s.modGang gang fun g => { g with gbarMax := ts } with stamp := s.stamp + 1 }

/-- After an instruction: the crews of the issue check their rejoin masks (R35) and their groups' barriers (R207), and groups all of whose
lanes have exited retire (R20). -/
def State.settleCrews (s : State) (i : Issue) : State :=
  i.parts.foldl (fun s p =>
    if (mfind s.crews p.crew).isNone then s
    else
      let s := s.checkMasks p.crew
      let gk := (s.crew p.crew).group
      (s.checkBarriers gk).groupRetire gk) s

end Sys2Proof.Machine
end

