-- ==== Sys2Proof/Machine/Control.lean ====
section
/-! DEFINITION. Control transfer (R203 to R205, and R202, R293 in the stream), convergence and retirement (R206, R207), safe points (R209),
and the instructions by which a thread traps and returns (R399). -/

namespace Sys2Proof.Machine

/-- A branch target: the displacement counts parcels from the branch (R182). -/
def branchTarget (pc : DWord) (d : BitVec 19) : DWord := pc + (sext 64 d <<< 1)

/-- Go to an address. -/
def goTo (c : Ctx) (a : DWord) : LaneM Unit := modMe c fun t => { t with pc := a }

/-- A stream ends; its gang and launch may then be over (R20, R293). -/
def State.streamEnd (s : State) (cl : Nat) : State :=
  (s.modCluster cl fun k => { k with stream := .ended, pc := 0 }).gangOver cl

/-- A transfer in a stream: sense 0 always transfers, sense 1 where NZ is 1 (R293). `ends` says that a transfer to address 0 ends the
stream; `link` is the register that takes the return address (R202). -/
def streamJump (sh : Shape) (s : State) (cl : Nat) (pc : DWord) (target : Cluster → DWord) (link : Option Nat) (ends : Bool) : State :=
  match sh.streamRefusal false with
  | some code => s.streamTrap cl code
  | none =>
    let k := s.cluster cl
    if sh.guard.sense = 0 || k.nz then
      let t := target k
      if ends && t == 0 then s.streamEnd cl
      else
        s.modCluster cl fun k =>
          match link with
          | some r => { k.setS r (pc + 4) with pc := t }
          | none => { k with pc := t }
    else s.modCluster cl fun k => { k with pc := pc + 4 }

/-- A transfer of lanes or of a stream. -/
def transfer (i : Instr) (body : Ctx → LaneM Unit) (target : DWord → Cluster → DWord) (link : Option Nat) (ends : Bool) (s : State) : Res :=
  match s.unit with
  | .lanes x => .next (runLanes (shapeOf i) (quietly body) s x)
  | .stream cl pc _ => .next (streamJump (shapeOf i) s cl pc (target pc) link ends)
  | _ => .next s

/-- BR (R203). -/
def execBr (d : BitVec 19) (n : BitVec 1) (p : BitVec 4) (s : State) : Res :=
  transfer (.br d n p) (fun c => goTo c (branchTarget c.pc d)) (fun pc _ => branchTarget pc d) none false s

/-- CALL: the return address is pushed, bits [31:0] first (R204). -/
def execCall (d : BitVec 19) (n : BitVec 1) (p : BitVec 4) (s : State) : Res :=
  transfer (.call d n p)
    (fun c => modMe c fun t => { t.push2 (c.pc + 4) with pc := branchTarget c.pc d })
    (fun pc _ => branchTarget pc d) (some 15) false s

/-- JMP (R205). -/
def execJmp (l : BitVec 4) (a : BitVec 6) (n : BitVec 1) (p : BitVec 4) (s : State) : Res :=
  transfer (.jmp l a n p)
    (fun c => do
      let x ← srcD c a.toNat
      goTo c x)
    (fun _ k => k.sreg a.toNat) none true s

/-- CALLR (R204). -/
def execCallr (l : BitVec 4) (a d : BitVec 6) (n : BitVec 1) (p : BitVec 4) (s : State) : Res :=
  transfer (.callr l a d n p)
    (fun c => do
      let x ← srcD c a.toNat
      let pl ← dst c d.toNat 2
      putD c pl (c.pc + 4)
      goTo c x)
    (fun _ k => k.sreg a.toNat) (some d.toNat) false s

/-- RET (R205). -/
def execRet (l : BitVec 4) (a : BitVec 6) (n : BitVec 1) (p : BitVec 4) (s : State) : Res :=
  transfer (.ret l a n p)
    (fun c => do
      let x ← srcD c a.toNat
      goTo c x)
    (fun _ k => k.sreg a.toNat) none true s

/-! ## Convergence -/

/-- REFORM: the bundle ends, whatever the guards of its lanes (R206). -/
def execReform (n : BitVec 1) (p : BitVec 4) (s : State) : Res :=
  match s.unit with
  | .lanes i =>
    .next ((runLanes (shapeOf (.reform n p)) (quietly fun _ => pure ()) s i).modCore i.core fun k =>
      { k with pipes := mmap k.pipes fun q b => if q = i.pipe then { b with reform := true } else b })
  | .stream cl _ _ => .next (s.streamTrap cl 1)
  | _ => .next s

/-- Change the bit of an executing lane that is no helper in a rejoin mask (R35, R206). -/
def markMask (c : Ctx) (j : BitVec 2) (b : Bool) : LaneM Unit :=
  if c.helper then pure ()
  else
    modMyCrew c fun k =>
      let old := mget 0 k.j j.toNat
      { k with j := mset k.j j.toNat (if b then old ||| bitOf c.lane else old &&& ~~~bitOf c.lane) }

/-- An instruction after which the crews check their masks, barriers and lives. -/
def converge (i : Instr) (body : Ctx → LaneM Unit) (s : State) : Res :=
  match s.unit with
  | .lanes x => .next ((runLanes (shapeOf i) (quietly body) s x).settleCrews x)
  | .stream cl _ _ => .next (s.streamTrap cl 1)
  | _ => .next s

/-- ENROL (R35, R206). -/
def execEnrol (j : BitVec 2) (n : BitVec 1) (p : BitVec 4) (s : State) : Res :=
  converge (.enrol j n p) (fun c => markMask c j true) s

/-- STRIKE (R35, R206). -/
def execStrike (j : BitVec 2) (n : BitVec 1) (p : BitVec 4) (s : State) : Res :=
  converge (.strike j n p) (fun c => markMask c j false) s

/-- PARK: an executing lane that is enrolled parks; another continues (R35, R206). -/
def execPark (j : BitVec 2) (n : BitVec 1) (p : BitVec 4) (s : State) : Res :=
  converge (.park j n p)
    (fun c => do
      let k ← myCrew c
      if !c.helper && (mget 0 k.j j.toNat).getLsbD c.lane then modMe c fun t => { t with st := .parked j } else pure ()) s

/-- EXIT: the lane retires and its bit leaves every mask (R207). -/
def execExit (n : BitVec 1) (p : BitVec 4) (s : State) : Res :=
  converge (.exit n p)
    (fun c =>
      if c.helper then pure ()
      else do
        modMyCrew c fun k => { k with j := mmap k.j fun _ m => m &&& ~~~bitOf c.lane }
        modMe c fun t => { t with st := .exited }) s

/-- NOP (R206). -/
def execNop (n : BitVec 1) (p : BitVec 4) (s : State) : Res :=
  onThreads (shapeOf (.nop n p)) (quietly fun _ => pure ()) s

/-- SAFEPT: the counter restarts, and where a pre-emption of the group is pending the lane stops with its live state (R40, R209). -/
def execSafept (k : BitVec 3) (f : BitVec 1) (m : BitVec 5) (n : BitVec 1) (p : BitVec 4) (s : State) : Res :=
  onThreads (shapeOf (.safept k f m n p))
    (quietly fun c => do
      let mask ← src c (56 + k.toNat)
      modMe c fun t => { t with safeCount := 0 }
      let s ← get
      if !c.helper && (s.group c.group).preempt != .none then
        modMe c fun t => { t with st := .safept mask m.toNat (f == 1) }
      else pure ()) s

/-! ## Traps a program asks for, and the return -/

/-- A cause taken after the instruction, with DETAIL (R399); a helper lane takes none. -/
def execTrap (k : BitVec 6) (n : BitVec 1) (p : BitVec 4) (s : State) : Res :=
  onThreads (shapeOf (.trap k n p)) (fun _ => pure (some (0x17, k.toNat))) s

/-- BRK (R399, R412). -/
def execBrk (k : BitVec 6) (n : BitVec 1) (p : BitVec 4) (s : State) : Res :=
  onThreads (shapeOf (.brk k n p)) (fun _ => pure (some (0x18, k.toNat))) s

/-- Return from a trap (R399); a TRET while INH is 0 is illegal (SUB 10). A helper lane is not in a handler and goes on. -/
def execTret (n : BitVec 1) (p : BitVec 4) (s : State) : Res :=
  onThreads (shapeOf (.tret n p))
    (quietly fun c => do
      let t ← me c
      if c.helper then pure ()
      else if !t.inh then trap 1 10 0 (BitVec.ofNat 64 c.word)
      else modMe c Thread.leaveHandler) s

/-- Fetch a parcel for a lane (R120, R170), with the page's A bit set. The 32-byte block it lies in is read whole, as the last stores in the order
have left it; poison in the block stops the fetch (R421). -/
def State.fetchParcel (s : State) (v : View) (pc : DWord) : Except Stop (State × Nat) :=
  match s.resolve v pc .fetch with
  | .ok (s', pa, _) =>
    if region pa = .hbm && s'.slab (slabOf pa) != 0 then .error (.trap 0x0D 1 0 pc false)
    else
      let block := pa - pa % 32
      if s'.peekBad block 32 then .error (.poisoned block)
      else .ok (s', leNat (((s'.peek block 32).drop (pa % 32)).take 2))
  | .error e => .error e

/-- Fetch and decode the instruction at an address: its word, its length, and what it decodes to. -/
def State.fetchInstr (s : State) (v : View) (pc : DWord) : Except Stop (State × Nat × Nat × Except Illegal Instr) :=
  match s.fetchParcel v pc with
  | .error e => .error e
  | .ok (s, lo) =>
    if lo % 2 = 0 then .ok (s, lo, 2, decode16 lo)
    else
      match s.fetchParcel v (pc + 2) with
      | .error e => .error e
      | .ok (s, hi) => .ok (s, lo + 65536 * hi, 4, decode32 (lo + 65536 * hi))

/-- Return from a trap past the instruction at TPC, which is treated as one whose guard failed (R399). Where its first parcel cannot be
fetched, the return is that of TRET; where only its second cannot, its length is known and nothing is pushed for it. -/
def execTretNext (n : BitVec 1) (p : BitVec 4) (s : State) : Res :=
  onThreads (shapeOf (.tretNext n p))
    (quietly fun c => do
      let t ← me c
      if c.helper then pure ()
      else if !t.inh then trap 1 10 0 (BitVec.ofNat 64 c.word)
      else do
        let v ← myView c
        let s ← get
        match s.fetchParcel v t.tpc with
        | .error (.fill pte e level) => stop (.fill pte e level)
        | .error _ => modMe c Thread.leaveHandler
        | .ok (s', lo) => do
          set s'
          let push := match s'.fetchInstr v t.tpc with
            | .ok (_, _, _, .ok i) => if ((shapeOf i).refusal c.n).isSome then .none else (shapeOf i).push
            | _ => Push.none
          modMe c fun t => { (t.leaveHandler.idlePush push) with pc := t.tpc + (if lo % 2 = 0 then 2 else 4) }) s

end Sys2Proof.Machine
end

