-- ==== Sys2Proof/Machine/Pred.lean ====
section
/-! DEFINITION. Compares and predicates (R199 to R201). -/

namespace Sys2Proof.Machine

/-- Write the lane's bit of a predicate (R57). -/
def setPred (c : Ctx) (q : BitVec 4) (b : Bool) : LaneM Unit :=
  modMyCrew c fun k =>
    let old := mget 0 k.p q.toNat
    { k with p := mset k.p q.toNat (if b then old ||| bitOf c.lane else old &&& ~~~bitOf c.lane) }

/-- The lane's bit of a predicate. -/
def getPred (c : Ctx) (q : BitVec 4) : LaneM Bool := do
  let k ← myCrew c
  pure ((mget 0 k.p q.toNat).getLsbD c.lane)

/-- A compare of two sources of one width (R199). -/
def compare2 (i : Instr) (w : BitVec 1) (b a : BitVec 6) (q : BitVec 4) (fw : Word → Word → Bool) (fd : DWord → DWord → Bool)
    (s : State) : Res :=
  onThreads (shapeOf i)
    (quietly fun c => do
      let x ← srcV c w a.toNat
      let y ← srcV c w b.toNat
      setPred c q (if w = 0 then fw x.lo y.lo else fd x y)) s

/-- CEQ (R199). -/
def execCeq (b a : BitVec 6) (w : BitVec 1) (q : BitVec 4) (n : BitVec 1) (p : BitVec 4) (s : State) : Res :=
  compare2 (.ceq b a w q n p) w b a q (· == ·) (· == ·) s

/-- CNE (R199). -/
def execCne (b a : BitVec 6) (w : BitVec 1) (q : BitVec 4) (n : BitVec 1) (p : BitVec 4) (s : State) : Res :=
  compare2 (.cne b a w q n p) w b a q (· != ·) (· != ·) s

/-- Less than, signed or unsigned (R199). -/
def less {n : Nat} (v : BitVec 1) (x y : BitVec n) : Bool := if v = 0 then x.slt y else x.ult y

/-- At most, signed or unsigned (R199). -/
def atMost {n : Nat} (v : BitVec 1) (x y : BitVec n) : Bool := if v = 0 then x.sle y else x.ule y

/-- CLT (R199). -/
def execClt (v : BitVec 1) (b a : BitVec 6) (w : BitVec 1) (q : BitVec 4) (n : BitVec 1) (p : BitVec 4) (s : State) : Res :=
  compare2 (.clt v b a w q n p) w b a q (less v) (less v) s

/-- CLE (R199). -/
def execCle (v : BitVec 1) (b a : BitVec 6) (w : BitVec 1) (q : BitVec 4) (n : BitVec 1) (p : BitVec 4) (s : State) : Res :=
  compare2 (.cle v b a w q n p) w b a q (atMost v) (atMost v) s

/-- The six operations of PLOG by sub-op (R200). -/
def predLogic (u : BitVec 3) (x y : Bool) : Bool :=
  match u.toNat with
  | 0 => x && y
  | 1 => x || y
  | 2 => x != y
  | 3 => x && !y
  | 4 => x || !y
  | _ => x == y

/-- PLOG (R200). -/
def execPlog (b : BitVec 4) (u : BitVec 3) (a d : BitVec 4) (n : BitVec 1) (p : BitVec 4) (s : State) : Res :=
  onThreads (shapeOf (.plog b u a d n p))
    (quietly fun c => do
      let x ← getPred c a
      let y ← getPred c b
      setPred c d (predLogic u x y)) s

/-- PRD (R201). -/
def execPrd (a : BitVec 4) (d : BitVec 6) (n : BitVec 1) (p : BitVec 4) (s : State) : Res :=
  onThreads (shapeOf (.prd a d n p))
    (quietly fun c => do
      let x ← getPred c a
      let pl ← dst c d.toNat 1
      put c pl (if x then 1 else 0)) s

/-- PWR (R201). -/
def execPwr (a : BitVec 6) (d : BitVec 4) (n : BitVec 1) (p : BitVec 4) (s : State) : Res :=
  onThreads (shapeOf (.pwr a d n p))
    (quietly fun c => do
      let x ← src c a.toNat
      setPred c d (x != 0)) s

/-- PSET (R201). -/
def execPset (d : BitVec 4) (n : BitVec 1) (p : BitVec 4) (s : State) : Res :=
  onThreads (shapeOf (.pset d n p)) (quietly fun c => setPred c d true) s

/-- PCLR (R201). -/
def execPclr (d : BitVec 4) (n : BitVec 1) (p : BitVec 4) (s : State) : Res :=
  onThreads (shapeOf (.pclr d n p)) (quietly fun c => setPred c d false) s

end Sys2Proof.Machine
end

