-- ==== Sys2Proof/Machine/Special.lean ====
section
/-! DEFINITION. The special functions of FP32 (R235, R236). Where the spec allows several results, the one delivered is a choice without a body
(Config.sfuPick, notes/assumptions/21.md) among those within the stated error. The exact results are bracketed by fixed-point numbers with 640
fraction bits, far finer than the distance of a transcendental result from an FP32 value. -/

namespace Sys2Proof.Machine

/-- Fraction bits of the fixed-point numbers. -/
def fixBits : Nat := 640

/-- One in fixed point. -/
def fixOne : Int := 2 ^ fixBits

/-- Product of two fixed-point numbers. -/
def fixMul (a b : Int) : Int := (a * b) / fixOne

/-- Sum over i of sign^i / ((2 i + 1) q^(2 i + 1)): the inverse tangent of 1 / q, or the inverse hyperbolic tangent. -/
def arcInv (q : Int) (alternate : Bool) : Int :=
  ((List.range 420).foldl (fun (s : Int × Int) (i : Nat) =>
    let t := s.1 / (2 * (i : Int) + 1)
    (s.1 / (q * q), s.2 + (if alternate && i % 2 == 1 then -t else t))) (fixOne / q, 0)).2

/-- The natural logarithm of 2. -/
def fixLn2 : Int := 2 * arcInv 3 false

/-- Half of pi, by Machin's formula. -/
def fixHalfPi : Int := 2 * (4 * arcInv 5 true - arcInv 239 true)

/-- e^x for |x| at most 1. -/
def fixExp (x : Int) : Int :=
  ((List.range 140).foldl (fun (s : Int × Int) (i : Nat) => (fixMul s.1 x / ((i : Int) + 1), s.2 + s.1)) (fixOne, 0)).2

/-- ln m for m from 1 to 2: twice the inverse hyperbolic tangent of (m - 1) / (m + 1). -/
def fixLn (m : Int) : Int :=
  let z := (m - fixOne) * fixOne / (m + fixOne)
  let z2 := fixMul z z
  2 * ((List.range 220).foldl (fun (s : Int × Int) (i : Nat) => (fixMul s.1 z2, s.2 + s.1 / (2 * (i : Int) + 1))) (z, 0)).2

/-- sin r and cos r for r from 0 to half of pi. -/
def fixSinCos (r : Int) : Int × Int :=
  ((List.range 160).foldl (fun (s : Int × Int × Int) (i : Nat) =>
    let next := fixMul s.1 r / ((i : Int) + 1)
    let t := if i / 2 % 2 = 1 then -s.1 else s.1
    if i % 2 = 0 then (next, s.2.1, s.2.2 + t) else (next, s.2.1 + t, s.2.2)) (fixOne, 0, 0)).2

/-- A fixed-point number as a value. -/
def ofFix (x : Int) : Val := .fin (decide (x < 0)) x.natAbs 1 (-(fixBits : Int))

/-- A finite value in fixed point, rounded down. -/
def toFix (x : Val) : Int :=
  match x with
  | .fin b n d e =>
    let (a, c) := scaled n d e (-(fixBits : Int))
    if b then -((a : Int) / c) else (a : Int) / c
  | _ => 0

/-! ## The functions: the exact result where it is an FP32 value, else a bracketing value -/

/-- 2^a for a finite argument. -/
def exp2Val (x : Val) : Val :=
  let k := toFix x / fixOne
  let f := toFix x - k * fixOne
  if f = 0 then .fin false 1 1 k else (ofFix (fixExp (fixMul f fixLn2))).scale k

/-- log2 a for a positive argument n / d x 2^e. -/
def log2Val (n d : Nat) (e : Int) : Val :=
  let k := leadingExp n d e
  let (a, c) := scaled n d e (k - (fixBits : Int))
  let m : Int := (a : Int) / c
  if m = fixOne then .ofInt k else ofFix (k * fixOne + fixLn m * fixOne / fixLn2)

/-- Sine or cosine of a finite argument; the reduction is exact. -/
def sinCosVal (cosine : Bool) (x : Val) : Val :=
  let t := toFix x
  let q := t / fixHalfPi
  let r := t - q * fixHalfPi
  let (s, c) := fixSinCos r
  let quadrant := ((q + (if cosine then 1 else 0)) % 4).toNat
  ofFix (match quadrant with | 0 => s | 1 => c | 2 => -s | _ => -c)

/-- tanh a for a finite argument. -/
def tanhVal (x : Val) : Val :=
  let t := toFix (x.withSign false)
  let v :=
    if 64 * fixOne ≤ t then fixOne - 1
    else
      let e1 := fixExp (t / 64)
      let e2 := (List.range 7).foldl (fun y _ => fixMul y y) e1
      (e2 - fixOne) * fixOne / (e2 + fixOne)
  ofFix (if x.neg then -v else v)

/-! ## Delivering a result -/

/-- Position of an FP32 encoding on the number line. -/
def lineOf (b : Nat) : Int := if 2 ^ 31 ≤ b then -((b - 2 ^ 31 : Nat) : Int) else b

/-- The FP32 encoding at a position of the number line. -/
def ofLine (o : Int) : Nat := if o < 0 then 2 ^ 31 + o.natAbs else o.toNat

/-- The FP32 neighbours of a value, below and above. -/
def neighbours (v : Val) : Int × Int := (lineOf (roundFmt fmtFP32 3 0 v).1, lineOf (roundFmt fmtFP32 2 0 v).1)

/-- |y - v| at most b. -/
def within (y v b : Val) : Bool :=
  let diff := ((y.add false v.negate).1).withSign false
  !(b.lt diff)

/-- The spacing of FP32 values at a value (R235). -/
def ulpAt (n d : Nat) (e : Int) : Val :=
  let k := leadingExp n d e
  .fin false 1 1 ((if k < -126 then -126 else k) - 23)

/-- The FP32 values within `u` ulp of a value, ascending. -/
def nearUlp (u : Nat) (v : Val) : List Int :=
  match v with
  | .fin _ n d e =>
    let (lo, hi) := neighbours v
    let bound := match ulpAt n d e with | .fin _ m c x => Val.fin false (u * m) c x | y => y
    let all := (List.range 5).map (fun (i : Nat) => lo - 4 + (i : Int)) ++ (List.range 5).map (fun (i : Nat) => hi + (i : Int))
    if u = 1 then [lo, hi] else all.filter fun o => within (decodeFmt fmtFP32 (ofLine o)) v bound
  | _ => []

/-- Deliver the result of a special function (R235, R236): exactly where it is an FP32 value; under nearest-even where it overflows or
underflows; else one of the results within the error, which is `u` ulp, or 2^-22 where u is 0. FLOG2 and FCOS raise no UF (R244): where the
choice falls on a subnormal value, they deliver the nearest one. -/
def deliver (op : Nat) (x : BitVec 32) (u : Nat) (unit_ : Bool) (v : Val) : Nat × Flags :=
  let (r, f) := roundFmt fmtFP32 0 0 v
  if f = 0 then (r, 0)
  else if f &&& (flagOF ||| flagUF) ≠ 0 then (r, f)
  else
    let pick := Config.sfuPick op x
    let o :=
      if u = 0 then
        let e := Val.fin false 1 1 (-22)
        let lo := (neighbours ((v.add false e.negate).1)).2
        let hi := (neighbours ((v.add false e).1)).1
        lo + ((pick % ((hi - lo).toNat + 1) : Nat) : Int)
      else
        let c := nearUlp u v
        c.getD (pick % c.length) 0
    let one := lineOf 0x3F800000
    let o := if unit_ then min one (max (-one) o) else o
    let o := if (op = 4 ∨ op = 6) ∧ o ≠ 0 ∧ o.natAbs < 2 ^ 23 then lineOf r else o
    (ofLine o, flagNX)

/-- The canonical FP32 NaN with NV. -/
def nanNV : Nat × Flags := (0x7FC00000, flagNV)

/-- FP32 infinity of a sign. -/
def infBits (neg : Bool) : Nat := if neg then 0xFF800000 else 0x7F800000

/-- The special functions by the sub-op of FSFU (R235, R236), before FTZ; FSQRT is rounded under the mode and is not among them. -/
def sfu (op : Nat) (x : BitVec 32) (a : Val) : Nat × Flags :=
  match a with
  | .nan s => (0x7FC00000, flagIf s flagNV)
  | .inf b =>
    match op with
    | 0 => (if b then 0x80000000 else 0, 0)
    | 1 => if b then nanNV else (0, 0)
    | 3 => if b then (0, 0) else (infBits false, 0)
    | 4 => if b then nanNV else (infBits false, 0)
    | 7 => (if b then 0xBF800000 else 0x3F800000, 0)
    | _ => nanNV
  | .fin b n d e =>
    if n = 0 then
      match op with
      | 0 | 1 => (infBits b, flagDZ)
      | 3 | 6 => (0x3F800000, 0)
      | 4 => (infBits true, flagDZ)
      | _ => (if b then 0x80000000 else 0, 0)
    else
      match op with
      | 0 => deliver op x 1 false (.fin b d n (-e))
      | 1 => if b then nanNV else deliver op x 1 false (Val.sqrt (.fin false d n (-e))).1
      | 3 =>
        if leadingExp n d e ≥ 9 then if b then (0, flagUF ||| flagNX) else (infBits false, flagOF ||| flagNX)
        else deliver op x 2 false (exp2Val a)
      | 4 =>
        if b then nanNV
        else
          let inside := !(a.lt (.fin false 1 1 (-1))) && !(Val.lt (.fin false 2 1 0) a)
          deliver op x (if inside then 0 else 2) false (log2Val n d e)
      | 5 => deliver op x 0 false (sinCosVal false a)
      | 6 => deliver op x 0 false (sinCosVal true a)
      | _ => deliver op x 2 true (tanhVal a)

end Sys2Proof.Machine
end

