-- ==== Sys2Proof/Machine/Float.lean ====
section
/-! DEFINITION. Floating-point instructions (R223 to R239) and the floating-point 16-bit forms (R180). -/

namespace Sys2Proof.Machine

/-- Format of the .f32 or .f64 variant. -/
def fmtV (v : BitVec 1) : Fmt := if v = 0 then fmtFP32 else fmtFP64

/-- Format of the .f16 or .bf16 variant. -/
def fmtH (v : BitVec 1) : Fmt := if v = 0 then fmtFP16 else fmtBF16

/-- Round a result under the thread's mode, with its draw and FTZ (R224, R225); `g` are the flags of the operation itself. -/
def roundMine (c : Ctx) (f : Fmt) (x : Val × Flags) : LaneM (Nat × Flags) := do
  let t ← me c
  let r ← draw c t.rm
  let (bits, h) := flush t.ftz f (roundFmt f t.rm r x.1)
  pure (bits, x.2 ||| h)

/-- Encode a value that the format holds. -/
def exactBits (f : Fmt) (x : Val) : Nat := (roundFmt f 0 0 x).1

/-- A two-operand operation that rounds (R229). -/
def fp2 (i : Instr) (v : BitVec 1) (b a d : BitVec 6) (f : Bool → Val → Val → Val × Flags) (s : State) : Res :=
  onThreads (shapeOf i) (fun c => do
    let x ← srcV c v a.toNat
    let y ← srcV c v b.toNat
    let pl ← dstV c v d.toNat
    let t ← me c
    let dec := fun (z : DWord) => decodeIn t.daz (fmtV v) z.toNat
    let (bits, g) ← roundMine c (fmtV v) (f (t.rm == 3) (dec x) (dec y))
    putV c v pl (BitVec.ofNat 64 bits)
    raise c g) s

/-- FMIN and FMAX: the result is an operand (R229). -/
def fpPick (i : Instr) (v : BitVec 1) (b a d : BitVec 6) (f : Val → Val → Val × Flags) (s : State) : Res :=
  onThreads (shapeOf i) (fun c => do
    let x ← srcV c v a.toNat
    let y ← srcV c v b.toNat
    let pl ← dstV c v d.toNat
    let t ← me c
    let dec := fun (z : DWord) => decodeIn t.daz (fmtV v) z.toNat
    let (z, g) := f (dec x) (dec y)
    putV c v pl (BitVec.ofNat 64 (exactBits (fmtV v) z))
    raise c g) s

/-- c + a b or c - a b, rounded once (R230). -/
def fpMac (i : Instr) (v : BitVec 1) (b a d : BitVec 6) (minus : Bool) (s : State) : Res :=
  onThreads (shapeOf i) (fun c => do
    let x ← srcV c v a.toNat
    let y ← srcV c v b.toNat
    let z ← srcV c v d.toNat
    let pl ← dstV c v d.toNat
    let t ← me c
    let dec := fun (z : DWord) => decodeIn t.daz (fmtV v) z.toNat
    let a := if minus then (dec x).negate else dec x
    let (bits, g) ← roundMine c (fmtV v) (Val.fma (t.rm == 3) (dec z) a (dec y))
    putV c v pl (BitVec.ofNat 64 bits)
    raise c g) s

/-- A packed operation on two elements, the low one first (R231). `f` takes the accumulator element and the two operands. -/
def packed (i : Instr) (v : BitVec 1) (b a d : BitVec 6) (acc : Bool) (f : Bool → Val → Val → Val → Val × Flags) (s : State) : Res :=
  onThreads (shapeOf i) (fun c => do
    let x ← src c a.toNat
    let y ← src c b.toNat
    let z ← if acc then src c d.toNat else pure 0
    let pl ← dst c d.toNat 1
    let t ← me c
    let el := fun (w : Word) (k : Nat) => decodeIn t.daz (fmtH v) (natBits w.toNat (16 * k) 16)
    let op := fun (k : Nat) => f (t.rm == 3) (el z k) (el x k) (el y k)
    let (lo, g) ← roundMine c (fmtH v) (op 0)
    let (hi, h) ← roundMine c (fmtH v) (op 1)
    put c pl (BitVec.ofNat 32 (lo + 65536 * hi))
    raise c (g ||| h)) s

/-- A 32-bit operation of one FP32 operand that gives bits and flags. -/
def fp1 (i : Instr) (a d : BitVec 6) (f : Ctx → Word → LaneM (Nat × Flags)) (s : State) : Res :=
  onThreads (shapeOf i) (fun c => do
    let x ← src c a.toNat
    let pl ← dst c d.toNat 1
    let (bits, g) ← f c x
    put c pl (BitVec.ofNat 32 bits)
    raise c g) s

/-! ## Arithmetic -/

/-- FADD (R229). -/
def execFadd (v : BitVec 1) (b a d : BitVec 6) (n : BitVec 1) (p : BitVec 4) (s : State) : Res :=
  fp2 (.fadd v b a d n p) v b a d (fun down x y => x.add down y) s

/-- FSUB (R229). -/
def execFsub (v : BitVec 1) (b a d : BitVec 6) (n : BitVec 1) (p : BitVec 4) (s : State) : Res :=
  fp2 (.fsub v b a d n p) v b a d (fun down x y => x.add down y.negate) s

/-- FMUL (R229). -/
def execFmul (v : BitVec 1) (b a d : BitVec 6) (n : BitVec 1) (p : BitVec 4) (s : State) : Res :=
  fp2 (.fmul v b a d n p) v b a d (fun _ x y => x.mul y) s

/-- FDIV (R229). -/
def execFdiv (v : BitVec 1) (b a d : BitVec 6) (n : BitVec 1) (p : BitVec 4) (s : State) : Res :=
  fp2 (.fdiv v b a d n p) v b a d (fun _ x y => x.div y) s

/-- FMIN (R229). -/
def execFmin (v : BitVec 1) (b a d : BitVec 6) (n : BitVec 1) (p : BitVec 4) (s : State) : Res :=
  fpPick (.fmin v b a d n p) v b a d Val.min s

/-- FMAX (R229). -/
def execFmax (v : BitVec 1) (b a d : BitVec 6) (n : BitVec 1) (p : BitVec 4) (s : State) : Res :=
  fpPick (.fmax v b a d n p) v b a d Val.max s

/-- FMAC (R230). -/
def execFmac (v : BitVec 1) (b a d : BitVec 6) (n : BitVec 1) (p : BitVec 4) (s : State) : Res :=
  fpMac (.fmac v b a d n p) v b a d false s

/-- FNMAC (R230). -/
def execFnmac (v : BitVec 1) (b a d : BitVec 6) (n : BitVec 1) (p : BitVec 4) (s : State) : Res :=
  fpMac (.fnmac v b a d n p) v b a d true s

/-- HADD (R231). -/
def execHadd (v : BitVec 1) (b a d : BitVec 6) (n : BitVec 1) (p : BitVec 4) (s : State) : Res :=
  packed (.hadd v b a d n p) v b a d false (fun down _ x y => x.add down y) s

/-- HSUB (R231). -/
def execHsub (v : BitVec 1) (b a d : BitVec 6) (n : BitVec 1) (p : BitVec 4) (s : State) : Res :=
  packed (.hsub v b a d n p) v b a d false (fun down _ x y => x.add down y.negate) s

/-- HMUL (R231). -/
def execHmul (v : BitVec 1) (b a d : BitVec 6) (n : BitVec 1) (p : BitVec 4) (s : State) : Res :=
  packed (.hmul v b a d n p) v b a d false (fun _ _ x y => x.mul y) s

/-- HMAC (R231). -/
def execHmac (v : BitVec 1) (b a d : BitVec 6) (n : BitVec 1) (p : BitVec 4) (s : State) : Res :=
  packed (.hmac v b a d n p) v b a d true (fun down z x y => Val.fma down z x y) s

/-! ## Comparison, sign, class, root and scaling -/

/-- The condition of FCMP and whether it raises NV (R232). -/
def fcmpCond (k : BitVec 2) (x y : Val) : Bool × Flags :=
  let nan := x.isNan || y.isNan
  let sig := flagIf (x.isSig || y.isSig) flagNV
  match k.toNat with
  | 0 => (x.eq y, sig)
  | 1 => (x.lt y, flagIf nan flagNV)
  | 2 => (x.lt y || x.eq y, flagIf nan flagNV)
  | _ => (nan, sig)

/-- FCMP (R232). -/
def execFcmp (v : BitVec 1) (b a : BitVec 6) (k : BitVec 2) (q : BitVec 4) (n : BitVec 1) (p : BitVec 4) (s : State) : Res :=
  onThreads (shapeOf (.fcmp v b a k q n p)) (fun c => do
    let x ← srcV c v a.toNat
    let y ← srcV c v b.toNat
    let t ← me c
    let dec := fun (z : DWord) => decodeIn t.daz (fmtV v) z.toNat
    let (r, g) := fcmpCond k (dec x) (dec y)
    setPred c q r
    raise c g) s

/-- FABS.f32 (R233). -/
def execFabsF32 (l : BitVec 4) (a d : BitVec 6) (n : BitVec 1) (p : BitVec 4) (s : State) : Res :=
  fp1 (.fabsF32 l a d n p) a d (fun _ x => pure ((x &&& 0x7FFFFFFF#32).toNat, 0)) s

/-- FNEG.f32 (R233). -/
def execFnegF32 (l : BitVec 4) (a d : BitVec 6) (n : BitVec 1) (p : BitVec 4) (s : State) : Res :=
  fp1 (.fnegF32 l a d n p) a d (fun _ x => pure ((x ^^^ 0x80000000#32).toNat, 0)) s

/-- A 64-bit operation of one FP64 operand. -/
def fp1D (i : Instr) (a d : BitVec 6) (f : Ctx → DWord → LaneM (Nat × Flags)) (s : State) : Res :=
  onThreads (shapeOf i) (fun c => do
    let x ← srcD c a.toNat
    let pl ← dst c d.toNat 2
    let (bits, g) ← f c x
    putD c pl (BitVec.ofNat 64 bits)
    raise c g) s

/-- FABS.f64 (R233). -/
def execFabsF64 (l : BitVec 4) (a d : BitVec 6) (n : BitVec 1) (p : BitVec 4) (s : State) : Res :=
  fp1D (.fabsF64 l a d n p) a d (fun _ x => pure ((x &&& 0x7FFFFFFFFFFFFFFF#64).toNat, 0)) s

/-- FNEG.f64 (R233). -/
def execFnegF64 (l : BitVec 4) (a d : BitVec 6) (n : BitVec 1) (p : BitVec 4) (s : State) : Res :=
  fp1D (.fnegF64 l a d n p) a d (fun _ x => pure ((x ^^^ 0x8000000000000000#64).toNat, 0)) s

/-- The class mask (R233). -/
def classMask (f : Fmt) (b : Nat) : Nat :=
  match decodeFmt f b with
  | .nan s => if s then 2 ^ 8 else 2 ^ 9
  | .inf neg => if neg then 1 else 2 ^ 7
  | .fin neg n _ _ =>
    if n = 0 then if neg then 2 ^ 3 else 2 ^ 4
    else if f.isSubnormal b then if neg then 2 ^ 2 else 2 ^ 5
    else if neg then 2 else 2 ^ 6

/-- FCLASS.f32 (R233). -/
def execFclassF32 (l : BitVec 4) (a d : BitVec 6) (n : BitVec 1) (p : BitVec 4) (s : State) : Res :=
  fp1 (.fclassF32 l a d n p) a d (fun _ x => pure (classMask fmtFP32 x.toNat, 0)) s

/-- FCLASS.f64: a 32-bit result of a 64-bit operand (R233). -/
def execFclassF64 (l : BitVec 4) (a d : BitVec 6) (n : BitVec 1) (p : BitVec 4) (s : State) : Res :=
  onThreads (shapeOf (.fclassF64 l a d n p))
    (quietly fun c => do
      let x ← srcD c a.toNat
      let pl ← dst c d.toNat 1
      put c pl (BitVec.ofNat 32 (classMask fmtFP64 x.toNat))) s

/-- FSQRT.f64 (R233). -/
def execFsqrtF64 (l : BitVec 4) (a d : BitVec 6) (n : BitVec 1) (p : BitVec 4) (s : State) : Res :=
  fp1D (.fsqrtF64 l a d n p) a d
    (fun c x => do
      let t ← me c
      roundMine c fmtFP64 (decodeIn t.daz fmtFP64 x.toNat).sqrt) s

/-- a x 2^n (R234). An exponent beyond 5000 in magnitude gives the results of 5000, since every format overflows or vanishes there. -/
def scaleBy (x : Val) (n : Word) : Val := x.scale (max (-5000) (min 5000 n.toInt))

/-- FSCALE (R234). -/
def execFscale (v : BitVec 1) (b a d : BitVec 6) (n : BitVec 1) (p : BitVec 4) (s : State) : Res :=
  onThreads (shapeOf (.fscale v b a d n p)) (fun c => do
    let x ← srcV c v a.toNat
    let y ← src c b.toNat
    let pl ← dstV c v d.toNat
    let t ← me c
    let z := decodeIn t.daz (fmtV v) x.toNat
    let (bits, g) ← roundMine c (fmtV v) (scaleBy z y, flagIf z.isSig flagNV)
    putV c v pl (BitVec.ofNat 64 bits)
    raise c g) s

/-! ## Special functions -/

/-- An operation of the special-function unit that is not rounded under the mode (R224, R235). -/
def special (i : Instr) (op : Nat) (a d : BitVec 6) (s : State) : Res :=
  fp1 i a d
    (fun c x => do
      let t ← me c
      pure (flush t.ftz fmtFP32 (sfu op x (decodeIn t.daz fmtFP32 x.toNat)))) s

/-- FRCP (R235). -/
def execFrcp (l : BitVec 4) (a d : BitVec 6) (n : BitVec 1) (p : BitVec 4) (s : State) : Res := special (.frcp l a d n p) 0 a d s

/-- FRSQ (R235). -/
def execFrsq (l : BitVec 4) (a d : BitVec 6) (n : BitVec 1) (p : BitVec 4) (s : State) : Res := special (.frsq l a d n p) 1 a d s

/-- FSQRT.f32: rounded correctly under the mode (R235). -/
def execFsqrtF32 (l : BitVec 4) (a d : BitVec 6) (n : BitVec 1) (p : BitVec 4) (s : State) : Res :=
  fp1 (.fsqrtF32 l a d n p) a d
    (fun c x => do
      let t ← me c
      roundMine c fmtFP32 (decodeIn t.daz fmtFP32 x.toNat).sqrt) s

/-- FEXP2 (R235). -/
def execFexp2 (l : BitVec 4) (a d : BitVec 6) (n : BitVec 1) (p : BitVec 4) (s : State) : Res := special (.fexp2 l a d n p) 3 a d s

/-- FLOG2 (R235). -/
def execFlog2 (l : BitVec 4) (a d : BitVec 6) (n : BitVec 1) (p : BitVec 4) (s : State) : Res := special (.flog2 l a d n p) 4 a d s

/-- FSIN (R235). -/
def execFsin (l : BitVec 4) (a d : BitVec 6) (n : BitVec 1) (p : BitVec 4) (s : State) : Res := special (.fsin l a d n p) 5 a d s

/-- FCOS (R235). -/
def execFcos (l : BitVec 4) (a d : BitVec 6) (n : BitVec 1) (p : BitVec 4) (s : State) : Res := special (.fcos l a d n p) 6 a d s

/-- FTANH (R235). -/
def execFtanh (l : BitVec 4) (a d : BitVec 6) (n : BitVec 1) (p : BitVec 4) (s : State) : Res := special (.ftanh l a d n p) 7 a d s

/-! ## Conversions -/

/-- Target and source of CVTF by its sub-op (R176), with the place of FP19 in its container (R145). -/
def cvtfFmts (u : BitVec 3) : Fmt × Fmt :=
  match u.toNat with
  | 0 => (fmtFP64, fmtFP32) | 1 => (fmtFP32, fmtFP64) | 2 => (fmtFP16, fmtFP32) | 3 => (fmtFP32, fmtFP16)
  | 4 => (fmtBF16, fmtFP32) | 5 => (fmtFP32, fmtBF16) | 6 => (fmtFP19, fmtFP32) | _ => (fmtFP32, fmtFP19)

/-- Register bits of an encoding, and back: FP19 stands in bits [31:13] (R145). -/
def toContainer (f : Fmt) (b : Nat) : Nat := if f = fmtFP19 then b * 2 ^ 13 else b
def ofContainer (f : Fmt) (b : Nat) : Nat := if f = fmtFP19 then natBits b 13 19 else b % 2 ^ f.bits

/-- CVTF (R237): widening is exact and is not rounded. -/
def execCvtf (l : BitVec 4) (u : BitVec 3) (a d : BitVec 6) (n : BitVec 1) (p : BitVec 4) (s : State) : Res :=
  onThreads (shapeOf (.cvtf l u a d n p)) (fun c => do
    let (tf, sf) := cvtfFmts u
    let x ← srcV c (if sf = fmtFP64 then 1 else 0) a.toNat
    let wide : BitVec 1 := if tf = fmtFP64 then 1 else 0
    let pl ← dstV c wide d.toNat
    let t ← me c
    let z := decodeIn t.daz sf (ofContainer sf x.toNat)
    let sig := flagIf z.isSig flagNV
    let (bits, g) ← if tf.bits < sf.bits then roundMine c tf (z, sig) else pure (exactBits tf z, sig)
    putV c wide pl (BitVec.ofNat 64 (toContainer tf bits))
    raise c g) s

/-- Target and source of CVTI by its sub-op (R176, R238). -/
def cvtiFmts (u : BitVec 3) : Fmt × Fmt :=
  let i32 : Fmt := .int 32 true 0
  let n32 : Fmt := .int 32 false 0
  let i64 : Fmt := .int 64 true 0
  match u.toNat with
  | 0 => (fmtFP32, i32) | 1 => (fmtFP32, n32) | 2 => (i32, fmtFP32) | 3 => (n32, fmtFP32)
  | 4 => (fmtFP64, i32) | 5 => (i32, fmtFP64) | 6 => (fmtFP64, i64) | _ => (i64, fmtFP64)

/-- CVTI (R238). -/
def execCvti (l : BitVec 4) (u : BitVec 3) (a d : BitVec 6) (n : BitVec 1) (p : BitVec 4) (s : State) : Res :=
  onThreads (shapeOf (.cvti l u a d n p)) (fun c => do
    let (tf, sf) := cvtiFmts u
    let x ← srcV c (if sf.bits = 64 then 1 else 0) a.toNat
    let wide : BitVec 1 := if tf.bits = 64 then 1 else 0
    let pl ← dstV c wide d.toNat
    let t ← me c
    let z := decodeIn t.daz sf x.toNat
    let (bits, g) ← if u = 4 then pure (exactBits tf z, 0) else roundMine c tf (z, 0)
    putV c wide pl (BitVec.ofNat 64 bits)
    raise c g) s

/-- PACK (R239). -/
def execPack (v : BitVec 1) (b a d : BitVec 6) (n : BitVec 1) (p : BitVec 4) (s : State) : Res :=
  onThreads (shapeOf (.pack v b a d n p)) (fun c => do
    let x ← src c a.toNat
    let y ← src c b.toNat
    let pl ← dst c d.toNat 1
    let t ← me c
    let dec := fun (w : Word) =>
      let z := decodeIn t.daz fmtFP32 w.toNat
      (z, flagIf z.isSig flagNV)
    let (lo, g) ← roundMine c (fmtH v) (dec x)
    let (hi, h) ← roundMine c (fmtH v) (dec y)
    put c pl (BitVec.ofNat 32 (lo + 65536 * hi))
    raise c (g ||| h)) s

/-- UNPK: an exact widening of one half (R239). -/
def execUnpk (l : BitVec 4) (u : BitVec 2) (a d : BitVec 6) (n : BitVec 1) (p : BitVec 4) (s : State) : Res :=
  fp1 (.unpk l u a d n p) a d
    (fun c x => do
      let t ← me c
      let f := if u.toNat < 2 then fmtFP16 else fmtBF16
      let z := decodeIn t.daz f (natBits x.toNat (16 * (u.toNat % 2)) 16)
      pure (exactBits fmtFP32 z, flagIf z.isSig flagNV)) s

/-! ## 16-bit forms -/

/-- A 16-bit two-operand form in FP32: ds is srcA and the destination (R180). -/
def fpShort (i : Instr) (b : BitVec 5) (d : BitVec 6) (f : Ctx → Bool → Val → Val → LaneM (Nat × Flags)) (s : State) : Res :=
  onThreads (shapeOf i) (fun c => do
    let x ← src c d.toNat
    let y ← src c (short b)
    let pl ← dst c d.toNat 1
    let t ← me c
    let dec := fun (w : Word) => decodeIn t.daz fmtFP32 w.toNat
    let (bits, g) ← f c (t.rm == 3) (dec x) (dec y)
    put c pl (BitVec.ofNat 32 bits)
    raise c g) s

/-- FADD, 16-bit (R180). -/
def execFadd16 (b : BitVec 5) (d : BitVec 6) (s : State) : Res :=
  fpShort (.fadd16 b d) b d (fun c down x y => roundMine c fmtFP32 (x.add down y)) s

/-- FMUL, 16-bit (R180). -/
def execFmul16 (b : BitVec 5) (d : BitVec 6) (s : State) : Res :=
  fpShort (.fmul16 b d) b d (fun c _ x y => roundMine c fmtFP32 (x.mul y)) s

/-- FMAX, 16-bit (R180). -/
def execFmax16 (b : BitVec 5) (d : BitVec 6) (s : State) : Res :=
  fpShort (.fmax16 b d) b d (fun _ _ x y => pure (exactBits fmtFP32 (x.max y).1, (x.max y).2)) s

/-- FMAD, 16-bit: fmac.f32 ds, q1, b (R180). -/
def execFmad16 (b : BitVec 5) (d : BitVec 6) (s : State) : Res :=
  onThreads (shapeOf (.fmad16 b d)) (fun c => do
    let x ← src c 32
    let y ← src c (short b)
    let z ← src c d.toNat
    let pl ← dst c d.toNat 1
    let t ← me c
    let dec := fun (w : Word) => decodeIn t.daz fmtFP32 w.toNat
    let (bits, g) ← roundMine c fmtFP32 (Val.fma (t.rm == 3) (dec z) (dec x) (dec y))
    put c pl (BitVec.ofNat 32 bits)
    raise c g) s

end Sys2Proof.Machine
end

