-- ==== Sys2Proof/Machine/Device.lean ====
section
/-! DEFINITION. Reading the management registers (R18, R305, R306, R370 to R380); their writes are events (Machine/Platform.lean). -/

namespace Sys2Proof.Machine

/-- FEATURE (R18). -/
def feature : DWord := 0x08400A864080FFFC#64

/-- Word of a 64-bit register. -/
def half (x : DWord) (hi : Bool) : Word := if hi then x.hi else x.lo

/-- MSTATUS.PHASE (R372). -/
def State.phase (s : State) : Nat := natBits s.mstatus.toNat 28 4

/-- MGOV of a cluster (R305). -/
def Cluster.mgov (k : Cluster) : Word := BitVec.ofNat 32 (natBits k.budget 0 7)

/-- MGOVSTAT of a cluster (R306). -/
def Cluster.mgovstat (k : Cluster) : Word :=
  BitVec.ofInt 8 k.credit ++ BitVec.ofNat 24 k.stalled

/-- Slot status register (R128): STATUS, CHECK, FAILEVENT and FAILSTATE. -/
def ProtSlot.word (p : ProtSlot) : Word :=
  BitVec.ofNat 32 (p.status.toNat * 2 ^ 30 + p.check.toNat * 2 ^ 16 + p.failEvent.toNat * 2 ^ 11 + p.failState.toNat * 2 ^ 5)

/-- A 32-bit word of the management registers, by its offset; offsets that name no register read zero (R370). -/
def State.devWord (s : State) (off : Nat) : Word :=
  let odd := off / 4 % 2 == 1
  if off < 0x8 then half feature odd
  else if off = 0x8 then s.mstatus
  else if 0x10 ≤ off ∧ off < 0x18 then half s.q0desc odd
  else if 0x18 ≤ off ∧ off < 0x20 then half s.patchaddr odd
  else if off = 0x20 then s.bootctl &&& 1
  else if off = 0x40 ∨ off = 0x48 then mget 0 s.power ((off - 0x40) / 8)
  else if off = 0x50 ∨ off = 0x58 then mget 0x690000#32 s.therm ((off - 0x50) / 8)
  else if 0x100 ≤ off ∧ off < 0x120 then (mget { status := if off < 0x118 then 2 else 0 } s.slots ((off - 0x100) / 4)).word
  else if 0x200 ≤ off ∧ off < 0x340 then (s.cluster ((off - 0x200) / 4)).mgov
  else if 0x400 ≤ off ∧ off < 0x540 then (s.cluster ((off - 0x400) / 4)).mgovstat
  else if 0x600 ≤ off ∧ off < 0x630 then BitVec.ofNat 32 (natBits (s.stack ((off - 0x600) / 4)).budget 0 7)
  else if 0x800 ≤ off ∧ off < 0x830 then BitVec.ofNat 32 (natBits s.attNonce.toNat (8 * (off - 0x800)) 32)
  else if 0x830 ≤ off ∧ off < 0x838 then half s.attAddr odd
  else if 0x1000 ≤ off ∧ off < 0x1800 then
    BitVec.ofNat 32 (leNat ((List.range 4).map fun i => Config.idCert (off - 0x1000 + i)))
  else 0

/-- Read bytes of the device-register range. -/
def State.devRead (s : State) (off n : Nat) : Nat :=
  let word := fun (k : Nat) => (s.devWord (4 * k)).toNat
  (word (off / 4) + 2 ^ 32 * word (off / 4 + 1)) / 2 ^ (8 * (off % 4)) % 2 ^ (8 * n)

/-- A store into the device-register range becomes an event of the present cycle: a tail write, which is written whole (R339), or a write
of a management register (R370). -/
def State.devWrite (s : State) (off x n : Nat) : State :=
  let ask := fun (i : Instr) => { s with agenda := s.agenda ++ [(s.clock, i)] }
  if 0x100000 ≤ off ∧ off < 0x104000 then
    if off % 16 = 0 ∧ n = 8 then ask (.tailRegisterWrite (BitVec.ofNat 10 ((off - 0x100000) / 16)) (BitVec.ofNat 64 x)) else s
  else if n = 8 then ask (.registerWrite (BitVec.ofNat 30 off) 1 (BitVec.ofNat 64 x))
  else if n = 4 then ask (.registerWrite (BitVec.ofNat 30 off) 0 (BitVec.ofNat 64 x))
  else s

end Sys2Proof.Machine
end

