-- ==== Sys2Proof/Machine/Mem.lean ====
section
/-! DEFINITION. Loads and stores (R246 to R251) and the accesses they share with the other memory instructions. -/

namespace Sys2Proof.Machine

/-! ## Accesses of a lane -/

/-- Resolve an address for a lane's access, with its checks (R401). -/
def access (c : Ctx) (va : DWord) (k : Class) : LaneM (Nat × PageKind) := do
  let v ← myView c
  fun s => match s.resolve v va k with
    | .ok (s', pa, kind) => .ok ((pa, kind), s')
    | .error e => .error e

/-- A core access to a slab that is not CORE is refused (R92, R118). -/
def owned (pa : Nat) (va : DWord) : LaneM Unit := fun s =>
  if s.coreOwned pa then .ok ((), s) else .error (.trap 0x0D 1 0 va false)

/-- Change the state. -/
def modState (f : State → State) : LaneM Unit := fun s => .ok ((), f s)

/-- An operation of a lane in the order, or an access outside it (R105, R121): what a request of the instruction has brought already; at a staging
word, which serves one operation in an arith cycle (R254); at the slice beside the core, where its copy of the line serves the
operation (R124); else the slice asks the line's home, and the lane waits for the answer (R132). `refile` where all lanes issue the
instruction again. -/
def laneOp (c : Ctx) (va : DWord) (pa : Nat) (k : PageKind) (op : LineOp) (scope : Nat) (refile : Bool) : LaneM LineResult := fun s =>
  let t := (s.thread c.crew c.lane).time
  let done := fun (r : LineResult) (s : State) => .ok (r, s.modThread c.crew c.lane fun t => { t with time := max t.time r.ts })
  match c.got.find? fun g => g.pa == pa && g.op == op with
  | some g => done g.result s
  | none =>
    match k with
    | .staging =>
      if s.busyWord pa op.span.2 then .error (.wait { kind := .slice, addr := va, key := pa / 4, refile := refile })
      else
        let (r, s) := s.stageOp pa op t
        done r s
    | .io | .device => .ok (s.memRun pa op)
    | _ =>
      let line := pa / 128
      match s.sliceOp c.core c.group k pa op t with
      | some (r, s) => done r (s.noteNarrow c.core line scope)
      | none =>
        .error (.miss line { event := s.requestEvent c.core line op scope, agent := c.core, time := t, op := some op } va refile)

/-- Poisoned data reaches no register (R421). -/
def clean (pa : Nat) (r : LineResult) : LaneM Unit := fun s => if r.poison then .error (.poisoned pa) else .ok ((), s)

/-- A store or read-modify-write of the lane's instruction, which is made once: where it has been performed for an earlier attempt (R133), its result
stands whatever the instruction's operands have become since. -/
def once (c : Ctx) (k : LaneM Got) : LaneM Got :=
  match c.got.find? fun g => !g.op.isLoad with
  | some g => fun s => .ok (g, s.modThread c.crew c.lane fun t => { t with time := max t.time g.result.ts })
  | none => k

/-- An operation of a lane with what it gives, as `once` keeps it. -/
def gotOp (c : Ctx) (va : DWord) (pa : Nat) (k : PageKind) (op : LineOp) (scope : Nat) (refile : Bool) : LaneM Got := do
  let r ← laneOp c va pa k op scope refile
  pure { pa := pa, op := op, result := r }

/-- Load `n` bytes at a virtual address: one load in the order, or an access outside it (R105, R121). -/
def loadMem (c : Ctx) (va : DWord) (n : Nat) (refile : Bool := false) : LaneM Nat := do
  let (pa, k) ← access c va (.load n)
  owned pa va
  let s ← get
  if region pa = .device then pure (s.devRead (pa - deviceBase) n)
  else do
    let r ← laneOp c va pa k (.load (pa % 128) n) 0 refile
    clean pa r
    pure r.val

/-- Store `n` bytes at a virtual address. -/
def storeMem (c : Ctx) (va : DWord) (x n : Nat) (refile : Bool := false) : LaneM Unit := do
  let _ ← once c do
    let (pa, k) ← access c va (.store n)
    owned pa va
    let op := LineOp.store (pa % 128) n x
    if region pa = .device then do
      modState fun s => s.devWrite (pa - deviceBase) x n
      pure { pa := pa, op := op, result := {} }
    else gotOp c va pa k op 0 refile

/-- Load bytes of a record a lane reads at an address aligned to 16, sixteen at a time, each as a load of the lane (R283). -/
def loadRecord (c : Ctx) (va : DWord) : (chunks : Nat) → LaneM (List Byte)
  | 0 => pure []
  | n + 1 => do
    let x ← loadMem c va 16
    let r ← loadRecord c (va + 16) n
    pure (leBytes x 16 ++ r)

/-! ## Addresses -/

/-- The crew's k pair (R58). -/
def kPair (c : Ctx) (n : Nat) : LaneM DWord := do
  let k ← myCrew c
  pure (DWord.mk (mget 0 k.k (n + 1)) (mget 0 k.k n))

/-- The address k-pair + sext(o), whose offset operand is read (R246). -/
def basePair (c : Ctx) (b : BitVec 3) (o : BitVec 6) : LaneM DWord := do
  let x ← src c o.toNat
  let k ← kPair c (2 * b.toNat)
  pure (k + sext 64 x)

/-- The 64-bit value of a named register pair (R246). -/
def namedPair (c : Ctx) (r : Nat) : LaneM DWord := srcD c r

/-! ## Loads and stores -/

/-- LD.b, LD.h and LD.w (R251). -/
def loadWord (i : Instr) (n : Nat) (b : BitVec 3) (o d : BitVec 6) (s : State) : Res :=
  onThreads (shapeOf i)
    (quietly fun c => do
      let va ← basePair c b o
      let pl ← dst c d.toNat 1
      let x ← loadMem c va n
      put c pl (BitVec.ofNat 32 x)) s

/-- ST.b, ST.h and ST.w: a helper's store is suppressed (R248, R251). -/
def storeWord (i : Instr) (n : Nat) (b : BitVec 3) (o d : BitVec 6) (s : State) : Res :=
  onThreads (shapeOf i)
    (quietly fun c => do
      let va ← basePair c b o
      let x ← src c d.toNat
      if c.helper then pure () else storeMem c va (natBits x.toNat 0 (8 * n)) n) s

/-- LD.b (R251). -/
def execLdB (l : BitVec 4) (b : BitVec 3) (o d : BitVec 6) (n : BitVec 1) (p : BitVec 4) (s : State) : Res :=
  loadWord (.ldB l b o d n p) 1 b o d s

/-- LD.h (R251). -/
def execLdH (l : BitVec 4) (b : BitVec 3) (o d : BitVec 6) (n : BitVec 1) (p : BitVec 4) (s : State) : Res :=
  loadWord (.ldH l b o d n p) 2 b o d s

/-- LD.w (R251). -/
def execLdW (l : BitVec 4) (b : BitVec 3) (o d : BitVec 6) (n : BitVec 1) (p : BitVec 4) (s : State) : Res :=
  loadWord (.ldW l b o d n p) 4 b o d s

/-- LD.d (R251). -/
def execLdD (l : BitVec 4) (b : BitVec 3) (o d : BitVec 6) (n : BitVec 1) (p : BitVec 4) (s : State) : Res :=
  onThreads (shapeOf (.ldD l b o d n p))
    (quietly fun c => do
      let va ← basePair c b o
      let pl ← dst c d.toNat 2
      let x ← loadMem c va 8
      putD c pl (BitVec.ofNat 64 x)) s

/-- Write four named registers and push them, the first first (R251). -/
def putQ (c : Ctx) (r x : Nat) : LaneM Unit :=
  let w := fun (i : Nat) => BitVec.ofNat 32 (natBits x (32 * i) 32)
  modMe c fun t =>
    let t := (((t.setReg r (w 0)).setReg (r + 1) (w 1)).setReg (r + 2) (w 2)).setReg (r + 3) (w 3)
    (((t.push (w 0)).push (w 1)).push (w 2)).push (w 3)

/-- Wait until none of four registers is held (R273). -/
def awaitFour (c : Ctx) (r : Nat) : LaneM Unit := do
  let _ ← srcQ c r

/-- LD.q (R251). -/
def execLdQ (l : BitVec 4) (b : BitVec 3) (o : BitVec 6) (d : BitVec 3) (n : BitVec 1) (p : BitVec 4) (s : State) : Res :=
  onThreads (shapeOf (.ldQ l b o d n p))
    (quietly fun c => do
      let va ← basePair c b o
      awaitFour c (4 * d.toNat)
      let x ← loadMem c va 16
      putQ c (4 * d.toNat) x) s

/-- ST.b (R251). -/
def execStB (l : BitVec 4) (b : BitVec 3) (o d : BitVec 6) (n : BitVec 1) (p : BitVec 4) (s : State) : Res :=
  storeWord (.stB l b o d n p) 1 b o d s

/-- ST.h (R251). -/
def execStH (l : BitVec 4) (b : BitVec 3) (o d : BitVec 6) (n : BitVec 1) (p : BitVec 4) (s : State) : Res :=
  storeWord (.stH l b o d n p) 2 b o d s

/-- ST.w (R251). -/
def execStW (l : BitVec 4) (b : BitVec 3) (o d : BitVec 6) (n : BitVec 1) (p : BitVec 4) (s : State) : Res :=
  storeWord (.stW l b o d n p) 4 b o d s

/-- ST.d (R251). -/
def execStD (l : BitVec 4) (b : BitVec 3) (o d : BitVec 6) (n : BitVec 1) (p : BitVec 4) (s : State) : Res :=
  onThreads (shapeOf (.stD l b o d n p))
    (quietly fun c => do
      let va ← basePair c b o
      let x ← srcD c d.toNat
      if c.helper then pure () else storeMem c va x.toNat 8) s

/-- The number whose 32-bit digits are the words, the first the lowest. -/
def wordsNat : List Word → Nat
  | [] => 0
  | w :: r => w.toNat + 2 ^ 32 * wordsNat r

/-- ST.q (R251). -/
def execStQ (l : BitVec 4) (b : BitVec 3) (o : BitVec 6) (d : BitVec 3) (n : BitVec 1) (p : BitVec 4) (s : State) : Res :=
  onThreads (shapeOf (.stQ l b o d n p))
    (quietly fun c => do
      let va ← basePair c b o
      let x ← srcQ c (4 * d.toNat)
      if c.helper then pure () else storeMem c va (wordsNat x) 16) s

end Sys2Proof.Machine
end

