-- ==== Sys2Proof/Machine/Crusher.lean ====
section
/-! DEFINITION. Exact accumulators and reduction windows (R165 to R167, R259 to R261): WOPEN, WFINAL and the forked writer. -/

namespace Sys2Proof.Machine

/-! ## Exact accumulators -/

/-- Exponent of the lowest bit of an accumulator (R166). -/
def accExp (f64 : Bool) : Int := if f64 then -1074 else -149

/-- Add one value exactly (R165, R166). -/
def ExactAcc.add (a : ExactAcc) (f64 : Bool) (x : Val) : ExactAcc :=
  let a := { a with any_ := true, count := a.count + 1, nv := a.nv || x.isSig, negZero := a.negZero && x.isZero && x.neg }
  match x with
  | .nan _ => { a with nan := true }
  | .inf b => if b then { a with ninf := true } else { a with pinf := true }
  | .fin b n d e =>
    let m : Int := (scaled n d e (accExp f64)).1
    { a with sum := a.sum + if b then -m else m }

/-- The value an accumulator holds, and the flags that gathering it raised (R165). DESIGN CHOICE (notes/assumptions/127.md): a NaN together with
infinities of both signs raises no NV. -/
def ExactAcc.value (a : ExactAcc) (f64 : Bool) : Val × Flags :=
  let nv := flagIf a.nv flagNV
  if a.nan then (.nan false, nv)
  else if a.pinf && a.ninf then (.nan false, flagNV)
  else if a.pinf then (.inf false, nv)
  else if a.ninf then (.inf true, nv)
  else if a.sum = 0 then (.zero (a.any_ && a.negZero), nv)
  else (.fin (decide (a.sum < 0)) a.sum.natAbs 1 (accExp f64), nv)

/-- The accumulator's value rounded once under nearest-even (R167). -/
def ExactAcc.result (a : ExactAcc) (f64 : Bool) : Nat × Flags :=
  let (v, g) := a.value f64
  let (b, h) := roundFmt (fmtW f64) 0 0 v
  (b, g ||| h)

/-! ## Windows -/

/-- Bytes of a target. -/
def Window.size (w : Window) : Nat := if w.f64 then 8 else 4

/-- The window's target number that starts at a physical address. -/
def targetAt (size pa : Nat) (k : Nat) : List (Nat × Nat) → Option Nat
  | [] => none
  | (a, n) :: r => if a ≤ pa ∧ pa < a + n then some (k + (pa - a) / size) else targetAt size pa (k + n / size) r

/-- Physical address of target `k`. -/
def targetPa (size : Nat) (k : Nat) : List (Nat × Nat) → Nat
  | [] => 0
  | (a, n) :: r => if k < n / size then a + size * k else targetPa size (k - n / size) r

/-- The open window that holds a physical address as a target of its format. -/
def State.windowAt (s : State) (pa : Nat) (f64 : Bool) : Option (Nat × Nat) :=
  match s.windows.find? fun e => e.2.open_ && e.2.f64 == f64 && (targetAt e.2.size pa 0 e.2.phys).isSome with
  | some (k, w) => (targetAt w.size pa 0 w.phys).map fun t => (k, t)
  | none => none

/-- A RED reaches the crusher at its agent's program time (R111, R166, R259): the timestamp of its operation on the target, and the new state. The
flags of the RED itself go to its context's memory-exception word (R157); a contribution beyond 2^40 ends the window's launch (R400). -/
def State.contribute (s : State) (win target bits ctx t : Nat) (poison : Bool) : Nat × State :=
  let w := s.window win
  let a := mget {} w.accs target
  let x := decodeFmt (fmtW w.f64) bits
  let ts := max t w.time
  if 2 ^ 40 ≤ a.count then (t, s.terminate w.launch 0x110)
  else
    let b := { a.add w.f64 x with nv := a.nv, poison := a.poison || poison }
    let s := s.modWindow win fun w => { w with accs := mset w.accs target b, time := ts }
    (ts, s.orFlags ctx (flagIf x.isSig flagNV) ts)

/-- A reduction performed outside a window: its flags are ORed immediately after it (R157, R168). -/
def State.reduceFlags (s : State) (op : LineOp) (r : LineResult) : State :=
  match op with
  | .reduce _ _ _ _ ctx => s.orFlags ctx (op.flags r) r.ts
  | _ => s

/-- A reduction that reaches its home (R114, R168, R259): a contribution to an open window's target, or a batch of one; any other operation is
performed where its address lies. -/
def State.homeOp (s : State) (pa : Nat) (op : LineOp) (t : Nat) : LineResult × State :=
  match op with
  | .reduce a wide _ x ctx =>
    match if a = .fadd then s.windowAt pa wide else none with
    | some (win, target) =>
      let (ts, s) := s.contribute win target x ctx t false
      ({ ts := ts }, s)
    | none =>
      let (r, s) := s.opAt pa op t
      (r, s.reduceFlags op r)
  | _ => s.opAt pa op t

/-- FP32 accumulators of a die in use by DMODE 1 bench launches (R334). -/
def State.benchReserved (s : State) (die : Nat) : Nat :=
  s.benchLaunches.foldl (fun n e => if e.2.live && e.2.die == die then n + e.2.reserved else n) 0

/-- Accumulators of a die that windows hold, a closed one until its writer has written its targets (R260, R261). -/
def State.windowAccs (s : State) (die : Nat) (f64 : Bool) : Nat :=
  let held := s.writers.map (·.2) ++ (s.windows.filter (·.2.open_)).map (·.2)
  held.foldl (fun n w => if w.die == die && w.f64 == f64 then n + w.length / w.size else n) 0

/-- Add one target's physical bytes to the runs. -/
def extendRuns (runs : List (Nat × Nat)) (pa size : Nat) : List (Nat × Nat) :=
  match runs.reverse with
  | (a, n) :: r => if a + n = pa then ((a, n + size) :: r).reverse else runs ++ [(pa, size)]
  | [] => [(pa, size)]

/-- Translate the targets; with INIT each is read as a load of the lane and starts its accumulator (R259, R167). -/
def openTargets (c : Ctx) (size : Nat) (init setFull : Bool) (va : DWord) (k : Nat) :
    (n : Nat) → Window → LaneM Window
  | 0, w => pure w
  | n + 1, w => do
    let (pa, _) ← access c va (.atomic size)
    if setFull && region pa != .staging then trap 0x10 5 0 va
    let w := { w with phys := extendRuns w.phys pa size }
    let w ← if init then do
        let x ← loadMem c va size
        let a := ({} : ExactAcc).add w.f64 (decodeFmt (fmtW w.f64) x)
        pure { w with accs := mset w.accs k { a with count := 0 } }
      else do
        owned pa va
        pure w
    openTargets c size init setFull (va + BitVec.ofNat 64 size) (k + 1) n w

/-- The home die of a physical address (R123, R86). -/
def homeDie (pa : Nat) : Nat := homeSlice pa / 160

/-- Whether two runs of bytes share one. -/
def runsMeet (p q : List (Nat × Nat)) : Bool := p.any fun a => q.any fun b => decide (a.1 < b.1 + b.2 ∧ b.1 < a.1 + a.2)

/-- WOPEN (R259, R261). A helper lane's is suppressed. -/
def execWopen (l : BitVec 4) (a d : BitVec 6) (n : BitVec 1) (p : BitVec 4) (s : State) : Res :=
  onThreads (shapeOf (.wopen l a d n p))
    (quietly fun c => do
      let va ← namedPair c a.toNat
      let pl ← dst c d.toNat 1
      if c.helper then put c pl 0
      else do
        let b ← loadRecord c va 2
        let f := field b
        let f64 := f 12 1 == 0
        let size := if f64 then 8 else 4
        let target := f 0 8
        let length := f 8 4
        let done := f 16 8
        if 1 < f 12 1 ∨ 4 ≤ f 13 1 ∨ f 14 2 ≠ 0 ∨ f 24 8 ≠ 0 ∨ length < 4 ∨ 65536 < length ∨ length % size ≠ 0 ∨ target % size ≠ 0
            ∨ (target + length - 1) / 65536 ≠ target / 65536 ∨ done % 4 ≠ 0 then trap 0x10 5 0 va
        let lk := (s.group c.group).launch
        let s0 ← get
        match (List.range 256).find? fun w => !(s0.window w).open_ with
        | none => trap 0x10 1 0 va
        | some win => do
          let t ← me c
          let v ← myView c
          let w : Window := {
            agent := s0.agentOf v (s0.group c.group).gang, launch := lk, target := target, length := length, f64 := f64,
            setFull := natBits (f 13 1) 1 1 == 1, done := done }
          let w ← openTargets c size (f 13 1 % 2 == 1) w.setFull (BitVec.ofNat 64 target) 0 (length / size) w
          let die := homeDie (targetPa size 0 w.phys)
          let s1 ← get
          if f64 && 4096 < s1.windowAccs die true + length / size then trap 0x10 2 0 va
          if s1.windows.any fun e => e.2.open_ && e.2.ctx == w.ctx && runsMeet e.2.phys w.phys then
            trap 0x10 3 0 (BitVec.ofNat 64 target)
          if !f64 && 65536 < s1.windowAccs die false + s1.benchReserved die + length / size then trap 0x10 7 0 va
          let gen := ((s1.window win).gen + 1) % 64
          modState fun s => s.modWindow win fun _ => { w with gen := gen, open_ := true, die := die, time := t.time }
          put c pl (BitVec.ofNat 32 (win + 256 * gen))) s

/-- WFINAL: the window closes, and its writer is forked (R260). -/
def execWfinal (l : BitVec 4) (a : BitVec 6) (n : BitVec 1) (p : BitVec 4) (s : State) : Res :=
  onThreads (shapeOf (.wfinal l a n p))
    (quietly fun c => do
      let id ← src c a.toNat
      if c.helper then pure ()
      else do
        let s ← get
        let t ← me c
        let win := natBits id.toNat 0 8
        let w := s.window win
        let ctx := (s.launch (s.group c.group).launch).ctx
        if !w.open_ || w.ctx != ctx || id.toNat != win + 256 * w.gen then trap 0x10 4 0 0
        modState fun s => { s.modWindow win fun w => { w with open_ := false, accs := [] } with
          writers := s.writers ++ [(win, { w with open_ := false, time := max w.time t.time })] }) s

/-- One store of a forked agent at a physical address, as of a program time: the timestamp and the new state. -/
def State.agentStore (s : State) (pa x n t : Nat) : Nat × State := s.storeNat pa x n t

/-- A forked agent writes a completion word, where it has a value, and sets it full (R117): the timestamp, and the state; a fault ends the
launch (R405). -/
def State.agentDoneAt (s : State) (a : Agent) (lk va : Nat) (x : Option Nat) (t : Nat) : Nat × State :=
  match s.agentTagged a va with
  | .ok (s, pa, _) =>
    let (r, s) := match x with
      | some x => s.stageOp pa (.store (pa % 128) 4 x) t
      | none =>
        let (ts, s) := s.stageEnter pa false t
        (({ ts := ts } : LineResult), (s.setTag (pa / 16) false).touch pa 4)
    (r.ts, (s.noteTime lk r.ts).setFull pa true)
  | .error (.trap code _ _ _ _) => (t, s.terminate lk (0x100 + code))
  | .error _ => (t, s)

/-- A forked agent's completion write, as its last operation. -/
def State.agentDone (s : State) (a : Agent) (lk va : Nat) (x : Option Nat) (t : Nat) : State := (s.agentDoneAt a lk va x t).2

/-- Whether a completion word must be waited for: its line is absent (R89), or its slice has served the word in this cycle (R254). -/
def State.doneWaits (s : State) (a : Agent) (va : Nat) : Bool :=
  match s.agentTagged a va with
  | .error (.wait _) => true
  | _ => false

/-- Whether every target of a window may be written now: no staging line among them is absent (R89), nor has a slice served a word of it in this
cycle (R254). -/
def State.targetsReady (s : State) (w : Window) : Bool :=
  w.phys.all fun r => region r.1 != .staging
    || (!s.busyWord r.1 r.2 && (List.range ((r.1 + r.2 - 1) / 128 - r.1 / 128 + 1)).all fun i => s.present (128 * (r.1 / 128 + i)))

/-- The forked writer of a window writes every target's result and sets DONE full (R260, R167): DONE's word keeps its value. -/
def execWfinalWriter (win : BitVec 8) (s : State) : Res :=
  match s.unit with
  | .none =>
    match s.writers.find? fun e => e.1 == win.toNat with
    | none => .next s
    | some (k, w) =>
      if !s.targetsReady w || s.doneWaits w.agent w.done then .next s
      else
        let size := w.size
        let (s, t, flags) := (List.range (w.length / size)).foldl (fun (x : State × Nat × Flags) i =>
          let (s, t, g) := x
          let acc := mget {} w.accs i
          let (bits, h) := acc.result w.f64
          let pa := targetPa size i w.phys
          let (ts, s) := s.agentStore pa bits size t
          let s := if acc.poison then s.poisonBytes pa size else s
          (if w.setFull then s.setFull pa true else s, ts, g ||| h)) (s, w.time, 0)
        let s := s.orFlags w.ctx flags t
        let s := { s with writers := s.writers.eraseP fun e => e.1 == k }
        .next (s.agentDone w.agent w.launch w.done none t)
  | _ => .next s

end Sys2Proof.Machine
end

