-- ==== Sys2Proof/Machine/Sync.lean ====
section
/-! DEFINITION. Tagged operations and WAITV (R252 to R254), atomics and reductions (R255 to R258), barriers, fences and code publication
(R262, R263). -/

namespace Sys2Proof.Machine

/-! ## Tagged operations -/

/-- What a tagged operation does to its staging word (R252): the word takes a value and its bit a state, where they are given; the operation is a
load where it writes neither. A write clears the granule's capability tag (R101). -/
def State.tagOp (s : State) (pa : Nat) (val : Option Nat) (full : Option Bool) (t : Nat) : LineResult × State :=
  let (ts, s) := s.stageEnter pa (val.isNone && full.isNone) t
  let old := s.readNat pa 4
  let s := match val with
    | some x => s.writeNat pa x 4
    | none => if full.isSome then s.setTag (pa / 16) false else s
  let s := match full with
    | some b => s.setFull pa b
    | none => s
  ({ val := old, ts := ts }, s.touch pa 4)

/-- A tagged operation of a lane at a staging word; its time follows. -/
def tagLane (c : Ctx) (pa : Nat) (val : Option Nat) (full : Option Bool) : LaneM Nat := fun s =>
  let (r, s) := s.tagOp pa val full (s.thread c.crew c.lane).time
  .ok (r.val, s.modThread c.crew c.lane fun t => { t with time := r.ts })

/-- Poison in a word kills the group that would operate on it (R421). -/
def cleanWord (pa : Nat) : LaneM Unit := fun s => if s.peekBad pa 4 then .error (.poisoned pa) else .ok ((), s)

/-- A lane's load of a coherent word that WAITV waits on, performed at the word's home (R253), which may have performed it already. -/
def watchLane (c : Ctx) (pa : Nat) : LaneM Unit := fun s =>
  let op := LineOp.load (pa % 128) 4
  match c.got.find? fun g => g.pa == pa && g.op == op with
  | some g => .ok ((), s.modThread c.crew c.lane fun t => { t with time := max t.time g.result.ts })
  | none =>
    let (r, s) := s.loadHome pa op (s.thread c.crew c.lane).time
    .ok ((), s.modThread c.crew c.lane fun t => { t with time := r.ts })

/-- The value of a word as a tagged operation or WAITV finds it. -/
def State.wordNow (s : State) (c : Ctx) (pa : Nat) : Word :=
  match c.got.find? fun g => g.pa == pa && g.op == LineOp.load (pa % 128) 4 with
  | some g => BitVec.ofNat 32 g.result.val
  | none => BitVec.ofNat 32 (s.peekNat pa 4)

/-- A tagged operation or WAITV of a lane (R252). The physical address is resolved in the first attempt, and given in a later one, which waits for
its line's presence afresh (R89, R253, R401). A helper lane's is suppressed (R248). -/
def tagged (k : WaitKind) (base : BitVec 3) (off data : BitVec 6) (at_ : Option Nat) (c : Ctx) : LaneM Unit := do
  let va ← basePair c base off
  let reads := k == .ste || k == .waitv
  let x ← if reads then src c data.toNat else pure 0
  let pl ← if k = .ste then pure Place_.queue else dst c data.toNat 1
  if c.helper then if k = .ste then pure () else put c pl 0
  else do
    let pa ← match at_ with
      | some pa => pure pa
      | none => do
        let (pa, _) ← access c va (if k = .waitv then .waitv else .tagged)
        owned pa va
        pure pa
    let s ← get
    let w := s.wordNow c pa
    let staged := region pa == .staging
    let wait : Wait := { kind := k, addr := va, key := pa, data := data, off := off, base := base, old := x.toNat }
    if staged && (!s.present pa || s.busyWord pa 4) then stop (.wait (if at_.isSome then wait else { kind := .slice, addr := va, key := pa / 4 }))
    else do
      cleanWord pa
      let ready := match k with
        | .ste => !s.isFull pa
        | .waitv => w != x
        | _ => s.isFull pa
      if !ready then stop (.wait wait)
      else if k = .ste then do
        let _ ← tagLane c pa (some x.toNat) (some true)
      else do
        if !staged then watchLane c pa
        else do
          let _ ← tagLane c pa none (if k = .ldf then some false else none)
        put c pl w

/-- What a further attempt of a waiting tagged operation or WAITV does in the lane (R253). -/
def State.attempt (s : State) (crew lane : Nat) (w : Wait) : Except Stop (Unit × State) :=
  let t := s.thread crew lane
  let c0 := s.ctxOf { core := coreOf crew, pipe := 0, parts := [], pc := t.pc, len := 4, word := 0 } crew lane
  let s := (s.modThread crew lane fun t => { t with st := .ofCode w.was }).past c0
  tagged w.kind w.base w.off w.data (some w.key) { c0 with helper := w.was != 0 } (s.modThread crew lane Thread.countStep)

/-- Whether a further attempt does not wait. -/
def State.attemptReady (s : State) (crew lane : Nat) (w : Wait) : Bool :=
  match s.attempt crew lane w with
  | .ok _ | .error (.poisoned _) => true
  | .error _ => false

/-- Try a waiting tagged operation or WAITV of a lane again; a test that fails is no operation (R110). -/
def State.retryTagged (s : State) (crew lane : Nat) (w : Wait) : State :=
  match s.attempt crew lane w with
  | .ok (_, s') =>
    s'.joinPeers crew lane (s.thread crew lane).pc.toNat
  | .error (.poisoned pa) => s.killPoisoned (s.crew crew).group pa
  | .error _ => s

/-- Whether a wait is one of the tagged operations or WAITV. -/
def WaitKind.onWord : WaitKind → Bool
  | .ldf | .ldfk | .ste | .waitv => true
  | _ => false

/-- A tagged operation that may wait. -/
def taggedInstr (i : Instr) (k : WaitKind) (b : BitVec 3) (o d : BitVec 6) (s : State) : Res :=
  onThreads (shapeOf i) (quietly fun c => tagged k b o d none c) s

/-- LDF: waits for full, takes the word and leaves it empty (R252). -/
def execLdf (c : BitVec 3) (l : BitVec 1) (b : BitVec 3) (o d : BitVec 6) (n : BitVec 1) (p : BitVec 4) (s : State) : Res :=
  taggedInstr (.ldf c l b o d n p) .ldf b o d s

/-- LDFK: waits for full, and leaves the word full (R252). -/
def execLdfk (c : BitVec 3) (l : BitVec 1) (b : BitVec 3) (o d : BitVec 6) (n : BitVec 1) (p : BitVec 4) (s : State) : Res :=
  taggedInstr (.ldfk c l b o d n p) .ldfk b o d s

/-- STE: waits for empty, and fills the word (R252). -/
def execSte (c : BitVec 3) (l : BitVec 1) (b : BitVec 3) (o d : BitVec 6) (n : BitVec 1) (p : BitVec 4) (s : State) : Res :=
  taggedInstr (.ste c l b o d n p) .ste b o d s

/-- A store to the word and its bit, or to its bit alone: STF and SETE (R252). -/
def tagStore (c : Ctx) (va : DWord) (x : Option Word) : LaneM Unit :=
  if c.helper then pure ()
  else do
    let (pa, _) ← access c va .tagged
    let s ← get
    if s.busyWord pa 4 then stop (.wait { kind := .slice, addr := va, key := pa / 4 })
    else do
      cleanWord pa
      let _ ← tagLane c pa (x.map BitVec.toNat) (some x.isSome)

/-- STF (R252). -/
def execStf (c : BitVec 3) (l : BitVec 1) (b : BitVec 3) (o d : BitVec 6) (n : BitVec 1) (p : BitVec 4) (s : State) : Res :=
  onThreads (shapeOf (.stf c l b o d n p))
    (quietly fun c => do
      let va ← basePair c b o
      let x ← src c d.toNat
      tagStore c va (some x)) s

/-- SETE: the word is left empty and unchanged (R252). -/
def execSete (c : BitVec 3) (l : BitVec 1) (b : BitVec 3) (o : BitVec 6) (n : BitVec 1) (p : BitVec 4) (s : State) : Res :=
  onThreads (shapeOf (.sete c l b o n p))
    (quietly fun c => do
      let va ← basePair c b o
      tagStore c va none) s

/-- WAITV: waits until the word differs from the data operand (R252). -/
def execWaitv (c : BitVec 3) (l : BitVec 1) (b : BitVec 3) (o d : BitVec 6) (n : BitVec 1) (p : BitVec 4) (s : State) : Res :=
  taggedInstr (.waitv c l b o d n p) .waitv b o d s

/-! ## Atomics and reductions -/

/-- A returning ATOM in a lane (R255, R256, R258). -/
def atomicInstr (i : Instr) (op : AtomOp) (scope : Nat) (w : BitVec 1) (a : BitVec 4) (d : BitVec 6) (s : State) : Res :=
  onThreads (shapeOf i) (fun c => do
    let va ← namedPair c (2 * a.toNat)
    let x ← srcV c w d.toNat
    let pl ← dstV c w d.toNat
    if c.helper then do
      putV c w pl 0
      pure none
    else do
      let g ← once c do
        let (pa, k) ← access c va (.atomic (wideBytes (w == 1)))
        owned pa va
        gotOp c va pa k (.atomic op (w == 1) (pa % 128) x.toNat) scope false
      clean g.pa g.result
      putV c w pl (BitVec.ofNat 64 g.result.val)
      raise c (g.op.flags g.result)) s

/-- ATOM on integers, 32 bits (R255). -/
def execAtomIntW (c : BitVec 3) (l : BitVec 1) (u : BitVec 3) (a : BitVec 4) (d : BitVec 6) (n : BitVec 1) (p : BitVec 4) (s : State) : Res :=
  atomicInstr (.atomIntW c l u a d n p) (.ofInt u.toNat) c.toNat 0 a d s

/-- ATOM on integers, 64 bits (R255). -/
def execAtomIntD (c : BitVec 3) (l : BitVec 1) (u : BitVec 3) (a : BitVec 4) (d : BitVec 6) (n : BitVec 1) (p : BitVec 4) (s : State) : Res :=
  atomicInstr (.atomIntD c l u a d n p) (.ofInt u.toNat) c.toNat 1 a d s

/-- ATOM SWAP (R256). -/
def execAtomSwap (c : BitVec 3) (l w : BitVec 1) (a : BitVec 4) (d : BitVec 6) (n : BitVec 1) (p : BitVec 4) (s : State) : Res :=
  atomicInstr (.atomSwap c l w a d n p) .swap c.toNat w a d s

/-- ATOM FADD (R256, R258). -/
def execAtomFadd (c : BitVec 3) (l w : BitVec 1) (a : BitVec 4) (d : BitVec 6) (n : BitVec 1) (p : BitVec 4) (s : State) : Res :=
  atomicInstr (.atomFadd c l w a d n p) .fadd c.toNat w a d s

/-- ATOM FMIN (R256). -/
def execAtomFminF32 (c : BitVec 3) (l : BitVec 1) (a : BitVec 4) (d : BitVec 6) (n : BitVec 1) (p : BitVec 4) (s : State) : Res :=
  atomicInstr (.atomFminF32 c l a d n p) .fmin c.toNat 0 a d s

/-- ATOM FMAX (R256). -/
def execAtomFmaxF32 (c : BitVec 3) (l : BitVec 1) (a : BitVec 4) (d : BitVec 6) (n : BitVec 1) (p : BitVec 4) (s : State) : Res :=
  atomicInstr (.atomFmaxF32 c l a d n p) .fmax c.toNat 0 a d s

/-- ATOM CAS: compare and new value stand in named registers from dst (R257). -/
def execAtomCas (c : BitVec 3) (l w : BitVec 1) (a : BitVec 4) (d : BitVec 6) (n : BitVec 1) (p : BitVec 4) (s : State) : Res :=
  onThreads (shapeOf (.atomCas c l w a d n p))
    (quietly fun x => do
      let scope := c.toNat
      let c := x
      let va ← namedPair c (2 * a.toNat)
      let (cmp, new) ← if w = 0 then do
          let x ← srcD c d.toNat
          pure (x.lo.toNat, x.hi.toNat)
        else do
          let x ← srcD c d.toNat
          let y ← srcD c (d.toNat + 2)
          pure (x.toNat, y.toNat)
      let pl ← dstV c w d.toNat
      if c.helper then putV c w pl 0
      else do
        let g ← once c do
          let (pa, k) ← access c va (.atomic (wideBytes (w == 1)))
          owned pa va
          gotOp c va pa k (.cas (w == 1) (pa % 128) cmp new) scope false
        clean g.pa g.result
        putV c w pl (BitVec.ofNat 64 g.result.val)) s

/-- A RED at a physical address in a lane (R111, R258, R259): a contribution to an open window's target, or an operation whose flags go to the
context's memory-exception word. -/
def reduceLane (c : Ctx) (va : DWord) (pa : Nat) (k : PageKind) (op : AtomOp) (wide : Bool) (x scope ctx : Nat) : LaneM Got := do
  let s ← get
  let red := LineOp.reduce op wide (pa % 128) x ctx
  match if op = .fadd then s.windowAt pa wide else none with
  | some (win, target) =>
    fun s =>
      let (ts, s) := s.contribute win target x ctx (s.thread c.crew c.lane).time false
      .ok ({ pa := pa, op := red, result := { ts := ts } },
        if (mfind s.crews c.crew).isNone then s else s.modThread c.crew c.lane fun t => { t with time := ts })
  | none => do
    let g ← gotOp c va pa k red scope false
    modState fun s => s.reduceFlags g.op g.result
    pure g

/-- A RED in a lane (R255, R256). -/
def reduceInstr (i : Instr) (op : AtomOp) (scope : Nat) (w : BitVec 1) (a : BitVec 4) (d : BitVec 6) (s : State) : Res :=
  onThreads (shapeOf i)
    (quietly fun c => do
      let va ← namedPair c (2 * a.toNat)
      let x ← srcV c w d.toNat
      if c.helper then pure ()
      else do
        let _ ← once c do
          let (pa, k) ← access c va (.atomic (wideBytes (w == 1)))
          owned pa va
          let v ← myView c
          reduceLane c va pa k op (w == 1) x.toNat scope v.ctx) s

/-- RED on integers, 32 bits (R255). -/
def execRedIntW (c : BitVec 3) (l : BitVec 1) (u : BitVec 3) (a : BitVec 4) (d : BitVec 6) (n : BitVec 1) (p : BitVec 4) (s : State) : Res :=
  reduceInstr (.redIntW c l u a d n p) (.ofInt u.toNat) c.toNat 0 a d s

/-- RED on integers, 64 bits (R255). -/
def execRedIntD (c : BitVec 3) (l : BitVec 1) (u : BitVec 3) (a : BitVec 4) (d : BitVec 6) (n : BitVec 1) (p : BitVec 4) (s : State) : Res :=
  reduceInstr (.redIntD c l u a d n p) (.ofInt u.toNat) c.toNat 1 a d s

/-- RED on floating-point values (R255). -/
def execRedFloat (c : BitVec 3) (l : BitVec 1) (u : BitVec 3) (a : BitVec 4) (d : BitVec 6) (n : BitVec 1) (p : BitVec 4) (s : State) : Res :=
  let op : AtomOp := if u.toNat < 2 then .fadd else if u.toNat = 2 ∨ u.toNat = 4 then .fmin else .fmax
  reduceInstr (.redFloat c l u a d n p) op c.toNat (if u = 1 ∨ 4 ≤ u.toNat then 1 else 0) a d s

/-! ## Barriers, fences and code publication -/

/-- BAR: each executing lane that is no helper arrives at the group barrier (R262). -/
def execBar (c : BitVec 3) (n : BitVec 1) (p : BitVec 4) (s : State) : Res :=
  converge (.bar c n p) (fun c => if c.helper then pure () else modState fun s => s.arriveBar c) s

/-- GBAR: arrival at the gang barrier, or at the group barrier where the group is alone (R262). -/
def execGbar (c : BitVec 3) (n : BitVec 1) (p : BitVec 4) (s : State) : Res :=
  converge (.gbar c n p)
    (fun c =>
      if c.helper then pure ()
      else modState fun s =>
        match (s.group c.group).gang with
        | some k => if 1 < (s.gang k).groups.length then s.arriveGbar c k else s.arriveBar c
        | none => s.arriveBar c) s

/-- FENCE.IO: in this model every earlier access has been performed when the next instruction issues, but for one to another package, which
holds its lane itself (R121). -/
def execFenceIo (n : BitVec 1) (p : BitVec 4) (s : State) : Res :=
  onThreads (shapeOf (.fenceIo n p)) (quietly fun _ => pure ()) s

/-- CODEPUB: its operation has no location and takes the lane's program time (R108, R120); instruction caches hold nothing in this model. A
range with an address whose bits [63:56] are set takes the address fault (R404). -/
def execCodepub (a d : BitVec 6) (n : BitVec 1) (p : BitVec 4) (s : State) : Res :=
  onThreads (shapeOf (.codepub a d n p))
    (quietly fun c => do
      let va ← srcD c a.toNat
      let len ← src c d.toNat
      if c.helper || len == 0 then pure ()
      else if 2 ^ 56 < va.toNat + len.toNat then
        trap 5 0 0 (if va.toNat < 2 ^ 56 then BitVec.ofNat 64 (2 ^ 56) else va)
      else pure ()) s

/-- ISYNC: fetched instructions are discarded; the model fetches each instruction as it issues (R120). -/
def execIsync (n : BitVec 1) (p : BitVec 4) (s : State) : Res :=
  onThreads (shapeOf (.isync n p)) (quietly fun _ => pure ()) s

end Sys2Proof.Machine
end

