-- ==== Sys2Proof/Machine/Puts.lean ====
section
/-! DEFINITION. Holds and register puts (R270 to R275): the name table decides each put's delivery. -/

namespace Sys2Proof.Machine

/-! ## Names -/

/-- INDEX, GEN and PKG of a group name (R67). -/
def nameIndex (name : Nat) : Nat := natBits name 8 14
def nameGen (name : Nat) : Nat := natBits name 2 6
def namePkg (name : Nat) : Nat := natBits name 22 10

/-- The group that a name names, where it has not retired and its generation is the name's (R272). -/
def State.named (s : State) (name : Nat) : Option Group :=
  match mfind s.groups (nameIndex name) with
  | some g => if g.name.toNat / 4 % 64 = nameGen name ∧ nameIndex name < 16384 then some g else none
  | none => none

/-! ## The saved image (R453) -/

/-- Offset of a thread's section in a group image. -/
def laneOffset (asize thread : Nat) : Nat :=
  256 + thread / 32 * (256 + 32 * (512 + 4 * asize)) + 256 + thread % 32 * (512 + 4 * asize)

/-- Deliver a put into a saved image: the register's slot is written, and its hold bit cleared (R272). -/
def State.putImage (s : State) (g : Group) (thread reg : Nat) (wide : Bool) (data : DWord) : State :=
  let a := s.saveArea + g.image + laneOffset g.asize thread
  let clear := fun (h r : Nat) => if natBits h r 1 = 1 then h - 2 ^ r else h
  let h := clear (s.peekNat (a + 12) 4) reg
  let h := if wide then clear h (reg + 1) else h
  let s := s.fwPut (a + 12) h 4
  s.fwPut (a + 384 + 4 * reg) (if wide then data.toNat else data.lo.toNat) (if wide then 8 else 4)

/-! ## Delivery -/

/-- Whether a wait is for a held register, by an instruction that reads the given one: its read completes with the put (R115). -/
def Wait.joins (w : Wait) (r : Nat) : Bool := w.kind == .heldReg && natBits w.old r 1 == 1

/-- A put reaches a register: its hold is cleared, unless a HOLD of the same arith cycle has set it (R270); a lane that waits to read it joins the
put (R115, R272). -/
def Thread.takePut (t : Thread) (r : Nat) (x : Word) (ts : Nat) : Thread :=
  let t := { t.setReg r x with hold := t.hold &&& ~~~(bitOf r &&& ~~~t.holdNow) }
  let joins : Bool := match t.st with
    | .waiting w => w.joins r
    | _ => false
  if joins then { t with time := max t.time ts, puts := mset t.puts r (max t.time ts) }
  else { t with puts := mset t.puts r ts }

/-- A put reaches a register of a saved thread: its timestamp, or that of the read that joins it (R115). -/
def Group.takeSavedPut (g : Group) (thread reg ts : Nat) : Group :=
  if g.savedWaits.any fun x => x.1 == thread && x.2.1.joins reg then
    let time := max (g.savedTimes.getD thread 0) ts
    { g with savedTimes := g.savedTimes.set thread time, savedPuts := mset g.savedPuts (32 * thread + reg) time }
  else { g with savedPuts := mset g.savedPuts (32 * thread + reg) ts }

/-- What became of a put: its timestamp, or a refusal code (R272). -/
abbrev Delivered := Except Nat Nat

/-- The name table delivers or refuses a put (R272): the first refusal of 1, 3 and 2. -/
def State.deliverPut (s : State) (name thread reg : Nat) (wide : Bool) (data : DWord) (time : Nat) : Delivered × State :=
  match s.named name with
  | none => (.error 1, s)
  | some g =>
    let gk := nameIndex name
    if g.threads ≤ thread then (.error 3, s)
    else if g.nregs ≤ (if wide then reg + 1 else reg) then (.error 2, s)
    else if g.place = .resident then
      match (s.crewsOf gk).find? fun ck => (s.crew ck).index == thread / 32 with
      | none => (.error 1, s)
      | some ck =>
        let t := s.thread ck (thread % 32)
        let ts := max time (max (mget 0 t.puts reg) (if wide then mget 0 t.puts (reg + 1) else 0) + 1)
        (.ok ts, s.modThread ck (thread % 32) fun t =>
          let t := t.takePut reg data.lo ts
          if wide then t.takePut (reg + 1) data.hi ts else t)
    else
      let key := fun (r : Nat) => 32 * thread + r
      let ts := max time (max (mget 0 g.savedPuts (key reg)) (if wide then mget 0 g.savedPuts (key (reg + 1)) else 0) + 1)
      (.ok ts, (s.putImage g thread reg wide data).modGroup gk fun g =>
        let g := g.takeSavedPut thread reg ts
        if wide then g.takeSavedPut thread (reg + 1) ts else g)

/-- The issuer of a put learns of its delivery or refusal (R114, R272). -/
def State.answerPut (s : State) (f : PutFrom) (status ts : Nat) : State :=
  match f with
  | .lane k =>
    match mfind s.threads k with
    | some t =>
      match t.st with
      | .waiting w =>
        if w.kind = .remote then
          { s with threads := mset s.threads k { t with reply := some { status := status, addr := w.addr }, time := max t.time ts } }
        else s
      | _ => s
    | none => s
  | .request k => { s with served := mmap s.served fun j x =>
      if j = k then { x with puts := x.puts - 1, ts := max x.ts ts, status := if x.status = 0 then status else x.status } else x }

/-- Whether a put's target is being moved between its core and the save area: the put is queued (R272). -/
def State.moving (s : State) (p : QueuedPut) : Bool := (s.named p.name).any fun g => g.place == .moving

/-- The puts that the name table queues for groups being moved: the first 1,024; those after them are held at their targets' ingress until a place
frees (R272). -/
def State.queuedPuts (s : State) : List QueuedPut := (s.putQueue.filter s.moving).take 1024

/-- A put arrives (R272). -/
def State.arrivePut (s : State) (p : QueuedPut) : State := { s with putQueue := s.putQueue ++ [p] }

/-- At the end of an arith cycle the puts that have arrived are delivered or refused in the order of their arrival (R272, R273), but for those whose
targets are being moved. -/
def State.deliverPuts (s : State) : State :=
  s.putQueue.foldl (fun (s : State) p =>
    if s.moving p then s.arrivePut p
    else
      match s.deliverPut p.name p.thread p.reg p.wide p.data p.time with
      | (.ok ts, s) => s.answerPut p.from_ 0 ts
      | (.error code, s) => s.answerPut p.from_ code p.time) { s with putQueue := [] }

/-- PUTERR after another undelivered put (R275). -/
def putErrNext (old : Word) (code thread reg : Nat) : Word :=
  let count := min (natBits old.toNat 0 13 + 1) 8191
  if natBits old.toNat 28 3 = 0 then BitVec.ofNat 32 (code * 2 ^ 28 + thread % 1024 * 2 ^ 18 + reg * 2 ^ 13 + count)
  else BitVec.ofNat 32 (2 ^ 31 + natBits old.toNat 13 18 * 2 ^ 13 + count)

/-- A put of a group was refused (R275, R406). -/
def State.putRefused (s : State) (gk code thread reg : Nat) : State :=
  s.modGroup gk fun g => { g with putErr := putErrNext g.putErr code thread reg }

/-- HOLD: the register's hold bit is set; a helper lane's acts as well (R270). -/
def execHold (l : BitVec 4) (d : BitVec 6) (n : BitVec 1) (p : BitVec 4) (s : State) : Res :=
  onThreads (shapeOf (.hold l d n p)) (quietly fun c => modMe c fun t =>
    { t with hold := t.hold ||| bitOf d.toNat, holdNow := t.holdNow ||| bitOf d.toNat }) s

end Sys2Proof.Machine
end

