-- ==== Sys2Proof/Machine/Fabric.lean ====
section
/-! DEFINITION. The fabric (R357 to R366, R440 to R443): egress, routes, vector packets and their replies, and the operations that other
packages ask for. -/

namespace Sys2Proof.Machine

/-! ## Routes -/

def State.portDown (s : State) (p : Nat) : Bool := mget false s.ports p

/-- The pair of ports of die `d` that joins a package to a clique peer (R358). -/
def cliquePort (self peer d : Nat) : Nat := 64 * d + 2 * ((peer % 16 + 31 - self % 16) % 16)

/-- Ports towards a clique peer in the order of R360 rule 2: the port that PAGE[0] selects, the other of its pair, and the other die's. -/
def cliqueOrder (self peer d page : Nat) : List Nat :=
  let a := cliquePort self peer d
  let b := cliquePort self peer (1 - d)
  [a + page % 2, a + (1 - page % 2), b + page % 2, b + (1 - page % 2)]

/-- Port of plane i of a die (R358). -/
def planePort (d i : Nat) : Nat := 64 * d + 30 + i

/-- Whether another package has a port up towards a clique peer (R361). -/
def State.peerReaches (s : State) (x peer d page : Nat) : Bool := (cliqueOrder x peer d page).any fun p => !s.peerDown.contains (x, p)

/-- The ports that may carry a packet, in the order of R360 and R361: `d` is the die of the issuing core. -/
def State.routes (s : State) (peer d page : Nat) : List Nat :=
  let up := fun (l : List Nat) => l.filter fun p => !s.portDown p
  if peer / 16 = s.pkgId / 16 then
    match up (cliqueOrder s.pkgId peer d page) with
    | [] =>
      let base := 16 * (s.pkgId / 16)
      match ((List.range 16).map (base + ·)).find? fun x =>
        x != s.pkgId && x != peer && !(up (cliqueOrder s.pkgId x d page)).isEmpty && s.peerReaches x peer d page with
      | some x => up (cliqueOrder s.pkgId x d page)
      | none => []
    | l => l
  else up ((List.range 34).map fun i => planePort d ((peer + page % 64 + i) % 34))

/-! ## Egress -/

/-- A lane's entry in a packet. -/
structure Entry where
  lane : Nat
  req : RemoteReq
deriving DecidableEq, Repr

/-- The numbers of a list laid side by side, `w` bits each, the first lowest. -/
def concatBits (w : Nat) : List Nat → Nat
  | [] => 0
  | x :: r => x % 2 ^ w + 2 ^ w * concatBits w r

/-- The packet of some lanes' accesses (R365). -/
def buildPacket (self tag : Nat) (l : List Entry) : Packet :=
  match l with
  | [] => { hdr := 0, offs := 0, data := 0 }
  | e :: _ =>
    let r := e.req
    let mask := l.foldl (fun m e => m + 2 ^ e.lane) 0
    let hdr := r.op % 256 + 2 ^ 8 * (r.size % 8) + 2 ^ 16 * (r.peer % 1024) + 2 ^ 26 * self + 2 ^ 36 * (r.ctx % 65536)
      + 2 ^ 52 * (tag % 4096) + 2 ^ 64 * (r.page % 2 ^ 40) + 2 ^ 104 * (r.reg % 32) + (if r.wide then 2 ^ 109 else 0) + 2 ^ 128 * mask
      + 2 ^ 160 * (r.ts % 2 ^ 64)
    { hdr := BitVec.ofNat 256 hdr, offs := BitVec.ofNat 512 (concatBits 16 (l.map (·.req.off)))
      data := BitVec.ofNat 4096 (concatBits (8 * 2 ^ r.size) (l.map (·.req.data))) }

/-- The lanes of a packet, by its MASK, in order. -/
def Packet.lanes (p : Packet) : List Nat := lanes32.filter fun l => natBits p.hdr.toNat (128 + l) 1 == 1

/-- OP[6:0] of a packet. -/
def Packet.opcode (p : Packet) : Nat := natBits p.hdr.toNat 0 7

/-- Bytes of an element. -/
def Packet.size (p : Packet) : Nat := 2 ^ natBits p.hdr.toNat 8 3

/-- The element of the n-th lane of a packet. -/
def Packet.elem (p : Packet) (n : Nat) : Nat := natBits p.data.toNat (8 * p.size * n) (8 * p.size)

/-- Add zeros up to a multiple of `n` bytes. -/
def padTo (n : Nat) (b : List Byte) : List Byte := b ++ List.replicate ((n - b.length % n) % n) 0

/-- A packet's bytes (R365): the header; a request's offsets, padded to 16 bytes; the data elements that the operation carries, padded to 16
bytes; and zeros up to a multiple of 64. `elems` says whether there are data elements. -/
def Packet.bytes (p : Packet) (elems : Bool) : List Byte :=
  let n := p.lanes.length
  let offs := if p.opcode = 0x40 then [] else padTo 16 (leBytes p.offs.toNat (2 * n))
  let data := if elems then padTo 16 (leBytes p.data.toNat (p.size * n)) else []
  padTo 64 (leBytes p.hdr.toNat 32 ++ offs ++ data)

/-- The virtual channel of a request (R363): puts on their own, COLL operations on theirs. -/
def Packet.channel (p : Packet) (coll : Bool) : Nat := if coll then 3 else if p.opcode = 0x20 then 2 else 0

/-- A request leaves on a port (R363, R365). -/
def State.sendRequest (s : State) (port : Nat) (p : Packet) (coll : Bool) : State :=
  s.send (.packet port (p.channel coll) (p.bytes (p.opcode != 0)) p.poison)

/-- A transaction tag of a die that no packet holds and that is not cooling (R441); die d uses tags 2048 d to 2048 d + 2047, so that a tag
names one packet of the package. -/
def State.freeTag (s : State) (d : Nat) : Option Nat :=
  let key := fun (t : Nat) => 4096 * d + t
  let inFlight := (s.sent.filter fun e => e.1 / 4096 == d).length
  if 512 ≤ inFlight then none
  else ((List.range 2048).map (2048 * d + ·)).find? fun t =>
    (mfind s.sent (key t)).isNone && decide (mget 0 s.tagFree (key t) ≤ s.clock)

/-- The package a packet is for. -/
def Packet.peer (p : Packet) : Nat := natBits p.hdr.toNat 16 10
def Packet.page (p : Packet) : Nat := natBits p.hdr.toNat 64 40

/-- Whether two requests leave in one packet: the same operation, peer and 64 KiB block (R103). -/
def RemoteReq.joins (a b : RemoteReq) : Bool :=
  a.op == b.op && a.size == b.size && a.peer == b.peer && a.ctx == b.ctx && a.page == b.page && a.reg == b.reg && a.wide == b.wide

/-- The lanes of a crew whose accesses egress has still to send, at the instruction at `pc`. -/
def State.unsent (s : State) (crew : Nat) (pc : DWord) : List Entry :=
  lanes32.filterMap fun l =>
    let t := s.thread crew l
    match t.st with
    | .waiting w => if w.kind = .egress ∧ t.pc = pc then w.req.map fun r => ({ lane := l, req := r } : Entry) else none
    | _ => none

/-- The key with which a lane awaits the delivery of a put to its own package. -/
def ownPut : Nat := 2 ^ 20

/-- A lane's put to a group of its own package goes to the name table, and the lane awaits its delivery (R114, R115, R272). -/
def State.putOwn (s : State) (crew : Nat) (e : Entry) : State :=
  let r := e.req
  let s := s.modThread crew e.lane fun t =>
    match t.st with
    | .waiting w => { t with st := .waiting { w with kind := .remote, key := ownPut, req := none } }
    | _ => t
  s.arrivePut { name := natBits r.page 0 32, thread := r.off, reg := r.reg, wide := r.wide, data := BitVec.ofNat 64 r.data, time := r.ts,
                from_ := .lane (32 * crew + e.lane) }

/-- Egress sends the accesses of a crew's lanes at one instruction, grouped in the order of their lowest lane (R103, R364); lanes for which
no tag is free wait on. The packet carries the largest program time of its lanes. Puts to this package's own groups need no packet. -/
def State.sendLanes (s : State) (crew : Nat) (pc : DWord) : (fuel : Nat) → State
  | 0 => s
  | fuel + 1 =>
    match s.unsent crew pc with
    | [] => s
    | e :: r =>
      let d := dieOf (coreOf crew)
      if e.req.peer = s.pkgId then (s.putOwn crew e).sendLanes crew pc fuel
      else match s.freeTag d, s.routes e.req.peer d e.req.page with
      | some tag, port :: _ =>
        let mates := e :: r.filter fun x => x.req.joins e.req
        let ts := mates.foldl (fun m x => max m x.req.ts) 0
        let p := buildPacket s.pkgId tag (mates.map fun x => { x with req := { x.req with ts := ts } })
        let s := { s.sendRequest port p false with sent := mset s.sent (4096 * d + tag) { packet := p, crew := crew, lastSent := s.clock } }
        let s := mates.foldl (fun s x => s.modThread crew x.lane fun t =>
          match t.st with
          | .waiting w => { t with st := .waiting { w with kind := .remote, key := 4096 * d + tag, req := none } }
          | _ => t) s
        s.sendLanes crew pc fuel
      | _, _ => s

/-- After an instruction of capability form, egress takes the lanes' accesses. -/
def State.egress (s : State) (i : Issue) : State := i.parts.foldl (fun s p => s.sendLanes p.crew i.pc 32) s

/-! ## Replies -/

/-- A reply arrives (R114, R365, R443): each lane of the packet takes its element and STATUS and its program time becomes the timestamp; the
lane's instruction then completes. A reply to no packet is dropped. -/
def execPlacementReply (die : BitVec 1) (tag : BitVec 12) (status : BitVec 5) (ts : BitVec 64) (mask : BitVec 32) (data : BitVec 4096)
    (s : State) : Res :=
  match s.unit with
  | .none =>
    let key := 4096 * die.toNat + tag.toNat
    match mfind s.sent key with
    | none => .next s
    | some x =>
      let s := { s with sent := mdel s.sent key, tagFree := mset s.tagFree key (s.clock + 2 ^ 21) }
      match x.engine with
      | some e =>
        .next (s.modCluster (e / 64) fun k => { k with armed := mmap k.armed fun p a =>
          if p = e % 64 then { a with time := max a.time ts.toNat, awaited := a.awaited - 1, bad := if status = 0 then a.bad else some status.toNat }
          else a })
      | none =>
        .next (x.packet.lanes.zipIdx.foldl (fun s e =>
          match (s.thread x.crew e.1).st with
          | .waiting wt =>
            if wt.kind = .remote ∧ wt.key = key ∧ mask.getLsbD e.1 then
              let w := 8 * x.packet.size
              s.modThread x.crew e.1 fun t =>
                { t with reply := some { status := status.toNat, data := natBits data.toNat (w * e.2) w, sent := x.packet.elem e.2, addr := wt.addr }
                         time := max t.time ts.toNat }
            else s
          | _ => s) s)
  | _ => .next s

/-- A packet unanswered for 2^18 arith cycles is sent again on the next route; after four sends the group is killed, or the launch of an
engine operation ended (R441, R442). -/
def execPacketResend (die : BitVec 1) (tag : BitVec 12) (s : State) : Res :=
  match s.unit with
  | .none =>
    let key := 4096 * die.toNat + tag.toNat
    match mfind s.sent key with
    | none => .next s
    | some x =>
      if s.clock < x.lastSent + 2 ^ 18 then .next s
      else if 4 ≤ x.sends then
        let s := { s with sent := mdel s.sent key, tagFree := mset s.tagFree key (s.clock + 2 ^ 21) }
        match x.engine with
        | some e => .next (s.terminate (mget { kind := .coll, launch := 0, desc := [] } (s.cluster (e / 64)).armed (e % 64)).launch 0x11B)
        | none => .next (if (mfind s.crews x.crew).isSome then s.killGroup (s.crew x.crew).group 0x11B else s)
      else
        let routes := s.routes x.packet.peer die.toNat x.packet.page
        match routes[(x.route + 1) % max 1 routes.length]? with
        | none => .next { s with sent := mset s.sent key { x with lastSent := s.clock, sends := x.sends + 1 } }
        | some port =>
          .next { s.sendRequest port x.packet x.engine.isSome with
            sent := mset s.sent key { x with lastSent := s.clock, sends := x.sends + 1, route := x.route + 1 } }
  | _ => .next s

/-! ## Operations for other packages -/

/-- What an operation of R365 does. -/
inductive RemoteOp where
  | load | store
  | atomic (op : AtomOp) (wide : Bool)
  | reduce (op : AtomOp) (wide : Bool)
  | put
deriving DecidableEq, Repr

/-- The operation of OP[6:0] (R365). -/
def RemoteOp.ofCode (op : Nat) : Option RemoteOp :=
  if op = 0 then some .load
  else if op = 1 then some .store
  else if 8 ≤ op ∧ op < 16 then some (.atomic (.ofAmoc (op - 8)) false)
  else if 16 ≤ op ∧ op < 24 then some (.reduce (.ofAmoc (op - 16)) false)
  else if op = 0x18 then some (.reduce .fadd true)
  else if op = 0x20 then some .put
  else none

/-- The class of an operation (R249). -/
def RemoteOp.cls (o : RemoteOp) (n : Nat) : Class :=
  match o with
  | .load => .load n
  | .store => .store n
  | .put => .store n
  | _ => .atomic n

/-- What an operation does to its line, at an offset, with its element (R366); a put is none of these. -/
def RemoteOp.lineOp (o : RemoteOp) (ctx off n x : Nat) : LineOp :=
  match o with
  | .load => .load off n
  | .store | .put => .store off n x
  | .atomic op wide => .atomic op wide off x
  | .reduce op wide => .reduce op wide off x ctx

/-- Whether a reply returns elements (R365). -/
def RemoteOp.returns : RemoteOp → Bool
  | .load | .atomic _ _ => true
  | _ => false

/-- The STATUS with which a target refuses an access (R443). -/
def statusOf (code : Nat) : Nat :=
  if code = 5 then 4 else if code = 7 then 6 else if code = 8 then 7 else if code = 0x0D then 8 else if code = 0x0A then 11 else 7

/-- Resolve a lane's access at the target (R364): its physical address and whether it is a window access, or the STATUS. Pages that firmware
can fill are filled first. -/
def State.reachRemote (s : State) (ctx va : Nat) (k : Class) : Except Nat (State × Nat × PageKind) :=
  let v : View := { ctx := ctx, group := 2 ^ 20 }
  let try_ := fun (s : State) => s.resolve v (BitVec.ofNat 64 va) k
  if (mfind s.contexts ctx).isNone then .error 10
  else
    match try_ s with
    | .ok r => .ok r
    | .error (.trap code _ _ _ _) => .error (statusOf code)
    | .error (.fill pte e level) =>
      match s.fillPage pte e level with
      | .error _ => .error 6
      | .ok s' =>
        match try_ s' with
        | .ok r => .ok r
        | .error (.trap code _ _ _ _) => .error (statusOf code)
        | .error _ => .error 6
    | .error _ => .error 6

/-- Perform a lane of a request at a physical address (R366): its STATUS, element and timestamp. -/
def State.performRemote (s : State) (o : RemoteOp) (ctx pa : Nat) (k : PageKind) (n x t : Nat) : Nat × Nat × Nat × State :=
  let op := o.lineOp ctx (pa % 128) n x
  if !s.coreOwned pa then (8, 0, t, s)
  else if o.returns && s.peekBad pa n then (9, 0, t, s)
  else if region pa = .device then
    match o with
    | .store => (0, 0, t, s.devWrite (pa - deviceBase) x n)
    | _ => (0, s.devRead (pa - deviceBase) n, t, s)
  else if !k.ordered then
    let (r, s) := s.memRun pa op
    (0, r.val, t, s)
  else
    let (r, s) := s.homeOp pa op t
    (0, r.val, r.ts, s)

/-- One lane of a request at its target: the STATUS, element and timestamp (R366, R443); none while its staging word's line is absent or the slice
has served the word in this arith cycle (R89, R254). -/
def State.remoteLane (s : State) (kind1 : Bool) (o : RemoteOp) (ctx page off n x t : Nat) : Option (Nat × Nat × Nat × State) :=
  if kind1 then
    match s.named (natBits page 0 32) with
    | none => some (12, 0, t, s)
    | some g =>
      let off := natBits page 32 8 * 65536 + off
      if g.win0Size < off + n then some (11, 0, t, s)
      else if !s.present (g.win0 off) || s.busyWord (g.win0 off) n then none
      else some (s.performRemote o ctx (g.win0 off) .staging n x t)
  else
    match s.reachRemote ctx (page * 65536 + off) (o.cls n) with
    | .error st => some (st, 0, t, s)
    | .ok (s, pa, k) => some (s.performRemote o ctx pa k n x t)

/-- The reply to a request (R365). -/
def replyPacket (hdr ts status size : Nat) (elems : List Nat) : Packet :=
  { hdr := BitVec.ofNat 256 (0x40 + 2 ^ 8 * size + 2 ^ 11 * status + 2 ^ 16 * natBits hdr 26 10 + 2 ^ 26 * natBits hdr 16 10
      + 2 ^ 52 * natBits hdr 52 12 + 2 ^ 128 * natBits hdr 128 32 + 2 ^ 160 * ts)
    offs := 0, data := BitVec.ofNat 4096 (concatBits (8 * 2 ^ size) elems) }

/-- The reply kept for a source and tag, for as long as the source may not have used the tag again (R441). -/
def State.keptReply (s : State) (key : Nat) : Option Packet :=
  match mfind s.kept key with
  | some (t, p) => if s.clock < t + 2 ^ 21 then some p else none
  | none => none

/-- A reply goes back to its package by the route of a request for the same page to it, on VC 1 (R361, R363, R365); the die of the requester stands in bit 11 of the
tag (notes/assumptions/63.md). A reply for which there is no route is lost, and the kept one answers a further send of the request (R441). -/
def State.sendReply (s : State) (p : Packet) (page : Nat) (elems : Bool) : State :=
  match s.routes p.peer (natBits p.hdr.toNat 63 1) page with
  | port :: _ => s.send (.packet port 1 (p.bytes elems) false)
  | [] => s

/-- Perform the lanes of a request that are still to be performed, in lane order, up to one that has to wait; puts go to the name table (R272,
R366). -/
def State.serveLanes (s : State) (key : Nat) (j : Served) (o : RemoteOp) : (lanes : List Nat) → State
  | [] => { s with served := mset s.served key j }
  | _ :: rest =>
    let h := j.packet.hdr.toNat
    let x := j.packet.elem j.next
    let off := natBits j.packet.offs.toNat (16 * j.next) 16
    let page := natBits h 64 40
    let t := natBits h 160 64
    if o = .put then
      let j := { j with next := j.next + 1, puts := j.puts + 1 }
      (s.arrivePut { name := natBits page 0 32, thread := off, reg := natBits h 104 5, wide := natBits h 109 1 == 1, data := BitVec.ofNat 64 x,
                     time := t, from_ := .request key }).serveLanes key j o rest
    else
      match s.remoteLane (natBits h 7 1 == 1) o (natBits h 36 16) page off j.packet.size x t with
      | none => { s with served := mset s.served key j }
      | some (st, y, ts, s) =>
        s.serveLanes key { j with next := j.next + 1, ts := max j.ts ts, status := if j.status = 0 then st else j.status, elems := j.elems ++ [y] } o rest

/-- Go on with a request of another package: once all its lanes have been performed or refused and its puts delivered, the reply goes out, with the
largest timestamp and the first refusal (R114, R365, R366), and is kept (R441). -/
def State.serve (s : State) (key : Nat) : State :=
  match mfind s.served key with
  | none => s
  | some j =>
    match RemoteOp.ofCode j.packet.opcode with
    | none => { s with served := mdel s.served key }
    | some o =>
      let s := s.serveLanes key j o (j.packet.lanes.drop j.next)
      match mfind s.served key with
      | none => s
      | some j =>
        if j.next < j.packet.lanes.length ∨ j.puts ≠ 0 then s
        else
          let p := replyPacket j.packet.hdr.toNat j.ts j.status (natBits j.packet.hdr.toNat 8 3) (if o.returns then j.elems else [])
          { s with kept := mset s.kept key (s.clock, p), served := mdel s.served key }.sendReply p j.packet.page o.returns

/-- Requests of other packages go on, the lowest key first. -/
def State.serveAll (s : State) : State := (mkeys s.served fun _ _ => true).foldl State.serve s

/-- A request packet of another package has arrived (R366, R441): one whose reply is kept is answered from it, one that is being performed already is
ignored, and another is performed. -/
def State.arrive (s : State) (p : Packet) : State :=
  let h := p.hdr.toNat
  let key := 4096 * natBits h 26 10 + natBits h 52 12
  match RemoteOp.ofCode p.opcode with
  | none => s
  | some o =>
    match s.keptReply key with
    | some r => s.sendReply r p.page o.returns
    | none =>
      if (mfind s.served key).isSome then s
      else { s with served := mset s.served key { packet := p, ts := natBits h 160 64 } }.serve key

/-- A vector request arrives (R366, R441). -/
def execRemoteRequest (hdr : BitVec 256) (offs : BitVec 512) (data : BitVec 4096) (s : State) : Res :=
  match s.unit with
  | .none => .next (s.arrive { hdr := hdr, offs := offs, data := data })
  | _ => .next s

/-- A register put arrives from another package (R272): the packet of one lane that carries it. -/
def putPacket (src self tag name thread reg : Nat) (wide : Bool) (data ts : Nat) : Packet where
  hdr := BitVec.ofNat 256 (0xA0 + 2 ^ 8 * (if wide then 3 else 2) + 2 ^ 16 * (self % 1024) + 2 ^ 26 * src + 2 ^ 52 * tag + 2 ^ 64 * name
    + 2 ^ 104 * reg + (if wide then 2 ^ 109 else 0) + 2 ^ 128 + 2 ^ 160 * ts)
  offs := BitVec.ofNat 512 thread
  data := BitVec.ofNat 4096 data

/-- A register put arrives from another package (R272): it is delivered, queued or refused, and answered. -/
def execPutDelivery (src : BitVec 10) (tag : BitVec 12) (name : BitVec 32) (thread : BitVec 10) (reg : BitVec 5) (wide : BitVec 1)
    (data ts : BitVec 64) (s : State) : Res :=
  match s.unit with
  | .none => .next (s.arrive (putPacket src.toNat s.pkgId tag.toNat name.toNat thread.toNat reg.toNat (wide == 1) data.toNat ts.toNat))
  | _ => .next s

/-- A detour peer forwards a packet to its target without performing it, under rule 2 of R360 for the die of its issuer, which bit 11 of the tag
names (R361). The event gives a packet's fields and not its channel or length (notes/assumptions/129.md). -/
def execDetourForward (hdr : BitVec 256) (offs : BitVec 512) (data : BitVec 4096) (s : State) : Res :=
  match s.unit with
  | .none =>
    let p : Packet := { hdr := hdr, offs := offs, data := data }
    match (cliqueOrder s.pkgId p.peer (natBits hdr.toNat 63 1) p.page).filter fun q => !s.portDown q with
    | port :: _ =>
      .next (if p.opcode = 0x40 then s.send (.packet port 1 (p.bytes (data != 0)) false) else s.sendRequest port p (p.opcode == 0x18))
    | [] => .next s
  | _ => .next s

/-- A fabric port goes down: its record is written, and egress routes around it from the next packet on (R440). -/
def execPortDown (port : BitVec 7) (s : State) : Res :=
  match s.unit with
  | .none =>
    if s.portDown port.toNat then .next s
    else .next ({ s with ports := mset s.ports port.toNat true }.errorRecord 2 12 1 0 port.toNat 0 0 6)
  | _ => .next s

/-- A retrained port carries packets again (R440). -/
def execPortUp (port : BitVec 7) (s : State) : Res :=
  match s.unit with
  | .none =>
    if s.portDown port.toNat then .next ({ s with ports := mdel s.ports port.toNat }.errorRecord 2 12 1 0 port.toNat 0 0 7) else .next s
  | _ => .next s

end Sys2Proof.Machine
end

