-- ==== Sys2Proof/Machine/Caps.lean ====
section
/-! DEFINITION. Capabilities (R98 to R103, R264 to R269): loading, storing and deriving them, and the accesses and register puts that name
one. -/

namespace Sys2Proof.Machine

/-! ## Fields and bounds -/

def Cap.f (c : Cap) (lo n : Nat) : Nat := natBits c.bits.toNat lo n
def Cap.kind (c : Cap) : Nat := c.f 124 4
def Cap.exp (c : Cap) : Nat := c.f 82 6
def Cap.peer (c : Cap) : Nat := c.f 64 10
def Cap.addr (c : Cap) : DWord := BitVec.ofNat 64 (c.f 0 64)
def Cap.bit (c : Cap) (n : Nat) : Bool := c.f n 1 == 1
def Cap.derive_ (c : Cap) : Bool := c.bit 74

/-- Base and top (R99); an exponent of 47 or more stands for the whole space. -/
def Cap.bounds (c : Cap) : Int × Int :=
  let e := c.exp
  if 47 ≤ e then (0, 2 ^ 64)
  else
    let w : Int := 2 ^ (e + 18)
    let a := c.f 0 64
    let bm := c.f 88 18
    let tm := c.f 106 18
    let blk : Int := (a : Int) / w * w
    let blk := if natBits a e 18 < bm then blk - w else blk
    let top := blk + tm * 2 ^ e
    (blk + bm * 2 ^ e, if tm < bm then top + w else top)

/-- Whether setting ADDR to `a` keeps the tag (R99). -/
def Cap.covers (c : Cap) (a : Nat) : Bool :=
  if 47 ≤ c.exp then true
  else
    let base := c.bounds.1
    decide (base ≤ a) && decide ((a : Int) < base + 2 ^ (c.exp + 18))

/-- Replace a field. -/
def Cap.set (c : Cap) (lo n x : Nat) : Cap :=
  let b := c.bits.toNat
  { c with bits := BitVec.ofNat 128 (b - natBits b lo n * 2 ^ lo + x % 2 ^ n * 2 ^ lo) }

/-- Whether a capability may be derived from at all (R265). -/
def Cap.usable (c : Cap) : Bool := c.tag && decide (c.kind < 2)

/-- A capability register of the lane (R60). -/
def capReg (c : Ctx) (n : Nat) : LaneM Cap := do
  let t ← me c
  pure (mget {} t.c n)

def setCap (c : Ctx) (n : Nat) (x : Cap) : LaneM Unit := modMe c fun t => { t with c := mset t.c n x }

/-! ## Deriving -/

/-- CAPSET.a (R265). -/
def Cap.setAddr (c : Cap) (a : Nat) : Cap := { c.set 0 64 a with tag := c.usable && c.covers a }

/-- CAPSET.p (R265). -/
def Cap.setPerms (c : Cap) (m : Nat) : Cap := { c.set 74 8 (c.f 74 8 &&& m) with tag := c.usable && c.derive_ }

/-- CAPSET.seal (R265). -/
def Cap.seal (c : Cap) : Cap := { c.set 124 4 2 with tag := c.tag && c.derive_ }

/-- CAPSET.b: bounds from ADDR to ADDR + len, rounded outward at the first exponent that holds them (R266). -/
def Cap.narrow (c : Cap) (len : Nat) : Cap :=
  let a := c.f 0 64
  let lo := fun (e : Nat) => a / 2 ^ e * 2 ^ e
  let hi := fun (e : Nat) => (a + len + 2 ^ e - 1) / 2 ^ e * 2 ^ e
  match (List.range 47).find? fun e => decide (hi e - lo e < 2 ^ (e + 18)) with
  | none => { c with tag := false }
  | some e =>
    let r := ((c.set 82 6 e).set 88 18 (lo e / 2 ^ e)).set 106 18 (hi e / 2 ^ e)
    { r with tag := c.usable && c.derive_ && decide (c.bounds.1 ≤ lo e) && decide ((hi e : Int) ≤ c.bounds.2) }

/-- A deriving instruction whose value operand is read as 32 or 64 bits. -/
def derive1 (i : Instr) (wide : BitVec 1) (a : BitVec 6) (src_ dst_ : BitVec 3) (f : Cap → Nat → Cap) (s : State) : Res :=
  onThreads (shapeOf i)
    (quietly fun c => do
      let x ← srcV c wide a.toNat
      let y ← capReg c src_.toNat
      setCap c dst_.toNat (f y x.toNat)) s

/-- CAPSET.a (R265). -/
def execCapsetA (l : BitVec 4) (a : BitVec 6) (s_ d : BitVec 3) (n : BitVec 1) (p : BitVec 4) (s : State) : Res :=
  derive1 (.capsetA l a s_ d n p) 1 a s_ d Cap.setAddr s

/-- CAPSET.b (R266). -/
def execCapsetB (l : BitVec 4) (a : BitVec 6) (s_ d : BitVec 3) (n : BitVec 1) (p : BitVec 4) (s : State) : Res :=
  derive1 (.capsetB l a s_ d n p) 1 a s_ d Cap.narrow s

/-- CAPSET.p (R265). -/
def execCapsetP (l : BitVec 4) (a : BitVec 6) (s_ d : BitVec 3) (n : BitVec 1) (p : BitVec 4) (s : State) : Res :=
  derive1 (.capsetP l a s_ d n p) 0 a s_ d (fun y x => y.setPerms (natBits x 0 8)) s

/-- CAPSET.seal (R265). -/
def execCapsetSeal (l : BitVec 4) (s_ d : BitVec 3) (n : BitVec 1) (p : BitVec 4) (s : State) : Res :=
  onThreads (shapeOf (.capsetSeal l s_ d n p))
    (quietly fun c => do
      let y ← capReg c s_.toNat
      setCap c d.toNat y.seal) s

/-- CAPRD: ADDR, base, top, bits [127:64], or the tag (R267). -/
def execCaprd (l : BitVec 4) (a : BitVec 6) (s_ k : BitVec 3) (n : BitVec 1) (p : BitVec 4) (s : State) : Res :=
  onThreads (shapeOf (.caprd l a s_ k n p))
    (quietly fun c => do
      let y ← capReg c s_.toNat
      if k = 4 then do
        let pl ← dst c a.toNat 1
        put c pl (if y.tag then 1 else 0)
      else do
        let pl ← dst c a.toNat 2
        putD c pl (match k.toNat with
          | 0 => y.addr
          | 1 => BitVec.ofInt 64 y.bounds.1
          | 2 => if y.bounds.2 = 2 ^ 64 then BitVec.allOnes 64 else BitVec.ofInt 64 y.bounds.2
          | _ => BitVec.ofNat 64 (y.f 64 64))) s

/-- The capability GNAME makes (R269). -/
def gnameCap (pkg : Nat) (name : Word) : Cap :=
  { bits := BitVec.ofNat 128 (2 ^ 124 + 0x20000 * 2 ^ 106 + 7 * 2 ^ 82 + 0xF3 * 2 ^ 74 + pkg % 1024 * 2 ^ 64 + name.toNat * 2 ^ 32), tag := true }

/-- GNAME: acts in each executing lane that is no helper (R269). -/
def execGname (l : BitVec 4) (k : BitVec 3) (n : BitVec 1) (p : BitVec 4) (s : State) : Res :=
  onThreads (shapeOf (.gname l k n p))
    (quietly fun c => do
      let s ← get
      if c.helper then pure () else setCap c k.toNat (gnameCap s.pkgId (s.group c.group).name)) s

/-! ## CAPLD and CAPST -/

/-- Whether memory at an address keeps tags (R101). -/
def keepsTags (pa : Nat) : Bool := region pa == .hbm || region pa == .staging

/-- The load of CAPLD (R264). -/
def capLoad (c : Ctx) (va : DWord) : LaneM Cap := do
  let (pa, k) ← access c va .capld
  owned pa va
  let r ← laneOp c va pa k (.load (pa % 128) 16) 0 false
  clean pa r
  let b := BitVec.ofNat 128 r.val
  pure { bits := b, tag := keepsTags pa && r.tag && b.getLsbD 77 }

/-- CAPLD; a fault of a helper lane leaves an untagged zero (R264, R393). -/
def execCapld (l : BitVec 4) (b : BitVec 3) (o : BitVec 6) (k : BitVec 3) (n : BitVec 1) (p : BitVec 4) (s : State) : Res :=
  onThreads (shapeOf (.capld l b o k n p))
    (quietly fun c => do
      let va ← basePair c b o
      fun s =>
        match capLoad c va s with
        | .ok (x, s') => setCap c k.toNat x s'
        | .error (.wait w) => .error (.wait w)
        | .error (.fill pte e level) => .error (.fill pte e level)
        | .error (.miss line r addr refile) => .error (.miss line r addr refile)
        | .error e => if c.helper then setCap c k.toNat {} s else .error e) s

/-- Whether a capability without GLOBAL may be stored at an address: the group's window 0, or a PRIVATE page that it owns (R100). -/
def State.ownPlace (s : State) (v : View) (va : DWord) : Bool :=
  if stagingVA ≤ va.toNat then natBits va.toNat 24 16 == 0
  else
    match s.walk v.ctx va.toNat with
    | .leaf l => l.priv && l.owner == v.group
    | _ => false

/-- CAPST (R264); a helper lane's is suppressed. -/
def execCapst (l : BitVec 4) (b : BitVec 3) (o : BitVec 6) (k : BitVec 3) (n : BitVec 1) (p : BitVec 4) (s : State) : Res :=
  onThreads (shapeOf (.capst l b o k n p))
    (quietly fun c => do
      let va ← basePair c b o
      let x ← capReg c k.toNat
      if c.helper then pure ()
      else do
        let _ ← once c do
          let v ← myView c
          let (pa, kind) ← access c va .capst
          let s ← get
          if x.tag && !x.bit 75 && !s.ownPlace v va then trap 0x0B 5 k.toNat va
          owned pa va
          gotOp c va pa kind (.capst (pa % 128) x.bits.toNat (x.tag && x.bit 76)) 0 false) s

/-! ## Accesses through a capability -/

/-- The egress checks of R102 and R364: tag, kind, permission, bounds; the capability and the lane's address. -/
def capCheck (c : Ctx) (k : Nat) (off : Word) (perm n : Nat) (kinds : List Nat) : LaneM (Cap × Nat) := do
  let x ← capReg c k
  let a := (x.addr + sext 64 off).toNat
  let va := BitVec.ofNat 64 a
  let bad := fun (sub : Nat) => trap 0x0B sub k va
  if !x.tag then bad 1
  if !kinds.contains x.kind || (x.kind == 1 && x.f 54 10 != x.peer) then bad 2
  if !x.bit perm then bad 3
  let (base, top) := x.bounds
  if (a : Int) < base ∨ top < a + n then bad 4
  pure (x, a)

/-- The trap of a lane that receives a STATUS (R443). -/
def statusTrap (status a : Nat) : Stop :=
  let va := BitVec.ofNat 64 a
  match status with
  | 4 => .trap 5 7 0 va false
  | 6 => .trap 7 7 0 va false
  | 7 => .trap 8 7 0 va false
  | 8 => .trap 0x0D 7 0 va false
  | 9 => .poisoned 0
  | 10 => .trap 0x1B 3 0 va false
  | 11 => .trap 0x0A 7 0 va false
  | _ => .trap 0x1B 4 0 va false

/-- Size code of R365. -/
def sizeCode (n : Nat) : Nat := Nat.log2 n

/-- An access to another package leaves (R114, R364): the checks of R401 that egress makes after its own, that of a route first (R442); the lane then
waits for its reply. -/
def remoteAccess (c : Ctx) (x : Cap) (a op n data : Nat) : LaneM (Nat × Flags) := do
  let s ← get
  let t ← me c
  let v ← myView c
  let va := BitVec.ofNat 64 a
  let kind1 := x.kind == 1
  let page := if kind1 then natBits a 32 32 + 2 ^ 32 * natBits a 16 8 else natBits a 16 40
  if (s.routes x.peer (dieOf c.core) page).isEmpty then trap 0x1B 1 0 va
  if !kind1 && 2 ^ 56 ≤ a then trap 5 7 0 va
  if a % n ≠ 0 then trap 6 7 0 va
  stop (.wait { kind := .egress, addr := va, req := some {
    op := (if kind1 then 128 else 0) + op, size := sizeCode n, peer := x.peer, ctx := v.ctx, page := page, off := natBits a 0 16,
    data := data, ts := t.time } })

/-- Resolve an access through a capability of this package: memory of the context, or window 0 of a named group (R100). -/
def localPlace (c : Ctx) (x : Cap) (a n : Nat) (k : Class) : LaneM (Nat × PageKind) := do
  let va := BitVec.ofNat 64 a
  if x.kind = 0 then access c va k
  else do
    let s ← get
    match s.named (natBits a 32 32) with
    | none => trap 0x1B 4 0 va
    | some g => do
      if a % n ≠ 0 then trap 6 0 0 va
      let off := natBits a 0 32
      if g.win0Size < off + n then trap 0x0A 3 0 va
      let pa := g.win0 off
      if s.present pa then pure (pa, .staging) else stop (.wait { kind := .presence, addr := va, key := pa / 128 })

/-- An operation of R256 or an access at a physical address of this package (R100, R268). -/
def localPerform (c : Ctx) (o : RemoteOp) (pa : Nat) (k : PageKind) (va : DWord) (x n : Nat) : LaneM Got := do
  owned pa va
  let v ← myView c
  let op := o.lineOp v.ctx (pa % 128) n x
  if region pa = .device then do
    let s ← get
    match o with
    | .store => do
      modState fun s => s.devWrite (pa - deviceBase) x n
      pure { pa := pa, op := op, result := {} }
    | _ => pure { pa := pa, op := op, result := { val := s.devRead (pa - deviceBase) n } }
  else
    match o with
    | .reduce r wide => reduceLane c va pa k r wide x 0 v.ctx
    | _ => do
      let g ← gotOp c va pa k op 0 false
      if o.returns then clean pa g.result
      pure g

/-- The flags of a remote atomic, which follow from the old value that its reply brings and the operand that its packet carried (R256, R258). -/
def RemoteOp.flags (o : RemoteOp) (r : Answer) : Flags :=
  match o with
  | .atomic op wide => (op.apply wide r.data r.sent).2
  | _ => 0

/-- One access of a lane through a capability (R268): what it returns and the flags it raises. An access that has been accepted is not checked
again when its reply has come (R364). -/
def capAccess (c : Ctx) (k : Nat) (off : Word) (perm opCode n x : Nat) (o : RemoteOp) : LaneM (Nat × Flags) := do
  match c.reply with
  | some r => if r.status = 0 then pure (r.data, o.flags r) else stop (statusTrap r.status r.addr.toNat)
  | none => do
    let s ← get
    match c.got.find? fun g => !g.op.isLoad with
    | some g => do
      let g ← once c (pure g)
      if o.returns then clean g.pa g.result
      pure (g.result.val, g.op.flags g.result)
    | none => do
      let (cap, a) ← capCheck c k off perm n [0, 1]
      if cap.peer = s.pkgId then do
        let (pa, kind) ← localPlace c cap a n (o.cls n)
        let g ← localPerform c o pa kind (BitVec.ofNat 64 a) x n
        pure (g.result.val, if o.returns then g.op.flags g.result else 0)
      else remoteAccess c cap a opCode n x

/-- An instruction of capability form: its lanes' accesses leave once every lane has been checked (R103). -/
def capInstr (i : Instr) (body : Ctx → LaneM After) (s : State) : Res :=
  match s.unit with
  | .lanes x => .next ((runLanes (shapeOf i) body s x).egress x)
  | .stream cl _ _ => .next (s.streamTrap cl 1)
  | _ => .next s

/-- LDC (R268). -/
def execLdc (w : BitVec 3) (l : BitVec 1) (k : BitVec 3) (o d : BitVec 6) (n : BitVec 1) (p : BitVec 4) (s : State) : Res :=
  capInstr (.ldc w l k o d n p)
    (quietly fun c => do
      let off ← src c o.toNat
      let pl ← if w = 4 then do
          awaitFour c d.toNat
          pure Place_.queue
        else dst c d.toNat (if w = 3 then 2 else 1)
      let (x, _) ← capAccess c k.toNat off 81 0 (2 ^ w.toNat) 0 .load
      if w = 4 then putQ c d.toNat x
      else if w = 3 then putD c pl (BitVec.ofNat 64 x)
      else put c pl (BitVec.ofNat 32 x)) s

/-- STC (R268). -/
def execStc (w : BitVec 3) (l : BitVec 1) (k : BitVec 3) (o d : BitVec 6) (n : BitVec 1) (p : BitVec 4) (s : State) : Res :=
  capInstr (.stc w l k o d n p)
    (quietly fun c => do
      let off ← src c o.toNat
      let x ← if w = 4 then do
          let q ← srcQ c d.toNat
          pure (wordsNat q)
        else if w = 3 then do
          let x ← srcD c d.toNat
          pure x.toNat
        else do
          let x ← src c d.toNat
          pure (natBits x.toNat 0 (8 * 2 ^ w.toNat))
      if c.helper then pure ()
      else do
        let _ ← capAccess c k.toNat off 80 1 (2 ^ w.toNat) x .store) s

/-- AMOC, returning (R268). -/
def execAmoc (k u : BitVec 3) (o d : BitVec 6) (n : BitVec 1) (p : BitVec 4) (s : State) : Res :=
  capInstr (.amoc k u o d n p) (fun c => do
    let off ← src c o.toNat
    let x ← src c d.toNat
    let pl ← dst c d.toNat 1
    if c.helper then do
      put c pl 0
      pure none
    else do
      let (y, g) ← capAccess c k.toNat off 79 (8 + u.toNat) 4 x.toNat (.atomic (.ofAmoc u.toNat) false)
      put c pl (BitVec.ofNat 32 y)
      raise c g) s

/-- AMOC.red, non-returning (R268). -/
def execAmocRed (k u : BitVec 3) (o d : BitVec 6) (n : BitVec 1) (p : BitVec 4) (s : State) : Res :=
  capInstr (.amocRed k u o d n p)
    (quietly fun c => do
      let off ← src c o.toNat
      let x ← src c d.toNat
      if c.helper then pure ()
      else do
        let _ ← capAccess c k.toNat off 79 (16 + u.toNat) 4 x.toNat (.reduce (.ofAmoc u.toNat) false)) s

/-- PUTREG (R271): a put to a group of this package goes to its name table, another is sent (R115); the instruction retires on the reply, and a
refusal is entered in PUTERR (R406). -/
def execPutreg (v : BitVec 1) (k : BitVec 3) (a : BitVec 6) (r : BitVec 5) (n : BitVec 1) (p : BitVec 4) (s : State) : Res :=
  capInstr (.putreg v k a r n p)
    (quietly fun c => do
      let x ← srcV c v a.toNat
      if c.helper then pure ()
      else
        match c.reply with
        | some x =>
          if x.status = 0 then pure ()
          else modState fun s => s.putRefused c.group x.status (natBits x.addr.toNat 0 32 / 4) r.toNat
        | none => do
          let (cap, addr) ← capCheck c k.toNat 0 78 4 [1]
          let s ← get
          let t ← me c
          let view ← myView c
          let page := natBits addr 32 32 + 2 ^ 32 * natBits addr 16 8
          if cap.peer ≠ s.pkgId ∧ (s.routes cap.peer (dieOf c.core) page).isEmpty then trap 0x1B 1 0 (BitVec.ofNat 64 addr)
          stop (.wait { kind := .egress, addr := BitVec.ofNat 64 addr, req := some {
            op := 0xA0, size := if v = 0 then 2 else 3, peer := cap.peer, ctx := view.ctx, page := page, off := min (natBits addr 0 32 / 4) 65535,
            data := x.toNat, ts := t.time, reg := r.toNat, wide := v == 1 } })) s

end Sys2Proof.Machine
end

