-- ==== Sys2Proof/Machine/Chutes.lean ====
section
/-! DEFINITION. Chutes (R278 to R282): their counts, and CHDEF, CHPUSH and CHTAKE. -/

namespace Sys2Proof.Machine

/-! ## A chute -/

def Chute.f (c : Chute) (lo n : Nat) : Nat := natBits c.image.toNat lo n
/-- Whether the chute has been defined (R278). -/
def Chute.defined (c : Chute) : Bool := c.f 24 4 != 0
def Chute.side (c : Chute) : Nat := c.f 30 2
def Chute.depth (c : Chute) : Nat := 2 ^ c.f 24 4
/-- Bytes of an entry (R278). -/
def Chute.entry (c : Chute) : Nat := (if c.f 32 8 = 0 then 256 else c.f 32 8) * 128
/-- Offset of entry `n` in window 1 (R279). -/
def Chute.offset (c : Chute) (n : Nat) : Nat := c.f 0 24 + n % c.depth * c.entry

/-- Difference of two counts, modulo 2^32 (R279). -/
def countSub (a b : Nat) : Nat := (a % 2 ^ 32 + 2 ^ 32 - b % 2 ^ 32) % 2 ^ 32

def Chute.canWrite (c : Chute) : Bool := decide (1 + countSub c.wacq c.rel ≤ c.depth)
def Chute.canRead (c : Chute) : Bool := decide (1 ≤ countSub c.pub c.racq)

/-- Writer acquire: the entry, and the time of the release that it follows (R279, R282). -/
def Chute.writeAcquire (c : Chute) : Nat × Nat × Chute :=
  (c.wacq, mget 0 c.relTime (c.wacq % c.depth), { c with wacq := (c.wacq + 1) % 2 ^ 32 })

/-- Reader acquire (R279, R282). -/
def Chute.readAcquire (c : Chute) : Nat × Nat × Chute :=
  (c.racq, mget 0 c.pubTime (c.racq % c.depth), { c with racq := (c.racq + 1) % 2 ^ 32 })

/-- Advance PUB over entries marked written (R279). -/
def Chute.publish (c : Chute) : (fuel : Nat) → Chute
  | 0 => c
  | fuel + 1 =>
    if c.written.contains c.pub then
      { c with written := c.written.filter (· ≠ c.pub), pub := (c.pub + 1) % 2 ^ 32 }.publish fuel
    else c

/-- Advance REL over entries marked freed (R279). -/
def Chute.recycle (c : Chute) : (fuel : Nat) → Chute
  | 0 => c
  | fuel + 1 =>
    if c.freed.contains c.rel then
      { c with freed := c.freed.filter (· ≠ c.rel), rel := (c.rel + 1) % 2 ^ 32 }.recycle fuel
    else c

/-- Writer release of entry `n` at a program time (R279). -/
def Chute.writeRelease (c : Chute) (n t : Nat) : Chute :=
  { c with written := c.written ++ [n], pubTime := mset c.pubTime (n % c.depth) t }.publish 257

/-- Reader release of entry `n` (R279). -/
def Chute.readRelease (c : Chute) (n t : Nat) : Chute :=
  { c with freed := c.freed ++ [n], relTime := mset c.relTime (n % c.depth) t }.recycle 257

/-- Whether an entry is acquired and not yet released (R280); a release that is still to be served has been made. -/
def Chute.busy (c : Chute) : Bool :=
  decide (countSub c.wacq c.pub ≠ c.written.length + c.wreleases.length)
    || decide (countSub c.racq c.rel ≠ c.freed.length + c.rreleases.length)

/-! ## One acquire and one release at each end in an arith cycle (R281) -/

/-- Whether the writer end may acquire in the cycle. -/
def Chute.mayWrite (c : Chute) (clock : Nat) : Bool := c.canWrite && c.wacqAt != clock + 1
/-- Whether the reader end may acquire in the cycle. -/
def Chute.mayRead (c : Chute) (clock : Nat) : Bool := c.canRead && c.racqAt != clock + 1

/-- Acquire at the writer or reader end: the entry, and the time it follows. -/
def Chute.acquire (c : Chute) (write : Bool) (clock : Nat) : Nat × Nat × Chute :=
  if write then
    let (n, t, c) := c.writeAcquire
    (n, t, { c with wacqAt := clock + 1 })
  else
    let (n, t, c) := c.readAcquire
    (n, t, { c with racqAt := clock + 1 })

/-- Release an entry at the writer or reader end: at once, or after the releases before it where the end has served one in the cycle. -/
def Chute.release (c : Chute) (write : Bool) (clock n t : Nat) : Chute :=
  if write then
    if c.wrelAt = clock + 1 ∨ !c.wreleases.isEmpty then { c with wreleases := c.wreleases ++ [(n, t)] }
    else { c.writeRelease n t with wrelAt := clock + 1 }
  else if c.rrelAt = clock + 1 ∨ !c.rreleases.isEmpty then { c with rreleases := c.rreleases ++ [(n, t)] }
  else { c.readRelease n t with rrelAt := clock + 1 }

/-- At the beginning of a cycle each end serves the first release that is still to be served. -/
def Chute.serve (c : Chute) (clock : Nat) : Chute :=
  let c := match c.wreleases with
    | [] => c
    | (n, t) :: r => { { c with wreleases := r }.writeRelease n t with wrelAt := clock + 1 }
  match c.rreleases with
  | [] => c
  | (n, t) :: r => { { c with rreleases := r }.readRelease n t with rrelAt := clock + 1 }

/-- Whether an image may define a chute: SIDE, depth, reserved fields and the multiple of BASE (R278, R280). -/
def imageOk (x : DWord) : Bool :=
  let c : Chute := { image := x }
  c.f 40 24 == 0 && c.f 28 2 == 0 && decide (1 ≤ c.f 24 4 ∧ c.f 24 4 ≤ 8) && c.side != 3 && c.f 0 24 % 128 == 0

/-! ## A gang's chutes -/

/-- A chute of a gang. -/
def State.chute (s : State) (gang n : Nat) : Chute := mget {} (s.gang gang).chutes n

def State.setChute (s : State) (gang n : Nat) (c : Chute) : State :=
  if (mfind s.gangs gang).isSome then s.modGang gang fun g => { g with chutes := mset g.chutes n c } else s

/-- Every chute serves the releases that are still to be served (R281). -/
def State.serveReleases (s : State) : State :=
  { s with gangs := mmap s.gangs fun _ g => { g with chutes := mmap g.chutes fun _ c => c.serve s.clock } }

/-- The chutes that an engine descriptor names: IN0, IN1 and OUT (R284). -/
def descChutes (desc : List Byte) : List Nat := [field desc 8 1, field desc 9 1, field desc 10 1].filter (· ≠ 0xFF)

/-- Whether an armed operation of the gang names a chute. -/
def State.chuteArmed (s : State) (gang n : Nat) : Bool :=
  many s.clusters fun _ k => many k.armed fun _ a => a.gang == some gang && (descChutes a.desc).contains n

/-- The key by which a lane waits at a chute. -/
def chuteKey (gang n : Nat) : Nat := 32 * gang + n

/-- The lanes that wait at a chute's thread end, longest waiting first (R281). -/
def State.takers (s : State) (gang n : Nat) : List (Nat × Nat × Wait) :=
  let l := s.threads.filterMap fun e =>
    match e.2.st with
    | .waiting w => if w.kind = .chtake ∧ w.key = chuteKey gang n then some (e.1 / 32, e.1 % 32, w) else none
    | _ => none
  sortBy (fun x y => decide (x.2.2.since ≤ y.2.2.since)) l

/-- The thread end's acquire, where it is allowed (R279, R281): the entry and the time it follows. -/
def State.threadAcquire (s : State) (gang n : Nat) : Option (Nat × Nat × State) :=
  let c := s.chute gang n
  let taken := fun (x : Nat × Nat × Chute) =>
    some (x.1, x.2.1, s.setChute gang n { x.2.2 with held := x.2.2.held ++ [x.1] })
  if c.side = 0 then if c.mayWrite s.clock then taken (c.acquire true s.clock) else none
  else if c.side = 1 then if c.mayRead s.clock then taken (c.acquire false s.clock) else none
  else none

/-- A lane takes an entry: its time follows the release, and the sequence number is pushed (R280, R282). -/
def Thread.takeEntry (t : Thread) (n time : Nat) : Thread := { t with time := max t.time time }.push (BitVec.ofNat 32 n)

/-- The waiting lanes of a chute acquire, longest waiting first, for as long as the thread end allows it (R281). -/
def State.serveTakers (s : State) (gang n : Nat) : (fuel : Nat) → State
  | 0 => s
  | fuel + 1 =>
    match s.takers gang n with
    | [] => s
    | (crew, lane, w) :: _ =>
      match s.threadAcquire gang n with
      | none => s
      | some (e, time, s') =>
        let pc := (s.thread crew lane).pc
        let s' := s'.modThread crew lane fun t =>
          ({ t with st := .ofCode w.was }.advance (t.pc + 4)).countStep.takeEntry e time
        (s'.joinPeers crew lane pc.toNat).serveTakers gang n fuel

/-- A chute of a cluster's gangs serves the lanes that wait at its thread end (R279, R281). -/
def execChuteAcquire (cluster : BitVec 7) (chute : BitVec 5) (s : State) : Res :=
  match s.unit with
  | .none =>
    .next ((mkeys s.gangs fun _ g => g.cluster == cluster.toNat).foldl
      (fun (s : State) (g : Nat) => s.serveTakers g chute.toNat 1024) s)
  | _ => .next s

/-! ## The instructions -/

/-- The chute fault, with the chute in DETAIL (R400). -/
def chuteTrap {α : Type} (sub : Nat) (n : BitVec 5) : LaneM α := trap 0x11 sub n.toNat 0

/-- The gang of a lane, which a spawned group has not (R278). -/
def myGang (c : Ctx) (n : BitVec 5) : LaneM Nat := do
  let s ← get
  match (s.group c.group).gang with
  | some k => pure k
  | none => chuteTrap 1 n

/-- CHDEF (R278, R280). -/
def execChdef (l : BitVec 4) (a : BitVec 6) (k : BitVec 5) (n : BitVec 1) (p : BitVec 4) (s : State) : Res :=
  onThreads (shapeOf (.chdef l a k n p))
    (quietly fun c => do
      let x ← srcD c a.toNat
      if c.helper then pure ()
      else do
        let g ← myGang c k
        let s ← get
        let new : Chute := { image := x }
        if s.chuteArmed g k.toNat || (s.chute g k.toNat).busy then chuteTrap 2 k
        if !imageOk x then chuteTrap 3 k
        if (s.gang g).win1Size < new.f 0 24 + new.depth * new.entry then chuteTrap 4 k
        modState fun s => s.setChute g k.toNat new) s

/-- The chute of a CHPUSH or CHTAKE, whose SIDE gives threads a part (R280). -/
def threadChute (c : Ctx) (k : BitVec 5) : LaneM (Nat × Chute) := do
  let g ← myGang c k
  let s ← get
  let ch := s.chute g k.toNat
  if ch.side = 2 then chuteTrap 5 k
  if !ch.defined then chuteTrap 7 k
  pure (g, ch)

/-- CHPUSH: the thread end's release of an entry (R280). -/
def execChpush (l : BitVec 4) (a : BitVec 6) (k : BitVec 5) (n : BitVec 1) (p : BitVec 4) (s : State) : Res :=
  onThreads (shapeOf (.chpush l a k n p))
    (quietly fun c => do
      let x ← src c a.toNat
      if c.helper then pure ()
      else do
        let (g, ch) ← threadChute c k
        let e := x.toNat
        if !ch.held.contains e then chuteTrap 6 k
        let t ← me c
        let ch := { ch with held := ch.held.filter (· ≠ e) }
        modState fun s => s.setChute g k.toNat (ch.release (ch.side == 0) s.clock e t.time)) s

/-- CHTAKE: the thread end's acquire; a lane that finds none allowed, or others waiting before it, waits (R280, R281). -/
def execChtake (l : BitVec 4) (k : BitVec 5) (n : BitVec 1) (p : BitVec 4) (s : State) : Res :=
  onThreads (shapeOf (.chtake l k n p))
    (quietly fun c => do
      if c.helper then modMe c fun t => t.push 0
      else do
        let (g, _) ← threadChute c k
        let s ← get
        let wait : Stop := .wait { kind := .chtake, addr := BitVec.ofNat 64 k.toNat, key := chuteKey g k.toNat }
        if !(s.takers g k.toNat).isEmpty then stop wait
        match s.threadAcquire g k.toNat with
        | none => stop wait
        | some (e, time, s') => do
          set s'
          modMe c fun t => t.takeEntry e time) s

end Sys2Proof.Machine
end

