-- ==== Sys2Proof/Machine/Tensor.lean ====
section
/-! DEFINITION. Elements of tensors in memory (R95, R145), the seam layout (R97), and quantising elements and MX blocks (R147, R159, R161,
R162). -/

namespace Sys2Proof.Machine

/-! ## Elements in memory -/

/-- Bits of an element in memory, by format code (R145); FP19 stands in the upper bits of a 32-bit container. -/
def memBits (code : Nat) : Nat :=
  match code with
  | 0 => 64 | 1 | 2 => 32 | 3 | 4 => 16 | 7 | 8 => 6 | 9 | 0xB => 4 | _ => 8

/-- The encoding of element `i` of packed bytes. -/
def getElem (b : List Byte) (code i : Nat) : Nat :=
  let w := memBits code
  let lo := w * i
  let x := natBits (leNat ((b.drop (lo / 8)).take 9)) (lo % 8) w
  if code = 2 then x / 2 ^ 13 else x

/-- Encodings packed as memory holds them. -/
def packElems (code : Nat) (l : List Nat) : List Byte :=
  let w := memBits code
  leBytes (concatBits w (l.map fun x => if code = 2 then x * 2 ^ 13 else x)) ((w * l.length + 7) / 8)

/-! ## Seam layout -/

/-- Elements in a 32-byte data column: 64 of MXFP4, 16 of BF16 (R97). -/
def seamE (mx : Bool) : Nat := if mx then 64 else 16

/-- SCALECOL (R97). -/
def seamS (mx : Bool) : Nat := if mx then 30 else 32

/-- Data columns in a matrix row (R97). -/
def seamC (mx : Bool) (k : Nat) : Nat := k / seamE mx

/-- Rows per bench (R97). -/
def seamRows (mx : Bool) (k : Nat) : Nat := if seamC mx k = 0 then 0 else 4 * seamS mx / seamC mx k

/-- Whether K meets R97. -/
def seamOk (mx : Bool) (k : Nat) : Bool := k % seamE mx == 0 && k != 0 && seamRows mx k != 0

/-- Rows per slab (R97). -/
def seamP (mx : Bool) (k : Nat) : Nat := 64 * seamRows mx k

/-- Offset in a slab of a column of a bank of a bench (R97). -/
def slabOffset (bench bank col : Nat) : Nat := col / 4 * 2 ^ 15 + (4 * bench + bank) * 2 ^ 7 + col % 4 * 2 ^ 5

/-- Where a data column of a matrix row stands: slab list entry, bench, bank and column (R97). -/
def seamColumn (mx : Bool) (k m c : Nat) : Nat × Nat × Nat × Nat :=
  let p := seamP mx k
  let l := m % p
  let n := l / 64 * seamC mx k + c
  (m / p, l % 64, n % 4, n / 4)

/-- Slab offset of the scale byte of a block of 32 elements (R97). -/
def seamScale (k m blk : Nat) : Nat × Nat :=
  let (i, bench, bank, col) := seamColumn true k m (blk / 2)
  let h := 2 * col + blk % 2
  (i, slabOffset bench bank (seamS true + h / 32) + h % 32)

/-! ## Quantising -/

/-- How elements are quantised: format code, MX, rounding mode, and the compand table where one applies (R161). -/
structure Quant where
  code : Nat
  mx : Bool
  mode : Nat
  table : Option (List Byte × Nat) := none
deriving DecidableEq, Repr

/-- The controls of a QCTL byte (R287, R296): companding is for FP8, FP6, FP4, INT8 and INT4 (R161). -/
def Quant.of (format qctl : Nat) (compand : List Byte) : Quant :=
  let code := format % 128
  { code := code, mx := decide (128 ≤ format), mode := natBits qctl 4 3
    table := if 128 ≤ qctl ∧ 5 ≤ code ∧ code ≤ 0xB then some (compand, qctl % 8) else none }

/-- Round one value: the encoding, the flags and the generator's next state (R153, R158, R161). -/
def Quant.elem (q : Quant) (gen : DWord) (x : Val) : Nat × Flags × DWord :=
  let f := elementFmt q.mx q.code
  let y := match q.table with
    | some (b, t) => compand b t false f x
    | none => x
  let gen := if q.mode = 4 then stepSeed gen else gen
  let (e, g) := roundFmt f q.mode (seedDraw gen) y
  (e, g ||| flagIf x.isSig flagNV, gen)

/-- Round a list of values in order. -/
def Quant.elems (q : Quant) (gen : DWord) (l : List Val) : List Nat × Flags × DWord :=
  l.foldl (fun (a : List Nat × Flags × DWord) x =>
    let (e, g, gen) := q.elem a.2.2 x
    (a.1 ++ [e], a.2.1 ||| g, gen)) ([], 0, gen)

/-- The encoding of +0 (R162). -/
def zeroCode (code : Nat) : Nat := if code = 0xC then 0x77 else 0

/-- The largest magnitude of some finite values. -/
def amax (l : List Val) : Val :=
  l.foldl (fun m x => match m, x.withSign false with
    | .fin _ n d e, .fin _ n' d' e' => if magLt n d e n' d' e' then .fin false n' d' e' else .fin false n d e
    | m, _ => m) (.zero false)

/-- An MX block of values (R162): scale code, encodings, flags, generator. In a block with a NaN or an infinity nothing is rounded; `always`
says that the generator steps once per element even so (R159). -/
def Quant.block (q : Quant) (always : Bool) (gen : DWord) (l : List Val) : Nat × List Nat × Flags × DWord :=
  let finite := l.all fun x => match x with | .fin _ _ _ _ => true | _ => false
  if !finite then
    let gen := if always && q.mode == 4 then l.foldl (fun g _ => stepSeed g) gen else gen
    (0xFF, l.map fun _ => zeroCode q.code, flagNV, gen)
  else
    let sc := match amax l with
      | .fin _ n d e => if n = 0 then 0 else scaleCode q.code n d e
      | _ => 0
    let (es, g, gen) := q.elems gen (l.map fun x => x.scale (127 - (sc : Int)))
    (sc, es, g, gen)

end Sys2Proof.Machine
end

