-- ==== Sys2Proof/Machine/Engines.lean ====
section
/-! DEFINITION. Engine operations (R283 to R292): ENG arms one, and each firing is made by an agent of its own (R117), piece by piece: a firing
that meets a page firmware must fill, an absent staging line, or a line its slice has to ask for keeps what it has done and goes on from there
(R132, R405, R435). -/

namespace Sys2Proof.Machine

/-! ## An agent's accesses -/

/-- An agent at work: the package, its program time (R117), who it is, the slice through which it reaches lines and the group it works for, the
accesses that requests on lines have performed for the piece in hand, and the staging words that were served in the arith cycle before it. -/
structure Run where
  s : State
  t : Nat
  who : Waiter := .stream 0
  slice : Nat := 0
  group : Nat := 0
  got : List Got := []
  touched : List (Nat × Nat) := []
deriving DecidableEq, Repr

/-- An agent begins a piece of its work. -/
def State.runOf (s : State) (a : Agent) (who : Waiter) (t : Nat) : Run :=
  { s := s, t := t, who := who, slice := a.slice, group := a.view.group, got := s.gotOf who, touched := s.touched }

/-- The next piece of the work: what was got for the last one is used up. -/
def Run.next (r : Run) : Run := { r with s := r.s.clearAgent r.who, got := [], touched := r.s.touched }

/-- An agent's computation. -/
abbrev EngM (α : Type) := StateT Run (Except Stop) α

def engStop {α : Type} (e : Stop) : EngM α := fun _ => .error e

def engState : EngM State := fun r => .ok (r.s, r)

def engTime : EngM Nat := fun r => .ok (r.t, r)

def engMod (f : State → State) : EngM Unit := fun r => .ok ((), { r with s := f r.s })

/-- Resolve an address for an agent. The words that the piece in hand has itself used do not make it wait (notes/assumptions/131.md). -/
def engResolve (a : Agent) (va : Nat) (write fill : Bool) : EngM (Nat × PageKind) := fun r =>
  match ({ r.s with touched := r.touched }).agentResolve a va write fill with
  | .ok (s, pa, k) => .ok ((pa, k), { r with s := { s with touched := r.s.touched } })
  | .error e => .error e

/-- An operation of an agent: what a request has performed already for the piece in hand; else at its slice, where that serves it, or at the staging
word; else the slice asks the line's home (R124, R132). -/
def engOp (pa : Nat) (k : PageKind) (op : LineOp) : EngM LineResult := fun r =>
  match r.got.find? fun g => g.pa == pa && (g.op == op || (!g.op.isLoad && !op.isLoad)) with
  | some g => .ok (g.result, { r with t := max r.t g.result.ts })
  | none =>
    match k with
    | .staging =>
      let (x, s) := r.s.stageOp pa op r.t
      .ok (x, { r with s := s, t := x.ts })
    | .io | .device =>
      let (x, s) := r.s.memRun pa op
      .ok (x, { r with s := s })
    | _ =>
      match r.s.sliceOp r.slice r.group k pa op r.t with
      | some (x, s) => .ok (x, { r with s := s, t := x.ts })
      | none =>
        .error (.miss (pa / 128) { event := r.s.requestEvent r.slice (pa / 128) op 1, agent := r.slice, time := r.t, op := some op } 0 false)

/-- A load within a line: the bytes, and whether they are poisoned (R421). -/
def engLoad (pa : Nat) (k : PageKind) (n : Nat) : EngM (List Byte × Bool) := do
  let r ← engOp pa k (.load (pa % 128) n)
  pure (leBytes r.val n, r.poison)

/-- Set the full bits of the staging words that some bytes touch (R283). -/
def State.fillWords (s : State) (pa n : Nat) : State :=
  if region pa = .staging ∧ n ≠ 0 then
    (List.range ((pa + n - 1) / 4 - pa / 4 + 1)).foldl (fun (s : State) (i : Nat) => s.setFull (4 * (pa / 4 + i)) true) s
  else s

/-- A store within a granule, or of a whole line (R421, R422). -/
def engStore (pa : Nat) (k : PageKind) (b : List Byte) (poison full : Bool) : EngM Unit := do
  let _ ← engOp pa k (storeOp pa b)
  if poison then engMod fun s => s.poisonBytes pa b.length
  if full then engMod fun s => s.fillWords pa b.length

/-- Read bytes in ascending order (R285), and whether some are poisoned. -/
def engRead (a : Agent) (va : Nat) : (n fuel : Nat) → EngM (List Byte × Bool)
  | _, 0 => pure ([], false)
  | n, fuel + 1 => do
    if n = 0 then pure ([], false)
    else
      let m := min n (128 - va % 128)
      let (pa, k) ← engResolve a va false false
      let (b, p) ← engLoad pa k m
      let (b', p') ← engRead a (va + m) (n - m) fuel
      pure (b ++ b', p || p')

/-- Write bytes in ascending order (R285). -/
def engWrite (a : Agent) (va : Nat) (poison full : Bool) : (b : List Byte) → (fuel : Nat) → EngM Unit
  | _, 0 => pure ()
  | b, fuel + 1 => do
    if b.isEmpty then pure ()
    else
      let m := min b.length (16 - va % 16)
      let (pa, k) ← engResolve a va true false
      engStore pa k (b.take m) poison full
      engWrite a (va + m) poison full (b.drop m) fuel

/-- One end of a transfer: an address, or an offset in window 1 for a chute entry. -/
inductive End_ where
  | mem (va : Nat)
  | entry (off : Nat)
deriving DecidableEq, Repr

/-- The address of a byte of an end; window 1 stands at its place in the staging region (R75). -/
def End_.va (e : End_) (off : Nat) : Nat :=
  match e with
  | .mem va => (va + off) % 2 ^ 64
  | .entry o => stagingVA + 2 ^ 24 + o + off

/-- Resolve a source byte of a COPY; a line that the firing itself fills does not make it wait (R89). -/
def engSource (a : Agent) (lines : List Nat) (va : Nat) : EngM (Nat × PageKind) := do
  let (pa, k) ← engResolve a va false true
  let s ← engState
  let own := if lines.contains (pa / 128) then 1 else 0
  if k = .staging ∧ own < mget 0 s.filling (pa / 128) then engStop (.wait { kind := .presence, key := pa / 128 })
  else pure (pa, k)

/-- How many bytes of a copy are made at once: a whole line where both ends begin one (R132, WRITE), or what lies in one granule of both; bytes
that overlap are read after they are written (R285, R286). -/
def copyChunk (spa dpa n : Nat) : Nat :=
  let k := if spa % 128 = 0 ∧ dpa % 128 = 0 ∧ 128 ≤ n then 128 else min n (min (16 - spa % 16) (16 - dpa % 16))
  if spa < dpa ∧ dpa - spa < k then min (dpa - spa) (min n (min (16 - spa % 16) (16 - dpa % 16))) else k

/-- Copy the next bytes of a transfer: how many, the address written, and whether they were poisoned. -/
def engCopy (a : Agent) (lines : List Nat) (sv dv : Nat) (tag full fill : Bool) (n : Nat) : EngM (Nat × Nat × Bool) := do
  let (spa, sk) ← engSource a lines sv
  let (dpa, dk) ← engResolve a dv true fill
  let m := copyChunk spa dpa n
  let s ← engState
  -- a whole line is written at once where none of its granules is poisoned or keeps a tag
  let plain := !s.peekBad spa m && !(tag && (granules spa m).any fun g => mget false s.tags g || (s.latest (spa / 128)).tags.contains (g % 8))
  let m := if m = 128 ∧ !plain then 16 else m
  let r ← engOp spa sk (.load (spa % 128) m)
  let keep := tag && m == 16 && r.tag && keepsTags dpa
  if keep then do
    let _ ← engOp dpa dk (.capst (dpa % 128) r.val true)
    if r.poison then engMod fun s => s.poisonBytes dpa m
    if full then engMod fun s => s.fillWords dpa m
  else engStore dpa dk (leBytes r.val m) r.poison full
  pure (m, dpa, r.poison)

/-! ## Arming -/

/-- A signed 32-bit field. -/
def fieldS (b : List Byte) (off : Nat) : Int := (BitVec.ofNat 32 (field b off 4)).toInt

/-- Whether bytes of a record are zero. -/
def zeros (b : List Byte) (off n : Nat) : Bool := field b off n == 0

/-- What a descriptor breaks besides its chutes: the least SUB of R400. -/
def descCheck (k : EngineKind) (b : List Byte) : Option Nat :=
  let f := field b
  let reserved := match k with
    | .copy => !zeros b 44 20 || f 11 1 != 0
    | .retile => !zeros b 34 30 || f 11 1 != 0 || f 33 1 / 8 % 2 == 1
    | .gath => !zeros b 44 4 || !zeros b 56 8 || f 11 1 != 0
    | .chain => !zeros b 60 4 || 128 ≤ f 11 1 || (List.range 8).any fun i => f (44 + 2 * i) 1 != 0
    | .coll => !zeros b 28 4
  let none_ := fun (n : Nat) => f n 1 == 0xFF
  let chuteRange := [8, 9, 10].all fun n => none_ n || f n 1 < 32
  let ops := (List.range 8).map fun i => f (44 + 2 * i) 2
  let used := ops.takeWhile fun w => w / 2048 != 0
  let reads := fun (w : Nat) => w / 2048 ≤ 7
  let range := chuteRange && f 12 4 != 0 && match k with
    | .copy => decide (1 ≤ f 32 4 ∧ f 32 4 ≤ 2 ^ 24)
    | .retile => none_ 8 && none_ 9 && none_ 10 && f 12 4 == 1 && (f 32 1 == 3 || f 32 1 == 0x89) && decide (f 33 1 / 16 % 8 ≤ 4)
    | .gath => none_ 9 && decide (1 ≤ f 24 4 ∧ f 24 4 ≤ 65536 ∧ 1 ≤ f 40 4 ∧ f 40 4 ≤ 4096)
    | .chain =>
      f 11 1 % 4 != 3 && f 11 1 / 4 % 4 != 3 && decide (f 11 1 / 16 % 8 ≤ 4) && decide (1 ≤ f 40 4 ∧ f 40 4 ≤ 2 ^ 20)
        && used.all fun w => decide (w / 2048 ≤ 15) && (!reads w || (w / 256 % 8 != 2 && w / 256 % 8 != 3))
    | .coll =>
      none_ 9 && none_ 10 && decide (f 11 1 ≤ 2) && decide (f 24 4 ≤ 65536)
        && f 24 4 % (if f 11 1 = 0 then 4 else if f 11 1 = 1 then 8 else 1) == 0
  let noB := k == .chain && none_ 9 && f 24 8 == 0 && used.any fun w => reads w && w / 256 % 8 == 1
  if !range then some 2 else if noB then some 4 else if reserved then some 5 else none

/-- Bytes that a firing takes from or gives to a chute entry: IN0, IN1, OUT (R286 to R291). -/
def descBytes (k : EngineKind) (b : List Byte) : Nat × Nat × Nat :=
  let f := field b
  let w := fun (x : Nat) => if x = 0 then 4 else if x < 3 then 2 else 1
  match k with
  | .copy => (f 32 4, f 32 4, f 32 4)
  | .gath => (4 * f 40 4, 0, f 40 4 * f 24 4)
  | .chain => (w (f 11 1 % 4) * f 40 4, w (f 11 1 / 4 % 4) * f 40 4, w (f 11 1 / 16 % 8) * f 40 4)
  | .coll => (f 24 4, 0, 0)
  | .retile => (0, 0, 0)

/-- What the chutes that a descriptor names break: the SUBs of R400 (R284), entries too small among them. -/
def State.descChuteCheck (s : State) (gang : Option Nat) (k : EngineKind) (b : List Byte) : Option Nat :=
  let ch := fun (n : Nat) => match gang with | some g => s.chute g n | none => {}
  let named := fun (off : Nat) => if field b off 1 < 32 then some (ch (field b off 1)) else none
  let bytes := descBytes k b
  let each := [(named 8, bytes.1, false), (named 9, bytes.2.1, false), (named 10, bytes.2.2, true)]
  let bad := fun (p : Chute → Nat → Bool → Bool) => each.any fun (e : Option Chute × Nat × Bool) =>
    match e.1 with
    | some c => p c e.2.1 e.2.2
    | none => false
  if bad fun c n _ => c.defined && decide (c.entry < n) then some 2
  else if bad fun c _ out => c.defined && (if out then c.side == 0 else c.side == 1) then some 3
  else if bad fun c _ _ => !c.defined then some 6
  else none

/-- RETILE's checks at arming (R287 step 1): the source record, and SLABLIST and SLABCOUNT of the destination's. -/
def retileCheck (b rec_ : List Byte) (count : Nat) : Option Nat :=
  let r := field rec_
  let mx := field b 32 1 == 0x89
  let k := r 0 4
  if r 29 1 ≠ 0 ∨ (r 28 1 ≠ 1 ∧ r 28 1 ≠ 3) ∨ r 8 4 ≠ 1 ∨ r 12 4 ≠ 1 ∨ !seamOk mx k ∨ count * seamP mx k < r 4 4 then some 2
  else if r 30 2 ≠ 0 ∨ !zeros rec_ 40 24 then some 5
  else none

/-- A record whose address is not aligned as its instruction asks: the causes that come before that one in the order of R401 are taken first. -/
def readable (c : Ctx) (va : DWord) (n : Nat) : LaneM Unit := do
  let (pa, _) ← access c va (.load 1)
  owned pa va
  let last := va + BitVec.ofNat 64 (n - 1)
  let (pa, _) ← access c last (.load 1)
  owned pa last

/-- Arm an engine operation in a lane (R283, R284, R287). -/
def arm (k : EngineKind) (va : DWord) (tag full : Bool) (c : Ctx) : LaneM Unit := do
  let s ← get
  let cl := clusterOf c.core
  match (List.range 64).find? fun p => (mfind (s.cluster cl).armed p).isNone with
  | none => stop (.wait { kind := .eng, key := cl })
  | some place => do
    let bad := fun (sub : Nat) => trap 0x12 sub 0 va
    if va.toNat % 16 ≠ 0 then do
      readable c va (if k = .chain then 80 else 64)
      bad 1
    let b ← loadRecord c va (if k = .chain then 5 else 4)
    let gang := (s.group c.group).gang
    match descCheck k b with
    | some sub => bad sub
    | none => pure ()
    match s.descChuteCheck gang k b with
    | some sub => bad sub
    | none => pure ()
    let (rec_, slabList, slabCount) ← if k = .retile then do
        let src_ := BitVec.ofNat 64 (field b 16 8)
        let dst_ := BitVec.ofNat 64 (field b 24 8)
        let r ← loadRecord c src_ 4
        let l ← loadMem c (dst_ + 40) 8
        let n ← loadMem c (dst_ + 56) 4
        match retileCheck b r n with
        | some sub => bad sub
        | none => pure ()
        pure (r, l, n)
      else pure ([], 0, 0)
    let cap ← if k = .coll then capLoad c (va + 32) else pure {}
    let gen ← if k = .retile && field b 33 1 / 16 % 8 == 4 then do
        modMe c fun t => { t with seed := stepSeed t.seed }
        let t ← me c
        pure t.seed
      else pure 0
    let t ← me c
    let v ← myView c
    modState fun s =>
      { s.modCluster cl fun x => { x with armed := mset x.armed place {
          kind := k, agent := s.agentOf v gang, launch := (s.group c.group).launch, desc := b, tag := tag, full := full
          gen := gen, srcRec := rec_, slabList := slabList, slabCount := slabCount, cap := cap, time := t.time, order := s.stamp } } with
        stamp := s.stamp + 1 }

/-- An ENG instruction (R283); a helper lane's is suppressed. -/
def armInstr (i : Instr) (k : EngineKind) (a : BitVec 6) (tag full : BitVec 1) (s : State) : Res :=
  onThreads (shapeOf i)
    (quietly fun c => do
      let va ← srcD c a.toNat
      if c.helper then pure () else arm k va (tag == 1) (full == 1) c) s

/-- COPY (R286). -/
def execCopy (l : BitVec 4) (a : BitVec 6) (f t n : BitVec 1) (p : BitVec 4) (s : State) : Res :=
  armInstr (.copy l a f t n p) .copy a t f s

/-- RETILE (R287). -/
def execRetile (l : BitVec 4) (a : BitVec 6) (f n : BitVec 1) (p : BitVec 4) (s : State) : Res :=
  armInstr (.retile l a f n p) .retile a 0 f s

/-- GATH (R288). -/
def execGath (l : BitVec 4) (a : BitVec 6) (f n : BitVec 1) (p : BitVec 4) (s : State) : Res :=
  armInstr (.gath l a f n p) .gath a 0 f s

/-- CHAIN (R289). -/
def execChain (l : BitVec 4) (a : BitVec 6) (f n : BitVec 1) (p : BitVec 4) (s : State) : Res :=
  armInstr (.chain l a f n p) .chain a 0 f s

/-- COLL (R291). -/
def execColl (l : BitVec 4) (a : BitVec 6) (f n : BitVec 1) (p : BitVec 4) (s : State) : Res :=
  armInstr (.coll l a f n p) .coll a 0 f s

/-! ## Firing -/

def State.armedAt (s : State) (cl place : Nat) : Option Armed := mfind (s.cluster cl).armed place

def State.setArmed (s : State) (cl place : Nat) (a : Armed) : State :=
  s.modCluster cl fun k => { k with armed := mset k.armed place a }

def Armed.f (a : Armed) (off n : Nat) : Nat := field a.desc off n

def Armed.repeat_ (a : Armed) : Nat := a.f 12 4

/-- Whether the page that an agent stopped on is still being filled (R433). -/
def State.filling_ (s : State) (pte : Option Nat) : Bool :=
  match pte with
  | some p => s.pageFills.any fun f => f.pte == p && f.failed.isNone
  | none => false

/-- Whether an operation may go on: it is not stopped on a page; a firing in flight completes, while another begins only where firings are left to
make, the operation is not withdrawn, and its gang is not saved (R292, R397). -/
def State.mayFire (s : State) (a : Armed) : Bool :=
  !s.filling_ a.stopped
    && (a.firing.isSome
      || (decide (a.fired < a.repeat_) && !a.withdrawn && !(match a.gang with | some g => (s.gang g).saved | none => false)))

/-- Whether every named chute allows its acquire in the cycle (R281, R285). One entry serves both inputs where they name one chute
(DEDUCED, notes/assumptions/132.md). -/
def State.chutesReady (s : State) (a : Armed) : Bool :=
  match a.gang with
  | none => (descChutes a.desc).isEmpty
  | some g =>
    let ok := fun (off : Nat) (p : Chute → Nat → Bool) => a.f off 1 == 0xFF || p (s.chute g (a.f off 1)) s.clock
    ok 8 Chute.mayRead && (a.f 9 1 == a.f 8 1 || ok 9 Chute.mayRead) && ok 10 Chute.mayWrite

/-- Acquire the entry of one named chute (R285): the entry, the time it follows (R282), and the state. -/
def State.engAcquire (s : State) (a : Armed) (off : Nat) (write : Bool) : Option Entry_ × Nat × State :=
  match a.gang with
  | some g =>
    if a.f off 1 < 32 then
      let n := a.f off 1
      let (e, t, c) := (s.chute g n).acquire write s.clock
      (some { chute := n, seq := e, off := c.offset e }, t, s.setChute g n c)
    else (none, 0, s)
  | none => (none, 0, s)

/-- A firing begins: every named entry is acquired (R285), and the agent's time follows the releases before (R282). -/
def State.beginFiring (s : State) (a : Armed) : Firing × Nat × State :=
  let (i0, t0, s) := s.engAcquire a 8 false
  let (i1, t1, s) := if a.f 9 1 = a.f 8 1 then (none, 0, s) else s.engAcquire a 9 false
  let (o, t2, s) := s.engAcquire a 10 true
  ({ in0 := i0, in1 := if a.f 9 1 = a.f 8 1 then i0 else i1, out := o, gen := a.gen }, max (max t0 t1) t2, s)

/-- Release one entry (R285). -/
def State.engRelease (s : State) (a : Armed) (write : Bool) (e : Option Entry_) (t : Nat) : State :=
  match a.gang, e with
  | some g, some e => s.setChute g e.chute ((s.chute g e.chute).release write s.clock e.seq t)
  | _, _ => s

/-- A firing has finished: its entries are released. -/
def State.endFiring (s : State) (a : Armed) (f : Firing) (t : Nat) : State :=
  let s := s.engRelease a false f.in0 t
  let s := if f.in1 = f.in0 then s else s.engRelease a false f.in1 t
  s.engRelease a true f.out t

/-- The end that a descriptor gives for one stream: the chute entry held, or the address (R286 to R291). -/
def endOf (e : Option Entry_) (va : Int) : End_ :=
  match e with
  | some e => .entry e.off
  | none => .mem (va % 2 ^ 64).toNat

/-- The end of an operation where nothing is left to do (R285, R117): after the last firing DONE is written and the place frees; a withdrawn
operation frees it without DONE (R397); a refused packet of a COLL ends the launch (R405, R443). -/
def State.engFinish (s : State) (cl place : Nat) : State :=
  match s.armedAt cl place with
  | none => s
  | some a =>
    if a.firing.isSome ∨ a.awaited ≠ 0 then s
    else
      let free := fun (s : State) =>
        ((s.modCluster cl fun k => { k with armed := mdel k.armed place }).clearAgent (.engine cl place)).armedGone a
      if a.withdrawn then free s
      else
        match a.bad with
        | some st => s.terminate a.launch (match statusTrap st 0 with | .trap code _ _ _ _ => 0x100 + code | _ => 0x0201)
        | none =>
          if a.fired < a.repeat_ then s
          else
            let done := a.f 0 8
            if done = 0 then free s
            else if s.doneWaits a.agent done then s
            else free (s.agentDone a.agent a.launch done (some a.repeat_) a.time)

/-- A piece of a firing's work: the firing after it, or none where the firing's work is done. -/
abbrev Piece := Armed → Firing → EngM (Option Firing)

/-- How a run of pieces ended: the firing as the last piece left it, and what stopped the next one, or that the work is done. -/
structure Pieces where
  firing : Firing
  run : Run
  stop : Option Stop
  done : Bool
deriving DecidableEq, Repr

/-- Do piece after piece until the work is done or a piece stops; what a piece has not finished is undone (R285, R435). -/
def runPieces (work : Piece) (a : Armed) (f : Firing) (r : Run) : (fuel : Nat) → Pieces
  | 0 => { firing := f, run := r, stop := none, done := false }
  | fuel + 1 =>
    match work a f r with
    | .ok (some f, r) => runPieces work a f r.next fuel
    | .ok (none, r) => { firing := f, run := r.next, stop := none, done := true }
    | .error e => { firing := f, run := r, stop := some e, done := false }

/-- A COPY's writes into a line land soon after (R89). -/
def State.landLine (s : State) (line : Nat) : State := s.later 1 (.fillLineLands (BitVec.ofNat 45 line))

/-- What follows a run of pieces (R285, R405): a firing that is done releases its entries; one that must wait goes on later, and one that must ask for
a line waits for the answer (R132); a page is filled first; a fault ends the launch, and what the firing has written stays. -/
def State.afterPieces (s : State) (cl place : Nat) (a : Armed) (p : Pieces) : State :=
  let a := { a with time := p.run.t, stopped := none }
  if p.done then
    ((s.endFiring a p.firing p.run.t).noteTime a.launch p.run.t).setArmed cl place { a with fired := a.fired + 1, firing := none }
  else
    let s := s.setArmed cl place { a with firing := some p.firing }
    match p.stop with
    | some (.trap code _ _ _ _) =>
      let s := p.firing.lines.foldl State.landLine s
      (s.setArmed cl place { a with firing := none, withdrawn := true }).terminate a.launch (0x100 + code)
    | some (.fill pte e level) => (s.beginFill pte e level).setArmed cl place { a with firing := some p.firing, stopped := some pte }
    | some (.miss line r _ _) => s.missAgent (.engine cl place) line r
    | _ => s

/-- The pieces of a firing that one event may do, above any firing's number. -/
def pieceFuel : Nat := 2 ^ 29

/-- An armed operation goes on (R285): a firing in flight, or a new one where the named chutes allow it; `begin_` is what a firing does when it is
issued. -/
def State.fire (s : State) (cl place : Nat) (kind : EngineKind) (begin_ : Armed → Firing → EngM Firing) (work : Piece) : State :=
  match s.armedAt cl place with
  | none => s
  | some a =>
    if a.kind ≠ kind then s
    else if s.agentBlocked (.engine cl place) then s
    else if !s.mayFire a || (a.firing.isNone && !s.chutesReady a) then s.engFinish cl place
    else
      let p := match a.firing with
        | some f => runPieces work a f (s.runOf a.agent (.engine cl place) a.time) pieceFuel
        | none =>
          let (f, t, s) := s.beginFiring a
          let r := (s.setArmed cl place { a with firing := some f }).runOf a.agent (.engine cl place) (max a.time t)
          match begin_ a f r with
          | .ok (f, r) => runPieces work a f r pieceFuel
          | .error e => { firing := f, run := r, stop := some e, done := false }
      let a := (p.run.s.armedAt cl place).getD a
      (p.run.s.afterPieces cl place a p).engFinish cl place

/-- A firing's issue asks for nothing of its own. -/
def noBegin (_a : Armed) (f : Firing) : EngM Firing := pure f

/-- An event of an armed operation's engine. -/
def fireEvent (kind : EngineKind) (cluster : BitVec 7) (place : BitVec 6) (begin_ : Armed → Firing → EngM Firing) (work : Piece) (s : State) : Res :=
  match s.unit with
  | .none => .next (s.fire cluster.toNat place.toNat kind begin_ work)
  | _ => .next s

/-! ## COPY -/

/-- The source and destination of a COPY's firing (R286). -/
def copyEnds (a : Armed) (f : Firing) : End_ × End_ :=
  (endOf f.in0 (a.f 16 8 + a.fired * fieldS a.desc 36), endOf f.out (a.f 24 8 + a.fired * fieldS a.desc 40))

/-- The staging lines that bytes written from an address fill, where they can be reached. -/
def State.fillLines (s : State) (a : Agent) (va n : Nat) : List Nat :=
  (List.range ((va + n - 1) / 128 - va / 128 + 1)).filterMap fun i =>
    match ({ s with touched := [] }).agentResolve a (if i = 0 then va else 128 * (va / 128 + i)) true true with
    | .ok (_, pa, .staging) => some (pa / 128)
    | _ => none

/-- A COPY's firing is issued: it is a fill into the staging lines of its destination, whose presence is cleared (R89, R286). -/
def copyBegin (a : Armed) (f : Firing) : EngM Firing := do
  let s ← engState
  let lines := s.fillLines a.agent ((copyEnds a f).2.va 0) (a.f 32 4)
  engMod fun s => lines.foldl (fun (s : State) (l : Nat) => { s with filling := mset s.filling l (mget 0 s.filling l + 1) }) s
  pure { f with lines := lines }

/-- The next bytes of a COPY's firing (R286); a line's writes land once the last of them is made (R89). -/
def copyPiece : Piece := fun a f => do
  let n := a.f 32 4
  let (src_, dst_) := copyEnds a f
  let (m, dpa, _) ← engCopy a.agent f.lines (src_.va f.progress) (dst_.va f.progress) a.tag a.full true (n - f.progress)
  let k := f.progress + m
  let f := { f with progress := k }
  let f ← if (n ≤ k ∨ (dpa + m) % 128 = 0) ∧ f.lines.contains (dpa / 128) then do
      engMod fun s => s.landLine (dpa / 128)
      pure { f with lines := f.lines.erase (dpa / 128) }
    else pure f
  pure (if n ≤ k then none else some f)

/-- A COPY fires (R285, R286). -/
def execCopyFiring (cluster : BitVec 7) (place : BitVec 6) (s : State) : Res := fireEvent .copy cluster place copyBegin copyPiece s

/-- A fill's writes into a line land: with the last of them the line is present (R89). -/
def execFillLineLands (line : BitVec 45) (s : State) : Res :=
  match s.unit with
  | .none =>
    let n := mget 0 s.filling line.toNat
    .next { s with filling := if n ≤ 1 then mdel s.filling line.toNat else mset s.filling line.toNat (n - 1) }
  | _ => .next s

/-! ## RETILE -/

/-- Address of a byte of a slab of the list. -/
def slabByte (slabs : List Nat) (i off : Nat) : Nat := slabs.getD i 0 + off

/-- Read one element stream piece: the values, and whether some are poisoned. -/
def readVals (a : Agent) (va code count : Nat) : EngM (List Val × Bool) := do
  let (b, p) ← engRead a va (count * memBits code / 8) (count * memBits code / 8)
  pure ((List.range count).map fun i => decodeFmt (elementFmt false code) (getElem b code i), p)

/-- One piece of a matrix row: 8 elements of BF16, or a block of 32 with its scale of MXFP4 (R287 steps 2 and 3); the generator and the flags. -/
def retileData (a : Armed) (q : Quant) (slabs : List Nat) (m j : Nat) (gen : DWord) : EngM (DWord × Flags) := do
  let r := field a.srcRec
  let code := r 28 1
  let kdim := r 0 4
  let n := if q.mx then 32 else 8
  let (xs, p) ← readVals a.agent (r 32 8 + m * r 16 4 + j * n * (memBits code / 8)) code n
  if q.mx then do
    let (sc, es, g, gen) := q.block false gen xs
    let (i, bench, bank, col) := seamColumn true kdim m (j / 2)
    engWrite a.agent (slabByte slabs i (slabOffset bench bank col + 16 * (j % 2))) p a.full (packElems 9 es) 16
    let (i, off) := seamScale kdim m j
    engWrite a.agent (slabByte slabs i off) p a.full [BitVec.ofNat 8 sc] 1
    pure (gen, g)
  else do
    let (es, g, gen) := q.elems gen xs
    let (i, bench, bank, col) := seamColumn false kdim m (j / 2)
    engWrite a.agent (slabByte slabs i (slabOffset bench bank col + 16 * (j % 2))) p a.full (packElems 3 es) 16
    pure (gen, g)

/-- A piece of a RETILE (R287): an entry of the slab list, then a piece of the data, rows and pieces of a row in ascending order, and at the end the
destination's record and the flags. The slab addresses are used as they are read (DESIGN CHOICE, notes/assumptions/130.md). -/
def retilePiece : Piece := fun a f => do
  let s ← engState
  let r := field a.srcRec
  let kdim := r 0 4
  let rows := r 4 4
  let tfmt := a.f 32 1
  let q := Quant.of tfmt (a.f 33 1) (s.launch a.launch).compand
  let p := seamP q.mx kdim
  let pieces := if q.mx then kdim / 32 else kdim / 8
  if f.held.length < (rows + p - 1) / p then do
    let (b, _) ← engRead a.agent (a.slabList + 8 * f.held.length) 8 8
    pure (some { f with held := f.held ++ [leNat b] })
  else if f.progress < rows * pieces then do
    let (gen, g) ← retileData a q f.held (f.progress / pieces) (f.progress % pieces) f.gen
    pure (some { f with progress := f.progress + 1, gen := gen, flags := f.flags ||| g })
  else do
    let dst_ := a.f 24 8
    let head := leBytes kdim 4 ++ leBytes rows 4 ++ leBytes 1 4 ++ leBytes 1 4 ++ leBytes 0 12 ++ leBytes tfmt 1
      ++ leBytes (if q.mx then 2 else 1) 1 ++ leBytes (seamS q.mx) 2 ++ leBytes 0 8
    engWrite a.agent dst_ false a.full head 40
    engWrite a.agent (dst_ + 48) false a.full (leBytes 0 8) 8
    let t ← engTime
    engMod fun s => s.orFlags a.ctx f.flags t
    pure none

/-- A RETILE runs (R287). -/
def execRetileRun (cluster : BitVec 7) (place : BitVec 6) (s : State) : Res := fireEvent .retile cluster place noBegin retilePiece s

/-! ## GATH -/

/-- A piece of a GATH's firing (R288): the index of a row, or the next bytes of the row it names; a poisoned index poisons the row (R421). -/
def gathPiece : Piece := fun a f => do
  let n := a.f 40 4
  let row := a.f 24 4
  let idx := endOf f.in0 (a.f 32 8 + a.fired * (4 * n))
  let dst_ := endOf f.out (a.f 48 8 + a.fired * (n * row))
  let i := f.progress / row
  match f.held with
  | [k, bad] => do
    let off := f.progress % row
    let src_ := (a.f 16 8 + k * a.f 28 4 + off) % 2 ^ 64
    let (m, dpa, _) ← engCopy a.agent [] src_ (dst_.va f.progress) false a.full false (row - off)
    if bad = 1 then engMod fun s => s.poisonBytes dpa m
    let k := f.progress + m
    pure (if n * row ≤ k then none else some { f with progress := k, held := if k % row = 0 then [] else f.held })
  | _ => do
    let (b, p) ← engRead a.agent (idx.va (4 * i)) 4 4
    pure (some { f with held := [leNat b, if p then 1 else 0] })

/-- A GATH fires (R285, R288). -/
def execGathFiring (cluster : BitVec 7) (place : BitVec 6) (s : State) : Res := fireEvent .gath cluster place noBegin gathPiece s

/-! ## CHAIN -/

/-- A result rounded to FP32 under nearest-even, with a signalling operand's NV. -/
def chainRound (x : Val × Flags) : Val × Flags :=
  let (b, g) := roundFmt fmtFP32 0 0 x.1
  (decodeFmt fmtFP32 b, x.2 ||| g ||| flagIf x.1.isSig flagNV)

/-- One operation word on x (R289, R290). -/
def chainOp (code : Nat) (x y : Val) : Val × Flags :=
  let special := fun (op : Nat) =>
    let (b, g) := sfu op (BitVec.ofNat 32 (roundFmt fmtFP32 0 0 x).1) x
    (decodeFmt fmtFP32 b, g)
  match code with
  | 1 => chainRound (x.add false y)
  | 2 => chainRound (x.add false y.negate)
  | 3 => chainRound (y.add false x.negate)
  | 4 => chainRound (x.mul y)
  | 5 => chainRound (x.min y)
  | 6 => chainRound (x.max y)
  | 7 => chainRound (y, 0)
  | 8 => if x.isNan then chainRound (x, 0) else (x.withSign false, 0)
  | 9 => if x.isNan then chainRound (x, 0) else (x.negate, 0)
  | 10 => if x.isNan then chainRound (x, 0) else if x.neg || x.isZero then (.zero false, 0) else (x, 0)
  | 11 => special 0
  | 12 => special 1
  | 13 => special 3
  | 14 => special 7
  | _ => chainRound x.sqrt

/-- The words until END (R290). -/
def chainOps (d : List Byte) (a b : Val) : (words : List Nat) → Val → Flags → Val × Flags
  | [], x, g => (x, g)
  | w :: r, x, g =>
    let code := w / 2048
    if code = 0 then (x, g)
    else
      let sel := w / 256 % 8
      let y := if sel = 0 then a else if sel = 1 then b else decodeFmt fmtFP32 (field d (64 + 4 * (sel - 4)) 4)
      let (x, h) := chainOp code x y
      chainOps d a b r x (g ||| h)

/-- Format code of R95 of a stream's format and of a result's (R289). -/
def chainCode (f : Nat) : Nat := match f with | 0 => 1 | 1 => 3 | 2 => 4 | 3 => 5 | _ => 6

/-- A piece of a CHAIN's firing (R290): an element; the flags of the firing are ORed once, after its last element (R157). -/
def chainPiece : Piece := fun a f => do
  let n := a.f 40 4
  let i := f.progress
  if n ≤ i then do
    let t ← engTime
    engMod fun s => s.orFlags a.ctx f.flags t
    pure none
  else do
    let stream := fun (e : Option Entry_) (off code : Nat) =>
      (endOf e (a.f off 8 + a.fired * (n * memBits code / 8))).va (i * memBits code / 8)
    let ca := chainCode (a.f 11 1 % 4)
    let cb := chainCode (a.f 11 1 / 4 % 4)
    let cr := chainCode (a.f 11 1 / 16 % 8)
    let (xa, pa) ← readVals a.agent (stream f.in0 16 ca) ca 1
    let (xb, pb) ← if a.f 9 1 ≠ 0xFF ∨ a.f 24 8 ≠ 0 then readVals a.agent (stream f.in1 24 cb) cb 1 else pure ([], false)
    let x := xa.getD 0 (.zero false)
    let y := xb.getD 0 (.zero false)
    let words := (List.range 8).map fun i => a.f (44 + 2 * i) 2
    let (r, h) := chainOps a.desc x y words x 0
    let (e, h') := roundFmt (elementFmt false cr) 0 0 r
    engWrite a.agent (stream f.out 32 cr) (pa || pb) a.full (packElems cr [e]) 4
    pure (some { f with progress := i + 1, flags := f.flags ||| h ||| h' ||| flagIf r.isSig flagNV })

/-- A CHAIN fires (R285, R290). -/
def execChainFiring (cluster : BitVec 7) (place : BitVec 6) (s : State) : Res := fireEvent .chain cluster place noBegin chainPiece s

/-! ## COLL -/

/-- Bytes of the operation at an address with `left` bytes to go (R291): an element, or the largest aligned power of two up to 16. -/
def collSize (kind va left : Nat) : Nat :=
  if kind = 0 then 4 else if kind = 1 then 8
  else ([16, 8, 4, 2].find? fun n => va % n == 0 && decide (n ≤ left)).getD 1

/-- OP of a KIND (R365): reductions of AMOC's FADD, the 64-bit one, or a store. -/
def collCode (kind : Nat) : Nat := if kind = 0 then 0x17 else if kind = 1 then 0x18 else 1

/-- Whether the capability admits one operation (R102, R291). -/
def collOk (cap : Cap) (kind va n : Nat) : Bool :=
  let (base, top) := cap.bounds
  cap.tag && decide (cap.kind ≤ 1) && (cap.kind == 0 || cap.f 54 10 == cap.peer) && cap.bit (if kind = 2 then 80 else 79)
    && decide (base ≤ (va : Int) ∧ (va : Int) + n ≤ top)

/-- A fault of a COLL's operation at an address. -/
def collTrap {α : Type} (code sub va : Nat) : EngM α := engStop (.trap code sub 0 (BitVec.ofNat 64 va) false)

/-- Where an operation of COLL on this package's own memory goes (R291, R100). -/
def collPlace (a : Armed) (kind va n : Nat) : EngM (Nat × PageKind) := fun r =>
  if a.cap.kind = 0 then
    match r.s.resolve a.agent.view (BitVec.ofNat 64 va) (if kind = 2 then .store n else .atomic n) with
    | .ok (s, pa, k) => .ok ((pa, k), { r with s := s })
    | .error e => .error e
  else
    match r.s.named (natBits va 32 32) with
    | none => collTrap 0x1B 4 va r
    | some g =>
      let off := natBits va 0 32
      if g.win0Size < off + n ∨ off % n ≠ 0 then collTrap 0x0A 3 va r
      else if !r.s.present (g.win0 off) then .error (.wait { kind := .presence, key := g.win0 off / 128 })
      else if ({ r.s with touched := r.touched }).busyWord (g.win0 off) n then .error (.wait { kind := .slice, key := g.win0 off / 4 })
      else .ok ((g.win0 off, .staging), r)

/-- A reduction of COLL reaches a window's crusher (R259). -/
def collContribute (a : Armed) (win target x : Nat) (poison : Bool) : EngM Unit := fun r =>
  let (ts, s) := r.s.contribute win target x a.ctx r.t poison
  .ok ((), { r with s := s, t := ts })

/-- Whether a request has performed a write at a physical address for the piece in hand. -/
def engPerformed (pa : Nat) : EngM Bool := fun r => .ok (r.got.any fun g => g.pa == pa && !g.op.isLoad, r)

/-- A reduction of COLL (R259, R291): a contribution to an open window's target; else an operation whose flags are ORed immediately after it (R157),
by its home where a request has performed it. Poisoned data poisons what it reaches (R421). -/
def collReduce (a : Armed) (wide : Bool) (pa : Nat) (k : PageKind) (x : Nat) (poison : Bool) : EngM Unit := do
  let s ← engState
  match s.windowAt pa wide with
  | some (win, target) => collContribute a win target x poison
  | none => do
    let op := LineOp.reduce .fadd wide (pa % 128) x a.ctx
    let performed ← engPerformed pa
    let x ← engOp pa k op
    if performed then pure () else engMod fun s => s.reduceFlags op x
    if poison then engMod fun s => s.poisonBytes pa (wideBytes wide)

/-- Perform an operation of COLL at a physical address of this package (R291). -/
def collPerform (a : Armed) (kind va pa : Nat) (k : PageKind) (b : List Byte) (poison : Bool) : EngM Unit := do
  let s ← engState
  if !s.coreOwned pa then collTrap 0x0D 2 va
  else if kind = 2 then engStore pa k b poison a.full
  else do
    collReduce a (kind == 1) pa k (leNat b) poison
    if a.full then engMod fun s => s.fillWords pa b.length

/-- Gather up to 32 operations of one firing that leave in one packet (R103): from byte `off`, those of one size and one 64 KiB block. One that
faults is left for a later piece, but for the first. -/
def collGather (a : Armed) (src_ : End_) (base size block off total : Nat) : (n : Nat) → EngM (List Nat × Bool)
  | 0 => pure ([], false)
  | n + 1 => fun r =>
    let va := (base + off) % 2 ^ 64
    if total ≤ off ∨ va / 65536 ≠ block ∨ collSize (a.f 11 1) va (total - off) ≠ size ∨ !collOk a.cap (a.f 11 1) va size then .ok (([], false), r)
    else
      match engRead a.agent (src_.va off) size size r with
      | .error e => if n = 31 then .error e else match e with
        | .trap _ _ _ _ _ => .ok (([], false), r)
        | e => .error e
      | .ok ((b, p), r) =>
        match collGather a src_ base size block (off + size) total n r with
        | .ok ((l, p'), r) => .ok ((leNat b :: l, p || p'), r)
        | .error e => .error e

/-- A packet of COLL for another package leaves, once a tag is free (R102, R103, R441, R442): the bytes it carries. -/
def collSend (cl place : Nat) (a : Armed) (src_ : End_) (base total off : Nat) : EngM Nat := do
  let kind := a.f 11 1
  let va := (base + off) % 2 ^ 64
  let n := collSize kind va (total - off)
  let s ← engState
  let kind1 := a.cap.kind == 1
  let page := if kind1 then natBits va 32 32 + 2 ^ 32 * natBits va 16 8 else natBits va 16 40
  let d := cl / 40
  match s.routes a.cap.peer d page with
  | [] => collTrap 0x1B 1 va
  | port :: _ => do
    if !kind1 && 2 ^ 56 ≤ va then collTrap 5 7 va
    if va % n ≠ 0 then collTrap 6 7 va
    match s.freeTag d with
    | none => engStop (.wait { kind := .egress })
    | some tag => do
      let (xs, poison) ← collGather a src_ base n (va / 65536) off total 32
      let t ← engTime
      let p := buildPacket s.pkgId tag (xs.zipIdx.map fun x => ({ lane := x.2, req := {
        op := (if kind1 then 128 else 0) + collCode kind, size := sizeCode n, peer := a.cap.peer, ctx := a.ctx, page := page
        off := natBits (va + n * x.2) 0 16, data := x.1, ts := t } } : Entry))
      let p := { p with poison := poison }
      engMod fun s => { s.sendRequest port p true with
        sent := mset s.sent (4096 * d + tag) { packet := p, engine := some (64 * cl + place), lastSent := s.clock } }
      engMod fun s => s.modCluster cl fun k => { k with armed := mmap k.armed fun q a => if q = place then { a with awaited := a.awaited + 1 } else a }
      pure (n * xs.length)

/-- A piece of a COLL's firing (R291): one operation on this package's memory, or the operations that leave in one packet. -/
def collPiece (cl place : Nat) : Piece := fun a f => do
  let kind := a.f 11 1
  let step := (BitVec.ofNat 64 (a.f 56 8)).toInt
  let src_ := endOf f.in0 (a.f 16 8 + a.fired * step)
  let base := ((a.cap.addr.toNat + a.f 48 8 + a.fired * step : Int) % 2 ^ 64).toNat
  let total := a.f 24 4
  let off := f.progress
  if total ≤ off then pure none
  else do
    let va := (base + off) % 2 ^ 64
    let n := collSize kind va (total - off)
    if !collOk a.cap kind va n then collTrap 0x0B 0 va
    let s ← engState
    let m ← if a.cap.peer = s.pkgId then do
        let (b, p) ← engRead a.agent (src_.va off) n n
        let (pa, k) ← collPlace a kind va n
        collPerform a kind va pa k b p
        pure n
      else collSend cl place a src_ base total off
    pure (some { f with progress := off + m })

/-- A COLL fires (R285, R291). -/
def execCollFiring (cluster : BitVec 7) (place : BitVec 6) (s : State) : Res :=
  fireEvent .coll cluster place noBegin (collPiece cluster.toNat place.toNat) s

end Sys2Proof.Machine
end

