-- ==== Sys2Proof/Machine/Matrix.lean ====
section
/-! DEFINITION. The arithmetic of the matrix unit (R163, R164, R300, R301). -/

namespace Sys2Proof.Machine

/-- One K-group's result (R163): `f` the accumulator format, `w` the window, `k` the exponent of the block scales, `nanScale` a 0xFF scale.
DESIGN CHOICE (notes/assumptions/82.md): a signalling NaN element, of which R156 and R163 differ, raises no NV. -/
def kGroup (f : Fmt) (w : Nat) (k : Int) (nanScale : Bool) (c : Val) (ps : List (Val × Val)) : Nat × Flags :=
  let nan := nanScale || c.isNan || ps.any fun (x : Val × Val) => x.1.isNan || x.2.isNan
  let invalid := ps.any fun (x : Val × Val) => mulInvalid x.1 x.2
  let inf := fun (neg : Bool) (x : Val × Val) =>
    (match x.1, x.2 with | .nan _, _ => false | _, .nan _ => false | .inf _, _ => true | _, .inf _ => true | _, _ => false)
      && !mulInvalid x.1 x.2 && (x.1.neg != x.2.neg) == neg
  let pinf := (ps.any (inf false)) || (match c with | .inf b => !b | _ => false)
  let ninf := (ps.any (inf true)) || (match c with | .inf b => b | _ => false)
  if nan || invalid || (pinf && ninf) then
    ((roundFmt f 0 0 (.nan false)).1, flagIf (invalid || (pinf && ninf)) flagNV)
  else if pinf || ninf then roundFmt f 0 0 (.inf ninf)
  else
    let terms : List (Int × Int) := ps.map fun (x : Val × Val) =>
      match x.1, x.2 with
      | .fin b n _ e, .fin b' n' _ e' => (if b != b' then -((n * n' : Nat) : Int) else ((n * n' : Nat) : Int), e + e')
      | _, _ => (0, 0)
    let live := terms.filter fun (x : Int × Int) => x.1 != 0
    match live with
    | [] =>
      let allNeg := ps.all fun (x : Val × Val) => x.1.neg != x.2.neg
      if c.isZero then roundFmt f 0 0 (.zero (c.neg && allNeg)) else roundFmt f 0 0 c
    | t :: _ =>
      let top := live.foldl (fun (m : Int) (x : Int × Int) => max m ((Nat.log2 x.1.natAbs : Int) + x.2)) ((Nat.log2 t.1.natAbs : Int) + t.2)
      let l := top - w + 1
      let part := fun (x : Int × Int) =>
        if l ≤ x.2 then ((x.1.natAbs * 2 ^ (x.2 - l).toNat : Nat), false)
        else ((x.1.natAbs / 2 ^ (l - x.2).toNat : Nat), x.1.natAbs % 2 ^ (l - x.2).toNat != 0)
      let (sum, sticky) := live.foldl (fun (a : Int × Bool) (x : Int × Int) =>
        let (m, st) := part x
        (a.1 + (if x.1 < 0 then -(m : Int) else (m : Int)), a.2 || st)) (0, false)
      if sum = 0 then roundFmt f 0 0 (if c.isZero then .zero false else c)
      else
        let (cm, ce) : Int × Int := match c with
          | .fin b n _ e => (if b then -(n : Int) else (n : Int), e)
          | _ => (0, 0)
        let q := min (min ce (l + k)) (-1080) - 2
        let z : Int := cm * 2 ^ (ce - q).toNat + sum * 2 ^ (l + k - q).toNat
        let z := if sticky then if sum < 0 then z - 1 else z + 1 else z
        if z = 0 then roundFmt f 0 0 (.zero false) else roundFmt f 0 0 (.fin (decide (z < 0)) z.natAbs 1 q)

/-- One K-group into INT32 (R164): none where companded operands make the sum no integer, a value the spec does not state. DESIGN CHOICE
(notes/assumptions/82.md): a clamped sum raises SAT alone, and not NX. -/
def kGroupInt (c : Int) (ps : List (Val × Val)) : Option (Int × Flags) :=
  let terms : List (Int × Int) := ps.map fun (x : Val × Val) =>
    match x.1, x.2 with
    | .fin b n _ e, .fin b' n' _ e' => (if b != b' then -((n * n' : Nat) : Int) else ((n * n' : Nat) : Int), e + e')
    | _, _ => (0, 0)
  let q := terms.foldl (fun (m : Int) (x : Int × Int) => min m x.2) 0
  let sum := terms.foldl (fun (a : Int) (x : Int × Int) => a + x.1 * 2 ^ (x.2 - q).toNat) 0
  let u : Int := 2 ^ (-q).toNat
  if sum % u ≠ 0 then none
  else
    let z := c + sum / u
    if z < -(2 ^ 31) then some (-(2 ^ 31), flagSAT)
    else if 2 ^ 31 ≤ z then some (2 ^ 31 - 1, flagSAT)
    else some (z, 0)

/-! ## Formats -/

/-- Whether a code is one of the small floating-point formats of R300. -/
def smallFmt (code : Nat) : Bool := [5, 6, 7, 8, 9, 0xC].contains code

/-- The accumulator type and arith cycles of a pair of formats (R300). -/
def mmaPair (fa fb : Nat) : Option (AccType × Nat) :=
  let a := fa % 128
  let b := fb % 128
  let int := fun (x : Nat) => x == 0xA || x == 0xB
  if smallFmt a && smallFmt b then some (.fp32, if a = 5 ∨ a = 6 ∨ b = 5 ∨ b = 6 then 2 else 1)
  else if int a && int b then
    if fa / 128 ≠ fb / 128 then none
    else some (if 128 ≤ fa then .fp32 else .int32, if a = 0xA ∨ b = 0xA then 2 else 1)
  else if fa ≠ fb then none
  else
    match fa with
    | 0 => some (.fp64, 32)
    | 1 => some (.fp32, 16)
    | 2 | 3 | 4 => some (.fp32, 4)
    | _ => none

/-- Window W of a K-group (R161, R163). -/
def kWindow (fa : Nat) (companded : Bool) : Nat := if companded || fa == 2 || fa == 3 then 560 else 112

/-- An operand element: decoded, and inverted where a table is named (R161); with the flags of that rounding. -/
def operandVal (format : Nat) (table : Option (List Byte × Nat)) (bits : Nat) : Val × Flags :=
  let f := elementFmt (decide (128 ≤ format)) (format % 128)
  let v := decodeFmt f bits
  match table with
  | none => (v, 0)
  | some (b, t) =>
    let (x, g) := roundFmt fmtBF16 0 0 (compand b t true f v)
    (decodeFmt fmtBF16 x, g)

/-- A decoded row of A or column of B: values, scale code, and which elements are poisoned. -/
structure OperandLine where
  vals : List Val
  scale : Nat := 127
  poison : List Bool := []
deriving Repr

end Sys2Proof.Machine
end

