-- ==== Sys2Proof/Machine/Tile.lean ====
section
/-! DEFINITION. The tile sequencer (R293 to R307): reservations, fills, the matrix queue, draining accumulators, the issue governor, and the
stream's save. -/

namespace Sys2Proof.Machine

/-! ## Whose accesses the stream makes -/

/-- The group that the stream's staging view is: the gang's first group that has not retired. -/
def State.gangHead (s : State) (gang : Nat) : Nat :=
  let g := s.gang gang
  (g.groups.find? fun k => (mfind s.groups k).any fun x => x.gang == some gang).getD (g.groups.headD 0)

/-- The agent of a cluster's stream. -/
def State.streamAgent (s : State) (cl : Nat) : Agent :=
  match (s.cluster cl).gang with
  | some k => s.agentOf { ctx := (s.launch (s.gang k).launch).ctx, group := s.gangHead k } (some k)
  | none => {}

/-- The compand block of the stream's launch (R160). -/
def State.streamCompand (s : State) (cl : Nat) : List Byte := (s.launch (s.streamLaunch cl)).compand

/-- Whether a pre-emption of the stream's gang is pending (R295). -/
def State.streamPreempted (s : State) (cl : Nat) : Bool :=
  match (s.cluster cl).gang with
  | some k => (s.gang k).preempt
  | none => false

/-- A stream instruction, which lanes may not issue (R178). -/
def onStream (i : Instr) (f : State → Nat → DWord → Nat → State) (s : State) : Res :=
  match s.unit with
  | .lanes x => .next (runLanes (shapeOf i) (quietly fun _ => pure ()) s x)
  | .stream cl pc w => .next (f s cl pc w)
  | _ => .next s

/-- The stream goes on at the next instruction. -/
def State.streamNext (s : State) (cl : Nat) (f : Cluster → Cluster) : State :=
  s.modCluster cl fun k => { f k with pc := k.pc + 4, stream := .running }

/-- The stream stalls at its instruction, which is issued again (R298, R299, R302, R303). -/
def State.streamStall (s : State) (cl : Nat) : State := s.modCluster cl fun k => { k with stream := .stalled }

/-! ## Reservations -/

def Handle.f (h : Handle) (off n : Nat) : Nat := field h.record off n
def Handle.off (h : Handle) : Nat := h.f 0 4
def Handle.tiles (h : Handle) : Nat := h.f 4 2
def Handle.role (h : Handle) : Nat := h.f 6 1
def Handle.format (h : Handle) : Nat := h.f 7 1
def Handle.code (h : Handle) : Nat := h.format % 128
def Handle.mx (h : Handle) : Bool := decide (128 ≤ h.format)
def Handle.qctl (h : Handle) : Nat := h.f 8 1
def Handle.stride (h : Handle) : Nat := h.f 12 4
def Handle.mscale (h : Handle) : Int := fieldS h.record 16
def Handle.sstride (h : Handle) : Nat := h.f 20 4
def Handle.state (h : Handle) (slot : Nat) : SlotState := mget .empty h.slots slot

/-- Bytes of a slot in each quarter bank (R297). -/
def slotBytes (code : Nat) (mx isB : Bool) : Nat :=
  match code with
  | 0 => if isB then 8192 else 4096
  | 1 | 2 => if isB then 4096 else 2048
  | 3 | 4 => if isB then 2048 else 1024
  | 7 | 8 => if mx then if isB then 1024 else 512 else if isB then 768 else 384
  | 9 | 0xB => if mx then if isB then 768 else 512 else if isB then 512 else 256
  | _ => if mx then if isB then 1280 else 768 else if isB then 1024 else 512

def Handle.slotSize (h : Handle) : Nat := slotBytes h.code h.mx (h.role == 1)

/-- Bytes of quarter bank that a reservation takes (R297). -/
def Handle.span (h : Handle) : Nat := if h.role = 2 then 0 else h.tiles * h.slotSize

/-- What a record breaks (R296, R298): SUB 2, 3 or 4 of R403. -/
def recordCheck (k : Cluster) (h : Handle) : Option Nat :=
  let code := h.code
  let bad := 2 < h.role || 0xC < code || (h.mx && code < 5) || h.f 10 2 != 0 || 2 ≤ h.f 9 1
    || (if h.role = 2 then h.off != 0 || h.tiles != 0 || h.qctl / 8 % 2 == 1 || 4 < h.qctl / 16 % 8
      else h.off % 256 != 0 || 524288 ≤ h.off || h.tiles == 0 || 2048 < h.tiles || h.qctl / 16 % 8 != 0 || h.f 9 1 != 0)
  let meets := h.role != 2 && many k.handles fun _ x =>
    x.role != 2 && decide (x.off < h.off + h.span ∧ h.off < x.off + x.span)
  if bad then some 3
  else if meets || (h.role != 2 && decide (524288 < h.off + h.span)) then some 2
  else if h.role == 2 && h.mx && h.f 9 1 == 1 then some 4
  else none

/-- A load of the stream: bytes of one line at most apiece. -/
def State.streamLoad (s : State) (cl va n : Nat) : Except Stop (List Byte × State) :=
  match engRead (s.streamAgent cl) va n n (s.runOf (s.streamAgent cl) (.stream cl) (s.cluster cl).time) with
  | .ok ((b, p), r) => if p then .error (.poisoned 0) else .ok (b, r.next.s.modCluster cl fun k => { k with time := r.t })
  | .error e => .error e

/-- What stops an instruction of the stream: a page is filled first, a line is asked for, a wait is tried again, and a fault ends the launch (R132,
R403). -/
def State.streamStop (s : State) (cl : Nat) : Stop → State
  | .trap code _ _ _ _ => s.streamTrap cl code
  | .fill pte e level => (s.beginFill pte e level).modCluster cl fun k => { k with stream := .faulted pte }
  | .wait _ => s.streamStall cl
  | .miss line r _ _ => (s.missAgent (.stream cl) line r).streamStall cl
  | .poisoned pa =>
    match (s.cluster cl).gang with
    | some g => s.killPoisoned (s.gangHead g) pa
    | none => s

/-- MRES (R298). -/
def execMres (r h : BitVec 4) (n : BitVec 1) (s : State) : Res :=
  onStream (.mres r h n) (fun s cl _ _ =>
    let k := s.cluster cl
    let va := (k.sreg r.toNat).toNat
    if (mfind k.handles h.toNat).isSome then s.streamTrap cl 0x13
    else if va / 2 ^ 56 ≠ 0 then s.streamTrap cl 5
    else if va % 32 ≠ 0 then s.streamTrap cl 6
    else
      match s.streamLoad cl va 32 with
      | .error e => s.streamStop cl e
      | .ok (b, s) =>
        let x : Handle := { record := b }
        match recordCheck k x with
        | some _ => s.streamTrap cl 0x13
        | none => s.streamNext cl fun k => { k with handles := mset k.handles h.toNat x }) s

/-- The handles an instruction in the queue names. -/
def MatOp.names (o : MatOp) : List Nat :=
  match o.instr with
  | .mma _ b a _ _ => [a.toNat, b.toNat]
  | .mout _ _ _ => [natBits o.s0.toNat 8 4]
  | .mstore _ _ _ => [natBits o.s1.toNat 0 4]
  | _ => []

/-- MREL: waits for every issued instruction that names the handle (R298). -/
def execMrel (h : BitVec 4) (n : BitVec 1) (s : State) : Res :=
  onStream (.mrel h n) (fun s cl _ _ =>
    let k := s.cluster cl
    if (mfind k.handles h.toNat).isNone then s.streamTrap cl 0x13
    else if k.fills.any (·.handle == h.toNat) || k.queue.any (·.names.contains h.toNat) then s.streamStall cl
    else s.streamNext cl fun k => { k with handles := mdel k.handles h.toNat }) s

/-! ## Fills -/

/-- Next issue stamp. -/
def State.stamped (s : State) (f : Nat → State → State) : State := f s.stamp { s with stamp := s.stamp + 1 }

/-- Whether a fill may name a handle and slot (R299): the stream's trap otherwise. -/
def fillOk (k : Cluster) (h : Nat) (slot : Nat) (token : Bool) : Bool :=
  match mfind k.handles h with
  | none => false
  | some x => x.role != 2 && (token || decide (slot < x.tiles))

/-- MLOAD (R299). -/
def execMload (r h : BitVec 4) (n : BitVec 1) (s : State) : Res :=
  onStream (.mload r h n) (fun s cl _ _ =>
    let k := s.cluster cl
    let slot := (k.sreg (r.toNat + 1)).toNat
    if r.toNat % 2 = 1 then s.streamTrap cl 2
    else if !fillOk k h.toNat slot false then s.streamTrap cl 0x13
    else
      s.stamped fun o s => s.streamNext cl fun k => { k with fills := k.fills ++ [{
        handle := h.toNat, slot := slot, tile := (k.sreg r.toNat).toNat, time := k.time, order := o }] }) s

/-- MCHIN: the stream stalls until it holds an entry; a slot of all ones releases it unread (R299). -/
def execMchin (r h : BitVec 4) (n : BitVec 1) (s : State) : Res :=
  onStream (.mchin r h n) (fun s cl _ _ =>
    let k := s.cluster cl
    let x := k.sreg r.toNat
    let slot := k.sreg (r.toNat + 1)
    let token := slot == BitVec.allOnes 64
    let g := k.gang.getD 0
    let c := s.chute g x.toNat
    if r.toNat % 2 = 1 then s.streamTrap cl 2
    else if 32 ≤ x.toNat || !fillOk k h.toNat slot.toNat token || !c.defined || c.side == 1 then s.streamTrap cl 0x13
    else if !c.mayRead s.clock then s.streamStall cl
    else
      let (e, t, c) := c.acquire false s.clock
      if token then
        let s := s.setChute g x.toNat (c.release false s.clock e (max t k.time))
        s.streamNext cl fun k => { k with time := max t k.time }
      else
        let s := s.setChute g x.toNat c
        s.stamped fun o s => s.streamNext cl fun k => { k with fills := k.fills ++ [{
          handle := h.toNat, slot := slot.toNat, tile := 0, entry := some (x.toNat, e), time := max t k.time, order := o }] }) s

/-- Bytes of a row of a slot: 32 elements of A, 128 of B (R299). -/
def Handle.rowBytes (h : Handle) : Nat := (if h.role = 1 then 128 else 32) * memBits h.code / 8

/-- Operand-buffer address of a byte of a quarter bank (R297). -/
def bankAt (q off : Nat) : Nat := 524288 * q + off

/-- Where a row of a slot stands: rows packed, 16 of A or 8 of B in each quarter bank; the scales follow them. -/
def Handle.rowAt (h : Handle) (slot row : Nat) : Nat :=
  let per := if h.role = 1 then 8 else 16
  bankAt (row / per) (h.off + slot * h.slotSize + row % per * h.rowBytes)

/-- Where the scale of a row of A, or of a column of B in a quarter bank, stands. -/
def Handle.scaleAt (h : Handle) (slot q i : Nat) : Nat :=
  bankAt q (h.off + slot * h.slotSize + (if h.role = 1 then 8 else 16) * h.rowBytes + i)

/-- Write bytes to the operand buffer with their poison marks (R420, R421). -/
def Cluster.putBuf (k : Cluster) (a : Nat) (b : List Byte) (poison : List Bool) : Cluster :=
  let marks := poison.zipIdx.filterMap fun x => if x.1 then some (a + x.2) else none
  { k with opbuf := memPuts k.opbuf a b, opPoison := (k.opPoison.filter fun x => x < a || a + b.length ≤ x) ++ marks }

/-- Read bytes with a poison mark for each, granule by granule. -/
def engReadMarked (a : Agent) (va : Nat) : (n fuel : Nat) → EngM (List Byte × List Bool)
  | _, 0 => pure ([], [])
  | n, fuel + 1 => do
    if n = 0 then pure ([], [])
    else
      let k := min n (16 - va % 16)
      let (pa, kind) ← engResolve a va false false
      let (b, p) ← engLoad pa kind k
      let (b', p') ← engReadMarked a (va + k) (n - k) fuel
      pure (b ++ b', List.replicate k p ++ p')

/-- The scale bytes of the columns of B, one at a time. -/
def readScales (a : Agent) (va : Int) (stride : Nat) : (n : Nat) → EngM (List Byte × List Bool)
  | 0 => pure ([], [])
  | n + 1 => do
    let (b, p) ← engReadMarked a (va % 2 ^ 64).toNat 1 1
    let (b', p') ← readScales a (va + stride) stride n
    pure (b ++ b', p ++ p')

/-- One row of a fill (R299). -/
def fillRow (a : Agent) (cl : Nat) (h : Handle) (slot row : Nat) (tile : Int) : EngM Unit := do
  let at_ := fun (x : Int) => (x % 2 ^ 64).toNat
  let n := h.rowBytes
  let (b, p) ← engReadMarked a (at_ (tile + row * h.stride)) n n
  engMod fun s => s.modCluster cl fun k => k.putBuf (h.rowAt slot row) b p
  if h.mx && h.role == 0 then do
    let (b, p) ← engReadMarked a (at_ (tile + h.mscale + row * h.sstride)) 1 1
    engMod fun s => s.modCluster cl fun k => k.putBuf (h.scaleAt slot (row / 16) (row % 16)) b p
  if h.mx && h.role == 1 && row == 0 then do
    let (b, p) ← readScales a (tile + h.mscale) h.sstride 128
    engMod fun s => s.modCluster cl fun k =>
      (List.range 4).foldl (fun (k : Cluster) (q : Nat) => k.putBuf (h.scaleAt slot q 0) b p) k

/-- The rows of a fill from its progress on, and why it stopped short (R299, R435). -/
def fillRows (a : Agent) (cl : Nat) (h : Handle) (slot : Nat) (tile : Int) : (todo : Nat) → Run → Nat × Option Stop × Run
  | 0, r => (0, none, r)
  | todo + 1, r =>
    let rows := if h.role = 1 then 32 else 64
    match fillRow a cl h slot (rows - (todo + 1)) tile r with
    | .ok (_, r) => fillRows a cl h slot tile todo r.next
    | .error e => (todo + 1, some e, r)

/-- The slot that a queued MMA reads of a handle: CUR moved on by the earlier MMAs of the queue that step it (R301). -/
def Cluster.slotsRead (k : Cluster) (h : Nat) : List (Nat × Nat) :=
  match mfind k.handles h with
  | none => []
  | some x =>
    let step := x.qctl / 8 % 2
    (k.queue.foldl (fun (acc : List (Nat × Nat) × Nat) (o : MatOp) =>
      if o.names.contains h && o.busy == 0 then
        (match o.instr with
          | .mma _ _ _ _ _ => (acc.1 ++ [(o.order, acc.2)], if x.tiles = 0 then 0 else (acc.2 + step) % x.tiles)
          | _ => acc)
      else acc) ([], x.cur)).1

/-- Whether a fill may start or go on: the earlier MMAs have read its slot, and earlier fills of it have ended (R299). -/
def Cluster.fillReady (k : Cluster) (f : Fill) : Bool :=
  !(k.slotsRead f.handle).any (fun (x : Nat × Nat) => x.2 == f.slot && decide (x.1 < f.order))
    && !k.fills.any fun g => g.handle == f.handle && g.slot == f.slot && decide (g.order < f.order)

/-- A fill of a slot runs: to its end, where the slot is ready and the entry released, or to the row it stops at (R299, R405, R435). -/
def execSlotFillDone (cluster : BitVec 7) (h : BitVec 4) (slot : BitVec 11) (s : State) : Res :=
  match s.unit with
  | .none =>
    let cl := cluster.toNat
    let k := s.cluster cl
    match k.fills.find? fun f => f.handle == h.toNat && f.slot == slot.toNat, mfind k.handles h.toNat with
    | some f, some x =>
      if s.streamPreempted cl || s.filling_ f.stopped || s.agentBlocked (.fill cl f.order) || !k.fillReady f then .next s
      else
        let a := s.streamAgent cl
        let g := k.gang.getD 0
        let tile : Int := match f.entry with
          | some (c, e) => (End_.entry ((s.chute g c).offset e)).va 0
          | none => f.tile
        let rows := if x.role = 1 then 32 else 64
        let (left, stop, r) := fillRows a cl x f.slot tile (rows - f.progress) (s.runOf a (.fill cl f.order) (max f.time k.time))
        let put := fun (s : State) (f' : Option Fill) (st : SlotState) => s.modCluster cl fun k => { k with
          fills := k.fills.filterMap fun y => if y.order = f.order then f' else some y
          handles := mset k.handles h.toNat { x with slots := mset x.slots f.slot st } }
        match stop with
        | none =>
          let s := put r.s none .ready
          .next ((match f.entry with
            | some (c, e) => s.setChute g c ((s.chute g c).release false s.clock e r.t)
            | none => s).gangOver cl)
        | some e =>
          let part := fun (s : State) (pte : Option Nat) =>
            put s (some { f with progress := rows - left, stopped := pte, time := r.t }) (.filling (rows - left))
          .next (match e with
            | .trap code _ _ _ _ => r.s.streamTrap cl code
            | .fill pte en level => part (r.s.beginFill pte en level) (some pte)
            | .miss line q _ _ => part (r.s.missAgent (.fill cl f.order) line q) none
            | _ => part r.s none)
    | _, _ => .next s
  | _ => .next s

/-! ## Queueing matrix instructions -/

/-- Put an instruction in the queue of eight, or stall (R302). -/
def State.enqueue (s : State) (cl : Nat) (o : MatOp) : State :=
  if 8 ≤ (s.cluster cl).queue.length then s.streamStall cl
  else s.stamped fun n s => s.streamNext cl fun k => { k with queue := k.queue ++ [{ o with order := n, time := k.time }] }

/-- MMA (R300). -/
def execMma (v : BitVec 1) (b a : BitVec 4) (c : BitVec 3) (n : BitVec 1) (s : State) : Res :=
  onStream (.mma v b a c n) (fun s cl _ w =>
    let k := s.cluster cl
    match mfind k.handles a.toNat, mfind k.handles b.toNat with
    | some x, some y =>
      match mmaPair x.format y.format with
      | none => s.streamTrap cl 0x13
      | some (t, _) =>
        if x.role ≠ 0 ∨ y.role ≠ 1 ∨ (t = .fp64 ∧ c.toNat % 2 = 1) then s.streamTrap cl 0x13
        else s.enqueue cl { instr := .mma v b a c n, word := w }
    | _, _ => s.streamTrap cl 0x13) s

/-- MZERO (R303). -/
def execMzero (c : BitVec 3) (n : BitVec 1) (s : State) : Res :=
  onStream (.mzero c n) (fun s cl _ w => s.enqueue cl { instr := .mzero c n, word := w }) s

/-- Whether a handle is a live OUT reservation (R303). -/
def Cluster.isOut (k : Cluster) (h : Nat) : Bool :=
  match mfind k.handles h with
  | some x => x.role == 2
  | none => false

/-- MOUT: the stream stalls until it holds a writer acquire of the chute (R303). -/
def execMout (r : BitVec 4) (c : BitVec 3) (n : BitVec 1) (s : State) : Res :=
  onStream (.mout r c n) (fun s cl _ w =>
    let k := s.cluster cl
    let x := k.sreg r.toNat
    let ch := natBits x.toNat 0 5
    let g := k.gang.getD 0
    let q := s.chute g ch
    if x &&& ~~~0xF1F#64 ≠ 0 ∨ !k.isOut (natBits x.toNat 8 4) ∨ !q.defined ∨ q.side = 0 then s.streamTrap cl 0x13
    else if 8 ≤ k.queue.length ∨ !q.mayWrite s.clock then s.streamStall cl
    else
      let (e, t, q) := q.acquire true s.clock
      let s := (s.setChute g ch q).modCluster cl fun k => { k with time := max k.time t }
      s.enqueue cl { instr := .mout r c n, word := w, s0 := x, entry := some e }) s

/-- MSTORE (R303). -/
def execMstore (r : BitVec 4) (c : BitVec 3) (n : BitVec 1) (s : State) : Res :=
  onStream (.mstore r c n) (fun s cl _ w =>
    let k := s.cluster cl
    let y := k.sreg (r.toNat + 1)
    if r.toNat % 2 = 1 then s.streamTrap cl 2
    else if 16 ≤ y.toNat ∨ !k.isOut y.toNat then s.streamTrap cl 0x13
    else s.enqueue cl { instr := .mstore r c n, word := w, s0 := k.sreg r.toNat, s1 := y }) s

/-! ## Accumulators -/

def Cluster.type (k : Cluster) (a : Nat) : AccType := mget .zero k.accType a

/-- Whether an accumulator is a member of a pair that holds FP64 (R301). -/
def Cluster.pair64 (k : Cluster) (a : Nat) : Bool := k.type (a / 2 * 2) == .fp64 && k.type (a / 2 * 2 + 1) == .fp64

/-- The words of an accumulator, row-major. -/
def Cluster.words (k : Cluster) (a : Nat) : List Word :=
  match mfind k.accs a with
  | some l => l
  | none => List.replicate 8192 0

/-- The elements of an accumulator, or of the pair that it names as FP64: low words in the even member, high words in the odd one. -/
def Cluster.elems (k : Cluster) (a : Nat) : List Nat :=
  if k.type a = .fp64 then (k.words a).zipWith (fun lo hi => lo.toNat + 2 ^ 32 * hi.toNat) (k.words (a + 1))
  else (k.words a).map (·.toNat)

/-- Clear an accumulator: every bit 0, type ZERO. -/
def Cluster.clearAcc (k : Cluster) (a : Nat) : Cluster :=
  { k with accs := mdel k.accs a, accType := mdel k.accType a, accPoison := mdel k.accPoison a }

/-- Replace an accumulator's elements and type (R301). -/
def Cluster.setAcc (k : Cluster) (a : Nat) (t : AccType) (l : List Nat) (poison : List Nat) : Cluster :=
  let was := k.pair64 a && t != .fp64
  let lo := l.map (BitVec.ofNat 32)
  let k := { k with accs := mset k.accs a lo, accType := mset k.accType a t, accPoison := mset k.accPoison a poison }
  if t = .fp64 then
    { k with
      accs := mset k.accs (a + 1) (l.map fun x => BitVec.ofNat 32 (x / 2 ^ 32))
      accType := mset k.accType (a + 1) t, accPoison := mset k.accPoison (a + 1) poison }
  else if was then k.clearAcc (a + 1)
  else k

/-- The value of an accumulator's element (R304). -/
def accVal (t : AccType) (x : Nat) : Val :=
  match t with
  | .zero => .zero false
  | .int32 => .ofInt (BitVec.ofNat 32 x).toInt
  | .fp32 => decodeFmt fmtFP32 x
  | .fp64 => decodeFmt fmtFP64 x

/-! ## MMA -/

/-- Whether some byte of an element is poisoned. -/
def Cluster.poisonedElem (k : Cluster) (at_ code i : Nat) : Bool :=
  if k.opPoison.isEmpty then false
  else
    let w := memBits code
    let lo := at_ + w * i / 8
    let hi := at_ + (w * i + w - 1) / 8
    k.opPoison.any fun x => lo ≤ x && x ≤ hi

/-- A stored row, decoded with compand inversion (R301): the values, their flags, and which are poisoned. -/
def Cluster.bufRow (k : Cluster) (table : Option (List Byte × Nat)) (h : Handle) (slot row : Nat) : List (Val × Bool) × Flags :=
  let at_ := h.rowAt slot row
  let b := memGets k.opbuf at_ h.rowBytes
  let vs := (List.range (if h.role = 1 then 128 else 32)).map fun i =>
    let (v, g) := operandVal h.format table (getElem b h.code i)
    (v, g, k.poisonedElem at_ h.code i)
  (vs.map fun x => (x.1, x.2.2), vs.foldl (fun g x => g ||| x.2.1) 0)

/-- A stored scale and whether it is poisoned; a plain operand counts as 127 (R301). -/
def Cluster.bufScale (k : Cluster) (h : Handle) (slot q i : Nat) : Nat × Bool :=
  if h.mx then ((memGet k.opbuf (h.scaleAt slot q i)).toNat, k.opPoison.contains (h.scaleAt slot q i)) else (127, false)

/-- The rows of A as lines. -/
def Cluster.linesA (k : Cluster) (table : Option (List Byte × Nat)) (h : Handle) (slot : Nat) : List OperandLine × Flags :=
  (List.range 64).foldl (fun (acc : List OperandLine × Flags) (r : Nat) =>
    let (vs, g) := k.bufRow table h slot r
    let (sc, p) := k.bufScale h slot (r / 16) (r % 16)
    (acc.1 ++ [{ vals := vs.map (·.1), scale := sc, poison := [p || vs.any (·.2)] }], acc.2 ||| g)) ([], 0)

/-- The columns of B as lines. -/
def Cluster.linesB (k : Cluster) (table : Option (List Byte × Nat)) (h : Handle) (slot : Nat) : List OperandLine × Flags :=
  let rows := (List.range 32).map fun r => k.bufRow table h slot r
  let g := rows.foldl (fun g x => g ||| x.2) 0
  let cols := (rows.map (·.1)).foldr (fun row (acc : List (List (Val × Bool))) => row.zipWith (fun x l => x :: l) acc)
    (List.replicate 128 [])
  (cols.zipIdx.map fun c =>
    let (sc, p) := k.bufScale h slot 0 c.2
    { vals := c.1.map (·.1), scale := sc, poison := [p || c.1.any (·.2)] }, g)

/-- The element of one row of A and one column of B: the encoding, the flags, and how many free values it takes (R163, R164). -/
def mmaElem (t : AccType) (w : Nat) (fresh : Bool) (old : Nat) (a b : OperandLine) (free : Nat) : Nat × Flags × Nat :=
  let ps := a.vals.zip b.vals
  match t with
  | .int32 =>
    match kGroupInt (if fresh then 0 else (BitVec.ofNat 32 old).toInt) ps with
    | some (z, g) => ((BitVec.ofInt 32 z).toNat, g, free)
    | none => ((Config.freeWord free).toNat % 2 ^ 32, 0, free + 1)
  | _ =>
    let f := if t = .fp64 then fmtFP64 else fmtFP32
    let c := if fresh then .zero true else decodeFmt f old
    let (x, g) := kGroup f w ((a.scale : Int) + b.scale - 254) (a.scale == 255 || b.scale == 255) c ps
    (x, g, free)

/-- An MMA on the slots at CUR (R301): none where the accumulator's type forbids it. -/
def State.mmaRun (s : State) (cl : Nat) (set_ : Bool) (a b c : Nat) : Option State :=
  let k := s.cluster cl
  match mfind k.handles a, mfind k.handles b with
  | some x, some y =>
    match mmaPair x.format y.format with
    | none => none
    | some (t, _) =>
      let may := fun (u : AccType) => u == .zero || u == t
      let typeOk := set_ || (may (k.type c) && (t != .fp64 || may (k.type (c + 1))))
      if (c % 2 = 1 && k.pair64 c) || !typeOk then none
      else
        let block := s.streamCompand cl
        let tx := (Quant.of x.format x.qctl block).table
        let ty := (Quant.of y.format y.qctl block).table
        let (rows, ga) := k.linesA tx x x.cur
        let (cols, gb) := k.linesB ty y y.cur
        let fresh := set_ || k.type c == .zero
        let w := kWindow x.format (tx.isSome || ty.isSome)
        let old := if fresh then [] else k.elems c
        let (out, g, free, _) := rows.foldl (fun (acc : List Nat × Flags × Nat × List Nat) row =>
          let (l, g, free, old) := acc
          let (l', g, free) := (cols.zip (old.take 128 ++ List.replicate (128 - (old.take 128).length) 0)).foldl
            (fun (acc : List Nat × Flags × Nat) z =>
              let (e, h, free) := mmaElem t w fresh z.2 row z.1 acc.2.2
              (e :: acc.1, acc.2.1 ||| h, free)) ([], g, free)
          (l'  ++ l, g, free, old.drop 128)) ([], ga ||| gb, s.free, old)
        let bad := fun (l : OperandLine) => l.poison.any id
        let poison := if rows.any bad || cols.any bad || (mget [] k.accPoison c) != [] then
            (List.range 8192).filter fun i =>
              (rows[i / 128]?).any bad || (cols[i % 128]?).any bad || (!fresh && (mget [] k.accPoison c).contains i)
          else []
        let stepOf := fun (h : Handle) => if h.qctl / 8 % 2 = 1 && h.tiles != 0 then { h with cur := (h.cur + 1) % h.tiles } else h
        let s := s.modCluster cl fun k =>
          let k := k.setAcc c t out.reverse poison
          { k with fpstat := k.fpstat ||| g.setWidth 32, handles := mset (mset k.handles a (stepOf x)) b (stepOf y) }
        some { s with free := free }
  | _, _ => none

/-! ## Draining -/

/-- The rows of a conversion in row-major order (R304): bytes of each row, scale bytes, flags, generator. -/
def drainRow (q : Quant) (raw : Bool) (t : AccType) (row : List Nat) (gen : DWord) : List Byte × List Byte × Flags × DWord :=
  if raw then (packElems (if t = .fp64 then 0 else 1) row, [], 0, gen)
  else
    let vals := row.map (accVal t)
    if q.mx then
      let (es, scs, g, gen) := (List.range 4).foldl (fun (acc : List Nat × List Byte × Flags × DWord) (b : Nat) =>
        let (sc, l, g, gen) := q.block true acc.2.2.2 ((vals.drop (32 * b)).take 32)
        (acc.1 ++ l, acc.2.1 ++ [BitVec.ofNat 8 sc], acc.2.2.1 ||| g, gen)) ([], [], 0, gen)
      (packElems q.code es, scs, g, gen)
    else
      let (es, g, gen) := q.elems gen vals
      (packElems q.code es, [], g, gen)

/-- Write bytes in ascending order; `p` says which byte ranges are poisoned. -/
def engWriteBy (a : Agent) (va : Nat) (p : Nat → Nat → Bool) (off : Nat) : (b : List Byte) → (fuel : Nat) → EngM Unit
  | _, 0 => pure ()
  | b, fuel + 1 => do
    if b.isEmpty then pure ()
    else
      let k := min b.length (16 - (va + off) % 16)
      let (pa, kind) ← engResolve a (va + off) true false
      engStore pa kind (b.take k) (p off (off + k)) false
      engWriteBy a va p (off + k) (b.drop k) fuel

/-- Whether bytes lo to hi of a drained row hold a poisoned element; a poisoned element of an MX block reaches its whole block. -/
def rowPoison (poison : List Nat) (row w : Nat) (mx : Bool) (lo hi : Nat) : Bool :=
  poison.any fun i =>
    let c := i % 128
    let (x, y) := if mx then (w * (c / 32 * 32) / 8, w * (c / 32 * 32 + 32) / 8) else (w * c / 8, (w * c + w + 7) / 8)
    i / 128 == row && decide (x < hi) && decide (lo < y)

/-- Write a row of the tile at a base (R304): the flags and the generator. -/
def writeRow (a : Agent) (h : Handle) (q : Quant) (raw : Bool) (t : AccType) (base : Int) (poison : List Nat) (row : Nat) (l : List Nat)
    (gen : DWord) : EngM (Flags × DWord) := do
  let (b, sc, g, gen) := drainRow q raw t l gen
  let at_ := fun (x : Int) => (x % 2 ^ 64).toNat
  let w := if raw then if t = .fp64 then 64 else 32 else memBits q.code
  engWriteBy a (at_ (base + row * h.stride)) (rowPoison poison row w (q.mx && !raw)) 0 b b.length
  engWriteBy a (at_ (base + h.mscale + row * h.sstride))
    (fun lo hi => poison.any fun i => i / 128 == row && lo ≤ i % 128 / 32 && i % 128 / 32 < hi) 0 sc sc.length
  pure (g, gen)

/-- How a drain's rows went on: the instruction with the rows it has written, and what stopped it. -/
structure DrainRows where
  op : MatOp
  run : Run
  stop : Option Stop := none

/-- The rows of a drain from its progress on (R304): each row's flags and generator are kept with it. -/
def drainRows (a : Agent) (cl : Nat) (h : Handle) (q : Quant) (t : AccType) (base : Int) (poison elems : List Nat) :
    (todo : Nat) → MatOp → Run → DrainRows
  | 0, o, r => { op := o, run := r }
  | todo + 1, o, r =>
    match writeRow a h q (h.f 9 1 == 1) t base poison o.rows ((elems.drop (128 * o.rows)).take 128) (r.s.cluster cl).gen r with
    | .error e => { op := o, run := r, stop := some e }
    | .ok ((g, gen), r) =>
      let r := { r with s := r.s.modCluster cl fun k => { k with fpstat := k.fpstat ||| g.setWidth 32, gen := gen } }
      drainRows a cl h q t base poison elems todo { o with rows := o.rows + 1, time := r.t } r.next

/-- MOUT or MSTORE at the head of the queue (R303, R304): the rows that are left, then the release or the completion write. -/
def State.drainRun (s : State) (cl : Nat) (o : MatOp) (c hn : Nat) (done : Bool) : DrainRows :=
  let k := s.cluster cl
  let a := s.streamAgent cl
  let r := s.runOf a (.matrix cl) (max o.time k.time)
  let refuse := fun (sub : Nat) => ({ op := o, run := r, stop := some (.trap 0x13 sub 0 0 false) } : DrainRows)
  match mfind k.handles hn with
  | none => refuse 12
  | some h =>
    if c % 2 = 1 && k.pair64 c then refuse 7
    else
      let g := k.gang.getD 0
      let ch := natBits o.s0.toNat 0 5
      let base : Int := match o.entry with
        | some e => (End_.entry ((s.chute g ch).offset e)).va 0
        | none => o.s0.toNat
      let q := Quant.of h.format h.qctl (s.streamCompand cl)
      let d := drainRows a cl h q (k.type c) base (mget [] k.accPoison c) (k.elems c) (64 - o.rows) o r
      match d.stop with
      | some _ => d
      | none =>
        let s := d.run.s
        match o.entry with
        | some e => { d with run := { d.run with s := s.setChute g ch ((s.chute g ch).release true s.clock e d.run.t) } }
        | none =>
          let va := h.f 24 8
          if va = 0 || !done then d
          else if s.doneWaits a va then { d with stop := some (.wait { kind := .presence }) }
          else { d with run := { d.run with s := s.agentDone a (s.streamLaunch cl) va (some 1) d.run.t } }

/-- Whether the head MMA has its slots: ready, and no earlier fill of them to come (R301, R302). -/
def Cluster.mmaReady (k : Cluster) (o : MatOp) (a b : Nat) : Bool :=
  [a, b].all fun h =>
    match mfind k.handles h with
    | none => true
    | some x =>
      x.state x.cur == .ready && !k.fills.any fun f => f.handle == h && f.slot == x.cur && decide (f.order < o.order)

/-- Take the head instruction off the queue; a gang whose stream has ended may then be over (R20). -/
def State.popQueue (s : State) (cl : Nat) : State := (s.modCluster cl fun k => { k with queue := k.queue.drop 1 }).gangOver cl

/-- The head of a cluster's matrix queue starts where it can (R302, R307): an MMA computes at its start and keeps the unit busy. -/
def State.matrixStart (s : State) (cl : Nat) : State :=
  let k := s.cluster cl
  match k.queue with
  | [] => s
  | o :: rest =>
    if o.busy ≠ 0 ∨ s.filling_ o.stopped ∨ s.agentBlocked (.matrix cl) then s
    else
      let ended := fun (d : DrainRows) =>
        let kept := fun (s : State) (pte : Option Nat) =>
          s.modCluster cl fun k => { k with queue := { d.op with stopped := pte } :: k.queue.drop 1 }
        let s := d.run.s
        match d.stop with
        | none => s.popQueue cl
        | some (.trap code _ _ _ _) => s.streamTrap cl code
        | some (.fill pte e level) => kept (s.beginFill pte e level) (some pte)
        | some (.miss line r _ _) => kept (s.missAgent (.matrix cl) line r) none
        | some _ => kept s none
      match o.instr with
      | .mma v b a c _ =>
        if !k.mmaReady o a.toNat b.toNat then s
        else if k.credit ≤ 0 then
          if o.held then s
          else s.modCluster cl fun k => { k with stalled := (k.stalled + 1) % 2 ^ 24, queue := { o with held := true } :: rest }
        else
          let cost := match mfind k.handles a.toNat, mfind k.handles b.toNat with
            | some x, some y => ((mmaPair x.format y.format).map (·.2)).getD 1
            | _, _ => 1
          match s.mmaRun cl (v == 1) a.toNat b.toNat c.toNat with
          | none => s.streamTrap cl 0x13
          | some s => s.modCluster cl fun k => { k with credit := k.credit - cost, queue := { o with busy := cost } :: rest }
      | .mzero c _ =>
        let p := c.toNat / 2 * 2
        (s.modCluster cl fun k => if k.pair64 c.toNat then (k.clearAcc p).clearAcc (p + 1) else k.clearAcc c.toNat).popQueue cl
      | .mout _ c _ => ended (s.drainRun cl o c.toNat (natBits o.s0.toNat 8 4) false)
      | .mstore _ c _ => ended (s.drainRun cl o c.toNat (natBits o.s1.toNat 0 4) true)
      | _ => s.popQueue cl

/-- The matrix queue of a cluster starts its head (R302). -/
def execMatrixQueueStart (cluster : BitVec 7) (s : State) : Res :=
  match s.unit with
  | .none => .next (s.matrixStart cluster.toNat)
  | _ => .next s

/-- An arith cycle of a running MMA passes. -/
def State.matrixTick (s : State) (cl : Nat) : State :=
  match (s.cluster cl).queue with
  | o :: rest =>
    if o.busy = 0 then s
    else if o.busy = 1 then s.popQueue cl
    else s.modCluster cl fun k => { k with queue := { o with busy := o.busy - 1 } :: rest }
  | [] => s

/-! ## The issue governor -/

/-- The budget that acts, under a thermal cap (R305, R379, R449). -/
def actingBudget (budget : Nat) (throt cap8 : Bool) : Nat :=
  let b := if budget = 0 ∨ 64 < budget then 64 else budget
  if cap8 then min b 8 else if throt then min b 32 else b

/-- Whether a die's thermal cap is in force (R378). -/
def State.throt (s : State) (die : Nat) : Bool := (mget (BitVec.ofNat 32 (105 * 65536)) s.therm die).getLsbD 8

/-- A window of the governors of a die's clusters begins (R307). -/
def execMgovWindow (die : BitVec 1) (s : State) : Res :=
  match s.unit with
  | .none =>
    let d := die.toNat
    .next ((List.range 40).foldl (fun (s : State) (i : Nat) =>
      let cl := 40 * d + i
      let k := s.cluster cl
      let c : Int := actingBudget k.budget (s.throt d) (mget false s.cap8 d) + min k.credit 0
      if c = k.credit then s else s.modCluster cl fun k => { k with credit := c }) s)
  | _ => .next s

/-- Any write to a cluster's MGOVSTAT clears STALLED (R306, R370). -/
def execMgovstatClear (cluster : BitVec 7) (_val : BitVec 32) (s : State) : Res :=
  match s.unit with
  | .none =>
    .next (s.modCluster cluster.toNat fun k => { k with stalled := 0 })
  | _ => .next s

end Sys2Proof.Machine
end

