-- ==== Sys2Proof/Machine/Bench.lean ====
section
/-! DEFINITION. Benches (R308 to R336): the six instructions, a launch's commands, rounds and program words, the drain path, slab ownership,
and a stack's timing. -/

namespace Sys2Proof.Machine

/-! ## Launches -/

def BenchLaunch.b (b : BenchLaunch) (off n : Nat) : Nat := field b.block off n
/-- DMODE (R321). -/
def BenchLaunch.dmode (b : BenchLaunch) : Nat := b.b 50 1
def BenchLaunch.target (b : BenchLaunch) : Nat := b.b 40 8
/-- K and M of the tensor (R94). -/
def BenchLaunch.k (b : BenchLaunch) : Nat := field b.shape 0 4
def BenchLaunch.m (b : BenchLaunch) : Nat := field b.shape 4 4
def BenchLaunch.mx (b : BenchLaunch) : Bool := field b.shape 29 1 == 2
/-- C, rows per bench and P of R97. -/
def BenchLaunch.c (b : BenchLaunch) : Nat := seamC b.mx b.k
def BenchLaunch.rows (b : BenchLaunch) : Nat := seamRows b.mx b.k
def BenchLaunch.p (b : BenchLaunch) : Nat := seamP b.mx b.k

/-- The stacks of a broadcast set (R328). -/
def setStacks (set_ id : Nat) : List Nat :=
  if set_ = 0 then [id] else if set_ = 1 then (List.range 6).map (6 * id + ·) else List.range 12

def BenchLaunch.hbmStacks (b : BenchLaunch) : List Nat := setStacks (b.b 48 1) (b.b 49 1)

/-- Stack, DRAM die within it, and die of the package, of a slab (R16, R77). -/
def slabStack (slab : Nat) : Nat := slab / 2 ^ 18
def slabDram (slab : Nat) : Nat := slab / 2 ^ 14 % 16

/-- Key of a bench: 64 benches in a DRAM die, 16 dies in a stack (R16). -/
def benchKey (stack dram t : Nat) : Nat := 1024 * stack + 64 * dram + t

/-! ## The instructions (R318 to R320) -/

/-- A parameter block, read as a load of the lane (R320, R321); of an address that is not aligned the address fault comes first (R401). -/
def paramBlock (c : Ctx) (va : DWord) : LaneM (List Byte) :=
  if va.toNat / 2 ^ 56 ≠ 0 then trap 5 0 0 va
  else if va.toNat % 64 ≠ 0 then trap 6 0 0 va
  else loadRecord c va 8

/-- BKLOAD: takes an entry of the bench launch table, or waits for one (R318 to R320). -/
def execBkload (l : BitVec 4) (a d : BitVec 6) (n : BitVec 1) (p : BitVec 4) (s : State) : Res :=
  onThreads (shapeOf (.bkload l a d n p))
    (quietly fun c => do
      let va ← srcD c a.toNat
      let pl ← dst c d.toNat 1
      if c.helper then put c pl 0
      else do
        let b ← paramBlock c va
        let s ← get
        match (List.range 32).find? fun e => !(s.benchLaunch e).live with
        | none => stop (.wait { kind := .bench, addr := va, key := 32 })
        | some e => do
          let t ← me c
          let v ← myView c
          let gen := ((s.benchLaunch e).gen + 1) % 64
          modState fun s => { s.modBenchLaunch e fun _ => {
              gen := gen, live := true, agent := s.agentOf v (s.group c.group).gang, launch := (s.group c.group).launch, accepted := s.stamp
              queue := [{ op := 0, block := b, time := t.time }], time := t.time } with stamp := s.stamp + 1 }
          put c pl (BitVec.ofNat 32 (e + 256 * gen))) s

/-- One of the other five: the handle is checked, and the command queued (R319, R320); a wait for a place in the queue shows the handle (R413). -/
def benchCommand (i : Instr) (op : Nat) (a d : BitVec 6) (s : State) : Res :=
  onThreads (shapeOf i)
    (quietly fun c => do
      let va ← srcD c a.toNat
      let h ← src c d.toNat
      if c.helper then pure ()
      else do
        let blk ← paramBlock c va
        let s ← get
        let v ← myView c
        let e := natBits h.toNat 0 5
        let b := s.benchLaunch e
        if h.toNat ≠ e + 256 * b.gen ∨ !b.live ∨ b.ctx ≠ v.ctx ∨ b.ownc then trap 0x14 6 0 va
        if 16 ≤ b.queue.length then stop (.wait { kind := .bench, addr := BitVec.ofNat 64 h.toNat, key := e })
        let t ← me c
        modState fun s => s.modBenchLaunch e fun b => { b with
          queue := b.queue ++ [{ op := op, block := blk, time := t.time }], ownc := b.ownc || op == 5 }) s

/-- BKVEC (R320). -/
def execBkvec (l : BitVec 4) (a d : BitVec 6) (n : BitVec 1) (p : BitVec 4) (s : State) : Res :=
  benchCommand (.bkvec l a d n p) 1 a d s

/-- BKRUN (R320). -/
def execBkrun (l : BitVec 4) (a d : BitVec 6) (n : BitVec 1) (p : BitVec 4) (s : State) : Res :=
  benchCommand (.bkrun l a d n p) 2 a d s

/-- BKDRAIN (R320). -/
def execBkdrain (l : BitVec 4) (a d : BitVec 6) (n : BitVec 1) (p : BitVec 4) (s : State) : Res :=
  benchCommand (.bkdrain l a d n p) 3 a d s

/-- OWNB (R320). -/
def execOwnb (l : BitVec 4) (a d : BitVec 6) (n : BitVec 1) (p : BitVec 4) (s : State) : Res :=
  benchCommand (.ownb l a d n p) 4 a d s

/-- OWNC (R320). -/
def execOwnc (l : BitVec 4) (a d : BitVec 6) (n : BitVec 1) (p : BitVec 4) (s : State) : Res :=
  benchCommand (.ownc l a d n p) 5 a d s

/-! ## Program words (R310 to R315) -/

/-- Whether a program word is well formed for a layout (R311). -/
def wordOk (mx : Bool) (w : Nat) : Bool :=
  let f := natBits w
  let fetch := match f 29 3 with
    | 0 => f 24 5 == 0
    | 1 => f 26 3 == 0
    | 2 => f 28 1 == 0
    | _ => false
  let arith := match f 20 4 with
    | 0 => f 8 12 == 0
    | 1 => f 8 4 == 0 && (if mx then f 13 3 == 0 || f 13 3 == 4 else f 12 1 == 0)
    | 2 => f 8 10 == 0
    | _ => false
  let back := match f 5 3 with
    | 0 | 2 => f 0 5 == 0
    | 1 | 3 => f 0 3 == 0
    | _ => false
  fetch && arith && back

/-- seek(n) (R313). -/
def Bench.seek (x : Bench) (n : Nat) : Bench :=
  { x with
    nb := n % 4
    cc := (List.range 4).map fun b => (b, min ((n + (b + 4 - n % 4) % 4) / 4) 63) }

/-- A bench at work: its launch, the stack's activations, its slab and slab-list index, its number in its DRAM die, and J0. -/
structure Site where
  launch : BenchLaunch
  entry : Nat
  e : Map (BitVec 256)
  ePoison : List Nat := []
  index : Nat
  slab : Nat
  t : Nat
  j0 : Nat

/-- A column as a fetch reads it: its bytes, and whether they are poisoned (R421). -/
abbrev Column := BitVec 256 × Bool

/-- The address of a column of one of the bench's banks in the open row; there is none beyond its 32 columns (R313). -/
def Site.columnAt (x : Site) (bank col : Nat) : Option Nat :=
  if 32 ≤ col then none else some (x.slab * 2 ^ 18 + slabOffset x.t bank col)

/-- The column that a word's fetch reads; a data column past the slot's is none (R313). -/
def Bench.fetchAt (site : Site) (w : Nat) (x : Bench) : Option Nat :=
  match natBits w 29 3 with
  | 1 => if seamS site.launch.mx ≤ mget 0 x.cc x.nb then none else site.columnAt x.nb (mget 0 x.cc x.nb)
  | 2 => site.columnAt (natBits w 26 2) (seamS site.launch.mx + natBits w 25 1)
  | _ => none

/-- FD and FS (R313), with the column read, which is all zero where there is none. -/
def Bench.fetch (site : Site) (w : Nat) (d : Column) (x : Bench) : Bench :=
  match natBits w 29 3 with
  | 1 =>
    let b := x.nb
    let c := mget 0 x.cc b
    { x with
      g := mset x.g (natBits w 24 2) { data := d.1, bank := b, col := c, poison := d.2 }
      cc := mset x.cc b (min (c + 1) 63), nb := (b + 1) % 4 }
  | 2 =>
    let b := natBits w 26 2
    let c := seamS site.launch.mx + natBits w 25 1
    { x with z := mset x.z (natBits w 24 1) { data := d.1, bank := b, col := c, poison := d.2 } }
  | _ => x

/-- A bench column read is a load of the launch agent (R105, R118): the column, the timestamp, and the state. -/
def State.columnRead (s : State) (pa : Option Nat) (t : Nat) : Column × Nat × State :=
  match pa with
  | none => ((0, false), t, s)
  | some pa =>
    let (r, s) := s.loadHome pa (.load (pa % 128) 32) t
    ((BitVec.ofNat 256 r.val, r.poison), r.ts, s)

/-- One lane of a MAC (R314). -/
def macLane (mx : Bool) (g z : ColReg) (e : Map (BitVec 256)) (a i : Nat) (acc : Word) : Word × Flags :=
  let act := fun (j : Nat) => decodeFmt fmtBF16 (natBits (mget 0 e (a + j / 16)).toNat (16 * (j % 16)) 16)
  let c := decodeFmt fmtFP32 acc.toNat
  let (bits, fl) :=
    if mx then
      let h := 2 * g.col + 4 * i / 32
      let sc := natBits z.data.toNat (8 * (h % 32)) 8
      let ps := (List.range 4).map fun j =>
        (decodeFmt (elementFmt true 9) (natBits g.data.toNat (4 * (4 * i + j)) 4), act (4 * i + j))
      kGroup fmtFP32 560 ((sc : Int) - 127) (sc == 255) c ps
    else kGroup fmtFP32 560 0 false c [(decodeFmt fmtBF16 (natBits g.data.toNat (16 * i) 16), act i)]
  (BitVec.ofNat 32 bits, fl)

/-- YZERO and MAC (R314); a poisoned column or scale column poisons the lanes, and a poisoned activation register those it feeds (R421). -/
def Bench.arith (site : Site) (w : Nat) (x : Bench) : Bench :=
  let yd := natBits w 18 2
  match natBits w 20 4 with
  | 1 =>
    let y := mget {} x.y yd
    let g := mget {} x.g (natBits w 16 2)
    let z := mget {} x.z (natBits w 12 1)
    let out := (List.range 16).map fun i => macLane site.launch.mx g z site.e (natBits w 13 3) i (mget 0 y.lanes i)
    let flags := out.foldl (fun f o => f ||| o.2) y.flags
    let poison := if g.poison || (site.launch.mx && z.poison) then List.range 16
      else y.poison ++ (List.range 16).filter fun i =>
        !y.poison.contains i && site.ePoison.contains (natBits w 13 3 + if site.launch.mx then i / 4 else 0)
    { x with y := mset x.y yd { lanes := out.zipIdx.map (fun o => (o.2, o.1.1)), flags := flags, poison := poison } }
  | 2 => { x with y := mset x.y yd {} }
  | _ => x

/-- The row index of an entry (R315). -/
def Site.row (site : Site) (slot : Nat) : Nat := site.index * site.launch.p + slot * 64 + site.t

/-- Whether a push sends an entry, or drops it (R315). -/
def Site.keeps (site : Site) (slot : Nat) : Bool := decide (slot < site.launch.rows) && decide (site.row slot < site.launch.m)

/-- PUSH, NEXT and PUSHN (R315): the bench, and whether an entry was placed in its drain buffer. -/
def Bench.back (site : Site) (w : Nat) (x : Bench) : Bench × Bool :=
  let op := natBits w 5 3
  let yd := natBits w 3 2
  let y := mget {} x.y yd
  let pushes := op == 1 || op == 3
  let keep := pushes && site.keeps x.slot
  let x := if keep then
      { x with drain := x.drain ++ [{
        lanes := (List.range 16).map fun i => mget 0 y.lanes i, flags := y.flags, row := site.row x.slot, launch := site.entry, poison := y.poison }] }
    else x
  let x := if pushes then { x with y := mset x.y yd {} } else x
  if op = 2 ∨ op = 3 then
    let slot := min (x.slot + 1) 255
    ({ x with slot := slot }.seek (slot * site.launch.c + site.j0), keep)
  else (x, keep)

/-- One program word in one bench up to its fetch: arithmetic, then write-back (R312). -/
def Bench.work (site : Site) (w : Nat) (x : Bench) : Bench × Bool := (x.arith site w).back site w

/-! ## Rounds -/

/-- A field of the run in progress: START, LEN, ITER, SLOT0, J0, EFIRST, ECOUNT. -/
def Stack.arg (k : Stack) (i : Nat) : Nat := (k.run.getD []).getD i 0

/-- The entries of the run in one DRAM die of a stack, in list order (R324): slab-list index and slab. -/
def BenchLaunch.entriesIn (b : BenchLaunch) (first count stack dram : Nat) : List (Nat × Nat) :=
  (((b.slabs.zipIdx.map fun x => (x.2, x.1)).drop first).take count).filter fun x => slabStack x.2 == stack && slabDram x.2 == dram

/-- Rounds a stack runs (R324). -/
def BenchLaunch.rounds (b : BenchLaunch) (k : Stack) (stack : Nat) : Nat :=
  (List.range 16).foldl (fun n d => max n (b.entriesIn (k.arg 5) (k.arg 6) stack d).length) 0

/-- The benches that act in a stack's round (R324). -/
def State.sites (s : State) (stack : Nat) : List (Nat × Site) :=
  let k := s.stack stack
  match k.launch with
  | none => []
  | some e =>
    let b := s.benchLaunch e
    (List.range 16).flatMap fun d =>
      match (b.entriesIn (k.arg 5) (k.arg 6) stack d)[k.round]? with
      | none => []
      | some (i, slab) => (List.range 64).map fun t =>
        (benchKey stack d t, { launch := b, entry := e, e := k.e, ePoison := k.ePoison, index := i, slab := slab, t := t, j0 := k.arg 4 })

/-- A round begins: the rows open, and each active bench starts at SLOT0 (R324, R329); a run with no round left has finished. -/
def State.openRound (s : State) (stack : Nat) : State :=
  let k := s.stack stack
  match k.launch, k.run with
  | some e, some _ =>
    let b := s.benchLaunch e
    if k.opened || k.finished || b.stalled then s
    else if b.rounds k stack ≤ k.round then s.modStack stack fun k => { k with finished := true }
    else
      let slot := k.arg 3
      let s := (s.sites stack).foldl (fun (s : State) (x : Nat × Site) =>
        s.modBench x.1 fun y => { y with slot := slot }.seek (slot * b.c + k.arg 4)) s
      s.modStack stack fun k => { k with opened := true, closing := false, wait := 12, word := 0, lastBank := none }
  | _, _ => s

/-- A stack opens its next round (R324). -/
def execBenchRound (stack : BitVec 4) (s : State) : Res :=
  match s.unit with
  | .none => .next (s.openRound stack.toNat)
  | _ => .next s

/-- One word in one bench: arithmetic, write-back, fetch (R312). -/
def State.stepBench (s : State) (w key : Nat) (site : Site) : State :=
  let (y, sent) := (s.bench key).work site w
  let (d, ts, s) := s.columnRead (y.fetchAt site w) (s.benchLaunch site.entry).time
  { s with benches := mset s.benches key (y.fetch site w d) }.modBenchLaunch site.entry fun b =>
    { b with time := max b.time ts, outstanding := if sent then b.outstanding + 1 else b.outstanding }

/-- One word in every active bench of a stack (R324, R330). -/
def State.stepWord (s : State) (stack w : Nat) : State :=
  (s.sites stack).foldl (fun (s : State) (x : Nat × Site) => s.stepBench w x.1 x.2) s

/-- Whether a word's push finds the drain buffer of an active bench full (R333). -/
def State.drainFull (s : State) (stack w : Nat) : Bool :=
  let op := natBits w 5 3
  (op == 1 || op == 3) && (s.sites stack).any fun x => decide (8 ≤ (s.bench x.1).drain.length) && x.2.keeps (s.bench x.1).slot

/-- The bank that a word fetches from in an active bench: for FD the NB that the word's write-back leaves (R312), for FS the named one (R317). -/
def State.fetchBank (s : State) (stack w : Nat) : Option Nat :=
  match natBits w 29 3 with
  | 1 => (s.sites stack).head?.map fun x => ((s.bench x.1).back x.2 w).1.nb
  | 2 => some (natBits w 26 2)
  | _ => none

/-- The word a stack steps next. -/
def Stack.next (k : Stack) : Nat := (mget 0 k.store (k.arg 0 + k.word % max 1 (k.arg 1))).toNat

/-- Whether the stack's next column cycle steps a word: nothing to wait for, no bank conflict, no full buffer, and credit (R324, R380). -/
def State.stepsNow (s : State) (stack : Nat) : Bool :=
  let k := s.stack stack
  match k.launch with
  | none => false
  | some e =>
    k.opened && k.wait == 0 && !k.closing && !(s.benchLaunch e).stalled && decide (k.word < k.arg 1 * k.arg 2) && decide (0 < k.credit)
      && !s.drainFull stack k.next && (k.lastBank.isNone || k.lastBank != s.fetchBank stack k.next)

/-- After a word: the position, the bank read, and the credit spent (R317, R380). -/
def State.wordDone (s : State) (stack : Nat) (bank : Option Nat) : State :=
  s.modStack stack fun k => { k with word := k.word + 1, lastBank := bank, credit := k.credit - 1 }

/-- A column cycle of a stack in which no word is stepped: waits run down, rows close and rounds end (R324, R329). -/
def State.columnIdle (s : State) (stack : Nat) : State :=
  let k := s.stack stack
  match k.launch with
  | none => s
  | some e =>
    if !k.opened || (s.benchLaunch e).stalled then s
    else if 1 < k.wait then s.modStack stack fun k => { k with wait := k.wait - 1 }
    else if k.closing then
      s.modStack stack fun k => { k with wait := 0, closing := false, opened := false, round := k.round + 1 }
    else if k.wait = 1 then s.modStack stack fun k => { k with wait := 0 }
    else if k.arg 1 * k.arg 2 ≤ k.word then s.modStack stack fun k => { k with closing := true, wait := 7 }
    else if k.lastBank.isSome && k.lastBank == s.fetchBank stack k.next then s.modStack stack fun k => { k with lastBank := none }
    else s

/-- A column command steps one word in every bench of the round (R324), or the stack waits. -/
def execColumnCommand (stack : BitVec 4) (s : State) : Res :=
  match s.unit with
  | .none =>
    let k := stack.toNat
    if s.stepsNow k then
      let w := (s.stack k).next
      let bank := s.fetchBank k w
      .next ((s.stepWord k w).wordDone k bank)
    else .next (s.columnIdle k)
  | _ => .next s

/-- A bench program word as the command path steps it (R312). -/
def benchWord (w : Nat) (s : State) : Res :=
  match s.unit with
  | .column k => .next (s.stepWord k w)
  | .lanes i => .next (runLanes { guard := ⟨15, 0⟩, bad := some 1 } (quietly fun _ => pure ()) s i)
  | .stream cl _ _ => .next (s.streamTrap cl 1)
  | .none => .next s

/-- The word of slots given as bytes and fields: fetch [31:24], arithmetic [23:8], write-back [7:0] (R311). -/
def slotWord (fetch arith back : Nat) : Nat := fetch % 256 * 2 ^ 24 + arith % 2 ^ 16 * 2 ^ 8 + back % 256

/-- FD gk, with the word's other slots (R313). -/
def execFd (g : BitVec 2) (a : BitVec 16) (w : BitVec 8) (s : State) : Res := benchWord (slotWord (0x20 + g.toNat) a.toNat w.toNat) s

/-- FS zk, b, Q, with the word's other slots (R313). -/
def execFs (b : BitVec 2) (q z : BitVec 1) (a : BitVec 16) (w : BitVec 8) (s : State) : Res :=
  benchWord (slotWord (0x40 + 4 * b.toNat + 2 * q.toNat + z.toNat) a.toNat w.toNat) s

/-- MAC, with the word's other slots (R314). -/
def execMac (f : BitVec 8) (y g : BitVec 2) (e : BitVec 3) (z : BitVec 1) (w : BitVec 8) (s : State) : Res :=
  benchWord (slotWord f.toNat (0x1000 + 2 ^ 10 * y.toNat + 2 ^ 8 * g.toNat + 2 ^ 5 * e.toNat + 2 ^ 4 * z.toNat) w.toNat) s

/-- YZERO, with the word's other slots (R314). -/
def execYzero (f : BitVec 8) (y : BitVec 2) (w : BitVec 8) (s : State) : Res :=
  benchWord (slotWord f.toNat (0x2000 + 2 ^ 10 * y.toNat) w.toNat) s

/-- PUSH, with the word's other slots (R315). -/
def execPush (f : BitVec 8) (a : BitVec 16) (y : BitVec 2) (s : State) : Res := benchWord (slotWord f.toNat a.toNat (0x20 + 8 * y.toNat)) s

/-- NEXT, with the word's other slots (R315). -/
def execNext (f : BitVec 8) (a : BitVec 16) (s : State) : Res := benchWord (slotWord f.toNat a.toNat 0x40) s

/-- PUSHN, with the word's other slots (R315). -/
def execPushn (f : BitVec 8) (a : BitVec 16) (y : BitVec 2) (s : State) : Res := benchWord (slotWord f.toNat a.toNat (0x60 + 8 * y.toNat)) s

/-! ## Refresh and governor -/

/-- A stack's refresh falls: within a round its rows close, are refreshed and reopen (R331). -/
def execBenchRefresh (stack : BitVec 4) (s : State) : Res :=
  match s.unit with
  | .none =>
    let k := s.stack stack.toNat
    .next (if k.opened then s.modStack stack.toNat fun k => { k with wait := k.wait + 180 } else s)
  | _ => .next s

/-- A window of a stack's bench governor begins (R380). -/
def execBenchGovernorWindow (stack : BitVec 4) (s : State) : Res :=
  match s.unit with
  | .none =>
    let n := stack.toNat
    let k := s.stack n
    let d := n / 6
    let c : Int := actingBudget k.budget (s.throt d) (mget false s.cap8 d) + min k.credit 0
    .next (if c = k.credit then s else s.modStack n fun k => { k with credit := c })
  | _ => .next s

/-! ## The drain path -/

/-- The die whose crusher takes a launch's entries (R334). -/
def State.crusherDie (s : State) (b : BenchLaunch) : Nat :=
  if b.dmode = 0 then (s.window (b.b 64 4 % 256)).die else b.die

/-- One column cycle of a stack's drain path: up to 16 entries, one from each bench, round robin (R333). -/
def State.drainCycle (s : State) (stack : Nat) : State :=
  let has := mkeys s.benches fun k x => k / 1024 == stack && !x.drain.isEmpty
  if has.isEmpty then s
  else
    let last := (s.stack stack).served
    let order := (has.filter fun k => last < k % 1024) ++ has.filter fun k => k % 1024 ≤ last
    let take := order.take 16
    let s := take.foldl (fun (s : State) (k : Nat) =>
      match (s.bench k).drain with
      | [] => s
      | e :: r =>
        let die := s.crusherDie (s.benchLaunch e.launch)
        { s.modBench k fun x => { x with drain := r } with drains := mset s.drains die (mget [] s.drains die ++ [e]) }) s
    s.modStack stack fun x => { x with served := (take.getLastD 0) % 1024 }

/-- A column cycle of a stack's drain path (R333). -/
def execDrainPathCycle (stack : BitVec 4) (s : State) : Res :=
  match s.unit with
  | .none => .next (s.drainCycle stack.toNat)
  | _ => .next s

/-- The lanes of an entry join a window's target, as operations of the launch agent (R118, R334 DMODE 0): the target must be an FP32 target of
the open window. -/
def State.drainWindow (s : State) (b : BenchLaunch) (e : DrainEntry) : State :=
  let id := b.b 64 4
  let win := id % 256
  let w := s.window win
  let va := b.target + 4 * e.row
  if !w.open_ ∨ id ≠ win + 256 * w.gen ∨ w.ctx ≠ b.ctx ∨ w.f64 ∨ va < w.target ∨ w.target + w.length ≤ va ∨ (va - w.target) % 4 ≠ 0 then
    s.terminate b.launch 0x110
  else
    let t := (va - w.target) / 4
    e.lanes.foldl (fun (s : State) (x : Word) =>
      let (ts, s) := s.contribute win t x.toNat b.ctx (s.benchLaunch e.launch).time (!e.poison.isEmpty)
      s.modBenchLaunch e.launch fun b => if b.live then { b with time := max b.time ts } else b) s

/-- The lanes of an entry join the epoch's accumulator of its target (R334 DMODE 1). -/
def State.drainDirect (s : State) (e : DrainEntry) : State :=
  let key := e.launch * 2 ^ 24 + e.row
  let a := e.lanes.foldl (fun (a : ExactAcc) (x : Word) => a.add false (decodeFmt fmtFP32 x.toNat)) (mget {} s.epoch key)
  { s with epoch := mset s.epoch key { a with poison := a.poison || !e.poison.isEmpty } }

/-- The oldest entry on its way reaches a die's crusher (R334). -/
def execDrainEntryArrival (die : BitVec 1) (s : State) : Res :=
  match s.unit with
  | .none =>
    match mget [] s.drains die.toNat with
    | [] => .next s
    | e :: r =>
      let s := { s with drains := mset s.drains die.toNat r }
      let b := s.benchLaunch e.launch
      if !b.live then .next s
      else
        let s := s.modBenchLaunch e.launch fun b => { b with outstanding := b.outstanding - 1 }
        let s := s.orFlags b.ctx e.flags b.time
        .next (if b.dmode = 0 then s.drainWindow b e else s.drainDirect e)
  | _ => .next s

/-- The crusher writes a target of an epoch (R334): the result, its full bit and its flags; the target has no accumulator then. -/
def writeTarget (b : BenchLaunch) (key : Nat) (acc : ExactAcc) : EngM Unit := do
  let (bits, g) := acc.result false
  let (pa, k) ← engResolve b.agent (b.target + 4 * (key % 2 ^ 24)) true false
  engStore pa k (leBytes bits 4) acc.poison true
  let t ← engTime
  engMod fun s => { s.orFlags b.ctx g t with epoch := mdel s.epoch key }

/-! ## Slab ownership -/

/-- Whether a line lies in a slab. -/
def inSlab (slab line : Nat) : Bool := region (128 * line) == .hbm && slabOf (128 * line) == slab

/-- Whether every slice and host agent has dropped its copies of a slab's lines, and no request on them is under way (R326). -/
def State.slabQuiet (s : State) (slab : Nat) : Bool :=
  !(s.copies.any fun e => inSlab slab (e.1 % 2 ^ 45)) && !(s.msgs.any fun m => inSlab slab m.line)
    && !(s.trans.any fun e => inSlab slab e.1) && !(s.deferred.any fun e => inSlab slab e.1 && !e.2.isEmpty)
    && !(s.pendingReq.any fun x => inSlab slab x.2.1)

/-- The copies of some lines that no directory tracks, private, read-only and leased ones, are dropped (R142, R143, R326). -/
def State.dropUntracked (s : State) (p : Nat → Bool) : State :=
  (s.copies.filter fun e => p (e.1 % 2 ^ 45) && (e.2.owner.isSome || !(e.2.write || e.2.tracked))).foldl
    (fun (s : State) (e : Nat × Copy) => s.evictOwn (e.1 / 2 ^ 45) (e.1 % 2 ^ 45)) s

/-- A slab is BANK once every copy of its lines has been dropped (R326). -/
def execSlabToBank (slab : BitVec 22) (s : State) : Res :=
  match s.unit with
  | .none => .next (if s.slab slab.toNat = 1 && s.slabQuiet slab.toNat then { s with slabs := mset s.slabs slab.toNat 2 } else s)
  | _ => .next s

/-- A slab is CORE once its rows are closed and the launch table has released it: OWNC's place on the slab (R118, R326). -/
def execSlabToCore (slab : BitVec 22) (s : State) : Res :=
  match s.unit with
  | .none =>
    let n := slab.toNat
    if s.slab n = 3 then
      let e := ((mkeys s.benchLaunches fun _ b => b.live && b.slabs.contains n).headD 32)
      let (ts, s) := s.slabEnter n (s.benchLaunch e).time
      let s := { s with slabs := mdel s.slabs n }
      .next (if e < 32 then s.modBenchLaunch e fun b => { b with time := max b.time ts } else s)
    else .next s
  | _ => .next s

/-- OWNB reaches a slab: its place on it, a read-modify-write of all its lines (R118, R326). -/
def slabPlace (slab : Nat) : EngM Unit := fun r =>
  let (ts, s) := r.s.slabEnter slab r.t
  .ok ((), { r with s := { s with slabs := mset s.slabs slab 1 }.dropUntracked (inSlab slab), t := ts })

/-- Translate one entry of a slab list (R327): the slab, where its four pages are MTYPE 0 with U, RD and W, map it in order and lie in the
set. -/
def translateSlab (v : View) (hbmStacks : List Nat) (va : Nat) : EngM Nat := fun r =>
  let bad : Except Stop (Nat × Run) := .error (.trap 0x14 4 0 (BitVec.ofNat 64 va) false)
  if va % 2 ^ 18 ≠ 0 ∨ 2 ^ 56 ≤ va ∨ stagingVA ≤ va then bad
  else
    let pages := (List.range 4).map fun i => r.s.walk v.ctx (va + 65536 * i)
    match pages.find? fun w => match w with | .fill _ _ _ => true | _ => false with
    | some (.fill pte e level) => .error (.fill pte e level)
    | _ =>
      match pages with
      | .leaf l :: _ =>
        let ok := pages.zipIdx.all fun x =>
          match x.1 with
          | .leaf m => m.mtype == 0 && m.bit 4 && m.bit 5 && m.bit 6 && m.pa == l.pa + 65536 * x.2
          | _ => false
        let used := pages.foldl (fun (s : State) w => match w with | .leaf l => s.markUsed l false | _ => s) r.s
        if ok && region l.pa == .hbm && l.pa % 2 ^ 18 == 0 && hbmStacks.contains (slabStack (slabOf l.pa)) then
          .ok (slabOf l.pa, { r with s := used })
        else bad
      | _ => bad

/-- Translate a whole list. -/
def translateSlabs (v : View) (hbmStacks : List Nat) : (l : List Nat) → EngM (List Nat)
  | [] => pure []
  | va :: r => do
    let x ← translateSlab v hbmStacks va
    let rest ← translateSlabs v hbmStacks r
    pure (x :: rest)

/-! ## Commands (R321 to R323) -/

/-- A fault of a bench command (R405). -/
def benchFault {α : Type} (sub : Nat) : EngM α := engStop (.trap 0x14 sub 0 0 false)

def benchMod (e : Nat) (f : BenchLaunch → BenchLaunch) : EngM Unit := engMod fun s => s.modBenchLaunch e f

/-- The stacks of a launch's set; one that has not loaded names them in its BKLOAD's block. -/
def BenchLaunch.wants (b : BenchLaunch) : List Nat :=
  if b.block = [] then
    match b.current.toList ++ b.queue with
    | k :: _ => setStacks (field k.block 48 1) (field k.block 49 1)
    | [] => []
  else b.hbmStacks

/-- Whether a launch accepted earlier still holds a stack of the set, or waits to load one (R322). -/
def State.setBusy (s : State) (e : Nat) (hbmStacks : List Nat) : Bool :=
  let b := s.benchLaunch e
  many s.benchLaunches fun k x => k != e && x.live && decide (x.accepted < b.accepted) && x.wants.any hbmStacks.contains

/-- Shape record of a seam tensor with its inapplicable fields zero (R94, R97, R318). -/
def shapeOk (b : List Byte) : Bool :=
  let f := field b
  let mx := f 29 1 == 2
  (f 29 1 == 1 && f 28 1 == 3 && f 30 2 == 32 || mx && f 28 1 == 0x89 && f 30 2 == 30) && f 8 4 == 1 && f 12 4 == 1 && zeros b 16 12
    && zeros b 32 8 && zeros b 48 8 && zeros b 60 4 && seamOk mx (f 0 4) && decide (1 ≤ f 56 4 ∧ f 56 4 ≤ 4096) && f 4 4 != 0

/-- BKLOAD's action (R309 to R311, R323, R334): it waits for its set and, in DMODE 1, for accumulators. A shape record that is not aligned to 64
bytes is read where it lies (DESIGN CHOICE, notes/assumptions/135.md). -/
def bkloadWork (e : Nat) (b : BenchLaunch) (blk : List Byte) : EngM Unit := do
  let f := field blk
  let a := b.agent
  let set_ := f 48 1
  let id := f 49 1
  if 2 < set_ ∨ (set_ = 0 ∧ 12 ≤ id) ∨ (set_ = 1 ∧ 2 ≤ id) ∨ (set_ = 2 ∧ id ≠ 0) ∨ 1 < f 50 1 ∨ f 55 1 ≠ 0 ∨ !zeros blk 76 52
      ∨ f 8 8 % 4 ≠ 0 ∨ f 40 8 % 4 ≠ 0 then benchFault 3
  let hbmStacks := setStacks set_ id
  let s ← engState
  if s.setBusy e hbmStacks then engStop (.wait { kind := .bench })
  let (shape, _) ← engRead a (f 16 8) 64 64
  let (hdr, _) ← engRead a (f 8 8) 4 4
  let h := leNat hdr
  let count := natBits h 8 8
  if natBits h 24 8 ≠ 0xB7 ∨ natBits h 16 8 ≠ 0 ∨ count = 0 ∨ 64 < count ∨ (h % 256 ≠ 1 ∧ h % 256 ≠ 2) then benchFault 1
  let (img, _) ← engRead a (f 8 8 + 4) (4 * count) (4 * count)
  let words := (List.range count).map fun i => field img (4 * i) 4
  if !words.all (wordOk (h % 256 == 2)) then benchFault 1
  if field shape 29 1 ≠ h % 256 then benchFault 2
  if !shapeOk shape then benchFault 3
  let m := field shape 4 4
  let target := f 40 8
  let die ← if f 50 1 = 1 then do
      if target < stagingVA ∨ 65536 < target % 65536 + 4 * m then benchFault 3
      let (pa, _) ← engResolve a target true false
      pure (homeDie pa)
    else pure 0
  let s ← engState
  if f 50 1 = 1 ∧ 65536 < s.windowAccs die false + s.benchReserved die + m then engStop (.wait { kind := .bench })
  benchMod e fun b => { b with
    block := blk, shape := shape, words := words.map (BitVec.ofNat 32), loaded := true, left := count + 16
    reserved := if f 50 1 = 1 then m else 0, die := die }
  engMod fun s => { s with
    benches := mkeep s.benches fun k _ => !hbmStacks.contains (k / 1024)
    hbmStacks := hbmStacks.foldl (fun (m : Map Stack) (n : Nat) =>
      let k := mget {} m n
      mset m n { k with launch := some e, store := words.zipIdx.map (fun w => (w.2, BitVec.ofNat 32 w.1)), e := [], ePoison := [], run := none }) s.hbmStacks }

/-- Read the entries of a slab list. -/
def readSlabs (a : Agent) (va : Nat) : (n : Nat) → EngM (List Nat)
  | 0 => pure []
  | n + 1 => do
    let (b, _) ← engRead a va 8 8
    let l ← readSlabs a (va + 8) n
    pure (leNat b :: l)

/-- OWNB's action (R326, R327): the slabs are translated, their ids written at PSL, and each is reached in the list's order; slices and host agents
then drop their copies. -/
def ownbWork (e : Nat) (b : BenchLaunch) : EngM Unit := do
  let a := b.agent
  let n := field b.shape 56 4
  let list ← readSlabs a (field b.shape 40 8) n
  let ids ← translateSlabs a.view b.hbmStacks list
  let s ← engState
  if b.slabs != [] || ids.any fun x => s.slab x != 0 then engStop (.trap 0x0D 2 0 0 false)
  if ids.eraseDups.length ≠ ids.length then engStop (.trap 0x0D 2 0 0 false)
  engWrite a (b.b 24 8) false false (ids.flatMap fun x => leBytes x 4) (4 * n)
  ids.forM slabPlace
  benchMod e fun b => { b with slabs := ids }

/-- BKVEC's action (R323); poisoned activations poison their registers (R421). -/
def bkvecWork (b : BenchLaunch) (blk : List Byte) : EngM Unit := do
  let f := field blk
  if f 52 1 = 0 ∨ 8 < f 51 1 + f 52 1 ∨ f 32 8 % 32 ≠ 0 then benchFault 3
  let n := f 52 1
  let regs ← (List.range n).mapM fun j => do
    let (d, p) ← engRead b.agent (f 32 8 + 32 * j) 32 32
    pure (f 51 1 + j, BitVec.ofNat 256 (leNat d), p)
  let hbmStacks := b.hbmStacks
  engMod fun s => { s with hbmStacks := hbmStacks.foldl (fun (m : Map Stack) (k : Nat) =>
    let x := mget {} m k
    mset m k (regs.foldl (fun (x : Stack) y => { x with
      e := mset x.e y.1 y.2.1
      ePoison := if y.2.2 then y.1 :: x.ePoison else x.ePoison.filter (· ≠ y.1) }) x)) s.hbmStacks }

/-- BKRUN's start in every stack of the set (R323, R324). -/
def bkrunWork (b : BenchLaunch) (blk : List Byte) : EngM Unit := do
  let f := field blk
  let s ← engState
  if !b.owned || b.slabs.any fun x => s.slab x != 2 then engStop (.trap 0x0D 2 0 0 false)
  if f 54 1 = 0 ∨ 64 < f 54 1 ∨ b.words.length < f 53 1 + f 54 1 ∨ f 56 4 = 0 ∨ 65536 < f 56 4 ∨ 255 < f 60 2 ∨ b.c ≤ f 62 2 ∨ f 72 4 = 0
      ∨ field b.shape 56 4 < f 68 4 + f 72 4 then benchFault 3
  let run := [f 53 1, f 54 1, f 56 4, f 60 2, f 62 2, f 68 4, f 72 4]
  let hbmStacks := b.hbmStacks
  engMod fun s => { s with hbmStacks := hbmStacks.foldl (fun (m : Map Stack) (k : Nat) =>
    mset m k { mget {} m k with run := some run, round := 0, word := 0, opened := false, closing := false, wait := 0, finished := false }) s.hbmStacks }

/-- What starting a command does (R323): the drain and the return of OWNC come as it completes. -/
def startWork (e : Nat) (b : BenchLaunch) (k : BenchCmd) : EngM Unit :=
  match k.op with
  | 0 => bkloadWork e b k.block
  | 1 => bkvecWork b k.block
  | 2 => bkrunWork b k.block
  | 4 => ownbWork e b
  | 5 => if b.slabs = [] then engStop (.trap 0x0D 2 0 0 false) else pure ()
  | _ => pure ()

/-- What stops a bench launch's work: a page is filled first, a line is asked for, a wait is tried again, a fault ends the LAUNCH (R132, R405). -/
def State.benchStop (s : State) (e : Nat) : Stop → State
  | .trap code _ _ _ _ => s.terminate (s.benchLaunch e).launch (0x100 + code)
  | .fill pte en level => (s.beginFill pte en level).modBenchLaunch e fun b => { b with stopped := some pte }
  | .miss line r _ _ => s.missAgent (.bench e) line r
  | _ => s

/-- Run an agent's work of a bench launch (R405). -/
def State.benchRun (s : State) (e : Nat) (t : Nat) (work : EngM Unit) (ok : State → State) : State :=
  let b := s.benchLaunch e
  match work (s.runOf b.agent (.bench e) (max b.time t)) with
  | .ok (_, r) => ok (r.next.s.modBenchLaunch e fun b => { b with time := r.t, stopped := none })
  | .error x => s.benchStop e x

/-- The crusher writes the targets of an epoch one after another, and ends it (R334). -/
def State.writeEpoch (s : State) (e t : Nat) : (l : Map ExactAcc) → State
  | [] => s
  | (k, acc) :: r =>
    let b := s.benchLaunch e
    match writeTarget b k acc (s.runOf b.agent (.bench e) (max b.time t)) with
    | .ok (_, r') => (r'.next.s.modBenchLaunch e fun b => { b with time := r'.t, stopped := none }).writeEpoch e t r
    | .error x => s.benchStop e x

/-- Whether a bench launch waits for a page or for a line. -/
def State.benchBlocked (s : State) (e : Nat) : Bool := s.filling_ (s.benchLaunch e).stopped || s.agentBlocked (.bench e)

/-- The next command of a bench launch starts, one at a time (R322). -/
def execBenchCommandStart (entry : BitVec 5) (s : State) : Res :=
  match s.unit with
  | .none =>
    let e := entry.toNat
    let b := s.benchLaunch e
    match b.live && !b.stalled && b.current.isNone && !s.benchBlocked e, b.queue with
    | true, k :: r =>
      .next (s.benchRun e k.time (startWork e b k) fun s => s.modBenchLaunch e fun b => { b with queue := r, current := some k })
    | _, _ => .next s
  | _ => .next s

/-- An OWNC returns a launch's slabs (R326). -/
def State.returnSlabs (s : State) (e : Nat) : State :=
  { s with slabs := (s.benchLaunch e).slabs.foldl (fun m x => mset m x 3) s.slabs }.modBenchLaunch e fun b => { b with returning := true }

/-- Whether the current command's work is over, but for what completing it does (R323, R334). -/
def State.commandOver (s : State) (b : BenchLaunch) (k : BenchCmd) : Bool :=
  match k.op with
  | 0 => b.left == 0
  | 2 => b.hbmStacks.all fun n => (s.stack n).finished
  | 3 => b.outstanding == 0
  | 4 => b.slabs.all fun x => s.slab x == 2
  | 5 => b.outstanding == 0
  | _ => true

/-- Command k completes: k is written into DONE, and an OWNC frees the entry (R319, R322). -/
def State.commandEnd (s : State) (e : Nat) (k : BenchCmd) : State :=
  let b := s.benchLaunch e
  let done := b.b 0 8
  if s.doneWaits b.agent done then s
  else
    let s := s.modBenchLaunch e fun b => { b with
      current := none, count := b.count + 1, owned := b.owned || k.op == 4 }
    let s := if k.op = 2 then { s with hbmStacks := b.hbmStacks.foldl (fun (m : Map Stack) (n : Nat) =>
        mset m n { mget {} m n with run := none, finished := false }) s.hbmStacks } else s
    let s := if k.op = 5 then
        { s.modBenchLaunch e fun b => { gen := b.gen } with
          hbmStacks := mmap s.hbmStacks fun _ x => if x.launch = some e then { x with launch := none } else x }
      else s
    let (ts, s) := s.agentDoneAt b.agent b.launch done (some (b.count + 1)) b.time
    (s.modBenchLaunch e fun b => if b.live then { b with time := max b.time ts } else b).launchCheck b.launch

/-- The current command of a bench launch completes where its work is over (R322, R323): a BKDRAIN or OWNC ends the epoch first, and an OWNC
returns the slabs. -/
def execBenchCommandComplete (entry : BitVec 5) (s : State) : Res :=
  match s.unit with
  | .none =>
    let e := entry.toNat
    let b := s.benchLaunch e
    match b.current with
    | none => .next s
    | some k =>
      if !b.live || b.stalled || s.benchBlocked e || !s.commandOver b k then .next s
      else
        let epoch := b.dmode == 1 && (k.op == 3 || k.op == 5) && many s.epoch fun x _ => x / 2 ^ 24 == e
        if epoch then .next (s.writeEpoch e k.time (s.epoch.filter fun x => x.1 / 2 ^ 24 == e))
        else if k.op = 5 && !b.returning then .next (s.returnSlabs e)
        else if k.op = 5 && b.slabs.any fun x => s.slab x != 0 then .next s
        else .next (s.commandEnd e k)
  | _ => .next s

/-- A parity error stops a launch's stacks after the word in progress and ends it (R448). -/
def execBenchParityError (entry : BitVec 5) (s : State) : Res :=
  match s.unit with
  | .none =>
    let b := s.benchLaunch entry.toNat
    .next (if b.live then s.terminate b.launch 0x114 else s)
  | _ => .next s

/-- The slab list of a launch is translated again after a shootdown (R336, R438): it goes on where every entry still maps onto its slab. -/
def State.retranslate (s : State) (e : Nat) : State :=
  let b := s.benchLaunch e
  if b.slabs = [] then s
  else
    let work : EngM Unit := do
      let list ← readSlabs b.agent (field b.shape 40 8) (field b.shape 56 4)
      let ids ← translateSlabs b.agent.view b.hbmStacks list
      if ids != b.slabs then benchFault 4
      engWrite b.agent (b.b 24 8) false false (ids.flatMap fun x => leBytes x 4) (4 * ids.length)
    match work (s.runOf b.agent (.bench e) b.time) with
    | .ok (_, r) => r.next.s.modBenchLaunch e fun b => { b with stalled := false, time := r.t }
    | .error (.trap _ _ _ _ _) => s.terminate b.launch 0x114
    | .error x => (s.benchStop e x).modBenchLaunch e fun b => { b with stalled := true }

end Sys2Proof.Machine
end

