-- ==== Sys2Proof/Machine/Spawn.lean ====
section
/-! DEFINITION. Spawn pools and SPAWN (R37, R38, R116, R210). -/

namespace Sys2Proof.Machine

/-- Records in a launch's spawn pool (R37). DESIGN CHOICE (notes/assumptions/133.md): a record leaves the pool when its bin closes, not when its
group is placed. -/
def State.pooled (s : State) (lk : Nat) : Nat := (s.launch lk).bins.foldl (fun n b => n + b.2.length) 0

/-- Whether the pool has room for a record (R37, R344). -/
def State.spawnRoom (s : State) (lk : Nat) : Bool := decide (s.pooled lk < (s.launch lk).f 68 4)

/-- A spawn bin closes into a fresh one-crew group, which becomes pending (R38, R39). -/
def State.closeBin (s : State) (lk pc : Nat) : State :=
  let l := s.launch lk
  match l.bins.find? fun b => b.1 == pc with
  | none => s
  | some b =>
    let u : PUnit := { launch := lk, prio := l.prio, order := l.order, first := 2 ^ 32, spawn := b.2, held := l.heldBack }
    (s.modLaunch lk fun l => { l with bins := l.bins.filter fun b => b.1 ≠ pc }).pend u

/-- A record joins the bin of its program counter: one that is complete closes, and the oldest of 64 closes where a new one is needed
(R38). -/
def State.spawn (s : State) (lk : Nat) (r : SpawnRec) : State :=
  let pc := r.pc.toNat
  let l := s.launch lk
  if l.bins.any fun b => b.1 == pc then
    let s := s.modLaunch lk fun l => { l with bins := l.bins.map fun b => if b.1 = pc then (b.1, b.2 ++ [r]) else b }
    if (s.launch lk).bins.any fun b => b.1 == pc && decide (32 ≤ b.2.length) then s.closeBin lk pc else s
  else
    let s := if 64 ≤ l.bins.length then s.closeBin lk ((l.bins.head?.map (·.1)).getD 0) else s
    (s.modLaunch lk fun l => { l with bins := l.bins ++ [(pc, [r])] }).later 4096
      (.spawnBinAgeing (BitVec.ofNat 10 l.queue) (BitVec.ofNat 32 l.index))

/-- The bins of a launch whose oldest record has waited 4,096 arith cycles close (R38). -/
def State.closeAged (s : State) (lk : Nat) : State :=
  let old := (s.launch lk).bins.filter fun b => b.2.any fun (r : SpawnRec) => decide (r.at_ + 4096 ≤ s.clock)
  old.foldl (fun (s : State) (b : Nat × List SpawnRec) => s.closeBin lk b.1) s

/-- The aged bins close of the launches that the event names, by queue and index; a part of a GANGLAUNCH has no queue of its own, and is named by
the low bits of what stands for one (R38, R353). -/
def execSpawnBinAgeing (q : BitVec 10) (i : BitVec 32) (s : State) : Res :=
  match s.unit with
  | .none =>
    let named := mkeys s.launches fun _ l => l.queue % 1024 == q.toNat && l.index % 2 ^ 32 == i.toNat
    .next (named.foldl (fun (s : State) (lk : Nat) => s.closeAged lk) s)
  | _ => .next s

/-- SPAWN: a store into the pool, which the spawned thread follows; a full pool is a wait (R37, R116, R210). -/
def execSpawn (_x : BitVec 4) (a d : BitVec 6) (n : BitVec 1) (p : BitVec 4) (s : State) : Res :=
  onThreads (shapeOf (.spawn _x a d n p))
    (quietly fun c => do
      let t ← srcD c a.toNat
      let v ← srcQ c d.toNat
      if c.helper then pure ()
      else do
        let s ← get
        let lk := (s.group c.group).launch
        let pc := t &&& ~~~1#64
        if (s.launch lk).f 68 4 = 0 then trap 0x19 1 0 pc
        if pc.toNat / 2 ^ 56 ≠ 0 then trap 0x19 2 0 pc
        if !s.spawnRoom lk then stop (.wait { kind := .spawn, addr := pc })
        let th ← me c
        let ts := max th.time 1
        modMe c fun t => { t with time := ts }
        let w := fun (i : Nat) => v.getD i 0
        modState fun s => s.spawn lk { pc := pc, a0 := w 0, a1 := w 1, a2 := w 2, a3 := w 3, time := ts, at_ := s.clock }) s

end Sys2Proof.Machine
end

