-- ==== Sys2Proof/Machine/Issue.lean ====
section
/-! DEFINITION. Issue on a core (R23 to R36): the choice of a quad's program counter, lanes that stand at a crew-wide instruction, bins, bundles
and draws; fetching what a bundle issues; and what ends a lane's wait (R44). -/

namespace Sys2Proof.Machine

/-! ## Quads -/

/-- The running lanes of a quad. -/
def State.quadRun (s : State) (ck q : Nat) : List Nat :=
  ((List.range 4).map (4 * q + ·)).filter fun l => (s.thread ck l).st == .run

/-- Whether a lane keeps its quad from issuing: it waits for a result, or has its instruction to try again (R27). -/
def Thread.notReady (t : Thread) : Bool :=
  match t.st with
  | .waiting w => !w.kind.visible
  | .retry _ => true
  | _ => false

/-- Whether a quad may issue (R27). -/
def State.quadReady (s : State) (ck q : Nat) : Bool := !((List.range 4).any fun i => (s.thread ck (4 * q + i)).notReady)

/-- The lanes among which a quad's program counter is chosen: live, neither parked, standing nor descheduled (R23). -/
def State.quadLive (s : State) (ck q : Nat) : List Nat :=
  ((List.range 4).map (4 * q + ·)).filter fun l =>
    let t := s.thread ck l
    t.st == .run || (t.notReady && !t.gone)

/-- The least of some program counters. -/
def leastPc : List DWord → Option DWord
  | [] => none
  | p :: r =>
    match leastPc r with
    | some q => some (if p ≤ q then p else q)
    | none => some p

/-- The quad program counter (R23): the lowest of the lanes it is chosen among, but a lane left behind on 64 issues comes first. -/
def State.quadPc (s : State) (ck q : Nat) : Option DWord :=
  let l := s.quadLive ck q
  let late := l.filter fun x => decide (64 ≤ (s.thread ck x).behind)
  leastPc ((if late.isEmpty then l else late).map fun x => (s.thread ck x).pc)

/-- Whose addresses a crew's fetches are. -/
def State.crewView (s : State) (ck : Nat) : View :=
  let gk := (s.crew ck).group
  { ctx := (s.launch (s.group gk).launch).ctx, group := gk, firmware := slotOf ck == 63 }

/-- Whether a word is a crew-wide instruction (R32): majors 0x41 to 0x4F. -/
def crewWideWord (len w : Nat) : Bool := len == 4 && decide (0x41 ≤ natBits w 1 7 ∧ natBits w 1 7 ≤ 0x4F)

/-- The crew-wide instruction at an address, if one stands there. -/
def State.crewWideAt (s : State) (ck : Nat) (pc : DWord) : Option Instr :=
  match s.fetchInstr (s.crewView ck) pc with
  | .ok (_, w, len, .ok i) => if crewWideWord len w then some i else none
  | _ => none

/-- Whether a lane is one that reads a crew-wide instruction's registers: its guard passes, and for KFIRST no lower one's does (R179, R213). -/
def State.sourceLane (s : State) (ck lane : Nat) (i : Instr) : Bool :=
  let passes := fun (l : Nat) => !(s.thread ck l).gone && (shapeOf i).guard.passes (s.crew ck) l
  passes lane && match i with
    | .kfirst _ _ _ _ _ => !((List.range lane).any passes)
    | _ => true

/-- The held register that a lane would read at a crew-wide instruction (R213). -/
def State.heldSource (s : State) (ck lane : Nat) (i : Instr) : Option Nat :=
  let sh := shapeOf i
  let t := s.thread ck lane
  if !s.sourceLane ck lane i then none
  else
    let regs := sh.uses.flatMap fun u =>
      match u.2.1 with
      | .srcW => [u.2.2]
      | .srcD => if u.2.2 < 32 then [u.2.2, u.2.2 + 1] else []
      | _ => []
    regs.find? fun r => decide (r < 32) && t.held r

/-- The running lanes of a quad that have reached a crew-wide instruction stand at it (R32), or wait for a held register of their own that it
reads (R213). -/
def State.standQuad (s : State) (ck q : Nat) : State :=
  (s.quadRun ck q).foldl (fun (s : State) (l : Nat) =>
    match s.crewWideAt ck (s.thread ck l).pc with
    | none => s
    | some i =>
      match s.heldSource ck l i with
      | some r => s.deschedule ck l { kind := .heldReg, addr := BitVec.ofNat 64 r, key := r
                                      old := (shapeOf i).reads.foldl (fun m r => m ||| 2 ^ r) 0 }
      | none => s.modThread ck l fun t => { t with st := .standing, behind := 0 }) s

/-! ## Filing (R26, R27) -/

/-- The crews resident on a core that issue, in order of slot. -/
def State.crewsAt (s : State) (core : Nat) : List Nat :=
  mkeys s.crews fun k c => coreOf k == core && slotOf k != 63 && !c.saved && (s.launch (s.group c.group).launch).started

/-- Whether a quad is in a bundle of its core. -/
def State.inBundle (s : State) (core ck q : Nat) : Bool :=
  many (s.core core).pipes fun _ b => b.quads.contains (ck, q)

/-- The stamp of a bin's oldest ready quad (R26), or the cycle at which a crew bin became drawable (R32). -/
def Bin.age (b : Bin) : Option Nat :=
  match b.crew with
  | some (_, at_) => at_
  | none => (b.quads.filter (·.ready)).foldl (fun m f => some (match m with | some x => min x f.stamp | none => f.stamp)) none

/-- Take a quad out of its bin; a bin emptied is freed. -/
def Core.unfile (k : Core) (clock ck q : Nat) : Core :=
  { k with bins := (k.bins.map fun b =>
      if b.quads.any fun f => f.crew == ck && f.quad == q then
        let b := { b with quads := b.quads.filter fun f => !(f.crew == ck && f.quad == q) }
        { b with aged := b.aged && (b.age.any fun a => decide (a + 64 ≤ clock)) }
      else b).filter fun b => b.crew.isSome || !b.quads.isEmpty }

/-- File a quad under a program counter, ready or not: in the bin of that key whose column is free, or in a new one (R26, R27). -/
def Core.file (k : Core) (clock group : Nat) (pc : DWord) (ck q : Nat) (ready : Bool) : Core :=
  let f : Filed := { crew := ck, quad := q, stamp := clock, ready := ready }
  let fits := fun (b : Bin) => b.crew.isNone && b.group == group && b.pc == pc && !b.quads.any fun g => g.quad == q
  match k.bins.find? fits with
  | some b => { k with bins := k.bins.map fun c => if c.number = b.number then { c with quads := c.quads ++ [f] } else c }
  | none => { k with bins := k.bins ++ [{ number := k.nextBin, group := group, pc := pc, quads := [f] }], nextBin := k.nextBin + 1 }

/-- Where a quad is filed: its program counter, and whether it is filed ready. -/
def Core.filedAt (k : Core) (ck q : Nat) : Option (DWord × Bool) :=
  (k.bins.find? fun b => b.quads.any fun f => f.crew == ck && f.quad == q).map fun b =>
    (b.pc, b.quads.any fun f => f.crew == ck && f.quad == q && f.ready)

/-- A filed quad becomes ready, with the cycle's stamp (R26), or not ready. -/
def Core.refresh (k : Core) (clock ck q : Nat) (ready : Bool) : Core :=
  { k with bins := k.bins.map fun b =>
      if b.quads.any fun f => f.crew == ck && f.quad == q then
        let b := { b with quads := b.quads.map fun (f : Filed) =>
          if f.crew = ck ∧ f.quad = q then { f with ready := ready, stamp := if ready then clock else f.stamp } else f }
        { b with aged := b.aged && (b.age.any fun a => decide (a + 64 ≤ clock)) }
      else b }

/-- File a quad that is in no bundle, by its program counter, ready or not; a quad with no lane to choose is not filed (R27, R36, R44). -/
def State.fileQuad (s : State) (core ck q : Nat) : State :=
  if s.inBundle core ck q then s
  else
    let s := s.standQuad ck q
    let k := s.core core
    let ready := s.quadReady ck q
    match s.quadPc ck q, k.filedAt ck q with
    | none, none => s
    | none, some _ => s.modCore core fun k => k.unfile s.clock ck q
    | some p, old =>
      if old = some (p, ready) then s
      else if (old.any fun x => x.1 == p) then s.modCore core fun k => k.refresh s.clock ck q ready
      else s.modCore core fun k => (k.unfile s.clock ck q).file s.clock (s.crew ck).group p ck q ready

/-- The lanes of a crew that have not exited (R32). -/
def State.liveLanes (s : State) (ck : Nat) : List Nat := lanes32.filter fun l => !(s.thread ck l).gone

/-- The crew bins of a crew (R32): one for each crew-wide instruction at which a lane stands, drawable from the cycle in which every
non-exited lane stands in it. -/
def State.fileCrew (s : State) (core ck : Nat) : State :=
  let live := s.liveLanes ck
  let standing := live.filter fun l => (s.thread ck l).st == .standing
  let pcs := (standing.map fun l => (s.thread ck l).pc).eraseDups
  let all := fun (p : DWord) => live.all fun l => (s.thread ck l).st == .standing && (s.thread ck l).pc == p
  let drawn := many (s.core core).pipes fun _ b => b.crewWide && b.quads.any fun x => x.1 == ck
  if drawn || (pcs.isEmpty && !(s.core core).bins.any fun b => b.crew.any fun c => c.1 == ck) then s
  else
    s.modCore core fun k =>
      let bins := k.bins.filterMap fun b =>
        match b.crew with
        | some (c, at_) =>
          if c ≠ ck then some b
          else if !pcs.contains b.pc then none
          else some { b with crew := some (c, if all b.pc then some (at_.getD s.clock) else none) }
        | none => some b
      pcs.foldl (fun (k : Core) (p : DWord) =>
        if k.bins.any fun b => b.pc == p && b.crew.any fun c => c.1 == ck then k
        else { k with
          bins := k.bins ++ [{ number := k.nextBin, group := (s.crew ck).group, pc := p
                               crew := some (ck, if all p then some s.clock else none) }]
          nextBin := k.nextBin + 1 }) { k with bins := bins }

/-- File every quad of a core that is in no bundle, in order of crew slot and column (R26). -/
def State.fileCore (s : State) (core : Nat) : State :=
  (s.crewsAt core).foldl (fun (s : State) (ck : Nat) =>
    ((List.range 8).foldl (fun (s : State) (q : Nat) => s.fileQuad core ck q) s).fileCrew core ck) s

/-! ## Bundles (R28, R29) -/

/-- The bundle as it goes on, or none where it ends (R28): after eight instructions, a REFORM, or its one crew-wide instruction; where its
quads' next program counters differ; and where no quad is left. A quad that must wait for a result leaves it (R27). -/
def State.keepBundle (s : State) (b : Bundle) : Option Bundle :=
  let quads := b.quads.filter fun x => (mfind s.crews x.1).isSome && (s.quadPc x.1 x.2).isSome && s.quadReady x.1 x.2
  if b.crewWide then if b.issued = 0 then some b else none
  else if 8 ≤ b.issued ∨ b.reform then none
  else
    match quads with
    | [] => none
    | x :: _ =>
      match s.quadPc x.1 x.2 with
      | none => none
      | some p => if quads.all fun y => s.quadPc y.1 y.2 == some p then some { b with pc := p, quads := quads } else none

/-- The bundles of a core's pipes go on or end, and what is in none is filed with this cycle's stamp (R27, R28). -/
def State.refile (s : State) (core : Nat) : State :=
  let s := (s.core core).pipes.foldl (fun (s : State) (e : Nat × Bundle) =>
    e.2.quads.foldl (fun (s : State) (x : Nat × Nat) => if (mfind s.crews x.1).isSome then s.standQuad x.1 x.2 else s) s) s
  (s.modCore core fun k => { k with pipes := k.pipes.filterMap fun e => (s.keepBundle e.2).map fun b => (e.1, b) }).fileCore core

/-- Whether a bin is full (R29): in each column it holds a ready quad, or its group has none filed ready. -/
def Core.full (k : Core) (b : Bin) : Bool :=
  (List.range 8).all fun q =>
    (b.quads.any fun f => f.quad == q && f.ready)
      || !k.bins.any fun c => c.group == b.group && c.crew.isNone && c.quads.any fun f => f.quad == q && f.ready

/-- Whether a bin may be drawn (R29, R32): it has a ready quad, and is full or has aged. -/
def Core.drawable (k : Core) (b : Bin) : Bool :=
  match b.crew with
  | some (_, at_) => at_.isSome
  | none => b.age.isSome && (b.aged || k.full b)

/-- The order of draws (R29): age, group slot, creation number. -/
def State.before (s : State) (a b : Bin) : Bool :=
  let key := fun (x : Bin) => (x.age.getD 0, (s.group x.group).gslot, x.number)
  let (a1, a2, a3) := key a
  let (b1, b2, b3) := key b
  decide (a1 < b1 ∨ a1 = b1 ∧ (a2 < b2 ∨ a2 = b2 ∧ a3 ≤ b3))

/-- The first of some bins. -/
def State.firstBin (s : State) : List Bin → Option Bin
  | [] => none
  | b :: r =>
    match s.firstBin r with
    | none => some b
    | some c => some (if s.before b c then b else c)

/-- A pipe draws the ready quads of the first drawable bin; those that are not ready stay in it, and a bin emptied is freed. A pipe that finds none
idles (R29). -/
def State.draw (s : State) (core pipe : Nat) : State :=
  let k := s.core core
  match s.firstBin (k.bins.filter k.drawable) with
  | none => s
  | some b =>
    let bundle : Bundle :=
      match b.crew with
      | some (ck, _) => { group := b.group, pc := b.pc, quads := (List.range 8).map fun q => (ck, q), crewWide := true }
      | none => { group := b.group, pc := b.pc, quads := (b.quads.filter (·.ready)).map fun f => (f.crew, f.quad) }
    let rest := b.quads.filter fun f => !f.ready
    s.modCore core fun k => { k with
      bins := k.bins.filterMap fun c =>
        if c.number ≠ b.number then some c else if rest.isEmpty then none else some { c with quads := rest, aged := false }
      pipes := mset k.pipes pipe bundle }

/-- A pipe that has no bundle to go on with draws one (R28, R29). -/
def execBundleDraw (core : BitVec 9) (pipe : BitVec 1) (s : State) : Res :=
  match s.unit with
  | .none =>
    let s := s.refile core.toNat
    .next (if (mfind (s.core core.toNat).pipes pipe.toNat).isSome then s else s.draw core.toNat pipe.toNat)
  | _ => .next s

/-- A bin whose oldest quad has waited 64 arith cycles becomes drawable (R29). -/
def execBinAgeingLimit (core : BitVec 9) (bin : BitVec 32) (s : State) : Res :=
  match s.unit with
  | .none =>
    .next (s.modCore core.toNat fun k => { k with bins := k.bins.map fun b =>
      if b.number % 2 ^ 32 = bin.toNat && b.age.any fun a => decide (a + 64 ≤ s.clock) then { b with aged := true } else b })
  | _ => .next s

/-- The bins of a core that have reached the ageing limit. -/
def State.ageing (s : State) (core : Nat) : List Nat :=
  ((s.core core).bins.filter fun b => b.crew.isNone && !b.aged && b.age.any fun a => decide (a + 64 ≤ s.clock)).map (·.number)

/-- A lane left behind on 64 issues of its quad is chosen next (R23): the quad is filed by that lane's program counter, and a bundle it is in ends, as
its quads' next program counters differ (R28). -/
def execLaneChoiceLimit (core : BitVec 9) (slot : BitVec 6) (quad : BitVec 3) (s : State) : Res :=
  match s.unit with
  | .none =>
    let c := core.toNat
    let ck := crewKey c slot.toNat
    let q := quad.toNat
    if (s.quadRun ck q).any fun l => decide (64 ≤ (s.thread ck l).behind) then
      let ends := fun (b : Bundle) => if b.quads.contains (ck, q) then { b with reform := true } else b
      .next ((s.modCore c fun k => { k with pipes := mmap k.pipes fun _ b => ends b }).fileQuad c ck q)
    else .next s
  | _ => .next s

/-! ## Issue -/

/-- The lanes of a quad to which its instruction is issued: those at the program counter, and the helpers (R23, R24). -/
def State.quadIssue (s : State) (b : Bundle) (ck q : Nat) : List Nat :=
  ((List.range 4).map (4 * q + ·)).filter fun l =>
    let t := s.thread ck l
    match t.st with
    | .run => t.pc == b.pc
    | .standing => b.crewWide && t.pc == b.pc
    | .exited | .helper => true
    | _ => false

/-- The issue of a bundle's next instruction. -/
def State.issueOf (s : State) (core pipe : Nat) (b : Bundle) (len word : Nat) : Issue :=
  let crews := (b.quads.map (·.1)).eraseDups
  { core := core, pipe := pipe, pc := b.pc, len := len, word := word
    parts := crews.map fun ck =>
      { crew := ck
        lanes := (b.quads.filter fun x => x.1 == ck).foldl (fun m x => (s.quadIssue b x.1 x.2).foldl (fun m l => m ||| bitOf l) m) 0 } }

/-- The lanes of a bundle's quads that its issue leaves behind are counted (R23). -/
def State.countBehind (s : State) (b : Bundle) : State :=
  b.quads.foldl (fun (s : State) (x : Nat × Nat) => (s.quadRun x.1 x.2).foldl (fun (s : State) (l : Nat) =>
    s.modThread x.1 l fun t => { t with behind := if t.pc = b.pc then 0 else t.behind + 1 }) s) s

/-- What a unit has to do next: nothing; execute an instruction in the state given; or it has gone on as given. -/
inductive Todo where
  | nothing
  | run (i : Instr) (s : State)
  | did (r : Res)

/-- A lane is issued an encoding that R177 calls illegal (R402): each lane that is no helper takes code 0x01 or 0x02; a stream's launch
ends (R403). -/
def execIllegalInstruction (word : BitVec 32) (s : State) : Res :=
  match s.unit with
  | .lanes i =>
    let w := word.toNat
    match (if w % 2 = 0 then decode16 (w % 65536) else decode32 w) with
    | .ok _ => .next s
    | .error e =>
      .next (overLanes i (fun s crew lane =>
        if (mfind s.crews crew).isNone then s
        else
          let c := s.ctxOf i crew lane
          if c.helper then s.past c
          else (s.stopLane c (.trap e.code e.sub e.detail (BitVec.ofNat 64 w) false)).afterInstr c) s)
  | .stream cl _ _ => .next (s.streamTrap cl 1)
  | _ => .next s

/-- A fetch fails at the program counter (R400): each lane that is no helper takes cause 0x04 or 0x0D, or waits while firmware fills the page
(R433); poison in the instruction kills the group (R421). A stream waits for a fill too, and its launch ends for any other cause (R403). -/
def execFetchFault (s : State) : Res :=
  match s.unit with
  | .lanes i =>
    let first := (i.parts.head?.map (·.crew)).getD 0
    match s.fetchInstr (s.crewView first) i.pc with
    | .ok _ => .next s
    | .error e =>
      .next (overLanes i (fun s crew lane =>
        if (mfind s.crews crew).isNone then s
        else
          let c := s.ctxOf i crew lane
          if c.helper then s
          else
            match e with
            | .trap _ _ _ _ _ => (s.stopLane c e).afterInstr c
            | .fill pte en level =>
              (s.beginFill pte en level).deschedule crew lane { kind := .pageFill, key := pte, refile := true }
            | .wait w => s.stopLane c (.wait { w with refile := true })
            | .poisoned _ | .miss _ _ _ _ => s.stopLane c e) s)
  | .stream cl pc _ =>
    let v := (s.streamAgent cl).view
    match s.fetchInstr v pc with
    | .ok _ => .next s
    | .error e => .next (s.streamStop cl e)
  | _ => .next s

/-- What a pipe issues. -/
def State.pipeTodo (s : State) (core pipe : Nat) : Todo :=
  match mfind (s.core core).pipes pipe with
  | none => .nothing
  | some b =>
    match b.quads with
    | [] => .nothing
    | (ck, _) :: _ =>
      let s := s.countBehind b
      match s.fetchInstr (s.crewView ck) b.pc with
      | .ok (s', w, len, .ok i) => .run i { s' with unit := .lanes (s'.issueOf core pipe b len w) }
      | .ok (s', w, len, .error _) =>
        .did (execIllegalInstruction (BitVec.ofNat 32 w) { s' with unit := .lanes (s'.issueOf core pipe b len w) })
      | .error _ => .did (execFetchFault { s with unit := .lanes (s.issueOf core pipe b 4 0) })

/-- The quads of a pipe's bundle with a lane that has just been left behind on 64 issues. -/
def State.leftBehind (s : State) (core pipe : Nat) : List (Nat × Nat) :=
  match mfind (s.core core).pipes pipe with
  | none => []
  | some b => b.quads.filter fun x => (s.quadRun x.1 x.2).any fun l => decide (64 ≤ (s.thread x.1 l).behind)

/-- After a pipe's issue: the bundle has issued one instruction more. -/
def State.issued (s : State) (core pipe : Nat) : State :=
  { s.modCore core fun k => { k with pipes := mmap k.pipes fun p b => if p = pipe then { b with issued := b.issued + 1 } else b } with
    unit := .none }

/-- Whether a pipe's next instruction is ENROL, whose bits are set before the other pipe's changes of the cycle (R208). -/
def State.enrolling (s : State) (core pipe : Nat) : Bool :=
  match s.pipeTodo core pipe with
  | .run (.enrol _ _ _) _ => true
  | _ => false

/-! ## Waits -/

/-- Whether a lane's wait is met (R44, R89, R122, R125, R253, R254, R365, R433). Barriers are met by what their other ends do, and a chute serves its
waiting lanes after its cluster's engines and sequencer (R281). -/
def State.waitMet (s : State) (ck lane : Nat) (w : Wait) : Bool :=
  let c := s.crew ck
  let g := s.group c.group
  match w.kind with
  | .ldf | .ldfk | .ste | .waitv => s.attemptReady ck lane w
  | .bar => decide (w.key ≤ g.barInst)
  | .gbar => decide (w.key ≤ (s.gang (g.gang.getD 0)).gbarInst)
  | .spawn => s.spawnRoom g.launch
  | .heldReg => !(s.thread ck lane).held w.key
  | .chtake => false
  | .eng => decide ((s.cluster w.key).armed.length < 64)
  | .bench =>
    if w.key = 32 then (List.range 32).any fun e => !(s.benchLaunch e).live
    else decide ((s.benchLaunch w.key).queue.length < 16)
  | .presence => mget 0 s.filling w.key == 0
  | .peers => w.refile && !((quadLanes lane).any fun m => (s.thread ck m).stillAt (s.thread ck lane).pc.toNat)
  | .pageFill => !s.filling_ (some w.key)
  | .remote => (s.thread ck lane).reply.isSome
  | .egress => false
  | .miss =>
    if w.ticket = 0 then !s.asking (coreOf ck) w.key else !(s.pendingReq.any fun x => x.2.2.ticket == w.ticket)
  | .entry => s.entryFree (coreOf ck)
  | .slice => !s.busyWord (4 * w.key) 4

/-- The lanes that wait, longest first, of crews that are not saved. -/
def State.waiters (s : State) : List (Nat × Nat × Wait) :=
  let l := s.threads.filterMap fun e =>
    match e.2.st with
    | .waiting w => if (s.crew (e.1 / 32)).saved then none else some (e.1 / 32, e.1 % 32, w)
    | _ => none
  sortBy (fun x y => decide (x.2.2.since ≤ y.2.2.since)) l

/-- A lane whose wait is met goes on (R44): a tagged operation or WAITV is performed; a lane at a crew-wide instruction, or whose quad issues
afresh, is filed; another tries its instruction again, and so does one whose page could not be filled, which learns why (R434). -/
def State.meetWait (s : State) (ck lane : Nat) (w : Wait) : State :=
  if w.kind.onWord then s.retryTagged ck lane w
  else
    match w.kind with
    | .bar | .gbar | .peers => s.wake ck lane
    | _ =>
      let failed := w.kind == .pageFill && s.pageFills.any fun f => f.pte == w.key && f.failed.isSome
      if !failed && (w.refile || (s.crewWideAt ck (s.thread ck lane).pc).isSome) then s.wake ck lane
      else s.modThread ck lane fun t => { t with st := .retry w.was }

/-- A descheduled lane's wait is met (R44). -/
def execSchedulerWaitSatisfied (core : BitVec 9) (slot : BitVec 6) (lane : BitVec 5) (s : State) : Res :=
  match s.unit with
  | .none =>
    let ck := crewKey core.toNat slot.toNat
    match (s.thread ck lane.toNat).st with
    | .waiting w => .next (if !(s.crew ck).saved && s.waitMet ck lane.toNat w then s.meetWait ck lane.toNat w else s)
    | _ => .next s
  | _ => .next s

/-- The lane that tries its instruction again next. -/
def State.retrier (s : State) : Option (Nat × Nat) :=
  (s.threads.find? fun e => match e.2.st with | .retry _ => true | _ => false).map fun e => (e.1 / 32, e.1 % 32)

/-- What a lane that tries again executes: its instruction, alone. -/
def State.retryTodo (s : State) (ck lane : Nat) : Todo :=
  let t := s.thread ck lane
  let issue := fun (len w : Nat) =>
    Unit_.lanes { core := coreOf ck, pipe := 0, parts := [{ crew := ck, lanes := bitOf lane }], pc := t.pc, len := len, word := w }
  match s.fetchInstr (s.crewView ck) t.pc with
  | .ok (s', w, len, .ok i) => .run i { s' with unit := issue len w }
  | .ok (s', w, len, .error _) => .did (execIllegalInstruction (BitVec.ofNat 32 w) { s' with unit := issue len w })
  | .error _ => .did (execFetchFault { s with unit := issue 4 0 })

/-- After a lane has tried its instruction again: where it has completed it, it waits for the others of its quad that have not (R253). -/
def State.retried (s : State) (ck lane : Nat) (pc : DWord) : State :=
  let s := { s with unit := .none }
  if (mfind s.crews ck).isNone then s
  else
    match (s.thread ck lane).st with
    | .retry w => (s.modThread ck lane fun t => { t with st := .ofCode w }).leaveBundle ck lane
    | .waiting _ => s
    | _ => (s.leaveBundle ck lane).joinPeers ck lane pc.toNat

/-! ## Pre-emption, deadlock and time -/

/-- Whether a lane has stopped for a save (R40, R42). -/
def Thread.settled (t : Thread) : Bool :=
  match t.st with
  | .safept _ _ _ | .stopped | .parked _ | .standing | .exited | .helper => true
  | .waiting w => w.kind.visible && w.was == 0
  | _ => false

/-- Whether a crew's save may begin (R40): a pre-emption of its group is pending, every lane has stopped, and nothing issued has still to
write its result. -/
def State.crewStopped (s : State) (ck : Nat) : Bool :=
  let c := s.crew ck
  !c.saved && (s.group c.group).preempt != .none && lanes32.all fun l => (s.thread ck l).settled

/-- Whether a crew has to perform a forced save (R42). -/
def State.mustForce (s : State) (ck : Nat) : Bool :=
  let c := s.crew ck
  !c.saved && !c.forced && (s.group c.group).preempt != .none
    && lanes32.any fun l => (s.thread ck l).st == .run && (s.thread ck l).safeCount == 2048

/-- A crew with a counter at 2,048 while a pre-emption is pending performs a forced save: each running lane stops after its next instruction
(R42). -/
def execForcedSave (core : BitVec 9) (slot : BitVec 6) (s : State) : Res :=
  match s.unit with
  | .none =>
    let ck := crewKey core.toNat slot.toNat
    .next (if (mfind s.crews ck).isSome && s.mustForce ck then s.modCrew ck fun c => { c with forced := true } else s)
  | _ => .next s

/-- Whether a crew is deadlocked (R409). -/
def State.deadlocked (s : State) (ck : Nat) : Bool :=
  let live := s.liveLanes ck
  let standing := live.filter fun l => (s.thread ck l).st == .standing
  let stands := fun (l : Nat) => (s.thread ck l).st == .standing
  let parked := fun (l : Nat) => match (s.thread ck l).st with | .parked _ => true | _ => false
  let oneBin := match standing with
    | [] => false
    | x :: _ => live.all fun l => stands l && (s.thread ck l).pc == (s.thread ck x).pc
  let release := (List.range 4).any fun j =>
    let m := mget 0 (s.crew ck).j j
    m != 0 && lanes32.all fun l => !m.getLsbD l || s.parkedOn ck j l
  !live.isEmpty && (live.all fun l => stands l || parked l) && !oneBin && !release && !(s.crew ck).saved

/-- The crew-divergence deadlock of a crew ends its launch (R409). -/
def execCrewDivergenceDeadlock (core : BitVec 9) (slot : BitVec 6) (s : State) : Res :=
  match s.unit with
  | .none =>
    let ck := crewKey core.toNat slot.toNat
    .next (if (mfind s.crews ck).isSome && s.deadlocked ck then s.terminate (s.group (s.crew ck).group).launch 0x116 else s)
  | _ => .next s

/-- Every 256 arith cycles the program time of each resident thread and each running stream rises by 1 (R109). -/
def execProgramTimeTick (s : State) : Res :=
  match s.unit with
  | .none =>
    .next { s with
      threads := mmap s.threads fun _ t => if t.gone then t else { t with time := t.time + 1 }
      clusters := mmap s.clusters fun _ k => match k.stream with
        | .ended => k
        | _ => { k with time := k.time + 1 } }
  | _ => .next s

/-! ## The streams -/

/-- Whether a cluster's stream may issue (R293, R295): it runs or stalls, waits for no line, and no pre-emption stops it. -/
def State.streamIssues (s : State) (cl : Nat) : Bool :=
  !s.streamPreempted cl && !s.agentBlocked (.stream cl) && (s.launch (s.streamLaunch cl)).started
    && match (s.cluster cl).stream with
      | .running | .stalled => true
      | .faulted pte => !s.filling_ (some pte)
      | _ => false

/-- What a cluster's stream executes. -/
def State.streamTodo (s : State) (cl : Nat) : Todo :=
  if !s.streamIssues cl then .nothing
  else
    let pc := (s.cluster cl).pc
    match s.fetchInstr (s.streamAgent cl).view pc with
    | .ok (s', w, _, .ok i) =>
      let s' := s'.modCluster cl fun k => { k with stream := .running }
      .run i { s' with unit := .stream cl pc w }
    | .ok (s', w, _, .error _) => .did (execIllegalInstruction (BitVec.ofNat 32 w) { s' with unit := .stream cl pc w })
    | .error _ => .did (execFetchFault { s with unit := .stream cl pc 0 })

/-! ## The bench command paths -/

/-- What a stack's command path executes in a column cycle that steps a word (R311, R324): the word's instruction, or a word whose slots are
all no-operations. -/
def State.columnTodo (s : State) (stack : Nat) : Todo :=
  if !s.stepsNow stack then .did (.next (s.columnIdle stack))
  else
    let w := (s.stack stack).next
    match decodeWord w with
    | some i => .run i { s with unit := .column stack }
    | none => .did (.next (s.stepWord stack w))

end Sys2Proof.Machine
end

