-- ==== Sys2Proof/Machine/SysRegs.lean ====
section
/-! DEFINITION. System registers (R66 to R73, R221, R294, R395, R396), index registers (R211), sharing groups (R90, R276) and TICKET (R347). -/

namespace Sys2Proof.Machine

/-! ## System registers -/

/-- CREWID (R68). -/
def State.crewId (s : State) (ck : Nat) : Word :=
  let c := s.crew ck
  let g := s.group c.group
  BitVec.ofNat 32 (coreOf ck * 2 ^ 23 + slotOf ck * 2 ^ 17 + c.index * 2 ^ 12 + g.gslot * 2 ^ 7 + g.gangPos * 2 ^ 5
    + if c.spawned then 16 else 0)

/-- LANEID (R69). -/
def State.laneId (s : State) (ck lane : Nat) : Word := BitVec.ofNat 32 ((32 * (s.crew ck).index + lane) * 32 + lane)

/-- The value of a system register in a lane (R66). -/
def State.sysReg (s : State) (c : Ctx) (k : Nat) : DWord :=
  let t := s.thread c.crew c.lane
  let g := s.group c.group
  let cl := s.cluster (clusterOf c.core)
  let w := fun (x : Word) => x.setWidth 64
  match k with
  | 0x00 => feature
  | 0x01 => w g.name
  | 0x02 => w (s.crewId c.crew)
  | 0x03 => w (s.laneId c.crew c.lane)
  | 0x04 => w t.fpstat
  | 0x05 => w t.fpctl
  | 0x06 => t.seed
  | 0x07 => BitVec.ofNat 64 s.clock
  | 0x08 => w g.putErr
  | 0x09 => w cl.mgov
  | 0x0A => w cl.mgovstat
  | 0x10 => w t.tcause
  | 0x11 => t.tpc
  | _ => t.taddr

/-- Whether a stream may read the register (R294). -/
def streamMfs (k : Nat) : Bool := [0x00, 0x04, 0x06, 0x07, 0x09, 0x0A].contains k

/-- MFS (R221, R294). -/
def execMfs (k : BitVec 7) (d : BitVec 6) (n : BitVec 1) (p : BitVec 4) (s : State) : Res :=
  let sh := shapeOf (.mfs k d n p)
  match s.unit with
  | .lanes i =>
    .next (runLanes sh (quietly fun c => do
      let wide := wideSelector k
      let pl ← dst c d.toNat (if wide then 2 else 1)
      let s ← get
      let x := s.sysReg c k.toNat
      if wide then putD c pl x else put c pl x.lo) s i)
  | .stream cl pc _ =>
    if !streamMfs k.toNat then .next (s.streamTrap cl 1)
    else
      .next (streamStep { sh with bad := none } s cl pc fun q => q.setS d.toNat (match k.toNat with
        | 0x00 => feature
        | 0x04 => q.fpstat.setWidth 64
        | 0x06 => q.gen
        | 0x07 => BitVec.ofNat 64 s.clock
        | 0x09 => q.mgov.setWidth 64
        | _ => q.mgovstat.setWidth 64))
  | _ => .next s

/-- FPCTL after a write: an RM of 5 to 7 leaves RM, and reserved bits stay zero (R71). -/
def fpctlWrite (old x : Word) : Word :=
  let x := x &&& 0x3FC7#32
  if 5 ≤ natBits x.toNat 0 3 then (x &&& ~~~7#32) ||| (old &&& 7#32) else x

/-- MTS (R221, R294). -/
def execMts (k : BitVec 7) (a : BitVec 6) (n : BitVec 1) (p : BitVec 4) (s : State) : Res :=
  let sh := shapeOf (.mts k a n p)
  match s.unit with
  | .lanes i =>
    .next (runLanes sh (quietly fun c => do
      if k = 6 then do
        let x ← srcD c a.toNat
        modMe c fun t => { t with seed := x }
      else do
        let x ← src c a.toNat
        modMe c fun t => if k = 4 then { t with fpstat := x &&& 0x3F } else { t with fpctl := fpctlWrite t.fpctl x }) s i)
  | .stream cl pc _ =>
    if k ≠ 4 ∧ k ≠ 6 then .next (s.streamTrap cl 1)
    else
      .next (streamStep { sh with bad := none } s cl pc fun q =>
        let x := q.sreg a.toNat
        if k = 4 then { q with fpstat := x.lo &&& 0x3F } else { q with gen := x })
  | _ => .next s

/-! ## Index registers -/

/-- The image of R53. -/
def IndexReg.image (x : IndexReg) : DWord :=
  BitVec.ofNat 64 (x.base.toNat + 2 ^ 11 * x.bound.toNat + 2 ^ 23 * x.cursor.toNat + 2 ^ 35 * x.step.toNat + 2 ^ 39 * x.mode.toNat)

/-- The register of an image (R53). -/
def IndexReg.ofImage (x : DWord) : IndexReg where
  base := x.extractLsb' 0 11
  bound := x.extractLsb' 11 12
  cursor := x.extractLsb' 23 12
  step := x.extractLsb' 35 4
  mode := x.extractLsb' 39 2

def setX (c : Ctx) (i : Nat) (f : IndexReg → IndexReg) : LaneM Unit := modMe c fun t => { t with x := mset t.x i (f (t.xreg i)) }

/-- XSET (R211). -/
def execXset (l : BitVec 4) (a : BitVec 6) (x : BitVec 3) (n : BitVec 1) (p : BitVec 4) (s : State) : Res :=
  onThreads (shapeOf (.xset l a x n p))
    (quietly fun c => do
      let y ← srcD c a.toNat
      setX c x.toNat fun _ => .ofImage y) s

/-- XGET (R211). -/
def execXget (l : BitVec 4) (x : BitVec 3) (d : BitVec 6) (n : BitVec 1) (p : BitVec 4) (s : State) : Res :=
  onThreads (shapeOf (.xget l x d n p))
    (quietly fun c => do
      let t ← me c
      let pl ← dst c d.toNat 2
      putD c pl (t.xreg x.toNat).image) s

/-- The cursor moved by n steps (R211). -/
def IndexReg.moved (x : IndexReg) (n : Int) : IndexReg :=
  let c : Int := x.cursor.toNat + x.step.toInt * n
  if x.mode = 0 ∨ x.mode = 1 then { x with cursor := BitVec.ofInt 12 c }
  else if x.mode = 2 ∧ x.bound ≠ 0 then { x with cursor := BitVec.ofInt 12 (c % x.bound.toNat) }
  else x

/-- XSTEP (R211). -/
def execXstep (l : BitVec 4) (a : BitVec 6) (x : BitVec 3) (n : BitVec 1) (p : BitVec 4) (s : State) : Res :=
  onThreads (shapeOf (.xstep l a x n p))
    (quietly fun c => do
      let y ← src c a.toNat
      setX c x.toNat fun r => r.moved y.toInt) s

/-- XCUR (R211). -/
def execXcur (l : BitVec 4) (a : BitVec 6) (x : BitVec 3) (n : BitVec 1) (p : BitVec 4) (s : State) : Res :=
  onThreads (shapeOf (.xcur l a x n p))
    (quietly fun c => do
      let y ← src c a.toNat
      setX c x.toNat fun r => { r with cursor := y.extractLsb' 0 12 }) s

/-! ## Sharing groups -/

/-- The members of a sharing group. -/
def State.members (s : State) (key : Nat × Nat) : List Nat := ((s.sharing.find? (·.1 == key)).map (·.2)).getD []

/-- The key of a sharing group of the lane's context. -/
def shareKey (c : Ctx) (k : Word) : LaneM (Nat × Nat) := do
  let v ← myView c
  pure (v.ctx, k.toNat)

/-- SJOIN (R90, R276). -/
def execSjoin (l : BitVec 4) (a : BitVec 6) (n : BitVec 1) (p : BitVec 4) (s : State) : Res :=
  onThreads (shapeOf (.sjoin l a n p))
    (quietly fun c => do
      let k ← src c a.toNat
      if c.helper then pure ()
      else do
        let key ← shareKey c k
        let s ← get
        let m := s.members key
        if m.contains c.group then pure ()
        else if m.isEmpty then
          if 256 ≤ s.sharing.length then trap 0x15 1 0 0
          else modState fun s => { s with sharing := s.sharing ++ [(key, [c.group])] }
        else if 32 ≤ m.length then trap 0x15 2 0 0
        else modState fun s => { s with sharing := s.sharing.map fun e => if e.1 = key then (e.1, e.2 ++ [c.group]) else e }) s

/-- SLEAVE (R91, R276). -/
def execSleave (l : BitVec 4) (a : BitVec 6) (n : BitVec 1) (p : BitVec 4) (s : State) : Res :=
  onThreads (shapeOf (.sleave l a n p))
    (quietly fun c => do
      let k ← src c a.toNat
      if c.helper then pure ()
      else do
        let key ← shareKey c k
        modState fun s => s.leaveSharing c.group (some key)) s

/-- SMAP: the slot maps window 0 of a fellow member, named by its GNAME (R90, R276). -/
def execSmap (l a : BitVec 4) (t : BitVec 6) (n : BitVec 1) (p : BitVec 4) (s : State) : Res :=
  onThreads (shapeOf (.smap l a t n p))
    (quietly fun c => do
      let x ← namedPair c (2 * a.toNat)
      if c.helper then pure ()
      else do
        let key ← shareKey c x.lo
        let s ← get
        let idx := natBits x.hi.toNat 8 14
        let m := s.members key
        if !m.contains c.group || !m.contains idx || (s.group idx).name != x.hi then trap 0x15 3 0 0
        modState fun s => s.modGroup c.group fun g => { g with slots := mset g.slots t.toNat idx }) s

/-! ## TICKET -/

/-- TICKET: claims the next entry of a queue's ticket record; only a firmware crew may (R347). -/
def execTicket (a : BitVec 4) (d : BitVec 6) (n : BitVec 1) (p : BitVec 4) (s : State) : Res :=
  onThreads (shapeOf (.ticket a d n p))
    (quietly fun c => do
      if slotOf c.crew ≠ 63 ∧ !c.helper then trap 3 1 0 0
      let va ← namedPair c (2 * a.toNat)
      let pl ← dst c d.toNat 2
      if c.helper then putD c pl 0
      else do
        let g ← once c do
          let (pa, k) ← access c va (.atomic 8)
          owned pa va
          gotOp c va pa k (.ticket (pa % 128)) 0 false
        clean g.pa g.result
        let next := g.result.val % 2 ^ 32
        putD c pl (BitVec.ofNat 64 (if ticketOpen g.result.val then next else next + 0xFFFFFFFF * 2 ^ 32))) s

end Sys2Proof.Machine
end

