-- ==== Sys2Proof/Machine/Place.lean ====
section
/-! DEFINITION. Placement (R348 to R351): where a unit fits, how a group and a gang are formed (R20 to R22, R59 to R63, R67, R72, R85, R159),
and the pass over pending units. -/

namespace Sys2Proof.Machine

/-! ## The shape of a launch's groups (R344) -/

/-- Threads of a group: the product of SHAPE's dimensions (R22). -/
def Launch.threads (l : Launch) : Nat := l.f 48 2 * l.f 50 2 * l.f 52 2

/-- Crews of a launched group (R22). -/
def Launch.crews (l : Launch) : Nat := (l.threads + 31) / 32

/-- GANG (R344). -/
def Launch.gangSize (l : Launch) : Nat := max 1 (l.f 54 1)

/-- Whether a launch's units are gangs that take a tile sequencer (R349). -/
def Launch.sequenced (l : Launch) : Bool := decide (1 < l.gangSize) || l.f 24 8 != 0

/-- Bytes of window 0, and of window 1 (R85, R344). -/
def Launch.win0 (l : Launch) : Nat := 65536 * l.f 64 2
def Launch.win1 (l : Launch) : Nat :=
  max (65536 * l.f 66 2) ((l.chutes.foldl (fun n c => n + c.2.1 * c.2.2) 0 + 65535) / 65536 * 65536)

/-- The definitions that firmware makes of declared chutes (R278): SIDE 0, one after the other from offset 0 of window 1. -/
def chuteDefs : List (Nat × Nat × Nat) → (off : Nat) → Map Chute
  | [], _ => []
  | (n, depth, entry) :: r, off =>
    let image := off + 2 ^ 24 * Nat.log2 depth + 2 ^ 32 * (entry / 128 % 256)
    mset (chuteDefs r (off + depth * entry)) n { image := BitVec.ofNat 64 image }

/-- Whether CLMASK admits a cluster (R344). -/
def Launch.admits (l : Launch) (cluster : Nat) : Bool := l.f 112 10 == 0 || natBits (l.f 112 10) cluster 1 == 1

/-- Register storage of some crews, in KiB (R62). -/
def storageKiB (n a crews : Nat) : Nat := crews * ((n + 16 + a) / 8)

/-! ## What is free (R21, R349) -/

/-- The groups resident on a core. -/
def State.onCore (s : State) (core : Nat) : List Group :=
  (s.groups.filter fun e => e.2.present && e.2.core == core).map (·.2)

/-- Free register storage of a core, in KiB (R62). -/
def State.freeStorage (s : State) (core : Nat) : Nat := 768 - (s.onCore core).foldl (fun n g => n + storageKiB g.nregs g.asize g.crews) 0

/-- Free program crew slots of a core (R21). -/
def State.freeSlots (s : State) (core : Nat) : Nat := 63 - (s.onCore core).foldl (fun n g => n + g.crews) 0

/-- The agents at work: armed engine operations, bench launches, open windows and the writers of closed ones. -/
def State.agents (s : State) : List Agent :=
  (s.clusters.flatMap fun e => e.2.armed.map fun a => a.2.agent)
    ++ (s.benchLaunches.filter fun e => e.2.live).map (fun e => e.2.agent)
    ++ (s.windows.filter fun e => e.2.open_).map (fun e => e.2.agent) ++ s.writers.map fun w => w.2.agent

/-- The parts of an agent's windows 0 and 1 in a slice's staging, as offset and length. -/
def Agent.staging (a : Agent) (slice : Nat) : List (Nat × Nat) :=
  let (s0, o0, n0) := a.win0
  let (cl, n1, offs) := a.win1
  (if s0 = slice ∧ n0 ≠ 0 then [(o0, n0)] else []) ++ if cl = slice / 4 ∧ n1 ≠ 0 then [(offs.getD (slice % 4) 0, n1 / 4)] else []

/-- The staging allocations of a slice as offset and length: the firmware area, windows 0, and quarters of gang windows (R84, R85); a window that a
retired group's agent still uses is not granted again (R117, R285). -/
def State.stagingUsed (s : State) (slice : Nat) : List (Nat × Nat) :=
  (if slice = 0 then [(0, 65536)] else [])
    ++ (s.groups.filter fun e => e.2.win0Slice == slice && e.2.win0Size != 0).map (fun e => (e.2.win0Off, e.2.win0Size))
    ++ (s.gangs.filter fun e => e.2.win1Cluster == slice / 4 && e.2.win1Size != 0).map
      (fun e => (e.2.win1Off.getD (slice % 4) 0, e.2.win1Size / 4))
    ++ s.agents.flatMap fun a => a.staging slice

/-- The least offset at which `size` bytes lie free below a limit: an allocation's place in its slice's staging, which R85 leaves open (DESIGN CHOICE,
notes/assumptions/134.md). -/
def firstFit (limit size : Nat) (used : List (Nat × Nat)) : Option Nat :=
  let ok := fun (c : Nat) => decide (c + size ≤ limit) && used.all fun u => decide (c + size ≤ u.1 ∨ u.1 + u.2 ≤ c)
  let cs := (0 :: used.map fun u => u.1 + u.2).filter ok
  if size = 0 then some 0
  else match cs with
    | [] => none
    | c :: r => some (r.foldl min c)

/-- Free staging of a slice for `size` bytes beside further allocations (R83, R85). -/
def State.freeStaging (s : State) (slice size : Nat) (also : List (Nat × Nat)) : Option Nat :=
  firstFit (mget 0 s.stage slice * 0x40000) size (s.stagingUsed slice ++ also)

/-- Whether a core has the slots and storage for a group (R349). -/
def State.coreRoom (s : State) (core n a crews : Nat) : Bool :=
  decide ((s.onCore core).length < 32) && decide (crews ≤ s.freeSlots core) && decide (storageKiB n a crews ≤ s.freeStorage core)

/-- Whether a core fits a group with a window 0 to be granted (R349). -/
def State.coreFits (s : State) (core n a crews win0 : Nat) : Bool :=
  s.coreRoom core n a crews && (s.freeStaging core win0 []).isSome

/-- The offsets of window 0 in the slices of some cores of a cluster, and of window 1 in its four slices (R85, R349). -/
def State.grant (s : State) (cluster : Nat) (cores : List Nat) (win0 win1 : Nat) : Option (List Nat × List Nat) :=
  match cores.mapM fun c => s.freeStaging c win0 [] with
  | none => none
  | some offs =>
    let taken := cores.zip offs
    match (List.range 4).mapM fun n =>
      s.freeStaging (4 * cluster + n) (win1 / 4) ((taken.filter fun t => t.1 == 4 * cluster + n && win0 != 0).map fun t => (t.2, win0)) with
    | none => none
    | some quarters => some (offs, quarters)

/-- Whether a group name is free (R67). -/
def State.nameFree (s : State) (n : Nat) : Bool := decide (n ≤ 16384 - s.nextName + s.freed.length)

/-! ## Formation -/

/-- The name index that has been free longest: never used ones first, in ascending order (R67). -/
def State.takeName (s : State) : Nat × State :=
  if s.nextName < 16384 then (s.nextName, { s with nextName := s.nextName + 1 })
  else match s.freed with
    | i :: r => (i, { s with freed := r })
    | [] => (0, s)

/-- A group's name: PKG, INDEX and GEN (R67). -/
def groupName (pkg index gen : Nat) : Word := BitVec.ofNat 32 (pkg * 2 ^ 22 + index * 2 ^ 8 + gen * 2 ^ 2)

/-- The free crew slots of a core, lowest first. -/
def State.slotList (s : State) (core : Nat) : List Nat := (List.range 63).filter fun n => (mfind s.crews (crewKey core n)).isNone

/-- A thread at formation (R22, R24, R38, R60, R63, R72): `index` is its number in the group. -/
def newThread (l : Launch) (group : Word) (index : Nat) (r : Option SpawnRec) (helper : Bool) : Thread where
  pc := match r with
    | some r => r.pc
    | none => BitVec.ofNat 64 (l.f 16 8)
  v := match r with
    | some r => [(0, r.a0), (1, r.a1), (2, r.a2), (3, r.a3)]
    | none => []
  c := if l.f 88 8 = 0 then [] else [(0, l.rootcap)]
  seed := BitVec.ofNat 64 (l.f 72 8) ^^^ (BitVec.ofNat 64 (1024 * group.toNat) + BitVec.ofNat 64 index)
  time := match r with
    | some r => r.time
    | none => l.time
  st := if helper then .helper else .run

/-- The crew-uniform registers at formation (R59). -/
def newK (l : Launch) (group : Word) (crew gangPos : Nat) : Map Word :=
  let args := l.f 32 8
  [(0, BitVec.ofNat 32 args), (1, BitVec.ofNat 32 (args / 2 ^ 32)), (2, group), (3, BitVec.ofNat 32 crew), (4, BitVec.ofNat 32 gangPos)]

/-- Zero a granted allocation: its words are zero and empty and its lines present (R85). -/
def State.zeroStaging (s : State) (pa n : Nat) : State :=
  let s := s.zeroBlock pa n
  { s with full := mkeep s.full fun k _ => decide (4 * k < pa ∨ pa + n ≤ 4 * k)
           filling := mkeep s.filling fun k _ => decide (128 * k < pa ∨ pa + n ≤ 128 * k) }

/-- Form crew `k` of a group in a slot (R20, R22, R59). -/
def State.formCrew (s : State) (l : Launch) (g : Group) (gk k slot : Nat) : State :=
  let ck := crewKey g.core slot
  let s := { s with remains := mdel s.remains ck }.setCrew ck
    { group := gk, index := k, k := newK l g.index k g.gangPos, spawned := g.gang.isNone }
  lanes32.foldl (fun (s : State) (lane : Nat) =>
    let i := 32 * k + lane
    s.setThread ck lane (newThread l g.index i (g.records[i]?) (decide (g.threads ≤ i)))) s

/-- Form a group on a core (R20, R63, R67, R85): its name, its window 0, its crews. -/
def State.formGroup (s : State) (lk core off0 : Nat) (index : Word) (gang : Option Nat) (gangPos : Nat) (records : List SpawnRec)
    (kills : Nat) : Nat × State :=
  let l := s.launch lk
  let (gk, s) := s.takeName
  let gen := (mget 0 s.gens gk + 1) % 64
  let threads := if gang.isSome then l.threads else records.length
  let crews := if gang.isSome then l.crews else 1
  let slots := (s.slotList core).take crews
  let used := (s.onCore core).map (·.gslot)
  let g : Group := {
    name := groupName s.pkgId gk gen, core := core
    gslot := ((List.range 32).find? fun n => !used.contains n).getD 0
    launch := lk, index := index, nregs := l.f 55 1, asize := l.f 56 2, threads := threads, crews := crews, serial := l.serial
    gang := gang, gangPos := gangPos, win0Slice := core, win0Off := off0, win0Size := l.win0, records := records, kills := kills }
  let s := { s with gens := mset s.gens gk gen, groups := mset s.groups gk g }
  let s := (s.zeroStaging (stagingAt core off0) l.win0).modLaunch lk fun l => { l with serial := l.serial + crews }
  (gk, (List.range crews).foldl (fun (s : State) (k : Nat) => s.formCrew l g gk k (slots.getD k 0)) s)

/-- A gang takes its cluster's tile sequencer (R61, R159, R293). -/
def State.formStream (s : State) (lk gang cluster index : Nat) : State :=
  let l := s.launch lk
  let tile := l.f 24 8
  s.modCluster cluster fun k => { k with
    gang := some gang, s := [(0, BitVec.ofNat 64 (l.f 32 8)), (1, BitVec.ofNat 64 index)], accs := [], accType := [], accPoison := []
    handles := [], nz := false, pc := BitVec.ofNat 64 tile, stream := if tile = 0 then .ended else .running, fpstat := 0
    gen := BitVec.ofNat 64 (l.f 72 8) ^^^ BitVec.ofNat 64 (2 ^ 32 * (1 + index)), time := l.time, opbuf := [], opPoison := [], queue := []
    fills := [] }

/-- Form a gang of the groups from `first` on the cores given (R20, R85). -/
def State.formGang (s : State) (lk first : Nat) (cluster : Nat) (cores offs quarters : List Nat) : State :=
  let l := s.launch lk
  let gang := s.nextGang
  let index := first / l.gangSize
  let s := { s with
    nextGang := gang + 1
    gangs := mset s.gangs gang
      { launch := lk, index := index, cluster := cluster, groups := [], tile := l.sequenced, win1Size := l.win1, win1Cluster := cluster
        win1Off := quarters, chutes := chuteDefs l.chutes 0 } }
  let s := quarters.zipIdx.foldl (fun (s : State) (q : Nat × Nat) => s.zeroStaging (stagingAt (4 * cluster + q.2) q.1) (l.win1 / 4)) s
  let (names, s) := (cores.zip offs).zipIdx.foldl (fun (acc : List Nat × State) (x : (Nat × Nat) × Nat) =>
    let (gk, s) := acc.2.formGroup lk x.1.1 x.1.2 (BitVec.ofNat 32 (first + x.2)) (some gang) x.2 [] 0
    (acc.1 ++ [gk], s)) ([], s)
  let s := s.modGang gang fun g => { g with groups := names }
  if l.sequenced then s.formStream lk gang cluster index else s

/-! ## Placing a unit (R349, R350) -/

/-- Whether placing avoids a cluster, the barred one (R351). -/
def avoids (bar : Option Nat) (cluster : Nat) : Bool := bar != some cluster

/-- The fitting core with the most free crew slots, then the lowest id (R350). -/
def State.bestCore (s : State) (cores : List Nat) : Option Nat :=
  cores.foldl (fun (b : Option Nat) (c : Nat) =>
    match b with
    | none => some c
    | some x => if s.freeSlots x < s.freeSlots c then some c else b) none

/-- The fitting cluster with the least total free register storage, then the lowest id (R350). -/
def State.bestCluster (s : State) (clusters : List Nat) : Option Nat :=
  let free := fun (c : Nat) => (List.range 4).foldl (fun n i => n + s.freeStorage (4 * c + i)) 0
  clusters.foldl (fun (b : Option Nat) (c : Nat) =>
    match b with
    | none => some c
    | some x => if free c < free x then some c else b) none

/-- The shape of a unit's groups: registers, array words and crews of each group. -/
def State.unitShape (s : State) (u : PUnit) : List (Nat × Nat × Nat) :=
  let l := s.launch u.launch
  match u.savedGang with
  | some k => (s.gang k).groups.filterMap fun g =>
    ((mfind s.groups g).filter fun x => x.gang == some k).map fun x => (x.nregs, x.asize, x.crews)
  | none =>
    match u.savedGroup with
    | some g => [((s.group g).nregs, (s.group g).asize, (s.group g).crews)]
    | none => if u.first = 2 ^ 32 then [(l.f 55 1, l.f 56 2, 1)] else List.replicate u.count (l.f 55 1, l.f 56 2, l.crews)

/-- Whether a unit is resumed from the save area: its windows are granted already (R85). -/
def PUnit.saved (u : PUnit) : Bool := u.savedGang.isSome || u.savedGroup.isSome

/-- The cores of a cluster that take a unit's groups in order: the lowest-numbered that fit (R349). -/
def State.gangCores (s : State) (cluster : Nat) (shapes : List (Nat × Nat × Nat)) (win0 : Nat) : Option (List Nat) :=
  let (got, rest) := (List.range 4).foldl (fun (acc : List Nat × List (Nat × Nat × Nat)) (i : Nat) =>
    match acc.2 with
    | [] => acc
    | (n, a, k) :: r => if s.coreFits (4 * cluster + i) n a k win0 then (acc.1 ++ [4 * cluster + i], r) else acc) ([], shapes)
  if rest.isEmpty then some got else none

/-- Where a unit fits (R349, R350): its cluster, its cores, and the staging granted. -/
def State.fits (s : State) (u : PUnit) (bar : Option Nat) : Option (Nat × List Nat × List Nat × List Nat) :=
  let l := s.launch u.launch
  let shapes := s.unitShape u
  let win0 := if u.saved then 0 else l.win0
  let win1 := if u.saved || u.first = 2 ^ 32 then 0 else l.win1
  if !u.saved && !s.nameFree shapes.length then none
  else if l.sequenced && u.first ≠ 2 ^ 32 && u.savedGroup.isNone then
    let ok := (List.range 80).filter fun c => l.admits c && avoids bar c && (s.cluster c).gang.isNone
      && (match s.gangCores c shapes win0 with
        | some cores => (s.grant c cores win0 win1).isSome
        | none => false)
    match s.bestCluster ok with
    | none => none
    | some c =>
      match s.gangCores c shapes win0 with
      | none => none
      | some cores => (s.grant c cores win0 win1).map fun g => (c, cores, g.1, g.2)
  else
    match shapes with
    | [] => none
    | (n, a, k) :: _ =>
      let ok := (List.range 320).filter fun c => l.admits (c / 4) && avoids bar (c / 4) && s.coreFits c n a k win0
        && (s.grant (c / 4) [c] win0 win1).isSome
      match s.bestCore ok with
      | none => none
      | some c => (s.grant (c / 4) [c] win0 win1).map fun g => (c / 4, [c], g.1, g.2)

/-! ## Resuming from a saved image (R43, R413, R453) -/

/-- The lane state that an image's record gives: a descheduled lane other than at a barrier issues its instruction again, and re-enters its
wait. -/
def imageState (b : List Byte) (inst : Nat) : LaneState :=
  match field b 8 1 with
  | 2 => .parked (BitVec.ofNat 2 (field b 9 1))
  | 3 => .standing
  | 4 =>
    match field b 10 1 with
    | 5 => .waiting { kind := .bar, key := inst, addr := BitVec.ofNat 64 (field b 16 8) }
    | 6 => .waiting { kind := .gbar, key := inst, addr := BitVec.ofNat 64 (field b 16 8) }
    | _ => .run
  | 5 => .exited
  | 6 => .helper
  | _ => .run

/-- A count whose low 16 bits an image holds, nearest at or above a floor. -/
def widen (floor low : Nat) : Nat := floor + (low + 65536 - floor % 65536) % 65536

/-- Words of an image as a map, zero words unlisted. -/
def imageWords (b : List Byte) (off n : Nat) : Map Word :=
  ((List.range n).map fun i => (i, BitVec.ofNat 32 (field b (off + 4 * i) 4))).filter fun e => e.2 != 0

/-- A thread from its record in an image (R453); `barInst` and `gbarInst` are the instances that have departed, and `tags` the tags of c0-c7 as they
were saved, which the image can only clear (R60, R412; notes/assumptions/141.md). -/
def threadOf (b : List Byte) (asize barInst gbarInst time tags : Nat) (puts : Map Nat) : Thread :=
  let bar := widen barInst (field b 24 2)
  let gbar := widen gbarInst (field b 26 2)
  let waits := field b 8 1 == 4 && (field b 10 1 == 5 || field b 10 1 == 6)
  let d := fun (off : Nat) => BitVec.ofNat 64 (field b off 8)
  let w := fun (off : Nat) => BitVec.ofNat 32 (field b off 4)
  { v := imageWords b 384 32
    hold := w 12
    q := (List.range 16).map fun i => w (320 + 4 * i)
    arr := imageWords b 512 asize
    x := (List.range 8).map fun i => (i, IndexReg.ofImage (d (64 + 8 * i)))
    c := (List.range 8).map fun i => (i, { bits := BitVec.ofNat 128 (field b (128 + 16 * i) 16), tag := natBits (field b 256 1 &&& tags) i 1 == 1 })
    fpstat := w 28, fpctl := w 32, tcause := w 36, seed := d 40, tpc := d 48, taddr := d 56
    pc := if waits then d 0 + 4 else d 0
    st := imageState b (if field b 10 1 == 5 then bar else gbar)
    barCount := bar, gbarCount := gbar, time := time, puts := puts }

/-- Crew `k` of a group returns from the group's image into a slot (R43). -/
def State.restoreCrew (s : State) (gk k slot : Nat) : State :=
  let g := s.group gk
  let sec := s.saveArea + g.image + 256 + k * (256 + 32 * (512 + 4 * g.asize))
  let h := s.peek sec 256
  let ck := crewKey g.core slot
  let gbar := (s.gang (g.gang.getD 0)).gbarInst
  let crew : Crew := {
    group := gk, index := field h 192 1, p := imageWords h 0 12, j := imageWords h 48 4, k := imageWords h 64 32
    spawned := g.gang.isNone }
  lanes32.foldl (fun (s : State) (lane : Nat) =>
    let n := 512 + 4 * g.asize
    let b := s.peek (sec + 256 + lane * n) n
    let i := 32 * k + lane
    let puts := (g.savedPuts.filter fun e => e.1 / 32 == i).map fun e => (e.1 % 32, e.2)
    s.setThread ck lane (threadOf b g.asize g.barInst (if g.gang.isNone then 0 else gbar) (g.savedTimes.getD i 0) (g.savedTags.getD i 0) puts))
    ({ s with remains := mdel s.remains ck }.setCrew ck crew)

/-- The directory's entry for a name index (R452). -/
def State.directory (s : State) (gk : Nat) (state : Nat) : State :=
  let g := s.group gk
  s.fwWrite (s.saveArea + 16 * gk) (leBytes g.name.toNat 4 ++ leBytes state 1 ++ leBytes 0 3 ++ leBytes g.image 8)

/-- Before a group resumes on another core, its PRIVATE lines go from the slice that holds them to their homes (R142). -/
def State.privateHome (s : State) (gk : Nat) : State :=
  (s.copies.filter fun e => e.2.owner == some gk).foldl (fun (s : State) e => s.evictOwn (e.1 / 2 ^ 45) (e.1 % 2 ^ 45)) s

/-- A saved group resumes on a core (R43). -/
def State.restoreGroup (s : State) (gk core : Nat) : State :=
  let g := s.group gk
  let s := if core = g.core then s else s.privateHome gk
  let slots := (s.slotList core).take g.crews
  let used := (s.onCore core).map (·.gslot)
  let puterr := BitVec.ofNat 32 (s.peekNat (s.saveArea + g.image + 32) 4)
  let s := s.modGroup gk fun g => { g with
    core := core, gslot := ((List.range 32).find? fun n => !used.contains n).getD 0, place := .resident, preempt := .none, forced := false
    putErr := puterr }
  let s := (List.range g.crews).foldl (fun (s : State) (k : Nat) => s.restoreCrew gk k (slots.getD k 0)) s
  (s.directory gk 0).modGroup gk fun g => { g with savedTimes := [], savedTags := [], savedPuts := [], savedWaits := [], image := 0 }

/-- A slot's state from its byte in an image (R453). -/
def slotOf_ (x : Nat) : SlotState := match x with
  | 0 => .empty
  | 1 => .ready
  | n => .filling (n - 2)

/-- A stream returns from its image (R295, R453) to a cluster. -/
def State.restoreStream (s : State) (gang cluster : Nat) (g : Gang) : State :=
  let a := s.saveArea + g.image
  let time := g.streamTime
  let m := s.flat a 2424832
  let h := m.read a 4096
  let d := fun (off : Nat) => BitVec.ofNat 64 (field h off 8)
  let states := m.read (a + 4096) 32768
  let handles : Map Handle := (List.range 16).filterMap fun i =>
    let b := (h.drop (168 + 64 * i)).take 64
    if field b 34 1 = 1 then none
    else some (i, {
      record := b.take 32, cur := field b 32 2
      slots := ((List.range 2048).map fun n => (n, slotOf_ (field states (2048 * i + n) 1))).filter fun e => e.2 != .empty })
  let fills : List Fill := (List.range (min 64 g.fillEntries.length)).map fun i =>
    let b := (h.drop (1192 + 16 * i)).take 16
    let tile := field b 0 8
    let mchin := field b 12 1 == 1
    { handle := field b 10 1, slot := field b 8 2, tile := if mchin then 0 else tile, progress := field b 11 1
      entry := if mchin then (g.fillEntries.getD i none) else none, time := time, order := s.stamp + i }
  let more := g.moreFills.zipIdx.map fun x => { x.1 with order := s.stamp + 128 + x.2 }
  let queue : List MatOp := (List.range 8).filterMap fun i =>
    let b := (h.drop (2216 + 24 * i)).take 24
    if field b 4 1 ≠ 1 then none
    else
      match decode32 (field b 0 4) with
      | .ok ins => some { instr := ins, word := field b 0 4, s0 := BitVec.ofNat 64 (field b 8 8), s1 := BitVec.ofNat 64 (field b 16 8)
                          entry := g.queueEntries.getD i none, time := time, order := s.stamp + 64 + i }
      | .error _ => none
  let codes := (List.range 8).map fun i => (i, match field h (160 + i) 1 with
    | 1 => AccType.fp32
    | 2 => .int32
    | 3 => .fp64
    | _ => .zero)
  let accs : Map (List Word) := (List.range 8).filterMap fun i =>
    if field h (160 + i) 1 = 0 then none
    else
      let b := m.read (a + 65536 + 32768 * i) 32768
      some (i, (List.range 8192).map fun n => BitVec.ofNat 32 (field b (4 * n) 4))
  let buf : Memory := (memBelow (memFrom m.mem (a + 327680)) (a + 2424832)).map fun e => (e.1 - (a + 327680), e.2)
  let accPoison := (List.range 8).map fun i => (i, (List.range 2048).flatMap fun n =>
    if mget false m.poison ((a + 65536 + 32768 * i) / 16 + n) then [4 * n, 4 * n + 1, 4 * n + 2, 4 * n + 3] else [])
  let base := a + 327680
  let opPoison := (m.poison.filter fun e => e.2 && decide (base ≤ 16 * e.1 ∧ 16 * e.1 < base + 2097152)).flatMap fun e =>
    (List.range 16).map fun i => 16 * e.1 - base + i
  let s := { s with stamp := s.stamp + 128 + more.length }
  s.modCluster cluster fun k => { k with
    gang := some gang, s := ((List.range 16).map fun i => (i, d (32 + 8 * i))), accs := accs, accType := codes
    accPoison := accPoison.filter fun e => !e.2.isEmpty
    handles := handles, nz := field h 8 1 == 1, pc := d 0, stream := if d 0 = 0 then .ended else .running
    fpstat := BitVec.ofNat 32 (field h 16 4), gen := d 24, time := time, opbuf := buf, opPoison := opPoison, queue := queue, fills := fills ++ more }

/-- A saved gang resumes on the cores given (R43). -/
def State.restoreGang (s : State) (gang cluster : Nat) (cores : List Nat) : State :=
  let g := s.gang gang
  let s := s.modGang gang fun g => { g with
    cluster := cluster, saved := false, held := false, preempt := false, tileSaved := false, image := 0, streamTime := 0
    fillEntries := [], queueEntries := [], moreFills := [] }
  let live := g.groups.filter fun k => (mfind s.groups k).any fun x => x.gang == some gang
  let s := (live.zip cores).foldl (fun (s : State) (x : Nat × Nat) => s.restoreGroup x.1 x.2) s
  if g.tile then s.restoreStream gang cluster g else s

/-! ## The pass -/

/-- Place a unit where it fits (R350). -/
def State.placeAt (s : State) (u : PUnit) (at_ : Nat × List Nat × List Nat × List Nat) : State :=
  let (cluster, cores, offs, quarters) := at_
  match u.savedGang with
  | some k => s.restoreGang k cluster cores
  | none =>
    match u.savedGroup with
    | some g => s.restoreGroup g (cores.headD 0)
    | none =>
      if u.first = 2 ^ 32 then
        (s.formGroup u.launch (cores.headD 0) (offs.headD 0) 0xFFFFFFFF none 0 u.spawn u.kills).2
      else s.formGang u.launch u.first cluster cores offs quarters

/-- The order of units (R349): priority, then their launches' commits, then group order. -/
def PUnit.before (u v : PUnit) : Bool :=
  decide (v.prio < u.prio ∨ v.prio = u.prio ∧ (u.order < v.order ∨ u.order = v.order ∧ (u.first < v.first ∨ u.first = v.first ∧ u.id ≤ v.id)))

/-- A saved unit, a wait of which has been met, stands before each unit of equal or lower priority that became ready later (R45), and otherwise
at its launch's place (R352). -/
def PUnit.ahead (u v : PUnit) : Bool := u.before v || decide (v.prio ≤ u.prio ∧ u.ready < v.ready)

/-- Put a woken unit into its place among others. -/
def insertUnit (u : PUnit) : List PUnit → List PUnit
  | [] => [u]
  | v :: r => if u.ahead v then u :: v :: r else v :: insertUnit u r

/-- The pending units that may be placed, in order. -/
def State.units (s : State) : List PUnit :=
  let l := s.pending.filter fun u => !u.held && !u.asleep
  (sortBy (fun u v => decide (v.ready ≤ u.ready)) (l.filter (·.woken))).foldl (fun l u => insertUnit u l)
    (sortBy PUnit.before (l.filter fun u => !u.woken))

/-- The storage a core still lacks for a group of the head (R351). -/
def State.lack (s : State) (core need : Nat) : Nat := need - s.freeStorage core

/-- The target cluster of a blocked head (R351). -/
def State.target (s : State) (u : PUnit) : Option Nat :=
  let l := s.launch u.launch
  let shapes := s.unitShape u
  let gang := l.sequenced && u.first ≠ 2 ^ 32 && u.savedGroup.isNone
  let need := match shapes with | (n, a, k) :: _ => storageKiB n a k | [] => 0
  let shortfall := fun (c : Nat) =>
    let cores := sortBy (fun x y => decide (s.freeStorage y ≤ s.freeStorage x)) ((List.range 4).map (4 * c + ·))
    (cores.take (if gang then shapes.length else 1)).foldl (fun n x => n + s.lack x need) 0
  let key := fun (c : Nat) => (if gang && (s.cluster c).gang.isSome then 1 else 0, shortfall c)
  ((List.range 80).filter l.admits).foldl (fun (b : Option Nat) (c : Nat) =>
    match b with
    | none => some c
    | some x => if decide ((key c).1 < (key x).1) || ((key c).1 == (key x).1 && decide ((key c).2 < (key x).2)) then some c else b) none

/-- Take a unit off the pending list; the next of a row of like units takes its place. -/
def State.unpend (s : State) (u : PUnit) : State :=
  let next := u.first + u.count
  { s with
    pending := if next < u.stop then
        s.pending.map fun v => if v.id = u.id then { v with first := next, id := s.stamp, age := 0, bars := false } else v
      else s.pending.filter fun v => v.id ≠ u.id
    stamp := s.stamp + 1 }

/-- Whether a lane is descheduled at a wait that is not met (R44). -/
def State.idleLane (s : State) (ck lane : Nat) : Bool :=
  match (s.thread ck lane).st with
  | .waiting w => w.kind.visible && !s.waitMet ck lane w && !(w.kind == .chtake && (s.threadAcquire (w.key / 32) (w.key % 32)).isSome)
  | _ => false

/-- Whether a group's quads are all descheduled at waits that are not met (R45): in each crew that has a live lane one waits, and the others wait,
are parked or stand. -/
def State.idleGroup (s : State) (gk : Nat) : Bool :=
  let cks := s.crewsOf gk
  !(cks.all s.crewRetired) && cks.all fun ck =>
    s.crewRetired ck || ((lanes32.any fun l => s.idleLane ck l) && lanes32.all fun l =>
      match (s.thread ck l).st with
      | .exited | .helper | .parked _ | .standing => true
      | _ => s.idleLane ck l)

/-- Firmware asks for the save of idle gangs and spawned groups, to free storage for a blocked head (R45, R352). Their groups become pending
again when a wait of theirs is met. -/
def State.saveIdle (s : State) (head : PUnit) : State :=
  let idle := s.groups.filter fun e => e.2.place == .resident && e.2.preempt == .none && s.idleGroup e.1
    && decide ((s.launch e.2.launch).prio ≤ head.prio)
  let still := fun (k : Gang) =>
    !k.tile || ((s.cluster k.cluster).stream == .ended && (s.cluster k.cluster).queue.isEmpty && (s.cluster k.cluster).fills.isEmpty)
  let whole := idle.filter fun e => match e.2.gang with
    | none => true
    | some k => still (s.gang k) && (s.groups.all fun x => x.2.gang != some k || idle.any fun y => y.1 == x.1)
  whole.foldl (fun (s : State) (e : Nat × Group) =>
    let s := s.modGroup e.1 fun g => { g with preempt := .storage }
    match e.2.gang with
    | some k => s.modGang k fun g => { g with preempt := true }
    | none => s) s

/-- Back-fill past a blocked head (R349): units of lower priority, in order, that avoid the barred cluster. -/
def State.backfill (s : State) (prio : Nat) (bar : Option Nat) : (fuel : Nat) → State
  | 0 => s
  | fuel + 1 =>
    match (s.units.filter fun v => decide (v.prio < prio)).findSome? fun v => (s.fits v bar).map fun x => (v, x) with
    | some (v, at_) => ((s.unpend v).placeAt v at_).backfill prio bar fuel
    | none => s

/-- One pass (R349): heads are placed while they fit; a blocked head lets units of lower priority pass. -/
def State.pass (s : State) : (fuel : Nat) → State
  | 0 => s
  | fuel + 1 =>
    match s.units with
    | [] => { s with headUnit := none }
    | u :: _ =>
      match s.fits u none with
      | some at_ => ((s.unpend u).placeAt u at_).pass fuel
      | none =>
        let s := { s with headUnit := some u.id }
        let bar := if u.bars then s.target u else none
        (s.backfill u.prio bar fuel).saveIdle u

/-- Steps enough for a pass: no more than the package's 10,240 group slots can be filled. -/
def passFuel : Nat := 10241

/-- The placement token: a staging word of slice 0's firmware area, full when free (R348; notes/assumptions/24.md). -/
def tokenAt : Nat := stagingAt 0 20480

/-- The token is taken with LDF or returned with STE. -/
def State.setToken (s : State) (free : Bool) : State := ((s.stageEnter tokenAt false 0).2).setFull tokenAt free

/-- An agent takes the token, runs a pass and returns the token (R348, R349); while the token is not free, it waits. -/
def State.tokenPass (s : State) : State :=
  if s.isFull tokenAt then ((s.setToken false).pass passFuel).setToken true else s.later 1 .placementPass

/-- An agent runs a placement pass (R348). -/
def execPlacementPass (s : State) : Res :=
  match s.unit with
  | .none => .next s.tokenPass
  | _ => .next s

/-- Every 16,384 arith cycles with units pending, an agent runs a pass (R348). -/
def execPlacementPassTimer (s : State) : Res :=
  match s.unit with
  | .none => .next (if s.pending.isEmpty then s else s.tokenPass)
  | _ => .next s

/-- The blocked head's age exceeds 2 ms: no unit of lower priority is placed on its target cluster (R351). -/
def execHeadAgeBar (s : State) : Res :=
  match s.unit with
  | .none =>
    .next { s with pending := s.pending.map fun u =>
      if s.headUnit = some u.id && decide (1600000 < u.age) then { u with bars := true } else u }
  | _ => .next s

end Sys2Proof.Machine
end

