-- ==== Sys2Proof/Machine/Save.lean ====
section
/-! DEFINITION. Pre-emption carried out (R40 to R42, R295): the images of R453 and their directory (R452), and the waits of groups that firmware
has saved to free storage (R45). -/

namespace Sys2Proof.Machine

/-! ## Images (R453) -/

/-- The wait kind of a descheduled lane, in the order of R413; a lane that waits to issue afresh with a lane that waits on a register counts
as the latter. -/
def WaitKind.number : WaitKind → Nat
  | .ldf => 1 | .ldfk => 2 | .ste => 3 | .waitv => 4 | .bar => 5 | .gbar => 6 | .spawn => 7 | .heldReg | .peers => 8 | .chtake => 9
  | .eng => 10 | .bench => 11 | .presence => 12 | .pageFill | .remote | .egress | .miss | .entry | .slice => 0

/-- The state byte, parked mask, wait kind and wait address of a lane. -/
def Thread.imageState (t : Thread) : Nat × Nat × Nat × Nat :=
  match t.st with
  | .run | .stopped | .retry _ => (0, 0, 0, 0)
  | .safept _ _ _ => (1, 0, 0, 0)
  | .parked j => (2, j.toNat, 0, 0)
  | .standing => (3, 0, 0, 0)
  | .waiting w =>
    if w.kind = .peers ∧ !w.refile then (0, 0, 0, 0)
    else (4, 0, w.kind.number, if w.kind = .bar ∨ w.kind = .gbar then w.key else w.addr.toNat)
  | .exited => (5, 0, 0, 0)
  | .helper => (6, 0, 0, 0)

/-- Words as bytes. -/
def wordBytes (l : List Word) : List Byte := l.flatMap fun x => leBytes x.toNat 4

/-- The tags of c0-c7, bit n for cn. -/
def Thread.tags (t : Thread) : Nat := ((List.range 8).map fun i => mget ({} : Cap) t.c i).foldr (fun c n => (if c.tag then 1 else 0) + 2 * n) 0

/-- A lane's record: what R41 saves of it; of a forced save, everything. -/
def Thread.record (t : Thread) (asize : Nat) (forced : Bool) : List Byte :=
  let (st, j, kind, addr) := t.imageState
  let (mask, live, arr) := match t.st with
    | .safept m n a => if forced then (0xFFFFFFFF#32, 16, true) else (m, n, a)
    | _ => (0xFFFFFFFF#32, 16, true)
  let pc := if kind = 5 ∨ kind = 6 then t.pc - 4 else t.pc
  let caps := (List.range 8).map fun i => mget ({} : Cap) t.c i
  leBytes pc.toNat 8 ++ leBytes st 1 ++ leBytes j 1 ++ leBytes kind 1 ++ leBytes live 1 ++ leBytes t.hold.toNat 4 ++ leBytes addr 8
    ++ leBytes (t.barCount % 65536) 2 ++ leBytes (t.gbarCount % 65536) 2 ++ leBytes t.fpstat.toNat 4 ++ leBytes t.fpctl.toNat 4
    ++ leBytes t.tcause.toNat 4 ++ leBytes t.seed.toNat 8 ++ leBytes t.tpc.toNat 8 ++ leBytes t.taddr.toNat 8
    ++ ((List.range 8).flatMap fun i => leBytes (t.xreg i).image.toNat 8) ++ (caps.flatMap fun c => leBytes c.bits.toNat 16)
    ++ leBytes t.tags 1 ++ List.replicate 63 0
    ++ wordBytes ((List.range 16).map fun i => if i < live then t.qval (i + 1) else 0)
    ++ wordBytes ((List.range 32).map fun i => if mask.getLsbD i || t.held i then t.reg i else 0)
    ++ wordBytes ((List.range asize).map fun i => if arr then t.word i else 0)

/-- A crew's section: its own registers, then its lanes. -/
def State.crewSection (s : State) (ck : Nat) : List Byte :=
  let c := s.crew ck
  let g := s.group c.group
  let forced := c.forced || g.forced
  wordBytes ((List.range 12).map fun i => mget 0 c.p i) ++ wordBytes ((List.range 4).map fun i => mget 0 c.j i)
    ++ wordBytes ((List.range 32).map fun i => mget 0 c.k i) ++ leBytes c.index 1 ++ leBytes (if forced then 1 else 0) 1
    ++ List.replicate 62 0 ++ (lanes32.flatMap fun l => (s.thread ck l).record g.asize forced)

/-- Bytes of a group's image. -/
def Group.imageSize (g : Group) : Nat := 256 + g.crews * (256 + 32 * (512 + 4 * g.asize))

/-- Bytes of a stream's image. -/
def streamSize : Nat := 2424832

/-- A group's image; `stream` is the offset of its gang's stream image. -/
def State.groupImage (s : State) (gk : Nat) (held : Bool) (stream : Option Nat) : List Byte :=
  let g := s.group gk
  let l := s.launch g.launch
  let byIndex := sortBy (fun a b => decide ((s.crew a).index ≤ (s.crew b).index)) (s.crewsOf gk)
  leBytes 0x53415645 4 ++ leBytes g.name.toNat 4 ++ leBytes l.queue 2 ++ leBytes l.ctx 2 ++ leBytes l.index 4 ++ leBytes g.index.toNat 4
    ++ leBytes g.crews 1 ++ leBytes g.nregs 1 ++ leBytes g.asize 2 ++ leBytes g.threads 4 ++ leBytes g.gangPos 1
    ++ leBytes ((if held then 1 else 0) + if stream.isSome then 2 else 0) 1 ++ leBytes 0 2 ++ leBytes g.putErr.toNat 4 ++ leBytes 0 4
    ++ leBytes (stream.getD 0) 8 ++ leBytes g.imageSize 8 ++ List.replicate 200 0 ++ byIndex.flatMap s.crewSection

/-- A slot's byte. -/
def SlotState.byte : SlotState → Nat
  | .empty => 0
  | .ready => 1
  | .filling p => 2 + p

/-- The code of an accumulator's type. -/
def AccType.byte : AccType → Nat
  | .zero => 0 | .fp32 => 1 | .int32 => 2 | .fp64 => 3

/-- The first 36,864 bytes of a stream's image: what it holds but for accumulators and operand buffer. -/
def Cluster.streamHeader (k : Cluster) (entryVa : Nat × Nat → Nat) : List Byte :=
  let handle := fun (i : Nat) => match mfind k.handles i with
    | some h => h.record ++ leBytes h.cur 2 ++ List.replicate 30 0
    | none => List.replicate 34 0 ++ [1] ++ List.replicate 29 0
  let fill := fun (f : Fill) => match f.entry with
    | some e => leBytes (entryVa e) 8 ++ leBytes f.slot 2 ++ leBytes f.handle 1 ++ leBytes f.progress 1 ++ leBytes 1 1 ++ leBytes 0 3
    | none => leBytes f.tile 8 ++ leBytes f.slot 2 ++ leBytes f.handle 1 ++ leBytes f.progress 1 ++ leBytes 0 4
  let op := fun (o : MatOp) => leBytes o.word 4 ++ leBytes 1 1 ++ leBytes 0 3 ++ leBytes o.s0.toNat 8 ++ leBytes o.s1.toNat 8
  let fills := ((k.fills.take 64).flatMap fill)
  let ops := ((k.queue.take 8).flatMap op)
  let slots := (List.range 16).flatMap fun i => match mfind k.handles i with
    | some h => (List.range 2048).map fun n => BitVec.ofNat 8 (h.state n).byte
    | none => List.replicate 2048 0
  leBytes k.pc.toNat 8 ++ leBytes (if k.nz then 1 else 0) 1 ++ leBytes 0 7 ++ leBytes k.fpstat.toNat 4 ++ leBytes 0 4
    ++ leBytes k.gen.toNat 8 ++ ((List.range 16).flatMap fun i => leBytes (k.sreg i).toNat 8)
    ++ ((List.range 8).map fun i => BitVec.ofNat 8 (k.type i).byte) ++ ((List.range 16).flatMap handle)
    ++ fills ++ List.replicate (1024 - fills.length) 0 ++ ops ++ List.replicate (192 - ops.length) 0 ++ List.replicate 1688 0 ++ slots

/-- Write a cluster's stream image at an offset of the save area, poison with it: firmware's stores. -/
def State.writeStream (s : State) (cl gang off : Nat) : State :=
  let k := s.cluster cl
  let a := s.saveArea + off
  let s := s.zeroBlock a streamSize
  let s := s.writeBlock a (k.streamHeader fun e => stagingVA + 2 ^ 24 + (s.chute gang e.1).offset e.2)
  let s := (List.range 8).foldl (fun (s : State) (i : Nat) =>
    match mfind k.accs i with
    | none => s
    | some l =>
      let s := s.writeBlock (a + 65536 + 32768 * i) (wordBytes (l ++ List.replicate (8192 - l.length) 0))
      (mget [] k.accPoison i).foldl (fun (s : State) (n : Nat) => s.setPoison ((a + 65536 + 32768 * i) / 16 + n / 4) true) s) s
  let lo := a + 327680
  let s := (List.range 512).foldl (fun (s : State) (i : Nat) =>
    { s with mem := memPuts s.mem (lo + 4096 * i) (memGets k.opbuf (4096 * i) 4096) }) s
  ((k.opPoison.foldl (fun (s : State) (n : Nat) => s.setPoison ((lo + n) / 16) true) s).storeRange a streamSize 0).2

/-! ## The save area (R452) -/

/-- The parts of the save area in use: the directory, and images. -/
def State.imagesUsed (s : State) : List (Nat × Nat) :=
  (0, 262144) :: (s.groups.filter fun e => e.2.place != .resident).map (fun e => (e.2.image, e.2.imageSize))
    ++ (s.gangs.filter fun e => e.2.tile && e.2.image != 0).map (fun e => (e.2.image, streamSize))

/-- Offsets for images of some sizes, where the area has room. -/
def State.imageRoom (s : State) : (used : List (Nat × Nat)) → (sizes : List Nat) → Option (List Nat)
  | _, [] => some []
  | used, n :: r =>
    match firstFit (s.saveSize * 2 ^ 20) n used with
    | none => none
    | some o => (s.imageRoom ((o, n) :: used) r).map (o :: ·)

/-- What the threads of a group wait for, kept for as long as firmware has it saved (R45). -/
def State.waitsOf (s : State) (gk : Nat) : List (Nat × Wait × Nat) :=
  (s.crewsOf gk).flatMap fun ck => lanes32.filterMap fun l =>
    match (s.thread ck l).st with
    | .waiting w => some (32 * (s.crew ck).index + l, w, if w.kind.onWord then s.peekNat w.key 4 else 0)
    | _ => none

/-- The program times of a group's threads and the tags of their capability registers, by thread, and the timestamps of puts into their
registers. -/
def State.timesOf (s : State) (gk : Nat) : List Nat × List Nat × Map Nat :=
  let byIndex := sortBy (fun a b => decide ((s.crew a).index ≤ (s.crew b).index)) (s.crewsOf gk)
  (byIndex.flatMap fun ck => lanes32.map fun l => (s.thread ck l).time,
   byIndex.flatMap fun ck => lanes32.map fun l => (s.thread ck l).tags,
   byIndex.flatMap fun ck => lanes32.flatMap fun l =>
     (s.thread ck l).puts.map fun e => (32 * (32 * (s.crew ck).index + l) + e.1, e.2))

/-- Write a group's image and take its crews off the core. -/
def State.saveGroup (s : State) (gk off : Nat) (place : Place) (stream : Option Nat) : State :=
  let img := s.groupImage gk (place == .held) stream
  let (times, tags, puts) := s.timesOf gk
  let waits := s.waitsOf gk
  let s := (s.storeBlock (s.saveArea + off) img 0).2.dropCrews gk
  let s := s.modGroup gk fun g => { g with
    place := place, preempt := .none, forced := false, image := off, savedTimes := times, savedTags := tags, savedPuts := puts
    savedWaits := waits }
  s.directory gk (if place = .held then 2 else 1)

/-- Whether every crew of some groups has stopped for the save. -/
def State.allSaved (s : State) (gks : List Nat) : Bool :=
  gks.all fun g => (s.group g).preempt != .none && !(s.crewsOf g).isEmpty && (s.crewsOf g).all fun ck => (s.crew ck).saved

/-- The save of some groups begins (R40, R452): room for their images, and for their gang's stream, is set aside in the save area, and the
directory says that they are in motion; none where there is no room, and the request then stays pending. -/
def State.beginSave (s : State) (gks : List Nat) (gang : Option Nat) : Option State :=
  if gks.all fun k => (s.group k).place == .moving then some s
  else
    let tile := match gang with
      | some k => (s.gang k).tile
      | none => false
    let used := s.imagesUsed
    match s.imageRoom used ((gks.map fun k => (s.group k).imageSize) ++ if tile then [streamSize] else []) with
    | none => none
    | some offs =>
      let s := match gang, tile with
        | some k, true => s.modGang k fun g => { g with image := offs.getLast?.getD 0 }
        | _, _ => s
      some ((gks.zip offs).foldl (fun (s : State) (x : Nat × Nat) =>
        (s.modGroup x.1 fun g => { g with place := .moving, image := x.2 }).directory x.1 3) s)

/-- The groups whose save is one with a group's: those of its gang (R40, R342). -/
def State.saveMates (s : State) (gk : Nat) : List Nat :=
  match (s.group gk).gang with
  | some k => s.groupsOf k
  | none => [gk]

/-- A gang all of whose crews, and whose stream, have stopped is saved (R40, R295, R342, R452). -/
def State.saveGang (s : State) (gang : Nat) : State :=
  match mfind s.gangs gang with
  | none => s
  | some g =>
    let gks := s.groupsOf gang
    if g.saved || !s.allSaved gks || (g.tile && !g.tileSaved) then s
    else
      match s.beginSave gks (some gang) with
      | none => s
      | some s =>
        let g := s.gang gang
        let modes := gks.map fun k => (s.group k).preempt
        let place : Place := if g.held || modes.contains .hold then .held else .saved
        let asleep := modes.all (· == .storage)
        let l := s.launch g.launch
        let streamOff := if g.tile then some g.image else none
        let k := s.cluster g.cluster
        let first := ((gks.map fun x => (s.group x).gangPos).foldl min 4)
        let s := match streamOff with
          | some o => (s.writeStream g.cluster gang o).freeCluster g.cluster
          | none => s
        let s := gks.foldl (fun (s : State) (x : Nat) =>
          s.saveGroup x (s.group x).image place (if (s.group x).gangPos = first then streamOff else none)) s
        let s := s.modGang gang fun x => { x with
          saved := true, held := place == .held, preempt := false, tileSaved := false
          streamTime := if g.tile then k.time else 0, fillEntries := if g.tile then k.fills.map (·.entry) else []
          moreFills := if g.tile then k.fills.drop 64 else [], queueEntries := if g.tile then k.queue.map (·.entry) else [] }
        (s.pend { launch := g.launch, prio := l.prio, order := l.order, first := g.index * l.gangSize, count := gks.length
                  savedGang := some gang, held := place == .held, asleep := asleep }).soon .placementPass

/-- A spawned group all of whose crews have stopped is saved. -/
def State.saveSpawned (s : State) (gk : Nat) : State :=
  match mfind s.groups gk with
  | none => s
  | some g =>
    if g.gang.isSome || !g.present || !s.allSaved [gk] then s
    else
      match s.beginSave [gk] none with
      | none => s
      | some s =>
        let place : Place := if g.preempt = .hold then .held else .saved
        let l := s.launch g.launch
        ((s.saveGroup gk (s.group gk).image place none).pend
          { launch := g.launch, prio := l.prio, order := l.order, first := 2 ^ 32, savedGroup := some gk, held := place == .held
            asleep := g.preempt == .storage }).soon .placementPass

/-- The gang or spawned group of a group is saved where all of it has stopped. -/
def State.trySave (s : State) (gk : Nat) : State :=
  match (s.group gk).gang with
  | some k => s.saveGang k
  | none => s.saveSpawned gk

/-- A crew has stopped: its save begins, where the save area has room, and its state is settled; with the last crew of its gang the images are
written (R40, R452). -/
def execCrewSave (core : BitVec 9) (slot : BitVec 6) (s : State) : Res :=
  match s.unit with
  | .none =>
    let ck := crewKey core.toNat slot.toNat
    let gk := (s.crew ck).group
    .next (if (mfind s.crews ck).isSome && s.crewStopped ck then
        match s.beginSave (s.saveMates gk) (s.group gk).gang with
        | some s => (s.modCrew ck fun c => { c with saved := true }).trySave gk
        | none => s
      else s)
  | _ => .next s

/-- Whether a cluster's stream has settled for its save (R295): nothing in its queue can finish without a stopped fill. -/
def State.streamSettled (s : State) (cl : Nat) : Bool :=
  let k := s.cluster cl
  s.streamPreempted cl && match k.queue with
    | [] => true
    | o :: _ =>
      o.busy == 0 && match o.instr with
        | .mma _ b a _ _ => !k.mmaReady o a.toNat b.toNat
        | _ => false

/-- The stopped tile sequencer saves (R295); with the gang's crews saved too, the images are written. -/
def execTileSequencerSave (cluster : BitVec 7) (s : State) : Res :=
  match s.unit with
  | .none =>
    let cl := cluster.toNat
    match (s.cluster cl).gang with
    | none => .next s
    | some g =>
      .next (if s.streamSettled cl && !(s.gang g).tileSaved then (s.modGang g fun x => { x with tileSaved := true }).saveGang g else s)
  | _ => .next s

/-! ## Waking what firmware saved (R45) -/

/-- Whether a wait of a saved group's thread would be met. -/
def State.sleepMet (s : State) (gk : Nat) (x : Nat × Wait × Nat) : Bool :=
  let g := s.group gk
  let (i, w, old) := x
  match w.kind with
  | .ldf | .ldfk => s.isFull w.key
  | .ste => !s.isFull w.key
  | .waitv => s.peekNat w.key 4 != old
  | .bar => decide (w.key ≤ g.barInst)
  | .gbar => decide (w.key ≤ (s.gang (g.gang.getD 0)).gbarInst)
  | .spawn => s.spawnRoom g.launch
  | .heldReg => natBits (s.peekNat (s.saveArea + g.image + laneOffset g.asize i + 12) 4) w.key 1 == 0
  | .chtake => (s.threadAcquire (w.key / 32) (w.key % 32)).isSome
  | .eng => decide ((s.cluster w.key).armed.length < 64)
  | .bench =>
    if w.key = 32 then (List.range 32).any fun e => !(s.benchLaunch e).live
    else decide ((s.benchLaunch w.key).queue.length < 16)
  | .presence => mget 0 s.filling w.key == 0
  | .peers | .pageFill | .remote | .egress | .miss | .entry | .slice => false

/-- Units that firmware saved become pending when a wait of theirs is met, and a pass follows (R45, R348). -/
def State.wakeSaved (s : State) : State :=
  let met := fun (gk : Nat) => (s.group gk).savedWaits.any fun x => s.sleepMet gk x
  let up := fun (u : PUnit) => u.asleep && match u.savedGang, u.savedGroup with
    | some k, _ => (s.groupsOf k).any met
    | none, some g => met g
    | none, none => false
  if s.pending.any up then
    { s with
      pending := s.pending.map fun u => if up u then { u with asleep := false, woken := true, ready := s.stamp } else u
      stamp := s.stamp + 1 }.soon .placementPass
  else s

end Sys2Proof.Machine
end

