-- ==== Sys2Proof/Machine/Firmware.lean ====
section
/-! DEFINITION. Queues and their commands (R337 to R346, R436 to R438, R445): tail writes, the reconcile pass, claiming and committing an
entry, and what each command does. -/

namespace Sys2Proof.Machine

/-! ## Tail writes (R339, R340) -/

/-- Addresses of a queue's ticket record and commit word in the firmware area (R84, R346); the layout is the model's
(notes/assumptions/24.md). -/
def ticketAt (q : Nat) : Nat := stagingAt 0 (16 * q)
def commitAt (q : Nat) : Nat := stagingAt 0 (16 * q + 8)

/-- The rule of R339 on a tail value. -/
def State.tailRule (s : State) (qn : Nat) (val : Nat) : State :=
  match mfind s.queues qn with
  | none => s
  | some q =>
    let seq := val / 2 ^ 32 % 2 ^ 32
    let index := val % 2 ^ 32
    let d := (seq + 2 ^ 32 - q.lseq) % 2 ^ 32
    if d = 0 ∨ 2 ^ 31 ≤ d then s
    else if q.depth < (index + 2 ^ 32 - q.head) % 2 ^ 32 ∨ 2 ^ 31 ≤ (index + 2 ^ 32 - q.tail) % 2 ^ 32 then
      s.modQueue qn fun q => { q with malformed := q.malformed + 1 }
    else
      (s.storeNat (ticketAt qn + 4) index 4 0).2.modQueue qn fun q => { q with lseq := seq, tail := index, waitLap := false }

/-- A tail write reaches the front end (R339); until PHASE is 4, and where the queue does not exist, it is discarded (R339, R374). -/
def execTailRegisterWrite (q : BitVec 10) (val : BitVec 64) (s : State) : Res :=
  match s.unit with
  | .none => .next (if s.phase = 4 then s.tailRule q.toNat val.toNat else s)
  | _ => .next s

/-- The shadow word of a queue, where it can be read (R340); its address is physical, as QCREATE's table does not call it virtual (R371). -/
def State.shadow (s : State) (qn : Nat) : Option (State × Nat) :=
  match mfind s.queues qn with
  | none => none
  | some q =>
    match s.fwReach 0 q.shadow false with
    | some (s, pa, k) =>
      if s.peekBad pa 8 then none
      else
        let (r, s) := s.fwOp pa k (.load (pa % 128) 8) 0
        some (s, r.val)
    | none => none

/-- Every millisecond firmware reads each queue's shadow word, applies R339 to it, and reads waiting entries again (R338, R340). -/
def execReconcilePass (s : State) : Res :=
  match s.unit with
  | .none =>
    .next ((s.queues.map (·.1)).foldl (fun (s : State) (qn : Nat) =>
      let s := match s.shadow qn with
        | some (s, v) => s.tailRule qn v
        | none => s
      s.modQueue qn fun q => { q with waitLap := false }) s)
  | _ => .next s

/-! ## Claiming and committing (R338, R346) -/

/-- A field of a command's entry. -/
def Cmd.f (c : Cmd) (off n : Nat) : Nat := field c.entry off n

/-- Whether an entry is there to be claimed at HEAD (R346, R347). -/
def Queue.claims (q : Queue) : Bool :=
  let n := (q.tail + 2 ^ 32 - q.head) % 2 ^ 32
  decide (1 ≤ n ∧ n ≤ 2 ^ 31)

/-- What the entry at HEAD shows. -/
inductive EntryRead where
  | unreadable
  | otherLap
  | bytes (b : List Byte) (ts : Nat) (s : State)

/-- Read the entry at HEAD (R338, R445). -/
def State.entryAt (s : State) (q : Queue) : EntryRead :=
  match s.fwRead q.ctx (q.ring + 128 * (q.head % q.depth)) 128 4 with
  | none => .unreadable
  | some (s, b, ts) => if field b 3 1 = q.head / q.depth % 256 then .bytes b ts s else .otherLap

/-- The end of a command: its completion under R354, after every operation of the command. -/
def State.finish (s : State) (qn : Nat) (c : Cmd) (jstate status t : Nat) : State :=
  s.complete qn c.index jstate status (c.f 8 8) (c.f 4 4) (entryNoint c.entry) (max c.time t)

/-- The commit of the entry at HEAD (R346): a read-modify-write of the commit word that its loads precede, HEAD and HEADPUB, and the journal
record. The result has the commit's timestamp. -/
def State.commitWord (s : State) (qn : Nat) (b : List Byte) (t : Nat) : Nat × State :=
  match mfind s.queues qn with
  | none => (0, s)
  | some q =>
    let next := (q.head + 1) % 2 ^ 32
    let (r, s) := s.opAt (commitAt qn) (.atomic .swap false (commitAt qn % 128) next) t
    let ts := r.ts
    let s := (s.storeNat (ticketAt qn) next 4 ts).2
    let s := s.modQueue qn fun q => { q with head := next, waitLap := false }
    let s := match s.fwStore q.ctx q.headpub next 8 ts with
      | some (s, _) => s
      | none => s.errorRecord 4 14 1 q.headpub qn 0 0 4
    (ts, s.journalCommit qn q.head (field b 4 4) (field b 0 1) 1 0 ts)

/-- Commit a command that is accepted, or refuse it: a refused command has no effect but its completion with STATUS (R445). An invalid
compand block and an unfillable hint complete it (R407, R436). -/
def State.commit (s : State) (qn : Nat) (b : List Byte) (t : Nat) (status : Nat) : Nat × State :=
  let i := (s.queue qn).head
  let (ts, s) := s.commitWord qn b t
  if status = 0 then
    (ts, s.modQueue qn fun q => { q with open_ := q.open_ ++ [{ index := i, op := field b 0 1, entry := b, time := ts }] })
  else
    (ts, s.finish qn { index := i, op := field b 0 1, entry := b, time := ts } (if status = 0x208 then 3 else 4) status ts)

/-- Whether a committed command may start (R346): not behind an incomplete WAITFOR; SERIAL commands and SIGNAL behind no incomplete one. -/
def Queue.mayStart (q : Queue) (c : Cmd) : Bool :=
  let earlier := q.open_.takeWhile fun d => d.index != c.index
  !(earlier.any fun d => d.op == 4) && ((c.op != 3 && natBits (c.f 1 1) 2 1 == 0) || earlier.isEmpty)

/-- What a command does: the check of its entry, which gives a STATUS or the state with the blocks it names read and the timestamp of the
loads; what its commit leaves; its start; and the test of its completion once started. -/
structure Plan where
  check : State → Nat → List Byte → Except Nat (State × Nat)
  committed : State → Nat → Cmd → State := fun s _ _ => s
  start : State → Nat → Cmd → State := fun s _ _ => s
  poll : State → Nat → Cmd → State

/-- The body bytes that a command's table names, as first and one past the last (R341 to R345, R353). -/
def bodyBytes (op : Nat) : List (Nat × Nat) :=
  match op with
  | 0x01 => [(16, 58), (60, 106), (112, 122)]
  | 0x02 => [(16, 26), (28, 32)]
  | 0x03 | 0x04 => [(16, 32)]
  | 0x05 => [(16, 26)]
  | 0x06 => [(16, 18), (20, 25)]
  | 0x10 => [(16, 35)]
  | 0x11 => [(32, 34)]
  | 0x12 => [(16, 30), (32, 88)]
  | 0x13 => [(60, 62)]
  | 0x14 => [(16, 19)]
  | 0x15 => [(16, 17), (24, 40)]
  | 0x16 => [(16, 17), (24, 32)]
  | 0x17 => [(16, 17)]
  | 0x18 => [(16, 18)]
  | 0x19 => [(16, 18), (24, 48)]
  | _ => []

/-- Whether an opcode is assigned (R342). -/
def assigned (op : Nat) : Bool := !(bodyBytes op).isEmpty

/-- Whether FLAGS and PRIO are in range and every byte that the command's table does not name is zero (R341). -/
def headerOk (b : List Byte) : Bool :=
  let used := bodyBytes (field b 0 1)
  decide (field b 1 1 < 8) && decide (field b 2 1 < 8)
    && (List.range 112).all fun i => (used.any fun u => u.1 ≤ i + 16 && decide (i + 16 < u.2)) || field b (i + 16) 1 == 0

/-- The checks every command passes (R341, R342, R445): a privileged opcode, a queue without a context, reserved bytes and FLAGS, PRIO. The
order of the checks is the model's (notes/assumptions/25.md). -/
def State.headerStatus (s : State) (qn : Nat) (b : List Byte) : Nat :=
  let op := field b 0 1
  let prio := field b 2 1
  if 0x10 ≤ op ∧ qn ≠ 0 then 2
  else if qn = 0 ∧ (op = 1 ∨ op = 2 ∨ op = 5 ∨ op = 6) then 4
  else if !headerOk b then 3
  else
    match mfind s.contexts (s.queue qn).ctx with
    | some c => if qn ≠ 0 ∧ c.priomax < prio then 4 else 0
    | none => if qn = 0 then 0 else 4

/-- Start a command where it may start, and test its completion (R346). -/
def State.advance (s : State) (qn i : Nat) (p : Plan) : State :=
  match mfind s.queues qn with
  | none => s
  | some q =>
    match q.open_.find? fun c => c.index == i with
    | none => s
    | some c =>
      if c.started then p.poll s qn c
      else if q.mayStart c then
        let s := (s.journalState qn i 2 0).modQueue qn fun q =>
          { q with open_ := q.open_.map fun (d : Cmd) => if d.index = i then { d with started := true } else d }
        let s := p.start s qn { c with started := true }
        match (s.queue qn).open_.find? fun c => c.index == i with
        | some c => p.poll s qn c
        | none => s
      else s

/-- Firmware's work on entry `i` of a queue (R346): at HEAD it is claimed, checked and committed; committed, it starts and completes as it
may. -/
def State.drive (s : State) (qn i op : Nat) (p : Plan) : State :=
  match mfind s.queues qn with
  | none => s
  | some q =>
    if q.head ≠ i then s.advance qn i p
    else if !q.claims || q.waitLap || s.phase ≠ 4 then s
    else
      match s.entryAt q with
      | .bytes b ts s' =>
        if field b 0 1 ≠ op then s
        else
          let status := s'.headerStatus qn b
          let (s, t, status) := if status ≠ 0 then (s', ts, status) else
            match p.check s' qn b with
            | .ok (s, t) => (s, max ts t, 0)
            | .error e => (s', ts, e)
          let (ct, s) := s.commit qn b t status
          if status ≠ 0 then s
          else (p.committed s qn { index := i, op := op, entry := b, time := ct }).advance qn i p
      | _ => s

/-- A command event. -/
def command (op : Nat) (p : Plan) (q : BitVec 10) (i : BitVec 32) (s : State) : Res :=
  match s.unit with
  | .none => .next (s.drive q.toNat i.toNat op p)
  | _ => .next s

/-- A command that completes at its start. -/
def atOnce (f : State → Nat → Cmd → State) : State → Nat → Cmd → State := fun s qn c => (f s qn c).finish qn c 3 0 0

/-! ## LAUNCH (R344) -/

/-- The block whose every table is the identity (R344). -/
def identityCompand : List Byte :=
  (List.range 8).flatMap fun _ => (List.range 30).flatMap (fun i => leBytes (4096 * (i % 15 + 1)) 2) ++ leBytes 0 4

/-- Whether a compand block's breakpoints rise strictly and its reserved bytes are zero (R160, R407). -/
def compandOk (b : List Byte) : Bool :=
  (List.range 8).all fun n =>
    let at_ := fun (i : Nat) => field b (64 * n + 2 * i) 2
    let rises := fun (base : Nat) => (List.range 15).all fun i => decide ((if i = 0 then 0 else at_ (base + i - 1)) < at_ (base + i))
    rises 0 && rises 15 && field b (64 * n + 60) 4 == 0

/-- Whether a LAUNCH body's fields are in range (R344). -/
def launchFieldsOk (b : List Byte) : Bool :=
  let f := field b
  let t := f 48 2 * f 50 2 * f 52 2
  decide (1 ≤ t ∧ t ≤ 1024) && decide (1 ≤ f 54 1 ∧ f 54 1 ≤ 4) && [8, 16, 24, 32].contains (f 55 1)
    && decide (f 56 2 ≤ 2048 ∧ f 56 2 % 64 = 0) && decide (1 ≤ f 60 4 ∧ f 60 4 ≤ 2 ^ 24 ∧ f 60 4 % f 54 1 = 0)
    && decide (f 64 2 ≤ 24) && decide (f 66 2 ≤ 96) && decide (f 68 4 ≤ 2 ^ 20) && decide (f 104 2 ≤ 1024) && decide (f 88 8 % 16 = 0)

/-- Whether a hint list's entries are well formed (R344). -/
def hintsOk (b : List Byte) (count : Nat) : Bool :=
  (List.range count).all fun i => field b (16 * i) 8 % 65536 == 0 && decide (field b (16 * i + 12) 4 < 2)

/-- The chutes that the program of a context and CODE declares (R187, R278). -/
def State.declaredChutes (s : State) (ctx code : Nat) : List (Nat × Nat × Nat) :=
  ((s.declared.find? fun d => d.1 == (ctx, code)).map (·.2)).getD []

/-- Firmware reads the argument block that ARGS names (R346, R445). The spec gives the block no length: the model reads the 16-byte granule that
holds ARGS, and nothing where ARGS is 0 (DESIGN CHOICE, notes/assumptions/142.md). -/
def State.readArgs (s : State) (ctx args : Nat) : Option (State × Nat) :=
  if args = 0 then some (s, 0) else (s.fwRead ctx (args / 16 * 16) 16 2).map fun x => (x.1, x.2.2)

/-- What the check of a LAUNCH entry reads (R344, R346, R407, R445): the argument block, the root capability, the compand block, the hint list. -/
def State.launchBlocks (s : State) (ctx : Nat) (b : List Byte) : Except Nat (State × Nat × Cap × List Byte × List Byte) :=
  let f := field b
  if !launchFieldsOk b then .error 3
  else
    match (if f 80 8 = 0 then some (s, identityCompand, 0) else s.fwRead ctx (f 80 8) 512 4) with
    | none => .error 6
    | some (s, compand, t1) =>
      if !compandOk compand then .error 0x208
      else
        match (if f 88 8 = 0 then some (s, {}, 0) else s.fwCap ctx (f 88 8)) with
        | none => .error 6
        | some (s, cap, t2) =>
          let n := if f 96 8 = 0 then 0 else f 104 2
          match s.fwRead ctx (f 96 8) (16 * n) (16 * n / 65536 + 3) with
          | none => .error 6
          | some (s, hints, t3) =>
            match s.readArgs ctx (f 32 8) with
            | none => .error 6
            | some (s, t4) => if !hintsOk hints n then .error 3 else .ok (s, max (max t1 t2) (max t3 t4), cap, compand, hints)

/-- Firmware makes the pages of one hint range present (R436): whether each could be. -/
def State.hintRange (s : State) (ctx va len : Nat) : State × Bool :=
  (List.range ((len + 65535) / 65536)).foldl (fun (acc : State × Bool) (i : Nat) =>
    let (s, ok) := acc
    let a := va + 65536 * i
    match s.walk ctx a with
    | .leaf _ => (s, ok)
    | .bad _ _ => (s, false)
    | .fill pte e level =>
      match s.fillPage pte e level with
      | .ok s => (s, ok)
      | .error _ => (s, false)) (s, true)

/-- Handle a hint list in its order (R344, R436): false where a range that counts could not be made present. -/
def State.hintList (s : State) (ctx : Nat) (b : List Byte) (count : Nat) (all : Bool) : State × Bool :=
  (List.range count).foldl (fun (acc : State × Bool) (i : Nat) =>
    let (s, ok) := acc
    let (s, good) := s.hintRange ctx (field b (16 * i) 8) (field b (16 * i + 8) 4)
    (s, ok && (good || !(all || field b (16 * i + 12) 4 == 1)))) (s, true)

/-- LAUNCH (R344, R349, R436); its commit is followed by a placement pass (R348). -/
def launchPlan : Plan where
  check := fun s qn b =>
    match s.launchBlocks (s.queue qn).ctx b with
    | .error e => .error e
    | .ok (s, t, cap, compand, hints) =>
      let q := s.queue qn
      let l : Launch :=
        { queue := qn, index := q.head, ctx := q.ctx, body := b, rootcap := cap, compand := compand, prio := field b 2 1
          idemp := field b 1 1 % 2 == 1, hintList := hints, chutes := s.declaredChutes q.ctx (field b 16 8) }
      .ok ({ s with launches := mset s.launches (launchKey qn q.head) l }, t)
  committed := fun s qn c =>
    { s.modLaunch (launchKey qn c.index) fun l => { l with time := c.time, committed := s.clock, order := s.nextOrder } with
      nextOrder := s.nextOrder + 1 }.soon .placementPass
  start := fun s qn c =>
    let lk := launchKey qn c.index
    let l := s.launch lk
    if l.done then s
    else
      let (s, ok) := s.hintList l.ctx l.hintList (l.hintList.length / 16) false
      if !ok then
        (s.modLaunch lk fun l => { l with done := true, status := some 0x207 }).finish qn c 3 0x207 0
      else
        s.pend { launch := lk, prio := l.prio, order := l.order, first := 0, count := l.gangSize, stop := l.f 60 4, held := l.heldBack }
  poll := fun s _ _ => s

def execLaunch (q : BitVec 10) (i : BitVec 32) (s : State) : Res := command 0x01 launchPlan q i s

/-! ## SIGNAL, WAITFOR and HINTS -/

/-- The 8-byte word that SIGNAL or WAITFOR names, where it can be reached (R342). -/
def State.wordOf (s : State) (qn : Nat) (c : Cmd) (write : Bool) : Option (State × Nat × PageKind) :=
  let a := c.f 16 8
  if a % 8 ≠ 0 then none else s.fwReach (s.queue qn).ctx a write

/-- VALUE's bit 63 is zero (R342). -/
def valueCheck : State → Nat → List Byte → Except Nat (State × Nat) := fun s _ b =>
  if 2 ^ 63 ≤ field b 24 8 then .error 3 else .ok (s, 0)

/-- SIGNAL: one store, after the operations of the queue's completed commands (R342). -/
def execSignal (q : BitVec 10) (i : BitVec 32) (s : State) : Res :=
  command 0x03
    { check := valueCheck
      poll := fun s qn c =>
        match s.wordOf qn c true with
        | none => s.finish qn c 3 6 0
        | some (s, pa, k) =>
          let (r, s) := s.fwOp pa k (.store (pa % 128) 8 (2 ^ 63 + c.f 24 8)) (max c.time (s.queue qn).time)
          s.finish qn c 3 0 r.ts } q i s

/-- The test of a WAITFOR (R342): it completes at the load that returns bit 63 set and bits [62:0] at or above VALUE. -/
def State.waitforTest (s : State) (qn : Nat) (c : Cmd) : State :=
  match s.wordOf qn c false with
  | none => s.finish qn c 3 6 0
  | some (s', pa, k) =>
    if s'.peekBad pa 8 then s'.finish qn c 3 6 0
    else
      let x := s'.peekNat pa 8
      if 2 ^ 63 ≤ x ∧ c.f 24 8 ≤ x - 2 ^ 63 then
        let (r, s') := s'.fwOp pa k (.load (pa % 128) 8) c.time
        s'.finish qn c 3 0 r.ts
      else s'

/-- WAITFOR (R342). -/
def execWaitfor (q : BitVec 10) (i : BitVec 32) (s : State) : Res :=
  command 0x04 { check := valueCheck, poll := State.waitforTest } q i s

/-- Firmware evaluates a WAITFOR again, as the word may have changed (R342). -/
def execWaitforReevaluate (q : BitVec 10) (i : BitVec 32) (s : State) : Res :=
  match s.unit with
  | .none =>
    match (s.queue q.toNat).open_.find? fun c => c.index == i.toNat && c.op == 4 && c.started with
    | some c => .next (s.waitforTest q.toNat c)
    | none => .next s
  | _ => .next s

/-- HINTS (R342, R436). -/
def execHints (q : BitVec 10) (i : BitVec 32) (s : State) : Res :=
  command 0x05
    { check := fun s qn b =>
        let n := field b 24 2
        if n = 0 ∨ 1024 < n then .error 3
        else
          match s.fwRead (s.queue qn).ctx (field b 16 8) (16 * n) (16 * n / 65536 + 3) with
          | none => .error 6
          | some (s, hints, t) =>
            if !hintsOk hints n then .error 3
            else .ok (s.modQueue qn fun q => { q with hints := mset q.hints q.head hints }, t)
      poll := fun s qn c =>
        let q := s.queue qn
        let (s, ok) := s.hintList q.ctx (mget [] q.hints c.index) (c.f 24 2) true
        (s.modQueue qn fun q => { q with hints := mdel q.hints c.index }).finish qn c 3 (if ok then 0 else 0x207) 0 } q i s

/-! ## PREEMPT (R342, R354) -/

/-- The launch that a PREEMPT names. -/
def Cmd.target (c : Cmd) : Nat := launchKey (c.f 16 2) (c.f 20 4)

/-- The groups of a launch that stand on cores. -/
def State.presentOf (s : State) (lk : Nat) : List Nat := mkeys s.groups fun _ (g : Group) => g.launch == lk && g.present

/-- Replace the groups that a PREEMPT waits for. -/
def State.waitFor (s : State) (qn : Nat) (c : Cmd) (l : List Nat) : State :=
  s.modQueue qn fun q => { q with open_ := q.open_.map fun (d : Cmd) => if d.index = c.index then { d with groups := l } else d }

/-- Ask for the save of a launch's resident groups (R342). -/
def State.askSave (s : State) (c : Cmd) (hold : Bool) : State :=
  let lk := c.target
  let gks := s.presentOf lk
  { s with
    groups := mmap s.groups fun k (g : Group) =>
      if gks.contains k then { g with preempt := if hold || g.preempt == Preempt.hold then Preempt.hold else Preempt.yield } else g
    gangs := mmap s.gangs fun _ (g : Gang) => if g.launch == lk && !g.saved then { g with preempt := true, held := g.held || hold } else g }

/-- MODE 1 also holds what is saved and pending, and holds back what is not yet placed (R342). -/
def State.holdPending (s : State) (lk : Nat) : State :=
  let gks := mkeys s.groups fun _ (g : Group) => g.launch == lk && g.place == .saved
  let s := { s with
    pending := s.pending.map fun (u : PUnit) => if u.launch = lk then { u with held := true, asleep := false } else u
    gangs := mmap s.gangs fun _ (g : Gang) => if g.launch == lk && g.saved then { g with held := true } else g }
  let s := s.modLaunch lk fun l => { l with heldBack := true }
  gks.foldl (fun (s : State) (k : Nat) => (s.modGroup k fun g => { g with place := .held }).directory k 2) s

/-- MODE 2 returns what is held to pending (R342); a hold at BRK ends with it (R412). -/
def State.releaseHeld (s : State) (lk : Nat) : State :=
  let gks := mkeys s.groups fun _ (g : Group) => g.launch == lk && g.place == .held
  let l := s.launch lk
  let s := { s with
    pending := s.pending.map fun (u : PUnit) => if u.launch = lk then { u with held := false } else u
    groups := mmap s.groups fun _ g => if g.launch == lk && g.preempt == .hold then { g with preempt := .yield } else g
    gangs := mmap s.gangs fun _ (g : Gang) => if g.launch == lk then { g with held := false } else g }
  let s := gks.foldl (fun (s : State) (k : Nat) => (s.modGroup k fun g => { g with place := .saved }).directory k 1) s
  let s := s.modLaunch lk fun l => { l with
    heldBack := false, atBrk := false, brkTime := l.brkTime + if l.atBrk then s.clock - l.brkSince else 0 }
  (if l.atBrk then s.journalState l.queue l.index 2 0 else s).soon .placementPass

/-- PREEMPT with the MODE that one of its table's rows names; an entry of another MODE is not this row's. -/
def preempt (mode : Nat) (q : BitVec 10) (i : BitVec 32) (s : State) : Res :=
  let mine := fun (b : List Byte) => field b 24 1 == mode || (mode == 0 && decide (3 ≤ field b 24 1))
  let plan : Plan :=
    { check := fun s qn b =>
        let t := field b 16 2
        if 2 < field b 24 1 then .error 3
        else
          match mfind s.queues t with
          | none => .error 4
          | some x =>
            if t = 0 ∨ x.ctx ≠ (s.queue qn).ctx ∨ (mfind s.launches (launchKey t (field b 20 4))).isNone then .error 4 else .ok (s, 0)
      committed := fun s qn c => if mode = 2 then s else s.waitFor qn c ((s.presentOf c.target).map fun k => (s.group k).name.toNat)
      start := fun s _ c =>
        let lk := c.target
        if (s.launch lk).done then s
        else if mode = 0 then s.askSave c false
        else if mode = 1 then (s.askSave c true).holdPending lk
        else s.releaseHeld lk
      poll := fun s qn c =>
        let left := c.groups.filter fun n => (s.named n).any (·.present)
        if (s.launch c.target).done || left.isEmpty then s.finish qn c 3 0 0 else s.waitFor qn c left }
  match s.unit with
  | .none =>
    let qn := q.toNat
    let x := s.queue qn
    let entry := if x.head = i.toNat then
        match s.entryAt x with
        | .bytes b _ _ => some b
        | _ => none
      else (x.open_.find? fun c => c.index == i.toNat).map (·.entry)
    .next (if entry.any mine then s.drive qn i.toNat 0x06 plan else s)
  | _ => .next s

/-- PREEMPT, MODE 0: save every resident group and return it to pending (R342). -/
def execPreemptYield (q : BitVec 10) (i : BitVec 32) (s : State) : Res := preempt 0 q i s

/-- PREEMPT, MODE 1: save and hold (R342). -/
def execPreemptHold (q : BitVec 10) (i : BitVec 32) (s : State) : Res := preempt 1 q i s

/-- PREEMPT, MODE 2: release (R342). -/
def execPreemptRelease (q : BitVec 10) (i : BitVec 32) (s : State) : Res := preempt 2 q i s

/-! ## Privileged commands -/

/-- The steps of R437 on what slices hold: untracked READONLY copies are dropped, and the PRIVATE lines of a context's groups go home. -/
def State.shootCopies (s : State) (ctx : Nat) : State :=
  s.copies.foldl (fun (s : State) (e : Nat × Copy) =>
    let (agent, line) := (e.1 / 2 ^ 45, e.1 % 2 ^ 45)
    if e.2.forever then s.dropCopy agent line
    else match e.2.owner with
      | some g => if (mfind s.groups g).any fun x => (s.launch x.launch).ctx != ctx then s else s.evictOwn agent line
      | none => s) s

/-- CONTEXT: a descriptor is made, or replaced with the shootdown of R437, R438, which waits for the accesses under way. -/
def execContext (q : BitVec 10) (i : BitVec 32) (s : State) : Res :=
  command 0x10
    { check := fun s _ b =>
        if field b 16 8 % 2048 ≠ 0 ∨ region (field b 16 8) = .reserved ∨ field b 32 2 = 0 ∨ 7 < field b 34 1 then .error 3 else .ok (s, 0)
      start := fun s qn c =>
        let ctx := c.f 32 2
        let live := (mfind s.contexts ctx).isSome
        let s := { s with contexts := mset s.contexts ctx { l0 := c.f 16 8, mexc := c.f 24 8, priomax := c.f 34 1 } }
        if !live then s
        else
          let s := (s.waitFor qn c (s.pendingReq.map fun x => x.2.2.ticket)).shootCopies ctx
          (mkeys s.benchLaunches fun _ b => b.live && b.ctx == ctx).foldl
            (fun (s : State) (e : Nat) => (s.modBenchLaunch e fun b => { b with stalled := true }).retranslate e) s
      poll := fun s qn c =>
        let ctx := c.f 32 2
        let left := fun (s : State) => mkeys s.benchLaunches fun _ b => b.live && b.ctx == ctx && b.stalled && b.slabs != []
        let s := (left s).foldl (fun (s : State) (e : Nat) =>
          if s.benchBlocked e then s else s.retranslate e) s
        let under := s.pendingReq.any fun x => c.groups.contains x.2.2.ticket
        let s := { s with benchLaunches := mmap s.benchLaunches fun _ b => if b.ctx = ctx ∧ b.slabs = [] then { b with stalled := false } else b }
        if (left s).isEmpty && !under then s.finish qn c 3 0 0 else s } q i s

/-- CTXFREE completes when no queue, launch or window of the context remains (R342). -/
def execCtxfree (q : BitVec 10) (i : BitVec 32) (s : State) : Res :=
  command 0x11
    { check := fun s _ b => if (mfind s.contexts (field b 32 2)).isSome then .ok (s, 0) else .error 4
      poll := fun s qn c =>
        let ctx := c.f 32 2
        if (many s.queues fun n x => n != 0 && x.ctx == ctx) || (many s.launches fun _ l => l.ctx == ctx && !l.done)
            || (many s.windows fun _ w => w.open_ && w.ctx == ctx) || s.writers.any fun w => w.2.ctx == ctx then s
        else { s with contexts := mdel s.contexts ctx }.finish qn c 3 0 0 } q i s

/-- Whether a number is a power of two. -/
def isPow2 (n : Nat) : Bool := n != 0 && n &&& (n - 1) == 0

/-- A queue of a QCREATE body or of the block of R371, with its ticket record and commit word at zero (R345, R346). -/
def State.makeQueue (s : State) (qn ctx : Nat) (f : Nat → Nat → Nat) : State :=
  let q : Queue := {
    ring := f 16 8, depth := f 24 4, ctx := ctx, shadow := f 32 8, headpub := f 40 8, journal := f 48 8, jdepth := f 56 4, msix := f 62 2
    uint := f 64 8, runword := f 72 8, notify := f 80 8 }
  let s := ((s.storeNat (ticketAt qn) 0 8 0).2.storeNat (commitAt qn) 0 4 0).2
  { s with queues := mset s.queues qn q }

/-- Whether a queue's DEPTH, RING, JOURNAL and JDEPTH are in range (R345). -/
def queueOk (f : Nat → Nat → Nat) : Bool :=
  isPow2 (f 24 4) && decide (16 ≤ f 24 4 ∧ f 24 4 ≤ 65536) && f 16 8 % 128 == 0 && isPow2 (f 56 4) && decide (f 24 4 ≤ f 56 4)
    && f 48 8 % 32 == 0 && decide (f 48 8 + 32 * f 56 4 ≤ 0xC000000000)

/-- QCREATE (R345). -/
def execQcreate (q : BitVec 10) (i : BitVec 32) (s : State) : Res :=
  command 0x12
    { check := fun s _ b =>
        if !queueOk (field b) || field b 60 2 = 0 || 1023 < field b 60 2 then .error 3
        else if (mfind s.queues (field b 60 2)).isSome || (mfind s.contexts (field b 28 2)).isNone then .error 4
        else .ok (s, 0)
      poll := atOnce fun s _ c => s.makeQueue (c.f 60 2) (c.f 28 2) c.f } q i s

/-- QFREE completes when every command of the queue has completed (R342). -/
def execQfree (q : BitVec 10) (i : BitVec 32) (s : State) : Res :=
  command 0x13
    { check := fun s _ b => if field b 60 2 ≠ 0 && (mfind s.queues (field b 60 2)).isSome then .ok (s, 0) else .error 4
      poll := fun s qn c =>
        match mfind s.queues (c.f 60 2) with
        | none => s.finish qn c 3 0 0
        | some x =>
          if x.open_.isEmpty then
            { s with
              queues := mdel s.queues (c.f 60 2)
              launches := mkeep s.launches fun k _ => k / 2 ^ 32 ≠ c.f 60 2 }.finish qn c 3 0 x.time
          else s } q i s

/-- A slice evicts what its ways no longer hold (R84). -/
def State.fitSlice (s : State) (n : Nat) : State :=
  (List.range 512).foldl (fun (s : State) (k : Nat) => if (s.setMates n k).isEmpty then s else s.fitSet n k 25) s

/-- SLICECFG (R84): once the slice holds no allocation outside the firmware area, its staging is resized; what its ways cached is written back, and
the command completes when that has reached the lines' homes; new words are zero, empty and present. -/
def execSlicecfg (q : BitVec 10) (i : BitVec 32) (s : State) : Res :=
  command 0x14
    { check := fun s _ b =>
        if 319 < field b 16 2 ∨ 6 < field b 18 1 ∨ (field b 16 2 = 0 ∧ field b 18 1 = 0) then .error 3 else .ok (s, 0)
      poll := fun s qn c =>
        let n := c.f 16 2
        let used := (s.stagingUsed n).filter fun u => n != 0 || u != (0, 65536)
        let going := fun (s : State) => s.msgs.any fun m => m.agent == n && (m.event == 3 || m.event == 4 || m.event == 5)
        if c.groups ≠ [] then if going s then s else s.finish qn c 3 0 0
        else if !used.isEmpty then s
        else
          let old := mget 0 s.stage n * 0x40000
          let new := c.f 18 1 * 0x40000
          let s := if old < new then s.zeroStaging (stagingAt n old) (new - old) else s
          let s := { s with stage := mset s.stage n (c.f 18 1) }.fitSlice n
          if going s then s.waitFor qn c [1] else s.finish qn c 3 0 0 } q i s

/-- GOVCFG: MGOV's BUDGET of a cluster, which acts from the next window (R305, R342, R379). -/
def execGovcfg (q : BitVec 10) (i : BitVec 32) (s : State) : Res :=
  command 0x18
    { check := fun s _ b => if 79 < field b 16 1 ∨ 127 < field b 17 1 then .error 3 else .ok (s, 0)
      poll := atOnce fun s _ c => s.modCluster (c.f 16 1) fun k => { k with budget := c.f 17 1 } } q i s

/-- Where a CAPMINT's granule lies, with its page marked as written, or the command's refusal (R343): CTX, then the translation, then the checks;
the order of two refusals is the model's (notes/assumptions/25.md). -/
def State.capmintAt (s : State) (b : List Byte) : Except Nat (State × Nat) :=
  let ctx := field b 16 2
  let va := field b 24 8
  let cap : Cap := { bits := BitVec.ofNat 128 (field b 32 16) }
  let found := fun (s : State) =>
    match s.walk ctx va with
    | .leaf l =>
      if va % 16 = 0 ∧ l.mtype = 0 ∧ region l.pa = .hbm ∧ cap.kind ≤ 2 ∧ cap.exp ≤ 47 then .ok (s.markUsed l true, l.pa) else .error 3
    | _ => .error 6
  if (mfind s.contexts ctx).isNone then .error 4
  else if stagingVA ≤ va then .error 6
  else
    match s.walk ctx va with
    | .fill pte e level =>
      match s.fillPage pte e level with
      | .ok s => found s
      | .error _ => .error 6
    | _ => found s

/-- CAPMINT: a capability store with its tag (R101, R343), where its check has found the granule. -/
def execCapmint (q : BitVec 10) (i : BitVec 32) (s : State) : Res :=
  command 0x19
    { check := fun s qn b => (s.capmintAt b).map fun x =>
        (x.1.modQueue qn fun q => { q with hints := mset q.hints q.head (leBytes x.2 8) }, 0)
      poll := fun s qn c =>
        let pa := leNat (mget [] (s.queue qn).hints c.index)
        let (r, s) := s.opAt pa (.capst (pa % 128) (c.f 32 16) true) c.time
        (s.modQueue qn fun q => { q with hints := mdel q.hints c.index }).finish qn c 3 0 r.ts } q i s

/-! ## The pump -/

/-- An entry that names no command, or cannot be read, is refused (R445). -/
def State.refuseHead (s : State) (qn : Nat) : State :=
  match mfind s.queues qn with
  | none => s
  | some q =>
    if !q.claims || q.waitLap || s.phase ≠ 4 then s
    else
      match s.entryAt q with
      | .unreadable => (s.commit qn (List.replicate 128 0) 0 6).2
      | .otherLap => s.modQueue qn fun q => { q with waitLap := true }
      | .bytes b ts s' => if assigned (field b 0 1) then s else (s'.commit qn b ts 1).2

/-- The opcode and MODE of a queue's entry `i`: at HEAD, or committed. -/
def State.opcodeOf (s : State) (qn i : Nat) : Option (Nat × Nat) :=
  match mfind s.queues qn with
  | none => none
  | some q =>
    if q.head = i then
      if !q.claims || q.waitLap then none
      else
        match s.entryAt q with
        | .bytes b _ _ => some (field b 0 1, field b 24 1)
        | _ => none
    else (q.open_.find? fun c => c.index == i).map fun c => (c.op, c.f 24 1)

end Sys2Proof.Machine
end

