-- ==== Sys2Proof/Machine/Gang.lean ====
section
/-! DEFINITION. Launches that span packages (R353, R447): the coordinator's two phases and the parts' reservations; how launches complete
(R20, R354), and the launch watchdog (R450). -/

namespace Sys2Proof.Machine

/-! ## The coordinator -/

/-- A GANGLAUNCH's number in firmware messages: its queue and entry index. -/
def gangId (qn i : Nat) : Nat := launchKey qn i

def State.gangLaunch (s : State) (id : Nat) : Option GangLaunch := mfind s.gangLaunches id

def State.modGangLaunch (s : State) (id : Nat) (f : GangLaunch → GangLaunch) : State :=
  match mfind s.gangLaunches id with
  | some g => { s with gangLaunches := mset s.gangLaunches id (f g) }
  | none => s

/-- A firmware message to a package; one to this package is handled in the same cycle. -/
def State.message (s : State) (pkg : Nat) (i : Instr) : State := if pkg = s.pkgId then s.soon i else s.send (.firmware pkg i)

/-- The PARTS array of a GANGLAUNCH entry (R353): each granule a tagged KIND 0 capability with LOAD whose bounds hold a 128-byte entry; only
part 0 may name this package. -/
def State.gangParts (s : State) (ctx : Nat) (b : List Byte) : Except Nat (State × Nat × List (Nat × Nat)) :=
  let at_ := field b 16 8
  let n := field b 24 2
  if n = 0 ∨ 64 < n ∨ field b 28 4 = 0 ∨ 1000000 < field b 28 4 ∨ at_ % 16 ≠ 0 then .error 3
  else
    (List.range n).foldl (fun (acc : Except Nat (State × Nat × List (Nat × Nat))) (i : Nat) =>
      match acc with
      | .error e => .error e
      | .ok (s, t, parts) =>
        match s.fwCap ctx (at_ + 16 * i) with
        | some (s, cap, ts) =>
          let a := cap.f 0 64
          let (base, top) := cap.bounds
          if cap.tag && cap.kind == 0 && cap.bit 81 && decide (base ≤ a) && decide ((a + 128 : Int) ≤ top) && (i == 0 || cap.peer != s.pkgId)
          then .ok (s, max t ts, parts ++ [(cap.peer, a)])
          else .error 0x404
        | none => .error 6) (.ok (s, 0, []))

/-- PREPARE to one part (R353). -/
def State.sendPrepare (s : State) (id : Nat) (g : GangLaunch) (part : Nat) : State :=
  let (peer, a) := g.parts.getD part (0, 0)
  s.message peer (.prepare (s.pkg) (BitVec.ofNat 42 id) (BitVec.ofNat 6 part) (BitVec.ofNat 16 (s.queue g.queue).ctx)
    (BitVec.ofNat 64 a) (BitVec.ofNat 32 (g.timeout / 800)))

/-- The decision to one part (R353, R447). -/
def State.sendDecision (s : State) (id : Nat) (g : GangLaunch) (part : Nat) : State :=
  let (peer, _) := g.parts.getD part (0, 0)
  let (c, i, p) := (s.pkg, BitVec.ofNat 42 id, BitVec.ofNat 6 part)
  if g.decision = 1 then s.message peer (.commit c i p (BitVec.ofNat 64 g.time))
  else if g.decision = 2 then s.message peer (.abort c i p)
  else s

/-- The decision to every part. -/
def State.sendDecisions (s : State) (id : Nat) : State :=
  match s.gangLaunch id with
  | none => s
  | some g => (List.range g.parts.length).foldl (fun (s : State) (p : Nat) => s.sendDecision id g p) s

/-- Whether a GANGLAUNCH's entry still stands at its queue's HEAD. -/
def State.gangAtHead (s : State) (g : GangLaunch) : Bool := (mfind s.queues g.queue).any fun q => q.head == g.index

/-- Phase two, abort (R353): the commit in the journal, with a STATUS, and ABORT to every part. -/
def State.gangAbort (s : State) (id status : Nat) : State :=
  match s.gangLaunch id with
  | none => s
  | some g =>
    if g.decision ≠ 0 then s
    else
      let s := (s.modGangLaunch id fun g => { g with decision := 2 }).sendDecisions id
      if s.gangAtHead g then
        let (ts, s) := s.commitWord g.queue g.entry g.time
        s.finish g.queue { index := g.index, op := 2, entry := g.entry, time := ts } 5 status ts
      else s

/-- Phase two, commit, once every part is ready (R353): its timestamp is greater than every part's and than the coordinator's program time. -/
def State.gangCommit (s : State) (id : Nat) : State :=
  match s.gangLaunch id with
  | none => s
  | some g =>
    if g.decision ≠ 0 ∨ g.ready.length < g.parts.length then s
    else if !s.gangAtHead g then s.gangAbort id 0x401
    else
      let (ts, s) := s.commitWord g.queue g.entry (g.ready.foldl (fun n e => max n (e.2 + 1)) (g.time + 1))
      let s := s.modQueue g.queue fun q => { q with
        open_ := q.open_ ++ [{ index := g.index, op := 2, entry := g.entry, time := ts, started := true }] }
      ((s.journalState g.queue g.index 2 0).modGangLaunch id fun g => { g with decision := 1, time := ts, committed := s.clock }).sendDecisions id

/-- Once every part has reported, the command completes with the first STATUS that is not 0, in part order (R447). Its completion follows every
operation of the parts (R354); the reports of other packages bring no program time, so that the time at which the parts there ended is a free value
(notes/assumptions/143.md). -/
def State.gangFinish (s : State) (id : Nat) : State :=
  match s.gangLaunch id with
  | none => s
  | some g =>
    if g.decision ≠ 1 ∨ g.report.length < g.parts.length then s
    else
      match (s.queue g.queue).open_.find? fun c => c.index == g.index && c.op == 2 with
      | none => s
      | some c =>
        let first := ((List.range g.parts.length).map fun p => mget 0 g.report p).find? (· != 0)
        let own := s.reservations.foldl (fun t r =>
          if r.coord = s.pkgId ∧ r.id = id then max t (max (s.launch r.launch).time (s.launch r.launch).last) else t) (Config.freeWord s.free).toNat
        { s with free := s.free + 1 }.finish g.queue c 3 (if g.status ≠ 0 then g.status else first.getD 0) own

/-- GANGLAUNCH: phase one begins at HEAD, where the command may start (R346, R353). -/
def execGanglaunch (q : BitVec 10) (i : BitVec 32) (s : State) : Res :=
  match s.unit with
  | .none =>
    let qn := q.toNat
    let id := gangId qn i.toNat
    let x := s.queue qn
    let running := match s.gangLaunch id with
      | some g => g.decision == 0
      | none => false
    if x.head ≠ i.toNat || !x.claims || x.waitLap || s.phase ≠ 4 || (mfind s.queues qn).isNone || running then .next s
    else
      match s.entryAt x with
      | .bytes b ts s' =>
        if field b 0 1 ≠ 2 then .next s
        else
          let status := s'.headerStatus qn b
          if status ≠ 0 then .next (s'.commit qn b ts status).2
          else
            match s'.gangParts x.ctx b with
            | .error e => .next (s'.commit qn b ts e).2
            | .ok (s', t, parts) =>
              if !x.mayStart { index := i.toNat, op := 2, entry := b } then .next s
              else
                let g : GangLaunch := {
                  queue := qn, index := i.toNat, entry := b, timeout := 800 * field b 28 4, began := s.clock, parts := parts
                  time := max ts t }
                let s := { s' with gangLaunches := mset s'.gangLaunches id g }
                .next ((List.range parts.length).foldl (fun (s : State) (p : Nat) => s.sendPrepare id g p) s)
      | _ => .next s
  | _ => .next s

/-- READY of a part (R353); the coordinator repeats its decision to a part that repeats it (R447). -/
def execReady (id : BitVec 42) (part : BitVec 6) (ts : BitVec 64) (s : State) : Res :=
  match s.unit with
  | .none =>
    match s.gangLaunch id.toNat with
    | none => .next s
    | some g =>
      if g.decision ≠ 0 then .next (if (mfind g.report part.toNat).isSome then s else s.sendDecision id.toNat g part.toNat)
      else if g.parts.length ≤ part.toNat then .next s
      else .next ((s.modGangLaunch id.toNat fun g => { g with ready := mset g.ready part.toNat ts.toNat }).gangCommit id.toNat)
  | _ => .next s

/-- REFUSE of a part: the coordinator aborts (R353). -/
def execRefuse (id : BitVec 42) (part : BitVec 6) (s : State) : Res :=
  match s.unit with
  | .none =>
    match s.gangLaunch id.toNat with
    | none => .next s
    | some g => .next (if g.parts.length ≤ part.toNat then s else s.gangAbort id.toNat 0x401)
  | _ => .next s

/-- Phase one has taken longer than TIMEOUT: the coordinator aborts (R353). -/
def execGanglaunchPhaseOneTimeout (q : BitVec 10) (i : BitVec 32) (s : State) : Res :=
  match s.unit with
  | .none =>
    let id := gangId q.toNat i.toNat
    match s.gangLaunch id with
    | none => .next s
    | some g => .next (if g.began + g.timeout < s.clock then s.gangAbort id 0x402 else s)
  | _ => .next s

/-- The DONE report of a part reaches the coordinator (R447). -/
def execPartDoneReport (id : BitVec 42) (part : BitVec 6) (status : BitVec 15) (s : State) : Res :=
  match s.unit with
  | .none =>
    match s.gangLaunch id.toNat with
    | none => .next s
    | some g =>
      if g.decision ≠ 1 || g.parts.length ≤ part.toNat || (mfind g.report part.toNat).isSome then .next s
      else .next ((s.modGangLaunch id.toNat fun g => { g with report := mset g.report part.toNat status.toNat }).gangFinish id.toNat)
  | _ => .next s

/-- Whether a part's package can be reached (R360, R361). -/
def State.reachable (s : State) (peer : Nat) : Bool := peer == s.pkgId || !(s.routes peer 0 0).isEmpty || !(s.routes peer 1 0).isEmpty

/-- Note which parts that have not reported can be reached (R447). -/
def State.noteLost (s : State) (id : Nat) : State :=
  s.modGangLaunch id fun g =>
    if g.decision ≠ 1 then g
    else { g with lost := (List.range g.parts.length).foldl (fun (m : Map Nat) (p : Nat) =>
      if (mfind g.report p).isSome || s.reachable (g.parts.getD p (0, 0)).1 then mdel m p
      else if (mfind m p).isSome then m else mset m p s.clock) g.lost }

/-- A part has had no route for 1 s after COMMIT: the coordinator completes without it, with STATUS 0x0403 (R447). -/
def execPartUnreachableTimeout (q : BitVec 10) (i : BitVec 32) (part : BitVec 6) (s : State) : Res :=
  match s.unit with
  | .none =>
    let id := gangId q.toNat i.toNat
    match s.gangLaunch id with
    | none => .next s
    | some g =>
      match mfind g.lost part.toNat with
      | some since =>
        if g.decision ≠ 1 || s.clock < since + 800000000 || (mfind g.report part.toNat).isSome then .next s
        else .next ((s.modGangLaunch id fun g => { g with report := mset g.report part.toNat 0x403, status := 0x403 }).gangFinish id)
      | none => .next s
  | _ => .next s

/-! ## The parts -/

/-- Key of a part's launch, above every queue's. -/
def partKey (coord id part : Nat) : Nat := 2 ^ 60 + (coord * 2 ^ 42 + id) * 64 + part

def State.reservation (s : State) (coord id part : Nat) : Option Reservation :=
  s.reservations.find? fun r => r.coord == coord && r.id == id && r.part == part

/-- The launch that a part's entry asks for, or none where the entry cannot be read or fails a check (R344, R353, R445). A launch of no queue
bears the queue number 1024. -/
def State.partLaunch (s : State) (coord id part ctx addr : Nat) : Option (State × Nat × Launch) :=
  match s.fwRead ctx addr 128 4, mfind s.contexts ctx with
  | some (s, b, t), some c =>
    if field b 0 1 ≠ 1 || !headerOk b || decide (c.priomax < field b 2 1) then none
    else
      match s.launchBlocks ctx b with
      | .error _ => none
      | .ok (s, t', cap, compand, hints) =>
        some (s, max t t', {
          queue := 1024, index := 0, ctx := ctx, body := b, rootcap := cap, compand := compand, prio := field b 2 1
          idemp := field b 1 1 % 2 == 1, hintList := hints, chutes := s.declaredChutes ctx (field b 16 8), order := s.nextOrder, part := some (coord, id, part), started := false })
  | _, _ => none

/-- Place every unit of a part at once, or none where one does not fit (R349, R353). -/
def State.placeAll (s : State) (lk : Nat) (l : Launch) : Option State :=
  (List.range (l.f 60 4 / l.gangSize)).foldl (fun (acc : Option State) (n : Nat) =>
    match acc with
    | none => none
    | some s =>
      let u : PUnit := { launch := lk, prio := l.prio, order := l.order, first := n * l.gangSize, count := l.gangSize }
      (s.fits u none).map fun x => s.placeAt u x) (some s)

/-- A reservation is given up: nothing of it has started (R353, R447). -/
def State.release (s : State) (r : Reservation) : State :=
  let s := (mkeys s.gangs fun _ g => g.launch == r.launch).foldl State.freeGang s
  { s with
    launches := mdel s.launches r.launch
    reservations := s.reservations.filter fun x => x != r }.soon .placementPass

/-- PREPARE reaches a part's package: it reserves placement and replies READY with the timestamp of its reads, or REFUSE (R353). -/
def execPrepare (coord : BitVec 10) (id : BitVec 42) (part : BitVec 6) (ctx : BitVec 16) (addr : BitVec 64) (timeout : BitVec 32) (s : State) :
    Res :=
  match s.unit with
  | .none =>
    let (c, n, p) := (coord.toNat, id.toNat, part.toNat)
    let lk := partKey c n p
    let known := match s.reservation c n p with
      | some r => if (s.launch lk).done then none else some r
      | none => none
    match known with
    | some r => .next (if (s.launch lk).started then s else s.message c (.ready id part (BitVec.ofNat 64 r.time)))
    | none =>
      match s.partLaunch c n p ctx.toNat addr.toNat with
      | none => .next (s.message c (.refuse id part))
      | some (s', t, l) =>
        match ({ s' with launches := mset s'.launches lk l, nextOrder := s'.nextOrder + 1 }).placeAll lk l with
        | none => .next (s'.message c (.refuse id part))
        | some s =>
          let r : Reservation := {
            coord := c, id := n, part := p, launch := lk, time := t, at_ := s.clock, life := 800 * timeout.toNat + 800000000 }
          let s := { s with reservations := (s.reservations.filter fun (x : Reservation) => x.launch != lk) ++ [r] }
          .next (s.message c (.ready id part (BitVec.ofNat 64 t)))
  | _ => .next s

/-- COMMIT reaches a part (R353, R447): its groups and streams start with the timestamp; without a reservation the part reports STATUS
0x0403, and where it has ended already it reports again. -/
def execCommit (coord : BitVec 10) (id : BitVec 42) (part : BitVec 6) (ts : BitVec 64) (s : State) : Res :=
  match s.unit with
  | .none =>
    let (c, n, p) := (coord.toNat, id.toNat, part.toNat)
    match s.reservation c n p with
    | none => .next (s.message c (.partDoneReport id part 0x403))
    | some r =>
      let l := s.launch r.launch
      if l.done then .next (s.message c (.partDoneReport id part (BitVec.ofNat 15 (l.status.getD 0))))
      else if l.started then .next s
      else
        let (s, ok) := s.hintList l.ctx l.hintList (l.hintList.length / 16) false
        let s := s.modLaunch r.launch fun l => { l with started := true, time := ts.toNat, committed := s.clock }
        let gangs := mkeys s.gangs fun _ g => g.launch == r.launch
        let cks := mkeys s.crews fun _ k => (s.group k.group).launch == r.launch
        let s := { s with
          threads := mmap s.threads fun k t => if cks.contains (k / 32) then { t with time := ts.toNat } else t
          clusters := mmap s.clusters fun _ k => if k.gang.any gangs.contains then { k with time := ts.toNat } else k }
        .next (if ok then s else s.terminate r.launch 0x207)
  | _ => .next s

/-- ABORT reaches a part: its reservation is released (R353). -/
def execAbort (coord : BitVec 10) (id : BitVec 42) (part : BitVec 6) (s : State) : Res :=
  match s.unit with
  | .none =>
    match s.reservation coord.toNat id.toNat part.toNat with
    | some r => .next (if (s.launch r.launch).started then s else s.release r)
    | none => .next s
  | _ => .next s

/-- A part that holds no decision after TIMEOUT + 1 s releases its reservation (R447). -/
def execPartReservationExpiry (coord : BitVec 10) (id : BitVec 42) (part : BitVec 6) (s : State) : Res :=
  match s.unit with
  | .none =>
    match s.reservation coord.toNat id.toNat part.toNat with
    | some r => .next (if !(s.launch r.launch).started && decide (r.at_ + r.life < s.clock) then s.release r else s)
    | none => .next s
  | _ => .next s

/-- Every millisecond an unanswered message is sent again (R447): PREPARE and COMMIT by the coordinator, READY by a part. -/
def execFirmwareMessageResend (id : BitVec 42) (part : BitVec 6) (s : State) : Res :=
  match s.unit with
  | .none =>
    let p := part.toNat
    let s := match s.gangLaunch id.toNat with
      | none => s
      | some g =>
        if g.parts.length ≤ p then s
        else if g.decision = 0 then if (mfind g.ready p).isSome then s else s.sendPrepare id.toNat g p
        else if g.decision = 1 && (mfind g.report p).isNone then s.sendDecision id.toNat g p
        else s
    .next (s.reservations.foldl (fun (s : State) (r : Reservation) =>
      if r.id = id.toNat && r.part == p && !(s.launch r.launch).started then s.message r.coord (.ready id part (BitVec.ofNat 64 r.time)) else s) s)
  | _ => .next s

/-! ## The end of a launch -/

/-- A command completes (R354): a LAUNCH when its groups have retired and no unit, record, engine operation or bench launch of it is left
(R20), a GANGLAUNCH when its parts have reported. -/
def execCommandComplete (q : BitVec 10) (i : BitVec 32) (s : State) : Res :=
  match s.unit with
  | .none =>
    let lk := launchKey q.toNat i.toNat
    match mfind s.launches lk with
    | none => .next (s.gangFinish lk)
    | some l =>
      let started := ((s.queue q.toNat).open_.find? fun c => c.index == i.toNat).any (·.started)
      if l.done || !started || !s.groupsDone lk || s.enginesOf lk || many s.benchLaunches fun _ b => b.live && b.launch == lk then
        .next (s.gangFinish lk)
      else .next (s.launchEnd lk 3 0)
  | _ => .next s

/-- Cycles a launch has been held at BRK (R450). -/
def State.brkCycles (s : State) (l : Launch) : Nat := l.brkTime + if l.atBrk then s.clock - l.brkSince else 0

/-- A launch that has not completed LWATCH milliseconds after its commit is terminated (R450); with a GANGLAUNCH go the parts that run
here. -/
def execLaunchWatchdog (q : BitVec 10) (i : BitVec 32) (s : State) : Res :=
  match s.unit with
  | .none =>
    let id := launchKey q.toNat i.toNat
    let late := fun (t : Nat) => s.lwatch != 0 && decide (800000 * s.lwatch < t)
    match mfind s.launches id, s.gangLaunch id with
    | some l, _ =>
      let committed := ((s.queue q.toNat).open_.find? fun c => c.index == i.toNat).isSome
      .next (if committed && !l.done && late (s.clock - l.committed - s.brkCycles l) then s.terminate id 0x0501 else s)
    | none, some g =>
      match (s.queue g.queue).open_.find? fun c => c.index == g.index && c.op == 2 with
      | some c =>
        let parts := s.reservations.filter fun r => r.coord == s.pkgId && r.id == id
        let brk := parts.foldl (fun n r => max n (s.brkCycles (s.launch r.launch))) 0
        if g.decision = 1 && late (s.clock - g.committed - brk) then
          let s := parts.foldl
            (fun (s : State) (r : Reservation) => s.terminate r.launch 0x0501) s
          .next (s.finish g.queue c 3 0x0501 0)
        else .next s
      | none => .next s
    | none, none => .next s
  | _ => .next s

end Sys2Proof.Machine
end

