-- ==== Sys2Proof/Machine/Protocol.lean ====
section
/-! DEFINITION. The protocol tables of the coherence engines (R128 to R133, R136, R141): their images, the entries' fields, the validator, and
the six ROM tables. R141 says in words how the ROM protocols behave and the worked race gives five entries; the other entries are this
model's, made to behave as R141 says and to pass the checks of R136 (notes/assumptions/20.md). -/

namespace Sys2Proof.Machine

/-! ## Protocols and entries -/

/-- A protocol: how many states it uses, its FLAGS, LEASELEN, which states are transient, their CLASS, and its entries by state and event. -/
structure Protocol where
  ns : Nat
  flags : Nat
  lease : Nat
  transient : Nat → Bool
  cls : Nat → Nat
  entry : Nat → Nat → Nat

def Protocol.tracked (p : Protocol) : Bool := natBits p.flags 0 1 == 1
def Protocol.writeCopy (p : Protocol) : Bool := natBits p.flags 1 1 == 1
def Protocol.noCopy (p : Protocol) : Bool := natBits p.flags 2 1 == 1

/-- An entry's fields (R131). -/
structure TableEntry where
  next : Nat
  stall : Bool
  msg : Nat
  dest : Nat
  grantx : Bool
  acts : List Nat
deriving DecidableEq, Repr

def tableEntry (x : Nat) : TableEntry where
  next := natBits x 26 6
  stall := natBits x 25 1 == 1
  msg := natBits x 20 5
  dest := natBits x 17 3
  grantx := natBits x 16 1 == 1
  acts := [natBits x 0 4, natBits x 4 4, natBits x 8 4, natBits x 12 4]

/-- The entry of a state for an event. -/
def Protocol.at_ (p : Protocol) (state event : Nat) : TableEntry := tableEntry (p.entry state event)

/-- Whether an event is a request (R132). -/
def isRequest (event : Nat) : Bool := [0, 1, 2, 6, 7, 8, 9].contains event

/-- Whether an event is an eviction (R132). -/
def isEviction (event : Nat) : Bool := decide (3 ≤ event ∧ event ≤ 5)

/-- Whether an event is a response or an internal event (R132). -/
def isAnswer (event : Nat) : Bool := decide (10 ≤ event ∧ event ≤ 16)

/-! ## The ROM tables (R141)

A row gives an entry for some states and some events. Entries without a row: an event that waits in a transient state stalls; an eviction in a
stable state is acknowledged; another event in a stable state changes nothing. -/

/-- A row: states, events, the entry. -/
abbrev Row := List Nat × List Nat × Nat

/-- An entry from its fields (R131): NEXT, the actions, MSG, DEST and GRANTX. -/
def entryWord (next : Nat) (acts : List Nat) (msg : Nat := 0) (dest : Nat := 0) (grant : Bool := false) : Nat :=
  let a := fun (i : Nat) => acts.getD i 0
  next * 2 ^ 26 + msg * 2 ^ 20 + dest * 2 ^ 17 + (if grant then 2 ^ 16 else 0) + a 3 * 2 ^ 12 + a 2 * 2 ^ 8 + a 1 * 2 ^ 4 + a 0

/-- LEASE, and HOMEX, which differs from it in its flags and classes: every store is performed at the home, loads are granted a lease. -/
def homeRows : List Row := [
  ([0, 2], [0, 8], entryWord 1 [5]),
  ([1], [13], entryWord 2 [10, 12]),
  ([0, 2], [1, 2, 6], entryWord 3 [5]),
  ([3], [13], entryWord 1 [11, 14, 6, 13] (grant := true)),
  ([0, 2], [7], entryWord 1 [11, 14, 6, 13] (grant := true)),
  ([1], [14], entryWord 2 []),
  ([2], [9], entryWord 0 []),
  ([0], [17], entryWord 3 [8] 1 2),
  ([3], [10], entryWord 3 [9]),
  ([3], [11], entryWord 3 [7, 9]),
  ([3], [15], entryWord 0 [3])]

/-- MOESI: tracked read copies and one write copy. -/
def moesiRows : List Row := [
  ([0], [0, 8], entryWord 5 [5]),
  ([5], [13], entryWord 1 [1, 10, 12]),
  ([0], [1, 2, 6], entryWord 6 [5]),
  ([6], [13], entryWord 3 [4, 11, 12] (grant := true)),
  ([0], [7], entryWord 3 [4, 11, 13] (grant := true)),
  ([1], [0, 8], entryWord 7 [5]),
  ([7], [13], entryWord 1 [1, 10, 12]),
  ([1], [2, 7], 0x1C120008),
  ([7], [10], entryWord 7 [9]),
  ([7], [15], 0x0C010DB4),
  ([1], [1, 6], entryWord 12 [8] 1 1),
  ([12], [10, 12], entryWord 12 [9]),
  ([12], [11], entryWord 12 [7, 6, 9]),
  ([12], [15], entryWord 6 [5]),
  ([3], [2], 0x20300000),
  ([2, 3], [1, 2, 6, 7], entryWord 8 [] 3),
  ([8], [4], 0x28000D27),
  ([8], [5], entryWord 8 [7, 2, 13]),
  ([8], [11], entryWord 3 [7, 4, 11, 12] (grant := true)),
  ([8], [12], entryWord 6 [5]),
  ([10], [12], 0x0C010CB4),
  ([2, 3, 4], [0, 8], entryWord 9 [] 2),
  ([9], [11], entryWord 11 [7, 6]),
  ([9], [4], entryWord 11 [7, 2, 13]),
  ([9], [5], entryWord 9 [7, 2, 13]),
  ([9], [12], entryWord 5 [5]),
  ([11], [14], entryWord 1 [1, 10, 12]),
  ([11], [12], entryWord 1 [6, 1, 10, 12]),
  ([4], [1, 2, 6, 7], entryWord 12 [8] 3 3),
  ([2, 3], [4], entryWord 0 [7, 2, 6, 13]),
  ([2, 3], [5], entryWord 0 [7, 2, 13]),
  ([4], [4], entryWord 1 [7, 2, 6, 13]),
  ([4], [5], entryWord 1 [7, 2, 13]),
  ([1, 2, 3, 4], [9], entryWord 13 [8] 1 2),
  ([0], [17], entryWord 13 [8] 1 2),
  ([13], [10, 12], entryWord 13 [9]),
  ([13], [11], entryWord 13 [7, 9]),
  ([13], [4, 5], entryWord 13 [7, 2, 13]),
  ([13], [3], entryWord 13 [2, 13]),
  ([13], [15], entryWord 14 [6]),
  ([14], [14], entryWord 0 [3])]

/-- UPDATE: tracked read copies, and each store performed at the home and sent to them by UPD. -/
def updateRows : List Row := [
  ([0], [0, 8], entryWord 1 [5]),
  ([1], [13], entryWord 2 [1, 10, 12]),
  ([2], [0, 8], entryWord 4 [5]),
  ([4], [13], entryWord 2 [1, 10, 12]),
  ([0, 2], [1, 2, 6, 7], entryWord 3 [5, 8]),
  ([3], [15], entryWord 5 [11, 14, 8] 4 1),
  ([5], [10, 16], entryWord 5 [9]),
  ([5], [15], entryWord 2 [6, 1, 10, 12]),
  ([2], [9], entryWord 4 [8] 1 2),
  ([0], [17], entryWord 4 [8] 1 2),
  ([4], [10, 16], entryWord 4 [9]),
  ([4], [11], entryWord 4 [7, 9]),
  ([4], [3], entryWord 4 [2, 13]),
  ([4], [15], entryWord 5 [6]),
  ([5], [14], entryWord 0 [3])]

/-- MIGRATORY: every access is granted the write copy, which moves from slice to slice. -/
def migratoryRows : List Row := [
  ([0], [0, 1, 2, 6, 8], entryWord 1 [5]),
  ([1], [13], entryWord 2 [4, 11, 12] (grant := true)),
  ([0], [7], entryWord 2 [4, 11, 13] (grant := true)),
  ([2], [0, 1, 2, 6, 7, 8], entryWord 3 [] 3),
  ([3], [11], entryWord 2 [7, 4, 11, 12] (grant := true)),
  ([3], [4, 5], entryWord 4 [7, 2, 13]),
  ([4], [12], entryWord 2 [4, 11, 12] (grant := true)),
  ([3], [12], entryWord 1 [5]),
  ([2], [4], entryWord 0 [7, 2, 6, 13]),
  ([2], [5], entryWord 0 [7, 2, 13]),
  ([2], [9], entryWord 4 [8] 1 2),
  ([0], [17], entryWord 4 [8] 1 2),
  ([4], [10], entryWord 4 [9]),
  ([4], [11], entryWord 4 [7, 9]),
  ([4], [4, 5], entryWord 4 [7, 2, 13]),
  ([4], [3], entryWord 4 [2, 13]),
  ([4], [15], entryWord 5 [6]),
  ([5], [14], entryWord 0 [3])]

/-- WRITEONCE: one write copy; once it has gone the line is FROZEN, with leased read copies and stores at the home. -/
def writeonceRows : List Row := [
  ([0], [0, 1, 2, 6, 8], entryWord 1 [5]),
  ([1], [13], entryWord 2 [4, 11, 12] (grant := true)),
  ([0], [7], entryWord 2 [4, 11, 13] (grant := true)),
  ([2], [0, 1, 2, 6, 7, 8], entryWord 3 [] 3),
  ([3], [11], entryWord 3 [7, 6, 9]),
  ([3], [12], entryWord 3 [6, 9]),
  ([3], [4, 5], entryWord 3 [7, 2, 13]),
  ([3], [14], entryWord 4 [3, 10, 12, 8]),
  ([2], [4], entryWord 4 [7, 2, 6, 13]),
  ([2], [5], entryWord 4 [7, 2, 13]),
  ([4], [0, 8], entryWord 5 [5]),
  ([5], [13], entryWord 4 [10, 12]),
  ([4], [1, 2, 6, 7], entryWord 3 [5, 11, 14, 6]),
  ([2], [9], entryWord 3 [8] 1 2),
  ([0], [17], entryWord 3 [8] 1 2),
  ([3], [10], entryWord 3 [9]),
  ([3], [3], entryWord 3 [2, 13]),
  ([3], [15], entryWord 5 [6]),
  ([5], [14], entryWord 0 [3]),
  ([4], [9], entryWord 0 [])]

/-- Transience and CLASS of the states of a ROM protocol (R141). -/
def romStates (slot : Nat) : List (Bool × Nat) :=
  match slot with
  | 0 => [(false, 0), (true, 0), (false, 1), (true, 1)]
  | 1 => [(false, 0), (false, 2), (false, 3), (false, 3), (false, 3), (true, 0), (true, 0), (true, 2), (true, 3), (true, 3), (true, 3), (true, 3),
      (true, 3), (true, 3), (true, 0)]
  | 2 => [(false, 0), (true, 0), (false, 2), (true, 2), (true, 2), (true, 0)]
  | 3 => [(false, 0), (true, 0), (false, 3), (true, 3), (true, 3), (true, 0)]
  | 4 => [(false, 0), (true, 0), (false, 3), (true, 3), (false, 1), (true, 0)]
  | _ => [(false, 0), (true, 0), (false, 0), (true, 0)]

/-- FLAGS and LEASELEN of a ROM protocol (R141). -/
def romFlags (slot : Nat) : Nat × Nat :=
  match slot with
  | 0 => (0, 64)
  | 1 => (3, 0)
  | 2 => (1, 0)
  | 3 => (2, 0)
  | 4 => (2, 64)
  | _ => (4, 0)

/-- The rows of a ROM protocol. -/
def romRows (slot : Nat) : List Row :=
  match slot with
  | 1 => moesiRows
  | 2 => updateRows
  | 3 => migratoryRows
  | 4 => writeonceRows
  | _ => homeRows

/-- The state in which a ROM protocol waits for the write of a recalled line (R141, R427). -/
def recallWrite (slot : Nat) : Nat := if slot = 1 then 14 else 5

/-- The entry of a ROM protocol's state without a row. -/
def romDefault (transient : Bool) (state event : Nat) : Nat :=
  if 20 ≤ event then 0
  else if transient then state * 2 ^ 26 + 2 ^ 25
  else if event = 3 then entryWord state [2, 13]
  else if isEviction event then entryWord state [7, 2, 13]
  else entryWord state []

/-- A ROM table's entry. -/
def romWord (slot state event : Nat) : Nat :=
  match (romRows slot).find? fun r => r.1.contains state && r.2.1.contains event with
  | some r => r.2.2
  | none => romDefault ((romStates slot).getD state (false, 0)).1 state event

def romProtocol (slot : Nat) : Protocol where
  ns := (romStates slot).length
  flags := (romFlags slot).1
  lease := (romFlags slot).2
  transient := fun st => ((romStates slot).getD st (false, 0)).1
  cls := fun st => ((romStates slot).getD st (false, 0)).2
  entry := romWord slot

/-- The protocol of a table image (R130). -/
def imageProtocol (b : List Byte) : Protocol where
  ns := field b 4 1
  flags := field b 5 1
  lease := field b 6 1
  transient := fun st => natBits (field b 8 8) st 1 == 1
  cls := fun st => natBits (field b 16 16) (2 * st) 2
  entry := fun st ev => field b (64 + 4 * (32 * st + ev)) 4

def State.protocol (s : State) (slot : Nat) : Protocol :=
  if slot < 6 then romProtocol slot else imageProtocol (mget {} s.slots slot).image

/-! ## The validator (R136) -/

/-- Check 1 beyond the magic number and the reserved bytes: NS, and what FLAGS and state 0 may be. -/
def Protocol.headOk (p : Protocol) : Bool :=
  p.ns != 0 && decide (p.ns ≤ 64) && decide (p.flags < 8) && !p.transient 0 && p.cls 0 == 0
    && !(p.noCopy && (p.tracked || p.writeCopy))

/-- Whether an entry emits a message, to a copy or to a requester, or reads or writes memory (check 5). A reply counts as a message, as the
spec's own entry X_M x PUTX needs (notes/assumptions/20.md). -/
def TableEntry.emits (e : TableEntry) : Bool := e.msg != 0 || e.acts.any [5, 6, 12, 13].contains

/-- Whether an entry replies. -/
def TableEntry.replies (e : TableEntry) : Bool := e.acts.any fun a => a == 12 || a == 13

/-- Whether an action stands before an entry's first reply. -/
def TableEntry.before (e : TableEntry) (a : Nat) : Bool := (e.acts.takeWhile fun y => y != 12 && y != 13).contains a

/-- A link of the graph of check 6 that leaves its state: a stalled entry is none, and a self-loop with DECACK is allowed
(notes/assumptions/20.md). -/
def Protocol.link (p : Protocol) (st ev : Nat) : Bool :=
  let e := p.at_ st ev
  isAnswer ev && !e.stall && !(e.next == st && e.acts.contains 9)

/-- The transient states from which every link leads to a stable state within some number of entries, each with one that leaves it. -/
def Protocol.settling (p : Protocol) : (rounds : Nat) → List Nat
  | 0 => []
  | n + 1 =>
    let good := p.settling n
    (List.range p.ns).filter fun st => p.transient st
      && ((List.range 17).any fun ev => p.link st ev)
      && (List.range 17).all fun ev => !p.link st ev || !p.transient (p.at_ st ev).next || good.contains (p.at_ st ev).next

/-- The first state and event at which a condition fails, with the number of its check. -/
def Protocol.firstBad (p : Protocol) (check : Nat) (bad : Nat → Nat → Bool) : Option (Nat × Nat × Nat) :=
  (List.range p.ns).findSome? fun st => ((List.range 32).find? fun ev => bad st ev).map fun ev => (check, st, ev)

/-- Checks 2 to 9 of one entry (R136), but for check 6. Check 9 leaves out events 20 to 31, which are never raised and whose entries check 2 wants
to be zero (notes/assumptions/138.md). -/
def Protocol.entryBad (p : Protocol) (check st ev : Nat) : Bool :=
  let x := p.entry st ev
  let e := tableEntry x
  match check with
  | 2 => x == 0xFFFFFFFF || decide (p.ns ≤ e.next) || decide (4 < e.msg) || decide (3 < e.dest) || e.acts.contains 15 || (decide (20 ≤ ev) && x != 0)
  | 3 => e.stall && (e.next != st || e.msg != 0 || e.acts.any (· != 0))
  | 4 => isRequest ev && e.stall != p.transient st
  | 5 => e.next != st && p.transient e.next && !e.emits
  | 7 => e.replies && !isEviction ev && (!(e.before 10 || e.before 11) || e.before 11 != e.grantx)
  | 8 => e.acts.contains 11 && !(decide (p.cls st < 2) || [15, 11, 12].contains ev)
  | 9 =>
    (decide (ev < 20 ∧ 2 ≤ p.cls st ∧ p.cls e.next < 2) && !([15, 11, 12, 14].contains ev || (isEviction ev && e.acts.contains 2)))
      || (p.noCopy && p.cls st != 0)
  | _ => false

/-- Check 6: the first state from which no stable state is reached, with the first link that does not lead to one, or event 0
(notes/assumptions/138.md). -/
def Protocol.loopBad (p : Protocol) : Option (Nat × Nat × Nat) :=
  let good := p.settling 8
  ((List.range p.ns).find? fun st => p.transient st && !good.contains st).map fun st =>
    (6, st, ((List.range 17).find? fun ev => p.link st ev && p.transient (p.at_ st ev).next && !good.contains (p.at_ st ev).next).getD 0)

/-- The first of checks 1 to 9 that fails, but for the magic number and the reserved bytes: its number, and the state and the event of the
failing entry, which are 0 for check 1 (notes/assumptions/138.md). -/
def Protocol.failure (p : Protocol) : Option (Nat × Nat × Nat) :=
  if !p.headOk then some (1, 0, 0)
  else
    let first := fun (n : Nat) => p.firstBad n (p.entryBad n)
    [first 2, first 3, first 4, first 5, p.loopBad, first 7, first 8, first 9].findSome? id

/-- The validator on a table image: the first check that fails, with the state and the event of the failing entry; none where it passes. -/
def validate (b : List Byte) : Option (Nat × Nat × Nat) :=
  if field b 0 4 ≠ 0x4D425054 ∨ field b 7 1 ≠ 0 ∨ field b 32 32 ≠ 0 then some (1, 0, 0) else (imageProtocol b).failure

end Sys2Proof.Machine
end

