-- ==== Sys2Proof/Machine/Coherence.lean ====
section
/-! DEFINITION. The coherence engines (R123 to R140, R426 to R429): events at the home, the copies' side, the range and protocol commands, and
host caching agents (R119, R367, R368, R439). A core's accesses reach its slice's copies in Machine/Lines.lean; what a slice asks its line's
home for travels here as messages, and each engine handles one event in an arith cycle (R125). -/

namespace Sys2Proof.Machine

/-! ## Sharers and messages (R137, R138) -/

/-- The agents that a directory entry names. -/
def DirEntry.sharers (d : DirEntry) : List Nat :=
  if d.coarse then
    ((List.range 80).filter fun c => d.coarseBits.getLsbD c).flatMap (fun c => (List.range 4).map (4 * c + ·))
      ++ ((List.range 2).filter fun n => d.hostc.getLsbD n).flatMap fun n => (List.range 16).map (320 + 16 * n + ·)
  else d.ptrs.filterMap id

/-- Mark an agent in the coarse vector. -/
def DirEntry.mark (d : DirEntry) (a : Nat) : DirEntry :=
  if isHost a then { d with hostc := d.hostc ||| BitVec.ofNat 2 (2 ^ ((a - 320) / 16)) }
  else { d with coarseBits := d.coarseBits ||| BitVec.ofNat 80 (2 ^ (a / 4)) }

def noSharers : List (Option Nat) := [none, none, none, none]

/-- ADDSH (R138). -/
def DirEntry.addSharer (d : DirEntry) (a : Nat) : DirEntry :=
  if d.coarse then d.mark a
  else if d.ptrs.contains (some a) then d
  else
    match (List.range 4).find? fun i => (d.ptrs.getD i none).isNone with
    | some i => { d with ptrs := d.ptrs.set i (some a) }
    | none => ((d.ptrs.filterMap id).foldl DirEntry.mark { d with coarse := true, ptrs := noSharers }).mark a

/-- DELSH (R133). -/
def DirEntry.delSharer (d : DirEntry) (a : Nat) : DirEntry :=
  if d.coarse then d else { d with ptrs := d.ptrs.map fun x => if x = some a then none else x }

/-- CLRSH (R133, R138). -/
def DirEntry.clear (d : DirEntry) : DirEntry := { d with ptrs := noSharers, coarse := false, coarseBits := 0, hostc := 0 }

/-- SETOWN (R133, R138). -/
def DirEntry.own (d : DirEntry) (a : Nat) : DirEntry := { d.clear with ptrs := [some a, none, none, none] }

/-- What an action does to the sharer set (R133). -/
def DirEntry.share (d : DirEntry) (a code : Nat) : DirEntry :=
  match code with
  | 1 => d.addSharer a
  | 2 => d.delSharer a
  | 3 => d.clear
  | 4 => d.own a
  | _ => d

/-- The agents that an entry's message reaches, each with its message (R131, R138). In coarse mode no pointer names an owner: the message for the
owner goes to every marked agent, any of which may be it (notes/assumptions/137.md). -/
def DirEntry.dests (d : DirEntry) (e : TableEntry) (requester : Nat) : List (Nat × Nat) :=
  let all := d.sharers
  if e.msg = 0 then []
  else if d.coarse then (if e.dest = 1 then all.filter (· ≠ requester) else all).map fun a => (a, e.msg)
  else
    let owner := (d.ptrs.getD 0 none).toList
    match e.dest with
    | 0 => owner.map fun a => (a, e.msg)
    | 1 => (all.filter (· ≠ requester)).map fun a => (a, e.msg)
    | 2 => all.map fun a => (a, e.msg)
    | _ => owner.map (fun a => (a, e.msg)) ++ (all.filter fun a => !owner.contains a && a != requester).map fun a => (a, 1)

/-- A directory entry's 256 bits, as firmware reads them through the debug path (R137). -/
def DirEntry.bits (d : DirEntry) : BitVec 256 :=
  let ptr := fun (i : Nat) => match d.ptrs.getD i none with
    | some a => a % 512 * 2 ^ (9 * i) + 2 ^ (76 + i)
    | none => 0
  let sharers := if d.coarse then d.coarseBits.toNat else ptr 0 + ptr 1 + ptr 2 + ptr 3
  BitVec.ofNat 256 (
    d.wts % 2 ^ 64 * 2 ^ 192 + d.rts % 2 ^ 64 * 2 ^ 128 + d.state % 64 * 2 ^ 122 + d.slot % 8 * 2 ^ 119 + d.coarse.toNat * 2 ^ 118
      + d.nsv.toNat * 2 ^ 117 + d.nscope.toNat * 2 ^ 114 + d.nsagent % 512 * 2 ^ 105 + d.ackcnt % 512 * 2 ^ 96 + d.hostc.toNat * 2 ^ 82 + sharers)

/-! ## Transactions (R125) -/

def State.transOf (s : State) (line : Nat) : Trans := mget {} s.trans line

def State.modTrans (s : State) (line : Nat) (f : Trans → Trans) : State := { s with trans := mset s.trans line (f (s.transOf line)) }

def State.modDir (s : State) (line : Nat) (f : DirEntry → DirEntry) : State := s.setDir line (f (s.dirAt line))

/-- The protocol that handles a line (R127). -/
def State.protocolOf (s : State) (line : Nat) : Protocol := s.protocol (s.dirAt line).slot

/-- The table's entry for an event on a line, as it stands. -/
def State.entryFor (s : State) (line event : Nat) : TableEntry := (s.protocolOf line).at_ (s.dirAt line).state event

/-- Whether a line is between stable states. -/
def State.busyLine (s : State) (line : Nat) : Bool := (mfind s.trans line).isSome

/-- Whether a home has a transaction to give (R125). -/
def State.transFree (s : State) (line : Nat) : Bool :=
  decide ((s.trans.filter fun e => homeSlice (128 * e.1) == homeSlice (128 * line)).length < 64)

/-- An event joins its line's deferral queue (R125, R131). -/
def State.defer (s : State) (m : Msg) : State := { s with deferred := mset s.deferred m.line (mget [] s.deferred m.line ++ [m]) }

/-- An event goes back to the head of its line's deferral queue. -/
def State.putBack (s : State) (m : Msg) : State := { s with deferred := mset s.deferred m.line (m :: mget [] s.deferred m.line) }

/-- The request of an open transaction, as an event. -/
def Trans.event (t : Trans) (line : Nat) : Option Msg := t.req.map fun r => { event := r.event, agent := r.agent, line := line, req := some r }

/-- Whether a line's engine has handled its event of the arith cycle (R125). -/
def State.engineDone (s : State) (line : Nat) : Bool := s.handled.contains (homeSlice (128 * line))

/-- A line's engine handles its event of the arith cycle. -/
def State.engineTakes (s : State) (line : Nat) : State := { s with handled := homeSlice (128 * line) :: s.handled }

/-! ## Running an entry (R131 to R134) -/

/-- What an entry is run for: its line, its requester with its program time, whether the requester evicts (R132), the event's message, the entry,
its protocol, and how many agents its message will reach. -/
structure Running where
  line : Nat
  agent : Nat
  time : Nat
  evict : Bool
  m : Msg
  p : Protocol
  e : TableEntry
  reach : Nat

/-- A reply to the requester (R133). -/
def State.reply (s : State) (x : Running) (withData : Bool) : State :=
  let d := s.dirAt x.line
  let t := s.transOf x.line
  { s with msgs := s.msgs ++ [{
      event := 40, agent := x.agent, line := x.line, wts := d.wts, rts := d.rts
      data := if withData then some (t.buffer.getD (s.lineAt x.line)) else none
      ts := t.ts, grantx := x.e.grantx, evict := x.evict, applied := t.applied && !x.evict, result := t.result, flags := x.p.flags }] }

/-- TAKE and DECACK fold the times that a message carries into the home's (R134). -/
def State.foldTimes (s : State) (x : Running) : State :=
  s.modDir x.line fun d => { d with rts := max d.rts x.m.rts, wts := max d.wts x.m.wts }

/-- APPLY: the requester's operation on the home buffer (R133). -/
def State.applyAtHome (s : State) (line : Nat) : State :=
  let t := s.transOf line
  match t.req.bind (·.op) with
  | some op =>
    if op.isLoad then s
    else
      let (r, l) := op.run (t.buffer.getD (s.lineAt line))
      (s.modTrans line fun t => { t with buffer := some l, applied := true, result := { r with ts := t.ts } }).wakeWatchers line
  | none => s

/-- One action of an entry (R133). -/
def State.act (s : State) (x : Running) (code : Nat) : State :=
  let line := x.line
  let d := s.dirAt line
  match code with
  | 1 | 2 | 3 | 4 => s.modDir line fun d => d.share x.agent code
  | 5 => (s.holdHost line false).modTrans line fun t => { t with buffer := some (s.lineAt line), memData := true }
  | 6 =>
    let s := s.holdHost line true
    let s := match (s.transOf line).buffer with
      | some l => s.putLine line l
      | none => s
    s.modTrans line fun t => { t with memAck := true }
  | 7 => (s.foldTimes x).modTrans line fun t => match x.m.data with
    | some l => { t with buffer := some l }
    | none => t
  | 8 => (s.modDir line fun d => { d with ackcnt := x.reach }).modTrans line fun t => if x.reach = 0 then { t with ackZero := true } else t
  | 9 =>
    let left := (d.ackcnt + 511) % 512
    ((s.foldTimes x).modDir line fun d => { d with ackcnt := left }).modTrans line fun t => if left = 0 then { t with ackZero := true } else t
  | 10 =>
    let ts := max x.time d.wts
    (s.modDir line fun d => { d with rts := max d.rts (ts + x.p.lease) }).modTrans line fun t => { t with ts := ts }
  | 11 =>
    let ts := max x.time (d.rts + 1)
    (s.modDir line fun d => { d with wts := ts, rts := ts }).modTrans line fun t => { t with ts := ts }
  | 12 => s.reply x true
  | 13 => s.reply x false
  | 14 => s.applyAtHome line
  | _ => s

/-- Send an entry's message to an agent: a slice gets it as an event, a host agent as a back-invalidate snoop (R135); a lost agent is
answered for (R426). -/
def State.emit (s : State) (line : Nat) (x : Nat × Nat) : State :=
  let d := s.dirAt line
  if s.lostAgents.contains x.1 then { s with msgs := s.msgs ++ [{ event := 18, agent := x.1, line := line }] }
  else if isHost x.1 then s.send (.snoop x.1 line)
  else { s with msgs := s.msgs ++ [{
    event := 32 + x.2, agent := x.1, line := line, wts := d.wts, rts := d.rts
    data := if x.2 = 4 then (s.transOf line).buffer else none }] }

/-- The transaction of an event: a request opens one, and so does an eviction on a stable line (R125). -/
def State.openTrans (s : State) (m : Msg) : State :=
  if isRequest m.event then
    { s with trans := mset s.trans m.line { req := m.req, agent := m.agent, time := (m.req.map (·.time)).getD 0 } }
  else if s.busyLine m.line then s
  else { s with trans := mset s.trans m.line { agent := m.agent, time := m.ts, evict := isEviction m.event } }

/-- Run the table's entry for an event: its actions, its message, its next state; in a stable state the transaction ends (R125, R133). -/
def State.runEntry (s : State) (m : Msg) : State :=
  let line := m.line
  let e := s.entryFor line m.event
  if e.stall then s
  else
    let p := s.protocolOf line
    let s := s.openTrans m
    let t := s.transOf line
    let sender := isEviction m.event || decide (17 ≤ m.event)
    let agent := if sender then m.agent else t.agent
    let reach := ((e.acts.foldl (fun (d : DirEntry) a => d.share agent a) (s.dirAt line)).dests e agent).length
    let x : Running := {
      line := line, agent := agent, time := if isEviction m.event then m.ts else t.time
      evict := isEviction m.event || (t.evict && !sender), m := m, p := p, e := e, reach := reach }
    let s := e.acts.foldl (fun (s : State) a => s.act x a) s
    let dests := (s.dirAt line).dests e agent
    let s := dests.foldl (fun (s : State) y => s.emit line y) s
    let s := if dests.isEmpty then s else s.modTrans line fun t => { t with msgs := t.msgs ++ dests, sentAt := s.clock, resent := false }
    let s := s.modDir line fun d => { d with state := e.next }
    if p.transient e.next then s else { s with trans := mdel s.trans line }

/-! ## Lost agents and entries (R426, R427) -/

/-- A line's contents with every granule poisoned, as AGENTLOST carries them (R426). -/
def State.poisonedLine (s : State) (line : Nat) : Line := { data := (s.lineAt line).data, poison := List.range 8 }

/-- A lost agent's answer, or its place in the sharer set (R426, R427). In the ROM tables a lost read copy counts as INVACK, or PUTS where no
message is outstanding; a lost write copy leaves its line poisoned in memory, and the line returns to state 0. -/
def State.agentLost (s : State) (line agent : Nat) : State :=
  let d := s.dirAt line
  let t := s.transOf line
  let answers := t.msgs.any fun x => x.1 == agent
  let s := if s.busyLine line then s.modTrans line fun t => { t with msgs := t.msgs.filter fun x => x.1 != agent } else s
  let writer := (s.protocolOf line).cls d.state == 3 && !d.coarse && d.ptrs.getD 0 none == some agent
  let record := fun (s : State) (action : Nat) => s.errorRecord 2 10 1 (128 * line) agent 0 0 action
  let s := s.dropCopy agent line
  if 6 ≤ d.slot then
    record (s.runEntry { event := 18, agent := if answers then t.agent else agent, line := line, data := some (s.poisonedLine line) })
      (if writer then 1 else 5)
  else if writer then
    let s := match t.event line with
      | some m => s.putBack m
      | none => s
    let s := s.putLine line (s.poisonedLine line)
    let s := { s with trans := mset s.trans line { memAck := true } }
    record (s.modDir line fun d => { d.clear with state := recallWrite d.slot, ackcnt := 0 }) 1
  else if answers then record (s.runEntry { event := 10, agent := agent, line := line }) 5
  else record (s.runEntry { event := 3, agent := agent, line := line }) 5

/-- POISONED: the entry is rebuilt in coarse mode and the table recalls the line from every agent (R427). -/
def State.rebuildEntry (s : State) (line : Nat) : State :=
  let home := homeSlice (128 * line)
  let floor := mget 0 s.floor home
  let s := match (s.transOf line).event line with
    | some m => s.putBack m
    | none => s
  let s := { s with trans := mdel s.trans line }
  let s := s.setDir line {
    wts := floor, rts := floor, slot := (s.dirAt line).slot, coarse := true, coarseBits := BitVec.allOnes 80, hostc := 3 }
  (s.errorRecord 2 4 1 (128 * line) home 0 0 5).runEntry { event := 17, agent := 512, line := line }

/-- TIMEOUT: the silent agents are handled as lost (R426, R427). -/
def State.timedOut (s : State) (line : Nat) : State :=
  let t := s.transOf line
  let silent := t.msgs.map (·.1)
  let s : State := { s with lostAgents := s.lostAgents ++ silent.filter fun a => isHost a && !s.lostAgents.contains a }
  if (s.dirAt line).slot < 6 then silent.foldl (fun (s : State) a => s.agentLost line a) s
  else
    (s.modTrans line fun t => { t with msgs := [] }).runEntry
      { event := 19, agent := t.agent, line := line, data := some (s.poisonedLine line) }

/-! ## Handling an event (R125) -/

/-- Whether a message with an event on a line is under way, or waits for the line to be stable. -/
def State.raised (s : State) (line event : Nat) : Bool :=
  (s.msgs.any fun m => m.line == line && m.event == event) || (mget [] s.deferred line).any fun m => m.event == event

/-- Raise RECALL on a line (R127, R139). -/
def State.recall (s : State) (line : Nat) : State :=
  if !coherent line || s.raised line 9 then s
  else { s with msgs := s.msgs ++ [{ event := 9, agent := 512, line := line, req := some { event := 9, agent := 512 } }] }

/-- The set of its home's directory that a line's entry is kept in (notes/assumptions/26.md). -/
def dirSet (line : Nat) : Nat × Nat := (homeSlice (128 * line), line / 160 % 1024)

/-- An entry is freed: its lease goes into the slice's floor (R139). -/
def State.freeEntry (s : State) (line : Nat) : State :=
  let home := homeSlice (128 * line)
  { s with dir := mdel s.dir line, floor := mset s.floor home (max (mget 0 s.floor home) (s.dirAt line).rts) }

/-- Whether the directory has a way for a line. Where its set is full, the stable line used least lately makes room: its entry is freed in state
0, and else recalled, and the event waits; where every line of the set is transient it waits too (R139; notes/assumptions/137.md). -/
def State.wayFor (s : State) (line : Nat) : Bool × State :=
  if (mfind s.dir line).isSome then (true, s)
  else
    let mates := s.dir.filter fun e => dirSet e.1 == dirSet line
    if mates.length < 16 then (true, s)
    else
      match leastUsed ((mates.filter fun e => !s.busyLine e.1).map fun e => (e.1, e.2.used)) with
      | none => (false, s)
      | some old => if (s.dirAt old).state = 0 then (true, s.freeEntry old) else (false, s.recall old)

/-- Whether an event may be handled now: the engine has handled none in this cycle (R125), a narrow-scope holder other than its agent has
published (R140), and the directory has a way. -/
def State.mayHandle (s : State) (m : Msg) : Bool × State :=
  let d := s.dirAt m.line
  if s.engineDone m.line then (false, s)
  else if d.nsv && m.agent ≠ d.nsagent then (false, if d.nswait then s else s.modDir m.line fun d => { d with nswait := true })
  else s.wayFor m.line

/-- A line in state 0 takes the slot of its range (R127). -/
def State.takeSlot (s : State) (line : Nat) : State :=
  s.modDir line fun d => { d with slot := if d.state = 0 && !s.busyLine line then s.slotFor (128 * line) else d.slot }

/-- The lost agents that a stable line's sharer set names are struck when the line is handled (R426). -/
def State.strikeLost (s : State) (line : Nat) : State :=
  let d := s.dirAt line
  if d.coarse then s
  else (d.sharers.filter s.lostAgents.contains).foldl (fun (s : State) a => if s.busyLine line then s else s.agentLost line a) s

/-- The engine handles an event. A request that finds its line transient, or no transaction free, and an event that the table stalls, join the
deferral queue; an answer counts where the transaction waits for it. -/
def State.handle (s : State) (m : Msg) : State :=
  let s := (s.takeSlot m.line).strikeLost m.line
  match m.event with
  | 17 => s.rebuildEntry m.line
  | 18 => s.agentLost m.line m.agent
  | _ =>
    if isRequest m.event && (s.busyLine m.line || !s.transFree m.line) || (s.entryFor m.line m.event).stall then s.defer m
    else if isAnswer m.event then
      if (s.transOf m.line).msgs.any fun x => x.1 == m.agent then
        (s.modTrans m.line fun t => { t with msgs := t.msgs.filter fun x => x.1 != m.agent }).runEntry m
      else s
    else s.runEntry { m with data := match m.req.bind (·.op) with
      | some (.whole b) => some { data := b }
      | _ => m.data }

/-- An event that is under way to its home is handled, where it may be. -/
def State.serveMsg (s : State) (m : Msg) : State :=
  match s.mayHandle m with
  | (false, s) => s
  | (true, s) => ({ s with msgs := s.msgs.erase m }.engineTakes m.line).handle m

/-- The first message under way with an event, an agent and a line. -/
def State.inFlight (s : State) (event agent line : Nat) : Option Msg :=
  s.msgs.find? fun m => m.event == event && m.agent == agent && m.line == line

/-- An event of an agent on a line: one under way is handled, and else it is raised. -/
def State.event (s : State) (event agent line : Nat) (raise : State → State) : State :=
  match s.inFlight event agent line with
  | some m => s.serveMsg m
  | none => raise s

/-- An event at the home from outside or within the package. -/
def atHome (f : State → State) (s : State) : Res :=
  match s.unit with
  | .none => .next (f s)
  | _ => .next s

/-! ## Requests (R132) -/

/-- A slice or host agent asks for a line; it has at most one request outstanding on it (R125). The yard caches no line of a slab that is not
core-owned (R83, R92). A host agent's requests start from its last completion (R119). -/
def State.newRequest (s : State) (line : Nat) (r : Req) : State :=
  if !coherent line || decide (352 ≤ r.agent) || s.lostAgents.contains r.agent || s.asking r.agent line || !s.coreOwned (128 * line) then s
  else s.ask line (if isHost r.agent then { r with time := max r.time (mget 0 s.agentTime r.agent) } else r)

/-- A request event. -/
def State.request (s : State) (line : Nat) (r : Req) : State := s.event r.event r.agent line fun s => s.newRequest line r

/-- GETS: a read miss (R132). -/
def execGets (agent : BitVec 9) (line : BitVec 45) (pt : BitVec 64) (s : State) : Res :=
  atHome (fun s => s.request line.toNat { event := 0, agent := agent.toNat, time := pt.toNat }) s

/-- The operation of a request that carries a store, atomic or reduction, numbered as in R365; the offset is aligned to the size. -/
def carriedOp (off size op x : Nat) : Option LineOp :=
  let n := 2 ^ min size 4
  let aligned := fun (n : Nat) => off % 128 / n * n
  match RemoteOp.ofCode op with
  | some .store | some .put => some (.store (aligned n) n (x % 2 ^ (8 * n)))
  | some (.atomic a w) | some (.reduce a w) => some (.atomic a w (aligned (wideBytes w)) (x % 2 ^ (8 * wideBytes w)))
  | _ => none

/-- A request that carries a store, atomic or reduction. -/
def opRequest (event : Nat) (agent : BitVec 9) (pt : BitVec 64) (off : BitVec 7) (size : BitVec 3) (op : BitVec 8) (data : BitVec 128) : Req :=
  { event := event, agent := agent.toNat, time := pt.toNat, op := carriedOp off.toNat size.toNat op.toNat data.toNat }

/-- GETX: a write or atomic miss without a copy (R132). -/
def execGetx (agent : BitVec 9) (line : BitVec 45) (pt : BitVec 64) (off : BitVec 7) (size : BitVec 3) (op : BitVec 8) (data : BitVec 128)
    (s : State) : Res :=
  atHome (fun s => s.request line.toNat (opRequest 1 agent pt off size op data)) s

/-- UPG: a write by a slice that holds a read copy (R132). -/
def execUpg (agent : BitVec 9) (line : BitVec 45) (pt : BitVec 64) (off : BitVec 7) (size : BitVec 3) (op : BitVec 8) (data : BitVec 128)
    (s : State) : Res :=
  atHome (fun s => s.request line.toNat (opRequest 2 agent pt off size op data)) s

/-- ATOMIC: an atomic or reduction performed at the home (R132). -/
def execAtomic (agent : BitVec 9) (line : BitVec 45) (pt : BitVec 64) (off : BitVec 7) (size : BitVec 3) (op : BitVec 8) (data : BitVec 128)
    (s : State) : Res :=
  atHome (fun s => s.request line.toNat (opRequest 6 agent pt off size op data)) s

/-- WRITE: a whole line without read (R132). -/
def execWrite (agent : BitVec 9) (line : BitVec 45) (pt : BitVec 64) (data : BitVec 1024) (s : State) : Res :=
  atHome (fun s => s.request line.toNat {
    event := 7, agent := agent.toNat, time := pt.toNat, op := some (.whole (leBytes data.toNat 128)) }) s

/-- RENEW: a lease extension (R132). -/
def execRenew (agent : BitVec 9) (line : BitVec 45) (pt : BitVec 64) (s : State) : Res :=
  atHome (fun s => s.request line.toNat { event := 8, agent := agent.toNat, time := pt.toNat }) s

/-- RECALL (R132). -/
def execRecall (line : BitVec 45) (s : State) : Res :=
  atHome (fun s => s.event 9 512 line.toNat fun s => s.recall line.toNat) s

/-- A host snoop of a host-memory line raises RECALL, and the package holds the line no longer (R119, R135). -/
def execHostSnoop (line : BitVec 45) (s : State) : Res :=
  atHome (fun s =>
    if region (128 * line.toNat) = .host then { s.recall line.toNat with cxlHeld := s.cxlHeld.filter (· ≠ line.toNat) } else s) s

/-- The head of a stable line's deferral queue is handled (R125). -/
def execDeferredRequest (line : BitVec 45) (s : State) : Res :=
  atHome (fun s =>
    let l := line.toNat
    match mget [] s.deferred l with
    | [] => s
    | m :: rest =>
      if s.busyLine l || !s.transFree l then s
      else
        match s.mayHandle m with
        | (false, s) => s
        | (true, s) =>
          ({ s with deferred := if rest.isEmpty then mdel s.deferred l else mset s.deferred l rest }.engineTakes l).handle m) s

/-! ## Evictions (R132, R134, R135) -/

/-- An eviction event: the agent gives up a copy of the kind that the event is for. -/
def State.evict (s : State) (event agent line : Nat) : State :=
  s.event event agent line fun s =>
    match mfind s.copies (copyKey agent line) with
    | none => s
    | some c =>
      let fits := c.owner.isNone && (if event = 3 then !c.write else c.write && c.dirty == decide (event = 4))
      if fits then s.evictOwn agent line else s

/-- PUTS (R132). -/
def execPuts (agent : BitVec 9) (line : BitVec 45) (s : State) : Res := atHome (fun s => s.evict 3 agent.toNat line.toNat) s

/-- PUTX (R132). -/
def execPutx (agent : BitVec 9) (line : BitVec 45) (s : State) : Res := atHome (fun s => s.evict 4 agent.toNat line.toNat) s

/-- PUTC (R132). -/
def execPutc (agent : BitVec 9) (line : BitVec 45) (s : State) : Res := atHome (fun s => s.evict 5 agent.toNat line.toNat) s

/-! ## Responses and internal events (R132) -/

/-- Whether an answer fits a message (R135): INVACK and FWDDATA answer INV, FWDDATA and FWDNACK answer FWDS and FWDX, UPDACK and, of a host agent
whose copy the snoop has taken, INVACK answer UPD. -/
def answersTo (msg event : Nat) : Bool :=
  match msg with
  | 1 => event == 10 || event == 11
  | 4 => event == 10 || event == 16
  | _ => event == 11 || event == 12

/-- A host agent answers a snoop (R135): it gives up its copy, which FWDDATA carries, and which is written back first where another answer is
given. -/
def State.hostAnswer (s : State) (event agent line : Nat) : State :=
  let c : Copy := mget {} s.copies (copyKey agent line)
  let s := if event = 11 then s.dropCopy agent line else s.evictOwn agent line
  { s with msgs := s.msgs ++ [{
      event := event, agent := agent, line := line, wts := if event = 11 then c.wts else 0, rts := c.rts
      data := if event = 11 && c.dirty then some c.line else none }] }

/-- A response: one under way is handled; a host agent's comes from outside, once, and answers the message that is outstanding. -/
def State.respond (s : State) (event agent line : Nat) : State :=
  s.event event agent line fun s =>
    let asked := (s.transOf line).msgs.any fun x => x.1 == agent && answersTo x.2 event
    let given := s.msgs.any fun m => m.agent == agent && m.line == line && isAnswer m.event
    if isHost agent && asked && !given && !s.lostAgents.contains agent then s.hostAnswer event agent line else s

/-- INVACK (R132). -/
def execInvack (agent : BitVec 9) (line : BitVec 45) (s : State) : Res := atHome (fun s => s.respond 10 agent.toNat line.toNat) s

/-- FWDDATA (R132). -/
def execFwddata (agent : BitVec 9) (line : BitVec 45) (s : State) : Res := atHome (fun s => s.respond 11 agent.toNat line.toNat) s

/-- FWDNACK (R132). -/
def execFwdnack (agent : BitVec 9) (line : BitVec 45) (s : State) : Res := atHome (fun s => s.respond 12 agent.toNat line.toNat) s

/-- UPDACK (R132). -/
def execUpdack (agent : BitVec 9) (line : BitVec 45) (s : State) : Res := atHome (fun s => s.respond 16 agent.toNat line.toNat) s

/-- An internal event that stands due on a line's transaction (R132); one that the table stalls stays due. -/
def State.internal (s : State) (line event : Nat) (due : Trans → Bool) (clear : Trans → Trans) : State :=
  if !s.busyLine line || !due (s.transOf line) || s.engineDone line || (s.entryFor line event).stall then s
  else ((s.engineTakes line).modTrans line clear).runEntry { event := event, agent := 512, line := line }

/-- MEMDATA (R132). -/
def execMemdata (line : BitVec 45) (s : State) : Res :=
  atHome (fun s => s.internal line.toNat 13 (·.memData) fun t => { t with memData := false }) s

/-- MEMACK (R132). -/
def execMemack (line : BitVec 45) (s : State) : Res :=
  atHome (fun s => s.internal line.toNat 14 (·.memAck) fun t => { t with memAck := false }) s

/-- ACKZERO (R132). -/
def execAckzero (line : BitVec 45) (s : State) : Res :=
  atHome (fun s => s.internal line.toNat 15 (·.ackZero) fun t => { t with ackZero := false }) s

/-! ## Error events (R426, R427) -/

/-- POISONED: a directory entry is uncorrectable (R427). -/
def execPoisoned (line : BitVec 45) (s : State) : Res :=
  atHome (fun s => s.event 17 512 line.toNat fun s =>
    if coherent line.toNat then { s with msgs := s.msgs ++ [{ event := 17, agent := 512, line := line.toNat }] } else s) s

/-- AGENTLOST (R426). -/
def execAgentlost (agent : BitVec 9) (line : BitVec 45) (s : State) : Res :=
  atHome (fun s => s.event 18 agent.toNat line.toNat fun s =>
    let (a, l) := (agent.toNat, line.toNat)
    let named := (s.dirAt l).sharers.contains a || (s.transOf l).msgs.any fun x => x.1 == a
    if coherent l && named && s.lostAgents.contains a then { s with msgs := s.msgs ++ [{ event := 18, agent := a, line := l }] } else s) s

/-- TIMEOUT (R426). -/
def execTimeout (line : BitVec 45) (s : State) : Res :=
  atHome (fun s =>
    let l := line.toNat
    let t := s.transOf l
    if t.msgs.isEmpty || decide (s.clock < t.sentAt + 2 ^ 20) || s.engineDone l then s else (s.engineTakes l).timedOut l) s

/-- An unanswered message is sent once again (R426). -/
def execMessageResend (line : BitVec 45) (s : State) : Res :=
  atHome (fun s =>
    let l := line.toNat
    let t := s.transOf l
    if t.msgs.isEmpty || t.resent || decide (s.clock < t.sentAt + 2 ^ 19) then s
    else
      let s := t.msgs.foldl (fun (s : State) (x : Nat × Nat) =>
        { s with msgs := s.msgs.filter fun (m : Msg) => !(m.line == l && m.agent == x.1 && m.event == 32 + x.2) }.emit l x) s
      s.modTrans l fun t => { t with resent := true }) s

/-- A host link has gone down: its caching agents are lost (R426). -/
def execHostAgentLost (die : BitVec 1) (s : State) : Res :=
  atHome (fun s =>
    let gone := (List.range 16).map (320 + 16 * die.toNat + ·)
    let s := { s with lostAgents := s.lostAgents ++ gone.filter fun a => !s.lostAgents.contains a }
    s.trans.foldl (fun (s : State) (e : Nat × Trans) =>
      (e.2.msgs.filter fun x => gone.contains x.1).foldl (fun (s : State) (x : Nat × Nat) =>
        { s with msgs := s.msgs ++ [{ event := 18, agent := x.1, line := e.1 }] }) s) s) s

/-! ## The copies' side (R135) -/

/-- A message reaches a copy; `react` gives the answer's event and what becomes of the copy. FWDDATA carries a dirty copy's data (R134). -/
def State.atCopy (s : State) (kind agent line : Nat) (react : Option Copy → Msg → Option (Nat × Option Copy)) : State :=
  match s.inFlight (32 + kind) agent line with
  | none => s
  | some m =>
    let c := mfind s.copies (copyKey agent line)
    match react c m with
    | none => s
    | some (event, kept) =>
      let old : Copy := c.getD {}
      let answer : Msg := {
        event := event, agent := agent, line := line, wts := if event = 11 then old.wts else 0, rts := old.rts
        data := if event = 11 && old.dirty then some old.line else none }
      { s with
        msgs := s.msgs.erase m ++ [answer]
        copies := match kept with
          | some k => mset s.copies (copyKey agent line) k
          | none => mdel s.copies (copyKey agent line) }

/-- INV (R135). -/
def execInv (agent : BitVec 9) (line : BitVec 45) (s : State) : Res :=
  atHome (fun s => s.atCopy 1 agent.toNat line.toNat fun c _ =>
    match c with
    | some c => some (if c.write then 11 else 10, none)
    | none => some (10, none)) s

/-- Whether a read copy's lease is only the home's to extend: it is not invalidated, or updated only after the store's timestamp is given (R108,
R134; notes/assumptions/46.md). -/
def Protocol.leases (p : Protocol) : Bool := !(p.tracked && p.writeCopy)

/-- FWDS (R135). A read copy that it reaches in coarse mode answers that it has no data to give (R138). -/
def execFwds (agent : BitVec 9) (line : BitVec 45) (s : State) : Res :=
  atHome (fun s =>
    let leased := (s.protocolOf line.toNat).leases
    s.atCopy 2 agent.toNat line.toNat fun c _ =>
      match c with
      | some c => if c.write then some (11, some { c with write := false, dirty := false, leased := leased }) else some (12, some c)
      | none => some (12, none)) s

/-- FWDX (R135). -/
def execFwdx (agent : BitVec 9) (line : BitVec 45) (s : State) : Res :=
  atHome (fun s => s.atCopy 3 agent.toNat line.toNat fun c _ => some (if c.isSome then 11 else 12, none)) s

/-- UPD (R135). -/
def execUpd (agent : BitVec 9) (line : BitVec 45) (s : State) : Res :=
  atHome (fun s => s.atCopy 4 agent.toNat line.toNat fun c m =>
    match c with
    | some c => if c.write then none else some (16, some { c with line := m.data.getD c.line, wts := m.wts, rts := m.rts })
    | none => some (16, none)) s

/-! ## Replies (R133, R135) -/

/-- The access that a request was for has been performed: who awaits it gets the result. -/
def State.giveResult (s : State) (line : Nat) (r : Req) (op : LineOp) (x : LineResult) : State :=
  let g : Got := { pa := 128 * line + op.span.1, op := op, result := x }
  match r.who with
  | some (.lane key) =>
    { s with threads := mmap s.threads fun k t => if k = key then
        (match t.st with
          | .waiting w => if w.kind = .miss ∧ w.ticket = r.ticket then { t with got := t.got ++ [g] } else t
          | _ => t)
        else t }
  | some (.cxl pa) => s.send (.cxl r.agent pa (if op.isLoad then leBytes x.val op.span.2 else []) x.poison)
  | some w => { s with agentWaits := s.agentWaits.map fun a => if a.1 = w ∧ a.2.ticket = r.ticket then (a.1, { a.2 with got := a.2.got ++ [g] }) else a }
  | none => s

/-- The copy that a reply leaves with its requester, before the requester's own operation: the line it brings, or the copy the requester had, with
the reply's times; none where it brings no line to a requester without a copy, but for a whole line that the requester is to write. -/
def State.replyCopy (s : State) (m : Msg) (op : Option LineOp) : Option Copy :=
  let tracked := natBits m.flags 0 1 == 1
  let write := m.grants
  let kind : Copy := { write := write, tracked := tracked, leased := !write && !(tracked && natBits m.flags 1 1 == 1), wts := m.wts, rts := m.rts }
  match m.data, mfind s.copies (copyKey m.agent m.line), op with
  | some l, _, _ => some { kind with line := l, dirty := write && l != s.lineAt m.line }
  | none, some c, _ => some { kind with line := c.line, dirty := write && c.line != s.lineAt m.line, rts := max c.rts m.rts, wts := max c.wts m.wts }
  | none, none, some (.whole b) => if write then some { kind with line := { data := b }, dirty := true } else none
  | none, none, _ => none

/-- What the requester's operation gives at a reply: what APPLY gave; a load of the line that the reply has brought; or an operation under a write
grant, with the copy as it leaves it. None where the reply neither grants nor performs it, and the requester asks again. -/
def performReply (m : Msg) (op : LineOp) (c : Option Copy) : Option (LineResult × Option Copy) :=
  if m.applied then some ({ m.result with ts := m.ts }, c)
  else
    match c with
    | none => none
    | some c =>
      let (x, l) := op.run c.line
      if op.isLoad then some ({ x with ts := m.ts }, some c)
      else if c.write then some ({ x with ts := m.ts }, some { c with line := l, dirty := true, wts := m.ts, rts := m.ts })
      else none

/-- An agent keeps a copy where the yard may hold the line (R83, R92); a host agent keeps none of a line that it has written over CXL.mem. -/
def State.keepCopy (s : State) (agent line : Nat) (gone : Bool) (c : Copy) : State :=
  let s := s.install agent line c
  if gone || !s.coreOwned (128 * line) then s.evictOwn agent line else s

/-- A reply reaches its requester: the agent's program time, the copy, the access (R133, R135). -/
def State.takeReply (s : State) (m : Msg) (r : Req) : State :=
  let (a, l) := (m.agent, m.line)
  let s := { s with
    pendingReq := s.pendingReq.filter fun x => !(x.1 == a && x.2.1 == l)
    agentTime := mset s.agentTime a (max (mget 0 s.agentTime a) m.ts) }
  let noCopy := natBits m.flags 2 1 == 1
  let c := s.replyCopy m r.op
  let done := r.op.bind fun op => (performReply m op c).map fun x => (op, x)
  let overCxl := match r.who with
    | some (.cxl _) => true
    | _ => false
  let kept := match done with
    | some (_, x) => x.2
    | none => c
  let writes := (r.op.map fun op => !op.isLoad) == some true
  let s := match kept with
    | some c => if noCopy then s else s.keepCopy a l (overCxl && writes) c
    | none => s
  match r.op, done with
  | some op, some (_, x) => ((s.reduceFlags op x.1).giveResult l r op x.1).wakeWatchers l
  | some _, none => if writes && m.grants then s.ask l { r with event := 1 } else if overCxl then s.ask l r else s
  | none, _ => s

/-- A requester receives its reply (R133, R135); the acknowledgement of an eviction changes nothing. -/
def execRequesterReply (agent : BitVec 9) (line : BitVec 45) (s : State) : Res :=
  atHome (fun s =>
    match s.inFlight 40 agent.toNat line.toNat with
    | none => s
    | some m =>
      let s := { s with msgs := s.msgs.erase m }
      if m.evict then s
      else
        match s.pendingReq.find? fun x => x.1 == m.agent && x.2.1 == m.line with
        | none => s
        | some x => s.takeReply m x.2.2) s

/-- A narrow-scope holder that has been asked publishes (R140): its operations are in its copy of the line, which the protocol keeps, so it holds
none back, and with its answer NSV is cleared. -/
def execPublishRequest (line : BitVec 45) (s : State) : Res :=
  atHome (fun s =>
    let d := s.dirAt line.toNat
    if d.nsv && d.nswait then s.modDir line.toNat fun d => { d with nsv := false, nswait := false } else s) s

/-! ## An arith cycle of the engines (R125) -/

/-- A message in flight is delivered to the unit it is for. -/
def deliverMsg (m : Msg) (s : State) : Res :=
  let (a, l) := (BitVec.ofNat 9 m.agent, BitVec.ofNat 45 m.line)
  match m.event with
  | 33 => execInv a l s
  | 34 => execFwds a l s
  | 35 => execFwdx a l s
  | 36 => execUpd a l s
  | 40 => execRequesterReply a l s
  | _ => atHome (fun s => s.serveMsg m) s

/-- Go on from a next state. -/
def andThen (r : Res) (f : State → Res) : Res :=
  match r with
  | .next s => f s
  | x => x

/-- The internal events of a line, in the order in which they are taken (notes/assumptions/136.md). -/
def internalEvents (line : Nat) (s : State) : Res :=
  let l := BitVec.ofNat 45 line
  andThen (andThen (execAckzero l s) (execMemdata l)) (execMemack l)

/-- Of each agent's messages to the home of a line, the first sent: the others follow it (notes/assumptions/136.md). -/
def firstSent : List Msg → List (Nat × Nat) → List Msg
  | [], _ => []
  | m :: r, seen =>
    if 32 ≤ m.event then firstSent r seen
    else if seen.contains (m.agent, m.line) then firstSent r seen
    else m :: firstSent r ((m.agent, m.line) :: seen)

/-- Messages of some kind, lowest agent first. -/
def byAgent (p : Nat → Bool) (l : List Msg) : List Msg := sortBy (fun x y => decide (x.agent ≤ y.agent)) (l.filter fun m => p m.event)

/-- Do something for each of a list, one after the other. -/
def forAll {α : Type} (l : List α) (f : α → State → Res) (s : State) : Res := l.foldl (fun r x => andThen r (f x)) (.next s)

/-- Several things one after the other. -/
def inTurn (l : List (State → Res)) (s : State) : Res := l.foldl andThen (.next s)

/-- RECALL on the lines of slabs that are on their way to the benches, until each is in state 0 (R326). -/
def State.recallSlabs (s : State) : State :=
  if s.slabs.isEmpty then s
  else (s.dir.filter fun e => e.2.state != 0 && region (128 * e.1) == .hbm && s.slab (slabOf (128 * e.1)) == 1).foldl
    (fun (s : State) e => s.recall e.1) s

/-- One arith cycle of the engines (R125): each home handles one event, internal ones first, then responses, evictions, deferred events and
requests; messages reach copies, replies their requesters; narrow-scope holders publish; silence is noticed (R426). -/
def coherenceCycle (s : State) : Res :=
  let sent := firstSent s.msgs []
  let line := fun (e : Nat) => BitVec.ofNat 45 e
  inTurn [
    forAll (s.trans.map (·.1)) internalEvents,
    forAll (byAgent (fun e => isAnswer e || 17 ≤ e) sent) deliverMsg,
    forAll (byAgent isEviction sent) deliverMsg,
    forAll (s.deferred.map (·.1)) fun l => execDeferredRequest (line l),
    forAll (byAgent isRequest sent) deliverMsg,
    forAll (s.msgs.filter fun m => 32 ≤ m.event) deliverMsg,
    forAll (mkeys s.dir fun _ d => d.nswait) fun l => execPublishRequest (line l),
    forAll (mkeys s.trans fun _ t => !t.msgs.isEmpty && decide (t.sentAt + 2 ^ 20 ≤ s.clock)) fun l => execTimeout (line l),
    forAll (mkeys s.trans fun _ t => !t.msgs.isEmpty && !t.resent && decide (t.sentAt + 2 ^ 19 ≤ s.clock)) fun l => execMessageResend (line l),
    fun s => .next s.recallSlabs] s

/-! ## Ranges and slots (R127 to R129, R429) -/

/-- A protocol slot's STATUS (R128). -/
def State.slotStatus (s : State) (n : Nat) : Nat := if n < 6 then 2 else (mget {} s.slots n).status.toNat

/-- A range entry from its 128 bits (R126). -/
def rangeOf (x : Nat) : RangeEntry where
  limit := natBits x 92 36
  base := natBits x 56 36
  slot := natBits x 1 3
  valid := natBits x 0 1 == 1

/-- Lines whose directory entries lie in a range and are not in state 0 (R127). -/
def State.linesIn (s : State) (rs : List RangeEntry) : List Nat :=
  (s.dir.filter fun e => (e.2.state != 0 || s.busyLine e.1)
    && rs.any fun r => r.valid && decide (r.base ≤ e.1 / 512 ∧ e.1 / 512 ≤ r.limit)).map (·.1)

/-- RANGE (R127): RECALL is raised on the lines of the old and the new range until each is in state 0; then the entry is installed. Reserved bits
of the entry are ignored (R8). -/
def execRange (q : BitVec 10) (i : BitVec 32) (s : State) : Res :=
  let ranges := fun (s : State) (c : Cmd) => (mfind s.ranges (c.f 16 1)).toList ++ [rangeOf (c.f 24 16)]
  command 0x15
    { check := fun s _ b =>
        if 63 < field b 16 1 then .error 3
        else if s.slotStatus (natBits (field b 24 16) 1 3) ≠ 2 then .error 5
        else .ok (s, 0)
      start := fun s _ c => (s.linesIn (ranges s c)).foldl State.recall s
      poll := fun s qn c =>
        let left := s.linesIn (ranges s c)
        if !left.isEmpty then left.foldl State.recall s
        else { s with ranges := mset s.ranges (c.f 16 1) (rangeOf (c.f 24 16)) }.finish qn c 3 0 0 } q i s

/-- Whether a table image can be read whole (R429). -/
def State.imageReadable (s : State) (pa : Nat) : Bool :=
  let n := 8256
  (region pa == .hbm || region pa == .host) && region (pa + n - 1) == region pa && !s.peekBad pa n
    && s.coreOwned pa && s.coreOwned (pa + n - 1)

/-- PROTLOAD (R129, R429): the image is read once, and validation ends within 12,288 cycles. -/
def execProtload (q : BitVec 10) (i : BitVec 32) (s : State) : Res :=
  command 0x16
    { check := fun s _ b =>
        let n := field b 16 1
        if n ≠ 6 ∧ n ≠ 7 then .error 3
        else if s.slotStatus n ≠ 0 ∧ s.slotStatus n ≠ 3 then .error 5
        else .ok (s, 0)
      start := fun s _ c =>
        let n := c.f 16 1
        let a := c.f 24 8
        let slot : ProtSlot := if s.imageReadable a then { status := 1, image := s.peek a 8256 } else {}
        let s := { s with slots := mset s.slots n slot }
        if slot.status = 1 then s.later 12288 (.protocolValidationDone (BitVec.ofNat 3 n)) else s
      poll := fun s qn c =>
        let x : ProtSlot := mget {} s.slots (c.f 16 1)
        match x.status.toNat with
        | 1 => s
        | 2 => s.finish qn c 3 0 0
        | 3 => s.finish qn c 3 (0x300 + x.check.toNat) 0
        | _ => s.finish qn c 3 0x201 0 } q i s

/-- Validation and distribution of a loaded table end (R129, R136). -/
def execProtocolValidationDone (slot : BitVec 3) (s : State) : Res :=
  atHome (fun s =>
    let n := slot.toNat
    let x : ProtSlot := mget {} s.slots n
    if n < 6 || x.status ≠ 1 then s
    else
      let y : ProtSlot := match validate x.image with
        | none => { x with status := 2 }
        | some (check, st, ev) =>
          { status := 3, check := BitVec.ofNat 8 check, failState := BitVec.ofNat 6 st, failEvent := BitVec.ofNat 5 ev }
      { s with slots := mset s.slots n y }) s

/-- PROTFREE: complete when no range selects the slot and no directory entry records it (R129). -/
def execProtfree (q : BitVec 10) (i : BitVec 32) (s : State) : Res :=
  command 0x17
    { check := fun s _ b => if field b 16 1 ≠ 6 ∧ field b 16 1 ≠ 7 then .error 3 else .ok (s, 0)
      poll := fun s qn c =>
        let n := c.f 16 1
        if (many s.ranges fun _ r => r.valid && r.slot == n) || (many s.dir fun k d => d.slot == n && (d.state != 0 || s.busyLine k))
            || s.slotStatus n == 1 then s
        else { s with slots := mdel s.slots n }.finish qn c 3 0 0 } q i s

/-! ## Host requests (R119, R368, R439) -/

/-- One operation of a host agent over CXL.mem: at the copy it holds, or by a request to the line's home (R119, R132, R368). While an earlier
request of it on the line is outstanding it waits (R125). -/
def State.cxlOp (s : State) (a pa : Nat) (op : LineOp) (again : Instr) : State :=
  let line := pa / 128
  let t := mget 0 s.agentTime a
  match s.atOwn a line op t with
  | some (x, s) =>
    { s with agentTime := mset s.agentTime a (max t x.ts) }.send (.cxl a pa (if op.isLoad then leBytes x.val 64 else []) x.poison)
  | none =>
    if s.asking a line then s.later 1 again
    else
      let n := s.stamp + 1
      { s with stamp := n }.newRequest line {
        event := s.requestEvent a line op 1, agent := a, time := t, op := some op, who := some (.cxl pa), ticket := n }

/-- A CXL.mem request of a host caching agent: one operation in the order, on the HBM of its link's die (R119, R368). Until PHASE is 4, and
in a slab that is not CORE, a read returns poison and a write is discarded (R439, R451). -/
def execCxlMemRequest (agent : BitVec 9) (write : BitVec 1) (addr : BitVec 52) (mask : BitVec 64) (data : BitVec 512) (s : State) : Res :=
  atHome (fun s =>
    let a := agent.toNat
    let pa := addr.toNat
    let d := (a - 320) / 16
    let refused := fun (s : State) => s.send (.cxl a pa (if write = 1 then [] else List.replicate 64 0) (write == 0))
    if !isHost a || s.lostAgents.contains a || pa % 64 ≠ 0 || pa < 0x6000000000 * d || 0x6000000000 * (d + 1) ≤ pa then s
    else if s.phase ≠ 4 then refused s
    else if !s.coreOwned pa then refused (s.errorRecord 4 1 1 pa (storageUnit pa).2 0 0 4)
    else
      let op := if write = 1 then LineOp.masked (pa % 128) mask.toNat (leBytes data.toNat 64) else .load (pa % 128) 64
      s.cxlOp a pa op (.cxlMemRequest agent write addr mask data)) s

end Sys2Proof.Machine
end

