-- ==== Sys2Proof/Machine/CrewWide.lean ====
section
/-! DEFINITION. Quad exchange (R212), the crew-wide instructions (R213 to R220) and the crew-uniform scalar unit (R179). -/

namespace Sys2Proof.Machine

/-! ## What lanes supply -/

/-- A lane's current value of a source, taken as it stands in storage (R212): nothing steps, nothing waits, and an array word that does not
exist is zero. -/
def State.currentValue (s : State) (c : Ctx) (f : Nat) : Word :=
  let t := s.thread c.crew c.lane
  if f < 32 then t.reg f
  else if f < 48 then t.qval (f - 31)
  else if f < 56 then
    let x := t.xreg (f - 48)
    if x.mode = 3 ∨ x.bound ≤ x.cursor ∨ c.a ≤ x.base.toNat + x.cursor.toNat then 0 else t.word (x.base.toNat + x.cursor.toNat)
  else mget 0 (s.crew c.crew).k (f - 56)

/-- The sources an instruction reads in a lane, the first of which it supplies to others. -/
def readAll (c : Ctx) (f : Nat) (others : List Nat) : LaneM Word := do
  let x ← src c f
  others.forM fun g => do
    let _ ← src c g
    pure ()
  pure x

/-- What a lane supplies to an exchange: an executing or helper lane the value its source use reads, and any other lane, or one whose use
faults, its current value (R212, R213). -/
def supply (sh : Shape) (i : Issue) (s : State) (crew : Nat) (f : Nat) (others : List Nat) (lane : Nat) : Word :=
  let c := s.ctxOf i crew lane
  if i.has crew lane && executes sh s crew lane then
    match readAll c f others s with
    | .ok (x, _) => x
    | .error _ => s.currentValue c f
  else s.currentValue c f

/-- Whether an executing lane would wait for a put in one of its uses: then nothing of the exchange is done yet (R51, R213). -/
def laneWaits (sh : Shape) (i : Issue) (s : State) (crew : Nat) (f : Nat) (others : List Nat) (d lane : Nat) : Bool :=
  let c := s.ctxOf i crew lane
  if i.has crew lane && executes sh s crew lane && !c.helper then
    match (do
      let _ ← readAll c f others
      let _ ← dst c d 1
      pure () : LaneM Unit) s with
    | .error (.wait _) => true
    | _ => false
  else false

/-- Run an exchange over the given lanes: `value` is the result of a lane, from the values supplied before the instruction. -/
def exchange (i : Instr) (f : Nat) (others : List Nat) (d : Nat) (mates : Nat → List Nat)
    (value : (Nat → Word) → Ctx → Word → LaneM Word) (s : State) : Res :=
  let sh := shapeOf i
  onThreads sh
    (quietly fun c =>
      match s.unit with
      | .lanes x =>
        if (mates c.lane).any fun l => laneWaits sh x s c.crew f others d l then do
          let _ ← src c f
          others.forM fun g => do
            let _ ← src c g
            pure ()
          let _ ← dst c d 1
          stop (.wait { kind := .peers, refile := true })
        else do
          let own ← src c f
          let r ← value (supply sh x s c.crew f others) c own
          let pl ← dst c d 1
          put c pl r
      | _ => pure ()) s

/-! ## Quad exchange -/

/-- QX and QBC: the result is the value that lane `pick` of the quad supplies (R212). -/
def quadExchange (i : Instr) (a d : BitVec 6) (pick : Nat → Nat) (s : State) : Res :=
  exchange i a.toNat [] d.toNat quadLanes (fun sup c _ => pure (sup (4 * (c.lane / 4) + pick (c.lane % 4)))) s

/-- QX.h (R212). -/
def execQxH (l : BitVec 4) (a d : BitVec 6) (n : BitVec 1) (p : BitVec 4) (s : State) : Res :=
  quadExchange (.qxH l a d n p) a d (fun i => i ^^^ 1) s

/-- QX.v (R212). -/
def execQxV (l : BitVec 4) (a d : BitVec 6) (n : BitVec 1) (p : BitVec 4) (s : State) : Res :=
  quadExchange (.qxV l a d n p) a d (fun i => i ^^^ 2) s

/-- QX.d (R212). -/
def execQxD (l : BitVec 4) (a d : BitVec 6) (n : BitVec 1) (p : BitVec 4) (s : State) : Res :=
  quadExchange (.qxD l a d n p) a d (fun i => i ^^^ 3) s

/-- QBC (R212). -/
def execQbc (l : BitVec 4) (k : BitVec 2) (a d : BitVec 6) (n : BitVec 1) (p : BitVec 4) (s : State) : Res :=
  quadExchange (.qbc l k a d n p) a d (fun _ => k.toNat) s

/-! ## Crew-wide instructions -/

/-- PERM (R214). -/
def execPerm (b a d : BitVec 6) (n : BitVec 1) (p : BitVec 4) (s : State) : Res :=
  exchange (.perm b a d n p) a.toNat [b.toNat] d.toNat (fun _ => lanes32)
    (fun sup c _ => do
      let x ← src c b.toNat
      pure (sup (x.toNat % 32))) s

/-- The lane that SHFL reads, or none outside 0 to 31 (R215). -/
def shuffleLane (m : BitVec 2) (k : BitVec 5) (lane : Nat) : Option Nat :=
  match m.toNat with
  | 0 => if k.toNat ≤ lane then some (lane - k.toNat) else none
  | 1 => if lane + k.toNat < 32 then some (lane + k.toNat) else none
  | 2 => some (lane ^^^ k.toNat)
  | _ => some ((lane + 32 - k.toNat) % 32)

/-- SHFL (R215). -/
def execShfl (m : BitVec 2) (k : BitVec 5) (a d : BitVec 6) (n : BitVec 1) (p : BitVec 4) (s : State) : Res :=
  exchange (.shfl m k a d n p) a.toNat [] d.toNat (fun _ => lanes32)
    (fun sup c own => pure (match shuffleLane m k c.lane with | some j => sup j | none => own)) s

/-- The lanes that take part in a crew reduction with their values: not exited, guard passed, source read (R213). -/
def activeValues (sh : Shape) (i : Issue) (s : State) (crew : Nat) (read : Ctx → LaneM DWord) : List (Nat × DWord) :=
  lanes32.filterMap fun l =>
    let c := s.ctxOf i crew l
    if i.has crew l && !c.helper && executes sh s crew l then
      match read c s with
      | .ok (x, _) => some (l, x)
      | .error _ => none
    else none

/-- A crew reduction or scan: `result` gives a lane's result and flags from the values of the active lanes. -/
def reduce (i : Instr) (wide : BitVec 1) (a d : BitVec 6) (result : List (Nat × DWord) → Nat → DWord × Flags) (s : State) : Res :=
  let sh := shapeOf i
  onThreads sh (fun c =>
    match s.unit with
    | .lanes x =>
      let read := fun (c : Ctx) => srcV c wide a.toNat
      let waits := lanes32.any fun l =>
        let k := s.ctxOf x c.crew l
        x.has c.crew l && !k.helper && executes sh s c.crew l
          && match (do
            let _ ← read k
            let _ ← dstV k wide d.toNat
            pure () : LaneM Unit) s with
          | .error (.wait _) => true
          | _ => false
      do
        let _ ← read c
        let pl ← dstV c wide d.toNat
        if waits then stop (.wait { kind := .peers, refile := true })
        else do
          let (r, g) := result (activeValues sh x s c.crew read) c.lane
          putV c wide pl r
          raise c g
    | _ => pure none) s

/-- A result that raises nothing. -/
def plain (x : Word) : DWord × Flags := (x.setWidth 64, 0)

/-- VOTE (R216). -/
def execVote (l : BitVec 4) (u : BitVec 2) (a d : BitVec 6) (n : BitVec 1) (p : BitVec 4) (s : State) : Res :=
  reduce (.vote l u a d n p) 0 a d (fun vals _ =>
    let set := vals.filter fun e => e.2 != 0
    plain (match u.toNat with
      | 0 => if set.isEmpty then 0 else 1
      | 1 => if set.length = vals.length then 1 else 0
      | 2 => set.foldl (fun m e => m ||| bitOf e.1) 0
      | _ => BitVec.ofNat 32 set.length)) s

/-- The integer combinations of CRED by sub-op, with their value over no lane (R217). -/
def credOp (u : Nat) : (Word → Word → Word) × Word :=
  match u with
  | 0 => ((· + ·), 0)
  | 1 => (fun x y => if x.sle y then x else y, 0x7FFFFFFF#32)
  | 2 => (fun x y => if x.sle y then y else x, 0x80000000#32)
  | 3 => (fun x y => if x.ule y then x else y, 0xFFFFFFFF#32)
  | 4 => (fun x y => if x.ule y then y else x, 0)
  | 5 => ((· &&& ·), 0xFFFFFFFF#32)
  | 6 => ((· ||| ·), 0)
  | _ => ((· ^^^ ·), 0)

/-- Combine values (R217). -/
def combine (u : Nat) (vals : List (Nat × DWord)) : Word :=
  vals.foldl (fun x e => (credOp u).1 x e.2.lo) (credOp u).2

/-- CRED (R217). -/
def execCred (l : BitVec 4) (u : BitVec 3) (a d : BitVec 6) (n : BitVec 1) (p : BitVec 4) (s : State) : Res :=
  reduce (.cred l u a d n p) 0 a d (fun vals _ => plain (combine u.toNat vals)) s

/-- A floating-point combination: the exact sum rounded once, or the least or greatest value (R218). -/
def combineF (f : Fmt) (op : Nat) (vals : List Val) : Nat × Flags :=
  let sig := flagIf (vals.any Val.isSig) flagNV
  match op with
  | 0 =>
    let (z, g) := exactSum vals
    let (b, h) := roundFmt f 0 0 z
    (b, g ||| h)
  | _ =>
    if vals.any Val.isNan then ((roundFmt f 0 0 (.nan false)).1, sig)
    else
      match vals with
      | [] => ((roundFmt f 0 0 (.inf (op == 2))).1, 0)
      | x :: r => (exactBits f (r.foldl (fun a y => if op = 1 then (a.min y).1 else (a.max y).1) x), 0)

/-- CREDF (R218). -/
def execCredf (l : BitVec 4) (u : BitVec 3) (a d : BitVec 6) (n : BitVec 1) (p : BitVec 4) (s : State) : Res :=
  let wide : BitVec 1 := if u.toNat < 3 then 0 else 1
  reduce (.credf l u a d n p) wide a d (fun vals _ =>
    let (b, g) := combineF (fmtV wide) (u.toNat % 3) (vals.map fun e => decodeFmt (fmtV wide) e.2.toNat)
    (BitVec.ofNat 64 b, g)) s

/-- Operation of CRED that a sub-op of CSCAN uses (R219). -/
def cscanOp (u : Nat) : Nat := match u with | 2 => 1 | 3 => 2 | 4 => 6 | 5 => 5 | 6 => 7 | _ => 0

/-- CSCAN (R219). -/
def execCscan (l : BitVec 4) (u : BitVec 3) (a d : BitVec 6) (n : BitVec 1) (p : BitVec 4) (s : State) : Res :=
  reduce (.cscan l u a d n p) 0 a d (fun vals lane =>
    let pre := vals.filter fun e => if u = 1 then decide (e.1 < lane) else decide (e.1 ≤ lane)
    if u = 7 then
      let (b, g) := combineF fmtFP32 0 (pre.map fun e => decodeFmt fmtFP32 e.2.toNat)
      (BitVec.ofNat 64 b, g)
    else plain (combine (cscanOp u.toNat) pre)) s

/-- Look up each byte's low or high nibble in a table of sixteen bytes (R220). -/
def tableLookup (hi : Bool) (table : Nat) (x : Word) : Word :=
  let byte := fun (j : Nat) => natBits table (8 * natBits x.toNat (8 * j + if hi then 4 else 0) 4) 8
  BitVec.ofNat 32 (byte 0 + 2 ^ 8 * byte 1 + 2 ^ 16 * byte 2 + 2 ^ 24 * byte 3)

/-- BLUT: the table is k0 to k3 or k4 to k7 (R220). -/
def execBlut (v k : BitVec 1) (a d : BitVec 6) (n : BitVec 1) (p : BitVec 4) (s : State) : Res :=
  exchange (.blut v k a d n p) a.toNat [] d.toNat (fun _ => lanes32)
    (fun _ c own => do
      let cr ← myCrew c
      let t := wordsNat ((List.range 4).map fun i => mget 0 cr.k (4 * k.toNat + i))
      pure (tableLookup (v == 1) t own)) s

/-! ## Crew-uniform scalar instructions -/

/-- The non-exited lanes whose guard passes (R179). -/
def acting (sh : Shape) (i : Issue) (s : State) (crew : Nat) : List Nat :=
  lanes32.filter fun l => i.has crew l && !(s.thread crew l).gone && executes sh s crew l

/-- Run a crew-uniform instruction in one crew (R179): `op` runs in the context of the lowest acting lane, and a fault traps in every acting lane
with one cause (R393). -/
def uniformPart (sh : Shape) (op : Ctx → LaneM Unit) (x : Issue) (s : State) (p : Part) : State :=
  let one : Issue := { x with parts := [p] }
  let move := fun (s : State) (skip : List Nat) => overLanes one (fun s crew l =>
    if skip.contains l || (mfind s.crews crew).isNone then s
    else
      let c := s.ctxOf x crew l
      ((s.past c).modThread crew l fun t => if executes sh s crew l then t.countStep else t).afterInstr c) s
  match acting sh x s p.crew with
  | [] => move s []
  | lane :: rest =>
    let c := s.ctxOf x p.crew lane
    match op c s with
    | .ok (_, s') => move s' []
    | .error (.wait w) => s.stopLane c (.wait { w with refile := true })
    | .error (.miss line r addr _) => s.stopLane c (.miss line r addr true)
    | .error (.fill pte e level) =>
      (s.beginFill pte e level).deschedule p.crew lane { kind := .pageFill, key := pte, refile := true }
    | .error e =>
      (lane :: rest).foldl (fun s l =>
        if (mfind s.crews p.crew).isNone then s else (s.stopLane (s.ctxOf x p.crew l) e).afterInstr (s.ctxOf x p.crew l))
        (move s (lane :: rest))

/-- Run a crew-uniform instruction once in each crew of the issue (R179); a memory instruction takes an entry of the core's table (R122). -/
def uniform (i : Instr) (op : Ctx → LaneM Unit) (s : State) : Res :=
  let sh := shapeOf i
  match s.unit with
  | .lanes x =>
    if (x.parts.any fun p => (sh.refusal (s.group (s.crew p.crew).group).nregs).isSome) then .next (runAll sh (fun _ => pure none) s x)
    else if sh.entry then
      let (run, wait) := s.enterTable x x.parts (s.entries x.core).length
      .next (((run.foldl (uniformPart sh op x) s).keepEntries x run).awaitEntry x wait)
    else .next (x.parts.foldl (uniformPart sh op x) s)
  | .stream cl _ _ => .next (s.streamTrap cl 1)
  | _ => .next s

/-- A crew-uniform register. -/
def kreg (c : Ctx) (n : Nat) : LaneM Word := do
  let k ← myCrew c
  pure (mget 0 k.k n)

/-- Write a crew-uniform register (R58). -/
def setK (c : Ctx) (n : Nat) (x : Word) : LaneM Unit := modMyCrew c fun k => { k with k := mset k.k n x }

/-- Write a crew-uniform pair. -/
def setKD (c : Ctx) (n : Nat) (x : DWord) : LaneM Unit := do
  setK c n x.lo
  setK c (n + 1) x.hi

/-- A two-operand operation of the scalar unit (R179). -/
def kAlu (i : Instr) (w : BitVec 1) (b a d : BitVec 5) (fw : Word → Word → Word) (fd : DWord → DWord → DWord) (s : State) : Res :=
  uniform i (fun c => do
    if w = 0 then do
      let x ← kreg c a.toNat
      let y ← kreg c b.toNat
      setK c d.toNat (fw x y)
    else do
      let x ← kPair c a.toNat
      let y ← kPair c b.toNat
      setKD c d.toNat (fd x y)) s

/-- KADD (R179). -/
def execKadd (w : BitVec 1) (b a d : BitVec 5) (n : BitVec 1) (p : BitVec 4) (s : State) : Res :=
  kAlu (.kadd w b a d n p) w b a d (· + ·) (· + ·) s

/-- KSUB (R179). -/
def execKsub (w : BitVec 1) (b a d : BitVec 5) (n : BitVec 1) (p : BitVec 4) (s : State) : Res :=
  kAlu (.ksub w b a d n p) w b a d (· - ·) (· - ·) s

/-- KADDI (R179). -/
def execKaddi (i : BitVec 7) (a d : BitVec 5) (n : BitVec 1) (p : BitVec 4) (s : State) : Res :=
  uniform (.kaddi i a d n p) (fun c => do
    let x ← kreg c a.toNat
    setK c d.toNat (x + sext 32 i)) s

/-- KMOVI (R179). -/
def execKmovi (i : BitVec 13) (d : BitVec 5) (n : BitVec 1) (p : BitVec 4) (s : State) : Res :=
  uniform (.kmovi i d n p) (fun c => setK c d.toNat (sext 32 i)) s

/-- KMOVH (R179). -/
def execKmovh (i : BitVec 13) (d : BitVec 5) (n : BitVec 1) (p : BitVec 4) (s : State) : Res :=
  uniform (.kmovh i d n p) (fun c => do
    let x ← kreg c d.toNat
    setK c d.toNat (x <<< 13 ||| i.setWidth 32)) s

/-- The lanes in whose program order a crew-uniform access stands: all that have not exited, helpers from formation included (R106). -/
def orderedLanes (s : State) (crew : Nat) : List Nat :=
  lanes32.filter fun l =>
    match (s.thread crew l).st with
    | .exited => false
    | .waiting w => w.was != 1
    | .retry w => w != 1
    | _ => true

/-- One memory operation of the crew: its timestamp starts from the largest program time of its lanes, which all rise to it (R106). -/
def crewAccess {α : Type} (c : Ctx) (op : LaneM α) : LaneM α := do
  let s ← get
  let who := orderedLanes s c.crew
  let top := who.foldl (fun m l => max m (s.thread c.crew l).time) 0
  modMe c fun t => { t with time := top }
  let x ← op
  let t ← me c
  modState fun s => who.foldl (fun s l => s.modThread c.crew l fun y => { y with time := t.time }) s
  pure x

/-- KLD (R179). -/
def execKld (l : BitVec 4) (b o : BitVec 3) (w : BitVec 1) (k : BitVec 5) (n : BitVec 1) (p : BitVec 4) (s : State) : Res :=
  uniform (.kld l b o w k n p) (fun c => do
    let base ← kPair c (2 * b.toNat)
    let off ← kreg c o.toNat
    let x ← crewAccess c (loadMem c (base + sext 64 off) (if w = 0 then 4 else 8))
    if w = 0 then setK c k.toNat (BitVec.ofNat 32 x) else setKD c k.toNat (BitVec.ofNat 64 x)) s

/-- KST (R179). -/
def execKst (l : BitVec 4) (b o : BitVec 3) (w : BitVec 1) (k : BitVec 5) (n : BitVec 1) (p : BitVec 4) (s : State) : Res :=
  uniform (.kst l b o w k n p) (fun c => do
    let base ← kPair c (2 * b.toNat)
    let off ← kreg c o.toNat
    let x ← if w = 0 then do
        let x ← kreg c k.toNat
        pure x.toNat
      else do
        let x ← kPair c k.toNat
        pure x.toNat
    crewAccess c (storeMem c (base + sext 64 off) x (if w = 0 then 4 else 8))) s

/-- KFIRST: the source of the lowest non-exited lane whose guard passes (R179). -/
def execKfirst (l : BitVec 4) (a : BitVec 6) (d : BitVec 5) (n : BitVec 1) (p : BitVec 4) (s : State) : Res :=
  uniform (.kfirst l a d n p) (fun c => do
    let x ← src c a.toNat
    setK c d.toNat x) s

end Sys2Proof.Machine
end

