-- ==== Sys2Proof/Machine/IntAlu.lean ====
section
/-! DEFINITION. Integer arithmetic and logic (R193 to R198), for lanes and, under R202, for the tile-sequencer stream; the integer 16-bit
forms (R180). -/

namespace Sys2Proof.Machine


/-! ## The operations -/

/-- Bits [63:32] of the product of two words, signed or unsigned (R193). -/
def mulHigh (v : BitVec 1) (x y : Word) : Word :=
  if v = 0 then ((sext 64 x * sext 64 y) >>> 32).setWidth 32 else ((x.setWidth 64 * y.setWidth 64) >>> 32).setWidth 32

/-- Bits [127:64] of the product of two doublewords (R202). -/
def mulHighD (v : BitVec 1) (x y : DWord) : DWord :=
  if v = 0 then ((sext 128 x * sext 128 y) >>> 64).setWidth 64 else ((x.setWidth 128 * y.setWidth 128) >>> 64).setWidth 64

/-- The quotient, truncated toward zero; all ones for a zero divisor (R194). -/
def quotient {n : Nat} (v : BitVec 1) (x y : BitVec n) : BitVec n :=
  if y = 0 then BitVec.allOnes n else if v = 0 then x.sdiv y else x.udiv y

/-- The remainder, with the sign of the dividend; the dividend for a zero divisor (R194). -/
def remainder {n : Nat} (v : BitVec 1) (x y : BitVec n) : BitVec n :=
  if y = 0 then x else if v = 0 then x.srem y else x.umod y

/-- The smaller, signed or unsigned (R193). -/
def minimum {n : Nat} (v : BitVec 1) (x y : BitVec n) : BitVec n :=
  if (if v = 0 then x.sle y else x.ule y) then x else y

/-- The larger, signed or unsigned (R193). -/
def maximum {n : Nat} (v : BitVec 1) (x y : BitVec n) : BitVec n :=
  if (if v = 0 then x.sle y else x.ule y) then y else x

/-- Shifts take b[4:0] of a word and b[5:0] of a doubleword (R193). -/
def shlW (x y : Word) : Word := x <<< (y.toNat % 32)
def shrW (x y : Word) : Word := x >>> (y.toNat % 32)
def sraW (x y : Word) : Word := x.sshiftRight (y.toNat % 32)
def shlD (x y : DWord) : DWord := x <<< (y.toNat % 64)
def shrD (x y : DWord) : DWord := x >>> (y.toNat % 64)
def sraD (x y : DWord) : DWord := x.sshiftRight (y.toNat % 64)

/-- MOVH: shift by 13 and take the immediate in (R196). -/
def moveHigh {n : Nat} (x : BitVec n) (i : BitVec 13) : BitVec n := x <<< 13 ||| i.setWidth n

/-- Number of one bits (R197). -/
def onesCount (x : Word) : Nat := lanes32.countP fun i => x.getLsbD i

/-- Number of leading zero bits; 32 for zero (R197). -/
def leadingZeros (x : Word) : Nat := 32 - lanes32.foldl (fun h i => if x.getLsbD i then i + 1 else h) 0

/-- Number of trailing zero bits; 32 for zero (R197). -/
def trailingZeros (x : Word) : Nat := (lanes32.find? fun i => x.getLsbD i).getD 32

/-- Bits in the opposite order (R197). -/
def bitReverse (x : Word) : Word := lanes32.foldl (fun y i => if x.getLsbD i then y ||| bitOf (31 - i) else y) 0

/-- Bytes in the opposite order (R197). -/
def byteSwap (x : Word) : Word := x.extractLsb' 0 8 ++ x.extractLsb' 8 8 ++ x.extractLsb' 16 8 ++ x.extractLsb' 24 8

/-- Bit field extraction (R198). -/
def bitField (v : BitVec 1) (x y : Word) : Word :=
  let pos := y.toNat % 32
  let len := natBits y.toNat 8 5
  if len = 0 then 0
  else
    let t : DWord := (if v = 0 then sext 64 x else x.setWidth 64) >>> pos
    let top := t <<< (64 - len)
    (if v = 0 then top.sshiftRight (64 - len) else top >>> (64 - len)).setWidth 32

/-! ## Shared forms -/

/-- A register-register operation with a width variant: srcA, srcB and the destination in the order of R55. -/
def alu2 (i : Instr) (v : BitVec 1) (b a d : BitVec 6) (fw : Word → Word → Word) (fd : DWord → DWord → DWord) (s : State) : Res :=
  onBoth (shapeOf i)
    (quietly fun c => do
      let x ← srcV c v a.toNat
      let y ← srcV c v b.toNat
      let pl ← dstV c v d.toNat
      putV c v pl (if v = 0 then (fw x.lo y.lo).setWidth 64 else fd x y))
    (fun k => k.result d.toNat (fd (k.sreg a.toNat) (k.sreg b.toNat))) s

/-- A register-register operation on words, with its 64-bit counterpart in the stream. -/
def alu2w (i : Instr) (b a d : BitVec 6) (fw : Word → Word → Word) (fd : DWord → DWord → DWord) (s : State) : Res :=
  onBoth (shapeOf i)
    (quietly fun c => do
      let x ← src c a.toNat
      let y ← src c b.toNat
      let pl ← dst c d.toNat 1
      put c pl (fw x y))
    (fun k => k.result d.toNat (fd (k.sreg a.toNat) (k.sreg b.toNat))) s

/-- An operation of a word and an immediate. -/
def aluImm (i : Instr) (a d : BitVec 6) (fw : Word → Word) (fd : DWord → DWord) (s : State) : Res :=
  onBoth (shapeOf i)
    (quietly fun c => do
      let x ← src c a.toNat
      let pl ← dst c d.toNat 1
      put c pl (fw x))
    (fun k => k.result d.toNat (fd (k.sreg a.toNat))) s

/-- An operation of one word, for threads. -/
def alu1 (i : Instr) (a d : BitVec 6) (f : Word → Word) (s : State) : Res :=
  onThreads (shapeOf i)
    (quietly fun c => do
      let x ← src c a.toNat
      let pl ← dst c d.toNat 1
      put c pl (f x)) s

/-- A 16-bit form: ds is srcA and the destination (R180). -/
def aluShort (i : Instr) (b : BitVec 5) (d : BitVec 6) (f : Word → Word → Word) (s : State) : Res :=
  onThreads (shapeOf i)
    (quietly fun c => do
      let x ← src c d.toNat
      let y ← src c (short b)
      let pl ← dst c d.toNat 1
      put c pl (f x y)) s

/-! ## Meanings -/

/-- ADD (R193). -/
def execAdd (v : BitVec 1) (b a d : BitVec 6) (n : BitVec 1) (p : BitVec 4) (s : State) : Res :=
  alu2 (.add v b a d n p) v b a d (· + ·) (· + ·) s

/-- SUB (R193). -/
def execSub (v : BitVec 1) (b a d : BitVec 6) (n : BitVec 1) (p : BitVec 4) (s : State) : Res :=
  alu2 (.sub v b a d n p) v b a d (· - ·) (· - ·) s

/-- MUL (R193). -/
def execMul (v : BitVec 1) (b a d : BitVec 6) (n : BitVec 1) (p : BitVec 4) (s : State) : Res :=
  alu2 (.mul v b a d n p) v b a d (· * ·) (· * ·) s

/-- MULH (R193, R202). -/
def execMulh (v : BitVec 1) (b a d : BitVec 6) (n : BitVec 1) (p : BitVec 4) (s : State) : Res :=
  alu2w (.mulh v b a d n p) b a d (mulHigh v) (mulHighD v) s

/-- DIV (R194, R202). -/
def execDiv (v : BitVec 1) (b a d : BitVec 6) (n : BitVec 1) (p : BitVec 4) (s : State) : Res :=
  alu2w (.div v b a d n p) b a d (quotient v) (quotient v) s

/-- REM (R194, R202). -/
def execRem (v : BitVec 1) (b a d : BitVec 6) (n : BitVec 1) (p : BitVec 4) (s : State) : Res :=
  alu2w (.rem v b a d n p) b a d (remainder v) (remainder v) s

/-- AND (R193). -/
def execAnd (v : BitVec 1) (b a d : BitVec 6) (n : BitVec 1) (p : BitVec 4) (s : State) : Res :=
  alu2 (.and v b a d n p) v b a d (· &&& ·) (· &&& ·) s

/-- OR (R193). -/
def execOr (v : BitVec 1) (b a d : BitVec 6) (n : BitVec 1) (p : BitVec 4) (s : State) : Res :=
  alu2 (.or v b a d n p) v b a d (· ||| ·) (· ||| ·) s

/-- XOR (R193). -/
def execXor (v : BitVec 1) (b a d : BitVec 6) (n : BitVec 1) (p : BitVec 4) (s : State) : Res :=
  alu2 (.xor v b a d n p) v b a d (· ^^^ ·) (· ^^^ ·) s

/-- ANDN (R193). -/
def execAndn (v : BitVec 1) (b a d : BitVec 6) (n : BitVec 1) (p : BitVec 4) (s : State) : Res :=
  alu2 (.andn v b a d n p) v b a d (fun x y => x &&& ~~~y) (fun x y => x &&& ~~~y) s

/-- SHL (R193). -/
def execShl (v : BitVec 1) (b a d : BitVec 6) (n : BitVec 1) (p : BitVec 4) (s : State) : Res :=
  alu2 (.shl v b a d n p) v b a d shlW shlD s

/-- SHR (R193). -/
def execShr (v : BitVec 1) (b a d : BitVec 6) (n : BitVec 1) (p : BitVec 4) (s : State) : Res :=
  alu2 (.shr v b a d n p) v b a d shrW shrD s

/-- SRA (R193). -/
def execSra (v : BitVec 1) (b a d : BitVec 6) (n : BitVec 1) (p : BitVec 4) (s : State) : Res :=
  alu2 (.sra v b a d n p) v b a d sraW sraD s

/-- MIN (R193). -/
def execMin (v : BitVec 1) (b a d : BitVec 6) (n : BitVec 1) (p : BitVec 4) (s : State) : Res :=
  alu2w (.min v b a d n p) b a d (minimum v) (minimum v) s

/-- MAX (R193). -/
def execMax (v : BitVec 1) (b a d : BitVec 6) (n : BitVec 1) (p : BitVec 4) (s : State) : Res :=
  alu2w (.max v b a d n p) b a d (maximum v) (maximum v) s

/-- ADDI (R195). -/
def execAddi (i : BitVec 7) (a d : BitVec 6) (n : BitVec 1) (p : BitVec 4) (s : State) : Res :=
  aluImm (.addi i a d n p) a d (· + sext 32 i) (· + sext 64 i) s

/-- ANDI (R195). -/
def execAndi (i : BitVec 7) (a d : BitVec 6) (n : BitVec 1) (p : BitVec 4) (s : State) : Res :=
  aluImm (.andi i a d n p) a d (· &&& sext 32 i) (· &&& sext 64 i) s

/-- ORI (R195). -/
def execOri (i : BitVec 7) (a d : BitVec 6) (n : BitVec 1) (p : BitVec 4) (s : State) : Res :=
  aluImm (.ori i a d n p) a d (· ||| sext 32 i) (· ||| sext 64 i) s

/-- XORI (R195). -/
def execXori (i : BitVec 7) (a d : BitVec 6) (n : BitVec 1) (p : BitVec 4) (s : State) : Res :=
  aluImm (.xori i a d n p) a d (· ^^^ sext 32 i) (· ^^^ sext 64 i) s

/-- SHLI (R195). -/
def execShli (i : BitVec 7) (a d : BitVec 6) (n : BitVec 1) (p : BitVec 4) (s : State) : Res :=
  aluImm (.shli i a d n p) a d (· <<< i.toNat) (· <<< i.toNat) s

/-- SHRI (R195). -/
def execShri (i : BitVec 7) (a d : BitVec 6) (n : BitVec 1) (p : BitVec 4) (s : State) : Res :=
  aluImm (.shri i a d n p) a d (· >>> i.toNat) (· >>> i.toNat) s

/-- SRAI (R195). -/
def execSrai (i : BitVec 7) (a d : BitVec 6) (n : BitVec 1) (p : BitVec 4) (s : State) : Res :=
  aluImm (.srai i a d n p) a d (·.sshiftRight i.toNat) (·.sshiftRight i.toNat) s

/-- MOVI (R196). -/
def execMovi (i : BitVec 13) (d : BitVec 6) (n : BitVec 1) (p : BitVec 4) (s : State) : Res :=
  onBoth (shapeOf (.movi i d n p))
    (quietly fun c => do
      let pl ← dst c d.toNat 1
      put c pl (sext 32 i))
    (fun k => k.result d.toNat (sext 64 i)) s

/-- MOVH: its destination is read and then written (R190, R196). -/
def execMovh (i : BitVec 13) (d : BitVec 6) (n : BitVec 1) (p : BitVec 4) (s : State) : Res :=
  onBoth (shapeOf (.movh i d n p))
    (quietly fun c => do
      let x ← src c d.toNat
      let pl ← dst c d.toNat 1
      put c pl (moveHigh x i))
    (fun k => k.result d.toNat (moveHigh (k.sreg d.toNat) i)) s

/-- POPC (R197). -/
def execPopc (l : BitVec 4) (a d : BitVec 6) (n : BitVec 1) (p : BitVec 4) (s : State) : Res :=
  alu1 (.popc l a d n p) a d (fun x => BitVec.ofNat 32 (onesCount x)) s

/-- CLZ (R197). -/
def execClz (l : BitVec 4) (a d : BitVec 6) (n : BitVec 1) (p : BitVec 4) (s : State) : Res :=
  alu1 (.clz l a d n p) a d (fun x => BitVec.ofNat 32 (leadingZeros x)) s

/-- CTZ (R197). -/
def execCtz (l : BitVec 4) (a d : BitVec 6) (n : BitVec 1) (p : BitVec 4) (s : State) : Res :=
  alu1 (.ctz l a d n p) a d (fun x => BitVec.ofNat 32 (trailingZeros x)) s

/-- BREV (R197). -/
def execBrev (l : BitVec 4) (a d : BitVec 6) (n : BitVec 1) (p : BitVec 4) (s : State) : Res :=
  alu1 (.brev l a d n p) a d bitReverse s

/-- BSWAP (R197). -/
def execBswap (l : BitVec 4) (a d : BitVec 6) (n : BitVec 1) (p : BitVec 4) (s : State) : Res :=
  alu1 (.bswap l a d n p) a d byteSwap s

/-- SEXB (R197). -/
def execSexb (l : BitVec 4) (a d : BitVec 6) (n : BitVec 1) (p : BitVec 4) (s : State) : Res :=
  alu1 (.sexb l a d n p) a d (fun x => sext 32 (x.setWidth 8)) s

/-- SEXH (R197). -/
def execSexh (l : BitVec 4) (a d : BitVec 6) (n : BitVec 1) (p : BitVec 4) (s : State) : Res :=
  alu1 (.sexh l a d n p) a d (fun x => sext 32 (x.setWidth 16)) s

/-- MOVD (R197). -/
def execMovd (l : BitVec 4) (a d : BitVec 6) (n : BitVec 1) (p : BitVec 4) (s : State) : Res :=
  onThreads (shapeOf (.movd l a d n p))
    (quietly fun c => do
      let x ← srcD c a.toNat
      let pl ← dst c d.toNat 2
      putD c pl x) s

/-- BFE (R198). -/
def execBfe (v : BitVec 1) (b a d : BitVec 6) (n : BitVec 1) (p : BitVec 4) (s : State) : Res :=
  onThreads (shapeOf (.bfe v b a d n p))
    (quietly fun c => do
      let x ← src c a.toNat
      let y ← src c b.toNat
      let pl ← dst c d.toNat 1
      put c pl (bitField v x y)) s

/-- ADD, 16-bit (R180). -/
def execAdd16 (b : BitVec 5) (d : BitVec 6) (s : State) : Res := aluShort (.add16 b d) b d (· + ·) s

/-- SUB, 16-bit (R180). -/
def execSub16 (b : BitVec 5) (d : BitVec 6) (s : State) : Res := aluShort (.sub16 b d) b d (· - ·) s

/-- MUL, 16-bit (R180). -/
def execMul16 (b : BitVec 5) (d : BitVec 6) (s : State) : Res := aluShort (.mul16 b d) b d (· * ·) s

/-- AND, 16-bit (R180). -/
def execAnd16 (b : BitVec 5) (d : BitVec 6) (s : State) : Res := aluShort (.and16 b d) b d (· &&& ·) s

/-- OR, 16-bit (R180). -/
def execOr16 (b : BitVec 5) (d : BitVec 6) (s : State) : Res := aluShort (.or16 b d) b d (· ||| ·) s

/-- XOR, 16-bit (R180). -/
def execXor16 (b : BitVec 5) (d : BitVec 6) (s : State) : Res := aluShort (.xor16 b d) b d (· ^^^ ·) s

/-- SHL, 16-bit (R180). -/
def execShl16 (b : BitVec 5) (d : BitVec 6) (s : State) : Res := aluShort (.shl16 b d) b d shlW s

/-- SHR, 16-bit (R180). -/
def execShr16 (b : BitVec 5) (d : BitVec 6) (s : State) : Res := aluShort (.shr16 b d) b d shrW s

/-- SRA, 16-bit (R180). -/
def execSra16 (b : BitVec 5) (d : BitVec 6) (s : State) : Res := aluShort (.sra16 b d) b d sraW s

/-- MOV, 16-bit: ds is the destination only (R180). -/
def execMov16 (b : BitVec 5) (d : BitVec 6) (s : State) : Res :=
  onThreads (shapeOf (.mov16 b d))
    (quietly fun c => do
      let y ← src c (short b)
      let pl ← dst c d.toNat 1
      put c pl y) s

/-- MIN, 16-bit, signed (R180). -/
def execMin16 (b : BitVec 5) (d : BitVec 6) (s : State) : Res := aluShort (.min16 b d) b d (minimum 0) s

/-- MAX, 16-bit, signed (R180). -/
def execMax16 (b : BitVec 5) (d : BitVec 6) (s : State) : Res := aluShort (.max16 b d) b d (maximum 0) s

end Sys2Proof.Machine
end

