-- ==== Sys2Proof/Machine/Narrow.lean ====
section
/-! DEFINITION. Narrow formats: QNT, DQNT and MXSC (R240 to R243). -/

namespace Sys2Proof.Machine

/-- Element width in a register's slots (R240). -/
def slotWidth (code : Nat) : Nat :=
  match code with | 7 | 8 => 6 | 9 | 0xB => 4 | _ => 8

/-- Whether a control word is valid (R240). -/
def controlOk (w : Word) : Bool :=
  let x := w.toNat
  let code := natBits x 0 4
  let rnd := natBits x 4 3
  let pos := natBits x 16 3
  natBits x 7 1 == 0 && natBits x 12 4 == 0 && natBits x 19 5 == 0 && decide (5 ≤ code ∧ code ≤ 0xC) && rnd != 5 && rnd != 6
    && (pos < 4 || slotWidth code == 4)

/-- The launch's compand block (R160). -/
def myCompand (c : Ctx) : LaneM (List Byte) := do
  let l ← myLaunch c
  pure l.compand

/-- Replace slot `pos` of width `w`. -/
def setSlot (x : Nat) (w pos e : Nat) : Nat := x - natBits x (w * pos) w * 2 ^ (w * pos) + e % 2 ^ w * 2 ^ (w * pos)

/-- QNT (R241): its destination is read and written. -/
def execQnt (v : BitVec 1) (b a d : BitVec 6) (n : BitVec 1) (p : BitVec 4) (s : State) : Res :=
  onThreads (shapeOf (.qnt v b a d n p)) (fun c => do
    let x ← src c a.toNat
    let k ← src c b.toNat
    let old ← src c d.toNat
    let pl ← dst c d.toNat 1
    if !controlOk k then do
      modMe c fun t => t.push old
      raise c flagNV
    else do
      let t ← me c
      let w := k.toNat
      let code := natBits w 0 4
      let f := elementFmt (v == 1) code
      let mode := if natBits w 4 3 = 7 then t.rm else natBits w 4 3
      let x := decodeIn t.daz fmtFP32 x.toNat
      let sig := flagIf x.isSig flagNV
      let sc := natBits w 24 8
      let x := if v = 0 then x else if sc = 255 then .nan false else x.scale (127 - (sc : Int))
      let block ← myCompand c
      let x := if k.getLsbD 11 then compand block (natBits w 8 3) false f x else x
      let r ← draw c mode
      let (e, g) := roundFmt f mode r x
      put c pl (BitVec.ofNat 32 (setSlot old.toNat (slotWidth code) (natBits w 16 3) e))
      raise c (sig ||| g)) s

/-- DQNT (R242): rounds under nearest-even whatever the mode. -/
def execDqnt (v : BitVec 1) (b a d : BitVec 6) (n : BitVec 1) (p : BitVec 4) (s : State) : Res :=
  onThreads (shapeOf (.dqnt v b a d n p)) (fun c => do
    let x ← src c a.toNat
    let k ← src c b.toNat
    let pl ← dst c d.toNat 1
    if !controlOk k then do
      put c pl 0x7FC00000#32
      raise c flagNV
    else do
      let t ← me c
      let w := k.toNat
      let code := natBits w 0 4
      let f := elementFmt (v == 1) code
      let e := natBits x.toNat (slotWidth code * natBits w 16 3) (slotWidth code)
      let z := decodeFmt f e
      let sig := flagIf z.isSig flagNV
      let block ← myCompand c
      let (z, g) :=
        if k.getLsbD 11 && code != 0xC then
          let (bits, g) := roundFmt fmtBF16 0 0 (compand block (natBits w 8 3) true f z)
          (decodeFmt fmtBF16 bits, g)
        else (z, 0)
      let sc := natBits w 24 8
      let z := if v = 0 then z else if sc = 255 then .nan false else z.scale ((sc : Int) - 127)
      let (bits, h) := flush t.ftz fmtFP32 (roundFmt fmtFP32 0 0 z)
      put c pl (BitVec.ofNat 32 bits)
      raise c (sig ||| g ||| h)) s

/-- MXSC (R243). -/
def execMxsc (l : BitVec 4) (u : BitVec 3) (a d : BitVec 6) (n : BitVec 1) (p : BitVec 4) (s : State) : Res :=
  fp1 (.mxsc l u a d n p) a d
    (fun c x => do
      let t ← me c
      pure (match decodeIn t.daz fmtFP32 x.toNat with
        | .fin _ m dd e => if m = 0 then (0, 0) else (scaleCode (5 + u.toNat) m dd e, 0)
        | _ => (0xFF, flagNV))) s

end Sys2Proof.Machine
end

