-- ==== Sys2Proof/Machine/Digest.lean ====
section
/-! DEFINITION. SHA-384 and ECDSA on brainpoolP384r1, which sign patches and attestation reports (R375 to R377). The spec names them; the
constants and the steps are those of FIPS 180-4, of RFC 5639 and of FIPS 186 (notes/assumptions/22.md). -/

namespace Sys2Proof.Machine

/-! ## SHA-384 -/

def shaK0 : List Nat := [
  0x428A2F98D728AE22, 0x7137449123EF65CD, 0xB5C0FBCFEC4D3B2F, 0xE9B5DBA58189DBBC, 0x3956C25BF348B538,
  0x59F111F1B605D019, 0x923F82A4AF194F9B, 0xAB1C5ED5DA6D8118, 0xD807AA98A3030242, 0x12835B0145706FBE,
  0x243185BE4EE4B28C, 0x550C7DC3D5FFB4E2, 0x72BE5D74F27B896F, 0x80DEB1FE3B1696B1, 0x9BDC06A725C71235,
  0xC19BF174CF692694, 0xE49B69C19EF14AD2, 0xEFBE4786384F25E3, 0x0FC19DC68B8CD5B5, 0x240CA1CC77AC9C65]

def shaK1 : List Nat := [
  0x2DE92C6F592B0275, 0x4A7484AA6EA6E483, 0x5CB0A9DCBD41FBD4, 0x76F988DA831153B5, 0x983E5152EE66DFAB,
  0xA831C66D2DB43210, 0xB00327C898FB213F, 0xBF597FC7BEEF0EE4, 0xC6E00BF33DA88FC2, 0xD5A79147930AA725,
  0x06CA6351E003826F, 0x142929670A0E6E70, 0x27B70A8546D22FFC, 0x2E1B21385C26C926, 0x4D2C6DFC5AC42AED,
  0x53380D139D95B3DF, 0x650A73548BAF63DE, 0x766A0ABB3C77B2A8, 0x81C2C92E47EDAEE6, 0x92722C851482353B]

def shaK2 : List Nat := [
  0xA2BFE8A14CF10364, 0xA81A664BBC423001, 0xC24B8B70D0F89791, 0xC76C51A30654BE30, 0xD192E819D6EF5218,
  0xD69906245565A910, 0xF40E35855771202A, 0x106AA07032BBD1B8, 0x19A4C116B8D2D0C8, 0x1E376C085141AB53,
  0x2748774CDF8EEB99, 0x34B0BCB5E19B48A8, 0x391C0CB3C5C95A63, 0x4ED8AA4AE3418ACB, 0x5B9CCA4F7763E373,
  0x682E6FF3D6B2B8A3, 0x748F82EE5DEFB2FC, 0x78A5636F43172F60, 0x84C87814A1F0AB72, 0x8CC702081A6439EC]

def shaK3 : List Nat := [
  0x90BEFFFA23631E28, 0xA4506CEBDE82BDE9, 0xBEF9A3F7B2C67915, 0xC67178F2E372532B, 0xCA273ECEEA26619C,
  0xD186B8C721C0C207, 0xEADA7DD6CDE0EB1E, 0xF57D4F7FEE6ED178, 0x06F067AA72176FBA, 0x0A637DC5A2C898A6,
  0x113F9804BEF90DAE, 0x1B710B35131C471B, 0x28DB77F523047D84, 0x32CAAB7B40C72493, 0x3C9EBE0A15C9BEBC,
  0x431D67C49C100D4C, 0x4CC5D4BECB3E42B6, 0x597F299CFC657E2A, 0x5FCB6FAB3AD6FAEC, 0x6C44198C4A475817]

/-- The constants of the 80 rounds. -/
def shaK : List Nat := shaK0 ++ (shaK1 ++ (shaK2 ++ shaK3))

/-- The initial hash value of SHA-384. -/
def shaInit : List Nat := [
  0xCBBB9D5DC1059ED8, 0x629A292A367CD507, 0x9159015A3070DD17, 0x152FECD8F70E5939, 0x67332667FFC00B31,
  0x8EB44A8768581511, 0xDB0C2E0D64F98FA7, 0x47B5481DBEFA4FA4]

/-- A 64-bit word rotated right. -/
def rotr64 (x n : Nat) : Nat := (x / 2 ^ n + x * 2 ^ (64 - n)) % 2 ^ 64

def shaBig0 (x : Nat) : Nat := rotr64 x 28 ^^^ rotr64 x 34 ^^^ rotr64 x 39
def shaBig1 (x : Nat) : Nat := rotr64 x 14 ^^^ rotr64 x 18 ^^^ rotr64 x 41
def shaSmall0 (x : Nat) : Nat := rotr64 x 1 ^^^ rotr64 x 8 ^^^ x / 2 ^ 7
def shaSmall1 (x : Nat) : Nat := rotr64 x 19 ^^^ rotr64 x 61 ^^^ x / 2 ^ 6

/-- The eight working variables. -/
structure ShaVars where
  a : Nat
  b : Nat
  c : Nat
  d : Nat
  e : Nat
  f : Nat
  g : Nat
  h : Nat
deriving DecidableEq, Repr

/-- One round, with its constant and its word of the message schedule. -/
def ShaVars.round (v : ShaVars) (k w : Nat) : ShaVars :=
  let ch := (v.e &&& v.f) ^^^ ((2 ^ 64 - 1 - v.e) &&& v.g)
  let maj := (v.a &&& v.b) ^^^ (v.a &&& v.c) ^^^ (v.b &&& v.c)
  let t1 := v.h + shaBig1 v.e + ch + k + w
  let t2 := shaBig0 v.a + maj
  { a := (t1 + t2) % 2 ^ 64, b := v.a, c := v.b, d := v.c, e := (v.d + t1) % 2 ^ 64, f := v.e, g := v.f, h := v.g }

/-- The rounds left, with the next sixteen words of the message schedule. -/
def ShaVars.rounds (v : ShaVars) : (ks ws : List Nat) → ShaVars
  | [], _ => v
  | k :: ks, ws =>
    let w := ws.headD 0
    let next := (shaSmall1 (ws.getD 14 0) + ws.getD 9 0 + shaSmall0 (ws.getD 1 0) + w) % 2 ^ 64
    (v.round k w).rounds ks (ws.drop 1 ++ [next])

/-- Big-endian bytes as a number. -/
def beNat (b : List Byte) : Nat := leNat b.reverse

/-- A number as big-endian bytes. -/
def beBytes (x n : Nat) : List Byte := (leBytes x n).reverse

/-- The hash value after one block of 128 bytes. -/
def shaBlock (h : List Nat) (b : List Byte) : List Nat :=
  let g := fun (i : Nat) => h.getD i 0
  let v : ShaVars := { a := g 0, b := g 1, c := g 2, d := g 3, e := g 4, f := g 5, g := g 6, h := g 7 }
  let x := v.rounds shaK ((List.range 16).map fun i => beNat ((b.drop (8 * i)).take 8))
  [g 0 + x.a, g 1 + x.b, g 2 + x.c, g 3 + x.d, g 4 + x.e, g 5 + x.f, g 6 + x.g, g 7 + x.h].map (· % 2 ^ 64)

/-- The hash value after some blocks. -/
def shaBlocks (h : List Nat) (b : List Byte) : (blocks : Nat) → List Nat
  | 0 => h
  | n + 1 => shaBlocks (shaBlock h (b.take 128)) (b.drop 128) n

/-- SHA-384 of a byte string, most significant byte first. -/
def sha384 (b : List Byte) : BitVec 384 :=
  let n := b.length
  let padded := b ++ 0x80 :: List.replicate ((239 - n % 128) % 128) 0 ++ beBytes (8 * n) 16
  BitVec.ofNat 384 (((shaBlocks shaInit padded (padded.length / 128)).take 6).foldl (fun x y => x * 2 ^ 64 + y) 0)

/-! ## The curve -/

def curveP : Nat := 0x8CB91E82A3386D280F5D6F7E50E641DF152F7109ED5456B412B1DA197FB71123ACD3A729901D1A71874700133107EC53
def curveA : Nat := 0x7BC382C63D8C150C3C72080ACE05AFA0C2BEA28E4FB22787139165EFBA91F90F8AA5814A503AD4EB04A8C7DD22CE2826
def curveG : Nat × Nat :=
  (0x1D1C64F068CF45FFA2A63A81B7C13F6B8847A3E77EF14FE3DB7FCAFE0CBD10E8E826E03436D646AAEF87B2E247D4AF1E,
   0x8ABE1D7520F9C2A45CB1EB8E95CFD55262B70B29FEEC5864E19C054FF99129280E4646217791811142820341263C5315)
/-- The order of the base point. -/
def curveQ : Nat := 0x8CB91E82A3386D280F5D6F7E50E641DF152F7109ED5456B31F166E6CAC0425A7CF3AB6AF6B7FC3103B883202E9046565

/-- A power modulo m, for an exponent of at most n bits. -/
def powModN (m x e : Nat) : (n : Nat) → Nat
  | 0 => 1 % m
  | n + 1 =>
    let y := powModN m (x * x % m) (e / 2) n
    if e % 2 = 1 then x * y % m else y

/-- The inverse modulo a prime of 384 bits. -/
def invMod (m x : Nat) : Nat := powModN m (x % m) (m - 2) 384

/-- A difference modulo m. -/
def subMod (m x y : Nat) : Nat := (x + (m - y % m)) % m

/-- The sum of two points; none is the point at infinity. -/
def pointAdd : Option (Nat × Nat) → Option (Nat × Nat) → Option (Nat × Nat)
  | none, q => q
  | p, none => p
  | some (x1, y1), some (x2, y2) =>
    if x1 = x2 ∧ (y1 + y2) % curveP = 0 then none
    else
      let slope :=
        if x1 = x2 then (3 * x1 * x1 + curveA) * invMod curveP (2 * y1) % curveP
        else subMod curveP y2 y1 * invMod curveP (subMod curveP x2 x1) % curveP
      let x3 := subMod curveP (slope * slope) (x1 + x2)
      some (x3, subMod curveP (slope * subMod curveP x1 x3) y1)

/-- A multiple of a point, for a factor of at most n bits. -/
def pointMulN (p : Option (Nat × Nat)) (k : Nat) : (n : Nat) → Option (Nat × Nat)
  | 0 => none
  | n + 1 =>
    let q := pointMulN (pointAdd p p) (k / 2) n
    if k % 2 = 1 then pointAdd p q else q

/-- A multiple of a point. -/
def pointMul (k : Nat) (p : Nat × Nat) : Option (Nat × Nat) := if k = 0 then none else pointMulN (some p) k (Nat.log2 k + 1)

/-! ## Signatures -/

/-- Whether a signature, r then s, each of 48 bytes big-endian, over a digest verifies with a public key (R375). -/
def ecdsaVerifies (key : Nat × Nat) (digest : BitVec 384) (signature : List Byte) : Bool :=
  let r := beNat (signature.take 48)
  let s := beNat ((signature.drop 48).take 48)
  if r = 0 ∨ s = 0 ∨ curveQ ≤ r ∨ curveQ ≤ s then false
  else
    let w := invMod curveQ s
    match pointAdd (pointMul (digest.toNat * w % curveQ) curveG) (pointMul (r * w % curveQ) key) with
    | some (x, _) => x % curveQ == r
    | none => false

/-- The signature of a digest with a private key and a nonce (R377), if the nonce gives one. -/
def ecdsaSign (key nonce : Nat) (digest : BitVec 384) : Option (List Byte) :=
  match pointMul nonce curveG with
  | none => none
  | some (x, _) =>
    let r := x % curveQ
    let s := invMod curveQ nonce * (digest.toNat + r * key) % curveQ
    if r = 0 ∨ s = 0 then none else some (beBytes r 48 ++ beBytes s 48)

/-- The identity key's signature of a digest, with the first of some nonces that gives one. -/
def identitySign (digest : BitVec 384) (n : Nat) : (tries : Nat) → List Byte
  | 0 => List.replicate 96 0
  | tries + 1 =>
    match ecdsaSign (Config.identityKey.toNat % curveQ) ((Config.signNonce n).toNat % curveQ) digest with
    | some b => b
    | none => identitySign digest (n + 1) tries

end Sys2Proof.Machine
end

