-- ==== Sys2Proof/Machine/Platform.lean ====
section
/-! DEFINITION. Reset and bring-up (R374, R375), the management registers' writes (R370 to R373), attestation (R377), and power and
temperature (R378, R379, R449). -/

namespace Sys2Proof.Machine

/-! ## Reset and bring-up (R374) -/

/-- The package after a reset while the outside goes on: what the host's memory holds and the package's id stay, and nothing in the package
does. -/
def State.resetAll (s : State) : State :=
  { State.reset with
    mem := memFrom s.mem hostBase, poison := mkeep s.poison fun g _ => decide (hostBase ≤ 16 * g), pkg := s.pkg, dead := s.dead
    inputs := s.inputs, outbox := s.outbox, free := s.free }

/-- Power-good (R374): the one reset after which stopped clocks run again (R449). -/
def execPowerGoodReset (s : State) : Res :=
  match s.unit with
  | .none => .next { s.resetAll with dead := [] }
  | _ => .next s

/-- A PCIe conventional reset (R374). -/
def execPcieConventionalReset (s : State) : Res :=
  match s.unit with
  | .none => .next s.resetAll
  | _ => .next s

/-- The package reset of R451: the record and its interrupt, every queue stopped, and the reset of R374. -/
def State.packageReset (s : State) : State := (s.errorRecord 3 3 1 0 0 0 0 3).resetAll

/-- The package reset of R451. -/
def execPackageReset (s : State) : Res :=
  match s.unit with
  | .none => .next s.packageReset
  | _ => .next s

def State.setPhase (s : State) (n : Nat) : State :=
  { s with mstatus := (s.mstatus &&& 0x0FFFFFFF#32) ||| BitVec.ofNat 32 (n * 2 ^ 28) }

/-- GO in PHASE 0 (R373, R374): firmware reads the block that Q0DESC names (R371, R417, R450, R452), and PHASE 1 begins. -/
def State.go (s : State) : State :=
  if s.phase ≠ 0 || s.booted then s
  else
    let (b, _, s) := s.loadBytes s.q0desc.toNat 128 0
    { s with
      q0block := b, elog := field b 88 8, elogDepth := field b 96 4, lwatch := field b 100 4, saveArea := field b 104 8
      saveSize := field b 112 4, booted := true }.setPhase 1

/-- BOOTCTL.GO (R374). -/
def execBootctlGo (s : State) : Res :=
  match s.unit with
  | .none => .next s.go
  | _ => .next s

/-- The patch check of PHASE 2 (R375). -/
def State.checkPatch (s : State) : State :=
  if s.bootctl.getLsbD 0 = false then s
  else
    let a := s.patchaddr.toNat
    let h := s.peek a 16
    let n := field h 4 4
    let reject := { s with mstatus := s.mstatus ||| 0x04000000#32 }
    if field h 0 4 ≠ 0x50415443 ∨ 4194304 < n ∨ field h 12 4 ≠ 0 then reject
    else
      let body := s.peek a (16 + n)
      let sig := s.peek (a + 16 + n) 96
      if s.peekBad a (16 + n + 96) || !ecdsaVerifies (Config.patchKey.1.toNat, Config.patchKey.2.toNat) (sha384 body) sig then reject
      else { s with mstatus := s.mstatus ||| 0x08000000#32, patchVersion := field h 8 4, patchHash := sha384 (body ++ sig) }

/-- The firmware crew of a core, in slot 63 (R346, R374). Its program is not in the spec: what it does is done by events
(notes/assumptions/114.md). -/
def State.startFirmware (s : State) (core : Nat) : State :=
  { s with crews := mset s.crews (crewKey core 63) { group := 16384 + core, index := 0 } }

/-- A bring-up phase finishes (R374): what it does is done, and the next begins. -/
def execBringupPhaseComplete (s : State) : Res :=
  match s.unit with
  | .none =>
    .next (match s.phase with
      | 1 =>
        { s with
          mem := memFrom s.mem hostBase, tags := [], poison := mkeep s.poison fun g _ => decide (hostBase ≤ 16 * g), full := [], filling := []
          copies := [] }.setPhase 2
      | 2 => s.checkPatch.setPhase 3
      | 3 =>
        let s := { s with stage := mset s.stage 0 1 }.setFull tokenAt true
        let s := (List.range 320).foldl State.startFirmware s
        (s.makeQueue 0 0 (field s.q0block)).setPhase 4
      | _ => s)
  | _ => .next s

/-! ## Attestation (R377) -/

/-- A request for a report (R377); until PHASE is 4 it has no effect (R374). -/
def State.askReport (s : State) (val : Nat) : State := if val = 1 ∧ s.phase = 4 then { s with attBusy := s.attBusy + 1 } else s

/-- ATTGO (R377). -/
def execAttgo (val : BitVec 32) (s : State) : Res :=
  match s.unit with
  | .none => .next (s.askReport val.toNat)
  | _ => .next s

/-- Big-endian bytes of a digest. -/
def digestBytes (d : BitVec 384) : List Byte := beBytes d.toNat 48

/-- Bytes 0 to 271 of a report (R377); the nonce is in the order of the registers' bytes, the digests most significant byte first. -/
def State.report (s : State) : List Byte :=
  let table := fun (n : Nat) =>
    let x : ProtSlot := mget {} s.slots n
    if x.status = 2 then digestBytes (sha384 x.image) else List.replicate 48 0
  let active := s.mstatus.getLsbD 27
  leBytes 0x41545354 4 ++ leBytes (if active then s.patchVersion else 0) 4 ++ leBytes Config.serial.toNat 8 ++ leBytes s.attNonce.toNat 48
    ++ digestBytes Config.romHash ++ (if active then digestBytes s.patchHash else List.replicate 48 0) ++ table 6 ++ table 7
    ++ leBytes feature.toNat 8 ++ leBytes s.clock 8

/-- Firmware serves a request for a report: it writes it and sets ATTDONE (R377). -/
def execAttestationReport (s : State) : Res :=
  match s.unit with
  | .none =>
    if s.attBusy = 0 then .next s
    else
      let b := s.report
      let s := s.fwWrite s.attAddr.toNat (b ++ identitySign (sha384 b) s.free 4)
      .next { s with free := s.free + 4, attBusy := s.attBusy - 1, mstatus := s.mstatus ||| 0x02000000#32 }
  | _ => .next s

/-- Writing 1 to ATTDONE clears it (R372). -/
def State.clearAttdone (s : State) (val : Nat) : State :=
  if natBits val 25 1 = 1 then { s with mstatus := s.mstatus &&& 0xFDFFFFFF#32 } else s

/-- MSTATUS.ATTDONE (R372). -/
def execMstatusAttdoneClear (val : BitVec 32) (s : State) : Res :=
  match s.unit with
  | .none => .next (s.clearAttdone val.toNat)
  | _ => .next s

/-! ## Register writes (R370) -/

/-- One 32-bit half of a 64-bit register replaced. -/
def putHalf (x : DWord) (hi : Bool) (w : Nat) : DWord :=
  if hi then BitVec.ofNat 64 (x.toNat % 2 ^ 32 + 2 ^ 32 * w) else BitVec.ofNat 64 (x.toNat / 2 ^ 32 * 2 ^ 32 + w)

/-- A write of one 32-bit word of the management registers (R370); what is read-only or unnamed ignores it. -/
def State.regWrite (s : State) (off w : Nat) : State :=
  let odd := off / 4 % 2 == 1
  if off = 0x8 then s.clearAttdone w
  else if 0x10 ≤ off ∧ off < 0x18 then { s with q0desc := putHalf s.q0desc odd w }
  else if 0x18 ≤ off ∧ off < 0x20 then { s with patchaddr := putHalf s.patchaddr odd w }
  else if off = 0x20 then
    if s.phase ≠ 0 || s.booted then s
    else
      let s := { s with bootctl := BitVec.ofNat 32 (w % 2) }
      if natBits w 1 1 = 1 then s.go else s
  else if off = 0x50 ∨ off = 0x58 then
    let d := (off - 0x50) / 8
    let x := (mget 0x690000#32 s.therm d).toNat
    { s with therm := mset s.therm d (BitVec.ofNat 32 (natBits w 16 8 * 2 ^ 16 + x % 2 ^ 16)) }
  else if 0x200 ≤ off ∧ off < 0x340 then s.modCluster ((off - 0x200) / 4) fun k => { k with budget := natBits w 0 7 }
  else if 0x400 ≤ off ∧ off < 0x540 then s.modCluster ((off - 0x400) / 4) fun k => { k with stalled := 0 }
  else if 0x600 ≤ off ∧ off < 0x630 then s.modStack ((off - 0x600) / 4) fun k => { k with budget := natBits w 0 7 }
  else if 0x800 ≤ off ∧ off < 0x830 then
    let i := 8 * (off - 0x800)
    let x := s.attNonce.toNat
    { s with attNonce := BitVec.ofNat 384 (x - natBits x i 32 * 2 ^ i + w * 2 ^ i) }
  else if 0x830 ≤ off ∧ off < 0x838 then { s with attAddr := putHalf s.attAddr odd w }
  else if off = 0x838 then s.askReport w
  else s

/-- A write to the management registers (R370): one or two aligned words. -/
def execRegisterWrite (off : BitVec 30) (wide : BitVec 1) (val : BitVec 64) (s : State) : Res :=
  match s.unit with
  | .none =>
    let o := off.toNat
    let x := val.toNat
    .next (
      if wide = 1 then if o % 8 = 0 then (s.regWrite o (x % 2 ^ 32)).regWrite (o + 4) (x / 2 ^ 32) else s
      else if o % 4 = 0 then s.regWrite o (x % 2 ^ 32) else s)
  | _ => .next s

/-! ## Power and temperature (R378, R379, R449) -/

def State.thermOf (s : State) (die : Nat) : Nat := (mget 0x690000#32 s.therm die).toNat
def State.temp (s : State) (die : Nat) : Nat := natBits (s.thermOf die) 0 8
def State.tlimit (s : State) (die : Nat) : Nat := natBits (s.thermOf die) 16 8

/-- POWER and THERM of a die take what its sensors measure (R378): THROT is set at TLIMIT and cleared 5 degrees below it (R379); the emergency cap
ends at TLIMIT (R449). -/
def State.measured (s : State) (d watts temp : Nat) : State :=
  let limit := s.tlimit d
  let throt := if limit ≤ temp then 1 else if temp + 5 ≤ limit then 0 else natBits (s.thermOf d) 8 1
  { s with
    power := mset s.power d (BitVec.ofNat 32 watts)
    therm := mset s.therm d (BitVec.ofNat 32 (limit * 2 ^ 16 + throt * 2 ^ 8 + temp))
    hot := if limit + 10 ≤ temp then (if (mfind s.hot d).isSome then s.hot else mset s.hot d s.clock) else mdel s.hot d
    cap8 := if temp ≤ limit then mdel s.cap8 d else s.cap8 }

/-- A refresh of POWER and THERM with measurements from outside (R378). -/
def execSensorRefresh (die : BitVec 1) (watts : BitVec 16) (temp : BitVec 8) (s : State) : Res :=
  match s.unit with
  | .none => .next (s.measured die.toNat watts.toNat temp.toNat)
  | _ => .next s

/-- The refresh that every 1 ms brings (R378): the measurements are free values. -/
def State.measureDie (s : State) (die : Nat) : State :=
  let x := (Config.freeWord s.free).toNat
  { s with free := s.free + 1 }.measured die (natBits x 0 16) (natBits x 16 8)

/-- TEMP has stood at TLIMIT + 10 for 1 ms: every governor of the die acts with a BUDGET of at most 8 (R449). -/
def execThermalEmergencyCap (die : BitVec 1) (s : State) : Res :=
  match s.unit with
  | .none =>
    let d := die.toNat
    match mfind s.hot d with
    | some since =>
      .next (if since + 800000 ≤ s.clock && !mget false s.cap8 d then { s with cap8 := mset s.cap8 d true }.errorRecord 2 15 1 0 d 0 0 9 else s)
    | none => .next s
  | _ => .next s

/-- At 125 degrees C the die stops its clocks and drops its host link (R449). -/
def execThermalShutdown (die : BitVec 1) (s : State) : Res :=
  match s.unit with
  | .none =>
    if s.temp die.toNat < 125 then .next s
    else andThen (execHostAgentLost die s) fun s => .next { s with dead := mset s.dead die.toNat true }
  | _ => .next s

end Sys2Proof.Machine
end

