-- ==== Sys2Proof/Machine/Recovery.lean ====
section
/-! DEFINITION. Memory errors and page fills (R415 to R434), and the recovery of firmware (R451). -/

namespace Sys2Proof.Machine

/-! ## Page fills (R433, R434) -/

/-- A page fill ends: the frame and the leaf are written and the waiting accesses go on, or it fails and they learn the SUB of R430. -/
def execPageFillComplete (pte : BitVec 52) (s : State) : Res :=
  match s.unit with
  | .none =>
    match s.pageFills.find? fun f => f.pte == pte.toNat && f.failed.isNone with
    | none => .next s
    | some f =>
      .next (match s.fillPage f.pte f.entry f.level with
        | .ok s => s
        | .error sub => { s with
          pageFills := s.pageFills.map fun x => if x.pte = f.pte then { x with failed := some sub, at_ := s.clock } else x })
  | _ => .next s

/-! ## Errors (R415, R416, R420, R425) -/

/-- Whether an address lies in an allocation of a slice. -/
def inStaging (pa slice off size : Nat) : Bool := decide (stagingAt slice off ≤ pa ∧ pa < stagingAt slice off + size)

/-- The group whose allocation holds a staging address, or a group of the gang whose window holds it (R425). -/
def State.stagingOwner (s : State) (pa : Nat) : Option Nat :=
  match s.groups.find? fun e => inStaging pa e.2.win0Slice e.2.win0Off e.2.win0Size with
  | some (k, _) => some k
  | none =>
    match s.gangs.find? fun e => (List.range 4).any fun n => inStaging pa (4 * e.2.win1Cluster + n) (e.2.win1Off.getD n 0) (e.2.win1Size / 4) with
    | some (k, _) => (s.groups.find? fun e => e.2.gang == some k).map (·.1)
    | none => none

/-- An uncorrectable staging word kills the owner of its allocation (R422, R425); in the firmware area it resets the package (R451). -/
def State.stagingError (s : State) (pa : Nat) : State :=
  if inStaging pa 0 0 65536 then s.packageReset
  else
    match s.stagingOwner pa with
    | some gk => s.killError gk 3 (homeSlice pa) pa
    | none => s

/-- A staging word that becomes poisoned kills the owner of its allocation (R422). -/
def State.poisonedStaging (s : State) : State :=
  match s.poison.find? fun e => e.2 && region (16 * e.1) == .staging && (s.stagingOwner (16 * e.1)).isSome with
  | some (g, _) => s.stagingError (16 * g)
  | none => s

/-- A granule of memory is poisoned (R420); the record. -/
def State.poisonGranule (s : State) (pa : Nat) : State :=
  let u := storageUnit pa
  (s.setPoison (pa / 16) true).errorRecord 2 u.1 1 pa u.2 0 0 1

/-- A slice finds an uncorrectable granule in a copy (R426): a read copy is dropped, and a write copy's granule is poisoned. -/
def State.copyError (s : State) (slice pa : Nat) : State :=
  let line := pa / 128
  match mfind s.copies (copyKey slice line) with
  | none => s
  | some c =>
    let g := pa % 128 / 16
    if c.write then
      { s with copies := mset s.copies (copyKey slice line) { c with dirty := true, line := { c.line with poison := g :: c.line.poison } } }
        |>.errorRecord 2 2 1 pa slice 0 0 1
    else (s.evictOwn slice line).errorRecord 2 2 1 pa slice 0 0 5

/-- Firmware restarts a core's crew from ROM (R451): nothing it has not committed has taken effect, and it begins again. -/
def State.restartCrew (s : State) (core : Nat) : State := s.errorRecord 2 13 1 0 core 0 0 8

/-- FIRMWARE_CREW_RESTART (R451). The firmware of this model finishes each command and pass in one step, so a restarted agent has none to
complete. -/
def execFirmwareCrewRestart (core : BitVec 9) (_err : BitVec 1) (s : State) : Res :=
  match s.unit with
  | .none => .next (if core.toNat < 320 && s.phase == 4 then s.restartCrew core.toNat else s)
  | _ => .next s

/-- An uncorrectable error (R415, R420, R425, R426, R427, R448), by the UNIT of R418. `id` names a slice of the yard, a crew's key for its
registers and state, a cluster for its operand buffer and accumulators, and a bench. -/
def execUncorrectableError (unit : BitVec 4) (id : BitVec 32) (addr : BitVec 52) (s : State) : Res :=
  match s.unit with
  | .none =>
    let pa := addr.toNat
    let n := id.toNat
    match unit.toNat with
    | 1 => .next (if region pa = .hbm then s.poisonGranule pa else s)
    | 2 => .next (s.copyError n pa)
    | 3 => .next (if region pa = .staging then s.stagingError pa else s)
    | 4 => execPoisoned (BitVec.ofNat 45 (pa / 128)) s
    | 5 | 6 =>
      .next (if slotOf n = 63 then s.restartCrew (coreOf n)
        else if (mfind s.crews n).isSome then s.killError (s.crew n).group unit.toNat (coreOf n) 0
        else s)
    | 7 =>
      .next (match (s.cluster n).gang with
        | some g => s.killError (s.gangHead g) 7 (4 * n) 0
        | none => s)
    | 8 =>
      match s.hbmStacks.find? fun e => e.1 == n / 1024 && e.2.launch.isSome with
      | some (_, st) => execBenchParityError (BitVec.ofNat 5 (st.launch.getD 0)) s
      | none => .next s
    | 9 => .next (if region pa = .host then s.poisonGranule pa else s)
    | _ => .next s
  | _ => .next s

/-- Corrections of one unit and die, at most one record a millisecond (R419). -/
def execCorrectionSummary (unit : BitVec 4) (die : BitVec 1) (id : BitVec 32) (addr : BitVec 52) (count : BitVec 16) (s : State) : Res :=
  match s.unit with
  | .none =>
    let key := 2 * unit.toNat + die.toNat
    let n := (match mfind s.corrections key with | some x => x.2 | none => 0) + count.toNat
    match mfind s.corrections key with
    | some (last, _) =>
      if s.clock < last + 800000 then .next { s with corrections := mset s.corrections key (last, n) }
      else .next ({ s with corrections := mset s.corrections key (s.clock, 0) }.errorRecord 1 unit.toNat n addr.toNat id.toNat 0 0 0)
    | none => .next ({ s with corrections := mset s.corrections key (s.clock, 0) }.errorRecord 1 unit.toNat n addr.toNat id.toNat 0 0 0)
  | _ => .next s

/-- The patrol scrubber reads a granule (R416): one it cannot correct is poisoned; slabs that are not CORE are skipped. -/
def execPatrolScrub (granule : BitVec 48) (bad : BitVec 1) (s : State) : Res :=
  match s.unit with
  | .none =>
    let pa := 16 * granule.toNat
    .next (if bad = 1 && region pa == .hbm && s.coreOwned pa then s.poisonGranule pa else s)
  | _ => .next s

/-- The record that summarises a queue's discarded tail writes (UNIT 14), or a context's dropped flag ORs (UNIT 16) (R157, R418). -/
def execSummarisingRecord (unit : BitVec 5) (id : BitVec 32) (s : State) : Res :=
  match s.unit with
  | .none =>
    let n := id.toNat
    if unit = 14 then
      match mfind s.queues n with
      | some q =>
        .next (if q.malformed = 0 then s
          else (s.modQueue n fun q => { q with malformed := 0 }).errorRecord 4 14 q.malformed 0 n 0 0 4)
      | none => .next s
    else if unit = 16 then
      let k := mget 0 s.skippedOrs n
      .next (if k = 0 then s else { s with skippedOrs := mdel s.skippedOrs n }.errorRecord 4 16 k 0 0 n 0 4)
    else .next s
  | _ => .next s

end Sys2Proof.Machine
end

