-- ==== Sys2Proof/Machine/Dispatch.lean ====
section
/-! DEFINITION. The dispatch of an instruction or event to its meaning: one arm per constructor. -/

namespace Sys2Proof.Machine

open Sys2Proof

def exec (i : Instr) (s : State) : Host.Outcome State Fault Refusal :=
  match i with
  | .add a0 a1 a2 a3 a4 a5 => Sys2Proof.Machine.execAdd a0 a1 a2 a3 a4 a5 s
  | .sub a0 a1 a2 a3 a4 a5 => Sys2Proof.Machine.execSub a0 a1 a2 a3 a4 a5 s
  | .mul a0 a1 a2 a3 a4 a5 => Sys2Proof.Machine.execMul a0 a1 a2 a3 a4 a5 s
  | .mulh a0 a1 a2 a3 a4 a5 => Sys2Proof.Machine.execMulh a0 a1 a2 a3 a4 a5 s
  | .div a0 a1 a2 a3 a4 a5 => Sys2Proof.Machine.execDiv a0 a1 a2 a3 a4 a5 s
  | .rem a0 a1 a2 a3 a4 a5 => Sys2Proof.Machine.execRem a0 a1 a2 a3 a4 a5 s
  | .and a0 a1 a2 a3 a4 a5 => Sys2Proof.Machine.execAnd a0 a1 a2 a3 a4 a5 s
  | .or a0 a1 a2 a3 a4 a5 => Sys2Proof.Machine.execOr a0 a1 a2 a3 a4 a5 s
  | .xor a0 a1 a2 a3 a4 a5 => Sys2Proof.Machine.execXor a0 a1 a2 a3 a4 a5 s
  | .andn a0 a1 a2 a3 a4 a5 => Sys2Proof.Machine.execAndn a0 a1 a2 a3 a4 a5 s
  | .shl a0 a1 a2 a3 a4 a5 => Sys2Proof.Machine.execShl a0 a1 a2 a3 a4 a5 s
  | .shr a0 a1 a2 a3 a4 a5 => Sys2Proof.Machine.execShr a0 a1 a2 a3 a4 a5 s
  | .sra a0 a1 a2 a3 a4 a5 => Sys2Proof.Machine.execSra a0 a1 a2 a3 a4 a5 s
  | .min a0 a1 a2 a3 a4 a5 => Sys2Proof.Machine.execMin a0 a1 a2 a3 a4 a5 s
  | .max a0 a1 a2 a3 a4 a5 => Sys2Proof.Machine.execMax a0 a1 a2 a3 a4 a5 s
  | .addi a0 a1 a2 a3 a4 => Sys2Proof.Machine.execAddi a0 a1 a2 a3 a4 s
  | .andi a0 a1 a2 a3 a4 => Sys2Proof.Machine.execAndi a0 a1 a2 a3 a4 s
  | .ori a0 a1 a2 a3 a4 => Sys2Proof.Machine.execOri a0 a1 a2 a3 a4 s
  | .xori a0 a1 a2 a3 a4 => Sys2Proof.Machine.execXori a0 a1 a2 a3 a4 s
  | .shli a0 a1 a2 a3 a4 => Sys2Proof.Machine.execShli a0 a1 a2 a3 a4 s
  | .shri a0 a1 a2 a3 a4 => Sys2Proof.Machine.execShri a0 a1 a2 a3 a4 s
  | .srai a0 a1 a2 a3 a4 => Sys2Proof.Machine.execSrai a0 a1 a2 a3 a4 s
  | .movi a0 a1 a2 a3 => Sys2Proof.Machine.execMovi a0 a1 a2 a3 s
  | .movh a0 a1 a2 a3 => Sys2Proof.Machine.execMovh a0 a1 a2 a3 s
  | .ceq a0 a1 a2 a3 a4 a5 => Sys2Proof.Machine.execCeq a0 a1 a2 a3 a4 a5 s
  | .cne a0 a1 a2 a3 a4 a5 => Sys2Proof.Machine.execCne a0 a1 a2 a3 a4 a5 s
  | .clt a0 a1 a2 a3 a4 a5 a6 => Sys2Proof.Machine.execClt a0 a1 a2 a3 a4 a5 a6 s
  | .cle a0 a1 a2 a3 a4 a5 a6 => Sys2Proof.Machine.execCle a0 a1 a2 a3 a4 a5 a6 s
  | .plog a0 a1 a2 a3 a4 a5 => Sys2Proof.Machine.execPlog a0 a1 a2 a3 a4 a5 s
  | .prd a0 a1 a2 a3 => Sys2Proof.Machine.execPrd a0 a1 a2 a3 s
  | .pwr a0 a1 a2 a3 => Sys2Proof.Machine.execPwr a0 a1 a2 a3 s
  | .pset a0 a1 a2 => Sys2Proof.Machine.execPset a0 a1 a2 s
  | .pclr a0 a1 a2 => Sys2Proof.Machine.execPclr a0 a1 a2 s
  | .popc a0 a1 a2 a3 a4 => Sys2Proof.Machine.execPopc a0 a1 a2 a3 a4 s
  | .clz a0 a1 a2 a3 a4 => Sys2Proof.Machine.execClz a0 a1 a2 a3 a4 s
  | .ctz a0 a1 a2 a3 a4 => Sys2Proof.Machine.execCtz a0 a1 a2 a3 a4 s
  | .brev a0 a1 a2 a3 a4 => Sys2Proof.Machine.execBrev a0 a1 a2 a3 a4 s
  | .bswap a0 a1 a2 a3 a4 => Sys2Proof.Machine.execBswap a0 a1 a2 a3 a4 s
  | .sexb a0 a1 a2 a3 a4 => Sys2Proof.Machine.execSexb a0 a1 a2 a3 a4 s
  | .sexh a0 a1 a2 a3 a4 => Sys2Proof.Machine.execSexh a0 a1 a2 a3 a4 s
  | .movd a0 a1 a2 a3 a4 => Sys2Proof.Machine.execMovd a0 a1 a2 a3 a4 s
  | .bfe a0 a1 a2 a3 a4 a5 => Sys2Proof.Machine.execBfe a0 a1 a2 a3 a4 a5 s
  | .fadd a0 a1 a2 a3 a4 a5 => Sys2Proof.Machine.execFadd a0 a1 a2 a3 a4 a5 s
  | .fsub a0 a1 a2 a3 a4 a5 => Sys2Proof.Machine.execFsub a0 a1 a2 a3 a4 a5 s
  | .fmul a0 a1 a2 a3 a4 a5 => Sys2Proof.Machine.execFmul a0 a1 a2 a3 a4 a5 s
  | .fdiv a0 a1 a2 a3 a4 a5 => Sys2Proof.Machine.execFdiv a0 a1 a2 a3 a4 a5 s
  | .fmin a0 a1 a2 a3 a4 a5 => Sys2Proof.Machine.execFmin a0 a1 a2 a3 a4 a5 s
  | .fmax a0 a1 a2 a3 a4 a5 => Sys2Proof.Machine.execFmax a0 a1 a2 a3 a4 a5 s
  | .fmac a0 a1 a2 a3 a4 a5 => Sys2Proof.Machine.execFmac a0 a1 a2 a3 a4 a5 s
  | .fnmac a0 a1 a2 a3 a4 a5 => Sys2Proof.Machine.execFnmac a0 a1 a2 a3 a4 a5 s
  | .hadd a0 a1 a2 a3 a4 a5 => Sys2Proof.Machine.execHadd a0 a1 a2 a3 a4 a5 s
  | .hsub a0 a1 a2 a3 a4 a5 => Sys2Proof.Machine.execHsub a0 a1 a2 a3 a4 a5 s
  | .hmul a0 a1 a2 a3 a4 a5 => Sys2Proof.Machine.execHmul a0 a1 a2 a3 a4 a5 s
  | .hmac a0 a1 a2 a3 a4 a5 => Sys2Proof.Machine.execHmac a0 a1 a2 a3 a4 a5 s
  | .fcmp a0 a1 a2 a3 a4 a5 a6 => Sys2Proof.Machine.execFcmp a0 a1 a2 a3 a4 a5 a6 s
  | .frcp a0 a1 a2 a3 a4 => Sys2Proof.Machine.execFrcp a0 a1 a2 a3 a4 s
  | .frsq a0 a1 a2 a3 a4 => Sys2Proof.Machine.execFrsq a0 a1 a2 a3 a4 s
  | .fsqrtF32 a0 a1 a2 a3 a4 => Sys2Proof.Machine.execFsqrtF32 a0 a1 a2 a3 a4 s
  | .fexp2 a0 a1 a2 a3 a4 => Sys2Proof.Machine.execFexp2 a0 a1 a2 a3 a4 s
  | .flog2 a0 a1 a2 a3 a4 => Sys2Proof.Machine.execFlog2 a0 a1 a2 a3 a4 s
  | .fsin a0 a1 a2 a3 a4 => Sys2Proof.Machine.execFsin a0 a1 a2 a3 a4 s
  | .fcos a0 a1 a2 a3 a4 => Sys2Proof.Machine.execFcos a0 a1 a2 a3 a4 s
  | .ftanh a0 a1 a2 a3 a4 => Sys2Proof.Machine.execFtanh a0 a1 a2 a3 a4 s
  | .fabsF32 a0 a1 a2 a3 a4 => Sys2Proof.Machine.execFabsF32 a0 a1 a2 a3 a4 s
  | .fnegF32 a0 a1 a2 a3 a4 => Sys2Proof.Machine.execFnegF32 a0 a1 a2 a3 a4 s
  | .fabsF64 a0 a1 a2 a3 a4 => Sys2Proof.Machine.execFabsF64 a0 a1 a2 a3 a4 s
  | .fnegF64 a0 a1 a2 a3 a4 => Sys2Proof.Machine.execFnegF64 a0 a1 a2 a3 a4 s
  | .fclassF32 a0 a1 a2 a3 a4 => Sys2Proof.Machine.execFclassF32 a0 a1 a2 a3 a4 s
  | .fclassF64 a0 a1 a2 a3 a4 => Sys2Proof.Machine.execFclassF64 a0 a1 a2 a3 a4 s
  | .fsqrtF64 a0 a1 a2 a3 a4 => Sys2Proof.Machine.execFsqrtF64 a0 a1 a2 a3 a4 s
  | .fscale a0 a1 a2 a3 a4 a5 => Sys2Proof.Machine.execFscale a0 a1 a2 a3 a4 a5 s
  | .cvtf a0 a1 a2 a3 a4 a5 => Sys2Proof.Machine.execCvtf a0 a1 a2 a3 a4 a5 s
  | .cvti a0 a1 a2 a3 a4 a5 => Sys2Proof.Machine.execCvti a0 a1 a2 a3 a4 a5 s
  | .qnt a0 a1 a2 a3 a4 a5 => Sys2Proof.Machine.execQnt a0 a1 a2 a3 a4 a5 s
  | .dqnt a0 a1 a2 a3 a4 a5 => Sys2Proof.Machine.execDqnt a0 a1 a2 a3 a4 a5 s
  | .pack a0 a1 a2 a3 a4 a5 => Sys2Proof.Machine.execPack a0 a1 a2 a3 a4 a5 s
  | .unpk a0 a1 a2 a3 a4 a5 => Sys2Proof.Machine.execUnpk a0 a1 a2 a3 a4 a5 s
  | .mxsc a0 a1 a2 a3 a4 a5 => Sys2Proof.Machine.execMxsc a0 a1 a2 a3 a4 a5 s
  | .br a0 a1 a2 => Sys2Proof.Machine.execBr a0 a1 a2 s
  | .call a0 a1 a2 => Sys2Proof.Machine.execCall a0 a1 a2 s
  | .jmp a0 a1 a2 a3 => Sys2Proof.Machine.execJmp a0 a1 a2 a3 s
  | .callr a0 a1 a2 a3 a4 => Sys2Proof.Machine.execCallr a0 a1 a2 a3 a4 s
  | .ret a0 a1 a2 a3 => Sys2Proof.Machine.execRet a0 a1 a2 a3 s
  | .reform a0 a1 => Sys2Proof.Machine.execReform a0 a1 s
  | .enrol a0 a1 a2 => Sys2Proof.Machine.execEnrol a0 a1 a2 s
  | .park a0 a1 a2 => Sys2Proof.Machine.execPark a0 a1 a2 s
  | .strike a0 a1 a2 => Sys2Proof.Machine.execStrike a0 a1 a2 s
  | .exit a0 a1 => Sys2Proof.Machine.execExit a0 a1 s
  | .nop a0 a1 => Sys2Proof.Machine.execNop a0 a1 s
  | .safept a0 a1 a2 a3 a4 => Sys2Proof.Machine.execSafept a0 a1 a2 a3 a4 s
  | .spawn a0 a1 a2 a3 a4 => Sys2Proof.Machine.execSpawn a0 a1 a2 a3 a4 s
  | .bar a0 a1 a2 => Sys2Proof.Machine.execBar a0 a1 a2 s
  | .gbar a0 a1 a2 => Sys2Proof.Machine.execGbar a0 a1 a2 s
  | .fenceIo a0 a1 => Sys2Proof.Machine.execFenceIo a0 a1 s
  | .codepub a0 a1 a2 a3 => Sys2Proof.Machine.execCodepub a0 a1 a2 a3 s
  | .isync a0 a1 => Sys2Proof.Machine.execIsync a0 a1 s
  | .qxH a0 a1 a2 a3 a4 => Sys2Proof.Machine.execQxH a0 a1 a2 a3 a4 s
  | .qxV a0 a1 a2 a3 a4 => Sys2Proof.Machine.execQxV a0 a1 a2 a3 a4 s
  | .qxD a0 a1 a2 a3 a4 => Sys2Proof.Machine.execQxD a0 a1 a2 a3 a4 s
  | .qbc a0 a1 a2 a3 a4 a5 => Sys2Proof.Machine.execQbc a0 a1 a2 a3 a4 a5 s
  | .perm a0 a1 a2 a3 a4 => Sys2Proof.Machine.execPerm a0 a1 a2 a3 a4 s
  | .shfl a0 a1 a2 a3 a4 a5 => Sys2Proof.Machine.execShfl a0 a1 a2 a3 a4 a5 s
  | .vote a0 a1 a2 a3 a4 a5 => Sys2Proof.Machine.execVote a0 a1 a2 a3 a4 a5 s
  | .cred a0 a1 a2 a3 a4 a5 => Sys2Proof.Machine.execCred a0 a1 a2 a3 a4 a5 s
  | .credf a0 a1 a2 a3 a4 a5 => Sys2Proof.Machine.execCredf a0 a1 a2 a3 a4 a5 s
  | .cscan a0 a1 a2 a3 a4 a5 => Sys2Proof.Machine.execCscan a0 a1 a2 a3 a4 a5 s
  | .blut a0 a1 a2 a3 a4 a5 => Sys2Proof.Machine.execBlut a0 a1 a2 a3 a4 a5 s
  | .kadd a0 a1 a2 a3 a4 a5 => Sys2Proof.Machine.execKadd a0 a1 a2 a3 a4 a5 s
  | .ksub a0 a1 a2 a3 a4 a5 => Sys2Proof.Machine.execKsub a0 a1 a2 a3 a4 a5 s
  | .kaddi a0 a1 a2 a3 a4 => Sys2Proof.Machine.execKaddi a0 a1 a2 a3 a4 s
  | .kmovi a0 a1 a2 a3 => Sys2Proof.Machine.execKmovi a0 a1 a2 a3 s
  | .kmovh a0 a1 a2 a3 => Sys2Proof.Machine.execKmovh a0 a1 a2 a3 s
  | .kld a0 a1 a2 a3 a4 a5 a6 => Sys2Proof.Machine.execKld a0 a1 a2 a3 a4 a5 a6 s
  | .kst a0 a1 a2 a3 a4 a5 a6 => Sys2Proof.Machine.execKst a0 a1 a2 a3 a4 a5 a6 s
  | .kfirst a0 a1 a2 a3 a4 => Sys2Proof.Machine.execKfirst a0 a1 a2 a3 a4 s
  | .ldB a0 a1 a2 a3 a4 a5 => Sys2Proof.Machine.execLdB a0 a1 a2 a3 a4 a5 s
  | .ldH a0 a1 a2 a3 a4 a5 => Sys2Proof.Machine.execLdH a0 a1 a2 a3 a4 a5 s
  | .ldW a0 a1 a2 a3 a4 a5 => Sys2Proof.Machine.execLdW a0 a1 a2 a3 a4 a5 s
  | .ldD a0 a1 a2 a3 a4 a5 => Sys2Proof.Machine.execLdD a0 a1 a2 a3 a4 a5 s
  | .ldQ a0 a1 a2 a3 a4 a5 => Sys2Proof.Machine.execLdQ a0 a1 a2 a3 a4 a5 s
  | .stB a0 a1 a2 a3 a4 a5 => Sys2Proof.Machine.execStB a0 a1 a2 a3 a4 a5 s
  | .stH a0 a1 a2 a3 a4 a5 => Sys2Proof.Machine.execStH a0 a1 a2 a3 a4 a5 s
  | .stW a0 a1 a2 a3 a4 a5 => Sys2Proof.Machine.execStW a0 a1 a2 a3 a4 a5 s
  | .stD a0 a1 a2 a3 a4 a5 => Sys2Proof.Machine.execStD a0 a1 a2 a3 a4 a5 s
  | .stQ a0 a1 a2 a3 a4 a5 => Sys2Proof.Machine.execStQ a0 a1 a2 a3 a4 a5 s
  | .ldf a0 a1 a2 a3 a4 a5 a6 => Sys2Proof.Machine.execLdf a0 a1 a2 a3 a4 a5 a6 s
  | .ldfk a0 a1 a2 a3 a4 a5 a6 => Sys2Proof.Machine.execLdfk a0 a1 a2 a3 a4 a5 a6 s
  | .ste a0 a1 a2 a3 a4 a5 a6 => Sys2Proof.Machine.execSte a0 a1 a2 a3 a4 a5 a6 s
  | .stf a0 a1 a2 a3 a4 a5 a6 => Sys2Proof.Machine.execStf a0 a1 a2 a3 a4 a5 a6 s
  | .sete a0 a1 a2 a3 a4 a5 => Sys2Proof.Machine.execSete a0 a1 a2 a3 a4 a5 s
  | .waitv a0 a1 a2 a3 a4 a5 a6 => Sys2Proof.Machine.execWaitv a0 a1 a2 a3 a4 a5 a6 s
  | .atomIntW a0 a1 a2 a3 a4 a5 a6 => Sys2Proof.Machine.execAtomIntW a0 a1 a2 a3 a4 a5 a6 s
  | .atomIntD a0 a1 a2 a3 a4 a5 a6 => Sys2Proof.Machine.execAtomIntD a0 a1 a2 a3 a4 a5 a6 s
  | .atomSwap a0 a1 a2 a3 a4 a5 a6 => Sys2Proof.Machine.execAtomSwap a0 a1 a2 a3 a4 a5 a6 s
  | .atomCas a0 a1 a2 a3 a4 a5 a6 => Sys2Proof.Machine.execAtomCas a0 a1 a2 a3 a4 a5 a6 s
  | .atomFadd a0 a1 a2 a3 a4 a5 a6 => Sys2Proof.Machine.execAtomFadd a0 a1 a2 a3 a4 a5 a6 s
  | .atomFminF32 a0 a1 a2 a3 a4 a5 => Sys2Proof.Machine.execAtomFminF32 a0 a1 a2 a3 a4 a5 s
  | .atomFmaxF32 a0 a1 a2 a3 a4 a5 => Sys2Proof.Machine.execAtomFmaxF32 a0 a1 a2 a3 a4 a5 s
  | .redIntW a0 a1 a2 a3 a4 a5 a6 => Sys2Proof.Machine.execRedIntW a0 a1 a2 a3 a4 a5 a6 s
  | .redIntD a0 a1 a2 a3 a4 a5 a6 => Sys2Proof.Machine.execRedIntD a0 a1 a2 a3 a4 a5 a6 s
  | .redFloat a0 a1 a2 a3 a4 a5 a6 => Sys2Proof.Machine.execRedFloat a0 a1 a2 a3 a4 a5 a6 s
  | .capld a0 a1 a2 a3 a4 a5 => Sys2Proof.Machine.execCapld a0 a1 a2 a3 a4 a5 s
  | .capst a0 a1 a2 a3 a4 a5 => Sys2Proof.Machine.execCapst a0 a1 a2 a3 a4 a5 s
  | .xset a0 a1 a2 a3 a4 => Sys2Proof.Machine.execXset a0 a1 a2 a3 a4 s
  | .xget a0 a1 a2 a3 a4 => Sys2Proof.Machine.execXget a0 a1 a2 a3 a4 s
  | .xstep a0 a1 a2 a3 a4 => Sys2Proof.Machine.execXstep a0 a1 a2 a3 a4 s
  | .xcur a0 a1 a2 a3 a4 => Sys2Proof.Machine.execXcur a0 a1 a2 a3 a4 s
  | .putreg a0 a1 a2 a3 a4 a5 => Sys2Proof.Machine.execPutreg a0 a1 a2 a3 a4 a5 s
  | .hold a0 a1 a2 a3 => Sys2Proof.Machine.execHold a0 a1 a2 a3 s
  | .gname a0 a1 a2 a3 => Sys2Proof.Machine.execGname a0 a1 a2 a3 s
  | .sjoin a0 a1 a2 a3 => Sys2Proof.Machine.execSjoin a0 a1 a2 a3 s
  | .sleave a0 a1 a2 a3 => Sys2Proof.Machine.execSleave a0 a1 a2 a3 s
  | .smap a0 a1 a2 a3 a4 => Sys2Proof.Machine.execSmap a0 a1 a2 a3 a4 s
  | .ldc a0 a1 a2 a3 a4 a5 a6 => Sys2Proof.Machine.execLdc a0 a1 a2 a3 a4 a5 a6 s
  | .stc a0 a1 a2 a3 a4 a5 a6 => Sys2Proof.Machine.execStc a0 a1 a2 a3 a4 a5 a6 s
  | .amoc a0 a1 a2 a3 a4 a5 => Sys2Proof.Machine.execAmoc a0 a1 a2 a3 a4 a5 s
  | .amocRed a0 a1 a2 a3 a4 a5 => Sys2Proof.Machine.execAmocRed a0 a1 a2 a3 a4 a5 s
  | .capsetA a0 a1 a2 a3 a4 a5 => Sys2Proof.Machine.execCapsetA a0 a1 a2 a3 a4 a5 s
  | .capsetB a0 a1 a2 a3 a4 a5 => Sys2Proof.Machine.execCapsetB a0 a1 a2 a3 a4 a5 s
  | .capsetP a0 a1 a2 a3 a4 a5 => Sys2Proof.Machine.execCapsetP a0 a1 a2 a3 a4 a5 s
  | .capsetSeal a0 a1 a2 a3 a4 => Sys2Proof.Machine.execCapsetSeal a0 a1 a2 a3 a4 s
  | .caprd a0 a1 a2 a3 a4 a5 => Sys2Proof.Machine.execCaprd a0 a1 a2 a3 a4 a5 s
  | .chdef a0 a1 a2 a3 a4 => Sys2Proof.Machine.execChdef a0 a1 a2 a3 a4 s
  | .chpush a0 a1 a2 a3 a4 => Sys2Proof.Machine.execChpush a0 a1 a2 a3 a4 s
  | .chtake a0 a1 a2 a3 => Sys2Proof.Machine.execChtake a0 a1 a2 a3 s
  | .copy a0 a1 a2 a3 a4 a5 => Sys2Proof.Machine.execCopy a0 a1 a2 a3 a4 a5 s
  | .retile a0 a1 a2 a3 a4 => Sys2Proof.Machine.execRetile a0 a1 a2 a3 a4 s
  | .gath a0 a1 a2 a3 a4 => Sys2Proof.Machine.execGath a0 a1 a2 a3 a4 s
  | .chain a0 a1 a2 a3 a4 => Sys2Proof.Machine.execChain a0 a1 a2 a3 a4 s
  | .coll a0 a1 a2 a3 a4 => Sys2Proof.Machine.execColl a0 a1 a2 a3 a4 s
  | .wopen a0 a1 a2 a3 a4 => Sys2Proof.Machine.execWopen a0 a1 a2 a3 a4 s
  | .wfinal a0 a1 a2 a3 => Sys2Proof.Machine.execWfinal a0 a1 a2 a3 s
  | .bkload a0 a1 a2 a3 a4 => Sys2Proof.Machine.execBkload a0 a1 a2 a3 a4 s
  | .bkvec a0 a1 a2 a3 a4 => Sys2Proof.Machine.execBkvec a0 a1 a2 a3 a4 s
  | .bkrun a0 a1 a2 a3 a4 => Sys2Proof.Machine.execBkrun a0 a1 a2 a3 a4 s
  | .bkdrain a0 a1 a2 a3 a4 => Sys2Proof.Machine.execBkdrain a0 a1 a2 a3 a4 s
  | .ownb a0 a1 a2 a3 a4 => Sys2Proof.Machine.execOwnb a0 a1 a2 a3 a4 s
  | .ownc a0 a1 a2 a3 a4 => Sys2Proof.Machine.execOwnc a0 a1 a2 a3 a4 s
  | .mres a0 a1 a2 => Sys2Proof.Machine.execMres a0 a1 a2 s
  | .mrel a0 a1 => Sys2Proof.Machine.execMrel a0 a1 s
  | .mload a0 a1 a2 => Sys2Proof.Machine.execMload a0 a1 a2 s
  | .mchin a0 a1 a2 => Sys2Proof.Machine.execMchin a0 a1 a2 s
  | .mma a0 a1 a2 a3 a4 => Sys2Proof.Machine.execMma a0 a1 a2 a3 a4 s
  | .mzero a0 a1 => Sys2Proof.Machine.execMzero a0 a1 s
  | .mout a0 a1 a2 => Sys2Proof.Machine.execMout a0 a1 a2 s
  | .mstore a0 a1 a2 => Sys2Proof.Machine.execMstore a0 a1 a2 s
  | .trap a0 a1 a2 => Sys2Proof.Machine.execTrap a0 a1 a2 s
  | .tret a0 a1 => Sys2Proof.Machine.execTret a0 a1 s
  | .tretNext a0 a1 => Sys2Proof.Machine.execTretNext a0 a1 s
  | .brk a0 a1 a2 => Sys2Proof.Machine.execBrk a0 a1 a2 s
  | .ticket a0 a1 a2 a3 => Sys2Proof.Machine.execTicket a0 a1 a2 a3 s
  | .mfs a0 a1 a2 a3 => Sys2Proof.Machine.execMfs a0 a1 a2 a3 s
  | .mts a0 a1 a2 a3 => Sys2Proof.Machine.execMts a0 a1 a2 a3 s
  | .add16 a0 a1 => Sys2Proof.Machine.execAdd16 a0 a1 s
  | .sub16 a0 a1 => Sys2Proof.Machine.execSub16 a0 a1 s
  | .mul16 a0 a1 => Sys2Proof.Machine.execMul16 a0 a1 s
  | .and16 a0 a1 => Sys2Proof.Machine.execAnd16 a0 a1 s
  | .or16 a0 a1 => Sys2Proof.Machine.execOr16 a0 a1 s
  | .xor16 a0 a1 => Sys2Proof.Machine.execXor16 a0 a1 s
  | .shl16 a0 a1 => Sys2Proof.Machine.execShl16 a0 a1 s
  | .shr16 a0 a1 => Sys2Proof.Machine.execShr16 a0 a1 s
  | .sra16 a0 a1 => Sys2Proof.Machine.execSra16 a0 a1 s
  | .mov16 a0 a1 => Sys2Proof.Machine.execMov16 a0 a1 s
  | .min16 a0 a1 => Sys2Proof.Machine.execMin16 a0 a1 s
  | .max16 a0 a1 => Sys2Proof.Machine.execMax16 a0 a1 s
  | .fadd16 a0 a1 => Sys2Proof.Machine.execFadd16 a0 a1 s
  | .fmul16 a0 a1 => Sys2Proof.Machine.execFmul16 a0 a1 s
  | .fmad16 a0 a1 => Sys2Proof.Machine.execFmad16 a0 a1 s
  | .fmax16 a0 a1 => Sys2Proof.Machine.execFmax16 a0 a1 s
  | .fd a0 a1 a2 => Sys2Proof.Machine.execFd a0 a1 a2 s
  | .fs a0 a1 a2 a3 a4 => Sys2Proof.Machine.execFs a0 a1 a2 a3 a4 s
  | .mac a0 a1 a2 a3 a4 a5 => Sys2Proof.Machine.execMac a0 a1 a2 a3 a4 a5 s
  | .yzero a0 a1 a2 => Sys2Proof.Machine.execYzero a0 a1 a2 s
  | .push a0 a1 a2 => Sys2Proof.Machine.execPush a0 a1 a2 s
  | .next a0 a1 => Sys2Proof.Machine.execNext a0 a1 s
  | .pushn a0 a1 a2 => Sys2Proof.Machine.execPushn a0 a1 a2 s
  | .tailRegisterWrite a0 a1 => Sys2Proof.Machine.execTailRegisterWrite a0 a1 s
  | .registerWrite a0 a1 a2 => Sys2Proof.Machine.execRegisterWrite a0 a1 a2 s
  | .putDelivery a0 a1 a2 a3 a4 a5 a6 a7 => Sys2Proof.Machine.execPutDelivery a0 a1 a2 a3 a4 a5 a6 a7 s
  | .remoteRequest a0 a1 a2 => Sys2Proof.Machine.execRemoteRequest a0 a1 a2 s
  | .placementReply a0 a1 a2 a3 a4 a5 => Sys2Proof.Machine.execPlacementReply a0 a1 a2 a3 a4 a5 s
  | .prepare a0 a1 a2 a3 a4 a5 => Sys2Proof.Machine.execPrepare a0 a1 a2 a3 a4 a5 s
  | .ready a0 a1 a2 => Sys2Proof.Machine.execReady a0 a1 a2 s
  | .refuse a0 a1 => Sys2Proof.Machine.execRefuse a0 a1 s
  | .commit a0 a1 a2 a3 => Sys2Proof.Machine.execCommit a0 a1 a2 a3 s
  | .abort a0 a1 a2 => Sys2Proof.Machine.execAbort a0 a1 a2 s
  | .partDoneReport a0 a1 a2 => Sys2Proof.Machine.execPartDoneReport a0 a1 a2 s
  | .pageFillComplete a0 => Sys2Proof.Machine.execPageFillComplete a0 s
  | .commandComplete a0 a1 => Sys2Proof.Machine.execCommandComplete a0 a1 s
  | .spawnBinAgeing a0 a1 => Sys2Proof.Machine.execSpawnBinAgeing a0 a1 s
  | .protocolValidationDone a0 => Sys2Proof.Machine.execProtocolValidationDone a0 s
  | .fillLineLands a0 => Sys2Proof.Machine.execFillLineLands a0 s
  | .cxlMemRequest a0 a1 a2 a3 a4 => Sys2Proof.Machine.execCxlMemRequest a0 a1 a2 a3 a4 s
  | .gets a0 a1 a2 => Sys2Proof.Machine.execGets a0 a1 a2 s
  | .getx a0 a1 a2 a3 a4 a5 a6 => Sys2Proof.Machine.execGetx a0 a1 a2 a3 a4 a5 a6 s
  | .upg a0 a1 a2 a3 a4 a5 a6 => Sys2Proof.Machine.execUpg a0 a1 a2 a3 a4 a5 a6 s
  | .putx a0 a1 => Sys2Proof.Machine.execPutx a0 a1 s
  | .invack a0 a1 => Sys2Proof.Machine.execInvack a0 a1 s
  | .uncorrectableError a0 a1 a2 => Sys2Proof.Machine.execUncorrectableError a0 a1 a2 s
  | .sensorRefresh a0 a1 a2 => Sys2Proof.Machine.execSensorRefresh a0 a1 a2 s
  | .portDown a0 => Sys2Proof.Machine.execPortDown a0 s
  | .waitforReevaluate a0 a1 => Sys2Proof.Machine.execWaitforReevaluate a0 a1 s
  | .detourForward a0 a1 a2 => Sys2Proof.Machine.execDetourForward a0 a1 a2 s
  | .mgovstatClear a0 a1 => Sys2Proof.Machine.execMgovstatClear a0 a1 s
  | .bundleDraw a0 a1 => Sys2Proof.Machine.execBundleDraw a0 a1 s
  | .binAgeingLimit a0 a1 => Sys2Proof.Machine.execBinAgeingLimit a0 a1 s
  | .laneChoiceLimit a0 a1 a2 => Sys2Proof.Machine.execLaneChoiceLimit a0 a1 a2 s
  | .schedulerWaitSatisfied a0 a1 a2 => Sys2Proof.Machine.execSchedulerWaitSatisfied a0 a1 a2 s
  | .crewSave a0 a1 => Sys2Proof.Machine.execCrewSave a0 a1 s
  | .forcedSave a0 a1 => Sys2Proof.Machine.execForcedSave a0 a1 s
  | .programTimeTick => Sys2Proof.Machine.execProgramTimeTick s
  | .puts a0 a1 => Sys2Proof.Machine.execPuts a0 a1 s
  | .putc a0 a1 => Sys2Proof.Machine.execPutc a0 a1 s
  | .atomic a0 a1 a2 a3 a4 a5 a6 => Sys2Proof.Machine.execAtomic a0 a1 a2 a3 a4 a5 a6 s
  | .write a0 a1 a2 a3 => Sys2Proof.Machine.execWrite a0 a1 a2 a3 s
  | .renew a0 a1 a2 => Sys2Proof.Machine.execRenew a0 a1 a2 s
  | .recall a0 => Sys2Proof.Machine.execRecall a0 s
  | .fwddata a0 a1 => Sys2Proof.Machine.execFwddata a0 a1 s
  | .fwdnack a0 a1 => Sys2Proof.Machine.execFwdnack a0 a1 s
  | .memdata a0 => Sys2Proof.Machine.execMemdata a0 s
  | .memack a0 => Sys2Proof.Machine.execMemack a0 s
  | .ackzero a0 => Sys2Proof.Machine.execAckzero a0 s
  | .updack a0 a1 => Sys2Proof.Machine.execUpdack a0 a1 s
  | .poisoned a0 => Sys2Proof.Machine.execPoisoned a0 s
  | .agentlost a0 a1 => Sys2Proof.Machine.execAgentlost a0 a1 s
  | .timeout a0 => Sys2Proof.Machine.execTimeout a0 s
  | .messageResend a0 => Sys2Proof.Machine.execMessageResend a0 s
  | .deferredRequest a0 => Sys2Proof.Machine.execDeferredRequest a0 s
  | .inv a0 a1 => Sys2Proof.Machine.execInv a0 a1 s
  | .fwds a0 a1 => Sys2Proof.Machine.execFwds a0 a1 s
  | .fwdx a0 a1 => Sys2Proof.Machine.execFwdx a0 a1 s
  | .upd a0 a1 => Sys2Proof.Machine.execUpd a0 a1 s
  | .publishRequest a0 => Sys2Proof.Machine.execPublishRequest a0 s
  | .chuteAcquire a0 a1 => Sys2Proof.Machine.execChuteAcquire a0 a1 s
  | .copyFiring a0 a1 => Sys2Proof.Machine.execCopyFiring a0 a1 s
  | .retileRun a0 a1 => Sys2Proof.Machine.execRetileRun a0 a1 s
  | .gathFiring a0 a1 => Sys2Proof.Machine.execGathFiring a0 a1 s
  | .chainFiring a0 a1 => Sys2Proof.Machine.execChainFiring a0 a1 s
  | .collFiring a0 a1 => Sys2Proof.Machine.execCollFiring a0 a1 s
  | .wfinalWriter a0 => Sys2Proof.Machine.execWfinalWriter a0 s
  | .slotFillDone a0 a1 a2 => Sys2Proof.Machine.execSlotFillDone a0 a1 a2 s
  | .matrixQueueStart a0 => Sys2Proof.Machine.execMatrixQueueStart a0 s
  | .mgovWindow a0 => Sys2Proof.Machine.execMgovWindow a0 s
  | .tileSequencerSave a0 => Sys2Proof.Machine.execTileSequencerSave a0 s
  | .benchCommandStart a0 => Sys2Proof.Machine.execBenchCommandStart a0 s
  | .benchCommandComplete a0 => Sys2Proof.Machine.execBenchCommandComplete a0 s
  | .benchRound a0 => Sys2Proof.Machine.execBenchRound a0 s
  | .columnCommand a0 => Sys2Proof.Machine.execColumnCommand a0 s
  | .benchRefresh a0 => Sys2Proof.Machine.execBenchRefresh a0 s
  | .drainPathCycle a0 => Sys2Proof.Machine.execDrainPathCycle a0 s
  | .drainEntryArrival a0 => Sys2Proof.Machine.execDrainEntryArrival a0 s
  | .benchGovernorWindow a0 => Sys2Proof.Machine.execBenchGovernorWindow a0 s
  | .slabToBank a0 => Sys2Proof.Machine.execSlabToBank a0 s
  | .slabToCore a0 => Sys2Proof.Machine.execSlabToCore a0 s
  | .benchParityError a0 => Sys2Proof.Machine.execBenchParityError a0 s
  | .packetResend a0 a1 => Sys2Proof.Machine.execPacketResend a0 a1 s
  | .portUp a0 => Sys2Proof.Machine.execPortUp a0 s
  | .hostSnoop a0 => Sys2Proof.Machine.execHostSnoop a0 s
  | .hostAgentLost a0 => Sys2Proof.Machine.execHostAgentLost a0 s
  | .reconcilePass => Sys2Proof.Machine.execReconcilePass s
  | .launch a0 a1 => Sys2Proof.Machine.execLaunch a0 a1 s
  | .ganglaunch a0 a1 => Sys2Proof.Machine.execGanglaunch a0 a1 s
  | .signal a0 a1 => Sys2Proof.Machine.execSignal a0 a1 s
  | .waitfor a0 a1 => Sys2Proof.Machine.execWaitfor a0 a1 s
  | .hints a0 a1 => Sys2Proof.Machine.execHints a0 a1 s
  | .preemptYield a0 a1 => Sys2Proof.Machine.execPreemptYield a0 a1 s
  | .preemptHold a0 a1 => Sys2Proof.Machine.execPreemptHold a0 a1 s
  | .preemptRelease a0 a1 => Sys2Proof.Machine.execPreemptRelease a0 a1 s
  | .context a0 a1 => Sys2Proof.Machine.execContext a0 a1 s
  | .ctxfree a0 a1 => Sys2Proof.Machine.execCtxfree a0 a1 s
  | .qcreate a0 a1 => Sys2Proof.Machine.execQcreate a0 a1 s
  | .qfree a0 a1 => Sys2Proof.Machine.execQfree a0 a1 s
  | .slicecfg a0 a1 => Sys2Proof.Machine.execSlicecfg a0 a1 s
  | .range a0 a1 => Sys2Proof.Machine.execRange a0 a1 s
  | .protload a0 a1 => Sys2Proof.Machine.execProtload a0 a1 s
  | .protfree a0 a1 => Sys2Proof.Machine.execProtfree a0 a1 s
  | .govcfg a0 a1 => Sys2Proof.Machine.execGovcfg a0 a1 s
  | .capmint a0 a1 => Sys2Proof.Machine.execCapmint a0 a1 s
  | .placementPass => Sys2Proof.Machine.execPlacementPass s
  | .placementPassTimer => Sys2Proof.Machine.execPlacementPassTimer s
  | .headAgeBar => Sys2Proof.Machine.execHeadAgeBar s
  | .firmwareMessageResend a0 a1 => Sys2Proof.Machine.execFirmwareMessageResend a0 a1 s
  | .ganglaunchPhaseOneTimeout a0 a1 => Sys2Proof.Machine.execGanglaunchPhaseOneTimeout a0 a1 s
  | .partReservationExpiry a0 a1 a2 => Sys2Proof.Machine.execPartReservationExpiry a0 a1 a2 s
  | .partUnreachableTimeout a0 a1 a2 => Sys2Proof.Machine.execPartUnreachableTimeout a0 a1 a2 s
  | .launchWatchdog a0 a1 => Sys2Proof.Machine.execLaunchWatchdog a0 a1 s
  | .firmwareCrewRestart a0 a1 => Sys2Proof.Machine.execFirmwareCrewRestart a0 a1 s
  | .crewDivergenceDeadlock a0 a1 => Sys2Proof.Machine.execCrewDivergenceDeadlock a0 a1 s
  | .correctionSummary a0 a1 a2 a3 a4 => Sys2Proof.Machine.execCorrectionSummary a0 a1 a2 a3 a4 s
  | .patrolScrub a0 a1 => Sys2Proof.Machine.execPatrolScrub a0 a1 s
  | .bootctlGo => Sys2Proof.Machine.execBootctlGo s
  | .bringupPhaseComplete => Sys2Proof.Machine.execBringupPhaseComplete s
  | .attgo a0 => Sys2Proof.Machine.execAttgo a0 s
  | .attestationReport => Sys2Proof.Machine.execAttestationReport s
  | .mstatusAttdoneClear a0 => Sys2Proof.Machine.execMstatusAttdoneClear a0 s
  | .powerGoodReset => Sys2Proof.Machine.execPowerGoodReset s
  | .pcieConventionalReset => Sys2Proof.Machine.execPcieConventionalReset s
  | .packageReset => Sys2Proof.Machine.execPackageReset s
  | .thermalEmergencyCap a0 => Sys2Proof.Machine.execThermalEmergencyCap a0 s
  | .thermalShutdown a0 => Sys2Proof.Machine.execThermalShutdown a0 s
  | .requesterReply a0 a1 => Sys2Proof.Machine.execRequesterReply a0 a1 s
  | .illegalInstruction a0 => Sys2Proof.Machine.execIllegalInstruction a0 s
  | .fetchFault => Sys2Proof.Machine.execFetchFault s
  | .summarisingRecord a0 a1 => Sys2Proof.Machine.execSummarisingRecord a0 a1 s

end Sys2Proof.Machine
end

