-- ==== Sys2Proof/Machine/Schedule.lean ====
section
/-! DEFINITION. What a step of the package does next. An arith cycle is a row of steps, and State.turn says which comes: events that are due
(turn 0), what every cycle does (1), the streams (2 on), the stacks' command paths (82 on), the lanes that wait at chutes (94; R281), then each
core's draws and its two pipes (95 on; R29). The rules that a cycle's work follows are cited where it is done. -/

namespace Sys2Proof.Machine

/-! ## The row of an arith cycle -/

/-- What a turn is for. -/
inductive Slot where
  | events
  | cycle
  | stream (cluster : Nat)
  | stack (n : Nat)
  | takers
  | draw (core : Nat)
  | pipe (core : Nat) (n : Nat)
deriving DecidableEq, Repr

/-- The turn of a core's draw; its pipes follow, 0 then 1, or in the order 1 then 0. -/
def coreTurn (core : Nat) : Nat := 95 + 5 * core

/-- What a turn is for. -/
def turnSlot (t : Nat) : Slot :=
  if t = 0 then .events
  else if t = 1 then .cycle
  else if t < 82 then .stream (t - 2)
  else if t < 94 then .stack (t - 82)
  else if t = 94 then .takers
  else
    let c := (t - 95) / 5
    match (t - 95) % 5 with
    | 0 => .draw c
    | 1 | 4 => .pipe c 0
    | _ => .pipe c 1

/-- Whether a column cycle, 5 to 8 arith cycles (R5), falls in this arith cycle. -/
def State.columnDue (s : State) : Bool := decide (s.column < (5 * (s.clock + 1) + 7) / 8)

/-- The chutes at whose thread ends lanes wait: cluster and chute (R281). -/
def State.takenChutes (s : State) : List (Nat × Nat) :=
  (s.threads.filterMap fun e =>
    match e.2.st with
    | .waiting w => if w.kind = .chtake then some ((s.gang (w.key / 32)).cluster, w.key % 32) else none
    | _ => none).eraseDups

/-- The turns at which units have something to do in a cycle. -/
def State.turns (s : State) : List Nat :=
  1 :: (mkeys s.clusters fun _ k => k.gang.isSome).map (2 + ·)
    ++ (if s.columnDue then (mkeys s.hbmStacks fun _ k => k.launch.isSome).map (82 + ·) else [])
    ++ (if s.takenChutes.isEmpty then [] else [94])
    ++ (mkeys s.crews fun ck c => !c.saved && slotOf ck != 63 && (s.launch (s.group c.group).launch).started).map fun ck => coreTurn (coreOf ck)

/-- The least of some numbers that is not below a bound. -/
def leastFrom (lo : Nat) : List Nat → Option Nat
  | [] => none
  | n :: r =>
    match leastFrom lo r with
    | some m => some (if lo ≤ n ∧ n < m then n else m)
    | none => if lo ≤ n then some n else none

/-- The arith cycle ends: requests of other packages go on, puts that have arrived are delivered (R272, R273), and the chutes serve the releases of
the cycle (R281). -/
def State.endCycle (s : State) : State :=
  let due := s.columnDue
  let s := s.serveAll.deliverPuts
  State.serveReleases { s with
    clock := s.clock + 1, turn := 0, column := if due then s.column + 1 else s.column, touched := [], handled := []
    threads := mmap s.threads fun _ t => if t.holdNow = 0 then t else { t with holdNow := 0 }
    pageFills := s.pageFills.filter fun f => f.failed.isNone || f.at_ == s.clock }

/-- Go to the first turn from `t` on at which there is something to do. -/
def State.moveTo (s : State) (t : Nat) : State :=
  match leastFrom t s.turns with
  | some n => { s with turn := n }
  | none => s.endCycle

/-- Leave a turn. ENROL's bits are set before the other pipe's changes of the cycle, so that a core's pipe 1 goes first where it alone issues
one (R208). -/
def State.leave (s : State) (t : Nat) : State :=
  match turnSlot t with
  | .events => { s with turn := 1 }
  | .draw c => { s with turn := if s.enrolling c 1 && !s.enrolling c 0 then t + 3 else t + 1 }
  | .pipe c _ => if t = coreTurn c + 1 ∨ t = coreTurn c + 3 then { s with turn := t + 1 } else s.moveTo (coreTurn (c + 1))
  | _ => s.moveTo (t + 1)

/-- Go on where the turn's unit has nothing to do. -/
def State.moveOn (s : State) : State := s.leave s.turn

/-! ## Events -/

/-- The event that comes next at turn 0: one from outside, one of the package's own that is due, a lane that tries its instruction again, or
a lane whose wait is met. -/
inductive Act where
  | idle
  | input (i : Instr)
  | due (i : Instr)
  | retry (crew lane : Nat)
  | met (crew lane : Nat)
deriving DecidableEq, Repr

/-- The lane that goes on next: the longest waiting at a word that has become what it waits for (R254), a lane that tries again, then the longest
waiting of the others (R44). -/
def State.nextLane (s : State) : Act :=
  let met := fun (word : Bool) => s.waiters.find? fun x => x.2.2.kind.onWord == word && s.waitMet x.1 x.2.1 x.2.2
  match met true, s.retrier, met false with
  | some (ck, l, _), _, _ => .met ck l
  | none, some (ck, l), _ => .retry ck l
  | none, none, some (ck, l, _) => .met ck l
  | none, none, none => .idle

/-- The event that comes next. -/
def State.nextAct (s : State) : Act :=
  match s.inputs, s.agenda.find? fun e => decide (e.1 ≤ s.clock) with
  | i :: _, _ => .input i
  | [], some e => .due e.2
  | [], none => s.nextLane

/-- What turn 0 does. -/
def State.actTodo (s : State) : Todo :=
  match s.nextAct with
  | .idle => .nothing
  | .input i => .run i { s with inputs := s.inputs.drop 1 }
  | .due i => .run i { s with agenda := s.agenda.eraseP fun e => decide (e.1 ≤ s.clock) }
  | .retry ck l => s.retryTodo ck l
  | .met ck l => .did (execSchedulerWaitSatisfied (BitVec.ofNat 9 (coreOf ck)) (BitVec.ofNat 6 (slotOf ck)) (BitVec.ofNat 5 l) s)

/-! ## What every cycle does -/

/-- A change of the state that cannot stop. -/
def change (f : State → State) (s : State) : Res := .next (f s)

/-- Program time every 256 cycles (R109); the windows of the governors (R307) and the test for deadlock (R409) every 64. -/
def State.timers (s : State) : Res :=
  inTurn [
    if s.clock % 256 = 0 then execProgramTimeTick else change id,
    if s.clock % 64 = 0 then
      inTurn [execMgovWindow 0, execMgovWindow 1,
        forAll (mkeys s.crews fun ck _ => slotOf ck != 63) fun ck => execCrewDivergenceDeadlock (BitVec.ofNat 9 (coreOf ck)) (BitVec.ofNat 6 (slotOf ck))]
    else change id] s

/-- The stacks. -/
def stackIds : List (BitVec 4) := (List.range 12).map (BitVec.ofNat 4)

/-- Entries on their way to a die's crusher arrive (R334). -/
def State.arrivals (s : State) (die : Nat) : Res :=
  forAll (mget [] s.drains die) (fun _ => execDrainEntryArrival (BitVec.ofNat 1 die)) s

/-- A column cycle of the benches, but for the words (R322 to R334, R380). -/
def State.columnCycle (s : State) : Res :=
  if !s.columnDue then .next s
  else
    let live := (mkeys s.benchLaunches fun _ b => b.live).map (BitVec.ofNat 5)
    inTurn [
      if s.column % 64 = 0 then forAll stackIds execBenchGovernorWindow else change id,
      if s.column % 1950 = 0 then forAll stackIds execBenchRefresh else change id,
      fun s => s.arrivals 0,
      fun s => s.arrivals 1,
      if s.benches.isEmpty then change id else forAll stackIds execDrainPathCycle,
      change fun s => { s with
        benchLaunches := mmap s.benchLaunches fun _ b => if 0 < b.left && !b.stalled then { b with left := b.left - 1 } else b },
      forAll live execBenchCommandComplete,
      forAll live execBenchCommandStart,
      fun s => forAll (mkeys s.hbmStacks fun _ k => k.run.isSome) (fun n => execBenchRound (BitVec.ofNat 4 n)) s,
      fun s => forAll (mkeys s.slabs fun _ c => c == 1) (fun n => execSlabToBank (BitVec.ofNat 22 n)) s,
      fun s => forAll (mkeys s.slabs fun _ c => c == 3) (fun n => execSlabToCore (BitVec.ofNat 22 n)) s] s

/-- One armed operation's event (R285). -/
def engineEvent (x : Nat × Nat × EngineKind) : State → Res :=
  let (cl, place) := (BitVec.ofNat 7 x.1, BitVec.ofNat 6 x.2.1)
  match x.2.2 with
  | .copy => execCopyFiring cl place
  | .retile => execRetileRun cl place
  | .gath => execGathFiring cl place
  | .chain => execChainFiring cl place
  | .coll => execCollFiring cl place

/-- The armed operations of the package, in the order they were armed. -/
def State.armedList (s : State) : List (Nat × Nat × EngineKind) :=
  (sortBy (fun x y => decide (x.1 ≤ y.1)) (s.clusters.flatMap fun e => e.2.armed.map fun a => (a.2.order, e.1, a.1, a.2.kind))).map (·.2)

/-- A cycle of a cluster's matrix unit, its fills and its sequencer's save (R295, R299, R302). -/
def matrixCycle (cl : Nat) (s : State) : Res :=
  let s := s.matrixTick cl
  let k := s.cluster cl
  inTurn [
    forAll (sortBy (fun (x y : Fill) => decide (x.order ≤ y.order)) k.fills) fun f =>
      execSlotFillDone (BitVec.ofNat 7 cl) (BitVec.ofNat 4 f.handle) (BitVec.ofNat 11 f.slot),
    execMatrixQueueStart (BitVec.ofNat 7 cl),
    if s.streamPreempted cl then execTileSequencerSave (BitVec.ofNat 7 cl) else change id] s

/-- The crews and instructions whose lanes' accesses egress has still to send (R364). -/
def State.unsentCrews (s : State) : List (Nat × DWord) :=
  (s.threads.filterMap fun e =>
    match e.2.st with
    | .waiting w => if w.kind = .egress then some (e.1 / 32, e.2.pc) else none
    | _ => none).eraseDups

/-- A cycle of the engines, the matrix units, the windows' writers and egress (R260, R285, R302, R364, R441). -/
def State.engineCycle (s : State) : Res :=
  inTurn [
    forAll s.armedList engineEvent,
    fun s => forAll (mkeys s.clusters fun _ k => k.gang.isSome) matrixCycle s,
    fun s => forAll (s.writers.map (·.1)) (fun n => execWfinalWriter (BitVec.ofNat 8 n)) s,
    change fun s => s.unsentCrews.foldl (fun (s : State) (x : Nat × DWord) => s.sendLanes x.1 x.2 32) s,
    fun s => forAll (mkeys s.sent fun _ x => decide (x.lastSent + 2 ^ 18 ≤ s.clock))
      (fun n => execPacketResend (BitVec.ofNat 1 (n / 4096)) (BitVec.ofNat 12 (n % 4096))) s] s

/-- A cycle of pre-emption (R40 to R45). -/
def State.saveCycle (s : State) : Res :=
  let at_ := fun (f : BitVec 9 → BitVec 6 → State → Res) (ck : Nat) => f (BitVec.ofNat 9 (coreOf ck)) (BitVec.ofNat 6 (slotOf ck))
  inTurn [
    fun s => forAll (mkeys s.crews fun ck _ => slotOf ck != 63 && s.mustForce ck) (at_ execForcedSave) s,
    fun s => forAll (mkeys s.crews fun ck _ => slotOf ck != 63 && s.crewStopped ck) (at_ execCrewSave) s,
    change fun s => (mkeys s.groups fun gk (g : Group) => g.present && g.preempt != .none && s.allSaved [gk]).foldl
      (fun (s : State) (gk : Nat) => if (mfind s.groups gk).isSome then s.trySave gk else s) s,
    change State.wakeSaved] s

/-- What firmware does with a queue's entry of an opcode (R342). -/
def entryEvent (op mode : Nat) (q : BitVec 10) (i : BitVec 32) (s : State) : Res :=
  match op with
  | 0x01 => execLaunch q i s
  | 0x02 => execGanglaunch q i s
  | 0x03 => execSignal q i s
  | 0x04 => if ((s.queue q.toNat).open_.find? fun c => c.index == i.toNat).any (·.started) then execWaitforReevaluate q i s else execWaitfor q i s
  | 0x05 => execHints q i s
  | 0x06 => if mode = 1 then execPreemptHold q i s else if mode = 2 then execPreemptRelease q i s else execPreemptYield q i s
  | 0x10 => execContext q i s
  | 0x11 => execCtxfree q i s
  | 0x12 => execQcreate q i s
  | 0x13 => execQfree q i s
  | 0x14 => execSlicecfg q i s
  | 0x15 => execRange q i s
  | 0x16 => execProtload q i s
  | 0x17 => execProtfree q i s
  | 0x18 => execGovcfg q i s
  | 0x19 => execCapmint q i s
  | _ => .next (s.refuseHead q.toNat)

/-- Firmware's work on one queue (R346): the commands that have not completed, in order, then the entry at HEAD. -/
def queueCycle (qn : Nat) (s : State) : Res :=
  let q := BitVec.ofNat 10 qn
  let index := fun (i : Nat) => BitVec.ofNat 32 i
  andThen
    (forAll ((s.queue qn).open_.map (·.index)) (fun i s =>
      match s.opcodeOf qn i with
      | some (op, mode) => entryEvent op mode q (index i) s
      | none => .next s) s)
    fun s =>
      match mfind s.queues qn with
      | none => .next s
      | some x =>
        match s.opcodeOf qn x.head with
        | some (op, mode) => entryEvent op mode q (index x.head) s
        | none => .next (s.refuseHead qn)

/-- Queue and entry of a launch's key, or of a GANGLAUNCH's number. -/
def keyQueue (k : Nat) : BitVec 10 × BitVec 32 := (BitVec.ofNat 10 (k / 2 ^ 32), BitVec.ofNat 32 (k % 2 ^ 32))

/-- GANGLAUNCHes and their parts in a cycle (R353, R447). -/
def State.gangCycle (s : State) : Res :=
  let ids := s.gangLaunches.map (·.1)
  inTurn [
    forAll ids fun k => execGanglaunchPhaseOneTimeout (keyQueue k).1 (keyQueue k).2,
    change fun s => ids.foldl State.noteLost s,
    fun s => forAll (s.gangLaunches.flatMap fun e => e.2.lost.map fun x => (e.1, x.1))
      (fun x => execPartUnreachableTimeout (keyQueue x.1).1 (keyQueue x.1).2 (BitVec.ofNat 6 x.2)) s,
    forAll s.reservations fun r => execPartReservationExpiry (BitVec.ofNat 10 r.coord) (BitVec.ofNat 42 r.id) (BitVec.ofNat 6 r.part)] s

/-- What firmware does every millisecond, 800,000 arith cycles (R340, R418, R447). -/
def State.millisecond (s : State) : Res :=
  if s.clock % 800000 ≠ 0 then .next s
  else
    inTurn [
      execReconcilePass,
      fun s => forAll (mkeys s.queues fun _ q => q.malformed != 0) (fun n => execSummarisingRecord 14 (BitVec.ofNat 32 n)) s,
      fun s => forAll (s.skippedOrs.map (·.1)) (fun n => execSummarisingRecord 16 (BitVec.ofNat 32 n)) s,
      fun s => forAll (s.gangLaunches.flatMap fun e => (List.range e.2.parts.length).map fun p => (e.1, p))
        (fun x => execFirmwareMessageResend (BitVec.ofNat 42 x.1) (BitVec.ofNat 6 x.2)) s,
      fun s => forAll ((s.reservations.filter fun r => (s.gangLaunch r.id).isNone).map fun r => (r.id, r.part))
        (fun x => execFirmwareMessageResend (BitVec.ofNat 42 x.1) (BitVec.ofNat 6 x.2)) s] s

/-- A cycle of the firmware agents, once PHASE is 4 (R346 to R353, R447, R450). -/
def State.firmwareCycle (s : State) : Res :=
  if s.phase ≠ 4 then .next s
  else
    inTurn [
      forAll (s.queues.map (·.1)) queueCycle,
      if s.clock % 16384 = 0 then execPlacementPassTimer else change id,
      change fun s => { s with pending := s.pending.map fun u => if s.headUnit = some u.id then { u with age := u.age + 1 } else u },
      execHeadAgeBar,
      State.gangCycle,
      fun s => if s.lwatch = 0 then .next s
        else forAll (mkeys s.launches (fun _ l => !l.done) ++ s.gangLaunches.map (·.1))
          (fun k => execLaunchWatchdog (keyQueue k).1 (keyQueue k).2) s,
      State.millisecond] s

/-- A cycle of the platform: bring-up (R374), attestation (R377), sensors every millisecond (R378), temperature (R449). -/
def State.platformCycle (s : State) : Res :=
  inTurn [
    if 1 ≤ s.phase ∧ s.phase ≤ 3 then execBringupPhaseComplete else change id,
    if s.attBusy = 0 then change id else execAttestationReport,
    change fun s => if s.clock % 800000 = 0 ∧ s.clock ≠ 0 then (s.measureDie 0).measureDie 1 else s,
    forAll s.hot fun e => execThermalEmergencyCap (BitVec.ofNat 1 e.1),
    forAll s.therm fun e => execThermalShutdown (BitVec.ofNat 1 e.1)] s

/-- What every arith cycle does once. Page fills that were under way before this cycle end after the units have looked for them (R433,
R434). -/
def State.cycle (s : State) : Res :=
  inTurn [
    State.timers,
    State.columnCycle,
    State.engineCycle,
    coherenceCycle,
    State.saveCycle,
    State.firmwareCycle,
    State.platformCycle,
    change State.poisonedStaging,
    fun s => forAll (s.pageFills.filter fun f => f.failed.isNone && decide (f.at_ < s.clock))
      (fun f => execPageFillComplete (BitVec.ofNat 52 f.pte)) s] s

/-! ## Draws and issue -/

/-- A core's draws of a cycle (R28, R29): what waited long is drawable, then pipe 0 draws, then pipe 1. -/
def drawCycle (core : Nat) (s : State) : Res :=
  let c := BitVec.ofNat 9 core
  let s := s.refile core
  inTurn [
    forAll (s.ageing core) fun n => execBinAgeingLimit c (BitVec.ofNat 32 n),
    execBundleDraw c 0,
    execBundleDraw c 1] s

/-- After a pipe's issue: lanes left behind 64 times are chosen next (R23). -/
def State.afterIssue (s : State) (core pipe : Nat) : State :=
  let late := s.leftBehind core pipe
  late.foldl (fun (s : State) (x : Nat × Nat) =>
    match execLaneChoiceLimit (BitVec.ofNat 9 core) (BitVec.ofNat 6 (slotOf x.1)) (BitVec.ofNat 3 x.2) s with
    | .next t => t
    | _ => s) (s.issued core pipe)

/-! ## The step's parts -/

/-- A die that is too hot has stopped the clocks: only a power-good reset is heard (R449). -/
def State.stopped (s : State) : Bool := many s.dead fun _ d => d

/-- What a package with stopped clocks does: nothing until a power-good reset comes. -/
def State.stoppedTodo (s : State) : Todo :=
  match s.inputs.dropWhile fun i => i != .powerGoodReset with
  | _ :: r => .run .powerGoodReset { s with inputs := r }
  | [] => .did (.fault .clocksStopped)

/-- What the package does next. -/
def State.todo (s : State) : Todo :=
  if s.stopped then s.stoppedTodo
  else
    match turnSlot s.turn with
    | .events => s.actTodo
    | .cycle => .did s.cycle
    | .stream cl => s.streamTodo cl
    | .stack n => if s.columnDue then s.columnTodo n else .nothing
    | .takers => .did (forAll s.takenChutes (fun x => execChuteAcquire (BitVec.ofNat 7 x.1) (BitVec.ofNat 5 x.2)) s)
    | .draw c => .did (drawCycle c s)
    | .pipe c n => s.pipeTodo c n

/-- What follows when a step has gone from one state to another: the unit's own bookkeeping, and the next turn. -/
def State.after (old new : State) : State :=
  let s := { new with unit := .none }
  if old.stopped then s
  else
    match turnSlot old.turn with
    | .events =>
      match old.nextAct with
      | .retry ck l => s.retried ck l (old.thread ck l).pc
      | _ => s
    | .stack n => (if old.stepsNow n then s.wordDone n (old.fetchBank n (old.stack n).next) else s).leave old.turn
    | .pipe c n => (new.afterIssue c n).leave old.turn
    | _ => s.leave old.turn

end Sys2Proof.Machine
end

