-- ==== Sys2Proof/Machine/Placed.lean ====
section
/-! DEFINITION. A package in which one instruction is the next to run: what State.withFetchWord (Machine/Step.lean) stands for. Programs come
into the package through queues and LAUNCH commands (R337 to R350); these states stand for that load (notes/assumptions/27.md). -/

namespace Sys2Proof.Machine

/-- Where the instruction stands. -/
def placedPc : Nat := 0x10000

/-- Bytes of a word and of its page tables (R78, R80): one 1 GiB page of HBM at virtual address 0, its tables at 1 MiB. -/
def placedMem (m : Memory) (n w : Nat) : Memory :=
  let m := memPuts m placedPc (leBytes w n)
  let m := memPuts m 0x100000 (leBytes 0x101001 8)
  let m := memPuts m 0x101000 (leBytes 0x102001 8)
  memPuts m 0x102000 (leBytes 0xFF 8)

/-- The package with a context, a launch and one gang of one group on core 0, whose instruction stands in memory. -/
def State.placed (s : State) (n w : Nat) (tile : Bool) : State :=
  let lk := launchKey 1 0
  { s with
    unit := .none
    mem := placedMem s.mem n w
    contexts := [(1, { l0 := 0x100000, mexc := 0, priomax := 7 })]
    launches := [(lk, { queue := 1, index := 0, ctx := 1, body := [] })]
    gangs := [(0, { launch := lk, index := 0, cluster := 0, groups := [0], tile := tile })]
    groups := [(0, {
      name := groupName s.pkgId 0 0, core := 0, gslot := 0, launch := lk, index := 0, nregs := 32, asize := 64, threads := 1, crews := 1
      gang := some 0 })]
    nextName := 1 }

/-- A lane's instruction: pipe 0 of core 0 is to issue it to lane 0 of a crew. -/
def State.withLaneWord (s : State) (n w : Nat) : State :=
  let pc := BitVec.ofNat 64 placedPc
  let wide := crewWideWord n w
  { s.placed n w false with
    crews := [(0, { group := 0, index := 0 })]
    threads := (0, { pc := pc, st := if wide then .standing else .run }) :: ((List.range 32).drop 1).map fun l => (l, { st := .helper })
    cores := [(0, { pipes := [(0, {
      group := 0, pc := pc, crewWide := wide, quads := if wide then (List.range 8).map fun q => (0, q) else [(0, 0)] })] })]
    turn := coreTurn 0 + 1 }

/-- A tile sequencer's instruction: the stream of cluster 0 is to issue it. -/
def State.withStreamWord (s : State) (w : Nat) : State :=
  { s.placed 4 w true with
    clusters := [(0, { gang := some 0, pc := BitVec.ofNat 64 placedPc, stream := .running })]
    turn := 2 }

/-- A bench program word: the command path of stack 0 is to step it. -/
def State.withBenchWord (s : State) (w : Nat) : State :=
  { s with
    unit := .none
    benchLaunches := [(0, { live := true })]
    hbmStacks := [(0, { store := [(0, BitVec.ofNat 32 w)], launch := some 0, run := some [0, 1, 1, 0, 0, 0, 0], opened := true })]
    column := 0
    turn := 82 }

/-- Whether a word is one of the tile sequencer's own instructions (R178): majors 0x78 to 0x7B. -/
def streamWord (w : Nat) : Bool := decide (0x78 ≤ natBits w 1 7 ∧ natBits w 1 7 ≤ 0x7B)

end Sys2Proof.Machine
end

