-- ==== Sys2Proof/Machine/Step.lean ====
section
/-! DEFINITION. One step of the package: the unit whose turn it is executes one instruction or event (State.todo), and the turn passes on
(State.after). -/

namespace Sys2Proof.Machine

/-- One step: what is due next is executed, and the package goes on. -/
def step (s : State) : Host.Outcome State Fault Refusal :=
  match s.todo with
  | .nothing => .next s.moveOn
  | .run i t =>
    match exec i t with
    | .next u => .next (s.after u)
    | .fault f => .fault f
    | .refused r => .refused r
  | .did (.next u) => .next (s.after u)
  | .did (.fault f) => .fault f
  | .did (.refused r) => .refused r

/-- The state with an instruction where the next step fetches one: an instruction of 16 bits or with bit 0 set for lanes or a tile
sequencer, any other word for a bench (R171, R311). -/
def State.withFetchWord (s : State) (nbits w : Nat) : State :=
  if nbits = 16 then s.withLaneWord 2 (w % 65536)
  else if w % 2 = 0 then s.withBenchWord w
  else if streamWord w then s.withStreamWord w
  else s.withLaneWord 4 w

end Sys2Proof.Machine
end

