-- ==== Sys2Proof/Safety.lean ====
section
/-! DEFINITION. What counts as safe, and the terms in which claims about instructions and steps are stated. -/

namespace Sys2Proof.Machine

/-- The package goes on: its step is a next state. -/
def State.goesOn (s : State) : Prop := ∃ t, step s = .next t

/-- What every state between two steps satisfies: memory has its canonical form, and no unit is in the middle of an instruction. -/
def State.Inv (s : State) : Prop := s.mem.wf = true ∧ s.unit = .none

/-! ## An instruction in one lane -/

/-- Instruction `i` is issued by `x` to lane `l` of crew `k` alone, and every operand field names a legal operand. -/
structure Issued (i : Instr) (x : Issue) (k l : Nat) (s : State) : Prop where
  unit : s.unit = .lanes x
  parts : x.parts = [{ crew := k, lanes := bitOf l }]
  lane : l < 32
  crew : (mfind s.crews k).isSome = true
  legal : (shapeOf i).refusal (s.ctxOf x k l).n = none

/-- The lane executes the instruction it is issued: its guard passes, or it is a helper (R189). -/
structure Runs (i : Instr) (x : Issue) (k l : Nat) (s : State) : Prop extends Issued i x k l s where
  guard : executes (shapeOf i) s k l = true

/-- The instruction takes an entry of the core's outstanding-transaction table, and the table has room for it (R122, R248). -/
structure Enters (i : Instr) (x : Issue) (k l : Nat) (s : State) : Prop extends Runs i x k l s where
  room : s.enterTable x x.parts (s.entries x.core).length = (x.parts, [])

/-- A memory instruction's whole issue finds room in the core's table (R122, R248); any other instruction asks for none. -/
def HasEntry (i : Instr) (x : Issue) (s : State) : Prop :=
  (shapeOf i).entry = true → s.enterTable x x.parts (s.entries x.core).length = (x.parts, [])

/-- The core's table after the instruction: a memory instruction's entry stays while a lane of its issue has something outstanding. -/
def State.ended (s : State) (i : Instr) (x : Issue) : State := if (shapeOf i).entry then s.keepEntries x x.parts else s

/-- Each lane of its issue runs the instruction by itself, and nothing follows in the issue as a whole. -/
def LaneWise (i : Instr) : Prop :=
  ∀ x s, s.unit = .lanes x → ∃ body, exec i s = .next (runLanes (shapeOf i) body s x)

/-- The state in which a lane computes: it has moved past the instruction and counted it. -/
def State.begun (s : State) (x : Issue) (k l : Nat) : State :=
  (s.past (s.ctxOf x k l)).modThread k l Thread.countStep

/-- A 32-bit result at its destination and on the queue. -/
def Thread.giveW (t : Thread) (p : Place_) (x : Word) : Thread := (t.store p 0 x).push x

/-- A 64-bit result at its destination and on the queue, bits [31:0] first. -/
def Thread.giveD (t : Thread) (p : Place_) (x : DWord) : Thread := ((t.store p 0 x.lo).store p 1 x.hi).push2 x

/-- A result whose width a variant bit chooses. -/
def Thread.giveV (t : Thread) (v : BitVec 1) (p : Place_) (x : DWord) : Thread := if v = 0 then t.giveW p x.lo else t.giveD p x

/-- The lane has done the instruction: its thread is changed, and it stops where a forced save waits for that. -/
def State.doneLane (s : State) (c : Ctx) (f : Thread → Thread) : State := (s.modThread c.crew c.lane f).afterInstr c

/-- The same with exception flags: they join FPSTAT, and those that FPCTL enables trap after the instruction (R226, R408). -/
def State.doneFloat (s : State) (c : Ctx) (f : Thread → Thread) (g : Flags) : State :=
  let t := s.thread c.crew c.lane
  let s := s.modThread c.crew c.lane fun t => { f t with fpstat := t.fpstat ||| g.setWidth 32 }
  (if g &&& t.trapen = 0 ∨ c.helper then s else s.takeTrap c 0x0F 0 (g &&& t.trapen).toNat c.next 0).afterInstr c

/-- The thread after one rounding: under mode 4 the generator has stepped (R224). -/
def Thread.drawn (t : Thread) : Thread := if t.rm = 4 then { t with seed := stepSeed t.seed } else t

/-- The encoding and the flags of one rounding by a thread: its mode, the generator's draw under mode 4, and FTZ (R224, R225). -/
def Thread.rounded (t : Thread) (f : Fmt) (z : Val × Flags) : Nat × Flags :=
  let r := flush t.ftz f (roundFmt f t.rm (if t.rm = 4 then seedDraw t.drawn.seed else 0) z.1)
  (r.1, z.2 ||| r.2)

/-- Where a word of a register array stands that a result went to. -/
def Place_.covers (p : Place_) (words n : Nat) : Bool :=
  match p with
  | .array w => decide (w ≤ n ∧ n < w + words)
  | _ => false

/-- The named registers that a result went to. -/
def Place_.names (p : Place_) (words n : Nat) : Bool :=
  match p with
  | .named r => decide (r ≤ n ∧ n < r + words)
  | _ => false

/-- Nothing but one lane's thread has changed: every byte of memory, every other thread and every other field of the state is as before. -/
structure OnlyLane (k l : Nat) (s t : State) : Prop where
  rest : { t with threads := s.threads } = s
  others : ∀ j, j ≠ 32 * k + l → mfind t.threads j = mfind s.threads j
  bytes : ∀ a, memGet t.mem a = memGet s.mem a

/-- In a thread, only a result of `words` words at `p`, the queue, the index registers, the program counter, the safe-point counter and
whether the lane runs may differ. -/
structure OnlyResult (p : Place_) (words : Nat) (t u : Thread) : Prop where
  named : ∀ r, p.names words r = false → u.reg r = t.reg r
  array : ∀ n, p.covers words n = false → u.word n = t.word n
  holds : u.hold = t.hold
  caps : u.c = t.c
  fpctl : u.fpctl = t.fpctl
  trap : u.tcause = t.tcause ∧ u.tpc = t.tpc ∧ u.taddr = t.taddr
  times : u.time = t.time ∧ u.puts = t.puts ∧ u.barCount = t.barCount ∧ u.gbarCount = t.gbarCount

/-- Beside one lane nothing has changed, and in it only the result, the queue, the index registers, the program counter, the safe-point
counter, whether it runs, the generator, and FPSTAT, which has the flags `g` joined. -/
structure OnlyFloat (p : Place_) (words k l : Nat) (g : Flags) (s t : State) : Prop where
  lane : OnlyLane k l s t
  result : OnlyResult p words (s.thread k l) (t.thread k l)
  flags : (t.thread k l).fpstat = (s.thread k l).fpstat ||| g.setWidth 32

/-- A crew's predicate bit of one lane, and nothing else of the crew, is written. -/
structure WritesBit (q : BitVec 4) (l : Nat) (b : Bool) (c d : Crew) : Prop where
  bit : (mget 0 d.p q.toNat).getLsbD l = b
  lanes : ∀ m < 32, m ≠ l → (mget 0 d.p q.toNat).getLsbD m = (mget 0 c.p q.toNat).getLsbD m
  others : ∀ r, r ≠ q.toNat → mfind d.p r = mfind c.p r
  rest : { d with p := c.p } = c

/-- Beside one lane and its crew's predicates nothing has changed, and in the lane nothing but its index registers, its program counter,
its safe-point counter and whether it runs. -/
structure OnlyPredicate (q : BitVec 4) (k l : Nat) (b : Bool) (s t : State) : Prop where
  rest : { t with threads := s.threads, crews := s.crews } = s
  crew : WritesBit q l b (s.crew k) (t.crew k)
  crews : ∀ j, j ≠ k → mfind t.crews j = mfind s.crews j
  others : ∀ j, j ≠ 32 * k + l → mfind t.threads j = mfind s.threads j
  bytes : ∀ a, memGet t.mem a = memGet s.mem a
  lane : t.thread k l = { s.thread k l with x := (t.thread k l).x, pc := (t.thread k l).pc, st := (t.thread k l).st, reply := (t.thread k l).reply, got := (t.thread k l).got, safeCount := (t.thread k l).safeCount }

/-- Beside the k registers of a crew and one lane's program counter, safe-point counter and whether it runs, nothing has changed. -/
structure OnlyUniform (k l : Nat) (s t : State) : Prop where
  rest : { t with threads := s.threads, crews := s.crews } = s
  crew : { t.crew k with k := (s.crew k).k } = s.crew k
  crews : ∀ j, j ≠ k → mfind t.crews j = mfind s.crews j
  others : ∀ j, j ≠ 32 * k + l → mfind t.threads j = mfind s.threads j
  bytes : ∀ a, memGet t.mem a = memGet s.mem a
  lane : t.thread k l = { s.thread k l with pc := (t.thread k l).pc, st := (t.thread k l).st, reply := (t.thread k l).reply, got := (t.thread k l).got, safeCount := (t.thread k l).safeCount }

/-- Bytes of a value are stored at an address, the lowest first, and their granules' tags are clear; every other byte of memory, every
crew, and of every thread all but its program time, whether it runs and its counters is as before. -/
structure StoresAt (k l pa n x : Nat) (s t : State) : Prop where
  stored : ∀ j < n, (memGet t.mem (pa + j)).toNat = x / 2 ^ (8 * j) % 256
  tags : ∀ j < n, mget false t.tags ((pa + j) / 16) = false
  bytes : ∀ a, a < pa ∨ pa + n ≤ a → memGet t.mem a = memGet s.mem a
  otherTags : ∀ g, (∀ j < n, g ≠ (pa + j) / 16) → mget false t.tags g = mget false s.tags g
  crews : t.crews = s.crews
  others : ∀ j, j ≠ 32 * k + l → mfind t.threads j = mfind s.threads j
  lane : t.thread k l = { s.thread k l with time := (t.thread k l).time, st := (t.thread k l).st }

/-- FPSTAT and the generator of stochastic rounding are as before. -/
def Thread.sameFlags (t u : Thread) : Prop := u.fpstat = t.fpstat ∧ u.seed = t.seed

/-! ## An instruction over a whole issue -/

/-- Instruction `i` is issued by `x` to the lanes `m` of crew `k`, and every operand field names a legal operand. -/
structure IssuedAll (i : Instr) (x : Issue) (k : Nat) (m : Word) (s : State) : Prop where
  unit : s.unit = .lanes x
  parts : x.parts = [{ crew := k, lanes := m }]
  crew : (mfind s.crews k).isSome = true
  legal : (shapeOf i).refusal (s.ctxOf x k 0).n = none

/-- The lane of the issue takes part: it is no helper, and its guard passes (R213). -/
def Active (i : Instr) (k : Nat) (m : Word) (s : State) (l : Nat) : Bool :=
  m.getLsbD l && !(s.thread k l).gone && (shapeOf i).guard.passes (s.crew k) l

/-- The lanes that take part, the lowest first, with their values of a named register or pair. -/
def activeRegs (i : Instr) (k : Nat) (m : Word) (a words : Nat) (s : State) : List (Nat × DWord) :=
  ((List.range 32).filter (Active i k m s)).map fun l =>
    (l, if words = 1 then ((s.thread k l).reg a).setWidth 64 else (s.thread k l).reg (a + 1) ++ (s.thread k l).reg a)

/-- Source and destination are named registers or pairs, for which no lane of the issue waits, and no lane traps for a flag. -/
structure Named (k : Nat) (m : Word) (a d words : Nat) (s : State) : Prop where
  regs : a < 32 ∧ d < 32 ∧ a % words = 0 ∧ d % words = 0
  lanes : ∀ l < 32, m.getLsbD l = true → (s.thread k l).hold = 0 ∧ (s.thread k l).trapen = 0

/-- A thread that has been given a result in named registers and on the queue, and flags. -/
def Thread.resulted (t : Thread) (d words : Nat) (y : DWord) (g : Flags) : Thread :=
  { (if words = 1 then t.giveW (.named d) y.lo else t.giveD (.named d) y) with fpstat := t.fpstat ||| g.setWidth 32 }

/-- The lanes `m` of a crew have moved past an instruction. Of the state only their threads have changed, and in those, beside what `f` does, only
the program counter, the safe-point counter and whether the lane runs. -/
structure LanesMove (x : Issue) (k : Nat) (m : Word) (f : Nat → Thread → Thread) (s t : State) : Prop where
  rest : { t with threads := s.threads } = s
  issued : ∀ l < 32, m.getLsbD l = true → ∃ st n, t.thread k l =
    { f l (s.thread k l) with pc := x.pc + BitVec.ofNat 64 x.len, st := st, reply := none, got := [], safeCount := n }
  others : ∀ j, (∀ l < 32, m.getLsbD l = true → j ≠ 32 * k + l) → mfind t.threads j = mfind s.threads j

/-- Lane `l` is the lowest that takes part, in whose context a crew-uniform instruction runs (R179). -/
def Leads (i : Instr) (k : Nat) (m : Word) (s : State) (l : Nat) : Prop :=
  l < 32 ∧ Active i k m s l = true ∧ ∀ j < l, Active i k m s j = false

/-- A crew with a k register or pair written. -/
def Crew.giveK (q : Crew) (w : BitVec 1) (d : Nat) (y : DWord) : Crew :=
  { q with k := if w = 0 then mset q.k d y.lo else mset (mset q.k d y.lo) (d + 1) y.hi }

/-! ## Loads and stores -/

/-- The request by which a lane's operation asks for its line (R132). -/
def Ctx.asks (c : Ctx) (event time : Nat) (op : LineOp) : Req := { event := event, agent := c.core, time := time, op := some op }

/-- In a state whose addresses are resolved, a lane's load of `n` bytes at `pa` is performed at once and brings the bytes `b`: in staging at a
word that has served no operation of the cycle (R254); in memory outside the order (R121); or at a copy of the line in the slice beside the
core, whose lease covers the load (R108, R124). -/
def ReadsNow (c : Ctx) (n pa : Nat) (kd : PageKind) (b : List Byte) (s : State) : Prop :=
  s.coreOwned pa = true ∧ region pa ≠ .device ∧ c.got = [] ∧
  match kd with
  | .staging => s.busyWord pa n = false ∧ s.poisonedAt pa n = false ∧ b = s.read pa n
  | .io | .device => s.poisonedAt pa n = false ∧ b = s.read pa n
  | _ => ∃ cp, mfind s.copies (copyKey c.core (pa / 128)) = some cp ∧ (kd = .priv → cp.write = true) ∧
      (cp.leased = false ∨ max (s.thread c.crew c.lane).time cp.wts ≤ cp.rts) ∧ cp.line.bad (pa % 128) n = false ∧ b = cp.line.part (pa % 128) n

/-- Of memory and of the registers a load changes nothing: only its lane's program time, the times and the order of use of the place it read. -/
structure OnlyRead (k l : Nat) (s t : State) : Prop where
  bytes : ∀ a, memGet t.mem a = memGet s.mem a
  tags : t.tags = s.tags
  crews : t.crews = s.crews
  others : ∀ j, j ≠ 32 * k + l → mfind t.threads j = mfind s.threads j
  lane : t.thread k l = { s.thread k l with time := (t.thread k l).time }
  later : (s.thread k l).time ≤ (t.thread k l).time

/-- In a state whose addresses are resolved, a lane's store or atomic of `n` bytes at `pa` in memory itself is performed at once: in staging, or
outside the order. A whole granule may hold poison, which the store ends (R422). -/
def StoresNow (c : Ctx) (n pa : Nat) (kd : PageKind) (s : State) : Prop :=
  s.coreOwned pa = true ∧ region pa ≠ .device ∧ c.got = [] ∧ pa % n = 0 ∧ s.mem.wf = true ∧ (n = 16 ∨ s.poisonedAt pa n = false) ∧
  (kd = .staging ∧ s.busyWord pa n = false ∨ kd = .io ∨ kd = .device)

/-- In a state whose addresses are resolved, a lane's access at `pa` is served by the write copy `cp` of the line that the slice beside its core
holds. -/
def OwnsLine (c : Ctx) (pa : Nat) (kd : PageKind) (cp : Copy) (s : State) : Prop :=
  s.coreOwned pa = true ∧ region pa ≠ .device ∧ c.got = [] ∧ (kd = .coherent ∨ kd = .priv) ∧
  mfind s.copies (copyKey c.core (pa / 128)) = some cp ∧ cp.write = true

/-- An operation on an agent's write copy: the line is `new`, and stands in the order after everything the copy has shown; memory, crews, the
registers of every thread and the copies of other lines are as before. A lane that waits for the word to change may have read it. -/
structure CopyWritten (k l agent line : Nat) (cp : Copy) (new : Line) (s t : State) : Prop where
  copy : ∃ r n, max (s.thread k l).time (cp.rts + 1) ≤ r ∧ mfind t.copies (copyKey agent line) =
    some { cp with line := new, dirty := true, wts := max (s.thread k l).time (cp.rts + 1), rts := r, used := n }
  time : (t.thread k l).time = max (s.thread k l).time (cp.rts + 1)
  others : ∀ q, q ≠ copyKey agent line → q % 2 ^ 45 ≠ line → mfind t.copies q = mfind s.copies q
  bytes : ∀ a, memGet t.mem a = memGet s.mem a
  crews : t.crews = s.crews
  lane : t.thread k l = { s.thread k l with time := (t.thread k l).time, got := (t.thread k l).got }
  threads : ∀ q m, (q ≠ k ∨ m ≠ l) → t.thread q m = { s.thread q m with got := (t.thread q m).got }

/-- In a state whose addresses are resolved, a lane's access at `pa` needs its line's home: the page is under a protocol and the slice beside the
core holds no copy of the line (R132). -/
def Misses (c : Ctx) (pa : Nat) (kd : PageKind) (s : State) : Prop :=
  s.coreOwned pa = true ∧ region pa ≠ .device ∧ c.got = [] ∧ kd = .coherent ∧ mfind s.copies (copyKey c.core (pa / 128)) = none

/-- In a state whose addresses are resolved, a lane's tagged operation finds its staging word served by nothing else in the cycle, its line present
and no poison in it (R89, R254, R421). -/
def FindsWord (c : Ctx) (pa : Nat) (s : State) : Prop :=
  region pa = .staging ∧ c.got = [] ∧ s.busyWord pa 4 = false ∧ s.present pa = true ∧ s.peekBad pa 4 = false

/-- Beside the full bit of one staging word, its granule's capability tag, the times of its line and one lane's program time nothing has
changed. -/
structure OnlyBit (k l pa : Nat) (full : Bool) (s t : State) : Prop where
  bit : t.isFull pa = full
  bits : ∀ q, q / 4 ≠ pa / 4 → t.isFull q = s.isFull q
  bytes : ∀ a, memGet t.mem a = memGet s.mem a
  tag : mget false t.tags (pa / 16) = false
  tags : ∀ g, g ≠ pa / 16 → mget false t.tags g = mget false s.tags g
  crews : t.crews = s.crews
  others : ∀ j, j ≠ 32 * k + l → mfind t.threads j = mfind s.threads j
  lane : t.thread k l = { s.thread k l with time := (t.thread k l).time }

/-! ## Accesses through a capability -/

/-- An access of `n` bytes through capability register `q` at an offset passes the checks of egress, and goes to memory of this package: the
address, and the place it resolves to. -/
def OwnAccess (c : Ctx) (q : Nat) (y : Word) (perm n : Nat) (o : RemoteOp) (s : State) (va : DWord) (pa : Nat) (kd : PageKind) (t : State) : Prop :=
  c.reply = none ∧ ∃ cap a, capCheck c q y perm n [0, 1] s = .ok ((cap, a), s) ∧ cap.peer = s.pkgId ∧ va = BitVec.ofNat 64 a ∧
    localPlace c cap a n (o.cls n) s = .ok ((pa, kd), t)

/-- PAGE of a request (R365). -/
def Cap.pageOf (cap : Cap) (a : Nat) : Nat := if cap.kind = 1 then natBits a 32 32 + 2 ^ 32 * natBits a 16 8 else natBits a 16 40

/-- The access goes to another package, towards which a port is up, and the lane waits for egress with the request `w` (R103, R364). -/
def FarAccess (c : Ctx) (q : Nat) (y : Word) (perm op n x : Nat) (s : State) (w : Wait) : Prop :=
  c.reply = none ∧ c.got = [] ∧ ∃ cap a, capCheck c q y perm n [0, 1] s = .ok ((cap, a), s) ∧ cap.peer ≠ s.pkgId ∧
    s.routes cap.peer (dieOf c.core) (cap.pageOf a) ≠ [] ∧ (cap.kind = 1 ∨ a < 2 ^ 56) ∧ a % n = 0 ∧
    w = { kind := .egress, addr := BitVec.ofNat 64 a, req := some {
      op := (if cap.kind = 1 then 128 else 0) + op, size := Nat.log2 n, peer := cap.peer, ctx := (s.launch (s.group c.group).launch).ctx
      page := cap.pageOf a, off := natBits a 0 16, data := x, ts := (s.thread c.crew c.lane).time } }

/-! ## Commands -/

/-- Entry `i` of queue `q` is a command `c` that has committed and not completed (R346). -/
structure Committed (q i : Nat) (s : State) (x : Queue) (c : Cmd) : Prop where
  unit : s.unit = .none
  queue : mfind s.queues q = some x
  past : x.head ≠ i
  entry : x.open_.find? (fun d => d.index == i) = some c

/-- Entry `i` of queue `q` stands at HEAD, may be claimed, and is read as the bytes `b` of an opcode, with the timestamp `ts` of the loads,
which leave the state `r` (R338, R346). -/
structure Claimed (q i op : Nat) (s : State) (x : Queue) (b : List Byte) (ts : Nat) (r : State) : Prop where
  unit : s.unit = .none
  queue : mfind s.queues q = some x
  head : x.head = i
  claims : x.claims = true
  lap : x.waitLap = false
  phase : s.phase = 4
  read : s.entryAt x = .bytes b ts r
  op : field b 0 1 = op

/-- No command of index `i` of a queue is outstanding. -/
def State.completed (s : State) (q i : Nat) : Prop := ∀ c ∈ (s.queue q).open_, c.index ≠ i

end Sys2Proof.Machine
end

