-- ==== Sys2Proof/Certificates/Slice0/Obligations.lean ====
section
/-! DEFINITION. What is claimed of the model, stated for the provers. Statements about one instruction speak of an issue to one lane
(Runs, in Sys2Proof/Safety.lean); `c` is the lane's context and `s.begun x k l` the state in which it computes. -/

open Sys2Proof Sys2Proof.Machine

/-- ADD, SUB, MUL, AND, OR, XOR, ANDN, SHL, SHR, SRA of both widths and MULH, MIN, MAX of both signs, issued to a lane that executes them
and whose operands can be read and written, answer the next state in which the lane's destination holds the result of R193 and the queue
its push; beside the lane's own thread nothing changes, and in it only the destination, the queue, the index registers used, the program
counter and the safe-point counter. (R193) -/
def Obligations.IntegerArithmeticResults : Prop :=
  (∀ e ∈ ([(Instr.add, fun y z => y + z, fun y z => y + z), (Instr.sub, fun y z => y - z, fun y z => y - z),
      (Instr.mul, fun y z => y * z, fun y z => y * z), (Instr.and, fun y z => y &&& z, fun y z => y &&& z),
      (Instr.or, fun y z => y ||| z, fun y z => y ||| z), (Instr.xor, fun y z => y ^^^ z, fun y z => y ^^^ z),
      (Instr.andn, fun y z => y &&& ~~~z, fun y z => y &&& ~~~z),
      (Instr.shl, fun y z => y <<< (z.toNat % 32), fun y z => y <<< (z.toNat % 64)),
      (Instr.shr, fun y z => y >>> (z.toNat % 32), fun y z => y >>> (z.toNat % 64)),
      (Instr.sra, fun y z => BitVec.ofInt 32 (y.toInt / 2 ^ (z.toNat % 32)), fun y z => BitVec.ofInt 64 (y.toInt / 2 ^ (z.toNat % 64)))] :
      List ((BitVec 1 → BitVec 6 → BitVec 6 → BitVec 6 → BitVec 1 → BitVec 4 → Instr) × (Word → Word → Word) × (DWord → DWord → DWord))),
    ∀ v b a d n p x k l s c s1 s2 s3 y z pl, Runs (e.1 v b a d n p) x k l s → c = s.ctxOf x k l →
      srcV c v a.toNat (s.begun x k l) = .ok (y, s1) → srcV c v b.toNat s1 = .ok (z, s2) → dstV c v d.toNat s2 = .ok (pl, s3) →
      ∃ t, exec (e.1 v b a d n p) s = .next t ∧
        t = s3.doneLane c (fun u => if v = 0 then u.giveW pl (e.2.1 y.lo z.lo) else u.giveD pl (e.2.2 y z)) ∧
        OnlyLane k l s t ∧ OnlyResult pl (if v = 0 then 1 else 2) (s.thread k l) (t.thread k l) ∧
        (s.thread k l).sameFlags (t.thread k l)) ∧
  (∀ e ∈ ([(Instr.mulh, fun v y z => if v = 0 then BitVec.ofInt 32 (y.toInt * z.toInt / 2 ^ 32) else BitVec.ofNat 32 (y.toNat * z.toNat / 2 ^ 32)),
      (Instr.min, fun v y z => if v = 0 then BitVec.ofInt 32 (min y.toInt z.toInt) else BitVec.ofNat 32 (min y.toNat z.toNat)),
      (Instr.max, fun v y z => if v = 0 then BitVec.ofInt 32 (max y.toInt z.toInt) else BitVec.ofNat 32 (max y.toNat z.toNat))] :
      List ((BitVec 1 → BitVec 6 → BitVec 6 → BitVec 6 → BitVec 1 → BitVec 4 → Instr) × (BitVec 1 → Word → Word → Word))),
    ∀ v b a d n p x k l s c s1 s2 s3 y z pl, Runs (e.1 v b a d n p) x k l s → c = s.ctxOf x k l →
      src c a.toNat (s.begun x k l) = .ok (y, s1) → src c b.toNat s1 = .ok (z, s2) → dst c d.toNat 1 s2 = .ok (pl, s3) →
      ∃ t, exec (e.1 v b a d n p) s = .next t ∧ t = s3.doneLane c (fun u => u.giveW pl (e.2 v y z)) ∧
        OnlyLane k l s t ∧ OnlyResult pl 1 (s.thread k l) (t.thread k l) ∧ (s.thread k l).sameFlags (t.thread k l))

/-- DIV.s, DIV.n, REM.s and REM.n, issued to a lane that executes them and whose operands can be read and written, answer the next state
with the quotient truncated toward zero or the remainder with the sign of the dividend; for a zero divisor all ones or the dividend; and
for the least word divided by -1 the least word or 0; nothing else changes, no flag among it. (R194) -/
def Obligations.DivisionResults : Prop :=
  ∀ e ∈ ([(Instr.div, fun v y z => if z = 0 then 0xFFFFFFFF#32 else if v = 0 then
        (if y = 0x80000000#32 ∧ z = 0xFFFFFFFF#32 then 0x80000000#32 else BitVec.ofInt 32 (y.toInt.tdiv z.toInt))
        else BitVec.ofNat 32 (y.toNat / z.toNat)),
      (Instr.rem, fun v y z => if z = 0 then y else if v = 0 then
        (if y = 0x80000000#32 ∧ z = 0xFFFFFFFF#32 then 0 else BitVec.ofInt 32 (y.toInt - y.toInt.tdiv z.toInt * z.toInt))
        else BitVec.ofNat 32 (y.toNat - y.toNat / z.toNat * z.toNat))] :
      List ((BitVec 1 → BitVec 6 → BitVec 6 → BitVec 6 → BitVec 1 → BitVec 4 → Instr) × (BitVec 1 → Word → Word → Word))),
    ∀ v b a d n p x k l s c s1 s2 s3 y z pl, Runs (e.1 v b a d n p) x k l s → c = s.ctxOf x k l →
      src c a.toNat (s.begun x k l) = .ok (y, s1) → src c b.toNat s1 = .ok (z, s2) → dst c d.toNat 1 s2 = .ok (pl, s3) →
      ∃ t, exec (e.1 v b a d n p) s = .next t ∧ t = s3.doneLane c (fun u => u.giveW pl (e.2 v y z)) ∧
        OnlyLane k l s t ∧ OnlyResult pl 1 (s.thread k l) (t.thread k l) ∧ (s.thread k l).sameFlags (t.thread k l)

/-- ADDI, ANDI, ORI, XORI, SHLI, SHRI, SRAI, MOVI, MOVH and POPC, CLZ, CTZ, BREV, BSWAP, SEXB, SEXH, MOVD, issued to a lane that executes
them and whose operands can be read and written, answer the next state with the result of their rule pushed and at the destination;
nothing else changes. A shift count from 32 to 127 is an illegal field value. (R195, R196, R197) -/
def Obligations.ImmediateAndBitResults : Prop :=
  (∀ i a d n p, (Instr.shli i a d n p).wf = true ∨ (Instr.shri i a d n p).wf = true ∨ (Instr.srai i a d n p).wf = true → i.toNat < 32) ∧
  (∀ e ∈ ([(Instr.addi, fun i y => y + BitVec.ofInt 32 i.toInt), (Instr.andi, fun i y => y &&& BitVec.ofInt 32 i.toInt),
      (Instr.ori, fun i y => y ||| BitVec.ofInt 32 i.toInt), (Instr.xori, fun i y => y ^^^ BitVec.ofInt 32 i.toInt),
      (Instr.shli, fun i y => y <<< i.toNat), (Instr.shri, fun i y => y >>> i.toNat),
      (Instr.srai, fun i y => BitVec.ofInt 32 (y.toInt / 2 ^ i.toNat))] :
      List ((BitVec 7 → BitVec 6 → BitVec 6 → BitVec 1 → BitVec 4 → Instr) × (BitVec 7 → Word → Word))),
    ∀ i a d n p x k l s c s1 s2 y pl, Runs (e.1 i a d n p) x k l s → c = s.ctxOf x k l →
      src c a.toNat (s.begun x k l) = .ok (y, s1) → dst c d.toNat 1 s1 = .ok (pl, s2) →
      ∃ t, exec (e.1 i a d n p) s = .next t ∧ t = s2.doneLane c (fun u => u.giveW pl (e.2 i y)) ∧
        OnlyLane k l s t ∧ OnlyResult pl 1 (s.thread k l) (t.thread k l) ∧ (s.thread k l).sameFlags (t.thread k l)) ∧
  (∀ i d n p x k l s c s1 pl, Runs (.movi i d n p) x k l s → c = s.ctxOf x k l → dst c d.toNat 1 (s.begun x k l) = .ok (pl, s1) →
      ∃ t, exec (.movi i d n p) s = .next t ∧ t = s1.doneLane c (fun u => u.giveW pl (BitVec.ofInt 32 i.toInt)) ∧
        OnlyLane k l s t ∧ OnlyResult pl 1 (s.thread k l) (t.thread k l) ∧ (s.thread k l).sameFlags (t.thread k l)) ∧
  (∀ i d n p x k l s c s1 s2 y pl, Runs (.movh i d n p) x k l s → c = s.ctxOf x k l →
      src c d.toNat (s.begun x k l) = .ok (y, s1) → dst c d.toNat 1 s1 = .ok (pl, s2) →
      ∃ t, exec (.movh i d n p) s = .next t ∧ t = s2.doneLane c (fun u => u.giveW pl (BitVec.ofNat 32 (y.toNat * 2 ^ 13 + i.toNat))) ∧
        OnlyLane k l s t ∧ OnlyResult pl 1 (s.thread k l) (t.thread k l) ∧ (s.thread k l).sameFlags (t.thread k l)) ∧
  (∀ e ∈ ([(Instr.popc, fun y r => r.toNat = (List.range 32).countP fun j => y.getLsbD j),
      (Instr.clz, fun y r => r.toNat = (if y = 0 then 32 else 31 - Nat.log2 y.toNat)),
      (Instr.ctz, fun y r => (y = 0 → r = 32) ∧ (y ≠ 0 → y.getLsbD r.toNat = true ∧ ∀ j < r.toNat, y.getLsbD j = false)),
      (Instr.brev, fun y r => ∀ j < 32, r.getLsbD j = y.getLsbD (31 - j)),
      (Instr.bswap, fun y r => ∀ j < 4, r.extractLsb' (8 * j) 8 = y.extractLsb' (8 * (3 - j)) 8),
      (Instr.sexb, fun y r => r.toInt = (y.setWidth 8).toInt), (Instr.sexh, fun y r => r.toInt = (y.setWidth 16).toInt)] :
      List ((BitVec 4 → BitVec 6 → BitVec 6 → BitVec 1 → BitVec 4 → Instr) × (Word → Word → Prop))),
    ∀ i a d n p x k l s c s1 s2 y pl, Runs (e.1 i a d n p) x k l s → c = s.ctxOf x k l →
      src c a.toNat (s.begun x k l) = .ok (y, s1) → dst c d.toNat 1 s1 = .ok (pl, s2) →
      ∃ t r, exec (e.1 i a d n p) s = .next t ∧ e.2 y r ∧ t = s2.doneLane c (fun u => u.giveW pl r) ∧
        OnlyLane k l s t ∧ OnlyResult pl 1 (s.thread k l) (t.thread k l) ∧ (s.thread k l).sameFlags (t.thread k l)) ∧
  (∀ i a d n p x k l s c s1 s2 y pl, Runs (.movd i a d n p) x k l s → c = s.ctxOf x k l →
      srcD c a.toNat (s.begun x k l) = .ok (y, s1) → dst c d.toNat 2 s1 = .ok (pl, s2) →
      ∃ t, exec (.movd i a d n p) s = .next t ∧ t = s2.doneLane c (fun u => u.giveD pl y) ∧
        OnlyLane k l s t ∧ OnlyResult pl 2 (s.thread k l) (t.thread k l) ∧ (s.thread k l).sameFlags (t.thread k l))

/-- BFE.s and BFE.n, issued to a lane that executes them and whose operands can be read and written, answer the next state with 0 for a
length of 0, and otherwise the bits of the shifted operand, zero- or sign-extended from the length; nothing else changes. (R198) -/
def Obligations.BitFieldResults : Prop :=
  ∀ v b a d n p x k l s c s1 s2 s3 y z pl, Runs (.bfe v b a d n p) x k l s → c = s.ctxOf x k l →
    src c a.toNat (s.begun x k l) = .ok (y, s1) → src c b.toNat s1 = .ok (z, s2) → dst c d.toNat 1 s2 = .ok (pl, s3) →
    ∃ t r, exec (.bfe v b a d n p) s = .next t ∧ t = s3.doneLane c (fun u => u.giveW pl r) ∧
      (z.toNat / 256 % 32 = 0 → r = 0) ∧
      (z.toNat / 256 % 32 ≠ 0 → v = 1 → r.toNat = y.toNat / 2 ^ (z.toNat % 32) % 2 ^ (z.toNat / 256 % 32)) ∧
      (z.toNat / 256 % 32 ≠ 0 → v = 0 → r.toInt = (y.toInt / 2 ^ (z.toNat % 32)).bmod (2 ^ (z.toNat / 256 % 32))) ∧
      OnlyLane k l s t ∧ OnlyResult pl 1 (s.thread k l) (t.thread k l) ∧ (s.thread k l).sameFlags (t.thread k l)

/-- ADD, SUB, MUL, AND, OR, XOR, SHL, SHR, SRA, MIN, MAX and MOV in 16 bits, issued to a lane whose operands can be read and written,
answer the next state with the result at ds and pushed, and so do FADD, FMUL, FMAX and FMAD with their flags, FMAD taking q1 as a factor;
the integer forms change nothing else. (R180, R193, R190, R230, R229) -/
def Obligations.ShortFormResults : Prop :=
  (∀ e ∈ ([(Instr.add16, fun y z => y + z), (Instr.sub16, fun y z => y - z), (Instr.mul16, fun y z => y * z),
      (Instr.and16, fun y z => y &&& z), (Instr.or16, fun y z => y ||| z), (Instr.xor16, fun y z => y ^^^ z),
      (Instr.shl16, fun y z => y <<< (z.toNat % 32)), (Instr.shr16, fun y z => y >>> (z.toNat % 32)),
      (Instr.sra16, fun y z => BitVec.ofInt 32 (y.toInt / 2 ^ (z.toNat % 32))),
      (Instr.min16, fun y z => BitVec.ofInt 32 (min y.toInt z.toInt)), (Instr.max16, fun y z => BitVec.ofInt 32 (max y.toInt z.toInt))] :
      List ((BitVec 5 → BitVec 6 → Instr) × (Word → Word → Word))),
    ∀ b d x k l s c s1 s2 s3 y z pl, Runs (e.1 b d) x k l s → c = s.ctxOf x k l →
      src c d.toNat (s.begun x k l) = .ok (y, s1) → src c (short b) s1 = .ok (z, s2) → dst c d.toNat 1 s2 = .ok (pl, s3) →
      ∃ t, exec (e.1 b d) s = .next t ∧ t = s3.doneLane c (fun u => u.giveW pl (e.2 y z)) ∧
        OnlyLane k l s t ∧ OnlyResult pl 1 (s.thread k l) (t.thread k l) ∧ (s.thread k l).sameFlags (t.thread k l)) ∧
  (∀ b d x k l s c s1 s2 y pl, Runs (.mov16 b d) x k l s → c = s.ctxOf x k l →
      src c (short b) (s.begun x k l) = .ok (y, s1) → dst c d.toNat 1 s1 = .ok (pl, s2) →
      ∃ t, exec (.mov16 b d) s = .next t ∧ t = s2.doneLane c (fun u => u.giveW pl y) ∧
        OnlyLane k l s t ∧ OnlyResult pl 1 (s.thread k l) (t.thread k l) ∧ (s.thread k l).sameFlags (t.thread k l)) ∧
  (∀ e ∈ ([(Instr.fadd16, fun down y z => y.add down z), (Instr.fmul16, fun _ y z => y.mul z)] :
      List ((BitVec 5 → BitVec 6 → Instr) × (Bool → Val → Val → Val × Flags))),
    ∀ b d x k l s c s1 s2 s3 s4 y z pl bits g u, Runs (e.1 b d) x k l s → c = s.ctxOf x k l →
      src c d.toNat (s.begun x k l) = .ok (y, s1) → src c (short b) s1 = .ok (z, s2) → dst c d.toNat 1 s2 = .ok (pl, s3) →
      u = s3.thread k l →
      roundMine c fmtFP32 (e.2 (u.rm == 3) (decodeIn u.daz fmtFP32 y.toNat) (decodeIn u.daz fmtFP32 z.toNat)) s3 = .ok ((bits, g), s4) →
      exec (e.1 b d) s = .next (s4.doneFloat c (fun u => u.giveW pl (BitVec.ofNat 32 bits)) g)) ∧
  (∀ b d x k l s c s1 s2 s3 y z pl u, Runs (.fmax16 b d) x k l s → c = s.ctxOf x k l →
      src c d.toNat (s.begun x k l) = .ok (y, s1) → src c (short b) s1 = .ok (z, s2) → dst c d.toNat 1 s2 = .ok (pl, s3) →
      u = s3.thread k l →
      exec (.fmax16 b d) s = .next (s3.doneFloat c (fun w => w.giveW pl (BitVec.ofNat 32
        (exactBits fmtFP32 ((decodeIn u.daz fmtFP32 y.toNat).max (decodeIn u.daz fmtFP32 z.toNat)).1)))
        ((decodeIn u.daz fmtFP32 y.toNat).max (decodeIn u.daz fmtFP32 z.toNat)).2)) ∧
  (∀ b d x k l s c s1 s2 s3 s4 s5 y z w pl bits g u, Runs (.fmad16 b d) x k l s → c = s.ctxOf x k l →
      src c 32 (s.begun x k l) = .ok (y, s1) → src c (short b) s1 = .ok (z, s2) → src c d.toNat s2 = .ok (w, s3) →
      dst c d.toNat 1 s3 = .ok (pl, s4) → u = s4.thread k l →
      roundMine c fmtFP32 (Val.fma (u.rm == 3) (decodeIn u.daz fmtFP32 w.toNat) (decodeIn u.daz fmtFP32 y.toNat)
        (decodeIn u.daz fmtFP32 z.toNat)) s4 = .ok ((bits, g), s5) →
      exec (.fmad16 b d) s = .next (s5.doneFloat c (fun u => u.giveW pl (BitVec.ofNat 32 bits)) g))

/-- CEQ, CNE, CLT and CLE of both widths and signs, and PLOG, issued to a lane that executes them and whose sources can be read, answer
the next state in which the lane's bit of pd is the comparison's or the operation's outcome; every other bit of pd, every other predicate,
and everything but the crew's predicates and the lane's index registers, program counter and safe-point counter is unchanged; nothing is
pushed. (R199, R200) -/
def Obligations.CompareResults : Prop :=
  (∀ e ∈ ([(Instr.ceq, fun y z => y == z, fun y z => y == z), (Instr.cne, fun y z => y != z, fun y z => y != z)] :
      List ((BitVec 6 → BitVec 6 → BitVec 1 → BitVec 4 → BitVec 1 → BitVec 4 → Instr) × (Word → Word → Bool) × (DWord → DWord → Bool))),
    ∀ b a w q n p x k l s c s1 s2 y z, Runs (e.1 b a w q n p) x k l s → c = s.ctxOf x k l →
      srcV c w a.toNat (s.begun x k l) = .ok (y, s1) → srcV c w b.toNat s1 = .ok (z, s2) →
      ∃ t, exec (e.1 b a w q n p) s = .next t ∧
        OnlyPredicate q k l (if w = 0 then e.2.1 y.lo z.lo else e.2.2 y z) s t ∧ (t.thread k l).pc = c.next) ∧
  (∀ e ∈ ([(Instr.clt, fun v y z => if v = 0 then decide (y.toInt < z.toInt) else decide (y.toNat < z.toNat),
        fun v y z => if v = 0 then decide (y.toInt < z.toInt) else decide (y.toNat < z.toNat)),
      (Instr.cle, fun v y z => if v = 0 then decide (y.toInt ≤ z.toInt) else decide (y.toNat ≤ z.toNat),
        fun v y z => if v = 0 then decide (y.toInt ≤ z.toInt) else decide (y.toNat ≤ z.toNat))] :
      List ((BitVec 1 → BitVec 6 → BitVec 6 → BitVec 1 → BitVec 4 → BitVec 1 → BitVec 4 → Instr) × (BitVec 1 → Word → Word → Bool) ×
        (BitVec 1 → DWord → DWord → Bool))),
    ∀ v b a w q n p x k l s c s1 s2 y z, Runs (e.1 v b a w q n p) x k l s → c = s.ctxOf x k l →
      srcV c w a.toNat (s.begun x k l) = .ok (y, s1) → srcV c w b.toNat s1 = .ok (z, s2) →
      ∃ t, exec (e.1 v b a w q n p) s = .next t ∧
        OnlyPredicate q k l (if w = 0 then e.2.1 v y.lo z.lo else e.2.2 v y z) s t ∧ (t.thread k l).pc = c.next) ∧
  (∀ e ∈ ([(0, fun y z => y && z), (1, fun y z => y || z), (2, fun y z => y != z), (3, fun y z => y && !z), (4, fun y z => y || !z),
      (5, fun y z => y == z)] : List (BitVec 3 × (Bool → Bool → Bool))),
    ∀ b a d n p x k l s, Runs (.plog b e.1 a d n p) x k l s →
      ∃ t, exec (.plog b e.1 a d n p) s = .next t ∧
        OnlyPredicate d k l (e.2 ((mget 0 (s.crew k).p a.toNat).getLsbD l) ((mget 0 (s.crew k).p b.toNat).getLsbD l)) s t ∧
        (t.thread k l).pc = (s.ctxOf x k l).next) ∧
  (∀ b a d n p, (Instr.plog b 6 a d n p).wf = false ∧ (Instr.plog b 7 a d n p).wf = false)

/-- PRD gives the lane's bit of pa as 0 or 1 at its destination and pushes it; PWR, PSET and PCLR write the lane's bit of pd, PWR with
whether its source is not zero; each answers a next state, for every lane that executes it and whose operands can be read and written, and
changes nothing else. (R201) -/
def Obligations.PredicateMoves : Prop :=
  (∀ a d n p x k l s c s1 pl, Runs (.prd a d n p) x k l s → c = s.ctxOf x k l → dst c d.toNat 1 (s.begun x k l) = .ok (pl, s1) →
      ∃ t, exec (.prd a d n p) s = .next t ∧
        t = s1.doneLane c (fun u => u.giveW pl (if (mget 0 (s.crew k).p a.toNat).getLsbD l then 1 else 0)) ∧
        OnlyLane k l s t ∧ OnlyResult pl 1 (s.thread k l) (t.thread k l) ∧ (s.thread k l).sameFlags (t.thread k l)) ∧
  (∀ a d n p x k l s c s1 y, Runs (.pwr a d n p) x k l s → c = s.ctxOf x k l → src c a.toNat (s.begun x k l) = .ok (y, s1) →
      ∃ t, exec (.pwr a d n p) s = .next t ∧ OnlyPredicate d k l (y != 0) s t ∧ (t.thread k l).pc = c.next) ∧
  (∀ d n p x k l s, Runs (.pset d n p) x k l s →
      ∃ t, exec (.pset d n p) s = .next t ∧ OnlyPredicate d k l true s t ∧ (t.thread k l).pc = (s.ctxOf x k l).next) ∧
  (∀ d n p x k l s, Runs (.pclr d n p) x k l s →
      ∃ t, exec (.pclr d n p) s = .next t ∧ OnlyPredicate d k l false s t ∧ (t.thread k l).pc = (s.ctxOf x k l).next)

/-- Issued to a lane that executes them and whose operands can be read and written, these instructions of both widths answer the next
state in which the destination and the queue hold the exact result rounded once under the thread's mode (FMIN and FMAX: the chosen
operand), the generator has stepped once under mode 4, FPSTAT has the operation's flags joined, and a flag that FPCTL enables traps after
the instruction; where none does, nothing else changes. (R229, R230, R224, R225, R226, R408) -/
def Obligations.FloatArithmeticResults : Prop :=
  (∀ e ∈ ([(Instr.fadd, fun down y z => y.add down z), (Instr.fsub, fun down y z => y.add down z.negate), (Instr.fmul, fun _ y z => y.mul z),
      (Instr.fdiv, fun _ y z => y.div z)] :
      List ((BitVec 1 → BitVec 6 → BitVec 6 → BitVec 6 → BitVec 1 → BitVec 4 → Instr) × (Bool → Val → Val → Val × Flags))),
    ∀ v b a d n p x k l s c s1 s2 s3 y z pl u o, Runs (e.1 v b a d n p) x k l s → c = s.ctxOf x k l →
      srcV c v a.toNat (s.begun x k l) = .ok (y, s1) → srcV c v b.toNat s1 = .ok (z, s2) → dstV c v d.toNat s2 = .ok (pl, s3) →
      u = s3.thread k l →
      o = u.rounded (fmtV v) (e.2 (u.rm == 3) (decodeIn u.daz (fmtV v) y.toNat) (decodeIn u.daz (fmtV v) z.toNat)) →
      ∃ t, exec (e.1 v b a d n p) s = .next t ∧ t = s3.doneFloat c (fun w => w.drawn.giveV v pl (BitVec.ofNat 64 o.1)) o.2 ∧
        (o.2 &&& u.trapen = 0 → OnlyFloat pl (if v = 0 then 1 else 2) k l o.2 s t)) ∧
  (∀ e ∈ ([(Instr.fmin, Val.min), (Instr.fmax, Val.max)] :
      List ((BitVec 1 → BitVec 6 → BitVec 6 → BitVec 6 → BitVec 1 → BitVec 4 → Instr) × (Val → Val → Val × Flags))),
    ∀ v b a d n p x k l s c s1 s2 s3 y z pl u o, Runs (e.1 v b a d n p) x k l s → c = s.ctxOf x k l →
      srcV c v a.toNat (s.begun x k l) = .ok (y, s1) → srcV c v b.toNat s1 = .ok (z, s2) → dstV c v d.toNat s2 = .ok (pl, s3) →
      u = s3.thread k l → o = e.2 (decodeIn u.daz (fmtV v) y.toNat) (decodeIn u.daz (fmtV v) z.toNat) →
      ∃ t, exec (e.1 v b a d n p) s = .next t ∧
        t = s3.doneFloat c (fun w => w.giveV v pl (BitVec.ofNat 64 (exactBits (fmtV v) o.1))) o.2 ∧
        (o.2 &&& u.trapen = 0 → OnlyFloat pl (if v = 0 then 1 else 2) k l o.2 s t)) ∧
  (∀ e ∈ ([(Instr.fmac, fun y => y), (Instr.fnmac, fun y => y.negate)] :
      List ((BitVec 1 → BitVec 6 → BitVec 6 → BitVec 6 → BitVec 1 → BitVec 4 → Instr) × (Val → Val))),
    ∀ v b a d n p x k l s c s1 s2 s3 s4 y z w pl u o, Runs (e.1 v b a d n p) x k l s → c = s.ctxOf x k l →
      srcV c v a.toNat (s.begun x k l) = .ok (y, s1) → srcV c v b.toNat s1 = .ok (z, s2) → srcV c v d.toNat s2 = .ok (w, s3) →
      dstV c v d.toNat s3 = .ok (pl, s4) → u = s4.thread k l →
      o = u.rounded (fmtV v) (Val.fma (u.rm == 3) (decodeIn u.daz (fmtV v) w.toNat) (e.2 (decodeIn u.daz (fmtV v) y.toNat))
        (decodeIn u.daz (fmtV v) z.toNat)) →
      ∃ t, exec (e.1 v b a d n p) s = .next t ∧ t = s4.doneFloat c (fun w => w.drawn.giveV v pl (BitVec.ofNat 64 o.1)) o.2 ∧
        (o.2 &&& u.trapen = 0 → OnlyFloat pl (if v = 0 then 1 else 2) k l o.2 s t))

/-- HADD, HSUB, HMUL, HMAC and PACK of both formats, issued to a lane that executes them and whose operands can be read and written,
answer the next state with the word of the two rounded elements, each rounded with its own draw, the low one first, and the union of their
flags; UNPK widens one half exactly; where no enabled flag is raised, nothing else changes. (R231, R239, R224, R226) -/
def Obligations.PackedFloatResults : Prop :=
  (∀ e ∈ ([(Instr.hadd, false, fun down _ y z => y.add down z), (Instr.hsub, false, fun down _ y z => y.add down z.negate),
      (Instr.hmul, false, fun _ _ y z => y.mul z), (Instr.hmac, true, fun down w y z => Val.fma down w y z)] :
      List ((BitVec 1 → BitVec 6 → BitVec 6 → BitVec 6 → BitVec 1 → BitVec 4 → Instr) × Bool × (Bool → Val → Val → Val → Val × Flags))),
    ∀ v b a d n p x k l s c s1 s2 s3 s4 y z w pl u dec lo hi, Runs (e.1 v b a d n p) x k l s → c = s.ctxOf x k l →
      src c a.toNat (s.begun x k l) = .ok (y, s1) → src c b.toNat s1 = .ok (z, s2) →
      (if e.2.1 then src c d.toNat s2 = .ok (w, s3) else w = 0 ∧ s3 = s2) → dst c d.toNat 1 s3 = .ok (pl, s4) → u = s4.thread k l →
      dec = (fun (q : Word) j => decodeIn u.daz (fmtH v) (natBits q.toNat (16 * j) 16)) →
      lo = u.rounded (fmtH v) (e.2.2 (u.rm == 3) (dec w 0) (dec y 0) (dec z 0)) →
      hi = u.drawn.rounded (fmtH v) (e.2.2 (u.rm == 3) (dec w 1) (dec y 1) (dec z 1)) →
      ∃ t, exec (e.1 v b a d n p) s = .next t ∧
        t = s4.doneFloat c (fun q => q.drawn.drawn.giveW pl (BitVec.ofNat 32 (lo.1 + 65536 * hi.1))) (lo.2 ||| hi.2) ∧
        ((lo.2 ||| hi.2) &&& u.trapen = 0 → OnlyFloat pl 1 k l (lo.2 ||| hi.2) s t)) ∧
  (∀ v b a d n p x k l s c s1 s2 s3 y z pl u lo hi, Runs (.pack v b a d n p) x k l s → c = s.ctxOf x k l →
      src c a.toNat (s.begun x k l) = .ok (y, s1) → src c b.toNat s1 = .ok (z, s2) → dst c d.toNat 1 s2 = .ok (pl, s3) →
      u = s3.thread k l →
      lo = u.rounded (fmtH v) (decodeIn u.daz fmtFP32 y.toNat, flagIf (decodeIn u.daz fmtFP32 y.toNat).isSig flagNV) →
      hi = u.drawn.rounded (fmtH v) (decodeIn u.daz fmtFP32 z.toNat, flagIf (decodeIn u.daz fmtFP32 z.toNat).isSig flagNV) →
      ∃ t, exec (.pack v b a d n p) s = .next t ∧
        t = s3.doneFloat c (fun q => q.drawn.drawn.giveW pl (BitVec.ofNat 32 (lo.1 + 65536 * hi.1))) (lo.2 ||| hi.2) ∧
        ((lo.2 ||| hi.2) &&& u.trapen = 0 → OnlyFloat pl 1 k l (lo.2 ||| hi.2) s t)) ∧
  (∀ i h a d n p x k l s c s1 s2 y pl u f z, Runs (.unpk i h a d n p) x k l s → c = s.ctxOf x k l →
      src c a.toNat (s.begun x k l) = .ok (y, s1) → dst c d.toNat 1 s1 = .ok (pl, s2) → u = s2.thread k l →
      f = (if h.toNat < 2 then fmtFP16 else fmtBF16) → z = decodeIn u.daz f (natBits y.toNat (16 * (h.toNat % 2)) 16) →
      ∃ t, exec (.unpk i h a d n p) s = .next t ∧
        t = s2.doneFloat c (fun q => q.giveW pl (BitVec.ofNat 32 (exactBits fmtFP32 z))) (flagIf z.isSig flagNV) ∧
        (flagIf z.isSig flagNV &&& u.trapen = 0 → OnlyFloat pl 1 k l (flagIf z.isSig flagNV) s t))

/-- FCMP writes the lane's predicate bit with equality, order, order or equality, or unordered, a NaN making the first three false, and
raises NV as R232 says; FABS and FNEG clear and invert the sign bit alone; FCLASS sets the one bit of the operand's class; FSQRT.f64
rounds the root. Each answers a next state for a lane that executes it and whose operands can be read and written. (R232, R233, R226) -/
def Obligations.FloatCompareSignClass : Prop :=
  (∀ v b a j q n p x k l s c s1 s2 y z u f g r, Runs (.fcmp v b a j q n p) x k l s → c = s.ctxOf x k l →
      srcV c v a.toNat (s.begun x k l) = .ok (y, s1) → srcV c v b.toNat s1 = .ok (z, s2) → u = s2.thread k l →
      f = decodeIn u.daz (fmtV v) y.toNat → g = decodeIn u.daz (fmtV v) z.toNat →
      r = (if f.isNan || g.isNan then (if j = 3 then true else false)
        else if j = 0 then f.eq g else if j = 1 then f.lt g else if j = 2 then f.lt g || f.eq g else false) →
      ∃ t w, exec (.fcmp v b a j q n p) s = .next t ∧ OnlyPredicate q k l r s w ∧
        t = w.doneFloat c (fun h => h) (if j = 0 ∨ j = 3 then flagIf (f.isSig || g.isSig) flagNV else flagIf (f.isNan || g.isNan) flagNV)) ∧
  (∀ e ∈ ([(Instr.fabsF32, fun y => y &&& 0x7FFFFFFF#32), (Instr.fnegF32, fun y => y ^^^ 0x80000000#32),
      (Instr.fclassF32, fun y => BitVec.ofNat 32 (classMask fmtFP32 y.toNat))] :
      List ((BitVec 4 → BitVec 6 → BitVec 6 → BitVec 1 → BitVec 4 → Instr) × (Word → Word))),
    ∀ i a d n p x k l s c s1 s2 y pl, Runs (e.1 i a d n p) x k l s → c = s.ctxOf x k l →
      src c a.toNat (s.begun x k l) = .ok (y, s1) → dst c d.toNat 1 s1 = .ok (pl, s2) →
      ∃ t, exec (e.1 i a d n p) s = .next t ∧ t = s2.doneFloat c (fun u => u.giveW pl (e.2 y)) 0 ∧ OnlyFloat pl 1 k l 0 s t) ∧
  (∀ e ∈ ([(Instr.fabsF64, fun y => y &&& 0x7FFFFFFFFFFFFFFF#64), (Instr.fnegF64, fun y => y ^^^ 0x8000000000000000#64)] :
      List ((BitVec 4 → BitVec 6 → BitVec 6 → BitVec 1 → BitVec 4 → Instr) × (DWord → DWord))),
    ∀ i a d n p x k l s c s1 s2 y pl, Runs (e.1 i a d n p) x k l s → c = s.ctxOf x k l →
      srcD c a.toNat (s.begun x k l) = .ok (y, s1) → dst c d.toNat 2 s1 = .ok (pl, s2) →
      ∃ t, exec (e.1 i a d n p) s = .next t ∧ t = s2.doneFloat c (fun u => u.giveD pl (e.2 y)) 0 ∧ OnlyFloat pl 2 k l 0 s t) ∧
  (∀ i a d n p x k l s c s1 s2 y pl, Runs (.fclassF64 i a d n p) x k l s → c = s.ctxOf x k l →
      srcD c a.toNat (s.begun x k l) = .ok (y, s1) → dst c d.toNat 1 s1 = .ok (pl, s2) →
      ∃ t, exec (.fclassF64 i a d n p) s = .next t ∧
        t = s2.doneLane c (fun u => u.giveW pl (BitVec.ofNat 32 (classMask fmtFP64 y.toNat))) ∧ OnlyLane k l s t) ∧
  (∀ i a d n p x k l s c s1 s2 y pl u o, Runs (.fsqrtF64 i a d n p) x k l s → c = s.ctxOf x k l →
      srcD c a.toNat (s.begun x k l) = .ok (y, s1) → dst c d.toNat 2 s1 = .ok (pl, s2) → u = s2.thread k l →
      o = u.rounded fmtFP64 (decodeIn u.daz fmtFP64 y.toNat).sqrt →
      ∃ t, exec (.fsqrtF64 i a d n p) s = .next t ∧ t = s2.doneFloat c (fun w => w.drawn.giveD pl (BitVec.ofNat 64 o.1)) o.2 ∧
        (o.2 &&& u.trapen = 0 → OnlyFloat pl 2 k l o.2 s t)) ∧
  (∀ b : Word, (∃ j < 10, classMask fmtFP32 b.toNat = 2 ^ j) ∧
    (classMask fmtFP32 b.toNat = 2 ^ 4 ↔ b = 0) ∧ (classMask fmtFP32 b.toNat = 2 ^ 3 ↔ b = 0x80000000#32) ∧
    (classMask fmtFP32 b.toNat = 2 ^ 7 ↔ b = 0x7F800000#32) ∧ (classMask fmtFP32 b.toNat = 1 ↔ b = 0xFF800000#32))

/-- FRCP, FRSQ, FEXP2, FLOG2, FSIN, FCOS and FTANH, issued to a lane that executes them and whose operands can be read and written, answer
the next state with the special-function unit's value of their operand, flushed under FTZ, and its flags; FSQRT.f32 gives the root rounded
once under the thread's mode; where no enabled flag is raised nothing else changes. A result that the spec leaves open within its error is
a free value of Config. (R235, R227, R225) -/
def Obligations.SpecialFunctionResults : Prop :=
  (∀ e ∈ ([(Instr.frcp, 0), (Instr.frsq, 1), (Instr.fexp2, 3), (Instr.flog2, 4), (Instr.fsin, 5), (Instr.fcos, 6), (Instr.ftanh, 7)] :
      List ((BitVec 4 → BitVec 6 → BitVec 6 → BitVec 1 → BitVec 4 → Instr) × Nat)),
    ∀ i a d n p x k l s c s1 s2 y pl u o, Runs (e.1 i a d n p) x k l s → c = s.ctxOf x k l →
      src c a.toNat (s.begun x k l) = .ok (y, s1) → dst c d.toNat 1 s1 = .ok (pl, s2) → u = s2.thread k l →
      o = flush u.ftz fmtFP32 (sfu e.2 y (decodeIn u.daz fmtFP32 y.toNat)) →
      ∃ t, exec (e.1 i a d n p) s = .next t ∧ t = s2.doneFloat c (fun w => w.giveW pl (BitVec.ofNat 32 o.1)) o.2 ∧
        (o.2 &&& u.trapen = 0 → OnlyFloat pl 1 k l o.2 s t)) ∧
  (∀ i a d n p x k l s c s1 s2 y pl u o, Runs (.fsqrtF32 i a d n p) x k l s → c = s.ctxOf x k l →
      src c a.toNat (s.begun x k l) = .ok (y, s1) → dst c d.toNat 1 s1 = .ok (pl, s2) → u = s2.thread k l →
      o = u.rounded fmtFP32 (decodeIn u.daz fmtFP32 y.toNat).sqrt →
      ∃ t, exec (.fsqrtF32 i a d n p) s = .next t ∧ t = s2.doneFloat c (fun w => w.drawn.giveW pl (BitVec.ofNat 32 o.1)) o.2 ∧
        (o.2 &&& u.trapen = 0 → OnlyFloat pl 1 k l o.2 s t))

/-- For +0, -0, +infinity, -infinity, a NaN and a finite value below -0, FRCP, FRSQ, FEXP2, FLOG2, FSIN, FCOS and FTANH of the unit give
the encodings and flags of R236's table, whatever the free values of Config are. (R236, R227) -/
def Obligations.SpecialFunctionEdges : Prop :=
  (∀ y, sfu 0 y (.fin false 0 1 0) = (0x7F800000, flagDZ) ∧ sfu 0 y (.fin true 0 1 0) = (0xFF800000, flagDZ) ∧
    sfu 0 y (.inf false) = (0, 0) ∧ sfu 0 y (.inf true) = (0x80000000, 0) ∧
    sfu 1 y (.fin false 0 1 0) = (0x7F800000, flagDZ) ∧ sfu 1 y (.fin true 0 1 0) = (0xFF800000, flagDZ) ∧
    sfu 1 y (.inf false) = (0, 0) ∧ sfu 1 y (.inf true) = (0x7FC00000, flagNV) ∧
    sfu 3 y (.fin false 0 1 0) = (0x3F800000, 0) ∧ sfu 3 y (.fin true 0 1 0) = (0x3F800000, 0) ∧
    sfu 3 y (.inf false) = (0x7F800000, 0) ∧ sfu 3 y (.inf true) = (0, 0) ∧
    sfu 4 y (.fin false 0 1 0) = (0xFF800000, flagDZ) ∧ sfu 4 y (.fin true 0 1 0) = (0xFF800000, flagDZ) ∧
    sfu 4 y (.inf false) = (0x7F800000, 0) ∧ sfu 4 y (.inf true) = (0x7FC00000, flagNV) ∧
    sfu 5 y (.fin false 0 1 0) = (0, 0) ∧ sfu 5 y (.fin true 0 1 0) = (0x80000000, 0) ∧ sfu 5 y (.inf false) = (0x7FC00000, flagNV) ∧
    sfu 6 y (.fin false 0 1 0) = (0x3F800000, 0) ∧ sfu 6 y (.fin true 0 1 0) = (0x3F800000, 0) ∧ sfu 6 y (.inf true) = (0x7FC00000, flagNV) ∧
    sfu 7 y (.fin false 0 1 0) = (0, 0) ∧ sfu 7 y (.fin true 0 1 0) = (0x80000000, 0) ∧
    sfu 7 y (.inf false) = (0x3F800000, 0) ∧ sfu 7 y (.inf true) = (0xBF800000, 0)) ∧
  (∀ op y b, (sfu op y (.nan b)).1 = 0x7FC00000) ∧
  (∀ y n d e, n ≠ 0 → sfu 1 y (.fin true n d e) = (0x7FC00000, flagNV) ∧ sfu 4 y (.fin true n d e) = (0x7FC00000, flagNV))

/-- FSCALE gives a times 2^n, and CVTF and CVTI the operand read in the source format in the target format: rounded under the thread's
mode where the target is narrower or the other kind, and exactly, with no draw, where CVTF widens and for CVTI.f64.i32. Each answers a
next state for a lane that executes it and whose operands can be read and written; where no enabled flag is raised nothing else changes.
(R234, R237, R238, R145, R176) -/
def Obligations.ScalingAndConversionResults : Prop :=
  (∀ v b a d n p x k l s c s1 s2 s3 y z pl u o, Runs (.fscale v b a d n p) x k l s → c = s.ctxOf x k l →
      srcV c v a.toNat (s.begun x k l) = .ok (y, s1) → src c b.toNat s1 = .ok (z, s2) → dstV c v d.toNat s2 = .ok (pl, s3) →
      u = s3.thread k l →
      o = u.rounded (fmtV v) ((decodeIn u.daz (fmtV v) y.toNat).scale (max (-5000) (min 5000 z.toInt)),
        flagIf (decodeIn u.daz (fmtV v) y.toNat).isSig flagNV) →
      ∃ t, exec (.fscale v b a d n p) s = .next t ∧ t = s3.doneFloat c (fun w => w.drawn.giveV v pl (BitVec.ofNat 64 o.1)) o.2 ∧
        (o.2 &&& u.trapen = 0 → OnlyFloat pl (if v = 0 then 1 else 2) k l o.2 s t)) ∧
  (∀ e ∈ ([(0, fmtFP64, fmtFP32, 1, 0), (1, fmtFP32, fmtFP64, 0, 1), (2, fmtFP16, fmtFP32, 0, 0), (3, fmtFP32, fmtFP16, 0, 0),
      (4, fmtBF16, fmtFP32, 0, 0), (5, fmtFP32, fmtBF16, 0, 0), (6, fmtFP19, fmtFP32, 0, 0), (7, fmtFP32, fmtFP19, 0, 0)] :
      List (BitVec 3 × Fmt × Fmt × BitVec 1 × BitVec 1)),
    ∀ i a d n p x k l s c s1 s2 y pl u z o, Runs (.cvtf i e.1 a d n p) x k l s → c = s.ctxOf x k l →
      srcV c e.2.2.2.2 a.toNat (s.begun x k l) = .ok (y, s1) → dstV c e.2.2.2.1 d.toNat s1 = .ok (pl, s2) → u = s2.thread k l →
      z = decodeIn u.daz e.2.2.1 (ofContainer e.2.2.1 y.toNat) →
      o = (if e.2.1.bits < e.2.2.1.bits then u.rounded e.2.1 (z, flagIf z.isSig flagNV) else (exactBits e.2.1 z, flagIf z.isSig flagNV)) →
      ∃ t, exec (.cvtf i e.1 a d n p) s = .next t ∧
        t = s2.doneFloat c (fun w => (if e.2.1.bits < e.2.2.1.bits then w.drawn else w).giveV e.2.2.2.1 pl
          (BitVec.ofNat 64 (toContainer e.2.1 o.1))) o.2 ∧
        (o.2 &&& u.trapen = 0 → OnlyFloat pl (if e.2.2.2.1 = 0 then 1 else 2) k l o.2 s t)) ∧
  (∀ e ∈ ([(0, fmtFP32, .int 32 true 0, 0, 0), (1, fmtFP32, .int 32 false 0, 0, 0), (2, .int 32 true 0, fmtFP32, 0, 0),
      (3, .int 32 false 0, fmtFP32, 0, 0), (4, fmtFP64, .int 32 true 0, 1, 0), (5, .int 32 true 0, fmtFP64, 0, 1),
      (6, fmtFP64, .int 64 true 0, 1, 1), (7, .int 64 true 0, fmtFP64, 1, 1)] : List (BitVec 3 × Fmt × Fmt × BitVec 1 × BitVec 1)),
    ∀ i a d n p x k l s c s1 s2 y pl u z o, Runs (.cvti i e.1 a d n p) x k l s → c = s.ctxOf x k l →
      srcV c e.2.2.2.2 a.toNat (s.begun x k l) = .ok (y, s1) → dstV c e.2.2.2.1 d.toNat s1 = .ok (pl, s2) → u = s2.thread k l →
      z = decodeIn u.daz e.2.2.1 y.toNat → o = (if e.1 = 4 then (exactBits e.2.1 z, 0) else u.rounded e.2.1 (z, 0)) →
      ∃ t, exec (.cvti i e.1 a d n p) s = .next t ∧
        t = s2.doneFloat c (fun w => (if e.1 = 4 then w else w.drawn).giveV e.2.2.2.1 pl (BitVec.ofNat 64 o.1)) o.2 ∧
        (o.2 &&& u.trapen = 0 → OnlyFloat pl (if e.2.2.2.1 = 0 then 1 else 2) k l o.2 s t))

/-- A control word is valid exactly as R240 says. QNT reads its operand, divides by the block scale under .mx, compands it where CE asks,
and rounds it under its mode into the named slot of the destination's old value, pushing the whole register; DQNT widens the slot's
element, companded back and scaled, rounded to FP32 under nearest-even; MXSC gives the scale code of its operand's magnitude, 0 for zero
and 0xFF with NV for infinity and NaN. A control word that is not valid leaves QNT's destination, pushes its old value and raises NV, and
gives DQNT's the canonical NaN with NV. Each answers the next state stated for a lane that executes it and whose operands can be read and
written; where no enabled flag is raised nothing else changes. (R240, R241, R242, R243) -/
def Obligations.NarrowFormatResults : Prop :=
  (∀ z : Word, controlOk z = true ↔
    (5 ≤ natBits z.toNat 0 4 ∧ natBits z.toNat 0 4 ≤ 12 ∧ natBits z.toNat 4 3 ≠ 5 ∧ natBits z.toNat 4 3 ≠ 6 ∧
      natBits z.toNat 16 3 < (if natBits z.toNat 0 4 = 9 ∨ natBits z.toNat 0 4 = 11 then 8 else 4) ∧
      natBits z.toNat 7 1 = 0 ∧ natBits z.toNat 12 4 = 0 ∧ natBits z.toNat 19 5 = 0)) ∧
  (∀ v b a d n p x k l s c s1 s2 s3 s4 y z w pl u j f mode x0 x1 x2 q g, Runs (.qnt v b a d n p) x k l s → c = s.ctxOf x k l →
      src c a.toNat (s.begun x k l) = .ok (y, s1) → src c b.toNat s1 = .ok (z, s2) → src c d.toNat s2 = .ok (w, s3) →
      dst c d.toNat 1 s3 = .ok (pl, s4) → u = s4.thread k l → j = z.toNat → f = elementFmt (v == 1) (natBits j 0 4) →
      mode = (if natBits j 4 3 = 7 then u.rm else natBits j 4 3) → x0 = decodeIn u.daz fmtFP32 y.toNat →
      x1 = (if v = 0 then x0 else if natBits j 24 8 = 255 then .nan false else x0.scale (127 - (natBits j 24 8 : Int))) →
      x2 = (if natBits j 11 1 = 1 then compand (s4.launch (s4.group c.group).launch).compand (natBits j 8 3) false f x1 else x1) →
      q = roundFmt f mode (if mode = 4 then seedDraw (stepSeed u.seed) else 0) x2 → g = (flagIf x0.isSig flagNV ||| q.2) →
      (controlOk z = false → ∃ t, exec (.qnt v b a d n p) s = .next t ∧ t = s4.doneFloat c (fun h => h.push w) flagNV ∧
        (flagNV &&& u.trapen = 0 → OnlyFloat pl 0 k l flagNV s t)) ∧
      (controlOk z = true → ∃ t, exec (.qnt v b a d n p) s = .next t ∧
        t = s4.doneFloat c (fun h => { h.giveW pl (BitVec.ofNat 32 (setSlot w.toNat (slotWidth (natBits j 0 4)) (natBits j 16 3) q.1)) with
          seed := if mode = 4 then stepSeed h.seed else h.seed }) g ∧
        (g &&& u.trapen = 0 → OnlyFloat pl 1 k l g s t))) ∧
  (∀ v b a d n p x k l s c s1 s2 s3 y z pl u j f x0 m x1 x2 q g, Runs (.dqnt v b a d n p) x k l s → c = s.ctxOf x k l →
      src c a.toNat (s.begun x k l) = .ok (y, s1) → src c b.toNat s1 = .ok (z, s2) → dst c d.toNat 1 s2 = .ok (pl, s3) →
      u = s3.thread k l → j = z.toNat → f = elementFmt (v == 1) (natBits j 0 4) →
      x0 = decodeFmt f (natBits y.toNat (slotWidth (natBits j 0 4) * natBits j 16 3) (slotWidth (natBits j 0 4))) →
      m = roundFmt fmtBF16 0 0 (compand (s3.launch (s3.group c.group).launch).compand (natBits j 8 3) true f x0) →
      x1 = (if natBits j 11 1 = 1 ∧ natBits j 0 4 ≠ 12 then (decodeFmt fmtBF16 m.1, m.2) else (x0, 0)) →
      x2 = (if v = 0 then x1.1 else if natBits j 24 8 = 255 then .nan false else x1.1.scale ((natBits j 24 8 : Int) - 127)) →
      q = flush u.ftz fmtFP32 (roundFmt fmtFP32 0 0 x2) → g = (flagIf x0.isSig flagNV ||| x1.2 ||| q.2) →
      (controlOk z = false → ∃ t, exec (.dqnt v b a d n p) s = .next t ∧ t = s3.doneFloat c (fun h => h.giveW pl 0x7FC00000#32) flagNV ∧
        (flagNV &&& u.trapen = 0 → OnlyFloat pl 1 k l flagNV s t)) ∧
      (controlOk z = true → ∃ t, exec (.dqnt v b a d n p) s = .next t ∧ t = s3.doneFloat c (fun h => h.giveW pl (BitVec.ofNat 32 q.1)) g ∧
        (g &&& u.trapen = 0 → OnlyFloat pl 1 k l g s t))) ∧
  (∀ i h a d n p x k l s c s1 s2 y pl u o, Runs (.mxsc i h a d n p) x k l s → c = s.ctxOf x k l →
      src c a.toNat (s.begun x k l) = .ok (y, s1) → dst c d.toNat 1 s1 = .ok (pl, s2) → u = s2.thread k l →
      o = (match decodeIn u.daz fmtFP32 y.toNat with
        | .fin _ m q j => (if m = 0 then 0 else scaleCode (5 + h.toNat) m q j, (0 : Flags))
        | _ => (0xFF, flagNV)) →
      ∃ t, exec (.mxsc i h a d n p) s = .next t ∧ t = s2.doneFloat c (fun w => w.giveW pl (BitVec.ofNat 32 o.1)) o.2 ∧
        (o.2 &&& u.trapen = 0 → OnlyFloat pl 1 k l o.2 s t))

/-- Issued to a lane that executes them and whose operands can be read and written, BR and CALL go to pc + 2 sext(disp19), JMP, RET and
CALLR to their 64-bit operand, and NOP to the next instruction; CALL pushes pc + 4 as two entries, CALLR also writes it to its
destination, BR, JMP, RET and NOP push nothing; beside the lane nothing changes, and in it nothing but that. (R203, R204, R205, R206,
R182) -/
def Obligations.TransferResults : Prop :=
  (∀ d n p x k l s c, Runs (.br d n p) x k l s → c = s.ctxOf x k l →
      ∃ t, exec (.br d n p) s = .next t ∧
        t = (s.begun x k l).doneLane c (fun u => { u with pc := x.pc + BitVec.ofInt 64 (2 * d.toInt) }) ∧
        OnlyLane k l s t ∧ OnlyResult .queue 1 (s.thread k l) (t.thread k l) ∧ (t.thread k l).q = (s.thread k l).q) ∧
  (∀ d n p x k l s c, Runs (.call d n p) x k l s → c = s.ctxOf x k l →
      ∃ t, exec (.call d n p) s = .next t ∧
        t = (s.begun x k l).doneLane c (fun u => { u.push2 (x.pc + 4) with pc := x.pc + BitVec.ofInt 64 (2 * d.toInt) }) ∧
        OnlyLane k l s t ∧ OnlyResult .queue 1 (s.thread k l) (t.thread k l)) ∧
  (∀ e ∈ ([Instr.jmp, Instr.ret] : List (BitVec 4 → BitVec 6 → BitVec 1 → BitVec 4 → Instr)),
    ∀ i a n p x k l s c s1 y, Runs (e i a n p) x k l s → c = s.ctxOf x k l → srcD c a.toNat (s.begun x k l) = .ok (y, s1) →
      ∃ t, exec (e i a n p) s = .next t ∧ t = s1.doneLane c (fun u => { u with pc := y }) ∧
        OnlyLane k l s t ∧ OnlyResult .queue 1 (s.thread k l) (t.thread k l) ∧ (t.thread k l).q = (s.thread k l).q) ∧
  (∀ i a d n p x k l s c s1 s2 y pl, Runs (.callr i a d n p) x k l s → c = s.ctxOf x k l →
      srcD c a.toNat (s.begun x k l) = .ok (y, s1) → dst c d.toNat 2 s1 = .ok (pl, s2) →
      ∃ t, exec (.callr i a d n p) s = .next t ∧ t = s2.doneLane c (fun u => { u.giveD pl (x.pc + 4) with pc := y }) ∧
        OnlyLane k l s t ∧ OnlyResult pl 2 (s.thread k l) (t.thread k l)) ∧
  (∀ n p x k l s c, Runs (.nop n p) x k l s → c = s.ctxOf x k l →
      ∃ t, exec (.nop n p) s = .next t ∧ t = (s.begun x k l).afterInstr c ∧ (t.thread k l).pc = c.next ∧
        OnlyLane k l s t ∧ OnlyResult .queue 1 (s.thread k l) (t.thread k l) ∧ (t.thread k l).q = (s.thread k l).q)

/-- For every instruction that each lane of its issue runs by itself, issued to a lane that is no helper and whose guard fails, the next
state has the lane at the next instruction with one entry pushed per result, the value of its named destination or zero, and nothing else
changed: no register, array word, index register, flag or byte of memory. A memory instruction for which the table has room leaves the
table as its lanes' outstanding accesses ask. (R49, R189) -/
def Obligations.IdleLanePushes : Prop :=
  ∀ i x k l s, LaneWise i → Issued i x k l s → HasEntry i x s → executes (shapeOf i) s k l = false →
    ∃ t, exec i s = .next (t.ended i x) ∧
      t = ((s.past (s.ctxOf x k l)).modThread k l fun u => u.idlePush (shapeOf i).push).afterInstr (s.ctxOf x k l) ∧
      OnlyLane k l s t ∧ OnlyResult .queue 1 (s.thread k l) (t.thread k l) ∧ (s.thread k l).sameFlags (t.thread k l) ∧
      (t.thread k l).x = (s.thread k l).x ∧ (t.thread k l).pc = (s.ctxOf x k l).next ∧
      (∀ d, (shapeOf i).push = .word d → (t.thread k l).q =
        ((if d < 32 then (s.thread k l).reg d else 0) :: (s.thread k l).q).take 16) ∧
      (∀ d, (shapeOf i).push = .pair d → (t.thread k l).q =
        ((if d < 32 then (s.thread k l).reg (d + 1) else 0) :: (((if d < 32 then (s.thread k l).reg d else 0) :: (s.thread k l).q).take 16)).take 16) ∧
      ((shapeOf i).push = .none → (t.thread k l).q = (s.thread k l).q)

/-- Issued to an executing lane that is no helper: ENROL and STRIKE set and clear the lane's bit of mask j; PARK parks the lane if its bit
is set and lets it go on otherwise; EXIT clears its bit in every mask and retires it; then the crew checks its masks, the group its
barriers and whether it retires (State.settleCrews). A helper lane goes on without effect. REFORM marks the pipe's bundle as ended. Each
answers a next state. (R206, R207, R208, R35, R36) -/
def Obligations.ConvergenceEffects : Prop :=
  (∀ e ∈ ([(Instr.enrol, fun m l => m ||| bitOf l), (Instr.strike, fun m l => m &&& ~~~bitOf l)] :
      List ((BitVec 2 → BitVec 1 → BitVec 4 → Instr) × (Word → Nat → Word))),
    ∀ j n p x k l s c, Runs (e.1 j n p) x k l s → c = s.ctxOf x k l →
      exec (e.1 j n p) s = .next (((if c.helper then s.begun x k l else (s.begun x k l).modCrew k fun w =>
        { w with j := mset w.j j.toNat (e.2 (mget 0 w.j j.toNat) l) }).afterInstr c).settleCrews x)) ∧
  (∀ j n p x k l s c, Runs (.park j n p) x k l s → c = s.ctxOf x k l →
      exec (.park j n p) s = .next (((if c.helper = false ∧ (mget 0 (s.crew k).j j.toNat).getLsbD l = true
        then (s.begun x k l).modThread k l fun u => { u with st := .parked j } else s.begun x k l).afterInstr c).settleCrews x)) ∧
  (∀ n p x k l s c, Runs (.exit n p) x k l s → c = s.ctxOf x k l →
      exec (.exit n p) s = .next (((if c.helper then s.begun x k l else
        ((s.begun x k l).modCrew k fun w => { w with j := w.j.map fun e => (e.1, e.2 &&& ~~~bitOf l) }).modThread k l
          fun u => { u with st := .exited }).afterInstr c).settleCrews x)) ∧
  (∀ n p x k l s c, Runs (.reform n p) x k l s → c = s.ctxOf x k l →
      ∃ t, exec (.reform n p) s = .next t ∧
        t = ((s.begun x k l).afterInstr c).modCore x.core (fun w => { w with pipes := w.pipes.map fun e =>
          (e.1, if e.1 = x.pipe then { e.2 with reform := true } else e.2) }) ∧ (t.thread k l).pc = c.next)

/-- The check of mask j of a crew: if the mask is not zero and every lane set in it is parked on it, then after it the mask is zero and
each of those lanes runs at the program counter it had; otherwise the state is as before. No byte of memory and no other crew changes.
(R35, R36) -/
def Obligations.RejoinReleases : Prop :=
  ∀ (s : State) (k j : Nat) (m : Word), m = mget 0 (s.crew k).j j →
    ((m ≠ 0 ∧ ∀ l < 32, m.getLsbD l = true → ∃ q, (s.thread k l).st = .parked q ∧ q.toNat = j) →
      mget 0 ((s.checkMask k j).crew k).j j = 0 ∧
      ∀ l < 32, ((s.checkMask k j).thread k l) = (if m.getLsbD l then { s.thread k l with st := .run } else s.thread k l)) ∧
    (¬ (m ≠ 0 ∧ ∀ l < 32, m.getLsbD l = true → ∃ q, (s.thread k l).st = .parked q ∧ q.toNat = j) → s.checkMask k j = s) ∧
    (s.checkMask k j).mem = s.mem ∧ ∀ q, q ≠ k → mfind (s.checkMask k j).crews q = mfind s.crews q

/-- SAFEPT issued to an executing lane sets its safe-point counter to 0 and pushes nothing; a lane that is no helper and whose group has a
pre-emption pending stops there with the live mask of the named k register, the count and the flag; nothing else changes. Every other
instruction that runs in a lane adds one to the counter up to 2,048 before it computes. (R209, R40, R42, R189) -/
def Obligations.SafePointEffects : Prop :=
  (∀ q f m n p x k l s c, Runs (.safept q f m n p) x k l s → c = s.ctxOf x k l →
      ∃ t, exec (.safept q f m n p) s = .next t ∧
        t = (s.begun x k l).doneLane c (fun u =>
          if c.helper = false ∧ (s.group c.group).preempt ≠ .none
          then { u with safeCount := 0, st := .safept (mget 0 (s.crew k).k q.toNat) m.toNat (f == 1) } else { u with safeCount := 0 }) ∧
        OnlyLane k l s t ∧ OnlyResult .queue 1 (s.thread k l) (t.thread k l) ∧ (t.thread k l).q = (s.thread k l).q ∧
        (t.thread k l).safeCount = 0) ∧
  (∀ (x : Issue) (k l : Nat) (s : State), ((s.begun x k l).thread k l).safeCount = min ((s.thread k l).safeCount + 1) 2048)

/-- In a state whose lane is not in its handler and whose launch names a handler, taking a trap of a cause that is delivered (any but
those that terminate the launch or kill the group) leaves TCAUSE with INH 1, the detail, the sub-code and the code, TPC and TADDR as
given, the program counter at the handler and the lane running; every byte of memory, every other thread and every other register of the
lane is unchanged. (R394, R395, R396) -/
def Obligations.TrapsEnterTheHandler : Prop :=
  ∀ (s : State) (c : Ctx) (code sub detail : Nat) (tpc addr handler : DWord), (disposition code sub = .user ∨ disposition code sub = .held) →
    handler = BitVec.ofNat 64 ((s.launch (s.group c.group).launch).f 40 8) → handler ≠ 0 → (s.thread c.crew c.lane).tcause.getLsbD 31 = false →
    code < 256 → sub < 256 → detail < 64 →
    ∃ u, s.takeTrap c code sub detail tpc addr = s.modThread c.crew c.lane (fun _ => u) ∧
      u = { s.thread c.crew c.lane with tcause := u.tcause, tpc := tpc, taddr := addr, pc := handler, st := .run } ∧
      u.tcause.getLsbD 31 = true ∧ natBits u.tcause.toNat 22 9 = 0 ∧ natBits u.tcause.toNat 16 6 = detail ∧
      natBits u.tcause.toNat 8 8 = sub ∧ natBits u.tcause.toNat 0 8 = code ∧
      OnlyLane c.crew c.lane s (s.takeTrap c code sub detail tpc addr)

/-- Causes 0x13, 0x16, 0x1A, 0x0D with SUB 2, 0x10 with SUB 6 and 0x14 but for SUB 6 terminate the launch with 0x100 + the code; 0x1B with
SUB 2 kills the group; every other cause, in a lane that is in its handler, terminates the launch with 0x11A, and with no handler named
terminates it with 0x100 + the code, but for BRK, which holds the gang with TCAUSE written and INH 0. (R394, R400, R412, R442, R448) -/
def Obligations.TrapDispositions : Prop :=
  (∀ (s : State) (c : Ctx) (code sub detail : Nat) (tpc addr : DWord), (code = 0x13 ∨ code = 0x16 ∨ code = 0x1A ∨ (code = 0x0D ∧ sub = 2) ∨ (code = 0x10 ∧ sub = 6) ∨ (code = 0x14 ∧ sub ≠ 6)) →
      s.takeTrap c code sub detail tpc addr = s.terminate (s.group c.group).launch (0x100 + code)) ∧
  (∀ (s : State) (c : Ctx) (detail : Nat) (tpc addr : DWord), s.takeTrap c 0x1B 2 detail tpc addr = s.killGroup c.group 0x11B) ∧
  (∀ (s : State) (c : Ctx) (code sub detail : Nat) (tpc addr : DWord), ¬ (code = 0x13 ∨ code = 0x16 ∨ code = 0x1A ∨ (code = 0x0D ∧ sub = 2) ∨ (code = 0x10 ∧ sub = 6) ∨ (code = 0x14 ∧ sub ≠ 6)) →
      ¬ (code = 0x1B ∧ sub = 2) →
      ((s.thread c.crew c.lane).tcause.getLsbD 31 = true → s.takeTrap c code sub detail tpc addr = s.terminate (s.group c.group).launch 0x11A) ∧
      ((s.thread c.crew c.lane).tcause.getLsbD 31 = false → BitVec.ofNat 64 ((s.launch (s.group c.group).launch).f 40 8) = 0 → code ≠ 0x18 →
        s.takeTrap c code sub detail tpc addr = s.terminate (s.group c.group).launch (0x100 + code)) ∧
      ((s.thread c.crew c.lane).tcause.getLsbD 31 = false → BitVec.ofNat 64 ((s.launch (s.group c.group).launch).f 40 8) = 0 → code = 0x18 →
        s.takeTrap c code sub detail tpc addr = s.holdAtBreak c detail))

/-- TRAP n and BRK n in an executing lane that is no helper take cause 0x17 or 0x18 with DETAIL n, TPC the next instruction and TADDR 0;
TRET in a handler clears INH and goes to TPC, leaving the rest of TCAUSE, TPC and TADDR; with INH 0 TRET and tret.next take cause 0x01 SUB
10; tret.next returns past the instruction at TPC whose first parcel can be fetched, with the pushes of a failed guard, as TRET does where
it cannot be, and waits for a page that must be filled first; and a helper lane goes on. Each answers a next state. (R394, R399, R393,
R402) -/
def Obligations.TrapInstructionEffects : Prop :=
  (∀ e ∈ ([(Instr.trap, 0x17), (Instr.brk, 0x18)] : List ((BitVec 6 → BitVec 1 → BitVec 4 → Instr) × Nat)),
    ∀ m n p x k l s c, Runs (e.1 m n p) x k l s → c = s.ctxOf x k l →
      exec (e.1 m n p) s = .next ((if c.helper then s.begun x k l else (s.begun x k l).takeTrap c e.2 0 m.toNat c.next 0).afterInstr c)) ∧
  (∀ n p x k l s c, Runs (.tret n p) x k l s → c = s.ctxOf x k l → c.helper = false → (s.thread k l).tcause.getLsbD 31 = true →
      ∃ t, exec (.tret n p) s = .next t ∧ OnlyLane k l s t ∧ (t.thread k l).pc = (s.thread k l).tpc ∧
        (t.thread k l).tcause = ((s.thread k l).tcause &&& 0x7FFFFFFF#32) ∧ (t.thread k l).tpc = (s.thread k l).tpc ∧
        (t.thread k l).taddr = (s.thread k l).taddr ∧ (t.thread k l).q = (s.thread k l).q ∧ (t.thread k l).v = (s.thread k l).v) ∧
  (∀ e ∈ ([Instr.tret, Instr.tretNext] : List (BitVec 1 → BitVec 4 → Instr)), ∀ n p x k l s c, Runs (e n p) x k l s → c = s.ctxOf x k l →
      (c.helper = false → (s.thread k l).tcause.getLsbD 31 = false →
        exec (e n p) s = .next ((s.takeTrap c 1 10 0 x.pc (BitVec.ofNat 64 x.word)).afterInstr c)) ∧
      (c.helper = true → exec (e n p) s = .next ((s.begun x k l).afterInstr c))) ∧
  (∀ n p x k l s c v w, Runs (.tretNext n p) x k l s → c = s.ctxOf x k l → c.helper = false → (s.thread k l).tcause.getLsbD 31 = true →
      v = { ctx := (s.launch (s.group c.group).launch).ctx, group := c.group, firmware := slotOf c.crew == 63 } →
      w = s.begun x k l →
      (∀ s1 lo, w.fetchParcel v (s.thread k l).tpc = .ok (s1, lo) →
        ∃ q, exec (.tretNext n p) s = .next (s1.doneLane c (fun u =>
            { u.leaveHandler.idlePush q with pc := (s1.thread k l).tpc + (if lo % 2 = 0 then 2 else 4) })) ∧
          (∀ r y m i, s1.fetchInstr v (s.thread k l).tpc = .ok (r, y, m, .ok i) →
            ((shapeOf i).refusal c.n = none → q = (shapeOf i).push) ∧ ((shapeOf i).refusal c.n ≠ none → q = .none)) ∧
          ((∀ r y m i, s1.fetchInstr v (s.thread k l).tpc ≠ .ok (r, y, m, .ok i)) → q = .none)) ∧
      (∀ pte e level, w.fetchParcel v (s.thread k l).tpc = .error (.fill pte e level) →
        exec (.tretNext n p) s = .next (s.stopLane c (.fill pte e level))) ∧
      (∀ e, w.fetchParcel v (s.thread k l).tpc = .error e → (∀ pte f level, e ≠ .fill pte f level) →
        exec (.tretNext n p) s = .next (w.doneLane c Thread.leaveHandler))) ∧
  (∀ u : Thread, u.leaveHandler = { u with tcause := u.tcause &&& 0x7FFFFFFF#32, pc := u.tpc })

/-- For every instruction of lanes issued to a lane that is no helper, if some operand field breaks its constraint then the lane takes
cause 0x02 with the field's SUB and the specifier as DETAIL, TPC the instruction's address and TADDR its word; its guard is not looked at;
and a helper lane moves past it and pushes nothing. A named register at or above the launch's register count is such a specifier, as
source and as destination. (R222, R400, R402, R393, R392) -/
def Obligations.IllegalOperandsTrap : Prop :=
  (∀ i x k l s c sub detail, LaneWise i → s.unit = .lanes x → x.parts = [{ crew := k, lanes := bitOf l }] → l < 32 → (mfind s.crews k).isSome = true →
      c = s.ctxOf x k l → HasEntry i x s → (shapeOf i).refusal c.n = some (2, sub, detail) →
      (c.helper = false → exec i s = .next (((s.takeTrap c 2 sub detail x.pc (BitVec.ofNat 64 x.word)).afterInstr c).ended i x)) ∧
      (c.helper = true → exec i s = .next ((s.past c).ended i x))) ∧
  (∀ n f, f < 32 → n ≤ f → Need.ok n .srcW f = false ∧ Need.ok n .dstW f = false ∧ Need.ok n .srcD f = false ∧ Need.ok n .dstD f = false) ∧
  (∀ n f, 33 ≤ f → f < 48 → Need.ok n .dstW f = false ∧ Need.ok n .dstD f = false) ∧
  (∀ n f, 56 ≤ f → f < 64 → Need.ok n .dstW f = false ∧ Need.ok n .dstD f = false) ∧
  (∀ n, Need.ok n .srcD 47 = false) ∧
  (∀ v w j q b a d n p (i : BitVec 7) (h : BitVec 4) (e : BitVec 3) (g : BitVec 19), LaneWise (.add v b a d n p) ∧ LaneWise (.addi i a d n p) ∧
    LaneWise (.ceq b a w q n p) ∧ LaneWise (.fadd v b a d n p) ∧ LaneWise (.fcmp v b a j q n p) ∧ LaneWise (.br g n p) ∧
    LaneWise (.qxH h a d n p) ∧ LaneWise (.perm b a d n p) ∧ LaneWise (.vote h j a d n p) ∧ LaneWise (.ldW h e b d n p) ∧
    LaneWise (.stW h e b d n p) ∧ LaneWise (.xset h a e n p) ∧ LaneWise (.capsetA h a e e n p) ∧ LaneWise (.trap a n p))

/-- Reading a specifier in a lane gives: below 32 the named register, where it is not held (a held one waits); 32 to 47 the queue entry
q(f-31); 48 to 55 the word of the array that the index register names, which is stepped; 56 to 63 the crew's k register. A 64-bit operand
reads the pair, the high word from the higher register, entry or word (from q(n) for the queue). A destination is the named register, the
queue alone at 32, or the array word. Nothing else of the state changes, and an array use outside its window or the array takes the index
fault. (R48, R51, R54, R55, R58, R172, R173) -/
def Obligations.OperandReads : Prop :=
  (∀ c f s t u, f < 32 → u = s.thread c.crew c.lane →
      ((u.held f = false ∨ c.helper = true) → src c f s = .ok (u.reg f, s) ∧ dst c f 1 s = .ok (.named f, s)) ∧
      (u.held f = true → c.helper = false → src c f s = .error (.wait { kind := .heldReg, key := f }) ∧
        dst c f 1 s = .error (.wait { kind := .heldReg, key := f })) ∧
      ((u.held f = false ∧ u.held (f + 1) = false) → srcD c f s = .ok (u.reg (f + 1) ++ u.reg f, s) ∧ dst c f 2 s = .ok (.named f, s)) ∧
      (∀ y, src c f s = .ok (y, t) → t = s)) ∧
  (∀ c f s u, 32 ≤ f → f < 48 → u = s.thread c.crew c.lane →
      src c f s = .ok (u.q.getD (f - 32) 0, s) ∧ srcD c f s = .ok (u.q.getD (f - 32) 0 ++ u.q.getD (f - 31) 0, s)) ∧
  (∀ c s words, dst c 32 words s = .ok (.queue, s)) ∧
  (∀ c f s, 56 ≤ f → src c f s = .ok (mget 0 (s.crew c.crew).k (f - 56), s) ∧
      srcD c f s = .ok (mget 0 (s.crew c.crew).k (f - 55) ++ mget 0 (s.crew c.crew).k (f - 56), s)) ∧
  (∀ c f s u w cur, 48 ≤ f → f < 56 → u = s.thread c.crew c.lane → w = u.xreg (f - 48) → w.mode ≠ 3 →
      cur = (if w.mode = 1 then (w.cursor + BitVec.ofInt 12 w.step.toInt).toNat else w.cursor.toNat) →
      (cur < w.bound.toNat → w.base.toNat + cur < c.a → ∃ next,
        src c f s = .ok (u.word (w.base.toNat + cur),
          s.modThread c.crew c.lane fun u => { u with x := mset u.x (f - 48) { w with cursor := next } }) ∧
        (w.mode = 0 ∨ w.mode = 1 → next = w.cursor + BitVec.ofInt 12 w.step.toInt) ∧
        (w.mode = 2 → next = BitVec.ofInt 12 ((w.cursor.toNat + w.step.toInt) % w.bound.toNat))) ∧
      (w.bound.toNat ≤ cur ∨ c.a ≤ w.base.toNat + cur →
        src c f s = .error (.trap 0x0E (f - 48) 0 (BitVec.ofNat 64 (w.base.toNat + cur)) false)))

/-- Issued to one executing lane whose operands can be read and written, QX.h, QX.v, QX.d and QBC give it the value of the named lane of
its quad, PERM that of the lane its own b names, SHFL that of the lane its mode names or its own outside 0 to 31, BLUT the table bytes its
nibbles select; the lane supplies the value its own use reads and every other lane its current value. Each answers the next state with the
result pushed and at the destination, and nothing else changes. (R212, R213, R214, R215, R220) -/
def Obligations.ExchangeResults : Prop :=
  (∀ e ∈ ([(Instr.qxH, 1), (Instr.qxV, 2), (Instr.qxD, 3)] : List ((BitVec 4 → BitVec 6 → BitVec 6 → BitVec 1 → BitVec 4 → Instr) × Nat)),
    ∀ i a d n p x k l s c s1 s2 y pl m, Runs (e.1 i a d n p) x k l s → c = s.ctxOf x k l →
      src c a.toNat (s.begun x k l) = .ok (y, s1) → dst c d.toNat 1 s1 = .ok (pl, s2) → m = 4 * (l / 4) + (l % 4 ^^^ e.2) →
      ∃ t, exec (e.1 i a d n p) s = .next t ∧ t = s2.doneLane c (fun u => u.giveW pl (s.currentValue (s.ctxOf x k m) a.toNat)) ∧
        OnlyLane k l s t ∧ OnlyResult pl 1 (s.thread k l) (t.thread k l)) ∧
  (∀ i j a d n p x k l s c s1 s2 y pl m, Runs (.qbc i j a d n p) x k l s → c = s.ctxOf x k l →
      src c a.toNat (s.begun x k l) = .ok (y, s1) → dst c d.toNat 1 s1 = .ok (pl, s2) → m = 4 * (l / 4) + j.toNat →
      ∃ t, exec (.qbc i j a d n p) s = .next t ∧
        t = s2.doneLane c (fun u => u.giveW pl (if m = l then y else s.currentValue (s.ctxOf x k m) a.toNat)) ∧
        OnlyLane k l s t ∧ OnlyResult pl 1 (s.thread k l) (t.thread k l)) ∧
  (∀ b a d n p x k l s c s1 s2 s3 y z pl m, Runs (.perm b a d n p) x k l s → c = s.ctxOf x k l →
      src c a.toNat (s.begun x k l) = .ok (y, s1) → src c b.toNat s1 = .ok (z, s2) → dst c d.toNat 1 s2 = .ok (pl, s3) → m = z.toNat % 32 →
      ∃ t, exec (.perm b a d n p) s = .next t ∧
        t = s3.doneLane c (fun u => u.giveW pl (if m = l then y else s.currentValue (s.ctxOf x k m) a.toNat)) ∧
        OnlyLane k l s t ∧ OnlyResult pl 1 (s.thread k l) (t.thread k l)) ∧
  (∀ e ∈ ([(0, fun l j => if j ≤ l then some (l - j) else none), (1, fun l j => if l + j < 32 then some (l + j) else none),
      (2, fun l j => some (l ^^^ j)), (3, fun l j => some ((l + 32 - j) % 32))] : List (BitVec 2 × (Nat → Nat → Option Nat))),
    ∀ j a d n p x k l s c s1 s2 y pl, Runs (.shfl e.1 j a d n p) x k l s → c = s.ctxOf x k l →
      src c a.toNat (s.begun x k l) = .ok (y, s1) → dst c d.toNat 1 s1 = .ok (pl, s2) →
      ∃ t, exec (.shfl e.1 j a d n p) s = .next t ∧
        t = s2.doneLane c (fun u => u.giveW pl (match e.2 l j.toNat with
          | some m => if m = l then y else s.currentValue (s.ctxOf x k m) a.toNat
          | none => y)) ∧
        OnlyLane k l s t ∧ OnlyResult pl 1 (s.thread k l) (t.thread k l)) ∧
  (∀ v g a d n p x k l s c s1 s2 y pl, Runs (.blut v g a d n p) x k l s → c = s.ctxOf x k l →
      src c a.toNat (s.begun x k l) = .ok (y, s1) → dst c d.toNat 1 s1 = .ok (pl, s2) →
      ∃ t r, exec (.blut v g a d n p) s = .next t ∧ t = s2.doneLane c (fun u => u.giveW pl r) ∧
        (∀ j < 4, ∀ i, i = natBits y.toNat (8 * j + (if v = 1 then 4 else 0)) 4 →
          natBits r.toNat (8 * j) 8 = natBits (mget 0 (s.crew k).k (4 * g.toNat + i / 4)).toNat (8 * (i % 4)) 8) ∧
        OnlyLane k l s t ∧ OnlyResult pl 1 (s.thread k l) (t.thread k l))

/-- Issued to any lanes of one crew whose source and destination are named registers that no lane waits for, these instructions complete:
every lane that is a helper or whose guard passes has, at its destination and on the queue, the outcome of R216 to R219 over the values of
the active lanes (not helpers, guard passed; for CSCAN those up to the lane), CREDF and CSCAN.FADD their flags in FPSTAT, and a lane whose
guard fails only its push; over no value the outcomes are those of the rules. Issued to one lane alone with operands of any kind they
complete with the outcome over that lane, or over none for a helper, and trap for enabled flags. (R213, R216, R217, R218, R219) -/
def Obligations.CrewReductionResults : Prop :=
  (∀ e ∈ ([(0, fun vals => if vals.any (fun z => z.2.lo != 0) then 1 else 0), (1, fun vals => if vals.all (fun z => z.2.lo != 0) then 1 else 0),
      (2, fun vals => vals.foldl (fun m z => if z.2.lo = 0 then m else m ||| bitOf z.1) 0),
      (3, fun vals => BitVec.ofNat 32 (vals.countP fun z => z.2.lo != 0))] : List (BitVec 2 × (List (Nat × DWord) → Word))),
    (∀ i a d n p x k m s y, IssuedAll (.vote i e.1 a d n p) x k m s → Named k m a.toNat d.toNat 1 s →
      y = (e.2 (activeRegs (.vote i e.1 a d n p) k m a.toNat 1 s)).setWidth 64 →
      ∃ t, exec (.vote i e.1 a d n p) s = .next t ∧ LanesMove x k m (fun l u =>
        if executes (shapeOf (.vote i e.1 a d n p)) s k l then u.resulted d.toNat 1 y 0 else u.push (u.reg d.toNat)) s t) ∧
    (∀ i a d n p x k l s c s1 s2 y pl, Runs (.vote i e.1 a d n p) x k l s → c = s.ctxOf x k l →
      src c a.toNat (s.begun x k l) = .ok (y, s1) → dst c d.toNat 1 s1 = .ok (pl, s2) →
      ∃ t, exec (.vote i e.1 a d n p) s = .next t ∧
        t = s2.doneFloat c (fun u => u.giveW pl (e.2 (if c.helper then [] else [(l, y.setWidth 64)]))) 0 ∧ OnlyFloat pl 1 k l 0 s t)) ∧
  (∀ i u a d n p x k m s vals, IssuedAll (.cred i u a d n p) x k m s → Named k m a.toNat d.toNat 1 s →
      vals = (activeRegs (.cred i u a d n p) k m a.toNat 1 s).map (fun z => z.2.lo) →
      ∃ t, ∃ y : Word, exec (.cred i u a d n p) s = .next t ∧ LanesMove x k m (fun l w =>
        if executes (shapeOf (.cred i u a d n p)) s k l then w.resulted d.toNat 1 (y.setWidth 64) 0 else w.push (w.reg d.toNat)) s t ∧
        (u = 0 → y.toNat = (vals.map BitVec.toNat).sum % 2 ^ 32) ∧
        (u = 1 → if vals = [] then y = 0x7FFFFFFF#32 else y ∈ vals ∧ ∀ z ∈ vals, y.toInt ≤ z.toInt) ∧
        (u = 2 → if vals = [] then y = 0x80000000#32 else y ∈ vals ∧ ∀ z ∈ vals, z.toInt ≤ y.toInt) ∧
        (u = 3 → if vals = [] then y = 0xFFFFFFFF#32 else y ∈ vals ∧ ∀ z ∈ vals, y.toNat ≤ z.toNat) ∧
        (u = 4 → if vals = [] then y = 0 else y ∈ vals ∧ ∀ z ∈ vals, z.toNat ≤ y.toNat) ∧
        (u = 5 → ∀ b < 32, y.getLsbD b = vals.all fun z => z.getLsbD b) ∧ (u = 6 → ∀ b < 32, y.getLsbD b = vals.any fun z => z.getLsbD b) ∧
        (u = 7 → ∀ b < 32, y.getLsbD b = decide (vals.countP (fun z => z.getLsbD b) % 2 = 1))) ∧
  (∀ i u a d n p x k l s c s1 s2 y pl, Runs (.cred i u a d n p) x k l s → c = s.ctxOf x k l →
      src c a.toNat (s.begun x k l) = .ok (y, s1) → dst c d.toNat 1 s1 = .ok (pl, s2) →
      ∃ t, exec (.cred i u a d n p) s = .next t ∧
        t = s2.doneFloat c (fun w => w.giveW pl (if c.helper then [0, 0x7FFFFFFF#32, 0x80000000#32, 0xFFFFFFFF#32, 0, 0xFFFFFFFF#32, 0, 0].getD u.toNat 0
          else y)) 0 ∧ OnlyFloat pl 1 k l 0 s t) ∧
  (∀ i u a d n p x k m s j o, IssuedAll (.credf i u a d n p) x k m s → j = (if u.toNat < 3 then 1 else 2) → Named k m a.toNat d.toNat j s → u.toNat < 6 →
      o = combineF (if j = 1 then fmtFP32 else fmtFP64) (u.toNat % 3) ((activeRegs (.credf i u a d n p) k m a.toNat j s).map fun z =>
        decodeFmt (if j = 1 then fmtFP32 else fmtFP64) z.2.toNat) →
      ∃ t, exec (.credf i u a d n p) s = .next t ∧ LanesMove x k m (fun l w =>
        if executes (shapeOf (.credf i u a d n p)) s k l then w.resulted d.toNat j (BitVec.ofNat 64 o.1) o.2
        else if j = 1 then w.push (w.reg d.toNat) else (w.push (w.reg d.toNat)).push (w.reg (d.toNat + 1))) s t) ∧
  (∀ i u a d n p x k l s c s1 s2 y pl w o, Runs (.credf i u a d n p) x k l s → c = s.ctxOf x k l → u.toNat < 6 →
      w = (if u.toNat < 3 then (0 : BitVec 1) else 1) →
      srcV c w a.toNat (s.begun x k l) = .ok (y, s1) → dstV c w d.toNat s1 = .ok (pl, s2) →
      o = combineF (fmtV w) (u.toNat % 3) (if c.helper then [] else [decodeFmt (fmtV w) y.toNat]) →
      ∃ t, exec (.credf i u a d n p) s = .next t ∧ t = s2.doneFloat c (fun q => q.giveV w pl (BitVec.ofNat 64 o.1)) o.2 ∧
        (o.2 &&& (s2.thread k l).trapen = 0 → OnlyFloat pl (if w = 0 then 1 else 2) k l o.2 s t)) ∧
  (∀ i u a d n p x k m s vals o, IssuedAll (.cscan i u a d n p) x k m s → Named k m a.toNat d.toNat 1 s →
      vals = (fun (l : Nat) => (activeRegs (.cscan i u a d n p) k m a.toNat 1 s).filter fun z => if u = 1 then decide (z.1 < l) else decide (z.1 ≤ l)) →
      o = (fun (l : Nat) => if u = 7 then combineF fmtFP32 0 ((vals l).map fun z => decodeFmt fmtFP32 z.2.toNat)
        else ((combine ([0, 0, 1, 2, 6, 5, 7].getD u.toNat 0) (vals l)).toNat, 0)) →
      ∃ t, exec (.cscan i u a d n p) s = .next t ∧ LanesMove x k m (fun l w =>
        if executes (shapeOf (.cscan i u a d n p)) s k l then w.resulted d.toNat 1 (BitVec.ofNat 64 (o l).1) (o l).2 else w.push (w.reg d.toNat)) s t) ∧
  (∀ i u a d n p x k l s c s1 s2 y pl o, Runs (.cscan i u a d n p) x k l s → c = s.ctxOf x k l →
      src c a.toNat (s.begun x k l) = .ok (y, s1) → dst c d.toNat 1 s1 = .ok (pl, s2) →
      o = (if u = 7 then combineF fmtFP32 0 (if c.helper then [] else [decodeFmt fmtFP32 y.toNat])
        else ((combine ([0, 0, 1, 2, 6, 5, 7].getD u.toNat 0) (if c.helper ∨ u = 1 then [] else [(l, y.setWidth 64)])).toNat, 0)) →
      ∃ t, exec (.cscan i u a d n p) s = .next t ∧ t = s2.doneFloat c (fun q => q.giveW pl (BitVec.ofNat 32 o.1)) o.2 ∧
        (o.2 &&& (s2.thread k l).trapen = 0 → OnlyFloat pl 1 k l o.2 s t)) ∧
  (∀ vals : List (Nat × DWord), (combine 0 vals).toNat = (vals.map fun e => e.2.lo.toNat).sum % 2 ^ 32) ∧
  (∀ f : Fmt, (combineF f 0 []).2 = 0 ∧ combineF f 1 [] = ((roundFmt f 0 0 (.inf false)).1, 0) ∧ combineF f 2 [] = ((roundFmt f 0 0 (.inf true)).1, 0)) ∧
  combine 1 [] = 0x7FFFFFFF#32 ∧ combine 2 [] = 0x80000000#32 ∧ combine 3 [] = 0xFFFFFFFF#32 ∧ combine 4 [] = 0 ∧
  combine 5 [] = 0xFFFFFFFF#32 ∧ combine 6 [] = 0 ∧ combine 7 [] = 0

/-- For any set of lanes of one crew that are issued CRED.ADD or QX.h with named registers as source and destination, none of them held,
none exited or a helper and every guard passing: the next state gives each issued lane, at its destination and in q1, the sum modulo 2^32
of the issued lanes' sources, or the source of the lane beside it in its quad; no other lane's registers or queue and no byte of memory
change. (R213, R217, R189, R212) -/
def Obligations.WholeCrewSum : Prop :=
  ∀ (s : State) (x : Issue) (k : Nat) (m : Word) (i : BitVec 4) (a d : BitVec 6) (n : BitVec 1) (p : BitVec 4),
    s.unit = .lanes x → x.parts = [{ crew := k, lanes := m }] → (mfind s.crews k).isSome = true →
    a.toNat < 32 → d.toNat < 32 → a.toNat < (s.ctxOf x k 0).n → d.toNat < (s.ctxOf x k 0).n → (s.ctxOf x k 0).n ≤ 32 →
    (∀ l < 32, m.getLsbD l = true → (s.thread k l).gone = false ∧ (s.thread k l).hold = 0 ∧
      (p = 15 ∨ (mget 0 (s.crew k).p p.toNat).getLsbD l = (n == 0))) →
    (∃ t, exec (.cred i 0 a d n p) s = .next t ∧ (∀ b, memGet t.mem b = memGet s.mem b) ∧
      (∀ l < 32, m.getLsbD l = true → ((t.thread k l).reg d.toNat).toNat =
        (((List.range 32).filter fun j => m.getLsbD j).map fun j => ((s.thread k j).reg a.toNat).toNat).sum % 2 ^ 32 ∧
        (t.thread k l).q = ((t.thread k l).reg d.toNat :: (s.thread k l).q).take 16) ∧
      (∀ l < 32, m.getLsbD l = false → (t.thread k l).v = (s.thread k l).v ∧ (t.thread k l).q = (s.thread k l).q)) ∧
    (∃ t, exec (.qxH i a d n p) s = .next t ∧ (∀ b, memGet t.mem b = memGet s.mem b) ∧
      (∀ l < 32, m.getLsbD l = true → (t.thread k l).reg d.toNat = (s.thread k (4 * (l / 4) + (l % 4 ^^^ 1))).reg a.toNat ∧
        (t.thread k l).q = ((t.thread k l).reg d.toNat :: (s.thread k l).q).take 16) ∧
      (∀ l < 32, m.getLsbD l = false → (t.thread k l).v = (s.thread k l).v ∧ (t.thread k l).q = (s.thread k l).q))

/-- Issued to any lanes of one crew of which at least one is no helper and passes its guard, KADD and KSUB of both widths, KADDI, KMOVI
and KMOVH write their result once to the named k register or pair, and KFIRST the source of the lowest such lane; KLD the value and KST
the word or pair of one access in that lane's context, performed from the largest program time of the crew's lanes that have not exited;
every lane of the issue moves on, and nothing else of a thread, no other k register and no byte of memory but KST's changes. With no such
lane they complete and only the lanes move. Where the slice beside the core lacks the line, KLD and KST leave the lane waiting for it.
(R179, R58, R191, R106, R122) -/
def Obligations.CrewUniformResults : Prop :=
  (∀ e ∈ ([(Instr.kadd, fun y z => y + z, fun y z => y + z), (Instr.ksub, fun y z => y - z, fun y z => y - z)] :
      List ((BitVec 1 → BitVec 5 → BitVec 5 → BitVec 5 → BitVec 1 → BitVec 4 → Instr) × (Word → Word → Word) × (DWord → DWord → DWord))),
    ∀ w b a d n p x k m l s r y, IssuedAll (e.1 w b a d n p) x k m s → Leads (e.1 w b a d n p) k m s l → r = (fun j => mget 0 (s.crew k).k j) →
      y = e.2.2 (r (a.toNat + 1) ++ r a.toNat) (r (b.toNat + 1) ++ r b.toNat) →
      ∃ t, exec (e.1 w b a d n p) s = .next t ∧ LanesMove x k m (fun _ u => u) (s.modCrew k fun q =>
        q.giveK w d.toNat (if w = 0 then (e.2.1 (r a.toNat) (r b.toNat)).setWidth 64 else y)) t) ∧
  (∀ e ∈ ([(Instr.kmovi, fun i _ => BitVec.ofInt 32 i.toInt), (Instr.kmovh, fun i y => BitVec.ofNat 32 (y.toNat * 2 ^ 13 + i.toNat))] :
      List ((BitVec 13 → BitVec 5 → BitVec 1 → BitVec 4 → Instr) × (BitVec 13 → Word → Word))),
    ∀ i d n p x k m l s, IssuedAll (e.1 i d n p) x k m s → Leads (e.1 i d n p) k m s l →
      ∃ t, exec (e.1 i d n p) s = .next t ∧ LanesMove x k m (fun _ u => u)
        (s.modCrew k fun q => { q with k := mset q.k d.toNat (e.2 i (mget 0 (s.crew k).k d.toNat)) }) t) ∧
  (∀ i a d n p x k m l s, IssuedAll (.kaddi i a d n p) x k m s → Leads (.kaddi i a d n p) k m s l →
      ∃ t, exec (.kaddi i a d n p) s = .next t ∧ LanesMove x k m (fun _ u => u)
        (s.modCrew k fun q => { q with k := mset q.k d.toNat (mget 0 (s.crew k).k a.toNat + BitVec.ofInt 32 i.toInt) }) t) ∧
  (∀ i a d n p x k m l s s1 y, IssuedAll (.kfirst i a d n p) x k m s → Leads (.kfirst i a d n p) k m s l → src (s.ctxOf x k l) a.toNat s = .ok (y, s1) →
      ∃ t, exec (.kfirst i a d n p) s = .next t ∧ LanesMove x k m (fun _ u => u) (s1.modCrew k fun q => { q with k := mset q.k d.toNat y }) t) ∧
  (∀ w (b a d : BitVec 5) (i : BitVec 7) (h : BitVec 13) (o : BitVec 4) (g e : BitVec 3) (f : BitVec 6) n p,
    ∀ j ∈ [Instr.kadd w b a d n p, .ksub w b a d n p, .kaddi i a d n p, .kmovi h d n p, .kmovh h d n p, .kfirst o f d n p, .kld o g e w d n p, .kst o g e w d n p],
    ∀ x k m s, IssuedAll j x k m s → HasEntry j x s → (∀ l < 32, Active j k m s l = false) →
      ∃ t, exec j s = .next (t.ended j x) ∧ LanesMove x k m (fun _ u => u) s t) ∧
  (∀ i b o w d n p x k m l s c top va s0 s1 pa kd bytes y, IssuedAll (.kld i b o w d n p) x k m s → HasEntry (.kld i b o w d n p) x s →
      Leads (.kld i b o w d n p) k m s l → c = s.ctxOf x k l →
      top = (orderedLanes s k).foldl (fun q j => max q (s.thread k j).time) 0 → s0 = (s.modThread k l fun u => { u with time := top }) →
      va = mget 0 (s.crew k).k (2 * b.toNat + 1) ++ mget 0 (s.crew k).k (2 * b.toNat) + BitVec.ofInt 64 (mget 0 (s.crew k).k o.toNat).toInt →
      access c va (.load (if w = 0 then 4 else 8)) s0 = .ok ((pa, kd), s1) → ReadsNow c (if w = 0 then 4 else 8) pa kd bytes s1 →
      y = BitVec.ofNat 64 (leNat bytes) →
      ∃ t u : State, exec (.kld i b o w d n p) s = .next (t.ended (.kld i b o w d n p) x) ∧ (∀ a, memGet u.mem a = memGet s1.mem a) ∧ u.crews = s1.crews ∧
        top ≤ (u.thread k l).time ∧ (∀ j ∈ orderedLanes s k, u.thread k j = { s.thread k j with time := (u.thread k l).time }) ∧
        LanesMove x k m (fun _ v => v) (u.modCrew k fun q => q.giveK w d.toNat y) t) ∧
  (∀ i b o w d n p x k m l s c top va s0 s1 pa kd y, IssuedAll (.kst i b o w d n p) x k m s → HasEntry (.kst i b o w d n p) x s →
      Leads (.kst i b o w d n p) k m s l → c = s.ctxOf x k l → c.got = [] →
      top = (orderedLanes s k).foldl (fun q j => max q (s.thread k j).time) 0 → s0 = (s.modThread k l fun u => { u with time := top }) →
      va = mget 0 (s.crew k).k (2 * b.toNat + 1) ++ mget 0 (s.crew k).k (2 * b.toNat) + BitVec.ofInt 64 (mget 0 (s.crew k).k o.toNat).toInt →
      y = (if w = 0 then (mget 0 (s.crew k).k d.toNat).toNat else (mget 0 (s.crew k).k (d.toNat + 1) ++ mget 0 (s.crew k).k d.toNat).toNat) →
      access c va (.store (if w = 0 then 4 else 8)) s0 = .ok ((pa, kd), s1) →
      (StoresNow c (if w = 0 then 4 else 8) pa kd s1 → ∃ t u v : State, exec (.kst i b o w d n p) s = .next (t.ended (.kst i b o w d n p) x) ∧
        StoresAt k l pa (if w = 0 then 4 else 8) y s1 u ∧ v = (orderedLanes s k).foldl (fun q j =>
          q.modThread k j fun h => { h with time := (u.thread k l).time }) u ∧ LanesMove x k m (fun _ h => h) v t) ∧
      (∀ cp, OwnsLine c pa kd cp s1 → ∃ t u v : State, exec (.kst i b o w d n p) s = .next (t.ended (.kst i b o w d n p) x) ∧
        CopyWritten k l c.core (pa / 128) cp (cp.line.write (pa % 128) (leBytes y (if w = 0 then 4 else 8))) s1 u ∧
        v = (orderedLanes s k).foldl (fun q j => q.modThread k j fun h => { h with time := (u.thread k l).time }) u ∧
        LanesMove x k m (fun _ h => h) v t) ∧
      (Misses c pa kd s1 → exec (.kst i b o w d n p) s = .next ((s.missLane c (pa / 128)
        (c.asks 1 top (.store (pa % 128) (if w = 0 then 4 else 8) y)) va true).ended (.kst i b o w d n p) x))) ∧
  (∀ i b o w d n p x k m l s c top va s0 s1 pa kd, IssuedAll (.kld i b o w d n p) x k m s → HasEntry (.kld i b o w d n p) x s →
      Leads (.kld i b o w d n p) k m s l → c = s.ctxOf x k l →
      top = (orderedLanes s k).foldl (fun q j => max q (s.thread k j).time) 0 → s0 = (s.modThread k l fun u => { u with time := top }) →
      va = mget 0 (s.crew k).k (2 * b.toNat + 1) ++ mget 0 (s.crew k).k (2 * b.toNat) + BitVec.ofInt 64 (mget 0 (s.crew k).k o.toNat).toInt →
      access c va (.load (if w = 0 then 4 else 8)) s0 = .ok ((pa, kd), s1) → Misses c pa kd s1 →
      exec (.kld i b o w d n p) s = .next ((s.missLane c (pa / 128)
        (c.asks 0 top (.load (pa % 128) (if w = 0 then 4 else 8))) va true).ended (.kld i b o w d n p) x))

/-- LD.b, LD.h, LD.w, LD.d and LD.q, issued to a lane that executes them, whose operands can be read and written and whose address
resolves, complete where the load is performed at once (in staging, outside the order, or at the copy of the line in the slice beside the
core): the destination and the queue hold the bytes zero-extended, the lowest address lowest, and beside the lane's program time and the
order's times nothing changes. Where the slice lacks the line it asks the home for it and the lane waits. An address with one of bits
63:56, and one that is not a multiple of the size, take causes 0x05 and 0x06. (R246, R248, R251, R254, R2, R83, R108, R122, R124, R132) -/
def Obligations.LoadResults : Prop :=
  (∀ e ∈ ([(Instr.ldB, 1), (Instr.ldH, 2), (Instr.ldW, 4)] :
      List ((BitVec 4 → BitVec 3 → BitVec 6 → BitVec 6 → BitVec 1 → BitVec 4 → Instr) × Nat)),
    ∀ i b o d n p x k l s c s1 s2 s3 va pl pa kd, Enters (e.1 i b o d n p) x k l s → c = s.ctxOf x k l →
      basePair c b o (s.begun x k l) = .ok (va, s1) → dst c d.toNat 1 s1 = .ok (pl, s2) → access c va (.load e.2) s2 = .ok ((pa, kd), s3) →
      (∀ bytes, ReadsNow c e.2 pa kd bytes s3 → ∃ t, exec (e.1 i b o d n p) s =
          .next ((t.doneLane c fun u => u.giveW pl (BitVec.ofNat 32 (leNat bytes))).keepEntries x x.parts) ∧ OnlyRead k l s3 t) ∧
      (Misses c pa kd s3 → exec (e.1 i b o d n p) s = .next ((s.missLane c (pa / 128)
        (c.asks 0 (s.thread k l).time (.load (pa % 128) e.2)) va false).keepEntries x x.parts))) ∧
  (∀ i b o d n p x k l s c s1 s2 s3 va pl pa kd, Enters (.ldD i b o d n p) x k l s → c = s.ctxOf x k l →
      basePair c b o (s.begun x k l) = .ok (va, s1) → dst c d.toNat 2 s1 = .ok (pl, s2) → access c va (.load 8) s2 = .ok ((pa, kd), s3) →
      (∀ bytes, ReadsNow c 8 pa kd bytes s3 → ∃ t, exec (.ldD i b o d n p) s =
          .next ((t.doneLane c fun u => u.giveD pl (BitVec.ofNat 64 (leNat bytes))).keepEntries x x.parts) ∧ OnlyRead k l s3 t) ∧
      (Misses c pa kd s3 → exec (.ldD i b o d n p) s = .next ((s.missLane c (pa / 128)
        (c.asks 0 (s.thread k l).time (.load (pa % 128) 8)) va false).keepEntries x x.parts))) ∧
  (∀ i b o d n p x k l s c s1 s3 va pa kd, Enters (.ldQ i b o d n p) x k l s → c = s.ctxOf x k l →
      basePair c b o (s.begun x k l) = .ok (va, s1) → (s1.thread k l).hold = 0 → access c va (.load 16) s1 = .ok ((pa, kd), s3) →
      (∀ bytes, ReadsNow c 16 pa kd bytes s3 → ∃ t, exec (.ldQ i b o d n p) s = .next ((t.doneLane c fun u =>
          let w := fun j => BitVec.ofNat 32 (natBits (leNat bytes) (32 * j) 32)
          let u := (((u.setReg (4 * d.toNat) (w 0)).setReg (4 * d.toNat + 1) (w 1)).setReg (4 * d.toNat + 2) (w 2)).setReg (4 * d.toNat + 3) (w 3)
          (((u.push (w 0)).push (w 1)).push (w 2)).push (w 3)).keepEntries x x.parts) ∧ OnlyRead k l s3 t) ∧
      (Misses c pa kd s3 → exec (.ldQ i b o d n p) s = .next ((s.missLane c (pa / 128)
        (c.asks 0 (s.thread k l).time (.load (pa % 128) 16)) va false).keepEntries x x.parts))) ∧
  (∀ b o c s s1 y, src c o.toNat s = .ok (y, s1) → basePair c b o s = .ok (mget 0 (s.crew c.crew).k (2 * b.toNat + 1) ++
      mget 0 (s.crew c.crew).k (2 * b.toNat) + BitVec.ofInt 64 y.toInt, s1)) ∧
  (∀ (s : State) pa n, s.mem.wf = true → (s.read pa n).length = n ∧ ∀ j < n, (s.read pa n)[j]? = some (memGet s.mem (pa + j))) ∧
  (∀ c va n s, va.toNat < 2 ^ 56 → n ∈ [1, 2, 4, 8, 16] → va.toNat % n ≠ 0 →
      loadMem c va n false s = .error (.trap 6 0 0 va false) ∧ (c.got = [] → ∀ y, storeMem c va y n false s = .error (.trap 6 0 0 va false))) ∧
  (∀ c va n s t pa kd bytes, access c va (.load n) s = .ok ((pa, kd), t) → ReadsNow c n pa kd bytes t →
      ∃ u, loadMem c va n false s = .ok (leNat bytes, u) ∧ OnlyRead c.crew c.lane t u) ∧
  (∀ c va n s, 2 ^ 56 ≤ va.toNat →
      loadMem c va n false s = .error (.trap 5 0 0 va false) ∧ (c.got = [] → ∀ y, storeMem c va y n false s = .error (.trap 5 0 0 va false))) ∧
  (∀ e ∈ ([(Instr.ldB, 1), (Instr.ldH, 2), (Instr.ldW, 4)] :
      List ((BitVec 4 → BitVec 3 → BitVec 6 → BitVec 6 → BitVec 1 → BitVec 4 → Instr) × Nat)),
    ∀ i b o d n p x k l s c s1 s2 va pl code, Enters (e.1 i b o d n p) x k l s → c = s.ctxOf x k l → c.helper = false →
      basePair c b o (s.begun x k l) = .ok (va, s1) → dst c d.toNat 1 s1 = .ok (pl, s2) →
      (code = 5 ∧ 2 ^ 56 ≤ va.toNat ∨ code = 6 ∧ va.toNat < 2 ^ 56 ∧ va.toNat % e.2 ≠ 0) →
      exec (e.1 i b o d n p) s = .next (((s.takeTrap c code 0 0 x.pc va).afterInstr c).keepEntries x x.parts))

/-- ST.b, ST.h, ST.w, ST.d and ST.q, issued to an executing lane that is no helper and whose address resolves, complete where the store is
performed at once: in staging, or outside the order, the bytes from the resolved address hold the low bytes of the data, the lowest first,
the tags of the granules touched are clear and every other byte is as before; at the write copy that the slice beside the core holds, the
copy's line has those bytes, is dirty and stands after every operation it has shown. No register, queue entry, predicate or flag changes.
Where the slice holds no copy it asks the home for a write copy and the lane waits. A helper's store does nothing. (R246, R248, R251,
R254, R101, R2, R83, R108, R122, R124, R132) -/
def Obligations.StoreEffects : Prop :=
  (∀ e ∈ ([(Instr.stB, 1), (Instr.stH, 2), (Instr.stW, 4)] :
      List ((BitVec 4 → BitVec 3 → BitVec 6 → BitVec 6 → BitVec 1 → BitVec 4 → Instr) × Nat)),
    ∀ i b o d n p x k l s c s1 s2 va y, Enters (e.1 i b o d n p) x k l s → c = s.ctxOf x k l →
      basePair c b o (s.begun x k l) = .ok (va, s1) → src c d.toNat s1 = .ok (y, s2) →
      (c.helper = true → exec (e.1 i b o d n p) s = .next ((s2.afterInstr c).keepEntries x x.parts)) ∧
      (∀ pa kd s3, c.helper = false → c.got = [] → access c va (.store e.2) s2 = .ok ((pa, kd), s3) →
        (StoresNow c e.2 pa kd s3 → ∃ t, exec (e.1 i b o d n p) s = .next ((t.afterInstr c).keepEntries x x.parts) ∧
          StoresAt k l pa e.2 y.toNat s3 t ∧ (t.thread k l).pc = c.next) ∧
        (∀ cp, OwnsLine c pa kd cp s3 → ∃ t, exec (e.1 i b o d n p) s = .next ((t.afterInstr c).keepEntries x x.parts) ∧
          CopyWritten k l c.core (pa / 128) cp (cp.line.write (pa % 128) (leBytes (y.toNat % 2 ^ (8 * e.2)) e.2)) s3 t ∧ (t.thread k l).pc = c.next) ∧
        (Misses c pa kd s3 → exec (e.1 i b o d n p) s = .next ((s.missLane c (pa / 128) (c.asks 1 (s.thread k l).time (.store (pa % 128) e.2 (y.toNat % 2 ^ (8 * e.2)))) va false).keepEntries x x.parts)))) ∧
  (∀ i b o d n p x k l s c s1 s2 va y, Enters (.stD i b o d n p) x k l s → c = s.ctxOf x k l →
      basePair c b o (s.begun x k l) = .ok (va, s1) → srcD c d.toNat s1 = .ok (y, s2) →
      (c.helper = true → exec (.stD i b o d n p) s = .next ((s2.afterInstr c).keepEntries x x.parts)) ∧
      (∀ pa kd s3, c.helper = false → c.got = [] → access c va (.store 8) s2 = .ok ((pa, kd), s3) →
        (StoresNow c 8 pa kd s3 → ∃ t, exec (.stD i b o d n p) s = .next ((t.afterInstr c).keepEntries x x.parts) ∧
          StoresAt k l pa 8 y.toNat s3 t ∧ (t.thread k l).pc = c.next) ∧
        (∀ cp, OwnsLine c pa kd cp s3 → ∃ t, exec (.stD i b o d n p) s = .next ((t.afterInstr c).keepEntries x x.parts) ∧
          CopyWritten k l c.core (pa / 128) cp (cp.line.write (pa % 128) (leBytes y.toNat 8)) s3 t ∧ (t.thread k l).pc = c.next) ∧
        (Misses c pa kd s3 → exec (.stD i b o d n p) s = .next ((s.missLane c (pa / 128) (c.asks 1 (s.thread k l).time (.store (pa % 128) 8 y.toNat)) va false).keepEntries x x.parts)))) ∧
  (∀ i b o d n p x k l s c s1 va u y, Enters (.stQ i b o d n p) x k l s → c = s.ctxOf x k l →
      basePair c b o (s.begun x k l) = .ok (va, s1) → u = s1.thread k l → u.hold = 0 →
      y = (u.reg (4 * d.toNat)).toNat + 2 ^ 32 * (u.reg (4 * d.toNat + 1)).toNat + 2 ^ 64 * (u.reg (4 * d.toNat + 2)).toNat +
        2 ^ 96 * (u.reg (4 * d.toNat + 3)).toNat →
      (c.helper = true → exec (.stQ i b o d n p) s = .next ((s1.afterInstr c).keepEntries x x.parts)) ∧
      (∀ pa kd s3, c.helper = false → c.got = [] → access c va (.store 16) s1 = .ok ((pa, kd), s3) →
        (StoresNow c 16 pa kd s3 → ∃ t, exec (.stQ i b o d n p) s = .next ((t.afterInstr c).keepEntries x x.parts) ∧
          StoresAt k l pa 16 y s3 t ∧ (t.thread k l).pc = c.next) ∧
        (∀ cp, OwnsLine c pa kd cp s3 → ∃ t, exec (.stQ i b o d n p) s = .next ((t.afterInstr c).keepEntries x x.parts) ∧
          CopyWritten k l c.core (pa / 128) cp (cp.line.write (pa % 128) (leBytes y 16)) s3 t ∧ (t.thread k l).pc = c.next) ∧
        (Misses c pa kd s3 → exec (.stQ i b o d n p) s = .next ((s.missLane c (pa / 128) (c.asks 1 (s.thread k l).time (.store (pa % 128) 16 y)) va false).keepEntries x x.parts)))) ∧
  (∀ (l : Line) off n x, l.data.length = 128 → n ∈ [1, 2, 4, 8, 16] → off % n = 0 → off + n ≤ 128 → l.bad off n = false →
      (l.write off (leBytes x n)).data = l.data.take off ++ leBytes x n ++ l.data.drop (off + n) ∧
      (l.write off (leBytes x n)).tags.contains (off / 16) = false)

/-- Issued to an executing lane that is no helper, at an address that resolves to a staging word that is present, clean and has served no
operation of the cycle: LDF and LDFK of a full word, and WAITV of a word that differs from its data, complete with the word as the result;
LDF leaves the word empty, LDFK and WAITV change no bit; STE of an empty word and STF of any store the word and set its bit, SETE clears
the bit and leaves the word. No other byte and no other bit changes. Where the condition does not hold, LDF, LDFK, STE and WAITV
deschedule the lane with nothing done; a word that has served an operation in the cycle, or whose line is being filled, makes the lane
wait for its slice. WAITV does the same on a coherent word. A helper's loads give zero and its stores do nothing. (R252, R253, R248, R254,
R89, R101, R110, R122, R421) -/
def Obligations.TaggedEffects : Prop :=
  (∀ e ∈ ([(Instr.ldf, WaitKind.ldf), (Instr.ldfk, WaitKind.ldfk)] :
      List ((BitVec 3 → BitVec 1 → BitVec 3 → BitVec 6 → BitVec 6 → BitVec 1 → BitVec 4 → Instr) × WaitKind)),
    ∀ h j b o d n p x k l s c s1 s2 va pl, Enters (e.1 h j b o d n p) x k l s → c = s.ctxOf x k l →
      basePair c b o (s.begun x k l) = .ok (va, s1) → dst c d.toNat 1 s1 = .ok (pl, s2) →
      (c.helper = true → exec (e.1 h j b o d n p) s = .next ((s2.doneLane c fun u => u.giveW pl 0).keepEntries x x.parts)) ∧
      (∀ w, c.helper = false → access c va .tagged s2 = .error (.wait w) → exec (e.1 h j b o d n p) s =
        .next ((s.deschedule k l w).keepEntries x x.parts)) ∧
      (∀ pa kd s3, c.helper = false → access c va .tagged s2 = .ok ((pa, kd), s3) →
        (region pa = .staging → s3.coreOwned pa = true → s3.busyWord pa 4 = true → exec (e.1 h j b o d n p) s =
          .next ((s.deschedule k l { kind := .slice, addr := va, key := pa / 4 }).keepEntries x x.parts)) ∧
        (FindsWord c pa s3 → s3.isFull pa = false → exec (e.1 h j b o d n p) s =
          .next ((s.deschedule k l { kind := e.2, addr := va, key := pa, data := d, off := o, base := b }).keepEntries x x.parts)) ∧
        (FindsWord c pa s3 → s3.isFull pa = true → ∃ t, exec (e.1 h j b o d n p) s =
            .next ((t.doneLane c fun u => u.giveW pl (BitVec.ofNat 32 (s3.peekNat pa 4))).keepEntries x x.parts) ∧
          (e.2 = .ldf → OnlyBit k l pa false s3 t) ∧ (e.2 = .ldfk → OnlyRead k l s3 t ∧ t.full = s3.full)))) ∧
  (∀ h j b o d n p x k l s c s1 s2 s3 va pl y, Enters (.waitv h j b o d n p) x k l s → c = s.ctxOf x k l →
      basePair c b o (s.begun x k l) = .ok (va, s1) → src c d.toNat s1 = .ok (y, s2) → dst c d.toNat 1 s2 = .ok (pl, s3) →
      (c.helper = true → exec (.waitv h j b o d n p) s = .next ((s3.doneLane c fun u => u.giveW pl 0).keepEntries x x.parts)) ∧
      (∀ pa kd s4 z, c.helper = false → access c va .waitv s3 = .ok ((pa, kd), s4) → s4.coreOwned pa = true →
        (region pa ≠ .staging ∧ c.got = [] ∧ s4.peekBad pa 4 = false ∨ FindsWord c pa s4) → z = BitVec.ofNat 32 (s4.peekNat pa 4) →
        (z = y → exec (.waitv h j b o d n p) s =
          .next ((s.deschedule k l { kind := .waitv, addr := va, key := pa, data := d, off := o, base := b, old := y.toNat }).keepEntries x x.parts)) ∧
        (z ≠ y → ∃ t, exec (.waitv h j b o d n p) s = .next ((t.doneLane c fun u => u.giveW pl z).keepEntries x x.parts) ∧
          OnlyRead k l s4 t ∧ t.full = s4.full))) ∧
  (∀ h j b o d n p x k l s c s1 s2 va y, Enters (.ste h j b o d n p) x k l s → c = s.ctxOf x k l →
      basePair c b o (s.begun x k l) = .ok (va, s1) → src c d.toNat s1 = .ok (y, s2) →
      (c.helper = true → exec (.ste h j b o d n p) s = .next ((s2.afterInstr c).keepEntries x x.parts)) ∧
      (∀ pa kd s3, c.helper = false → access c va .tagged s2 = .ok ((pa, kd), s3) → FindsWord c pa s3 →
        (s3.isFull pa = true → exec (.ste h j b o d n p) s =
          .next ((s.deschedule k l { kind := .ste, addr := va, key := pa, data := d, off := o, base := b, old := y.toNat }).keepEntries x x.parts)) ∧
        (s3.isFull pa = false → pa % 4 = 0 → s3.poisonedAt pa 4 = false → ∃ t, exec (.ste h j b o d n p) s =
            .next ((t.afterInstr c).keepEntries x x.parts) ∧ StoresAt k l pa 4 y.toNat s3 t ∧ t.isFull pa = true ∧
          ∀ q, q / 4 ≠ pa / 4 → t.isFull q = s3.isFull q))) ∧
  (∀ h j b o d n p x k l s c s1 s2 va y, Enters (.stf h j b o d n p) x k l s → c = s.ctxOf x k l →
      basePair c b o (s.begun x k l) = .ok (va, s1) → src c d.toNat s1 = .ok (y, s2) →
      (c.helper = true → exec (.stf h j b o d n p) s = .next ((s2.afterInstr c).keepEntries x x.parts)) ∧
      (∀ pa kd s3, c.helper = false → access c va .tagged s2 = .ok ((pa, kd), s3) →
        (s3.busyWord pa 4 = true → exec (.stf h j b o d n p) s =
          .next ((s.deschedule k l { kind := .slice, addr := va, key := pa / 4 }).keepEntries x x.parts)) ∧
        (FindsWord c pa s3 → pa % 4 = 0 → s3.poisonedAt pa 4 = false → ∃ t, exec (.stf h j b o d n p) s =
            .next ((t.afterInstr c).keepEntries x x.parts) ∧ StoresAt k l pa 4 y.toNat s3 t ∧ t.isFull pa = true ∧
          ∀ q, q / 4 ≠ pa / 4 → t.isFull q = s3.isFull q))) ∧
  (∀ h j b o n p x k l s c s1 va, Enters (.sete h j b o n p) x k l s → c = s.ctxOf x k l →
      basePair c b o (s.begun x k l) = .ok (va, s1) →
      (c.helper = true → exec (.sete h j b o n p) s = .next ((s1.afterInstr c).keepEntries x x.parts)) ∧
      (∀ pa kd s2, c.helper = false → access c va .tagged s1 = .ok ((pa, kd), s2) →
        (s2.busyWord pa 4 = true → exec (.sete h j b o n p) s =
          .next ((s.deschedule k l { kind := .slice, addr := va, key := pa / 4 }).keepEntries x x.parts)) ∧
        (FindsWord c pa s2 → ∃ t, exec (.sete h j b o n p) s = .next ((t.afterInstr c).keepEntries x x.parts) ∧ OnlyBit k l pa false s2 t)))

/-- Issued to an executing lane whose operands can be read and written and whose address resolves, every returning ATOM completes where it
is performed at once, in staging or at the write copy that the slice beside the core holds: the old word or doubleword is the result, the
bytes there hold the new value of R256, and every other byte is as before; CAS stores its new value only where the old equals the compare
value; FADD, FMIN and FMAX join their flags and trap for enabled ones. RED stores the new value outside an open window, gives nothing and
ORs its flags into the context's word after it; a float RED.fadd into an open window contributes to it. Where the slice lacks the line it
asks the home, for scope .pod to perform the operation, and the lane waits. A helper's ATOM gives zero and its RED does nothing. The
integer operations have the values of R256, signed and unsigned. (R255, R256, R257, R258, R248, R168, R122, R124, R132, R175) -/
def Obligations.AtomicEffects : Prop :=
  (∀ i o h (w : BitVec 1) (a : BitVec 4) (d : BitVec 6) (n : BitVec 1) (p : BitVec 4),
    (∃ j u, (i = Instr.atomIntW h j u a d n p ∧ o = AtomOp.ofInt u.toNat ∧ w = 0) ∨ (i = .atomIntD h j u a d n p ∧ o = .ofInt u.toNat ∧ w = 1) ∨
      (i = .atomSwap h j w a d n p ∧ o = .swap) ∨ (i = .atomFadd h j w a d n p ∧ o = .fadd) ∨
      (i = .atomFminF32 h j a d n p ∧ o = .fmin ∧ w = 0) ∨ (i = .atomFmaxF32 h j a d n p ∧ o = .fmax ∧ w = 0)) →
    ∀ x k l s c s1 s2 s3 va y pl z, Enters i x k l s → c = s.ctxOf x k l → z = (if w = 0 then 4 else 8) →
      namedPair c (2 * a.toNat) (s.begun x k l) = .ok (va, s1) → srcV c w d.toNat s1 = .ok (y, s2) → dstV c w d.toNat s2 = .ok (pl, s3) →
      (c.helper = true → exec i s = .next ((s3.doneLane c fun u => u.giveV w pl 0).keepEntries x x.parts)) ∧
      (∀ pa kd s4, c.helper = false → access c va (.atomic z) s3 = .ok ((pa, kd), s4) →
        (∀ r old, StoresNow c z pa kd s4 → old = s4.readNat pa z → r = o.apply (w == 1) old y.toNat →
          ∃ t, exec i s = .next ((t.doneFloat c (fun u => u.giveV w pl (BitVec.ofNat 64 old)) r.2).keepEntries x x.parts) ∧
            StoresAt k l pa z r.1 s4 t) ∧
        (∀ r old cp, OwnsLine c pa kd cp s4 → cp.line.bad (pa % 128) z = false → old = leNat (cp.line.part (pa % 128) z) →
          r = o.apply (w == 1) old y.toNat →
          ∃ t, exec i s = .next ((t.doneFloat c (fun u => u.giveV w pl (BitVec.ofNat 64 old)) r.2).keepEntries x x.parts) ∧
            CopyWritten k l c.core (pa / 128) cp (cp.line.write (pa % 128) (leBytes r.1 z)) s4 t) ∧
        (Misses c pa kd s4 → exec i s = .next ((s.missLane c (pa / 128) (c.asks (if h = 0 then 6 else 1) (s.thread k l).time
          (.atomic o (w == 1) (pa % 128) y.toNat)) va false).keepEntries x x.parts)))) ∧
  (∀ h j w a d n p x k l s c s1 s2 s3 va pl z old_ new_, Enters (.atomCas h j w a d n p) x k l s → c = s.ctxOf x k l →
      z = (if w = 0 then 4 else 8) → namedPair c (2 * a.toNat) (s.begun x k l) = .ok (va, s1) →
      (w = 0 → ∃ q, srcD c d.toNat s1 = .ok (q, s2) ∧ old_ = q.lo.toNat ∧ new_ = q.hi.toNat) →
      (w = 1 → ∃ q r s', srcD c d.toNat s1 = .ok (q, s') ∧ srcD c (d.toNat + 2) s' = .ok (r, s2) ∧ old_ = q.toNat ∧ new_ = r.toNat) →
      dstV c w d.toNat s2 = .ok (pl, s3) →
      (c.helper = true → exec (.atomCas h j w a d n p) s = .next ((s3.doneLane c fun u => u.giveV w pl 0).keepEntries x x.parts)) ∧
      (∀ pa kd s4, c.helper = false → access c va (.atomic z) s3 = .ok ((pa, kd), s4) →
        (∀ y, StoresNow c z pa kd s4 → y = s4.readNat pa z →
          ∃ t, exec (.atomCas h j w a d n p) s = .next ((t.doneLane c fun u => u.giveV w pl (BitVec.ofNat 64 y)).keepEntries x x.parts) ∧
            StoresAt k l pa z (if y = old_ then new_ else y) s4 t) ∧
        (∀ y cp, OwnsLine c pa kd cp s4 → cp.line.bad (pa % 128) z = false → y = leNat (cp.line.part (pa % 128) z) →
          ∃ t, exec (.atomCas h j w a d n p) s = .next ((t.doneLane c fun u => u.giveV w pl (BitVec.ofNat 64 y)).keepEntries x x.parts) ∧
            CopyWritten k l c.core (pa / 128) cp (cp.line.write (pa % 128) (leBytes (if y = old_ then new_ else y) z)) s4 t) ∧
        (Misses c pa kd s4 → exec (.atomCas h j w a d n p) s = .next ((s.missLane c (pa / 128) (c.asks (if h = 0 then 6 else 1) (s.thread k l).time
          (.cas (w == 1) (pa % 128) old_ new_)) va false).keepEntries x x.parts)))) ∧
  (∀ i o h (w : BitVec 1) (a : BitVec 4) (d : BitVec 6) (n : BitVec 1) (p : BitVec 4),
    (∃ j u, (i = Instr.redIntW h j u a d n p ∧ o = AtomOp.ofInt u.toNat ∧ w = 0) ∨ (i = .redIntD h j u a d n p ∧ o = .ofInt u.toNat ∧ w = 1) ∨
      (i = .redFloat h j u a d n p ∧ u.toNat < 6 ∧ o = (if u.toNat < 2 then .fadd else if u.toNat = 2 ∨ u.toNat = 4 then .fmin else .fmax) ∧
        w = (if u.toNat = 1 ∨ 4 ≤ u.toNat then 1 else 0))) →
    ∀ x k l s c s1 s2 va y z ctx, Enters i x k l s → c = s.ctxOf x k l → z = (if w = 0 then 4 else 8) →
      namedPair c (2 * a.toNat) (s.begun x k l) = .ok (va, s1) → srcV c w d.toNat s1 = .ok (y, s2) →
      (c.helper = true → exec i s = .next ((s2.afterInstr c).keepEntries x x.parts)) ∧
      (∀ pa kd s3, c.helper = false → access c va (.atomic z) s2 = .ok ((pa, kd), s3) → ctx = (s3.launch (s3.group c.group).launch).ctx →
        (o ≠ .fadd ∨ s3.windowAt pa (w == 1) = none →
          (∀ r old, StoresNow c z pa kd s3 → old = s3.readNat pa z → r = o.apply (w == 1) old y.toNat →
            ∃ t ts, exec i s = .next (((t.orFlags ctx r.2 ts).afterInstr c).keepEntries x x.parts) ∧ StoresAt k l pa z r.1 s3 t ∧
              ts ≤ (t.thread k l).time) ∧
          (∀ r old cp, OwnsLine c pa kd cp s3 → cp.line.bad (pa % 128) z = false → old = leNat (cp.line.part (pa % 128) z) →
            r = o.apply (w == 1) old y.toNat →
            ∃ t, exec i s = .next (((t.orFlags ctx r.2 (max (s3.thread k l).time (cp.rts + 1))).afterInstr c).keepEntries x x.parts) ∧
              CopyWritten k l c.core (pa / 128) cp (cp.line.write (pa % 128) (leBytes r.1 z)) s3 t) ∧
          (Misses c pa kd s3 → exec i s = .next ((s.missLane c (pa / 128) (c.asks 6 (s.thread k l).time
            (.reduce o (w == 1) (pa % 128) y.toNat ctx)) va false).keepEntries x x.parts))) ∧
        (∀ win target q, o = .fadd → s3.coreOwned pa = true → c.got = [] → s3.windowAt pa (w == 1) = some (win, target) →
          q = s3.contribute win target y.toNat ctx (s3.thread k l).time false →
          exec i s = .next (((if (mfind q.2.crews k).isNone then q.2 else q.2.modThread k l fun u => { u with time := q.1 }).afterInstr c).keepEntries
            x x.parts)))) ∧
  (∀ (wide : Bool) (y z : Nat) (w : Nat), w = (if wide then 64 else 32) → y < 2 ^ w → z < 2 ^ w →
      (AtomOp.ofInt 0).apply wide y z = ((y + z) % 2 ^ w, 0) ∧
      (AtomOp.ofInt 1).apply wide y z = (if (BitVec.ofNat w y).toInt ≤ (BitVec.ofNat w z).toInt then y else z, 0) ∧
      (AtomOp.ofInt 2).apply wide y z = (if (BitVec.ofNat w z).toInt ≤ (BitVec.ofNat w y).toInt then y else z, 0) ∧
      (AtomOp.ofInt 3).apply wide y z = (min y z, 0) ∧ (AtomOp.ofInt 4).apply wide y z = (max y z, 0) ∧
      (AtomOp.ofInt 5).apply wide y z = (y &&& z, 0) ∧ (AtomOp.ofInt 6).apply wide y z = (y ||| z, 0) ∧
      (AtomOp.ofInt 7).apply wide y z = (y ^^^ z, 0) ∧ AtomOp.swap.apply wide y z = (z, 0))

/-- Issued to an executing lane whose operands can be read and written: CAPSET.a, .b, .p and .seal put the derivation of the source
register into the destination register; CAPRD gives the address, base, top, bits [127:64] or tag; GNAME puts the capability of the group's
name, in a lane that is no helper; CAPLD puts the 16 bytes at the address, tagged where the memory keeps a tag that is set and the bytes
have LC; CAPST stores 16 bytes and the tag where the capability may be stored and takes cause 0x0B SUB 5 where it may not, and no other
byte changes; both wait where the slice beside the core lacks the line. Each answers a next state. (R264, R265, R266, R267, R269) -/
def Obligations.CapabilityDerivations : Prop :=
  (∀ e ∈ ([(Instr.capsetA, 1, Cap.setAddr), (Instr.capsetB, 1, Cap.narrow), (Instr.capsetP, 0, fun z y => z.setPerms (y % 256))] :
      List ((BitVec 4 → BitVec 6 → BitVec 3 → BitVec 3 → BitVec 1 → BitVec 4 → Instr) × BitVec 1 × (Cap → Nat → Cap))),
    ∀ i a q d n p x k l s c s1 y, Runs (e.1 i a q d n p) x k l s → c = s.ctxOf x k l → srcV c e.2.1 a.toNat (s.begun x k l) = .ok (y, s1) →
      ∃ t, exec (e.1 i a q d n p) s = .next t ∧ OnlyLane k l s t ∧
        t = s1.doneLane c (fun u => { u with c := mset u.c d.toNat (e.2.2 (mget {} (s.thread k l).c q.toNat) y.toNat) })) ∧
  (∀ i q d n p x k l s c, Runs (.capsetSeal i q d n p) x k l s → c = s.ctxOf x k l →
      ∃ t, exec (.capsetSeal i q d n p) s = .next t ∧ OnlyLane k l s t ∧
        t = (s.begun x k l).doneLane c (fun u => { u with c := mset u.c d.toNat (mget {} (s.thread k l).c q.toNat).seal })) ∧
  (∀ i a q z n p x k l s c s1 pl y r, Runs (.caprd i a q z n p) x k l s → c = s.ctxOf x k l → y = mget {} (s.thread k l).c q.toNat →
      dst c a.toNat (if z = 4 then 1 else 2) (s.begun x k l) = .ok (pl, s1) →
      (z = 0 → r = BitVec.ofNat 64 (y.bits.toNat % 2 ^ 64)) → (z = 1 → r = BitVec.ofInt 64 y.bounds.1) →
      (z = 2 → r = if y.bounds.2 = 2 ^ 64 then BitVec.allOnes 64 else BitVec.ofInt 64 y.bounds.2) →
      (z = 3 → r = BitVec.ofNat 64 (y.bits.toNat / 2 ^ 64)) → z.toNat < 5 →
      ∃ t, exec (.caprd i a q z n p) s = .next t ∧ OnlyLane k l s t ∧
        t = s1.doneLane c (fun u => if z = 4 then u.giveW pl (if y.tag then 1 else 0) else u.giveD pl r)) ∧
  (∀ i z n p x k l s c, Runs (.gname i z n p) x k l s → c = s.ctxOf x k l →
      ∃ t g, exec (.gname i z n p) s = .next t ∧
        t = (s.begun x k l).doneLane c (fun u => if c.helper then u else { u with c := mset u.c z.toNat g }) ∧ OnlyLane k l s t ∧
        g.tag = true ∧ g.kind = 1 ∧ g.peer = s.pkg.toNat ∧ g.f 32 32 = (s.group c.group).name.toNat ∧ g.f 0 32 = 0 ∧ g.f 74 8 = 0xF3 ∧
        g.bounds.1 = (s.group c.group).name.toNat * 2 ^ 32 ∧
        g.bounds.2 = (s.group c.group).name.toNat * 2 ^ 32 + 2 ^ 24) ∧
  (∀ i b o z n p x k l s c s1 s2 va pa kd bytes tg g, Enters (.capld i b o z n p) x k l s → c = s.ctxOf x k l →
      basePair c b o (s.begun x k l) = .ok (va, s1) → access c va .capld s1 = .ok ((pa, kd), s2) →
      (ReadsNow c 16 pa kd bytes s2 → (kd.ordered = false ∨ kd = .staging → tg = mget false s2.tags (pa / 16)) →
        (kd.ordered = true → kd ≠ .staging → ∀ cp, mfind s2.copies (copyKey c.core (pa / 128)) = some cp → tg = cp.line.tags.contains (pa % 128 / 16)) →
        g = { bits := BitVec.ofNat 128 (leNat bytes), tag := (region pa == .hbm || region pa == .staging) && tg && natBits (leNat bytes) 77 1 == 1 } →
        ∃ t, exec (.capld i b o z n p) s = .next ((t.doneLane c fun u => { u with c := mset u.c z.toNat g }).keepEntries x x.parts) ∧ OnlyRead k l s2 t) ∧
      (Misses c pa kd s2 → exec (.capld i b o z n p) s = .next ((s.missLane c (pa / 128) (c.asks 0 (s.thread k l).time
        (.load (pa % 128) 16)) va false).keepEntries x x.parts))) ∧
  (∀ i b o z n p x k l s c s1 va y, Enters (.capst i b o z n p) x k l s → c = s.ctxOf x k l → basePair c b o (s.begun x k l) = .ok (va, s1) →
      y = mget {} (s.thread k l).c z.toNat →
      (c.helper = true → exec (.capst i b o z n p) s = .next ((s1.afterInstr c).keepEntries x x.parts)) ∧
      (∀ pa kd v s2, c.helper = false → c.got = [] → myView c s1 = .ok (v, s1) → access c va .capst s1 = .ok ((pa, kd), s2) →
        (y.tag = true → y.bit 75 = false → s2.ownPlace v va = false →
          exec (.capst i b o z n p) s = .next (((s.takeTrap c 0x0B 5 z.toNat x.pc va).afterInstr c).keepEntries x x.parts)) ∧
        (y.tag = false ∨ y.bit 75 = true ∨ s2.ownPlace v va = true →
          (StoresNow c 16 pa kd s2 → ∃ t : State, exec (.capst i b o z n p) s = .next ((t.afterInstr c).keepEntries x x.parts) ∧ (t.thread k l).c = (s.thread k l).c ∧
            mget false t.tags (pa / 16) = (y.tag && y.bit 76) ∧ (∀ j < 16, (memGet t.mem (pa + j)).toNat = y.bits.toNat / 2 ^ (8 * j) % 256) ∧
            (∀ a, a < pa ∨ pa + 16 ≤ a → memGet t.mem a = memGet s2.mem a) ∧ ∀ g, g ≠ pa / 16 → mget false t.tags g = mget false s2.tags g) ∧
          (∀ cp, OwnsLine c pa kd cp s2 → ∃ t r, exec (.capst i b o z n p) s = .next ((t.afterInstr c).keepEntries x x.parts) ∧
            CopyWritten k l c.core (pa / 128) cp r s2 t ∧ r.data = (cp.line.write (pa % 128) (leBytes y.bits.toNat 16)).data ∧
            r.tags.contains (pa % 128 / 16) = (y.tag && y.bit 76 || (cp.line.write (pa % 128) (leBytes y.bits.toNat 16)).tags.contains (pa % 128 / 16))) ∧
          (Misses c pa kd s2 → exec (.capst i b o z n p) s = .next ((s.missLane c (pa / 128) (c.asks 1 (s.thread k l).time
            (.capst (pa % 128) y.bits.toNat (y.tag && y.bit 76))) va false).keepEntries x x.parts)))))

/-- For every capability and operand: if the result of CAPSET.a, .b, .p or .seal is tagged then its source was tagged; CAPSET.a with a
64-bit address keeps the bounds, kind, peer and permissions and holds the address; CAPSET.b leaves bounds that lie within the source's and
hold the length from ADDR; CAPSET.p leaves the bounds and exactly the permissions also in the mask; CAPSET.seal leaves the bounds and
permissions and makes the kind sealed; and .b, .p and .seal of a source without DERIVE are untagged. (R98, R99, R265, R266) -/
def Obligations.CapabilityMonotonicity : Prop :=
  ∀ (c r : Cap) (y : Nat), y < 2 ^ 64 →
    (r = c.setAddr y → r.tag = true → c.tag = true ∧ c.kind < 2 ∧ r.bounds = c.bounds ∧ r.f 0 64 = y ∧ r.f 64 64 = c.f 64 64) ∧
    (r = c.narrow y → r.tag = true → c.tag = true ∧ c.kind < 2 ∧ c.bit 74 = true ∧ c.bounds.1 ≤ r.bounds.1 ∧ r.bounds.2 ≤ c.bounds.2 ∧
      r.bounds.1 ≤ c.f 0 64 ∧ (c.f 0 64 + y : Nat) ≤ r.bounds.2 ∧ r.f 0 64 = c.f 0 64 ∧ r.f 64 18 = c.f 64 18 ∧ r.kind = c.kind) ∧
    (r = c.setPerms (y % 256) → r.bounds = c.bounds ∧ r.f 74 8 = (c.f 74 8 &&& y % 256) ∧ r.f 0 74 = c.f 0 74 ∧ r.f 82 46 = c.f 82 46 ∧
      (r.tag = true → c.tag = true ∧ c.kind < 2 ∧ c.bit 74 = true)) ∧
    (r = c.seal → r.bounds = c.bounds ∧ r.kind = 2 ∧ r.f 0 124 = c.f 0 124 ∧ (r.tag = true → c.tag = true ∧ c.bit 74 = true)) ∧
    (c.tag = false → (c.setAddr y).tag = false ∧ (c.narrow y).tag = false ∧ (c.setPerms y).tag = false ∧ c.seal.tag = false)

/-- Issued to an executing lane whose operands can be read and written and whose access passes the checks: in memory of this package LDC
brings the element, zero-extended, in 1, 2 or 4 registers, STC stores it, AMOC gives the old word and joins the flags, AMOC.red stores the
new value and gives nothing, each completing where it is performed at once. An access to another package, and a PUTREG, leaves the lane
waiting for egress with its request and nothing done; when a reply with STATUS 0 has come the instruction completes with the data of the
reply, and a refused PUTREG is entered in PUTERR. A helper's AMOC gives zero, its STC, AMOC.red and PUTREG do nothing. After the lanes
egress sends what they ask for: a put to this package goes to the name table, any other request in a packet under a free tag. (R268, R271,
R275, R248, R103, R114, R122, R364, R365, R406) -/
def Obligations.CapabilityAccesses : Prop :=
  (∀ w j q o d n p x k l s c s1 s2 y pl z, Enters (.ldc w j q o d n p) x k l s → c = s.ctxOf x k l → w.toNat < 4 → z = 2 ^ w.toNat →
      src c o.toNat (s.begun x k l) = .ok (y, s1) → dst c d.toNat (if w = 3 then 2 else 1) s1 = .ok (pl, s2) →
      (∀ va pa kd s3 bytes, OwnAccess c q.toNat y 81 z .load s2 va pa kd s3 → ReadsNow c z pa kd bytes s3 →
        ∃ t : State, exec (.ldc w j q o d n p) s = .next (((t.doneLane c fun u => if w = 3 then u.giveD pl (BitVec.ofNat 64 (leNat bytes))
          else u.giveW pl (BitVec.ofNat 32 (leNat bytes))).keepEntries x x.parts).egress x) ∧ OnlyRead k l s3 t) ∧
      (∀ r, c.reply = some r → r.status = 0 → exec (.ldc w j q o d n p) s = .next (((s2.doneLane c fun u =>
        if w = 3 then u.giveD pl (BitVec.ofNat 64 r.data) else u.giveW pl (BitVec.ofNat 32 r.data)).keepEntries x x.parts).egress x)) ∧
      (∀ v, FarAccess c q.toNat y 81 0 z 0 s2 v → exec (.ldc w j q o d n p) s = .next (((s.deschedule k l v).keepEntries x x.parts).egress x))) ∧
  (∀ j q o d n p x k l s c s1 y f, Enters (.ldc 4 j q o d n p) x k l s → c = s.ctxOf x k l →
      src c o.toNat (s.begun x k l) = .ok (y, s1) → (s1.thread k l).hold = 0 →
      f = (fun (b : Nat) (u : Thread) =>
        let w := fun j => BitVec.ofNat 32 (natBits b (32 * j) 32)
        let u := (((u.setReg d.toNat (w 0)).setReg (d.toNat + 1) (w 1)).setReg (d.toNat + 2) (w 2)).setReg (d.toNat + 3) (w 3)
        (((u.push (w 0)).push (w 1)).push (w 2)).push (w 3)) →
      (∀ va pa kd s3 bytes, OwnAccess c q.toNat y 81 16 .load s1 va pa kd s3 → ReadsNow c 16 pa kd bytes s3 →
        ∃ t : State, exec (.ldc 4 j q o d n p) s = .next (((t.doneLane c (f (leNat bytes))).keepEntries x x.parts).egress x) ∧ OnlyRead k l s3 t) ∧
      (∀ r, c.reply = some r → r.status = 0 → exec (.ldc 4 j q o d n p) s = .next (((s1.doneLane c (f r.data)).keepEntries x x.parts).egress x)) ∧
      (∀ v, FarAccess c q.toNat y 81 0 16 0 s1 v → exec (.ldc 4 j q o d n p) s = .next (((s.deschedule k l v).keepEntries x x.parts).egress x))) ∧
  (∀ w j q o d n p x k l s c s1 s2 y z m, Enters (.stc w j q o d n p) x k l s → c = s.ctxOf x k l →
      src c o.toNat (s.begun x k l) = .ok (y, s1) → m = 2 ^ w.toNat →
      (w.toNat < 3 → ∃ r, src c d.toNat s1 = .ok (r, s2) ∧ z = r.toNat % 2 ^ (8 * m)) →
      (w = 3 → ∃ r, srcD c d.toNat s1 = .ok (r, s2) ∧ z = r.toNat) →
      (w = 4 → ∃ r, srcQ c d.toNat s1 = .ok (r, s2) ∧ z = wordsNat r) → w.toNat < 5 →
      (c.helper = true → exec (.stc w j q o d n p) s = .next (((s2.afterInstr c).keepEntries x x.parts).egress x)) ∧
      (∀ va pa kd s3, c.helper = false → OwnAccess c q.toNat y 80 m .store s2 va pa kd s3 →
        (StoresNow c m pa kd s3 → ∃ t : State, exec (.stc w j q o d n p) s = .next (((t.afterInstr c).keepEntries x x.parts).egress x) ∧
          StoresAt k l pa m z s3 t) ∧
        (∀ cp, OwnsLine c pa kd cp s3 → ∃ t : State, exec (.stc w j q o d n p) s = .next (((t.afterInstr c).keepEntries x x.parts).egress x) ∧
          CopyWritten k l c.core (pa / 128) cp (cp.line.write (pa % 128) (leBytes z m)) s3 t)) ∧
      (∀ r, c.helper = false → c.reply = some r → r.status = 0 →
        exec (.stc w j q o d n p) s = .next (((s2.afterInstr c).keepEntries x x.parts).egress x)) ∧
      (∀ v, c.helper = false → FarAccess c q.toNat y 80 1 m z s2 v →
        exec (.stc w j q o d n p) s = .next (((s.deschedule k l v).keepEntries x x.parts).egress x))) ∧
  (∀ q u o d n p x k l s c s1 s2 s3 y z pl op, Enters (.amoc q u o d n p) x k l s → c = s.ctxOf x k l → op = AtomOp.ofAmoc u.toNat →
      src c o.toNat (s.begun x k l) = .ok (y, s1) → src c d.toNat s1 = .ok (z, s2) → dst c d.toNat 1 s2 = .ok (pl, s3) →
      (c.helper = true → exec (.amoc q u o d n p) s = .next (((s3.doneLane c fun w => w.giveW pl 0).keepEntries x x.parts).egress x)) ∧
      (∀ va pa kd s4, c.helper = false → OwnAccess c q.toNat y 79 4 (.atomic op false) s3 va pa kd s4 →
        (∀ r old, StoresNow c 4 pa kd s4 → old = s4.readNat pa 4 → r = op.apply false old z.toNat →
          ∃ t : State, exec (.amoc q u o d n p) s = .next (((t.doneFloat c (fun w => w.giveW pl (BitVec.ofNat 32 old)) r.2).keepEntries x x.parts).egress x) ∧
            StoresAt k l pa 4 r.1 s4 t) ∧
        (∀ r old cp, OwnsLine c pa kd cp s4 → cp.line.bad (pa % 128) 4 = false → old = leNat (cp.line.part (pa % 128) 4) →
          r = op.apply false old z.toNat →
          ∃ t : State, exec (.amoc q u o d n p) s = .next (((t.doneFloat c (fun w => w.giveW pl (BitVec.ofNat 32 old)) r.2).keepEntries x x.parts).egress x) ∧
            CopyWritten k l c.core (pa / 128) cp (cp.line.write (pa % 128) (leBytes r.1 4)) s4 t)) ∧
      (∀ r, c.helper = false → c.reply = some r → r.status = 0 → exec (.amoc q u o d n p) s = .next (((s3.doneFloat c
        (fun w => w.giveW pl (BitVec.ofNat 32 r.data)) (op.apply false r.data r.sent).2).keepEntries x x.parts).egress x)) ∧
      (∀ v, c.helper = false → FarAccess c q.toNat y 79 (8 + u.toNat) 4 z.toNat s3 v →
        exec (.amoc q u o d n p) s = .next (((s.deschedule k l v).keepEntries x x.parts).egress x))) ∧
  (∀ q u o d n p x k l s c s1 s2 y z op ctx, Enters (.amocRed q u o d n p) x k l s → c = s.ctxOf x k l → op = AtomOp.ofAmoc u.toNat →
      src c o.toNat (s.begun x k l) = .ok (y, s1) → src c d.toNat s1 = .ok (z, s2) →
      (c.helper = true → exec (.amocRed q u o d n p) s = .next (((s2.afterInstr c).keepEntries x x.parts).egress x)) ∧
      (∀ va pa kd s3, c.helper = false → OwnAccess c q.toNat y 79 4 (.reduce op false) s2 va pa kd s3 → ctx = (s3.launch (s3.group c.group).launch).ctx →
        (op ≠ .fadd ∨ s3.windowAt pa false = none →
          (∀ r old, StoresNow c 4 pa kd s3 → old = s3.readNat pa 4 → r = op.apply false old z.toNat →
            ∃ (t : State) (ts : Nat), exec (.amocRed q u o d n p) s = .next ((((t.orFlags ctx r.2 ts).afterInstr c).keepEntries x x.parts).egress x) ∧
              StoresAt k l pa 4 r.1 s3 t) ∧
          (∀ r old cp, OwnsLine c pa kd cp s3 → cp.line.bad (pa % 128) 4 = false → old = leNat (cp.line.part (pa % 128) 4) →
            r = op.apply false old z.toNat →
            ∃ (t : State) (ts : Nat), exec (.amocRed q u o d n p) s = .next ((((t.orFlags ctx r.2 ts).afterInstr c).keepEntries x x.parts).egress x) ∧
              CopyWritten k l c.core (pa / 128) cp (cp.line.write (pa % 128) (leBytes r.1 4)) s3 t)) ∧
        (∀ win target e, op = .fadd → s3.coreOwned pa = true → region pa ≠ .device → s3.windowAt pa false = some (win, target) → c.got = [] →
          e = s3.contribute win target z.toNat ctx (s3.thread k l).time false →
          exec (.amocRed q u o d n p) s = .next ((((if (mfind e.2.crews k).isNone then e.2 else
            e.2.modThread k l fun u => { u with time := e.1 }).afterInstr c).keepEntries x x.parts).egress x))) ∧
      (∀ r, c.helper = false → c.reply = some r → r.status = 0 →
        exec (.amocRed q u o d n p) s = .next (((s2.afterInstr c).keepEntries x x.parts).egress x)) ∧
      (∀ v, c.helper = false → FarAccess c q.toNat y 79 (16 + u.toNat) 4 z.toNat s2 v →
        exec (.amocRed q u o d n p) s = .next (((s.deschedule k l v).keepEntries x x.parts).egress x))) ∧
  (∀ v q a r n p x k l s c s1 y, Enters (.putreg v q a r n p) x k l s → c = s.ctxOf x k l → srcV c v a.toNat (s.begun x k l) = .ok (y, s1) →
      (c.helper = true → exec (.putreg v q a r n p) s = .next (((s1.afterInstr c).keepEntries x x.parts).egress x)) ∧
      (∀ cap a page, c.helper = false → c.reply = none → capCheck c q.toNat 0 78 4 [1] s1 = .ok ((cap, a), s1) →
        page = natBits a 32 32 + 2 ^ 32 * natBits a 16 8 → (cap.peer = s1.pkgId ∨ s1.routes cap.peer (dieOf c.core) page ≠ []) →
        exec (.putreg v q a r n p) s = .next (((s.deschedule k l { kind := .egress, addr := BitVec.ofNat 64 a, req := some {
          op := 0xA0, size := if v = 0 then 2 else 3, peer := cap.peer, ctx := (s1.launch (s1.group c.group).launch).ctx, page := page
          off := min (natBits a 0 32 / 4) 65535, data := y.toNat, ts := (s1.thread k l).time, reg := r.toNat
          wide := v == 1 } }).keepEntries x x.parts).egress x)) ∧
      (∀ z, c.helper = false → c.reply = some z →
        (z.status = 0 → exec (.putreg v q a r n p) s = .next (((s1.afterInstr c).keepEntries x x.parts).egress x)) ∧
        (z.status ≠ 0 → exec (.putreg v q a r n p) s = .next ((((s1.putRefused c.group z.status (natBits z.addr.toNat 0 32 / 4) r.toNat).afterInstr
          c).keepEntries x x.parts).egress x)))) ∧
  (∀ (s : State) (x : Issue) (k l : Nat), x.parts = [{ crew := k, lanes := bitOf l }] →
      (∀ m w, (s.thread k m).st = .waiting w → w.kind ≠ .egress) → s.egress x = s) ∧
  (∀ (s : State) (x : Issue) (k l : Nat) (w : Wait) (r : RemoteReq), x.parts = [{ crew := k, lanes := bitOf l }] → l < 32 → (s.thread k l).st = .waiting w →
      w.kind = .egress → w.req = some r → (s.thread k l).pc = x.pc → (∀ m v, m ≠ l → (s.thread k m).st = .waiting v → v.kind ≠ .egress) →
      (r.peer = s.pkgId → (s.egress x).putQueue = s.putQueue ++ [{ name := natBits r.page 0 32, thread := r.off, reg := r.reg, wide := r.wide
                                                                   data := BitVec.ofNat 64 r.data, time := r.ts, from_ := .lane (32 * k + l) }] ∧
        ((s.egress x).thread k l).st = .waiting { w with kind := .remote, key := ownPut, req := none }) ∧
      (∀ tag port rest y, r.peer ≠ s.pkgId → s.freeTag (dieOf (k / 64)) = some tag → s.routes r.peer (dieOf (k / 64)) r.page = port :: rest →
        y = buildPacket s.pkgId tag [{ lane := l, req := r }] →
        (s.egress x).outbox = s.outbox ++ [.packet port (y.channel false) (y.bytes (y.opcode != 0)) y.poison] ∧
        mfind (s.egress x).sent (4096 * dieOf (k / 64) + tag) = some { packet := y, crew := k, lastSent := s.clock } ∧
        ((s.egress x).thread k l).st = .waiting { w with kind := .remote, key := 4096 * dieOf (k / 64) + tag, req := none }) ∧
      (r.peer ≠ s.pkgId → s.freeTag (dieOf (k / 64)) = none → s.egress x = s))

/-- The first that fails of the tag, a kind of those the access admits, the permission and the bounds takes cause 0x0B with SUB 1, 2, 3 or
4, DETAIL the capability register and TADDR the address, and nothing else happens; an access that passes lies within the bounds, and goes
to the context's memory or to window 0 of the group named; one to another package takes 0x1B SUB 1 without a route, then 0x05 and 0x06
with SUB 7. A put whose target is being moved stays queued. A put to a name of no group is refused with 1, to a thread beyond the group
with 3, to a register beyond its count with 2; one to a thread of a resident group's crew writes the register, clears its hold bit unless
a HOLD of the same cycle has set it, and leaves every other register, every other thread and memory as it was. (R98, R99, R100, R102,
R268, R272, R115) -/
def Obligations.CapabilityChecks : Prop :=
  (∀ (c : Ctx) (k perm n : Nat) (off : Word) (kinds : List Nat) (s : State) (cap : Cap) (a : Nat) (va : DWord),
      cap = mget {} (s.thread c.crew c.lane).c k → va = BitVec.ofNat 64 (cap.bits.toNat % 2 ^ 64) + BitVec.ofInt 64 off.toInt → a = va.toNat →
      (cap.tag = false → capCheck c k off perm n kinds s = .error (.trap 0x0B 1 k va false)) ∧
      (cap.tag = true → (¬ cap.kind ∈ kinds ∨ (cap.kind = 1 ∧ cap.f 54 10 ≠ cap.peer)) →
        capCheck c k off perm n kinds s = .error (.trap 0x0B 2 k va false)) ∧
      (cap.tag = true → cap.kind ∈ kinds → (cap.kind = 1 → cap.f 54 10 = cap.peer) → cap.bit perm = false →
        capCheck c k off perm n kinds s = .error (.trap 0x0B 3 k va false)) ∧
      (cap.tag = true → cap.kind ∈ kinds → (cap.kind = 1 → cap.f 54 10 = cap.peer) → cap.bit perm = true →
        (a < cap.bounds.1 ∨ cap.bounds.2 < (a + n : Nat)) → capCheck c k off perm n kinds s = .error (.trap 0x0B 4 k va false)) ∧
      (cap.tag = true → cap.kind ∈ kinds → (cap.kind = 1 → cap.f 54 10 = cap.peer) → cap.bit perm = true →
        cap.bounds.1 ≤ a → (a + n : Nat) ≤ cap.bounds.2 → capCheck c k off perm n kinds s = .ok ((cap, a), s))) ∧
  (∀ (c : Ctx) (k perm op n y : Nat) (off : Word) (o : RemoteOp) (s : State) (sub : Nat) (va : DWord), c.reply = none → c.got = [] →
      capCheck c k off perm n [0, 1] s = .error (.trap 0x0B sub k va false) →
      capAccess c k off perm op n y o s = .error (.trap 0x0B sub k va false)) ∧
  (∀ (c : Ctx) (s : State) (k perm op n y pa : Nat) (off : Word) (o : RemoteOp) (cap : Cap) (a : Nat) (kd : PageKind) (g : Got) (s1 s2 : State),
      c.reply = none → c.got = [] →
      capCheck c k off perm n [0, 1] s = .ok ((cap, a), s) → cap.peer = s.pkgId → localPlace c cap a n (o.cls n) s = .ok ((pa, kd), s1) →
      localPerform c o pa kd (BitVec.ofNat 64 a) y n s1 = .ok (g, s2) →
      capAccess c k off perm op n y o s = .ok ((g.result.val, if o.returns then g.op.flags g.result else 0), s2)) ∧
  (∀ (c : Ctx) (s : State) (k perm op n y : Nat) (off : Word) (o : RemoteOp) (cap : Cap) (a : Nat) (r : Bool), c.reply = none → c.got = [] →
      capCheck c k off perm n [0, 1] s = .ok ((cap, a), s) → cap.peer ≠ s.pkgId → r = (s.routes cap.peer (dieOf c.core) (cap.pageOf a)).isEmpty →
      (r = true → capAccess c k off perm op n y o s = .error (.trap 0x1B 1 0 (BitVec.ofNat 64 a) false)) ∧
      (r = false → cap.kind ≠ 1 → 2 ^ 56 ≤ a → capAccess c k off perm op n y o s = .error (.trap 5 7 0 (BitVec.ofNat 64 a) false)) ∧
      (r = false → (cap.kind = 1 ∨ a < 2 ^ 56) → a % n ≠ 0 → capAccess c k off perm op n y o s = .error (.trap 6 7 0 (BitVec.ofNat 64 a) false))) ∧
  (∀ (c : Ctx) (cap : Cap) (a n : Nat) (o : Sys2Proof.Machine.Class) (s : State), cap.kind = 0 → localPlace c cap a n o s = access c (BitVec.ofNat 64 a) o s) ∧
  (∀ (c : Ctx) (cap : Cap) (a n : Nat) (o : Sys2Proof.Machine.Class) (s : State), cap.kind ≠ 0 →
      (s.named (natBits a 32 32) = none → localPlace c cap a n o s = .error (.trap 0x1B 4 0 (BitVec.ofNat 64 a) false)) ∧
      (∀ g, s.named (natBits a 32 32) = some g →
        (a % n ≠ 0 → localPlace c cap a n o s = .error (.trap 6 0 0 (BitVec.ofNat 64 a) false)) ∧
        (a % n = 0 → g.win0Size < natBits a 0 32 + n → localPlace c cap a n o s = .error (.trap 0x0A 3 0 (BitVec.ofNat 64 a) false)) ∧
        (a % n = 0 → natBits a 0 32 + n ≤ g.win0Size → s.present (g.win0 (natBits a 0 32)) = true →
          localPlace c cap a n o s = .ok ((g.win0 (natBits a 0 32), .staging), s)))) ∧
  (∀ (s : State) (p : QueuedPut), s.putQueue = [p] → s.moving p = true → s.deliverPuts = s) ∧
  (∀ (s : State) (name thread reg : Nat) (wide : Bool) (data : DWord) (time : Nat),
      (s.named name = none → s.deliverPut name thread reg wide data time = (.error 1, s)) ∧
      (∀ g, s.named name = some g →
        (g.threads ≤ thread → s.deliverPut name thread reg wide data time = (.error 3, s)) ∧
        (thread < g.threads → g.nregs ≤ (if wide then reg + 1 else reg) → s.deliverPut name thread reg wide data time = (.error 2, s)) ∧
        (∀ ck, thread < g.threads → (if wide then reg + 1 else reg) < g.nregs → g.place = .resident →
          (s.crewsOf (nameIndex name)).find? (fun ck => (s.crew ck).index == thread / 32) = some ck →
          ∃ ts t, s.deliverPut name thread reg wide data time = (.ok ts, t) ∧ time ≤ ts ∧ OnlyLane ck (thread % 32) s t ∧
            mget 0 (s.thread ck (thread % 32)).puts reg < ts ∧ (reg < 32 → wide = false → (t.thread ck (thread % 32)).held reg = ((s.thread ck (thread % 32)).held reg && (s.thread ck (thread % 32)).holdNow.getLsbD reg)) ∧
            (t.thread ck (thread % 32)).reg reg = data.lo ∧ (wide = true → (t.thread ck (thread % 32)).reg (reg + 1) = data.hi) ∧
            (∀ r, r ≠ reg → (wide = false ∨ r ≠ reg + 1) → (t.thread ck (thread % 32)).reg r = (s.thread ck (thread % 32)).reg r) ∧
            (t.thread ck (thread % 32)).q = (s.thread ck (thread % 32)).q ∧ (t.thread ck (thread % 32)).pc = (s.thread ck (thread % 32)).pc)))

/-- Issued to an executing lane whose operands can be read and written, MFS gives the system register's value, in 64 bits for the
selectors of 64-bit registers, and MTS replaces FPSTAT with bits [5:0], the generator with 64 bits, or FPCTL with its fields, where RM 5
to 7 leaves RM; nothing else changes. The registers read are the lane's, its group's, its cluster's and the clock. Each answers a next
state. (R66, R67, R68, R69, R70, R71, R72, R221) -/
def Obligations.SystemRegisterMoves : Prop :=
  (∀ q d n p x k l s c s1 pl, Runs (.mfs q d n p) x k l s → c = s.ctxOf x k l →
      dst c d.toNat (if wideSelector q then 2 else 1) (s.begun x k l) = .ok (pl, s1) →
      ∃ t, exec (.mfs q d n p) s = .next t ∧ OnlyLane k l s t ∧ OnlyResult pl (if wideSelector q then 2 else 1) (s.thread k l) (t.thread k l) ∧
        t = s1.doneLane c (fun u => if wideSelector q then u.giveD pl (s1.sysReg c q.toNat) else u.giveW pl (s1.sysReg c q.toNat).lo)) ∧
  (∀ (q : BitVec 7), wideSelector q = true ↔ q ∈ [0x00#7, 0x06#7, 0x07#7, 0x11#7, 0x12#7]) ∧
  (∀ (s : State) (c : Ctx) (t : Thread) (g : Group), t = s.thread c.crew c.lane → g = s.group c.group →
      s.sysReg c 0x00 = 0x08400A864080FFFC#64 ∧ (s.sysReg c 0x01).lo = g.name ∧ (s.sysReg c 0x04).lo = t.fpstat ∧ (s.sysReg c 0x05).lo = t.fpctl ∧
      s.sysReg c 0x06 = t.seed ∧ s.sysReg c 0x07 = BitVec.ofNat 64 s.clock ∧ (s.sysReg c 0x08).lo = g.putErr ∧
      natBits (s.sysReg c 0x09).toNat 0 7 = natBits (s.cluster (c.core / 4)).budget 0 7 ∧
      (s.sysReg c 0x0A).lo = BitVec.ofInt 8 (s.cluster (c.core / 4)).credit ++ BitVec.ofNat 24 (s.cluster (c.core / 4)).stalled ∧
      (s.sysReg c 0x10).lo = t.tcause ∧ s.sysReg c 0x11 = t.tpc ∧ s.sysReg c 0x12 = t.taddr ∧
      (s.sysReg c 0x02).toNat % 2 ^ 32 = (c.crew / 64 * 2 ^ 23 + c.crew % 64 * 2 ^ 17 + (s.crew c.crew).index * 2 ^ 12 +
        (s.group (s.crew c.crew).group).gslot * 2 ^ 7 + (s.group (s.crew c.crew).group).gangPos * 2 ^ 5 +
        (if (s.crew c.crew).spawned then 16 else 0)) % 2 ^ 32 ∧
      (s.sysReg c 0x03).toNat % 2 ^ 32 = ((32 * (s.crew c.crew).index + c.lane) * 32 + c.lane) % 2 ^ 32) ∧
  (∀ e ∈ ([(4, fun y u => { u with fpstat := y &&& 0x3F#32 }), (5, fun y u => { u with fpctl := fpctlWrite u.fpctl y })] :
      List (BitVec 7 × (Word → Thread → Thread))),
    ∀ a n p x k l s c s1 y, Runs (.mts e.1 a n p) x k l s → c = s.ctxOf x k l → src c a.toNat (s.begun x k l) = .ok (y, s1) →
      ∃ t, exec (.mts e.1 a n p) s = .next t ∧ OnlyLane k l s t ∧ t = s1.doneLane c (e.2 y)) ∧
  (∀ a n p x k l s c s1 y, Runs (.mts 6 a n p) x k l s → c = s.ctxOf x k l → srcD c a.toNat (s.begun x k l) = .ok (y, s1) →
      ∃ t, exec (.mts 6 a n p) s = .next t ∧ OnlyLane k l s t ∧ t = s1.doneLane c (fun u => { u with seed := y })) ∧
  (∀ old y : Word, (natBits y.toNat 0 3 < 5 → natBits (fpctlWrite old y).toNat 0 3 = natBits y.toNat 0 3) ∧
      (5 ≤ natBits y.toNat 0 3 → natBits (fpctlWrite old y).toNat 0 3 = natBits old.toNat 0 3) ∧
      ∀ i, 3 ≤ i → (fpctlWrite old y).getLsbD i = (y.getLsbD i && decide (6 ≤ i ∧ i < 14)))

/-- Issued to an executing lane whose operands can be read and written: XSET loads the register from the 64-bit image of R53, XGET gives
that image, XSTEP moves the cursor by n times STEP by the rule of the mode, XCUR sets the cursor to bits [11:0], HOLD sets the register's
hold bit, also in a helper; beside the lane nothing changes and the queue only where XGET pushes. Loading the image that was read leaves
the register. Each answers a next state. (R51, R53, R54, R211, R270) -/
def Obligations.IndexRegistersAndHolds : Prop :=
  (∀ i a q n p x k l s c s1 y, Runs (.xset i a q n p) x k l s → c = s.ctxOf x k l → srcD c a.toNat (s.begun x k l) = .ok (y, s1) →
      ∃ t w, exec (.xset i a q n p) s = .next t ∧ OnlyLane k l s t ∧ t = s1.doneLane c (fun u => { u with x := mset u.x q.toNat w }) ∧
        w.base.toNat = natBits y.toNat 0 11 ∧ w.bound.toNat = natBits y.toNat 11 12 ∧ w.cursor.toNat = natBits y.toNat 23 12 ∧
        w.step.toNat = natBits y.toNat 35 4 ∧ w.mode.toNat = natBits y.toNat 39 2) ∧
  (∀ i q d n p x k l s c s1 pl, Runs (.xget i q d n p) x k l s → c = s.ctxOf x k l → dst c d.toNat 2 (s.begun x k l) = .ok (pl, s1) →
      ∃ t, exec (.xget i q d n p) s = .next t ∧ OnlyLane k l s t ∧ OnlyResult pl 2 (s.thread k l) (t.thread k l) ∧
        t = s1.doneLane c (fun u => u.giveD pl ((s.thread k l).xreg q.toNat).image)) ∧
  (∀ w : IndexReg, IndexReg.ofImage w.image = w ∧ w.image.toNat < 2 ^ 41) ∧
  (∀ i a q n p x k l s c s1 y w, Runs (.xstep i a q n p) x k l s → c = s.ctxOf x k l → src c a.toNat (s.begun x k l) = .ok (y, s1) →
      w = (s1.thread k l).xreg q.toNat →
      ∃ t r, exec (.xstep i a q n p) s = .next t ∧ OnlyLane k l s t ∧
        t = s1.doneLane c (fun u => { u with x := mset u.x q.toNat { w with cursor := r } }) ∧
        (w.mode = 0 ∨ w.mode = 1 → r = BitVec.ofInt 12 (w.cursor.toNat + w.step.toInt * y.toInt)) ∧
        (w.mode = 2 → w.bound ≠ 0 → r = BitVec.ofInt 12 ((w.cursor.toNat + w.step.toInt * y.toInt) % w.bound.toNat)) ∧ (w.mode = 3 → r = w.cursor)) ∧
  (∀ i a q n p x k l s c s1 y, Runs (.xcur i a q n p) x k l s → c = s.ctxOf x k l → src c a.toNat (s.begun x k l) = .ok (y, s1) →
      ∃ t, exec (.xcur i a q n p) s = .next t ∧ OnlyLane k l s t ∧
        t = s1.doneLane c (fun u => { u with x := mset u.x q.toNat { u.xreg q.toNat with cursor := BitVec.ofNat 12 y.toNat } })) ∧
  (∀ i d n p x k l s c, Runs (.hold i d n p) x k l s → c = s.ctxOf x k l →
      ∃ t, exec (.hold i d n p) s = .next t ∧ OnlyLane k l s t ∧ t = (s.begun x k l).doneLane c (fun u => { u with hold := u.hold ||| bitOf d.toNat, holdNow := u.holdNow ||| bitOf d.toNat }))

/-- Issued to an executing lane whose operands can be read and written: SJOIN makes the group a member unless it is one, with SUB 1 or 2
of cause 0x15 beyond 256 sharing groups or 32 members; SLEAVE ends the membership, and every slot between the group and its mates is
unmapped; SMAP maps a fellow member's window into the slot, or takes SUB 3; SPAWN adds the record of a program counter with bit 0 clear
and four words to that counter's bin, which closes at 32, waits while the pool is full (the records of open bins,
notes/assumptions/133.md), and traps without a pool; TICKET gives and advances NEXT where the limit allows, at a staging word or its
slice's write copy, and traps in a program crew; FENCE.IO and ISYNC, which wait for nothing here, and CODEPUB move the lane on. A helper's
acts give nothing but TICKET's two zeros. Each answers a next state. (R90, R91, R37, R38, R116, R210, R276, R263, R121, R120, R347, R400) -/
def Obligations.SharingSpawnAndTickets : Prop :=
  (∀ i a n p x k l s c s1 y v m, Runs (.sjoin i a n p) x k l s → c = s.ctxOf x k l → src c a.toNat (s.begun x k l) = .ok (y, s1) →
      myView c s1 = .ok (v, s1) → m = s1.members (v.ctx, y.toNat) →
      (c.helper = true ∨ c.group ∈ m → exec (.sjoin i a n p) s = .next (s1.afterInstr c)) ∧
      (c.helper = false → c.group ∉ m →
        (m = [] → s1.sharing.length < 256 → exec (.sjoin i a n p) s =
          .next ({ s1 with sharing := s1.sharing ++ [((v.ctx, y.toNat), [c.group])] }.afterInstr c)) ∧
        (m ≠ [] → m.length < 32 → ∃ t : State, exec (.sjoin i a n p) s = .next (t.afterInstr c) ∧
          t = { s1 with sharing := s1.sharing.map fun e => if e.1 = (v.ctx, y.toNat) then (e.1, e.2 ++ [c.group]) else e } ∧ t.members (v.ctx, y.toNat) = m ++ [c.group] ∧
          (∀ q, q ≠ (v.ctx, y.toNat) → t.members q = s1.members q) ∧ { t with sharing := s1.sharing } = s1) ∧
        (m = [] → 256 ≤ s1.sharing.length → exec (.sjoin i a n p) s = .next ((s.takeTrap c 0x15 1 0 x.pc 0).afterInstr c)) ∧
        (32 ≤ m.length → exec (.sjoin i a n p) s = .next ((s.takeTrap c 0x15 2 0 x.pc 0).afterInstr c)))) ∧
  (∀ i a n p x k l s c s1 y v, Runs (.sleave i a n p) x k l s → c = s.ctxOf x k l → src c a.toNat (s.begun x k l) = .ok (y, s1) →
      myView c s1 = .ok (v, s1) →
      (c.helper = true → exec (.sleave i a n p) s = .next (s1.afterInstr c)) ∧
      (c.helper = false → ∃ t : State, exec (.sleave i a n p) s = .next (t.afterInstr c) ∧ t = s1.leaveSharing c.group (some (v.ctx, y.toNat)) ∧ c.group ∉ t.members (v.ctx, y.toNat) ∧
        (c.group ∈ s1.members (v.ctx, y.toNat) → (t.group c.group).slots = [] ∧
          ∀ g ∈ s1.members (v.ctx, y.toNat), g ≠ c.group → ∀ j, mfind (t.group g).slots j ≠ some c.group) ∧
        { t with sharing := s1.sharing, groups := s1.groups } = s1)) ∧
  (∀ i a r n p x k l s c s1 y v g, Runs (.smap i a r n p) x k l s → c = s.ctxOf x k l → namedPair c (2 * a.toNat) (s.begun x k l) = .ok (y, s1) →
      myView c s1 = .ok (v, s1) → g = natBits y.hi.toNat 8 14 →
      (c.helper = true → exec (.smap i a r n p) s = .next (s1.afterInstr c)) ∧
      (c.helper = false → c.group ∈ s1.members (v.ctx, y.lo.toNat) → g ∈ s1.members (v.ctx, y.lo.toNat) → (s1.group g).name = y.hi →
        exec (.smap i a r n p) s = .next ((s1.modGroup c.group fun w => { w with slots := mset w.slots r.toNat g }).afterInstr c)) ∧
      (c.helper = false → ¬ (c.group ∈ s1.members (v.ctx, y.lo.toNat) ∧ g ∈ s1.members (v.ctx, y.lo.toNat) ∧ (s1.group g).name = y.hi) →
        exec (.smap i a r n p) s = .next ((s.takeTrap c 0x15 3 0 x.pc 0).afterInstr c))) ∧
  (∀ i a d n p x k l s c s1 s2 y v lk pc, Runs (.spawn i a d n p) x k l s → c = s.ctxOf x k l → srcD c a.toNat (s.begun x k l) = .ok (y, s1) →
      srcQ c d.toNat s1 = .ok (v, s2) → lk = (s2.group c.group).launch → pc = y &&& ~~~1#64 →
      (c.helper = true → exec (.spawn i a d n p) s = .next (s2.afterInstr c)) ∧
      (c.helper = false →
        ((s2.launch lk).f 68 4 = 0 → exec (.spawn i a d n p) s = .next ((s.takeTrap c 0x19 1 0 x.pc pc).afterInstr c)) ∧
        ((s2.launch lk).f 68 4 ≠ 0 → 2 ^ 56 ≤ pc.toNat → exec (.spawn i a d n p) s = .next ((s.takeTrap c 0x19 2 0 x.pc pc).afterInstr c)) ∧
        ((s2.launch lk).f 68 4 ≠ 0 → pc.toNat < 2 ^ 56 → (s2.launch lk).f 68 4 ≤ s2.pooled lk →
          exec (.spawn i a d n p) s = .next (s.deschedule k l { kind := .spawn, addr := pc })) ∧
        (pc.toNat < 2 ^ 56 → s2.pooled lk < (s2.launch lk).f 68 4 → exec (.spawn i a d n p) s =
          .next (((s2.modThread k l fun u => { u with time := max u.time 1 }).spawn lk {
            pc := pc, a0 := v.getD 0 0, a1 := v.getD 1 0, a2 := v.getD 2 0, a3 := v.getD 3 0, time := max (s2.thread k l).time 1, at_ := s2.clock }).afterInstr c)))) ∧
  (∀ (s : State) (lk : Nat) (r : SpawnRec) (bins : List (Nat × List SpawnRec)), bins = (s.launch lk).bins →
      ((∀ b ∈ bins, b.1 ≠ r.pc.toNat) → bins.length < 64 → ((s.spawn lk r).launch lk).bins = bins ++ [(r.pc.toNat, [r])]) ∧
      ((∃ b ∈ bins, b.1 = r.pc.toNat) → (∀ b ∈ bins, b.1 = r.pc.toNat → b.2.length < 31) → ((s.spawn lk r).launch lk).bins =
        bins.map fun b => if b.1 = r.pc.toNat then (b.1, b.2 ++ [r]) else b) ∧
      ((∃ b ∈ bins, b.1 = r.pc.toNat ∧ b.2.length = 31) → ((s.spawn lk r).launch lk).bins = bins.filter fun b => b.1 ≠ r.pc.toNat)) ∧
  (∀ a d n p x k l s c, Enters (.ticket a d n p) x k l s → c = s.ctxOf x k l →
      (c.helper = false → k % 64 ≠ 63 → exec (.ticket a d n p) s = .next (((s.takeTrap c 3 1 0 x.pc 0).afterInstr c).keepEntries x x.parts)) ∧
      (∀ s1 s2 va pl, namedPair c (2 * a.toNat) (s.begun x k l) = .ok (va, s1) → dst c d.toNat 2 s1 = .ok (pl, s2) →
        (c.helper = true → exec (.ticket a d n p) s = .next ((s2.doneLane c fun u => u.giveD pl 0).keepEntries x x.parts)) ∧
        (∀ pa kd s3, c.helper = false → k % 64 = 63 → access c va (.atomic 8) s2 = .ok ((pa, kd), s3) →
          (∀ old ahead, StoresNow c 8 pa kd s3 → old = s3.readNat pa 8 → ahead = (old / 2 ^ 32 + 2 ^ 32 - old % 2 ^ 32) % 2 ^ 32 →
            (1 ≤ ahead ∧ ahead ≤ 2 ^ 31 → ∃ t, exec (.ticket a d n p) s =
                .next ((t.doneLane c fun u => u.giveD pl (BitVec.ofNat 64 (old % 2 ^ 32))).keepEntries x x.parts) ∧
              StoresAt k l pa 8 ((old % 2 ^ 32 + 1) % 2 ^ 32 + old / 2 ^ 32 * 2 ^ 32) s3 t) ∧
            (¬ (1 ≤ ahead ∧ ahead ≤ 2 ^ 31) → ∃ t, exec (.ticket a d n p) s =
                .next ((t.doneLane c fun u => u.giveD pl (BitVec.ofNat 64 (old % 2 ^ 32 + 0xFFFFFFFF * 2 ^ 32))).keepEntries x x.parts) ∧
              StoresAt k l pa 8 old s3 t)) ∧
          (∀ old ahead cp, OwnsLine c pa kd cp s3 → cp.line.bad (pa % 128) 8 = false → old = leNat (cp.line.part (pa % 128) 8) →
            ahead = (old / 2 ^ 32 + 2 ^ 32 - old % 2 ^ 32) % 2 ^ 32 → 1 ≤ ahead ∧ ahead ≤ 2 ^ 31 →
            ∃ t, exec (.ticket a d n p) s = .next ((t.doneLane c fun u => u.giveD pl (BitVec.ofNat 64 (old % 2 ^ 32))).keepEntries x x.parts) ∧
              CopyWritten k l c.core (pa / 128) cp
                (cp.line.write (pa % 128) (leBytes ((old % 2 ^ 32 + 1) % 2 ^ 32 + old / 2 ^ 32 * 2 ^ 32) 8)) s3 t) ∧
          (Misses c pa kd s3 → exec (.ticket a d n p) s = .next ((s.missLane c (pa / 128) (c.asks 6 (s.thread k l).time
            (.ticket (pa % 128))) va false).keepEntries x x.parts))))) ∧
  (∀ e ∈ ([Instr.fenceIo, Instr.isync] : List (BitVec 1 → BitVec 4 → Instr)), ∀ n p x k l s c, Runs (e n p) x k l s → c = s.ctxOf x k l →
      ∃ t, exec (e n p) s = .next t ∧ t = (s.begun x k l).afterInstr c ∧ OnlyLane k l s t ∧ (t.thread k l).pc = c.next ∧
        (t.thread k l).v = (s.thread k l).v ∧ (t.thread k l).q = (s.thread k l).q) ∧
  (∀ a d n p x k l s c s1 s2 y z, Enters (.codepub a d n p) x k l s → c = s.ctxOf x k l → srcD c a.toNat (s.begun x k l) = .ok (y, s1) →
      src c d.toNat s1 = .ok (z, s2) →
      (c.helper = true ∨ z = 0 ∨ y.toNat + z.toNat ≤ 2 ^ 56 →
        exec (.codepub a d n p) s = .next ((s2.afterInstr c).keepEntries x x.parts) ∧ OnlyLane k l s (s2.afterInstr c) ∧
        (s2.thread k l).pc = c.next ∧ (s2.thread k l).q = (s.thread k l).q ∧ (s2.thread k l).v = (s.thread k l).v) ∧
      (c.helper = false → z ≠ 0 → 2 ^ 56 < y.toNat + z.toNat → exec (.codepub a d n p) s =
        .next (((s.takeTrap c 5 0 0 x.pc (if y.toNat < 2 ^ 56 then BitVec.ofNat 64 (2 ^ 56) else y)).afterInstr c).keepEntries x x.parts)))

/-- BAR in an executing lane that is no helper counts the lane's arrival at the group's next instance, orders it after the arrivals before
and deschedules the lane; GBAR does so at the gang's barrier where the gang has more than one group and at the group's otherwise; a helper
goes on; then the crews settle. The check of a group's barrier: when there is a participant and each has arrived at the next instance, the
instance is done, and each lane waiting there goes on with the largest arrival time; otherwise nothing changes. (R113, R262, R44) -/
def Obligations.BarrierArrivals : Prop :=
  (∀ j n p x k l s c, Runs (.bar j n p) x k l s → c = s.ctxOf x k l →
      exec (.bar j n p) s = .next (((if c.helper then s.begun x k l else (s.begun x k l).arriveBar c).afterInstr c).settleCrews x)) ∧
  (∀ j n p x k l s c, Runs (.gbar j n p) x k l s → c = s.ctxOf x k l →
      exec (.gbar j n p) s = .next (((if c.helper then s.begun x k l else match (s.group c.group).gang with
        | some g => if 1 < (s.gang g).groups.length then (s.begun x k l).arriveGbar c g else (s.begun x k l).arriveBar c
        | none => (s.begun x k l).arriveBar c).afterInstr c).settleCrews x)) ∧
  (∀ (s : State) (c : Ctx) (u v : Thread) (ts : Nat), u = s.thread c.crew c.lane → v = (s.arriveBar c).thread c.crew c.lane →
      ts = max u.time ((s.group c.group).barMax + 1) → v.barCount = u.barCount + 1 ∧ v.time = ts ∧ v.atBarrier .bar = true ∧
        v.gbarCount = u.gbarCount ∧ ((s.arriveBar c).group c.group).barMax = ts ∧ (s.arriveBar c).mem = s.mem) ∧
  (∀ (s : State) (c : Ctx) (g : Nat) (u v : Thread) (ts : Nat), u = s.thread c.crew c.lane → v = (s.arriveGbar c g).thread c.crew c.lane →
      ts = max u.time ((s.gang g).gbarMax + 1) → v.gbarCount = u.gbarCount + 1 ∧ v.time = ts ∧ v.atBarrier .gbar = true ∧
        v.barCount = u.barCount ∧ ((s.arriveGbar c g).gang g).gbarMax = ts ∧ (s.arriveGbar c g).mem = s.mem) ∧
  (∀ (s : State) (g : Nat) (t : State), t = s.checkBar g →
      ((s.participants [g] ≠ [] ∧ ∀ e ∈ s.participants [g], (s.group g).barInst < (s.thread e.1 e.2).barCount) →
        (t.group g).barInst = (s.group g).barInst + 1 ∧ (t.group g).barMax = 0 ∧ t.mem = s.mem ∧
        ∀ e ∈ s.participants [g], (s.thread e.1 e.2).atBarrier .bar = true →
          (t.thread e.1 e.2).time = (s.group g).barMax ∧ (t.thread e.1 e.2).atBarrier .bar = false) ∧
      (¬ (s.participants [g] ≠ [] ∧ ∀ e ∈ s.participants [g], (s.group g).barInst < (s.thread e.1 e.2).barCount) → t = s))

/-- Issued to an executing lane that is no helper: CHDEF replaces the chute by its image where the chute is free, the image is legal and
its entries fit the window, and takes SUB 1, 2, 3 or 4 of cause 0x11 otherwise; CHTAKE pushes the entry that its side may acquire, where
none waits before it, and waits otherwise; CHPUSH releases an entry the threads hold, or takes SUB 6; both take SUB 1 without a gang, 5
where threads have no side, 7 where the chute is not defined; a helper's CHTAKE pushes zero and the others do nothing. An acquire needs a
free or a published entry, and advances one count by one; a release advances its count over released entries; each end makes one acquire
and one release in a cycle, and a further release waits. Each answers a next state. (R278, R279, R280, R281, R282, R284, R400) -/
def Obligations.ChuteInstructions : Prop :=
  (∀ i a q n p x k l s c s1 y g ch, Runs (.chdef i a q n p) x k l s → c = s.ctxOf x k l → srcD c a.toNat (s.begun x k l) = .ok (y, s1) →
      ch = ({ image := y } : Chute) →
      (c.helper = true → exec (.chdef i a q n p) s = .next (s1.afterInstr c)) ∧
      (c.helper = false → (s.group c.group).gang = none →
        exec (.chdef i a q n p) s = .next ((s.takeTrap c 0x11 1 q.toNat x.pc 0).afterInstr c)) ∧
      (c.helper = false → (s.group c.group).gang = some g →
        (s.chuteArmed g q.toNat = true ∨ (s.chute g q.toNat).busy = true →
          exec (.chdef i a q n p) s = .next ((s.takeTrap c 0x11 2 q.toNat x.pc 0).afterInstr c)) ∧
        (s.chuteArmed g q.toNat = false → (s.chute g q.toNat).busy = false → imageOk y = false →
          exec (.chdef i a q n p) s = .next ((s.takeTrap c 0x11 3 q.toNat x.pc 0).afterInstr c)) ∧
        (s.chuteArmed g q.toNat = false → (s.chute g q.toNat).busy = false → imageOk y = true →
          (s.gang g).win1Size < ch.f 0 24 + ch.depth * ch.entry →
          exec (.chdef i a q n p) s = .next ((s.takeTrap c 0x11 4 q.toNat x.pc 0).afterInstr c)) ∧
        (s.chuteArmed g q.toNat = false → (s.chute g q.toNat).busy = false → imageOk y = true →
          ch.f 0 24 + ch.depth * ch.entry ≤ (s.gang g).win1Size →
          exec (.chdef i a q n p) s = .next ((s1.setChute g q.toNat ch).afterInstr c)))) ∧
  (∀ y : DWord, imageOk y = true ↔ (natBits y.toNat 40 24 = 0 ∧ natBits y.toNat 28 2 = 0 ∧ 1 ≤ natBits y.toNat 24 4 ∧ natBits y.toNat 24 4 ≤ 8 ∧
      natBits y.toNat 30 2 ≠ 3 ∧ natBits y.toNat 0 24 % 128 = 0)) ∧
  (∀ i q n p x k l s c w, Runs (.chtake i q n p) x k l s → c = s.ctxOf x k l →
      w = ({ kind := .chtake, addr := BitVec.ofNat 64 q.toNat, key := 32 * (((s.group c.group).gang).getD 0) + q.toNat } : Wait) →
      (c.helper = true → exec (.chtake i q n p) s = .next ((s.begun x k l).doneLane c fun u => u.push 0)) ∧
      (c.helper = false → (s.group c.group).gang = none → exec (.chtake i q n p) s = .next ((s.takeTrap c 0x11 1 q.toNat x.pc 0).afterInstr c)) ∧
      (∀ g ch, c.helper = false → (s.group c.group).gang = some g → ch = s.chute g q.toNat →
        (ch.side = 2 → exec (.chtake i q n p) s = .next ((s.takeTrap c 0x11 5 q.toNat x.pc 0).afterInstr c)) ∧
        (ch.side ≠ 2 → ch.defined = false → exec (.chtake i q n p) s = .next ((s.takeTrap c 0x11 7 q.toNat x.pc 0).afterInstr c)) ∧
        (ch.side < 2 → ch.defined = true → (((s.begun x k l).takers g q.toNat ≠ [] ∨ (ch.side = 0 ∧ ch.mayWrite s.clock = false) ∨
            (ch.side = 1 ∧ ch.mayRead s.clock = false)) →
          exec (.chtake i q n p) s = .next (s.deschedule k l w)) ∧
        (ch.side < 2 → ch.defined = true → (s.begun x k l).takers g q.toNat = [] → (ch.side = 0 → ch.mayWrite s.clock = true) →
            (ch.side = 1 → ch.mayRead s.clock = true) →
          ∃ e time d, exec (.chtake i q n p) s = .next (((s.begun x k l).setChute g q.toNat d).doneLane c fun u =>
              { u with time := max u.time time }.push (BitVec.ofNat 32 e)) ∧
            (ch.side = 0 → e = ch.wacq ∧ time = mget 0 ch.relTime (ch.wacq % ch.depth) ∧
              d = { ch with wacq := (ch.wacq + 1) % 2 ^ 32, wacqAt := s.clock + 1, held := ch.held ++ [ch.wacq] }) ∧
            (ch.side = 1 → e = ch.racq ∧ time = mget 0 ch.pubTime (ch.racq % ch.depth) ∧
              d = { ch with racq := (ch.racq + 1) % 2 ^ 32, racqAt := s.clock + 1, held := ch.held ++ [ch.racq] }))))) ∧
  (∀ i a q n p x k l s c s1 y, Runs (.chpush i a q n p) x k l s → c = s.ctxOf x k l → src c a.toNat (s.begun x k l) = .ok (y, s1) →
      (c.helper = true → exec (.chpush i a q n p) s = .next (s1.afterInstr c)) ∧
      (c.helper = false → (s.group c.group).gang = none → exec (.chpush i a q n p) s = .next ((s.takeTrap c 0x11 1 q.toNat x.pc 0).afterInstr c)) ∧
      (∀ g ch, c.helper = false → (s.group c.group).gang = some g → ch = s.chute g q.toNat →
        (ch.side = 2 → exec (.chpush i a q n p) s = .next ((s.takeTrap c 0x11 5 q.toNat x.pc 0).afterInstr c)) ∧
        (ch.side ≠ 2 → ch.defined = false → exec (.chpush i a q n p) s = .next ((s.takeTrap c 0x11 7 q.toNat x.pc 0).afterInstr c)) ∧
        (ch.side < 2 → ch.defined = true → y.toNat ∉ ch.held → exec (.chpush i a q n p) s = .next ((s.takeTrap c 0x11 6 q.toNat x.pc 0).afterInstr c)) ∧
        (ch.side < 2 → ch.defined = true → y.toNat ∈ ch.held → exec (.chpush i a q n p) s = .next ((s1.setChute g q.toNat
          ({ ch with held := ch.held.filter fun e => decide (e ≠ y.toNat) }.release (ch.side == 0) s.clock y.toNat (s.thread k l).time)).afterInstr c)))) ∧
  (∀ (ch : Chute) (clock n time : Nat),
      (ch.wrelAt ≠ clock + 1 → ch.wreleases = [] → n = ch.pub → ch.written = [] → ∃ d, ch.release true clock n time = d ∧ d.pub = (n + 1) % 2 ^ 32 ∧
        d.written = [] ∧ d.wrelAt = clock + 1 ∧ mget 0 d.pubTime (n % ch.depth) = time ∧ d.racq = ch.racq ∧ d.rel = ch.rel ∧ d.wacq = ch.wacq) ∧
      (ch.wrelAt ≠ clock + 1 → ch.wreleases = [] → n ≠ ch.pub → ch.pub ∉ ch.written → ∃ d, ch.release true clock n time = d ∧ d.pub = ch.pub ∧
        n ∈ d.written ∧ d.racq = ch.racq ∧ d.rel = ch.rel ∧ d.wacq = ch.wacq) ∧
      (ch.rrelAt ≠ clock + 1 → ch.rreleases = [] → n = ch.rel → ch.freed = [] → ∃ d, ch.release false clock n time = d ∧ d.rel = (n + 1) % 2 ^ 32 ∧
        d.freed = [] ∧ d.rrelAt = clock + 1 ∧ mget 0 d.relTime (n % ch.depth) = time ∧ d.racq = ch.racq ∧ d.pub = ch.pub ∧ d.wacq = ch.wacq) ∧
      (ch.rrelAt ≠ clock + 1 → ch.rreleases = [] → n ≠ ch.rel → ch.rel ∉ ch.freed → ∃ d, ch.release false clock n time = d ∧ d.rel = ch.rel ∧
        n ∈ d.freed ∧ d.racq = ch.racq ∧ d.pub = ch.pub ∧ d.wacq = ch.wacq) ∧
      (ch.wrelAt = clock + 1 → ch.release true clock n time = { ch with wreleases := ch.wreleases ++ [(n, time)] }) ∧
      (ch.rrelAt = clock + 1 → ch.release false clock n time = { ch with rreleases := ch.rreleases ++ [(n, time)] }) ∧
      (ch.mayWrite clock = true ↔ ch.canWrite = true ∧ ch.wacqAt ≠ clock + 1) ∧ (ch.mayRead clock = true ↔ ch.canRead = true ∧ ch.racqAt ≠ clock + 1)) ∧
  (∀ ch : Chute, ch.wacq < 2 ^ 32 → ch.rel < 2 ^ 32 → ch.racq < 2 ^ 32 → ch.pub < 2 ^ 32 →
      (ch.canWrite = true ↔ (ch.wacq + 2 ^ 32 - ch.rel) % 2 ^ 32 < ch.depth) ∧ (ch.canRead = true ↔ ch.pub ≠ ch.racq))

/-- Issued to an executing lane whose operands can be read and written: an ENG instruction takes the lowest free of 64 places of its
cluster and arms the operation its descriptor describes; with none free the lane waits, and a misaligned descriptor, a field or chute that
breaks its rules, or a RETILE source record that does, is a SUB of cause 0x12. WOPEN opens the first free window where its targets meet no
open window and the accumulators suffice, with SUB 1, 2, 3, 5 or 7 of cause 0x10 otherwise. WFINAL of an open window of the context closes
it and leaves its writer; of another it is SUB 4. BKLOAD takes the lowest free of 32 entries and gives its handle; the other bench
instructions add their command where the handle is live and its queue of 16 has room. A helper's do nothing but give zero. Each answers a
next state. (R283, R284, R287, R291, R259, R260, R261, R318, R319, R320, R400, R122) -/
def Obligations.EngineAndBenchSubmissions : Prop :=
  (∀ c va s, loadRecord c va 0 s = .ok ([], s)) ∧
  (∀ c va n y r s t u, loadMem c va 16 false s = .ok (y, t) → loadRecord c (va + 16) n t = .ok (r, u) →
      loadRecord c va (n + 1) s = .ok (leBytes y 16 ++ r, u)) ∧
  (∀ i kind tag full (a : BitVec 6) (n : BitVec 1) (p : BitVec 4),
    (∃ j f, (∃ t, i = Instr.copy j a f t n p ∧ kind = EngineKind.copy ∧ tag = (t == 1) ∧ full = (f == 1)) ∨
      (i = .retile j a f n p ∧ kind = .retile ∧ tag = false ∧ full = (f == 1)) ∨
      (i = .gath j a f n p ∧ kind = .gath ∧ tag = false ∧ full = (f == 1)) ∨ (i = .chain j a f n p ∧ kind = .chain ∧ tag = false ∧ full = (f == 1)) ∨
      (i = .coll j a f n p ∧ kind = .coll ∧ tag = false ∧ full = (f == 1))) →
    ∀ x k l s c s1 va, Runs i x k l s → c = s.ctxOf x k l → srcD c a.toNat (s.begun x k l) = .ok (va, s1) →
      (c.helper = true → exec i s = .next (s1.afterInstr c)) ∧
      (c.helper = false → (∀ q < 64, (mfind (s.cluster (c.core / 4)).armed q).isSome = true) →
        exec i s = .next (s.deschedule k l { kind := .eng, key := c.core / 4 })) ∧
      (∀ q s2, c.helper = false → q < 64 → mfind (s.cluster (c.core / 4)).armed q = none → va.toNat % 16 ≠ 0 →
        readable c va (if kind = .chain then 80 else 64) s1 = .ok ((), s2) →
        exec i s = .next ((s.takeTrap c 0x12 1 0 x.pc va).afterInstr c)) ∧
      (∀ q b s2, c.helper = false → q < 64 → mfind (s.cluster (c.core / 4)).armed q = none →
        (∀ r < q, (mfind (s.cluster (c.core / 4)).armed r).isSome = true) → va.toNat % 16 = 0 →
        loadRecord c va (if kind = .chain then 5 else 4) s1 = .ok (b, s2) →
        (∀ sub, descCheck kind b = some sub → exec i s = .next ((s.takeTrap c 0x12 sub 0 x.pc va).afterInstr c)) ∧
        (∀ sub, descCheck kind b = none → s1.descChuteCheck (s1.group c.group).gang kind b = some sub →
          exec i s = .next ((s.takeTrap c 0x12 sub 0 x.pc va).afterInstr c)) ∧
        (descCheck kind b = none → s1.descChuteCheck (s1.group c.group).gang kind b = none →
          (∀ r y z s3 s4 s5 sub, kind = .retile → loadRecord c (BitVec.ofNat 64 (field b 16 8)) 4 s2 = .ok (r, s3) →
            loadMem c (BitVec.ofNat 64 (field b 24 8) + 40) 8 false s3 = .ok (y, s4) →
            loadMem c (BitVec.ofNat 64 (field b 24 8) + 56) 4 false s4 = .ok (z, s5) → retileCheck b r z = some sub →
            exec i s = .next ((s.takeTrap c 0x12 sub 0 x.pc va).afterInstr c)) ∧
          (∀ r y z cap s3 s4 v gen,
            (kind = .copy ∨ kind = .gath ∨ kind = .chain → s3 = s2 ∧ r = [] ∧ y = 0 ∧ z = 0 ∧ cap = {}) →
            (kind = .coll → capLoad c (va + 32) s2 = .ok (cap, s3) ∧ r = [] ∧ y = 0 ∧ z = 0) →
            (kind = .retile → cap = {} ∧ retileCheck b r z = none ∧ ∃ s5 s6, loadRecord c (BitVec.ofNat 64 (field b 16 8)) 4 s2 = .ok (r, s5) ∧
              loadMem c (BitVec.ofNat 64 (field b 24 8) + 40) 8 false s5 = .ok (y, s6) ∧
              loadMem c (BitVec.ofNat 64 (field b 24 8) + 56) 4 false s6 = .ok (z, s3)) →
            (kind = .retile ∧ field b 33 1 / 16 % 8 = 4 → gen = stepSeed (s3.thread k l).seed ∧
              s4 = s3.modThread k l fun u => { u with seed := stepSeed u.seed }) →
            (¬ (kind = .retile ∧ field b 33 1 / 16 % 8 = 4) → gen = 0 ∧ s4 = s3) → myView c s4 = .ok (v, s4) →
            exec i s = .next (({ s4.modCluster (c.core / 4) fun cl => { cl with
                armed := mset cl.armed q {
                  kind := kind, agent := s4.agentOf v (s1.group c.group).gang, launch := (s4.group c.group).launch, desc := b, tag := tag
                  full := full, gen := gen, srcRec := r, slabList := y, slabCount := z, cap := cap, time := (s4.thread k l).time
                  order := s4.stamp } } with
              stamp := s4.stamp + 1 } : State).afterInstr c))))) ∧
  (∀ i a d n p x k l s c s1 s2 va pl, Enters (.wopen i a d n p) x k l s → c = s.ctxOf x k l → namedPair c a.toNat (s.begun x k l) = .ok (va, s1) →
      dst c d.toNat 1 s1 = .ok (pl, s2) →
      (c.helper = true → exec (.wopen i a d n p) s = .next ((s2.doneLane c fun u => u.giveW pl 0).keepEntries x x.parts)) ∧
      (∀ b s3 size ok, c.helper = false → loadRecord c va 2 s2 = .ok (b, s3) → size = (if field b 12 1 = 0 then 8 else 4) →
        ok = (decide (field b 12 1 ≤ 1 ∧ field b 13 1 < 4 ∧ field b 14 2 = 0 ∧ field b 24 8 = 0 ∧ 4 ≤ field b 8 4 ∧ field b 8 4 ≤ 65536 ∧
          field b 8 4 % size = 0 ∧ field b 0 8 % size = 0 ∧ (field b 0 8 + field b 8 4 - 1) / 65536 = field b 0 8 / 65536 ∧ field b 16 8 % 4 = 0)) →
        (ok = false → exec (.wopen i a d n p) s = .next (((s.takeTrap c 0x10 5 0 x.pc va).afterInstr c).keepEntries x x.parts)) ∧
        (ok = true → (∀ r < 256, (s3.window r).open_ = true) →
          exec (.wopen i a d n p) s = .next (((s.takeTrap c 0x10 1 0 x.pc va).afterInstr c).keepEntries x x.parts)) ∧
        (∀ win w v s4 die meets, ok = true → win < 256 → (s3.window win).open_ = false → (∀ r < win, (s3.window r).open_ = true) →
          myView c s3 = .ok (v, s3) →
          openTargets c size (field b 13 1 % 2 == 1) (natBits (field b 13 1) 1 1 == 1) (BitVec.ofNat 64 (field b 0 8)) 0 (field b 8 4 / size)
            {
              agent := s3.agentOf v (s3.group c.group).gang, launch := (s3.group c.group).launch, target := field b 0 8, length := field b 8 4
              f64 := field b 12 1 == 0, setFull := natBits (field b 13 1) 1 1 == 1, done := field b 16 8 } s3 = .ok (w, s4) →
          die = homeDie (targetPa size 0 w.phys) →
          (meets ↔ ∃ e ∈ s4.windows, e.2.open_ = true ∧ e.2.ctx = w.ctx ∧ ∃ q ∈ e.2.phys, ∃ r ∈ w.phys, q.1 < r.1 + r.2 ∧ r.1 < q.1 + q.2) →
          (field b 12 1 = 0 → 4096 < s4.windowAccs die true + field b 8 4 / size →
            exec (.wopen i a d n p) s = .next (((s.takeTrap c 0x10 2 0 x.pc va).afterInstr c).keepEntries x x.parts)) ∧
          ((field b 12 1 = 0 → s4.windowAccs die true + field b 8 4 / size ≤ 4096) →
            (meets → exec (.wopen i a d n p) s =
              .next (((s.takeTrap c 0x10 3 0 x.pc (BitVec.ofNat 64 (field b 0 8))).afterInstr c).keepEntries x x.parts)) ∧
            (¬ meets → field b 12 1 = 1 → 65536 < s4.windowAccs die false + s4.benchReserved die + field b 8 4 / size →
              exec (.wopen i a d n p) s = .next (((s.takeTrap c 0x10 7 0 x.pc va).afterInstr c).keepEntries x x.parts)) ∧
            (¬ meets → (field b 12 1 = 1 → s4.windowAccs die false + s4.benchReserved die + field b 8 4 / size ≤ 65536) →
              exec (.wopen i a d n p) s = .next (((s4.modWindow win fun _ => { w with
                  gen := ((s4.window win).gen + 1) % 64, open_ := true, die := die, time := (s3.thread k l).time }).doneLane c
                fun u => u.giveW pl (BitVec.ofNat 32 (win + 256 * (((s4.window win).gen + 1) % 64)))).keepEntries x x.parts)))))) ∧
  (∀ i a n p x k l s c s1 y w, Enters (.wfinal i a n p) x k l s → c = s.ctxOf x k l → src c a.toNat (s.begun x k l) = .ok (y, s1) →
      w = s.window (y.toNat % 256) →
      (c.helper = true → exec (.wfinal i a n p) s = .next ((s1.afterInstr c).keepEntries x x.parts)) ∧
      (c.helper = false → w.open_ = true → w.ctx = (s.launch (s.group c.group).launch).ctx → y.toNat = y.toNat % 256 + 256 * w.gen →
        exec (.wfinal i a n p) s = .next ((({ s1.modWindow (y.toNat % 256) fun w => { w with
            open_ := false
            accs := [] } with writers := s1.writers ++ [(y.toNat % 256, { w with
            open_ := false
            time := max w.time (s1.thread k l).time })] } : State).afterInstr c).keepEntries x x.parts)) ∧
      (c.helper = false → ¬ (w.open_ = true ∧ w.ctx = (s.launch (s.group c.group).launch).ctx ∧ y.toNat = y.toNat % 256 + 256 * w.gen) →
        exec (.wfinal i a n p) s = .next (((s.takeTrap c 0x10 4 0 x.pc 0).afterInstr c).keepEntries x x.parts))) ∧
  (∀ i a d n p x k l s c s1 s2 va pl, Enters (.bkload i a d n p) x k l s → c = s.ctxOf x k l → srcD c a.toNat (s.begun x k l) = .ok (va, s1) →
      dst c d.toNat 1 s1 = .ok (pl, s2) →
      (c.helper = true → exec (.bkload i a d n p) s = .next ((s2.doneLane c fun u => u.giveW pl 0).keepEntries x x.parts)) ∧
      (c.helper = false → 2 ^ 56 ≤ va.toNat →
        exec (.bkload i a d n p) s = .next (((s.takeTrap c 5 0 0 x.pc va).afterInstr c).keepEntries x x.parts)) ∧
      (c.helper = false → va.toNat < 2 ^ 56 → va.toNat % 64 ≠ 0 →
        exec (.bkload i a d n p) s = .next (((s.takeTrap c 6 0 0 x.pc va).afterInstr c).keepEntries x x.parts)) ∧
      (∀ b s3, c.helper = false → va.toNat < 2 ^ 56 → va.toNat % 64 = 0 → loadRecord c va 8 s2 = .ok (b, s3) →
        ((∀ e < 32, (s3.benchLaunch e).live = true) →
          exec (.bkload i a d n p) s = .next ((s.deschedule k l { kind := .bench, addr := va, key := 32 }).keepEntries x x.parts)) ∧
        (∀ e v, e < 32 → (s3.benchLaunch e).live = false → (∀ r < e, (s3.benchLaunch r).live = true) → myView c s3 = .ok (v, s3) →
          exec (.bkload i a d n p) s = .next ((({ s3.modBenchLaunch e fun _ => {
              gen := ((s3.benchLaunch e).gen + 1) % 64, live := true, agent := s3.agentOf v (s3.group c.group).gang
              launch := (s3.group c.group).launch, accepted := s3.stamp
              queue := [{ op := 0, block := b, time := (s3.thread k l).time }], time := (s3.thread k l).time } with
            stamp := s3.stamp + 1 } : State).doneLane c fun u =>
            u.giveW pl (BitVec.ofNat 32 (e + 256 * (((s3.benchLaunch e).gen + 1) % 64)))).keepEntries x x.parts)))) ∧
  (∀ e ∈ ([(Instr.bkvec, 1), (Instr.bkrun, 2), (Instr.bkdrain, 3), (Instr.ownb, 4), (Instr.ownc, 5)] :
      List ((BitVec 4 → BitVec 6 → BitVec 6 → BitVec 1 → BitVec 4 → Instr) × Nat)),
    ∀ i a d n p x k l s c s1 s2 va y h, Enters (e.1 i a d n p) x k l s → c = s.ctxOf x k l → srcD c a.toNat (s.begun x k l) = .ok (va, s1) →
      src c d.toNat s1 = .ok (y, s2) → h = y.toNat % 32 →
      (c.helper = true → exec (e.1 i a d n p) s = .next ((s2.afterInstr c).keepEntries x x.parts)) ∧
      (c.helper = false → 2 ^ 56 ≤ va.toNat →
        exec (e.1 i a d n p) s = .next (((s.takeTrap c 5 0 0 x.pc va).afterInstr c).keepEntries x x.parts)) ∧
      (c.helper = false → va.toNat < 2 ^ 56 → va.toNat % 64 ≠ 0 →
        exec (e.1 i a d n p) s = .next (((s.takeTrap c 6 0 0 x.pc va).afterInstr c).keepEntries x x.parts)) ∧
      (∀ b s3 q good, c.helper = false → va.toNat < 2 ^ 56 → va.toNat % 64 = 0 → loadRecord c va 8 s2 = .ok (b, s3) → q = s3.benchLaunch h →
        (good ↔ y.toNat = h + 256 * q.gen ∧ q.live = true ∧ q.ctx = (s3.launch (s3.group c.group).launch).ctx ∧ q.ownc = false) →
        (¬ good → exec (e.1 i a d n p) s = .next (((s.takeTrap c 0x14 6 0 x.pc va).afterInstr c).keepEntries x x.parts)) ∧
        (good → 16 ≤ q.queue.length → exec (e.1 i a d n p) s =
          .next ((s.deschedule k l { kind := .bench, addr := y.setWidth 64, key := h }).keepEntries x x.parts)) ∧
        (good → q.queue.length < 16 → exec (e.1 i a d n p) s =
          .next (((s3.modBenchLaunch h fun w => { w with
            queue := w.queue ++ [{ op := e.2, block := b, time := (s3.thread k l).time }]
            ownc := w.ownc || e.2 == 5 }).afterInstr c).keepEntries x x.parts))))

/-- In a stream, the instructions of majors 0x00 to 0x17 on s0 to s15 put the 64-bit result in the destination, whatever the width
variant, set NZ by whether it is zero, and go on at pc + 4; BR, CALL, JMP, CALLR and RET transfer with sense 0 or NZ 1, CALL linking s15,
CALLR its destination, and JMP and RET to 0 ending the stream; MFS and MTS move the registers of R294; an operand above 15 ends the launch
with 0x102, another selector of guard or system register and an instruction that streams do not have with 0x101. Nothing but the cluster
changes. Each answers a next state. (R202, R178, R293, R294, R402, R403) -/
def Obligations.StreamScalars : Prop :=
  (∀ e ∈ ([(Instr.add, fun _ y z => y + z), (Instr.sub, fun _ y z => y - z), (Instr.mul, fun _ y z => y * z), (Instr.and, fun _ y z => y &&& z),
      (Instr.or, fun _ y z => y ||| z), (Instr.xor, fun _ y z => y ^^^ z), (Instr.andn, fun _ y z => y &&& ~~~z),
      (Instr.shl, fun _ y z => y <<< (z.toNat % 64)), (Instr.shr, fun _ y z => y >>> (z.toNat % 64)),
      (Instr.sra, fun _ y z => BitVec.ofInt 64 (y.toInt / 2 ^ (z.toNat % 64))),
      (Instr.mulh, fun v y z => if v = 0 then BitVec.ofInt 64 (y.toInt * z.toInt / 2 ^ 64) else BitVec.ofNat 64 (y.toNat * z.toNat / 2 ^ 64)),
      (Instr.div, fun v y z => if z = 0 then BitVec.allOnes 64 else if v = 0 then BitVec.ofInt 64 (y.toInt.tdiv z.toInt) else BitVec.ofNat 64 (y.toNat / z.toNat)),
      (Instr.rem, fun v y z => if z = 0 then y else if v = 0 then BitVec.ofInt 64 (y.toInt.tmod z.toInt) else BitVec.ofNat 64 (y.toNat % z.toNat)),
      (Instr.min, fun v y z => if v = 0 then BitVec.ofInt 64 (min y.toInt z.toInt) else BitVec.ofNat 64 (min y.toNat z.toNat)),
      (Instr.max, fun v y z => if v = 0 then BitVec.ofInt 64 (max y.toInt z.toInt) else BitVec.ofNat 64 (max y.toNat z.toNat))] :
      List ((BitVec 1 → BitVec 6 → BitVec 6 → BitVec 6 → BitVec 1 → BitVec 4 → Instr) × (BitVec 1 → DWord → DWord → DWord))),
    ∀ v b a d n s cl pc w r, s.unit = .stream cl pc w → r = e.2 v (mget 0 (s.cluster cl).s a.toNat) (mget 0 (s.cluster cl).s b.toNat) →
      (a.toNat < 16 → b.toNat < 16 → d.toNat < 16 → exec (e.1 v b a d n 15) s = .next (s.modCluster cl fun k =>
        { k with s := mset k.s d.toNat r, nz := r != 0, pc := pc + 4 })) ∧
      (16 ≤ a.toNat ∨ 16 ≤ b.toNat ∨ 16 ≤ d.toNat → exec (e.1 v b a d n 15) s = .next (s.terminate (s.streamLaunch cl) 0x102)) ∧
      ∀ p, p ≠ 15 → exec (e.1 v b a d n p) s = .next (s.terminate (s.streamLaunch cl) 0x101)) ∧
  (∀ e ∈ ([(Instr.addi, fun i y => y + BitVec.ofInt 64 i.toInt), (Instr.andi, fun i y => y &&& BitVec.ofInt 64 i.toInt),
      (Instr.ori, fun i y => y ||| BitVec.ofInt 64 i.toInt), (Instr.xori, fun i y => y ^^^ BitVec.ofInt 64 i.toInt),
      (Instr.shli, fun i y => y <<< i.toNat), (Instr.shri, fun i y => y >>> i.toNat), (Instr.srai, fun i y => BitVec.ofInt 64 (y.toInt / 2 ^ i.toNat))] :
      List ((BitVec 7 → BitVec 6 → BitVec 6 → BitVec 1 → BitVec 4 → Instr) × (BitVec 7 → DWord → DWord))),
    ∀ i a d n s cl pc w r, s.unit = .stream cl pc w → a.toNat < 16 → d.toNat < 16 → r = e.2 i (mget 0 (s.cluster cl).s a.toNat) →
      exec (e.1 i a d n 15) s = .next (s.modCluster cl fun k => { k with s := mset k.s d.toNat r, nz := r != 0, pc := pc + 4 })) ∧
  (∀ e ∈ ([(Instr.movi, fun i _ => BitVec.ofInt 64 i.toInt), (Instr.movh, fun i y => BitVec.ofNat 64 (y.toNat * 2 ^ 13 + i.toNat))] :
      List ((BitVec 13 → BitVec 6 → BitVec 1 → BitVec 4 → Instr) × (BitVec 13 → DWord → DWord))),
    ∀ i d n s cl pc w r, s.unit = .stream cl pc w → d.toNat < 16 → r = e.2 i (mget 0 (s.cluster cl).s d.toNat) →
      exec (e.1 i d n 15) s = .next (s.modCluster cl fun k => { k with s := mset k.s d.toNat r, nz := r != 0, pc := pc + 4 })) ∧
  (∀ (d : BitVec 19) (n : BitVec 1) (s : State) (cl : Nat) (pc : DWord) (w : Nat), s.unit = .stream cl pc w →
      (n = 0 ∨ (s.cluster cl).nz = true →
        exec (.br d n 15) s = .next (s.modCluster cl fun k => { k with pc := pc + BitVec.ofInt 64 (2 * d.toInt) }) ∧
        exec (.call d n 15) s = .next (s.modCluster cl fun k =>
          { k with s := mset k.s 15 (pc + 4), pc := pc + BitVec.ofInt 64 (2 * d.toInt) })) ∧
      (n = 1 → (s.cluster cl).nz = false → exec (.br d n 15) s = .next (s.modCluster cl fun k => { k with pc := pc + 4 }) ∧
        exec (.call d n 15) s = .next (s.modCluster cl fun k => { k with pc := pc + 4 }))) ∧
  (∀ (i : BitVec 4) (a d : BitVec 6) (n : BitVec 1) (s : State) (cl : Nat) (pc : DWord) (w : Nat) (y : DWord), s.unit = .stream cl pc w →
      a.toNat < 16 → d.toNat < 16 → y = mget 0 (s.cluster cl).s a.toNat →
      (n = 0 ∨ (s.cluster cl).nz = true →
        (y ≠ 0 → exec (.jmp i a n 15) s = .next (s.modCluster cl fun k => { k with pc := y }) ∧
          exec (.ret i a n 15) s = .next (s.modCluster cl fun k => { k with pc := y })) ∧
        (y = 0 → exec (.jmp i a n 15) s = .next (s.streamEnd cl) ∧ exec (.ret i a n 15) s = .next (s.streamEnd cl)) ∧
        exec (.callr i a d n 15) s = .next (s.modCluster cl fun k => { k with s := mset k.s d.toNat (pc + 4), pc := y })) ∧
      (n = 1 → (s.cluster cl).nz = false →
        exec (.jmp i a n 15) s = .next (s.modCluster cl fun k => { k with pc := pc + 4 }) ∧
        exec (.ret i a n 15) s = .next (s.modCluster cl fun k => { k with pc := pc + 4 }) ∧
        exec (.callr i a d n 15) s = .next (s.modCluster cl fun k => { k with pc := pc + 4 }))) ∧
  (∀ (q : BitVec 7) (d : BitVec 6) (n : BitVec 1) (s : State) (cl : Nat) (pc : DWord) (w : Nat), s.unit = .stream cl pc w →
      (q ∈ [0x00#7, 0x04#7, 0x06#7, 0x07#7, 0x09#7, 0x0A#7] → d.toNat < 16 → ∃ y, exec (.mfs q d n 15) s =
          .next (s.modCluster cl fun k => { k with s := mset k.s d.toNat y, pc := pc + 4 }) ∧
        (q = 0x00 → y = 0x08400A864080FFFC#64) ∧ (q = 0x04 → y = (s.cluster cl).fpstat.setWidth 64) ∧ (q = 0x06 → y = (s.cluster cl).gen) ∧
        (q = 0x07 → y = BitVec.ofNat 64 s.clock)) ∧
      (q ∉ [0x00#7, 0x04#7, 0x06#7, 0x07#7, 0x09#7, 0x0A#7] → exec (.mfs q d n 15) s = .next (s.terminate (s.streamLaunch cl) 0x101)) ∧
      (d.toNat < 16 → q = 0x04 → exec (.mts q d n 15) s = .next (s.modCluster cl fun k =>
        { k with fpstat := (mget 0 k.s d.toNat).lo &&& 0x3F, pc := pc + 4 })) ∧
      (d.toNat < 16 → q = 0x06 → exec (.mts q d n 15) s = .next (s.modCluster cl fun k => { k with gen := mget 0 k.s d.toNat, pc := pc + 4 })) ∧
      (q ≠ 0x04 → q ≠ 0x06 → exec (.mts q d n 15) s = .next (s.terminate (s.streamLaunch cl) 0x101))) ∧
  (∀ v b a d n p (i : BitVec 4) (s : State) (cl : Nat) (pc : DWord) (w : Nat), s.unit = .stream cl pc w →
      exec (.fadd v b a d n p) s = .next (s.terminate (s.streamLaunch cl) 0x101) ∧ exec (.popc i a d n p) s = .next (s.terminate (s.streamLaunch cl) 0x101) ∧
      exec (.exit n p) s = .next (s.terminate (s.streamLaunch cl) 0x101) ∧ exec (.tret n p) s = .next (s.terminate (s.streamLaunch cl) 0x101))

/-- In a stream: MRES of a free handle at an aligned address reads the record and, if it is legal, makes the reservation with every slot
EMPTY; MREL frees a handle that no issued instruction names, and stalls while one does; MLOAD begins a fill of a legal slot; MCHIN stalls
until the chute has a published entry and then acquires it for a fill; MMA of an A and a B handle of a legal pair, MZERO, MOUT with a free
chute entry and MSTORE of an OUT handle join the queue, and stall while it holds eight. A failing check ends the launch. No byte of memory
changes but by the loads' resolution. Each answers a next state. (R296, R298, R299, R300, R302, R303, R402, R403) -/
def Obligations.StreamMatrixInstructions : Prop :=
  (∀ (r h : BitVec 4) (n : BitVec 1) (s : State) (cl : Nat) (pc : DWord) (w : Nat) (k : Cluster) (va : Nat), s.unit = .stream cl pc w → k = s.cluster cl →
      va = (mget 0 k.s r.toNat).toNat →
      ((mfind k.handles h.toNat).isSome = true → exec (.mres r h n) s = .next (s.terminate (s.streamLaunch cl) 0x113)) ∧
      (mfind k.handles h.toNat = none → 2 ^ 56 ≤ va → exec (.mres r h n) s = .next (s.terminate (s.streamLaunch cl) 0x105)) ∧
      (mfind k.handles h.toNat = none → va < 2 ^ 56 → va % 32 ≠ 0 → exec (.mres r h n) s = .next (s.terminate (s.streamLaunch cl) 0x106)) ∧
      (∀ b s1, mfind k.handles h.toNat = none → va < 2 ^ 56 → va % 32 = 0 → s.streamLoad cl va 32 = .ok (b, s1) →
        (recordCheck k { record := b } = none → exec (.mres r h n) s = .next (s1.modCluster cl fun k => { k with
          handles := mset k.handles h.toNat { record := b }, pc := k.pc + 4, stream := .running })) ∧
        (recordCheck k { record := b } ≠ none → exec (.mres r h n) s = .next (s1.terminate (s1.streamLaunch cl) 0x113)))) ∧
  (∀ (h : BitVec 4) (n : BitVec 1) (s : State) (cl : Nat) (pc : DWord) (w : Nat) (k : Cluster), s.unit = .stream cl pc w → k = s.cluster cl →
      (mfind k.handles h.toNat = none → exec (.mrel h n) s = .next (s.terminate (s.streamLaunch cl) 0x113)) ∧
      ((mfind k.handles h.toNat).isSome = true →
        ((∃ f ∈ k.fills, f.handle = h.toNat) ∨ (∃ o ∈ k.queue, h.toNat ∈ o.names) →
          exec (.mrel h n) s = .next (s.modCluster cl fun k => { k with stream := .stalled })) ∧
        ((∀ f ∈ k.fills, f.handle ≠ h.toNat) → (∀ o ∈ k.queue, h.toNat ∉ o.names) → exec (.mrel h n) s =
          .next (s.modCluster cl fun k => { k with handles := mdel k.handles h.toNat, pc := k.pc + 4, stream := .running })))) ∧
  (∀ (r h : BitVec 4) (n : BitVec 1) (s : State) (cl : Nat) (pc : DWord) (w : Nat) (k : Cluster) (slot : Nat), s.unit = .stream cl pc w →
      k = s.cluster cl → slot = (mget 0 k.s (r.toNat + 1)).toNat →
      (r.toNat % 2 = 1 → exec (.mload r h n) s = .next (s.terminate (s.streamLaunch cl) 0x102)) ∧
      (r.toNat % 2 = 0 → (∀ x, mfind k.handles h.toNat = some x → x.role = 2 ∨ x.tiles ≤ slot) →
        exec (.mload r h n) s = .next (s.terminate (s.streamLaunch cl) 0x113)) ∧
      (∀ x, r.toNat % 2 = 0 → mfind k.handles h.toNat = some x → x.role ≠ 2 → slot < x.tiles → ∃ t, exec (.mload r h n) s = .next t ∧
        t = ({ s with stamp := s.stamp + 1 } : State).modCluster cl (fun k => { k with
          fills := k.fills ++ [{ handle := h.toNat, slot := slot, tile := (mget 0 k.s r.toNat).toNat, time := k.time, order := s.stamp }]
          pc := k.pc + 4, stream := .running }))) ∧
  (∀ (r h : BitVec 4) (n : BitVec 1) (s : State) (cl : Nat) (pc : DWord) (w : Nat) (k : Cluster) (g ch : Nat) (slot : DWord) (x : Handle) (q : Chute),
      s.unit = .stream cl pc w → k = s.cluster cl → r.toNat % 2 = 0 → k.gang = some g → ch = (mget 0 k.s r.toNat).toNat → ch < 32 →
      slot = mget 0 k.s (r.toNat + 1) → mfind k.handles h.toNat = some x → x.role ≠ 2 → q = s.chute g ch → q.defined = true → q.side ≠ 1 →
      (slot = BitVec.allOnes 64 ∨ slot.toNat < x.tiles) →
      (q.mayRead s.clock = false → exec (.mchin r h n) s = .next (s.modCluster cl fun k => { k with stream := .stalled })) ∧
      (∀ d time, q.mayRead s.clock = true → d = { q with racq := (q.racq + 1) % 2 ^ 32, racqAt := s.clock + 1 } →
        time = max (mget 0 q.pubTime (q.racq % q.depth)) k.time →
        (slot = BitVec.allOnes 64 → exec (.mchin r h n) s = .next ((s.setChute g ch (d.release false s.clock q.racq time)).modCluster cl fun k =>
          { k with time := time, pc := k.pc + 4, stream := .running })) ∧
        (slot ≠ BitVec.allOnes 64 → exec (.mchin r h n) s = .next (({ s.setChute g ch d with stamp := s.stamp + 1 } : State).modCluster cl fun k => { k with
          fills := k.fills ++ [{ handle := h.toNat, slot := slot.toNat, tile := 0, entry := some (ch, q.racq), time := time, order := s.stamp }]
          pc := k.pc + 4, stream := .running })))) ∧
  (∀ (r h : BitVec 4) (n : BitVec 1) (s : State) (cl : Nat) (pc : DWord) (w : Nat) (k : Cluster), s.unit = .stream cl pc w → k = s.cluster cl →
      (r.toNat % 2 = 1 → exec (.mchin r h n) s = .next (s.terminate (s.streamLaunch cl) 0x102)) ∧
      (r.toNat % 2 = 0 → ((∀ x, mfind k.handles h.toNat = some x → x.role = 2 ∨ (mget 0 k.s (r.toNat + 1) ≠ BitVec.allOnes 64 ∧
          x.tiles ≤ (mget 0 k.s (r.toNat + 1)).toNat)) ∨ 32 ≤ (mget 0 k.s r.toNat).toNat ∨
          (∃ g, k.gang = some g ∧ ((s.chute g (mget 0 k.s r.toNat).toNat).defined = false ∨ (s.chute g (mget 0 k.s r.toNat).toNat).side = 1))) →
        exec (.mchin r h n) s = .next (s.terminate (s.streamLaunch cl) 0x113))) ∧
  (∀ (v : BitVec 1) (b a : BitVec 4) (c : BitVec 3) (n : BitVec 1) (s : State) (cl : Nat) (pc : DWord) (w : Nat) (k : Cluster), s.unit = .stream cl pc w →
      k = s.cluster cl →
      (mfind k.handles a.toNat = none ∨ mfind k.handles b.toNat = none → exec (.mma v b a c n) s = .next (s.terminate (s.streamLaunch cl) 0x113)) ∧
      (∀ x y, mfind k.handles a.toNat = some x → mfind k.handles b.toNat = some y →
        (mmaPair x.format y.format = none ∨ x.role ≠ 0 ∨ y.role ≠ 1 → exec (.mma v b a c n) s = .next (s.terminate (s.streamLaunch cl) 0x113)) ∧
        (∀ z j, mmaPair x.format y.format = some (z, j) → x.role = 0 → y.role = 1 → (z = .fp64 → c.toNat % 2 = 0) → k.queue.length < 8 →
          exec (.mma v b a c n) s = .next (({ s with stamp := s.stamp + 1 } : State).modCluster cl fun k => { k with
            queue := k.queue ++ [{ instr := .mma v b a c n, word := w, order := s.stamp, time := k.time }], pc := k.pc + 4, stream := .running })))) ∧
  (∀ (c : BitVec 3) (n : BitVec 1) (s : State) (cl : Nat) (pc : DWord) (w : Nat) (k : Cluster), s.unit = .stream cl pc w → k = s.cluster cl →
      (k.queue.length < 8 → exec (.mzero c n) s = .next (({ s with stamp := s.stamp + 1 } : State).modCluster cl fun k => { k with
        queue := k.queue ++ [{ instr := .mzero c n, word := w, order := s.stamp, time := k.time }], pc := k.pc + 4, stream := .running })) ∧
      (8 ≤ k.queue.length → exec (.mzero c n) s = .next (s.modCluster cl fun k => { k with stream := .stalled }))) ∧
  (∀ (r : BitVec 4) (c : BitVec 3) (n : BitVec 1) (s : State) (cl : Nat) (pc : DWord) (w : Nat) (k : Cluster) (g : Nat) (y : DWord) (q : Chute) (x : Handle),
      s.unit = .stream cl pc w → k = s.cluster cl → k.gang = some g → y = mget 0 k.s r.toNat → y &&& ~~~0xF1F#64 = 0 →
      mfind k.handles (y.toNat / 256 % 16) = some x → x.role = 2 → q = s.chute g (y.toNat % 32) → q.defined = true → q.side ≠ 0 →
      (8 ≤ k.queue.length ∨ q.mayWrite s.clock = false → exec (.mout r c n) s = .next (s.modCluster cl fun k => { k with stream := .stalled })) ∧
      (∀ time, k.queue.length < 8 → q.mayWrite s.clock = true → time = max k.time (mget 0 q.relTime (q.wacq % q.depth)) →
        exec (.mout r c n) s = .next (({ s.setChute g (y.toNat % 32) { q with wacq := (q.wacq + 1) % 2 ^ 32, wacqAt := s.clock + 1 } with
          stamp := s.stamp + 1 } : State).modCluster cl fun k => { k with
            queue := k.queue ++ [{ instr := .mout r c n, word := w, s0 := y, entry := some q.wacq, order := s.stamp, time := time }]
            time := time, pc := k.pc + 4, stream := .running }))) ∧
  (∀ (r : BitVec 4) (c : BitVec 3) (n : BitVec 1) (s : State) (cl : Nat) (pc : DWord) (w : Nat) (k : Cluster) (y : DWord), s.unit = .stream cl pc w →
      k = s.cluster cl → y = mget 0 k.s r.toNat →
      (y &&& ~~~0xF1F#64 ≠ 0 ∨ (∀ x, mfind k.handles (y.toNat / 256 % 16) = some x → x.role ≠ 2) ∨ (∃ g, k.gang = some g ∧
        ((s.chute g (y.toNat % 32)).defined = false ∨ (s.chute g (y.toNat % 32)).side = 0)) →
        exec (.mout r c n) s = .next (s.terminate (s.streamLaunch cl) 0x113))) ∧
  (∀ (r : BitVec 4) (c : BitVec 3) (n : BitVec 1) (s : State) (cl : Nat) (pc : DWord) (w : Nat) (k : Cluster) (y : DWord) (x : Handle),
      s.unit = .stream cl pc w → k = s.cluster cl → y = mget 0 k.s (r.toNat + 1) →
      (r.toNat % 2 = 1 → exec (.mstore r c n) s = .next (s.terminate (s.streamLaunch cl) 0x102)) ∧
      (r.toNat % 2 = 0 → y.toNat < 16 → mfind k.handles y.toNat = some x → x.role = 2 → k.queue.length < 8 →
        exec (.mstore r c n) s = .next (({ s with stamp := s.stamp + 1 } : State).modCluster cl fun k => { k with
          queue := k.queue ++ [{ instr := .mstore r c n, word := w, s0 := mget 0 k.s r.toNat, s1 := y, order := s.stamp, time := k.time }]
          pc := k.pc + 4, stream := .running })) ∧
      (r.toNat % 2 = 0 → y.toNat < 16 → mfind k.handles y.toNat = some x → x.role = 2 → 8 ≤ k.queue.length →
        exec (.mstore r c n) s = .next (s.modCluster cl fun k => { k with stream := .stalled })) ∧
      (r.toNat % 2 = 0 → (16 ≤ y.toNat ∨ ∀ x, mfind k.handles y.toNat = some x → x.role ≠ 2) →
        exec (.mstore r c n) s = .next (s.terminate (s.streamLaunch cl) 0x113)))

/-- Stepped by a stack's column command, FD, FS, MAC, YZERO, PUSH, NEXT and PUSHN act, with the word's other slots, in each active bench
of the round and answer the next state. In one bench: the arithmetic slot zeroes an accumulator and its flags, or adds each lane's product
in the plain layout; the write-back slot places an entry with the sixteen lanes and clears the accumulator, and steps the slot, seeking
the next; the fetch slot reads the column of the next bank, or a scale column, as a load of the launch agent, with zero beyond the row.
Each slot sees what the slots before it did. (R311, R312, R313, R314, R315, R105, R118) -/
def Obligations.BenchWords : Prop :=
  (∀ (s : State) (k : Nat), s.unit = .column k →
      (∀ (g : BitVec 2) (a : BitVec 16) (w : BitVec 8), exec (.fd g a w) s = .next (s.stepWord k ((0x20 + g.toNat) * 2 ^ 24 + a.toNat * 2 ^ 8 + w.toNat))) ∧
      (∀ (b : BitVec 2) (q z : BitVec 1) (a : BitVec 16) (w : BitVec 8), exec (.fs b q z a w) s =
        .next (s.stepWord k ((0x40 + 4 * b.toNat + 2 * q.toNat + z.toNat) * 2 ^ 24 + a.toNat * 2 ^ 8 + w.toNat))) ∧
      (∀ (f : BitVec 8) (y g : BitVec 2) (e : BitVec 3) (z : BitVec 1) (w : BitVec 8), exec (.mac f y g e z w) s = .next (s.stepWord k (f.toNat * 2 ^ 24 +
        2 ^ 20 + y.toNat * 2 ^ 18 + g.toNat * 2 ^ 16 + e.toNat * 2 ^ 13 + z.toNat * 2 ^ 12 + w.toNat))) ∧
      (∀ (f : BitVec 8) (y : BitVec 2) (w : BitVec 8), exec (.yzero f y w) s = .next (s.stepWord k (f.toNat * 2 ^ 24 + 2 ^ 21 + y.toNat * 2 ^ 18 + w.toNat))) ∧
      (∀ (f : BitVec 8) (a : BitVec 16) (y : BitVec 2), exec (.push f a y) s = .next (s.stepWord k (f.toNat * 2 ^ 24 + a.toNat * 2 ^ 8 + 32 + y.toNat * 8))) ∧
      (∀ (f : BitVec 8) (a : BitVec 16), exec (.next f a) s = .next (s.stepWord k (f.toNat * 2 ^ 24 + a.toNat * 2 ^ 8 + 64))) ∧
      (∀ (f : BitVec 8) (a : BitVec 16) (y : BitVec 2), exec (.pushn f a y) s = .next (s.stepWord k (f.toNat * 2 ^ 24 + a.toNat * 2 ^ 8 + 96 + y.toNat * 8)))) ∧
  (∀ (s s1 : State) (site : Site) (w key : Nat) (y : Bench) (sent : Bool) (d : Column) (ts : Nat),
      ((s.bench key).arith site w).back site w = (y, sent) → s.columnRead (y.fetchAt site w) (s.benchLaunch site.entry).time = (d, ts, s1) →
      s.stepBench w key site = { s1 with benches := mset s1.benches key (y.fetch site w d) }.modBenchLaunch site.entry fun b =>
        { b with time := max b.time ts, outstanding := if sent then b.outstanding + 1 else b.outstanding }) ∧
  (∀ (s : State) (t : Nat), s.columnRead none t = ((0, false), t, s)) ∧
  (∀ (s : State) (pa t : Nat), region pa = .hbm → pa % 32 = 0 → s.copies = [] → s.msgs = [] → mfind s.trans (pa / 128) = none →
      ∃ ts u, s.columnRead (some pa) t = ((BitVec.ofNat 256 (s.readNat pa 32), s.poisonedAt pa 32), ts, u) ∧ ts = max t (s.dirAt (pa / 128)).wts ∧
        ts ≤ (u.dirAt (pa / 128)).rts ∧ u.mem = s.mem ∧ u.benches = s.benches ∧ u.benchLaunches = s.benchLaunches ∧ u.threads = s.threads) ∧
  (∀ (site : Site) (w : Nat) (x : Bench) (yd : Nat), yd = w / 2 ^ 18 % 4 →
      (w / 2 ^ 20 % 16 = 2 → mget {} (x.arith site w).y yd = {} ∧ { x.arith site w with y := x.y } = x) ∧
      (w / 2 ^ 20 % 16 = 0 → x.arith site w = x) ∧
      (w / 2 ^ 20 % 16 = 1 → site.launch.mx = false → { x.arith site w with y := x.y } = x ∧
        (∀ i < 16, ∃ g e c, g = natBits (mget {} x.g (w / 2 ^ 16 % 4)).data.toNat (16 * i) 16 ∧
          e = natBits (mget 0 site.e (w / 2 ^ 13 % 8)).toNat (16 * i) 16 ∧ c = (mget 0 (mget {} x.y yd).lanes i).toNat ∧
          mget 0 (mget {} (x.arith site w).y yd).lanes i =
            BitVec.ofNat 32 (kGroup fmtFP32 560 0 false (decodeFmt fmtFP32 c) [(decodeFmt fmtBF16 g, decodeFmt fmtBF16 e)]).1) ∧
        ∀ q, q ≠ yd → mget {} (x.arith site w).y q = mget {} x.y q)) ∧
  (∀ (site : Site) (w : Nat) (x : Bench) (yd op : Nat), yd = w / 8 % 4 → op = w / 32 % 8 →
      (op = 0 → (x.back site w) = (x, false)) ∧
      (op = 1 ∨ op = 3 → mget {} (x.back site w).1.y yd = {} ∧
        (site.keeps x.slot = true → ∃ d, (x.back site w).1.drain = x.drain ++ [d] ∧ d.row = site.row x.slot ∧ d.launch = site.entry ∧
          (∀ i < 16, d.lanes.getD i 0 = mget 0 (mget {} x.y yd).lanes i) ∧ d.flags = (mget {} x.y yd).flags) ∧
        (site.keeps x.slot = false → (x.back site w).1.drain = x.drain)) ∧
      (op = 2 ∨ op = 3 → (x.back site w).1.slot = min (x.slot + 1) 255 ∧
        (x.back site w).1.nb = (min (x.slot + 1) 255 * site.launch.c + site.j0) % 4) ∧
      (op = 1 → (x.back site w).1.slot = x.slot ∧ (x.back site w).1.nb = x.nb) ∧ (x.back site w).1.g = x.g) ∧
  (∀ (site : Site) (w : Nat) (d : Column) (x : Bench) (b c : Nat), b = x.nb → c = mget 0 x.cc b →
      (w / 2 ^ 29 % 8 = 0 → x.fetch site w d = x ∧ x.fetchAt site w = none) ∧
      (w / 2 ^ 29 % 8 = 1 → x.fetchAt site w = (if seamS site.launch.mx ≤ c ∨ 32 ≤ c then none else some (site.slab * 2 ^ 18 + slabOffset site.t b c)) ∧
        mget {} (x.fetch site w d).g (w / 2 ^ 24 % 4) = { data := d.1, bank := b, col := c, poison := d.2 } ∧
        mget 0 (x.fetch site w d).cc b = min (c + 1) 63 ∧ (x.fetch site w d).nb = (b + 1) % 4 ∧
        { x.fetch site w d with g := x.g, cc := x.cc, nb := x.nb } = x) ∧
      (w / 2 ^ 29 % 8 = 2 → ∀ q, q = seamS site.launch.mx + w / 2 ^ 25 % 2 →
        x.fetchAt site w = (if 32 ≤ q then none else some (site.slab * 2 ^ 18 + slabOffset site.t (w / 2 ^ 26 % 4) q)) ∧
        mget {} (x.fetch site w d).z (w / 2 ^ 24 % 2) = { data := d.1, bank := w / 2 ^ 26 % 4, col := q, poison := d.2 } ∧
        { x.fetch site w d with z := x.z } = x))

/-- Between two instructions: an event under way is handled; a new request of an agent that has none outstanding on the line goes on its
way; an eviction gives up a copy it fits, with its data if it is a write copy; a host agent's answer gives up its copy. An engine handles
one event in a cycle, after a narrow-scope holder has published, where the directory has a way: else the least recently used stable line
is freed in state 0 or recalled, or the event waits. A handled request on a transient line, one without a transaction, and a stalled event
join the deferral queue; another runs its entry: the actions change sharers, times, buffer and counter as R133 says, and the line is in
NEXT, in no transaction if that is stable. An internal event runs where it stands due. The head of a stable line's queue is handled. Each
answers a next state. (R125, R127, R131, R132, R133, R134, R135, R138, R139, R140) -/
def Obligations.CoherenceHomeEvents : Prop :=
  (∀ (i : Instr) (a : BitVec 9) (l : BitVec 45) (r : Req), (∃ pt, (i = .gets a l pt ∧ r = { event := 0, agent := a.toNat, time := pt.toNat }) ∨
      (i = .renew a l pt ∧ r = { event := 8, agent := a.toNat, time := pt.toNat }) ∨
      (∃ d, i = .write a l pt d ∧ r = { event := 7, agent := a.toNat, time := pt.toNat, op := some (.whole (leBytes d.toNat 128)) }) ∨
      (∃ ev off size op d, ((i = .getx a l pt off size op d ∧ ev = 1) ∨ (i = .upg a l pt off size op d ∧ ev = 2) ∨ (i = .atomic a l pt off size op d ∧ ev = 6)) ∧
        r = { event := ev, agent := a.toNat, time := pt.toNat, op := carriedOp off.toNat size.toNat op.toNat d.toNat })) →
    ∀ (s : State) q ok, s.unit = .none → q = (if 320 ≤ a.toNat ∧ a.toNat < 352 then { r with time := max r.time (mget 0 s.agentTime a.toNat) } else r) →
      (ok ↔ coherent l.toNat = true ∧ a.toNat < 352 ∧ a.toNat ∉ s.lostAgents ∧ (∀ x ∈ s.pendingReq, ¬ (x.1 = a.toNat ∧ x.2.1 = l.toNat)) ∧
        s.coreOwned (128 * l.toNat) = true) →
      (∀ m, s.inFlight r.event a.toNat l.toNat = some m → exec i s = .next (s.serveMsg m)) ∧
      (s.inFlight r.event a.toNat l.toNat = none → (¬ ok → exec i s = .next s) ∧ (ok → exec i s = .next { s with
        pendingReq := s.pendingReq ++ [(a.toNat, l.toNat, q)]
        msgs := s.msgs ++ [{ event := r.event, agent := a.toNat, line := l.toNat, req := some q }] }))) ∧
  (∀ (off size x : Nat), size ≤ 4 → off < 128 → off % 2 ^ size = 0 → x < 2 ^ (8 * 2 ^ size) →
      carriedOp off size 1 x = some (.store off (2 ^ size) x) ∧ (size = 2 → carriedOp off size 8 x = some (.atomic .add false off x) ∧
        carriedOp off size 14 x = some (.atomic .swap false off x)) ∧ (size = 3 → carriedOp off size 0x18 x = some (.atomic .fadd true off x))) ∧
  (∀ (s : State) (m : Msg) (home : Nat) (d : DirEntry) (mates : List (Nat × DirEntry)), home = homeSlice (128 * m.line) → d = s.dirAt m.line →
      mates = s.dir.filter (fun e => dirSet e.1 == dirSet m.line) →
      (home ∈ s.handled → s.serveMsg m = s) ∧
      (home ∉ s.handled → d.nsv = true → m.agent ≠ d.nsagent →
        (d.nswait = true → s.serveMsg m = s) ∧ (d.nswait = false → s.serveMsg m = s.setDir m.line { d with nswait := true })) ∧
      (home ∉ s.handled → (d.nsv = true → m.agent = d.nsagent) →
        ((mfind s.dir m.line).isSome = true ∨ mates.length < 16 →
          s.serveMsg m = { s with msgs := s.msgs.erase m, handled := home :: s.handled }.handle m) ∧
        (mfind s.dir m.line = none → 16 ≤ mates.length →
          ((∀ e ∈ mates, s.busyLine e.1 = true) → s.serveMsg m = s) ∧
          (∀ old, leastUsed ((mates.filter fun e => !s.busyLine e.1).map fun e => (e.1, e.2.used)) = some old →
            ((s.dirAt old).state = 0 → s.serveMsg m = { s with
              dir := mdel s.dir old
              floor := mset s.floor (homeSlice (128 * old)) (max (mget 0 s.floor (homeSlice (128 * old))) (s.dirAt old).rts)
              msgs := s.msgs.erase m
              handled := home :: s.handled }.handle m) ∧
            ((s.dirAt old).state ≠ 0 → s.serveMsg m = s.recall old))))) ∧
  (∀ (l : List (Nat × Nat)), (l = [] ↔ leastUsed l = none) ∧ ∀ x, leastUsed l = some x → ∃ n, (x, n) ∈ l ∧ ∀ y ∈ l, n ≤ y.2) ∧
  (∀ (l : BitVec 45) (s : State) (raised : Bool), s.unit = .none →
      raised = ((s.msgs.any fun m => m.line == l.toNat && m.event == 9) || (mget [] s.deferred l.toNat).any fun m => m.event == 9) →
      (coherent l.toNat = false ∨ raised = true → s.recall l.toNat = s) ∧
      (coherent l.toNat = true → raised = false → s.recall l.toNat = { s with
        msgs := s.msgs ++ [{ event := 9, agent := 512, line := l.toNat, req := some { event := 9, agent := 512 } }] }) ∧
      (s.inFlight 9 512 l.toNat = none → exec (.recall l) s = .next (s.recall l.toNat)) ∧
      (∀ m, s.inFlight 9 512 l.toNat = some m → exec (.recall l) s = .next (s.serveMsg m)) ∧
      (region (128 * l.toNat) = .host → exec (.hostSnoop l) s = .next { s.recall l.toNat with cxlHeld := s.cxlHeld.filter fun x => decide (x ≠ l.toNat) }) ∧
      (region (128 * l.toNat) ≠ .host → exec (.hostSnoop l) s = .next s)) ∧
  (∀ (s s0 : State) (m : Msg) (e : TableEntry), s0 = (s.takeSlot m.line).strikeLost m.line → e = s0.entryFor m.line m.event →
      (m.event ≠ 17 → m.event ≠ 18 → (isRequest m.event = true ∧ (s0.busyLine m.line = true ∨ s0.transFree m.line = false)) ∨ e.stall = true →
        s.handle m = { s0 with deferred := mset s0.deferred m.line (mget [] s0.deferred m.line ++ [m]) }) ∧
      (isRequest m.event = true → s0.busyLine m.line = false → s0.transFree m.line = true → e.stall = false →
        (∀ b, m.req.bind (·.op) = some (.whole b) → s.handle m = s0.runEntry { m with data := some { data := b } }) ∧
        ((∀ b, m.req.bind (·.op) ≠ some (.whole b)) → s.handle m = s0.runEntry m)) ∧
      (isEviction m.event = true → m.req = none → e.stall = false → s.handle m = s0.runEntry m) ∧
      (isAnswer m.event = true → e.stall = false →
        ((∀ x ∈ (s0.transOf m.line).msgs, x.1 ≠ m.agent) → s.handle m = s0) ∧
        ((∃ x ∈ (s0.transOf m.line).msgs, x.1 = m.agent) → s.handle m =
          (s0.modTrans m.line fun t => { t with msgs := t.msgs.filter fun x => x.1 != m.agent }).runEntry m)) ∧
      (m.event = 17 → s.handle m = s0.rebuildEntry m.line) ∧ (m.event = 18 → s.handle m = s0.agentLost m.line m.agent) ∧
      (s.lostAgents = [] → s0 = s.setDir m.line { s.dirAt m.line with
        slot := if (s.dirAt m.line).state = 0 ∧ s.busyLine m.line = false then s.slotFor (128 * m.line) else (s.dirAt m.line).slot })) ∧
  (∀ (s : State) (m : Msg) (e : TableEntry), e = s.entryFor m.line m.event →
      (e.stall = true → s.runEntry m = s) ∧
      (e.stall = false → ((s.runEntry m).dirAt m.line).state = e.next ∧
        ((s.protocolOf m.line).transient e.next = false → (s.runEntry m).busyLine m.line = false) ∧
        ((s.protocolOf m.line).transient e.next = true → (s.runEntry m).busyLine m.line = true))) ∧
  (∀ (s u : State) (x : Running) (code : Nat) (d : DirEntry) (t : Trans), u = s.act x code → d = s.dirAt x.line → t = s.transOf x.line →
      (code = 1 ∨ code = 2 ∨ code = 3 ∨ code = 4 → u = s.setDir x.line (d.share x.agent code)) ∧
      (code = 5 → region (128 * x.line) = .hbm → u = { s with trans := mset s.trans x.line { t with buffer := some (s.lineAt x.line), memData := true } }) ∧
      (code = 6 → region (128 * x.line) = .hbm → ∀ b, t.buffer = some b → u.transOf x.line = { t with memAck := true } ∧ u.dir = s.dir ∧ u.msgs = s.msgs ∧
        (s.mem.wf = true → b.data.length = 128 → ∀ j < 128, some (memGet u.mem (128 * x.line + j)) = b.data[j]?)) ∧
      (code = 7 ∨ code = 9 → (u.dirAt x.line).rts = max d.rts x.m.rts ∧ (u.dirAt x.line).wts = max d.wts x.m.wts ∧ u.mem = s.mem ∧ u.msgs = s.msgs) ∧
      (code = 7 → (u.transOf x.line).buffer = (if x.m.data.isSome then x.m.data else t.buffer)) ∧
      (code = 8 → (u.dirAt x.line).ackcnt = x.reach ∧ (u.transOf x.line).ackZero = (t.ackZero || x.reach == 0)) ∧
      (code = 9 → 0 < d.ackcnt → d.ackcnt < 512 → (u.dirAt x.line).ackcnt = d.ackcnt - 1 ∧ (u.transOf x.line).ackZero = (t.ackZero || d.ackcnt == 1)) ∧
      (code = 10 → (u.transOf x.line).ts = max x.time d.wts ∧ (u.dirAt x.line).wts = d.wts ∧
        (u.dirAt x.line).rts = max d.rts (max x.time d.wts + x.p.lease)) ∧
      (code = 11 → (u.transOf x.line).ts = max x.time (d.rts + 1) ∧ (u.dirAt x.line).wts = max x.time (d.rts + 1) ∧
        (u.dirAt x.line).rts = max x.time (d.rts + 1)) ∧
      (code = 12 ∨ code = 13 → u = { s with msgs := s.msgs ++ [{
        event := 40, agent := x.agent, line := x.line, wts := d.wts, rts := d.rts
        data := if code = 12 then some (t.buffer.getD (s.lineAt x.line)) else none
        ts := t.ts, grantx := x.e.grantx, evict := x.evict, applied := t.applied && !x.evict, result := t.result, flags := x.p.flags }] }) ∧
      (code = 14 → ∀ op, t.req.bind (·.op) = some op → op.isLoad = false → (u.transOf x.line).applied = true ∧
        (u.transOf x.line).buffer = some (op.run (t.buffer.getD (s.lineAt x.line))).2 ∧
        (u.transOf x.line).result = { (op.run (t.buffer.getD (s.lineAt x.line))).1 with ts := t.ts })) ∧
  (∀ (d : DirEntry) (a : Nat), d.coarse = false → d.ptrs.length = 4 →
      ((d.share a 2).sharers = d.sharers.filter fun x => decide (x ≠ a)) ∧ (d.share a 3).sharers = [] ∧ (d.share a 4).sharers = [a] ∧
      (a ∈ d.sharers → d.share a 1 = d) ∧
      (a ∉ d.sharers → d.sharers.length < 4 → (d.share a 1).coarse = false ∧ ∀ x, x ∈ (d.share a 1).sharers ↔ x = a ∨ x ∈ d.sharers) ∧
      (a ∉ d.sharers → d.sharers.length = 4 → a < 352 → (∀ x ∈ d.sharers, x < 352) → d.coarseBits = 0 → d.hostc = 0 → (d.share a 1).coarse = true ∧
        ∀ x, x ∈ (d.share a 1).sharers ↔ ∃ y, (y = a ∨ y ∈ d.sharers) ∧ ((x < 320 ∧ y < 320 ∧ x / 4 = y / 4) ∨
          (320 ≤ x ∧ x < 352 ∧ 320 ≤ y ∧ (x - 320) / 16 = (y - 320) / 16)))) ∧
  (∀ (l : BitVec 45) (s : State), s.unit = .none →
      (mget [] s.deferred l.toNat = [] ∨ s.busyLine l.toNat = true ∨ s.transFree l.toNat = false ∨ homeSlice (128 * l.toNat) ∈ s.handled →
        exec (.deferredRequest l) s = .next s) ∧
      (∀ m q, mget [] s.deferred l.toNat = m :: q → m.line = l.toNat → s.busyLine l.toNat = false → s.transFree l.toNat = true →
        homeSlice (128 * l.toNat) ∉ s.handled → ((s.dirAt l.toNat).nsv = true → m.agent = (s.dirAt l.toNat).nsagent) → (mfind s.dir l.toNat).isSome = true →
        exec (.deferredRequest l) s = .next ({ s with
          deferred := if q.isEmpty then mdel s.deferred l.toNat else mset s.deferred l.toNat q
          handled := homeSlice (128 * l.toNat) :: s.handled }.handle m))) ∧
  (∀ e ∈ ([(Instr.puts, 3), (Instr.putx, 4), (Instr.putc, 5)] : List ((BitVec 9 → BitVec 45 → Instr) × Nat)),
    ∀ (a : BitVec 9) (l : BitVec 45) (s : State) (key : Nat), s.unit = .none → key = copyKey a.toNat l.toNat →
      (∀ m, s.inFlight e.2 a.toNat l.toNat = some m → exec (e.1 a l) s = .next (s.serveMsg m)) ∧
      (s.inFlight e.2 a.toNat l.toNat = none →
        (mfind s.copies key = none → exec (e.1 a l) s = .next s) ∧
        (∀ c : Copy, mfind s.copies key = some c →
          (c.owner.isSome = true ∨ (e.2 = 3 ∧ c.write = true) ∨ (e.2 ≠ 3 ∧ (c.write = false ∨ c.dirty ≠ decide (e.2 = 4))) → exec (e.1 a l) s = .next s) ∧
          (e.2 = 3 → c.owner = none → c.write = false → c.tracked = false → exec (e.1 a l) s = .next { s with copies := mdel s.copies key }) ∧
          (c.owner = none → (e.2 = 3 → c.write = false ∧ c.tracked = true) → (e.2 ≠ 3 → c.write = true ∧ c.dirty = decide (e.2 = 4)) →
            exec (e.1 a l) s = .next { s with copies := mdel s.copies key, msgs := s.msgs ++ [{
              event := e.2, agent := a.toNat, line := l.toNat, wts := c.wts, rts := c.rts, data := if e.2 = 3 then none else some c.line
              ts := mget 0 s.agentTime a.toNat }] })))) ∧
  (∀ e ∈ ([(Instr.invack, 10), (Instr.fwddata, 11), (Instr.fwdnack, 12), (Instr.updack, 16)] : List ((BitVec 9 → BitVec 45 → Instr) × Nat)),
    ∀ (a : BitVec 9) (l : BitVec 45) (s : State) (c : Copy) (asked : Prop), s.unit = .none → c = mget {} s.copies (copyKey a.toNat l.toNat) →
      (asked ↔ 320 ≤ a.toNat ∧ a.toNat < 352 ∧ a.toNat ∉ s.lostAgents ∧
        (∃ x ∈ (s.transOf l.toNat).msgs, x.1 = a.toNat ∧ answersTo x.2 e.2 = true) ∧
        ∀ m ∈ s.msgs, ¬ (m.agent = a.toNat ∧ m.line = l.toNat ∧ isAnswer m.event = true)) →
      (∀ m, s.inFlight e.2 a.toNat l.toNat = some m → exec (e.1 a l) s = .next (s.serveMsg m)) ∧
      (s.inFlight e.2 a.toNat l.toNat = none → (¬ asked → exec (e.1 a l) s = .next s) ∧
        (asked → ∀ u : State, u = (if e.2 = 11 then { s with copies := mdel s.copies (copyKey a.toNat l.toNat) } else s.evictOwn a.toNat l.toNat) →
          exec (e.1 a l) s = .next { u with msgs := u.msgs ++ [{
            event := e.2, agent := a.toNat, line := l.toNat, wts := if e.2 = 11 then c.wts else 0, rts := c.rts
            data := if e.2 = 11 ∧ c.dirty = true then some c.line else none }] }))) ∧
  (∀ e ∈ ([(Instr.memdata, 13, fun t => t.memData, fun t => { t with memData := false }),
      (Instr.memack, 14, fun t => t.memAck, fun t => { t with memAck := false }),
      (Instr.ackzero, 15, fun t => t.ackZero, fun t => { t with ackZero := false })] :
      List ((BitVec 45 → Instr) × Nat × (Trans → Bool) × (Trans → Trans))),
    ∀ (l : BitVec 45) (s : State), s.unit = .none →
      (s.busyLine l.toNat = false ∨ e.2.2.1 (s.transOf l.toNat) = false ∨ homeSlice (128 * l.toNat) ∈ s.handled ∨
        (s.entryFor l.toNat e.2.1).stall = true → exec (e.1 l) s = .next s) ∧
      (s.busyLine l.toNat = true → e.2.2.1 (s.transOf l.toNat) = true → homeSlice (128 * l.toNat) ∉ s.handled →
        (s.entryFor l.toNat e.2.1).stall = false → exec (e.1 l) s = .next ({ s with
          handled := homeSlice (128 * l.toNat) :: s.handled
          trans := mset s.trans l.toNat (e.2.2.2 (s.transOf l.toNat)) }.runEntry { event := e.2.1, agent := 512, line := l.toNat })))

/-- Between two instructions: INV, FWDS, FWDX and UPD, where the message is in flight, are answered with INVACK, FWDDATA, FWDNACK or
UPDACK with the copy's times, and the copy is dropped, downgraded, kept or updated; a reply moves the agent's time, leaves the copy it
grants, and gives the waiting lane what its access found; POISONED and AGENTLOST go to the home, where POISONED recalls the line from
every slice; TIMEOUT takes silent agents as lost; an unanswered message is sent again once; a lost link's agents become lost; a
narrow-scope holder that has been asked publishes; a CXL.mem request before PHASE 4 or in a slab that is not CORE reads poison and writes
nothing, and later is served by the agent's copy or asks the home; the ROM tables pass the validator, and validation ends with STATUS 2 or
3. Each answers a next state. (R119, R129, R134, R135, R136, R140, R253, R368, R426, R427, R439, R451) -/
def Obligations.CoherenceCopyAndErrorEvents : Prop :=
  (∀ e ∈ ([(Instr.inv, 33), (Instr.fwds, 34), (Instr.fwdx, 35), (Instr.upd, 36)] : List ((BitVec 9 → BitVec 45 → Instr) × Nat)),
    ∀ (a : BitVec 9) (l : BitVec 45) (s : State) (key : Nat), s.unit = .none → key = copyKey a.toNat l.toNat →
      (s.inFlight e.2 a.toNat l.toNat = none → exec (e.1 a l) s = .next s) ∧
      (∀ m, s.inFlight e.2 a.toNat l.toNat = some m →
        (mfind s.copies key = none → exec (e.1 a l) s = .next { s with copies := mdel s.copies key, msgs := s.msgs.erase m ++ [{
            event := if e.2 = 33 then 10 else if e.2 = 36 then 16 else 12, agent := a.toNat, line := l.toNat }] }) ∧
        (∀ c : Copy, mfind s.copies key = some c →
          (c.write = true → e.2 ≠ 36 → exec (e.1 a l) s = .next { s with
            copies := if e.2 = 34 then mset s.copies key { c with
                write := false
                dirty := false
                leased := !((s.protocolOf l.toNat).tracked && (s.protocolOf l.toNat).writeCopy) } else mdel s.copies key
            msgs := s.msgs.erase m ++ [{ event := 11, agent := a.toNat, line := l.toNat, wts := c.wts, rts := c.rts
                                         data := if c.dirty then some c.line else none }] }) ∧
          (c.write = false → e.2 = 33 → exec (e.1 a l) s = .next { s with copies := mdel s.copies key, msgs := s.msgs.erase m ++ [{
            event := 10, agent := a.toNat, line := l.toNat, rts := c.rts }] }) ∧
          (c.write = false → e.2 = 34 → exec (e.1 a l) s = .next { s with copies := mset s.copies key c, msgs := s.msgs.erase m ++ [{
            event := 12, agent := a.toNat, line := l.toNat, rts := c.rts }] }) ∧
          (c.write = false → c.dirty = false → e.2 = 35 → exec (e.1 a l) s = .next { s with copies := mdel s.copies key, msgs := s.msgs.erase m ++ [{
            event := 11, agent := a.toNat, line := l.toNat, wts := c.wts, rts := c.rts }] }) ∧
          (c.write = false → e.2 = 36 → exec (e.1 a l) s = .next { s with
            copies := mset s.copies key { c with line := m.data.getD c.line, wts := m.wts, rts := m.rts }
            msgs := s.msgs.erase m ++ [{ event := 16, agent := a.toNat, line := l.toNat, rts := c.rts }] }) ∧
          (c.write = true → e.2 = 36 → exec (e.1 a l) s = .next s)))) ∧
  (∀ (a : BitVec 9) (l : BitVec 45) (s : State) (m : Msg), s.unit = .none →
      (s.inFlight 40 a.toNat l.toNat = none → exec (.requesterReply a l) s = .next s) ∧
      (s.inFlight 40 a.toNat l.toNat = some m →
        (m.evict = true ∨ s.asking a.toNat l.toNat = false → exec (.requesterReply a l) s = .next { s with msgs := s.msgs.erase m }) ∧
        (∀ (r : Req) (b : Line) (write : Bool), m.evict = false → s.pendingReq.find? (fun x => x.1 == a.toNat && x.2.1 == l.toNat) = some (a.toNat, l.toNat, r) →
          m.data = some b → m.applied = false → (∀ p, r.who ≠ some (.cxl p)) → natBits m.flags 2 1 = 0 → s.coreOwned (128 * l.toNat) = true → a.toNat < 320 →
          (s.setMates a.toNat l.toNat).length < s.ways a.toNat → write = (m.grantx && natBits m.flags 1 1 == 1) →
          ∃ t, exec (.requesterReply a l) s = .next t ∧ (∀ x ∈ t.pendingReq, ¬ (x.1 = a.toNat ∧ x.2.1 = l.toNat)) ∧
            (∀ op, r.op = some op → op.isLoad = false → (∀ g w o y ctx, op ≠ .reduce g w o y ctx) → write = true → ∃ c, mfind t.copies (copyKey a.toNat l.toNat) = some c ∧
              c.write = true ∧ c.dirty = true ∧ c.line = (op.run b).2 ∧ m.ts ≤ c.rts ∧ c.wts = m.ts) ∧
            (r.op = none ∨ (s.watchers l.toNat = [] ∧ ∃ op, r.op = some op ∧ op.isLoad = true) →
              mget 0 t.agentTime a.toNat = max (mget 0 s.agentTime a.toNat) m.ts ∧ t.msgs = s.msgs.erase m ∧ t.mem = s.mem ∧
              ∃ c, mfind t.copies (copyKey a.toNat l.toNat) = some c ∧ c.write = write ∧ c.line = b ∧ c.tracked = (natBits m.flags 0 1 == 1) ∧
                m.wts ≤ c.wts ∧ m.rts ≤ c.rts) ∧
            (∀ k j w, r.who = some (.lane (32 * k + j)) → j < 32 → (s.thread k j).st = .waiting w → w.kind = .miss → w.ticket = r.ticket →
              (mfind s.threads (32 * k + j)).isSome = true →
              ∀ op, r.op = some op → (op.isLoad = true ∨ write = true) → (t.thread k j).got =
                (s.thread k j).got ++ [{ pa := 128 * l.toNat + op.span.1, op := op, result := { (op.run b).1 with ts := m.ts } }]))) ) ∧
  (∀ (l : BitVec 45) (s : State), s.unit = .none →
      (∀ m, s.inFlight 17 512 l.toNat = some m → exec (.poisoned l) s = .next (s.serveMsg m)) ∧
      (s.inFlight 17 512 l.toNat = none → (coherent l.toNat = false → exec (.poisoned l) s = .next s) ∧
        (coherent l.toNat = true → exec (.poisoned l) s = .next { s with msgs := s.msgs ++ [{ event := 17, agent := 512, line := l.toNat }] })) ∧
      (s.elog = 0 → (s.dirAt l.toNat).slot < 6 → ∀ t, t = s.rebuildEntry l.toNat → (t.dirAt l.toNat).coarse = true ∧
        (∀ b < 320, b ∉ s.lostAgents → ∃ m ∈ t.msgs, m.event = 33 ∧ m.agent = b ∧ m.line = l.toNat) ∧
        ∀ b, 320 ≤ b → b < 352 → b ∉ s.lostAgents → Out.snoop b l.toNat ∈ t.outbox)) ∧
  (∀ (a : BitVec 9) (l : BitVec 45) (s : State) (named : Prop), s.unit = .none →
      (named ↔ coherent l.toNat = true ∧ a.toNat ∈ s.lostAgents ∧ (a.toNat ∈ (s.dirAt l.toNat).sharers ∨ ∃ x ∈ (s.transOf l.toNat).msgs, x.1 = a.toNat)) →
      (∀ m, s.inFlight 18 a.toNat l.toNat = some m → exec (.agentlost a l) s = .next (s.serveMsg m)) ∧
      (s.inFlight 18 a.toNat l.toNat = none → (¬ named → exec (.agentlost a l) s = .next s) ∧
        (named → exec (.agentlost a l) s = .next { s with msgs := s.msgs ++ [{ event := 18, agent := a.toNat, line := l.toNat }] }))) ∧
  (∀ (s t : State) (l a : Nat) (d : DirEntry), s.elog = 0 → d = s.dirAt l → d.slot < 6 → t = s.agentLost l a → mfind t.copies (copyKey a l) = none ∧
      ((s.protocolOf l).cls d.state = 3 → d.coarse = false → d.ptrs.getD 0 none = some a → (t.dirAt l).state = recallWrite d.slot ∧
        (t.dirAt l).sharers = [] ∧ (t.transOf l).memAck = true ∧ (s.mem.wf = true → ∀ g < 8, mget false t.poison (8 * l + g) = true))) ∧
  (∀ (l : BitVec 45) (s : State) (q : Trans), s.unit = .none → q = s.transOf l.toNat →
      (q.msgs = [] ∨ s.clock < q.sentAt + 2 ^ 20 ∨ homeSlice (128 * l.toNat) ∈ s.handled → exec (.timeout l) s = .next s) ∧
      (q.msgs ≠ [] → q.sentAt + 2 ^ 20 ≤ s.clock → homeSlice (128 * l.toNat) ∉ s.handled → (s.dirAt l.toNat).slot < 6 → ∃ new, exec (.timeout l) s =
          .next ((q.msgs.map (·.1)).foldl (fun s a => s.agentLost l.toNat a) { s with
            lostAgents := s.lostAgents ++ new, handled := homeSlice (128 * l.toNat) :: s.handled }) ∧
        ∀ a, a ∈ new ↔ ((∃ x ∈ q.msgs, x.1 = a) ∧ 320 ≤ a ∧ a < 352 ∧ a ∉ s.lostAgents)) ∧
      (q.msgs = [] ∨ q.resent = true ∨ s.clock < q.sentAt + 2 ^ 19 → exec (.messageResend l) s = .next s) ∧
      (q.msgs ≠ [] → q.resent = false → q.sentAt + 2 ^ 19 ≤ s.clock → ∃ t, exec (.messageResend l) s = .next t ∧ (t.transOf l.toNat).resent = true ∧
        (t.transOf l.toNat).msgs = q.msgs ∧ t.mem = s.mem)) ∧
  (∀ (d : BitVec 1) (s : State), s.unit = .none → ∃ t, exec (.hostAgentLost d) s = .next t ∧
      (∀ a, a ∈ t.lostAgents ↔ (a ∈ s.lostAgents ∨ (320 + 16 * d.toNat ≤ a ∧ a < 336 + 16 * d.toNat))) ∧ { t with lostAgents := s.lostAgents, msgs := s.msgs } = s) ∧
  (∀ (l : BitVec 45) (s : State) (d : DirEntry), s.unit = .none → d = s.dirAt l.toNat →
      (d.nsv = false ∨ d.nswait = false → exec (.publishRequest l) s = .next s) ∧
      (d.nsv = true → d.nswait = true → exec (.publishRequest l) s = .next (s.setDir l.toNat { d with nsv := false, nswait := false }))) ∧
  (∀ (a : BitVec 9) (w : BitVec 1) (addr : BitVec 52) (mask : BitVec 64) (data : BitVec 512) (s : State) (pa d : Nat) (op : LineOp) (ok : Prop),
      s.unit = .none → pa = addr.toNat → d = (a.toNat - 320) / 16 →
      op = (if w = 1 then .masked (pa % 128) mask.toNat (leBytes data.toNat 64) else .load (pa % 128) 64) →
      (ok ↔ 320 ≤ a.toNat ∧ a.toNat < 352 ∧ a.toNat ∉ s.lostAgents ∧ pa % 64 = 0 ∧ 0x6000000000 * d ≤ pa ∧ pa < 0x6000000000 * (d + 1)) →
      (¬ ok → exec (.cxlMemRequest a w addr mask data) s = .next s) ∧
      (ok → (s.phase ≠ 4 ∨ (s.elog = 0 ∧ s.coreOwned pa = false) → exec (.cxlMemRequest a w addr mask data) s =
          .next { s with outbox := s.outbox ++ [.cxl a.toNat pa (if w = 1 then [] else List.replicate 64 0) (w == 0)] })) ∧
      (ok → s.phase = 4 → s.coreOwned pa = true →
        (∀ c, mfind s.copies (copyKey a.toNat (pa / 128)) = some c →
          (w = 0 → c.leased = false ∨ max (mget 0 s.agentTime a.toNat) c.wts ≤ c.rts → ∃ t, exec (.cxlMemRequest a w addr mask data) s = .next t ∧
            t.outbox = s.outbox ++ [.cxl a.toNat pa (leBytes (leNat (c.line.part (pa % 128) 64)) 64) (c.line.bad (pa % 128) 64)] ∧
            (∀ b, memGet t.mem b = memGet s.mem b) ∧ mget 0 t.agentTime a.toNat = max (mget 0 s.agentTime a.toNat) c.wts) ∧
          (w = 1 → c.write = true → ∃ t k, exec (.cxlMemRequest a w addr mask data) s = .next t ∧ t.outbox = s.outbox ++ [.cxl a.toNat pa [] false] ∧
            mfind t.copies (copyKey a.toNat (pa / 128)) = some k ∧ k.line = (op.run c.line).2 ∧ k.dirty = true ∧
            k.wts = max (mget 0 s.agentTime a.toNat) (c.rts + 1) ∧ (∀ b, memGet t.mem b = memGet s.mem b))) ∧
        (mfind s.copies (copyKey a.toNat (pa / 128)) = none →
          (s.asking a.toNat (pa / 128) = true → exec (.cxlMemRequest a w addr mask data) s =
            .next { s with agenda := s.agenda ++ [(s.clock + 1, .cxlMemRequest a w addr mask data)] }) ∧
          (s.asking a.toNat (pa / 128) = false → ∀ r : Req, r = {
              event := if w = 1 then 1 else 0, agent := a.toNat, time := mget 0 s.agentTime a.toNat, op := some op, who := some (.cxl pa)
              ticket := s.stamp + 1 } → exec (.cxlMemRequest a w addr mask data) s = .next { s with
            stamp := s.stamp + 1
            pendingReq := s.pendingReq ++ [(a.toNat, pa / 128, r)]
            msgs := s.msgs ++ [{ event := r.event, agent := a.toNat, line := pa / 128, req := some r }] })))) ∧
  (∀ n < 6, (romProtocol n).failure = none) ∧
  (∀ (n : BitVec 3) (s : State) (x : ProtSlot), s.unit = .none → x = mget {} s.slots n.toNat →
      (n.toNat < 6 ∨ x.status ≠ 1 → exec (.protocolValidationDone n) s = .next s) ∧
      (6 ≤ n.toNat → x.status = 1 →
        (validate x.image = none → exec (.protocolValidationDone n) s = .next { s with slots := mset s.slots n.toNat { x with status := 2 } }) ∧
        (∀ q st ev, validate x.image = some (q, st, ev) → exec (.protocolValidationDone n) s = .next { s with 
          slots := mset s.slots n.toNat { status := 3, check := BitVec.ofNat 8 q, failState := BitVec.ofNat 6 st, failEvent := BitVec.ofNat 5 ev } })))

/-- Between two instructions: a tail write before PHASE 4 or to no queue does nothing, a stale one does nothing, an out-of-range one is
counted and a good one moves TAIL; a management write changes the register at its offset and no other; GO reads queue 0's block once; each
bring-up phase does its work and sets the next; a reset leaves PHASE 0, no queue, no crew and the host's memory; a report is written at
ATTADDR and sets ATTDONE; a governor's window adds its acting budget; THROT follows TEMP; a page fill ends in its leaf or its failure; an
uncorrectable error poisons its granule or acts on its owner; corrections make at most one record a millisecond. Each answers a next
state. (R339, R370, R372, R373, R374, R377, R379, R305, R306, R419, R420, R434) -/
def Obligations.PlatformAndErrorEvents : Prop :=
  (∀ (q : BitVec 10) (val : BitVec 64) (s : State), s.unit = .none →
      (s.phase ≠ 4 ∨ mfind s.queues q.toNat = none → exec (.tailRegisterWrite q val) s = .next s) ∧
      (∀ (x : Queue) (seq idx d : Nat), s.phase = 4 → mfind s.queues q.toNat = some x → seq = val.toNat / 2 ^ 32 → idx = val.toNat % 2 ^ 32 →
        d = (seq + 2 ^ 32 - x.lseq) % 2 ^ 32 →
        (d = 0 ∨ 2 ^ 31 ≤ d → exec (.tailRegisterWrite q val) s = .next s) ∧
        (d ≠ 0 → d < 2 ^ 31 → (x.depth < (idx + 2 ^ 32 - x.head) % 2 ^ 32 ∨ 2 ^ 31 ≤ (idx + 2 ^ 32 - x.tail) % 2 ^ 32) →
          exec (.tailRegisterWrite q val) s = .next { s with queues := mset s.queues q.toNat { x with malformed := x.malformed + 1 } }) ∧
        (d ≠ 0 → d < 2 ^ 31 → (idx + 2 ^ 32 - x.head) % 2 ^ 32 ≤ x.depth → (idx + 2 ^ 32 - x.tail) % 2 ^ 32 < 2 ^ 31 →
          ∃ t : State, exec (.tailRegisterWrite q val) s = .next t ∧
            mfind t.queues q.toNat = some { x with lseq := seq, tail := idx, waitLap := false } ∧
            (∀ j, j ≠ q.toNat → mfind t.queues j = mfind s.queues j) ∧
            (s.mem.wf = true → ∀ a, a < ticketAt q.toNat + 4 ∨ ticketAt q.toNat + 8 ≤ a → memGet t.mem a = memGet s.mem a)))) ∧
  (∀ (s : State), s.unit = .none →
      (∀ v : DWord, (∃ t, exec (.registerWrite 0x10 1 v) s = .next t ∧ t = { s with q0desc := v }) ∧
        (∃ t, exec (.registerWrite 0x18 1 v) s = .next t ∧ t = { s with patchaddr := v }) ∧
        (∃ t, exec (.registerWrite 0x830 1 v) s = .next t ∧ t = { s with attAddr := v }) ∧
        (∃ t, exec (.registerWrite 0x10 0 v) s = .next t ∧ t = { s with q0desc := DWord.mk s.q0desc.hi v.lo }) ∧
        (∃ t, exec (.registerWrite 0x14 0 v) s = .next t ∧ t = { s with q0desc := DWord.mk v.lo s.q0desc.lo }) ∧
        (∀ c < 80, exec (.registerWrite (BitVec.ofNat 30 (0x200 + 4 * c)) 0 v) s =
          .next { s with clusters := mset s.clusters c { s.cluster c with budget := v.toNat % 128 } }) ∧
        (∀ c < 80, exec (.registerWrite (BitVec.ofNat 30 (0x400 + 4 * c)) 0 v) s =
          .next { s with clusters := mset s.clusters c { s.cluster c with stalled := 0 } }) ∧
        (∀ k < 12, exec (.registerWrite (BitVec.ofNat 30 (0x600 + 4 * k)) 0 v) s =
          .next { s with hbmStacks := mset s.hbmStacks k { s.stack k with budget := v.toNat % 128 } }) ∧
        (∀ d < 2, ∃ t, exec (.registerWrite (BitVec.ofNat 30 (0x50 + 8 * d)) 0 v) s = .next t ∧ t.tlimit d = v.toNat / 2 ^ 16 % 256 ∧
          t.temp d = s.temp d ∧ t.throt d = s.throt d ∧ { t with therm := s.therm } = s) ∧
        (∀ i < 12, ∃ t, exec (.registerWrite (BitVec.ofNat 30 (0x800 + 4 * i)) 0 v) s = .next t ∧ { t with attNonce := s.attNonce } = s ∧
          ∀ b < 384, t.attNonce.getLsbD b = if 32 * i ≤ b ∧ b < 32 * i + 32 then v.getLsbD (b - 32 * i) else s.attNonce.getLsbD b) ∧
        exec (.registerWrite 0x20 0 v) s = .next (if s.phase ≠ 0 ∨ s.booted = true then s
          else if v.getLsbD 1 then { s with bootctl := BitVec.ofNat 32 (v.toNat % 2) }.go else { s with bootctl := BitVec.ofNat 32 (v.toNat % 2) }) ∧
        exec (.registerWrite 0x838 0 v) s = exec (.attgo v.lo) s ∧ exec (.registerWrite 8 0 v) s = exec (.mstatusAttdoneClear v.lo) s) ∧
      (∀ off w v, (w = 0 ∧ off.toNat % 4 ≠ 0) ∨ (w = 1 ∧ off.toNat % 8 ≠ 0) ∨ off.toNat < 8 ∨ (0x840 ≤ off.toNat) ∨ (0x40 ≤ off.toNat ∧ off.toNat < 0x50) ∨
          (0x100 ≤ off.toNat ∧ off.toNat < 0x200) → exec (.registerWrite off w v) s = .next s) ∧
      (∀ v : BitVec 32, exec (.attgo v) s = .next (if v = 1 ∧ s.phase = 4 then { s with attBusy := s.attBusy + 1 } else s)) ∧
      (∀ v : BitVec 32, exec (.mstatusAttdoneClear v) s =
        .next (if v.getLsbD 25 then { s with mstatus := s.mstatus &&& ~~~(0x02000000 : Word) } else s)) ∧
      (∀ c v, exec (.mgovstatClear c v) s = .next { s with clusters := mset s.clusters c.toNat { s.cluster c.toNat with stalled := 0 } }) ∧
      (∀ d : BitVec 1, ∃ t : State, exec (.mgovWindow d) s = .next t ∧ { t with clusters := s.clusters } = s ∧
        ∀ c < 80, t.cluster c = if c / 40 = d.toNat then { s.cluster c with
          credit := (actingBudget (s.cluster c).budget (s.throt d.toNat) (mget false s.cap8 d.toNat) : Int) + min (s.cluster c).credit 0 } else s.cluster c)) ∧
  (∀ (s : State), s.unit = .none →
      (s.phase ≠ 0 ∨ s.booted = true → exec .bootctlGo s = .next s) ∧
      (s.phase = 0 → s.booted = false → ∃ t : State, exec .bootctlGo s = .next t ∧ t.phase = 1 ∧ t.booted = true ∧
        (s.elsewhere = [] → t.q0block = s.read s.q0desc.toNat 128) ∧
        t.elog = field t.q0block 88 8 ∧ t.elogDepth = field t.q0block 96 4 ∧ t.lwatch = field t.q0block 100 4 ∧ t.saveArea = field t.q0block 104 8 ∧
        t.saveSize = field t.q0block 112 4 ∧ t.mem = s.mem ∧ t.queues = s.queues) ∧
      (s.phase = 1 → ∃ t : State, exec .bringupPhaseComplete s = .next t ∧ t.phase = 2 ∧ t.tags = [] ∧ t.full = [] ∧ t.copies = [] ∧
        ∀ a, memGet t.mem a = if a < hostBase then 0 else memGet s.mem a) ∧
      (s.phase = 2 → ∃ t : State, exec .bringupPhaseComplete s = .next t ∧ t.phase = 3 ∧ t.mem = s.mem ∧
        (s.bootctl.getLsbD 0 = false → t.mstatus.getLsbD 27 = s.mstatus.getLsbD 27 ∧ t.mstatus.getLsbD 26 = s.mstatus.getLsbD 26) ∧
        (s.bootctl.getLsbD 0 = true → ∀ a h n, a = s.patchaddr.toNat → h = s.peek a 16 → n = field h 4 4 →
          (field h 0 4 = 0x50415443 ∧ n ≤ 4194304 ∧ field h 12 4 = 0 ∧ s.peekBad a (16 + n + 96) = false ∧
              ecdsaVerifies (Config.patchKey.1.toNat, Config.patchKey.2.toNat) (sha384 (s.peek a (16 + n))) (s.peek (a + 16 + n) 96) = true →
            t.mstatus.getLsbD 27 = true ∧ t.patchVersion = field h 8 4 ∧ t.patchHash = sha384 (s.peek a (16 + n) ++ s.peek (a + 16 + n) 96)) ∧
          (field h 0 4 ≠ 0x50415443 ∨ 4194304 < n ∨ field h 12 4 ≠ 0 ∨ s.peekBad a (16 + n + 96) = true ∨
              ecdsaVerifies (Config.patchKey.1.toNat, Config.patchKey.2.toNat) (sha384 (s.peek a (16 + n))) (s.peek (a + 16 + n) 96) = false →
            t.mstatus.getLsbD 26 = true ∧ t.mstatus.getLsbD 27 = s.mstatus.getLsbD 27 ∧ t.patchVersion = s.patchVersion))) ∧
      (s.phase = 3 → ∃ (t : State) (q : Queue), exec .bringupPhaseComplete s = .next t ∧ t.phase = 4 ∧ mget 0 t.stage 0 = 1 ∧ mfind t.queues 0 = some q ∧
        q.ctx = 0 ∧ q.ring = field s.q0block 16 8 ∧ q.depth = field s.q0block 24 4 ∧ q.head = 0 ∧ q.tail = 0 ∧ t.isFull tokenAt = true ∧
        (∀ c < 320, mfind t.crews (crewKey c 63) = some { group := 16384 + c, index := 0 }) ∧ ∀ j, j ≠ 0 → mfind t.queues j = mfind s.queues j) ∧
      (s.phase = 0 ∨ 4 ≤ s.phase → exec .bringupPhaseComplete s = .next s) ∧
      (∀ i ∈ [Instr.powerGoodReset, .pcieConventionalReset, .packageReset], ∃ t : State, exec i s = .next t ∧ t.phase = 0 ∧ t.clock = 0 ∧ t.queues = [] ∧
        t.crews = [] ∧ t.groups = [] ∧ t.launches = [] ∧ t.copies = [] ∧ t.booted = false ∧ (∀ n, t.slab n = 0) ∧ (∀ c, (t.cluster c).budget = 64) ∧
        (∀ k, (t.stack k).budget = 64) ∧ (∀ n, (mget {} t.slots n).status = 0) ∧ t.tags = [] ∧ (∀ a < hostBase, memGet t.mem a = 0) ∧
        (i = .powerGoodReset → t.dead = []) ∧ (i ≠ .powerGoodReset → t.dead = s.dead) ∧
        (i ≠ .packageReset ∨ s.elog = 0 → ∀ a, hostBase ≤ a → memGet t.mem a = memGet s.mem a))) ∧
  (∀ (s : State) (r : List Byte), s.unit = .none → r = s.report →
      (s.attBusy = 0 → exec .attestationReport s = .next s) ∧
      (s.attBusy ≠ 0 → ∃ t : State, exec .attestationReport s = .next t ∧ t.attBusy = s.attBusy - 1 ∧ t.mstatus.getLsbD 25 = true ∧
        (s.mem.wf = true → s.elsewhere = [] → (s.poison = [] → ∀ j < 272, memGet t.mem (s.attAddr.toNat + j) = r.getD j 0) ∧
          ∀ a, a < s.attAddr.toNat ∨ s.attAddr.toNat + 368 ≤ a → memGet t.mem a = memGet s.mem a)) ∧
      (s.mstatus.getLsbD 27 = true → (r.drop 112).take 48 = beBytes s.patchHash.toNat 48) ∧
      (∀ n, (n = 6 ∨ n = 7) → (mget {} s.slots n).status = 2 →
        (r.drop (160 + 48 * (n - 6))).take 48 = beBytes (sha384 (mget {} s.slots n).image).toNat 48) ∧
      r.length = 272 ∧ r.take 4 = leBytes 0x41545354 4 ∧ (r.drop 16).take 48 = leBytes s.attNonce.toNat 48 ∧ r.drop 264 = leBytes s.clock 8) ∧
  (∀ (d : BitVec 1) (s : State), s.unit = .none →
      (∀ (w : BitVec 16) (c : BitVec 8), ∃ t : State, exec (.sensorRefresh d w c) s = .next t ∧ t.temp d.toNat = c.toNat ∧
        t.tlimit d.toNat = s.tlimit d.toNat ∧ mfind t.power d.toNat = some (BitVec.ofNat 32 w.toNat) ∧
        t.throt d.toNat = (if s.tlimit d.toNat ≤ c.toNat then true else if c.toNat + 5 ≤ s.tlimit d.toNat then false else s.throt d.toNat) ∧
        t.clusters = s.clusters ∧ t.mem = s.mem) ∧
      (mfind s.hot d.toNat = none → exec (.thermalEmergencyCap d) s = .next s) ∧
      (∀ since, mfind s.hot d.toNat = some since → since + 800000 ≤ s.clock → mget false s.cap8 d.toNat = false →
        ∃ t : State, exec (.thermalEmergencyCap d) s = .next t ∧ (s.elog = 0 → t = { s with cap8 := mset s.cap8 d.toNat true })) ∧
      (s.temp d.toNat < 125 → exec (.thermalShutdown d) s = .next s) ∧
      (125 ≤ s.temp d.toNat → ∃ t : State, exec (.thermalShutdown d) s = .next t ∧ mget false t.dead d.toNat = true ∧ t.mem = s.mem)) ∧
  (∀ (pte : BitVec 52) (s : State), s.unit = .none →
      ((∀ f ∈ s.pageFills, f.pte ≠ pte.toNat ∨ f.failed.isSome) → exec (.pageFillComplete pte) s = .next s) ∧
      (∀ f, s.pageFills.find? (fun f => f.pte == pte.toNat && f.failed.isNone) = some f →
        (∀ t, s.fillPage f.pte f.entry f.level = .ok t → exec (.pageFillComplete pte) s = .next t ∧ ∀ f ∈ t.pageFills, f.pte ≠ pte.toNat) ∧
        (∀ sub, s.fillPage f.pte f.entry f.level = .error sub → ∃ t : State, exec (.pageFillComplete pte) s = .next t ∧
          { t with pageFills := s.pageFills } = s ∧ ∃ g ∈ t.pageFills, g.pte = pte.toNat ∧ g.failed = some sub))) ∧
  (∀ (id : BitVec 32) (addr : BitVec 52) (s : State) (pa n : Nat), s.unit = .none → pa = addr.toNat → n = id.toNat →
      (∀ u : BitVec 4, (u = 1 ∧ region pa = .hbm) ∨ (u = 9 ∧ region pa = .host) → ∃ t : State, exec (.uncorrectableError u id addr) s = .next t ∧
        (s.elog = 0 → t = { s with poison := mset s.poison (pa / 16) true })) ∧
      (∀ u : BitVec 4, (u = 1 ∧ region pa ≠ .hbm) ∨ (u = 9 ∧ region pa ≠ .host) ∨ (u = 3 ∧ region pa ≠ .staging) ∨ u = 0 ∨ 9 < u →
        exec (.uncorrectableError u id addr) s = .next s) ∧
      (mfind s.copies (copyKey n (pa / 128)) = none → exec (.uncorrectableError 2 id addr) s = .next s) ∧
      (∀ c, mfind s.copies (copyKey n (pa / 128)) = some c → c.write = true → s.elog = 0 → ∃ (t : State) (x : Copy), exec (.uncorrectableError 2 id addr) s = .next t ∧
        mfind t.copies (copyKey n (pa / 128)) = some x ∧ x.line.data = c.line.data ∧ x.dirty = true ∧ pa % 128 / 16 ∈ x.line.poison ∧
        x.wts = c.wts ∧ x.rts = c.rts ∧ t.mem = s.mem) ∧
      (∀ c, mfind s.copies (copyKey n (pa / 128)) = some c → c.write = false → c.tracked = false → c.owner = none → s.elog = 0 →
        exec (.uncorrectableError 2 id addr) s = .next { s with copies := mdel s.copies (copyKey n (pa / 128)) }) ∧
      (stagingBase ≤ pa → pa < stagingBase + 65536 → s.elog = 0 → exec (.uncorrectableError 3 id addr) s = .next s.resetAll) ∧
      (exec (.uncorrectableError 4 id addr) s = exec (.poisoned (BitVec.ofNat 45 (pa / 128))) s) ∧
      (∀ u : BitVec 4, u = 5 ∨ u = 6 → (slotOf n = 63 → s.elog = 0 → exec (.uncorrectableError u id addr) s = .next s) ∧
        (slotOf n ≠ 63 → mfind s.crews n = none → exec (.uncorrectableError u id addr) s = .next s) ∧
        (slotOf n ≠ 63 → (mfind s.crews n).isSome = true → exec (.uncorrectableError u id addr) s = .next (s.killError (s.crew n).group u.toNat (coreOf n) 0))) ∧
      (∀ gk (g : Group), mfind s.groups gk = some g → g.gang = none → s.elog = 0 → mfind (s.killError gk 5 0 0).groups gk = none) ∧
      ((s.cluster n).gang = none → exec (.uncorrectableError 7 id addr) s = .next s) ∧
      (∀ g, (s.cluster n).gang = some g → exec (.uncorrectableError 7 id addr) s = .next (s.killError (s.gangHead g) 7 (4 * n) 0)) ∧
      ((∀ e ∈ s.hbmStacks, e.1 ≠ n / 1024 ∨ e.2.launch = none) → exec (.uncorrectableError 8 id addr) s = .next s)) ∧
  (∀ (u : BitVec 4) (d : BitVec 1) (id : BitVec 32) (addr : BitVec 52) (count : BitVec 16) (s : State) (key : Nat), s.unit = .none →
      key = 2 * u.toNat + d.toNat →
      (∀ last k, mfind s.corrections key = some (last, k) → s.clock < last + 800000 →
        exec (.correctionSummary u d id addr count) s = .next { s with corrections := mset s.corrections key (last, k + count.toNat) }) ∧
      ((∀ last k, mfind s.corrections key = some (last, k) → last + 800000 ≤ s.clock) → ∃ t : State,
        exec (.correctionSummary u d id addr count) s = .next t ∧ mfind t.corrections key = some (s.clock, 0) ∧
        (s.elog ≠ 0 → t.errSeq = s.errSeq + 1) ∧ (s.elog = 0 → t.mem = s.mem))) ∧
  (∀ (g : BitVec 48) (s : State), s.unit = .none → exec (.patrolScrub g 0) s = .next s ∧
      (s.coreOwned (16 * g.toNat) = false → exec (.patrolScrub g 1) s = .next s) ∧
      (s.coreOwned (16 * g.toNat) = true → region (16 * g.toNat) = .hbm → ∃ t : State, exec (.patrolScrub g 1) s = .next t ∧
        (s.elog = 0 → t = { s with poison := mset s.poison g.toNat true }))) ∧
  (∀ (s : State), s.unit = .none →
      (∀ c e, ∃ t : State, exec (.firmwareCrewRestart c e) s = .next t ∧ (320 ≤ c.toNat ∨ s.phase ≠ 4 ∨ s.elog = 0 → t = s) ∧
        t.crews = s.crews ∧ t.queues = s.queues ∧ t.groups = s.groups) ∧
      (∀ u id, u ≠ 14 → u ≠ 16 → exec (.summarisingRecord u id) s = .next s) ∧
      (∀ id : BitVec 32, (∀ q, mfind s.queues id.toNat = some q → q.malformed = 0) → exec (.summarisingRecord 14 id) s = .next s) ∧
      (∀ (id : BitVec 32) (q : Queue), mfind s.queues id.toNat = some q → q.malformed ≠ 0 → ∃ t : State, exec (.summarisingRecord 14 id) s = .next t ∧
        mfind t.queues id.toNat = some { q with malformed := 0 } ∧ (s.elog ≠ 0 → t.errSeq = s.errSeq + 1)) ∧
      (∀ id : BitVec 32, mget 0 s.skippedOrs id.toNat = 0 → exec (.summarisingRecord 16 id) s = .next s) ∧
      (∀ id : BitVec 32, mget 0 s.skippedOrs id.toNat ≠ 0 → ∃ t : State, exec (.summarisingRecord 16 id) s = .next t ∧
        mfind t.skippedOrs id.toNat = none ∧ (s.elog ≠ 0 → t.errSeq = s.errSeq + 1)))

/-- Between two instructions: a pipe that has no bundle after the refile draws the ready quads of a drawable bin that no other precedes,
and those that are not ready stay in it; a quad is filed by its program counter, ready or not; a bin at its ageing limit becomes drawable;
a bundle with a lane left behind 64 times ends; a lane whose wait is met goes on, by its kind, and one whose wait is not stays; a forced
save marks its crew; a crew that has stopped counts as saved where the save area has room, and its group is saved with its last crew; a
tick adds 1 to every program time that runs; a chute serves the longest waiting lane; spawn bins whose oldest record has waited 4,096
cycles close into a pending unit; a deadlocked crew's launch ends with 0x116. An illegal word and a failed fetch stop each lane as R402
and R400 say. Each answers a next state. (R23, R26, R28, R29, R38, R40, R42, R44, R109, R295, R400, R409) -/
def Obligations.IssueAndSchedulingEvents : Prop :=
  (∀ (core : BitVec 9) (p : BitVec 1) (s s0 : State) (c : Nat), s.unit = .none → c = core.toNat → s0 = s.refile c →
      ((mfind (s0.core c).pipes p.toNat).isSome = true → exec (.bundleDraw core p) s = .next s0) ∧
      (mfind (s0.core c).pipes p.toNat = none → (∀ b ∈ (s0.core c).bins, (s0.core c).drawable b = false) → exec (.bundleDraw core p) s = .next s0) ∧
      (∀ b0, mfind (s0.core c).pipes p.toNat = none → b0 ∈ (s0.core c).bins → (s0.core c).drawable b0 = true →
        ∃ (b : Bin) (t : State) (w : Bundle), b ∈ (s0.core c).bins ∧ (s0.core c).drawable b = true ∧
          (∀ d ∈ (s0.core c).bins, (s0.core c).drawable d = true → s0.before b d = true) ∧
          exec (.bundleDraw core p) s = .next t ∧ mfind (t.core c).pipes p.toNat = some w ∧ w.pc = b.pc ∧ w.group = b.group ∧ w.issued = 0 ∧
          (w.crewWide = true ↔ b.crew.isSome = true) ∧ (b.crew = none → w.quads = (b.quads.filter fun f => f.ready).map fun f => (f.crew, f.quad)) ∧
          (∀ d ∈ (t.core c).bins, d.number = b.number → d.quads = (b.quads.filter fun f => !f.ready) ∧ d.quads ≠ [] ∧ d.aged = false) ∧ (∀ d ∈ (s0.core c).bins, d.number ≠ b.number → d ∈ (t.core c).bins) ∧
          (∀ j, j ≠ c → mfind t.cores j = mfind s0.cores j) ∧ { t with cores := s0.cores } = s0)) ∧
  (∀ (core : BitVec 9) (n : BitVec 32) (s : State), s.unit = .none → ∃ t : State, exec (.binAgeingLimit core n) s = .next t ∧ { t with cores := s.cores } = s ∧
      ∀ b ∈ (s.core core.toNat).bins, (if b.number % 2 ^ 32 = n.toNat ∧ (∃ a, b.age = some a ∧ a + 64 ≤ s.clock) then { b with aged := true } else b) ∈
        (t.core core.toNat).bins) ∧
  (∀ (core : BitVec 9) (slot : BitVec 6) (q : BitVec 3) (s : State) (ck : Nat), s.unit = .none → ck = crewKey core.toNat slot.toNat →
      ((∀ l ∈ s.quadRun ck q.toNat, (s.thread ck l).behind < 64) → exec (.laneChoiceLimit core slot q) s = .next s) ∧
      (∀ l ∈ s.quadRun ck q.toNat, 64 ≤ (s.thread ck l).behind → ∃ t : State, exec (.laneChoiceLimit core slot q) s = .next t ∧
        (∀ p w, mfind (s.core core.toNat).pipes p = some w → mfind (t.core core.toNat).pipes p =
          some (if (ck, q.toNat) ∈ w.quads then { w with reform := true } else w)) ∧
        (∀ j, j ≠ core.toNat → mfind t.cores j = mfind s.cores j) ∧ t.mem = s.mem)) ∧
  (∀ (s : State) (b : Bundle), b.crewWide = false → b.reform = true ∨ 8 ≤ b.issued → s.keepBundle b = none) ∧
  (∀ (s : State) (ck q l : Nat), l ∈ s.quadLive ck q ↔ (l / 4 = q ∧ ((s.thread ck l).st = .run ∨ ((s.thread ck l).notReady = true ∧ (s.thread ck l).gone = false)))) ∧
  (∀ (s : State) (ck q l : Nat), l ∈ s.quadLive ck q → 64 ≤ (s.thread ck l).behind →
      ∃ m ∈ s.quadLive ck q, 64 ≤ (s.thread ck m).behind ∧ s.quadPc ck q = some (s.thread ck m).pc ∧
        ∀ n ∈ s.quadLive ck q, 64 ≤ (s.thread ck n).behind → (s.thread ck m).pc ≤ (s.thread ck n).pc) ∧
  (∀ (s : State) (ck q l : Nat), l ∈ s.quadLive ck q → (∀ n ∈ s.quadLive ck q, (s.thread ck n).behind < 64) →
      ∃ m ∈ s.quadLive ck q, s.quadPc ck q = some (s.thread ck m).pc ∧ ∀ n ∈ s.quadLive ck q, (s.thread ck m).pc ≤ (s.thread ck n).pc) ∧
  (∀ (s s1 : State) (core ck q : Nat) (p : DWord), s.inBundle core ck q = false → s1 = s.standQuad ck q → s1.quadPc ck q = some p →
      ∃ b ∈ ((s.fileQuad core ck q).core core).bins, b.pc = p ∧ ∃ f ∈ b.quads, f.crew = ck ∧ f.quad = q ∧ f.ready = s1.quadReady ck q) ∧
  (∀ (core : BitVec 9) (slot : BitVec 6) (lane : BitVec 5) (s : State) (ck l : Nat), s.unit = .none → ck = crewKey core.toNat slot.toNat → l = lane.toNat →
      ((∀ w, (s.thread ck l).st ≠ .waiting w) → exec (.schedulerWaitSatisfied core slot lane) s = .next s) ∧
      (∀ w, (s.thread ck l).st = .waiting w →
        ((s.crew ck).saved = true ∨ s.waitMet ck l w = false → exec (.schedulerWaitSatisfied core slot lane) s = .next s) ∧
        ((s.crew ck).saved = false → s.waitMet ck l w = true →
          (w.kind = .bar ∨ w.kind = .gbar ∨ w.kind = .peers → ∃ t : State, exec (.schedulerWaitSatisfied core slot lane) s = .next t ∧
            (t.thread ck l).st = .ofCode w.was ∧ (t.thread ck l).pc = (s.thread ck l).pc ∧ t.mem = s.mem ∧
            (∀ j, j / 32 ≠ ck → mfind t.threads j = mfind s.threads j)) ∧
          (w.kind.onWord = true → exec (.schedulerWaitSatisfied core slot lane) s = .next (s.retryTagged ck l w)) ∧
          (∀ failed, w.kind.onWord = false → w.kind ≠ .bar → w.kind ≠ .gbar → w.kind ≠ .peers →
            failed = (w.kind == .pageFill && s.pageFills.any fun f => f.pte == w.key && f.failed.isSome) →
            (failed = true ∨ (w.refile = false ∧ s.crewWideAt ck (s.thread ck l).pc = none) →
              exec (.schedulerWaitSatisfied core slot lane) s = .next (s.modThread ck l fun t => { t with st := .retry w.was })) ∧
            (failed = false → (w.refile = true ∨ (s.crewWideAt ck (s.thread ck l).pc).isSome = true) →
              exec (.schedulerWaitSatisfied core slot lane) s = .next (s.wake ck l)))))) ∧
  (∀ (s : State) (ck l : Nat) (w : Wait), (w.kind = .remote → (s.waitMet ck l w = true ↔ (s.thread ck l).reply.isSome = true)) ∧
      (w.kind = .eng → (s.waitMet ck l w = true ↔ (s.cluster w.key).armed.length < 64)) ∧
      (w.kind = .heldReg → (s.waitMet ck l w = true ↔ (s.thread ck l).held w.key = false)) ∧
      (w.kind = .presence → (s.waitMet ck l w = true ↔ mget 0 s.filling w.key = 0)) ∧
      (w.kind = .miss → w.ticket ≠ 0 → (s.waitMet ck l w = true ↔ ∀ x ∈ s.pendingReq, x.2.2.ticket ≠ w.ticket))) ∧
  (∀ (core : BitVec 9) (slot : BitVec 6) (s : State) (ck : Nat), s.unit = .none → ck = crewKey core.toNat slot.toNat →
      (mfind s.crews ck = none ∨ s.mustForce ck = false → exec (.forcedSave core slot) s = .next s) ∧
      ((mfind s.crews ck).isSome = true → s.mustForce ck = true →
        exec (.forcedSave core slot) s = .next { s with crews := mset s.crews ck { s.crew ck with forced := true } }) ∧
      (mfind s.crews ck = none ∨ s.crewStopped ck = false → exec (.crewSave core slot) s = .next s) ∧
      (∀ gk, (mfind s.crews ck).isSome = true → s.crewStopped ck = true → gk = (s.crew ck).group → (s.group gk).gang = none →
        ((s.group gk).place ≠ .moving → s.imageRoom s.imagesUsed [(s.group gk).imageSize] = none → exec (.crewSave core slot) s = .next s) ∧
        (∀ s1 s2 : State, ((s.group gk).place = .moving ∧ s1 = s ∨ ∃ o, (s.group gk).place ≠ .moving ∧
            s.imageRoom s.imagesUsed [(s.group gk).imageSize] = some [o] ∧ s1 = (s.modGroup gk fun g => { g with
              place := .moving
              image := o }).directory gk 3) → s2 = s1.modCrew ck (fun c => { c with saved := true }) →
          ((∃ d, (mfind s2.crews d).isSome = true ∧ (s2.crew d).group = gk ∧ (s2.crew d).saved = false) →
            exec (.crewSave core slot) s = .next s2) ∧
          (∀ g, mfind s2.groups gk = some g → s2.allSaved [gk] = true → ∃ t : State, exec (.crewSave core slot) s = .next t ∧
            (t.group gk).place = (if g.preempt = .hold then .held else .saved) ∧ (t.group gk).image = g.image ∧ t.crewsOf gk = [] ∧
            ∃ u ∈ t.pending, u.savedGroup = some gk ∧ u.launch = g.launch))) ∧
      (mfind s.crews ck = none ∨ s.deadlocked ck = false → exec (.crewDivergenceDeadlock core slot) s = .next s) ∧
      (∀ lk x, (mfind s.crews ck).isSome = true → s.deadlocked ck = true → lk = (s.group (s.crew ck).group).launch → mfind s.launches lk = some x →
        x.done = false → ∃ t : State, exec (.crewDivergenceDeadlock core slot) s = .next t ∧ (t.launch lk).done = true ∧ (t.launch lk).status = some 0x116)) ∧
  (∀ (q : BitVec 10) (i : BitVec 32) (s : State), s.unit = .none →
      ((∀ lk x, mfind s.launches lk = some x → x.queue % 1024 = q.toNat → x.index % 2 ^ 32 = i.toNat → ∀ b ∈ x.bins, ∀ r ∈ b.2, s.clock < r.at_ + 4096) →
        (s.launches.map (·.1)).Nodup → exec (.spawnBinAgeing q i) s = .next s) ∧
      (∀ (lk pc : Nat) (recs : List SpawnRec), (mkeys s.launches fun _ l => l.queue % 1024 == q.toNat && l.index % 2 ^ 32 == i.toNat) = [lk] →
        (s.launch lk).bins = [(pc, recs)] → (∃ r ∈ recs, r.at_ + 4096 ≤ s.clock) → ∃ (t : State) (u : Machine.PUnit),
        exec (.spawnBinAgeing q i) s = .next t ∧ t.pending = s.pending ++ [u] ∧ u.launch = lk ∧ u.spawn = recs ∧ (t.launch lk).bins = [])) ∧
  (∀ (cl : BitVec 7) (s : State), s.unit = .none →
      ((s.cluster cl.toNat).gang = none → exec (.tileSequencerSave cl) s = .next s) ∧
      (∀ g, (s.cluster cl.toNat).gang = some g →
        (s.streamSettled cl.toNat = false ∨ (s.gang g).tileSaved = true → exec (.tileSequencerSave cl) s = .next s) ∧
        (∀ s1 x, s.streamSettled cl.toNat = true → mfind s.gangs g = some x → x.tileSaved = false →
          s1 = { s with gangs := mset s.gangs g { x with tileSaved := true } } → s1.allSaved (s1.groupsOf g) = false →
          exec (.tileSequencerSave cl) s = .next s1))) ∧
  (∀ (s : State), s.unit = .none → ∃ t : State, exec .programTimeTick s = .next t ∧ { t with threads := s.threads, clusters := s.clusters } = s ∧
      (∀ n, mfind t.threads n = (mfind s.threads n).map fun x => if x.gone then x else { x with time := x.time + 1 }) ∧
      (∀ n, mfind t.clusters n = (mfind s.clusters n).map fun x => if x.stream = .ended then x else { x with time := x.time + 1 })) ∧
  (∀ (cl : BitVec 7) (n : BitVec 5) (s : State), s.unit = .none →
      ((∀ g ∈ s.gangs, g.2.cluster ≠ cl.toNat) → exec (.chuteAcquire cl n) s = .next s) ∧
      (∀ g, (mkeys s.gangs fun _ g => g.cluster == cl.toNat) = [g] →
        (s.takers g n.toNat = [] ∨ s.threadAcquire g n.toNat = none → exec (.chuteAcquire cl n) s = .next s) ∧
        (∀ k l w r e time s', s.takers g n.toNat = (k, l, w) :: r → s.threadAcquire g n.toNat = some (e, time, s') → (w.was = 0 → l < 32 →
          ∃ u : State, exec (.chuteAcquire cl n) s = .next (u.serveTakers g n.toNat 1023) ∧ u.gangs = s'.gangs ∧ (u.thread k l).pc = (s.thread k l).pc + 4 ∧
            (u.thread k l).time = max (s.thread k l).time time ∧ (u.thread k l).qval 1 = BitVec.ofNat 32 e)))) ∧
  (∀ (w : BitVec 32) (s : State) (e : Illegal), (if w.toNat % 2 = 0 then decode16 (w.toNat % 65536) else decode32 w.toNat) = .error e →
      (∀ (x : Issue) (k l : Nat) (c : Ctx), s.unit = .lanes x → x.parts = [{ crew := k, lanes := bitOf l }] → l < 32 → (mfind s.crews k).isSome = true →
        c = s.ctxOf x k l → exec (.illegalInstruction w) s = .next (if c.helper then s.past c
          else (s.takeTrap c e.code e.sub e.detail x.pc (BitVec.ofNat 64 w.toNat)).afterInstr c)) ∧
      (∀ cl pc y, s.unit = .stream cl pc y → exec (.illegalInstruction w) s = .next (s.terminate (s.streamLaunch cl) 0x101))) ∧
  (∀ (s : State) (x : Issue) (k l : Nat) (c : Ctx) (e : Stop), s.unit = .lanes x → x.parts = [{ crew := k, lanes := bitOf l }] → l < 32 →
      (mfind s.crews k).isSome = true → c = s.ctxOf x k l → s.fetchInstr (s.crewView k) x.pc = .error e →
      (c.helper = true → exec .fetchFault s = .next s) ∧
      (c.helper = false →
        (∀ code sub d a, e = .trap code sub d a false →
          exec .fetchFault s = .next ((s.takeTrap c code sub d (if code = 4 then a else x.pc) a).afterInstr c)) ∧
        (∀ pte en lv, e = .fill pte en lv → ∃ t : State, exec .fetchFault s = .next t ∧ (∃ f ∈ t.pageFills, f.pte = pte) ∧ t.mem = s.mem ∧
          ∃ w, (t.thread k l).st = .waiting w ∧ w.kind = .pageFill ∧ w.key = pte ∧ (t.thread k l).pc = (s.thread k l).pc) ∧
        (∀ pa, e = .poisoned pa → exec .fetchFault s = .next (s.killPoisoned c.group pa)))) ∧
  (∀ (s : State) (cl : Nat) (pc : DWord) (y : Nat) (e : Stop), s.unit = .stream cl pc y → s.fetchInstr (s.streamAgent cl).view pc = .error e →
      (∀ code sub d a b, e = .trap code sub d a b → exec .fetchFault s = .next (s.terminate (s.streamLaunch cl) (0x100 + code))) ∧
      (∀ pte en lv, e = .fill pte en lv → ∃ t : State, exec .fetchFault s = .next t ∧ (t.cluster cl).stream = .faulted pte ∧ ∃ f ∈ t.pageFills, f.pte = pte)) ∧
  (∀ (s : State) (w : BitVec 32), s.unit = .none → exec (.illegalInstruction w) s = .next s ∧ exec .fetchFault s = .next s)

/-- Between two instructions: a reply to a packet in flight gives each lane that waits for it its element and STATUS, makes its program
time no earlier than the reply's and frees the packet; any other reply is dropped. A packet is resent 2^18 cycles after its last send on
the next route, and given up after four sends. A request whose reply is kept is answered from it with nothing performed; otherwise a lane
is performed or refused with the STATUS of R443, or waits, and the reply is kept and sent. A put is queued, then delivered or refused and
answered. A port's record is written once per change. A detour peer forwards to the target's first port that is up. Each answers a next
state. (R114, R272, R358, R360, R361, R364, R365, R366, R440, R441, R442, R443) -/
def Obligations.FabricEvents : Prop :=
  (∀ (d : BitVec 1) (tag : BitVec 12) (st : BitVec 5) (ts : BitVec 64) (m : BitVec 32) (data : BitVec 4096) (s : State) (key : Nat), s.unit = .none →
      key = 4096 * d.toNat + tag.toNat →
      (mfind s.sent key = none → exec (.placementReply d tag st ts m data) s = .next s) ∧
      (∀ x, mfind s.sent key = some x → x.engine = none → ∃ t : State, exec (.placementReply d tag st ts m data) s = .next t ∧
        mfind t.sent key = none ∧ mfind t.tagFree key = some (s.clock + 2 ^ 21) ∧ (∀ j, j ≠ key → mfind t.sent j = mfind s.sent j) ∧
        t.mem = s.mem ∧ (∀ j, j / 32 ≠ x.crew → mfind t.threads j = mfind s.threads j) ∧
        (∀ i l w, x.packet.lanes[i]? = some l → (s.thread x.crew l).st = .waiting w → w.kind = .remote → w.key = key → m.getLsbD l = true →
          ∃ y, y = natBits data.toNat (8 * x.packet.size * i) (8 * x.packet.size) ∧
            t.thread x.crew l = { s.thread x.crew l with
              reply := some { status := st.toNat, data := y, sent := x.packet.elem i, addr := w.addr }
              time := max (s.thread x.crew l).time ts.toNat }) ∧
        (∀ l < 32, (l ∉ x.packet.lanes ∨ m.getLsbD l = false ∨ ∀ w, (s.thread x.crew l).st ≠ .waiting w) → t.thread x.crew l = s.thread x.crew l)) ∧
      (∀ x e a, mfind s.sent key = some x → x.engine = some e → mfind (s.cluster (e / 64)).armed (e % 64) = some a → ∃ t : State,
        exec (.placementReply d tag st ts m data) s = .next t ∧ mfind t.sent key = none ∧
        mfind (t.cluster (e / 64)).armed (e % 64) = some { a with
          time := max a.time ts.toNat, awaited := a.awaited - 1, bad := if st = 0 then a.bad else some st.toNat })) ∧
  (∀ (d : BitVec 1) (tag : BitVec 12) (s : State) (key : Nat), s.unit = .none → key = 4096 * d.toNat + tag.toNat →
      (mfind s.sent key = none → exec (.packetResend d tag) s = .next s) ∧
      (∀ x, mfind s.sent key = some x →
        (s.clock < x.lastSent + 2 ^ 18 → exec (.packetResend d tag) s = .next s) ∧
        (x.lastSent + 2 ^ 18 ≤ s.clock → x.sends < 4 →
          (s.routes x.packet.peer d.toNat x.packet.page = [] →
            exec (.packetResend d tag) s = .next { s with sent := mset s.sent key { x with lastSent := s.clock, sends := x.sends + 1 } }) ∧
          (s.routes x.packet.peer d.toNat x.packet.page ≠ [] → ∃ port ∈ s.routes x.packet.peer d.toNat x.packet.page,
            (s.routes x.packet.peer d.toNat x.packet.page)[(x.route + 1) % (s.routes x.packet.peer d.toNat x.packet.page).length]? = some port ∧
            exec (.packetResend d tag) s = .next { s with
              outbox := s.outbox ++ [.packet port (x.packet.channel x.engine.isSome) (x.packet.bytes (x.packet.opcode != 0)) x.packet.poison]
              sent := mset s.sent key { x with lastSent := s.clock, sends := x.sends + 1, route := x.route + 1 } })) ∧
        (∀ s1, x.lastSent + 2 ^ 18 ≤ s.clock → 4 ≤ x.sends →
          s1 = { s with sent := mdel s.sent key, tagFree := mset s.tagFree key (s.clock + 2 ^ 21) } →
          (x.engine = none → mfind s.crews x.crew = none → exec (.packetResend d tag) s = .next s1) ∧
          (x.engine = none → (mfind s.crews x.crew).isSome = true → exec (.packetResend d tag) s = .next (s1.killGroup (s.crew x.crew).group 0x11B)) ∧
          (∀ e a, x.engine = some e → mfind (s.cluster (e / 64)).armed (e % 64) = some a →
            exec (.packetResend d tag) s = .next (s1.terminate a.launch 0x11B))))) ∧
  (∀ (s : State) (peer d page p : Nat), p ∈ s.routes peer d page → s.portDown p = false) ∧
  (∀ (s : State) (peer d page : Nat), peer / 16 = s.pkgId / 16 → s.portDown (cliquePort s.pkgId peer d + page % 2) = false →
      (s.routes peer d page).head? = some (cliquePort s.pkgId peer d + page % 2)) ∧
  (∀ (s : State) (peer d page : Nat), peer / 16 ≠ s.pkgId / 16 → s.portDown (planePort d ((peer + page % 64) % 34)) = false →
      (s.routes peer d page).head? = some (planePort d ((peer + page % 64) % 34))) ∧
  (∀ (s : State) (peer d page x : Nat), peer / 16 = s.pkgId / 16 → (∀ p ∈ cliqueOrder s.pkgId peer d page, s.portDown p = true) →
      ((List.range 16).map (16 * (s.pkgId / 16) + ·)).find? (fun y => y != s.pkgId && y != peer &&
        (cliqueOrder s.pkgId y d page).any (fun p => !s.portDown p) && s.peerReaches y peer d page) = some x →
      s.routes peer d page = (cliqueOrder s.pkgId x d page).filter fun p => !s.portDown p) ∧
  (∀ (hdr : BitVec 256) (offs : BitVec 512) (data : BitVec 4096) (s : State) (h key : Nat) (q : Packet), s.unit = .none → h = hdr.toNat →
      key = 4096 * natBits h 26 10 + natBits h 52 12 → q = { hdr := hdr, offs := offs, data := data } →
      (RemoteOp.ofCode q.opcode = none → exec (.remoteRequest hdr offs data) s = .next s) ∧
      (∀ o p, RemoteOp.ofCode q.opcode = some o → s.keptReply key = some p →
        exec (.remoteRequest hdr offs data) s = .next (s.sendReply p q.page o.returns)) ∧
      (∀ o, RemoteOp.ofCode q.opcode = some o → s.keptReply key = none → (mfind s.served key).isSome = true →
        exec (.remoteRequest hdr offs data) s = .next s) ∧
      (∀ o l s1, RemoteOp.ofCode q.opcode = some o → o ≠ .put → s.keptReply key = none → mfind s.served key = none → l < 32 →
        natBits h 128 32 = 2 ^ l → s1 = { s with served := mset s.served key { packet := q, ts := natBits h 160 64 } } →
        (s1.remoteLane (natBits h 7 1 == 1) o (natBits h 36 16) q.page (natBits offs.toNat 0 16) q.size (q.elem 0) (natBits h 160 64) = none →
          ∃ t : State, exec (.remoteRequest hdr offs data) s = .next t ∧ t.mem = s.mem ∧ t.outbox = s.outbox ∧ t.kept = s.kept ∧
            mfind t.served key = some { packet := q, ts := natBits h 160 64 }) ∧
        (∀ st y t' u, s1.remoteLane (natBits h 7 1 == 1) o (natBits h 36 16) q.page (natBits offs.toNat 0 16) q.size (q.elem 0) (natBits h 160 64) =
            some (st, y, t', u) →
          ∃ (p : Packet) (v : State), exec (.remoteRequest hdr offs data) s = .next (v.sendReply p q.page o.returns) ∧
            mfind v.kept key = some (u.clock, p) ∧ mfind v.served key = none ∧ v.mem = u.mem ∧ v.dir = u.dir ∧ v.threads = u.threads ∧
            v.outbox = u.outbox ∧
            (st < 32 → t' < 2 ^ 64 → natBits p.hdr.toNat 0 8 = 0x40 ∧ natBits p.hdr.toNat 11 5 = st ∧ natBits p.hdr.toNat 16 10 = natBits h 26 10 ∧
              natBits p.hdr.toNat 52 12 = natBits h 52 12 ∧ natBits p.hdr.toNat 128 32 = 2 ^ l ∧
              natBits p.hdr.toNat 160 64 = max (natBits h 160 64) t' ∧ (o.returns = true → p.data.toNat = y % 2 ^ (8 * q.size))))) ∧
      (∀ l, RemoteOp.ofCode q.opcode = some .put → s.keptReply key = none → mfind s.served key = none → l < 32 → natBits h 128 32 = 2 ^ l →
        ∃ t : State, exec (.remoteRequest hdr offs data) s = .next t ∧ t.mem = s.mem ∧ t.outbox = s.outbox ∧ t.kept = s.kept ∧
          t.putQueue = s.putQueue ++ [{ name := natBits q.page 0 32, thread := natBits offs.toNat 0 16, reg := natBits h 104 5,
                                        wide := natBits h 109 1 == 1, data := BitVec.ofNat 64 (q.elem 0), time := natBits h 160 64,
                                        from_ := .request key }])) ∧
  (∀ (s : State) (p : Packet) (page : Nat) (elems : Bool),
      (s.routes p.peer (natBits p.hdr.toNat 63 1) page = [] → s.sendReply p page elems = s) ∧
      (∀ port, (s.routes p.peer (natBits p.hdr.toNat 63 1) page).head? = some port →
        s.sendReply p page elems = { s with outbox := s.outbox ++ [.packet port 1 (p.bytes elems) false] })) ∧
  (∀ (s : State) (o : RemoteOp) (ctx page off n x t : Nat),
      (mfind s.contexts ctx = none → s.remoteLane false o ctx page off n x t = some (10, 0, t, s)) ∧
      (s.named (natBits page 0 32) = none → s.remoteLane true o ctx page off n x t = some (12, 0, t, s)) ∧
      (∀ g off', s.named (natBits page 0 32) = some g → off' = natBits page 32 8 * 65536 + off →
        (g.win0Size < off' + n → s.remoteLane true o ctx page off n x t = some (11, 0, t, s)) ∧
        (off' + n ≤ g.win0Size → s.present (g.win0 off') = false → s.remoteLane true o ctx page off n x t = none) ∧
        (off' + n ≤ g.win0Size → s.present (g.win0 off') = true → s.busyWord (g.win0 off') n = false →
          s.remoteLane true o ctx page off n x t = some (s.performRemote o ctx (g.win0 off') .staging n x t))) ∧
      (∀ st, s.reachRemote ctx (page * 65536 + off) (o.cls n) = .error st → s.remoteLane false o ctx page off n x t = some (st, 0, t, s)) ∧
      (∀ u pa k, s.reachRemote ctx (page * 65536 + off) (o.cls n) = .ok (u, pa, k) →
        s.remoteLane false o ctx page off n x t = some (u.performRemote o ctx pa k n x t))) ∧
  (∀ (s : State) (o : RemoteOp) (ctx pa n x t : Nat) (k : PageKind),
      (s.coreOwned pa = false → s.performRemote o ctx pa k n x t = (8, 0, t, s)) ∧
      (s.coreOwned pa = true → o.returns = true → s.peekBad pa n = true → s.performRemote o ctx pa k n x t = (9, 0, t, s)) ∧
      (s.coreOwned pa = true → (o.returns = true → s.peekBad pa n = false) → region pa ≠ .device → k.ordered = true → ∀ r u,
        s.homeOp pa (o.lineOp ctx (pa % 128) n x) t = (r, u) → s.performRemote o ctx pa k n x t = (0, r.val, r.ts, u))) ∧
  (∀ (src : BitVec 10) (tag : BitVec 12) (name : BitVec 32) (th : BitVec 10) (reg : BitVec 5) (w : BitVec 1) (data ts : BitVec 64) (s : State) (key : Nat),
      s.unit = .none → key = 4096 * src.toNat + tag.toNat →
      (∀ p, s.keptReply key = some p →
        exec (.putDelivery src tag name th reg w data ts) s = .next (s.sendReply p name.toNat false)) ∧
      (s.keptReply key = none → (mfind s.served key).isSome = true → exec (.putDelivery src tag name th reg w data ts) s = .next s) ∧
      (s.keptReply key = none → mfind s.served key = none → ∃ t : State, exec (.putDelivery src tag name th reg w data ts) s = .next t ∧
        t.mem = s.mem ∧ t.threads = s.threads ∧ t.outbox = s.outbox ∧ t.kept = s.kept ∧ (mfind t.served key).isSome = true ∧
        t.putQueue = s.putQueue ++ [{ name := name.toNat, thread := th.toNat, reg := reg.toNat, wide := w == 1,
                                      data := if w = 1 then data else (data.truncate 32).zeroExtend 64, time := ts.toNat, from_ := .request key }])) ∧
  (∀ (s s1 u : State) (p : QueuedPut) (r : Delivered), s.putQueue = [p] → s.moving p = false → s1 = { s with putQueue := [] } →
      s1.deliverPut p.name p.thread p.reg p.wide p.data p.time = (r, u) →
      (∀ v, r = .ok v → s.deliverPuts = u.answerPut p.from_ 0 v) ∧ (∀ code, r = .error code → s.deliverPuts = u.answerPut p.from_ code p.time)) ∧
  (∀ (s : State) (key st ts : Nat) (j : Served), mfind s.served key = some j → ∃ t : State, s.answerPut (.request key) st ts = t ∧ t.mem = s.mem ∧
      t.threads = s.threads ∧ mfind t.served key = some { j with puts := j.puts - 1, ts := max j.ts ts, status := if j.status = 0 then st else j.status }) ∧
  (∀ (p : BitVec 7) (s : State), s.unit = .none →
      (s.portDown p.toNat = true → exec (.portDown p) s = .next s) ∧ (s.portDown p.toNat = false → exec (.portUp p) s = .next s) ∧
      (s.portDown p.toNat = false → ∃ t : State, exec (.portDown p) s = .next t ∧ t.portDown p.toNat = true ∧
        (s.elog = 0 → t = { s with ports := mset s.ports p.toNat true }) ∧ (s.elog ≠ 0 → t.errSeq = s.errSeq + 1)) ∧
      (s.portDown p.toNat = true → ∃ t : State, exec (.portUp p) s = .next t ∧ t.portDown p.toNat = false ∧
        (s.elog = 0 → t = { s with ports := mdel s.ports p.toNat }) ∧ (s.elog ≠ 0 → t.errSeq = s.errSeq + 1))) ∧
  (∀ (hdr : BitVec 256) (offs : BitVec 512) (data : BitVec 4096) (s : State) (p : Packet) (l : List Nat), s.unit = .none →
      p = { hdr := hdr, offs := offs, data := data } → l = cliqueOrder s.pkgId p.peer (natBits hdr.toNat 63 1) p.page →
      ((∀ q ∈ l, s.portDown q = true) → exec (.detourForward hdr offs data) s = .next s) ∧
      (∀ q, l.find? (fun q => !s.portDown q) = some q →
        (p.opcode = 0x40 → exec (.detourForward hdr offs data) s =
          .next { s with outbox := s.outbox ++ [.packet q 1 (p.bytes (data != 0)) false] }) ∧
        (p.opcode ≠ 0x40 → exec (.detourForward hdr offs data) s =
          .next { s with outbox := s.outbox ++ [.packet q (p.channel (p.opcode == 0x18)) (p.bytes (p.opcode != 0)) p.poison] })))

/-- Between two instructions: an entry at HEAD that a check refuses commits and completes with that STATUS; one that cannot be claimed
waits. Commit moves HEAD by one, and an accepted entry joins the open commands. A started SIGNAL stores and completes; WAITFOR completes
only at its value; each privileged command has its effect and completes, or waits for what it names; PREEMPT asks for saves, holds, or
releases; a LAUNCH that starts becomes a pending unit and completes when its groups, engines and benches are done. A placement pass takes
the token, places the first pending unit while it fits and else leaves it as the blocked head. Each answers a next state. (R338, R340,
R342, R343, R344, R345, R346, R349, R351, R354, R356, R445) -/
def Obligations.FirmwareCommands : Prop :=
  (∀ e ∈ ([(Instr.launch, 1), (Instr.signal, 3), (Instr.waitfor, 4), (Instr.hints, 5), (Instr.context, 0x10), (Instr.ctxfree, 0x11), (Instr.qcreate, 0x12),
        (Instr.qfree, 0x13), (Instr.slicecfg, 0x14), (Instr.range, 0x15), (Instr.protload, 0x16), (Instr.protfree, 0x17), (Instr.govcfg, 0x18),
        (Instr.capmint, 0x19)] : List ((BitVec 10 → BitVec 32 → Instr) × Nat)),
    ∀ (q : BitVec 10) (i : BitVec 32) (s : State), s.unit = .none →
      (mfind s.queues q.toNat = none → exec (e.1 q i) s = .next s) ∧
      (∀ x, mfind s.queues q.toNat = some x →
        (x.head = i.toNat → x.claims = false ∨ x.waitLap = true ∨ s.phase ≠ 4 ∨ (s.entryAt x = .unreadable ∨ s.entryAt x = .otherLap) →
          exec (e.1 q i) s = .next s) ∧
        (x.head ≠ i.toNat → (∀ c ∈ x.open_, c.index ≠ i.toNat) → exec (e.1 q i) s = .next s) ∧
        (∀ c, Committed q.toNat i.toNat s x c → c.started = false → x.mayStart c = false → exec (e.1 q i) s = .next s)) ∧
      (∀ x b ts r, Claimed q.toNat i.toNat e.2 s x b ts r → r.headerStatus q.toNat b ≠ 0 →
        exec (e.1 q i) s = .next (r.commit q.toNat b ts (r.headerStatus q.toNat b)).2) ∧
      (∀ x b ts r st, Claimed q.toNat i.toNat e.2 s x b ts r → r.headerStatus q.toNat b = 0 →
        ((e.2 = 3 ∨ e.2 = 4) ∧ st = 3 ∧ 2 ^ 63 ≤ field b 24 8) ∨ (e.2 = 5 ∧ st = 3 ∧ (field b 24 2 = 0 ∨ 1024 < field b 24 2)) ∨
        (e.2 = 1 ∧ st = 3 ∧ launchFieldsOk b = false) ∨
        (e.2 = 0x10 ∧ st = 3 ∧ (field b 16 8 % 2048 ≠ 0 ∨ region (field b 16 8) = .reserved ∨ field b 32 2 = 0 ∨ 7 < field b 34 1)) ∨
        (e.2 = 0x11 ∧ st = 4 ∧ mfind r.contexts (field b 32 2) = none) ∨
        (e.2 = 0x12 ∧ st = 3 ∧ (queueOk (field b) = false ∨ field b 60 2 = 0 ∨ 1023 < field b 60 2)) ∨
        (e.2 = 0x12 ∧ st = 4 ∧ queueOk (field b) = true ∧ 1 ≤ field b 60 2 ∧ field b 60 2 ≤ 1023 ∧
          ((mfind r.queues (field b 60 2)).isSome = true ∨ mfind r.contexts (field b 28 2) = none)) ∨
        (e.2 = 0x13 ∧ st = 4 ∧ (field b 60 2 = 0 ∨ mfind r.queues (field b 60 2) = none)) ∨
        (e.2 = 0x14 ∧ st = 3 ∧ (319 < field b 16 2 ∨ 6 < field b 18 1 ∨ (field b 16 2 = 0 ∧ field b 18 1 = 0))) ∨
        (e.2 = 0x15 ∧ st = 3 ∧ 63 < field b 16 1) ∨
        (e.2 = 0x15 ∧ st = 5 ∧ field b 16 1 ≤ 63 ∧ r.slotStatus (natBits (field b 24 16) 1 3) ≠ 2) ∨
        (e.2 = 0x16 ∧ st = 5 ∧ (field b 16 1 = 6 ∨ field b 16 1 = 7) ∧ (r.slotStatus (field b 16 1) = 1 ∨ r.slotStatus (field b 16 1) = 2)) ∨
        ((e.2 = 0x16 ∨ e.2 = 0x17) ∧ st = 3 ∧ field b 16 1 ≠ 6 ∧ field b 16 1 ≠ 7) ∨
        (e.2 = 0x18 ∧ st = 3 ∧ (79 < field b 16 1 ∨ 127 < field b 17 1)) ∨
        (e.2 = 0x19 ∧ r.capmintAt b = .error st) →
          exec (e.1 q i) s = .next (r.commit q.toNat b ts st).2)) ∧
  (∀ (q : BitVec 10) (i : BitVec 32) (s : State) x b ts r r' t' cap compand hints, Claimed q.toNat i.toNat 1 s x b ts r → r.headerStatus q.toNat b = 0 →
      r.launchBlocks (r.queue q.toNat).ctx b = .ok (r', t', cap, compand, hints) → ∃ (t : State) (l : Launch), exec (.launch q i) s = .next t ∧
        mfind t.launches (launchKey q.toNat i.toNat) = some l ∧ l.body = b ∧ l.rootcap = cap ∧ l.compand = compand ∧ l.hintList = hints ∧
        (t.queue q.toNat).head = (i.toNat + 1) % 2 ^ 32 ∧ (t.clock, Instr.placementPass) ∈ t.agenda) ∧
  (∀ (s : State) (b : List Byte), (mfind s.contexts (field b 16 2) = none → s.capmintAt b = .error 4) ∧
      (∀ l, (mfind s.contexts (field b 16 2)).isSome = true → field b 24 8 < stagingVA → s.walk (field b 16 2) (field b 24 8) = .leaf l →
        (field b 24 8 % 16 ≠ 0 ∨ l.mtype ≠ 0 ∨ region l.pa ≠ .hbm → s.capmintAt b = .error 3) ∧
        (∀ u pa, s.capmintAt b = .ok (u, pa) → u = s.markUsed l true ∧ pa = l.pa)) ∧
      (stagingVA ≤ field b 24 8 → (mfind s.contexts (field b 16 2)).isSome = true → s.capmintAt b = .error 6)) ∧
  (∀ (s t : State) (q ts st : Nat) (b : List Byte) (x : Queue), mfind s.queues q = some x → t = (s.commit q b ts st).2 →
      ∃ y : Queue, mfind t.queues q = some y ∧ y.head = (x.head + 1) % 2 ^ 32 ∧ y.tail = x.tail ∧ y.ring = x.ring ∧
        (st ≠ 0 → t.completed q x.head ∧ y.open_ = x.open_.filter (·.index ≠ x.head)) ∧
        (st = 0 → y.open_ = x.open_ ++ [{ index := x.head, op := field b 0 1, entry := b, time := (s.commit q b ts st).1 }])) ∧
  (∀ (q : BitVec 10) (i : BitVec 32) (s : State) (x : Queue) (c : Cmd) (n : Nat), n = q.toNat → Committed n i.toNat s x c → c.started = true →
      (s.wordOf n c true = none → exec (.signal q i) s = .next (s.finish n c 3 6 0)) ∧
      (∀ u pa k r v, s.wordOf n c true = some (u, pa, k) →
        u.fwOp pa k (.store (pa % 128) 8 (2 ^ 63 + c.f 24 8)) (max c.time (u.queue n).time) = (r, v) →
        exec (.signal q i) s = .next (v.finish n c 3 0 r.ts)) ∧
      (exec (.waitfor q i) s = .next (s.waitforTest n c)) ∧
      (∀ u ok, s.hintList x.ctx (mget [] x.hints c.index) (c.f 24 2) true = (u, ok) →
        exec (.hints q i) s = .next ((u.modQueue n fun q => { q with hints := mdel q.hints c.index }).finish n c 3 (if ok then 0 else 0x207) 0)) ∧
      ((∃ w, mfind s.queues w = some (s.queue w) ∧ w ≠ 0 ∧ (s.queue w).ctx = c.f 32 2) → exec (.ctxfree q i) s = .next s) ∧
      ((∀ e ∈ s.queues, e.1 = 0 ∨ e.2.ctx ≠ c.f 32 2) → (∀ e ∈ s.launches, e.2.ctx ≠ c.f 32 2 ∨ e.2.done = true) →
        (∀ e ∈ s.windows, e.2.open_ = false ∨ e.2.ctx ≠ c.f 32 2) → (∀ w ∈ s.writers, w.2.ctx ≠ c.f 32 2) →
        exec (.ctxfree q i) s = .next ({ s with contexts := mdel s.contexts (c.f 32 2) }.finish n c 3 0 0)) ∧
      (exec (.qcreate q i) s = .next ((s.makeQueue (c.f 60 2) (c.f 28 2) c.f).finish n c 3 0 0)) ∧
      (∀ y : Queue, mfind s.queues (c.f 60 2) = some y → (y.open_ ≠ [] → exec (.qfree q i) s = .next s) ∧
        (y.open_ = [] → exec (.qfree q i) s = .next ({ s with
          queues := mdel s.queues (c.f 60 2)
          launches := mkeep s.launches fun k _ => k / 2 ^ 32 ≠ c.f 60 2 }.finish n c 3 0 y.time))) ∧
      (mfind s.queues (c.f 60 2) = none → exec (.qfree q i) s = .next (s.finish n c 3 0 0)) ∧
      (∀ m old new, m = c.f 16 2 → old = mget 0 s.stage m * 0x40000 → new = c.f 18 1 * 0x40000 →
        (c.groups = [] → (∃ u ∈ s.stagingUsed m, m ≠ 0 ∨ u ≠ (0, 65536)) → exec (.slicecfg q i) s = .next s) ∧
        (∀ u v : State, c.groups = [] → (∀ u ∈ s.stagingUsed m, m = 0 ∧ u = (0, 65536)) →
          (old < new → u = s.zeroStaging (stagingAt m old) (new - old)) → (new ≤ old → u = s) →
          v = { u with stage := mset u.stage m (c.f 18 1) }.fitSlice m →
          ((∀ e ∈ v.msgs, e.agent = m → e.event < 3 ∨ 5 < e.event) → exec (.slicecfg q i) s = .next (v.finish n c 3 0 0)) ∧
          ((∃ e ∈ v.msgs, e.agent = m ∧ 3 ≤ e.event ∧ e.event ≤ 5) → exec (.slicecfg q i) s = .next (v.waitFor n c [1]))) ∧
        (c.groups ≠ [] → (∀ e ∈ s.msgs, e.agent = m → e.event < 3 ∨ 5 < e.event) → exec (.slicecfg q i) s = .next (s.finish n c 3 0 0)) ∧
        (c.groups ≠ [] → (∃ e ∈ s.msgs, e.agent = m ∧ 3 ≤ e.event ∧ e.event ≤ 5) → exec (.slicecfg q i) s = .next s)) ∧
      (∀ r, r = (mfind s.ranges (c.f 16 1)).toList ++ [rangeOf (c.f 24 16)] →
        (s.linesIn r ≠ [] → exec (.range q i) s = .next ((s.linesIn r).foldl State.recall s)) ∧
        (s.linesIn r = [] → exec (.range q i) s = .next ({ s with ranges := mset s.ranges (c.f 16 1) (rangeOf (c.f 24 16)) }.finish n c 3 0 0))) ∧
      (∀ y : ProtSlot, y = mget {} s.slots (c.f 16 1) → (y.status = 1 → exec (.protload q i) s = .next s) ∧
        (y.status = 2 → exec (.protload q i) s = .next (s.finish n c 3 0 0)) ∧
        (y.status = 3 → exec (.protload q i) s = .next (s.finish n c 3 (0x300 + y.check.toNat) 0)) ∧
        (y.status = 0 → exec (.protload q i) s = .next (s.finish n c 3 0x201 0))) ∧
      ((∀ e ∈ s.ranges, e.2.valid = false ∨ e.2.slot ≠ c.f 16 1) → (∀ e ∈ s.dir, e.2.slot ≠ c.f 16 1 ∨ (e.2.state = 0 ∧ s.busyLine e.1 = false)) →
        s.slotStatus (c.f 16 1) ≠ 1 → exec (.protfree q i) s = .next ({ s with slots := mdel s.slots (c.f 16 1) }.finish n c 3 0 0)) ∧
      ((∃ e ∈ s.ranges, e.2.valid = true ∧ e.2.slot = c.f 16 1) → exec (.protfree q i) s = .next s) ∧
      (exec (.govcfg q i) s = .next ({ s with clusters := mset s.clusters (c.f 16 1) { s.cluster (c.f 16 1) with budget := c.f 17 1 } }.finish n c 3 0 0)) ∧
      (∀ pa r v, pa = leNat (mget [] x.hints c.index) → s.opAt pa (.capst (pa % 128) (c.f 32 16) true) c.time = (r, v) →
        exec (.capmint q i) s = .next ((v.modQueue n fun q => { q with hints := mdel q.hints c.index }).finish n c 3 0 r.ts))) ∧
  (∀ (q : BitVec 10) (i : BitVec 32) (s : State), s.unit = .none →
      ((s.queue q.toNat).open_.find? (fun c => c.index == i.toNat && c.op == 4 && c.started) = none → exec (.waitforReevaluate q i) s = .next s) ∧
      (∀ c, (s.queue q.toNat).open_.find? (fun c => c.index == i.toNat && c.op == 4 && c.started) = some c →
        exec (.waitforReevaluate q i) s = .next (s.waitforTest q.toNat c))) ∧
  (∀ (s : State) (q : Nat) (c : Cmd), (s.wordOf q c false = none → s.waitforTest q c = s.finish q c 3 6 0) ∧
      (∀ u pa k, s.wordOf q c false = some (u, pa, k) →
        (u.peekBad pa 8 = true → s.waitforTest q c = u.finish q c 3 6 0) ∧
        (∀ r v, u.peekBad pa 8 = false → 2 ^ 63 + c.f 24 8 ≤ u.peekNat pa 8 → u.fwOp pa k (.load (pa % 128) 8) c.time = (r, v) →
          s.waitforTest q c = v.finish q c 3 0 r.ts) ∧
        (u.peekBad pa 8 = false → u.peekNat pa 8 < 2 ^ 63 + c.f 24 8 → s.waitforTest q c = u))) ∧
  (∀ (s : State) (q : Nat) (c : Cmd) (js st t : Nat), (mfind s.queues q).isSome = true → (s.finish q c js st t).completed q c.index) ∧
  (∀ e ∈ ([(Instr.preemptYield, 0), (Instr.preemptHold, 1), (Instr.preemptRelease, 2)] : List ((BitVec 10 → BitVec 32 → Instr) × Nat)),
    ∀ (q : BitVec 10) (i : BitVec 32) (s : State) (x : Queue) (c : Cmd), Committed q.toNat i.toNat s x c →
      (c.f 24 1 ≠ e.2 → c.f 24 1 < 3 → exec (e.1 q i) s = .next s) ∧
      (c.f 24 1 = e.2 →
        (c.started = true → (s.launch c.target).done = true ∨ (∀ m ∈ c.groups, ∀ g, s.named m = some g → g.present = false) →
          exec (e.1 q i) s = .next (s.finish q.toNat c 3 0 0)) ∧
        (c.started = true → (s.launch c.target).done = false → (∃ m ∈ c.groups, ∃ g, s.named m = some g ∧ g.present = true) →
          exec (e.1 q i) s = .next (s.waitFor q.toNat c (c.groups.filter fun m => (s.named m).any (·.present)))) ∧
        (c.started = false → x.mayStart c = true → (s.launch c.target).done = false → ∃ t : State, exec (e.1 q i) s = .next t ∧
          (∀ gk (g : Group), mfind s.groups gk = some g → g.launch = c.target → ∃ h : Group, mfind t.groups gk = some h ∧
            (e.2 = 0 → g.present = true → h.preempt = if g.preempt = .hold then .hold else .yield) ∧
            (e.2 = 1 → g.present = true → h.preempt = .hold) ∧ (e.2 = 1 → g.place = .saved → h.place = .held) ∧
            (e.2 = 2 → g.place = .held → h.place = .saved)) ∧
          (∀ u ∈ t.pending, u.launch = c.target → (e.2 = 1 → u.held = true) ∧ (e.2 = 2 → u.held = false))))) ∧
  (∀ (q : BitVec 10) (i : BitVec 32) (s : State) (x : Queue) (c : Cmd) (n : Nat), n = q.toNat → Committed n i.toNat s x c → c.started = false → x.mayStart c = true →
      (s.benchLaunches = [] → s.copies = [] → mfind s.contexts (c.f 32 2) = none ∧ c.groups = [] ∨ s.pendingReq = [] → ∃ t : State, exec (.context q i) s = .next t ∧
        mfind t.contexts (c.f 32 2) = some { l0 := c.f 16 8, mexc := c.f 24 8, priomax := c.f 34 1 } ∧ t.completed n i.toNat ∧
        (∀ j, j ≠ c.f 32 2 → mfind t.contexts j = mfind s.contexts j)) ∧
      (s.benchLaunches = [] → s.copies = [] → (mfind s.contexts (c.f 32 2)).isSome = true → s.pendingReq ≠ [] → ∃ t : State,
        exec (.context q i) s = .next t ∧ mfind t.contexts (c.f 32 2) = some { l0 := c.f 16 8, mexc := c.f 24 8, priomax := c.f 34 1 } ∧
        ∃ d ∈ (t.queue n).open_, d.index = i.toNat ∧ d.started = true) ∧
      (∀ l : Launch, mfind s.launches (launchKey n i.toNat) = some l → l.done = false → l.hintList = [] → ∃ (t : State) (u : Machine.PUnit),
        exec (.launch q i) s = .next t ∧ t.pending = s.pending ++ [u] ∧ u.launch = launchKey n i.toNat ∧ u.prio = l.prio ∧ u.order = l.order ∧
        u.first = 0 ∧ u.count = l.gangSize ∧ u.stop = l.f 60 4 ∧ u.held = l.heldBack ∧
        ∃ y : Queue, mfind t.queues n = some y ∧ ∃ d ∈ y.open_, d.index = i.toNat ∧ d.started = true)) ∧
  (∀ (q : BitVec 10) (i : BitVec 32) (s : State) (lk : Nat), s.unit = .none → lk = launchKey q.toNat i.toNat →
      (∀ l c, mfind s.launches lk = some l → (s.queue q.toNat).open_.find? (fun c => c.index == i.toNat) = some c → c.started = true → l.done = false →
        s.groupsDone lk = true → s.enginesOf lk = false → (∀ e ∈ s.benchLaunches, e.2.live = false ∨ e.2.launch ≠ lk) →
        exec (.commandComplete q i) s = .next (s.launchEnd lk 3 0) ∧
        ((s.launchEnd lk 3 0).launch lk).done = true ∧ ((s.launchEnd lk 3 0).launch lk).status = some 0) ∧
      (∀ l, mfind s.launches lk = some l → l.done = true ∨ s.groupsDone lk = false ∨ s.enginesOf lk = true →
        s.gangLaunch lk = none → exec (.commandComplete q i) s = .next s)) ∧
  (∀ s : State, s.unit = .none →
      (s.isFull tokenAt = true → exec .placementPass s = .next (((s.setToken false).pass passFuel).setToken true)) ∧
      (s.isFull tokenAt = false → exec .placementPass s = .next (s.later 1 .placementPass)) ∧
      (s.pending = [] → exec .placementPassTimer s = .next s) ∧ (s.pending ≠ [] → exec .placementPassTimer s = exec .placementPass s) ∧
      (∃ t : State, exec .headAgeBar s = .next t ∧ { t with pending := s.pending } = s ∧ t.pending = s.pending.map fun u =>
        if s.headUnit = some u.id ∧ 1600000 < u.age then { u with bars := true } else u) ∧
      (∃ t : State, exec .reconcilePass s = .next t ∧ ∀ n, (mfind t.queues n).isSome = (mfind s.queues n).isSome ∧
        ∀ y, mfind t.queues n = some y → y.waitLap = false) ∧
      (∀ n x u v, s.queues = [(n, x)] → s.shadow n = some (u, v) →
        exec .reconcilePass s = .next ((u.tailRule n v).modQueue n fun q => { q with waitLap := false }))) ∧
  (∀ (s : State) (n : Nat),
      (s.units = [] → s.pass (n + 1) = { s with headUnit := none }) ∧
      (∀ u r, s.units = u :: r → u ∈ s.pending ∧ u.held = false ∧ u.asleep = false ∧
        (∀ v ∈ s.pending, v.held = false → v.asleep = false → v.prio ≤ u.prio) ∧
        ((∀ v ∈ s.pending, v.woken = false) → ∀ v ∈ s.pending, v.held = false → v.asleep = false → u.before v = true) ∧
        (∀ p, s.fits u none = some p → s.pass (n + 1) = ((s.unpend u).placeAt u p).pass n) ∧
        (s.fits u none = none → (∀ v ∈ s.pending, u.prio ≤ v.prio) → s.pass (n + 1) = { s with headUnit := some u.id }.saveIdle u)) ∧
      (∀ (prio : Nat) (bar : Option Nat) v p, (s.units.filter fun v => decide (v.prio < prio)).findSome? (fun v => (s.fits v bar).map fun x => (v, x)) = some (v, p) →
        v.prio < prio ∧ s.backfill prio bar (n + 1) = ((s.unpend v).placeAt v p).backfill prio bar n))

/-- Between two instructions: a GANGLAUNCH that passes its checks and may start asks every part to prepare; the last READY commits it with
a timestamp above every part's, and REFUSE or the timeout aborts it with 0x401 or 0x402. A part that cannot be placed refuses; one that
can holds a reservation and replies READY; COMMIT starts its groups with the timestamp; ABORT and the expiry of a reservation release what
has not started. The last report, or the loss of a part, completes the command. A launch past LWATCH ends with 0x501. Each answers a next
state. (R20, R346, R353, R354, R407, R436, R445, R447, R450) -/
def Obligations.PodWideGangLaunches : Prop :=
  (∀ (q : BitVec 10) (i : BitVec 32) (s : State) (id : Nat), s.unit = .none → id = gangId q.toNat i.toNat →
      (mfind s.queues q.toNat = none ∨ (s.queue q.toNat).head ≠ i.toNat ∨ s.phase ≠ 4 ∨ (s.queue q.toNat).claims = false ∨ (s.queue q.toNat).waitLap = true ∨
          (∃ g, s.gangLaunch id = some g ∧ g.decision = 0) → exec (.ganglaunch q i) s = .next s) ∧
      (∀ x b ts r, Claimed q.toNat i.toNat 2 s x b ts r → (∀ g, s.gangLaunch id = some g → g.decision ≠ 0) →
        (r.headerStatus q.toNat b ≠ 0 → exec (.ganglaunch q i) s = .next (r.commit q.toNat b ts (r.headerStatus q.toNat b)).2) ∧
        (∀ e, r.headerStatus q.toNat b = 0 → r.gangParts x.ctx b = .error e → exec (.ganglaunch q i) s = .next (r.commit q.toNat b ts e).2) ∧
        (∀ u v parts, r.headerStatus q.toNat b = 0 → r.gangParts x.ctx b = .ok (u, v, parts) →
          (x.mayStart { index := i.toNat, op := 2, entry := b } = false → exec (.ganglaunch q i) s = .next s) ∧
          (x.mayStart { index := i.toNat, op := 2, entry := b } = true → ∃ (t : State) (g : GangLaunch), exec (.ganglaunch q i) s = .next t ∧
            t.gangLaunch id = some g ∧ g.decision = 0 ∧ g.ready = [] ∧ g.parts = parts ∧ g.timeout = 800 * field b 28 4 ∧ g.began = s.clock ∧ t.queues = u.queues ∧
            ∀ p peer a, parts[p]? = some (peer, a) → peer ≠ u.pkgId → ∃ c k, Out.firmware peer (.prepare u.pkg (BitVec.ofNat 42 id)
              (BitVec.ofNat 6 p) c (BitVec.ofNat 64 a) k) ∈ t.outbox)))) ∧
  (∀ (s : State) (p : Nat) (i : Instr), (p ≠ s.pkgId → s.message p i = { s with outbox := s.outbox ++ [.firmware p i] }) ∧
      (p = s.pkgId → (s.clock, i) ∈ (s.message p i).agenda ∧ { s.message p i with agenda := s.agenda } = s)) ∧
  (∀ (s : State) (id : Nat) (g : GangLaunch), s.gangLaunch id = some g →
      (g.decision ≠ 0 → ∀ st, s.gangCommit id = s ∧ s.gangAbort id st = s) ∧
      (g.ready.length < g.parts.length → s.gangCommit id = s) ∧
      (∀ x : Queue, g.decision = 0 → mfind s.queues g.queue = some x → x.head = g.index →
        (g.parts.length ≤ g.ready.length → ∃ h y, (s.gangCommit id).gangLaunch id = some h ∧ h.decision = 1 ∧ (∀ e ∈ g.ready, e.2 < h.time) ∧ g.time < h.time ∧
          h.committed = s.clock ∧ mfind (s.gangCommit id).queues g.queue = some y ∧ y.head = (x.head + 1) % 2 ^ 32 ∧
          y.open_ = x.open_ ++ [{ index := g.index, op := 2, entry := g.entry, time := h.time, started := true }]) ∧
        (∀ st, ∃ h y, (s.gangAbort id st).gangLaunch id = some h ∧ h.decision = 2 ∧ mfind (s.gangAbort id st).queues g.queue = some y ∧
          y.head = (x.head + 1) % 2 ^ 32 ∧ (s.gangAbort id st).completed g.queue g.index)) ∧
      (g.decision = 1 → g.report.length < g.parts.length → s.gangFinish id = s) ∧
      (∀ c, g.decision = 1 → g.parts.length ≤ g.report.length → (s.queue g.queue).open_.find? (fun c => c.index == g.index && c.op == 2) = some c →
        g.status = 0 → (∀ p < g.parts.length, mget 0 g.report p = 0) → ∃ ts, (Config.freeWord s.free).toNat ≤ ts ∧
          s.gangFinish id = { s with free := s.free + 1 }.finish g.queue c 3 0 ts)) ∧
  (∀ (id : BitVec 42) (p : BitVec 6) (s : State), s.unit = .none →
      (s.gangLaunch id.toNat = none → (∀ ts, exec (.ready id p ts) s = .next s) ∧ exec (.refuse id p) s = .next s ∧ ∀ st, exec (.partDoneReport id p st) s = .next s) ∧
      (∀ g, s.gangLaunch id.toNat = some g →
        (g.parts.length ≤ p.toNat → g.decision = 0 → (∀ ts, exec (.ready id p ts) s = .next s) ∧ exec (.refuse id p) s = .next s) ∧
        (p.toNat < g.parts.length → g.decision = 0 → (∀ ts, exec (.ready id p ts) s = .next ({ s with
            gangLaunches := mset s.gangLaunches id.toNat { g with ready := mset g.ready p.toNat ts.toNat } }.gangCommit id.toNat)) ∧
          exec (.refuse id p) s = .next (s.gangAbort id.toNat 0x401)) ∧
        (g.decision ≠ 0 → ∀ ts, ((mfind g.report p.toNat).isSome = true → exec (.ready id p ts) s = .next s) ∧
          (mfind g.report p.toNat = none → exec (.ready id p ts) s = .next (s.sendDecision id.toNat g p.toNat))) ∧
        (∀ st, (g.decision ≠ 1 ∨ g.parts.length ≤ p.toNat ∨ (mfind g.report p.toNat).isSome = true → exec (.partDoneReport id p st) s = .next s) ∧
          (g.decision = 1 → p.toNat < g.parts.length → mfind g.report p.toNat = none → exec (.partDoneReport id p st) s = .next ({ s with
            gangLaunches := mset s.gangLaunches id.toNat { g with report := mset g.report p.toNat st.toNat } }.gangFinish id.toNat))))) ∧
  (∀ (q : BitVec 10) (i : BitVec 32) (p : BitVec 6) (s : State) (id : Nat), s.unit = .none → id = gangId q.toNat i.toNat →
      (s.gangLaunch id = none → exec (.ganglaunchPhaseOneTimeout q i) s = .next s ∧ exec (.partUnreachableTimeout q i p) s = .next s) ∧
      (∀ g, s.gangLaunch id = some g →
        (s.clock ≤ g.began + g.timeout → exec (.ganglaunchPhaseOneTimeout q i) s = .next s) ∧
        (g.began + g.timeout < s.clock → exec (.ganglaunchPhaseOneTimeout q i) s = .next (s.gangAbort id 0x402)) ∧
        (mfind g.lost p.toNat = none → exec (.partUnreachableTimeout q i p) s = .next s) ∧
        (∀ since, mfind g.lost p.toNat = some since →
          (g.decision ≠ 1 ∨ s.clock < since + 800000000 ∨ (mfind g.report p.toNat).isSome = true → exec (.partUnreachableTimeout q i p) s = .next s) ∧
          (g.decision = 1 → since + 800000000 ≤ s.clock → mfind g.report p.toNat = none → exec (.partUnreachableTimeout q i p) s = .next ({ s with
            gangLaunches := mset s.gangLaunches id { g with report := mset g.report p.toNat 0x403, status := 0x403 } }.gangFinish id))))) ∧
  (∀ (c : BitVec 10) (id : BitVec 42) (p : BitVec 6) (s : State) (lk : Nat), s.unit = .none → lk = partKey c.toNat id.toNat p.toNat →
      (∀ ctx a k r, s.reservation c.toNat id.toNat p.toNat = some r → (s.launch lk).done = false →
        exec (.prepare c id p ctx a k) s = .next (if (s.launch lk).started then s else s.message c.toNat (.ready id p (BitVec.ofNat 64 r.time)))) ∧
      (∀ ctx a k, s.reservation c.toNat id.toNat p.toNat = none →
        (s.partLaunch c.toNat id.toNat p.toNat ctx.toNat a.toNat = none → exec (.prepare c id p ctx a k) s = .next (s.message c.toNat (.refuse id p))) ∧
        (∀ u t l, s.partLaunch c.toNat id.toNat p.toNat ctx.toNat a.toNat = some (u, t, l) →
          ({ u with launches := mset u.launches lk l, nextOrder := u.nextOrder + 1 }.placeAll lk l = none →
            exec (.prepare c id p ctx a k) s = .next (u.message c.toNat (.refuse id p))) ∧
          (∀ v, { u with launches := mset u.launches lk l, nextOrder := u.nextOrder + 1 }.placeAll lk l = some v →
            ∃ w : State, exec (.prepare c id p ctx a k) s = .next (w.message c.toNat (.ready id p (BitVec.ofNat 64 t))) ∧ { w with reservations := v.reservations } = v ∧
              ∃ r, w.reservations = (v.reservations.filter fun x => x.launch != lk) ++ [r] ∧ r.launch = lk ∧ r.coord = c.toNat ∧ r.id = id.toNat ∧
                r.part = p.toNat ∧ r.time = t ∧ r.life = 800 * k.toNat + 800000000))) ∧
      (s.reservation c.toNat id.toNat p.toNat = none → (∀ ts, exec (.commit c id p ts) s = .next (s.message c.toNat (.partDoneReport id p 0x403))) ∧
        exec (.abort c id p) s = .next s ∧ exec (.partReservationExpiry c id p) s = .next s) ∧
      (∀ r l, s.reservation c.toNat id.toNat p.toNat = some r → l = s.launch r.launch →
        (l.done = true → ∀ ts, exec (.commit c id p ts) s = .next (s.message c.toNat (.partDoneReport id p (BitVec.ofNat 15 (l.status.getD 0))))) ∧
        (l.done = false → l.started = true → ∀ ts, exec (.commit c id p ts) s = .next s) ∧
        (l.done = false → l.started = false → l.hintList = [] → ∀ ts, ∃ t : State, exec (.commit c id p ts) s = .next t ∧
          (t.launch r.launch).started = true ∧ (t.launch r.launch).time = ts.toNat ∧
          ∀ ck l, (mfind s.crews ck).isSome = true → l < 32 → (s.group (s.crew ck).group).launch = r.launch → (mfind s.threads (32 * ck + l)).isSome = true →
            (t.thread ck l).time = ts.toNat) ∧
        (l.started = true → exec (.abort c id p) s = .next s ∧ exec (.partReservationExpiry c id p) s = .next s) ∧
        (l.started = false → exec (.abort c id p) s = .next (s.release r) ∧
          exec (.partReservationExpiry c id p) s = .next (if r.at_ + r.life < s.clock then s.release r else s)) ∧
        (∀ x ∈ (s.release r).reservations, x ≠ r) ∧ mfind (s.release r).launches r.launch = none)) ∧
  (∀ (id : BitVec 42) (p : BitVec 6) (s : State), s.unit = .none →
      ((∀ r ∈ s.reservations, r.id ≠ id.toNat ∨ r.part ≠ p.toNat ∨ (s.launch r.launch).started = true) →
        (s.gangLaunch id.toNat = none → exec (.firmwareMessageResend id p) s = .next s) ∧
        (∀ g, s.gangLaunch id.toNat = some g →
          (g.parts.length ≤ p.toNat → exec (.firmwareMessageResend id p) s = .next s) ∧
          (p.toNat < g.parts.length → g.decision = 0 → exec (.firmwareMessageResend id p) s =
            .next (if (mfind g.ready p.toNat).isSome then s else s.sendPrepare id.toNat g p.toNat)) ∧
          (p.toNat < g.parts.length → g.decision = 1 → exec (.firmwareMessageResend id p) s =
            .next (if (mfind g.report p.toNat).isSome then s else s.sendDecision id.toNat g p.toNat)))) ∧
      (∀ r, s.gangLaunch id.toNat = none → s.reservations = [r] → r.id = id.toNat → r.part = p.toNat → (s.launch r.launch).started = false →
        exec (.firmwareMessageResend id p) s = .next (s.message r.coord (.ready id p (BitVec.ofNat 64 r.time))))) ∧
  (∀ (q : BitVec 10) (i : BitVec 32) (s : State) (lk : Nat), s.unit = .none → lk = launchKey q.toNat i.toNat →
      (s.lwatch = 0 → exec (.launchWatchdog q i) s = .next s) ∧
      (∀ l, mfind s.launches lk = some l →
        (l.done = true ∨ (∀ c ∈ (s.queue q.toNat).open_, c.index ≠ i.toNat) ∨ s.clock - l.committed - s.brkCycles l ≤ 800000 * s.lwatch →
          exec (.launchWatchdog q i) s = .next s) ∧
        (l.done = false → l.ending = none → (∃ c ∈ (s.queue q.toNat).open_, c.index = i.toNat) → s.lwatch ≠ 0 →
          800000 * s.lwatch < s.clock - l.committed - s.brkCycles l → ∃ t : State, exec (.launchWatchdog q i) s = .next t ∧
            (t.launch lk).ending = some 0x501 ∧
            ((∀ e ∈ s.clusters, ∀ x ∈ e.2.armed, x.2.launch = lk → x.2.firing = none ∧ x.2.awaited = 0) →
              (t.launch lk).done = true ∧ (t.launch lk).status = some 0x501))) ∧
      (∀ g c, mfind s.launches lk = none → s.gangLaunch lk = some g → (s.queue g.queue).open_.find? (fun c => c.index == g.index && c.op == 2) = some c →
        s.reservations = [] → g.decision = 1 → s.lwatch ≠ 0 → 800000 * s.lwatch < s.clock - g.committed →
        exec (.launchWatchdog q i) s = .next (s.finish g.queue c 3 0x501 0)))

/-- Between two instructions: a fill's last line is present; an armed operation that may not fire only finishes, where all firings are
made and answered, and its place frees; one that may fire does its work piece by piece, keeps what a wait leaves undone for later, counts
the firing and keeps its time, and a fault ends its launch; a CHAIN's words act in order up to END. A closed window's writer writes its
targets and sets DONE. A slot whose rows have all come is ready. The head of the matrix queue starts only when no other is busy: MMA with
ready slots and positive credit spends it, without credit it counts as stalled once, MZERO clears, a drain ends or stops. Each answers a
next state. (R89, R117, R260, R285, R290, R291, R299, R301, R302, R306, R307, R405) -/
def Obligations.EngineAndTileEvents : Prop :=
  (∀ (l : BitVec 45) (s : State), s.unit = .none → ∃ t : State, exec (.fillLineLands l) s = .next t ∧ { t with filling := s.filling } = s ∧
      mget 0 t.filling l.toNat = mget 0 s.filling l.toNat - 1 ∧ ∀ j, j ≠ l.toNat → mfind t.filling j = mfind s.filling j) ∧
  (∀ e ∈ ([(Instr.copyFiring, EngineKind.copy, copyBegin, fun _ _ => copyPiece), (Instr.retileRun, .retile, noBegin, fun _ _ => retilePiece),
        (Instr.gathFiring, .gath, noBegin, fun _ _ => gathPiece), (Instr.chainFiring, .chain, noBegin, fun _ _ => chainPiece),
        (Instr.collFiring, .coll, noBegin, collPiece)] :
      List ((BitVec 7 → BitVec 6 → Instr) × EngineKind × (Armed → Firing → EngM Firing) × (Nat → Nat → Piece))),
    ∀ (cl : BitVec 7) (p : BitVec 6) (s : State), s.unit = .none →
      (s.armedAt cl.toNat p.toNat = none → exec (e.1 cl p) s = .next s) ∧
      (∀ a, s.armedAt cl.toNat p.toNat = some a → (a.kind ≠ e.2.1 ∨ s.agentBlocked (.engine cl.toNat p.toNat) = true → exec (e.1 cl p) s = .next s) ∧
        (a.kind = e.2.1 → s.agentBlocked (.engine cl.toNat p.toNat) = false →
          (s.mayFire a = false ∨ (a.firing = none ∧ s.chutesReady a = false) → exec (e.1 cl p) s = .next (s.engFinish cl.toNat p.toNat)) ∧
          (∀ f q, s.mayFire a = true → a.firing = some f →
            q = runPieces (e.2.2.2 cl.toNat p.toNat) a f (s.runOf a.agent (.engine cl.toNat p.toNat) a.time) pieceFuel →
            exec (e.1 cl p) s = .next ((q.run.s.afterPieces cl.toNat p.toNat ((q.run.s.armedAt cl.toNat p.toNat).getD a) q).engFinish cl.toNat p.toNat)) ∧
          (∀ f g t u r, s.mayFire a = true → a.firing = none → s.chutesReady a = true → s.beginFiring a = (f, t, u) →
            e.2.2.1 a f ((u.setArmed cl.toNat p.toNat { a with firing := some f }).runOf a.agent (.engine cl.toNat p.toNat) (max a.time t)) = .ok (g, r) →
            ∀ q, q = runPieces (e.2.2.2 cl.toNat p.toNat) a g r pieceFuel →
            exec (e.1 cl p) s = .next ((q.run.s.afterPieces cl.toNat p.toNat ((q.run.s.armedAt cl.toNat p.toNat).getD a) q).engFinish cl.toNat p.toNat))))) ∧
  (∀ (work : Piece) (a : Armed) (f : Firing) (r : Run) (n : Nat),
      (∀ g v, work a f r = .ok (some g, v) → runPieces work a f r (n + 1) = runPieces work a g v.next n) ∧
      (∀ v, work a f r = .ok (none, v) → runPieces work a f r (n + 1) = { firing := f, run := v.next, stop := none, done := true }) ∧
      (∀ x, work a f r = .error x → runPieces work a f r (n + 1) = { firing := f, run := r, stop := some x, done := false })) ∧
  (∀ (s : State) (cl p : Nat) (a b : Armed) (q : Pieces), b = { a with time := q.run.t, stopped := none } →
      (q.done = true → (s.afterPieces cl p a q).armedAt cl p = some { b with fired := a.fired + 1, firing := none } ∧
        (s.afterPieces cl p a q).mem = s.mem ∧ (s.afterPieces cl p a q).threads = s.threads ∧
        (a.gang = none → (s.afterPieces cl p a q).gangs = s.gangs)) ∧
      (q.done = false → (q.stop = none ∨ ∃ w, q.stop = some (.wait w)) → s.afterPieces cl p a q = s.setArmed cl p { b with firing := some q.firing }) ∧
      (∀ pte en lv, q.done = false → q.stop = some (.fill pte en lv) → ∃ u : State, s.afterPieces cl p a q = u ∧
        u.armedAt cl p = some { b with firing := some q.firing, stopped := some pte } ∧ u.mem = s.mem ∧ ∃ f ∈ u.pageFills, f.pte = pte) ∧
      (∀ line x y z, q.done = false → q.stop = some (.miss line x y z) →
        s.afterPieces cl p a q = (s.setArmed cl p { b with firing := some q.firing }).missAgent (.engine cl p) line x) ∧
      (∀ code sub d va z, q.done = false → q.stop = some (.trap code sub d va z) → ∃ u : State,
        s.afterPieces cl p a q = u.terminate a.launch (0x100 + code) ∧ u.mem = s.mem ∧
        u.armedAt cl p = some { b with firing := none, withdrawn := true })) ∧
  (∀ (s : State) (cl p : Nat) (a : Armed) (free : State → State), s.armedAt cl p = some a →
      (∀ u : State, free u = (({ u with clusters := mset u.clusters cl { u.cluster cl with armed := mdel (u.cluster cl).armed p } }).clearAgent
        (.engine cl p)).armedGone a) →
      (a.firing.isSome = true ∨ a.awaited ≠ 0 → s.engFinish cl p = s) ∧
      (a.firing = none → a.awaited = 0 →
        (a.withdrawn = true → s.engFinish cl p = free s) ∧
        (a.withdrawn = false → a.bad = none →
          (a.fired < a.repeat_ → s.engFinish cl p = s) ∧
          (a.repeat_ ≤ a.fired → a.f 0 8 = 0 → s.engFinish cl p = free s) ∧
          (a.repeat_ ≤ a.fired → a.f 0 8 ≠ 0 → s.doneWaits a.agent (a.f 0 8) = true → s.engFinish cl p = s) ∧
          (∀ u pa k r v, a.repeat_ ≤ a.fired → a.f 0 8 ≠ 0 → s.agentTagged a.agent (a.f 0 8) = .ok (u, pa, k) →
            u.stageOp pa (.store (pa % 128) 4 a.repeat_) a.time = (r, v) →
            s.engFinish cl p = free ((v.noteTime a.launch r.ts).setFull pa true))))) ∧
  (∀ (d : List Byte) (x y : Val) (w : Nat) (r : List Nat) (z : Val) (g : Flags),
      (chainOps d x y [] z g = (z, g)) ∧ (w < 2048 → chainOps d x y (w :: r) z g = (z, g)) ∧
      (∀ v, 2048 ≤ w → v = (if w / 256 % 8 = 0 then x else if w / 256 % 8 = 1 then y else decodeFmt fmtFP32 (field d (64 + 4 * (w / 256 % 8 - 4)) 4)) →
        chainOps d x y (w :: r) z g = chainOps d x y r (chainOp (w / 2048) z v).1 (g ||| (chainOp (w / 2048) z v).2)) ∧
      (z.isNan = false → chainOp 8 z y = (z.withSign false, 0) ∧ chainOp 9 z y = (z.negate, 0) ∧
        (z.neg = true → chainOp 10 z y = (.zero false, 0)) ∧ (z.neg = false → z.isZero = false → chainOp 10 z y = (z, 0)))) ∧
  (∀ (n : BitVec 8) (s : State), s.unit = .none → (∀ e ∈ s.writers, e.1 ≠ n.toNat) → exec (.wfinalWriter n) s = .next s) ∧
  (∀ (n : BitVec 8) (s : State) (w : Window), s.unit = .none → s.writers.find? (fun e => e.1 == n.toNat) = some (n.toNat, w) →
      (s.targetsReady w = false ∨ s.doneWaits w.agent w.done = true → exec (.wfinalWriter n) s = .next s) ∧
      (s.targetsReady w = true → s.doneWaits w.agent w.done = false →
        (∃ (u : State) (ts : Nat), exec (.wfinalWriter n) s = .next (u.agentDone w.agent w.launch w.done none ts) ∧
          u.writers = s.writers.eraseP (fun e => e.1 == n.toNat)) ∧
        (∀ acc pa ts u v, w.length = w.size → acc = mget {} w.accs 0 → acc.poison = false → pa = targetPa w.size 0 w.phys →
          s.agentStore pa (acc.result w.f64).1 w.size w.time = (ts, u) →
          v = (if w.setFull then u.setFull pa true else u).orFlags w.ctx (acc.result w.f64).2 ts →
          exec (.wfinalWriter n) s =
            .next ({ v with writers := v.writers.eraseP fun e => e.1 == n.toNat }.agentDone w.agent w.launch w.done none ts)))) ∧
  (∀ (s u v : State) (a : Agent) (lk va pa t ts : Nat) (k : PageKind), s.agentTagged a va = .ok (u, pa, k) → u.stageEnter pa false t = (ts, v) →
      s.agentDone a lk va none t = ((((v.setTag (pa / 16) false).touch pa 4).noteTime lk ts).setFull pa true)) ∧
  (∀ (cl : BitVec 7) (h : BitVec 4) (slot : BitVec 11) (s : State) (k : Cluster), s.unit = .none → k = s.cluster cl.toNat →
      ((∀ f ∈ k.fills, f.handle ≠ h.toNat ∨ f.slot ≠ slot.toNat) ∨ mfind k.handles h.toNat = none → exec (.slotFillDone cl h slot) s = .next s) ∧
      (∀ f x, k.fills.find? (fun f => f.handle == h.toNat && f.slot == slot.toNat) = some f → mfind k.handles h.toNat = some x →
        (s.streamPreempted cl.toNat = true ∨ s.filling_ f.stopped = true ∨ s.agentBlocked (.fill cl.toNat f.order) = true ∨ k.fillReady f = false → exec (.slotFillDone cl h slot) s = .next s) ∧
        (∀ rows left stop r, s.streamPreempted cl.toNat = false → s.filling_ f.stopped = false → s.agentBlocked (.fill cl.toNat f.order) = false →
          k.fillReady f = true → f.entry = none → rows = (if x.role = 1 then 32 else 64) →
          fillRows (s.streamAgent cl.toNat) cl.toNat x f.slot f.tile (rows - f.progress)
            (s.runOf (s.streamAgent cl.toNat) (.fill cl.toNat f.order) (max f.time k.time)) = (left, stop, r) →
          (stop = none → ∃ (u : State) (y : Handle), exec (.slotFillDone cl h slot) s = .next (u.gangOver cl.toNat) ∧
            mfind (u.cluster cl.toNat).handles h.toNat = some y ∧ y.state slot.toNat = .ready ∧ u.mem = r.s.mem) ∧
          (∀ w, stop = some (.wait w) → ∃ (u : State) (y : Handle), exec (.slotFillDone cl h slot) s = .next u ∧
            mfind (u.cluster cl.toNat).handles h.toNat = some y ∧ y.state slot.toNat = .filling (rows - left) ∧ u.mem = r.s.mem) ∧
          (∀ code sub d va b, stop = some (.trap code sub d va b) → exec (.slotFillDone cl h slot) s = .next (r.s.streamTrap cl.toNat code))))) ∧
  (∀ (cl : BitVec 7) (s : State) (k : Cluster), s.unit = .none → k = s.cluster cl.toNat →
      (k.queue = [] → exec (.matrixQueueStart cl) s = .next s) ∧
      (∀ o rest, k.queue = o :: rest →
        (o.busy ≠ 0 ∨ s.filling_ o.stopped = true ∨ s.agentBlocked (.matrix cl.toNat) = true → exec (.matrixQueueStart cl) s = .next s) ∧
        (∀ v b a c z, o.busy = 0 → s.filling_ o.stopped = false → s.agentBlocked (.matrix cl.toNat) = false → o.instr = .mma v b a c z →
          (k.mmaReady o a.toNat b.toNat = false → exec (.matrixQueueStart cl) s = .next s) ∧
          (k.mmaReady o a.toNat b.toNat = true → k.credit ≤ 0 → o.held = true → exec (.matrixQueueStart cl) s = .next s) ∧
          (k.mmaReady o a.toNat b.toNat = true → k.credit ≤ 0 → o.held = false → exec (.matrixQueueStart cl) s = .next { s with
            clusters := mset s.clusters cl.toNat { k with stalled := (k.stalled + 1) % 2 ^ 24, queue := { o with held := true } :: rest } }) ∧
          (∀ x y m cost, k.mmaReady o a.toNat b.toNat = true → 0 < k.credit → mfind k.handles a.toNat = some x → mfind k.handles b.toNat = some y →
            mmaPair x.format y.format = some (m, cost) →
            (∀ u, s.mmaRun cl.toNat (v == 1) a.toNat b.toNat c.toNat = some u → ∃ t : State, exec (.matrixQueueStart cl) s = .next t ∧
              (t.cluster cl.toNat).credit = (u.cluster cl.toNat).credit - cost ∧ (t.cluster cl.toNat).queue = { o with busy := cost } :: rest ∧
              (t.cluster cl.toNat).accs = (u.cluster cl.toNat).accs ∧ t.mem = u.mem) ∧
            (s.mmaRun cl.toNat (v == 1) a.toNat b.toNat c.toNat = none → exec (.matrixQueueStart cl) s = .next (s.terminate (s.streamLaunch cl.toNat) 0x113)))) ∧
        (∀ c z, o.busy = 0 → s.filling_ o.stopped = false → s.agentBlocked (.matrix cl.toNat) = false → o.instr = .mzero c z → k.pair64 c.toNat = false → ∃ u : State,
          exec (.matrixQueueStart cl) s = .next (u.gangOver cl.toNat) ∧ { u with clusters := s.clusters } = s ∧ (u.cluster cl.toNat).queue = rest ∧
          mfind (u.cluster cl.toNat).accs c.toNat = none ∧ (u.cluster cl.toNat).type c.toNat = .zero ∧
          ∀ j, j ≠ c.toNat → mfind (u.cluster cl.toNat).accs j = mfind k.accs j) ∧
        (∀ fmt c z d, o.busy = 0 → s.filling_ o.stopped = false → s.agentBlocked (.matrix cl.toNat) = false → o.instr = .mout fmt c z →
          d = s.drainRun cl.toNat o c.toNat (natBits o.s0.toNat 8 4) false →
          (d.stop = none → exec (.matrixQueueStart cl) s = .next (d.run.s.popQueue cl.toNat)) ∧
          (∀ code sub x va b, d.stop = some (.trap code sub x va b) → exec (.matrixQueueStart cl) s = .next (d.run.s.streamTrap cl.toNat code)))))

/-- Between two instructions: a live launch with no current command starts its next one; a completed one is counted into DONE, and an OWNC
frees the entry. A round opens with its rows, or the run has finished. A column cycle steps one word where nothing stops it and otherwise
lets waits run down, rows close and rounds end. A refresh adds 180 cycles in a round. A governor window adds the acting budget. The drain
path takes at most 16 entries, one from each bench; an arriving entry joins its target. Slabs go from 1 to 2, once no copy of their lines
is left, and from 3 to CORE. A parity error ends the launch with 0x114. Each answers a next state. (R307, R317, R319, R322, R323, R324,
R326, R329, R331, R333, R334, R380) -/
def Obligations.BenchEvents : Prop :=
  (∀ (e : BitVec 5) (s : State) (b : BenchLaunch) (n : Nat), s.unit = .none → n = e.toNat → b = s.benchLaunch n →
      (b.live = false ∨ b.stalled = true ∨ b.current.isSome = true ∨ s.benchBlocked n = true ∨ b.queue = [] → exec (.benchCommandStart e) s = .next s) ∧
      (∀ k r, b.live = true → b.stalled = false → b.current = none → s.benchBlocked n = false → b.queue = k :: r →
        (∀ z, startWork n b k (s.runOf b.agent (.bench n) (max b.time k.time)) = .ok ((), z) → ∃ t : State, exec (.benchCommandStart e) s = .next t ∧
          t.benchLaunch n = { z.next.s.benchLaunch n with queue := r, current := some k, time := z.t, stopped := none } ∧ t.mem = z.s.mem) ∧
        (k.op = 3 → ∃ t : State, exec (.benchCommandStart e) s = .next t ∧
          t.benchLaunch n = { b with queue := r, current := some k, time := max b.time k.time, stopped := none } ∧ { t with benchLaunches := s.benchLaunches, agentWaits := s.agentWaits } = s) ∧
        (k.op = 5 → b.slabs = [] → exec (.benchCommandStart e) s = .next (s.terminate b.launch 0x10D)) ∧
        (k.op = 2 → b.owned = false → exec (.benchCommandStart e) s = .next (s.terminate b.launch 0x10D)) ∧
        (∀ code sub d va a, startWork n b k (s.runOf b.agent (.bench n) (max b.time k.time)) = .error (.trap code sub d va a) →
          exec (.benchCommandStart e) s = .next (s.terminate b.launch (0x100 + code)))) ∧
      (b.current = none → exec (.benchCommandComplete e) s = .next s) ∧
      (∀ k, b.current = some k →
        (b.live = false ∨ b.stalled = true ∨ s.benchBlocked n = true ∨ s.commandOver b k = false → exec (.benchCommandComplete e) s = .next s) ∧
        (b.live = true → b.stalled = false → s.benchBlocked n = false → s.commandOver b k = true →
          (k.op ≠ 3 → k.op ≠ 5 → exec (.benchCommandComplete e) s = .next (s.commandEnd n k)) ∧
          (k.op = 3 → (b.dmode ≠ 1 ∨ ∀ x ∈ s.epoch, x.1 / 2 ^ 24 ≠ n) → exec (.benchCommandComplete e) s = .next (s.commandEnd n k)) ∧
          (k.op = 5 → b.dmode ≠ 1 → b.returning = false → ∃ t : State, exec (.benchCommandComplete e) s = .next t ∧
            t.benchLaunch n = { b with returning := true } ∧ (∀ x ∈ b.slabs, t.slab x = 3) ∧ (∀ x, x ∉ b.slabs → t.slab x = s.slab x) ∧ t.mem = s.mem) ∧
          (k.op = 5 → b.dmode ≠ 1 → b.returning = true → (∃ x ∈ b.slabs, s.slab x ≠ 0) → exec (.benchCommandComplete e) s = .next s) ∧
          (k.op = 5 → b.dmode ≠ 1 → b.returning = true → (∀ x ∈ b.slabs, s.slab x = 0) → exec (.benchCommandComplete e) s = .next (s.commandEnd n k)))) ∧
      (b.live = false → exec (.benchParityError e) s = .next s) ∧ (b.live = true → exec (.benchParityError e) s = .next (s.terminate b.launch 0x114))) ∧
  (∀ (s : State) (n : Nat) (k : BenchCmd) (b : BenchLaunch), b = s.benchLaunch n →
      (s.doneWaits b.agent (b.b 0 8) = true → s.commandEnd n k = s) ∧
      (∀ s1 ts u, s.doneWaits b.agent (b.b 0 8) = false → k.op ≠ 5 → k.op ≠ 2 →
        s1 = { s with benchLaunches := mset s.benchLaunches n { b with current := none, count := b.count + 1, owned := b.owned || k.op == 4 } } →
        s1.agentDoneAt b.agent b.launch (b.b 0 8) (some (b.count + 1)) b.time = (ts, u) → (u.benchLaunch n).live = true →
        s.commandEnd n k = (u.modBenchLaunch n fun b => { b with time := max b.time ts }).launchCheck b.launch)) ∧
  (∀ (st : BitVec 4) (s : State) (n : Nat) (k : Stack), s.unit = .none → n = st.toNat → k = s.stack n →
      (k.launch = none ∨ k.run = none ∨ k.opened = true ∨ k.finished = true → exec (.benchRound st) s = .next s) ∧
      (∀ e, k.launch = some e → k.run.isSome = true → k.opened = false → k.finished = false → (s.benchLaunch e).stalled = false →
        ((s.benchLaunch e).rounds k n ≤ k.round → exec (.benchRound st) s = .next { s with hbmStacks := mset s.hbmStacks n { k with finished := true } }) ∧
        (k.round < (s.benchLaunch e).rounds k n → ∃ t : State, exec (.benchRound st) s = .next t ∧
          t.stack n = { k with opened := true, closing := false, wait := 12, word := 0, lastBank := none } ∧ (∀ x ∈ s.sites n, (t.bench x.1).slot = k.arg 3) ∧
          { t with hbmStacks := s.hbmStacks, benches := s.benches } = s)) ∧
      (s.stepsNow n = true → exec (.columnCommand st) s = .next ((s.stepWord n k.next).wordDone n (s.fetchBank n k.next))) ∧
      (s.stepsNow n = false → k.launch = none ∨ k.opened = false → exec (.columnCommand st) s = .next s) ∧
      (∀ e, s.stepsNow n = false → k.launch = some e → k.opened = true → (s.benchLaunch e).stalled = false →
        (1 < k.wait → exec (.columnCommand st) s = .next { s with hbmStacks := mset s.hbmStacks n { k with wait := k.wait - 1 } }) ∧
        (k.wait ≤ 1 → k.closing = true → exec (.columnCommand st) s =
          .next { s with hbmStacks := mset s.hbmStacks n { k with wait := 0, closing := false, opened := false, round := k.round + 1 } }) ∧
        (k.wait = 1 → k.closing = false → exec (.columnCommand st) s = .next { s with hbmStacks := mset s.hbmStacks n { k with wait := 0 } }) ∧
        (k.wait = 0 → k.closing = false → k.arg 1 * k.arg 2 ≤ k.word →
          exec (.columnCommand st) s = .next { s with hbmStacks := mset s.hbmStacks n { k with closing := true, wait := 7 } }) ∧
        (k.wait = 0 → k.closing = false → k.word < k.arg 1 * k.arg 2 → k.lastBank.isSome = true → k.lastBank = s.fetchBank n k.next →
          exec (.columnCommand st) s = .next { s with hbmStacks := mset s.hbmStacks n { k with lastBank := none } })) ∧
      (exec (.benchRefresh st) s = .next (if k.opened then { s with hbmStacks := mset s.hbmStacks n { k with wait := k.wait + 180 } } else s)) ∧
      (∃ t : State, exec (.benchGovernorWindow st) s = .next t ∧ { t with hbmStacks := s.hbmStacks } = s ∧
        t.stack n = { k with credit := (actingBudget k.budget (s.throt (n / 6)) (mget false s.cap8 (n / 6)) : Int) + min k.credit 0 } ∧
        ∀ j, j ≠ n → mfind t.hbmStacks j = mfind s.hbmStacks j)) ∧
  (∀ (s : State) (n e : Nat) (k : Stack), k = s.stack n → k.launch = some e → (s.stepsNow n = true ↔ (k.opened = true ∧ k.wait = 0 ∧ k.closing = false ∧
      (s.benchLaunch e).stalled = false ∧ k.word < k.arg 1 * k.arg 2 ∧ 0 < k.credit ∧ s.drainFull n k.next = false ∧
      (k.lastBank = none ∨ k.lastBank ≠ s.fetchBank n k.next)))) ∧
  (∀ (st : BitVec 4) (s : State) (n : Nat), s.unit = .none → n = st.toNat →
      ((∀ x ∈ s.benches, x.1 / 1024 ≠ n ∨ x.2.drain = []) → exec (.drainPathCycle st) s = .next s) ∧
      (∀ (key : Nat) (x : Bench) (d : DrainEntry) (r : List DrainEntry), s.benches = [(key, x)] → key / 1024 = n → x.drain = d :: r → ∃ t : State,
        exec (.drainPathCycle st) s = .next t ∧ t.bench key = { x with drain := r } ∧
        mget [] t.drains (s.crusherDie (s.benchLaunch d.launch)) = mget [] s.drains (s.crusherDie (s.benchLaunch d.launch)) ++ [d] ∧ t.mem = s.mem)) ∧
  (∀ (d : BitVec 1) (s : State), s.unit = .none →
      (mget [] s.drains d.toNat = [] → exec (.drainEntryArrival d) s = .next s) ∧
      (∀ (x : DrainEntry) (r : List DrainEntry) (s1 s2 : State) (b : BenchLaunch), mget [] s.drains d.toNat = x :: r → s1 = { s with drains := mset s.drains d.toNat r } →
        b = s.benchLaunch x.launch →
        (b.live = false → exec (.drainEntryArrival d) s = .next s1) ∧
        (b.live = true → s2 = ({ s1 with benchLaunches := mset s1.benchLaunches x.launch { b with outstanding := b.outstanding - 1 } }.orFlags b.ctx x.flags b.time) →
          (b.dmode ≠ 0 → ∃ t : State, exec (.drainEntryArrival d) s = .next t ∧ { t with epoch := s2.epoch } = s2 ∧
            mfind t.epoch (x.launch * 2 ^ 24 + x.row) = some { (x.lanes.foldl (fun (a : ExactAcc) (y : Word) => a.add false (decodeFmt fmtFP32 y.toNat))
              (mget {} s2.epoch (x.launch * 2 ^ 24 + x.row))) with poison := (x.lanes.foldl (fun (a : ExactAcc) (y : Word) => a.add false (decodeFmt fmtFP32 y.toNat))
              (mget {} s2.epoch (x.launch * 2 ^ 24 + x.row))).poison || !x.poison.isEmpty }) ∧
          (b.dmode = 0 → (s2.window (b.b 64 4 % 256)).open_ = false → exec (.drainEntryArrival d) s = .next (s2.terminate b.launch 0x110))))) ∧
  (∀ (n : BitVec 22) (s : State), s.unit = .none →
      (s.slab n.toNat = 1 → s.slabQuiet n.toNat = true → ∃ t : State, exec (.slabToBank n) s = .next t ∧ t.slab n.toNat = 2 ∧
        (∀ j, j ≠ n.toNat → t.slab j = s.slab j) ∧ { t with slabs := s.slabs } = s) ∧
      (s.slab n.toNat ≠ 1 ∨ s.slabQuiet n.toNat = false → exec (.slabToBank n) s = .next s) ∧
      (s.slab n.toNat = 3 → ∃ t : State, exec (.slabToCore n) s = .next t ∧ t.slab n.toNat = 0 ∧ (∀ j, j ≠ n.toNat → t.slab j = s.slab j) ∧
        { t with slabs := s.slabs, dir := s.dir, slabTime := s.slabTime, benchLaunches := s.benchLaunches } = s ∧
        (∀ l, inSlab n.toNat l = true → ∀ d, mfind t.dir l = some d → d.wts = d.rts ∧ d.wts = mget 0 t.slabTime n.toNat) ∧
        mget 0 s.slabTime n.toNat < mget 0 t.slabTime n.toNat) ∧
      (s.slab n.toNat ≠ 3 → exec (.slabToCore n) s = .next s) ∧
      (s.slabQuiet n.toNat = true ↔ (∀ e ∈ s.copies, inSlab n.toNat (e.1 % 2 ^ 45) = false) ∧ (∀ m ∈ s.msgs, inSlab n.toNat m.line = false) ∧
        (∀ e ∈ s.trans, inSlab n.toNat e.1 = false) ∧ (∀ e ∈ s.deferred, inSlab n.toNat e.1 = false ∨ e.2 = []) ∧
        ∀ x ∈ s.pendingReq, inSlab n.toNat x.2.1 = false))

/-- With the clocks running: a pipe whose turn it is fetches at its bundle's program counter, in the view of the bundle's first crew and
with the lanes left behind counted; where the word decodes, the step is exec of that instruction in the state with that issue as the
unit's work, followed by State.after. A stream's turn, a stack's turn with a bench word, a lane that tries again, and an event from
outside do the same with theirs. What a fetch decodes is decode16 of its low parcel where that is even and decode32 of both parcels where
it is odd. A turn with nothing to do only passes on. (R23, R28, R170, R171, R293, R311) -/
def Obligations.StepRunsDecodedInstruction : Prop :=
  (∀ (s s' : State) (c n ck q w len : Nat) (b : Bundle) (rest : List (Nat × Nat)) (i : Instr), s.stopped = false → turnSlot s.turn = .pipe c n →
      mfind (s.core c).pipes n = some b → b.quads = (ck, q) :: rest →
      (s.countBehind b).fetchInstr ((s.countBehind b).crewView ck) b.pc = .ok (s', w, len, .ok i) →
      ∀ u, exec i { s' with unit := .lanes (s'.issueOf c n b len w) } = .next u → step s = .next (s.after u)) ∧
  (∀ (s s' : State) (cl w len : Nat) (i : Instr), s.stopped = false → turnSlot s.turn = .stream cl → s.streamIssues cl = true →
      s.fetchInstr (s.streamAgent cl).view (s.cluster cl).pc = .ok (s', w, len, .ok i) →
      ∀ u, exec i { s'.modCluster cl (fun k => { k with stream := .running }) with unit := .stream cl (s.cluster cl).pc w } = .next u →
        step s = .next (s.after u)) ∧
  (∀ (s : State) (n : Nat) (i : Instr), s.stopped = false → turnSlot s.turn = .stack n → s.columnDue = true → s.stepsNow n = true →
      decodeWord (s.stack n).next = some i → ∀ u, exec i { s with unit := .column n } = .next u → step s = .next (s.after u)) ∧
  (∀ (s s' : State) (ck l w len : Nat) (i : Instr), s.stopped = false → turnSlot s.turn = .events → s.nextAct = .retry ck l →
      s.fetchInstr (s.crewView ck) (s.thread ck l).pc = .ok (s', w, len, .ok i) →
      ∀ (x : Issue) (u : State), x = { core := coreOf ck, pipe := 0, parts := [{ crew := ck, lanes := bitOf l }], pc := (s.thread ck l).pc, len := len, word := w } →
        exec i { s' with unit := .lanes x } = .next u → step s = .next (s.after u)) ∧
  (∀ (s : State) (i : Instr) (r : List Instr), s.stopped = false → turnSlot s.turn = .events → s.inputs = i :: r →
      ∀ u, exec i { s with inputs := r } = .next u → step s = .next (s.after u)) ∧
  (∀ (s s' : State) (v : View) (pc : DWord) (w len : Nat) (r : Except Illegal Instr), s.fetchInstr v pc = .ok (s', w, len, r) →
      ∃ (s1 : State) (lo : Nat), s.fetchParcel v pc = .ok (s1, lo) ∧
        (lo % 2 = 0 → w = lo ∧ len = 2 ∧ r = decode16 lo ∧ s' = s1) ∧
        (lo % 2 = 1 → ∃ hi, s1.fetchParcel v (pc + 2) = .ok (s', hi) ∧ w = lo + 65536 * hi ∧ len = 4 ∧ r = decode32 w)) ∧
  (∀ s : State, s.stopped = false → (turnSlot s.turn = .events ∧ s.nextAct = .idle ∨ (∃ c n, turnSlot s.turn = .pipe c n ∧ mfind (s.core c).pipes n = none) ∨
      (∃ cl, turnSlot s.turn = .stream cl ∧ s.streamIssues cl = false) ∨ (∃ n, turnSlot s.turn = .stack n ∧ s.columnDue = false)) → step s = .next s.moveOn)

/-- One or two words of each family, written out bit by bit from the majors, sub-ops, operand fields, variant bits and predicate fields of
the encoding chapter, decode to those instructions and operands; a word of an unassigned major, a reserved predicate selector and the
halfword 0x0000 are refused. (R170, R171, R175, R176, R177, R178, R180, R311) -/
def Obligations.DecodeSamples : Prop :=
  decodeTableWord 32 0x8C204F03 = some (.sub 1 6 4 2 0 15) ∧ decodeTableWord 32 0x86102F1B = some (.min 1 3 2 1 0 15) ∧
  decodeTableWord 32 0x0628AF2B = some (.srai 3 5 5 0 15) ∧ decodeTableWord 32 0x04088F35 = some (.clt 0 1 2 1 4 0 15) ∧
  decodeTableWord 32 0x00188F3B = some (.prd 3 4 0 15) ∧ decodeTableWord 32 0x0210AF3B = some (.pwr 2 5 0 15) ∧
  decodeTableWord 32 0x00280FF9 = some (.trap 5 0 15) ∧ decodeTableWord 32 0x02000FF9 = some (.tret 0 15) ∧
  decodeTableWord 32 0x00408F7B = some (.spawn 0 8 4 0 15) ∧ decodeTableWord 32 0x04086F83 = some (.perm 2 1 3 0 15) ∧
  decodeTableWord 32 0x00182FF1 = some (.mres 3 1 0) ∧ decodeTableWord 32 0x02000FF1 = some (.mrel 0 0) ∧
  decodeTableWord 32 0x00300FF3 = some (.mload 6 0 0) ∧ decodeTableWord 32 0x02202FF3 = some (.mchin 4 1 0) ∧
  decodeTableWord 32 0x0A184FF5 = some (.mma 0 5 3 2 0) ∧ decodeTableWord 32 0x82000FF5 = some (.mma 1 1 0 0 0) ∧
  decodeTableWord 32 0x06404FF9 = some (.ticket 4 2 0 15) ∧ decodeTableWord 32 0x00000F7D = some (.bar 0 0 15) ∧
  decodeTableWord 32 0x06102F09 = some (.div 0 3 2 1 0 15) ∧ decodeTableWord 32 0x0618EF3D = some (.brev 0 3 7 0 15) ∧
  decodeTableWord 32 0x30102F39 = some (.plog 3 0 2 1 0 15) ∧ decodeTableWord 32 0x00040F73 = some (.call 32 0 15) ∧
  decodeTableWord 32 0x02002FF9 = some (.tretNext 0 15) ∧ decodeTableWord 32 0x01DCAF79 = some (.safept 3 1 5 0 15) ∧
  decodeTableWord 32 0x0C084F81 = some (.qbc 0 2 1 2 0 15) ∧ decodeTableWord 32 0x02106F5D = some (.fnegF32 0 2 3 0 15) ∧
  decodeTableWord 32 0x040A8F59 = some (.fcmp 0 2 1 1 4 0 15) ∧ decodeTableWord 32 0x92286FB5 = some (.ldf 4 1 1 5 3 0 15) ∧
  decodeTableWord 32 0x02280FBD = some (.sete 0 0 1 5 0 15) ∧ decodeTableWord 32 0x70084F8F = some (.blut 0 0 1 2 0 15) ∧
  decodeTableWord 32 0x62000F7D = some (.gbar 3 0 15) ∧ decodeTableWord 32 0x06408F7D = some (.codepub 8 4 0 15) ∧
  decodeTableWord 32 0x24382FCD = some (.capld 2 2 7 1 0 15) ∧ decodeTableWord 32 0x04386FCF = some (.capst 0 2 7 3 0 15) ∧
  decodeTableWord 32 0x04100FD5 = some (.sjoin 0 2 0 15) ∧ decodeTableWord 32 0x08406FD5 = some (.smap 0 4 3 0 15) ∧
  decodeTableWord 32 0x00000DBB = none ∧ decodeTableWord 16 0x0000 = none

/-- For every instruction that has words and is well-formed, with every operand at every value its fields admit, the words written by the
encoding tables decode to that instruction and fit their length; two such instructions with the same words are the same; an instruction
that a word decodes to is well-formed; and the bytes of the words, least significant first, are read as that instruction with that length.
(R170, R171, R177, R180, R311) -/
def Obligations.EncodingRoundTrip : Prop :=
  (∀ (i : Instr) (n w : Nat), i.wf = true → encode i = some (n, w) → decodeTableWord n w = some i ∧ (n = 16 ∨ n = 32) ∧ w < 2 ^ n) ∧
  (∀ (i j : Instr) (n w : Nat), i.wf = true → j.wf = true → encode i = some (n, w) → encode j = some (n, w) → i = j) ∧
  (∀ (n w : Nat) (i : Instr), decodeTableWord n w = some i → i.wf = true) ∧
  (∀ (i : Instr) (n w : Nat) (b : List (BitVec 8)), i.wf = true → encode i = some (n, w) → (n = 16 ∨ w % 2 = 1) →
      decodeBytes (leBytes w (n / 8) ++ b) = (.ok i, n / 8))

/-- For every state that satisfies State.Inv (byte memory lists strictly rising addresses and no byte equal to what an unlisted address
reads as; no instruction is under way), a step that answers a next state answers one that satisfies it; and after every instruction or
event, in whatever unit it runs, memory is still canonical. That memory is kept as a canonical list, with unlisted bytes reading zero, is
the model's own choice (notes/assumptions/1.md). (R2, R76, R101, R422) -/
def Obligations.InvariantKept : Prop :=
  (∀ s t : State, s.Inv → step s = .next t → t.Inv) ∧
  (∀ (i : Instr) (s t : State), s.mem.wf = true → exec i s = .next t → t.mem.wf = true)

/-- At reset State.Inv holds; CLOCK is 0, every slab is CORE, slots 6 and 7 are EMPTY, every STAGE is 0, every range entry is invalid,
every MGOV and BDGOV BUDGET is 64, no queue exists, PHASE is 0, no thread or crew is resident, TLIMIT is 105 and no cap is in force.
Values the manual gives no reset for (memory, the package number, registers of units that do not exist yet) are the model's
(notes/assumptions/1.md, notes/assumptions/2.md) and are not claimed here. (R73, R92, R128, R126, R84, R305, R374, R378, R372) -/
def Obligations.ResetState : Prop :=
  State.reset.Inv ∧ State.reset.clock = 0 ∧ (∀ n, State.reset.slab n = 0) ∧ (∀ n, (mget {} State.reset.slots n).status = 0) ∧
  (∀ n, mget 0 State.reset.stage n = 0) ∧ (∀ n r, mfind State.reset.ranges n = some r → r.valid = false) ∧
  (∀ c, (State.reset.cluster c).budget = 64 ∧ (State.reset.cluster c).stalled = 0) ∧ (∀ k, (State.reset.stack k).budget = 64) ∧
  (∀ q, mfind State.reset.queues q = none) ∧ State.reset.phase = 0 ∧ State.reset.booted = false ∧ (∀ k, mfind State.reset.crews k = none) ∧
  (∀ n, mfind State.reset.threads n = none) ∧ (∀ d, State.reset.tlimit d = 105 ∧ State.reset.temp d = 0 ∧ State.reset.throt d = false) ∧
  State.reset.stopped = false

/-- Whatever the instruction or event and the state, exec answers a next state: no data and no state ends a run. A step is never refused;
it faults exactly where a die has stopped its clocks and no power-good reset is among the inputs, and otherwise answers a next state. The
power-good reset runs where the clocks have stopped. (R171, R374, R449) -/
def Obligations.ExecAndStepAnswer : Prop :=
  (∀ (i : Instr) (s : State), ∃ t, exec i s = .next t) ∧
  (∀ s : State, s.stopped = false → ∃ t, step s = .next t) ∧
  (∀ s : State, s.stopped = true → Instr.powerGoodReset ∉ s.inputs → step s = .fault .clocksStopped) ∧
  (∀ s : State, s.stopped = true → Instr.powerGoodReset ∈ s.inputs → s.unit = .none → ∃ t : State, step s = .next t ∧ t.dead = [] ∧ t.phase = 0)
end

