-- ==== Sys2Proof/Laws/LaneM.lean ====
section
/-! SUPPORT. Running the computations of a lane: what each building block answers in a state. -/

namespace Sys2Proof.Laws

open Sys2Proof.Machine

@[simp] theorem bind_run {α β : Type} (x : LaneM α) (f : α → LaneM β) (s : State) :
    (x >>= f) s = (match x s with | .ok (a, t) => f a t | .error e => .error e) := by
  simp only [bind, StateT.bind, Except.bind]
  cases x s with
  | ok r => rfl
  | error e => rfl

@[simp] theorem pure_run {α : Type} (a : α) (s : State) : (pure a : LaneM α) s = .ok (a, s) := rfl
@[simp] theorem stop_run {α : Type} (e : Stop) (s : State) : (stop e : LaneM α) s = .error e := rfl
@[simp] theorem trap_run {α : Type} (code sub detail : Nat) (addr : DWord) (s : State) :
    (trap code sub detail addr : LaneM α) s = .error (.trap code sub detail addr false) := rfl
@[simp] theorem me_run (c : Ctx) (s : State) : me c s = .ok (s.thread c.crew c.lane, s) := rfl
@[simp] theorem modMe_run (c : Ctx) (f : Thread → Thread) (s : State) :
    modMe c f s = .ok ((), s.modThread c.crew c.lane f) := rfl
@[simp] theorem myCrew_run (c : Ctx) (s : State) : myCrew c s = .ok (s.crew c.crew, s) := rfl
@[simp] theorem modMyCrew_run (c : Ctx) (f : Crew → Crew) (s : State) :
    modMyCrew c f s = .ok ((), s.modCrew c.crew f) := rfl
@[simp] theorem myLaunch_run (c : Ctx) (s : State) : myLaunch c s = .ok (s.launch (s.group c.group).launch, s) := rfl
@[simp] theorem get_run (s : State) : (get : LaneM State) s = .ok (s, s) := rfl
@[simp] theorem set_run (s t : State) : (set t : LaneM Unit) s = .ok ((), t) := rfl
@[simp] theorem ite_run {α : Type} (p : Prop) [Decidable p] (x y : LaneM α) (s : State) :
    (if p then x else y) s = (if p then x s else y s) := by split <;> rfl

/-- A sequence that succeeds: its first part does, and the rest from there. -/
theorem bind_ok {α β : Type} {x : LaneM α} {f : α → LaneM β} {s t : State} {b : β} :
    (x >>= f) s = .ok (b, t) ↔ ∃ a u, x s = .ok (a, u) ∧ f a u = .ok (b, t) := by
  rw [bind_run]
  cases h : x s with
  | ok r =>
    obtain ⟨a, u⟩ := r
    simp only [Except.ok.injEq, Prod.mk.injEq]
    exact ⟨fun h => ⟨a, u, ⟨rfl, rfl⟩, h⟩, by rintro ⟨_, _, ⟨rfl, rfl⟩, h⟩; exact h⟩
  | error e => simp

/-- An instruction whose computation raises nothing after it. -/
@[simp] theorem quietly_run (body : Ctx → LaneM Unit) (c : Ctx) (s : State) :
    quietly body c s = (match body c s with | .ok (_, t) => .ok (none, t) | .error e => .error e) := by
  simp only [quietly, bind_run]
  cases body c s with
  | ok r => rfl
  | error e => rfl

end Sys2Proof.Laws
end

