-- ==== Sys2Proof/Laws/Maps.lean ====
section
/-! SUPPORT. Lemmas about the two containers of the state: reading after writing for maps and byte memory, and that every memory operation
keeps the canonical form. -/

namespace Sys2Proof.Machine

variable {α : Type}

/-! ## Maps -/

theorem mfind_mdel_same (m : Map α) (k : Nat) : mfind (mdel m k) k = none := by
  induction m with
  | nil => rfl
  | cons e r ih =>
    obtain ⟨k', v⟩ := e
    simp only [mdel]
    split
    · exact ih
    · next h => simp [mfind, h, ih]

theorem mfind_mdel_other (m : Map α) {k j : Nat} (h : j ≠ k) : mfind (mdel m k) j = mfind m j := by
  induction m with
  | nil => rfl
  | cons e r ih =>
    obtain ⟨k', v⟩ := e
    simp only [mdel]
    split
    · next h' => rw [ih]; subst h'; simp [mfind, Ne.symm h]
    · simp [mfind, ih]

theorem mfind_minsert_same (m : Map α) (k : Nat) (v : α) (h : mfind m k = none) : mfind (minsert m k v) k = some v := by
  induction m with
  | nil => simp [minsert, mfind]
  | cons e r ih =>
    obtain ⟨k', w⟩ := e
    simp only [mfind] at h
    simp only [minsert]
    split
    · simp [mfind]
    · by_cases hk : k' = k
      · simp [hk] at h
      · simp only [hk, if_false] at h; simp [mfind, hk, ih h]

theorem mfind_minsert_other (m : Map α) {k j : Nat} (v : α) (h : j ≠ k) : mfind (minsert m k v) j = mfind m j := by
  induction m with
  | nil => simp [minsert, mfind, Ne.symm h]
  | cons e r ih =>
    obtain ⟨k', w⟩ := e
    simp only [minsert]
    split
    · simp [mfind, Ne.symm h]
    · simp [mfind, ih]

theorem mfind_mset_same (m : Map α) (k : Nat) (v : α) : mfind (mset m k v) k = some v :=
  mfind_minsert_same _ _ _ (mfind_mdel_same m k)

theorem mfind_mset_other (m : Map α) {k j : Nat} (v : α) (h : j ≠ k) : mfind (mset m k v) j = mfind m j := by
  rw [mset, mfind_minsert_other _ _ h, mfind_mdel_other _ h]

@[simp] theorem mget_mset_same (d : α) (m : Map α) (k : Nat) (v : α) : mget d (mset m k v) k = v := by
  simp [mget, mfind_mset_same]

theorem mget_mset_other (d : α) (m : Map α) {k j : Nat} (v : α) (h : j ≠ k) : mget d (mset m k v) j = mget d m j := by
  simp [mget, mfind_mset_other m v h]

theorem mget_mset (d : α) (m : Map α) (k j : Nat) (v : α) : mget d (mset m k v) j = if j = k then v else mget d m j := by
  split
  · next h => subst h; simp
  · next h => exact mget_mset_other d m v h

/-! ## Byte memory -/

theorem mfind_append (m r : Map α) (k : Nat) : mfind (m ++ r) k = (mfind m k).or (mfind r k) := by
  induction m with
  | nil => simp [mfind]
  | cons e t ih =>
    obtain ⟨k', v⟩ := e
    simp only [List.cons_append, mfind]
    split <;> simp [ih]

theorem mfind_filter (m : Map α) (p : Nat → Bool) (k : Nat) :
    mfind (m.filter fun e => p e.1) k = if p k then mfind m k else none := by
  induction m with
  | nil => simp [mfind]
  | cons e t ih =>
    obtain ⟨k', v⟩ := e
    simp only [List.filter_cons]
    by_cases h : k' = k
    · subst h; by_cases hp : p k' <;> simp [mfind, hp, ih]
    · by_cases hp : p k' <;> simp [mfind, hp, ih, h]

theorem mfind_memBelow (m : Memory) (a x : Nat) : mfind (memBelow m a) x = if x < a then mfind m x else none := by
  rw [memBelow, mfind_filter m (fun k => decide (k < a)) x]; simp

theorem mfind_memFrom (m : Memory) (a x : Nat) : mfind (memFrom m a) x = if a ≤ x then mfind m x else none := by
  rw [memFrom, mfind_filter m (fun k => decide (a ≤ k)) x]; simp

/-- The bytes that `cellsOf` lists. -/
theorem memGet_cellsOf (a : Nat) (b : List (BitVec 8)) (x : Nat) :
    memGet (cellsOf a b) x = if a ≤ x then b.getD (x - a) 0 else 0 := by
  induction b generalizing a with
  | nil => simp [cellsOf, memGet, mget, mfind]
  | cons y r ih =>
    have ih := ih (a + 1)
    rcases Nat.lt_trichotomy x a with h | h | h
    · have h1 : ¬ a + 1 ≤ x := by omega
      have h2 : ¬ a ≤ x := by omega
      have h3 : a ≠ x := by omega
      rw [if_neg h1] at ih
      rw [if_neg h2]
      by_cases hy : y = 0
      · rw [cellsOf, if_pos hy, ih]
      · rw [cellsOf, if_neg hy, memGet, mget, mfind, if_neg h3]; exact ih
    · subst h
      have h1 : ¬ x + 1 ≤ x := by omega
      rw [if_neg h1] at ih
      rw [if_pos (Nat.le_refl x), Nat.sub_self]
      by_cases hy : y = 0
      · rw [cellsOf, if_pos hy, ih, hy]; rfl
      · rw [cellsOf, if_neg hy, memGet, mget, mfind, if_pos rfl]; rfl
    · have h1 : a + 1 ≤ x := by omega
      have h2 : a ≤ x := by omega
      have h3 : a ≠ x := by omega
      have h4 : x - a = (x - (a + 1)) + 1 := by omega
      rw [if_pos h1] at ih
      rw [if_pos h2, h4, List.getD_cons_succ, ← ih]
      by_cases hy : y = 0
      · rw [cellsOf, if_pos hy]
      · rw [cellsOf, if_neg hy, memGet, mget, mfind, if_neg h3]; rfl

theorem mfind_cellsOf_outside (a : Nat) (b : List (BitVec 8)) (x : Nat) (h : x < a ∨ a + b.length ≤ x) :
    mfind (cellsOf a b) x = none := by
  induction b generalizing a with
  | nil => rfl
  | cons y r ih =>
    simp only [List.length_cons] at h
    simp only [cellsOf]
    split
    · exact ih (a + 1) (by omega)
    · have : a ≠ x := by omega
      simp [mfind, this, ih (a + 1) (by omega)]

/-- Reading a byte after writing bytes: the written byte inside the range, the old byte outside it. -/
theorem memGet_memPuts (m : Memory) (a : Nat) (b : List (BitVec 8)) (x : Nat) :
    memGet (memPuts m a b) x = if a ≤ x ∧ x < a + b.length then b.getD (x - a) 0 else memGet m x := by
  by_cases hx : a ≤ x ∧ x < a + b.length
  · have h1 : ¬ x < a := by omega
    have h2 : ¬ a + b.length ≤ x := by omega
    have := memGet_cellsOf a b x
    rw [if_pos hx.1] at this
    rw [if_pos hx, ← this, memGet, memGet, mget, mget, memPuts, mfind_append, mfind_append, mfind_memBelow, mfind_memFrom, if_neg h1,
      if_neg h2, Option.or_none, Option.none_or]
  · have h0 : mfind (cellsOf a b) x = none := mfind_cellsOf_outside a b x (by omega)
    have hd : (mfind (memBelow m a) x).or (mfind (memFrom m (a + b.length)) x) = mfind m x := by
      rw [mfind_memBelow, mfind_memFrom]
      rcases (by omega : x < a ∨ a + b.length ≤ x) with h | h
      · have : ¬ a + b.length ≤ x := by omega
        simp [h, this]
      · have : ¬ x < a := by omega
        simp [h, this]
    simp only [memGet, mget]
    rw [memPuts, mfind_append, mfind_append, h0, Option.or_none, hd]
    simp [hx]

/-- Reading a byte after clearing bytes. -/
theorem memGet_memClear (m : Memory) (a n x : Nat) :
    memGet (memClear m a n) x = if a ≤ x ∧ x < a + n then 0 else memGet m x := by
  simp only [memGet, mget, memClear, mfind_append, mfind_memBelow, mfind_memFrom]
  by_cases h1 : x < a
  · have h2 : ¬ a + n ≤ x := by omega
    have h3 : ¬ (a ≤ x ∧ x < a + n) := by omega
    simp [h1, h2, h3]
  · by_cases h2 : a + n ≤ x
    · have h3 : ¬ (a ≤ x ∧ x < a + n) := by omega
      simp [h1, h2, h3]
    · have h3 : a ≤ x ∧ x < a + n := by omega
      simp [h1, h2, h3]

/-! ## The canonical form -/

theorem Memory.wfFrom_mono {lo lo' : Nat} {m : Memory} (h : Memory.wfFrom lo m = true) (hle : lo' ≤ lo) :
    Memory.wfFrom lo' m = true := by
  cases m with
  | nil => rfl
  | cons e r => obtain ⟨a, b⟩ := e; simp [Memory.wfFrom] at h ⊢; exact ⟨⟨by omega, h.1.2⟩, h.2⟩

theorem Memory.wfFrom_filter {lo : Nat} {m : Memory} (p : Host.Cell → Bool) (h : Memory.wfFrom lo m = true) :
    Memory.wfFrom lo (m.filter p) = true := by
  induction m generalizing lo with
  | nil => rfl
  | cons e r ih =>
    obtain ⟨a, b⟩ := e
    simp [Memory.wfFrom] at h
    simp only [List.filter_cons]
    split
    · simp [Memory.wfFrom]; exact ⟨h.1, ih h.2⟩
    · exact ih (Memory.wfFrom_mono h.2 (by omega))

theorem Memory.wfFrom_memFrom {lo a : Nat} {m : Memory} (h : Memory.wfFrom lo m = true) : Memory.wfFrom a (memFrom m a) = true := by
  induction m generalizing lo with
  | nil => rfl
  | cons e r ih =>
    obtain ⟨k, b⟩ := e
    simp [Memory.wfFrom] at h
    simp only [memFrom, List.filter_cons] at ih ⊢
    split
    · next hk =>
      simp only [decide_eq_true_eq] at hk
      simp only [Memory.wfFrom, Bool.and_eq_true, decide_eq_true_eq]
      exact ⟨⟨hk, h.1.2⟩, Memory.wfFrom_filter _ h.2⟩
    · exact ih h.2

/-- All addresses of a memory lie below a bound. -/
def Memory.endsBelow (hi : Nat) (m : Memory) : Prop := ∀ e ∈ m, e.1 < hi

theorem Memory.wfFrom_append {lo mid : Nat} {m r : Memory} (hm : Memory.wfFrom lo m = true) (he : Memory.endsBelow mid m)
    (hlo : lo ≤ mid) (hr : Memory.wfFrom mid r = true) : Memory.wfFrom lo (m ++ r) = true := by
  induction m generalizing lo with
  | nil => exact Memory.wfFrom_mono hr hlo
  | cons e t ih =>
    obtain ⟨a, b⟩ := e
    simp [Memory.wfFrom] at hm
    have ha : a < mid := he (a, b) (by simp)
    simp only [List.cons_append, Memory.wfFrom, Bool.and_eq_true, decide_eq_true_eq]
    exact ⟨⟨hm.1.1, hm.1.2⟩, ih hm.2 (fun x hx => he x (by simp [hx])) (by omega)⟩

theorem memBelow_endsBelow (m : Memory) (a : Nat) : Memory.endsBelow a (memBelow m a) := by
  intro e he
  simpa [memBelow] using (List.mem_filter.mp he).2

theorem cellsOf_wfFrom (a : Nat) (b : List (BitVec 8)) : Memory.wfFrom a (cellsOf a b) = true := by
  induction b generalizing a with
  | nil => rfl
  | cons y r ih =>
    simp only [cellsOf]
    split
    · exact Memory.wfFrom_mono (ih (a + 1)) (by omega)
    · next h =>
      simp only [Memory.wfFrom, Bool.and_eq_true, decide_eq_true_eq]
      exact ⟨⟨Nat.le_refl a, h⟩, ih (a + 1)⟩

theorem cellsOf_endsBelow (a : Nat) (b : List (BitVec 8)) : Memory.endsBelow (a + b.length) (cellsOf a b) := by
  induction b generalizing a with
  | nil => intro e he; simp [cellsOf] at he
  | cons y r ih =>
    intro e he
    simp only [cellsOf] at he
    simp only [List.length_cons]
    have hr : ∀ x ∈ cellsOf (a + 1) r, x.1 < a + (r.length + 1) := fun x hx => by have := ih (a + 1) x hx; omega
    split at he
    · exact hr e he
    · rcases List.mem_cons.mp he with h | h
      · subst h; simp
      · exact hr e h

/-- Writing bytes keeps the canonical form. -/
theorem memPuts_wf {m : Memory} (h : m.wf = true) (a : Nat) (b : List (BitVec 8)) : (memPuts m a b).wf = true := by
  unfold Memory.wf memPuts
  rw [List.append_assoc]
  refine Memory.wfFrom_append (Memory.wfFrom_filter _ h) (memBelow_endsBelow m a) (by omega) ?_
  exact Memory.wfFrom_append (cellsOf_wfFrom a b) (cellsOf_endsBelow a b) (by omega) (Memory.wfFrom_memFrom h)

/-- Clearing bytes keeps the canonical form. -/
theorem memClear_wf {m : Memory} (h : m.wf = true) (a n : Nat) : (memClear m a n).wf = true := by
  unfold Memory.wf memClear
  exact Memory.wfFrom_append (Memory.wfFrom_filter _ h) (memBelow_endsBelow m a) (by omega)
    (Memory.wfFrom_mono (Memory.wfFrom_memFrom (a := a + n) h) (by omega))

/-- Dropping the bytes below an address keeps the canonical form. -/
theorem memFrom_wf {m : Memory} (h : m.wf = true) (a : Nat) : (memFrom m a).wf = true := Memory.wfFrom_filter _ h

/-- Dropping the bytes from an address on keeps the canonical form. -/
theorem memBelow_wf {m : Memory} (h : m.wf = true) (a : Nat) : (memBelow m a).wf = true := Memory.wfFrom_filter _ h

/-- Two memories in canonical form that read alike at every address are equal data. -/
theorem Memory.ext_of_wf {m r : Memory} (hm : m.wf = true) (hr : r.wf = true) (h : ∀ a, memGet m a = memGet r a) : m = r := by
  have below : ∀ {lo : Nat} {m : Memory} {x : Nat}, Memory.wfFrom lo m = true → x < lo → memGet m x = 0 := by
    intro lo m
    induction m generalizing lo with
    | nil => intros; rfl
    | cons e t ih =>
      intro x hw hx
      obtain ⟨a, b⟩ := e
      simp [Memory.wfFrom] at hw
      have ha : a ≠ x := by omega
      have := ih (x := x) hw.2 (by omega)
      simp only [memGet, mget, mfind, ha, if_false] at this ⊢
      exact this
  have main : ∀ (lo : Nat) (m r : Memory), Memory.wfFrom lo m = true → Memory.wfFrom lo r = true →
      (∀ a, memGet m a = memGet r a) → m = r := by
    intro lo m
    induction m generalizing lo with
    | nil =>
      intro r _ hr h
      cases r with
      | nil => rfl
      | cons e t =>
        obtain ⟨a, b⟩ := e
        simp [Memory.wfFrom] at hr
        have := h a
        simp [memGet, mget, mfind] at this
        exact absurd this.symm hr.1.2
    | cons e t ih =>
      intro r hm hr h
      obtain ⟨a, b⟩ := e
      simp [Memory.wfFrom] at hm
      cases r with
      | nil =>
        have := h a
        simp [memGet, mget, mfind] at this
        exact absurd this hm.1.2
      | cons f u =>
        obtain ⟨c, d⟩ := f
        simp [Memory.wfFrom] at hr
        have hac : a = c := by
          rcases Nat.lt_trichotomy a c with hlt | heq | hlt
          · have h1 := h a
            have h2 : memGet u a = 0 := below hr.2 (by omega)
            have hca : c ≠ a := by omega
            simp only [memGet, mget, mfind, if_true, hca, if_false, Option.getD_some] at h1 h2
            rw [h2] at h1
            exact absurd h1 hm.1.2
          · exact heq
          · have h1 := h c
            have h2 : memGet t c = 0 := below hm.2 (by omega)
            have hca : a ≠ c := by omega
            simp only [memGet, mget, mfind, if_true, hca, if_false, Option.getD_some] at h1 h2
            rw [h2] at h1
            exact absurd h1.symm hr.1.2
        subst hac
        have hbd : b = d := by simpa [memGet, mget, mfind] using h a
        subst hbd
        have htu : t = u := by
          refine ih (a + 1) u hm.2 hr.2 fun x => ?_
          by_cases hx : a = x
          · subst hx; rw [below hm.2 (by omega), below hr.2 (by omega)]
          · simpa [memGet, mget, mfind, hx] using h x
        rw [htu]
  exact main 0 m r hm hr h

end Sys2Proof.Machine
end

