-- ==== Sys2Proof/Laws/State.lean ====
section
/-! SUPPORT. What each update of the state leaves: one lemma per field per update, and what reading the updated entry gives. -/

namespace Sys2Proof.Machine

/-! ## The updated entry -/

@[simp] theorem State.modThread_thread (s : State) (crew lane : Nat) (f : Thread → Thread) :
    (s.modThread crew lane f).thread crew lane = f (s.thread crew lane) := by
  simp [State.modThread, State.setThread, State.thread]

@[simp] theorem State.setThread_thread (s : State) (crew lane : Nat) (t : Thread) :
    (s.setThread crew lane t).thread crew lane = t := by
  simp [State.setThread, State.thread]

theorem State.modThread_thread_other (s : State) {crew lane crew' lane' : Nat} (f : Thread → Thread)
    (h : 32 * crew' + lane' ≠ 32 * crew + lane) : (s.modThread crew lane f).thread crew' lane' = s.thread crew' lane' := by
  simp only [State.modThread, State.setThread, State.thread]
  exact mget_mset_other _ _ _ h

/-- A thread of another crew, or another lane of the crew, is unchanged. -/
theorem State.modThread_thread_lane (s : State) {crew lane crew' lane' : Nat} (f : Thread → Thread) (hl : lane < 32) (hl' : lane' < 32)
    (h : crew' ≠ crew ∨ lane' ≠ lane) : (s.modThread crew lane f).thread crew' lane' = s.thread crew' lane' :=
  s.modThread_thread_other f (by omega)


@[simp] theorem State.modCrew_crew (s : State) (k : Nat) (f : Crew → Crew) : (s.modCrew k f).crew k = f (s.crew k) := by
  simp [State.modCrew, State.crew, State.setCrew]

theorem State.modCrew_crew_other (s : State) {k j : Nat} (f : Crew → Crew) (h : j ≠ k) : (s.modCrew k f).crew j = s.crew j := by
  simp only [State.modCrew, State.crew, State.setCrew]
  exact mget_mset_other _ _ _ h


@[simp] theorem State.modGroup_group (s : State) (k : Nat) (f : Group → Group) : (s.modGroup k f).group k = f (s.group k) := by
  simp [State.modGroup, State.group, State.setGroup]

theorem State.modGroup_group_other (s : State) {k j : Nat} (f : Group → Group) (h : j ≠ k) : (s.modGroup k f).group j = s.group j := by
  simp only [State.modGroup, State.group, State.setGroup]
  exact mget_mset_other _ _ _ h


@[simp] theorem State.modGang_gang (s : State) (k : Nat) (f : Gang → Gang) : (s.modGang k f).gang k = f (s.gang k) := by
  simp [State.modGang, State.gang]

theorem State.modGang_gang_other (s : State) {k j : Nat} (f : Gang → Gang) (h : j ≠ k) : (s.modGang k f).gang j = s.gang j := by
  simp only [State.modGang, State.gang]
  exact mget_mset_other _ _ _ h


@[simp] theorem State.modCore_core (s : State) (k : Nat) (f : Core → Core) : (s.modCore k f).core k = f (s.core k) := by
  simp [State.modCore, State.core]

theorem State.modCore_core_other (s : State) {k j : Nat} (f : Core → Core) (h : j ≠ k) : (s.modCore k f).core j = s.core j := by
  simp only [State.modCore, State.core]
  exact mget_mset_other _ _ _ h


@[simp] theorem State.modCluster_cluster (s : State) (k : Nat) (f : Cluster → Cluster) : (s.modCluster k f).cluster k = f (s.cluster k) := by
  simp [State.modCluster, State.cluster]

theorem State.modCluster_cluster_other (s : State) {k j : Nat} (f : Cluster → Cluster) (h : j ≠ k) : (s.modCluster k f).cluster j = s.cluster j := by
  simp only [State.modCluster, State.cluster]
  exact mget_mset_other _ _ _ h


@[simp] theorem State.modStack_stack (s : State) (k : Nat) (f : Stack → Stack) : (s.modStack k f).stack k = f (s.stack k) := by
  simp [State.modStack, State.stack]

theorem State.modStack_stack_other (s : State) {k j : Nat} (f : Stack → Stack) (h : j ≠ k) : (s.modStack k f).stack j = s.stack j := by
  simp only [State.modStack, State.stack]
  exact mget_mset_other _ _ _ h


@[simp] theorem State.modBench_bench (s : State) (k : Nat) (f : Bench → Bench) : (s.modBench k f).bench k = f (s.bench k) := by
  simp [State.modBench, State.bench]

theorem State.modBench_bench_other (s : State) {k j : Nat} (f : Bench → Bench) (h : j ≠ k) : (s.modBench k f).bench j = s.bench j := by
  simp only [State.modBench, State.bench]
  exact mget_mset_other _ _ _ h


@[simp] theorem State.modBenchLaunch_benchLaunch (s : State) (k : Nat) (f : BenchLaunch → BenchLaunch) : (s.modBenchLaunch k f).benchLaunch k = f (s.benchLaunch k) := by
  simp [State.modBenchLaunch, State.benchLaunch]

theorem State.modBenchLaunch_benchLaunch_other (s : State) {k j : Nat} (f : BenchLaunch → BenchLaunch) (h : j ≠ k) : (s.modBenchLaunch k f).benchLaunch j = s.benchLaunch j := by
  simp only [State.modBenchLaunch, State.benchLaunch]
  exact mget_mset_other _ _ _ h


@[simp] theorem State.modWindow_window (s : State) (k : Nat) (f : Window → Window) : (s.modWindow k f).window k = f (s.window k) := by
  simp [State.modWindow, State.window]

theorem State.modWindow_window_other (s : State) {k j : Nat} (f : Window → Window) (h : j ≠ k) : (s.modWindow k f).window j = s.window j := by
  simp only [State.modWindow, State.window]
  exact mget_mset_other _ _ _ h


@[simp] theorem State.modLaunch_launch (s : State) (k : Nat) (f : Launch → Launch) : (s.modLaunch k f).launch k = f (s.launch k) := by
  simp [State.modLaunch, State.launch]

theorem State.modLaunch_launch_other (s : State) {k j : Nat} (f : Launch → Launch) (h : j ≠ k) : (s.modLaunch k f).launch j = s.launch j := by
  simp only [State.modLaunch, State.launch]
  exact mget_mset_other _ _ _ h


@[simp] theorem State.modQueue_queue (s : State) (k : Nat) (f : Queue → Queue) : (s.modQueue k f).queue k = f (s.queue k) := by
  simp [State.modQueue, State.queue]

theorem State.modQueue_queue_other (s : State) {k j : Nat} (f : Queue → Queue) (h : j ≠ k) : (s.modQueue k f).queue j = s.queue j := by
  simp only [State.modQueue, State.queue]
  exact mget_mset_other _ _ _ h


/-! ## The other fields -/


@[simp] theorem State.setThread_clock (s : State) (crew lane : Nat) (t : Thread) : (s.setThread crew lane t).clock = s.clock := rfl
@[simp] theorem State.setThread_unit (s : State) (crew lane : Nat) (t : Thread) : (s.setThread crew lane t).unit = s.unit := rfl
@[simp] theorem State.setThread_pkg (s : State) (crew lane : Nat) (t : Thread) : (s.setThread crew lane t).pkg = s.pkg := rfl
@[simp] theorem State.setThread_mem (s : State) (crew lane : Nat) (t : Thread) : (s.setThread crew lane t).mem = s.mem := rfl
@[simp] theorem State.setThread_tags (s : State) (crew lane : Nat) (t : Thread) : (s.setThread crew lane t).tags = s.tags := rfl
@[simp] theorem State.setThread_poison (s : State) (crew lane : Nat) (t : Thread) : (s.setThread crew lane t).poison = s.poison := rfl
@[simp] theorem State.setThread_full (s : State) (crew lane : Nat) (t : Thread) : (s.setThread crew lane t).full = s.full := rfl
@[simp] theorem State.setThread_filling (s : State) (crew lane : Nat) (t : Thread) : (s.setThread crew lane t).filling = s.filling := rfl
@[simp] theorem State.setThread_slabs (s : State) (crew lane : Nat) (t : Thread) : (s.setThread crew lane t).slabs = s.slabs := rfl
@[simp] theorem State.setThread_stage (s : State) (crew lane : Nat) (t : Thread) : (s.setThread crew lane t).stage = s.stage := rfl
@[simp] theorem State.setThread_crews (s : State) (crew lane : Nat) (t : Thread) : (s.setThread crew lane t).crews = s.crews := rfl
@[simp] theorem State.setThread_remains (s : State) (crew lane : Nat) (t : Thread) : (s.setThread crew lane t).remains = s.remains := rfl
@[simp] theorem State.setThread_groups (s : State) (crew lane : Nat) (t : Thread) : (s.setThread crew lane t).groups = s.groups := rfl
@[simp] theorem State.setThread_gangs (s : State) (crew lane : Nat) (t : Thread) : (s.setThread crew lane t).gangs = s.gangs := rfl
@[simp] theorem State.setThread_nextGang (s : State) (crew lane : Nat) (t : Thread) : (s.setThread crew lane t).nextGang = s.nextGang := rfl
@[simp] theorem State.setThread_cores (s : State) (crew lane : Nat) (t : Thread) : (s.setThread crew lane t).cores = s.cores := rfl
@[simp] theorem State.setThread_clusters (s : State) (crew lane : Nat) (t : Thread) : (s.setThread crew lane t).clusters = s.clusters := rfl
@[simp] theorem State.setThread_gens (s : State) (crew lane : Nat) (t : Thread) : (s.setThread crew lane t).gens = s.gens := rfl
@[simp] theorem State.setThread_freed (s : State) (crew lane : Nat) (t : Thread) : (s.setThread crew lane t).freed = s.freed := rfl
@[simp] theorem State.setThread_nextName (s : State) (crew lane : Nat) (t : Thread) : (s.setThread crew lane t).nextName = s.nextName := rfl
@[simp] theorem State.setThread_sharing (s : State) (crew lane : Nat) (t : Thread) : (s.setThread crew lane t).sharing = s.sharing := rfl
@[simp] theorem State.setThread_turn (s : State) (crew lane : Nat) (t : Thread) : (s.setThread crew lane t).turn = s.turn := rfl
@[simp] theorem State.setThread_stamp (s : State) (crew lane : Nat) (t : Thread) : (s.setThread crew lane t).stamp = s.stamp := rfl
@[simp] theorem State.setThread_benches (s : State) (crew lane : Nat) (t : Thread) : (s.setThread crew lane t).benches = s.benches := rfl
@[simp] theorem State.setThread_hbmStacks (s : State) (crew lane : Nat) (t : Thread) : (s.setThread crew lane t).hbmStacks = s.hbmStacks := rfl
@[simp] theorem State.setThread_benchLaunches (s : State) (crew lane : Nat) (t : Thread) : (s.setThread crew lane t).benchLaunches = s.benchLaunches := rfl
@[simp] theorem State.setThread_windows (s : State) (crew lane : Nat) (t : Thread) : (s.setThread crew lane t).windows = s.windows := rfl
@[simp] theorem State.setThread_writers (s : State) (crew lane : Nat) (t : Thread) : (s.setThread crew lane t).writers = s.writers := rfl
@[simp] theorem State.setThread_drains (s : State) (crew lane : Nat) (t : Thread) : (s.setThread crew lane t).drains = s.drains := rfl
@[simp] theorem State.setThread_epoch (s : State) (crew lane : Nat) (t : Thread) : (s.setThread crew lane t).epoch = s.epoch := rfl
@[simp] theorem State.setThread_column (s : State) (crew lane : Nat) (t : Thread) : (s.setThread crew lane t).column = s.column := rfl
@[simp] theorem State.setThread_dir (s : State) (crew lane : Nat) (t : Thread) : (s.setThread crew lane t).dir = s.dir := rfl
@[simp] theorem State.setThread_floor (s : State) (crew lane : Nat) (t : Thread) : (s.setThread crew lane t).floor = s.floor := rfl
@[simp] theorem State.setThread_trans (s : State) (crew lane : Nat) (t : Thread) : (s.setThread crew lane t).trans = s.trans := rfl
@[simp] theorem State.setThread_deferred (s : State) (crew lane : Nat) (t : Thread) : (s.setThread crew lane t).deferred = s.deferred := rfl
@[simp] theorem State.setThread_copies (s : State) (crew lane : Nat) (t : Thread) : (s.setThread crew lane t).copies = s.copies := rfl
@[simp] theorem State.setThread_pendingReq (s : State) (crew lane : Nat) (t : Thread) : (s.setThread crew lane t).pendingReq = s.pendingReq := rfl
@[simp] theorem State.setThread_agentWaits (s : State) (crew lane : Nat) (t : Thread) : (s.setThread crew lane t).agentWaits = s.agentWaits := rfl
@[simp] theorem State.setThread_handled (s : State) (crew lane : Nat) (t : Thread) : (s.setThread crew lane t).handled = s.handled := rfl
@[simp] theorem State.setThread_msgs (s : State) (crew lane : Nat) (t : Thread) : (s.setThread crew lane t).msgs = s.msgs := rfl
@[simp] theorem State.setThread_slots (s : State) (crew lane : Nat) (t : Thread) : (s.setThread crew lane t).slots = s.slots := rfl
@[simp] theorem State.setThread_ranges (s : State) (crew lane : Nat) (t : Thread) : (s.setThread crew lane t).ranges = s.ranges := rfl
@[simp] theorem State.setThread_lostAgents (s : State) (crew lane : Nat) (t : Thread) : (s.setThread crew lane t).lostAgents = s.lostAgents := rfl
@[simp] theorem State.setThread_agentTime (s : State) (crew lane : Nat) (t : Thread) : (s.setThread crew lane t).agentTime = s.agentTime := rfl
@[simp] theorem State.setThread_cxlHeld (s : State) (crew lane : Nat) (t : Thread) : (s.setThread crew lane t).cxlHeld = s.cxlHeld := rfl
@[simp] theorem State.setThread_stageTime (s : State) (crew lane : Nat) (t : Thread) : (s.setThread crew lane t).stageTime = s.stageTime := rfl
@[simp] theorem State.setThread_slabTime (s : State) (crew lane : Nat) (t : Thread) : (s.setThread crew lane t).slabTime = s.slabTime := rfl
@[simp] theorem State.setThread_touched (s : State) (crew lane : Nat) (t : Thread) : (s.setThread crew lane t).touched = s.touched := rfl
@[simp] theorem State.setThread_contexts (s : State) (crew lane : Nat) (t : Thread) : (s.setThread crew lane t).contexts = s.contexts := rfl
@[simp] theorem State.setThread_queues (s : State) (crew lane : Nat) (t : Thread) : (s.setThread crew lane t).queues = s.queues := rfl
@[simp] theorem State.setThread_launches (s : State) (crew lane : Nat) (t : Thread) : (s.setThread crew lane t).launches = s.launches := rfl
@[simp] theorem State.setThread_pending (s : State) (crew lane : Nat) (t : Thread) : (s.setThread crew lane t).pending = s.pending := rfl
@[simp] theorem State.setThread_nextOrder (s : State) (crew lane : Nat) (t : Thread) : (s.setThread crew lane t).nextOrder = s.nextOrder := rfl
@[simp] theorem State.setThread_headUnit (s : State) (crew lane : Nat) (t : Thread) : (s.setThread crew lane t).headUnit = s.headUnit := rfl
@[simp] theorem State.setThread_declared (s : State) (crew lane : Nat) (t : Thread) : (s.setThread crew lane t).declared = s.declared := rfl
@[simp] theorem State.setThread_gangLaunches (s : State) (crew lane : Nat) (t : Thread) : (s.setThread crew lane t).gangLaunches = s.gangLaunches := rfl
@[simp] theorem State.setThread_reservations (s : State) (crew lane : Nat) (t : Thread) : (s.setThread crew lane t).reservations = s.reservations := rfl
@[simp] theorem State.setThread_pageFills (s : State) (crew lane : Nat) (t : Thread) : (s.setThread crew lane t).pageFills = s.pageFills := rfl
@[simp] theorem State.setThread_skippedOrs (s : State) (crew lane : Nat) (t : Thread) : (s.setThread crew lane t).skippedOrs = s.skippedOrs := rfl
@[simp] theorem State.setThread_sent (s : State) (crew lane : Nat) (t : Thread) : (s.setThread crew lane t).sent = s.sent := rfl
@[simp] theorem State.setThread_kept (s : State) (crew lane : Nat) (t : Thread) : (s.setThread crew lane t).kept = s.kept := rfl
@[simp] theorem State.setThread_tagFree (s : State) (crew lane : Nat) (t : Thread) : (s.setThread crew lane t).tagFree = s.tagFree := rfl
@[simp] theorem State.setThread_ports (s : State) (crew lane : Nat) (t : Thread) : (s.setThread crew lane t).ports = s.ports := rfl
@[simp] theorem State.setThread_peerDown (s : State) (crew lane : Nat) (t : Thread) : (s.setThread crew lane t).peerDown = s.peerDown := rfl
@[simp] theorem State.setThread_served (s : State) (crew lane : Nat) (t : Thread) : (s.setThread crew lane t).served = s.served := rfl
@[simp] theorem State.setThread_putQueue (s : State) (crew lane : Nat) (t : Thread) : (s.setThread crew lane t).putQueue = s.putQueue := rfl
@[simp] theorem State.setThread_outbox (s : State) (crew lane : Nat) (t : Thread) : (s.setThread crew lane t).outbox = s.outbox := rfl
@[simp] theorem State.setThread_mstatus (s : State) (crew lane : Nat) (t : Thread) : (s.setThread crew lane t).mstatus = s.mstatus := rfl
@[simp] theorem State.setThread_bootctl (s : State) (crew lane : Nat) (t : Thread) : (s.setThread crew lane t).bootctl = s.bootctl := rfl
@[simp] theorem State.setThread_q0desc (s : State) (crew lane : Nat) (t : Thread) : (s.setThread crew lane t).q0desc = s.q0desc := rfl
@[simp] theorem State.setThread_patchaddr (s : State) (crew lane : Nat) (t : Thread) : (s.setThread crew lane t).patchaddr = s.patchaddr := rfl
@[simp] theorem State.setThread_attNonce (s : State) (crew lane : Nat) (t : Thread) : (s.setThread crew lane t).attNonce = s.attNonce := rfl
@[simp] theorem State.setThread_attAddr (s : State) (crew lane : Nat) (t : Thread) : (s.setThread crew lane t).attAddr = s.attAddr := rfl
@[simp] theorem State.setThread_attBusy (s : State) (crew lane : Nat) (t : Thread) : (s.setThread crew lane t).attBusy = s.attBusy := rfl
@[simp] theorem State.setThread_power (s : State) (crew lane : Nat) (t : Thread) : (s.setThread crew lane t).power = s.power := rfl
@[simp] theorem State.setThread_therm (s : State) (crew lane : Nat) (t : Thread) : (s.setThread crew lane t).therm = s.therm := rfl
@[simp] theorem State.setThread_hot (s : State) (crew lane : Nat) (t : Thread) : (s.setThread crew lane t).hot = s.hot := rfl
@[simp] theorem State.setThread_cap8 (s : State) (crew lane : Nat) (t : Thread) : (s.setThread crew lane t).cap8 = s.cap8 := rfl
@[simp] theorem State.setThread_dead (s : State) (crew lane : Nat) (t : Thread) : (s.setThread crew lane t).dead = s.dead := rfl
@[simp] theorem State.setThread_q0block (s : State) (crew lane : Nat) (t : Thread) : (s.setThread crew lane t).q0block = s.q0block := rfl
@[simp] theorem State.setThread_elog (s : State) (crew lane : Nat) (t : Thread) : (s.setThread crew lane t).elog = s.elog := rfl
@[simp] theorem State.setThread_elogDepth (s : State) (crew lane : Nat) (t : Thread) : (s.setThread crew lane t).elogDepth = s.elogDepth := rfl
@[simp] theorem State.setThread_lwatch (s : State) (crew lane : Nat) (t : Thread) : (s.setThread crew lane t).lwatch = s.lwatch := rfl
@[simp] theorem State.setThread_saveArea (s : State) (crew lane : Nat) (t : Thread) : (s.setThread crew lane t).saveArea = s.saveArea := rfl
@[simp] theorem State.setThread_saveSize (s : State) (crew lane : Nat) (t : Thread) : (s.setThread crew lane t).saveSize = s.saveSize := rfl
@[simp] theorem State.setThread_errSeq (s : State) (crew lane : Nat) (t : Thread) : (s.setThread crew lane t).errSeq = s.errSeq := rfl
@[simp] theorem State.setThread_corrections (s : State) (crew lane : Nat) (t : Thread) : (s.setThread crew lane t).corrections = s.corrections := rfl
@[simp] theorem State.setThread_patchVersion (s : State) (crew lane : Nat) (t : Thread) : (s.setThread crew lane t).patchVersion = s.patchVersion := rfl
@[simp] theorem State.setThread_patchHash (s : State) (crew lane : Nat) (t : Thread) : (s.setThread crew lane t).patchHash = s.patchHash := rfl
@[simp] theorem State.setThread_booted (s : State) (crew lane : Nat) (t : Thread) : (s.setThread crew lane t).booted = s.booted := rfl
@[simp] theorem State.setThread_inputs (s : State) (crew lane : Nat) (t : Thread) : (s.setThread crew lane t).inputs = s.inputs := rfl
@[simp] theorem State.setThread_agenda (s : State) (crew lane : Nat) (t : Thread) : (s.setThread crew lane t).agenda = s.agenda := rfl
@[simp] theorem State.setThread_free (s : State) (crew lane : Nat) (t : Thread) : (s.setThread crew lane t).free = s.free := rfl

@[simp] theorem State.modThread_clock (s : State) (crew lane : Nat) (f : Thread → Thread) : (s.modThread crew lane f).clock = s.clock := rfl
@[simp] theorem State.modThread_unit (s : State) (crew lane : Nat) (f : Thread → Thread) : (s.modThread crew lane f).unit = s.unit := rfl
@[simp] theorem State.modThread_pkg (s : State) (crew lane : Nat) (f : Thread → Thread) : (s.modThread crew lane f).pkg = s.pkg := rfl
@[simp] theorem State.modThread_mem (s : State) (crew lane : Nat) (f : Thread → Thread) : (s.modThread crew lane f).mem = s.mem := rfl
@[simp] theorem State.modThread_tags (s : State) (crew lane : Nat) (f : Thread → Thread) : (s.modThread crew lane f).tags = s.tags := rfl
@[simp] theorem State.modThread_poison (s : State) (crew lane : Nat) (f : Thread → Thread) : (s.modThread crew lane f).poison = s.poison := rfl
@[simp] theorem State.modThread_full (s : State) (crew lane : Nat) (f : Thread → Thread) : (s.modThread crew lane f).full = s.full := rfl
@[simp] theorem State.modThread_filling (s : State) (crew lane : Nat) (f : Thread → Thread) : (s.modThread crew lane f).filling = s.filling := rfl
@[simp] theorem State.modThread_slabs (s : State) (crew lane : Nat) (f : Thread → Thread) : (s.modThread crew lane f).slabs = s.slabs := rfl
@[simp] theorem State.modThread_stage (s : State) (crew lane : Nat) (f : Thread → Thread) : (s.modThread crew lane f).stage = s.stage := rfl
@[simp] theorem State.modThread_crews (s : State) (crew lane : Nat) (f : Thread → Thread) : (s.modThread crew lane f).crews = s.crews := rfl
@[simp] theorem State.modThread_remains (s : State) (crew lane : Nat) (f : Thread → Thread) : (s.modThread crew lane f).remains = s.remains := rfl
@[simp] theorem State.modThread_groups (s : State) (crew lane : Nat) (f : Thread → Thread) : (s.modThread crew lane f).groups = s.groups := rfl
@[simp] theorem State.modThread_gangs (s : State) (crew lane : Nat) (f : Thread → Thread) : (s.modThread crew lane f).gangs = s.gangs := rfl
@[simp] theorem State.modThread_nextGang (s : State) (crew lane : Nat) (f : Thread → Thread) : (s.modThread crew lane f).nextGang = s.nextGang := rfl
@[simp] theorem State.modThread_cores (s : State) (crew lane : Nat) (f : Thread → Thread) : (s.modThread crew lane f).cores = s.cores := rfl
@[simp] theorem State.modThread_clusters (s : State) (crew lane : Nat) (f : Thread → Thread) : (s.modThread crew lane f).clusters = s.clusters := rfl
@[simp] theorem State.modThread_gens (s : State) (crew lane : Nat) (f : Thread → Thread) : (s.modThread crew lane f).gens = s.gens := rfl
@[simp] theorem State.modThread_freed (s : State) (crew lane : Nat) (f : Thread → Thread) : (s.modThread crew lane f).freed = s.freed := rfl
@[simp] theorem State.modThread_nextName (s : State) (crew lane : Nat) (f : Thread → Thread) : (s.modThread crew lane f).nextName = s.nextName := rfl
@[simp] theorem State.modThread_sharing (s : State) (crew lane : Nat) (f : Thread → Thread) : (s.modThread crew lane f).sharing = s.sharing := rfl
@[simp] theorem State.modThread_turn (s : State) (crew lane : Nat) (f : Thread → Thread) : (s.modThread crew lane f).turn = s.turn := rfl
@[simp] theorem State.modThread_stamp (s : State) (crew lane : Nat) (f : Thread → Thread) : (s.modThread crew lane f).stamp = s.stamp := rfl
@[simp] theorem State.modThread_benches (s : State) (crew lane : Nat) (f : Thread → Thread) : (s.modThread crew lane f).benches = s.benches := rfl
@[simp] theorem State.modThread_hbmStacks (s : State) (crew lane : Nat) (f : Thread → Thread) : (s.modThread crew lane f).hbmStacks = s.hbmStacks := rfl
@[simp] theorem State.modThread_benchLaunches (s : State) (crew lane : Nat) (f : Thread → Thread) : (s.modThread crew lane f).benchLaunches = s.benchLaunches := rfl
@[simp] theorem State.modThread_windows (s : State) (crew lane : Nat) (f : Thread → Thread) : (s.modThread crew lane f).windows = s.windows := rfl
@[simp] theorem State.modThread_writers (s : State) (crew lane : Nat) (f : Thread → Thread) : (s.modThread crew lane f).writers = s.writers := rfl
@[simp] theorem State.modThread_drains (s : State) (crew lane : Nat) (f : Thread → Thread) : (s.modThread crew lane f).drains = s.drains := rfl
@[simp] theorem State.modThread_epoch (s : State) (crew lane : Nat) (f : Thread → Thread) : (s.modThread crew lane f).epoch = s.epoch := rfl
@[simp] theorem State.modThread_column (s : State) (crew lane : Nat) (f : Thread → Thread) : (s.modThread crew lane f).column = s.column := rfl
@[simp] theorem State.modThread_dir (s : State) (crew lane : Nat) (f : Thread → Thread) : (s.modThread crew lane f).dir = s.dir := rfl
@[simp] theorem State.modThread_floor (s : State) (crew lane : Nat) (f : Thread → Thread) : (s.modThread crew lane f).floor = s.floor := rfl
@[simp] theorem State.modThread_trans (s : State) (crew lane : Nat) (f : Thread → Thread) : (s.modThread crew lane f).trans = s.trans := rfl
@[simp] theorem State.modThread_deferred (s : State) (crew lane : Nat) (f : Thread → Thread) : (s.modThread crew lane f).deferred = s.deferred := rfl
@[simp] theorem State.modThread_copies (s : State) (crew lane : Nat) (f : Thread → Thread) : (s.modThread crew lane f).copies = s.copies := rfl
@[simp] theorem State.modThread_pendingReq (s : State) (crew lane : Nat) (f : Thread → Thread) : (s.modThread crew lane f).pendingReq = s.pendingReq := rfl
@[simp] theorem State.modThread_agentWaits (s : State) (crew lane : Nat) (f : Thread → Thread) : (s.modThread crew lane f).agentWaits = s.agentWaits := rfl
@[simp] theorem State.modThread_handled (s : State) (crew lane : Nat) (f : Thread → Thread) : (s.modThread crew lane f).handled = s.handled := rfl
@[simp] theorem State.modThread_msgs (s : State) (crew lane : Nat) (f : Thread → Thread) : (s.modThread crew lane f).msgs = s.msgs := rfl
@[simp] theorem State.modThread_slots (s : State) (crew lane : Nat) (f : Thread → Thread) : (s.modThread crew lane f).slots = s.slots := rfl
@[simp] theorem State.modThread_ranges (s : State) (crew lane : Nat) (f : Thread → Thread) : (s.modThread crew lane f).ranges = s.ranges := rfl
@[simp] theorem State.modThread_lostAgents (s : State) (crew lane : Nat) (f : Thread → Thread) : (s.modThread crew lane f).lostAgents = s.lostAgents := rfl
@[simp] theorem State.modThread_agentTime (s : State) (crew lane : Nat) (f : Thread → Thread) : (s.modThread crew lane f).agentTime = s.agentTime := rfl
@[simp] theorem State.modThread_cxlHeld (s : State) (crew lane : Nat) (f : Thread → Thread) : (s.modThread crew lane f).cxlHeld = s.cxlHeld := rfl
@[simp] theorem State.modThread_stageTime (s : State) (crew lane : Nat) (f : Thread → Thread) : (s.modThread crew lane f).stageTime = s.stageTime := rfl
@[simp] theorem State.modThread_slabTime (s : State) (crew lane : Nat) (f : Thread → Thread) : (s.modThread crew lane f).slabTime = s.slabTime := rfl
@[simp] theorem State.modThread_touched (s : State) (crew lane : Nat) (f : Thread → Thread) : (s.modThread crew lane f).touched = s.touched := rfl
@[simp] theorem State.modThread_contexts (s : State) (crew lane : Nat) (f : Thread → Thread) : (s.modThread crew lane f).contexts = s.contexts := rfl
@[simp] theorem State.modThread_queues (s : State) (crew lane : Nat) (f : Thread → Thread) : (s.modThread crew lane f).queues = s.queues := rfl
@[simp] theorem State.modThread_launches (s : State) (crew lane : Nat) (f : Thread → Thread) : (s.modThread crew lane f).launches = s.launches := rfl
@[simp] theorem State.modThread_pending (s : State) (crew lane : Nat) (f : Thread → Thread) : (s.modThread crew lane f).pending = s.pending := rfl
@[simp] theorem State.modThread_nextOrder (s : State) (crew lane : Nat) (f : Thread → Thread) : (s.modThread crew lane f).nextOrder = s.nextOrder := rfl
@[simp] theorem State.modThread_headUnit (s : State) (crew lane : Nat) (f : Thread → Thread) : (s.modThread crew lane f).headUnit = s.headUnit := rfl
@[simp] theorem State.modThread_declared (s : State) (crew lane : Nat) (f : Thread → Thread) : (s.modThread crew lane f).declared = s.declared := rfl
@[simp] theorem State.modThread_gangLaunches (s : State) (crew lane : Nat) (f : Thread → Thread) : (s.modThread crew lane f).gangLaunches = s.gangLaunches := rfl
@[simp] theorem State.modThread_reservations (s : State) (crew lane : Nat) (f : Thread → Thread) : (s.modThread crew lane f).reservations = s.reservations := rfl
@[simp] theorem State.modThread_pageFills (s : State) (crew lane : Nat) (f : Thread → Thread) : (s.modThread crew lane f).pageFills = s.pageFills := rfl
@[simp] theorem State.modThread_skippedOrs (s : State) (crew lane : Nat) (f : Thread → Thread) : (s.modThread crew lane f).skippedOrs = s.skippedOrs := rfl
@[simp] theorem State.modThread_sent (s : State) (crew lane : Nat) (f : Thread → Thread) : (s.modThread crew lane f).sent = s.sent := rfl
@[simp] theorem State.modThread_kept (s : State) (crew lane : Nat) (f : Thread → Thread) : (s.modThread crew lane f).kept = s.kept := rfl
@[simp] theorem State.modThread_tagFree (s : State) (crew lane : Nat) (f : Thread → Thread) : (s.modThread crew lane f).tagFree = s.tagFree := rfl
@[simp] theorem State.modThread_ports (s : State) (crew lane : Nat) (f : Thread → Thread) : (s.modThread crew lane f).ports = s.ports := rfl
@[simp] theorem State.modThread_peerDown (s : State) (crew lane : Nat) (f : Thread → Thread) : (s.modThread crew lane f).peerDown = s.peerDown := rfl
@[simp] theorem State.modThread_served (s : State) (crew lane : Nat) (f : Thread → Thread) : (s.modThread crew lane f).served = s.served := rfl
@[simp] theorem State.modThread_putQueue (s : State) (crew lane : Nat) (f : Thread → Thread) : (s.modThread crew lane f).putQueue = s.putQueue := rfl
@[simp] theorem State.modThread_outbox (s : State) (crew lane : Nat) (f : Thread → Thread) : (s.modThread crew lane f).outbox = s.outbox := rfl
@[simp] theorem State.modThread_mstatus (s : State) (crew lane : Nat) (f : Thread → Thread) : (s.modThread crew lane f).mstatus = s.mstatus := rfl
@[simp] theorem State.modThread_bootctl (s : State) (crew lane : Nat) (f : Thread → Thread) : (s.modThread crew lane f).bootctl = s.bootctl := rfl
@[simp] theorem State.modThread_q0desc (s : State) (crew lane : Nat) (f : Thread → Thread) : (s.modThread crew lane f).q0desc = s.q0desc := rfl
@[simp] theorem State.modThread_patchaddr (s : State) (crew lane : Nat) (f : Thread → Thread) : (s.modThread crew lane f).patchaddr = s.patchaddr := rfl
@[simp] theorem State.modThread_attNonce (s : State) (crew lane : Nat) (f : Thread → Thread) : (s.modThread crew lane f).attNonce = s.attNonce := rfl
@[simp] theorem State.modThread_attAddr (s : State) (crew lane : Nat) (f : Thread → Thread) : (s.modThread crew lane f).attAddr = s.attAddr := rfl
@[simp] theorem State.modThread_attBusy (s : State) (crew lane : Nat) (f : Thread → Thread) : (s.modThread crew lane f).attBusy = s.attBusy := rfl
@[simp] theorem State.modThread_power (s : State) (crew lane : Nat) (f : Thread → Thread) : (s.modThread crew lane f).power = s.power := rfl
@[simp] theorem State.modThread_therm (s : State) (crew lane : Nat) (f : Thread → Thread) : (s.modThread crew lane f).therm = s.therm := rfl
@[simp] theorem State.modThread_hot (s : State) (crew lane : Nat) (f : Thread → Thread) : (s.modThread crew lane f).hot = s.hot := rfl
@[simp] theorem State.modThread_cap8 (s : State) (crew lane : Nat) (f : Thread → Thread) : (s.modThread crew lane f).cap8 = s.cap8 := rfl
@[simp] theorem State.modThread_dead (s : State) (crew lane : Nat) (f : Thread → Thread) : (s.modThread crew lane f).dead = s.dead := rfl
@[simp] theorem State.modThread_q0block (s : State) (crew lane : Nat) (f : Thread → Thread) : (s.modThread crew lane f).q0block = s.q0block := rfl
@[simp] theorem State.modThread_elog (s : State) (crew lane : Nat) (f : Thread → Thread) : (s.modThread crew lane f).elog = s.elog := rfl
@[simp] theorem State.modThread_elogDepth (s : State) (crew lane : Nat) (f : Thread → Thread) : (s.modThread crew lane f).elogDepth = s.elogDepth := rfl
@[simp] theorem State.modThread_lwatch (s : State) (crew lane : Nat) (f : Thread → Thread) : (s.modThread crew lane f).lwatch = s.lwatch := rfl
@[simp] theorem State.modThread_saveArea (s : State) (crew lane : Nat) (f : Thread → Thread) : (s.modThread crew lane f).saveArea = s.saveArea := rfl
@[simp] theorem State.modThread_saveSize (s : State) (crew lane : Nat) (f : Thread → Thread) : (s.modThread crew lane f).saveSize = s.saveSize := rfl
@[simp] theorem State.modThread_errSeq (s : State) (crew lane : Nat) (f : Thread → Thread) : (s.modThread crew lane f).errSeq = s.errSeq := rfl
@[simp] theorem State.modThread_corrections (s : State) (crew lane : Nat) (f : Thread → Thread) : (s.modThread crew lane f).corrections = s.corrections := rfl
@[simp] theorem State.modThread_patchVersion (s : State) (crew lane : Nat) (f : Thread → Thread) : (s.modThread crew lane f).patchVersion = s.patchVersion := rfl
@[simp] theorem State.modThread_patchHash (s : State) (crew lane : Nat) (f : Thread → Thread) : (s.modThread crew lane f).patchHash = s.patchHash := rfl
@[simp] theorem State.modThread_booted (s : State) (crew lane : Nat) (f : Thread → Thread) : (s.modThread crew lane f).booted = s.booted := rfl
@[simp] theorem State.modThread_inputs (s : State) (crew lane : Nat) (f : Thread → Thread) : (s.modThread crew lane f).inputs = s.inputs := rfl
@[simp] theorem State.modThread_agenda (s : State) (crew lane : Nat) (f : Thread → Thread) : (s.modThread crew lane f).agenda = s.agenda := rfl
@[simp] theorem State.modThread_free (s : State) (crew lane : Nat) (f : Thread → Thread) : (s.modThread crew lane f).free = s.free := rfl

@[simp] theorem State.setCrew_clock (s : State) (k : Nat) (c : Crew) : (s.setCrew k c).clock = s.clock := rfl
@[simp] theorem State.setCrew_unit (s : State) (k : Nat) (c : Crew) : (s.setCrew k c).unit = s.unit := rfl
@[simp] theorem State.setCrew_pkg (s : State) (k : Nat) (c : Crew) : (s.setCrew k c).pkg = s.pkg := rfl
@[simp] theorem State.setCrew_mem (s : State) (k : Nat) (c : Crew) : (s.setCrew k c).mem = s.mem := rfl
@[simp] theorem State.setCrew_tags (s : State) (k : Nat) (c : Crew) : (s.setCrew k c).tags = s.tags := rfl
@[simp] theorem State.setCrew_poison (s : State) (k : Nat) (c : Crew) : (s.setCrew k c).poison = s.poison := rfl
@[simp] theorem State.setCrew_full (s : State) (k : Nat) (c : Crew) : (s.setCrew k c).full = s.full := rfl
@[simp] theorem State.setCrew_filling (s : State) (k : Nat) (c : Crew) : (s.setCrew k c).filling = s.filling := rfl
@[simp] theorem State.setCrew_slabs (s : State) (k : Nat) (c : Crew) : (s.setCrew k c).slabs = s.slabs := rfl
@[simp] theorem State.setCrew_stage (s : State) (k : Nat) (c : Crew) : (s.setCrew k c).stage = s.stage := rfl
@[simp] theorem State.setCrew_threads (s : State) (k : Nat) (c : Crew) : (s.setCrew k c).threads = s.threads := rfl
@[simp] theorem State.setCrew_remains (s : State) (k : Nat) (c : Crew) : (s.setCrew k c).remains = s.remains := rfl
@[simp] theorem State.setCrew_groups (s : State) (k : Nat) (c : Crew) : (s.setCrew k c).groups = s.groups := rfl
@[simp] theorem State.setCrew_gangs (s : State) (k : Nat) (c : Crew) : (s.setCrew k c).gangs = s.gangs := rfl
@[simp] theorem State.setCrew_nextGang (s : State) (k : Nat) (c : Crew) : (s.setCrew k c).nextGang = s.nextGang := rfl
@[simp] theorem State.setCrew_cores (s : State) (k : Nat) (c : Crew) : (s.setCrew k c).cores = s.cores := rfl
@[simp] theorem State.setCrew_clusters (s : State) (k : Nat) (c : Crew) : (s.setCrew k c).clusters = s.clusters := rfl
@[simp] theorem State.setCrew_gens (s : State) (k : Nat) (c : Crew) : (s.setCrew k c).gens = s.gens := rfl
@[simp] theorem State.setCrew_freed (s : State) (k : Nat) (c : Crew) : (s.setCrew k c).freed = s.freed := rfl
@[simp] theorem State.setCrew_nextName (s : State) (k : Nat) (c : Crew) : (s.setCrew k c).nextName = s.nextName := rfl
@[simp] theorem State.setCrew_sharing (s : State) (k : Nat) (c : Crew) : (s.setCrew k c).sharing = s.sharing := rfl
@[simp] theorem State.setCrew_turn (s : State) (k : Nat) (c : Crew) : (s.setCrew k c).turn = s.turn := rfl
@[simp] theorem State.setCrew_stamp (s : State) (k : Nat) (c : Crew) : (s.setCrew k c).stamp = s.stamp := rfl
@[simp] theorem State.setCrew_benches (s : State) (k : Nat) (c : Crew) : (s.setCrew k c).benches = s.benches := rfl
@[simp] theorem State.setCrew_hbmStacks (s : State) (k : Nat) (c : Crew) : (s.setCrew k c).hbmStacks = s.hbmStacks := rfl
@[simp] theorem State.setCrew_benchLaunches (s : State) (k : Nat) (c : Crew) : (s.setCrew k c).benchLaunches = s.benchLaunches := rfl
@[simp] theorem State.setCrew_windows (s : State) (k : Nat) (c : Crew) : (s.setCrew k c).windows = s.windows := rfl
@[simp] theorem State.setCrew_writers (s : State) (k : Nat) (c : Crew) : (s.setCrew k c).writers = s.writers := rfl
@[simp] theorem State.setCrew_drains (s : State) (k : Nat) (c : Crew) : (s.setCrew k c).drains = s.drains := rfl
@[simp] theorem State.setCrew_epoch (s : State) (k : Nat) (c : Crew) : (s.setCrew k c).epoch = s.epoch := rfl
@[simp] theorem State.setCrew_column (s : State) (k : Nat) (c : Crew) : (s.setCrew k c).column = s.column := rfl
@[simp] theorem State.setCrew_dir (s : State) (k : Nat) (c : Crew) : (s.setCrew k c).dir = s.dir := rfl
@[simp] theorem State.setCrew_floor (s : State) (k : Nat) (c : Crew) : (s.setCrew k c).floor = s.floor := rfl
@[simp] theorem State.setCrew_trans (s : State) (k : Nat) (c : Crew) : (s.setCrew k c).trans = s.trans := rfl
@[simp] theorem State.setCrew_deferred (s : State) (k : Nat) (c : Crew) : (s.setCrew k c).deferred = s.deferred := rfl
@[simp] theorem State.setCrew_copies (s : State) (k : Nat) (c : Crew) : (s.setCrew k c).copies = s.copies := rfl
@[simp] theorem State.setCrew_pendingReq (s : State) (k : Nat) (c : Crew) : (s.setCrew k c).pendingReq = s.pendingReq := rfl
@[simp] theorem State.setCrew_agentWaits (s : State) (k : Nat) (c : Crew) : (s.setCrew k c).agentWaits = s.agentWaits := rfl
@[simp] theorem State.setCrew_handled (s : State) (k : Nat) (c : Crew) : (s.setCrew k c).handled = s.handled := rfl
@[simp] theorem State.setCrew_msgs (s : State) (k : Nat) (c : Crew) : (s.setCrew k c).msgs = s.msgs := rfl
@[simp] theorem State.setCrew_slots (s : State) (k : Nat) (c : Crew) : (s.setCrew k c).slots = s.slots := rfl
@[simp] theorem State.setCrew_ranges (s : State) (k : Nat) (c : Crew) : (s.setCrew k c).ranges = s.ranges := rfl
@[simp] theorem State.setCrew_lostAgents (s : State) (k : Nat) (c : Crew) : (s.setCrew k c).lostAgents = s.lostAgents := rfl
@[simp] theorem State.setCrew_agentTime (s : State) (k : Nat) (c : Crew) : (s.setCrew k c).agentTime = s.agentTime := rfl
@[simp] theorem State.setCrew_cxlHeld (s : State) (k : Nat) (c : Crew) : (s.setCrew k c).cxlHeld = s.cxlHeld := rfl
@[simp] theorem State.setCrew_stageTime (s : State) (k : Nat) (c : Crew) : (s.setCrew k c).stageTime = s.stageTime := rfl
@[simp] theorem State.setCrew_slabTime (s : State) (k : Nat) (c : Crew) : (s.setCrew k c).slabTime = s.slabTime := rfl
@[simp] theorem State.setCrew_touched (s : State) (k : Nat) (c : Crew) : (s.setCrew k c).touched = s.touched := rfl
@[simp] theorem State.setCrew_contexts (s : State) (k : Nat) (c : Crew) : (s.setCrew k c).contexts = s.contexts := rfl
@[simp] theorem State.setCrew_queues (s : State) (k : Nat) (c : Crew) : (s.setCrew k c).queues = s.queues := rfl
@[simp] theorem State.setCrew_launches (s : State) (k : Nat) (c : Crew) : (s.setCrew k c).launches = s.launches := rfl
@[simp] theorem State.setCrew_pending (s : State) (k : Nat) (c : Crew) : (s.setCrew k c).pending = s.pending := rfl
@[simp] theorem State.setCrew_nextOrder (s : State) (k : Nat) (c : Crew) : (s.setCrew k c).nextOrder = s.nextOrder := rfl
@[simp] theorem State.setCrew_headUnit (s : State) (k : Nat) (c : Crew) : (s.setCrew k c).headUnit = s.headUnit := rfl
@[simp] theorem State.setCrew_declared (s : State) (k : Nat) (c : Crew) : (s.setCrew k c).declared = s.declared := rfl
@[simp] theorem State.setCrew_gangLaunches (s : State) (k : Nat) (c : Crew) : (s.setCrew k c).gangLaunches = s.gangLaunches := rfl
@[simp] theorem State.setCrew_reservations (s : State) (k : Nat) (c : Crew) : (s.setCrew k c).reservations = s.reservations := rfl
@[simp] theorem State.setCrew_pageFills (s : State) (k : Nat) (c : Crew) : (s.setCrew k c).pageFills = s.pageFills := rfl
@[simp] theorem State.setCrew_skippedOrs (s : State) (k : Nat) (c : Crew) : (s.setCrew k c).skippedOrs = s.skippedOrs := rfl
@[simp] theorem State.setCrew_sent (s : State) (k : Nat) (c : Crew) : (s.setCrew k c).sent = s.sent := rfl
@[simp] theorem State.setCrew_kept (s : State) (k : Nat) (c : Crew) : (s.setCrew k c).kept = s.kept := rfl
@[simp] theorem State.setCrew_tagFree (s : State) (k : Nat) (c : Crew) : (s.setCrew k c).tagFree = s.tagFree := rfl
@[simp] theorem State.setCrew_ports (s : State) (k : Nat) (c : Crew) : (s.setCrew k c).ports = s.ports := rfl
@[simp] theorem State.setCrew_peerDown (s : State) (k : Nat) (c : Crew) : (s.setCrew k c).peerDown = s.peerDown := rfl
@[simp] theorem State.setCrew_served (s : State) (k : Nat) (c : Crew) : (s.setCrew k c).served = s.served := rfl
@[simp] theorem State.setCrew_putQueue (s : State) (k : Nat) (c : Crew) : (s.setCrew k c).putQueue = s.putQueue := rfl
@[simp] theorem State.setCrew_outbox (s : State) (k : Nat) (c : Crew) : (s.setCrew k c).outbox = s.outbox := rfl
@[simp] theorem State.setCrew_mstatus (s : State) (k : Nat) (c : Crew) : (s.setCrew k c).mstatus = s.mstatus := rfl
@[simp] theorem State.setCrew_bootctl (s : State) (k : Nat) (c : Crew) : (s.setCrew k c).bootctl = s.bootctl := rfl
@[simp] theorem State.setCrew_q0desc (s : State) (k : Nat) (c : Crew) : (s.setCrew k c).q0desc = s.q0desc := rfl
@[simp] theorem State.setCrew_patchaddr (s : State) (k : Nat) (c : Crew) : (s.setCrew k c).patchaddr = s.patchaddr := rfl
@[simp] theorem State.setCrew_attNonce (s : State) (k : Nat) (c : Crew) : (s.setCrew k c).attNonce = s.attNonce := rfl
@[simp] theorem State.setCrew_attAddr (s : State) (k : Nat) (c : Crew) : (s.setCrew k c).attAddr = s.attAddr := rfl
@[simp] theorem State.setCrew_attBusy (s : State) (k : Nat) (c : Crew) : (s.setCrew k c).attBusy = s.attBusy := rfl
@[simp] theorem State.setCrew_power (s : State) (k : Nat) (c : Crew) : (s.setCrew k c).power = s.power := rfl
@[simp] theorem State.setCrew_therm (s : State) (k : Nat) (c : Crew) : (s.setCrew k c).therm = s.therm := rfl
@[simp] theorem State.setCrew_hot (s : State) (k : Nat) (c : Crew) : (s.setCrew k c).hot = s.hot := rfl
@[simp] theorem State.setCrew_cap8 (s : State) (k : Nat) (c : Crew) : (s.setCrew k c).cap8 = s.cap8 := rfl
@[simp] theorem State.setCrew_dead (s : State) (k : Nat) (c : Crew) : (s.setCrew k c).dead = s.dead := rfl
@[simp] theorem State.setCrew_q0block (s : State) (k : Nat) (c : Crew) : (s.setCrew k c).q0block = s.q0block := rfl
@[simp] theorem State.setCrew_elog (s : State) (k : Nat) (c : Crew) : (s.setCrew k c).elog = s.elog := rfl
@[simp] theorem State.setCrew_elogDepth (s : State) (k : Nat) (c : Crew) : (s.setCrew k c).elogDepth = s.elogDepth := rfl
@[simp] theorem State.setCrew_lwatch (s : State) (k : Nat) (c : Crew) : (s.setCrew k c).lwatch = s.lwatch := rfl
@[simp] theorem State.setCrew_saveArea (s : State) (k : Nat) (c : Crew) : (s.setCrew k c).saveArea = s.saveArea := rfl
@[simp] theorem State.setCrew_saveSize (s : State) (k : Nat) (c : Crew) : (s.setCrew k c).saveSize = s.saveSize := rfl
@[simp] theorem State.setCrew_errSeq (s : State) (k : Nat) (c : Crew) : (s.setCrew k c).errSeq = s.errSeq := rfl
@[simp] theorem State.setCrew_corrections (s : State) (k : Nat) (c : Crew) : (s.setCrew k c).corrections = s.corrections := rfl
@[simp] theorem State.setCrew_patchVersion (s : State) (k : Nat) (c : Crew) : (s.setCrew k c).patchVersion = s.patchVersion := rfl
@[simp] theorem State.setCrew_patchHash (s : State) (k : Nat) (c : Crew) : (s.setCrew k c).patchHash = s.patchHash := rfl
@[simp] theorem State.setCrew_booted (s : State) (k : Nat) (c : Crew) : (s.setCrew k c).booted = s.booted := rfl
@[simp] theorem State.setCrew_inputs (s : State) (k : Nat) (c : Crew) : (s.setCrew k c).inputs = s.inputs := rfl
@[simp] theorem State.setCrew_agenda (s : State) (k : Nat) (c : Crew) : (s.setCrew k c).agenda = s.agenda := rfl
@[simp] theorem State.setCrew_free (s : State) (k : Nat) (c : Crew) : (s.setCrew k c).free = s.free := rfl

@[simp] theorem State.modCrew_clock (s : State) (k : Nat) (f : Crew → Crew) : (s.modCrew k f).clock = s.clock := rfl
@[simp] theorem State.modCrew_unit (s : State) (k : Nat) (f : Crew → Crew) : (s.modCrew k f).unit = s.unit := rfl
@[simp] theorem State.modCrew_pkg (s : State) (k : Nat) (f : Crew → Crew) : (s.modCrew k f).pkg = s.pkg := rfl
@[simp] theorem State.modCrew_mem (s : State) (k : Nat) (f : Crew → Crew) : (s.modCrew k f).mem = s.mem := rfl
@[simp] theorem State.modCrew_tags (s : State) (k : Nat) (f : Crew → Crew) : (s.modCrew k f).tags = s.tags := rfl
@[simp] theorem State.modCrew_poison (s : State) (k : Nat) (f : Crew → Crew) : (s.modCrew k f).poison = s.poison := rfl
@[simp] theorem State.modCrew_full (s : State) (k : Nat) (f : Crew → Crew) : (s.modCrew k f).full = s.full := rfl
@[simp] theorem State.modCrew_filling (s : State) (k : Nat) (f : Crew → Crew) : (s.modCrew k f).filling = s.filling := rfl
@[simp] theorem State.modCrew_slabs (s : State) (k : Nat) (f : Crew → Crew) : (s.modCrew k f).slabs = s.slabs := rfl
@[simp] theorem State.modCrew_stage (s : State) (k : Nat) (f : Crew → Crew) : (s.modCrew k f).stage = s.stage := rfl
@[simp] theorem State.modCrew_threads (s : State) (k : Nat) (f : Crew → Crew) : (s.modCrew k f).threads = s.threads := rfl
@[simp] theorem State.modCrew_remains (s : State) (k : Nat) (f : Crew → Crew) : (s.modCrew k f).remains = s.remains := rfl
@[simp] theorem State.modCrew_groups (s : State) (k : Nat) (f : Crew → Crew) : (s.modCrew k f).groups = s.groups := rfl
@[simp] theorem State.modCrew_gangs (s : State) (k : Nat) (f : Crew → Crew) : (s.modCrew k f).gangs = s.gangs := rfl
@[simp] theorem State.modCrew_nextGang (s : State) (k : Nat) (f : Crew → Crew) : (s.modCrew k f).nextGang = s.nextGang := rfl
@[simp] theorem State.modCrew_cores (s : State) (k : Nat) (f : Crew → Crew) : (s.modCrew k f).cores = s.cores := rfl
@[simp] theorem State.modCrew_clusters (s : State) (k : Nat) (f : Crew → Crew) : (s.modCrew k f).clusters = s.clusters := rfl
@[simp] theorem State.modCrew_gens (s : State) (k : Nat) (f : Crew → Crew) : (s.modCrew k f).gens = s.gens := rfl
@[simp] theorem State.modCrew_freed (s : State) (k : Nat) (f : Crew → Crew) : (s.modCrew k f).freed = s.freed := rfl
@[simp] theorem State.modCrew_nextName (s : State) (k : Nat) (f : Crew → Crew) : (s.modCrew k f).nextName = s.nextName := rfl
@[simp] theorem State.modCrew_sharing (s : State) (k : Nat) (f : Crew → Crew) : (s.modCrew k f).sharing = s.sharing := rfl
@[simp] theorem State.modCrew_turn (s : State) (k : Nat) (f : Crew → Crew) : (s.modCrew k f).turn = s.turn := rfl
@[simp] theorem State.modCrew_stamp (s : State) (k : Nat) (f : Crew → Crew) : (s.modCrew k f).stamp = s.stamp := rfl
@[simp] theorem State.modCrew_benches (s : State) (k : Nat) (f : Crew → Crew) : (s.modCrew k f).benches = s.benches := rfl
@[simp] theorem State.modCrew_hbmStacks (s : State) (k : Nat) (f : Crew → Crew) : (s.modCrew k f).hbmStacks = s.hbmStacks := rfl
@[simp] theorem State.modCrew_benchLaunches (s : State) (k : Nat) (f : Crew → Crew) : (s.modCrew k f).benchLaunches = s.benchLaunches := rfl
@[simp] theorem State.modCrew_windows (s : State) (k : Nat) (f : Crew → Crew) : (s.modCrew k f).windows = s.windows := rfl
@[simp] theorem State.modCrew_writers (s : State) (k : Nat) (f : Crew → Crew) : (s.modCrew k f).writers = s.writers := rfl
@[simp] theorem State.modCrew_drains (s : State) (k : Nat) (f : Crew → Crew) : (s.modCrew k f).drains = s.drains := rfl
@[simp] theorem State.modCrew_epoch (s : State) (k : Nat) (f : Crew → Crew) : (s.modCrew k f).epoch = s.epoch := rfl
@[simp] theorem State.modCrew_column (s : State) (k : Nat) (f : Crew → Crew) : (s.modCrew k f).column = s.column := rfl
@[simp] theorem State.modCrew_dir (s : State) (k : Nat) (f : Crew → Crew) : (s.modCrew k f).dir = s.dir := rfl
@[simp] theorem State.modCrew_floor (s : State) (k : Nat) (f : Crew → Crew) : (s.modCrew k f).floor = s.floor := rfl
@[simp] theorem State.modCrew_trans (s : State) (k : Nat) (f : Crew → Crew) : (s.modCrew k f).trans = s.trans := rfl
@[simp] theorem State.modCrew_deferred (s : State) (k : Nat) (f : Crew → Crew) : (s.modCrew k f).deferred = s.deferred := rfl
@[simp] theorem State.modCrew_copies (s : State) (k : Nat) (f : Crew → Crew) : (s.modCrew k f).copies = s.copies := rfl
@[simp] theorem State.modCrew_pendingReq (s : State) (k : Nat) (f : Crew → Crew) : (s.modCrew k f).pendingReq = s.pendingReq := rfl
@[simp] theorem State.modCrew_agentWaits (s : State) (k : Nat) (f : Crew → Crew) : (s.modCrew k f).agentWaits = s.agentWaits := rfl
@[simp] theorem State.modCrew_handled (s : State) (k : Nat) (f : Crew → Crew) : (s.modCrew k f).handled = s.handled := rfl
@[simp] theorem State.modCrew_msgs (s : State) (k : Nat) (f : Crew → Crew) : (s.modCrew k f).msgs = s.msgs := rfl
@[simp] theorem State.modCrew_slots (s : State) (k : Nat) (f : Crew → Crew) : (s.modCrew k f).slots = s.slots := rfl
@[simp] theorem State.modCrew_ranges (s : State) (k : Nat) (f : Crew → Crew) : (s.modCrew k f).ranges = s.ranges := rfl
@[simp] theorem State.modCrew_lostAgents (s : State) (k : Nat) (f : Crew → Crew) : (s.modCrew k f).lostAgents = s.lostAgents := rfl
@[simp] theorem State.modCrew_agentTime (s : State) (k : Nat) (f : Crew → Crew) : (s.modCrew k f).agentTime = s.agentTime := rfl
@[simp] theorem State.modCrew_cxlHeld (s : State) (k : Nat) (f : Crew → Crew) : (s.modCrew k f).cxlHeld = s.cxlHeld := rfl
@[simp] theorem State.modCrew_stageTime (s : State) (k : Nat) (f : Crew → Crew) : (s.modCrew k f).stageTime = s.stageTime := rfl
@[simp] theorem State.modCrew_slabTime (s : State) (k : Nat) (f : Crew → Crew) : (s.modCrew k f).slabTime = s.slabTime := rfl
@[simp] theorem State.modCrew_touched (s : State) (k : Nat) (f : Crew → Crew) : (s.modCrew k f).touched = s.touched := rfl
@[simp] theorem State.modCrew_contexts (s : State) (k : Nat) (f : Crew → Crew) : (s.modCrew k f).contexts = s.contexts := rfl
@[simp] theorem State.modCrew_queues (s : State) (k : Nat) (f : Crew → Crew) : (s.modCrew k f).queues = s.queues := rfl
@[simp] theorem State.modCrew_launches (s : State) (k : Nat) (f : Crew → Crew) : (s.modCrew k f).launches = s.launches := rfl
@[simp] theorem State.modCrew_pending (s : State) (k : Nat) (f : Crew → Crew) : (s.modCrew k f).pending = s.pending := rfl
@[simp] theorem State.modCrew_nextOrder (s : State) (k : Nat) (f : Crew → Crew) : (s.modCrew k f).nextOrder = s.nextOrder := rfl
@[simp] theorem State.modCrew_headUnit (s : State) (k : Nat) (f : Crew → Crew) : (s.modCrew k f).headUnit = s.headUnit := rfl
@[simp] theorem State.modCrew_declared (s : State) (k : Nat) (f : Crew → Crew) : (s.modCrew k f).declared = s.declared := rfl
@[simp] theorem State.modCrew_gangLaunches (s : State) (k : Nat) (f : Crew → Crew) : (s.modCrew k f).gangLaunches = s.gangLaunches := rfl
@[simp] theorem State.modCrew_reservations (s : State) (k : Nat) (f : Crew → Crew) : (s.modCrew k f).reservations = s.reservations := rfl
@[simp] theorem State.modCrew_pageFills (s : State) (k : Nat) (f : Crew → Crew) : (s.modCrew k f).pageFills = s.pageFills := rfl
@[simp] theorem State.modCrew_skippedOrs (s : State) (k : Nat) (f : Crew → Crew) : (s.modCrew k f).skippedOrs = s.skippedOrs := rfl
@[simp] theorem State.modCrew_sent (s : State) (k : Nat) (f : Crew → Crew) : (s.modCrew k f).sent = s.sent := rfl
@[simp] theorem State.modCrew_kept (s : State) (k : Nat) (f : Crew → Crew) : (s.modCrew k f).kept = s.kept := rfl
@[simp] theorem State.modCrew_tagFree (s : State) (k : Nat) (f : Crew → Crew) : (s.modCrew k f).tagFree = s.tagFree := rfl
@[simp] theorem State.modCrew_ports (s : State) (k : Nat) (f : Crew → Crew) : (s.modCrew k f).ports = s.ports := rfl
@[simp] theorem State.modCrew_peerDown (s : State) (k : Nat) (f : Crew → Crew) : (s.modCrew k f).peerDown = s.peerDown := rfl
@[simp] theorem State.modCrew_served (s : State) (k : Nat) (f : Crew → Crew) : (s.modCrew k f).served = s.served := rfl
@[simp] theorem State.modCrew_putQueue (s : State) (k : Nat) (f : Crew → Crew) : (s.modCrew k f).putQueue = s.putQueue := rfl
@[simp] theorem State.modCrew_outbox (s : State) (k : Nat) (f : Crew → Crew) : (s.modCrew k f).outbox = s.outbox := rfl
@[simp] theorem State.modCrew_mstatus (s : State) (k : Nat) (f : Crew → Crew) : (s.modCrew k f).mstatus = s.mstatus := rfl
@[simp] theorem State.modCrew_bootctl (s : State) (k : Nat) (f : Crew → Crew) : (s.modCrew k f).bootctl = s.bootctl := rfl
@[simp] theorem State.modCrew_q0desc (s : State) (k : Nat) (f : Crew → Crew) : (s.modCrew k f).q0desc = s.q0desc := rfl
@[simp] theorem State.modCrew_patchaddr (s : State) (k : Nat) (f : Crew → Crew) : (s.modCrew k f).patchaddr = s.patchaddr := rfl
@[simp] theorem State.modCrew_attNonce (s : State) (k : Nat) (f : Crew → Crew) : (s.modCrew k f).attNonce = s.attNonce := rfl
@[simp] theorem State.modCrew_attAddr (s : State) (k : Nat) (f : Crew → Crew) : (s.modCrew k f).attAddr = s.attAddr := rfl
@[simp] theorem State.modCrew_attBusy (s : State) (k : Nat) (f : Crew → Crew) : (s.modCrew k f).attBusy = s.attBusy := rfl
@[simp] theorem State.modCrew_power (s : State) (k : Nat) (f : Crew → Crew) : (s.modCrew k f).power = s.power := rfl
@[simp] theorem State.modCrew_therm (s : State) (k : Nat) (f : Crew → Crew) : (s.modCrew k f).therm = s.therm := rfl
@[simp] theorem State.modCrew_hot (s : State) (k : Nat) (f : Crew → Crew) : (s.modCrew k f).hot = s.hot := rfl
@[simp] theorem State.modCrew_cap8 (s : State) (k : Nat) (f : Crew → Crew) : (s.modCrew k f).cap8 = s.cap8 := rfl
@[simp] theorem State.modCrew_dead (s : State) (k : Nat) (f : Crew → Crew) : (s.modCrew k f).dead = s.dead := rfl
@[simp] theorem State.modCrew_q0block (s : State) (k : Nat) (f : Crew → Crew) : (s.modCrew k f).q0block = s.q0block := rfl
@[simp] theorem State.modCrew_elog (s : State) (k : Nat) (f : Crew → Crew) : (s.modCrew k f).elog = s.elog := rfl
@[simp] theorem State.modCrew_elogDepth (s : State) (k : Nat) (f : Crew → Crew) : (s.modCrew k f).elogDepth = s.elogDepth := rfl
@[simp] theorem State.modCrew_lwatch (s : State) (k : Nat) (f : Crew → Crew) : (s.modCrew k f).lwatch = s.lwatch := rfl
@[simp] theorem State.modCrew_saveArea (s : State) (k : Nat) (f : Crew → Crew) : (s.modCrew k f).saveArea = s.saveArea := rfl
@[simp] theorem State.modCrew_saveSize (s : State) (k : Nat) (f : Crew → Crew) : (s.modCrew k f).saveSize = s.saveSize := rfl
@[simp] theorem State.modCrew_errSeq (s : State) (k : Nat) (f : Crew → Crew) : (s.modCrew k f).errSeq = s.errSeq := rfl
@[simp] theorem State.modCrew_corrections (s : State) (k : Nat) (f : Crew → Crew) : (s.modCrew k f).corrections = s.corrections := rfl
@[simp] theorem State.modCrew_patchVersion (s : State) (k : Nat) (f : Crew → Crew) : (s.modCrew k f).patchVersion = s.patchVersion := rfl
@[simp] theorem State.modCrew_patchHash (s : State) (k : Nat) (f : Crew → Crew) : (s.modCrew k f).patchHash = s.patchHash := rfl
@[simp] theorem State.modCrew_booted (s : State) (k : Nat) (f : Crew → Crew) : (s.modCrew k f).booted = s.booted := rfl
@[simp] theorem State.modCrew_inputs (s : State) (k : Nat) (f : Crew → Crew) : (s.modCrew k f).inputs = s.inputs := rfl
@[simp] theorem State.modCrew_agenda (s : State) (k : Nat) (f : Crew → Crew) : (s.modCrew k f).agenda = s.agenda := rfl
@[simp] theorem State.modCrew_free (s : State) (k : Nat) (f : Crew → Crew) : (s.modCrew k f).free = s.free := rfl

@[simp] theorem State.setGroup_clock (s : State) (k : Nat) (g : Group) : (s.setGroup k g).clock = s.clock := rfl
@[simp] theorem State.setGroup_unit (s : State) (k : Nat) (g : Group) : (s.setGroup k g).unit = s.unit := rfl
@[simp] theorem State.setGroup_pkg (s : State) (k : Nat) (g : Group) : (s.setGroup k g).pkg = s.pkg := rfl
@[simp] theorem State.setGroup_mem (s : State) (k : Nat) (g : Group) : (s.setGroup k g).mem = s.mem := rfl
@[simp] theorem State.setGroup_tags (s : State) (k : Nat) (g : Group) : (s.setGroup k g).tags = s.tags := rfl
@[simp] theorem State.setGroup_poison (s : State) (k : Nat) (g : Group) : (s.setGroup k g).poison = s.poison := rfl
@[simp] theorem State.setGroup_full (s : State) (k : Nat) (g : Group) : (s.setGroup k g).full = s.full := rfl
@[simp] theorem State.setGroup_filling (s : State) (k : Nat) (g : Group) : (s.setGroup k g).filling = s.filling := rfl
@[simp] theorem State.setGroup_slabs (s : State) (k : Nat) (g : Group) : (s.setGroup k g).slabs = s.slabs := rfl
@[simp] theorem State.setGroup_stage (s : State) (k : Nat) (g : Group) : (s.setGroup k g).stage = s.stage := rfl
@[simp] theorem State.setGroup_threads (s : State) (k : Nat) (g : Group) : (s.setGroup k g).threads = s.threads := rfl
@[simp] theorem State.setGroup_crews (s : State) (k : Nat) (g : Group) : (s.setGroup k g).crews = s.crews := rfl
@[simp] theorem State.setGroup_remains (s : State) (k : Nat) (g : Group) : (s.setGroup k g).remains = s.remains := rfl
@[simp] theorem State.setGroup_gangs (s : State) (k : Nat) (g : Group) : (s.setGroup k g).gangs = s.gangs := rfl
@[simp] theorem State.setGroup_nextGang (s : State) (k : Nat) (g : Group) : (s.setGroup k g).nextGang = s.nextGang := rfl
@[simp] theorem State.setGroup_cores (s : State) (k : Nat) (g : Group) : (s.setGroup k g).cores = s.cores := rfl
@[simp] theorem State.setGroup_clusters (s : State) (k : Nat) (g : Group) : (s.setGroup k g).clusters = s.clusters := rfl
@[simp] theorem State.setGroup_gens (s : State) (k : Nat) (g : Group) : (s.setGroup k g).gens = s.gens := rfl
@[simp] theorem State.setGroup_freed (s : State) (k : Nat) (g : Group) : (s.setGroup k g).freed = s.freed := rfl
@[simp] theorem State.setGroup_nextName (s : State) (k : Nat) (g : Group) : (s.setGroup k g).nextName = s.nextName := rfl
@[simp] theorem State.setGroup_sharing (s : State) (k : Nat) (g : Group) : (s.setGroup k g).sharing = s.sharing := rfl
@[simp] theorem State.setGroup_turn (s : State) (k : Nat) (g : Group) : (s.setGroup k g).turn = s.turn := rfl
@[simp] theorem State.setGroup_stamp (s : State) (k : Nat) (g : Group) : (s.setGroup k g).stamp = s.stamp := rfl
@[simp] theorem State.setGroup_benches (s : State) (k : Nat) (g : Group) : (s.setGroup k g).benches = s.benches := rfl
@[simp] theorem State.setGroup_hbmStacks (s : State) (k : Nat) (g : Group) : (s.setGroup k g).hbmStacks = s.hbmStacks := rfl
@[simp] theorem State.setGroup_benchLaunches (s : State) (k : Nat) (g : Group) : (s.setGroup k g).benchLaunches = s.benchLaunches := rfl
@[simp] theorem State.setGroup_windows (s : State) (k : Nat) (g : Group) : (s.setGroup k g).windows = s.windows := rfl
@[simp] theorem State.setGroup_writers (s : State) (k : Nat) (g : Group) : (s.setGroup k g).writers = s.writers := rfl
@[simp] theorem State.setGroup_drains (s : State) (k : Nat) (g : Group) : (s.setGroup k g).drains = s.drains := rfl
@[simp] theorem State.setGroup_epoch (s : State) (k : Nat) (g : Group) : (s.setGroup k g).epoch = s.epoch := rfl
@[simp] theorem State.setGroup_column (s : State) (k : Nat) (g : Group) : (s.setGroup k g).column = s.column := rfl
@[simp] theorem State.setGroup_dir (s : State) (k : Nat) (g : Group) : (s.setGroup k g).dir = s.dir := rfl
@[simp] theorem State.setGroup_floor (s : State) (k : Nat) (g : Group) : (s.setGroup k g).floor = s.floor := rfl
@[simp] theorem State.setGroup_trans (s : State) (k : Nat) (g : Group) : (s.setGroup k g).trans = s.trans := rfl
@[simp] theorem State.setGroup_deferred (s : State) (k : Nat) (g : Group) : (s.setGroup k g).deferred = s.deferred := rfl
@[simp] theorem State.setGroup_copies (s : State) (k : Nat) (g : Group) : (s.setGroup k g).copies = s.copies := rfl
@[simp] theorem State.setGroup_pendingReq (s : State) (k : Nat) (g : Group) : (s.setGroup k g).pendingReq = s.pendingReq := rfl
@[simp] theorem State.setGroup_agentWaits (s : State) (k : Nat) (g : Group) : (s.setGroup k g).agentWaits = s.agentWaits := rfl
@[simp] theorem State.setGroup_handled (s : State) (k : Nat) (g : Group) : (s.setGroup k g).handled = s.handled := rfl
@[simp] theorem State.setGroup_msgs (s : State) (k : Nat) (g : Group) : (s.setGroup k g).msgs = s.msgs := rfl
@[simp] theorem State.setGroup_slots (s : State) (k : Nat) (g : Group) : (s.setGroup k g).slots = s.slots := rfl
@[simp] theorem State.setGroup_ranges (s : State) (k : Nat) (g : Group) : (s.setGroup k g).ranges = s.ranges := rfl
@[simp] theorem State.setGroup_lostAgents (s : State) (k : Nat) (g : Group) : (s.setGroup k g).lostAgents = s.lostAgents := rfl
@[simp] theorem State.setGroup_agentTime (s : State) (k : Nat) (g : Group) : (s.setGroup k g).agentTime = s.agentTime := rfl
@[simp] theorem State.setGroup_cxlHeld (s : State) (k : Nat) (g : Group) : (s.setGroup k g).cxlHeld = s.cxlHeld := rfl
@[simp] theorem State.setGroup_stageTime (s : State) (k : Nat) (g : Group) : (s.setGroup k g).stageTime = s.stageTime := rfl
@[simp] theorem State.setGroup_slabTime (s : State) (k : Nat) (g : Group) : (s.setGroup k g).slabTime = s.slabTime := rfl
@[simp] theorem State.setGroup_touched (s : State) (k : Nat) (g : Group) : (s.setGroup k g).touched = s.touched := rfl
@[simp] theorem State.setGroup_contexts (s : State) (k : Nat) (g : Group) : (s.setGroup k g).contexts = s.contexts := rfl
@[simp] theorem State.setGroup_queues (s : State) (k : Nat) (g : Group) : (s.setGroup k g).queues = s.queues := rfl
@[simp] theorem State.setGroup_launches (s : State) (k : Nat) (g : Group) : (s.setGroup k g).launches = s.launches := rfl
@[simp] theorem State.setGroup_pending (s : State) (k : Nat) (g : Group) : (s.setGroup k g).pending = s.pending := rfl
@[simp] theorem State.setGroup_nextOrder (s : State) (k : Nat) (g : Group) : (s.setGroup k g).nextOrder = s.nextOrder := rfl
@[simp] theorem State.setGroup_headUnit (s : State) (k : Nat) (g : Group) : (s.setGroup k g).headUnit = s.headUnit := rfl
@[simp] theorem State.setGroup_declared (s : State) (k : Nat) (g : Group) : (s.setGroup k g).declared = s.declared := rfl
@[simp] theorem State.setGroup_gangLaunches (s : State) (k : Nat) (g : Group) : (s.setGroup k g).gangLaunches = s.gangLaunches := rfl
@[simp] theorem State.setGroup_reservations (s : State) (k : Nat) (g : Group) : (s.setGroup k g).reservations = s.reservations := rfl
@[simp] theorem State.setGroup_pageFills (s : State) (k : Nat) (g : Group) : (s.setGroup k g).pageFills = s.pageFills := rfl
@[simp] theorem State.setGroup_skippedOrs (s : State) (k : Nat) (g : Group) : (s.setGroup k g).skippedOrs = s.skippedOrs := rfl
@[simp] theorem State.setGroup_sent (s : State) (k : Nat) (g : Group) : (s.setGroup k g).sent = s.sent := rfl
@[simp] theorem State.setGroup_kept (s : State) (k : Nat) (g : Group) : (s.setGroup k g).kept = s.kept := rfl
@[simp] theorem State.setGroup_tagFree (s : State) (k : Nat) (g : Group) : (s.setGroup k g).tagFree = s.tagFree := rfl
@[simp] theorem State.setGroup_ports (s : State) (k : Nat) (g : Group) : (s.setGroup k g).ports = s.ports := rfl
@[simp] theorem State.setGroup_peerDown (s : State) (k : Nat) (g : Group) : (s.setGroup k g).peerDown = s.peerDown := rfl
@[simp] theorem State.setGroup_served (s : State) (k : Nat) (g : Group) : (s.setGroup k g).served = s.served := rfl
@[simp] theorem State.setGroup_putQueue (s : State) (k : Nat) (g : Group) : (s.setGroup k g).putQueue = s.putQueue := rfl
@[simp] theorem State.setGroup_outbox (s : State) (k : Nat) (g : Group) : (s.setGroup k g).outbox = s.outbox := rfl
@[simp] theorem State.setGroup_mstatus (s : State) (k : Nat) (g : Group) : (s.setGroup k g).mstatus = s.mstatus := rfl
@[simp] theorem State.setGroup_bootctl (s : State) (k : Nat) (g : Group) : (s.setGroup k g).bootctl = s.bootctl := rfl
@[simp] theorem State.setGroup_q0desc (s : State) (k : Nat) (g : Group) : (s.setGroup k g).q0desc = s.q0desc := rfl
@[simp] theorem State.setGroup_patchaddr (s : State) (k : Nat) (g : Group) : (s.setGroup k g).patchaddr = s.patchaddr := rfl
@[simp] theorem State.setGroup_attNonce (s : State) (k : Nat) (g : Group) : (s.setGroup k g).attNonce = s.attNonce := rfl
@[simp] theorem State.setGroup_attAddr (s : State) (k : Nat) (g : Group) : (s.setGroup k g).attAddr = s.attAddr := rfl
@[simp] theorem State.setGroup_attBusy (s : State) (k : Nat) (g : Group) : (s.setGroup k g).attBusy = s.attBusy := rfl
@[simp] theorem State.setGroup_power (s : State) (k : Nat) (g : Group) : (s.setGroup k g).power = s.power := rfl
@[simp] theorem State.setGroup_therm (s : State) (k : Nat) (g : Group) : (s.setGroup k g).therm = s.therm := rfl
@[simp] theorem State.setGroup_hot (s : State) (k : Nat) (g : Group) : (s.setGroup k g).hot = s.hot := rfl
@[simp] theorem State.setGroup_cap8 (s : State) (k : Nat) (g : Group) : (s.setGroup k g).cap8 = s.cap8 := rfl
@[simp] theorem State.setGroup_dead (s : State) (k : Nat) (g : Group) : (s.setGroup k g).dead = s.dead := rfl
@[simp] theorem State.setGroup_q0block (s : State) (k : Nat) (g : Group) : (s.setGroup k g).q0block = s.q0block := rfl
@[simp] theorem State.setGroup_elog (s : State) (k : Nat) (g : Group) : (s.setGroup k g).elog = s.elog := rfl
@[simp] theorem State.setGroup_elogDepth (s : State) (k : Nat) (g : Group) : (s.setGroup k g).elogDepth = s.elogDepth := rfl
@[simp] theorem State.setGroup_lwatch (s : State) (k : Nat) (g : Group) : (s.setGroup k g).lwatch = s.lwatch := rfl
@[simp] theorem State.setGroup_saveArea (s : State) (k : Nat) (g : Group) : (s.setGroup k g).saveArea = s.saveArea := rfl
@[simp] theorem State.setGroup_saveSize (s : State) (k : Nat) (g : Group) : (s.setGroup k g).saveSize = s.saveSize := rfl
@[simp] theorem State.setGroup_errSeq (s : State) (k : Nat) (g : Group) : (s.setGroup k g).errSeq = s.errSeq := rfl
@[simp] theorem State.setGroup_corrections (s : State) (k : Nat) (g : Group) : (s.setGroup k g).corrections = s.corrections := rfl
@[simp] theorem State.setGroup_patchVersion (s : State) (k : Nat) (g : Group) : (s.setGroup k g).patchVersion = s.patchVersion := rfl
@[simp] theorem State.setGroup_patchHash (s : State) (k : Nat) (g : Group) : (s.setGroup k g).patchHash = s.patchHash := rfl
@[simp] theorem State.setGroup_booted (s : State) (k : Nat) (g : Group) : (s.setGroup k g).booted = s.booted := rfl
@[simp] theorem State.setGroup_inputs (s : State) (k : Nat) (g : Group) : (s.setGroup k g).inputs = s.inputs := rfl
@[simp] theorem State.setGroup_agenda (s : State) (k : Nat) (g : Group) : (s.setGroup k g).agenda = s.agenda := rfl
@[simp] theorem State.setGroup_free (s : State) (k : Nat) (g : Group) : (s.setGroup k g).free = s.free := rfl

@[simp] theorem State.modGroup_clock (s : State) (k : Nat) (f : Group → Group) : (s.modGroup k f).clock = s.clock := rfl
@[simp] theorem State.modGroup_unit (s : State) (k : Nat) (f : Group → Group) : (s.modGroup k f).unit = s.unit := rfl
@[simp] theorem State.modGroup_pkg (s : State) (k : Nat) (f : Group → Group) : (s.modGroup k f).pkg = s.pkg := rfl
@[simp] theorem State.modGroup_mem (s : State) (k : Nat) (f : Group → Group) : (s.modGroup k f).mem = s.mem := rfl
@[simp] theorem State.modGroup_tags (s : State) (k : Nat) (f : Group → Group) : (s.modGroup k f).tags = s.tags := rfl
@[simp] theorem State.modGroup_poison (s : State) (k : Nat) (f : Group → Group) : (s.modGroup k f).poison = s.poison := rfl
@[simp] theorem State.modGroup_full (s : State) (k : Nat) (f : Group → Group) : (s.modGroup k f).full = s.full := rfl
@[simp] theorem State.modGroup_filling (s : State) (k : Nat) (f : Group → Group) : (s.modGroup k f).filling = s.filling := rfl
@[simp] theorem State.modGroup_slabs (s : State) (k : Nat) (f : Group → Group) : (s.modGroup k f).slabs = s.slabs := rfl
@[simp] theorem State.modGroup_stage (s : State) (k : Nat) (f : Group → Group) : (s.modGroup k f).stage = s.stage := rfl
@[simp] theorem State.modGroup_threads (s : State) (k : Nat) (f : Group → Group) : (s.modGroup k f).threads = s.threads := rfl
@[simp] theorem State.modGroup_crews (s : State) (k : Nat) (f : Group → Group) : (s.modGroup k f).crews = s.crews := rfl
@[simp] theorem State.modGroup_remains (s : State) (k : Nat) (f : Group → Group) : (s.modGroup k f).remains = s.remains := rfl
@[simp] theorem State.modGroup_gangs (s : State) (k : Nat) (f : Group → Group) : (s.modGroup k f).gangs = s.gangs := rfl
@[simp] theorem State.modGroup_nextGang (s : State) (k : Nat) (f : Group → Group) : (s.modGroup k f).nextGang = s.nextGang := rfl
@[simp] theorem State.modGroup_cores (s : State) (k : Nat) (f : Group → Group) : (s.modGroup k f).cores = s.cores := rfl
@[simp] theorem State.modGroup_clusters (s : State) (k : Nat) (f : Group → Group) : (s.modGroup k f).clusters = s.clusters := rfl
@[simp] theorem State.modGroup_gens (s : State) (k : Nat) (f : Group → Group) : (s.modGroup k f).gens = s.gens := rfl
@[simp] theorem State.modGroup_freed (s : State) (k : Nat) (f : Group → Group) : (s.modGroup k f).freed = s.freed := rfl
@[simp] theorem State.modGroup_nextName (s : State) (k : Nat) (f : Group → Group) : (s.modGroup k f).nextName = s.nextName := rfl
@[simp] theorem State.modGroup_sharing (s : State) (k : Nat) (f : Group → Group) : (s.modGroup k f).sharing = s.sharing := rfl
@[simp] theorem State.modGroup_turn (s : State) (k : Nat) (f : Group → Group) : (s.modGroup k f).turn = s.turn := rfl
@[simp] theorem State.modGroup_stamp (s : State) (k : Nat) (f : Group → Group) : (s.modGroup k f).stamp = s.stamp := rfl
@[simp] theorem State.modGroup_benches (s : State) (k : Nat) (f : Group → Group) : (s.modGroup k f).benches = s.benches := rfl
@[simp] theorem State.modGroup_hbmStacks (s : State) (k : Nat) (f : Group → Group) : (s.modGroup k f).hbmStacks = s.hbmStacks := rfl
@[simp] theorem State.modGroup_benchLaunches (s : State) (k : Nat) (f : Group → Group) : (s.modGroup k f).benchLaunches = s.benchLaunches := rfl
@[simp] theorem State.modGroup_windows (s : State) (k : Nat) (f : Group → Group) : (s.modGroup k f).windows = s.windows := rfl
@[simp] theorem State.modGroup_writers (s : State) (k : Nat) (f : Group → Group) : (s.modGroup k f).writers = s.writers := rfl
@[simp] theorem State.modGroup_drains (s : State) (k : Nat) (f : Group → Group) : (s.modGroup k f).drains = s.drains := rfl
@[simp] theorem State.modGroup_epoch (s : State) (k : Nat) (f : Group → Group) : (s.modGroup k f).epoch = s.epoch := rfl
@[simp] theorem State.modGroup_column (s : State) (k : Nat) (f : Group → Group) : (s.modGroup k f).column = s.column := rfl
@[simp] theorem State.modGroup_dir (s : State) (k : Nat) (f : Group → Group) : (s.modGroup k f).dir = s.dir := rfl
@[simp] theorem State.modGroup_floor (s : State) (k : Nat) (f : Group → Group) : (s.modGroup k f).floor = s.floor := rfl
@[simp] theorem State.modGroup_trans (s : State) (k : Nat) (f : Group → Group) : (s.modGroup k f).trans = s.trans := rfl
@[simp] theorem State.modGroup_deferred (s : State) (k : Nat) (f : Group → Group) : (s.modGroup k f).deferred = s.deferred := rfl
@[simp] theorem State.modGroup_copies (s : State) (k : Nat) (f : Group → Group) : (s.modGroup k f).copies = s.copies := rfl
@[simp] theorem State.modGroup_pendingReq (s : State) (k : Nat) (f : Group → Group) : (s.modGroup k f).pendingReq = s.pendingReq := rfl
@[simp] theorem State.modGroup_agentWaits (s : State) (k : Nat) (f : Group → Group) : (s.modGroup k f).agentWaits = s.agentWaits := rfl
@[simp] theorem State.modGroup_handled (s : State) (k : Nat) (f : Group → Group) : (s.modGroup k f).handled = s.handled := rfl
@[simp] theorem State.modGroup_msgs (s : State) (k : Nat) (f : Group → Group) : (s.modGroup k f).msgs = s.msgs := rfl
@[simp] theorem State.modGroup_slots (s : State) (k : Nat) (f : Group → Group) : (s.modGroup k f).slots = s.slots := rfl
@[simp] theorem State.modGroup_ranges (s : State) (k : Nat) (f : Group → Group) : (s.modGroup k f).ranges = s.ranges := rfl
@[simp] theorem State.modGroup_lostAgents (s : State) (k : Nat) (f : Group → Group) : (s.modGroup k f).lostAgents = s.lostAgents := rfl
@[simp] theorem State.modGroup_agentTime (s : State) (k : Nat) (f : Group → Group) : (s.modGroup k f).agentTime = s.agentTime := rfl
@[simp] theorem State.modGroup_cxlHeld (s : State) (k : Nat) (f : Group → Group) : (s.modGroup k f).cxlHeld = s.cxlHeld := rfl
@[simp] theorem State.modGroup_stageTime (s : State) (k : Nat) (f : Group → Group) : (s.modGroup k f).stageTime = s.stageTime := rfl
@[simp] theorem State.modGroup_slabTime (s : State) (k : Nat) (f : Group → Group) : (s.modGroup k f).slabTime = s.slabTime := rfl
@[simp] theorem State.modGroup_touched (s : State) (k : Nat) (f : Group → Group) : (s.modGroup k f).touched = s.touched := rfl
@[simp] theorem State.modGroup_contexts (s : State) (k : Nat) (f : Group → Group) : (s.modGroup k f).contexts = s.contexts := rfl
@[simp] theorem State.modGroup_queues (s : State) (k : Nat) (f : Group → Group) : (s.modGroup k f).queues = s.queues := rfl
@[simp] theorem State.modGroup_launches (s : State) (k : Nat) (f : Group → Group) : (s.modGroup k f).launches = s.launches := rfl
@[simp] theorem State.modGroup_pending (s : State) (k : Nat) (f : Group → Group) : (s.modGroup k f).pending = s.pending := rfl
@[simp] theorem State.modGroup_nextOrder (s : State) (k : Nat) (f : Group → Group) : (s.modGroup k f).nextOrder = s.nextOrder := rfl
@[simp] theorem State.modGroup_headUnit (s : State) (k : Nat) (f : Group → Group) : (s.modGroup k f).headUnit = s.headUnit := rfl
@[simp] theorem State.modGroup_declared (s : State) (k : Nat) (f : Group → Group) : (s.modGroup k f).declared = s.declared := rfl
@[simp] theorem State.modGroup_gangLaunches (s : State) (k : Nat) (f : Group → Group) : (s.modGroup k f).gangLaunches = s.gangLaunches := rfl
@[simp] theorem State.modGroup_reservations (s : State) (k : Nat) (f : Group → Group) : (s.modGroup k f).reservations = s.reservations := rfl
@[simp] theorem State.modGroup_pageFills (s : State) (k : Nat) (f : Group → Group) : (s.modGroup k f).pageFills = s.pageFills := rfl
@[simp] theorem State.modGroup_skippedOrs (s : State) (k : Nat) (f : Group → Group) : (s.modGroup k f).skippedOrs = s.skippedOrs := rfl
@[simp] theorem State.modGroup_sent (s : State) (k : Nat) (f : Group → Group) : (s.modGroup k f).sent = s.sent := rfl
@[simp] theorem State.modGroup_kept (s : State) (k : Nat) (f : Group → Group) : (s.modGroup k f).kept = s.kept := rfl
@[simp] theorem State.modGroup_tagFree (s : State) (k : Nat) (f : Group → Group) : (s.modGroup k f).tagFree = s.tagFree := rfl
@[simp] theorem State.modGroup_ports (s : State) (k : Nat) (f : Group → Group) : (s.modGroup k f).ports = s.ports := rfl
@[simp] theorem State.modGroup_peerDown (s : State) (k : Nat) (f : Group → Group) : (s.modGroup k f).peerDown = s.peerDown := rfl
@[simp] theorem State.modGroup_served (s : State) (k : Nat) (f : Group → Group) : (s.modGroup k f).served = s.served := rfl
@[simp] theorem State.modGroup_putQueue (s : State) (k : Nat) (f : Group → Group) : (s.modGroup k f).putQueue = s.putQueue := rfl
@[simp] theorem State.modGroup_outbox (s : State) (k : Nat) (f : Group → Group) : (s.modGroup k f).outbox = s.outbox := rfl
@[simp] theorem State.modGroup_mstatus (s : State) (k : Nat) (f : Group → Group) : (s.modGroup k f).mstatus = s.mstatus := rfl
@[simp] theorem State.modGroup_bootctl (s : State) (k : Nat) (f : Group → Group) : (s.modGroup k f).bootctl = s.bootctl := rfl
@[simp] theorem State.modGroup_q0desc (s : State) (k : Nat) (f : Group → Group) : (s.modGroup k f).q0desc = s.q0desc := rfl
@[simp] theorem State.modGroup_patchaddr (s : State) (k : Nat) (f : Group → Group) : (s.modGroup k f).patchaddr = s.patchaddr := rfl
@[simp] theorem State.modGroup_attNonce (s : State) (k : Nat) (f : Group → Group) : (s.modGroup k f).attNonce = s.attNonce := rfl
@[simp] theorem State.modGroup_attAddr (s : State) (k : Nat) (f : Group → Group) : (s.modGroup k f).attAddr = s.attAddr := rfl
@[simp] theorem State.modGroup_attBusy (s : State) (k : Nat) (f : Group → Group) : (s.modGroup k f).attBusy = s.attBusy := rfl
@[simp] theorem State.modGroup_power (s : State) (k : Nat) (f : Group → Group) : (s.modGroup k f).power = s.power := rfl
@[simp] theorem State.modGroup_therm (s : State) (k : Nat) (f : Group → Group) : (s.modGroup k f).therm = s.therm := rfl
@[simp] theorem State.modGroup_hot (s : State) (k : Nat) (f : Group → Group) : (s.modGroup k f).hot = s.hot := rfl
@[simp] theorem State.modGroup_cap8 (s : State) (k : Nat) (f : Group → Group) : (s.modGroup k f).cap8 = s.cap8 := rfl
@[simp] theorem State.modGroup_dead (s : State) (k : Nat) (f : Group → Group) : (s.modGroup k f).dead = s.dead := rfl
@[simp] theorem State.modGroup_q0block (s : State) (k : Nat) (f : Group → Group) : (s.modGroup k f).q0block = s.q0block := rfl
@[simp] theorem State.modGroup_elog (s : State) (k : Nat) (f : Group → Group) : (s.modGroup k f).elog = s.elog := rfl
@[simp] theorem State.modGroup_elogDepth (s : State) (k : Nat) (f : Group → Group) : (s.modGroup k f).elogDepth = s.elogDepth := rfl
@[simp] theorem State.modGroup_lwatch (s : State) (k : Nat) (f : Group → Group) : (s.modGroup k f).lwatch = s.lwatch := rfl
@[simp] theorem State.modGroup_saveArea (s : State) (k : Nat) (f : Group → Group) : (s.modGroup k f).saveArea = s.saveArea := rfl
@[simp] theorem State.modGroup_saveSize (s : State) (k : Nat) (f : Group → Group) : (s.modGroup k f).saveSize = s.saveSize := rfl
@[simp] theorem State.modGroup_errSeq (s : State) (k : Nat) (f : Group → Group) : (s.modGroup k f).errSeq = s.errSeq := rfl
@[simp] theorem State.modGroup_corrections (s : State) (k : Nat) (f : Group → Group) : (s.modGroup k f).corrections = s.corrections := rfl
@[simp] theorem State.modGroup_patchVersion (s : State) (k : Nat) (f : Group → Group) : (s.modGroup k f).patchVersion = s.patchVersion := rfl
@[simp] theorem State.modGroup_patchHash (s : State) (k : Nat) (f : Group → Group) : (s.modGroup k f).patchHash = s.patchHash := rfl
@[simp] theorem State.modGroup_booted (s : State) (k : Nat) (f : Group → Group) : (s.modGroup k f).booted = s.booted := rfl
@[simp] theorem State.modGroup_inputs (s : State) (k : Nat) (f : Group → Group) : (s.modGroup k f).inputs = s.inputs := rfl
@[simp] theorem State.modGroup_agenda (s : State) (k : Nat) (f : Group → Group) : (s.modGroup k f).agenda = s.agenda := rfl
@[simp] theorem State.modGroup_free (s : State) (k : Nat) (f : Group → Group) : (s.modGroup k f).free = s.free := rfl

@[simp] theorem State.modGang_clock (s : State) (k : Nat) (f : Gang → Gang) : (s.modGang k f).clock = s.clock := rfl
@[simp] theorem State.modGang_unit (s : State) (k : Nat) (f : Gang → Gang) : (s.modGang k f).unit = s.unit := rfl
@[simp] theorem State.modGang_pkg (s : State) (k : Nat) (f : Gang → Gang) : (s.modGang k f).pkg = s.pkg := rfl
@[simp] theorem State.modGang_mem (s : State) (k : Nat) (f : Gang → Gang) : (s.modGang k f).mem = s.mem := rfl
@[simp] theorem State.modGang_tags (s : State) (k : Nat) (f : Gang → Gang) : (s.modGang k f).tags = s.tags := rfl
@[simp] theorem State.modGang_poison (s : State) (k : Nat) (f : Gang → Gang) : (s.modGang k f).poison = s.poison := rfl
@[simp] theorem State.modGang_full (s : State) (k : Nat) (f : Gang → Gang) : (s.modGang k f).full = s.full := rfl
@[simp] theorem State.modGang_filling (s : State) (k : Nat) (f : Gang → Gang) : (s.modGang k f).filling = s.filling := rfl
@[simp] theorem State.modGang_slabs (s : State) (k : Nat) (f : Gang → Gang) : (s.modGang k f).slabs = s.slabs := rfl
@[simp] theorem State.modGang_stage (s : State) (k : Nat) (f : Gang → Gang) : (s.modGang k f).stage = s.stage := rfl
@[simp] theorem State.modGang_threads (s : State) (k : Nat) (f : Gang → Gang) : (s.modGang k f).threads = s.threads := rfl
@[simp] theorem State.modGang_crews (s : State) (k : Nat) (f : Gang → Gang) : (s.modGang k f).crews = s.crews := rfl
@[simp] theorem State.modGang_remains (s : State) (k : Nat) (f : Gang → Gang) : (s.modGang k f).remains = s.remains := rfl
@[simp] theorem State.modGang_groups (s : State) (k : Nat) (f : Gang → Gang) : (s.modGang k f).groups = s.groups := rfl
@[simp] theorem State.modGang_nextGang (s : State) (k : Nat) (f : Gang → Gang) : (s.modGang k f).nextGang = s.nextGang := rfl
@[simp] theorem State.modGang_cores (s : State) (k : Nat) (f : Gang → Gang) : (s.modGang k f).cores = s.cores := rfl
@[simp] theorem State.modGang_clusters (s : State) (k : Nat) (f : Gang → Gang) : (s.modGang k f).clusters = s.clusters := rfl
@[simp] theorem State.modGang_gens (s : State) (k : Nat) (f : Gang → Gang) : (s.modGang k f).gens = s.gens := rfl
@[simp] theorem State.modGang_freed (s : State) (k : Nat) (f : Gang → Gang) : (s.modGang k f).freed = s.freed := rfl
@[simp] theorem State.modGang_nextName (s : State) (k : Nat) (f : Gang → Gang) : (s.modGang k f).nextName = s.nextName := rfl
@[simp] theorem State.modGang_sharing (s : State) (k : Nat) (f : Gang → Gang) : (s.modGang k f).sharing = s.sharing := rfl
@[simp] theorem State.modGang_turn (s : State) (k : Nat) (f : Gang → Gang) : (s.modGang k f).turn = s.turn := rfl
@[simp] theorem State.modGang_stamp (s : State) (k : Nat) (f : Gang → Gang) : (s.modGang k f).stamp = s.stamp := rfl
@[simp] theorem State.modGang_benches (s : State) (k : Nat) (f : Gang → Gang) : (s.modGang k f).benches = s.benches := rfl
@[simp] theorem State.modGang_hbmStacks (s : State) (k : Nat) (f : Gang → Gang) : (s.modGang k f).hbmStacks = s.hbmStacks := rfl
@[simp] theorem State.modGang_benchLaunches (s : State) (k : Nat) (f : Gang → Gang) : (s.modGang k f).benchLaunches = s.benchLaunches := rfl
@[simp] theorem State.modGang_windows (s : State) (k : Nat) (f : Gang → Gang) : (s.modGang k f).windows = s.windows := rfl
@[simp] theorem State.modGang_writers (s : State) (k : Nat) (f : Gang → Gang) : (s.modGang k f).writers = s.writers := rfl
@[simp] theorem State.modGang_drains (s : State) (k : Nat) (f : Gang → Gang) : (s.modGang k f).drains = s.drains := rfl
@[simp] theorem State.modGang_epoch (s : State) (k : Nat) (f : Gang → Gang) : (s.modGang k f).epoch = s.epoch := rfl
@[simp] theorem State.modGang_column (s : State) (k : Nat) (f : Gang → Gang) : (s.modGang k f).column = s.column := rfl
@[simp] theorem State.modGang_dir (s : State) (k : Nat) (f : Gang → Gang) : (s.modGang k f).dir = s.dir := rfl
@[simp] theorem State.modGang_floor (s : State) (k : Nat) (f : Gang → Gang) : (s.modGang k f).floor = s.floor := rfl
@[simp] theorem State.modGang_trans (s : State) (k : Nat) (f : Gang → Gang) : (s.modGang k f).trans = s.trans := rfl
@[simp] theorem State.modGang_deferred (s : State) (k : Nat) (f : Gang → Gang) : (s.modGang k f).deferred = s.deferred := rfl
@[simp] theorem State.modGang_copies (s : State) (k : Nat) (f : Gang → Gang) : (s.modGang k f).copies = s.copies := rfl
@[simp] theorem State.modGang_pendingReq (s : State) (k : Nat) (f : Gang → Gang) : (s.modGang k f).pendingReq = s.pendingReq := rfl
@[simp] theorem State.modGang_agentWaits (s : State) (k : Nat) (f : Gang → Gang) : (s.modGang k f).agentWaits = s.agentWaits := rfl
@[simp] theorem State.modGang_handled (s : State) (k : Nat) (f : Gang → Gang) : (s.modGang k f).handled = s.handled := rfl
@[simp] theorem State.modGang_msgs (s : State) (k : Nat) (f : Gang → Gang) : (s.modGang k f).msgs = s.msgs := rfl
@[simp] theorem State.modGang_slots (s : State) (k : Nat) (f : Gang → Gang) : (s.modGang k f).slots = s.slots := rfl
@[simp] theorem State.modGang_ranges (s : State) (k : Nat) (f : Gang → Gang) : (s.modGang k f).ranges = s.ranges := rfl
@[simp] theorem State.modGang_lostAgents (s : State) (k : Nat) (f : Gang → Gang) : (s.modGang k f).lostAgents = s.lostAgents := rfl
@[simp] theorem State.modGang_agentTime (s : State) (k : Nat) (f : Gang → Gang) : (s.modGang k f).agentTime = s.agentTime := rfl
@[simp] theorem State.modGang_cxlHeld (s : State) (k : Nat) (f : Gang → Gang) : (s.modGang k f).cxlHeld = s.cxlHeld := rfl
@[simp] theorem State.modGang_stageTime (s : State) (k : Nat) (f : Gang → Gang) : (s.modGang k f).stageTime = s.stageTime := rfl
@[simp] theorem State.modGang_slabTime (s : State) (k : Nat) (f : Gang → Gang) : (s.modGang k f).slabTime = s.slabTime := rfl
@[simp] theorem State.modGang_touched (s : State) (k : Nat) (f : Gang → Gang) : (s.modGang k f).touched = s.touched := rfl
@[simp] theorem State.modGang_contexts (s : State) (k : Nat) (f : Gang → Gang) : (s.modGang k f).contexts = s.contexts := rfl
@[simp] theorem State.modGang_queues (s : State) (k : Nat) (f : Gang → Gang) : (s.modGang k f).queues = s.queues := rfl
@[simp] theorem State.modGang_launches (s : State) (k : Nat) (f : Gang → Gang) : (s.modGang k f).launches = s.launches := rfl
@[simp] theorem State.modGang_pending (s : State) (k : Nat) (f : Gang → Gang) : (s.modGang k f).pending = s.pending := rfl
@[simp] theorem State.modGang_nextOrder (s : State) (k : Nat) (f : Gang → Gang) : (s.modGang k f).nextOrder = s.nextOrder := rfl
@[simp] theorem State.modGang_headUnit (s : State) (k : Nat) (f : Gang → Gang) : (s.modGang k f).headUnit = s.headUnit := rfl
@[simp] theorem State.modGang_declared (s : State) (k : Nat) (f : Gang → Gang) : (s.modGang k f).declared = s.declared := rfl
@[simp] theorem State.modGang_gangLaunches (s : State) (k : Nat) (f : Gang → Gang) : (s.modGang k f).gangLaunches = s.gangLaunches := rfl
@[simp] theorem State.modGang_reservations (s : State) (k : Nat) (f : Gang → Gang) : (s.modGang k f).reservations = s.reservations := rfl
@[simp] theorem State.modGang_pageFills (s : State) (k : Nat) (f : Gang → Gang) : (s.modGang k f).pageFills = s.pageFills := rfl
@[simp] theorem State.modGang_skippedOrs (s : State) (k : Nat) (f : Gang → Gang) : (s.modGang k f).skippedOrs = s.skippedOrs := rfl
@[simp] theorem State.modGang_sent (s : State) (k : Nat) (f : Gang → Gang) : (s.modGang k f).sent = s.sent := rfl
@[simp] theorem State.modGang_kept (s : State) (k : Nat) (f : Gang → Gang) : (s.modGang k f).kept = s.kept := rfl
@[simp] theorem State.modGang_tagFree (s : State) (k : Nat) (f : Gang → Gang) : (s.modGang k f).tagFree = s.tagFree := rfl
@[simp] theorem State.modGang_ports (s : State) (k : Nat) (f : Gang → Gang) : (s.modGang k f).ports = s.ports := rfl
@[simp] theorem State.modGang_peerDown (s : State) (k : Nat) (f : Gang → Gang) : (s.modGang k f).peerDown = s.peerDown := rfl
@[simp] theorem State.modGang_served (s : State) (k : Nat) (f : Gang → Gang) : (s.modGang k f).served = s.served := rfl
@[simp] theorem State.modGang_putQueue (s : State) (k : Nat) (f : Gang → Gang) : (s.modGang k f).putQueue = s.putQueue := rfl
@[simp] theorem State.modGang_outbox (s : State) (k : Nat) (f : Gang → Gang) : (s.modGang k f).outbox = s.outbox := rfl
@[simp] theorem State.modGang_mstatus (s : State) (k : Nat) (f : Gang → Gang) : (s.modGang k f).mstatus = s.mstatus := rfl
@[simp] theorem State.modGang_bootctl (s : State) (k : Nat) (f : Gang → Gang) : (s.modGang k f).bootctl = s.bootctl := rfl
@[simp] theorem State.modGang_q0desc (s : State) (k : Nat) (f : Gang → Gang) : (s.modGang k f).q0desc = s.q0desc := rfl
@[simp] theorem State.modGang_patchaddr (s : State) (k : Nat) (f : Gang → Gang) : (s.modGang k f).patchaddr = s.patchaddr := rfl
@[simp] theorem State.modGang_attNonce (s : State) (k : Nat) (f : Gang → Gang) : (s.modGang k f).attNonce = s.attNonce := rfl
@[simp] theorem State.modGang_attAddr (s : State) (k : Nat) (f : Gang → Gang) : (s.modGang k f).attAddr = s.attAddr := rfl
@[simp] theorem State.modGang_attBusy (s : State) (k : Nat) (f : Gang → Gang) : (s.modGang k f).attBusy = s.attBusy := rfl
@[simp] theorem State.modGang_power (s : State) (k : Nat) (f : Gang → Gang) : (s.modGang k f).power = s.power := rfl
@[simp] theorem State.modGang_therm (s : State) (k : Nat) (f : Gang → Gang) : (s.modGang k f).therm = s.therm := rfl
@[simp] theorem State.modGang_hot (s : State) (k : Nat) (f : Gang → Gang) : (s.modGang k f).hot = s.hot := rfl
@[simp] theorem State.modGang_cap8 (s : State) (k : Nat) (f : Gang → Gang) : (s.modGang k f).cap8 = s.cap8 := rfl
@[simp] theorem State.modGang_dead (s : State) (k : Nat) (f : Gang → Gang) : (s.modGang k f).dead = s.dead := rfl
@[simp] theorem State.modGang_q0block (s : State) (k : Nat) (f : Gang → Gang) : (s.modGang k f).q0block = s.q0block := rfl
@[simp] theorem State.modGang_elog (s : State) (k : Nat) (f : Gang → Gang) : (s.modGang k f).elog = s.elog := rfl
@[simp] theorem State.modGang_elogDepth (s : State) (k : Nat) (f : Gang → Gang) : (s.modGang k f).elogDepth = s.elogDepth := rfl
@[simp] theorem State.modGang_lwatch (s : State) (k : Nat) (f : Gang → Gang) : (s.modGang k f).lwatch = s.lwatch := rfl
@[simp] theorem State.modGang_saveArea (s : State) (k : Nat) (f : Gang → Gang) : (s.modGang k f).saveArea = s.saveArea := rfl
@[simp] theorem State.modGang_saveSize (s : State) (k : Nat) (f : Gang → Gang) : (s.modGang k f).saveSize = s.saveSize := rfl
@[simp] theorem State.modGang_errSeq (s : State) (k : Nat) (f : Gang → Gang) : (s.modGang k f).errSeq = s.errSeq := rfl
@[simp] theorem State.modGang_corrections (s : State) (k : Nat) (f : Gang → Gang) : (s.modGang k f).corrections = s.corrections := rfl
@[simp] theorem State.modGang_patchVersion (s : State) (k : Nat) (f : Gang → Gang) : (s.modGang k f).patchVersion = s.patchVersion := rfl
@[simp] theorem State.modGang_patchHash (s : State) (k : Nat) (f : Gang → Gang) : (s.modGang k f).patchHash = s.patchHash := rfl
@[simp] theorem State.modGang_booted (s : State) (k : Nat) (f : Gang → Gang) : (s.modGang k f).booted = s.booted := rfl
@[simp] theorem State.modGang_inputs (s : State) (k : Nat) (f : Gang → Gang) : (s.modGang k f).inputs = s.inputs := rfl
@[simp] theorem State.modGang_agenda (s : State) (k : Nat) (f : Gang → Gang) : (s.modGang k f).agenda = s.agenda := rfl
@[simp] theorem State.modGang_free (s : State) (k : Nat) (f : Gang → Gang) : (s.modGang k f).free = s.free := rfl

@[simp] theorem State.modCore_clock (s : State) (k : Nat) (f : Core → Core) : (s.modCore k f).clock = s.clock := rfl
@[simp] theorem State.modCore_unit (s : State) (k : Nat) (f : Core → Core) : (s.modCore k f).unit = s.unit := rfl
@[simp] theorem State.modCore_pkg (s : State) (k : Nat) (f : Core → Core) : (s.modCore k f).pkg = s.pkg := rfl
@[simp] theorem State.modCore_mem (s : State) (k : Nat) (f : Core → Core) : (s.modCore k f).mem = s.mem := rfl
@[simp] theorem State.modCore_tags (s : State) (k : Nat) (f : Core → Core) : (s.modCore k f).tags = s.tags := rfl
@[simp] theorem State.modCore_poison (s : State) (k : Nat) (f : Core → Core) : (s.modCore k f).poison = s.poison := rfl
@[simp] theorem State.modCore_full (s : State) (k : Nat) (f : Core → Core) : (s.modCore k f).full = s.full := rfl
@[simp] theorem State.modCore_filling (s : State) (k : Nat) (f : Core → Core) : (s.modCore k f).filling = s.filling := rfl
@[simp] theorem State.modCore_slabs (s : State) (k : Nat) (f : Core → Core) : (s.modCore k f).slabs = s.slabs := rfl
@[simp] theorem State.modCore_stage (s : State) (k : Nat) (f : Core → Core) : (s.modCore k f).stage = s.stage := rfl
@[simp] theorem State.modCore_threads (s : State) (k : Nat) (f : Core → Core) : (s.modCore k f).threads = s.threads := rfl
@[simp] theorem State.modCore_crews (s : State) (k : Nat) (f : Core → Core) : (s.modCore k f).crews = s.crews := rfl
@[simp] theorem State.modCore_remains (s : State) (k : Nat) (f : Core → Core) : (s.modCore k f).remains = s.remains := rfl
@[simp] theorem State.modCore_groups (s : State) (k : Nat) (f : Core → Core) : (s.modCore k f).groups = s.groups := rfl
@[simp] theorem State.modCore_gangs (s : State) (k : Nat) (f : Core → Core) : (s.modCore k f).gangs = s.gangs := rfl
@[simp] theorem State.modCore_nextGang (s : State) (k : Nat) (f : Core → Core) : (s.modCore k f).nextGang = s.nextGang := rfl
@[simp] theorem State.modCore_clusters (s : State) (k : Nat) (f : Core → Core) : (s.modCore k f).clusters = s.clusters := rfl
@[simp] theorem State.modCore_gens (s : State) (k : Nat) (f : Core → Core) : (s.modCore k f).gens = s.gens := rfl
@[simp] theorem State.modCore_freed (s : State) (k : Nat) (f : Core → Core) : (s.modCore k f).freed = s.freed := rfl
@[simp] theorem State.modCore_nextName (s : State) (k : Nat) (f : Core → Core) : (s.modCore k f).nextName = s.nextName := rfl
@[simp] theorem State.modCore_sharing (s : State) (k : Nat) (f : Core → Core) : (s.modCore k f).sharing = s.sharing := rfl
@[simp] theorem State.modCore_turn (s : State) (k : Nat) (f : Core → Core) : (s.modCore k f).turn = s.turn := rfl
@[simp] theorem State.modCore_stamp (s : State) (k : Nat) (f : Core → Core) : (s.modCore k f).stamp = s.stamp := rfl
@[simp] theorem State.modCore_benches (s : State) (k : Nat) (f : Core → Core) : (s.modCore k f).benches = s.benches := rfl
@[simp] theorem State.modCore_hbmStacks (s : State) (k : Nat) (f : Core → Core) : (s.modCore k f).hbmStacks = s.hbmStacks := rfl
@[simp] theorem State.modCore_benchLaunches (s : State) (k : Nat) (f : Core → Core) : (s.modCore k f).benchLaunches = s.benchLaunches := rfl
@[simp] theorem State.modCore_windows (s : State) (k : Nat) (f : Core → Core) : (s.modCore k f).windows = s.windows := rfl
@[simp] theorem State.modCore_writers (s : State) (k : Nat) (f : Core → Core) : (s.modCore k f).writers = s.writers := rfl
@[simp] theorem State.modCore_drains (s : State) (k : Nat) (f : Core → Core) : (s.modCore k f).drains = s.drains := rfl
@[simp] theorem State.modCore_epoch (s : State) (k : Nat) (f : Core → Core) : (s.modCore k f).epoch = s.epoch := rfl
@[simp] theorem State.modCore_column (s : State) (k : Nat) (f : Core → Core) : (s.modCore k f).column = s.column := rfl
@[simp] theorem State.modCore_dir (s : State) (k : Nat) (f : Core → Core) : (s.modCore k f).dir = s.dir := rfl
@[simp] theorem State.modCore_floor (s : State) (k : Nat) (f : Core → Core) : (s.modCore k f).floor = s.floor := rfl
@[simp] theorem State.modCore_trans (s : State) (k : Nat) (f : Core → Core) : (s.modCore k f).trans = s.trans := rfl
@[simp] theorem State.modCore_deferred (s : State) (k : Nat) (f : Core → Core) : (s.modCore k f).deferred = s.deferred := rfl
@[simp] theorem State.modCore_copies (s : State) (k : Nat) (f : Core → Core) : (s.modCore k f).copies = s.copies := rfl
@[simp] theorem State.modCore_pendingReq (s : State) (k : Nat) (f : Core → Core) : (s.modCore k f).pendingReq = s.pendingReq := rfl
@[simp] theorem State.modCore_agentWaits (s : State) (k : Nat) (f : Core → Core) : (s.modCore k f).agentWaits = s.agentWaits := rfl
@[simp] theorem State.modCore_handled (s : State) (k : Nat) (f : Core → Core) : (s.modCore k f).handled = s.handled := rfl
@[simp] theorem State.modCore_msgs (s : State) (k : Nat) (f : Core → Core) : (s.modCore k f).msgs = s.msgs := rfl
@[simp] theorem State.modCore_slots (s : State) (k : Nat) (f : Core → Core) : (s.modCore k f).slots = s.slots := rfl
@[simp] theorem State.modCore_ranges (s : State) (k : Nat) (f : Core → Core) : (s.modCore k f).ranges = s.ranges := rfl
@[simp] theorem State.modCore_lostAgents (s : State) (k : Nat) (f : Core → Core) : (s.modCore k f).lostAgents = s.lostAgents := rfl
@[simp] theorem State.modCore_agentTime (s : State) (k : Nat) (f : Core → Core) : (s.modCore k f).agentTime = s.agentTime := rfl
@[simp] theorem State.modCore_cxlHeld (s : State) (k : Nat) (f : Core → Core) : (s.modCore k f).cxlHeld = s.cxlHeld := rfl
@[simp] theorem State.modCore_stageTime (s : State) (k : Nat) (f : Core → Core) : (s.modCore k f).stageTime = s.stageTime := rfl
@[simp] theorem State.modCore_slabTime (s : State) (k : Nat) (f : Core → Core) : (s.modCore k f).slabTime = s.slabTime := rfl
@[simp] theorem State.modCore_touched (s : State) (k : Nat) (f : Core → Core) : (s.modCore k f).touched = s.touched := rfl
@[simp] theorem State.modCore_contexts (s : State) (k : Nat) (f : Core → Core) : (s.modCore k f).contexts = s.contexts := rfl
@[simp] theorem State.modCore_queues (s : State) (k : Nat) (f : Core → Core) : (s.modCore k f).queues = s.queues := rfl
@[simp] theorem State.modCore_launches (s : State) (k : Nat) (f : Core → Core) : (s.modCore k f).launches = s.launches := rfl
@[simp] theorem State.modCore_pending (s : State) (k : Nat) (f : Core → Core) : (s.modCore k f).pending = s.pending := rfl
@[simp] theorem State.modCore_nextOrder (s : State) (k : Nat) (f : Core → Core) : (s.modCore k f).nextOrder = s.nextOrder := rfl
@[simp] theorem State.modCore_headUnit (s : State) (k : Nat) (f : Core → Core) : (s.modCore k f).headUnit = s.headUnit := rfl
@[simp] theorem State.modCore_declared (s : State) (k : Nat) (f : Core → Core) : (s.modCore k f).declared = s.declared := rfl
@[simp] theorem State.modCore_gangLaunches (s : State) (k : Nat) (f : Core → Core) : (s.modCore k f).gangLaunches = s.gangLaunches := rfl
@[simp] theorem State.modCore_reservations (s : State) (k : Nat) (f : Core → Core) : (s.modCore k f).reservations = s.reservations := rfl
@[simp] theorem State.modCore_pageFills (s : State) (k : Nat) (f : Core → Core) : (s.modCore k f).pageFills = s.pageFills := rfl
@[simp] theorem State.modCore_skippedOrs (s : State) (k : Nat) (f : Core → Core) : (s.modCore k f).skippedOrs = s.skippedOrs := rfl
@[simp] theorem State.modCore_sent (s : State) (k : Nat) (f : Core → Core) : (s.modCore k f).sent = s.sent := rfl
@[simp] theorem State.modCore_kept (s : State) (k : Nat) (f : Core → Core) : (s.modCore k f).kept = s.kept := rfl
@[simp] theorem State.modCore_tagFree (s : State) (k : Nat) (f : Core → Core) : (s.modCore k f).tagFree = s.tagFree := rfl
@[simp] theorem State.modCore_ports (s : State) (k : Nat) (f : Core → Core) : (s.modCore k f).ports = s.ports := rfl
@[simp] theorem State.modCore_peerDown (s : State) (k : Nat) (f : Core → Core) : (s.modCore k f).peerDown = s.peerDown := rfl
@[simp] theorem State.modCore_served (s : State) (k : Nat) (f : Core → Core) : (s.modCore k f).served = s.served := rfl
@[simp] theorem State.modCore_putQueue (s : State) (k : Nat) (f : Core → Core) : (s.modCore k f).putQueue = s.putQueue := rfl
@[simp] theorem State.modCore_outbox (s : State) (k : Nat) (f : Core → Core) : (s.modCore k f).outbox = s.outbox := rfl
@[simp] theorem State.modCore_mstatus (s : State) (k : Nat) (f : Core → Core) : (s.modCore k f).mstatus = s.mstatus := rfl
@[simp] theorem State.modCore_bootctl (s : State) (k : Nat) (f : Core → Core) : (s.modCore k f).bootctl = s.bootctl := rfl
@[simp] theorem State.modCore_q0desc (s : State) (k : Nat) (f : Core → Core) : (s.modCore k f).q0desc = s.q0desc := rfl
@[simp] theorem State.modCore_patchaddr (s : State) (k : Nat) (f : Core → Core) : (s.modCore k f).patchaddr = s.patchaddr := rfl
@[simp] theorem State.modCore_attNonce (s : State) (k : Nat) (f : Core → Core) : (s.modCore k f).attNonce = s.attNonce := rfl
@[simp] theorem State.modCore_attAddr (s : State) (k : Nat) (f : Core → Core) : (s.modCore k f).attAddr = s.attAddr := rfl
@[simp] theorem State.modCore_attBusy (s : State) (k : Nat) (f : Core → Core) : (s.modCore k f).attBusy = s.attBusy := rfl
@[simp] theorem State.modCore_power (s : State) (k : Nat) (f : Core → Core) : (s.modCore k f).power = s.power := rfl
@[simp] theorem State.modCore_therm (s : State) (k : Nat) (f : Core → Core) : (s.modCore k f).therm = s.therm := rfl
@[simp] theorem State.modCore_hot (s : State) (k : Nat) (f : Core → Core) : (s.modCore k f).hot = s.hot := rfl
@[simp] theorem State.modCore_cap8 (s : State) (k : Nat) (f : Core → Core) : (s.modCore k f).cap8 = s.cap8 := rfl
@[simp] theorem State.modCore_dead (s : State) (k : Nat) (f : Core → Core) : (s.modCore k f).dead = s.dead := rfl
@[simp] theorem State.modCore_q0block (s : State) (k : Nat) (f : Core → Core) : (s.modCore k f).q0block = s.q0block := rfl
@[simp] theorem State.modCore_elog (s : State) (k : Nat) (f : Core → Core) : (s.modCore k f).elog = s.elog := rfl
@[simp] theorem State.modCore_elogDepth (s : State) (k : Nat) (f : Core → Core) : (s.modCore k f).elogDepth = s.elogDepth := rfl
@[simp] theorem State.modCore_lwatch (s : State) (k : Nat) (f : Core → Core) : (s.modCore k f).lwatch = s.lwatch := rfl
@[simp] theorem State.modCore_saveArea (s : State) (k : Nat) (f : Core → Core) : (s.modCore k f).saveArea = s.saveArea := rfl
@[simp] theorem State.modCore_saveSize (s : State) (k : Nat) (f : Core → Core) : (s.modCore k f).saveSize = s.saveSize := rfl
@[simp] theorem State.modCore_errSeq (s : State) (k : Nat) (f : Core → Core) : (s.modCore k f).errSeq = s.errSeq := rfl
@[simp] theorem State.modCore_corrections (s : State) (k : Nat) (f : Core → Core) : (s.modCore k f).corrections = s.corrections := rfl
@[simp] theorem State.modCore_patchVersion (s : State) (k : Nat) (f : Core → Core) : (s.modCore k f).patchVersion = s.patchVersion := rfl
@[simp] theorem State.modCore_patchHash (s : State) (k : Nat) (f : Core → Core) : (s.modCore k f).patchHash = s.patchHash := rfl
@[simp] theorem State.modCore_booted (s : State) (k : Nat) (f : Core → Core) : (s.modCore k f).booted = s.booted := rfl
@[simp] theorem State.modCore_inputs (s : State) (k : Nat) (f : Core → Core) : (s.modCore k f).inputs = s.inputs := rfl
@[simp] theorem State.modCore_agenda (s : State) (k : Nat) (f : Core → Core) : (s.modCore k f).agenda = s.agenda := rfl
@[simp] theorem State.modCore_free (s : State) (k : Nat) (f : Core → Core) : (s.modCore k f).free = s.free := rfl

@[simp] theorem State.modCluster_clock (s : State) (k : Nat) (f : Cluster → Cluster) : (s.modCluster k f).clock = s.clock := rfl
@[simp] theorem State.modCluster_unit (s : State) (k : Nat) (f : Cluster → Cluster) : (s.modCluster k f).unit = s.unit := rfl
@[simp] theorem State.modCluster_pkg (s : State) (k : Nat) (f : Cluster → Cluster) : (s.modCluster k f).pkg = s.pkg := rfl
@[simp] theorem State.modCluster_mem (s : State) (k : Nat) (f : Cluster → Cluster) : (s.modCluster k f).mem = s.mem := rfl
@[simp] theorem State.modCluster_tags (s : State) (k : Nat) (f : Cluster → Cluster) : (s.modCluster k f).tags = s.tags := rfl
@[simp] theorem State.modCluster_poison (s : State) (k : Nat) (f : Cluster → Cluster) : (s.modCluster k f).poison = s.poison := rfl
@[simp] theorem State.modCluster_full (s : State) (k : Nat) (f : Cluster → Cluster) : (s.modCluster k f).full = s.full := rfl
@[simp] theorem State.modCluster_filling (s : State) (k : Nat) (f : Cluster → Cluster) : (s.modCluster k f).filling = s.filling := rfl
@[simp] theorem State.modCluster_slabs (s : State) (k : Nat) (f : Cluster → Cluster) : (s.modCluster k f).slabs = s.slabs := rfl
@[simp] theorem State.modCluster_stage (s : State) (k : Nat) (f : Cluster → Cluster) : (s.modCluster k f).stage = s.stage := rfl
@[simp] theorem State.modCluster_threads (s : State) (k : Nat) (f : Cluster → Cluster) : (s.modCluster k f).threads = s.threads := rfl
@[simp] theorem State.modCluster_crews (s : State) (k : Nat) (f : Cluster → Cluster) : (s.modCluster k f).crews = s.crews := rfl
@[simp] theorem State.modCluster_remains (s : State) (k : Nat) (f : Cluster → Cluster) : (s.modCluster k f).remains = s.remains := rfl
@[simp] theorem State.modCluster_groups (s : State) (k : Nat) (f : Cluster → Cluster) : (s.modCluster k f).groups = s.groups := rfl
@[simp] theorem State.modCluster_gangs (s : State) (k : Nat) (f : Cluster → Cluster) : (s.modCluster k f).gangs = s.gangs := rfl
@[simp] theorem State.modCluster_nextGang (s : State) (k : Nat) (f : Cluster → Cluster) : (s.modCluster k f).nextGang = s.nextGang := rfl
@[simp] theorem State.modCluster_cores (s : State) (k : Nat) (f : Cluster → Cluster) : (s.modCluster k f).cores = s.cores := rfl
@[simp] theorem State.modCluster_gens (s : State) (k : Nat) (f : Cluster → Cluster) : (s.modCluster k f).gens = s.gens := rfl
@[simp] theorem State.modCluster_freed (s : State) (k : Nat) (f : Cluster → Cluster) : (s.modCluster k f).freed = s.freed := rfl
@[simp] theorem State.modCluster_nextName (s : State) (k : Nat) (f : Cluster → Cluster) : (s.modCluster k f).nextName = s.nextName := rfl
@[simp] theorem State.modCluster_sharing (s : State) (k : Nat) (f : Cluster → Cluster) : (s.modCluster k f).sharing = s.sharing := rfl
@[simp] theorem State.modCluster_turn (s : State) (k : Nat) (f : Cluster → Cluster) : (s.modCluster k f).turn = s.turn := rfl
@[simp] theorem State.modCluster_stamp (s : State) (k : Nat) (f : Cluster → Cluster) : (s.modCluster k f).stamp = s.stamp := rfl
@[simp] theorem State.modCluster_benches (s : State) (k : Nat) (f : Cluster → Cluster) : (s.modCluster k f).benches = s.benches := rfl
@[simp] theorem State.modCluster_hbmStacks (s : State) (k : Nat) (f : Cluster → Cluster) : (s.modCluster k f).hbmStacks = s.hbmStacks := rfl
@[simp] theorem State.modCluster_benchLaunches (s : State) (k : Nat) (f : Cluster → Cluster) : (s.modCluster k f).benchLaunches = s.benchLaunches := rfl
@[simp] theorem State.modCluster_windows (s : State) (k : Nat) (f : Cluster → Cluster) : (s.modCluster k f).windows = s.windows := rfl
@[simp] theorem State.modCluster_writers (s : State) (k : Nat) (f : Cluster → Cluster) : (s.modCluster k f).writers = s.writers := rfl
@[simp] theorem State.modCluster_drains (s : State) (k : Nat) (f : Cluster → Cluster) : (s.modCluster k f).drains = s.drains := rfl
@[simp] theorem State.modCluster_epoch (s : State) (k : Nat) (f : Cluster → Cluster) : (s.modCluster k f).epoch = s.epoch := rfl
@[simp] theorem State.modCluster_column (s : State) (k : Nat) (f : Cluster → Cluster) : (s.modCluster k f).column = s.column := rfl
@[simp] theorem State.modCluster_dir (s : State) (k : Nat) (f : Cluster → Cluster) : (s.modCluster k f).dir = s.dir := rfl
@[simp] theorem State.modCluster_floor (s : State) (k : Nat) (f : Cluster → Cluster) : (s.modCluster k f).floor = s.floor := rfl
@[simp] theorem State.modCluster_trans (s : State) (k : Nat) (f : Cluster → Cluster) : (s.modCluster k f).trans = s.trans := rfl
@[simp] theorem State.modCluster_deferred (s : State) (k : Nat) (f : Cluster → Cluster) : (s.modCluster k f).deferred = s.deferred := rfl
@[simp] theorem State.modCluster_copies (s : State) (k : Nat) (f : Cluster → Cluster) : (s.modCluster k f).copies = s.copies := rfl
@[simp] theorem State.modCluster_pendingReq (s : State) (k : Nat) (f : Cluster → Cluster) : (s.modCluster k f).pendingReq = s.pendingReq := rfl
@[simp] theorem State.modCluster_agentWaits (s : State) (k : Nat) (f : Cluster → Cluster) : (s.modCluster k f).agentWaits = s.agentWaits := rfl
@[simp] theorem State.modCluster_handled (s : State) (k : Nat) (f : Cluster → Cluster) : (s.modCluster k f).handled = s.handled := rfl
@[simp] theorem State.modCluster_msgs (s : State) (k : Nat) (f : Cluster → Cluster) : (s.modCluster k f).msgs = s.msgs := rfl
@[simp] theorem State.modCluster_slots (s : State) (k : Nat) (f : Cluster → Cluster) : (s.modCluster k f).slots = s.slots := rfl
@[simp] theorem State.modCluster_ranges (s : State) (k : Nat) (f : Cluster → Cluster) : (s.modCluster k f).ranges = s.ranges := rfl
@[simp] theorem State.modCluster_lostAgents (s : State) (k : Nat) (f : Cluster → Cluster) : (s.modCluster k f).lostAgents = s.lostAgents := rfl
@[simp] theorem State.modCluster_agentTime (s : State) (k : Nat) (f : Cluster → Cluster) : (s.modCluster k f).agentTime = s.agentTime := rfl
@[simp] theorem State.modCluster_cxlHeld (s : State) (k : Nat) (f : Cluster → Cluster) : (s.modCluster k f).cxlHeld = s.cxlHeld := rfl
@[simp] theorem State.modCluster_stageTime (s : State) (k : Nat) (f : Cluster → Cluster) : (s.modCluster k f).stageTime = s.stageTime := rfl
@[simp] theorem State.modCluster_slabTime (s : State) (k : Nat) (f : Cluster → Cluster) : (s.modCluster k f).slabTime = s.slabTime := rfl
@[simp] theorem State.modCluster_touched (s : State) (k : Nat) (f : Cluster → Cluster) : (s.modCluster k f).touched = s.touched := rfl
@[simp] theorem State.modCluster_contexts (s : State) (k : Nat) (f : Cluster → Cluster) : (s.modCluster k f).contexts = s.contexts := rfl
@[simp] theorem State.modCluster_queues (s : State) (k : Nat) (f : Cluster → Cluster) : (s.modCluster k f).queues = s.queues := rfl
@[simp] theorem State.modCluster_launches (s : State) (k : Nat) (f : Cluster → Cluster) : (s.modCluster k f).launches = s.launches := rfl
@[simp] theorem State.modCluster_pending (s : State) (k : Nat) (f : Cluster → Cluster) : (s.modCluster k f).pending = s.pending := rfl
@[simp] theorem State.modCluster_nextOrder (s : State) (k : Nat) (f : Cluster → Cluster) : (s.modCluster k f).nextOrder = s.nextOrder := rfl
@[simp] theorem State.modCluster_headUnit (s : State) (k : Nat) (f : Cluster → Cluster) : (s.modCluster k f).headUnit = s.headUnit := rfl
@[simp] theorem State.modCluster_declared (s : State) (k : Nat) (f : Cluster → Cluster) : (s.modCluster k f).declared = s.declared := rfl
@[simp] theorem State.modCluster_gangLaunches (s : State) (k : Nat) (f : Cluster → Cluster) : (s.modCluster k f).gangLaunches = s.gangLaunches := rfl
@[simp] theorem State.modCluster_reservations (s : State) (k : Nat) (f : Cluster → Cluster) : (s.modCluster k f).reservations = s.reservations := rfl
@[simp] theorem State.modCluster_pageFills (s : State) (k : Nat) (f : Cluster → Cluster) : (s.modCluster k f).pageFills = s.pageFills := rfl
@[simp] theorem State.modCluster_skippedOrs (s : State) (k : Nat) (f : Cluster → Cluster) : (s.modCluster k f).skippedOrs = s.skippedOrs := rfl
@[simp] theorem State.modCluster_sent (s : State) (k : Nat) (f : Cluster → Cluster) : (s.modCluster k f).sent = s.sent := rfl
@[simp] theorem State.modCluster_kept (s : State) (k : Nat) (f : Cluster → Cluster) : (s.modCluster k f).kept = s.kept := rfl
@[simp] theorem State.modCluster_tagFree (s : State) (k : Nat) (f : Cluster → Cluster) : (s.modCluster k f).tagFree = s.tagFree := rfl
@[simp] theorem State.modCluster_ports (s : State) (k : Nat) (f : Cluster → Cluster) : (s.modCluster k f).ports = s.ports := rfl
@[simp] theorem State.modCluster_peerDown (s : State) (k : Nat) (f : Cluster → Cluster) : (s.modCluster k f).peerDown = s.peerDown := rfl
@[simp] theorem State.modCluster_served (s : State) (k : Nat) (f : Cluster → Cluster) : (s.modCluster k f).served = s.served := rfl
@[simp] theorem State.modCluster_putQueue (s : State) (k : Nat) (f : Cluster → Cluster) : (s.modCluster k f).putQueue = s.putQueue := rfl
@[simp] theorem State.modCluster_outbox (s : State) (k : Nat) (f : Cluster → Cluster) : (s.modCluster k f).outbox = s.outbox := rfl
@[simp] theorem State.modCluster_mstatus (s : State) (k : Nat) (f : Cluster → Cluster) : (s.modCluster k f).mstatus = s.mstatus := rfl
@[simp] theorem State.modCluster_bootctl (s : State) (k : Nat) (f : Cluster → Cluster) : (s.modCluster k f).bootctl = s.bootctl := rfl
@[simp] theorem State.modCluster_q0desc (s : State) (k : Nat) (f : Cluster → Cluster) : (s.modCluster k f).q0desc = s.q0desc := rfl
@[simp] theorem State.modCluster_patchaddr (s : State) (k : Nat) (f : Cluster → Cluster) : (s.modCluster k f).patchaddr = s.patchaddr := rfl
@[simp] theorem State.modCluster_attNonce (s : State) (k : Nat) (f : Cluster → Cluster) : (s.modCluster k f).attNonce = s.attNonce := rfl
@[simp] theorem State.modCluster_attAddr (s : State) (k : Nat) (f : Cluster → Cluster) : (s.modCluster k f).attAddr = s.attAddr := rfl
@[simp] theorem State.modCluster_attBusy (s : State) (k : Nat) (f : Cluster → Cluster) : (s.modCluster k f).attBusy = s.attBusy := rfl
@[simp] theorem State.modCluster_power (s : State) (k : Nat) (f : Cluster → Cluster) : (s.modCluster k f).power = s.power := rfl
@[simp] theorem State.modCluster_therm (s : State) (k : Nat) (f : Cluster → Cluster) : (s.modCluster k f).therm = s.therm := rfl
@[simp] theorem State.modCluster_hot (s : State) (k : Nat) (f : Cluster → Cluster) : (s.modCluster k f).hot = s.hot := rfl
@[simp] theorem State.modCluster_cap8 (s : State) (k : Nat) (f : Cluster → Cluster) : (s.modCluster k f).cap8 = s.cap8 := rfl
@[simp] theorem State.modCluster_dead (s : State) (k : Nat) (f : Cluster → Cluster) : (s.modCluster k f).dead = s.dead := rfl
@[simp] theorem State.modCluster_q0block (s : State) (k : Nat) (f : Cluster → Cluster) : (s.modCluster k f).q0block = s.q0block := rfl
@[simp] theorem State.modCluster_elog (s : State) (k : Nat) (f : Cluster → Cluster) : (s.modCluster k f).elog = s.elog := rfl
@[simp] theorem State.modCluster_elogDepth (s : State) (k : Nat) (f : Cluster → Cluster) : (s.modCluster k f).elogDepth = s.elogDepth := rfl
@[simp] theorem State.modCluster_lwatch (s : State) (k : Nat) (f : Cluster → Cluster) : (s.modCluster k f).lwatch = s.lwatch := rfl
@[simp] theorem State.modCluster_saveArea (s : State) (k : Nat) (f : Cluster → Cluster) : (s.modCluster k f).saveArea = s.saveArea := rfl
@[simp] theorem State.modCluster_saveSize (s : State) (k : Nat) (f : Cluster → Cluster) : (s.modCluster k f).saveSize = s.saveSize := rfl
@[simp] theorem State.modCluster_errSeq (s : State) (k : Nat) (f : Cluster → Cluster) : (s.modCluster k f).errSeq = s.errSeq := rfl
@[simp] theorem State.modCluster_corrections (s : State) (k : Nat) (f : Cluster → Cluster) : (s.modCluster k f).corrections = s.corrections := rfl
@[simp] theorem State.modCluster_patchVersion (s : State) (k : Nat) (f : Cluster → Cluster) : (s.modCluster k f).patchVersion = s.patchVersion := rfl
@[simp] theorem State.modCluster_patchHash (s : State) (k : Nat) (f : Cluster → Cluster) : (s.modCluster k f).patchHash = s.patchHash := rfl
@[simp] theorem State.modCluster_booted (s : State) (k : Nat) (f : Cluster → Cluster) : (s.modCluster k f).booted = s.booted := rfl
@[simp] theorem State.modCluster_inputs (s : State) (k : Nat) (f : Cluster → Cluster) : (s.modCluster k f).inputs = s.inputs := rfl
@[simp] theorem State.modCluster_agenda (s : State) (k : Nat) (f : Cluster → Cluster) : (s.modCluster k f).agenda = s.agenda := rfl
@[simp] theorem State.modCluster_free (s : State) (k : Nat) (f : Cluster → Cluster) : (s.modCluster k f).free = s.free := rfl

@[simp] theorem State.modStack_clock (s : State) (k : Nat) (f : Stack → Stack) : (s.modStack k f).clock = s.clock := rfl
@[simp] theorem State.modStack_unit (s : State) (k : Nat) (f : Stack → Stack) : (s.modStack k f).unit = s.unit := rfl
@[simp] theorem State.modStack_pkg (s : State) (k : Nat) (f : Stack → Stack) : (s.modStack k f).pkg = s.pkg := rfl
@[simp] theorem State.modStack_mem (s : State) (k : Nat) (f : Stack → Stack) : (s.modStack k f).mem = s.mem := rfl
@[simp] theorem State.modStack_tags (s : State) (k : Nat) (f : Stack → Stack) : (s.modStack k f).tags = s.tags := rfl
@[simp] theorem State.modStack_poison (s : State) (k : Nat) (f : Stack → Stack) : (s.modStack k f).poison = s.poison := rfl
@[simp] theorem State.modStack_full (s : State) (k : Nat) (f : Stack → Stack) : (s.modStack k f).full = s.full := rfl
@[simp] theorem State.modStack_filling (s : State) (k : Nat) (f : Stack → Stack) : (s.modStack k f).filling = s.filling := rfl
@[simp] theorem State.modStack_slabs (s : State) (k : Nat) (f : Stack → Stack) : (s.modStack k f).slabs = s.slabs := rfl
@[simp] theorem State.modStack_stage (s : State) (k : Nat) (f : Stack → Stack) : (s.modStack k f).stage = s.stage := rfl
@[simp] theorem State.modStack_threads (s : State) (k : Nat) (f : Stack → Stack) : (s.modStack k f).threads = s.threads := rfl
@[simp] theorem State.modStack_crews (s : State) (k : Nat) (f : Stack → Stack) : (s.modStack k f).crews = s.crews := rfl
@[simp] theorem State.modStack_remains (s : State) (k : Nat) (f : Stack → Stack) : (s.modStack k f).remains = s.remains := rfl
@[simp] theorem State.modStack_groups (s : State) (k : Nat) (f : Stack → Stack) : (s.modStack k f).groups = s.groups := rfl
@[simp] theorem State.modStack_gangs (s : State) (k : Nat) (f : Stack → Stack) : (s.modStack k f).gangs = s.gangs := rfl
@[simp] theorem State.modStack_nextGang (s : State) (k : Nat) (f : Stack → Stack) : (s.modStack k f).nextGang = s.nextGang := rfl
@[simp] theorem State.modStack_cores (s : State) (k : Nat) (f : Stack → Stack) : (s.modStack k f).cores = s.cores := rfl
@[simp] theorem State.modStack_clusters (s : State) (k : Nat) (f : Stack → Stack) : (s.modStack k f).clusters = s.clusters := rfl
@[simp] theorem State.modStack_gens (s : State) (k : Nat) (f : Stack → Stack) : (s.modStack k f).gens = s.gens := rfl
@[simp] theorem State.modStack_freed (s : State) (k : Nat) (f : Stack → Stack) : (s.modStack k f).freed = s.freed := rfl
@[simp] theorem State.modStack_nextName (s : State) (k : Nat) (f : Stack → Stack) : (s.modStack k f).nextName = s.nextName := rfl
@[simp] theorem State.modStack_sharing (s : State) (k : Nat) (f : Stack → Stack) : (s.modStack k f).sharing = s.sharing := rfl
@[simp] theorem State.modStack_turn (s : State) (k : Nat) (f : Stack → Stack) : (s.modStack k f).turn = s.turn := rfl
@[simp] theorem State.modStack_stamp (s : State) (k : Nat) (f : Stack → Stack) : (s.modStack k f).stamp = s.stamp := rfl
@[simp] theorem State.modStack_benches (s : State) (k : Nat) (f : Stack → Stack) : (s.modStack k f).benches = s.benches := rfl
@[simp] theorem State.modStack_benchLaunches (s : State) (k : Nat) (f : Stack → Stack) : (s.modStack k f).benchLaunches = s.benchLaunches := rfl
@[simp] theorem State.modStack_windows (s : State) (k : Nat) (f : Stack → Stack) : (s.modStack k f).windows = s.windows := rfl
@[simp] theorem State.modStack_writers (s : State) (k : Nat) (f : Stack → Stack) : (s.modStack k f).writers = s.writers := rfl
@[simp] theorem State.modStack_drains (s : State) (k : Nat) (f : Stack → Stack) : (s.modStack k f).drains = s.drains := rfl
@[simp] theorem State.modStack_epoch (s : State) (k : Nat) (f : Stack → Stack) : (s.modStack k f).epoch = s.epoch := rfl
@[simp] theorem State.modStack_column (s : State) (k : Nat) (f : Stack → Stack) : (s.modStack k f).column = s.column := rfl
@[simp] theorem State.modStack_dir (s : State) (k : Nat) (f : Stack → Stack) : (s.modStack k f).dir = s.dir := rfl
@[simp] theorem State.modStack_floor (s : State) (k : Nat) (f : Stack → Stack) : (s.modStack k f).floor = s.floor := rfl
@[simp] theorem State.modStack_trans (s : State) (k : Nat) (f : Stack → Stack) : (s.modStack k f).trans = s.trans := rfl
@[simp] theorem State.modStack_deferred (s : State) (k : Nat) (f : Stack → Stack) : (s.modStack k f).deferred = s.deferred := rfl
@[simp] theorem State.modStack_copies (s : State) (k : Nat) (f : Stack → Stack) : (s.modStack k f).copies = s.copies := rfl
@[simp] theorem State.modStack_pendingReq (s : State) (k : Nat) (f : Stack → Stack) : (s.modStack k f).pendingReq = s.pendingReq := rfl
@[simp] theorem State.modStack_agentWaits (s : State) (k : Nat) (f : Stack → Stack) : (s.modStack k f).agentWaits = s.agentWaits := rfl
@[simp] theorem State.modStack_handled (s : State) (k : Nat) (f : Stack → Stack) : (s.modStack k f).handled = s.handled := rfl
@[simp] theorem State.modStack_msgs (s : State) (k : Nat) (f : Stack → Stack) : (s.modStack k f).msgs = s.msgs := rfl
@[simp] theorem State.modStack_slots (s : State) (k : Nat) (f : Stack → Stack) : (s.modStack k f).slots = s.slots := rfl
@[simp] theorem State.modStack_ranges (s : State) (k : Nat) (f : Stack → Stack) : (s.modStack k f).ranges = s.ranges := rfl
@[simp] theorem State.modStack_lostAgents (s : State) (k : Nat) (f : Stack → Stack) : (s.modStack k f).lostAgents = s.lostAgents := rfl
@[simp] theorem State.modStack_agentTime (s : State) (k : Nat) (f : Stack → Stack) : (s.modStack k f).agentTime = s.agentTime := rfl
@[simp] theorem State.modStack_cxlHeld (s : State) (k : Nat) (f : Stack → Stack) : (s.modStack k f).cxlHeld = s.cxlHeld := rfl
@[simp] theorem State.modStack_stageTime (s : State) (k : Nat) (f : Stack → Stack) : (s.modStack k f).stageTime = s.stageTime := rfl
@[simp] theorem State.modStack_slabTime (s : State) (k : Nat) (f : Stack → Stack) : (s.modStack k f).slabTime = s.slabTime := rfl
@[simp] theorem State.modStack_touched (s : State) (k : Nat) (f : Stack → Stack) : (s.modStack k f).touched = s.touched := rfl
@[simp] theorem State.modStack_contexts (s : State) (k : Nat) (f : Stack → Stack) : (s.modStack k f).contexts = s.contexts := rfl
@[simp] theorem State.modStack_queues (s : State) (k : Nat) (f : Stack → Stack) : (s.modStack k f).queues = s.queues := rfl
@[simp] theorem State.modStack_launches (s : State) (k : Nat) (f : Stack → Stack) : (s.modStack k f).launches = s.launches := rfl
@[simp] theorem State.modStack_pending (s : State) (k : Nat) (f : Stack → Stack) : (s.modStack k f).pending = s.pending := rfl
@[simp] theorem State.modStack_nextOrder (s : State) (k : Nat) (f : Stack → Stack) : (s.modStack k f).nextOrder = s.nextOrder := rfl
@[simp] theorem State.modStack_headUnit (s : State) (k : Nat) (f : Stack → Stack) : (s.modStack k f).headUnit = s.headUnit := rfl
@[simp] theorem State.modStack_declared (s : State) (k : Nat) (f : Stack → Stack) : (s.modStack k f).declared = s.declared := rfl
@[simp] theorem State.modStack_gangLaunches (s : State) (k : Nat) (f : Stack → Stack) : (s.modStack k f).gangLaunches = s.gangLaunches := rfl
@[simp] theorem State.modStack_reservations (s : State) (k : Nat) (f : Stack → Stack) : (s.modStack k f).reservations = s.reservations := rfl
@[simp] theorem State.modStack_pageFills (s : State) (k : Nat) (f : Stack → Stack) : (s.modStack k f).pageFills = s.pageFills := rfl
@[simp] theorem State.modStack_skippedOrs (s : State) (k : Nat) (f : Stack → Stack) : (s.modStack k f).skippedOrs = s.skippedOrs := rfl
@[simp] theorem State.modStack_sent (s : State) (k : Nat) (f : Stack → Stack) : (s.modStack k f).sent = s.sent := rfl
@[simp] theorem State.modStack_kept (s : State) (k : Nat) (f : Stack → Stack) : (s.modStack k f).kept = s.kept := rfl
@[simp] theorem State.modStack_tagFree (s : State) (k : Nat) (f : Stack → Stack) : (s.modStack k f).tagFree = s.tagFree := rfl
@[simp] theorem State.modStack_ports (s : State) (k : Nat) (f : Stack → Stack) : (s.modStack k f).ports = s.ports := rfl
@[simp] theorem State.modStack_peerDown (s : State) (k : Nat) (f : Stack → Stack) : (s.modStack k f).peerDown = s.peerDown := rfl
@[simp] theorem State.modStack_served (s : State) (k : Nat) (f : Stack → Stack) : (s.modStack k f).served = s.served := rfl
@[simp] theorem State.modStack_putQueue (s : State) (k : Nat) (f : Stack → Stack) : (s.modStack k f).putQueue = s.putQueue := rfl
@[simp] theorem State.modStack_outbox (s : State) (k : Nat) (f : Stack → Stack) : (s.modStack k f).outbox = s.outbox := rfl
@[simp] theorem State.modStack_mstatus (s : State) (k : Nat) (f : Stack → Stack) : (s.modStack k f).mstatus = s.mstatus := rfl
@[simp] theorem State.modStack_bootctl (s : State) (k : Nat) (f : Stack → Stack) : (s.modStack k f).bootctl = s.bootctl := rfl
@[simp] theorem State.modStack_q0desc (s : State) (k : Nat) (f : Stack → Stack) : (s.modStack k f).q0desc = s.q0desc := rfl
@[simp] theorem State.modStack_patchaddr (s : State) (k : Nat) (f : Stack → Stack) : (s.modStack k f).patchaddr = s.patchaddr := rfl
@[simp] theorem State.modStack_attNonce (s : State) (k : Nat) (f : Stack → Stack) : (s.modStack k f).attNonce = s.attNonce := rfl
@[simp] theorem State.modStack_attAddr (s : State) (k : Nat) (f : Stack → Stack) : (s.modStack k f).attAddr = s.attAddr := rfl
@[simp] theorem State.modStack_attBusy (s : State) (k : Nat) (f : Stack → Stack) : (s.modStack k f).attBusy = s.attBusy := rfl
@[simp] theorem State.modStack_power (s : State) (k : Nat) (f : Stack → Stack) : (s.modStack k f).power = s.power := rfl
@[simp] theorem State.modStack_therm (s : State) (k : Nat) (f : Stack → Stack) : (s.modStack k f).therm = s.therm := rfl
@[simp] theorem State.modStack_hot (s : State) (k : Nat) (f : Stack → Stack) : (s.modStack k f).hot = s.hot := rfl
@[simp] theorem State.modStack_cap8 (s : State) (k : Nat) (f : Stack → Stack) : (s.modStack k f).cap8 = s.cap8 := rfl
@[simp] theorem State.modStack_dead (s : State) (k : Nat) (f : Stack → Stack) : (s.modStack k f).dead = s.dead := rfl
@[simp] theorem State.modStack_q0block (s : State) (k : Nat) (f : Stack → Stack) : (s.modStack k f).q0block = s.q0block := rfl
@[simp] theorem State.modStack_elog (s : State) (k : Nat) (f : Stack → Stack) : (s.modStack k f).elog = s.elog := rfl
@[simp] theorem State.modStack_elogDepth (s : State) (k : Nat) (f : Stack → Stack) : (s.modStack k f).elogDepth = s.elogDepth := rfl
@[simp] theorem State.modStack_lwatch (s : State) (k : Nat) (f : Stack → Stack) : (s.modStack k f).lwatch = s.lwatch := rfl
@[simp] theorem State.modStack_saveArea (s : State) (k : Nat) (f : Stack → Stack) : (s.modStack k f).saveArea = s.saveArea := rfl
@[simp] theorem State.modStack_saveSize (s : State) (k : Nat) (f : Stack → Stack) : (s.modStack k f).saveSize = s.saveSize := rfl
@[simp] theorem State.modStack_errSeq (s : State) (k : Nat) (f : Stack → Stack) : (s.modStack k f).errSeq = s.errSeq := rfl
@[simp] theorem State.modStack_corrections (s : State) (k : Nat) (f : Stack → Stack) : (s.modStack k f).corrections = s.corrections := rfl
@[simp] theorem State.modStack_patchVersion (s : State) (k : Nat) (f : Stack → Stack) : (s.modStack k f).patchVersion = s.patchVersion := rfl
@[simp] theorem State.modStack_patchHash (s : State) (k : Nat) (f : Stack → Stack) : (s.modStack k f).patchHash = s.patchHash := rfl
@[simp] theorem State.modStack_booted (s : State) (k : Nat) (f : Stack → Stack) : (s.modStack k f).booted = s.booted := rfl
@[simp] theorem State.modStack_inputs (s : State) (k : Nat) (f : Stack → Stack) : (s.modStack k f).inputs = s.inputs := rfl
@[simp] theorem State.modStack_agenda (s : State) (k : Nat) (f : Stack → Stack) : (s.modStack k f).agenda = s.agenda := rfl
@[simp] theorem State.modStack_free (s : State) (k : Nat) (f : Stack → Stack) : (s.modStack k f).free = s.free := rfl

@[simp] theorem State.modBench_clock (s : State) (k : Nat) (f : Bench → Bench) : (s.modBench k f).clock = s.clock := rfl
@[simp] theorem State.modBench_unit (s : State) (k : Nat) (f : Bench → Bench) : (s.modBench k f).unit = s.unit := rfl
@[simp] theorem State.modBench_pkg (s : State) (k : Nat) (f : Bench → Bench) : (s.modBench k f).pkg = s.pkg := rfl
@[simp] theorem State.modBench_mem (s : State) (k : Nat) (f : Bench → Bench) : (s.modBench k f).mem = s.mem := rfl
@[simp] theorem State.modBench_tags (s : State) (k : Nat) (f : Bench → Bench) : (s.modBench k f).tags = s.tags := rfl
@[simp] theorem State.modBench_poison (s : State) (k : Nat) (f : Bench → Bench) : (s.modBench k f).poison = s.poison := rfl
@[simp] theorem State.modBench_full (s : State) (k : Nat) (f : Bench → Bench) : (s.modBench k f).full = s.full := rfl
@[simp] theorem State.modBench_filling (s : State) (k : Nat) (f : Bench → Bench) : (s.modBench k f).filling = s.filling := rfl
@[simp] theorem State.modBench_slabs (s : State) (k : Nat) (f : Bench → Bench) : (s.modBench k f).slabs = s.slabs := rfl
@[simp] theorem State.modBench_stage (s : State) (k : Nat) (f : Bench → Bench) : (s.modBench k f).stage = s.stage := rfl
@[simp] theorem State.modBench_threads (s : State) (k : Nat) (f : Bench → Bench) : (s.modBench k f).threads = s.threads := rfl
@[simp] theorem State.modBench_crews (s : State) (k : Nat) (f : Bench → Bench) : (s.modBench k f).crews = s.crews := rfl
@[simp] theorem State.modBench_remains (s : State) (k : Nat) (f : Bench → Bench) : (s.modBench k f).remains = s.remains := rfl
@[simp] theorem State.modBench_groups (s : State) (k : Nat) (f : Bench → Bench) : (s.modBench k f).groups = s.groups := rfl
@[simp] theorem State.modBench_gangs (s : State) (k : Nat) (f : Bench → Bench) : (s.modBench k f).gangs = s.gangs := rfl
@[simp] theorem State.modBench_nextGang (s : State) (k : Nat) (f : Bench → Bench) : (s.modBench k f).nextGang = s.nextGang := rfl
@[simp] theorem State.modBench_cores (s : State) (k : Nat) (f : Bench → Bench) : (s.modBench k f).cores = s.cores := rfl
@[simp] theorem State.modBench_clusters (s : State) (k : Nat) (f : Bench → Bench) : (s.modBench k f).clusters = s.clusters := rfl
@[simp] theorem State.modBench_gens (s : State) (k : Nat) (f : Bench → Bench) : (s.modBench k f).gens = s.gens := rfl
@[simp] theorem State.modBench_freed (s : State) (k : Nat) (f : Bench → Bench) : (s.modBench k f).freed = s.freed := rfl
@[simp] theorem State.modBench_nextName (s : State) (k : Nat) (f : Bench → Bench) : (s.modBench k f).nextName = s.nextName := rfl
@[simp] theorem State.modBench_sharing (s : State) (k : Nat) (f : Bench → Bench) : (s.modBench k f).sharing = s.sharing := rfl
@[simp] theorem State.modBench_turn (s : State) (k : Nat) (f : Bench → Bench) : (s.modBench k f).turn = s.turn := rfl
@[simp] theorem State.modBench_stamp (s : State) (k : Nat) (f : Bench → Bench) : (s.modBench k f).stamp = s.stamp := rfl
@[simp] theorem State.modBench_hbmStacks (s : State) (k : Nat) (f : Bench → Bench) : (s.modBench k f).hbmStacks = s.hbmStacks := rfl
@[simp] theorem State.modBench_benchLaunches (s : State) (k : Nat) (f : Bench → Bench) : (s.modBench k f).benchLaunches = s.benchLaunches := rfl
@[simp] theorem State.modBench_windows (s : State) (k : Nat) (f : Bench → Bench) : (s.modBench k f).windows = s.windows := rfl
@[simp] theorem State.modBench_writers (s : State) (k : Nat) (f : Bench → Bench) : (s.modBench k f).writers = s.writers := rfl
@[simp] theorem State.modBench_drains (s : State) (k : Nat) (f : Bench → Bench) : (s.modBench k f).drains = s.drains := rfl
@[simp] theorem State.modBench_epoch (s : State) (k : Nat) (f : Bench → Bench) : (s.modBench k f).epoch = s.epoch := rfl
@[simp] theorem State.modBench_column (s : State) (k : Nat) (f : Bench → Bench) : (s.modBench k f).column = s.column := rfl
@[simp] theorem State.modBench_dir (s : State) (k : Nat) (f : Bench → Bench) : (s.modBench k f).dir = s.dir := rfl
@[simp] theorem State.modBench_floor (s : State) (k : Nat) (f : Bench → Bench) : (s.modBench k f).floor = s.floor := rfl
@[simp] theorem State.modBench_trans (s : State) (k : Nat) (f : Bench → Bench) : (s.modBench k f).trans = s.trans := rfl
@[simp] theorem State.modBench_deferred (s : State) (k : Nat) (f : Bench → Bench) : (s.modBench k f).deferred = s.deferred := rfl
@[simp] theorem State.modBench_copies (s : State) (k : Nat) (f : Bench → Bench) : (s.modBench k f).copies = s.copies := rfl
@[simp] theorem State.modBench_pendingReq (s : State) (k : Nat) (f : Bench → Bench) : (s.modBench k f).pendingReq = s.pendingReq := rfl
@[simp] theorem State.modBench_agentWaits (s : State) (k : Nat) (f : Bench → Bench) : (s.modBench k f).agentWaits = s.agentWaits := rfl
@[simp] theorem State.modBench_handled (s : State) (k : Nat) (f : Bench → Bench) : (s.modBench k f).handled = s.handled := rfl
@[simp] theorem State.modBench_msgs (s : State) (k : Nat) (f : Bench → Bench) : (s.modBench k f).msgs = s.msgs := rfl
@[simp] theorem State.modBench_slots (s : State) (k : Nat) (f : Bench → Bench) : (s.modBench k f).slots = s.slots := rfl
@[simp] theorem State.modBench_ranges (s : State) (k : Nat) (f : Bench → Bench) : (s.modBench k f).ranges = s.ranges := rfl
@[simp] theorem State.modBench_lostAgents (s : State) (k : Nat) (f : Bench → Bench) : (s.modBench k f).lostAgents = s.lostAgents := rfl
@[simp] theorem State.modBench_agentTime (s : State) (k : Nat) (f : Bench → Bench) : (s.modBench k f).agentTime = s.agentTime := rfl
@[simp] theorem State.modBench_cxlHeld (s : State) (k : Nat) (f : Bench → Bench) : (s.modBench k f).cxlHeld = s.cxlHeld := rfl
@[simp] theorem State.modBench_stageTime (s : State) (k : Nat) (f : Bench → Bench) : (s.modBench k f).stageTime = s.stageTime := rfl
@[simp] theorem State.modBench_slabTime (s : State) (k : Nat) (f : Bench → Bench) : (s.modBench k f).slabTime = s.slabTime := rfl
@[simp] theorem State.modBench_touched (s : State) (k : Nat) (f : Bench → Bench) : (s.modBench k f).touched = s.touched := rfl
@[simp] theorem State.modBench_contexts (s : State) (k : Nat) (f : Bench → Bench) : (s.modBench k f).contexts = s.contexts := rfl
@[simp] theorem State.modBench_queues (s : State) (k : Nat) (f : Bench → Bench) : (s.modBench k f).queues = s.queues := rfl
@[simp] theorem State.modBench_launches (s : State) (k : Nat) (f : Bench → Bench) : (s.modBench k f).launches = s.launches := rfl
@[simp] theorem State.modBench_pending (s : State) (k : Nat) (f : Bench → Bench) : (s.modBench k f).pending = s.pending := rfl
@[simp] theorem State.modBench_nextOrder (s : State) (k : Nat) (f : Bench → Bench) : (s.modBench k f).nextOrder = s.nextOrder := rfl
@[simp] theorem State.modBench_headUnit (s : State) (k : Nat) (f : Bench → Bench) : (s.modBench k f).headUnit = s.headUnit := rfl
@[simp] theorem State.modBench_declared (s : State) (k : Nat) (f : Bench → Bench) : (s.modBench k f).declared = s.declared := rfl
@[simp] theorem State.modBench_gangLaunches (s : State) (k : Nat) (f : Bench → Bench) : (s.modBench k f).gangLaunches = s.gangLaunches := rfl
@[simp] theorem State.modBench_reservations (s : State) (k : Nat) (f : Bench → Bench) : (s.modBench k f).reservations = s.reservations := rfl
@[simp] theorem State.modBench_pageFills (s : State) (k : Nat) (f : Bench → Bench) : (s.modBench k f).pageFills = s.pageFills := rfl
@[simp] theorem State.modBench_skippedOrs (s : State) (k : Nat) (f : Bench → Bench) : (s.modBench k f).skippedOrs = s.skippedOrs := rfl
@[simp] theorem State.modBench_sent (s : State) (k : Nat) (f : Bench → Bench) : (s.modBench k f).sent = s.sent := rfl
@[simp] theorem State.modBench_kept (s : State) (k : Nat) (f : Bench → Bench) : (s.modBench k f).kept = s.kept := rfl
@[simp] theorem State.modBench_tagFree (s : State) (k : Nat) (f : Bench → Bench) : (s.modBench k f).tagFree = s.tagFree := rfl
@[simp] theorem State.modBench_ports (s : State) (k : Nat) (f : Bench → Bench) : (s.modBench k f).ports = s.ports := rfl
@[simp] theorem State.modBench_peerDown (s : State) (k : Nat) (f : Bench → Bench) : (s.modBench k f).peerDown = s.peerDown := rfl
@[simp] theorem State.modBench_served (s : State) (k : Nat) (f : Bench → Bench) : (s.modBench k f).served = s.served := rfl
@[simp] theorem State.modBench_putQueue (s : State) (k : Nat) (f : Bench → Bench) : (s.modBench k f).putQueue = s.putQueue := rfl
@[simp] theorem State.modBench_outbox (s : State) (k : Nat) (f : Bench → Bench) : (s.modBench k f).outbox = s.outbox := rfl
@[simp] theorem State.modBench_mstatus (s : State) (k : Nat) (f : Bench → Bench) : (s.modBench k f).mstatus = s.mstatus := rfl
@[simp] theorem State.modBench_bootctl (s : State) (k : Nat) (f : Bench → Bench) : (s.modBench k f).bootctl = s.bootctl := rfl
@[simp] theorem State.modBench_q0desc (s : State) (k : Nat) (f : Bench → Bench) : (s.modBench k f).q0desc = s.q0desc := rfl
@[simp] theorem State.modBench_patchaddr (s : State) (k : Nat) (f : Bench → Bench) : (s.modBench k f).patchaddr = s.patchaddr := rfl
@[simp] theorem State.modBench_attNonce (s : State) (k : Nat) (f : Bench → Bench) : (s.modBench k f).attNonce = s.attNonce := rfl
@[simp] theorem State.modBench_attAddr (s : State) (k : Nat) (f : Bench → Bench) : (s.modBench k f).attAddr = s.attAddr := rfl
@[simp] theorem State.modBench_attBusy (s : State) (k : Nat) (f : Bench → Bench) : (s.modBench k f).attBusy = s.attBusy := rfl
@[simp] theorem State.modBench_power (s : State) (k : Nat) (f : Bench → Bench) : (s.modBench k f).power = s.power := rfl
@[simp] theorem State.modBench_therm (s : State) (k : Nat) (f : Bench → Bench) : (s.modBench k f).therm = s.therm := rfl
@[simp] theorem State.modBench_hot (s : State) (k : Nat) (f : Bench → Bench) : (s.modBench k f).hot = s.hot := rfl
@[simp] theorem State.modBench_cap8 (s : State) (k : Nat) (f : Bench → Bench) : (s.modBench k f).cap8 = s.cap8 := rfl
@[simp] theorem State.modBench_dead (s : State) (k : Nat) (f : Bench → Bench) : (s.modBench k f).dead = s.dead := rfl
@[simp] theorem State.modBench_q0block (s : State) (k : Nat) (f : Bench → Bench) : (s.modBench k f).q0block = s.q0block := rfl
@[simp] theorem State.modBench_elog (s : State) (k : Nat) (f : Bench → Bench) : (s.modBench k f).elog = s.elog := rfl
@[simp] theorem State.modBench_elogDepth (s : State) (k : Nat) (f : Bench → Bench) : (s.modBench k f).elogDepth = s.elogDepth := rfl
@[simp] theorem State.modBench_lwatch (s : State) (k : Nat) (f : Bench → Bench) : (s.modBench k f).lwatch = s.lwatch := rfl
@[simp] theorem State.modBench_saveArea (s : State) (k : Nat) (f : Bench → Bench) : (s.modBench k f).saveArea = s.saveArea := rfl
@[simp] theorem State.modBench_saveSize (s : State) (k : Nat) (f : Bench → Bench) : (s.modBench k f).saveSize = s.saveSize := rfl
@[simp] theorem State.modBench_errSeq (s : State) (k : Nat) (f : Bench → Bench) : (s.modBench k f).errSeq = s.errSeq := rfl
@[simp] theorem State.modBench_corrections (s : State) (k : Nat) (f : Bench → Bench) : (s.modBench k f).corrections = s.corrections := rfl
@[simp] theorem State.modBench_patchVersion (s : State) (k : Nat) (f : Bench → Bench) : (s.modBench k f).patchVersion = s.patchVersion := rfl
@[simp] theorem State.modBench_patchHash (s : State) (k : Nat) (f : Bench → Bench) : (s.modBench k f).patchHash = s.patchHash := rfl
@[simp] theorem State.modBench_booted (s : State) (k : Nat) (f : Bench → Bench) : (s.modBench k f).booted = s.booted := rfl
@[simp] theorem State.modBench_inputs (s : State) (k : Nat) (f : Bench → Bench) : (s.modBench k f).inputs = s.inputs := rfl
@[simp] theorem State.modBench_agenda (s : State) (k : Nat) (f : Bench → Bench) : (s.modBench k f).agenda = s.agenda := rfl
@[simp] theorem State.modBench_free (s : State) (k : Nat) (f : Bench → Bench) : (s.modBench k f).free = s.free := rfl

@[simp] theorem State.modBenchLaunch_clock (s : State) (k : Nat) (f : BenchLaunch → BenchLaunch) : (s.modBenchLaunch k f).clock = s.clock := rfl
@[simp] theorem State.modBenchLaunch_unit (s : State) (k : Nat) (f : BenchLaunch → BenchLaunch) : (s.modBenchLaunch k f).unit = s.unit := rfl
@[simp] theorem State.modBenchLaunch_pkg (s : State) (k : Nat) (f : BenchLaunch → BenchLaunch) : (s.modBenchLaunch k f).pkg = s.pkg := rfl
@[simp] theorem State.modBenchLaunch_mem (s : State) (k : Nat) (f : BenchLaunch → BenchLaunch) : (s.modBenchLaunch k f).mem = s.mem := rfl
@[simp] theorem State.modBenchLaunch_tags (s : State) (k : Nat) (f : BenchLaunch → BenchLaunch) : (s.modBenchLaunch k f).tags = s.tags := rfl
@[simp] theorem State.modBenchLaunch_poison (s : State) (k : Nat) (f : BenchLaunch → BenchLaunch) : (s.modBenchLaunch k f).poison = s.poison := rfl
@[simp] theorem State.modBenchLaunch_full (s : State) (k : Nat) (f : BenchLaunch → BenchLaunch) : (s.modBenchLaunch k f).full = s.full := rfl
@[simp] theorem State.modBenchLaunch_filling (s : State) (k : Nat) (f : BenchLaunch → BenchLaunch) : (s.modBenchLaunch k f).filling = s.filling := rfl
@[simp] theorem State.modBenchLaunch_slabs (s : State) (k : Nat) (f : BenchLaunch → BenchLaunch) : (s.modBenchLaunch k f).slabs = s.slabs := rfl
@[simp] theorem State.modBenchLaunch_stage (s : State) (k : Nat) (f : BenchLaunch → BenchLaunch) : (s.modBenchLaunch k f).stage = s.stage := rfl
@[simp] theorem State.modBenchLaunch_threads (s : State) (k : Nat) (f : BenchLaunch → BenchLaunch) : (s.modBenchLaunch k f).threads = s.threads := rfl
@[simp] theorem State.modBenchLaunch_crews (s : State) (k : Nat) (f : BenchLaunch → BenchLaunch) : (s.modBenchLaunch k f).crews = s.crews := rfl
@[simp] theorem State.modBenchLaunch_remains (s : State) (k : Nat) (f : BenchLaunch → BenchLaunch) : (s.modBenchLaunch k f).remains = s.remains := rfl
@[simp] theorem State.modBenchLaunch_groups (s : State) (k : Nat) (f : BenchLaunch → BenchLaunch) : (s.modBenchLaunch k f).groups = s.groups := rfl
@[simp] theorem State.modBenchLaunch_gangs (s : State) (k : Nat) (f : BenchLaunch → BenchLaunch) : (s.modBenchLaunch k f).gangs = s.gangs := rfl
@[simp] theorem State.modBenchLaunch_nextGang (s : State) (k : Nat) (f : BenchLaunch → BenchLaunch) : (s.modBenchLaunch k f).nextGang = s.nextGang := rfl
@[simp] theorem State.modBenchLaunch_cores (s : State) (k : Nat) (f : BenchLaunch → BenchLaunch) : (s.modBenchLaunch k f).cores = s.cores := rfl
@[simp] theorem State.modBenchLaunch_clusters (s : State) (k : Nat) (f : BenchLaunch → BenchLaunch) : (s.modBenchLaunch k f).clusters = s.clusters := rfl
@[simp] theorem State.modBenchLaunch_gens (s : State) (k : Nat) (f : BenchLaunch → BenchLaunch) : (s.modBenchLaunch k f).gens = s.gens := rfl
@[simp] theorem State.modBenchLaunch_freed (s : State) (k : Nat) (f : BenchLaunch → BenchLaunch) : (s.modBenchLaunch k f).freed = s.freed := rfl
@[simp] theorem State.modBenchLaunch_nextName (s : State) (k : Nat) (f : BenchLaunch → BenchLaunch) : (s.modBenchLaunch k f).nextName = s.nextName := rfl
@[simp] theorem State.modBenchLaunch_sharing (s : State) (k : Nat) (f : BenchLaunch → BenchLaunch) : (s.modBenchLaunch k f).sharing = s.sharing := rfl
@[simp] theorem State.modBenchLaunch_turn (s : State) (k : Nat) (f : BenchLaunch → BenchLaunch) : (s.modBenchLaunch k f).turn = s.turn := rfl
@[simp] theorem State.modBenchLaunch_stamp (s : State) (k : Nat) (f : BenchLaunch → BenchLaunch) : (s.modBenchLaunch k f).stamp = s.stamp := rfl
@[simp] theorem State.modBenchLaunch_benches (s : State) (k : Nat) (f : BenchLaunch → BenchLaunch) : (s.modBenchLaunch k f).benches = s.benches := rfl
@[simp] theorem State.modBenchLaunch_hbmStacks (s : State) (k : Nat) (f : BenchLaunch → BenchLaunch) : (s.modBenchLaunch k f).hbmStacks = s.hbmStacks := rfl
@[simp] theorem State.modBenchLaunch_windows (s : State) (k : Nat) (f : BenchLaunch → BenchLaunch) : (s.modBenchLaunch k f).windows = s.windows := rfl
@[simp] theorem State.modBenchLaunch_writers (s : State) (k : Nat) (f : BenchLaunch → BenchLaunch) : (s.modBenchLaunch k f).writers = s.writers := rfl
@[simp] theorem State.modBenchLaunch_drains (s : State) (k : Nat) (f : BenchLaunch → BenchLaunch) : (s.modBenchLaunch k f).drains = s.drains := rfl
@[simp] theorem State.modBenchLaunch_epoch (s : State) (k : Nat) (f : BenchLaunch → BenchLaunch) : (s.modBenchLaunch k f).epoch = s.epoch := rfl
@[simp] theorem State.modBenchLaunch_column (s : State) (k : Nat) (f : BenchLaunch → BenchLaunch) : (s.modBenchLaunch k f).column = s.column := rfl
@[simp] theorem State.modBenchLaunch_dir (s : State) (k : Nat) (f : BenchLaunch → BenchLaunch) : (s.modBenchLaunch k f).dir = s.dir := rfl
@[simp] theorem State.modBenchLaunch_floor (s : State) (k : Nat) (f : BenchLaunch → BenchLaunch) : (s.modBenchLaunch k f).floor = s.floor := rfl
@[simp] theorem State.modBenchLaunch_trans (s : State) (k : Nat) (f : BenchLaunch → BenchLaunch) : (s.modBenchLaunch k f).trans = s.trans := rfl
@[simp] theorem State.modBenchLaunch_deferred (s : State) (k : Nat) (f : BenchLaunch → BenchLaunch) : (s.modBenchLaunch k f).deferred = s.deferred := rfl
@[simp] theorem State.modBenchLaunch_copies (s : State) (k : Nat) (f : BenchLaunch → BenchLaunch) : (s.modBenchLaunch k f).copies = s.copies := rfl
@[simp] theorem State.modBenchLaunch_pendingReq (s : State) (k : Nat) (f : BenchLaunch → BenchLaunch) : (s.modBenchLaunch k f).pendingReq = s.pendingReq := rfl
@[simp] theorem State.modBenchLaunch_agentWaits (s : State) (k : Nat) (f : BenchLaunch → BenchLaunch) : (s.modBenchLaunch k f).agentWaits = s.agentWaits := rfl
@[simp] theorem State.modBenchLaunch_handled (s : State) (k : Nat) (f : BenchLaunch → BenchLaunch) : (s.modBenchLaunch k f).handled = s.handled := rfl
@[simp] theorem State.modBenchLaunch_msgs (s : State) (k : Nat) (f : BenchLaunch → BenchLaunch) : (s.modBenchLaunch k f).msgs = s.msgs := rfl
@[simp] theorem State.modBenchLaunch_slots (s : State) (k : Nat) (f : BenchLaunch → BenchLaunch) : (s.modBenchLaunch k f).slots = s.slots := rfl
@[simp] theorem State.modBenchLaunch_ranges (s : State) (k : Nat) (f : BenchLaunch → BenchLaunch) : (s.modBenchLaunch k f).ranges = s.ranges := rfl
@[simp] theorem State.modBenchLaunch_lostAgents (s : State) (k : Nat) (f : BenchLaunch → BenchLaunch) : (s.modBenchLaunch k f).lostAgents = s.lostAgents := rfl
@[simp] theorem State.modBenchLaunch_agentTime (s : State) (k : Nat) (f : BenchLaunch → BenchLaunch) : (s.modBenchLaunch k f).agentTime = s.agentTime := rfl
@[simp] theorem State.modBenchLaunch_cxlHeld (s : State) (k : Nat) (f : BenchLaunch → BenchLaunch) : (s.modBenchLaunch k f).cxlHeld = s.cxlHeld := rfl
@[simp] theorem State.modBenchLaunch_stageTime (s : State) (k : Nat) (f : BenchLaunch → BenchLaunch) : (s.modBenchLaunch k f).stageTime = s.stageTime := rfl
@[simp] theorem State.modBenchLaunch_slabTime (s : State) (k : Nat) (f : BenchLaunch → BenchLaunch) : (s.modBenchLaunch k f).slabTime = s.slabTime := rfl
@[simp] theorem State.modBenchLaunch_touched (s : State) (k : Nat) (f : BenchLaunch → BenchLaunch) : (s.modBenchLaunch k f).touched = s.touched := rfl
@[simp] theorem State.modBenchLaunch_contexts (s : State) (k : Nat) (f : BenchLaunch → BenchLaunch) : (s.modBenchLaunch k f).contexts = s.contexts := rfl
@[simp] theorem State.modBenchLaunch_queues (s : State) (k : Nat) (f : BenchLaunch → BenchLaunch) : (s.modBenchLaunch k f).queues = s.queues := rfl
@[simp] theorem State.modBenchLaunch_launches (s : State) (k : Nat) (f : BenchLaunch → BenchLaunch) : (s.modBenchLaunch k f).launches = s.launches := rfl
@[simp] theorem State.modBenchLaunch_pending (s : State) (k : Nat) (f : BenchLaunch → BenchLaunch) : (s.modBenchLaunch k f).pending = s.pending := rfl
@[simp] theorem State.modBenchLaunch_nextOrder (s : State) (k : Nat) (f : BenchLaunch → BenchLaunch) : (s.modBenchLaunch k f).nextOrder = s.nextOrder := rfl
@[simp] theorem State.modBenchLaunch_headUnit (s : State) (k : Nat) (f : BenchLaunch → BenchLaunch) : (s.modBenchLaunch k f).headUnit = s.headUnit := rfl
@[simp] theorem State.modBenchLaunch_declared (s : State) (k : Nat) (f : BenchLaunch → BenchLaunch) : (s.modBenchLaunch k f).declared = s.declared := rfl
@[simp] theorem State.modBenchLaunch_gangLaunches (s : State) (k : Nat) (f : BenchLaunch → BenchLaunch) : (s.modBenchLaunch k f).gangLaunches = s.gangLaunches := rfl
@[simp] theorem State.modBenchLaunch_reservations (s : State) (k : Nat) (f : BenchLaunch → BenchLaunch) : (s.modBenchLaunch k f).reservations = s.reservations := rfl
@[simp] theorem State.modBenchLaunch_pageFills (s : State) (k : Nat) (f : BenchLaunch → BenchLaunch) : (s.modBenchLaunch k f).pageFills = s.pageFills := rfl
@[simp] theorem State.modBenchLaunch_skippedOrs (s : State) (k : Nat) (f : BenchLaunch → BenchLaunch) : (s.modBenchLaunch k f).skippedOrs = s.skippedOrs := rfl
@[simp] theorem State.modBenchLaunch_sent (s : State) (k : Nat) (f : BenchLaunch → BenchLaunch) : (s.modBenchLaunch k f).sent = s.sent := rfl
@[simp] theorem State.modBenchLaunch_kept (s : State) (k : Nat) (f : BenchLaunch → BenchLaunch) : (s.modBenchLaunch k f).kept = s.kept := rfl
@[simp] theorem State.modBenchLaunch_tagFree (s : State) (k : Nat) (f : BenchLaunch → BenchLaunch) : (s.modBenchLaunch k f).tagFree = s.tagFree := rfl
@[simp] theorem State.modBenchLaunch_ports (s : State) (k : Nat) (f : BenchLaunch → BenchLaunch) : (s.modBenchLaunch k f).ports = s.ports := rfl
@[simp] theorem State.modBenchLaunch_peerDown (s : State) (k : Nat) (f : BenchLaunch → BenchLaunch) : (s.modBenchLaunch k f).peerDown = s.peerDown := rfl
@[simp] theorem State.modBenchLaunch_served (s : State) (k : Nat) (f : BenchLaunch → BenchLaunch) : (s.modBenchLaunch k f).served = s.served := rfl
@[simp] theorem State.modBenchLaunch_putQueue (s : State) (k : Nat) (f : BenchLaunch → BenchLaunch) : (s.modBenchLaunch k f).putQueue = s.putQueue := rfl
@[simp] theorem State.modBenchLaunch_outbox (s : State) (k : Nat) (f : BenchLaunch → BenchLaunch) : (s.modBenchLaunch k f).outbox = s.outbox := rfl
@[simp] theorem State.modBenchLaunch_mstatus (s : State) (k : Nat) (f : BenchLaunch → BenchLaunch) : (s.modBenchLaunch k f).mstatus = s.mstatus := rfl
@[simp] theorem State.modBenchLaunch_bootctl (s : State) (k : Nat) (f : BenchLaunch → BenchLaunch) : (s.modBenchLaunch k f).bootctl = s.bootctl := rfl
@[simp] theorem State.modBenchLaunch_q0desc (s : State) (k : Nat) (f : BenchLaunch → BenchLaunch) : (s.modBenchLaunch k f).q0desc = s.q0desc := rfl
@[simp] theorem State.modBenchLaunch_patchaddr (s : State) (k : Nat) (f : BenchLaunch → BenchLaunch) : (s.modBenchLaunch k f).patchaddr = s.patchaddr := rfl
@[simp] theorem State.modBenchLaunch_attNonce (s : State) (k : Nat) (f : BenchLaunch → BenchLaunch) : (s.modBenchLaunch k f).attNonce = s.attNonce := rfl
@[simp] theorem State.modBenchLaunch_attAddr (s : State) (k : Nat) (f : BenchLaunch → BenchLaunch) : (s.modBenchLaunch k f).attAddr = s.attAddr := rfl
@[simp] theorem State.modBenchLaunch_attBusy (s : State) (k : Nat) (f : BenchLaunch → BenchLaunch) : (s.modBenchLaunch k f).attBusy = s.attBusy := rfl
@[simp] theorem State.modBenchLaunch_power (s : State) (k : Nat) (f : BenchLaunch → BenchLaunch) : (s.modBenchLaunch k f).power = s.power := rfl
@[simp] theorem State.modBenchLaunch_therm (s : State) (k : Nat) (f : BenchLaunch → BenchLaunch) : (s.modBenchLaunch k f).therm = s.therm := rfl
@[simp] theorem State.modBenchLaunch_hot (s : State) (k : Nat) (f : BenchLaunch → BenchLaunch) : (s.modBenchLaunch k f).hot = s.hot := rfl
@[simp] theorem State.modBenchLaunch_cap8 (s : State) (k : Nat) (f : BenchLaunch → BenchLaunch) : (s.modBenchLaunch k f).cap8 = s.cap8 := rfl
@[simp] theorem State.modBenchLaunch_dead (s : State) (k : Nat) (f : BenchLaunch → BenchLaunch) : (s.modBenchLaunch k f).dead = s.dead := rfl
@[simp] theorem State.modBenchLaunch_q0block (s : State) (k : Nat) (f : BenchLaunch → BenchLaunch) : (s.modBenchLaunch k f).q0block = s.q0block := rfl
@[simp] theorem State.modBenchLaunch_elog (s : State) (k : Nat) (f : BenchLaunch → BenchLaunch) : (s.modBenchLaunch k f).elog = s.elog := rfl
@[simp] theorem State.modBenchLaunch_elogDepth (s : State) (k : Nat) (f : BenchLaunch → BenchLaunch) : (s.modBenchLaunch k f).elogDepth = s.elogDepth := rfl
@[simp] theorem State.modBenchLaunch_lwatch (s : State) (k : Nat) (f : BenchLaunch → BenchLaunch) : (s.modBenchLaunch k f).lwatch = s.lwatch := rfl
@[simp] theorem State.modBenchLaunch_saveArea (s : State) (k : Nat) (f : BenchLaunch → BenchLaunch) : (s.modBenchLaunch k f).saveArea = s.saveArea := rfl
@[simp] theorem State.modBenchLaunch_saveSize (s : State) (k : Nat) (f : BenchLaunch → BenchLaunch) : (s.modBenchLaunch k f).saveSize = s.saveSize := rfl
@[simp] theorem State.modBenchLaunch_errSeq (s : State) (k : Nat) (f : BenchLaunch → BenchLaunch) : (s.modBenchLaunch k f).errSeq = s.errSeq := rfl
@[simp] theorem State.modBenchLaunch_corrections (s : State) (k : Nat) (f : BenchLaunch → BenchLaunch) : (s.modBenchLaunch k f).corrections = s.corrections := rfl
@[simp] theorem State.modBenchLaunch_patchVersion (s : State) (k : Nat) (f : BenchLaunch → BenchLaunch) : (s.modBenchLaunch k f).patchVersion = s.patchVersion := rfl
@[simp] theorem State.modBenchLaunch_patchHash (s : State) (k : Nat) (f : BenchLaunch → BenchLaunch) : (s.modBenchLaunch k f).patchHash = s.patchHash := rfl
@[simp] theorem State.modBenchLaunch_booted (s : State) (k : Nat) (f : BenchLaunch → BenchLaunch) : (s.modBenchLaunch k f).booted = s.booted := rfl
@[simp] theorem State.modBenchLaunch_inputs (s : State) (k : Nat) (f : BenchLaunch → BenchLaunch) : (s.modBenchLaunch k f).inputs = s.inputs := rfl
@[simp] theorem State.modBenchLaunch_agenda (s : State) (k : Nat) (f : BenchLaunch → BenchLaunch) : (s.modBenchLaunch k f).agenda = s.agenda := rfl
@[simp] theorem State.modBenchLaunch_free (s : State) (k : Nat) (f : BenchLaunch → BenchLaunch) : (s.modBenchLaunch k f).free = s.free := rfl

@[simp] theorem State.modWindow_clock (s : State) (k : Nat) (f : Window → Window) : (s.modWindow k f).clock = s.clock := rfl
@[simp] theorem State.modWindow_unit (s : State) (k : Nat) (f : Window → Window) : (s.modWindow k f).unit = s.unit := rfl
@[simp] theorem State.modWindow_pkg (s : State) (k : Nat) (f : Window → Window) : (s.modWindow k f).pkg = s.pkg := rfl
@[simp] theorem State.modWindow_mem (s : State) (k : Nat) (f : Window → Window) : (s.modWindow k f).mem = s.mem := rfl
@[simp] theorem State.modWindow_tags (s : State) (k : Nat) (f : Window → Window) : (s.modWindow k f).tags = s.tags := rfl
@[simp] theorem State.modWindow_poison (s : State) (k : Nat) (f : Window → Window) : (s.modWindow k f).poison = s.poison := rfl
@[simp] theorem State.modWindow_full (s : State) (k : Nat) (f : Window → Window) : (s.modWindow k f).full = s.full := rfl
@[simp] theorem State.modWindow_filling (s : State) (k : Nat) (f : Window → Window) : (s.modWindow k f).filling = s.filling := rfl
@[simp] theorem State.modWindow_slabs (s : State) (k : Nat) (f : Window → Window) : (s.modWindow k f).slabs = s.slabs := rfl
@[simp] theorem State.modWindow_stage (s : State) (k : Nat) (f : Window → Window) : (s.modWindow k f).stage = s.stage := rfl
@[simp] theorem State.modWindow_threads (s : State) (k : Nat) (f : Window → Window) : (s.modWindow k f).threads = s.threads := rfl
@[simp] theorem State.modWindow_crews (s : State) (k : Nat) (f : Window → Window) : (s.modWindow k f).crews = s.crews := rfl
@[simp] theorem State.modWindow_remains (s : State) (k : Nat) (f : Window → Window) : (s.modWindow k f).remains = s.remains := rfl
@[simp] theorem State.modWindow_groups (s : State) (k : Nat) (f : Window → Window) : (s.modWindow k f).groups = s.groups := rfl
@[simp] theorem State.modWindow_gangs (s : State) (k : Nat) (f : Window → Window) : (s.modWindow k f).gangs = s.gangs := rfl
@[simp] theorem State.modWindow_nextGang (s : State) (k : Nat) (f : Window → Window) : (s.modWindow k f).nextGang = s.nextGang := rfl
@[simp] theorem State.modWindow_cores (s : State) (k : Nat) (f : Window → Window) : (s.modWindow k f).cores = s.cores := rfl
@[simp] theorem State.modWindow_clusters (s : State) (k : Nat) (f : Window → Window) : (s.modWindow k f).clusters = s.clusters := rfl
@[simp] theorem State.modWindow_gens (s : State) (k : Nat) (f : Window → Window) : (s.modWindow k f).gens = s.gens := rfl
@[simp] theorem State.modWindow_freed (s : State) (k : Nat) (f : Window → Window) : (s.modWindow k f).freed = s.freed := rfl
@[simp] theorem State.modWindow_nextName (s : State) (k : Nat) (f : Window → Window) : (s.modWindow k f).nextName = s.nextName := rfl
@[simp] theorem State.modWindow_sharing (s : State) (k : Nat) (f : Window → Window) : (s.modWindow k f).sharing = s.sharing := rfl
@[simp] theorem State.modWindow_turn (s : State) (k : Nat) (f : Window → Window) : (s.modWindow k f).turn = s.turn := rfl
@[simp] theorem State.modWindow_stamp (s : State) (k : Nat) (f : Window → Window) : (s.modWindow k f).stamp = s.stamp := rfl
@[simp] theorem State.modWindow_benches (s : State) (k : Nat) (f : Window → Window) : (s.modWindow k f).benches = s.benches := rfl
@[simp] theorem State.modWindow_hbmStacks (s : State) (k : Nat) (f : Window → Window) : (s.modWindow k f).hbmStacks = s.hbmStacks := rfl
@[simp] theorem State.modWindow_benchLaunches (s : State) (k : Nat) (f : Window → Window) : (s.modWindow k f).benchLaunches = s.benchLaunches := rfl
@[simp] theorem State.modWindow_writers (s : State) (k : Nat) (f : Window → Window) : (s.modWindow k f).writers = s.writers := rfl
@[simp] theorem State.modWindow_drains (s : State) (k : Nat) (f : Window → Window) : (s.modWindow k f).drains = s.drains := rfl
@[simp] theorem State.modWindow_epoch (s : State) (k : Nat) (f : Window → Window) : (s.modWindow k f).epoch = s.epoch := rfl
@[simp] theorem State.modWindow_column (s : State) (k : Nat) (f : Window → Window) : (s.modWindow k f).column = s.column := rfl
@[simp] theorem State.modWindow_dir (s : State) (k : Nat) (f : Window → Window) : (s.modWindow k f).dir = s.dir := rfl
@[simp] theorem State.modWindow_floor (s : State) (k : Nat) (f : Window → Window) : (s.modWindow k f).floor = s.floor := rfl
@[simp] theorem State.modWindow_trans (s : State) (k : Nat) (f : Window → Window) : (s.modWindow k f).trans = s.trans := rfl
@[simp] theorem State.modWindow_deferred (s : State) (k : Nat) (f : Window → Window) : (s.modWindow k f).deferred = s.deferred := rfl
@[simp] theorem State.modWindow_copies (s : State) (k : Nat) (f : Window → Window) : (s.modWindow k f).copies = s.copies := rfl
@[simp] theorem State.modWindow_pendingReq (s : State) (k : Nat) (f : Window → Window) : (s.modWindow k f).pendingReq = s.pendingReq := rfl
@[simp] theorem State.modWindow_agentWaits (s : State) (k : Nat) (f : Window → Window) : (s.modWindow k f).agentWaits = s.agentWaits := rfl
@[simp] theorem State.modWindow_handled (s : State) (k : Nat) (f : Window → Window) : (s.modWindow k f).handled = s.handled := rfl
@[simp] theorem State.modWindow_msgs (s : State) (k : Nat) (f : Window → Window) : (s.modWindow k f).msgs = s.msgs := rfl
@[simp] theorem State.modWindow_slots (s : State) (k : Nat) (f : Window → Window) : (s.modWindow k f).slots = s.slots := rfl
@[simp] theorem State.modWindow_ranges (s : State) (k : Nat) (f : Window → Window) : (s.modWindow k f).ranges = s.ranges := rfl
@[simp] theorem State.modWindow_lostAgents (s : State) (k : Nat) (f : Window → Window) : (s.modWindow k f).lostAgents = s.lostAgents := rfl
@[simp] theorem State.modWindow_agentTime (s : State) (k : Nat) (f : Window → Window) : (s.modWindow k f).agentTime = s.agentTime := rfl
@[simp] theorem State.modWindow_cxlHeld (s : State) (k : Nat) (f : Window → Window) : (s.modWindow k f).cxlHeld = s.cxlHeld := rfl
@[simp] theorem State.modWindow_stageTime (s : State) (k : Nat) (f : Window → Window) : (s.modWindow k f).stageTime = s.stageTime := rfl
@[simp] theorem State.modWindow_slabTime (s : State) (k : Nat) (f : Window → Window) : (s.modWindow k f).slabTime = s.slabTime := rfl
@[simp] theorem State.modWindow_touched (s : State) (k : Nat) (f : Window → Window) : (s.modWindow k f).touched = s.touched := rfl
@[simp] theorem State.modWindow_contexts (s : State) (k : Nat) (f : Window → Window) : (s.modWindow k f).contexts = s.contexts := rfl
@[simp] theorem State.modWindow_queues (s : State) (k : Nat) (f : Window → Window) : (s.modWindow k f).queues = s.queues := rfl
@[simp] theorem State.modWindow_launches (s : State) (k : Nat) (f : Window → Window) : (s.modWindow k f).launches = s.launches := rfl
@[simp] theorem State.modWindow_pending (s : State) (k : Nat) (f : Window → Window) : (s.modWindow k f).pending = s.pending := rfl
@[simp] theorem State.modWindow_nextOrder (s : State) (k : Nat) (f : Window → Window) : (s.modWindow k f).nextOrder = s.nextOrder := rfl
@[simp] theorem State.modWindow_headUnit (s : State) (k : Nat) (f : Window → Window) : (s.modWindow k f).headUnit = s.headUnit := rfl
@[simp] theorem State.modWindow_declared (s : State) (k : Nat) (f : Window → Window) : (s.modWindow k f).declared = s.declared := rfl
@[simp] theorem State.modWindow_gangLaunches (s : State) (k : Nat) (f : Window → Window) : (s.modWindow k f).gangLaunches = s.gangLaunches := rfl
@[simp] theorem State.modWindow_reservations (s : State) (k : Nat) (f : Window → Window) : (s.modWindow k f).reservations = s.reservations := rfl
@[simp] theorem State.modWindow_pageFills (s : State) (k : Nat) (f : Window → Window) : (s.modWindow k f).pageFills = s.pageFills := rfl
@[simp] theorem State.modWindow_skippedOrs (s : State) (k : Nat) (f : Window → Window) : (s.modWindow k f).skippedOrs = s.skippedOrs := rfl
@[simp] theorem State.modWindow_sent (s : State) (k : Nat) (f : Window → Window) : (s.modWindow k f).sent = s.sent := rfl
@[simp] theorem State.modWindow_kept (s : State) (k : Nat) (f : Window → Window) : (s.modWindow k f).kept = s.kept := rfl
@[simp] theorem State.modWindow_tagFree (s : State) (k : Nat) (f : Window → Window) : (s.modWindow k f).tagFree = s.tagFree := rfl
@[simp] theorem State.modWindow_ports (s : State) (k : Nat) (f : Window → Window) : (s.modWindow k f).ports = s.ports := rfl
@[simp] theorem State.modWindow_peerDown (s : State) (k : Nat) (f : Window → Window) : (s.modWindow k f).peerDown = s.peerDown := rfl
@[simp] theorem State.modWindow_served (s : State) (k : Nat) (f : Window → Window) : (s.modWindow k f).served = s.served := rfl
@[simp] theorem State.modWindow_putQueue (s : State) (k : Nat) (f : Window → Window) : (s.modWindow k f).putQueue = s.putQueue := rfl
@[simp] theorem State.modWindow_outbox (s : State) (k : Nat) (f : Window → Window) : (s.modWindow k f).outbox = s.outbox := rfl
@[simp] theorem State.modWindow_mstatus (s : State) (k : Nat) (f : Window → Window) : (s.modWindow k f).mstatus = s.mstatus := rfl
@[simp] theorem State.modWindow_bootctl (s : State) (k : Nat) (f : Window → Window) : (s.modWindow k f).bootctl = s.bootctl := rfl
@[simp] theorem State.modWindow_q0desc (s : State) (k : Nat) (f : Window → Window) : (s.modWindow k f).q0desc = s.q0desc := rfl
@[simp] theorem State.modWindow_patchaddr (s : State) (k : Nat) (f : Window → Window) : (s.modWindow k f).patchaddr = s.patchaddr := rfl
@[simp] theorem State.modWindow_attNonce (s : State) (k : Nat) (f : Window → Window) : (s.modWindow k f).attNonce = s.attNonce := rfl
@[simp] theorem State.modWindow_attAddr (s : State) (k : Nat) (f : Window → Window) : (s.modWindow k f).attAddr = s.attAddr := rfl
@[simp] theorem State.modWindow_attBusy (s : State) (k : Nat) (f : Window → Window) : (s.modWindow k f).attBusy = s.attBusy := rfl
@[simp] theorem State.modWindow_power (s : State) (k : Nat) (f : Window → Window) : (s.modWindow k f).power = s.power := rfl
@[simp] theorem State.modWindow_therm (s : State) (k : Nat) (f : Window → Window) : (s.modWindow k f).therm = s.therm := rfl
@[simp] theorem State.modWindow_hot (s : State) (k : Nat) (f : Window → Window) : (s.modWindow k f).hot = s.hot := rfl
@[simp] theorem State.modWindow_cap8 (s : State) (k : Nat) (f : Window → Window) : (s.modWindow k f).cap8 = s.cap8 := rfl
@[simp] theorem State.modWindow_dead (s : State) (k : Nat) (f : Window → Window) : (s.modWindow k f).dead = s.dead := rfl
@[simp] theorem State.modWindow_q0block (s : State) (k : Nat) (f : Window → Window) : (s.modWindow k f).q0block = s.q0block := rfl
@[simp] theorem State.modWindow_elog (s : State) (k : Nat) (f : Window → Window) : (s.modWindow k f).elog = s.elog := rfl
@[simp] theorem State.modWindow_elogDepth (s : State) (k : Nat) (f : Window → Window) : (s.modWindow k f).elogDepth = s.elogDepth := rfl
@[simp] theorem State.modWindow_lwatch (s : State) (k : Nat) (f : Window → Window) : (s.modWindow k f).lwatch = s.lwatch := rfl
@[simp] theorem State.modWindow_saveArea (s : State) (k : Nat) (f : Window → Window) : (s.modWindow k f).saveArea = s.saveArea := rfl
@[simp] theorem State.modWindow_saveSize (s : State) (k : Nat) (f : Window → Window) : (s.modWindow k f).saveSize = s.saveSize := rfl
@[simp] theorem State.modWindow_errSeq (s : State) (k : Nat) (f : Window → Window) : (s.modWindow k f).errSeq = s.errSeq := rfl
@[simp] theorem State.modWindow_corrections (s : State) (k : Nat) (f : Window → Window) : (s.modWindow k f).corrections = s.corrections := rfl
@[simp] theorem State.modWindow_patchVersion (s : State) (k : Nat) (f : Window → Window) : (s.modWindow k f).patchVersion = s.patchVersion := rfl
@[simp] theorem State.modWindow_patchHash (s : State) (k : Nat) (f : Window → Window) : (s.modWindow k f).patchHash = s.patchHash := rfl
@[simp] theorem State.modWindow_booted (s : State) (k : Nat) (f : Window → Window) : (s.modWindow k f).booted = s.booted := rfl
@[simp] theorem State.modWindow_inputs (s : State) (k : Nat) (f : Window → Window) : (s.modWindow k f).inputs = s.inputs := rfl
@[simp] theorem State.modWindow_agenda (s : State) (k : Nat) (f : Window → Window) : (s.modWindow k f).agenda = s.agenda := rfl
@[simp] theorem State.modWindow_free (s : State) (k : Nat) (f : Window → Window) : (s.modWindow k f).free = s.free := rfl

@[simp] theorem State.modLaunch_clock (s : State) (k : Nat) (f : Launch → Launch) : (s.modLaunch k f).clock = s.clock := rfl
@[simp] theorem State.modLaunch_unit (s : State) (k : Nat) (f : Launch → Launch) : (s.modLaunch k f).unit = s.unit := rfl
@[simp] theorem State.modLaunch_pkg (s : State) (k : Nat) (f : Launch → Launch) : (s.modLaunch k f).pkg = s.pkg := rfl
@[simp] theorem State.modLaunch_mem (s : State) (k : Nat) (f : Launch → Launch) : (s.modLaunch k f).mem = s.mem := rfl
@[simp] theorem State.modLaunch_tags (s : State) (k : Nat) (f : Launch → Launch) : (s.modLaunch k f).tags = s.tags := rfl
@[simp] theorem State.modLaunch_poison (s : State) (k : Nat) (f : Launch → Launch) : (s.modLaunch k f).poison = s.poison := rfl
@[simp] theorem State.modLaunch_full (s : State) (k : Nat) (f : Launch → Launch) : (s.modLaunch k f).full = s.full := rfl
@[simp] theorem State.modLaunch_filling (s : State) (k : Nat) (f : Launch → Launch) : (s.modLaunch k f).filling = s.filling := rfl
@[simp] theorem State.modLaunch_slabs (s : State) (k : Nat) (f : Launch → Launch) : (s.modLaunch k f).slabs = s.slabs := rfl
@[simp] theorem State.modLaunch_stage (s : State) (k : Nat) (f : Launch → Launch) : (s.modLaunch k f).stage = s.stage := rfl
@[simp] theorem State.modLaunch_threads (s : State) (k : Nat) (f : Launch → Launch) : (s.modLaunch k f).threads = s.threads := rfl
@[simp] theorem State.modLaunch_crews (s : State) (k : Nat) (f : Launch → Launch) : (s.modLaunch k f).crews = s.crews := rfl
@[simp] theorem State.modLaunch_remains (s : State) (k : Nat) (f : Launch → Launch) : (s.modLaunch k f).remains = s.remains := rfl
@[simp] theorem State.modLaunch_groups (s : State) (k : Nat) (f : Launch → Launch) : (s.modLaunch k f).groups = s.groups := rfl
@[simp] theorem State.modLaunch_gangs (s : State) (k : Nat) (f : Launch → Launch) : (s.modLaunch k f).gangs = s.gangs := rfl
@[simp] theorem State.modLaunch_nextGang (s : State) (k : Nat) (f : Launch → Launch) : (s.modLaunch k f).nextGang = s.nextGang := rfl
@[simp] theorem State.modLaunch_cores (s : State) (k : Nat) (f : Launch → Launch) : (s.modLaunch k f).cores = s.cores := rfl
@[simp] theorem State.modLaunch_clusters (s : State) (k : Nat) (f : Launch → Launch) : (s.modLaunch k f).clusters = s.clusters := rfl
@[simp] theorem State.modLaunch_gens (s : State) (k : Nat) (f : Launch → Launch) : (s.modLaunch k f).gens = s.gens := rfl
@[simp] theorem State.modLaunch_freed (s : State) (k : Nat) (f : Launch → Launch) : (s.modLaunch k f).freed = s.freed := rfl
@[simp] theorem State.modLaunch_nextName (s : State) (k : Nat) (f : Launch → Launch) : (s.modLaunch k f).nextName = s.nextName := rfl
@[simp] theorem State.modLaunch_sharing (s : State) (k : Nat) (f : Launch → Launch) : (s.modLaunch k f).sharing = s.sharing := rfl
@[simp] theorem State.modLaunch_turn (s : State) (k : Nat) (f : Launch → Launch) : (s.modLaunch k f).turn = s.turn := rfl
@[simp] theorem State.modLaunch_stamp (s : State) (k : Nat) (f : Launch → Launch) : (s.modLaunch k f).stamp = s.stamp := rfl
@[simp] theorem State.modLaunch_benches (s : State) (k : Nat) (f : Launch → Launch) : (s.modLaunch k f).benches = s.benches := rfl
@[simp] theorem State.modLaunch_hbmStacks (s : State) (k : Nat) (f : Launch → Launch) : (s.modLaunch k f).hbmStacks = s.hbmStacks := rfl
@[simp] theorem State.modLaunch_benchLaunches (s : State) (k : Nat) (f : Launch → Launch) : (s.modLaunch k f).benchLaunches = s.benchLaunches := rfl
@[simp] theorem State.modLaunch_windows (s : State) (k : Nat) (f : Launch → Launch) : (s.modLaunch k f).windows = s.windows := rfl
@[simp] theorem State.modLaunch_writers (s : State) (k : Nat) (f : Launch → Launch) : (s.modLaunch k f).writers = s.writers := rfl
@[simp] theorem State.modLaunch_drains (s : State) (k : Nat) (f : Launch → Launch) : (s.modLaunch k f).drains = s.drains := rfl
@[simp] theorem State.modLaunch_epoch (s : State) (k : Nat) (f : Launch → Launch) : (s.modLaunch k f).epoch = s.epoch := rfl
@[simp] theorem State.modLaunch_column (s : State) (k : Nat) (f : Launch → Launch) : (s.modLaunch k f).column = s.column := rfl
@[simp] theorem State.modLaunch_dir (s : State) (k : Nat) (f : Launch → Launch) : (s.modLaunch k f).dir = s.dir := rfl
@[simp] theorem State.modLaunch_floor (s : State) (k : Nat) (f : Launch → Launch) : (s.modLaunch k f).floor = s.floor := rfl
@[simp] theorem State.modLaunch_trans (s : State) (k : Nat) (f : Launch → Launch) : (s.modLaunch k f).trans = s.trans := rfl
@[simp] theorem State.modLaunch_deferred (s : State) (k : Nat) (f : Launch → Launch) : (s.modLaunch k f).deferred = s.deferred := rfl
@[simp] theorem State.modLaunch_copies (s : State) (k : Nat) (f : Launch → Launch) : (s.modLaunch k f).copies = s.copies := rfl
@[simp] theorem State.modLaunch_pendingReq (s : State) (k : Nat) (f : Launch → Launch) : (s.modLaunch k f).pendingReq = s.pendingReq := rfl
@[simp] theorem State.modLaunch_agentWaits (s : State) (k : Nat) (f : Launch → Launch) : (s.modLaunch k f).agentWaits = s.agentWaits := rfl
@[simp] theorem State.modLaunch_handled (s : State) (k : Nat) (f : Launch → Launch) : (s.modLaunch k f).handled = s.handled := rfl
@[simp] theorem State.modLaunch_msgs (s : State) (k : Nat) (f : Launch → Launch) : (s.modLaunch k f).msgs = s.msgs := rfl
@[simp] theorem State.modLaunch_slots (s : State) (k : Nat) (f : Launch → Launch) : (s.modLaunch k f).slots = s.slots := rfl
@[simp] theorem State.modLaunch_ranges (s : State) (k : Nat) (f : Launch → Launch) : (s.modLaunch k f).ranges = s.ranges := rfl
@[simp] theorem State.modLaunch_lostAgents (s : State) (k : Nat) (f : Launch → Launch) : (s.modLaunch k f).lostAgents = s.lostAgents := rfl
@[simp] theorem State.modLaunch_agentTime (s : State) (k : Nat) (f : Launch → Launch) : (s.modLaunch k f).agentTime = s.agentTime := rfl
@[simp] theorem State.modLaunch_cxlHeld (s : State) (k : Nat) (f : Launch → Launch) : (s.modLaunch k f).cxlHeld = s.cxlHeld := rfl
@[simp] theorem State.modLaunch_stageTime (s : State) (k : Nat) (f : Launch → Launch) : (s.modLaunch k f).stageTime = s.stageTime := rfl
@[simp] theorem State.modLaunch_slabTime (s : State) (k : Nat) (f : Launch → Launch) : (s.modLaunch k f).slabTime = s.slabTime := rfl
@[simp] theorem State.modLaunch_touched (s : State) (k : Nat) (f : Launch → Launch) : (s.modLaunch k f).touched = s.touched := rfl
@[simp] theorem State.modLaunch_contexts (s : State) (k : Nat) (f : Launch → Launch) : (s.modLaunch k f).contexts = s.contexts := rfl
@[simp] theorem State.modLaunch_queues (s : State) (k : Nat) (f : Launch → Launch) : (s.modLaunch k f).queues = s.queues := rfl
@[simp] theorem State.modLaunch_pending (s : State) (k : Nat) (f : Launch → Launch) : (s.modLaunch k f).pending = s.pending := rfl
@[simp] theorem State.modLaunch_nextOrder (s : State) (k : Nat) (f : Launch → Launch) : (s.modLaunch k f).nextOrder = s.nextOrder := rfl
@[simp] theorem State.modLaunch_headUnit (s : State) (k : Nat) (f : Launch → Launch) : (s.modLaunch k f).headUnit = s.headUnit := rfl
@[simp] theorem State.modLaunch_declared (s : State) (k : Nat) (f : Launch → Launch) : (s.modLaunch k f).declared = s.declared := rfl
@[simp] theorem State.modLaunch_gangLaunches (s : State) (k : Nat) (f : Launch → Launch) : (s.modLaunch k f).gangLaunches = s.gangLaunches := rfl
@[simp] theorem State.modLaunch_reservations (s : State) (k : Nat) (f : Launch → Launch) : (s.modLaunch k f).reservations = s.reservations := rfl
@[simp] theorem State.modLaunch_pageFills (s : State) (k : Nat) (f : Launch → Launch) : (s.modLaunch k f).pageFills = s.pageFills := rfl
@[simp] theorem State.modLaunch_skippedOrs (s : State) (k : Nat) (f : Launch → Launch) : (s.modLaunch k f).skippedOrs = s.skippedOrs := rfl
@[simp] theorem State.modLaunch_sent (s : State) (k : Nat) (f : Launch → Launch) : (s.modLaunch k f).sent = s.sent := rfl
@[simp] theorem State.modLaunch_kept (s : State) (k : Nat) (f : Launch → Launch) : (s.modLaunch k f).kept = s.kept := rfl
@[simp] theorem State.modLaunch_tagFree (s : State) (k : Nat) (f : Launch → Launch) : (s.modLaunch k f).tagFree = s.tagFree := rfl
@[simp] theorem State.modLaunch_ports (s : State) (k : Nat) (f : Launch → Launch) : (s.modLaunch k f).ports = s.ports := rfl
@[simp] theorem State.modLaunch_peerDown (s : State) (k : Nat) (f : Launch → Launch) : (s.modLaunch k f).peerDown = s.peerDown := rfl
@[simp] theorem State.modLaunch_served (s : State) (k : Nat) (f : Launch → Launch) : (s.modLaunch k f).served = s.served := rfl
@[simp] theorem State.modLaunch_putQueue (s : State) (k : Nat) (f : Launch → Launch) : (s.modLaunch k f).putQueue = s.putQueue := rfl
@[simp] theorem State.modLaunch_outbox (s : State) (k : Nat) (f : Launch → Launch) : (s.modLaunch k f).outbox = s.outbox := rfl
@[simp] theorem State.modLaunch_mstatus (s : State) (k : Nat) (f : Launch → Launch) : (s.modLaunch k f).mstatus = s.mstatus := rfl
@[simp] theorem State.modLaunch_bootctl (s : State) (k : Nat) (f : Launch → Launch) : (s.modLaunch k f).bootctl = s.bootctl := rfl
@[simp] theorem State.modLaunch_q0desc (s : State) (k : Nat) (f : Launch → Launch) : (s.modLaunch k f).q0desc = s.q0desc := rfl
@[simp] theorem State.modLaunch_patchaddr (s : State) (k : Nat) (f : Launch → Launch) : (s.modLaunch k f).patchaddr = s.patchaddr := rfl
@[simp] theorem State.modLaunch_attNonce (s : State) (k : Nat) (f : Launch → Launch) : (s.modLaunch k f).attNonce = s.attNonce := rfl
@[simp] theorem State.modLaunch_attAddr (s : State) (k : Nat) (f : Launch → Launch) : (s.modLaunch k f).attAddr = s.attAddr := rfl
@[simp] theorem State.modLaunch_attBusy (s : State) (k : Nat) (f : Launch → Launch) : (s.modLaunch k f).attBusy = s.attBusy := rfl
@[simp] theorem State.modLaunch_power (s : State) (k : Nat) (f : Launch → Launch) : (s.modLaunch k f).power = s.power := rfl
@[simp] theorem State.modLaunch_therm (s : State) (k : Nat) (f : Launch → Launch) : (s.modLaunch k f).therm = s.therm := rfl
@[simp] theorem State.modLaunch_hot (s : State) (k : Nat) (f : Launch → Launch) : (s.modLaunch k f).hot = s.hot := rfl
@[simp] theorem State.modLaunch_cap8 (s : State) (k : Nat) (f : Launch → Launch) : (s.modLaunch k f).cap8 = s.cap8 := rfl
@[simp] theorem State.modLaunch_dead (s : State) (k : Nat) (f : Launch → Launch) : (s.modLaunch k f).dead = s.dead := rfl
@[simp] theorem State.modLaunch_q0block (s : State) (k : Nat) (f : Launch → Launch) : (s.modLaunch k f).q0block = s.q0block := rfl
@[simp] theorem State.modLaunch_elog (s : State) (k : Nat) (f : Launch → Launch) : (s.modLaunch k f).elog = s.elog := rfl
@[simp] theorem State.modLaunch_elogDepth (s : State) (k : Nat) (f : Launch → Launch) : (s.modLaunch k f).elogDepth = s.elogDepth := rfl
@[simp] theorem State.modLaunch_lwatch (s : State) (k : Nat) (f : Launch → Launch) : (s.modLaunch k f).lwatch = s.lwatch := rfl
@[simp] theorem State.modLaunch_saveArea (s : State) (k : Nat) (f : Launch → Launch) : (s.modLaunch k f).saveArea = s.saveArea := rfl
@[simp] theorem State.modLaunch_saveSize (s : State) (k : Nat) (f : Launch → Launch) : (s.modLaunch k f).saveSize = s.saveSize := rfl
@[simp] theorem State.modLaunch_errSeq (s : State) (k : Nat) (f : Launch → Launch) : (s.modLaunch k f).errSeq = s.errSeq := rfl
@[simp] theorem State.modLaunch_corrections (s : State) (k : Nat) (f : Launch → Launch) : (s.modLaunch k f).corrections = s.corrections := rfl
@[simp] theorem State.modLaunch_patchVersion (s : State) (k : Nat) (f : Launch → Launch) : (s.modLaunch k f).patchVersion = s.patchVersion := rfl
@[simp] theorem State.modLaunch_patchHash (s : State) (k : Nat) (f : Launch → Launch) : (s.modLaunch k f).patchHash = s.patchHash := rfl
@[simp] theorem State.modLaunch_booted (s : State) (k : Nat) (f : Launch → Launch) : (s.modLaunch k f).booted = s.booted := rfl
@[simp] theorem State.modLaunch_inputs (s : State) (k : Nat) (f : Launch → Launch) : (s.modLaunch k f).inputs = s.inputs := rfl
@[simp] theorem State.modLaunch_agenda (s : State) (k : Nat) (f : Launch → Launch) : (s.modLaunch k f).agenda = s.agenda := rfl
@[simp] theorem State.modLaunch_free (s : State) (k : Nat) (f : Launch → Launch) : (s.modLaunch k f).free = s.free := rfl

@[simp] theorem State.modQueue_clock (s : State) (k : Nat) (f : Queue → Queue) : (s.modQueue k f).clock = s.clock := rfl
@[simp] theorem State.modQueue_unit (s : State) (k : Nat) (f : Queue → Queue) : (s.modQueue k f).unit = s.unit := rfl
@[simp] theorem State.modQueue_pkg (s : State) (k : Nat) (f : Queue → Queue) : (s.modQueue k f).pkg = s.pkg := rfl
@[simp] theorem State.modQueue_mem (s : State) (k : Nat) (f : Queue → Queue) : (s.modQueue k f).mem = s.mem := rfl
@[simp] theorem State.modQueue_tags (s : State) (k : Nat) (f : Queue → Queue) : (s.modQueue k f).tags = s.tags := rfl
@[simp] theorem State.modQueue_poison (s : State) (k : Nat) (f : Queue → Queue) : (s.modQueue k f).poison = s.poison := rfl
@[simp] theorem State.modQueue_full (s : State) (k : Nat) (f : Queue → Queue) : (s.modQueue k f).full = s.full := rfl
@[simp] theorem State.modQueue_filling (s : State) (k : Nat) (f : Queue → Queue) : (s.modQueue k f).filling = s.filling := rfl
@[simp] theorem State.modQueue_slabs (s : State) (k : Nat) (f : Queue → Queue) : (s.modQueue k f).slabs = s.slabs := rfl
@[simp] theorem State.modQueue_stage (s : State) (k : Nat) (f : Queue → Queue) : (s.modQueue k f).stage = s.stage := rfl
@[simp] theorem State.modQueue_threads (s : State) (k : Nat) (f : Queue → Queue) : (s.modQueue k f).threads = s.threads := rfl
@[simp] theorem State.modQueue_crews (s : State) (k : Nat) (f : Queue → Queue) : (s.modQueue k f).crews = s.crews := rfl
@[simp] theorem State.modQueue_remains (s : State) (k : Nat) (f : Queue → Queue) : (s.modQueue k f).remains = s.remains := rfl
@[simp] theorem State.modQueue_groups (s : State) (k : Nat) (f : Queue → Queue) : (s.modQueue k f).groups = s.groups := rfl
@[simp] theorem State.modQueue_gangs (s : State) (k : Nat) (f : Queue → Queue) : (s.modQueue k f).gangs = s.gangs := rfl
@[simp] theorem State.modQueue_nextGang (s : State) (k : Nat) (f : Queue → Queue) : (s.modQueue k f).nextGang = s.nextGang := rfl
@[simp] theorem State.modQueue_cores (s : State) (k : Nat) (f : Queue → Queue) : (s.modQueue k f).cores = s.cores := rfl
@[simp] theorem State.modQueue_clusters (s : State) (k : Nat) (f : Queue → Queue) : (s.modQueue k f).clusters = s.clusters := rfl
@[simp] theorem State.modQueue_gens (s : State) (k : Nat) (f : Queue → Queue) : (s.modQueue k f).gens = s.gens := rfl
@[simp] theorem State.modQueue_freed (s : State) (k : Nat) (f : Queue → Queue) : (s.modQueue k f).freed = s.freed := rfl
@[simp] theorem State.modQueue_nextName (s : State) (k : Nat) (f : Queue → Queue) : (s.modQueue k f).nextName = s.nextName := rfl
@[simp] theorem State.modQueue_sharing (s : State) (k : Nat) (f : Queue → Queue) : (s.modQueue k f).sharing = s.sharing := rfl
@[simp] theorem State.modQueue_turn (s : State) (k : Nat) (f : Queue → Queue) : (s.modQueue k f).turn = s.turn := rfl
@[simp] theorem State.modQueue_stamp (s : State) (k : Nat) (f : Queue → Queue) : (s.modQueue k f).stamp = s.stamp := rfl
@[simp] theorem State.modQueue_benches (s : State) (k : Nat) (f : Queue → Queue) : (s.modQueue k f).benches = s.benches := rfl
@[simp] theorem State.modQueue_hbmStacks (s : State) (k : Nat) (f : Queue → Queue) : (s.modQueue k f).hbmStacks = s.hbmStacks := rfl
@[simp] theorem State.modQueue_benchLaunches (s : State) (k : Nat) (f : Queue → Queue) : (s.modQueue k f).benchLaunches = s.benchLaunches := rfl
@[simp] theorem State.modQueue_windows (s : State) (k : Nat) (f : Queue → Queue) : (s.modQueue k f).windows = s.windows := rfl
@[simp] theorem State.modQueue_writers (s : State) (k : Nat) (f : Queue → Queue) : (s.modQueue k f).writers = s.writers := rfl
@[simp] theorem State.modQueue_drains (s : State) (k : Nat) (f : Queue → Queue) : (s.modQueue k f).drains = s.drains := rfl
@[simp] theorem State.modQueue_epoch (s : State) (k : Nat) (f : Queue → Queue) : (s.modQueue k f).epoch = s.epoch := rfl
@[simp] theorem State.modQueue_column (s : State) (k : Nat) (f : Queue → Queue) : (s.modQueue k f).column = s.column := rfl
@[simp] theorem State.modQueue_dir (s : State) (k : Nat) (f : Queue → Queue) : (s.modQueue k f).dir = s.dir := rfl
@[simp] theorem State.modQueue_floor (s : State) (k : Nat) (f : Queue → Queue) : (s.modQueue k f).floor = s.floor := rfl
@[simp] theorem State.modQueue_trans (s : State) (k : Nat) (f : Queue → Queue) : (s.modQueue k f).trans = s.trans := rfl
@[simp] theorem State.modQueue_deferred (s : State) (k : Nat) (f : Queue → Queue) : (s.modQueue k f).deferred = s.deferred := rfl
@[simp] theorem State.modQueue_copies (s : State) (k : Nat) (f : Queue → Queue) : (s.modQueue k f).copies = s.copies := rfl
@[simp] theorem State.modQueue_pendingReq (s : State) (k : Nat) (f : Queue → Queue) : (s.modQueue k f).pendingReq = s.pendingReq := rfl
@[simp] theorem State.modQueue_agentWaits (s : State) (k : Nat) (f : Queue → Queue) : (s.modQueue k f).agentWaits = s.agentWaits := rfl
@[simp] theorem State.modQueue_handled (s : State) (k : Nat) (f : Queue → Queue) : (s.modQueue k f).handled = s.handled := rfl
@[simp] theorem State.modQueue_msgs (s : State) (k : Nat) (f : Queue → Queue) : (s.modQueue k f).msgs = s.msgs := rfl
@[simp] theorem State.modQueue_slots (s : State) (k : Nat) (f : Queue → Queue) : (s.modQueue k f).slots = s.slots := rfl
@[simp] theorem State.modQueue_ranges (s : State) (k : Nat) (f : Queue → Queue) : (s.modQueue k f).ranges = s.ranges := rfl
@[simp] theorem State.modQueue_lostAgents (s : State) (k : Nat) (f : Queue → Queue) : (s.modQueue k f).lostAgents = s.lostAgents := rfl
@[simp] theorem State.modQueue_agentTime (s : State) (k : Nat) (f : Queue → Queue) : (s.modQueue k f).agentTime = s.agentTime := rfl
@[simp] theorem State.modQueue_cxlHeld (s : State) (k : Nat) (f : Queue → Queue) : (s.modQueue k f).cxlHeld = s.cxlHeld := rfl
@[simp] theorem State.modQueue_stageTime (s : State) (k : Nat) (f : Queue → Queue) : (s.modQueue k f).stageTime = s.stageTime := rfl
@[simp] theorem State.modQueue_slabTime (s : State) (k : Nat) (f : Queue → Queue) : (s.modQueue k f).slabTime = s.slabTime := rfl
@[simp] theorem State.modQueue_touched (s : State) (k : Nat) (f : Queue → Queue) : (s.modQueue k f).touched = s.touched := rfl
@[simp] theorem State.modQueue_contexts (s : State) (k : Nat) (f : Queue → Queue) : (s.modQueue k f).contexts = s.contexts := rfl
@[simp] theorem State.modQueue_launches (s : State) (k : Nat) (f : Queue → Queue) : (s.modQueue k f).launches = s.launches := rfl
@[simp] theorem State.modQueue_pending (s : State) (k : Nat) (f : Queue → Queue) : (s.modQueue k f).pending = s.pending := rfl
@[simp] theorem State.modQueue_nextOrder (s : State) (k : Nat) (f : Queue → Queue) : (s.modQueue k f).nextOrder = s.nextOrder := rfl
@[simp] theorem State.modQueue_headUnit (s : State) (k : Nat) (f : Queue → Queue) : (s.modQueue k f).headUnit = s.headUnit := rfl
@[simp] theorem State.modQueue_declared (s : State) (k : Nat) (f : Queue → Queue) : (s.modQueue k f).declared = s.declared := rfl
@[simp] theorem State.modQueue_gangLaunches (s : State) (k : Nat) (f : Queue → Queue) : (s.modQueue k f).gangLaunches = s.gangLaunches := rfl
@[simp] theorem State.modQueue_reservations (s : State) (k : Nat) (f : Queue → Queue) : (s.modQueue k f).reservations = s.reservations := rfl
@[simp] theorem State.modQueue_pageFills (s : State) (k : Nat) (f : Queue → Queue) : (s.modQueue k f).pageFills = s.pageFills := rfl
@[simp] theorem State.modQueue_skippedOrs (s : State) (k : Nat) (f : Queue → Queue) : (s.modQueue k f).skippedOrs = s.skippedOrs := rfl
@[simp] theorem State.modQueue_sent (s : State) (k : Nat) (f : Queue → Queue) : (s.modQueue k f).sent = s.sent := rfl
@[simp] theorem State.modQueue_kept (s : State) (k : Nat) (f : Queue → Queue) : (s.modQueue k f).kept = s.kept := rfl
@[simp] theorem State.modQueue_tagFree (s : State) (k : Nat) (f : Queue → Queue) : (s.modQueue k f).tagFree = s.tagFree := rfl
@[simp] theorem State.modQueue_ports (s : State) (k : Nat) (f : Queue → Queue) : (s.modQueue k f).ports = s.ports := rfl
@[simp] theorem State.modQueue_peerDown (s : State) (k : Nat) (f : Queue → Queue) : (s.modQueue k f).peerDown = s.peerDown := rfl
@[simp] theorem State.modQueue_served (s : State) (k : Nat) (f : Queue → Queue) : (s.modQueue k f).served = s.served := rfl
@[simp] theorem State.modQueue_putQueue (s : State) (k : Nat) (f : Queue → Queue) : (s.modQueue k f).putQueue = s.putQueue := rfl
@[simp] theorem State.modQueue_outbox (s : State) (k : Nat) (f : Queue → Queue) : (s.modQueue k f).outbox = s.outbox := rfl
@[simp] theorem State.modQueue_mstatus (s : State) (k : Nat) (f : Queue → Queue) : (s.modQueue k f).mstatus = s.mstatus := rfl
@[simp] theorem State.modQueue_bootctl (s : State) (k : Nat) (f : Queue → Queue) : (s.modQueue k f).bootctl = s.bootctl := rfl
@[simp] theorem State.modQueue_q0desc (s : State) (k : Nat) (f : Queue → Queue) : (s.modQueue k f).q0desc = s.q0desc := rfl
@[simp] theorem State.modQueue_patchaddr (s : State) (k : Nat) (f : Queue → Queue) : (s.modQueue k f).patchaddr = s.patchaddr := rfl
@[simp] theorem State.modQueue_attNonce (s : State) (k : Nat) (f : Queue → Queue) : (s.modQueue k f).attNonce = s.attNonce := rfl
@[simp] theorem State.modQueue_attAddr (s : State) (k : Nat) (f : Queue → Queue) : (s.modQueue k f).attAddr = s.attAddr := rfl
@[simp] theorem State.modQueue_attBusy (s : State) (k : Nat) (f : Queue → Queue) : (s.modQueue k f).attBusy = s.attBusy := rfl
@[simp] theorem State.modQueue_power (s : State) (k : Nat) (f : Queue → Queue) : (s.modQueue k f).power = s.power := rfl
@[simp] theorem State.modQueue_therm (s : State) (k : Nat) (f : Queue → Queue) : (s.modQueue k f).therm = s.therm := rfl
@[simp] theorem State.modQueue_hot (s : State) (k : Nat) (f : Queue → Queue) : (s.modQueue k f).hot = s.hot := rfl
@[simp] theorem State.modQueue_cap8 (s : State) (k : Nat) (f : Queue → Queue) : (s.modQueue k f).cap8 = s.cap8 := rfl
@[simp] theorem State.modQueue_dead (s : State) (k : Nat) (f : Queue → Queue) : (s.modQueue k f).dead = s.dead := rfl
@[simp] theorem State.modQueue_q0block (s : State) (k : Nat) (f : Queue → Queue) : (s.modQueue k f).q0block = s.q0block := rfl
@[simp] theorem State.modQueue_elog (s : State) (k : Nat) (f : Queue → Queue) : (s.modQueue k f).elog = s.elog := rfl
@[simp] theorem State.modQueue_elogDepth (s : State) (k : Nat) (f : Queue → Queue) : (s.modQueue k f).elogDepth = s.elogDepth := rfl
@[simp] theorem State.modQueue_lwatch (s : State) (k : Nat) (f : Queue → Queue) : (s.modQueue k f).lwatch = s.lwatch := rfl
@[simp] theorem State.modQueue_saveArea (s : State) (k : Nat) (f : Queue → Queue) : (s.modQueue k f).saveArea = s.saveArea := rfl
@[simp] theorem State.modQueue_saveSize (s : State) (k : Nat) (f : Queue → Queue) : (s.modQueue k f).saveSize = s.saveSize := rfl
@[simp] theorem State.modQueue_errSeq (s : State) (k : Nat) (f : Queue → Queue) : (s.modQueue k f).errSeq = s.errSeq := rfl
@[simp] theorem State.modQueue_corrections (s : State) (k : Nat) (f : Queue → Queue) : (s.modQueue k f).corrections = s.corrections := rfl
@[simp] theorem State.modQueue_patchVersion (s : State) (k : Nat) (f : Queue → Queue) : (s.modQueue k f).patchVersion = s.patchVersion := rfl
@[simp] theorem State.modQueue_patchHash (s : State) (k : Nat) (f : Queue → Queue) : (s.modQueue k f).patchHash = s.patchHash := rfl
@[simp] theorem State.modQueue_booted (s : State) (k : Nat) (f : Queue → Queue) : (s.modQueue k f).booted = s.booted := rfl
@[simp] theorem State.modQueue_inputs (s : State) (k : Nat) (f : Queue → Queue) : (s.modQueue k f).inputs = s.inputs := rfl
@[simp] theorem State.modQueue_agenda (s : State) (k : Nat) (f : Queue → Queue) : (s.modQueue k f).agenda = s.agenda := rfl
@[simp] theorem State.modQueue_free (s : State) (k : Nat) (f : Queue → Queue) : (s.modQueue k f).free = s.free := rfl

/-! ## Entries of other maps -/


@[simp] theorem State.modThread_crew_ (s : State) (crew lane : Nat) (f : Thread → Thread) (j : Nat) : (s.modThread crew lane f).crew j = s.crew j := rfl
@[simp] theorem State.modThread_group_ (s : State) (crew lane : Nat) (f : Thread → Thread) (j : Nat) : (s.modThread crew lane f).group j = s.group j := rfl
@[simp] theorem State.modThread_gang_ (s : State) (crew lane : Nat) (f : Thread → Thread) (j : Nat) : (s.modThread crew lane f).gang j = s.gang j := rfl
@[simp] theorem State.modThread_core_ (s : State) (crew lane : Nat) (f : Thread → Thread) (j : Nat) : (s.modThread crew lane f).core j = s.core j := rfl
@[simp] theorem State.modThread_cluster_ (s : State) (crew lane : Nat) (f : Thread → Thread) (j : Nat) : (s.modThread crew lane f).cluster j = s.cluster j := rfl
@[simp] theorem State.modThread_stack_ (s : State) (crew lane : Nat) (f : Thread → Thread) (j : Nat) : (s.modThread crew lane f).stack j = s.stack j := rfl
@[simp] theorem State.modThread_bench_ (s : State) (crew lane : Nat) (f : Thread → Thread) (j : Nat) : (s.modThread crew lane f).bench j = s.bench j := rfl
@[simp] theorem State.modThread_benchLaunch_ (s : State) (crew lane : Nat) (f : Thread → Thread) (j : Nat) : (s.modThread crew lane f).benchLaunch j = s.benchLaunch j := rfl
@[simp] theorem State.modThread_window_ (s : State) (crew lane : Nat) (f : Thread → Thread) (j : Nat) : (s.modThread crew lane f).window j = s.window j := rfl
@[simp] theorem State.modThread_launch_ (s : State) (crew lane : Nat) (f : Thread → Thread) (j : Nat) : (s.modThread crew lane f).launch j = s.launch j := rfl
@[simp] theorem State.modThread_queue_ (s : State) (crew lane : Nat) (f : Thread → Thread) (j : Nat) : (s.modThread crew lane f).queue j = s.queue j := rfl

@[simp] theorem State.modCrew_thread_ (s : State) (k : Nat) (f : Crew → Crew) (c l : Nat) : (s.modCrew k f).thread c l = s.thread c l := rfl
@[simp] theorem State.modCrew_group_ (s : State) (k : Nat) (f : Crew → Crew) (j : Nat) : (s.modCrew k f).group j = s.group j := rfl
@[simp] theorem State.modCrew_gang_ (s : State) (k : Nat) (f : Crew → Crew) (j : Nat) : (s.modCrew k f).gang j = s.gang j := rfl
@[simp] theorem State.modCrew_core_ (s : State) (k : Nat) (f : Crew → Crew) (j : Nat) : (s.modCrew k f).core j = s.core j := rfl
@[simp] theorem State.modCrew_cluster_ (s : State) (k : Nat) (f : Crew → Crew) (j : Nat) : (s.modCrew k f).cluster j = s.cluster j := rfl
@[simp] theorem State.modCrew_stack_ (s : State) (k : Nat) (f : Crew → Crew) (j : Nat) : (s.modCrew k f).stack j = s.stack j := rfl
@[simp] theorem State.modCrew_bench_ (s : State) (k : Nat) (f : Crew → Crew) (j : Nat) : (s.modCrew k f).bench j = s.bench j := rfl
@[simp] theorem State.modCrew_benchLaunch_ (s : State) (k : Nat) (f : Crew → Crew) (j : Nat) : (s.modCrew k f).benchLaunch j = s.benchLaunch j := rfl
@[simp] theorem State.modCrew_window_ (s : State) (k : Nat) (f : Crew → Crew) (j : Nat) : (s.modCrew k f).window j = s.window j := rfl
@[simp] theorem State.modCrew_launch_ (s : State) (k : Nat) (f : Crew → Crew) (j : Nat) : (s.modCrew k f).launch j = s.launch j := rfl
@[simp] theorem State.modCrew_queue_ (s : State) (k : Nat) (f : Crew → Crew) (j : Nat) : (s.modCrew k f).queue j = s.queue j := rfl

@[simp] theorem State.modGroup_thread_ (s : State) (k : Nat) (f : Group → Group) (c l : Nat) : (s.modGroup k f).thread c l = s.thread c l := rfl
@[simp] theorem State.modGroup_crew_ (s : State) (k : Nat) (f : Group → Group) (j : Nat) : (s.modGroup k f).crew j = s.crew j := rfl
@[simp] theorem State.modGroup_gang_ (s : State) (k : Nat) (f : Group → Group) (j : Nat) : (s.modGroup k f).gang j = s.gang j := rfl
@[simp] theorem State.modGroup_core_ (s : State) (k : Nat) (f : Group → Group) (j : Nat) : (s.modGroup k f).core j = s.core j := rfl
@[simp] theorem State.modGroup_cluster_ (s : State) (k : Nat) (f : Group → Group) (j : Nat) : (s.modGroup k f).cluster j = s.cluster j := rfl
@[simp] theorem State.modGroup_stack_ (s : State) (k : Nat) (f : Group → Group) (j : Nat) : (s.modGroup k f).stack j = s.stack j := rfl
@[simp] theorem State.modGroup_bench_ (s : State) (k : Nat) (f : Group → Group) (j : Nat) : (s.modGroup k f).bench j = s.bench j := rfl
@[simp] theorem State.modGroup_benchLaunch_ (s : State) (k : Nat) (f : Group → Group) (j : Nat) : (s.modGroup k f).benchLaunch j = s.benchLaunch j := rfl
@[simp] theorem State.modGroup_window_ (s : State) (k : Nat) (f : Group → Group) (j : Nat) : (s.modGroup k f).window j = s.window j := rfl
@[simp] theorem State.modGroup_launch_ (s : State) (k : Nat) (f : Group → Group) (j : Nat) : (s.modGroup k f).launch j = s.launch j := rfl
@[simp] theorem State.modGroup_queue_ (s : State) (k : Nat) (f : Group → Group) (j : Nat) : (s.modGroup k f).queue j = s.queue j := rfl

@[simp] theorem State.modGang_thread_ (s : State) (k : Nat) (f : Gang → Gang) (c l : Nat) : (s.modGang k f).thread c l = s.thread c l := rfl
@[simp] theorem State.modGang_crew_ (s : State) (k : Nat) (f : Gang → Gang) (j : Nat) : (s.modGang k f).crew j = s.crew j := rfl
@[simp] theorem State.modGang_group_ (s : State) (k : Nat) (f : Gang → Gang) (j : Nat) : (s.modGang k f).group j = s.group j := rfl
@[simp] theorem State.modGang_core_ (s : State) (k : Nat) (f : Gang → Gang) (j : Nat) : (s.modGang k f).core j = s.core j := rfl
@[simp] theorem State.modGang_cluster_ (s : State) (k : Nat) (f : Gang → Gang) (j : Nat) : (s.modGang k f).cluster j = s.cluster j := rfl
@[simp] theorem State.modGang_stack_ (s : State) (k : Nat) (f : Gang → Gang) (j : Nat) : (s.modGang k f).stack j = s.stack j := rfl
@[simp] theorem State.modGang_bench_ (s : State) (k : Nat) (f : Gang → Gang) (j : Nat) : (s.modGang k f).bench j = s.bench j := rfl
@[simp] theorem State.modGang_benchLaunch_ (s : State) (k : Nat) (f : Gang → Gang) (j : Nat) : (s.modGang k f).benchLaunch j = s.benchLaunch j := rfl
@[simp] theorem State.modGang_window_ (s : State) (k : Nat) (f : Gang → Gang) (j : Nat) : (s.modGang k f).window j = s.window j := rfl
@[simp] theorem State.modGang_launch_ (s : State) (k : Nat) (f : Gang → Gang) (j : Nat) : (s.modGang k f).launch j = s.launch j := rfl
@[simp] theorem State.modGang_queue_ (s : State) (k : Nat) (f : Gang → Gang) (j : Nat) : (s.modGang k f).queue j = s.queue j := rfl

@[simp] theorem State.modCore_thread_ (s : State) (k : Nat) (f : Core → Core) (c l : Nat) : (s.modCore k f).thread c l = s.thread c l := rfl
@[simp] theorem State.modCore_crew_ (s : State) (k : Nat) (f : Core → Core) (j : Nat) : (s.modCore k f).crew j = s.crew j := rfl
@[simp] theorem State.modCore_group_ (s : State) (k : Nat) (f : Core → Core) (j : Nat) : (s.modCore k f).group j = s.group j := rfl
@[simp] theorem State.modCore_gang_ (s : State) (k : Nat) (f : Core → Core) (j : Nat) : (s.modCore k f).gang j = s.gang j := rfl
@[simp] theorem State.modCore_cluster_ (s : State) (k : Nat) (f : Core → Core) (j : Nat) : (s.modCore k f).cluster j = s.cluster j := rfl
@[simp] theorem State.modCore_stack_ (s : State) (k : Nat) (f : Core → Core) (j : Nat) : (s.modCore k f).stack j = s.stack j := rfl
@[simp] theorem State.modCore_bench_ (s : State) (k : Nat) (f : Core → Core) (j : Nat) : (s.modCore k f).bench j = s.bench j := rfl
@[simp] theorem State.modCore_benchLaunch_ (s : State) (k : Nat) (f : Core → Core) (j : Nat) : (s.modCore k f).benchLaunch j = s.benchLaunch j := rfl
@[simp] theorem State.modCore_window_ (s : State) (k : Nat) (f : Core → Core) (j : Nat) : (s.modCore k f).window j = s.window j := rfl
@[simp] theorem State.modCore_launch_ (s : State) (k : Nat) (f : Core → Core) (j : Nat) : (s.modCore k f).launch j = s.launch j := rfl
@[simp] theorem State.modCore_queue_ (s : State) (k : Nat) (f : Core → Core) (j : Nat) : (s.modCore k f).queue j = s.queue j := rfl

@[simp] theorem State.modCluster_thread_ (s : State) (k : Nat) (f : Cluster → Cluster) (c l : Nat) : (s.modCluster k f).thread c l = s.thread c l := rfl
@[simp] theorem State.modCluster_crew_ (s : State) (k : Nat) (f : Cluster → Cluster) (j : Nat) : (s.modCluster k f).crew j = s.crew j := rfl
@[simp] theorem State.modCluster_group_ (s : State) (k : Nat) (f : Cluster → Cluster) (j : Nat) : (s.modCluster k f).group j = s.group j := rfl
@[simp] theorem State.modCluster_gang_ (s : State) (k : Nat) (f : Cluster → Cluster) (j : Nat) : (s.modCluster k f).gang j = s.gang j := rfl
@[simp] theorem State.modCluster_core_ (s : State) (k : Nat) (f : Cluster → Cluster) (j : Nat) : (s.modCluster k f).core j = s.core j := rfl
@[simp] theorem State.modCluster_stack_ (s : State) (k : Nat) (f : Cluster → Cluster) (j : Nat) : (s.modCluster k f).stack j = s.stack j := rfl
@[simp] theorem State.modCluster_bench_ (s : State) (k : Nat) (f : Cluster → Cluster) (j : Nat) : (s.modCluster k f).bench j = s.bench j := rfl
@[simp] theorem State.modCluster_benchLaunch_ (s : State) (k : Nat) (f : Cluster → Cluster) (j : Nat) : (s.modCluster k f).benchLaunch j = s.benchLaunch j := rfl
@[simp] theorem State.modCluster_window_ (s : State) (k : Nat) (f : Cluster → Cluster) (j : Nat) : (s.modCluster k f).window j = s.window j := rfl
@[simp] theorem State.modCluster_launch_ (s : State) (k : Nat) (f : Cluster → Cluster) (j : Nat) : (s.modCluster k f).launch j = s.launch j := rfl
@[simp] theorem State.modCluster_queue_ (s : State) (k : Nat) (f : Cluster → Cluster) (j : Nat) : (s.modCluster k f).queue j = s.queue j := rfl

@[simp] theorem State.modStack_thread_ (s : State) (k : Nat) (f : Stack → Stack) (c l : Nat) : (s.modStack k f).thread c l = s.thread c l := rfl
@[simp] theorem State.modStack_crew_ (s : State) (k : Nat) (f : Stack → Stack) (j : Nat) : (s.modStack k f).crew j = s.crew j := rfl
@[simp] theorem State.modStack_group_ (s : State) (k : Nat) (f : Stack → Stack) (j : Nat) : (s.modStack k f).group j = s.group j := rfl
@[simp] theorem State.modStack_gang_ (s : State) (k : Nat) (f : Stack → Stack) (j : Nat) : (s.modStack k f).gang j = s.gang j := rfl
@[simp] theorem State.modStack_core_ (s : State) (k : Nat) (f : Stack → Stack) (j : Nat) : (s.modStack k f).core j = s.core j := rfl
@[simp] theorem State.modStack_cluster_ (s : State) (k : Nat) (f : Stack → Stack) (j : Nat) : (s.modStack k f).cluster j = s.cluster j := rfl
@[simp] theorem State.modStack_bench_ (s : State) (k : Nat) (f : Stack → Stack) (j : Nat) : (s.modStack k f).bench j = s.bench j := rfl
@[simp] theorem State.modStack_benchLaunch_ (s : State) (k : Nat) (f : Stack → Stack) (j : Nat) : (s.modStack k f).benchLaunch j = s.benchLaunch j := rfl
@[simp] theorem State.modStack_window_ (s : State) (k : Nat) (f : Stack → Stack) (j : Nat) : (s.modStack k f).window j = s.window j := rfl
@[simp] theorem State.modStack_launch_ (s : State) (k : Nat) (f : Stack → Stack) (j : Nat) : (s.modStack k f).launch j = s.launch j := rfl
@[simp] theorem State.modStack_queue_ (s : State) (k : Nat) (f : Stack → Stack) (j : Nat) : (s.modStack k f).queue j = s.queue j := rfl

@[simp] theorem State.modBench_thread_ (s : State) (k : Nat) (f : Bench → Bench) (c l : Nat) : (s.modBench k f).thread c l = s.thread c l := rfl
@[simp] theorem State.modBench_crew_ (s : State) (k : Nat) (f : Bench → Bench) (j : Nat) : (s.modBench k f).crew j = s.crew j := rfl
@[simp] theorem State.modBench_group_ (s : State) (k : Nat) (f : Bench → Bench) (j : Nat) : (s.modBench k f).group j = s.group j := rfl
@[simp] theorem State.modBench_gang_ (s : State) (k : Nat) (f : Bench → Bench) (j : Nat) : (s.modBench k f).gang j = s.gang j := rfl
@[simp] theorem State.modBench_core_ (s : State) (k : Nat) (f : Bench → Bench) (j : Nat) : (s.modBench k f).core j = s.core j := rfl
@[simp] theorem State.modBench_cluster_ (s : State) (k : Nat) (f : Bench → Bench) (j : Nat) : (s.modBench k f).cluster j = s.cluster j := rfl
@[simp] theorem State.modBench_stack_ (s : State) (k : Nat) (f : Bench → Bench) (j : Nat) : (s.modBench k f).stack j = s.stack j := rfl
@[simp] theorem State.modBench_benchLaunch_ (s : State) (k : Nat) (f : Bench → Bench) (j : Nat) : (s.modBench k f).benchLaunch j = s.benchLaunch j := rfl
@[simp] theorem State.modBench_window_ (s : State) (k : Nat) (f : Bench → Bench) (j : Nat) : (s.modBench k f).window j = s.window j := rfl
@[simp] theorem State.modBench_launch_ (s : State) (k : Nat) (f : Bench → Bench) (j : Nat) : (s.modBench k f).launch j = s.launch j := rfl
@[simp] theorem State.modBench_queue_ (s : State) (k : Nat) (f : Bench → Bench) (j : Nat) : (s.modBench k f).queue j = s.queue j := rfl

@[simp] theorem State.modBenchLaunch_thread_ (s : State) (k : Nat) (f : BenchLaunch → BenchLaunch) (c l : Nat) : (s.modBenchLaunch k f).thread c l = s.thread c l := rfl
@[simp] theorem State.modBenchLaunch_crew_ (s : State) (k : Nat) (f : BenchLaunch → BenchLaunch) (j : Nat) : (s.modBenchLaunch k f).crew j = s.crew j := rfl
@[simp] theorem State.modBenchLaunch_group_ (s : State) (k : Nat) (f : BenchLaunch → BenchLaunch) (j : Nat) : (s.modBenchLaunch k f).group j = s.group j := rfl
@[simp] theorem State.modBenchLaunch_gang_ (s : State) (k : Nat) (f : BenchLaunch → BenchLaunch) (j : Nat) : (s.modBenchLaunch k f).gang j = s.gang j := rfl
@[simp] theorem State.modBenchLaunch_core_ (s : State) (k : Nat) (f : BenchLaunch → BenchLaunch) (j : Nat) : (s.modBenchLaunch k f).core j = s.core j := rfl
@[simp] theorem State.modBenchLaunch_cluster_ (s : State) (k : Nat) (f : BenchLaunch → BenchLaunch) (j : Nat) : (s.modBenchLaunch k f).cluster j = s.cluster j := rfl
@[simp] theorem State.modBenchLaunch_stack_ (s : State) (k : Nat) (f : BenchLaunch → BenchLaunch) (j : Nat) : (s.modBenchLaunch k f).stack j = s.stack j := rfl
@[simp] theorem State.modBenchLaunch_bench_ (s : State) (k : Nat) (f : BenchLaunch → BenchLaunch) (j : Nat) : (s.modBenchLaunch k f).bench j = s.bench j := rfl
@[simp] theorem State.modBenchLaunch_window_ (s : State) (k : Nat) (f : BenchLaunch → BenchLaunch) (j : Nat) : (s.modBenchLaunch k f).window j = s.window j := rfl
@[simp] theorem State.modBenchLaunch_launch_ (s : State) (k : Nat) (f : BenchLaunch → BenchLaunch) (j : Nat) : (s.modBenchLaunch k f).launch j = s.launch j := rfl
@[simp] theorem State.modBenchLaunch_queue_ (s : State) (k : Nat) (f : BenchLaunch → BenchLaunch) (j : Nat) : (s.modBenchLaunch k f).queue j = s.queue j := rfl

@[simp] theorem State.modWindow_thread_ (s : State) (k : Nat) (f : Window → Window) (c l : Nat) : (s.modWindow k f).thread c l = s.thread c l := rfl
@[simp] theorem State.modWindow_crew_ (s : State) (k : Nat) (f : Window → Window) (j : Nat) : (s.modWindow k f).crew j = s.crew j := rfl
@[simp] theorem State.modWindow_group_ (s : State) (k : Nat) (f : Window → Window) (j : Nat) : (s.modWindow k f).group j = s.group j := rfl
@[simp] theorem State.modWindow_gang_ (s : State) (k : Nat) (f : Window → Window) (j : Nat) : (s.modWindow k f).gang j = s.gang j := rfl
@[simp] theorem State.modWindow_core_ (s : State) (k : Nat) (f : Window → Window) (j : Nat) : (s.modWindow k f).core j = s.core j := rfl
@[simp] theorem State.modWindow_cluster_ (s : State) (k : Nat) (f : Window → Window) (j : Nat) : (s.modWindow k f).cluster j = s.cluster j := rfl
@[simp] theorem State.modWindow_stack_ (s : State) (k : Nat) (f : Window → Window) (j : Nat) : (s.modWindow k f).stack j = s.stack j := rfl
@[simp] theorem State.modWindow_bench_ (s : State) (k : Nat) (f : Window → Window) (j : Nat) : (s.modWindow k f).bench j = s.bench j := rfl
@[simp] theorem State.modWindow_benchLaunch_ (s : State) (k : Nat) (f : Window → Window) (j : Nat) : (s.modWindow k f).benchLaunch j = s.benchLaunch j := rfl
@[simp] theorem State.modWindow_launch_ (s : State) (k : Nat) (f : Window → Window) (j : Nat) : (s.modWindow k f).launch j = s.launch j := rfl
@[simp] theorem State.modWindow_queue_ (s : State) (k : Nat) (f : Window → Window) (j : Nat) : (s.modWindow k f).queue j = s.queue j := rfl

@[simp] theorem State.modLaunch_thread_ (s : State) (k : Nat) (f : Launch → Launch) (c l : Nat) : (s.modLaunch k f).thread c l = s.thread c l := rfl
@[simp] theorem State.modLaunch_crew_ (s : State) (k : Nat) (f : Launch → Launch) (j : Nat) : (s.modLaunch k f).crew j = s.crew j := rfl
@[simp] theorem State.modLaunch_group_ (s : State) (k : Nat) (f : Launch → Launch) (j : Nat) : (s.modLaunch k f).group j = s.group j := rfl
@[simp] theorem State.modLaunch_gang_ (s : State) (k : Nat) (f : Launch → Launch) (j : Nat) : (s.modLaunch k f).gang j = s.gang j := rfl
@[simp] theorem State.modLaunch_core_ (s : State) (k : Nat) (f : Launch → Launch) (j : Nat) : (s.modLaunch k f).core j = s.core j := rfl
@[simp] theorem State.modLaunch_cluster_ (s : State) (k : Nat) (f : Launch → Launch) (j : Nat) : (s.modLaunch k f).cluster j = s.cluster j := rfl
@[simp] theorem State.modLaunch_stack_ (s : State) (k : Nat) (f : Launch → Launch) (j : Nat) : (s.modLaunch k f).stack j = s.stack j := rfl
@[simp] theorem State.modLaunch_bench_ (s : State) (k : Nat) (f : Launch → Launch) (j : Nat) : (s.modLaunch k f).bench j = s.bench j := rfl
@[simp] theorem State.modLaunch_benchLaunch_ (s : State) (k : Nat) (f : Launch → Launch) (j : Nat) : (s.modLaunch k f).benchLaunch j = s.benchLaunch j := rfl
@[simp] theorem State.modLaunch_window_ (s : State) (k : Nat) (f : Launch → Launch) (j : Nat) : (s.modLaunch k f).window j = s.window j := rfl
@[simp] theorem State.modLaunch_queue_ (s : State) (k : Nat) (f : Launch → Launch) (j : Nat) : (s.modLaunch k f).queue j = s.queue j := rfl

@[simp] theorem State.modQueue_thread_ (s : State) (k : Nat) (f : Queue → Queue) (c l : Nat) : (s.modQueue k f).thread c l = s.thread c l := rfl
@[simp] theorem State.modQueue_crew_ (s : State) (k : Nat) (f : Queue → Queue) (j : Nat) : (s.modQueue k f).crew j = s.crew j := rfl
@[simp] theorem State.modQueue_group_ (s : State) (k : Nat) (f : Queue → Queue) (j : Nat) : (s.modQueue k f).group j = s.group j := rfl
@[simp] theorem State.modQueue_gang_ (s : State) (k : Nat) (f : Queue → Queue) (j : Nat) : (s.modQueue k f).gang j = s.gang j := rfl
@[simp] theorem State.modQueue_core_ (s : State) (k : Nat) (f : Queue → Queue) (j : Nat) : (s.modQueue k f).core j = s.core j := rfl
@[simp] theorem State.modQueue_cluster_ (s : State) (k : Nat) (f : Queue → Queue) (j : Nat) : (s.modQueue k f).cluster j = s.cluster j := rfl
@[simp] theorem State.modQueue_stack_ (s : State) (k : Nat) (f : Queue → Queue) (j : Nat) : (s.modQueue k f).stack j = s.stack j := rfl
@[simp] theorem State.modQueue_bench_ (s : State) (k : Nat) (f : Queue → Queue) (j : Nat) : (s.modQueue k f).bench j = s.bench j := rfl
@[simp] theorem State.modQueue_benchLaunch_ (s : State) (k : Nat) (f : Queue → Queue) (j : Nat) : (s.modQueue k f).benchLaunch j = s.benchLaunch j := rfl
@[simp] theorem State.modQueue_window_ (s : State) (k : Nat) (f : Queue → Queue) (j : Nat) : (s.modQueue k f).window j = s.window j := rfl
@[simp] theorem State.modQueue_launch_ (s : State) (k : Nat) (f : Queue → Queue) (j : Nat) : (s.modQueue k f).launch j = s.launch j := rfl

end Sys2Proof.Machine
end

