-- ==== Sys2Proof/Laws/Lanes.lean ====
section
/-! SUPPORT. An instruction issued to one lane: what running it in the lanes of its issue comes to. -/

namespace Sys2Proof.Laws

open Sys2Proof.Machine

/-- The bit of a lane is the only one set. -/
theorem bitOf_getLsbD {l m : Nat} (hl : l < 32) (hm : m < 32) : (bitOf l).getLsbD m = decide (m = l) := by
  have : ∀ l m : Fin 32, (bitOf l).getLsbD m = decide ((m : Nat) = l) := by decide
  exact this ⟨l, hl⟩ ⟨m, hm⟩

/-- Folding over the lanes of a word that has one bit visits that lane alone. -/
theorem foldl_one_lane {α : Type} (f : α → Nat → α) {l : Nat} (hl : l < 32) (a : α) :
    lanes32.foldl (fun s m => if (bitOf l).getLsbD m then f s m else s) a = f a l := by
  have skip : ∀ (r : List Nat) (a : α), (∀ m ∈ r, m < 32 ∧ m ≠ l) →
      r.foldl (fun s m => if (bitOf l).getLsbD m then f s m else s) a = a := by
    intro r
    induction r with
    | nil => intro a _; rfl
    | cons m r ih =>
      intro a h
      have hm := h m (List.mem_cons_self ..)
      rw [List.foldl_cons, bitOf_getLsbD hl hm.1, if_neg (by simpa using hm.2)]
      exact ih a fun x hx => h x (List.mem_cons_of_mem _ hx)
  have split : lanes32 = List.range l ++ l :: (List.range' (l + 1) (31 - l)) := by
    have : ∀ l : Fin 32, lanes32 = List.range l ++ (l : Nat) :: (List.range' (l + 1) (31 - l)) := by decide
    exact this ⟨l, hl⟩
  rw [split, List.foldl_append, List.foldl_cons,
    skip (List.range l) a (fun m hm => by have := List.mem_range.1 hm; omega), bitOf_getLsbD hl hl,
    if_pos (by simp)]
  exact skip _ _ fun m hm => by have := List.mem_range'_1.1 hm; omega

/-- An issue to one lane visits that lane alone. -/
theorem overLanes_one {i : Issue} {k l : Nat} (hp : i.parts = [{ crew := k, lanes := bitOf l }]) (hl : l < 32)
    (f : State → Nat → Nat → State) (s : State) : overLanes i f s = f s k l := by
  simp only [overLanes, hp, List.foldl_cons, List.foldl_nil]
  exact foldl_one_lane (fun s m => f s k m) hl s

/-- One lane never waits for another of its issue. -/
theorem holdPeers_one {i : Issue} {k l : Nat} (hp : i.parts = [{ crew := k, lanes := bitOf l }]) (hl : l < 32)
    (s : State) (ran : Nat → Nat → Bool) : s.holdPeers i ran = s := by
  rw [State.holdPeers, overLanes_one hp hl]
  refine if_neg ?_
  intro h
  simp only [Bool.and_eq_true, List.any_eq_true] at h
  obtain ⟨⟨hrun, -⟩, m, hm, hhas, hstill⟩ := h
  simp only [Issue.has, hp, List.any_cons, List.any_nil, Bool.or_false, Bool.and_eq_true] at hhas
  have hm32 : m < 32 := by
    simp only [quadLanes, List.mem_map, List.mem_range] at hm
    omega
  rw [bitOf_getLsbD hl hm32] at hhas
  have hml : m = l := by simpa using hhas.2
  subst hml
  have hr : (s.thread k m).st = .run := by simpa using hrun
  simp [Thread.stillAt, hr] at hstill

/-- An instruction issued to one lane runs in it and in no other. -/
theorem runAll_one {i : Issue} {k l : Nat} (hp : i.parts = [{ crew := k, lanes := bitOf l }]) (hl : l < 32)
    (sh : Shape) (body : Ctx → LaneM After) (s : State) : runAll sh body s i = runLane sh body i s k l := by
  rw [runAll, overLanes_one hp hl, holdPeers_one hp hl]

/-- An instruction that takes no entry, issued to one lane. -/
theorem runLanes_one {i : Issue} {k l : Nat} (hp : i.parts = [{ crew := k, lanes := bitOf l }]) (hl : l < 32)
    {sh : Shape} (he : sh.entry = false) (body : Ctx → LaneM After) (s : State) :
    runLanes sh body s i = runLane sh body i s k l := by
  rw [runLanes, he, if_neg (by decide), runAll_one hp hl]

/-- An instruction that takes an entry, issued to one lane, where the table has room for it (R122). -/
theorem runLanes_entry {i : Issue} {k l : Nat} (hp : i.parts = [{ crew := k, lanes := bitOf l }]) (hl : l < 32)
    {sh : Shape} (he : sh.entry = true) (body : Ctx → LaneM After) (s : State)
    (hr : s.enterTable i i.parts (s.entries i.core).length = (i.parts, [])) :
    runLanes sh body s i = (runLane sh body i s k l).keepEntries i i.parts := by
  rw [runLanes, he, if_pos rfl, hr]
  show ((runAll sh body s i).keepEntries i i.parts).awaitEntry i [] = _
  rw [runAll_one hp hl]
  rfl

/-- An empty table has room for one lane's instruction. -/
theorem admit_empty {i : Issue} {k l : Nat} (hp : i.parts = [{ crew := k, lanes := bitOf l }]) (s : State)
    (ht : (s.core i.core).table = []) : s.enterTable i i.parts (s.entries i.core).length = (i.parts, []) := by
  have hn : s.entries i.core = [] := by simp [State.entries, ht]
  rw [hp, hn]
  simp [State.enterTable, State.holdsEntry, ht]

/-- An instruction whose lane has nothing still to be performed leaves an empty table as it is. -/
theorem keepEntries_done {i : Issue} {k l : Nat} (hp : i.parts = [{ crew := k, lanes := bitOf l }]) (hl : l < 32) (s : State)
    (ht : (s.core i.core).table = []) (hd : (s.thread k l).outstanding i.pc = false) : s.keepEntries i i.parts = s := by
  have none_ : (lanes32.any fun m => (bitOf l).getLsbD m && (s.thread k m).outstanding i.pc) = false := by
    rw [List.any_eq_false]
    intro m hm
    have hm32 : m < 32 := List.mem_range.1 hm
    rw [bitOf_getLsbD hl hm32]
    by_cases e : m = l
    · subst e; simp [hd]
    · simp [e]
  unfold State.keepEntries
  rw [hp]
  simp only [List.filter_cons, List.filter_nil, none_, Bool.and_false, ht, List.isEmpty_nil, Bool.and_self, if_true, Bool.false_eq_true, if_false]

/-- A lane that executes an instruction whose computation succeeds with nothing to trap after it. -/
theorem runLane_ok {sh : Shape} {body : Ctx → LaneM After} {i : Issue} {s t : State} {k l : Nat}
    (hk : (mfind s.crews k).isSome) (hr : sh.refusal (s.ctxOf i k l).n = none) (he : executes sh s k l = true)
    (hb : body (s.ctxOf i k l) ((s.past (s.ctxOf i k l)).modThread k l Thread.countStep) = .ok (none, t)) :
    runLane sh body i s k l = t.afterInstr (s.ctxOf i k l) := by
  have hk' : ¬ (mfind s.crews k).isNone = true := by
    cases h : mfind s.crews k <;> simp_all
  rw [runLane, if_neg hk']
  simp only [hr, he, Bool.not_true, Bool.false_eq_true, if_false, hb]

/-- A lane that executes an instruction whose computation succeeds and reports a cause to be taken after it. -/
theorem runLane_after {sh : Shape} {body : Ctx → LaneM After} {i : Issue} {s t : State} {k l code detail : Nat}
    (hk : (mfind s.crews k).isSome) (hr : sh.refusal (s.ctxOf i k l).n = none) (he : executes sh s k l = true)
    (hb : body (s.ctxOf i k l) ((s.past (s.ctxOf i k l)).modThread k l Thread.countStep) = .ok (some (code, detail), t)) :
    runLane sh body i s k l =
      (if (s.ctxOf i k l).helper then t else t.takeTrap (s.ctxOf i k l) code 0 detail (s.ctxOf i k l).next 0).afterInstr (s.ctxOf i k l) := by
  have hk' : ¬ (mfind s.crews k).isNone = true := by
    cases h : mfind s.crews k <;> simp_all
  rw [runLane, if_neg hk']
  simp only [hr, he, Bool.not_true, Bool.false_eq_true, if_false, hb]

/-- A lane whose guard fails moves past the instruction and pushes what an idle lane pushes (R49). -/
theorem runLane_idle {sh : Shape} {body : Ctx → LaneM After} {i : Issue} {s : State} {k l : Nat}
    (hk : (mfind s.crews k).isSome) (hr : sh.refusal (s.ctxOf i k l).n = none) (he : executes sh s k l = false) :
    runLane sh body i s k l =
      ((s.past (s.ctxOf i k l)).modThread k l fun t => t.idlePush sh.push).afterInstr (s.ctxOf i k l) := by
  have hk' : ¬ (mfind s.crews k).isNone = true := by
    cases h : mfind s.crews k <;> simp_all
  rw [runLane, if_neg hk']
  simp only [hr, he, Bool.not_false, if_true]

/-- A lane that is no helper and whose instruction traps: nothing of the instruction is done (R392). -/
theorem runLane_trap {sh : Shape} {body : Ctx → LaneM After} {i : Issue} {s : State} {k l code sub detail : Nat} {addr : DWord}
    {after : Bool}
    (hk : (mfind s.crews k).isSome) (hr : sh.refusal (s.ctxOf i k l).n = none) (he : executes sh s k l = true)
    (hh : (s.ctxOf i k l).helper = false)
    (hb : body (s.ctxOf i k l) ((s.past (s.ctxOf i k l)).modThread k l Thread.countStep) = .error (.trap code sub detail addr after)) :
    runLane sh body i s k l =
      (s.stopLane (s.ctxOf i k l) (.trap code sub detail addr after)).afterInstr (s.ctxOf i k l) := by
  have hk' : ¬ (mfind s.crews k).isNone = true := by
    cases h : mfind s.crews k <;> simp_all
  rw [runLane, if_neg hk']
  simp only [hr, he, Bool.not_true, Bool.false_eq_true, if_false, hb, hh]

/-- A lane whose operand fields name no legal operand traps (R402). -/
theorem runLane_refused {sh : Shape} {body : Ctx → LaneM After} {i : Issue} {s : State} {k l code sub detail : Nat}
    (hk : (mfind s.crews k).isSome) (hr : sh.refusal (s.ctxOf i k l).n = some (code, sub, detail))
    (hh : (s.ctxOf i k l).helper = false) :
    runLane sh body i s k l =
      (s.stopLane (s.ctxOf i k l) (.trap code sub detail (BitVec.ofNat 64 i.word) false)).afterInstr (s.ctxOf i k l) := by
  have hk' : ¬ (mfind s.crews k).isNone = true := by
    cases h : mfind s.crews k <;> simp_all
  rw [runLane, if_neg hk']
  simp only [hr, hh, Bool.false_eq_true, if_false]

/-- A computation that raises nothing after the instruction. -/
theorem quietly_ok {body : Ctx → LaneM Unit} {c : Ctx} {s t : State} (h : body c s = .ok ((), t)) :
    quietly body c s = .ok (none, t) := by
  simp [quietly, bind, StateT.bind, h, Except.bind, pure, StateT.pure, Except.pure]

end Sys2Proof.Laws
end

