-- ==== Sys2Proof/Laws/Memory.lean ====
section
/-! SUPPORT. What writing physical memory does: every operation keeps the canonical form of the byte memory, and a byte outside the written
range reads as before (R76, R101, R422). -/

namespace Sys2Proof.Laws

open Sys2Proof.Machine

@[simp] theorem setTag_mem (s : State) (g : Nat) (b : Bool) : (s.setTag g b).mem = s.mem := rfl
@[simp] theorem setPoison_mem (s : State) (g : Nat) (b : Bool) : (s.setPoison g b).mem = s.mem := rfl
@[simp] theorem writeBlock_mem (s : State) (pa : Nat) (b : List Byte) : (s.writeBlock pa b).mem = memPuts s.mem pa b := rfl
@[simp] theorem zeroBlock_mem (s : State) (pa n : Nat) : (s.zeroBlock pa n).mem = memClear s.mem pa n := rfl
@[simp] theorem placed_mem (s : State) (n w : Nat) (tile : Bool) : (s.placed n w tile).mem = placedMem s.mem n w := rfl

/-- Bytes written to one granule are stored, unless the write is partial and the granule poisoned. -/
theorem writeGranule_mem (s : State) (pa : Nat) (b : List Byte) :
    (s.writeGranule pa b).mem = if b.length = 16 ∨ mget false s.poison (pa / 16) = false then memPuts s.mem pa b else s.mem := by
  unfold State.writeGranule
  split
  · simp [*]
  · cases h : mget false s.poison (pa / 16) <;> simp [*]

theorem writeGranule_wf {s : State} (h : s.mem.wf = true) (pa : Nat) (b : List Byte) : (s.writeGranule pa b).mem.wf = true := by
  rw [writeGranule_mem]
  split
  · exact memPuts_wf h pa b
  · exact h

theorem writeGranule_outside (s : State) (pa : Nat) (b : List Byte) {x : Nat} (h : x < pa ∨ pa + b.length ≤ x) :
    memGet (s.writeGranule pa b).mem x = memGet s.mem x := by
  rw [writeGranule_mem]
  split
  · rw [memGet_memPuts, if_neg (by omega)]
  · rfl

theorem writeGranules_wf {s : State} (h : s.mem.wf = true) (pa : Nat) (b : List Byte) (fuel : Nat) :
    (s.writeGranules pa b fuel).mem.wf = true := by
  induction fuel generalizing s pa b with
  | zero => exact h
  | succ n ih =>
    unfold State.writeGranules
    split
    · exact h
    · exact ih (writeGranule_wf h ..) ..

theorem writeGranules_outside (s : State) (pa : Nat) (b : List Byte) (fuel : Nat) {x : Nat} (h : x < pa ∨ pa + b.length ≤ x) :
    memGet (s.writeGranules pa b fuel).mem x = memGet s.mem x := by
  induction fuel generalizing s pa b with
  | zero => rfl
  | succ n ih =>
    unfold State.writeGranules
    split
    · rfl
    · have hl : (b.take (16 - pa % 16)).length + (b.drop (16 - pa % 16)).length = b.length := by
        rw [← List.length_append, List.take_append_drop]
      rw [ih _ _ _ (by omega), writeGranule_outside _ _ _ (by omega)]

/-- Writing bytes keeps the canonical form. -/
theorem write_wf {s : State} (h : s.mem.wf = true) (pa : Nat) (b : List Byte) : (s.write pa b).mem.wf = true := writeGranules_wf h ..

/-- Writing a number keeps the canonical form. -/
theorem writeNat_wf {s : State} (h : s.mem.wf = true) (pa x n : Nat) : (s.writeNat pa x n).mem.wf = true := writeGranules_wf h ..

/-- A byte outside the written bytes reads as before. -/
theorem write_outside (s : State) (pa : Nat) (b : List Byte) {x : Nat} (h : x < pa ∨ pa + b.length ≤ x) :
    memGet (s.write pa b).mem x = memGet s.mem x := writeGranules_outside s pa b _ h

/-- Writing whole granules keeps the canonical form. -/
theorem writeBlock_wf {s : State} (h : s.mem.wf = true) (pa : Nat) (b : List Byte) : (s.writeBlock pa b).mem.wf = true := memPuts_wf h ..

/-- Clearing whole granules keeps the canonical form. -/
theorem zeroBlock_wf {s : State} (h : s.mem.wf = true) (pa n : Nat) : (s.zeroBlock pa n).mem.wf = true := memClear_wf h ..

/-! ## Lines and copies -/

/-- Giving a line of memory new contents keeps the canonical form. -/
theorem putLine_wf {s : State} (h : s.mem.wf = true) (line : Nat) (l : Line) : (s.putLine line l).mem.wf = true := memPuts_wf h ..

/-- A byte outside a line reads as before once the line has new contents of at most 128 bytes. -/
theorem putLine_outside (s : State) (line : Nat) (l : Line) {x : Nat} (hl : l.data.length ≤ 128)
    (h : x < 128 * line ∨ 128 * line + 128 ≤ x) : memGet (s.putLine line l).mem x = memGet s.mem x := by
  show memGet (memPuts s.mem (128 * line) l.data) x = _
  rw [memGet_memPuts, if_neg (by omega)]

@[simp] theorem stampHome_mem (s : State) (line w r : Nat) : (s.stampHome line w r).mem = s.mem := by
  unfold State.stampHome
  split <;> rfl

@[simp] theorem noteLoad_mem (s : State) (line ts : Nat) : (s.noteLoad line ts).mem = s.mem := by
  unfold State.noteLoad
  dsimp only
  split <;> simp

@[simp] theorem holdHost_mem (s : State) (line : Nat) (w : Bool) : (s.holdHost line w).mem = s.mem := by
  unfold State.holdHost
  split <;> rfl

@[simp] theorem loadHome_mem (s : State) (pa : Nat) (op : LineOp) (t : Nat) : (s.loadHome pa op t).2.mem = s.mem := by
  simp [State.loadHome]

@[simp] theorem wakeWatchers_mem (s : State) (line : Nat) : (s.wakeWatchers line).mem = s.mem := by
  unfold State.wakeWatchers
  generalize s.watchers line = l
  induction l generalizing s with
  | nil => rfl
  | cons x r ih =>
    rw [List.foldl_cons, ih]
    dsimp only
    split <;> simp

/-- A store at the home keeps the canonical form. -/
theorem noteStore_wf {s : State} (h : s.mem.wf = true) (line ts : Nat) (l : Line) : (s.noteStore line ts l).mem.wf = true := by
  have hosts : ∀ (xs : List (Nat × Copy)) (t : State),
      (xs.foldl (fun (s : State) x => (s.dropCopy x.1 line).send (.snoop x.1 line)) t).mem = t.mem := by
    intro xs
    induction xs with
    | nil => intro t; rfl
    | cons x r ih => intro t; rw [List.foldl_cons, ih]; rfl
  unfold State.noteStore
  rw [wakeWatchers_mem]
  dsimp only
  split
  · simpa using putLine_wf h line l
  · simp only [hosts, stampHome_mem]
    exact putLine_wf h line l

/-- An operation at the home keeps the canonical form. -/
theorem atHome_wf {s : State} (h : s.mem.wf = true) (pa : Nat) (op : LineOp) (t : Nat) : (s.atHome pa op t).2.mem.wf = true := by
  unfold State.atHome
  split
  · simpa using h
  · exact noteStore_wf (by simpa using h) ..

/-- An operation on memory itself keeps the canonical form. -/
theorem memRun_wf {s : State} (h : s.mem.wf = true) (pa : Nat) (op : LineOp) : (s.memRun pa op).2.mem.wf = true := by
  cases op with
  | load off n => exact h
  | _ => exact putLine_wf h ..

/-- An operation on a staging word keeps the canonical form. -/
theorem stageOp_wf {s : State} (h : s.mem.wf = true) (pa : Nat) (op : LineOp) (t : Nat) : (s.stageOp pa op t).2.mem.wf = true :=
  memRun_wf (s := (s.stageEnter pa op.isLoad t).2) h pa op

/-- An operation performed where its address lies keeps the canonical form. -/
theorem opAt_wf {s : State} (h : s.mem.wf = true) (pa : Nat) (op : LineOp) (t : Nat) : (s.opAt pa op t).2.mem.wf = true := by
  unfold State.opAt
  split
  · exact stageOp_wf h ..
  · split
    · exact atHome_wf h ..
    · exact memRun_wf h ..

/-- Storing bytes line by line keeps the canonical form. -/
theorem storeParts_wf {s : State} (h : s.mem.wf = true) (pa : Nat) (b : List Byte) (t fuel : Nat) :
    (s.storeParts pa b t fuel).2.mem.wf = true := by
  induction fuel generalizing s pa b with
  | zero => exact h
  | succ n ih =>
    unfold State.storeParts
    split
    · exact h
    · exact ih (opAt_wf h ..) ..

theorem storeBytes_wf {s : State} (h : s.mem.wf = true) (pa : Nat) (b : List Byte) (t : Nat) : (s.storeBytes pa b t).2.mem.wf = true :=
  storeParts_wf h ..

/-- What an agent's own copy serves leaves memory as it is. -/
theorem atOwn_mem {s u : State} {agent line : Nat} {op : LineOp} {t : Nat} {r : LineResult} (h : s.atOwn agent line op t = some (r, u)) :
    u.mem = s.mem := by
  unfold State.atOwn at h
  split at h
  · cases h
  · dsimp only at h
    split at h
    · obtain ⟨ts, -, e⟩ := Option.map_eq_some_iff.1 h
      cases e
      rfl
    · split at h
      · cases h
        simp [State.setCopy]
      · cases h

/-- Giving up a copy keeps the canonical form. -/
theorem evictOwn_wf {s : State} (h : s.mem.wf = true) (agent line : Nat) : (s.evictOwn agent line).mem.wf = true := by
  unfold State.evictOwn
  split
  · exact h
  · dsimp only
    split
    · rw [stampHome_mem]
      split
      · exact putLine_wf (s := s.dropCopy agent line) h ..
      · exact h
    · split
      · exact h
      · split <;> exact h

/-- A change of a line's bytes keeps the canonical form. -/
theorem amend_wf {s : State} (h : s.mem.wf = true) (line : Nat) (f : Line → Line) : (s.amend line f).mem.wf = true := by
  unfold State.amend
  dsimp only
  split <;> exact putLine_wf h ..

/-- The walker's update of a page-table entry keeps the canonical form. -/
theorem markUsed_wf {s : State} (h : s.mem.wf = true) (l : Leaf) (w : Bool) : (s.markUsed l w).mem.wf = true := by
  unfold State.markUsed
  generalize (l.entry ||| 8 ||| (if w then 4 else 0)) = e
  dsimp only
  split
  · exact h
  · exact amend_wf h ..

/-- Placing a word keeps the canonical form. -/
theorem placedMem_wf {m : Memory} (h : m.wf = true) (n w : Nat) : (placedMem m n w).wf = true :=
  memPuts_wf (memPuts_wf (memPuts_wf (memPuts_wf h ..) ..) ..) ..

end Sys2Proof.Laws
end

