-- ==== Sys2Proof/Laws/Operands.lean ====
section
/-! SUPPORT. What reading a source and preparing a destination can do: they step one index register of the lane and nothing else. -/

namespace Sys2Proof.Laws

open Sys2Proof.Machine

/-- A use of [xi] names a word in the window and the array, and steps the cursor of xi. -/
theorem arrayUse_ok {c : Ctx} {i words w : Nat} {s s' : State} (h : arrayUse c i words s = .ok (w, s')) :
    ∃ cur next, w = ((s.thread c.crew c.lane).xreg i).base.toNat + cur ∧ cur < ((s.thread c.crew c.lane).xreg i).bound.toNat ∧
      w < c.a ∧ ((s.thread c.crew c.lane).xreg i).mode ≠ 3 ∧
      s' = s.modThread c.crew c.lane fun t => { t with x := mset t.x i { (s.thread c.crew c.lane).xreg i with cursor := next } } := by
  simp only [arrayUse, bind_run, me_run, ite_run, trap_run, pure_run, modMe_run] at h
  repeat' split at h
  all_goals try (cases h; done)
  all_goals
    rename_i hm _ h1 _ _
    simp only [Except.ok.injEq, Prod.mk.injEq] at h
    obtain ⟨rfl, rfl⟩ := h
    simp only [decide_eq_true_eq, not_or, Nat.not_le] at h1
    exact ⟨_, _, rfl, h1.1, h1.2, hm, rfl⟩

/-- What an operand use leaves: the state as it was, or with one index register of the lane stepped. -/
def Stepped (c : Ctx) (s t : State) : Prop :=
  t = s ∨ ∃ xs, t = s.modThread c.crew c.lane fun u => { u with x := xs }

theorem awaitHold_ok {c : Ctx} {u : Thread} {r : Nat} {s t : State} (h : awaitHold c u r s = .ok ((), t)) : t = s := by
  simp only [awaitHold, ite_run, stop_run, pure_run] at h
  split at h
  · cases h
  · cases h
    rfl

theorem src_ok {c : Ctx} {f : Nat} {s t : State} {y : Word} (h : src c f s = .ok (y, t)) : Stepped c s t := by
  simp only [src, bind_run, me_run, ite_run, pure_run, myCrew_run] at h
  split at h
  · split at h
    · rename_i ha
      cases h
      exact .inl (awaitHold_ok ha)
    · cases h
  · split at h
    · cases h
      exact .inl rfl
    · split at h
      · split at h
        · rename_i ha
          cases h
          obtain ⟨_, _, _, _, _, _, e⟩ := arrayUse_ok ha
          exact .inr ⟨_, e⟩
        · cases h
      · cases h
        exact .inl rfl

theorem srcD_ok {c : Ctx} {f : Nat} {s t : State} {y : DWord} (h : srcD c f s = .ok (y, t)) : Stepped c s t := by
  simp only [srcD, bind_run, me_run, ite_run, pure_run, myCrew_run] at h
  split at h
  · split at h
    · rename_i ha
      split at h
      · rename_i hb
        cases h
        exact .inl ((awaitHold_ok hb).trans (awaitHold_ok ha))
      · cases h
    · cases h
  · split at h
    · cases h
      exact .inl rfl
    · split at h
      · split at h
        · rename_i ha
          cases h
          obtain ⟨_, _, _, _, _, _, e⟩ := arrayUse_ok ha
          exact .inr ⟨_, e⟩
        · cases h
      · cases h
        exact .inl rfl

theorem srcV_ok {c : Ctx} {v : BitVec 1} {f : Nat} {s t : State} {y : DWord} (h : srcV c v f s = .ok (y, t)) : Stepped c s t := by
  simp only [srcV, bind_run, ite_run, pure_run] at h
  split at h
  · split at h
    · rename_i ha
      cases h
      exact src_ok ha
    · cases h
  · exact srcD_ok h

/-- Reading four named registers changes nothing. -/
theorem srcQ_ok {c : Ctx} {f : Nat} {s t : State} {y : List Word} (h : srcQ c f s = .ok (y, t)) :
    t = s ∧ y = [(s.thread c.crew c.lane).reg f, (s.thread c.crew c.lane).reg (f + 1), (s.thread c.crew c.lane).reg (f + 2),
      (s.thread c.crew c.lane).reg (f + 3)] := by
  simp only [srcQ, bind_run, me_run, pure_run] at h
  split at h
  · rename_i h0
    split at h
    · rename_i h1
      split at h
      · rename_i h2
        split at h
        · rename_i h3
          cases h
          exact ⟨(awaitHold_ok h3).trans ((awaitHold_ok h2).trans ((awaitHold_ok h1).trans (awaitHold_ok h0))), rfl⟩
        · cases h
      · cases h
    · cases h
  · cases h

/-- The kind of place a specifier names. -/
def PlaceOf (c : Ctx) (f : Nat) : Place_ → Prop
  | .named r => r = f ∧ f < 32
  | .queue => 32 ≤ f ∧ f < 48
  | .array w => 48 ≤ f ∧ w < c.a

/-- Preparing a destination of one or two words. -/
theorem dst_ok {c : Ctx} {f words : Nat} {s t : State} {pl : Place_} (h : dst c f words s = .ok (pl, t)) :
    Stepped c s t ∧ PlaceOf c f pl := by
  simp only [dst, bind_run, me_run, ite_run, pure_run] at h
  split at h
  · rename_i hf
    split at h
    · rename_i ha
      split at h
      · split at h
        · rename_i hb
          cases h
          exact ⟨.inl ((awaitHold_ok hb).trans (awaitHold_ok ha)), rfl, hf⟩
        · cases h
      · cases h
        exact ⟨.inl (awaitHold_ok ha), rfl, hf⟩
    · cases h
  · rename_i hf
    split at h
    · rename_i hg
      cases h
      exact ⟨.inl rfl, ⟨by omega, hg⟩⟩
    · split at h
      · rename_i ha
        cases h
        obtain ⟨_, _, _, _, hw, _, e⟩ := arrayUse_ok ha
        exact ⟨.inr ⟨_, e⟩, ⟨by omega, hw⟩⟩
      · cases h

theorem dstV_ok {c : Ctx} {v : BitVec 1} {f : Nat} {s t : State} {pl : Place_} (h : dstV c v f s = .ok (pl, t)) :
    Stepped c s t ∧ PlaceOf c f pl :=
  dst_ok h

end Sys2Proof.Laws
end

