-- ==== Sys2Proof/Laws/PerInstr.lean ====
section
/-! SUPPORT. Per instruction: decoding the words of a well-formed instruction gives it back. -/

namespace Sys2Proof.Laws

/-- A field of a word that has the field's value. -/
theorem bits_of {w lo n : Nat} {f : BitVec n} (h : w / 2 ^ lo % 2 ^ n = f.toNat) : bits w lo n = f := by
  unfold bits
  rw [h]
  simp

/-- A lane or stream word that its fields decode to a well-formed instruction. -/
theorem decode_odd {w : Nat} {i : Instr} (h : w % 2 = 1) (hi : decodeFields w = some i) (hw : i.wf = true) :
    decodeTableWord 32 w = some i := by
  simp [decodeTableWord, decode32, h, hi, hw, Except.toOption]

/-- A bench word that its fields decode to a well-formed instruction. -/
theorem decode_even {w : Nat} {i : Instr} (h : w % 2 = 0) (hi : decodeBench w = some i) (hw : i.wf = true) :
    decodeTableWord 32 w = some i := by
  simp [decodeTableWord, decodeWord, h, hi, hw]

/-- A 16-bit word that its fields decode to a well-formed instruction. -/
theorem decode_short {w : Nat} {i : Instr} (h : w < 65536) (hi : decodeShort w = some i) (hw : i.wf = true) :
    decodeTableWord 16 w = some i := by
  simp [decodeTableWord, decode16, Nat.mod_eq_of_lt h, hi, hw, Except.toOption]

/-- The number that segments make, the lowest first: each has a width and a value. -/
def joined : List (Nat × Nat) → Nat
  | [] => 0
  | (n, v) :: r => v + 2 ^ n * joined r

/-- Every segment's value fits its width. -/
def Fits : List (Nat × Nat) → Prop
  | [] => True
  | (n, v) :: r => v < 2 ^ n ∧ Fits r

/-- The width of segments together. -/
def total : List (Nat × Nat) → Nat
  | [] => 0
  | (n, _) :: r => n + total r

theorem joined_field (pre : List (Nat × Nat)) {n v : Nat} {post : List (Nat × Nat)} (h : Fits (pre ++ (n, v) :: post)) :
    joined (pre ++ (n, v) :: post) / 2 ^ total pre % 2 ^ n = v := by
  induction pre with
  | nil => simp [joined, total, Nat.mod_eq_of_lt h.1]
  | cons e r ih =>
    obtain ⟨m, x⟩ := e
    have hx : x < 2 ^ m := h.1
    simp only [List.cons_append, joined, total, Nat.pow_add]
    rw [← Nat.div_div_eq_div_mul, Nat.add_mul_div_left _ _ (Nat.two_pow_pos m), Nat.div_eq_of_lt hx, Nat.zero_add]
    exact ih h.2

theorem segment_at {w : Nat} {segs : List (Nat × Nat)} (e : w = joined segs) (hf : Fits segs) (k : Nat) {lo n v : Nat}
    (h : segs.drop k = (n, v) :: segs.drop (k + 1)) (hlo : total (segs.take k) = lo) : w / 2 ^ lo % 2 ^ n = v := by
  have hs : segs = segs.take k ++ (n, v) :: segs.drop (k + 1) := by rw [← h, List.take_append_drop]
  rw [e, ← hlo]
  rw [hs] at hf
  have := joined_field _ hf
  rw [← hs] at this
  exact this

/-- The field that a segment is. -/
theorem field_at {w : Nat} {segs : List (Nat × Nat)} (e : w = joined segs) (hf : Fits segs) (k : Nat) {lo n : Nat} {f : BitVec n}
    (h : segs.drop k = (n, f.toNat) :: segs.drop (k + 1)) (hlo : total (segs.take k) = lo) : bits w lo n = f :=
  bits_of (segment_at e hf k h hlo)

/-- The number that a segment holds. -/
theorem number_at {w : Nat} {segs : List (Nat × Nat)} (e : w = joined segs) (hf : Fits segs) (k : Nat) {lo n v : Nat}
    (h : segs.drop k = (n, v) :: segs.drop (k + 1)) (hlo : total (segs.take k) = lo) : nbits w lo n = v :=
  segment_at e hf k h hlo

theorem back_even {w : BitVec 8} (h : backOk w) : w.toNat % 8 = 0 := by
  revert h
  revert w
  decide

theorem words_of {n m w x : Nat} (h : some (n, w) = some (m, x)) : n = m ∧ w = x := by simpa using h

theorem fields_00 {w : Nat} (h : nbits w 1 7 = 0x00) : decodeFields w = decodeMajor00 w := by
  unfold decodeFields
  rw [h]
  rfl

theorem fields_01 {w : Nat} (h : nbits w 1 7 = 0x01) : decodeFields w = decodeMajor01 w := by
  unfold decodeFields
  rw [h]
  rfl

theorem fields_02 {w : Nat} (h : nbits w 1 7 = 0x02) : decodeFields w = decodeMajor02 w := by
  unfold decodeFields
  rw [h]
  rfl

theorem fields_03 {w : Nat} (h : nbits w 1 7 = 0x03) : decodeFields w = decodeMajor03 w := by
  unfold decodeFields
  rw [h]
  rfl

theorem fields_04 {w : Nat} (h : nbits w 1 7 = 0x04) : decodeFields w = decodeMajor04 w := by
  unfold decodeFields
  rw [h]
  rfl

theorem fields_05 {w : Nat} (h : nbits w 1 7 = 0x05) : decodeFields w = decodeMajor05 w := by
  unfold decodeFields
  rw [h]
  rfl

theorem fields_06 {w : Nat} (h : nbits w 1 7 = 0x06) : decodeFields w = decodeMajor06 w := by
  unfold decodeFields
  rw [h]
  rfl

theorem fields_07 {w : Nat} (h : nbits w 1 7 = 0x07) : decodeFields w = decodeMajor07 w := by
  unfold decodeFields
  rw [h]
  rfl

theorem fields_08 {w : Nat} (h : nbits w 1 7 = 0x08) : decodeFields w = decodeMajor08 w := by
  unfold decodeFields
  rw [h]
  rfl

theorem fields_09 {w : Nat} (h : nbits w 1 7 = 0x09) : decodeFields w = decodeMajor09 w := by
  unfold decodeFields
  rw [h]
  rfl

theorem fields_0a {w : Nat} (h : nbits w 1 7 = 0x0a) : decodeFields w = decodeMajor0a w := by
  unfold decodeFields
  rw [h]
  rfl

theorem fields_0b {w : Nat} (h : nbits w 1 7 = 0x0b) : decodeFields w = decodeMajor0b w := by
  unfold decodeFields
  rw [h]
  rfl

theorem fields_0c {w : Nat} (h : nbits w 1 7 = 0x0c) : decodeFields w = decodeMajor0c w := by
  unfold decodeFields
  rw [h]
  rfl

theorem fields_0d {w : Nat} (h : nbits w 1 7 = 0x0d) : decodeFields w = decodeMajor0d w := by
  unfold decodeFields
  rw [h]
  rfl

theorem fields_0e {w : Nat} (h : nbits w 1 7 = 0x0e) : decodeFields w = decodeMajor0e w := by
  unfold decodeFields
  rw [h]
  rfl

theorem fields_0f {w : Nat} (h : nbits w 1 7 = 0x0f) : decodeFields w = decodeMajor0f w := by
  unfold decodeFields
  rw [h]
  rfl

theorem fields_10 {w : Nat} (h : nbits w 1 7 = 0x10) : decodeFields w = decodeMajor10 w := by
  unfold decodeFields
  rw [h]
  rfl

theorem fields_11 {w : Nat} (h : nbits w 1 7 = 0x11) : decodeFields w = decodeMajor11 w := by
  unfold decodeFields
  rw [h]
  rfl

theorem fields_12 {w : Nat} (h : nbits w 1 7 = 0x12) : decodeFields w = decodeMajor12 w := by
  unfold decodeFields
  rw [h]
  rfl

theorem fields_13 {w : Nat} (h : nbits w 1 7 = 0x13) : decodeFields w = decodeMajor13 w := by
  unfold decodeFields
  rw [h]
  rfl

theorem fields_14 {w : Nat} (h : nbits w 1 7 = 0x14) : decodeFields w = decodeMajor14 w := by
  unfold decodeFields
  rw [h]
  rfl

theorem fields_15 {w : Nat} (h : nbits w 1 7 = 0x15) : decodeFields w = decodeMajor15 w := by
  unfold decodeFields
  rw [h]
  rfl

theorem fields_16 {w : Nat} (h : nbits w 1 7 = 0x16) : decodeFields w = decodeMajor16 w := by
  unfold decodeFields
  rw [h]
  rfl

theorem fields_17 {w : Nat} (h : nbits w 1 7 = 0x17) : decodeFields w = decodeMajor17 w := by
  unfold decodeFields
  rw [h]
  rfl

theorem fields_18 {w : Nat} (h : nbits w 1 7 = 0x18) : decodeFields w = decodeMajor18 w := by
  unfold decodeFields
  rw [h]
  rfl

theorem fields_19 {w : Nat} (h : nbits w 1 7 = 0x19) : decodeFields w = decodeMajor19 w := by
  unfold decodeFields
  rw [h]
  rfl

theorem fields_1a {w : Nat} (h : nbits w 1 7 = 0x1a) : decodeFields w = decodeMajor1a w := by
  unfold decodeFields
  rw [h]
  rfl

theorem fields_1b {w : Nat} (h : nbits w 1 7 = 0x1b) : decodeFields w = decodeMajor1b w := by
  unfold decodeFields
  rw [h]
  rfl

theorem fields_1c {w : Nat} (h : nbits w 1 7 = 0x1c) : decodeFields w = decodeMajor1c w := by
  unfold decodeFields
  rw [h]
  rfl

theorem fields_1d {w : Nat} (h : nbits w 1 7 = 0x1d) : decodeFields w = decodeMajor1d w := by
  unfold decodeFields
  rw [h]
  rfl

theorem fields_1e {w : Nat} (h : nbits w 1 7 = 0x1e) : decodeFields w = decodeMajor1e w := by
  unfold decodeFields
  rw [h]
  rfl

theorem fields_1f {w : Nat} (h : nbits w 1 7 = 0x1f) : decodeFields w = decodeMajor1f w := by
  unfold decodeFields
  rw [h]
  rfl

theorem fields_20 {w : Nat} (h : nbits w 1 7 = 0x20) : decodeFields w = decodeMajor20 w := by
  unfold decodeFields
  rw [h]
  rfl

theorem fields_21 {w : Nat} (h : nbits w 1 7 = 0x21) : decodeFields w = decodeMajor21 w := by
  unfold decodeFields
  rw [h]
  rfl

theorem fields_22 {w : Nat} (h : nbits w 1 7 = 0x22) : decodeFields w = decodeMajor22 w := by
  unfold decodeFields
  rw [h]
  rfl

theorem fields_23 {w : Nat} (h : nbits w 1 7 = 0x23) : decodeFields w = decodeMajor23 w := by
  unfold decodeFields
  rw [h]
  rfl

theorem fields_24 {w : Nat} (h : nbits w 1 7 = 0x24) : decodeFields w = decodeMajor24 w := by
  unfold decodeFields
  rw [h]
  rfl

theorem fields_25 {w : Nat} (h : nbits w 1 7 = 0x25) : decodeFields w = decodeMajor25 w := by
  unfold decodeFields
  rw [h]
  rfl

theorem fields_26 {w : Nat} (h : nbits w 1 7 = 0x26) : decodeFields w = decodeMajor26 w := by
  unfold decodeFields
  rw [h]
  rfl

theorem fields_27 {w : Nat} (h : nbits w 1 7 = 0x27) : decodeFields w = decodeMajor27 w := by
  unfold decodeFields
  rw [h]
  rfl

theorem fields_28 {w : Nat} (h : nbits w 1 7 = 0x28) : decodeFields w = decodeMajor28 w := by
  unfold decodeFields
  rw [h]
  rfl

theorem fields_29 {w : Nat} (h : nbits w 1 7 = 0x29) : decodeFields w = decodeMajor29 w := by
  unfold decodeFields
  rw [h]
  rfl

theorem fields_2a {w : Nat} (h : nbits w 1 7 = 0x2a) : decodeFields w = decodeMajor2a w := by
  unfold decodeFields
  rw [h]
  rfl

theorem fields_2b {w : Nat} (h : nbits w 1 7 = 0x2b) : decodeFields w = decodeMajor2b w := by
  unfold decodeFields
  rw [h]
  rfl

theorem fields_2c {w : Nat} (h : nbits w 1 7 = 0x2c) : decodeFields w = decodeMajor2c w := by
  unfold decodeFields
  rw [h]
  rfl

theorem fields_2d {w : Nat} (h : nbits w 1 7 = 0x2d) : decodeFields w = decodeMajor2d w := by
  unfold decodeFields
  rw [h]
  rfl

theorem fields_2e {w : Nat} (h : nbits w 1 7 = 0x2e) : decodeFields w = decodeMajor2e w := by
  unfold decodeFields
  rw [h]
  rfl

theorem fields_2f {w : Nat} (h : nbits w 1 7 = 0x2f) : decodeFields w = decodeMajor2f w := by
  unfold decodeFields
  rw [h]
  rfl

theorem fields_30 {w : Nat} (h : nbits w 1 7 = 0x30) : decodeFields w = decodeMajor30 w := by
  unfold decodeFields
  rw [h]
  rfl

theorem fields_31 {w : Nat} (h : nbits w 1 7 = 0x31) : decodeFields w = decodeMajor31 w := by
  unfold decodeFields
  rw [h]
  rfl

theorem fields_32 {w : Nat} (h : nbits w 1 7 = 0x32) : decodeFields w = decodeMajor32 w := by
  unfold decodeFields
  rw [h]
  rfl

theorem fields_33 {w : Nat} (h : nbits w 1 7 = 0x33) : decodeFields w = decodeMajor33 w := by
  unfold decodeFields
  rw [h]
  rfl

theorem fields_34 {w : Nat} (h : nbits w 1 7 = 0x34) : decodeFields w = decodeMajor34 w := by
  unfold decodeFields
  rw [h]
  rfl

theorem fields_35 {w : Nat} (h : nbits w 1 7 = 0x35) : decodeFields w = decodeMajor35 w := by
  unfold decodeFields
  rw [h]
  rfl

theorem fields_36 {w : Nat} (h : nbits w 1 7 = 0x36) : decodeFields w = decodeMajor36 w := by
  unfold decodeFields
  rw [h]
  rfl

theorem fields_38 {w : Nat} (h : nbits w 1 7 = 0x38) : decodeFields w = decodeMajor38 w := by
  unfold decodeFields
  rw [h]
  rfl

theorem fields_39 {w : Nat} (h : nbits w 1 7 = 0x39) : decodeFields w = decodeMajor39 w := by
  unfold decodeFields
  rw [h]
  rfl

theorem fields_3a {w : Nat} (h : nbits w 1 7 = 0x3a) : decodeFields w = decodeMajor3a w := by
  unfold decodeFields
  rw [h]
  rfl

theorem fields_3b {w : Nat} (h : nbits w 1 7 = 0x3b) : decodeFields w = decodeMajor3b w := by
  unfold decodeFields
  rw [h]
  rfl

theorem fields_3c {w : Nat} (h : nbits w 1 7 = 0x3c) : decodeFields w = decodeMajor3c w := by
  unfold decodeFields
  rw [h]
  rfl

theorem fields_3d {w : Nat} (h : nbits w 1 7 = 0x3d) : decodeFields w = decodeMajor3d w := by
  unfold decodeFields
  rw [h]
  rfl

theorem fields_3e {w : Nat} (h : nbits w 1 7 = 0x3e) : decodeFields w = decodeMajor3e w := by
  unfold decodeFields
  rw [h]
  rfl

theorem fields_40 {w : Nat} (h : nbits w 1 7 = 0x40) : decodeFields w = decodeMajor40 w := by
  unfold decodeFields
  rw [h]
  rfl

theorem fields_41 {w : Nat} (h : nbits w 1 7 = 0x41) : decodeFields w = decodeMajor41 w := by
  unfold decodeFields
  rw [h]
  rfl

theorem fields_42 {w : Nat} (h : nbits w 1 7 = 0x42) : decodeFields w = decodeMajor42 w := by
  unfold decodeFields
  rw [h]
  rfl

theorem fields_43 {w : Nat} (h : nbits w 1 7 = 0x43) : decodeFields w = decodeMajor43 w := by
  unfold decodeFields
  rw [h]
  rfl

theorem fields_44 {w : Nat} (h : nbits w 1 7 = 0x44) : decodeFields w = decodeMajor44 w := by
  unfold decodeFields
  rw [h]
  rfl

theorem fields_45 {w : Nat} (h : nbits w 1 7 = 0x45) : decodeFields w = decodeMajor45 w := by
  unfold decodeFields
  rw [h]
  rfl

theorem fields_46 {w : Nat} (h : nbits w 1 7 = 0x46) : decodeFields w = decodeMajor46 w := by
  unfold decodeFields
  rw [h]
  rfl

theorem fields_47 {w : Nat} (h : nbits w 1 7 = 0x47) : decodeFields w = decodeMajor47 w := by
  unfold decodeFields
  rw [h]
  rfl

theorem fields_48 {w : Nat} (h : nbits w 1 7 = 0x48) : decodeFields w = decodeMajor48 w := by
  unfold decodeFields
  rw [h]
  rfl

theorem fields_49 {w : Nat} (h : nbits w 1 7 = 0x49) : decodeFields w = decodeMajor49 w := by
  unfold decodeFields
  rw [h]
  rfl

theorem fields_4a {w : Nat} (h : nbits w 1 7 = 0x4a) : decodeFields w = decodeMajor4a w := by
  unfold decodeFields
  rw [h]
  rfl

theorem fields_4b {w : Nat} (h : nbits w 1 7 = 0x4b) : decodeFields w = decodeMajor4b w := by
  unfold decodeFields
  rw [h]
  rfl

theorem fields_4c {w : Nat} (h : nbits w 1 7 = 0x4c) : decodeFields w = decodeMajor4c w := by
  unfold decodeFields
  rw [h]
  rfl

theorem fields_4d {w : Nat} (h : nbits w 1 7 = 0x4d) : decodeFields w = decodeMajor4d w := by
  unfold decodeFields
  rw [h]
  rfl

theorem fields_4e {w : Nat} (h : nbits w 1 7 = 0x4e) : decodeFields w = decodeMajor4e w := by
  unfold decodeFields
  rw [h]
  rfl

theorem fields_4f {w : Nat} (h : nbits w 1 7 = 0x4f) : decodeFields w = decodeMajor4f w := by
  unfold decodeFields
  rw [h]
  rfl

theorem fields_50 {w : Nat} (h : nbits w 1 7 = 0x50) : decodeFields w = decodeMajor50 w := by
  unfold decodeFields
  rw [h]
  rfl

theorem fields_51 {w : Nat} (h : nbits w 1 7 = 0x51) : decodeFields w = decodeMajor51 w := by
  unfold decodeFields
  rw [h]
  rfl

theorem fields_52 {w : Nat} (h : nbits w 1 7 = 0x52) : decodeFields w = decodeMajor52 w := by
  unfold decodeFields
  rw [h]
  rfl

theorem fields_53 {w : Nat} (h : nbits w 1 7 = 0x53) : decodeFields w = decodeMajor53 w := by
  unfold decodeFields
  rw [h]
  rfl

theorem fields_54 {w : Nat} (h : nbits w 1 7 = 0x54) : decodeFields w = decodeMajor54 w := by
  unfold decodeFields
  rw [h]
  rfl

theorem fields_55 {w : Nat} (h : nbits w 1 7 = 0x55) : decodeFields w = decodeMajor55 w := by
  unfold decodeFields
  rw [h]
  rfl

theorem fields_56 {w : Nat} (h : nbits w 1 7 = 0x56) : decodeFields w = decodeMajor56 w := by
  unfold decodeFields
  rw [h]
  rfl

theorem fields_57 {w : Nat} (h : nbits w 1 7 = 0x57) : decodeFields w = decodeMajor57 w := by
  unfold decodeFields
  rw [h]
  rfl

theorem fields_58 {w : Nat} (h : nbits w 1 7 = 0x58) : decodeFields w = decodeMajor58 w := by
  unfold decodeFields
  rw [h]
  rfl

theorem fields_59 {w : Nat} (h : nbits w 1 7 = 0x59) : decodeFields w = decodeMajor59 w := by
  unfold decodeFields
  rw [h]
  rfl

theorem fields_5a {w : Nat} (h : nbits w 1 7 = 0x5a) : decodeFields w = decodeMajor5a w := by
  unfold decodeFields
  rw [h]
  rfl

theorem fields_5b {w : Nat} (h : nbits w 1 7 = 0x5b) : decodeFields w = decodeMajor5b w := by
  unfold decodeFields
  rw [h]
  rfl

theorem fields_5c {w : Nat} (h : nbits w 1 7 = 0x5c) : decodeFields w = decodeMajor5c w := by
  unfold decodeFields
  rw [h]
  rfl

theorem fields_5d {w : Nat} (h : nbits w 1 7 = 0x5d) : decodeFields w = decodeMajor5d w := by
  unfold decodeFields
  rw [h]
  rfl

theorem fields_5e {w : Nat} (h : nbits w 1 7 = 0x5e) : decodeFields w = decodeMajor5e w := by
  unfold decodeFields
  rw [h]
  rfl

theorem fields_5f {w : Nat} (h : nbits w 1 7 = 0x5f) : decodeFields w = decodeMajor5f w := by
  unfold decodeFields
  rw [h]
  rfl

theorem fields_60 {w : Nat} (h : nbits w 1 7 = 0x60) : decodeFields w = decodeMajor60 w := by
  unfold decodeFields
  rw [h]
  rfl

theorem fields_61 {w : Nat} (h : nbits w 1 7 = 0x61) : decodeFields w = decodeMajor61 w := by
  unfold decodeFields
  rw [h]
  rfl

theorem fields_62 {w : Nat} (h : nbits w 1 7 = 0x62) : decodeFields w = decodeMajor62 w := by
  unfold decodeFields
  rw [h]
  rfl

theorem fields_63 {w : Nat} (h : nbits w 1 7 = 0x63) : decodeFields w = decodeMajor63 w := by
  unfold decodeFields
  rw [h]
  rfl

theorem fields_64 {w : Nat} (h : nbits w 1 7 = 0x64) : decodeFields w = decodeMajor64 w := by
  unfold decodeFields
  rw [h]
  rfl

theorem fields_65 {w : Nat} (h : nbits w 1 7 = 0x65) : decodeFields w = decodeMajor65 w := by
  unfold decodeFields
  rw [h]
  rfl

theorem fields_66 {w : Nat} (h : nbits w 1 7 = 0x66) : decodeFields w = decodeMajor66 w := by
  unfold decodeFields
  rw [h]
  rfl

theorem fields_67 {w : Nat} (h : nbits w 1 7 = 0x67) : decodeFields w = decodeMajor67 w := by
  unfold decodeFields
  rw [h]
  rfl

theorem fields_68 {w : Nat} (h : nbits w 1 7 = 0x68) : decodeFields w = decodeMajor68 w := by
  unfold decodeFields
  rw [h]
  rfl

theorem fields_69 {w : Nat} (h : nbits w 1 7 = 0x69) : decodeFields w = decodeMajor69 w := by
  unfold decodeFields
  rw [h]
  rfl

theorem fields_6a {w : Nat} (h : nbits w 1 7 = 0x6a) : decodeFields w = decodeMajor6a w := by
  unfold decodeFields
  rw [h]
  rfl

theorem fields_6b {w : Nat} (h : nbits w 1 7 = 0x6b) : decodeFields w = decodeMajor6b w := by
  unfold decodeFields
  rw [h]
  rfl

theorem fields_6c {w : Nat} (h : nbits w 1 7 = 0x6c) : decodeFields w = decodeMajor6c w := by
  unfold decodeFields
  rw [h]
  rfl

theorem fields_6d {w : Nat} (h : nbits w 1 7 = 0x6d) : decodeFields w = decodeMajor6d w := by
  unfold decodeFields
  rw [h]
  rfl

theorem fields_6e {w : Nat} (h : nbits w 1 7 = 0x6e) : decodeFields w = decodeMajor6e w := by
  unfold decodeFields
  rw [h]
  rfl

theorem fields_70 {w : Nat} (h : nbits w 1 7 = 0x70) : decodeFields w = decodeMajor70 w := by
  unfold decodeFields
  rw [h]
  rfl

theorem fields_71 {w : Nat} (h : nbits w 1 7 = 0x71) : decodeFields w = decodeMajor71 w := by
  unfold decodeFields
  rw [h]
  rfl

theorem fields_72 {w : Nat} (h : nbits w 1 7 = 0x72) : decodeFields w = decodeMajor72 w := by
  unfold decodeFields
  rw [h]
  rfl

theorem fields_73 {w : Nat} (h : nbits w 1 7 = 0x73) : decodeFields w = decodeMajor73 w := by
  unfold decodeFields
  rw [h]
  rfl

theorem fields_78 {w : Nat} (h : nbits w 1 7 = 0x78) : decodeFields w = decodeMajor78 w := by
  unfold decodeFields
  rw [h]
  rfl

theorem fields_79 {w : Nat} (h : nbits w 1 7 = 0x79) : decodeFields w = decodeMajor79 w := by
  unfold decodeFields
  rw [h]
  rfl

theorem fields_7a {w : Nat} (h : nbits w 1 7 = 0x7a) : decodeFields w = decodeMajor7a w := by
  unfold decodeFields
  rw [h]
  rfl

theorem fields_7b {w : Nat} (h : nbits w 1 7 = 0x7b) : decodeFields w = decodeMajor7b w := by
  unfold decodeFields
  rw [h]
  rfl

theorem fields_7c {w : Nat} (h : nbits w 1 7 = 0x7c) : decodeFields w = decodeMajor7c w := by
  unfold decodeFields
  rw [h]
  rfl

theorem fields_7d {w : Nat} (h : nbits w 1 7 = 0x7d) : decodeFields w = decodeMajor7d w := by
  unfold decodeFields
  rw [h]
  rfl

theorem fields_7e {w : Nat} (h : nbits w 1 7 = 0x7e) : decodeFields w = decodeMajor7e w := by
  unfold decodeFields
  rw [h]
  rfl

/-- Decoding the words of an instruction gives it back, where it is well-formed. -/
def Encodes.Statement (i : Instr) : Prop :=
  i.wf = true → ∀ n w, encode i = some (n, w) → decodeTableWord n w = some i


theorem Encodes.add (v : BitVec 1) (b : BitVec 6) (a : BitVec 6) (d : BitVec 6) (n : BitVec 1) (p : BitVec 4) : Encodes.Statement (.add v b a d n p) := by
  intro hwf nb word henc
  have hword : some (32, 0x1 + v.toNat * 2 ^ 31 + b.toNat * 2 ^ 25 + a.toNat * 2 ^ 19 + d.toNat * 2 ^ 13 + n.toNat * 2 ^ 12 + p.toNat * 2 ^ 8) = some (nb, word) := henc
  obtain ⟨rfl, hsum⟩ := words_of hword
  have sum : word = joined [(1, 1), (7, 0x0), (4, p.toNat), (1, n.toNat), (6, d.toNat), (6, a.toNat), (6, b.toNat), (1, v.toNat)] := by
    rw [← hsum]
    simp only [joined]
    ring
  have hf : Fits [(1, 1), (7, 0x0), (4, p.toNat), (1, n.toNat), (6, d.toNat), (6, a.toNat), (6, b.toNat), (1, v.toNat)] :=
    ⟨by decide, by decide, p.isLt, n.isLt, d.isLt, a.isLt, b.isLt, v.isLt, trivial⟩
  refine decode_odd (by omega) ?_ hwf
  rw [fields_00 (number_at sum hf 1 rfl rfl), decodeMajor00]
  rw [field_at sum hf 7 (lo := 31) (f := v) rfl rfl, field_at sum hf 6 (lo := 25) (f := b) rfl rfl, field_at sum hf 5 (lo := 19) (f := a) rfl rfl, field_at sum hf 4 (lo := 13) (f := d) rfl rfl, field_at sum hf 3 (lo := 12) (f := n) rfl rfl, field_at sum hf 2 (lo := 8) (f := p) rfl rfl]

theorem Encodes.sub (v : BitVec 1) (b : BitVec 6) (a : BitVec 6) (d : BitVec 6) (n : BitVec 1) (p : BitVec 4) : Encodes.Statement (.sub v b a d n p) := by
  intro hwf nb word henc
  have hword : some (32, 0x3 + v.toNat * 2 ^ 31 + b.toNat * 2 ^ 25 + a.toNat * 2 ^ 19 + d.toNat * 2 ^ 13 + n.toNat * 2 ^ 12 + p.toNat * 2 ^ 8) = some (nb, word) := henc
  obtain ⟨rfl, hsum⟩ := words_of hword
  have sum : word = joined [(1, 1), (7, 0x1), (4, p.toNat), (1, n.toNat), (6, d.toNat), (6, a.toNat), (6, b.toNat), (1, v.toNat)] := by
    rw [← hsum]
    simp only [joined]
    ring
  have hf : Fits [(1, 1), (7, 0x1), (4, p.toNat), (1, n.toNat), (6, d.toNat), (6, a.toNat), (6, b.toNat), (1, v.toNat)] :=
    ⟨by decide, by decide, p.isLt, n.isLt, d.isLt, a.isLt, b.isLt, v.isLt, trivial⟩
  refine decode_odd (by omega) ?_ hwf
  rw [fields_01 (number_at sum hf 1 rfl rfl), decodeMajor01]
  rw [field_at sum hf 7 (lo := 31) (f := v) rfl rfl, field_at sum hf 6 (lo := 25) (f := b) rfl rfl, field_at sum hf 5 (lo := 19) (f := a) rfl rfl, field_at sum hf 4 (lo := 13) (f := d) rfl rfl, field_at sum hf 3 (lo := 12) (f := n) rfl rfl, field_at sum hf 2 (lo := 8) (f := p) rfl rfl]

theorem Encodes.mul (v : BitVec 1) (b : BitVec 6) (a : BitVec 6) (d : BitVec 6) (n : BitVec 1) (p : BitVec 4) : Encodes.Statement (.mul v b a d n p) := by
  intro hwf nb word henc
  have hword : some (32, 0x5 + v.toNat * 2 ^ 31 + b.toNat * 2 ^ 25 + a.toNat * 2 ^ 19 + d.toNat * 2 ^ 13 + n.toNat * 2 ^ 12 + p.toNat * 2 ^ 8) = some (nb, word) := henc
  obtain ⟨rfl, hsum⟩ := words_of hword
  have sum : word = joined [(1, 1), (7, 0x2), (4, p.toNat), (1, n.toNat), (6, d.toNat), (6, a.toNat), (6, b.toNat), (1, v.toNat)] := by
    rw [← hsum]
    simp only [joined]
    ring
  have hf : Fits [(1, 1), (7, 0x2), (4, p.toNat), (1, n.toNat), (6, d.toNat), (6, a.toNat), (6, b.toNat), (1, v.toNat)] :=
    ⟨by decide, by decide, p.isLt, n.isLt, d.isLt, a.isLt, b.isLt, v.isLt, trivial⟩
  refine decode_odd (by omega) ?_ hwf
  rw [fields_02 (number_at sum hf 1 rfl rfl), decodeMajor02]
  rw [field_at sum hf 7 (lo := 31) (f := v) rfl rfl, field_at sum hf 6 (lo := 25) (f := b) rfl rfl, field_at sum hf 5 (lo := 19) (f := a) rfl rfl, field_at sum hf 4 (lo := 13) (f := d) rfl rfl, field_at sum hf 3 (lo := 12) (f := n) rfl rfl, field_at sum hf 2 (lo := 8) (f := p) rfl rfl]

theorem Encodes.mulh (v : BitVec 1) (b : BitVec 6) (a : BitVec 6) (d : BitVec 6) (n : BitVec 1) (p : BitVec 4) : Encodes.Statement (.mulh v b a d n p) := by
  intro hwf nb word henc
  have hword : some (32, 0x7 + v.toNat * 2 ^ 31 + b.toNat * 2 ^ 25 + a.toNat * 2 ^ 19 + d.toNat * 2 ^ 13 + n.toNat * 2 ^ 12 + p.toNat * 2 ^ 8) = some (nb, word) := henc
  obtain ⟨rfl, hsum⟩ := words_of hword
  have sum : word = joined [(1, 1), (7, 0x3), (4, p.toNat), (1, n.toNat), (6, d.toNat), (6, a.toNat), (6, b.toNat), (1, v.toNat)] := by
    rw [← hsum]
    simp only [joined]
    ring
  have hf : Fits [(1, 1), (7, 0x3), (4, p.toNat), (1, n.toNat), (6, d.toNat), (6, a.toNat), (6, b.toNat), (1, v.toNat)] :=
    ⟨by decide, by decide, p.isLt, n.isLt, d.isLt, a.isLt, b.isLt, v.isLt, trivial⟩
  refine decode_odd (by omega) ?_ hwf
  rw [fields_03 (number_at sum hf 1 rfl rfl), decodeMajor03]
  rw [field_at sum hf 7 (lo := 31) (f := v) rfl rfl, field_at sum hf 6 (lo := 25) (f := b) rfl rfl, field_at sum hf 5 (lo := 19) (f := a) rfl rfl, field_at sum hf 4 (lo := 13) (f := d) rfl rfl, field_at sum hf 3 (lo := 12) (f := n) rfl rfl, field_at sum hf 2 (lo := 8) (f := p) rfl rfl]

theorem Encodes.div (v : BitVec 1) (b : BitVec 6) (a : BitVec 6) (d : BitVec 6) (n : BitVec 1) (p : BitVec 4) : Encodes.Statement (.div v b a d n p) := by
  intro hwf nb word henc
  have hword : some (32, 0x9 + v.toNat * 2 ^ 31 + b.toNat * 2 ^ 25 + a.toNat * 2 ^ 19 + d.toNat * 2 ^ 13 + n.toNat * 2 ^ 12 + p.toNat * 2 ^ 8) = some (nb, word) := henc
  obtain ⟨rfl, hsum⟩ := words_of hword
  have sum : word = joined [(1, 1), (7, 0x4), (4, p.toNat), (1, n.toNat), (6, d.toNat), (6, a.toNat), (6, b.toNat), (1, v.toNat)] := by
    rw [← hsum]
    simp only [joined]
    ring
  have hf : Fits [(1, 1), (7, 0x4), (4, p.toNat), (1, n.toNat), (6, d.toNat), (6, a.toNat), (6, b.toNat), (1, v.toNat)] :=
    ⟨by decide, by decide, p.isLt, n.isLt, d.isLt, a.isLt, b.isLt, v.isLt, trivial⟩
  refine decode_odd (by omega) ?_ hwf
  rw [fields_04 (number_at sum hf 1 rfl rfl), decodeMajor04]
  rw [field_at sum hf 7 (lo := 31) (f := v) rfl rfl, field_at sum hf 6 (lo := 25) (f := b) rfl rfl, field_at sum hf 5 (lo := 19) (f := a) rfl rfl, field_at sum hf 4 (lo := 13) (f := d) rfl rfl, field_at sum hf 3 (lo := 12) (f := n) rfl rfl, field_at sum hf 2 (lo := 8) (f := p) rfl rfl]

theorem Encodes.rem (v : BitVec 1) (b : BitVec 6) (a : BitVec 6) (d : BitVec 6) (n : BitVec 1) (p : BitVec 4) : Encodes.Statement (.rem v b a d n p) := by
  intro hwf nb word henc
  have hword : some (32, 0xb + v.toNat * 2 ^ 31 + b.toNat * 2 ^ 25 + a.toNat * 2 ^ 19 + d.toNat * 2 ^ 13 + n.toNat * 2 ^ 12 + p.toNat * 2 ^ 8) = some (nb, word) := henc
  obtain ⟨rfl, hsum⟩ := words_of hword
  have sum : word = joined [(1, 1), (7, 0x5), (4, p.toNat), (1, n.toNat), (6, d.toNat), (6, a.toNat), (6, b.toNat), (1, v.toNat)] := by
    rw [← hsum]
    simp only [joined]
    ring
  have hf : Fits [(1, 1), (7, 0x5), (4, p.toNat), (1, n.toNat), (6, d.toNat), (6, a.toNat), (6, b.toNat), (1, v.toNat)] :=
    ⟨by decide, by decide, p.isLt, n.isLt, d.isLt, a.isLt, b.isLt, v.isLt, trivial⟩
  refine decode_odd (by omega) ?_ hwf
  rw [fields_05 (number_at sum hf 1 rfl rfl), decodeMajor05]
  rw [field_at sum hf 7 (lo := 31) (f := v) rfl rfl, field_at sum hf 6 (lo := 25) (f := b) rfl rfl, field_at sum hf 5 (lo := 19) (f := a) rfl rfl, field_at sum hf 4 (lo := 13) (f := d) rfl rfl, field_at sum hf 3 (lo := 12) (f := n) rfl rfl, field_at sum hf 2 (lo := 8) (f := p) rfl rfl]

theorem Encodes.and (v : BitVec 1) (b : BitVec 6) (a : BitVec 6) (d : BitVec 6) (n : BitVec 1) (p : BitVec 4) : Encodes.Statement (.and v b a d n p) := by
  intro hwf nb word henc
  have hword : some (32, 0xd + v.toNat * 2 ^ 31 + b.toNat * 2 ^ 25 + a.toNat * 2 ^ 19 + d.toNat * 2 ^ 13 + n.toNat * 2 ^ 12 + p.toNat * 2 ^ 8) = some (nb, word) := henc
  obtain ⟨rfl, hsum⟩ := words_of hword
  have sum : word = joined [(1, 1), (7, 0x6), (4, p.toNat), (1, n.toNat), (6, d.toNat), (6, a.toNat), (6, b.toNat), (1, v.toNat)] := by
    rw [← hsum]
    simp only [joined]
    ring
  have hf : Fits [(1, 1), (7, 0x6), (4, p.toNat), (1, n.toNat), (6, d.toNat), (6, a.toNat), (6, b.toNat), (1, v.toNat)] :=
    ⟨by decide, by decide, p.isLt, n.isLt, d.isLt, a.isLt, b.isLt, v.isLt, trivial⟩
  refine decode_odd (by omega) ?_ hwf
  rw [fields_06 (number_at sum hf 1 rfl rfl), decodeMajor06]
  rw [field_at sum hf 7 (lo := 31) (f := v) rfl rfl, field_at sum hf 6 (lo := 25) (f := b) rfl rfl, field_at sum hf 5 (lo := 19) (f := a) rfl rfl, field_at sum hf 4 (lo := 13) (f := d) rfl rfl, field_at sum hf 3 (lo := 12) (f := n) rfl rfl, field_at sum hf 2 (lo := 8) (f := p) rfl rfl]

theorem Encodes.or (v : BitVec 1) (b : BitVec 6) (a : BitVec 6) (d : BitVec 6) (n : BitVec 1) (p : BitVec 4) : Encodes.Statement (.or v b a d n p) := by
  intro hwf nb word henc
  have hword : some (32, 0xf + v.toNat * 2 ^ 31 + b.toNat * 2 ^ 25 + a.toNat * 2 ^ 19 + d.toNat * 2 ^ 13 + n.toNat * 2 ^ 12 + p.toNat * 2 ^ 8) = some (nb, word) := henc
  obtain ⟨rfl, hsum⟩ := words_of hword
  have sum : word = joined [(1, 1), (7, 0x7), (4, p.toNat), (1, n.toNat), (6, d.toNat), (6, a.toNat), (6, b.toNat), (1, v.toNat)] := by
    rw [← hsum]
    simp only [joined]
    ring
  have hf : Fits [(1, 1), (7, 0x7), (4, p.toNat), (1, n.toNat), (6, d.toNat), (6, a.toNat), (6, b.toNat), (1, v.toNat)] :=
    ⟨by decide, by decide, p.isLt, n.isLt, d.isLt, a.isLt, b.isLt, v.isLt, trivial⟩
  refine decode_odd (by omega) ?_ hwf
  rw [fields_07 (number_at sum hf 1 rfl rfl), decodeMajor07]
  rw [field_at sum hf 7 (lo := 31) (f := v) rfl rfl, field_at sum hf 6 (lo := 25) (f := b) rfl rfl, field_at sum hf 5 (lo := 19) (f := a) rfl rfl, field_at sum hf 4 (lo := 13) (f := d) rfl rfl, field_at sum hf 3 (lo := 12) (f := n) rfl rfl, field_at sum hf 2 (lo := 8) (f := p) rfl rfl]

theorem Encodes.xor (v : BitVec 1) (b : BitVec 6) (a : BitVec 6) (d : BitVec 6) (n : BitVec 1) (p : BitVec 4) : Encodes.Statement (.xor v b a d n p) := by
  intro hwf nb word henc
  have hword : some (32, 0x11 + v.toNat * 2 ^ 31 + b.toNat * 2 ^ 25 + a.toNat * 2 ^ 19 + d.toNat * 2 ^ 13 + n.toNat * 2 ^ 12 + p.toNat * 2 ^ 8) = some (nb, word) := henc
  obtain ⟨rfl, hsum⟩ := words_of hword
  have sum : word = joined [(1, 1), (7, 0x8), (4, p.toNat), (1, n.toNat), (6, d.toNat), (6, a.toNat), (6, b.toNat), (1, v.toNat)] := by
    rw [← hsum]
    simp only [joined]
    ring
  have hf : Fits [(1, 1), (7, 0x8), (4, p.toNat), (1, n.toNat), (6, d.toNat), (6, a.toNat), (6, b.toNat), (1, v.toNat)] :=
    ⟨by decide, by decide, p.isLt, n.isLt, d.isLt, a.isLt, b.isLt, v.isLt, trivial⟩
  refine decode_odd (by omega) ?_ hwf
  rw [fields_08 (number_at sum hf 1 rfl rfl), decodeMajor08]
  rw [field_at sum hf 7 (lo := 31) (f := v) rfl rfl, field_at sum hf 6 (lo := 25) (f := b) rfl rfl, field_at sum hf 5 (lo := 19) (f := a) rfl rfl, field_at sum hf 4 (lo := 13) (f := d) rfl rfl, field_at sum hf 3 (lo := 12) (f := n) rfl rfl, field_at sum hf 2 (lo := 8) (f := p) rfl rfl]

theorem Encodes.andn (v : BitVec 1) (b : BitVec 6) (a : BitVec 6) (d : BitVec 6) (n : BitVec 1) (p : BitVec 4) : Encodes.Statement (.andn v b a d n p) := by
  intro hwf nb word henc
  have hword : some (32, 0x13 + v.toNat * 2 ^ 31 + b.toNat * 2 ^ 25 + a.toNat * 2 ^ 19 + d.toNat * 2 ^ 13 + n.toNat * 2 ^ 12 + p.toNat * 2 ^ 8) = some (nb, word) := henc
  obtain ⟨rfl, hsum⟩ := words_of hword
  have sum : word = joined [(1, 1), (7, 0x9), (4, p.toNat), (1, n.toNat), (6, d.toNat), (6, a.toNat), (6, b.toNat), (1, v.toNat)] := by
    rw [← hsum]
    simp only [joined]
    ring
  have hf : Fits [(1, 1), (7, 0x9), (4, p.toNat), (1, n.toNat), (6, d.toNat), (6, a.toNat), (6, b.toNat), (1, v.toNat)] :=
    ⟨by decide, by decide, p.isLt, n.isLt, d.isLt, a.isLt, b.isLt, v.isLt, trivial⟩
  refine decode_odd (by omega) ?_ hwf
  rw [fields_09 (number_at sum hf 1 rfl rfl), decodeMajor09]
  rw [field_at sum hf 7 (lo := 31) (f := v) rfl rfl, field_at sum hf 6 (lo := 25) (f := b) rfl rfl, field_at sum hf 5 (lo := 19) (f := a) rfl rfl, field_at sum hf 4 (lo := 13) (f := d) rfl rfl, field_at sum hf 3 (lo := 12) (f := n) rfl rfl, field_at sum hf 2 (lo := 8) (f := p) rfl rfl]

theorem Encodes.shl (v : BitVec 1) (b : BitVec 6) (a : BitVec 6) (d : BitVec 6) (n : BitVec 1) (p : BitVec 4) : Encodes.Statement (.shl v b a d n p) := by
  intro hwf nb word henc
  have hword : some (32, 0x15 + v.toNat * 2 ^ 31 + b.toNat * 2 ^ 25 + a.toNat * 2 ^ 19 + d.toNat * 2 ^ 13 + n.toNat * 2 ^ 12 + p.toNat * 2 ^ 8) = some (nb, word) := henc
  obtain ⟨rfl, hsum⟩ := words_of hword
  have sum : word = joined [(1, 1), (7, 0xa), (4, p.toNat), (1, n.toNat), (6, d.toNat), (6, a.toNat), (6, b.toNat), (1, v.toNat)] := by
    rw [← hsum]
    simp only [joined]
    ring
  have hf : Fits [(1, 1), (7, 0xa), (4, p.toNat), (1, n.toNat), (6, d.toNat), (6, a.toNat), (6, b.toNat), (1, v.toNat)] :=
    ⟨by decide, by decide, p.isLt, n.isLt, d.isLt, a.isLt, b.isLt, v.isLt, trivial⟩
  refine decode_odd (by omega) ?_ hwf
  rw [fields_0a (number_at sum hf 1 rfl rfl), decodeMajor0a]
  rw [field_at sum hf 7 (lo := 31) (f := v) rfl rfl, field_at sum hf 6 (lo := 25) (f := b) rfl rfl, field_at sum hf 5 (lo := 19) (f := a) rfl rfl, field_at sum hf 4 (lo := 13) (f := d) rfl rfl, field_at sum hf 3 (lo := 12) (f := n) rfl rfl, field_at sum hf 2 (lo := 8) (f := p) rfl rfl]

theorem Encodes.shr (v : BitVec 1) (b : BitVec 6) (a : BitVec 6) (d : BitVec 6) (n : BitVec 1) (p : BitVec 4) : Encodes.Statement (.shr v b a d n p) := by
  intro hwf nb word henc
  have hword : some (32, 0x17 + v.toNat * 2 ^ 31 + b.toNat * 2 ^ 25 + a.toNat * 2 ^ 19 + d.toNat * 2 ^ 13 + n.toNat * 2 ^ 12 + p.toNat * 2 ^ 8) = some (nb, word) := henc
  obtain ⟨rfl, hsum⟩ := words_of hword
  have sum : word = joined [(1, 1), (7, 0xb), (4, p.toNat), (1, n.toNat), (6, d.toNat), (6, a.toNat), (6, b.toNat), (1, v.toNat)] := by
    rw [← hsum]
    simp only [joined]
    ring
  have hf : Fits [(1, 1), (7, 0xb), (4, p.toNat), (1, n.toNat), (6, d.toNat), (6, a.toNat), (6, b.toNat), (1, v.toNat)] :=
    ⟨by decide, by decide, p.isLt, n.isLt, d.isLt, a.isLt, b.isLt, v.isLt, trivial⟩
  refine decode_odd (by omega) ?_ hwf
  rw [fields_0b (number_at sum hf 1 rfl rfl), decodeMajor0b]
  rw [field_at sum hf 7 (lo := 31) (f := v) rfl rfl, field_at sum hf 6 (lo := 25) (f := b) rfl rfl, field_at sum hf 5 (lo := 19) (f := a) rfl rfl, field_at sum hf 4 (lo := 13) (f := d) rfl rfl, field_at sum hf 3 (lo := 12) (f := n) rfl rfl, field_at sum hf 2 (lo := 8) (f := p) rfl rfl]

theorem Encodes.sra (v : BitVec 1) (b : BitVec 6) (a : BitVec 6) (d : BitVec 6) (n : BitVec 1) (p : BitVec 4) : Encodes.Statement (.sra v b a d n p) := by
  intro hwf nb word henc
  have hword : some (32, 0x19 + v.toNat * 2 ^ 31 + b.toNat * 2 ^ 25 + a.toNat * 2 ^ 19 + d.toNat * 2 ^ 13 + n.toNat * 2 ^ 12 + p.toNat * 2 ^ 8) = some (nb, word) := henc
  obtain ⟨rfl, hsum⟩ := words_of hword
  have sum : word = joined [(1, 1), (7, 0xc), (4, p.toNat), (1, n.toNat), (6, d.toNat), (6, a.toNat), (6, b.toNat), (1, v.toNat)] := by
    rw [← hsum]
    simp only [joined]
    ring
  have hf : Fits [(1, 1), (7, 0xc), (4, p.toNat), (1, n.toNat), (6, d.toNat), (6, a.toNat), (6, b.toNat), (1, v.toNat)] :=
    ⟨by decide, by decide, p.isLt, n.isLt, d.isLt, a.isLt, b.isLt, v.isLt, trivial⟩
  refine decode_odd (by omega) ?_ hwf
  rw [fields_0c (number_at sum hf 1 rfl rfl), decodeMajor0c]
  rw [field_at sum hf 7 (lo := 31) (f := v) rfl rfl, field_at sum hf 6 (lo := 25) (f := b) rfl rfl, field_at sum hf 5 (lo := 19) (f := a) rfl rfl, field_at sum hf 4 (lo := 13) (f := d) rfl rfl, field_at sum hf 3 (lo := 12) (f := n) rfl rfl, field_at sum hf 2 (lo := 8) (f := p) rfl rfl]

theorem Encodes.min (v : BitVec 1) (b : BitVec 6) (a : BitVec 6) (d : BitVec 6) (n : BitVec 1) (p : BitVec 4) : Encodes.Statement (.min v b a d n p) := by
  intro hwf nb word henc
  have hword : some (32, 0x1b + v.toNat * 2 ^ 31 + b.toNat * 2 ^ 25 + a.toNat * 2 ^ 19 + d.toNat * 2 ^ 13 + n.toNat * 2 ^ 12 + p.toNat * 2 ^ 8) = some (nb, word) := henc
  obtain ⟨rfl, hsum⟩ := words_of hword
  have sum : word = joined [(1, 1), (7, 0xd), (4, p.toNat), (1, n.toNat), (6, d.toNat), (6, a.toNat), (6, b.toNat), (1, v.toNat)] := by
    rw [← hsum]
    simp only [joined]
    ring
  have hf : Fits [(1, 1), (7, 0xd), (4, p.toNat), (1, n.toNat), (6, d.toNat), (6, a.toNat), (6, b.toNat), (1, v.toNat)] :=
    ⟨by decide, by decide, p.isLt, n.isLt, d.isLt, a.isLt, b.isLt, v.isLt, trivial⟩
  refine decode_odd (by omega) ?_ hwf
  rw [fields_0d (number_at sum hf 1 rfl rfl), decodeMajor0d]
  rw [field_at sum hf 7 (lo := 31) (f := v) rfl rfl, field_at sum hf 6 (lo := 25) (f := b) rfl rfl, field_at sum hf 5 (lo := 19) (f := a) rfl rfl, field_at sum hf 4 (lo := 13) (f := d) rfl rfl, field_at sum hf 3 (lo := 12) (f := n) rfl rfl, field_at sum hf 2 (lo := 8) (f := p) rfl rfl]

theorem Encodes.max (v : BitVec 1) (b : BitVec 6) (a : BitVec 6) (d : BitVec 6) (n : BitVec 1) (p : BitVec 4) : Encodes.Statement (.max v b a d n p) := by
  intro hwf nb word henc
  have hword : some (32, 0x1d + v.toNat * 2 ^ 31 + b.toNat * 2 ^ 25 + a.toNat * 2 ^ 19 + d.toNat * 2 ^ 13 + n.toNat * 2 ^ 12 + p.toNat * 2 ^ 8) = some (nb, word) := henc
  obtain ⟨rfl, hsum⟩ := words_of hword
  have sum : word = joined [(1, 1), (7, 0xe), (4, p.toNat), (1, n.toNat), (6, d.toNat), (6, a.toNat), (6, b.toNat), (1, v.toNat)] := by
    rw [← hsum]
    simp only [joined]
    ring
  have hf : Fits [(1, 1), (7, 0xe), (4, p.toNat), (1, n.toNat), (6, d.toNat), (6, a.toNat), (6, b.toNat), (1, v.toNat)] :=
    ⟨by decide, by decide, p.isLt, n.isLt, d.isLt, a.isLt, b.isLt, v.isLt, trivial⟩
  refine decode_odd (by omega) ?_ hwf
  rw [fields_0e (number_at sum hf 1 rfl rfl), decodeMajor0e]
  rw [field_at sum hf 7 (lo := 31) (f := v) rfl rfl, field_at sum hf 6 (lo := 25) (f := b) rfl rfl, field_at sum hf 5 (lo := 19) (f := a) rfl rfl, field_at sum hf 4 (lo := 13) (f := d) rfl rfl, field_at sum hf 3 (lo := 12) (f := n) rfl rfl, field_at sum hf 2 (lo := 8) (f := p) rfl rfl]

theorem Encodes.addi (i : BitVec 7) (a : BitVec 6) (d : BitVec 6) (n : BitVec 1) (p : BitVec 4) : Encodes.Statement (.addi i a d n p) := by
  intro hwf nb word henc
  have hword : some (32, 0x1f + i.toNat * 2 ^ 25 + a.toNat * 2 ^ 19 + d.toNat * 2 ^ 13 + n.toNat * 2 ^ 12 + p.toNat * 2 ^ 8) = some (nb, word) := henc
  obtain ⟨rfl, hsum⟩ := words_of hword
  have sum : word = joined [(1, 1), (7, 0xf), (4, p.toNat), (1, n.toNat), (6, d.toNat), (6, a.toNat), (7, i.toNat)] := by
    rw [← hsum]
    simp only [joined]
    ring
  have hf : Fits [(1, 1), (7, 0xf), (4, p.toNat), (1, n.toNat), (6, d.toNat), (6, a.toNat), (7, i.toNat)] :=
    ⟨by decide, by decide, p.isLt, n.isLt, d.isLt, a.isLt, i.isLt, trivial⟩
  refine decode_odd (by omega) ?_ hwf
  rw [fields_0f (number_at sum hf 1 rfl rfl), decodeMajor0f]
  rw [field_at sum hf 6 (lo := 25) (f := i) rfl rfl, field_at sum hf 5 (lo := 19) (f := a) rfl rfl, field_at sum hf 4 (lo := 13) (f := d) rfl rfl, field_at sum hf 3 (lo := 12) (f := n) rfl rfl, field_at sum hf 2 (lo := 8) (f := p) rfl rfl]

theorem Encodes.andi (i : BitVec 7) (a : BitVec 6) (d : BitVec 6) (n : BitVec 1) (p : BitVec 4) : Encodes.Statement (.andi i a d n p) := by
  intro hwf nb word henc
  have hword : some (32, 0x21 + i.toNat * 2 ^ 25 + a.toNat * 2 ^ 19 + d.toNat * 2 ^ 13 + n.toNat * 2 ^ 12 + p.toNat * 2 ^ 8) = some (nb, word) := henc
  obtain ⟨rfl, hsum⟩ := words_of hword
  have sum : word = joined [(1, 1), (7, 0x10), (4, p.toNat), (1, n.toNat), (6, d.toNat), (6, a.toNat), (7, i.toNat)] := by
    rw [← hsum]
    simp only [joined]
    ring
  have hf : Fits [(1, 1), (7, 0x10), (4, p.toNat), (1, n.toNat), (6, d.toNat), (6, a.toNat), (7, i.toNat)] :=
    ⟨by decide, by decide, p.isLt, n.isLt, d.isLt, a.isLt, i.isLt, trivial⟩
  refine decode_odd (by omega) ?_ hwf
  rw [fields_10 (number_at sum hf 1 rfl rfl), decodeMajor10]
  rw [field_at sum hf 6 (lo := 25) (f := i) rfl rfl, field_at sum hf 5 (lo := 19) (f := a) rfl rfl, field_at sum hf 4 (lo := 13) (f := d) rfl rfl, field_at sum hf 3 (lo := 12) (f := n) rfl rfl, field_at sum hf 2 (lo := 8) (f := p) rfl rfl]

theorem Encodes.ori (i : BitVec 7) (a : BitVec 6) (d : BitVec 6) (n : BitVec 1) (p : BitVec 4) : Encodes.Statement (.ori i a d n p) := by
  intro hwf nb word henc
  have hword : some (32, 0x23 + i.toNat * 2 ^ 25 + a.toNat * 2 ^ 19 + d.toNat * 2 ^ 13 + n.toNat * 2 ^ 12 + p.toNat * 2 ^ 8) = some (nb, word) := henc
  obtain ⟨rfl, hsum⟩ := words_of hword
  have sum : word = joined [(1, 1), (7, 0x11), (4, p.toNat), (1, n.toNat), (6, d.toNat), (6, a.toNat), (7, i.toNat)] := by
    rw [← hsum]
    simp only [joined]
    ring
  have hf : Fits [(1, 1), (7, 0x11), (4, p.toNat), (1, n.toNat), (6, d.toNat), (6, a.toNat), (7, i.toNat)] :=
    ⟨by decide, by decide, p.isLt, n.isLt, d.isLt, a.isLt, i.isLt, trivial⟩
  refine decode_odd (by omega) ?_ hwf
  rw [fields_11 (number_at sum hf 1 rfl rfl), decodeMajor11]
  rw [field_at sum hf 6 (lo := 25) (f := i) rfl rfl, field_at sum hf 5 (lo := 19) (f := a) rfl rfl, field_at sum hf 4 (lo := 13) (f := d) rfl rfl, field_at sum hf 3 (lo := 12) (f := n) rfl rfl, field_at sum hf 2 (lo := 8) (f := p) rfl rfl]

theorem Encodes.xori (i : BitVec 7) (a : BitVec 6) (d : BitVec 6) (n : BitVec 1) (p : BitVec 4) : Encodes.Statement (.xori i a d n p) := by
  intro hwf nb word henc
  have hword : some (32, 0x25 + i.toNat * 2 ^ 25 + a.toNat * 2 ^ 19 + d.toNat * 2 ^ 13 + n.toNat * 2 ^ 12 + p.toNat * 2 ^ 8) = some (nb, word) := henc
  obtain ⟨rfl, hsum⟩ := words_of hword
  have sum : word = joined [(1, 1), (7, 0x12), (4, p.toNat), (1, n.toNat), (6, d.toNat), (6, a.toNat), (7, i.toNat)] := by
    rw [← hsum]
    simp only [joined]
    ring
  have hf : Fits [(1, 1), (7, 0x12), (4, p.toNat), (1, n.toNat), (6, d.toNat), (6, a.toNat), (7, i.toNat)] :=
    ⟨by decide, by decide, p.isLt, n.isLt, d.isLt, a.isLt, i.isLt, trivial⟩
  refine decode_odd (by omega) ?_ hwf
  rw [fields_12 (number_at sum hf 1 rfl rfl), decodeMajor12]
  rw [field_at sum hf 6 (lo := 25) (f := i) rfl rfl, field_at sum hf 5 (lo := 19) (f := a) rfl rfl, field_at sum hf 4 (lo := 13) (f := d) rfl rfl, field_at sum hf 3 (lo := 12) (f := n) rfl rfl, field_at sum hf 2 (lo := 8) (f := p) rfl rfl]

theorem Encodes.shli (i : BitVec 7) (a : BitVec 6) (d : BitVec 6) (n : BitVec 1) (p : BitVec 4) : Encodes.Statement (.shli i a d n p) := by
  intro hwf nb word henc
  have hword : some (32, 0x27 + i.toNat * 2 ^ 25 + a.toNat * 2 ^ 19 + d.toNat * 2 ^ 13 + n.toNat * 2 ^ 12 + p.toNat * 2 ^ 8) = some (nb, word) := henc
  obtain ⟨rfl, hsum⟩ := words_of hword
  have sum : word = joined [(1, 1), (7, 0x13), (4, p.toNat), (1, n.toNat), (6, d.toNat), (6, a.toNat), (7, i.toNat)] := by
    rw [← hsum]
    simp only [joined]
    ring
  have hf : Fits [(1, 1), (7, 0x13), (4, p.toNat), (1, n.toNat), (6, d.toNat), (6, a.toNat), (7, i.toNat)] :=
    ⟨by decide, by decide, p.isLt, n.isLt, d.isLt, a.isLt, i.isLt, trivial⟩
  refine decode_odd (by omega) ?_ hwf
  rw [fields_13 (number_at sum hf 1 rfl rfl), decodeMajor13]
  rw [field_at sum hf 6 (lo := 25) (f := i) rfl rfl, field_at sum hf 5 (lo := 19) (f := a) rfl rfl, field_at sum hf 4 (lo := 13) (f := d) rfl rfl, field_at sum hf 3 (lo := 12) (f := n) rfl rfl, field_at sum hf 2 (lo := 8) (f := p) rfl rfl]

theorem Encodes.shri (i : BitVec 7) (a : BitVec 6) (d : BitVec 6) (n : BitVec 1) (p : BitVec 4) : Encodes.Statement (.shri i a d n p) := by
  intro hwf nb word henc
  have hword : some (32, 0x29 + i.toNat * 2 ^ 25 + a.toNat * 2 ^ 19 + d.toNat * 2 ^ 13 + n.toNat * 2 ^ 12 + p.toNat * 2 ^ 8) = some (nb, word) := henc
  obtain ⟨rfl, hsum⟩ := words_of hword
  have sum : word = joined [(1, 1), (7, 0x14), (4, p.toNat), (1, n.toNat), (6, d.toNat), (6, a.toNat), (7, i.toNat)] := by
    rw [← hsum]
    simp only [joined]
    ring
  have hf : Fits [(1, 1), (7, 0x14), (4, p.toNat), (1, n.toNat), (6, d.toNat), (6, a.toNat), (7, i.toNat)] :=
    ⟨by decide, by decide, p.isLt, n.isLt, d.isLt, a.isLt, i.isLt, trivial⟩
  refine decode_odd (by omega) ?_ hwf
  rw [fields_14 (number_at sum hf 1 rfl rfl), decodeMajor14]
  rw [field_at sum hf 6 (lo := 25) (f := i) rfl rfl, field_at sum hf 5 (lo := 19) (f := a) rfl rfl, field_at sum hf 4 (lo := 13) (f := d) rfl rfl, field_at sum hf 3 (lo := 12) (f := n) rfl rfl, field_at sum hf 2 (lo := 8) (f := p) rfl rfl]

theorem Encodes.srai (i : BitVec 7) (a : BitVec 6) (d : BitVec 6) (n : BitVec 1) (p : BitVec 4) : Encodes.Statement (.srai i a d n p) := by
  intro hwf nb word henc
  have hword : some (32, 0x2b + i.toNat * 2 ^ 25 + a.toNat * 2 ^ 19 + d.toNat * 2 ^ 13 + n.toNat * 2 ^ 12 + p.toNat * 2 ^ 8) = some (nb, word) := henc
  obtain ⟨rfl, hsum⟩ := words_of hword
  have sum : word = joined [(1, 1), (7, 0x15), (4, p.toNat), (1, n.toNat), (6, d.toNat), (6, a.toNat), (7, i.toNat)] := by
    rw [← hsum]
    simp only [joined]
    ring
  have hf : Fits [(1, 1), (7, 0x15), (4, p.toNat), (1, n.toNat), (6, d.toNat), (6, a.toNat), (7, i.toNat)] :=
    ⟨by decide, by decide, p.isLt, n.isLt, d.isLt, a.isLt, i.isLt, trivial⟩
  refine decode_odd (by omega) ?_ hwf
  rw [fields_15 (number_at sum hf 1 rfl rfl), decodeMajor15]
  rw [field_at sum hf 6 (lo := 25) (f := i) rfl rfl, field_at sum hf 5 (lo := 19) (f := a) rfl rfl, field_at sum hf 4 (lo := 13) (f := d) rfl rfl, field_at sum hf 3 (lo := 12) (f := n) rfl rfl, field_at sum hf 2 (lo := 8) (f := p) rfl rfl]

theorem Encodes.movi (i : BitVec 13) (d : BitVec 6) (n : BitVec 1) (p : BitVec 4) : Encodes.Statement (.movi i d n p) := by
  intro hwf nb word henc
  have hword : some (32, 0x2d + i.toNat * 2 ^ 19 + d.toNat * 2 ^ 13 + n.toNat * 2 ^ 12 + p.toNat * 2 ^ 8) = some (nb, word) := henc
  obtain ⟨rfl, hsum⟩ := words_of hword
  have sum : word = joined [(1, 1), (7, 0x16), (4, p.toNat), (1, n.toNat), (6, d.toNat), (13, i.toNat)] := by
    rw [← hsum]
    simp only [joined]
    ring
  have hf : Fits [(1, 1), (7, 0x16), (4, p.toNat), (1, n.toNat), (6, d.toNat), (13, i.toNat)] :=
    ⟨by decide, by decide, p.isLt, n.isLt, d.isLt, i.isLt, trivial⟩
  refine decode_odd (by omega) ?_ hwf
  rw [fields_16 (number_at sum hf 1 rfl rfl), decodeMajor16]
  rw [field_at sum hf 5 (lo := 19) (f := i) rfl rfl, field_at sum hf 4 (lo := 13) (f := d) rfl rfl, field_at sum hf 3 (lo := 12) (f := n) rfl rfl, field_at sum hf 2 (lo := 8) (f := p) rfl rfl]

theorem Encodes.movh (i : BitVec 13) (d : BitVec 6) (n : BitVec 1) (p : BitVec 4) : Encodes.Statement (.movh i d n p) := by
  intro hwf nb word henc
  have hword : some (32, 0x2f + i.toNat * 2 ^ 19 + d.toNat * 2 ^ 13 + n.toNat * 2 ^ 12 + p.toNat * 2 ^ 8) = some (nb, word) := henc
  obtain ⟨rfl, hsum⟩ := words_of hword
  have sum : word = joined [(1, 1), (7, 0x17), (4, p.toNat), (1, n.toNat), (6, d.toNat), (13, i.toNat)] := by
    rw [← hsum]
    simp only [joined]
    ring
  have hf : Fits [(1, 1), (7, 0x17), (4, p.toNat), (1, n.toNat), (6, d.toNat), (13, i.toNat)] :=
    ⟨by decide, by decide, p.isLt, n.isLt, d.isLt, i.isLt, trivial⟩
  refine decode_odd (by omega) ?_ hwf
  rw [fields_17 (number_at sum hf 1 rfl rfl), decodeMajor17]
  rw [field_at sum hf 5 (lo := 19) (f := i) rfl rfl, field_at sum hf 4 (lo := 13) (f := d) rfl rfl, field_at sum hf 3 (lo := 12) (f := n) rfl rfl, field_at sum hf 2 (lo := 8) (f := p) rfl rfl]

theorem Encodes.ceq (b : BitVec 6) (a : BitVec 6) (w : BitVec 1) (q : BitVec 4) (n : BitVec 1) (p : BitVec 4) : Encodes.Statement (.ceq b a w q n p) := by
  intro hwf nb word henc
  have hword : some (32, 0x31 + b.toNat * 2 ^ 25 + a.toNat * 2 ^ 19 + w.toNat * 2 ^ 17 + q.toNat * 2 ^ 13 + n.toNat * 2 ^ 12 + p.toNat * 2 ^ 8) = some (nb, word) := henc
  obtain ⟨rfl, hsum⟩ := words_of hword
  have sum : word = joined [(1, 1), (7, 0x18), (4, p.toNat), (1, n.toNat), (4, q.toNat), (1, w.toNat), (1, 0), (6, a.toNat), (6, b.toNat), (1, 0)] := by
    rw [← hsum]
    simp only [joined]
    ring
  have hf : Fits [(1, 1), (7, 0x18), (4, p.toNat), (1, n.toNat), (4, q.toNat), (1, w.toNat), (1, 0), (6, a.toNat), (6, b.toNat), (1, 0)] :=
    ⟨by decide, by decide, p.isLt, n.isLt, q.isLt, w.isLt, by decide, a.isLt, b.isLt, by decide, trivial⟩
  refine decode_odd (by omega) ?_ hwf
  rw [fields_18 (number_at sum hf 1 rfl rfl), decodeMajor18, if_pos ⟨number_at sum hf 6 (lo := 18) rfl rfl, number_at sum hf 9 (lo := 31) rfl rfl⟩]
  rw [field_at sum hf 8 (lo := 25) (f := b) rfl rfl, field_at sum hf 7 (lo := 19) (f := a) rfl rfl, field_at sum hf 5 (lo := 17) (f := w) rfl rfl, field_at sum hf 4 (lo := 13) (f := q) rfl rfl, field_at sum hf 3 (lo := 12) (f := n) rfl rfl, field_at sum hf 2 (lo := 8) (f := p) rfl rfl]

theorem Encodes.cne (b : BitVec 6) (a : BitVec 6) (w : BitVec 1) (q : BitVec 4) (n : BitVec 1) (p : BitVec 4) : Encodes.Statement (.cne b a w q n p) := by
  intro hwf nb word henc
  have hword : some (32, 0x33 + b.toNat * 2 ^ 25 + a.toNat * 2 ^ 19 + w.toNat * 2 ^ 17 + q.toNat * 2 ^ 13 + n.toNat * 2 ^ 12 + p.toNat * 2 ^ 8) = some (nb, word) := henc
  obtain ⟨rfl, hsum⟩ := words_of hword
  have sum : word = joined [(1, 1), (7, 0x19), (4, p.toNat), (1, n.toNat), (4, q.toNat), (1, w.toNat), (1, 0), (6, a.toNat), (6, b.toNat), (1, 0)] := by
    rw [← hsum]
    simp only [joined]
    ring
  have hf : Fits [(1, 1), (7, 0x19), (4, p.toNat), (1, n.toNat), (4, q.toNat), (1, w.toNat), (1, 0), (6, a.toNat), (6, b.toNat), (1, 0)] :=
    ⟨by decide, by decide, p.isLt, n.isLt, q.isLt, w.isLt, by decide, a.isLt, b.isLt, by decide, trivial⟩
  refine decode_odd (by omega) ?_ hwf
  rw [fields_19 (number_at sum hf 1 rfl rfl), decodeMajor19, if_pos ⟨number_at sum hf 6 (lo := 18) rfl rfl, number_at sum hf 9 (lo := 31) rfl rfl⟩]
  rw [field_at sum hf 8 (lo := 25) (f := b) rfl rfl, field_at sum hf 7 (lo := 19) (f := a) rfl rfl, field_at sum hf 5 (lo := 17) (f := w) rfl rfl, field_at sum hf 4 (lo := 13) (f := q) rfl rfl, field_at sum hf 3 (lo := 12) (f := n) rfl rfl, field_at sum hf 2 (lo := 8) (f := p) rfl rfl]

theorem Encodes.clt (v : BitVec 1) (b : BitVec 6) (a : BitVec 6) (w : BitVec 1) (q : BitVec 4) (n : BitVec 1) (p : BitVec 4) : Encodes.Statement (.clt v b a w q n p) := by
  intro hwf nb word henc
  have hword : some (32, 0x35 + v.toNat * 2 ^ 31 + b.toNat * 2 ^ 25 + a.toNat * 2 ^ 19 + w.toNat * 2 ^ 17 + q.toNat * 2 ^ 13 + n.toNat * 2 ^ 12 + p.toNat * 2 ^ 8) = some (nb, word) := henc
  obtain ⟨rfl, hsum⟩ := words_of hword
  have sum : word = joined [(1, 1), (7, 0x1a), (4, p.toNat), (1, n.toNat), (4, q.toNat), (1, w.toNat), (1, 0), (6, a.toNat), (6, b.toNat), (1, v.toNat)] := by
    rw [← hsum]
    simp only [joined]
    ring
  have hf : Fits [(1, 1), (7, 0x1a), (4, p.toNat), (1, n.toNat), (4, q.toNat), (1, w.toNat), (1, 0), (6, a.toNat), (6, b.toNat), (1, v.toNat)] :=
    ⟨by decide, by decide, p.isLt, n.isLt, q.isLt, w.isLt, by decide, a.isLt, b.isLt, v.isLt, trivial⟩
  refine decode_odd (by omega) ?_ hwf
  rw [fields_1a (number_at sum hf 1 rfl rfl), decodeMajor1a, if_pos (number_at sum hf 6 (lo := 18) rfl rfl)]
  rw [field_at sum hf 9 (lo := 31) (f := v) rfl rfl, field_at sum hf 8 (lo := 25) (f := b) rfl rfl, field_at sum hf 7 (lo := 19) (f := a) rfl rfl, field_at sum hf 5 (lo := 17) (f := w) rfl rfl, field_at sum hf 4 (lo := 13) (f := q) rfl rfl, field_at sum hf 3 (lo := 12) (f := n) rfl rfl, field_at sum hf 2 (lo := 8) (f := p) rfl rfl]

theorem Encodes.cle (v : BitVec 1) (b : BitVec 6) (a : BitVec 6) (w : BitVec 1) (q : BitVec 4) (n : BitVec 1) (p : BitVec 4) : Encodes.Statement (.cle v b a w q n p) := by
  intro hwf nb word henc
  have hword : some (32, 0x37 + v.toNat * 2 ^ 31 + b.toNat * 2 ^ 25 + a.toNat * 2 ^ 19 + w.toNat * 2 ^ 17 + q.toNat * 2 ^ 13 + n.toNat * 2 ^ 12 + p.toNat * 2 ^ 8) = some (nb, word) := henc
  obtain ⟨rfl, hsum⟩ := words_of hword
  have sum : word = joined [(1, 1), (7, 0x1b), (4, p.toNat), (1, n.toNat), (4, q.toNat), (1, w.toNat), (1, 0), (6, a.toNat), (6, b.toNat), (1, v.toNat)] := by
    rw [← hsum]
    simp only [joined]
    ring
  have hf : Fits [(1, 1), (7, 0x1b), (4, p.toNat), (1, n.toNat), (4, q.toNat), (1, w.toNat), (1, 0), (6, a.toNat), (6, b.toNat), (1, v.toNat)] :=
    ⟨by decide, by decide, p.isLt, n.isLt, q.isLt, w.isLt, by decide, a.isLt, b.isLt, v.isLt, trivial⟩
  refine decode_odd (by omega) ?_ hwf
  rw [fields_1b (number_at sum hf 1 rfl rfl), decodeMajor1b, if_pos (number_at sum hf 6 (lo := 18) rfl rfl)]
  rw [field_at sum hf 9 (lo := 31) (f := v) rfl rfl, field_at sum hf 8 (lo := 25) (f := b) rfl rfl, field_at sum hf 7 (lo := 19) (f := a) rfl rfl, field_at sum hf 5 (lo := 17) (f := w) rfl rfl, field_at sum hf 4 (lo := 13) (f := q) rfl rfl, field_at sum hf 3 (lo := 12) (f := n) rfl rfl, field_at sum hf 2 (lo := 8) (f := p) rfl rfl]

theorem Encodes.plog (b : BitVec 4) (u : BitVec 3) (a : BitVec 4) (d : BitVec 4) (n : BitVec 1) (p : BitVec 4) : Encodes.Statement (.plog b u a d n p) := by
  intro hwf nb word henc
  have hword : some (32, 0x39 + b.toNat * 2 ^ 28 + u.toNat * 2 ^ 25 + a.toNat * 2 ^ 19 + d.toNat * 2 ^ 13 + n.toNat * 2 ^ 12 + p.toNat * 2 ^ 8) = some (nb, word) := henc
  obtain ⟨rfl, hsum⟩ := words_of hword
  have sum : word = joined [(1, 1), (7, 0x1c), (4, p.toNat), (1, n.toNat), (4, d.toNat), (2, 0), (4, a.toNat), (2, 0), (3, u.toNat), (4, b.toNat)] := by
    rw [← hsum]
    simp only [joined]
    ring
  have hf : Fits [(1, 1), (7, 0x1c), (4, p.toNat), (1, n.toNat), (4, d.toNat), (2, 0), (4, a.toNat), (2, 0), (3, u.toNat), (4, b.toNat)] :=
    ⟨by decide, by decide, p.isLt, n.isLt, d.isLt, by decide, a.isLt, by decide, u.isLt, b.isLt, trivial⟩
  refine decode_odd (by omega) ?_ hwf
  rw [fields_1c (number_at sum hf 1 rfl rfl), decodeMajor1c, if_pos ⟨number_at sum hf 5 (lo := 17) rfl rfl, number_at sum hf 7 (lo := 23) rfl rfl⟩]
  rw [field_at sum hf 9 (lo := 28) (f := b) rfl rfl, field_at sum hf 8 (lo := 25) (f := u) rfl rfl, field_at sum hf 6 (lo := 19) (f := a) rfl rfl, field_at sum hf 4 (lo := 13) (f := d) rfl rfl, field_at sum hf 3 (lo := 12) (f := n) rfl rfl, field_at sum hf 2 (lo := 8) (f := p) rfl rfl]

theorem Encodes.prd (a : BitVec 4) (d : BitVec 6) (n : BitVec 1) (p : BitVec 4) : Encodes.Statement (.prd a d n p) := by
  intro hwf nb word henc
  have hword : some (32, 0x3b + a.toNat * 2 ^ 19 + d.toNat * 2 ^ 13 + n.toNat * 2 ^ 12 + p.toNat * 2 ^ 8) = some (nb, word) := henc
  obtain ⟨rfl, hsum⟩ := words_of hword
  have sum : word = joined [(1, 1), (7, 0x1d), (4, p.toNat), (1, n.toNat), (6, d.toNat), (4, a.toNat), (9, 0)] := by
    rw [← hsum]
    simp only [joined]
    ring
  have hf : Fits [(1, 1), (7, 0x1d), (4, p.toNat), (1, n.toNat), (6, d.toNat), (4, a.toNat), (9, 0)] :=
    ⟨by decide, by decide, p.isLt, n.isLt, d.isLt, a.isLt, by decide, trivial⟩
  refine decode_odd (by omega) ?_ hwf
  rw [fields_1d (number_at sum hf 1 rfl rfl), decodeMajor1d, if_pos (number_at sum hf 6 (lo := 23) rfl rfl)]
  rw [field_at sum hf 5 (lo := 19) (f := a) rfl rfl, field_at sum hf 4 (lo := 13) (f := d) rfl rfl, field_at sum hf 3 (lo := 12) (f := n) rfl rfl, field_at sum hf 2 (lo := 8) (f := p) rfl rfl]

theorem Encodes.pwr (a : BitVec 6) (d : BitVec 4) (n : BitVec 1) (p : BitVec 4) : Encodes.Statement (.pwr a d n p) := by
  intro hwf nb word henc
  have hword : some (32, 0x200003b + a.toNat * 2 ^ 19 + d.toNat * 2 ^ 13 + n.toNat * 2 ^ 12 + p.toNat * 2 ^ 8) = some (nb, word) := henc
  obtain ⟨rfl, hsum⟩ := words_of hword
  have sum : word = joined [(1, 1), (7, 0x1d), (4, p.toNat), (1, n.toNat), (4, d.toNat), (2, 0), (6, a.toNat), (7, 1)] := by
    rw [← hsum]
    simp only [joined]
    ring
  have hf : Fits [(1, 1), (7, 0x1d), (4, p.toNat), (1, n.toNat), (4, d.toNat), (2, 0), (6, a.toNat), (7, 1)] :=
    ⟨by decide, by decide, p.isLt, n.isLt, d.isLt, by decide, a.isLt, by decide, trivial⟩
  refine decode_odd (by omega) ?_ hwf
  rw [fields_1d (number_at sum hf 1 rfl rfl), decodeMajor1d, if_neg (by unfold nbits; have := a.isLt; have := d.isLt; have := n.isLt; have := p.isLt; omega), if_pos ⟨number_at sum hf 5 (lo := 17) rfl rfl, number_at sum hf 7 (lo := 25) rfl rfl⟩]
  rw [field_at sum hf 6 (lo := 19) (f := a) rfl rfl, field_at sum hf 4 (lo := 13) (f := d) rfl rfl, field_at sum hf 3 (lo := 12) (f := n) rfl rfl, field_at sum hf 2 (lo := 8) (f := p) rfl rfl]

theorem Encodes.pset (d : BitVec 4) (n : BitVec 1) (p : BitVec 4) : Encodes.Statement (.pset d n p) := by
  intro hwf nb word henc
  have hword : some (32, 0x400003b + d.toNat * 2 ^ 13 + n.toNat * 2 ^ 12 + p.toNat * 2 ^ 8) = some (nb, word) := henc
  obtain ⟨rfl, hsum⟩ := words_of hword
  have sum : word = joined [(1, 1), (7, 0x1d), (4, p.toNat), (1, n.toNat), (4, d.toNat), (15, 512)] := by
    rw [← hsum]
    simp only [joined]
    ring
  have hf : Fits [(1, 1), (7, 0x1d), (4, p.toNat), (1, n.toNat), (4, d.toNat), (15, 512)] :=
    ⟨by decide, by decide, p.isLt, n.isLt, d.isLt, by decide, trivial⟩
  refine decode_odd (by omega) ?_ hwf
  rw [fields_1d (number_at sum hf 1 rfl rfl), decodeMajor1d, if_neg (by unfold nbits; have := d.isLt; have := n.isLt; have := p.isLt; omega), if_neg (by unfold nbits; have := d.isLt; have := n.isLt; have := p.isLt; omega), if_pos (number_at sum hf 5 (lo := 17) rfl rfl)]
  rw [field_at sum hf 4 (lo := 13) (f := d) rfl rfl, field_at sum hf 3 (lo := 12) (f := n) rfl rfl, field_at sum hf 2 (lo := 8) (f := p) rfl rfl]

theorem Encodes.pclr (d : BitVec 4) (n : BitVec 1) (p : BitVec 4) : Encodes.Statement (.pclr d n p) := by
  intro hwf nb word henc
  have hword : some (32, 0x600003b + d.toNat * 2 ^ 13 + n.toNat * 2 ^ 12 + p.toNat * 2 ^ 8) = some (nb, word) := henc
  obtain ⟨rfl, hsum⟩ := words_of hword
  have sum : word = joined [(1, 1), (7, 0x1d), (4, p.toNat), (1, n.toNat), (4, d.toNat), (15, 768)] := by
    rw [← hsum]
    simp only [joined]
    ring
  have hf : Fits [(1, 1), (7, 0x1d), (4, p.toNat), (1, n.toNat), (4, d.toNat), (15, 768)] :=
    ⟨by decide, by decide, p.isLt, n.isLt, d.isLt, by decide, trivial⟩
  refine decode_odd (by omega) ?_ hwf
  rw [fields_1d (number_at sum hf 1 rfl rfl), decodeMajor1d, if_neg (by unfold nbits; have := d.isLt; have := n.isLt; have := p.isLt; omega), if_neg (by unfold nbits; have := d.isLt; have := n.isLt; have := p.isLt; omega), if_neg (fun hc => absurd ((number_at sum hf 5 (lo := 17) rfl rfl).symm.trans hc) (by decide)), if_pos (number_at sum hf 5 (lo := 17) rfl rfl)]
  rw [field_at sum hf 4 (lo := 13) (f := d) rfl rfl, field_at sum hf 3 (lo := 12) (f := n) rfl rfl, field_at sum hf 2 (lo := 8) (f := p) rfl rfl]

theorem Encodes.popc (l : BitVec 4) (a : BitVec 6) (d : BitVec 6) (n : BitVec 1) (p : BitVec 4) : Encodes.Statement (.popc l a d n p) := by
  intro hwf nb word henc
  have hword : some (32, 0x3d + l.toNat * 2 ^ 28 + a.toNat * 2 ^ 19 + d.toNat * 2 ^ 13 + n.toNat * 2 ^ 12 + p.toNat * 2 ^ 8) = some (nb, word) := henc
  obtain ⟨rfl, hsum⟩ := words_of hword
  have sum : word = joined [(1, 1), (7, 0x1e), (4, p.toNat), (1, n.toNat), (6, d.toNat), (6, a.toNat), (3, 0), (4, l.toNat)] := by
    rw [← hsum]
    simp only [joined]
    ring
  have hf : Fits [(1, 1), (7, 0x1e), (4, p.toNat), (1, n.toNat), (6, d.toNat), (6, a.toNat), (3, 0), (4, l.toNat)] :=
    ⟨by decide, by decide, p.isLt, n.isLt, d.isLt, a.isLt, by decide, l.isLt, trivial⟩
  refine decode_odd (by omega) ?_ hwf
  rw [fields_1e (number_at sum hf 1 rfl rfl), decodeMajor1e, if_pos (number_at sum hf 6 (lo := 25) rfl rfl)]
  rw [field_at sum hf 7 (lo := 28) (f := l) rfl rfl, field_at sum hf 5 (lo := 19) (f := a) rfl rfl, field_at sum hf 4 (lo := 13) (f := d) rfl rfl, field_at sum hf 3 (lo := 12) (f := n) rfl rfl, field_at sum hf 2 (lo := 8) (f := p) rfl rfl]

theorem Encodes.clz (l : BitVec 4) (a : BitVec 6) (d : BitVec 6) (n : BitVec 1) (p : BitVec 4) : Encodes.Statement (.clz l a d n p) := by
  intro hwf nb word henc
  have hword : some (32, 0x200003d + l.toNat * 2 ^ 28 + a.toNat * 2 ^ 19 + d.toNat * 2 ^ 13 + n.toNat * 2 ^ 12 + p.toNat * 2 ^ 8) = some (nb, word) := henc
  obtain ⟨rfl, hsum⟩ := words_of hword
  have sum : word = joined [(1, 1), (7, 0x1e), (4, p.toNat), (1, n.toNat), (6, d.toNat), (6, a.toNat), (3, 1), (4, l.toNat)] := by
    rw [← hsum]
    simp only [joined]
    ring
  have hf : Fits [(1, 1), (7, 0x1e), (4, p.toNat), (1, n.toNat), (6, d.toNat), (6, a.toNat), (3, 1), (4, l.toNat)] :=
    ⟨by decide, by decide, p.isLt, n.isLt, d.isLt, a.isLt, by decide, l.isLt, trivial⟩
  refine decode_odd (by omega) ?_ hwf
  rw [fields_1e (number_at sum hf 1 rfl rfl), decodeMajor1e, if_neg (fun hc => absurd ((number_at sum hf 6 (lo := 25) rfl rfl).symm.trans hc) (by decide)), if_pos (number_at sum hf 6 (lo := 25) rfl rfl)]
  rw [field_at sum hf 7 (lo := 28) (f := l) rfl rfl, field_at sum hf 5 (lo := 19) (f := a) rfl rfl, field_at sum hf 4 (lo := 13) (f := d) rfl rfl, field_at sum hf 3 (lo := 12) (f := n) rfl rfl, field_at sum hf 2 (lo := 8) (f := p) rfl rfl]

theorem Encodes.ctz (l : BitVec 4) (a : BitVec 6) (d : BitVec 6) (n : BitVec 1) (p : BitVec 4) : Encodes.Statement (.ctz l a d n p) := by
  intro hwf nb word henc
  have hword : some (32, 0x400003d + l.toNat * 2 ^ 28 + a.toNat * 2 ^ 19 + d.toNat * 2 ^ 13 + n.toNat * 2 ^ 12 + p.toNat * 2 ^ 8) = some (nb, word) := henc
  obtain ⟨rfl, hsum⟩ := words_of hword
  have sum : word = joined [(1, 1), (7, 0x1e), (4, p.toNat), (1, n.toNat), (6, d.toNat), (6, a.toNat), (3, 2), (4, l.toNat)] := by
    rw [← hsum]
    simp only [joined]
    ring
  have hf : Fits [(1, 1), (7, 0x1e), (4, p.toNat), (1, n.toNat), (6, d.toNat), (6, a.toNat), (3, 2), (4, l.toNat)] :=
    ⟨by decide, by decide, p.isLt, n.isLt, d.isLt, a.isLt, by decide, l.isLt, trivial⟩
  refine decode_odd (by omega) ?_ hwf
  rw [fields_1e (number_at sum hf 1 rfl rfl), decodeMajor1e, if_neg (fun hc => absurd ((number_at sum hf 6 (lo := 25) rfl rfl).symm.trans hc) (by decide)), if_neg (fun hc => absurd ((number_at sum hf 6 (lo := 25) rfl rfl).symm.trans hc) (by decide)), if_pos (number_at sum hf 6 (lo := 25) rfl rfl)]
  rw [field_at sum hf 7 (lo := 28) (f := l) rfl rfl, field_at sum hf 5 (lo := 19) (f := a) rfl rfl, field_at sum hf 4 (lo := 13) (f := d) rfl rfl, field_at sum hf 3 (lo := 12) (f := n) rfl rfl, field_at sum hf 2 (lo := 8) (f := p) rfl rfl]

theorem Encodes.brev (l : BitVec 4) (a : BitVec 6) (d : BitVec 6) (n : BitVec 1) (p : BitVec 4) : Encodes.Statement (.brev l a d n p) := by
  intro hwf nb word henc
  have hword : some (32, 0x600003d + l.toNat * 2 ^ 28 + a.toNat * 2 ^ 19 + d.toNat * 2 ^ 13 + n.toNat * 2 ^ 12 + p.toNat * 2 ^ 8) = some (nb, word) := henc
  obtain ⟨rfl, hsum⟩ := words_of hword
  have sum : word = joined [(1, 1), (7, 0x1e), (4, p.toNat), (1, n.toNat), (6, d.toNat), (6, a.toNat), (3, 3), (4, l.toNat)] := by
    rw [← hsum]
    simp only [joined]
    ring
  have hf : Fits [(1, 1), (7, 0x1e), (4, p.toNat), (1, n.toNat), (6, d.toNat), (6, a.toNat), (3, 3), (4, l.toNat)] :=
    ⟨by decide, by decide, p.isLt, n.isLt, d.isLt, a.isLt, by decide, l.isLt, trivial⟩
  refine decode_odd (by omega) ?_ hwf
  rw [fields_1e (number_at sum hf 1 rfl rfl), decodeMajor1e, if_neg (fun hc => absurd ((number_at sum hf 6 (lo := 25) rfl rfl).symm.trans hc) (by decide)), if_neg (fun hc => absurd ((number_at sum hf 6 (lo := 25) rfl rfl).symm.trans hc) (by decide)), if_neg (fun hc => absurd ((number_at sum hf 6 (lo := 25) rfl rfl).symm.trans hc) (by decide)), if_pos (number_at sum hf 6 (lo := 25) rfl rfl)]
  rw [field_at sum hf 7 (lo := 28) (f := l) rfl rfl, field_at sum hf 5 (lo := 19) (f := a) rfl rfl, field_at sum hf 4 (lo := 13) (f := d) rfl rfl, field_at sum hf 3 (lo := 12) (f := n) rfl rfl, field_at sum hf 2 (lo := 8) (f := p) rfl rfl]

theorem Encodes.bswap (l : BitVec 4) (a : BitVec 6) (d : BitVec 6) (n : BitVec 1) (p : BitVec 4) : Encodes.Statement (.bswap l a d n p) := by
  intro hwf nb word henc
  have hword : some (32, 0x800003d + l.toNat * 2 ^ 28 + a.toNat * 2 ^ 19 + d.toNat * 2 ^ 13 + n.toNat * 2 ^ 12 + p.toNat * 2 ^ 8) = some (nb, word) := henc
  obtain ⟨rfl, hsum⟩ := words_of hword
  have sum : word = joined [(1, 1), (7, 0x1e), (4, p.toNat), (1, n.toNat), (6, d.toNat), (6, a.toNat), (3, 4), (4, l.toNat)] := by
    rw [← hsum]
    simp only [joined]
    ring
  have hf : Fits [(1, 1), (7, 0x1e), (4, p.toNat), (1, n.toNat), (6, d.toNat), (6, a.toNat), (3, 4), (4, l.toNat)] :=
    ⟨by decide, by decide, p.isLt, n.isLt, d.isLt, a.isLt, by decide, l.isLt, trivial⟩
  refine decode_odd (by omega) ?_ hwf
  rw [fields_1e (number_at sum hf 1 rfl rfl), decodeMajor1e, if_neg (fun hc => absurd ((number_at sum hf 6 (lo := 25) rfl rfl).symm.trans hc) (by decide)), if_neg (fun hc => absurd ((number_at sum hf 6 (lo := 25) rfl rfl).symm.trans hc) (by decide)), if_neg (fun hc => absurd ((number_at sum hf 6 (lo := 25) rfl rfl).symm.trans hc) (by decide)), if_neg (fun hc => absurd ((number_at sum hf 6 (lo := 25) rfl rfl).symm.trans hc) (by decide)), if_pos (number_at sum hf 6 (lo := 25) rfl rfl)]
  rw [field_at sum hf 7 (lo := 28) (f := l) rfl rfl, field_at sum hf 5 (lo := 19) (f := a) rfl rfl, field_at sum hf 4 (lo := 13) (f := d) rfl rfl, field_at sum hf 3 (lo := 12) (f := n) rfl rfl, field_at sum hf 2 (lo := 8) (f := p) rfl rfl]

theorem Encodes.sexb (l : BitVec 4) (a : BitVec 6) (d : BitVec 6) (n : BitVec 1) (p : BitVec 4) : Encodes.Statement (.sexb l a d n p) := by
  intro hwf nb word henc
  have hword : some (32, 0xa00003d + l.toNat * 2 ^ 28 + a.toNat * 2 ^ 19 + d.toNat * 2 ^ 13 + n.toNat * 2 ^ 12 + p.toNat * 2 ^ 8) = some (nb, word) := henc
  obtain ⟨rfl, hsum⟩ := words_of hword
  have sum : word = joined [(1, 1), (7, 0x1e), (4, p.toNat), (1, n.toNat), (6, d.toNat), (6, a.toNat), (3, 5), (4, l.toNat)] := by
    rw [← hsum]
    simp only [joined]
    ring
  have hf : Fits [(1, 1), (7, 0x1e), (4, p.toNat), (1, n.toNat), (6, d.toNat), (6, a.toNat), (3, 5), (4, l.toNat)] :=
    ⟨by decide, by decide, p.isLt, n.isLt, d.isLt, a.isLt, by decide, l.isLt, trivial⟩
  refine decode_odd (by omega) ?_ hwf
  rw [fields_1e (number_at sum hf 1 rfl rfl), decodeMajor1e, if_neg (fun hc => absurd ((number_at sum hf 6 (lo := 25) rfl rfl).symm.trans hc) (by decide)), if_neg (fun hc => absurd ((number_at sum hf 6 (lo := 25) rfl rfl).symm.trans hc) (by decide)), if_neg (fun hc => absurd ((number_at sum hf 6 (lo := 25) rfl rfl).symm.trans hc) (by decide)), if_neg (fun hc => absurd ((number_at sum hf 6 (lo := 25) rfl rfl).symm.trans hc) (by decide)), if_neg (fun hc => absurd ((number_at sum hf 6 (lo := 25) rfl rfl).symm.trans hc) (by decide)), if_pos (number_at sum hf 6 (lo := 25) rfl rfl)]
  rw [field_at sum hf 7 (lo := 28) (f := l) rfl rfl, field_at sum hf 5 (lo := 19) (f := a) rfl rfl, field_at sum hf 4 (lo := 13) (f := d) rfl rfl, field_at sum hf 3 (lo := 12) (f := n) rfl rfl, field_at sum hf 2 (lo := 8) (f := p) rfl rfl]

theorem Encodes.sexh (l : BitVec 4) (a : BitVec 6) (d : BitVec 6) (n : BitVec 1) (p : BitVec 4) : Encodes.Statement (.sexh l a d n p) := by
  intro hwf nb word henc
  have hword : some (32, 0xc00003d + l.toNat * 2 ^ 28 + a.toNat * 2 ^ 19 + d.toNat * 2 ^ 13 + n.toNat * 2 ^ 12 + p.toNat * 2 ^ 8) = some (nb, word) := henc
  obtain ⟨rfl, hsum⟩ := words_of hword
  have sum : word = joined [(1, 1), (7, 0x1e), (4, p.toNat), (1, n.toNat), (6, d.toNat), (6, a.toNat), (3, 6), (4, l.toNat)] := by
    rw [← hsum]
    simp only [joined]
    ring
  have hf : Fits [(1, 1), (7, 0x1e), (4, p.toNat), (1, n.toNat), (6, d.toNat), (6, a.toNat), (3, 6), (4, l.toNat)] :=
    ⟨by decide, by decide, p.isLt, n.isLt, d.isLt, a.isLt, by decide, l.isLt, trivial⟩
  refine decode_odd (by omega) ?_ hwf
  rw [fields_1e (number_at sum hf 1 rfl rfl), decodeMajor1e, if_neg (fun hc => absurd ((number_at sum hf 6 (lo := 25) rfl rfl).symm.trans hc) (by decide)), if_neg (fun hc => absurd ((number_at sum hf 6 (lo := 25) rfl rfl).symm.trans hc) (by decide)), if_neg (fun hc => absurd ((number_at sum hf 6 (lo := 25) rfl rfl).symm.trans hc) (by decide)), if_neg (fun hc => absurd ((number_at sum hf 6 (lo := 25) rfl rfl).symm.trans hc) (by decide)), if_neg (fun hc => absurd ((number_at sum hf 6 (lo := 25) rfl rfl).symm.trans hc) (by decide)), if_neg (fun hc => absurd ((number_at sum hf 6 (lo := 25) rfl rfl).symm.trans hc) (by decide)), if_pos (number_at sum hf 6 (lo := 25) rfl rfl)]
  rw [field_at sum hf 7 (lo := 28) (f := l) rfl rfl, field_at sum hf 5 (lo := 19) (f := a) rfl rfl, field_at sum hf 4 (lo := 13) (f := d) rfl rfl, field_at sum hf 3 (lo := 12) (f := n) rfl rfl, field_at sum hf 2 (lo := 8) (f := p) rfl rfl]

theorem Encodes.movd (l : BitVec 4) (a : BitVec 6) (d : BitVec 6) (n : BitVec 1) (p : BitVec 4) : Encodes.Statement (.movd l a d n p) := by
  intro hwf nb word henc
  have hword : some (32, 0xe00003d + l.toNat * 2 ^ 28 + a.toNat * 2 ^ 19 + d.toNat * 2 ^ 13 + n.toNat * 2 ^ 12 + p.toNat * 2 ^ 8) = some (nb, word) := henc
  obtain ⟨rfl, hsum⟩ := words_of hword
  have sum : word = joined [(1, 1), (7, 0x1e), (4, p.toNat), (1, n.toNat), (6, d.toNat), (6, a.toNat), (3, 7), (4, l.toNat)] := by
    rw [← hsum]
    simp only [joined]
    ring
  have hf : Fits [(1, 1), (7, 0x1e), (4, p.toNat), (1, n.toNat), (6, d.toNat), (6, a.toNat), (3, 7), (4, l.toNat)] :=
    ⟨by decide, by decide, p.isLt, n.isLt, d.isLt, a.isLt, by decide, l.isLt, trivial⟩
  refine decode_odd (by omega) ?_ hwf
  rw [fields_1e (number_at sum hf 1 rfl rfl), decodeMajor1e, if_neg (fun hc => absurd ((number_at sum hf 6 (lo := 25) rfl rfl).symm.trans hc) (by decide)), if_neg (fun hc => absurd ((number_at sum hf 6 (lo := 25) rfl rfl).symm.trans hc) (by decide)), if_neg (fun hc => absurd ((number_at sum hf 6 (lo := 25) rfl rfl).symm.trans hc) (by decide)), if_neg (fun hc => absurd ((number_at sum hf 6 (lo := 25) rfl rfl).symm.trans hc) (by decide)), if_neg (fun hc => absurd ((number_at sum hf 6 (lo := 25) rfl rfl).symm.trans hc) (by decide)), if_neg (fun hc => absurd ((number_at sum hf 6 (lo := 25) rfl rfl).symm.trans hc) (by decide)), if_neg (fun hc => absurd ((number_at sum hf 6 (lo := 25) rfl rfl).symm.trans hc) (by decide)), if_pos (number_at sum hf 6 (lo := 25) rfl rfl)]
  rw [field_at sum hf 7 (lo := 28) (f := l) rfl rfl, field_at sum hf 5 (lo := 19) (f := a) rfl rfl, field_at sum hf 4 (lo := 13) (f := d) rfl rfl, field_at sum hf 3 (lo := 12) (f := n) rfl rfl, field_at sum hf 2 (lo := 8) (f := p) rfl rfl]

theorem Encodes.bfe (v : BitVec 1) (b : BitVec 6) (a : BitVec 6) (d : BitVec 6) (n : BitVec 1) (p : BitVec 4) : Encodes.Statement (.bfe v b a d n p) := by
  intro hwf nb word henc
  have hword : some (32, 0x3f + v.toNat * 2 ^ 31 + b.toNat * 2 ^ 25 + a.toNat * 2 ^ 19 + d.toNat * 2 ^ 13 + n.toNat * 2 ^ 12 + p.toNat * 2 ^ 8) = some (nb, word) := henc
  obtain ⟨rfl, hsum⟩ := words_of hword
  have sum : word = joined [(1, 1), (7, 0x1f), (4, p.toNat), (1, n.toNat), (6, d.toNat), (6, a.toNat), (6, b.toNat), (1, v.toNat)] := by
    rw [← hsum]
    simp only [joined]
    ring
  have hf : Fits [(1, 1), (7, 0x1f), (4, p.toNat), (1, n.toNat), (6, d.toNat), (6, a.toNat), (6, b.toNat), (1, v.toNat)] :=
    ⟨by decide, by decide, p.isLt, n.isLt, d.isLt, a.isLt, b.isLt, v.isLt, trivial⟩
  refine decode_odd (by omega) ?_ hwf
  rw [fields_1f (number_at sum hf 1 rfl rfl), decodeMajor1f]
  rw [field_at sum hf 7 (lo := 31) (f := v) rfl rfl, field_at sum hf 6 (lo := 25) (f := b) rfl rfl, field_at sum hf 5 (lo := 19) (f := a) rfl rfl, field_at sum hf 4 (lo := 13) (f := d) rfl rfl, field_at sum hf 3 (lo := 12) (f := n) rfl rfl, field_at sum hf 2 (lo := 8) (f := p) rfl rfl]

theorem Encodes.fadd (v : BitVec 1) (b : BitVec 6) (a : BitVec 6) (d : BitVec 6) (n : BitVec 1) (p : BitVec 4) : Encodes.Statement (.fadd v b a d n p) := by
  intro hwf nb word henc
  have hword : some (32, 0x41 + v.toNat * 2 ^ 31 + b.toNat * 2 ^ 25 + a.toNat * 2 ^ 19 + d.toNat * 2 ^ 13 + n.toNat * 2 ^ 12 + p.toNat * 2 ^ 8) = some (nb, word) := henc
  obtain ⟨rfl, hsum⟩ := words_of hword
  have sum : word = joined [(1, 1), (7, 0x20), (4, p.toNat), (1, n.toNat), (6, d.toNat), (6, a.toNat), (6, b.toNat), (1, v.toNat)] := by
    rw [← hsum]
    simp only [joined]
    ring
  have hf : Fits [(1, 1), (7, 0x20), (4, p.toNat), (1, n.toNat), (6, d.toNat), (6, a.toNat), (6, b.toNat), (1, v.toNat)] :=
    ⟨by decide, by decide, p.isLt, n.isLt, d.isLt, a.isLt, b.isLt, v.isLt, trivial⟩
  refine decode_odd (by omega) ?_ hwf
  rw [fields_20 (number_at sum hf 1 rfl rfl), decodeMajor20]
  rw [field_at sum hf 7 (lo := 31) (f := v) rfl rfl, field_at sum hf 6 (lo := 25) (f := b) rfl rfl, field_at sum hf 5 (lo := 19) (f := a) rfl rfl, field_at sum hf 4 (lo := 13) (f := d) rfl rfl, field_at sum hf 3 (lo := 12) (f := n) rfl rfl, field_at sum hf 2 (lo := 8) (f := p) rfl rfl]

theorem Encodes.fsub (v : BitVec 1) (b : BitVec 6) (a : BitVec 6) (d : BitVec 6) (n : BitVec 1) (p : BitVec 4) : Encodes.Statement (.fsub v b a d n p) := by
  intro hwf nb word henc
  have hword : some (32, 0x43 + v.toNat * 2 ^ 31 + b.toNat * 2 ^ 25 + a.toNat * 2 ^ 19 + d.toNat * 2 ^ 13 + n.toNat * 2 ^ 12 + p.toNat * 2 ^ 8) = some (nb, word) := henc
  obtain ⟨rfl, hsum⟩ := words_of hword
  have sum : word = joined [(1, 1), (7, 0x21), (4, p.toNat), (1, n.toNat), (6, d.toNat), (6, a.toNat), (6, b.toNat), (1, v.toNat)] := by
    rw [← hsum]
    simp only [joined]
    ring
  have hf : Fits [(1, 1), (7, 0x21), (4, p.toNat), (1, n.toNat), (6, d.toNat), (6, a.toNat), (6, b.toNat), (1, v.toNat)] :=
    ⟨by decide, by decide, p.isLt, n.isLt, d.isLt, a.isLt, b.isLt, v.isLt, trivial⟩
  refine decode_odd (by omega) ?_ hwf
  rw [fields_21 (number_at sum hf 1 rfl rfl), decodeMajor21]
  rw [field_at sum hf 7 (lo := 31) (f := v) rfl rfl, field_at sum hf 6 (lo := 25) (f := b) rfl rfl, field_at sum hf 5 (lo := 19) (f := a) rfl rfl, field_at sum hf 4 (lo := 13) (f := d) rfl rfl, field_at sum hf 3 (lo := 12) (f := n) rfl rfl, field_at sum hf 2 (lo := 8) (f := p) rfl rfl]

theorem Encodes.fmul (v : BitVec 1) (b : BitVec 6) (a : BitVec 6) (d : BitVec 6) (n : BitVec 1) (p : BitVec 4) : Encodes.Statement (.fmul v b a d n p) := by
  intro hwf nb word henc
  have hword : some (32, 0x45 + v.toNat * 2 ^ 31 + b.toNat * 2 ^ 25 + a.toNat * 2 ^ 19 + d.toNat * 2 ^ 13 + n.toNat * 2 ^ 12 + p.toNat * 2 ^ 8) = some (nb, word) := henc
  obtain ⟨rfl, hsum⟩ := words_of hword
  have sum : word = joined [(1, 1), (7, 0x22), (4, p.toNat), (1, n.toNat), (6, d.toNat), (6, a.toNat), (6, b.toNat), (1, v.toNat)] := by
    rw [← hsum]
    simp only [joined]
    ring
  have hf : Fits [(1, 1), (7, 0x22), (4, p.toNat), (1, n.toNat), (6, d.toNat), (6, a.toNat), (6, b.toNat), (1, v.toNat)] :=
    ⟨by decide, by decide, p.isLt, n.isLt, d.isLt, a.isLt, b.isLt, v.isLt, trivial⟩
  refine decode_odd (by omega) ?_ hwf
  rw [fields_22 (number_at sum hf 1 rfl rfl), decodeMajor22]
  rw [field_at sum hf 7 (lo := 31) (f := v) rfl rfl, field_at sum hf 6 (lo := 25) (f := b) rfl rfl, field_at sum hf 5 (lo := 19) (f := a) rfl rfl, field_at sum hf 4 (lo := 13) (f := d) rfl rfl, field_at sum hf 3 (lo := 12) (f := n) rfl rfl, field_at sum hf 2 (lo := 8) (f := p) rfl rfl]

theorem Encodes.fdiv (v : BitVec 1) (b : BitVec 6) (a : BitVec 6) (d : BitVec 6) (n : BitVec 1) (p : BitVec 4) : Encodes.Statement (.fdiv v b a d n p) := by
  intro hwf nb word henc
  have hword : some (32, 0x47 + v.toNat * 2 ^ 31 + b.toNat * 2 ^ 25 + a.toNat * 2 ^ 19 + d.toNat * 2 ^ 13 + n.toNat * 2 ^ 12 + p.toNat * 2 ^ 8) = some (nb, word) := henc
  obtain ⟨rfl, hsum⟩ := words_of hword
  have sum : word = joined [(1, 1), (7, 0x23), (4, p.toNat), (1, n.toNat), (6, d.toNat), (6, a.toNat), (6, b.toNat), (1, v.toNat)] := by
    rw [← hsum]
    simp only [joined]
    ring
  have hf : Fits [(1, 1), (7, 0x23), (4, p.toNat), (1, n.toNat), (6, d.toNat), (6, a.toNat), (6, b.toNat), (1, v.toNat)] :=
    ⟨by decide, by decide, p.isLt, n.isLt, d.isLt, a.isLt, b.isLt, v.isLt, trivial⟩
  refine decode_odd (by omega) ?_ hwf
  rw [fields_23 (number_at sum hf 1 rfl rfl), decodeMajor23]
  rw [field_at sum hf 7 (lo := 31) (f := v) rfl rfl, field_at sum hf 6 (lo := 25) (f := b) rfl rfl, field_at sum hf 5 (lo := 19) (f := a) rfl rfl, field_at sum hf 4 (lo := 13) (f := d) rfl rfl, field_at sum hf 3 (lo := 12) (f := n) rfl rfl, field_at sum hf 2 (lo := 8) (f := p) rfl rfl]

theorem Encodes.fmin (v : BitVec 1) (b : BitVec 6) (a : BitVec 6) (d : BitVec 6) (n : BitVec 1) (p : BitVec 4) : Encodes.Statement (.fmin v b a d n p) := by
  intro hwf nb word henc
  have hword : some (32, 0x49 + v.toNat * 2 ^ 31 + b.toNat * 2 ^ 25 + a.toNat * 2 ^ 19 + d.toNat * 2 ^ 13 + n.toNat * 2 ^ 12 + p.toNat * 2 ^ 8) = some (nb, word) := henc
  obtain ⟨rfl, hsum⟩ := words_of hword
  have sum : word = joined [(1, 1), (7, 0x24), (4, p.toNat), (1, n.toNat), (6, d.toNat), (6, a.toNat), (6, b.toNat), (1, v.toNat)] := by
    rw [← hsum]
    simp only [joined]
    ring
  have hf : Fits [(1, 1), (7, 0x24), (4, p.toNat), (1, n.toNat), (6, d.toNat), (6, a.toNat), (6, b.toNat), (1, v.toNat)] :=
    ⟨by decide, by decide, p.isLt, n.isLt, d.isLt, a.isLt, b.isLt, v.isLt, trivial⟩
  refine decode_odd (by omega) ?_ hwf
  rw [fields_24 (number_at sum hf 1 rfl rfl), decodeMajor24]
  rw [field_at sum hf 7 (lo := 31) (f := v) rfl rfl, field_at sum hf 6 (lo := 25) (f := b) rfl rfl, field_at sum hf 5 (lo := 19) (f := a) rfl rfl, field_at sum hf 4 (lo := 13) (f := d) rfl rfl, field_at sum hf 3 (lo := 12) (f := n) rfl rfl, field_at sum hf 2 (lo := 8) (f := p) rfl rfl]

theorem Encodes.fmax (v : BitVec 1) (b : BitVec 6) (a : BitVec 6) (d : BitVec 6) (n : BitVec 1) (p : BitVec 4) : Encodes.Statement (.fmax v b a d n p) := by
  intro hwf nb word henc
  have hword : some (32, 0x4b + v.toNat * 2 ^ 31 + b.toNat * 2 ^ 25 + a.toNat * 2 ^ 19 + d.toNat * 2 ^ 13 + n.toNat * 2 ^ 12 + p.toNat * 2 ^ 8) = some (nb, word) := henc
  obtain ⟨rfl, hsum⟩ := words_of hword
  have sum : word = joined [(1, 1), (7, 0x25), (4, p.toNat), (1, n.toNat), (6, d.toNat), (6, a.toNat), (6, b.toNat), (1, v.toNat)] := by
    rw [← hsum]
    simp only [joined]
    ring
  have hf : Fits [(1, 1), (7, 0x25), (4, p.toNat), (1, n.toNat), (6, d.toNat), (6, a.toNat), (6, b.toNat), (1, v.toNat)] :=
    ⟨by decide, by decide, p.isLt, n.isLt, d.isLt, a.isLt, b.isLt, v.isLt, trivial⟩
  refine decode_odd (by omega) ?_ hwf
  rw [fields_25 (number_at sum hf 1 rfl rfl), decodeMajor25]
  rw [field_at sum hf 7 (lo := 31) (f := v) rfl rfl, field_at sum hf 6 (lo := 25) (f := b) rfl rfl, field_at sum hf 5 (lo := 19) (f := a) rfl rfl, field_at sum hf 4 (lo := 13) (f := d) rfl rfl, field_at sum hf 3 (lo := 12) (f := n) rfl rfl, field_at sum hf 2 (lo := 8) (f := p) rfl rfl]

theorem Encodes.fmac (v : BitVec 1) (b : BitVec 6) (a : BitVec 6) (d : BitVec 6) (n : BitVec 1) (p : BitVec 4) : Encodes.Statement (.fmac v b a d n p) := by
  intro hwf nb word henc
  have hword : some (32, 0x4d + v.toNat * 2 ^ 31 + b.toNat * 2 ^ 25 + a.toNat * 2 ^ 19 + d.toNat * 2 ^ 13 + n.toNat * 2 ^ 12 + p.toNat * 2 ^ 8) = some (nb, word) := henc
  obtain ⟨rfl, hsum⟩ := words_of hword
  have sum : word = joined [(1, 1), (7, 0x26), (4, p.toNat), (1, n.toNat), (6, d.toNat), (6, a.toNat), (6, b.toNat), (1, v.toNat)] := by
    rw [← hsum]
    simp only [joined]
    ring
  have hf : Fits [(1, 1), (7, 0x26), (4, p.toNat), (1, n.toNat), (6, d.toNat), (6, a.toNat), (6, b.toNat), (1, v.toNat)] :=
    ⟨by decide, by decide, p.isLt, n.isLt, d.isLt, a.isLt, b.isLt, v.isLt, trivial⟩
  refine decode_odd (by omega) ?_ hwf
  rw [fields_26 (number_at sum hf 1 rfl rfl), decodeMajor26]
  rw [field_at sum hf 7 (lo := 31) (f := v) rfl rfl, field_at sum hf 6 (lo := 25) (f := b) rfl rfl, field_at sum hf 5 (lo := 19) (f := a) rfl rfl, field_at sum hf 4 (lo := 13) (f := d) rfl rfl, field_at sum hf 3 (lo := 12) (f := n) rfl rfl, field_at sum hf 2 (lo := 8) (f := p) rfl rfl]

theorem Encodes.fnmac (v : BitVec 1) (b : BitVec 6) (a : BitVec 6) (d : BitVec 6) (n : BitVec 1) (p : BitVec 4) : Encodes.Statement (.fnmac v b a d n p) := by
  intro hwf nb word henc
  have hword : some (32, 0x4f + v.toNat * 2 ^ 31 + b.toNat * 2 ^ 25 + a.toNat * 2 ^ 19 + d.toNat * 2 ^ 13 + n.toNat * 2 ^ 12 + p.toNat * 2 ^ 8) = some (nb, word) := henc
  obtain ⟨rfl, hsum⟩ := words_of hword
  have sum : word = joined [(1, 1), (7, 0x27), (4, p.toNat), (1, n.toNat), (6, d.toNat), (6, a.toNat), (6, b.toNat), (1, v.toNat)] := by
    rw [← hsum]
    simp only [joined]
    ring
  have hf : Fits [(1, 1), (7, 0x27), (4, p.toNat), (1, n.toNat), (6, d.toNat), (6, a.toNat), (6, b.toNat), (1, v.toNat)] :=
    ⟨by decide, by decide, p.isLt, n.isLt, d.isLt, a.isLt, b.isLt, v.isLt, trivial⟩
  refine decode_odd (by omega) ?_ hwf
  rw [fields_27 (number_at sum hf 1 rfl rfl), decodeMajor27]
  rw [field_at sum hf 7 (lo := 31) (f := v) rfl rfl, field_at sum hf 6 (lo := 25) (f := b) rfl rfl, field_at sum hf 5 (lo := 19) (f := a) rfl rfl, field_at sum hf 4 (lo := 13) (f := d) rfl rfl, field_at sum hf 3 (lo := 12) (f := n) rfl rfl, field_at sum hf 2 (lo := 8) (f := p) rfl rfl]

theorem Encodes.hadd (v : BitVec 1) (b : BitVec 6) (a : BitVec 6) (d : BitVec 6) (n : BitVec 1) (p : BitVec 4) : Encodes.Statement (.hadd v b a d n p) := by
  intro hwf nb word henc
  have hword : some (32, 0x51 + v.toNat * 2 ^ 31 + b.toNat * 2 ^ 25 + a.toNat * 2 ^ 19 + d.toNat * 2 ^ 13 + n.toNat * 2 ^ 12 + p.toNat * 2 ^ 8) = some (nb, word) := henc
  obtain ⟨rfl, hsum⟩ := words_of hword
  have sum : word = joined [(1, 1), (7, 0x28), (4, p.toNat), (1, n.toNat), (6, d.toNat), (6, a.toNat), (6, b.toNat), (1, v.toNat)] := by
    rw [← hsum]
    simp only [joined]
    ring
  have hf : Fits [(1, 1), (7, 0x28), (4, p.toNat), (1, n.toNat), (6, d.toNat), (6, a.toNat), (6, b.toNat), (1, v.toNat)] :=
    ⟨by decide, by decide, p.isLt, n.isLt, d.isLt, a.isLt, b.isLt, v.isLt, trivial⟩
  refine decode_odd (by omega) ?_ hwf
  rw [fields_28 (number_at sum hf 1 rfl rfl), decodeMajor28]
  rw [field_at sum hf 7 (lo := 31) (f := v) rfl rfl, field_at sum hf 6 (lo := 25) (f := b) rfl rfl, field_at sum hf 5 (lo := 19) (f := a) rfl rfl, field_at sum hf 4 (lo := 13) (f := d) rfl rfl, field_at sum hf 3 (lo := 12) (f := n) rfl rfl, field_at sum hf 2 (lo := 8) (f := p) rfl rfl]

theorem Encodes.hsub (v : BitVec 1) (b : BitVec 6) (a : BitVec 6) (d : BitVec 6) (n : BitVec 1) (p : BitVec 4) : Encodes.Statement (.hsub v b a d n p) := by
  intro hwf nb word henc
  have hword : some (32, 0x53 + v.toNat * 2 ^ 31 + b.toNat * 2 ^ 25 + a.toNat * 2 ^ 19 + d.toNat * 2 ^ 13 + n.toNat * 2 ^ 12 + p.toNat * 2 ^ 8) = some (nb, word) := henc
  obtain ⟨rfl, hsum⟩ := words_of hword
  have sum : word = joined [(1, 1), (7, 0x29), (4, p.toNat), (1, n.toNat), (6, d.toNat), (6, a.toNat), (6, b.toNat), (1, v.toNat)] := by
    rw [← hsum]
    simp only [joined]
    ring
  have hf : Fits [(1, 1), (7, 0x29), (4, p.toNat), (1, n.toNat), (6, d.toNat), (6, a.toNat), (6, b.toNat), (1, v.toNat)] :=
    ⟨by decide, by decide, p.isLt, n.isLt, d.isLt, a.isLt, b.isLt, v.isLt, trivial⟩
  refine decode_odd (by omega) ?_ hwf
  rw [fields_29 (number_at sum hf 1 rfl rfl), decodeMajor29]
  rw [field_at sum hf 7 (lo := 31) (f := v) rfl rfl, field_at sum hf 6 (lo := 25) (f := b) rfl rfl, field_at sum hf 5 (lo := 19) (f := a) rfl rfl, field_at sum hf 4 (lo := 13) (f := d) rfl rfl, field_at sum hf 3 (lo := 12) (f := n) rfl rfl, field_at sum hf 2 (lo := 8) (f := p) rfl rfl]

theorem Encodes.hmul (v : BitVec 1) (b : BitVec 6) (a : BitVec 6) (d : BitVec 6) (n : BitVec 1) (p : BitVec 4) : Encodes.Statement (.hmul v b a d n p) := by
  intro hwf nb word henc
  have hword : some (32, 0x55 + v.toNat * 2 ^ 31 + b.toNat * 2 ^ 25 + a.toNat * 2 ^ 19 + d.toNat * 2 ^ 13 + n.toNat * 2 ^ 12 + p.toNat * 2 ^ 8) = some (nb, word) := henc
  obtain ⟨rfl, hsum⟩ := words_of hword
  have sum : word = joined [(1, 1), (7, 0x2a), (4, p.toNat), (1, n.toNat), (6, d.toNat), (6, a.toNat), (6, b.toNat), (1, v.toNat)] := by
    rw [← hsum]
    simp only [joined]
    ring
  have hf : Fits [(1, 1), (7, 0x2a), (4, p.toNat), (1, n.toNat), (6, d.toNat), (6, a.toNat), (6, b.toNat), (1, v.toNat)] :=
    ⟨by decide, by decide, p.isLt, n.isLt, d.isLt, a.isLt, b.isLt, v.isLt, trivial⟩
  refine decode_odd (by omega) ?_ hwf
  rw [fields_2a (number_at sum hf 1 rfl rfl), decodeMajor2a]
  rw [field_at sum hf 7 (lo := 31) (f := v) rfl rfl, field_at sum hf 6 (lo := 25) (f := b) rfl rfl, field_at sum hf 5 (lo := 19) (f := a) rfl rfl, field_at sum hf 4 (lo := 13) (f := d) rfl rfl, field_at sum hf 3 (lo := 12) (f := n) rfl rfl, field_at sum hf 2 (lo := 8) (f := p) rfl rfl]

theorem Encodes.hmac (v : BitVec 1) (b : BitVec 6) (a : BitVec 6) (d : BitVec 6) (n : BitVec 1) (p : BitVec 4) : Encodes.Statement (.hmac v b a d n p) := by
  intro hwf nb word henc
  have hword : some (32, 0x57 + v.toNat * 2 ^ 31 + b.toNat * 2 ^ 25 + a.toNat * 2 ^ 19 + d.toNat * 2 ^ 13 + n.toNat * 2 ^ 12 + p.toNat * 2 ^ 8) = some (nb, word) := henc
  obtain ⟨rfl, hsum⟩ := words_of hword
  have sum : word = joined [(1, 1), (7, 0x2b), (4, p.toNat), (1, n.toNat), (6, d.toNat), (6, a.toNat), (6, b.toNat), (1, v.toNat)] := by
    rw [← hsum]
    simp only [joined]
    ring
  have hf : Fits [(1, 1), (7, 0x2b), (4, p.toNat), (1, n.toNat), (6, d.toNat), (6, a.toNat), (6, b.toNat), (1, v.toNat)] :=
    ⟨by decide, by decide, p.isLt, n.isLt, d.isLt, a.isLt, b.isLt, v.isLt, trivial⟩
  refine decode_odd (by omega) ?_ hwf
  rw [fields_2b (number_at sum hf 1 rfl rfl), decodeMajor2b]
  rw [field_at sum hf 7 (lo := 31) (f := v) rfl rfl, field_at sum hf 6 (lo := 25) (f := b) rfl rfl, field_at sum hf 5 (lo := 19) (f := a) rfl rfl, field_at sum hf 4 (lo := 13) (f := d) rfl rfl, field_at sum hf 3 (lo := 12) (f := n) rfl rfl, field_at sum hf 2 (lo := 8) (f := p) rfl rfl]

theorem Encodes.fcmp (v : BitVec 1) (b : BitVec 6) (a : BitVec 6) (c : BitVec 2) (q : BitVec 4) (n : BitVec 1) (p : BitVec 4) : Encodes.Statement (.fcmp v b a c q n p) := by
  intro hwf nb word henc
  have hword : some (32, 0x59 + v.toNat * 2 ^ 31 + b.toNat * 2 ^ 25 + a.toNat * 2 ^ 19 + c.toNat * 2 ^ 17 + q.toNat * 2 ^ 13 + n.toNat * 2 ^ 12 + p.toNat * 2 ^ 8) = some (nb, word) := henc
  obtain ⟨rfl, hsum⟩ := words_of hword
  have sum : word = joined [(1, 1), (7, 0x2c), (4, p.toNat), (1, n.toNat), (4, q.toNat), (2, c.toNat), (6, a.toNat), (6, b.toNat), (1, v.toNat)] := by
    rw [← hsum]
    simp only [joined]
    ring
  have hf : Fits [(1, 1), (7, 0x2c), (4, p.toNat), (1, n.toNat), (4, q.toNat), (2, c.toNat), (6, a.toNat), (6, b.toNat), (1, v.toNat)] :=
    ⟨by decide, by decide, p.isLt, n.isLt, q.isLt, c.isLt, a.isLt, b.isLt, v.isLt, trivial⟩
  refine decode_odd (by omega) ?_ hwf
  rw [fields_2c (number_at sum hf 1 rfl rfl), decodeMajor2c]
  rw [field_at sum hf 8 (lo := 31) (f := v) rfl rfl, field_at sum hf 7 (lo := 25) (f := b) rfl rfl, field_at sum hf 6 (lo := 19) (f := a) rfl rfl, field_at sum hf 5 (lo := 17) (f := c) rfl rfl, field_at sum hf 4 (lo := 13) (f := q) rfl rfl, field_at sum hf 3 (lo := 12) (f := n) rfl rfl, field_at sum hf 2 (lo := 8) (f := p) rfl rfl]

theorem Encodes.frcp (l : BitVec 4) (a : BitVec 6) (d : BitVec 6) (n : BitVec 1) (p : BitVec 4) : Encodes.Statement (.frcp l a d n p) := by
  intro hwf nb word henc
  have hword : some (32, 0x5b + l.toNat * 2 ^ 28 + a.toNat * 2 ^ 19 + d.toNat * 2 ^ 13 + n.toNat * 2 ^ 12 + p.toNat * 2 ^ 8) = some (nb, word) := henc
  obtain ⟨rfl, hsum⟩ := words_of hword
  have sum : word = joined [(1, 1), (7, 0x2d), (4, p.toNat), (1, n.toNat), (6, d.toNat), (6, a.toNat), (3, 0), (4, l.toNat)] := by
    rw [← hsum]
    simp only [joined]
    ring
  have hf : Fits [(1, 1), (7, 0x2d), (4, p.toNat), (1, n.toNat), (6, d.toNat), (6, a.toNat), (3, 0), (4, l.toNat)] :=
    ⟨by decide, by decide, p.isLt, n.isLt, d.isLt, a.isLt, by decide, l.isLt, trivial⟩
  refine decode_odd (by omega) ?_ hwf
  rw [fields_2d (number_at sum hf 1 rfl rfl), decodeMajor2d, if_pos (number_at sum hf 6 (lo := 25) rfl rfl)]
  rw [field_at sum hf 7 (lo := 28) (f := l) rfl rfl, field_at sum hf 5 (lo := 19) (f := a) rfl rfl, field_at sum hf 4 (lo := 13) (f := d) rfl rfl, field_at sum hf 3 (lo := 12) (f := n) rfl rfl, field_at sum hf 2 (lo := 8) (f := p) rfl rfl]

theorem Encodes.frsq (l : BitVec 4) (a : BitVec 6) (d : BitVec 6) (n : BitVec 1) (p : BitVec 4) : Encodes.Statement (.frsq l a d n p) := by
  intro hwf nb word henc
  have hword : some (32, 0x200005b + l.toNat * 2 ^ 28 + a.toNat * 2 ^ 19 + d.toNat * 2 ^ 13 + n.toNat * 2 ^ 12 + p.toNat * 2 ^ 8) = some (nb, word) := henc
  obtain ⟨rfl, hsum⟩ := words_of hword
  have sum : word = joined [(1, 1), (7, 0x2d), (4, p.toNat), (1, n.toNat), (6, d.toNat), (6, a.toNat), (3, 1), (4, l.toNat)] := by
    rw [← hsum]
    simp only [joined]
    ring
  have hf : Fits [(1, 1), (7, 0x2d), (4, p.toNat), (1, n.toNat), (6, d.toNat), (6, a.toNat), (3, 1), (4, l.toNat)] :=
    ⟨by decide, by decide, p.isLt, n.isLt, d.isLt, a.isLt, by decide, l.isLt, trivial⟩
  refine decode_odd (by omega) ?_ hwf
  rw [fields_2d (number_at sum hf 1 rfl rfl), decodeMajor2d, if_neg (fun hc => absurd ((number_at sum hf 6 (lo := 25) rfl rfl).symm.trans hc) (by decide)), if_pos (number_at sum hf 6 (lo := 25) rfl rfl)]
  rw [field_at sum hf 7 (lo := 28) (f := l) rfl rfl, field_at sum hf 5 (lo := 19) (f := a) rfl rfl, field_at sum hf 4 (lo := 13) (f := d) rfl rfl, field_at sum hf 3 (lo := 12) (f := n) rfl rfl, field_at sum hf 2 (lo := 8) (f := p) rfl rfl]

theorem Encodes.fsqrtF32 (l : BitVec 4) (a : BitVec 6) (d : BitVec 6) (n : BitVec 1) (p : BitVec 4) : Encodes.Statement (.fsqrtF32 l a d n p) := by
  intro hwf nb word henc
  have hword : some (32, 0x400005b + l.toNat * 2 ^ 28 + a.toNat * 2 ^ 19 + d.toNat * 2 ^ 13 + n.toNat * 2 ^ 12 + p.toNat * 2 ^ 8) = some (nb, word) := henc
  obtain ⟨rfl, hsum⟩ := words_of hword
  have sum : word = joined [(1, 1), (7, 0x2d), (4, p.toNat), (1, n.toNat), (6, d.toNat), (6, a.toNat), (3, 2), (4, l.toNat)] := by
    rw [← hsum]
    simp only [joined]
    ring
  have hf : Fits [(1, 1), (7, 0x2d), (4, p.toNat), (1, n.toNat), (6, d.toNat), (6, a.toNat), (3, 2), (4, l.toNat)] :=
    ⟨by decide, by decide, p.isLt, n.isLt, d.isLt, a.isLt, by decide, l.isLt, trivial⟩
  refine decode_odd (by omega) ?_ hwf
  rw [fields_2d (number_at sum hf 1 rfl rfl), decodeMajor2d, if_neg (fun hc => absurd ((number_at sum hf 6 (lo := 25) rfl rfl).symm.trans hc) (by decide)), if_neg (fun hc => absurd ((number_at sum hf 6 (lo := 25) rfl rfl).symm.trans hc) (by decide)), if_pos (number_at sum hf 6 (lo := 25) rfl rfl)]
  rw [field_at sum hf 7 (lo := 28) (f := l) rfl rfl, field_at sum hf 5 (lo := 19) (f := a) rfl rfl, field_at sum hf 4 (lo := 13) (f := d) rfl rfl, field_at sum hf 3 (lo := 12) (f := n) rfl rfl, field_at sum hf 2 (lo := 8) (f := p) rfl rfl]

theorem Encodes.fexp2 (l : BitVec 4) (a : BitVec 6) (d : BitVec 6) (n : BitVec 1) (p : BitVec 4) : Encodes.Statement (.fexp2 l a d n p) := by
  intro hwf nb word henc
  have hword : some (32, 0x600005b + l.toNat * 2 ^ 28 + a.toNat * 2 ^ 19 + d.toNat * 2 ^ 13 + n.toNat * 2 ^ 12 + p.toNat * 2 ^ 8) = some (nb, word) := henc
  obtain ⟨rfl, hsum⟩ := words_of hword
  have sum : word = joined [(1, 1), (7, 0x2d), (4, p.toNat), (1, n.toNat), (6, d.toNat), (6, a.toNat), (3, 3), (4, l.toNat)] := by
    rw [← hsum]
    simp only [joined]
    ring
  have hf : Fits [(1, 1), (7, 0x2d), (4, p.toNat), (1, n.toNat), (6, d.toNat), (6, a.toNat), (3, 3), (4, l.toNat)] :=
    ⟨by decide, by decide, p.isLt, n.isLt, d.isLt, a.isLt, by decide, l.isLt, trivial⟩
  refine decode_odd (by omega) ?_ hwf
  rw [fields_2d (number_at sum hf 1 rfl rfl), decodeMajor2d, if_neg (fun hc => absurd ((number_at sum hf 6 (lo := 25) rfl rfl).symm.trans hc) (by decide)), if_neg (fun hc => absurd ((number_at sum hf 6 (lo := 25) rfl rfl).symm.trans hc) (by decide)), if_neg (fun hc => absurd ((number_at sum hf 6 (lo := 25) rfl rfl).symm.trans hc) (by decide)), if_pos (number_at sum hf 6 (lo := 25) rfl rfl)]
  rw [field_at sum hf 7 (lo := 28) (f := l) rfl rfl, field_at sum hf 5 (lo := 19) (f := a) rfl rfl, field_at sum hf 4 (lo := 13) (f := d) rfl rfl, field_at sum hf 3 (lo := 12) (f := n) rfl rfl, field_at sum hf 2 (lo := 8) (f := p) rfl rfl]

theorem Encodes.flog2 (l : BitVec 4) (a : BitVec 6) (d : BitVec 6) (n : BitVec 1) (p : BitVec 4) : Encodes.Statement (.flog2 l a d n p) := by
  intro hwf nb word henc
  have hword : some (32, 0x800005b + l.toNat * 2 ^ 28 + a.toNat * 2 ^ 19 + d.toNat * 2 ^ 13 + n.toNat * 2 ^ 12 + p.toNat * 2 ^ 8) = some (nb, word) := henc
  obtain ⟨rfl, hsum⟩ := words_of hword
  have sum : word = joined [(1, 1), (7, 0x2d), (4, p.toNat), (1, n.toNat), (6, d.toNat), (6, a.toNat), (3, 4), (4, l.toNat)] := by
    rw [← hsum]
    simp only [joined]
    ring
  have hf : Fits [(1, 1), (7, 0x2d), (4, p.toNat), (1, n.toNat), (6, d.toNat), (6, a.toNat), (3, 4), (4, l.toNat)] :=
    ⟨by decide, by decide, p.isLt, n.isLt, d.isLt, a.isLt, by decide, l.isLt, trivial⟩
  refine decode_odd (by omega) ?_ hwf
  rw [fields_2d (number_at sum hf 1 rfl rfl), decodeMajor2d, if_neg (fun hc => absurd ((number_at sum hf 6 (lo := 25) rfl rfl).symm.trans hc) (by decide)), if_neg (fun hc => absurd ((number_at sum hf 6 (lo := 25) rfl rfl).symm.trans hc) (by decide)), if_neg (fun hc => absurd ((number_at sum hf 6 (lo := 25) rfl rfl).symm.trans hc) (by decide)), if_neg (fun hc => absurd ((number_at sum hf 6 (lo := 25) rfl rfl).symm.trans hc) (by decide)), if_pos (number_at sum hf 6 (lo := 25) rfl rfl)]
  rw [field_at sum hf 7 (lo := 28) (f := l) rfl rfl, field_at sum hf 5 (lo := 19) (f := a) rfl rfl, field_at sum hf 4 (lo := 13) (f := d) rfl rfl, field_at sum hf 3 (lo := 12) (f := n) rfl rfl, field_at sum hf 2 (lo := 8) (f := p) rfl rfl]

theorem Encodes.fsin (l : BitVec 4) (a : BitVec 6) (d : BitVec 6) (n : BitVec 1) (p : BitVec 4) : Encodes.Statement (.fsin l a d n p) := by
  intro hwf nb word henc
  have hword : some (32, 0xa00005b + l.toNat * 2 ^ 28 + a.toNat * 2 ^ 19 + d.toNat * 2 ^ 13 + n.toNat * 2 ^ 12 + p.toNat * 2 ^ 8) = some (nb, word) := henc
  obtain ⟨rfl, hsum⟩ := words_of hword
  have sum : word = joined [(1, 1), (7, 0x2d), (4, p.toNat), (1, n.toNat), (6, d.toNat), (6, a.toNat), (3, 5), (4, l.toNat)] := by
    rw [← hsum]
    simp only [joined]
    ring
  have hf : Fits [(1, 1), (7, 0x2d), (4, p.toNat), (1, n.toNat), (6, d.toNat), (6, a.toNat), (3, 5), (4, l.toNat)] :=
    ⟨by decide, by decide, p.isLt, n.isLt, d.isLt, a.isLt, by decide, l.isLt, trivial⟩
  refine decode_odd (by omega) ?_ hwf
  rw [fields_2d (number_at sum hf 1 rfl rfl), decodeMajor2d, if_neg (fun hc => absurd ((number_at sum hf 6 (lo := 25) rfl rfl).symm.trans hc) (by decide)), if_neg (fun hc => absurd ((number_at sum hf 6 (lo := 25) rfl rfl).symm.trans hc) (by decide)), if_neg (fun hc => absurd ((number_at sum hf 6 (lo := 25) rfl rfl).symm.trans hc) (by decide)), if_neg (fun hc => absurd ((number_at sum hf 6 (lo := 25) rfl rfl).symm.trans hc) (by decide)), if_neg (fun hc => absurd ((number_at sum hf 6 (lo := 25) rfl rfl).symm.trans hc) (by decide)), if_pos (number_at sum hf 6 (lo := 25) rfl rfl)]
  rw [field_at sum hf 7 (lo := 28) (f := l) rfl rfl, field_at sum hf 5 (lo := 19) (f := a) rfl rfl, field_at sum hf 4 (lo := 13) (f := d) rfl rfl, field_at sum hf 3 (lo := 12) (f := n) rfl rfl, field_at sum hf 2 (lo := 8) (f := p) rfl rfl]

theorem Encodes.fcos (l : BitVec 4) (a : BitVec 6) (d : BitVec 6) (n : BitVec 1) (p : BitVec 4) : Encodes.Statement (.fcos l a d n p) := by
  intro hwf nb word henc
  have hword : some (32, 0xc00005b + l.toNat * 2 ^ 28 + a.toNat * 2 ^ 19 + d.toNat * 2 ^ 13 + n.toNat * 2 ^ 12 + p.toNat * 2 ^ 8) = some (nb, word) := henc
  obtain ⟨rfl, hsum⟩ := words_of hword
  have sum : word = joined [(1, 1), (7, 0x2d), (4, p.toNat), (1, n.toNat), (6, d.toNat), (6, a.toNat), (3, 6), (4, l.toNat)] := by
    rw [← hsum]
    simp only [joined]
    ring
  have hf : Fits [(1, 1), (7, 0x2d), (4, p.toNat), (1, n.toNat), (6, d.toNat), (6, a.toNat), (3, 6), (4, l.toNat)] :=
    ⟨by decide, by decide, p.isLt, n.isLt, d.isLt, a.isLt, by decide, l.isLt, trivial⟩
  refine decode_odd (by omega) ?_ hwf
  rw [fields_2d (number_at sum hf 1 rfl rfl), decodeMajor2d, if_neg (fun hc => absurd ((number_at sum hf 6 (lo := 25) rfl rfl).symm.trans hc) (by decide)), if_neg (fun hc => absurd ((number_at sum hf 6 (lo := 25) rfl rfl).symm.trans hc) (by decide)), if_neg (fun hc => absurd ((number_at sum hf 6 (lo := 25) rfl rfl).symm.trans hc) (by decide)), if_neg (fun hc => absurd ((number_at sum hf 6 (lo := 25) rfl rfl).symm.trans hc) (by decide)), if_neg (fun hc => absurd ((number_at sum hf 6 (lo := 25) rfl rfl).symm.trans hc) (by decide)), if_neg (fun hc => absurd ((number_at sum hf 6 (lo := 25) rfl rfl).symm.trans hc) (by decide)), if_pos (number_at sum hf 6 (lo := 25) rfl rfl)]
  rw [field_at sum hf 7 (lo := 28) (f := l) rfl rfl, field_at sum hf 5 (lo := 19) (f := a) rfl rfl, field_at sum hf 4 (lo := 13) (f := d) rfl rfl, field_at sum hf 3 (lo := 12) (f := n) rfl rfl, field_at sum hf 2 (lo := 8) (f := p) rfl rfl]

theorem Encodes.ftanh (l : BitVec 4) (a : BitVec 6) (d : BitVec 6) (n : BitVec 1) (p : BitVec 4) : Encodes.Statement (.ftanh l a d n p) := by
  intro hwf nb word henc
  have hword : some (32, 0xe00005b + l.toNat * 2 ^ 28 + a.toNat * 2 ^ 19 + d.toNat * 2 ^ 13 + n.toNat * 2 ^ 12 + p.toNat * 2 ^ 8) = some (nb, word) := henc
  obtain ⟨rfl, hsum⟩ := words_of hword
  have sum : word = joined [(1, 1), (7, 0x2d), (4, p.toNat), (1, n.toNat), (6, d.toNat), (6, a.toNat), (3, 7), (4, l.toNat)] := by
    rw [← hsum]
    simp only [joined]
    ring
  have hf : Fits [(1, 1), (7, 0x2d), (4, p.toNat), (1, n.toNat), (6, d.toNat), (6, a.toNat), (3, 7), (4, l.toNat)] :=
    ⟨by decide, by decide, p.isLt, n.isLt, d.isLt, a.isLt, by decide, l.isLt, trivial⟩
  refine decode_odd (by omega) ?_ hwf
  rw [fields_2d (number_at sum hf 1 rfl rfl), decodeMajor2d, if_neg (fun hc => absurd ((number_at sum hf 6 (lo := 25) rfl rfl).symm.trans hc) (by decide)), if_neg (fun hc => absurd ((number_at sum hf 6 (lo := 25) rfl rfl).symm.trans hc) (by decide)), if_neg (fun hc => absurd ((number_at sum hf 6 (lo := 25) rfl rfl).symm.trans hc) (by decide)), if_neg (fun hc => absurd ((number_at sum hf 6 (lo := 25) rfl rfl).symm.trans hc) (by decide)), if_neg (fun hc => absurd ((number_at sum hf 6 (lo := 25) rfl rfl).symm.trans hc) (by decide)), if_neg (fun hc => absurd ((number_at sum hf 6 (lo := 25) rfl rfl).symm.trans hc) (by decide)), if_neg (fun hc => absurd ((number_at sum hf 6 (lo := 25) rfl rfl).symm.trans hc) (by decide)), if_pos (number_at sum hf 6 (lo := 25) rfl rfl)]
  rw [field_at sum hf 7 (lo := 28) (f := l) rfl rfl, field_at sum hf 5 (lo := 19) (f := a) rfl rfl, field_at sum hf 4 (lo := 13) (f := d) rfl rfl, field_at sum hf 3 (lo := 12) (f := n) rfl rfl, field_at sum hf 2 (lo := 8) (f := p) rfl rfl]

theorem Encodes.fabsF32 (l : BitVec 4) (a : BitVec 6) (d : BitVec 6) (n : BitVec 1) (p : BitVec 4) : Encodes.Statement (.fabsF32 l a d n p) := by
  intro hwf nb word henc
  have hword : some (32, 0x5d + l.toNat * 2 ^ 28 + a.toNat * 2 ^ 19 + d.toNat * 2 ^ 13 + n.toNat * 2 ^ 12 + p.toNat * 2 ^ 8) = some (nb, word) := henc
  obtain ⟨rfl, hsum⟩ := words_of hword
  have sum : word = joined [(1, 1), (7, 0x2e), (4, p.toNat), (1, n.toNat), (6, d.toNat), (6, a.toNat), (3, 0), (4, l.toNat)] := by
    rw [← hsum]
    simp only [joined]
    ring
  have hf : Fits [(1, 1), (7, 0x2e), (4, p.toNat), (1, n.toNat), (6, d.toNat), (6, a.toNat), (3, 0), (4, l.toNat)] :=
    ⟨by decide, by decide, p.isLt, n.isLt, d.isLt, a.isLt, by decide, l.isLt, trivial⟩
  refine decode_odd (by omega) ?_ hwf
  rw [fields_2e (number_at sum hf 1 rfl rfl), decodeMajor2e, if_pos (number_at sum hf 6 (lo := 25) rfl rfl)]
  rw [field_at sum hf 7 (lo := 28) (f := l) rfl rfl, field_at sum hf 5 (lo := 19) (f := a) rfl rfl, field_at sum hf 4 (lo := 13) (f := d) rfl rfl, field_at sum hf 3 (lo := 12) (f := n) rfl rfl, field_at sum hf 2 (lo := 8) (f := p) rfl rfl]

theorem Encodes.fnegF32 (l : BitVec 4) (a : BitVec 6) (d : BitVec 6) (n : BitVec 1) (p : BitVec 4) : Encodes.Statement (.fnegF32 l a d n p) := by
  intro hwf nb word henc
  have hword : some (32, 0x200005d + l.toNat * 2 ^ 28 + a.toNat * 2 ^ 19 + d.toNat * 2 ^ 13 + n.toNat * 2 ^ 12 + p.toNat * 2 ^ 8) = some (nb, word) := henc
  obtain ⟨rfl, hsum⟩ := words_of hword
  have sum : word = joined [(1, 1), (7, 0x2e), (4, p.toNat), (1, n.toNat), (6, d.toNat), (6, a.toNat), (3, 1), (4, l.toNat)] := by
    rw [← hsum]
    simp only [joined]
    ring
  have hf : Fits [(1, 1), (7, 0x2e), (4, p.toNat), (1, n.toNat), (6, d.toNat), (6, a.toNat), (3, 1), (4, l.toNat)] :=
    ⟨by decide, by decide, p.isLt, n.isLt, d.isLt, a.isLt, by decide, l.isLt, trivial⟩
  refine decode_odd (by omega) ?_ hwf
  rw [fields_2e (number_at sum hf 1 rfl rfl), decodeMajor2e, if_neg (fun hc => absurd ((number_at sum hf 6 (lo := 25) rfl rfl).symm.trans hc) (by decide)), if_pos (number_at sum hf 6 (lo := 25) rfl rfl)]
  rw [field_at sum hf 7 (lo := 28) (f := l) rfl rfl, field_at sum hf 5 (lo := 19) (f := a) rfl rfl, field_at sum hf 4 (lo := 13) (f := d) rfl rfl, field_at sum hf 3 (lo := 12) (f := n) rfl rfl, field_at sum hf 2 (lo := 8) (f := p) rfl rfl]

theorem Encodes.fabsF64 (l : BitVec 4) (a : BitVec 6) (d : BitVec 6) (n : BitVec 1) (p : BitVec 4) : Encodes.Statement (.fabsF64 l a d n p) := by
  intro hwf nb word henc
  have hword : some (32, 0x400005d + l.toNat * 2 ^ 28 + a.toNat * 2 ^ 19 + d.toNat * 2 ^ 13 + n.toNat * 2 ^ 12 + p.toNat * 2 ^ 8) = some (nb, word) := henc
  obtain ⟨rfl, hsum⟩ := words_of hword
  have sum : word = joined [(1, 1), (7, 0x2e), (4, p.toNat), (1, n.toNat), (6, d.toNat), (6, a.toNat), (3, 2), (4, l.toNat)] := by
    rw [← hsum]
    simp only [joined]
    ring
  have hf : Fits [(1, 1), (7, 0x2e), (4, p.toNat), (1, n.toNat), (6, d.toNat), (6, a.toNat), (3, 2), (4, l.toNat)] :=
    ⟨by decide, by decide, p.isLt, n.isLt, d.isLt, a.isLt, by decide, l.isLt, trivial⟩
  refine decode_odd (by omega) ?_ hwf
  rw [fields_2e (number_at sum hf 1 rfl rfl), decodeMajor2e, if_neg (fun hc => absurd ((number_at sum hf 6 (lo := 25) rfl rfl).symm.trans hc) (by decide)), if_neg (fun hc => absurd ((number_at sum hf 6 (lo := 25) rfl rfl).symm.trans hc) (by decide)), if_pos (number_at sum hf 6 (lo := 25) rfl rfl)]
  rw [field_at sum hf 7 (lo := 28) (f := l) rfl rfl, field_at sum hf 5 (lo := 19) (f := a) rfl rfl, field_at sum hf 4 (lo := 13) (f := d) rfl rfl, field_at sum hf 3 (lo := 12) (f := n) rfl rfl, field_at sum hf 2 (lo := 8) (f := p) rfl rfl]

theorem Encodes.fnegF64 (l : BitVec 4) (a : BitVec 6) (d : BitVec 6) (n : BitVec 1) (p : BitVec 4) : Encodes.Statement (.fnegF64 l a d n p) := by
  intro hwf nb word henc
  have hword : some (32, 0x600005d + l.toNat * 2 ^ 28 + a.toNat * 2 ^ 19 + d.toNat * 2 ^ 13 + n.toNat * 2 ^ 12 + p.toNat * 2 ^ 8) = some (nb, word) := henc
  obtain ⟨rfl, hsum⟩ := words_of hword
  have sum : word = joined [(1, 1), (7, 0x2e), (4, p.toNat), (1, n.toNat), (6, d.toNat), (6, a.toNat), (3, 3), (4, l.toNat)] := by
    rw [← hsum]
    simp only [joined]
    ring
  have hf : Fits [(1, 1), (7, 0x2e), (4, p.toNat), (1, n.toNat), (6, d.toNat), (6, a.toNat), (3, 3), (4, l.toNat)] :=
    ⟨by decide, by decide, p.isLt, n.isLt, d.isLt, a.isLt, by decide, l.isLt, trivial⟩
  refine decode_odd (by omega) ?_ hwf
  rw [fields_2e (number_at sum hf 1 rfl rfl), decodeMajor2e, if_neg (fun hc => absurd ((number_at sum hf 6 (lo := 25) rfl rfl).symm.trans hc) (by decide)), if_neg (fun hc => absurd ((number_at sum hf 6 (lo := 25) rfl rfl).symm.trans hc) (by decide)), if_neg (fun hc => absurd ((number_at sum hf 6 (lo := 25) rfl rfl).symm.trans hc) (by decide)), if_pos (number_at sum hf 6 (lo := 25) rfl rfl)]
  rw [field_at sum hf 7 (lo := 28) (f := l) rfl rfl, field_at sum hf 5 (lo := 19) (f := a) rfl rfl, field_at sum hf 4 (lo := 13) (f := d) rfl rfl, field_at sum hf 3 (lo := 12) (f := n) rfl rfl, field_at sum hf 2 (lo := 8) (f := p) rfl rfl]

theorem Encodes.fclassF32 (l : BitVec 4) (a : BitVec 6) (d : BitVec 6) (n : BitVec 1) (p : BitVec 4) : Encodes.Statement (.fclassF32 l a d n p) := by
  intro hwf nb word henc
  have hword : some (32, 0x800005d + l.toNat * 2 ^ 28 + a.toNat * 2 ^ 19 + d.toNat * 2 ^ 13 + n.toNat * 2 ^ 12 + p.toNat * 2 ^ 8) = some (nb, word) := henc
  obtain ⟨rfl, hsum⟩ := words_of hword
  have sum : word = joined [(1, 1), (7, 0x2e), (4, p.toNat), (1, n.toNat), (6, d.toNat), (6, a.toNat), (3, 4), (4, l.toNat)] := by
    rw [← hsum]
    simp only [joined]
    ring
  have hf : Fits [(1, 1), (7, 0x2e), (4, p.toNat), (1, n.toNat), (6, d.toNat), (6, a.toNat), (3, 4), (4, l.toNat)] :=
    ⟨by decide, by decide, p.isLt, n.isLt, d.isLt, a.isLt, by decide, l.isLt, trivial⟩
  refine decode_odd (by omega) ?_ hwf
  rw [fields_2e (number_at sum hf 1 rfl rfl), decodeMajor2e, if_neg (fun hc => absurd ((number_at sum hf 6 (lo := 25) rfl rfl).symm.trans hc) (by decide)), if_neg (fun hc => absurd ((number_at sum hf 6 (lo := 25) rfl rfl).symm.trans hc) (by decide)), if_neg (fun hc => absurd ((number_at sum hf 6 (lo := 25) rfl rfl).symm.trans hc) (by decide)), if_neg (fun hc => absurd ((number_at sum hf 6 (lo := 25) rfl rfl).symm.trans hc) (by decide)), if_pos (number_at sum hf 6 (lo := 25) rfl rfl)]
  rw [field_at sum hf 7 (lo := 28) (f := l) rfl rfl, field_at sum hf 5 (lo := 19) (f := a) rfl rfl, field_at sum hf 4 (lo := 13) (f := d) rfl rfl, field_at sum hf 3 (lo := 12) (f := n) rfl rfl, field_at sum hf 2 (lo := 8) (f := p) rfl rfl]

theorem Encodes.fclassF64 (l : BitVec 4) (a : BitVec 6) (d : BitVec 6) (n : BitVec 1) (p : BitVec 4) : Encodes.Statement (.fclassF64 l a d n p) := by
  intro hwf nb word henc
  have hword : some (32, 0xa00005d + l.toNat * 2 ^ 28 + a.toNat * 2 ^ 19 + d.toNat * 2 ^ 13 + n.toNat * 2 ^ 12 + p.toNat * 2 ^ 8) = some (nb, word) := henc
  obtain ⟨rfl, hsum⟩ := words_of hword
  have sum : word = joined [(1, 1), (7, 0x2e), (4, p.toNat), (1, n.toNat), (6, d.toNat), (6, a.toNat), (3, 5), (4, l.toNat)] := by
    rw [← hsum]
    simp only [joined]
    ring
  have hf : Fits [(1, 1), (7, 0x2e), (4, p.toNat), (1, n.toNat), (6, d.toNat), (6, a.toNat), (3, 5), (4, l.toNat)] :=
    ⟨by decide, by decide, p.isLt, n.isLt, d.isLt, a.isLt, by decide, l.isLt, trivial⟩
  refine decode_odd (by omega) ?_ hwf
  rw [fields_2e (number_at sum hf 1 rfl rfl), decodeMajor2e, if_neg (fun hc => absurd ((number_at sum hf 6 (lo := 25) rfl rfl).symm.trans hc) (by decide)), if_neg (fun hc => absurd ((number_at sum hf 6 (lo := 25) rfl rfl).symm.trans hc) (by decide)), if_neg (fun hc => absurd ((number_at sum hf 6 (lo := 25) rfl rfl).symm.trans hc) (by decide)), if_neg (fun hc => absurd ((number_at sum hf 6 (lo := 25) rfl rfl).symm.trans hc) (by decide)), if_neg (fun hc => absurd ((number_at sum hf 6 (lo := 25) rfl rfl).symm.trans hc) (by decide)), if_pos (number_at sum hf 6 (lo := 25) rfl rfl)]
  rw [field_at sum hf 7 (lo := 28) (f := l) rfl rfl, field_at sum hf 5 (lo := 19) (f := a) rfl rfl, field_at sum hf 4 (lo := 13) (f := d) rfl rfl, field_at sum hf 3 (lo := 12) (f := n) rfl rfl, field_at sum hf 2 (lo := 8) (f := p) rfl rfl]

theorem Encodes.fsqrtF64 (l : BitVec 4) (a : BitVec 6) (d : BitVec 6) (n : BitVec 1) (p : BitVec 4) : Encodes.Statement (.fsqrtF64 l a d n p) := by
  intro hwf nb word henc
  have hword : some (32, 0xc00005d + l.toNat * 2 ^ 28 + a.toNat * 2 ^ 19 + d.toNat * 2 ^ 13 + n.toNat * 2 ^ 12 + p.toNat * 2 ^ 8) = some (nb, word) := henc
  obtain ⟨rfl, hsum⟩ := words_of hword
  have sum : word = joined [(1, 1), (7, 0x2e), (4, p.toNat), (1, n.toNat), (6, d.toNat), (6, a.toNat), (3, 6), (4, l.toNat)] := by
    rw [← hsum]
    simp only [joined]
    ring
  have hf : Fits [(1, 1), (7, 0x2e), (4, p.toNat), (1, n.toNat), (6, d.toNat), (6, a.toNat), (3, 6), (4, l.toNat)] :=
    ⟨by decide, by decide, p.isLt, n.isLt, d.isLt, a.isLt, by decide, l.isLt, trivial⟩
  refine decode_odd (by omega) ?_ hwf
  rw [fields_2e (number_at sum hf 1 rfl rfl), decodeMajor2e, if_neg (fun hc => absurd ((number_at sum hf 6 (lo := 25) rfl rfl).symm.trans hc) (by decide)), if_neg (fun hc => absurd ((number_at sum hf 6 (lo := 25) rfl rfl).symm.trans hc) (by decide)), if_neg (fun hc => absurd ((number_at sum hf 6 (lo := 25) rfl rfl).symm.trans hc) (by decide)), if_neg (fun hc => absurd ((number_at sum hf 6 (lo := 25) rfl rfl).symm.trans hc) (by decide)), if_neg (fun hc => absurd ((number_at sum hf 6 (lo := 25) rfl rfl).symm.trans hc) (by decide)), if_neg (fun hc => absurd ((number_at sum hf 6 (lo := 25) rfl rfl).symm.trans hc) (by decide)), if_pos (number_at sum hf 6 (lo := 25) rfl rfl)]
  rw [field_at sum hf 7 (lo := 28) (f := l) rfl rfl, field_at sum hf 5 (lo := 19) (f := a) rfl rfl, field_at sum hf 4 (lo := 13) (f := d) rfl rfl, field_at sum hf 3 (lo := 12) (f := n) rfl rfl, field_at sum hf 2 (lo := 8) (f := p) rfl rfl]

theorem Encodes.fscale (v : BitVec 1) (b : BitVec 6) (a : BitVec 6) (d : BitVec 6) (n : BitVec 1) (p : BitVec 4) : Encodes.Statement (.fscale v b a d n p) := by
  intro hwf nb word henc
  have hword : some (32, 0x5f + v.toNat * 2 ^ 31 + b.toNat * 2 ^ 25 + a.toNat * 2 ^ 19 + d.toNat * 2 ^ 13 + n.toNat * 2 ^ 12 + p.toNat * 2 ^ 8) = some (nb, word) := henc
  obtain ⟨rfl, hsum⟩ := words_of hword
  have sum : word = joined [(1, 1), (7, 0x2f), (4, p.toNat), (1, n.toNat), (6, d.toNat), (6, a.toNat), (6, b.toNat), (1, v.toNat)] := by
    rw [← hsum]
    simp only [joined]
    ring
  have hf : Fits [(1, 1), (7, 0x2f), (4, p.toNat), (1, n.toNat), (6, d.toNat), (6, a.toNat), (6, b.toNat), (1, v.toNat)] :=
    ⟨by decide, by decide, p.isLt, n.isLt, d.isLt, a.isLt, b.isLt, v.isLt, trivial⟩
  refine decode_odd (by omega) ?_ hwf
  rw [fields_2f (number_at sum hf 1 rfl rfl), decodeMajor2f]
  rw [field_at sum hf 7 (lo := 31) (f := v) rfl rfl, field_at sum hf 6 (lo := 25) (f := b) rfl rfl, field_at sum hf 5 (lo := 19) (f := a) rfl rfl, field_at sum hf 4 (lo := 13) (f := d) rfl rfl, field_at sum hf 3 (lo := 12) (f := n) rfl rfl, field_at sum hf 2 (lo := 8) (f := p) rfl rfl]

theorem Encodes.cvtf (l : BitVec 4) (u : BitVec 3) (a : BitVec 6) (d : BitVec 6) (n : BitVec 1) (p : BitVec 4) : Encodes.Statement (.cvtf l u a d n p) := by
  intro hwf nb word henc
  have hword : some (32, 0x61 + l.toNat * 2 ^ 28 + u.toNat * 2 ^ 25 + a.toNat * 2 ^ 19 + d.toNat * 2 ^ 13 + n.toNat * 2 ^ 12 + p.toNat * 2 ^ 8) = some (nb, word) := henc
  obtain ⟨rfl, hsum⟩ := words_of hword
  have sum : word = joined [(1, 1), (7, 0x30), (4, p.toNat), (1, n.toNat), (6, d.toNat), (6, a.toNat), (3, u.toNat), (4, l.toNat)] := by
    rw [← hsum]
    simp only [joined]
    ring
  have hf : Fits [(1, 1), (7, 0x30), (4, p.toNat), (1, n.toNat), (6, d.toNat), (6, a.toNat), (3, u.toNat), (4, l.toNat)] :=
    ⟨by decide, by decide, p.isLt, n.isLt, d.isLt, a.isLt, u.isLt, l.isLt, trivial⟩
  refine decode_odd (by omega) ?_ hwf
  rw [fields_30 (number_at sum hf 1 rfl rfl), decodeMajor30]
  rw [field_at sum hf 7 (lo := 28) (f := l) rfl rfl, field_at sum hf 6 (lo := 25) (f := u) rfl rfl, field_at sum hf 5 (lo := 19) (f := a) rfl rfl, field_at sum hf 4 (lo := 13) (f := d) rfl rfl, field_at sum hf 3 (lo := 12) (f := n) rfl rfl, field_at sum hf 2 (lo := 8) (f := p) rfl rfl]

theorem Encodes.cvti (l : BitVec 4) (u : BitVec 3) (a : BitVec 6) (d : BitVec 6) (n : BitVec 1) (p : BitVec 4) : Encodes.Statement (.cvti l u a d n p) := by
  intro hwf nb word henc
  have hword : some (32, 0x63 + l.toNat * 2 ^ 28 + u.toNat * 2 ^ 25 + a.toNat * 2 ^ 19 + d.toNat * 2 ^ 13 + n.toNat * 2 ^ 12 + p.toNat * 2 ^ 8) = some (nb, word) := henc
  obtain ⟨rfl, hsum⟩ := words_of hword
  have sum : word = joined [(1, 1), (7, 0x31), (4, p.toNat), (1, n.toNat), (6, d.toNat), (6, a.toNat), (3, u.toNat), (4, l.toNat)] := by
    rw [← hsum]
    simp only [joined]
    ring
  have hf : Fits [(1, 1), (7, 0x31), (4, p.toNat), (1, n.toNat), (6, d.toNat), (6, a.toNat), (3, u.toNat), (4, l.toNat)] :=
    ⟨by decide, by decide, p.isLt, n.isLt, d.isLt, a.isLt, u.isLt, l.isLt, trivial⟩
  refine decode_odd (by omega) ?_ hwf
  rw [fields_31 (number_at sum hf 1 rfl rfl), decodeMajor31]
  rw [field_at sum hf 7 (lo := 28) (f := l) rfl rfl, field_at sum hf 6 (lo := 25) (f := u) rfl rfl, field_at sum hf 5 (lo := 19) (f := a) rfl rfl, field_at sum hf 4 (lo := 13) (f := d) rfl rfl, field_at sum hf 3 (lo := 12) (f := n) rfl rfl, field_at sum hf 2 (lo := 8) (f := p) rfl rfl]

theorem Encodes.qnt (v : BitVec 1) (b : BitVec 6) (a : BitVec 6) (d : BitVec 6) (n : BitVec 1) (p : BitVec 4) : Encodes.Statement (.qnt v b a d n p) := by
  intro hwf nb word henc
  have hword : some (32, 0x65 + v.toNat * 2 ^ 31 + b.toNat * 2 ^ 25 + a.toNat * 2 ^ 19 + d.toNat * 2 ^ 13 + n.toNat * 2 ^ 12 + p.toNat * 2 ^ 8) = some (nb, word) := henc
  obtain ⟨rfl, hsum⟩ := words_of hword
  have sum : word = joined [(1, 1), (7, 0x32), (4, p.toNat), (1, n.toNat), (6, d.toNat), (6, a.toNat), (6, b.toNat), (1, v.toNat)] := by
    rw [← hsum]
    simp only [joined]
    ring
  have hf : Fits [(1, 1), (7, 0x32), (4, p.toNat), (1, n.toNat), (6, d.toNat), (6, a.toNat), (6, b.toNat), (1, v.toNat)] :=
    ⟨by decide, by decide, p.isLt, n.isLt, d.isLt, a.isLt, b.isLt, v.isLt, trivial⟩
  refine decode_odd (by omega) ?_ hwf
  rw [fields_32 (number_at sum hf 1 rfl rfl), decodeMajor32]
  rw [field_at sum hf 7 (lo := 31) (f := v) rfl rfl, field_at sum hf 6 (lo := 25) (f := b) rfl rfl, field_at sum hf 5 (lo := 19) (f := a) rfl rfl, field_at sum hf 4 (lo := 13) (f := d) rfl rfl, field_at sum hf 3 (lo := 12) (f := n) rfl rfl, field_at sum hf 2 (lo := 8) (f := p) rfl rfl]

theorem Encodes.dqnt (v : BitVec 1) (b : BitVec 6) (a : BitVec 6) (d : BitVec 6) (n : BitVec 1) (p : BitVec 4) : Encodes.Statement (.dqnt v b a d n p) := by
  intro hwf nb word henc
  have hword : some (32, 0x67 + v.toNat * 2 ^ 31 + b.toNat * 2 ^ 25 + a.toNat * 2 ^ 19 + d.toNat * 2 ^ 13 + n.toNat * 2 ^ 12 + p.toNat * 2 ^ 8) = some (nb, word) := henc
  obtain ⟨rfl, hsum⟩ := words_of hword
  have sum : word = joined [(1, 1), (7, 0x33), (4, p.toNat), (1, n.toNat), (6, d.toNat), (6, a.toNat), (6, b.toNat), (1, v.toNat)] := by
    rw [← hsum]
    simp only [joined]
    ring
  have hf : Fits [(1, 1), (7, 0x33), (4, p.toNat), (1, n.toNat), (6, d.toNat), (6, a.toNat), (6, b.toNat), (1, v.toNat)] :=
    ⟨by decide, by decide, p.isLt, n.isLt, d.isLt, a.isLt, b.isLt, v.isLt, trivial⟩
  refine decode_odd (by omega) ?_ hwf
  rw [fields_33 (number_at sum hf 1 rfl rfl), decodeMajor33]
  rw [field_at sum hf 7 (lo := 31) (f := v) rfl rfl, field_at sum hf 6 (lo := 25) (f := b) rfl rfl, field_at sum hf 5 (lo := 19) (f := a) rfl rfl, field_at sum hf 4 (lo := 13) (f := d) rfl rfl, field_at sum hf 3 (lo := 12) (f := n) rfl rfl, field_at sum hf 2 (lo := 8) (f := p) rfl rfl]

theorem Encodes.pack (v : BitVec 1) (b : BitVec 6) (a : BitVec 6) (d : BitVec 6) (n : BitVec 1) (p : BitVec 4) : Encodes.Statement (.pack v b a d n p) := by
  intro hwf nb word henc
  have hword : some (32, 0x69 + v.toNat * 2 ^ 31 + b.toNat * 2 ^ 25 + a.toNat * 2 ^ 19 + d.toNat * 2 ^ 13 + n.toNat * 2 ^ 12 + p.toNat * 2 ^ 8) = some (nb, word) := henc
  obtain ⟨rfl, hsum⟩ := words_of hword
  have sum : word = joined [(1, 1), (7, 0x34), (4, p.toNat), (1, n.toNat), (6, d.toNat), (6, a.toNat), (6, b.toNat), (1, v.toNat)] := by
    rw [← hsum]
    simp only [joined]
    ring
  have hf : Fits [(1, 1), (7, 0x34), (4, p.toNat), (1, n.toNat), (6, d.toNat), (6, a.toNat), (6, b.toNat), (1, v.toNat)] :=
    ⟨by decide, by decide, p.isLt, n.isLt, d.isLt, a.isLt, b.isLt, v.isLt, trivial⟩
  refine decode_odd (by omega) ?_ hwf
  rw [fields_34 (number_at sum hf 1 rfl rfl), decodeMajor34]
  rw [field_at sum hf 7 (lo := 31) (f := v) rfl rfl, field_at sum hf 6 (lo := 25) (f := b) rfl rfl, field_at sum hf 5 (lo := 19) (f := a) rfl rfl, field_at sum hf 4 (lo := 13) (f := d) rfl rfl, field_at sum hf 3 (lo := 12) (f := n) rfl rfl, field_at sum hf 2 (lo := 8) (f := p) rfl rfl]

theorem Encodes.unpk (l : BitVec 4) (u : BitVec 2) (a : BitVec 6) (d : BitVec 6) (n : BitVec 1) (p : BitVec 4) : Encodes.Statement (.unpk l u a d n p) := by
  intro hwf nb word henc
  have hword : some (32, 0x6b + l.toNat * 2 ^ 28 + u.toNat * 2 ^ 25 + a.toNat * 2 ^ 19 + d.toNat * 2 ^ 13 + n.toNat * 2 ^ 12 + p.toNat * 2 ^ 8) = some (nb, word) := henc
  obtain ⟨rfl, hsum⟩ := words_of hword
  have sum : word = joined [(1, 1), (7, 0x35), (4, p.toNat), (1, n.toNat), (6, d.toNat), (6, a.toNat), (2, u.toNat), (1, 0), (4, l.toNat)] := by
    rw [← hsum]
    simp only [joined]
    ring
  have hf : Fits [(1, 1), (7, 0x35), (4, p.toNat), (1, n.toNat), (6, d.toNat), (6, a.toNat), (2, u.toNat), (1, 0), (4, l.toNat)] :=
    ⟨by decide, by decide, p.isLt, n.isLt, d.isLt, a.isLt, u.isLt, by decide, l.isLt, trivial⟩
  refine decode_odd (by omega) ?_ hwf
  rw [fields_35 (number_at sum hf 1 rfl rfl), decodeMajor35, if_pos (number_at sum hf 7 (lo := 27) rfl rfl)]
  rw [field_at sum hf 8 (lo := 28) (f := l) rfl rfl, field_at sum hf 6 (lo := 25) (f := u) rfl rfl, field_at sum hf 5 (lo := 19) (f := a) rfl rfl, field_at sum hf 4 (lo := 13) (f := d) rfl rfl, field_at sum hf 3 (lo := 12) (f := n) rfl rfl, field_at sum hf 2 (lo := 8) (f := p) rfl rfl]

theorem Encodes.mxsc (l : BitVec 4) (u : BitVec 3) (a : BitVec 6) (d : BitVec 6) (n : BitVec 1) (p : BitVec 4) : Encodes.Statement (.mxsc l u a d n p) := by
  intro hwf nb word henc
  have hword : some (32, 0x6d + l.toNat * 2 ^ 28 + u.toNat * 2 ^ 25 + a.toNat * 2 ^ 19 + d.toNat * 2 ^ 13 + n.toNat * 2 ^ 12 + p.toNat * 2 ^ 8) = some (nb, word) := henc
  obtain ⟨rfl, hsum⟩ := words_of hword
  have sum : word = joined [(1, 1), (7, 0x36), (4, p.toNat), (1, n.toNat), (6, d.toNat), (6, a.toNat), (3, u.toNat), (4, l.toNat)] := by
    rw [← hsum]
    simp only [joined]
    ring
  have hf : Fits [(1, 1), (7, 0x36), (4, p.toNat), (1, n.toNat), (6, d.toNat), (6, a.toNat), (3, u.toNat), (4, l.toNat)] :=
    ⟨by decide, by decide, p.isLt, n.isLt, d.isLt, a.isLt, u.isLt, l.isLt, trivial⟩
  refine decode_odd (by omega) ?_ hwf
  rw [fields_36 (number_at sum hf 1 rfl rfl), decodeMajor36]
  rw [field_at sum hf 7 (lo := 28) (f := l) rfl rfl, field_at sum hf 6 (lo := 25) (f := u) rfl rfl, field_at sum hf 5 (lo := 19) (f := a) rfl rfl, field_at sum hf 4 (lo := 13) (f := d) rfl rfl, field_at sum hf 3 (lo := 12) (f := n) rfl rfl, field_at sum hf 2 (lo := 8) (f := p) rfl rfl]

theorem Encodes.br (d : BitVec 19) (n : BitVec 1) (p : BitVec 4) : Encodes.Statement (.br d n p) := by
  intro hwf nb word henc
  have hword : some (32, 0x71 + d.toNat * 2 ^ 13 + n.toNat * 2 ^ 12 + p.toNat * 2 ^ 8) = some (nb, word) := henc
  obtain ⟨rfl, hsum⟩ := words_of hword
  have sum : word = joined [(1, 1), (7, 0x38), (4, p.toNat), (1, n.toNat), (19, d.toNat)] := by
    rw [← hsum]
    simp only [joined]
    ring
  have hf : Fits [(1, 1), (7, 0x38), (4, p.toNat), (1, n.toNat), (19, d.toNat)] :=
    ⟨by decide, by decide, p.isLt, n.isLt, d.isLt, trivial⟩
  refine decode_odd (by omega) ?_ hwf
  rw [fields_38 (number_at sum hf 1 rfl rfl), decodeMajor38]
  rw [field_at sum hf 4 (lo := 13) (f := d) rfl rfl, field_at sum hf 3 (lo := 12) (f := n) rfl rfl, field_at sum hf 2 (lo := 8) (f := p) rfl rfl]

theorem Encodes.call (d : BitVec 19) (n : BitVec 1) (p : BitVec 4) : Encodes.Statement (.call d n p) := by
  intro hwf nb word henc
  have hword : some (32, 0x73 + d.toNat * 2 ^ 13 + n.toNat * 2 ^ 12 + p.toNat * 2 ^ 8) = some (nb, word) := henc
  obtain ⟨rfl, hsum⟩ := words_of hword
  have sum : word = joined [(1, 1), (7, 0x39), (4, p.toNat), (1, n.toNat), (19, d.toNat)] := by
    rw [← hsum]
    simp only [joined]
    ring
  have hf : Fits [(1, 1), (7, 0x39), (4, p.toNat), (1, n.toNat), (19, d.toNat)] :=
    ⟨by decide, by decide, p.isLt, n.isLt, d.isLt, trivial⟩
  refine decode_odd (by omega) ?_ hwf
  rw [fields_39 (number_at sum hf 1 rfl rfl), decodeMajor39]
  rw [field_at sum hf 4 (lo := 13) (f := d) rfl rfl, field_at sum hf 3 (lo := 12) (f := n) rfl rfl, field_at sum hf 2 (lo := 8) (f := p) rfl rfl]

theorem Encodes.jmp (l : BitVec 4) (a : BitVec 6) (n : BitVec 1) (p : BitVec 4) : Encodes.Statement (.jmp l a n p) := by
  intro hwf nb word henc
  have hword : some (32, 0x75 + l.toNat * 2 ^ 28 + a.toNat * 2 ^ 19 + n.toNat * 2 ^ 12 + p.toNat * 2 ^ 8) = some (nb, word) := henc
  obtain ⟨rfl, hsum⟩ := words_of hword
  have sum : word = joined [(1, 1), (7, 0x3a), (4, p.toNat), (1, n.toNat), (6, 0), (6, a.toNat), (3, 0), (4, l.toNat)] := by
    rw [← hsum]
    simp only [joined]
    ring
  have hf : Fits [(1, 1), (7, 0x3a), (4, p.toNat), (1, n.toNat), (6, 0), (6, a.toNat), (3, 0), (4, l.toNat)] :=
    ⟨by decide, by decide, p.isLt, n.isLt, by decide, a.isLt, by decide, l.isLt, trivial⟩
  refine decode_odd (by omega) ?_ hwf
  rw [fields_3a (number_at sum hf 1 rfl rfl), decodeMajor3a, if_pos ⟨number_at sum hf 4 (lo := 13) rfl rfl, number_at sum hf 6 (lo := 25) rfl rfl⟩]
  rw [field_at sum hf 7 (lo := 28) (f := l) rfl rfl, field_at sum hf 5 (lo := 19) (f := a) rfl rfl, field_at sum hf 3 (lo := 12) (f := n) rfl rfl, field_at sum hf 2 (lo := 8) (f := p) rfl rfl]

theorem Encodes.callr (l : BitVec 4) (a : BitVec 6) (d : BitVec 6) (n : BitVec 1) (p : BitVec 4) : Encodes.Statement (.callr l a d n p) := by
  intro hwf nb word henc
  have hword : some (32, 0x2000075 + l.toNat * 2 ^ 28 + a.toNat * 2 ^ 19 + d.toNat * 2 ^ 13 + n.toNat * 2 ^ 12 + p.toNat * 2 ^ 8) = some (nb, word) := henc
  obtain ⟨rfl, hsum⟩ := words_of hword
  have sum : word = joined [(1, 1), (7, 0x3a), (4, p.toNat), (1, n.toNat), (6, d.toNat), (6, a.toNat), (3, 1), (4, l.toNat)] := by
    rw [← hsum]
    simp only [joined]
    ring
  have hf : Fits [(1, 1), (7, 0x3a), (4, p.toNat), (1, n.toNat), (6, d.toNat), (6, a.toNat), (3, 1), (4, l.toNat)] :=
    ⟨by decide, by decide, p.isLt, n.isLt, d.isLt, a.isLt, by decide, l.isLt, trivial⟩
  refine decode_odd (by omega) ?_ hwf
  rw [fields_3a (number_at sum hf 1 rfl rfl), decodeMajor3a, if_neg (fun hc => absurd ((number_at sum hf 6 (lo := 25) rfl rfl).symm.trans hc.2) (by decide)), if_pos (number_at sum hf 6 (lo := 25) rfl rfl)]
  rw [field_at sum hf 7 (lo := 28) (f := l) rfl rfl, field_at sum hf 5 (lo := 19) (f := a) rfl rfl, field_at sum hf 4 (lo := 13) (f := d) rfl rfl, field_at sum hf 3 (lo := 12) (f := n) rfl rfl, field_at sum hf 2 (lo := 8) (f := p) rfl rfl]

theorem Encodes.ret (l : BitVec 4) (a : BitVec 6) (n : BitVec 1) (p : BitVec 4) : Encodes.Statement (.ret l a n p) := by
  intro hwf nb word henc
  have hword : some (32, 0x4000075 + l.toNat * 2 ^ 28 + a.toNat * 2 ^ 19 + n.toNat * 2 ^ 12 + p.toNat * 2 ^ 8) = some (nb, word) := henc
  obtain ⟨rfl, hsum⟩ := words_of hword
  have sum : word = joined [(1, 1), (7, 0x3a), (4, p.toNat), (1, n.toNat), (6, 0), (6, a.toNat), (3, 2), (4, l.toNat)] := by
    rw [← hsum]
    simp only [joined]
    ring
  have hf : Fits [(1, 1), (7, 0x3a), (4, p.toNat), (1, n.toNat), (6, 0), (6, a.toNat), (3, 2), (4, l.toNat)] :=
    ⟨by decide, by decide, p.isLt, n.isLt, by decide, a.isLt, by decide, l.isLt, trivial⟩
  refine decode_odd (by omega) ?_ hwf
  rw [fields_3a (number_at sum hf 1 rfl rfl), decodeMajor3a, if_neg (fun hc => absurd ((number_at sum hf 6 (lo := 25) rfl rfl).symm.trans hc.2) (by decide)), if_neg (fun hc => absurd ((number_at sum hf 6 (lo := 25) rfl rfl).symm.trans hc) (by decide)), if_pos ⟨number_at sum hf 4 (lo := 13) rfl rfl, number_at sum hf 6 (lo := 25) rfl rfl⟩]
  rw [field_at sum hf 7 (lo := 28) (f := l) rfl rfl, field_at sum hf 5 (lo := 19) (f := a) rfl rfl, field_at sum hf 3 (lo := 12) (f := n) rfl rfl, field_at sum hf 2 (lo := 8) (f := p) rfl rfl]

theorem Encodes.reform (n : BitVec 1) (p : BitVec 4) : Encodes.Statement (.reform n p) := by
  intro hwf nb word henc
  have hword : some (32, 0x77 + n.toNat * 2 ^ 12 + p.toNat * 2 ^ 8) = some (nb, word) := henc
  obtain ⟨rfl, hsum⟩ := words_of hword
  have sum : word = joined [(1, 1), (7, 0x3b), (4, p.toNat), (1, n.toNat), (19, 0)] := by
    rw [← hsum]
    simp only [joined]
    ring
  have hf : Fits [(1, 1), (7, 0x3b), (4, p.toNat), (1, n.toNat), (19, 0)] :=
    ⟨by decide, by decide, p.isLt, n.isLt, by decide, trivial⟩
  refine decode_odd (by omega) ?_ hwf
  rw [fields_3b (number_at sum hf 1 rfl rfl), decodeMajor3b, if_pos (number_at sum hf 4 (lo := 13) rfl rfl)]
  rw [field_at sum hf 3 (lo := 12) (f := n) rfl rfl, field_at sum hf 2 (lo := 8) (f := p) rfl rfl]

theorem Encodes.enrol (j : BitVec 2) (n : BitVec 1) (p : BitVec 4) : Encodes.Statement (.enrol j n p) := by
  intro hwf nb word henc
  have hword : some (32, 0x2000077 + j.toNat * 2 ^ 13 + n.toNat * 2 ^ 12 + p.toNat * 2 ^ 8) = some (nb, word) := henc
  obtain ⟨rfl, hsum⟩ := words_of hword
  have sum : word = joined [(1, 1), (7, 0x3b), (4, p.toNat), (1, n.toNat), (2, j.toNat), (17, 1024)] := by
    rw [← hsum]
    simp only [joined]
    ring
  have hf : Fits [(1, 1), (7, 0x3b), (4, p.toNat), (1, n.toNat), (2, j.toNat), (17, 1024)] :=
    ⟨by decide, by decide, p.isLt, n.isLt, j.isLt, by decide, trivial⟩
  refine decode_odd (by omega) ?_ hwf
  rw [fields_3b (number_at sum hf 1 rfl rfl), decodeMajor3b, if_neg (by unfold nbits; have := j.isLt; have := n.isLt; have := p.isLt; omega), if_pos (number_at sum hf 5 (lo := 15) rfl rfl)]
  rw [field_at sum hf 4 (lo := 13) (f := j) rfl rfl, field_at sum hf 3 (lo := 12) (f := n) rfl rfl, field_at sum hf 2 (lo := 8) (f := p) rfl rfl]

theorem Encodes.park (j : BitVec 2) (n : BitVec 1) (p : BitVec 4) : Encodes.Statement (.park j n p) := by
  intro hwf nb word henc
  have hword : some (32, 0x4000077 + j.toNat * 2 ^ 13 + n.toNat * 2 ^ 12 + p.toNat * 2 ^ 8) = some (nb, word) := henc
  obtain ⟨rfl, hsum⟩ := words_of hword
  have sum : word = joined [(1, 1), (7, 0x3b), (4, p.toNat), (1, n.toNat), (2, j.toNat), (17, 2048)] := by
    rw [← hsum]
    simp only [joined]
    ring
  have hf : Fits [(1, 1), (7, 0x3b), (4, p.toNat), (1, n.toNat), (2, j.toNat), (17, 2048)] :=
    ⟨by decide, by decide, p.isLt, n.isLt, j.isLt, by decide, trivial⟩
  refine decode_odd (by omega) ?_ hwf
  rw [fields_3b (number_at sum hf 1 rfl rfl), decodeMajor3b, if_neg (by unfold nbits; have := j.isLt; have := n.isLt; have := p.isLt; omega), if_neg (fun hc => absurd ((number_at sum hf 5 (lo := 15) rfl rfl).symm.trans hc) (by decide)), if_pos (number_at sum hf 5 (lo := 15) rfl rfl)]
  rw [field_at sum hf 4 (lo := 13) (f := j) rfl rfl, field_at sum hf 3 (lo := 12) (f := n) rfl rfl, field_at sum hf 2 (lo := 8) (f := p) rfl rfl]

theorem Encodes.strike (j : BitVec 2) (n : BitVec 1) (p : BitVec 4) : Encodes.Statement (.strike j n p) := by
  intro hwf nb word henc
  have hword : some (32, 0x6000077 + j.toNat * 2 ^ 13 + n.toNat * 2 ^ 12 + p.toNat * 2 ^ 8) = some (nb, word) := henc
  obtain ⟨rfl, hsum⟩ := words_of hword
  have sum : word = joined [(1, 1), (7, 0x3b), (4, p.toNat), (1, n.toNat), (2, j.toNat), (17, 3072)] := by
    rw [← hsum]
    simp only [joined]
    ring
  have hf : Fits [(1, 1), (7, 0x3b), (4, p.toNat), (1, n.toNat), (2, j.toNat), (17, 3072)] :=
    ⟨by decide, by decide, p.isLt, n.isLt, j.isLt, by decide, trivial⟩
  refine decode_odd (by omega) ?_ hwf
  rw [fields_3b (number_at sum hf 1 rfl rfl), decodeMajor3b, if_neg (by unfold nbits; have := j.isLt; have := n.isLt; have := p.isLt; omega), if_neg (fun hc => absurd ((number_at sum hf 5 (lo := 15) rfl rfl).symm.trans hc) (by decide)), if_neg (fun hc => absurd ((number_at sum hf 5 (lo := 15) rfl rfl).symm.trans hc) (by decide)), if_pos (number_at sum hf 5 (lo := 15) rfl rfl)]
  rw [field_at sum hf 4 (lo := 13) (f := j) rfl rfl, field_at sum hf 3 (lo := 12) (f := n) rfl rfl, field_at sum hf 2 (lo := 8) (f := p) rfl rfl]

theorem Encodes.exit (n : BitVec 1) (p : BitVec 4) : Encodes.Statement (.exit n p) := by
  intro hwf nb word henc
  have hword : some (32, 0x8000077 + n.toNat * 2 ^ 12 + p.toNat * 2 ^ 8) = some (nb, word) := henc
  obtain ⟨rfl, hsum⟩ := words_of hword
  have sum : word = joined [(1, 1), (7, 0x3b), (4, p.toNat), (1, n.toNat), (19, 16384)] := by
    rw [← hsum]
    simp only [joined]
    ring
  have hf : Fits [(1, 1), (7, 0x3b), (4, p.toNat), (1, n.toNat), (19, 16384)] :=
    ⟨by decide, by decide, p.isLt, n.isLt, by decide, trivial⟩
  refine decode_odd (by omega) ?_ hwf
  rw [fields_3b (number_at sum hf 1 rfl rfl), decodeMajor3b, if_neg (fun hc => absurd ((number_at sum hf 4 (lo := 13) rfl rfl).symm.trans hc) (by decide)), if_neg (by unfold nbits; have := n.isLt; have := p.isLt; omega), if_neg (by unfold nbits; have := n.isLt; have := p.isLt; omega), if_neg (by unfold nbits; have := n.isLt; have := p.isLt; omega), if_pos (number_at sum hf 4 (lo := 13) rfl rfl)]
  rw [field_at sum hf 3 (lo := 12) (f := n) rfl rfl, field_at sum hf 2 (lo := 8) (f := p) rfl rfl]

theorem Encodes.nop (n : BitVec 1) (p : BitVec 4) : Encodes.Statement (.nop n p) := by
  intro hwf nb word henc
  have hword : some (32, 0xa000077 + n.toNat * 2 ^ 12 + p.toNat * 2 ^ 8) = some (nb, word) := henc
  obtain ⟨rfl, hsum⟩ := words_of hword
  have sum : word = joined [(1, 1), (7, 0x3b), (4, p.toNat), (1, n.toNat), (19, 20480)] := by
    rw [← hsum]
    simp only [joined]
    ring
  have hf : Fits [(1, 1), (7, 0x3b), (4, p.toNat), (1, n.toNat), (19, 20480)] :=
    ⟨by decide, by decide, p.isLt, n.isLt, by decide, trivial⟩
  refine decode_odd (by omega) ?_ hwf
  rw [fields_3b (number_at sum hf 1 rfl rfl), decodeMajor3b, if_neg (fun hc => absurd ((number_at sum hf 4 (lo := 13) rfl rfl).symm.trans hc) (by decide)), if_neg (by unfold nbits; have := n.isLt; have := p.isLt; omega), if_neg (by unfold nbits; have := n.isLt; have := p.isLt; omega), if_neg (by unfold nbits; have := n.isLt; have := p.isLt; omega), if_neg (fun hc => absurd ((number_at sum hf 4 (lo := 13) rfl rfl).symm.trans hc) (by decide)), if_pos (number_at sum hf 4 (lo := 13) rfl rfl)]
  rw [field_at sum hf 3 (lo := 12) (f := n) rfl rfl, field_at sum hf 2 (lo := 8) (f := p) rfl rfl]

theorem Encodes.safept (k : BitVec 3) (f : BitVec 1) (c : BitVec 5) (n : BitVec 1) (p : BitVec 4) : Encodes.Statement (.safept k f c n p) := by
  intro hwf nb word henc
  have hword : some (32, 0x1c00079 + k.toNat * 2 ^ 19 + f.toNat * 2 ^ 18 + c.toNat * 2 ^ 13 + n.toNat * 2 ^ 12 + p.toNat * 2 ^ 8) = some (nb, word) := henc
  obtain ⟨rfl, hsum⟩ := words_of hword
  have sum : word = joined [(1, 1), (7, 0x3c), (4, p.toNat), (1, n.toNat), (5, c.toNat), (1, f.toNat), (3, k.toNat), (10, 7)] := by
    rw [← hsum]
    simp only [joined]
    ring
  have hf : Fits [(1, 1), (7, 0x3c), (4, p.toNat), (1, n.toNat), (5, c.toNat), (1, f.toNat), (3, k.toNat), (10, 7)] :=
    ⟨by decide, by decide, p.isLt, n.isLt, c.isLt, f.isLt, k.isLt, by decide, trivial⟩
  refine decode_odd (by omega) ?_ hwf
  rw [fields_3c (number_at sum hf 1 rfl rfl), decodeMajor3c, if_pos (number_at sum hf 7 (lo := 22) rfl rfl)]
  rw [field_at sum hf 6 (lo := 19) (f := k) rfl rfl, field_at sum hf 5 (lo := 18) (f := f) rfl rfl, field_at sum hf 4 (lo := 13) (f := c) rfl rfl, field_at sum hf 3 (lo := 12) (f := n) rfl rfl, field_at sum hf 2 (lo := 8) (f := p) rfl rfl]

theorem Encodes.spawn (x : BitVec 4) (a : BitVec 6) (d : BitVec 6) (n : BitVec 1) (p : BitVec 4) : Encodes.Statement (.spawn x a d n p) := by
  intro hwf nb word henc
  have hword : some (32, 0x7b + x.toNat * 2 ^ 28 + a.toNat * 2 ^ 19 + d.toNat * 2 ^ 13 + n.toNat * 2 ^ 12 + p.toNat * 2 ^ 8) = some (nb, word) := henc
  obtain ⟨rfl, hsum⟩ := words_of hword
  have sum : word = joined [(1, 1), (7, 0x3d), (4, p.toNat), (1, n.toNat), (6, d.toNat), (6, a.toNat), (3, 0), (4, x.toNat)] := by
    rw [← hsum]
    simp only [joined]
    ring
  have hf : Fits [(1, 1), (7, 0x3d), (4, p.toNat), (1, n.toNat), (6, d.toNat), (6, a.toNat), (3, 0), (4, x.toNat)] :=
    ⟨by decide, by decide, p.isLt, n.isLt, d.isLt, a.isLt, by decide, x.isLt, trivial⟩
  refine decode_odd (by omega) ?_ hwf
  rw [fields_3d (number_at sum hf 1 rfl rfl), decodeMajor3d, if_pos (number_at sum hf 6 (lo := 25) rfl rfl)]
  rw [field_at sum hf 7 (lo := 28) (f := x) rfl rfl, field_at sum hf 5 (lo := 19) (f := a) rfl rfl, field_at sum hf 4 (lo := 13) (f := d) rfl rfl, field_at sum hf 3 (lo := 12) (f := n) rfl rfl, field_at sum hf 2 (lo := 8) (f := p) rfl rfl]

theorem Encodes.bar (c : BitVec 3) (n : BitVec 1) (p : BitVec 4) : Encodes.Statement (.bar c n p) := by
  intro hwf nb word henc
  have hword : some (32, 0x7d + c.toNat * 2 ^ 29 + n.toNat * 2 ^ 12 + p.toNat * 2 ^ 8) = some (nb, word) := henc
  obtain ⟨rfl, hsum⟩ := words_of hword
  have sum : word = joined [(1, 1), (7, 0x3e), (4, p.toNat), (1, n.toNat), (16, 0), (3, c.toNat)] := by
    rw [← hsum]
    simp only [joined]
    ring
  have hf : Fits [(1, 1), (7, 0x3e), (4, p.toNat), (1, n.toNat), (16, 0), (3, c.toNat)] :=
    ⟨by decide, by decide, p.isLt, n.isLt, by decide, c.isLt, trivial⟩
  refine decode_odd (by omega) ?_ hwf
  rw [fields_3e (number_at sum hf 1 rfl rfl), decodeMajor3e, if_pos (number_at sum hf 4 (lo := 13) rfl rfl)]
  rw [field_at sum hf 5 (lo := 29) (f := c) rfl rfl, field_at sum hf 3 (lo := 12) (f := n) rfl rfl, field_at sum hf 2 (lo := 8) (f := p) rfl rfl]

theorem Encodes.gbar (c : BitVec 3) (n : BitVec 1) (p : BitVec 4) : Encodes.Statement (.gbar c n p) := by
  intro hwf nb word henc
  have hword : some (32, 0x200007d + c.toNat * 2 ^ 29 + n.toNat * 2 ^ 12 + p.toNat * 2 ^ 8) = some (nb, word) := henc
  obtain ⟨rfl, hsum⟩ := words_of hword
  have sum : word = joined [(1, 1), (7, 0x3e), (4, p.toNat), (1, n.toNat), (16, 4096), (3, c.toNat)] := by
    rw [← hsum]
    simp only [joined]
    ring
  have hf : Fits [(1, 1), (7, 0x3e), (4, p.toNat), (1, n.toNat), (16, 4096), (3, c.toNat)] :=
    ⟨by decide, by decide, p.isLt, n.isLt, by decide, c.isLt, trivial⟩
  refine decode_odd (by omega) ?_ hwf
  rw [fields_3e (number_at sum hf 1 rfl rfl), decodeMajor3e, if_neg (fun hc => absurd ((number_at sum hf 4 (lo := 13) rfl rfl).symm.trans hc) (by decide)), if_pos (number_at sum hf 4 (lo := 13) rfl rfl)]
  rw [field_at sum hf 5 (lo := 29) (f := c) rfl rfl, field_at sum hf 3 (lo := 12) (f := n) rfl rfl, field_at sum hf 2 (lo := 8) (f := p) rfl rfl]

theorem Encodes.fenceIo (n : BitVec 1) (p : BitVec 4) : Encodes.Statement (.fenceIo n p) := by
  intro hwf nb word henc
  have hword : some (32, 0x400007d + n.toNat * 2 ^ 12 + p.toNat * 2 ^ 8) = some (nb, word) := henc
  obtain ⟨rfl, hsum⟩ := words_of hword
  have sum : word = joined [(1, 1), (7, 0x3e), (4, p.toNat), (1, n.toNat), (19, 8192)] := by
    rw [← hsum]
    simp only [joined]
    ring
  have hf : Fits [(1, 1), (7, 0x3e), (4, p.toNat), (1, n.toNat), (19, 8192)] :=
    ⟨by decide, by decide, p.isLt, n.isLt, by decide, trivial⟩
  refine decode_odd (by omega) ?_ hwf
  rw [fields_3e (number_at sum hf 1 rfl rfl), decodeMajor3e, if_neg (by unfold nbits; have := n.isLt; have := p.isLt; omega), if_neg (by unfold nbits; have := n.isLt; have := p.isLt; omega), if_pos (number_at sum hf 4 (lo := 13) rfl rfl)]
  rw [field_at sum hf 3 (lo := 12) (f := n) rfl rfl, field_at sum hf 2 (lo := 8) (f := p) rfl rfl]

theorem Encodes.codepub (a : BitVec 6) (d : BitVec 6) (n : BitVec 1) (p : BitVec 4) : Encodes.Statement (.codepub a d n p) := by
  intro hwf nb word henc
  have hword : some (32, 0x600007d + a.toNat * 2 ^ 19 + d.toNat * 2 ^ 13 + n.toNat * 2 ^ 12 + p.toNat * 2 ^ 8) = some (nb, word) := henc
  obtain ⟨rfl, hsum⟩ := words_of hword
  have sum : word = joined [(1, 1), (7, 0x3e), (4, p.toNat), (1, n.toNat), (6, d.toNat), (6, a.toNat), (7, 3)] := by
    rw [← hsum]
    simp only [joined]
    ring
  have hf : Fits [(1, 1), (7, 0x3e), (4, p.toNat), (1, n.toNat), (6, d.toNat), (6, a.toNat), (7, 3)] :=
    ⟨by decide, by decide, p.isLt, n.isLt, d.isLt, a.isLt, by decide, trivial⟩
  refine decode_odd (by omega) ?_ hwf
  rw [fields_3e (number_at sum hf 1 rfl rfl), decodeMajor3e, if_neg (by unfold nbits; have := a.isLt; have := d.isLt; have := n.isLt; have := p.isLt; omega), if_neg (by unfold nbits; have := a.isLt; have := d.isLt; have := n.isLt; have := p.isLt; omega), if_neg (by unfold nbits; have := a.isLt; have := d.isLt; have := n.isLt; have := p.isLt; omega), if_pos (number_at sum hf 6 (lo := 25) rfl rfl)]
  rw [field_at sum hf 5 (lo := 19) (f := a) rfl rfl, field_at sum hf 4 (lo := 13) (f := d) rfl rfl, field_at sum hf 3 (lo := 12) (f := n) rfl rfl, field_at sum hf 2 (lo := 8) (f := p) rfl rfl]

theorem Encodes.isync (n : BitVec 1) (p : BitVec 4) : Encodes.Statement (.isync n p) := by
  intro hwf nb word henc
  have hword : some (32, 0x800007d + n.toNat * 2 ^ 12 + p.toNat * 2 ^ 8) = some (nb, word) := henc
  obtain ⟨rfl, hsum⟩ := words_of hword
  have sum : word = joined [(1, 1), (7, 0x3e), (4, p.toNat), (1, n.toNat), (19, 16384)] := by
    rw [← hsum]
    simp only [joined]
    ring
  have hf : Fits [(1, 1), (7, 0x3e), (4, p.toNat), (1, n.toNat), (19, 16384)] :=
    ⟨by decide, by decide, p.isLt, n.isLt, by decide, trivial⟩
  refine decode_odd (by omega) ?_ hwf
  rw [fields_3e (number_at sum hf 1 rfl rfl), decodeMajor3e, if_neg (by unfold nbits; have := n.isLt; have := p.isLt; omega), if_neg (by unfold nbits; have := n.isLt; have := p.isLt; omega), if_neg (fun hc => absurd ((number_at sum hf 4 (lo := 13) rfl rfl).symm.trans hc) (by decide)), if_neg (by unfold nbits; have := n.isLt; have := p.isLt; omega), if_pos (number_at sum hf 4 (lo := 13) rfl rfl)]
  rw [field_at sum hf 3 (lo := 12) (f := n) rfl rfl, field_at sum hf 2 (lo := 8) (f := p) rfl rfl]

theorem Encodes.qxH (l : BitVec 4) (a : BitVec 6) (d : BitVec 6) (n : BitVec 1) (p : BitVec 4) : Encodes.Statement (.qxH l a d n p) := by
  intro hwf nb word henc
  have hword : some (32, 0x81 + l.toNat * 2 ^ 28 + a.toNat * 2 ^ 19 + d.toNat * 2 ^ 13 + n.toNat * 2 ^ 12 + p.toNat * 2 ^ 8) = some (nb, word) := henc
  obtain ⟨rfl, hsum⟩ := words_of hword
  have sum : word = joined [(1, 1), (7, 0x40), (4, p.toNat), (1, n.toNat), (6, d.toNat), (6, a.toNat), (3, 0), (4, l.toNat)] := by
    rw [← hsum]
    simp only [joined]
    ring
  have hf : Fits [(1, 1), (7, 0x40), (4, p.toNat), (1, n.toNat), (6, d.toNat), (6, a.toNat), (3, 0), (4, l.toNat)] :=
    ⟨by decide, by decide, p.isLt, n.isLt, d.isLt, a.isLt, by decide, l.isLt, trivial⟩
  refine decode_odd (by omega) ?_ hwf
  rw [fields_40 (number_at sum hf 1 rfl rfl), decodeMajor40, if_pos (number_at sum hf 6 (lo := 25) rfl rfl)]
  rw [field_at sum hf 7 (lo := 28) (f := l) rfl rfl, field_at sum hf 5 (lo := 19) (f := a) rfl rfl, field_at sum hf 4 (lo := 13) (f := d) rfl rfl, field_at sum hf 3 (lo := 12) (f := n) rfl rfl, field_at sum hf 2 (lo := 8) (f := p) rfl rfl]

theorem Encodes.qxV (l : BitVec 4) (a : BitVec 6) (d : BitVec 6) (n : BitVec 1) (p : BitVec 4) : Encodes.Statement (.qxV l a d n p) := by
  intro hwf nb word henc
  have hword : some (32, 0x2000081 + l.toNat * 2 ^ 28 + a.toNat * 2 ^ 19 + d.toNat * 2 ^ 13 + n.toNat * 2 ^ 12 + p.toNat * 2 ^ 8) = some (nb, word) := henc
  obtain ⟨rfl, hsum⟩ := words_of hword
  have sum : word = joined [(1, 1), (7, 0x40), (4, p.toNat), (1, n.toNat), (6, d.toNat), (6, a.toNat), (3, 1), (4, l.toNat)] := by
    rw [← hsum]
    simp only [joined]
    ring
  have hf : Fits [(1, 1), (7, 0x40), (4, p.toNat), (1, n.toNat), (6, d.toNat), (6, a.toNat), (3, 1), (4, l.toNat)] :=
    ⟨by decide, by decide, p.isLt, n.isLt, d.isLt, a.isLt, by decide, l.isLt, trivial⟩
  refine decode_odd (by omega) ?_ hwf
  rw [fields_40 (number_at sum hf 1 rfl rfl), decodeMajor40, if_neg (fun hc => absurd ((number_at sum hf 6 (lo := 25) rfl rfl).symm.trans hc) (by decide)), if_pos (number_at sum hf 6 (lo := 25) rfl rfl)]
  rw [field_at sum hf 7 (lo := 28) (f := l) rfl rfl, field_at sum hf 5 (lo := 19) (f := a) rfl rfl, field_at sum hf 4 (lo := 13) (f := d) rfl rfl, field_at sum hf 3 (lo := 12) (f := n) rfl rfl, field_at sum hf 2 (lo := 8) (f := p) rfl rfl]

theorem Encodes.qxD (l : BitVec 4) (a : BitVec 6) (d : BitVec 6) (n : BitVec 1) (p : BitVec 4) : Encodes.Statement (.qxD l a d n p) := by
  intro hwf nb word henc
  have hword : some (32, 0x4000081 + l.toNat * 2 ^ 28 + a.toNat * 2 ^ 19 + d.toNat * 2 ^ 13 + n.toNat * 2 ^ 12 + p.toNat * 2 ^ 8) = some (nb, word) := henc
  obtain ⟨rfl, hsum⟩ := words_of hword
  have sum : word = joined [(1, 1), (7, 0x40), (4, p.toNat), (1, n.toNat), (6, d.toNat), (6, a.toNat), (3, 2), (4, l.toNat)] := by
    rw [← hsum]
    simp only [joined]
    ring
  have hf : Fits [(1, 1), (7, 0x40), (4, p.toNat), (1, n.toNat), (6, d.toNat), (6, a.toNat), (3, 2), (4, l.toNat)] :=
    ⟨by decide, by decide, p.isLt, n.isLt, d.isLt, a.isLt, by decide, l.isLt, trivial⟩
  refine decode_odd (by omega) ?_ hwf
  rw [fields_40 (number_at sum hf 1 rfl rfl), decodeMajor40, if_neg (fun hc => absurd ((number_at sum hf 6 (lo := 25) rfl rfl).symm.trans hc) (by decide)), if_neg (fun hc => absurd ((number_at sum hf 6 (lo := 25) rfl rfl).symm.trans hc) (by decide)), if_pos (number_at sum hf 6 (lo := 25) rfl rfl)]
  rw [field_at sum hf 7 (lo := 28) (f := l) rfl rfl, field_at sum hf 5 (lo := 19) (f := a) rfl rfl, field_at sum hf 4 (lo := 13) (f := d) rfl rfl, field_at sum hf 3 (lo := 12) (f := n) rfl rfl, field_at sum hf 2 (lo := 8) (f := p) rfl rfl]

theorem Encodes.qbc (l : BitVec 4) (k : BitVec 2) (a : BitVec 6) (d : BitVec 6) (n : BitVec 1) (p : BitVec 4) : Encodes.Statement (.qbc l k a d n p) := by
  intro hwf nb word henc
  have hword : some (32, 0x8000081 + l.toNat * 2 ^ 28 + k.toNat * 2 ^ 25 + a.toNat * 2 ^ 19 + d.toNat * 2 ^ 13 + n.toNat * 2 ^ 12 + p.toNat * 2 ^ 8) = some (nb, word) := henc
  obtain ⟨rfl, hsum⟩ := words_of hword
  have sum : word = joined [(1, 1), (7, 0x40), (4, p.toNat), (1, n.toNat), (6, d.toNat), (6, a.toNat), (2, k.toNat), (1, 1), (4, l.toNat)] := by
    rw [← hsum]
    simp only [joined]
    ring
  have hf : Fits [(1, 1), (7, 0x40), (4, p.toNat), (1, n.toNat), (6, d.toNat), (6, a.toNat), (2, k.toNat), (1, 1), (4, l.toNat)] :=
    ⟨by decide, by decide, p.isLt, n.isLt, d.isLt, a.isLt, k.isLt, by decide, l.isLt, trivial⟩
  refine decode_odd (by omega) ?_ hwf
  rw [fields_40 (number_at sum hf 1 rfl rfl), decodeMajor40, if_neg (by unfold nbits; have := l.isLt; have := k.isLt; have := a.isLt; have := d.isLt; have := n.isLt; have := p.isLt; omega), if_neg (by unfold nbits; have := l.isLt; have := k.isLt; have := a.isLt; have := d.isLt; have := n.isLt; have := p.isLt; omega), if_neg (by unfold nbits; have := l.isLt; have := k.isLt; have := a.isLt; have := d.isLt; have := n.isLt; have := p.isLt; omega), if_pos (number_at sum hf 7 (lo := 27) rfl rfl)]
  rw [field_at sum hf 8 (lo := 28) (f := l) rfl rfl, field_at sum hf 6 (lo := 25) (f := k) rfl rfl, field_at sum hf 5 (lo := 19) (f := a) rfl rfl, field_at sum hf 4 (lo := 13) (f := d) rfl rfl, field_at sum hf 3 (lo := 12) (f := n) rfl rfl, field_at sum hf 2 (lo := 8) (f := p) rfl rfl]

theorem Encodes.perm (b : BitVec 6) (a : BitVec 6) (d : BitVec 6) (n : BitVec 1) (p : BitVec 4) : Encodes.Statement (.perm b a d n p) := by
  intro hwf nb word henc
  have hword : some (32, 0x83 + b.toNat * 2 ^ 25 + a.toNat * 2 ^ 19 + d.toNat * 2 ^ 13 + n.toNat * 2 ^ 12 + p.toNat * 2 ^ 8) = some (nb, word) := henc
  obtain ⟨rfl, hsum⟩ := words_of hword
  have sum : word = joined [(1, 1), (7, 0x41), (4, p.toNat), (1, n.toNat), (6, d.toNat), (6, a.toNat), (6, b.toNat), (1, 0)] := by
    rw [← hsum]
    simp only [joined]
    ring
  have hf : Fits [(1, 1), (7, 0x41), (4, p.toNat), (1, n.toNat), (6, d.toNat), (6, a.toNat), (6, b.toNat), (1, 0)] :=
    ⟨by decide, by decide, p.isLt, n.isLt, d.isLt, a.isLt, b.isLt, by decide, trivial⟩
  refine decode_odd (by omega) ?_ hwf
  rw [fields_41 (number_at sum hf 1 rfl rfl), decodeMajor41, if_pos (number_at sum hf 7 (lo := 31) rfl rfl)]
  rw [field_at sum hf 6 (lo := 25) (f := b) rfl rfl, field_at sum hf 5 (lo := 19) (f := a) rfl rfl, field_at sum hf 4 (lo := 13) (f := d) rfl rfl, field_at sum hf 3 (lo := 12) (f := n) rfl rfl, field_at sum hf 2 (lo := 8) (f := p) rfl rfl]

theorem Encodes.shfl (m : BitVec 2) (k : BitVec 5) (a : BitVec 6) (d : BitVec 6) (n : BitVec 1) (p : BitVec 4) : Encodes.Statement (.shfl m k a d n p) := by
  intro hwf nb word henc
  have hword : some (32, 0x85 + m.toNat * 2 ^ 30 + k.toNat * 2 ^ 25 + a.toNat * 2 ^ 19 + d.toNat * 2 ^ 13 + n.toNat * 2 ^ 12 + p.toNat * 2 ^ 8) = some (nb, word) := henc
  obtain ⟨rfl, hsum⟩ := words_of hword
  have sum : word = joined [(1, 1), (7, 0x42), (4, p.toNat), (1, n.toNat), (6, d.toNat), (6, a.toNat), (5, k.toNat), (2, m.toNat)] := by
    rw [← hsum]
    simp only [joined]
    ring
  have hf : Fits [(1, 1), (7, 0x42), (4, p.toNat), (1, n.toNat), (6, d.toNat), (6, a.toNat), (5, k.toNat), (2, m.toNat)] :=
    ⟨by decide, by decide, p.isLt, n.isLt, d.isLt, a.isLt, k.isLt, m.isLt, trivial⟩
  refine decode_odd (by omega) ?_ hwf
  rw [fields_42 (number_at sum hf 1 rfl rfl), decodeMajor42]
  rw [field_at sum hf 7 (lo := 30) (f := m) rfl rfl, field_at sum hf 6 (lo := 25) (f := k) rfl rfl, field_at sum hf 5 (lo := 19) (f := a) rfl rfl, field_at sum hf 4 (lo := 13) (f := d) rfl rfl, field_at sum hf 3 (lo := 12) (f := n) rfl rfl, field_at sum hf 2 (lo := 8) (f := p) rfl rfl]

theorem Encodes.vote (l : BitVec 4) (u : BitVec 2) (a : BitVec 6) (d : BitVec 6) (n : BitVec 1) (p : BitVec 4) : Encodes.Statement (.vote l u a d n p) := by
  intro hwf nb word henc
  have hword : some (32, 0x87 + l.toNat * 2 ^ 28 + u.toNat * 2 ^ 25 + a.toNat * 2 ^ 19 + d.toNat * 2 ^ 13 + n.toNat * 2 ^ 12 + p.toNat * 2 ^ 8) = some (nb, word) := henc
  obtain ⟨rfl, hsum⟩ := words_of hword
  have sum : word = joined [(1, 1), (7, 0x43), (4, p.toNat), (1, n.toNat), (6, d.toNat), (6, a.toNat), (2, u.toNat), (1, 0), (4, l.toNat)] := by
    rw [← hsum]
    simp only [joined]
    ring
  have hf : Fits [(1, 1), (7, 0x43), (4, p.toNat), (1, n.toNat), (6, d.toNat), (6, a.toNat), (2, u.toNat), (1, 0), (4, l.toNat)] :=
    ⟨by decide, by decide, p.isLt, n.isLt, d.isLt, a.isLt, u.isLt, by decide, l.isLt, trivial⟩
  refine decode_odd (by omega) ?_ hwf
  rw [fields_43 (number_at sum hf 1 rfl rfl), decodeMajor43, if_pos (number_at sum hf 7 (lo := 27) rfl rfl)]
  rw [field_at sum hf 8 (lo := 28) (f := l) rfl rfl, field_at sum hf 6 (lo := 25) (f := u) rfl rfl, field_at sum hf 5 (lo := 19) (f := a) rfl rfl, field_at sum hf 4 (lo := 13) (f := d) rfl rfl, field_at sum hf 3 (lo := 12) (f := n) rfl rfl, field_at sum hf 2 (lo := 8) (f := p) rfl rfl]

theorem Encodes.cred (l : BitVec 4) (u : BitVec 3) (a : BitVec 6) (d : BitVec 6) (n : BitVec 1) (p : BitVec 4) : Encodes.Statement (.cred l u a d n p) := by
  intro hwf nb word henc
  have hword : some (32, 0x89 + l.toNat * 2 ^ 28 + u.toNat * 2 ^ 25 + a.toNat * 2 ^ 19 + d.toNat * 2 ^ 13 + n.toNat * 2 ^ 12 + p.toNat * 2 ^ 8) = some (nb, word) := henc
  obtain ⟨rfl, hsum⟩ := words_of hword
  have sum : word = joined [(1, 1), (7, 0x44), (4, p.toNat), (1, n.toNat), (6, d.toNat), (6, a.toNat), (3, u.toNat), (4, l.toNat)] := by
    rw [← hsum]
    simp only [joined]
    ring
  have hf : Fits [(1, 1), (7, 0x44), (4, p.toNat), (1, n.toNat), (6, d.toNat), (6, a.toNat), (3, u.toNat), (4, l.toNat)] :=
    ⟨by decide, by decide, p.isLt, n.isLt, d.isLt, a.isLt, u.isLt, l.isLt, trivial⟩
  refine decode_odd (by omega) ?_ hwf
  rw [fields_44 (number_at sum hf 1 rfl rfl), decodeMajor44]
  rw [field_at sum hf 7 (lo := 28) (f := l) rfl rfl, field_at sum hf 6 (lo := 25) (f := u) rfl rfl, field_at sum hf 5 (lo := 19) (f := a) rfl rfl, field_at sum hf 4 (lo := 13) (f := d) rfl rfl, field_at sum hf 3 (lo := 12) (f := n) rfl rfl, field_at sum hf 2 (lo := 8) (f := p) rfl rfl]

theorem Encodes.credf (l : BitVec 4) (u : BitVec 3) (a : BitVec 6) (d : BitVec 6) (n : BitVec 1) (p : BitVec 4) : Encodes.Statement (.credf l u a d n p) := by
  intro hwf nb word henc
  have hword : some (32, 0x8b + l.toNat * 2 ^ 28 + u.toNat * 2 ^ 25 + a.toNat * 2 ^ 19 + d.toNat * 2 ^ 13 + n.toNat * 2 ^ 12 + p.toNat * 2 ^ 8) = some (nb, word) := henc
  obtain ⟨rfl, hsum⟩ := words_of hword
  have sum : word = joined [(1, 1), (7, 0x45), (4, p.toNat), (1, n.toNat), (6, d.toNat), (6, a.toNat), (3, u.toNat), (4, l.toNat)] := by
    rw [← hsum]
    simp only [joined]
    ring
  have hf : Fits [(1, 1), (7, 0x45), (4, p.toNat), (1, n.toNat), (6, d.toNat), (6, a.toNat), (3, u.toNat), (4, l.toNat)] :=
    ⟨by decide, by decide, p.isLt, n.isLt, d.isLt, a.isLt, u.isLt, l.isLt, trivial⟩
  refine decode_odd (by omega) ?_ hwf
  rw [fields_45 (number_at sum hf 1 rfl rfl), decodeMajor45]
  rw [field_at sum hf 7 (lo := 28) (f := l) rfl rfl, field_at sum hf 6 (lo := 25) (f := u) rfl rfl, field_at sum hf 5 (lo := 19) (f := a) rfl rfl, field_at sum hf 4 (lo := 13) (f := d) rfl rfl, field_at sum hf 3 (lo := 12) (f := n) rfl rfl, field_at sum hf 2 (lo := 8) (f := p) rfl rfl]

theorem Encodes.cscan (l : BitVec 4) (u : BitVec 3) (a : BitVec 6) (d : BitVec 6) (n : BitVec 1) (p : BitVec 4) : Encodes.Statement (.cscan l u a d n p) := by
  intro hwf nb word henc
  have hword : some (32, 0x8d + l.toNat * 2 ^ 28 + u.toNat * 2 ^ 25 + a.toNat * 2 ^ 19 + d.toNat * 2 ^ 13 + n.toNat * 2 ^ 12 + p.toNat * 2 ^ 8) = some (nb, word) := henc
  obtain ⟨rfl, hsum⟩ := words_of hword
  have sum : word = joined [(1, 1), (7, 0x46), (4, p.toNat), (1, n.toNat), (6, d.toNat), (6, a.toNat), (3, u.toNat), (4, l.toNat)] := by
    rw [← hsum]
    simp only [joined]
    ring
  have hf : Fits [(1, 1), (7, 0x46), (4, p.toNat), (1, n.toNat), (6, d.toNat), (6, a.toNat), (3, u.toNat), (4, l.toNat)] :=
    ⟨by decide, by decide, p.isLt, n.isLt, d.isLt, a.isLt, u.isLt, l.isLt, trivial⟩
  refine decode_odd (by omega) ?_ hwf
  rw [fields_46 (number_at sum hf 1 rfl rfl), decodeMajor46]
  rw [field_at sum hf 7 (lo := 28) (f := l) rfl rfl, field_at sum hf 6 (lo := 25) (f := u) rfl rfl, field_at sum hf 5 (lo := 19) (f := a) rfl rfl, field_at sum hf 4 (lo := 13) (f := d) rfl rfl, field_at sum hf 3 (lo := 12) (f := n) rfl rfl, field_at sum hf 2 (lo := 8) (f := p) rfl rfl]

theorem Encodes.blut (v : BitVec 1) (k : BitVec 1) (a : BitVec 6) (d : BitVec 6) (n : BitVec 1) (p : BitVec 4) : Encodes.Statement (.blut v k a d n p) := by
  intro hwf nb word henc
  have hword : some (32, 0x7000008f + v.toNat * 2 ^ 31 + k.toNat * 2 ^ 27 + a.toNat * 2 ^ 19 + d.toNat * 2 ^ 13 + n.toNat * 2 ^ 12 + p.toNat * 2 ^ 8) = some (nb, word) := henc
  obtain ⟨rfl, hsum⟩ := words_of hword
  have sum : word = joined [(1, 1), (7, 0x47), (4, p.toNat), (1, n.toNat), (6, d.toNat), (6, a.toNat), (2, 0), (1, k.toNat), (3, 7), (1, v.toNat)] := by
    rw [← hsum]
    simp only [joined]
    ring
  have hf : Fits [(1, 1), (7, 0x47), (4, p.toNat), (1, n.toNat), (6, d.toNat), (6, a.toNat), (2, 0), (1, k.toNat), (3, 7), (1, v.toNat)] :=
    ⟨by decide, by decide, p.isLt, n.isLt, d.isLt, a.isLt, by decide, k.isLt, by decide, v.isLt, trivial⟩
  refine decode_odd (by omega) ?_ hwf
  rw [fields_47 (number_at sum hf 1 rfl rfl), decodeMajor47, if_pos ⟨number_at sum hf 6 (lo := 25) rfl rfl, number_at sum hf 8 (lo := 28) rfl rfl⟩]
  rw [field_at sum hf 9 (lo := 31) (f := v) rfl rfl, field_at sum hf 7 (lo := 27) (f := k) rfl rfl, field_at sum hf 5 (lo := 19) (f := a) rfl rfl, field_at sum hf 4 (lo := 13) (f := d) rfl rfl, field_at sum hf 3 (lo := 12) (f := n) rfl rfl, field_at sum hf 2 (lo := 8) (f := p) rfl rfl]

theorem Encodes.kadd (w : BitVec 1) (b : BitVec 5) (a : BitVec 5) (d : BitVec 5) (n : BitVec 1) (p : BitVec 4) : Encodes.Statement (.kadd w b a d n p) := by
  intro hwf nb word henc
  have hword : some (32, 0x91 + w.toNat * 2 ^ 31 + b.toNat * 2 ^ 25 + a.toNat * 2 ^ 19 + d.toNat * 2 ^ 13 + n.toNat * 2 ^ 12 + p.toNat * 2 ^ 8) = some (nb, word) := henc
  obtain ⟨rfl, hsum⟩ := words_of hword
  have sum : word = joined [(1, 1), (7, 0x48), (4, p.toNat), (1, n.toNat), (5, d.toNat), (1, 0), (5, a.toNat), (1, 0), (5, b.toNat), (1, 0), (1, w.toNat)] := by
    rw [← hsum]
    simp only [joined]
    ring
  have hf : Fits [(1, 1), (7, 0x48), (4, p.toNat), (1, n.toNat), (5, d.toNat), (1, 0), (5, a.toNat), (1, 0), (5, b.toNat), (1, 0), (1, w.toNat)] :=
    ⟨by decide, by decide, p.isLt, n.isLt, d.isLt, by decide, a.isLt, by decide, b.isLt, by decide, w.isLt, trivial⟩
  refine decode_odd (by omega) ?_ hwf
  rw [fields_48 (number_at sum hf 1 rfl rfl), decodeMajor48, if_pos ⟨number_at sum hf 5 (lo := 18) rfl rfl, number_at sum hf 7 (lo := 24) rfl rfl, number_at sum hf 9 (lo := 30) rfl rfl⟩]
  rw [field_at sum hf 10 (lo := 31) (f := w) rfl rfl, field_at sum hf 8 (lo := 25) (f := b) rfl rfl, field_at sum hf 6 (lo := 19) (f := a) rfl rfl, field_at sum hf 4 (lo := 13) (f := d) rfl rfl, field_at sum hf 3 (lo := 12) (f := n) rfl rfl, field_at sum hf 2 (lo := 8) (f := p) rfl rfl]

theorem Encodes.ksub (w : BitVec 1) (b : BitVec 5) (a : BitVec 5) (d : BitVec 5) (n : BitVec 1) (p : BitVec 4) : Encodes.Statement (.ksub w b a d n p) := by
  intro hwf nb word henc
  have hword : some (32, 0x93 + w.toNat * 2 ^ 31 + b.toNat * 2 ^ 25 + a.toNat * 2 ^ 19 + d.toNat * 2 ^ 13 + n.toNat * 2 ^ 12 + p.toNat * 2 ^ 8) = some (nb, word) := henc
  obtain ⟨rfl, hsum⟩ := words_of hword
  have sum : word = joined [(1, 1), (7, 0x49), (4, p.toNat), (1, n.toNat), (5, d.toNat), (1, 0), (5, a.toNat), (1, 0), (5, b.toNat), (1, 0), (1, w.toNat)] := by
    rw [← hsum]
    simp only [joined]
    ring
  have hf : Fits [(1, 1), (7, 0x49), (4, p.toNat), (1, n.toNat), (5, d.toNat), (1, 0), (5, a.toNat), (1, 0), (5, b.toNat), (1, 0), (1, w.toNat)] :=
    ⟨by decide, by decide, p.isLt, n.isLt, d.isLt, by decide, a.isLt, by decide, b.isLt, by decide, w.isLt, trivial⟩
  refine decode_odd (by omega) ?_ hwf
  rw [fields_49 (number_at sum hf 1 rfl rfl), decodeMajor49, if_pos ⟨number_at sum hf 5 (lo := 18) rfl rfl, number_at sum hf 7 (lo := 24) rfl rfl, number_at sum hf 9 (lo := 30) rfl rfl⟩]
  rw [field_at sum hf 10 (lo := 31) (f := w) rfl rfl, field_at sum hf 8 (lo := 25) (f := b) rfl rfl, field_at sum hf 6 (lo := 19) (f := a) rfl rfl, field_at sum hf 4 (lo := 13) (f := d) rfl rfl, field_at sum hf 3 (lo := 12) (f := n) rfl rfl, field_at sum hf 2 (lo := 8) (f := p) rfl rfl]

theorem Encodes.kaddi (i : BitVec 7) (a : BitVec 5) (d : BitVec 5) (n : BitVec 1) (p : BitVec 4) : Encodes.Statement (.kaddi i a d n p) := by
  intro hwf nb word henc
  have hword : some (32, 0x95 + i.toNat * 2 ^ 25 + a.toNat * 2 ^ 19 + d.toNat * 2 ^ 13 + n.toNat * 2 ^ 12 + p.toNat * 2 ^ 8) = some (nb, word) := henc
  obtain ⟨rfl, hsum⟩ := words_of hword
  have sum : word = joined [(1, 1), (7, 0x4a), (4, p.toNat), (1, n.toNat), (5, d.toNat), (1, 0), (5, a.toNat), (1, 0), (7, i.toNat)] := by
    rw [← hsum]
    simp only [joined]
    ring
  have hf : Fits [(1, 1), (7, 0x4a), (4, p.toNat), (1, n.toNat), (5, d.toNat), (1, 0), (5, a.toNat), (1, 0), (7, i.toNat)] :=
    ⟨by decide, by decide, p.isLt, n.isLt, d.isLt, by decide, a.isLt, by decide, i.isLt, trivial⟩
  refine decode_odd (by omega) ?_ hwf
  rw [fields_4a (number_at sum hf 1 rfl rfl), decodeMajor4a, if_pos ⟨number_at sum hf 5 (lo := 18) rfl rfl, number_at sum hf 7 (lo := 24) rfl rfl⟩]
  rw [field_at sum hf 8 (lo := 25) (f := i) rfl rfl, field_at sum hf 6 (lo := 19) (f := a) rfl rfl, field_at sum hf 4 (lo := 13) (f := d) rfl rfl, field_at sum hf 3 (lo := 12) (f := n) rfl rfl, field_at sum hf 2 (lo := 8) (f := p) rfl rfl]

theorem Encodes.kmovi (i : BitVec 13) (d : BitVec 5) (n : BitVec 1) (p : BitVec 4) : Encodes.Statement (.kmovi i d n p) := by
  intro hwf nb word henc
  have hword : some (32, 0x97 + i.toNat * 2 ^ 19 + d.toNat * 2 ^ 13 + n.toNat * 2 ^ 12 + p.toNat * 2 ^ 8) = some (nb, word) := henc
  obtain ⟨rfl, hsum⟩ := words_of hword
  have sum : word = joined [(1, 1), (7, 0x4b), (4, p.toNat), (1, n.toNat), (5, d.toNat), (1, 0), (13, i.toNat)] := by
    rw [← hsum]
    simp only [joined]
    ring
  have hf : Fits [(1, 1), (7, 0x4b), (4, p.toNat), (1, n.toNat), (5, d.toNat), (1, 0), (13, i.toNat)] :=
    ⟨by decide, by decide, p.isLt, n.isLt, d.isLt, by decide, i.isLt, trivial⟩
  refine decode_odd (by omega) ?_ hwf
  rw [fields_4b (number_at sum hf 1 rfl rfl), decodeMajor4b, if_pos (number_at sum hf 5 (lo := 18) rfl rfl)]
  rw [field_at sum hf 6 (lo := 19) (f := i) rfl rfl, field_at sum hf 4 (lo := 13) (f := d) rfl rfl, field_at sum hf 3 (lo := 12) (f := n) rfl rfl, field_at sum hf 2 (lo := 8) (f := p) rfl rfl]

theorem Encodes.kmovh (i : BitVec 13) (d : BitVec 5) (n : BitVec 1) (p : BitVec 4) : Encodes.Statement (.kmovh i d n p) := by
  intro hwf nb word henc
  have hword : some (32, 0x99 + i.toNat * 2 ^ 19 + d.toNat * 2 ^ 13 + n.toNat * 2 ^ 12 + p.toNat * 2 ^ 8) = some (nb, word) := henc
  obtain ⟨rfl, hsum⟩ := words_of hword
  have sum : word = joined [(1, 1), (7, 0x4c), (4, p.toNat), (1, n.toNat), (5, d.toNat), (1, 0), (13, i.toNat)] := by
    rw [← hsum]
    simp only [joined]
    ring
  have hf : Fits [(1, 1), (7, 0x4c), (4, p.toNat), (1, n.toNat), (5, d.toNat), (1, 0), (13, i.toNat)] :=
    ⟨by decide, by decide, p.isLt, n.isLt, d.isLt, by decide, i.isLt, trivial⟩
  refine decode_odd (by omega) ?_ hwf
  rw [fields_4c (number_at sum hf 1 rfl rfl), decodeMajor4c, if_pos (number_at sum hf 5 (lo := 18) rfl rfl)]
  rw [field_at sum hf 6 (lo := 19) (f := i) rfl rfl, field_at sum hf 4 (lo := 13) (f := d) rfl rfl, field_at sum hf 3 (lo := 12) (f := n) rfl rfl, field_at sum hf 2 (lo := 8) (f := p) rfl rfl]

theorem Encodes.kld (l : BitVec 4) (b : BitVec 3) (o : BitVec 3) (w : BitVec 1) (k : BitVec 5) (n : BitVec 1) (p : BitVec 4) : Encodes.Statement (.kld l b o w k n p) := by
  intro hwf nb word henc
  have hword : some (32, 0x1c0009b + l.toNat * 2 ^ 28 + b.toNat * 2 ^ 25 + o.toNat * 2 ^ 19 + w.toNat * 2 ^ 18 + k.toNat * 2 ^ 13 + n.toNat * 2 ^ 12 + p.toNat * 2 ^ 8) = some (nb, word) := henc
  obtain ⟨rfl, hsum⟩ := words_of hword
  have sum : word = joined [(1, 1), (7, 0x4d), (4, p.toNat), (1, n.toNat), (5, k.toNat), (1, w.toNat), (3, o.toNat), (3, 7), (3, b.toNat), (4, l.toNat)] := by
    rw [← hsum]
    simp only [joined]
    ring
  have hf : Fits [(1, 1), (7, 0x4d), (4, p.toNat), (1, n.toNat), (5, k.toNat), (1, w.toNat), (3, o.toNat), (3, 7), (3, b.toNat), (4, l.toNat)] :=
    ⟨by decide, by decide, p.isLt, n.isLt, k.isLt, w.isLt, o.isLt, by decide, b.isLt, l.isLt, trivial⟩
  refine decode_odd (by omega) ?_ hwf
  rw [fields_4d (number_at sum hf 1 rfl rfl), decodeMajor4d, if_pos (number_at sum hf 7 (lo := 22) rfl rfl)]
  rw [field_at sum hf 9 (lo := 28) (f := l) rfl rfl, field_at sum hf 8 (lo := 25) (f := b) rfl rfl, field_at sum hf 6 (lo := 19) (f := o) rfl rfl, field_at sum hf 5 (lo := 18) (f := w) rfl rfl, field_at sum hf 4 (lo := 13) (f := k) rfl rfl, field_at sum hf 3 (lo := 12) (f := n) rfl rfl, field_at sum hf 2 (lo := 8) (f := p) rfl rfl]

theorem Encodes.kst (l : BitVec 4) (b : BitVec 3) (o : BitVec 3) (w : BitVec 1) (k : BitVec 5) (n : BitVec 1) (p : BitVec 4) : Encodes.Statement (.kst l b o w k n p) := by
  intro hwf nb word henc
  have hword : some (32, 0x1c0009d + l.toNat * 2 ^ 28 + b.toNat * 2 ^ 25 + o.toNat * 2 ^ 19 + w.toNat * 2 ^ 18 + k.toNat * 2 ^ 13 + n.toNat * 2 ^ 12 + p.toNat * 2 ^ 8) = some (nb, word) := henc
  obtain ⟨rfl, hsum⟩ := words_of hword
  have sum : word = joined [(1, 1), (7, 0x4e), (4, p.toNat), (1, n.toNat), (5, k.toNat), (1, w.toNat), (3, o.toNat), (3, 7), (3, b.toNat), (4, l.toNat)] := by
    rw [← hsum]
    simp only [joined]
    ring
  have hf : Fits [(1, 1), (7, 0x4e), (4, p.toNat), (1, n.toNat), (5, k.toNat), (1, w.toNat), (3, o.toNat), (3, 7), (3, b.toNat), (4, l.toNat)] :=
    ⟨by decide, by decide, p.isLt, n.isLt, k.isLt, w.isLt, o.isLt, by decide, b.isLt, l.isLt, trivial⟩
  refine decode_odd (by omega) ?_ hwf
  rw [fields_4e (number_at sum hf 1 rfl rfl), decodeMajor4e, if_pos (number_at sum hf 7 (lo := 22) rfl rfl)]
  rw [field_at sum hf 9 (lo := 28) (f := l) rfl rfl, field_at sum hf 8 (lo := 25) (f := b) rfl rfl, field_at sum hf 6 (lo := 19) (f := o) rfl rfl, field_at sum hf 5 (lo := 18) (f := w) rfl rfl, field_at sum hf 4 (lo := 13) (f := k) rfl rfl, field_at sum hf 3 (lo := 12) (f := n) rfl rfl, field_at sum hf 2 (lo := 8) (f := p) rfl rfl]

theorem Encodes.kfirst (l : BitVec 4) (a : BitVec 6) (d : BitVec 5) (n : BitVec 1) (p : BitVec 4) : Encodes.Statement (.kfirst l a d n p) := by
  intro hwf nb word henc
  have hword : some (32, 0x9f + l.toNat * 2 ^ 28 + a.toNat * 2 ^ 19 + d.toNat * 2 ^ 13 + n.toNat * 2 ^ 12 + p.toNat * 2 ^ 8) = some (nb, word) := henc
  obtain ⟨rfl, hsum⟩ := words_of hword
  have sum : word = joined [(1, 1), (7, 0x4f), (4, p.toNat), (1, n.toNat), (5, d.toNat), (1, 0), (6, a.toNat), (3, 0), (4, l.toNat)] := by
    rw [← hsum]
    simp only [joined]
    ring
  have hf : Fits [(1, 1), (7, 0x4f), (4, p.toNat), (1, n.toNat), (5, d.toNat), (1, 0), (6, a.toNat), (3, 0), (4, l.toNat)] :=
    ⟨by decide, by decide, p.isLt, n.isLt, d.isLt, by decide, a.isLt, by decide, l.isLt, trivial⟩
  refine decode_odd (by omega) ?_ hwf
  rw [fields_4f (number_at sum hf 1 rfl rfl), decodeMajor4f, if_pos ⟨number_at sum hf 5 (lo := 18) rfl rfl, number_at sum hf 7 (lo := 25) rfl rfl⟩]
  rw [field_at sum hf 8 (lo := 28) (f := l) rfl rfl, field_at sum hf 6 (lo := 19) (f := a) rfl rfl, field_at sum hf 4 (lo := 13) (f := d) rfl rfl, field_at sum hf 3 (lo := 12) (f := n) rfl rfl, field_at sum hf 2 (lo := 8) (f := p) rfl rfl]

theorem Encodes.ldB (l : BitVec 4) (b : BitVec 3) (o : BitVec 6) (d : BitVec 6) (n : BitVec 1) (p : BitVec 4) : Encodes.Statement (.ldB l b o d n p) := by
  intro hwf nb word henc
  have hword : some (32, 0xa1 + l.toNat * 2 ^ 28 + b.toNat * 2 ^ 25 + o.toNat * 2 ^ 19 + d.toNat * 2 ^ 13 + n.toNat * 2 ^ 12 + p.toNat * 2 ^ 8) = some (nb, word) := henc
  obtain ⟨rfl, hsum⟩ := words_of hword
  have sum : word = joined [(1, 1), (7, 0x50), (4, p.toNat), (1, n.toNat), (6, d.toNat), (6, o.toNat), (3, b.toNat), (4, l.toNat)] := by
    rw [← hsum]
    simp only [joined]
    ring
  have hf : Fits [(1, 1), (7, 0x50), (4, p.toNat), (1, n.toNat), (6, d.toNat), (6, o.toNat), (3, b.toNat), (4, l.toNat)] :=
    ⟨by decide, by decide, p.isLt, n.isLt, d.isLt, o.isLt, b.isLt, l.isLt, trivial⟩
  refine decode_odd (by omega) ?_ hwf
  rw [fields_50 (number_at sum hf 1 rfl rfl), decodeMajor50]
  rw [field_at sum hf 7 (lo := 28) (f := l) rfl rfl, field_at sum hf 6 (lo := 25) (f := b) rfl rfl, field_at sum hf 5 (lo := 19) (f := o) rfl rfl, field_at sum hf 4 (lo := 13) (f := d) rfl rfl, field_at sum hf 3 (lo := 12) (f := n) rfl rfl, field_at sum hf 2 (lo := 8) (f := p) rfl rfl]

theorem Encodes.ldH (l : BitVec 4) (b : BitVec 3) (o : BitVec 6) (d : BitVec 6) (n : BitVec 1) (p : BitVec 4) : Encodes.Statement (.ldH l b o d n p) := by
  intro hwf nb word henc
  have hword : some (32, 0xa3 + l.toNat * 2 ^ 28 + b.toNat * 2 ^ 25 + o.toNat * 2 ^ 19 + d.toNat * 2 ^ 13 + n.toNat * 2 ^ 12 + p.toNat * 2 ^ 8) = some (nb, word) := henc
  obtain ⟨rfl, hsum⟩ := words_of hword
  have sum : word = joined [(1, 1), (7, 0x51), (4, p.toNat), (1, n.toNat), (6, d.toNat), (6, o.toNat), (3, b.toNat), (4, l.toNat)] := by
    rw [← hsum]
    simp only [joined]
    ring
  have hf : Fits [(1, 1), (7, 0x51), (4, p.toNat), (1, n.toNat), (6, d.toNat), (6, o.toNat), (3, b.toNat), (4, l.toNat)] :=
    ⟨by decide, by decide, p.isLt, n.isLt, d.isLt, o.isLt, b.isLt, l.isLt, trivial⟩
  refine decode_odd (by omega) ?_ hwf
  rw [fields_51 (number_at sum hf 1 rfl rfl), decodeMajor51]
  rw [field_at sum hf 7 (lo := 28) (f := l) rfl rfl, field_at sum hf 6 (lo := 25) (f := b) rfl rfl, field_at sum hf 5 (lo := 19) (f := o) rfl rfl, field_at sum hf 4 (lo := 13) (f := d) rfl rfl, field_at sum hf 3 (lo := 12) (f := n) rfl rfl, field_at sum hf 2 (lo := 8) (f := p) rfl rfl]

theorem Encodes.ldW (l : BitVec 4) (b : BitVec 3) (o : BitVec 6) (d : BitVec 6) (n : BitVec 1) (p : BitVec 4) : Encodes.Statement (.ldW l b o d n p) := by
  intro hwf nb word henc
  have hword : some (32, 0xa5 + l.toNat * 2 ^ 28 + b.toNat * 2 ^ 25 + o.toNat * 2 ^ 19 + d.toNat * 2 ^ 13 + n.toNat * 2 ^ 12 + p.toNat * 2 ^ 8) = some (nb, word) := henc
  obtain ⟨rfl, hsum⟩ := words_of hword
  have sum : word = joined [(1, 1), (7, 0x52), (4, p.toNat), (1, n.toNat), (6, d.toNat), (6, o.toNat), (3, b.toNat), (4, l.toNat)] := by
    rw [← hsum]
    simp only [joined]
    ring
  have hf : Fits [(1, 1), (7, 0x52), (4, p.toNat), (1, n.toNat), (6, d.toNat), (6, o.toNat), (3, b.toNat), (4, l.toNat)] :=
    ⟨by decide, by decide, p.isLt, n.isLt, d.isLt, o.isLt, b.isLt, l.isLt, trivial⟩
  refine decode_odd (by omega) ?_ hwf
  rw [fields_52 (number_at sum hf 1 rfl rfl), decodeMajor52]
  rw [field_at sum hf 7 (lo := 28) (f := l) rfl rfl, field_at sum hf 6 (lo := 25) (f := b) rfl rfl, field_at sum hf 5 (lo := 19) (f := o) rfl rfl, field_at sum hf 4 (lo := 13) (f := d) rfl rfl, field_at sum hf 3 (lo := 12) (f := n) rfl rfl, field_at sum hf 2 (lo := 8) (f := p) rfl rfl]

theorem Encodes.ldD (l : BitVec 4) (b : BitVec 3) (o : BitVec 6) (d : BitVec 6) (n : BitVec 1) (p : BitVec 4) : Encodes.Statement (.ldD l b o d n p) := by
  intro hwf nb word henc
  have hword : some (32, 0xa7 + l.toNat * 2 ^ 28 + b.toNat * 2 ^ 25 + o.toNat * 2 ^ 19 + d.toNat * 2 ^ 13 + n.toNat * 2 ^ 12 + p.toNat * 2 ^ 8) = some (nb, word) := henc
  obtain ⟨rfl, hsum⟩ := words_of hword
  have sum : word = joined [(1, 1), (7, 0x53), (4, p.toNat), (1, n.toNat), (6, d.toNat), (6, o.toNat), (3, b.toNat), (4, l.toNat)] := by
    rw [← hsum]
    simp only [joined]
    ring
  have hf : Fits [(1, 1), (7, 0x53), (4, p.toNat), (1, n.toNat), (6, d.toNat), (6, o.toNat), (3, b.toNat), (4, l.toNat)] :=
    ⟨by decide, by decide, p.isLt, n.isLt, d.isLt, o.isLt, b.isLt, l.isLt, trivial⟩
  refine decode_odd (by omega) ?_ hwf
  rw [fields_53 (number_at sum hf 1 rfl rfl), decodeMajor53]
  rw [field_at sum hf 7 (lo := 28) (f := l) rfl rfl, field_at sum hf 6 (lo := 25) (f := b) rfl rfl, field_at sum hf 5 (lo := 19) (f := o) rfl rfl, field_at sum hf 4 (lo := 13) (f := d) rfl rfl, field_at sum hf 3 (lo := 12) (f := n) rfl rfl, field_at sum hf 2 (lo := 8) (f := p) rfl rfl]

theorem Encodes.ldQ (l : BitVec 4) (b : BitVec 3) (o : BitVec 6) (d : BitVec 3) (n : BitVec 1) (p : BitVec 4) : Encodes.Statement (.ldQ l b o d n p) := by
  intro hwf nb word henc
  have hword : some (32, 0xa9 + l.toNat * 2 ^ 28 + b.toNat * 2 ^ 25 + o.toNat * 2 ^ 19 + d.toNat * 2 ^ 15 + n.toNat * 2 ^ 12 + p.toNat * 2 ^ 8) = some (nb, word) := henc
  obtain ⟨rfl, hsum⟩ := words_of hword
  have sum : word = joined [(1, 1), (7, 0x54), (4, p.toNat), (1, n.toNat), (2, 0), (3, d.toNat), (1, 0), (6, o.toNat), (3, b.toNat), (4, l.toNat)] := by
    rw [← hsum]
    simp only [joined]
    ring
  have hf : Fits [(1, 1), (7, 0x54), (4, p.toNat), (1, n.toNat), (2, 0), (3, d.toNat), (1, 0), (6, o.toNat), (3, b.toNat), (4, l.toNat)] :=
    ⟨by decide, by decide, p.isLt, n.isLt, by decide, d.isLt, by decide, o.isLt, b.isLt, l.isLt, trivial⟩
  refine decode_odd (by omega) ?_ hwf
  rw [fields_54 (number_at sum hf 1 rfl rfl), decodeMajor54, if_pos ⟨number_at sum hf 4 (lo := 13) rfl rfl, number_at sum hf 6 (lo := 18) rfl rfl⟩]
  rw [field_at sum hf 9 (lo := 28) (f := l) rfl rfl, field_at sum hf 8 (lo := 25) (f := b) rfl rfl, field_at sum hf 7 (lo := 19) (f := o) rfl rfl, field_at sum hf 5 (lo := 15) (f := d) rfl rfl, field_at sum hf 3 (lo := 12) (f := n) rfl rfl, field_at sum hf 2 (lo := 8) (f := p) rfl rfl]

theorem Encodes.stB (l : BitVec 4) (b : BitVec 3) (o : BitVec 6) (d : BitVec 6) (n : BitVec 1) (p : BitVec 4) : Encodes.Statement (.stB l b o d n p) := by
  intro hwf nb word henc
  have hword : some (32, 0xab + l.toNat * 2 ^ 28 + b.toNat * 2 ^ 25 + o.toNat * 2 ^ 19 + d.toNat * 2 ^ 13 + n.toNat * 2 ^ 12 + p.toNat * 2 ^ 8) = some (nb, word) := henc
  obtain ⟨rfl, hsum⟩ := words_of hword
  have sum : word = joined [(1, 1), (7, 0x55), (4, p.toNat), (1, n.toNat), (6, d.toNat), (6, o.toNat), (3, b.toNat), (4, l.toNat)] := by
    rw [← hsum]
    simp only [joined]
    ring
  have hf : Fits [(1, 1), (7, 0x55), (4, p.toNat), (1, n.toNat), (6, d.toNat), (6, o.toNat), (3, b.toNat), (4, l.toNat)] :=
    ⟨by decide, by decide, p.isLt, n.isLt, d.isLt, o.isLt, b.isLt, l.isLt, trivial⟩
  refine decode_odd (by omega) ?_ hwf
  rw [fields_55 (number_at sum hf 1 rfl rfl), decodeMajor55]
  rw [field_at sum hf 7 (lo := 28) (f := l) rfl rfl, field_at sum hf 6 (lo := 25) (f := b) rfl rfl, field_at sum hf 5 (lo := 19) (f := o) rfl rfl, field_at sum hf 4 (lo := 13) (f := d) rfl rfl, field_at sum hf 3 (lo := 12) (f := n) rfl rfl, field_at sum hf 2 (lo := 8) (f := p) rfl rfl]

theorem Encodes.stH (l : BitVec 4) (b : BitVec 3) (o : BitVec 6) (d : BitVec 6) (n : BitVec 1) (p : BitVec 4) : Encodes.Statement (.stH l b o d n p) := by
  intro hwf nb word henc
  have hword : some (32, 0xad + l.toNat * 2 ^ 28 + b.toNat * 2 ^ 25 + o.toNat * 2 ^ 19 + d.toNat * 2 ^ 13 + n.toNat * 2 ^ 12 + p.toNat * 2 ^ 8) = some (nb, word) := henc
  obtain ⟨rfl, hsum⟩ := words_of hword
  have sum : word = joined [(1, 1), (7, 0x56), (4, p.toNat), (1, n.toNat), (6, d.toNat), (6, o.toNat), (3, b.toNat), (4, l.toNat)] := by
    rw [← hsum]
    simp only [joined]
    ring
  have hf : Fits [(1, 1), (7, 0x56), (4, p.toNat), (1, n.toNat), (6, d.toNat), (6, o.toNat), (3, b.toNat), (4, l.toNat)] :=
    ⟨by decide, by decide, p.isLt, n.isLt, d.isLt, o.isLt, b.isLt, l.isLt, trivial⟩
  refine decode_odd (by omega) ?_ hwf
  rw [fields_56 (number_at sum hf 1 rfl rfl), decodeMajor56]
  rw [field_at sum hf 7 (lo := 28) (f := l) rfl rfl, field_at sum hf 6 (lo := 25) (f := b) rfl rfl, field_at sum hf 5 (lo := 19) (f := o) rfl rfl, field_at sum hf 4 (lo := 13) (f := d) rfl rfl, field_at sum hf 3 (lo := 12) (f := n) rfl rfl, field_at sum hf 2 (lo := 8) (f := p) rfl rfl]

theorem Encodes.stW (l : BitVec 4) (b : BitVec 3) (o : BitVec 6) (d : BitVec 6) (n : BitVec 1) (p : BitVec 4) : Encodes.Statement (.stW l b o d n p) := by
  intro hwf nb word henc
  have hword : some (32, 0xaf + l.toNat * 2 ^ 28 + b.toNat * 2 ^ 25 + o.toNat * 2 ^ 19 + d.toNat * 2 ^ 13 + n.toNat * 2 ^ 12 + p.toNat * 2 ^ 8) = some (nb, word) := henc
  obtain ⟨rfl, hsum⟩ := words_of hword
  have sum : word = joined [(1, 1), (7, 0x57), (4, p.toNat), (1, n.toNat), (6, d.toNat), (6, o.toNat), (3, b.toNat), (4, l.toNat)] := by
    rw [← hsum]
    simp only [joined]
    ring
  have hf : Fits [(1, 1), (7, 0x57), (4, p.toNat), (1, n.toNat), (6, d.toNat), (6, o.toNat), (3, b.toNat), (4, l.toNat)] :=
    ⟨by decide, by decide, p.isLt, n.isLt, d.isLt, o.isLt, b.isLt, l.isLt, trivial⟩
  refine decode_odd (by omega) ?_ hwf
  rw [fields_57 (number_at sum hf 1 rfl rfl), decodeMajor57]
  rw [field_at sum hf 7 (lo := 28) (f := l) rfl rfl, field_at sum hf 6 (lo := 25) (f := b) rfl rfl, field_at sum hf 5 (lo := 19) (f := o) rfl rfl, field_at sum hf 4 (lo := 13) (f := d) rfl rfl, field_at sum hf 3 (lo := 12) (f := n) rfl rfl, field_at sum hf 2 (lo := 8) (f := p) rfl rfl]

theorem Encodes.stD (l : BitVec 4) (b : BitVec 3) (o : BitVec 6) (d : BitVec 6) (n : BitVec 1) (p : BitVec 4) : Encodes.Statement (.stD l b o d n p) := by
  intro hwf nb word henc
  have hword : some (32, 0xb1 + l.toNat * 2 ^ 28 + b.toNat * 2 ^ 25 + o.toNat * 2 ^ 19 + d.toNat * 2 ^ 13 + n.toNat * 2 ^ 12 + p.toNat * 2 ^ 8) = some (nb, word) := henc
  obtain ⟨rfl, hsum⟩ := words_of hword
  have sum : word = joined [(1, 1), (7, 0x58), (4, p.toNat), (1, n.toNat), (6, d.toNat), (6, o.toNat), (3, b.toNat), (4, l.toNat)] := by
    rw [← hsum]
    simp only [joined]
    ring
  have hf : Fits [(1, 1), (7, 0x58), (4, p.toNat), (1, n.toNat), (6, d.toNat), (6, o.toNat), (3, b.toNat), (4, l.toNat)] :=
    ⟨by decide, by decide, p.isLt, n.isLt, d.isLt, o.isLt, b.isLt, l.isLt, trivial⟩
  refine decode_odd (by omega) ?_ hwf
  rw [fields_58 (number_at sum hf 1 rfl rfl), decodeMajor58]
  rw [field_at sum hf 7 (lo := 28) (f := l) rfl rfl, field_at sum hf 6 (lo := 25) (f := b) rfl rfl, field_at sum hf 5 (lo := 19) (f := o) rfl rfl, field_at sum hf 4 (lo := 13) (f := d) rfl rfl, field_at sum hf 3 (lo := 12) (f := n) rfl rfl, field_at sum hf 2 (lo := 8) (f := p) rfl rfl]

theorem Encodes.stQ (l : BitVec 4) (b : BitVec 3) (o : BitVec 6) (d : BitVec 3) (n : BitVec 1) (p : BitVec 4) : Encodes.Statement (.stQ l b o d n p) := by
  intro hwf nb word henc
  have hword : some (32, 0xb3 + l.toNat * 2 ^ 28 + b.toNat * 2 ^ 25 + o.toNat * 2 ^ 19 + d.toNat * 2 ^ 15 + n.toNat * 2 ^ 12 + p.toNat * 2 ^ 8) = some (nb, word) := henc
  obtain ⟨rfl, hsum⟩ := words_of hword
  have sum : word = joined [(1, 1), (7, 0x59), (4, p.toNat), (1, n.toNat), (2, 0), (3, d.toNat), (1, 0), (6, o.toNat), (3, b.toNat), (4, l.toNat)] := by
    rw [← hsum]
    simp only [joined]
    ring
  have hf : Fits [(1, 1), (7, 0x59), (4, p.toNat), (1, n.toNat), (2, 0), (3, d.toNat), (1, 0), (6, o.toNat), (3, b.toNat), (4, l.toNat)] :=
    ⟨by decide, by decide, p.isLt, n.isLt, by decide, d.isLt, by decide, o.isLt, b.isLt, l.isLt, trivial⟩
  refine decode_odd (by omega) ?_ hwf
  rw [fields_59 (number_at sum hf 1 rfl rfl), decodeMajor59, if_pos ⟨number_at sum hf 4 (lo := 13) rfl rfl, number_at sum hf 6 (lo := 18) rfl rfl⟩]
  rw [field_at sum hf 9 (lo := 28) (f := l) rfl rfl, field_at sum hf 8 (lo := 25) (f := b) rfl rfl, field_at sum hf 7 (lo := 19) (f := o) rfl rfl, field_at sum hf 5 (lo := 15) (f := d) rfl rfl, field_at sum hf 3 (lo := 12) (f := n) rfl rfl, field_at sum hf 2 (lo := 8) (f := p) rfl rfl]

theorem Encodes.ldf (c : BitVec 3) (l : BitVec 1) (b : BitVec 3) (o : BitVec 6) (d : BitVec 6) (n : BitVec 1) (p : BitVec 4) : Encodes.Statement (.ldf c l b o d n p) := by
  intro hwf nb word henc
  have hword : some (32, 0xb5 + c.toNat * 2 ^ 29 + l.toNat * 2 ^ 28 + b.toNat * 2 ^ 25 + o.toNat * 2 ^ 19 + d.toNat * 2 ^ 13 + n.toNat * 2 ^ 12 + p.toNat * 2 ^ 8) = some (nb, word) := henc
  obtain ⟨rfl, hsum⟩ := words_of hword
  have sum : word = joined [(1, 1), (7, 0x5a), (4, p.toNat), (1, n.toNat), (6, d.toNat), (6, o.toNat), (3, b.toNat), (1, l.toNat), (3, c.toNat)] := by
    rw [← hsum]
    simp only [joined]
    ring
  have hf : Fits [(1, 1), (7, 0x5a), (4, p.toNat), (1, n.toNat), (6, d.toNat), (6, o.toNat), (3, b.toNat), (1, l.toNat), (3, c.toNat)] :=
    ⟨by decide, by decide, p.isLt, n.isLt, d.isLt, o.isLt, b.isLt, l.isLt, c.isLt, trivial⟩
  refine decode_odd (by omega) ?_ hwf
  rw [fields_5a (number_at sum hf 1 rfl rfl), decodeMajor5a]
  rw [field_at sum hf 8 (lo := 29) (f := c) rfl rfl, field_at sum hf 7 (lo := 28) (f := l) rfl rfl, field_at sum hf 6 (lo := 25) (f := b) rfl rfl, field_at sum hf 5 (lo := 19) (f := o) rfl rfl, field_at sum hf 4 (lo := 13) (f := d) rfl rfl, field_at sum hf 3 (lo := 12) (f := n) rfl rfl, field_at sum hf 2 (lo := 8) (f := p) rfl rfl]

theorem Encodes.ldfk (c : BitVec 3) (l : BitVec 1) (b : BitVec 3) (o : BitVec 6) (d : BitVec 6) (n : BitVec 1) (p : BitVec 4) : Encodes.Statement (.ldfk c l b o d n p) := by
  intro hwf nb word henc
  have hword : some (32, 0xb7 + c.toNat * 2 ^ 29 + l.toNat * 2 ^ 28 + b.toNat * 2 ^ 25 + o.toNat * 2 ^ 19 + d.toNat * 2 ^ 13 + n.toNat * 2 ^ 12 + p.toNat * 2 ^ 8) = some (nb, word) := henc
  obtain ⟨rfl, hsum⟩ := words_of hword
  have sum : word = joined [(1, 1), (7, 0x5b), (4, p.toNat), (1, n.toNat), (6, d.toNat), (6, o.toNat), (3, b.toNat), (1, l.toNat), (3, c.toNat)] := by
    rw [← hsum]
    simp only [joined]
    ring
  have hf : Fits [(1, 1), (7, 0x5b), (4, p.toNat), (1, n.toNat), (6, d.toNat), (6, o.toNat), (3, b.toNat), (1, l.toNat), (3, c.toNat)] :=
    ⟨by decide, by decide, p.isLt, n.isLt, d.isLt, o.isLt, b.isLt, l.isLt, c.isLt, trivial⟩
  refine decode_odd (by omega) ?_ hwf
  rw [fields_5b (number_at sum hf 1 rfl rfl), decodeMajor5b]
  rw [field_at sum hf 8 (lo := 29) (f := c) rfl rfl, field_at sum hf 7 (lo := 28) (f := l) rfl rfl, field_at sum hf 6 (lo := 25) (f := b) rfl rfl, field_at sum hf 5 (lo := 19) (f := o) rfl rfl, field_at sum hf 4 (lo := 13) (f := d) rfl rfl, field_at sum hf 3 (lo := 12) (f := n) rfl rfl, field_at sum hf 2 (lo := 8) (f := p) rfl rfl]

theorem Encodes.ste (c : BitVec 3) (l : BitVec 1) (b : BitVec 3) (o : BitVec 6) (d : BitVec 6) (n : BitVec 1) (p : BitVec 4) : Encodes.Statement (.ste c l b o d n p) := by
  intro hwf nb word henc
  have hword : some (32, 0xb9 + c.toNat * 2 ^ 29 + l.toNat * 2 ^ 28 + b.toNat * 2 ^ 25 + o.toNat * 2 ^ 19 + d.toNat * 2 ^ 13 + n.toNat * 2 ^ 12 + p.toNat * 2 ^ 8) = some (nb, word) := henc
  obtain ⟨rfl, hsum⟩ := words_of hword
  have sum : word = joined [(1, 1), (7, 0x5c), (4, p.toNat), (1, n.toNat), (6, d.toNat), (6, o.toNat), (3, b.toNat), (1, l.toNat), (3, c.toNat)] := by
    rw [← hsum]
    simp only [joined]
    ring
  have hf : Fits [(1, 1), (7, 0x5c), (4, p.toNat), (1, n.toNat), (6, d.toNat), (6, o.toNat), (3, b.toNat), (1, l.toNat), (3, c.toNat)] :=
    ⟨by decide, by decide, p.isLt, n.isLt, d.isLt, o.isLt, b.isLt, l.isLt, c.isLt, trivial⟩
  refine decode_odd (by omega) ?_ hwf
  rw [fields_5c (number_at sum hf 1 rfl rfl), decodeMajor5c]
  rw [field_at sum hf 8 (lo := 29) (f := c) rfl rfl, field_at sum hf 7 (lo := 28) (f := l) rfl rfl, field_at sum hf 6 (lo := 25) (f := b) rfl rfl, field_at sum hf 5 (lo := 19) (f := o) rfl rfl, field_at sum hf 4 (lo := 13) (f := d) rfl rfl, field_at sum hf 3 (lo := 12) (f := n) rfl rfl, field_at sum hf 2 (lo := 8) (f := p) rfl rfl]

theorem Encodes.stf (c : BitVec 3) (l : BitVec 1) (b : BitVec 3) (o : BitVec 6) (d : BitVec 6) (n : BitVec 1) (p : BitVec 4) : Encodes.Statement (.stf c l b o d n p) := by
  intro hwf nb word henc
  have hword : some (32, 0xbb + c.toNat * 2 ^ 29 + l.toNat * 2 ^ 28 + b.toNat * 2 ^ 25 + o.toNat * 2 ^ 19 + d.toNat * 2 ^ 13 + n.toNat * 2 ^ 12 + p.toNat * 2 ^ 8) = some (nb, word) := henc
  obtain ⟨rfl, hsum⟩ := words_of hword
  have sum : word = joined [(1, 1), (7, 0x5d), (4, p.toNat), (1, n.toNat), (6, d.toNat), (6, o.toNat), (3, b.toNat), (1, l.toNat), (3, c.toNat)] := by
    rw [← hsum]
    simp only [joined]
    ring
  have hf : Fits [(1, 1), (7, 0x5d), (4, p.toNat), (1, n.toNat), (6, d.toNat), (6, o.toNat), (3, b.toNat), (1, l.toNat), (3, c.toNat)] :=
    ⟨by decide, by decide, p.isLt, n.isLt, d.isLt, o.isLt, b.isLt, l.isLt, c.isLt, trivial⟩
  refine decode_odd (by omega) ?_ hwf
  rw [fields_5d (number_at sum hf 1 rfl rfl), decodeMajor5d]
  rw [field_at sum hf 8 (lo := 29) (f := c) rfl rfl, field_at sum hf 7 (lo := 28) (f := l) rfl rfl, field_at sum hf 6 (lo := 25) (f := b) rfl rfl, field_at sum hf 5 (lo := 19) (f := o) rfl rfl, field_at sum hf 4 (lo := 13) (f := d) rfl rfl, field_at sum hf 3 (lo := 12) (f := n) rfl rfl, field_at sum hf 2 (lo := 8) (f := p) rfl rfl]

theorem Encodes.sete (c : BitVec 3) (l : BitVec 1) (b : BitVec 3) (o : BitVec 6) (n : BitVec 1) (p : BitVec 4) : Encodes.Statement (.sete c l b o n p) := by
  intro hwf nb word henc
  have hword : some (32, 0xbd + c.toNat * 2 ^ 29 + l.toNat * 2 ^ 28 + b.toNat * 2 ^ 25 + o.toNat * 2 ^ 19 + n.toNat * 2 ^ 12 + p.toNat * 2 ^ 8) = some (nb, word) := henc
  obtain ⟨rfl, hsum⟩ := words_of hword
  have sum : word = joined [(1, 1), (7, 0x5e), (4, p.toNat), (1, n.toNat), (6, 0), (6, o.toNat), (3, b.toNat), (1, l.toNat), (3, c.toNat)] := by
    rw [← hsum]
    simp only [joined]
    ring
  have hf : Fits [(1, 1), (7, 0x5e), (4, p.toNat), (1, n.toNat), (6, 0), (6, o.toNat), (3, b.toNat), (1, l.toNat), (3, c.toNat)] :=
    ⟨by decide, by decide, p.isLt, n.isLt, by decide, o.isLt, b.isLt, l.isLt, c.isLt, trivial⟩
  refine decode_odd (by omega) ?_ hwf
  rw [fields_5e (number_at sum hf 1 rfl rfl), decodeMajor5e, if_pos (number_at sum hf 4 (lo := 13) rfl rfl)]
  rw [field_at sum hf 8 (lo := 29) (f := c) rfl rfl, field_at sum hf 7 (lo := 28) (f := l) rfl rfl, field_at sum hf 6 (lo := 25) (f := b) rfl rfl, field_at sum hf 5 (lo := 19) (f := o) rfl rfl, field_at sum hf 3 (lo := 12) (f := n) rfl rfl, field_at sum hf 2 (lo := 8) (f := p) rfl rfl]

theorem Encodes.waitv (c : BitVec 3) (l : BitVec 1) (b : BitVec 3) (o : BitVec 6) (d : BitVec 6) (n : BitVec 1) (p : BitVec 4) : Encodes.Statement (.waitv c l b o d n p) := by
  intro hwf nb word henc
  have hword : some (32, 0xbf + c.toNat * 2 ^ 29 + l.toNat * 2 ^ 28 + b.toNat * 2 ^ 25 + o.toNat * 2 ^ 19 + d.toNat * 2 ^ 13 + n.toNat * 2 ^ 12 + p.toNat * 2 ^ 8) = some (nb, word) := henc
  obtain ⟨rfl, hsum⟩ := words_of hword
  have sum : word = joined [(1, 1), (7, 0x5f), (4, p.toNat), (1, n.toNat), (6, d.toNat), (6, o.toNat), (3, b.toNat), (1, l.toNat), (3, c.toNat)] := by
    rw [← hsum]
    simp only [joined]
    ring
  have hf : Fits [(1, 1), (7, 0x5f), (4, p.toNat), (1, n.toNat), (6, d.toNat), (6, o.toNat), (3, b.toNat), (1, l.toNat), (3, c.toNat)] :=
    ⟨by decide, by decide, p.isLt, n.isLt, d.isLt, o.isLt, b.isLt, l.isLt, c.isLt, trivial⟩
  refine decode_odd (by omega) ?_ hwf
  rw [fields_5f (number_at sum hf 1 rfl rfl), decodeMajor5f]
  rw [field_at sum hf 8 (lo := 29) (f := c) rfl rfl, field_at sum hf 7 (lo := 28) (f := l) rfl rfl, field_at sum hf 6 (lo := 25) (f := b) rfl rfl, field_at sum hf 5 (lo := 19) (f := o) rfl rfl, field_at sum hf 4 (lo := 13) (f := d) rfl rfl, field_at sum hf 3 (lo := 12) (f := n) rfl rfl, field_at sum hf 2 (lo := 8) (f := p) rfl rfl]

theorem Encodes.atomIntW (c : BitVec 3) (l : BitVec 1) (u : BitVec 3) (a : BitVec 4) (d : BitVec 6) (n : BitVec 1) (p : BitVec 4) : Encodes.Statement (.atomIntW c l u a d n p) := by
  intro hwf nb word henc
  have hword : some (32, 0xc1 + c.toNat * 2 ^ 29 + l.toNat * 2 ^ 28 + u.toNat * 2 ^ 25 + a.toNat * 2 ^ 20 + d.toNat * 2 ^ 13 + n.toNat * 2 ^ 12 + p.toNat * 2 ^ 8) = some (nb, word) := henc
  obtain ⟨rfl, hsum⟩ := words_of hword
  have sum : word = joined [(1, 1), (7, 0x60), (4, p.toNat), (1, n.toNat), (6, d.toNat), (1, 0), (4, a.toNat), (1, 0), (3, u.toNat), (1, l.toNat), (3, c.toNat)] := by
    rw [← hsum]
    simp only [joined]
    ring
  have hf : Fits [(1, 1), (7, 0x60), (4, p.toNat), (1, n.toNat), (6, d.toNat), (1, 0), (4, a.toNat), (1, 0), (3, u.toNat), (1, l.toNat), (3, c.toNat)] :=
    ⟨by decide, by decide, p.isLt, n.isLt, d.isLt, by decide, a.isLt, by decide, u.isLt, l.isLt, c.isLt, trivial⟩
  refine decode_odd (by omega) ?_ hwf
  rw [fields_60 (number_at sum hf 1 rfl rfl), decodeMajor60, if_pos ⟨number_at sum hf 5 (lo := 19) rfl rfl, number_at sum hf 7 (lo := 24) rfl rfl⟩]
  rw [field_at sum hf 10 (lo := 29) (f := c) rfl rfl, field_at sum hf 9 (lo := 28) (f := l) rfl rfl, field_at sum hf 8 (lo := 25) (f := u) rfl rfl, field_at sum hf 6 (lo := 20) (f := a) rfl rfl, field_at sum hf 4 (lo := 13) (f := d) rfl rfl, field_at sum hf 3 (lo := 12) (f := n) rfl rfl, field_at sum hf 2 (lo := 8) (f := p) rfl rfl]

theorem Encodes.atomIntD (c : BitVec 3) (l : BitVec 1) (u : BitVec 3) (a : BitVec 4) (d : BitVec 6) (n : BitVec 1) (p : BitVec 4) : Encodes.Statement (.atomIntD c l u a d n p) := by
  intro hwf nb word henc
  have hword : some (32, 0xc3 + c.toNat * 2 ^ 29 + l.toNat * 2 ^ 28 + u.toNat * 2 ^ 25 + a.toNat * 2 ^ 20 + d.toNat * 2 ^ 13 + n.toNat * 2 ^ 12 + p.toNat * 2 ^ 8) = some (nb, word) := henc
  obtain ⟨rfl, hsum⟩ := words_of hword
  have sum : word = joined [(1, 1), (7, 0x61), (4, p.toNat), (1, n.toNat), (6, d.toNat), (1, 0), (4, a.toNat), (1, 0), (3, u.toNat), (1, l.toNat), (3, c.toNat)] := by
    rw [← hsum]
    simp only [joined]
    ring
  have hf : Fits [(1, 1), (7, 0x61), (4, p.toNat), (1, n.toNat), (6, d.toNat), (1, 0), (4, a.toNat), (1, 0), (3, u.toNat), (1, l.toNat), (3, c.toNat)] :=
    ⟨by decide, by decide, p.isLt, n.isLt, d.isLt, by decide, a.isLt, by decide, u.isLt, l.isLt, c.isLt, trivial⟩
  refine decode_odd (by omega) ?_ hwf
  rw [fields_61 (number_at sum hf 1 rfl rfl), decodeMajor61, if_pos ⟨number_at sum hf 5 (lo := 19) rfl rfl, number_at sum hf 7 (lo := 24) rfl rfl⟩]
  rw [field_at sum hf 10 (lo := 29) (f := c) rfl rfl, field_at sum hf 9 (lo := 28) (f := l) rfl rfl, field_at sum hf 8 (lo := 25) (f := u) rfl rfl, field_at sum hf 6 (lo := 20) (f := a) rfl rfl, field_at sum hf 4 (lo := 13) (f := d) rfl rfl, field_at sum hf 3 (lo := 12) (f := n) rfl rfl, field_at sum hf 2 (lo := 8) (f := p) rfl rfl]

theorem Encodes.atomSwap (c : BitVec 3) (l : BitVec 1) (w : BitVec 1) (a : BitVec 4) (d : BitVec 6) (n : BitVec 1) (p : BitVec 4) : Encodes.Statement (.atomSwap c l w a d n p) := by
  intro hwf nb word henc
  have hword : some (32, 0xc5 + c.toNat * 2 ^ 29 + l.toNat * 2 ^ 28 + w.toNat * 2 ^ 25 + a.toNat * 2 ^ 20 + d.toNat * 2 ^ 13 + n.toNat * 2 ^ 12 + p.toNat * 2 ^ 8) = some (nb, word) := henc
  obtain ⟨rfl, hsum⟩ := words_of hword
  have sum : word = joined [(1, 1), (7, 0x62), (4, p.toNat), (1, n.toNat), (6, d.toNat), (1, 0), (4, a.toNat), (1, 0), (1, w.toNat), (2, 0), (1, l.toNat), (3, c.toNat)] := by
    rw [← hsum]
    simp only [joined]
    ring
  have hf : Fits [(1, 1), (7, 0x62), (4, p.toNat), (1, n.toNat), (6, d.toNat), (1, 0), (4, a.toNat), (1, 0), (1, w.toNat), (2, 0), (1, l.toNat), (3, c.toNat)] :=
    ⟨by decide, by decide, p.isLt, n.isLt, d.isLt, by decide, a.isLt, by decide, w.isLt, by decide, l.isLt, c.isLt, trivial⟩
  refine decode_odd (by omega) ?_ hwf
  rw [fields_62 (number_at sum hf 1 rfl rfl), decodeMajor62, if_pos ⟨number_at sum hf 5 (lo := 19) rfl rfl, number_at sum hf 7 (lo := 24) rfl rfl, number_at sum hf 9 (lo := 26) rfl rfl⟩]
  rw [field_at sum hf 11 (lo := 29) (f := c) rfl rfl, field_at sum hf 10 (lo := 28) (f := l) rfl rfl, field_at sum hf 8 (lo := 25) (f := w) rfl rfl, field_at sum hf 6 (lo := 20) (f := a) rfl rfl, field_at sum hf 4 (lo := 13) (f := d) rfl rfl, field_at sum hf 3 (lo := 12) (f := n) rfl rfl, field_at sum hf 2 (lo := 8) (f := p) rfl rfl]

theorem Encodes.atomCas (c : BitVec 3) (l : BitVec 1) (w : BitVec 1) (a : BitVec 4) (d : BitVec 6) (n : BitVec 1) (p : BitVec 4) : Encodes.Statement (.atomCas c l w a d n p) := by
  intro hwf nb word henc
  have hword : some (32, 0x40000c5 + c.toNat * 2 ^ 29 + l.toNat * 2 ^ 28 + w.toNat * 2 ^ 25 + a.toNat * 2 ^ 20 + d.toNat * 2 ^ 13 + n.toNat * 2 ^ 12 + p.toNat * 2 ^ 8) = some (nb, word) := henc
  obtain ⟨rfl, hsum⟩ := words_of hword
  have sum : word = joined [(1, 1), (7, 0x62), (4, p.toNat), (1, n.toNat), (6, d.toNat), (1, 0), (4, a.toNat), (1, 0), (1, w.toNat), (2, 1), (1, l.toNat), (3, c.toNat)] := by
    rw [← hsum]
    simp only [joined]
    ring
  have hf : Fits [(1, 1), (7, 0x62), (4, p.toNat), (1, n.toNat), (6, d.toNat), (1, 0), (4, a.toNat), (1, 0), (1, w.toNat), (2, 1), (1, l.toNat), (3, c.toNat)] :=
    ⟨by decide, by decide, p.isLt, n.isLt, d.isLt, by decide, a.isLt, by decide, w.isLt, by decide, l.isLt, c.isLt, trivial⟩
  refine decode_odd (by omega) ?_ hwf
  rw [fields_62 (number_at sum hf 1 rfl rfl), decodeMajor62, if_neg (fun hc => absurd ((number_at sum hf 9 (lo := 26) rfl rfl).symm.trans hc.2.2) (by decide)), if_pos ⟨number_at sum hf 5 (lo := 19) rfl rfl, number_at sum hf 7 (lo := 24) rfl rfl, number_at sum hf 9 (lo := 26) rfl rfl⟩]
  rw [field_at sum hf 11 (lo := 29) (f := c) rfl rfl, field_at sum hf 10 (lo := 28) (f := l) rfl rfl, field_at sum hf 8 (lo := 25) (f := w) rfl rfl, field_at sum hf 6 (lo := 20) (f := a) rfl rfl, field_at sum hf 4 (lo := 13) (f := d) rfl rfl, field_at sum hf 3 (lo := 12) (f := n) rfl rfl, field_at sum hf 2 (lo := 8) (f := p) rfl rfl]

theorem Encodes.atomFadd (c : BitVec 3) (l : BitVec 1) (w : BitVec 1) (a : BitVec 4) (d : BitVec 6) (n : BitVec 1) (p : BitVec 4) : Encodes.Statement (.atomFadd c l w a d n p) := by
  intro hwf nb word henc
  have hword : some (32, 0x80000c5 + c.toNat * 2 ^ 29 + l.toNat * 2 ^ 28 + w.toNat * 2 ^ 25 + a.toNat * 2 ^ 20 + d.toNat * 2 ^ 13 + n.toNat * 2 ^ 12 + p.toNat * 2 ^ 8) = some (nb, word) := henc
  obtain ⟨rfl, hsum⟩ := words_of hword
  have sum : word = joined [(1, 1), (7, 0x62), (4, p.toNat), (1, n.toNat), (6, d.toNat), (1, 0), (4, a.toNat), (1, 0), (1, w.toNat), (2, 2), (1, l.toNat), (3, c.toNat)] := by
    rw [← hsum]
    simp only [joined]
    ring
  have hf : Fits [(1, 1), (7, 0x62), (4, p.toNat), (1, n.toNat), (6, d.toNat), (1, 0), (4, a.toNat), (1, 0), (1, w.toNat), (2, 2), (1, l.toNat), (3, c.toNat)] :=
    ⟨by decide, by decide, p.isLt, n.isLt, d.isLt, by decide, a.isLt, by decide, w.isLt, by decide, l.isLt, c.isLt, trivial⟩
  refine decode_odd (by omega) ?_ hwf
  rw [fields_62 (number_at sum hf 1 rfl rfl), decodeMajor62, if_neg (fun hc => absurd ((number_at sum hf 9 (lo := 26) rfl rfl).symm.trans hc.2.2) (by decide)), if_neg (fun hc => absurd ((number_at sum hf 9 (lo := 26) rfl rfl).symm.trans hc.2.2) (by decide)), if_pos ⟨number_at sum hf 5 (lo := 19) rfl rfl, number_at sum hf 7 (lo := 24) rfl rfl, number_at sum hf 9 (lo := 26) rfl rfl⟩]
  rw [field_at sum hf 11 (lo := 29) (f := c) rfl rfl, field_at sum hf 10 (lo := 28) (f := l) rfl rfl, field_at sum hf 8 (lo := 25) (f := w) rfl rfl, field_at sum hf 6 (lo := 20) (f := a) rfl rfl, field_at sum hf 4 (lo := 13) (f := d) rfl rfl, field_at sum hf 3 (lo := 12) (f := n) rfl rfl, field_at sum hf 2 (lo := 8) (f := p) rfl rfl]

theorem Encodes.atomFminF32 (c : BitVec 3) (l : BitVec 1) (a : BitVec 4) (d : BitVec 6) (n : BitVec 1) (p : BitVec 4) : Encodes.Statement (.atomFminF32 c l a d n p) := by
  intro hwf nb word henc
  have hword : some (32, 0xc0000c5 + c.toNat * 2 ^ 29 + l.toNat * 2 ^ 28 + a.toNat * 2 ^ 20 + d.toNat * 2 ^ 13 + n.toNat * 2 ^ 12 + p.toNat * 2 ^ 8) = some (nb, word) := henc
  obtain ⟨rfl, hsum⟩ := words_of hword
  have sum : word = joined [(1, 1), (7, 0x62), (4, p.toNat), (1, n.toNat), (6, d.toNat), (1, 0), (4, a.toNat), (4, 12), (1, l.toNat), (3, c.toNat)] := by
    rw [← hsum]
    simp only [joined]
    ring
  have hf : Fits [(1, 1), (7, 0x62), (4, p.toNat), (1, n.toNat), (6, d.toNat), (1, 0), (4, a.toNat), (4, 12), (1, l.toNat), (3, c.toNat)] :=
    ⟨by decide, by decide, p.isLt, n.isLt, d.isLt, by decide, a.isLt, by decide, l.isLt, c.isLt, trivial⟩
  refine decode_odd (by omega) ?_ hwf
  rw [fields_62 (number_at sum hf 1 rfl rfl), decodeMajor62, if_neg (by unfold nbits; have := c.isLt; have := l.isLt; have := a.isLt; have := d.isLt; have := n.isLt; have := p.isLt; omega), if_neg (by unfold nbits; have := c.isLt; have := l.isLt; have := a.isLt; have := d.isLt; have := n.isLt; have := p.isLt; omega), if_neg (by unfold nbits; have := c.isLt; have := l.isLt; have := a.isLt; have := d.isLt; have := n.isLt; have := p.isLt; omega), if_pos ⟨number_at sum hf 5 (lo := 19) rfl rfl, number_at sum hf 7 (lo := 24) rfl rfl⟩]
  rw [field_at sum hf 9 (lo := 29) (f := c) rfl rfl, field_at sum hf 8 (lo := 28) (f := l) rfl rfl, field_at sum hf 6 (lo := 20) (f := a) rfl rfl, field_at sum hf 4 (lo := 13) (f := d) rfl rfl, field_at sum hf 3 (lo := 12) (f := n) rfl rfl, field_at sum hf 2 (lo := 8) (f := p) rfl rfl]

theorem Encodes.atomFmaxF32 (c : BitVec 3) (l : BitVec 1) (a : BitVec 4) (d : BitVec 6) (n : BitVec 1) (p : BitVec 4) : Encodes.Statement (.atomFmaxF32 c l a d n p) := by
  intro hwf nb word henc
  have hword : some (32, 0xe0000c5 + c.toNat * 2 ^ 29 + l.toNat * 2 ^ 28 + a.toNat * 2 ^ 20 + d.toNat * 2 ^ 13 + n.toNat * 2 ^ 12 + p.toNat * 2 ^ 8) = some (nb, word) := henc
  obtain ⟨rfl, hsum⟩ := words_of hword
  have sum : word = joined [(1, 1), (7, 0x62), (4, p.toNat), (1, n.toNat), (6, d.toNat), (1, 0), (4, a.toNat), (4, 14), (1, l.toNat), (3, c.toNat)] := by
    rw [← hsum]
    simp only [joined]
    ring
  have hf : Fits [(1, 1), (7, 0x62), (4, p.toNat), (1, n.toNat), (6, d.toNat), (1, 0), (4, a.toNat), (4, 14), (1, l.toNat), (3, c.toNat)] :=
    ⟨by decide, by decide, p.isLt, n.isLt, d.isLt, by decide, a.isLt, by decide, l.isLt, c.isLt, trivial⟩
  refine decode_odd (by omega) ?_ hwf
  rw [fields_62 (number_at sum hf 1 rfl rfl), decodeMajor62, if_neg (by unfold nbits; have := c.isLt; have := l.isLt; have := a.isLt; have := d.isLt; have := n.isLt; have := p.isLt; omega), if_neg (by unfold nbits; have := c.isLt; have := l.isLt; have := a.isLt; have := d.isLt; have := n.isLt; have := p.isLt; omega), if_neg (by unfold nbits; have := c.isLt; have := l.isLt; have := a.isLt; have := d.isLt; have := n.isLt; have := p.isLt; omega), if_neg (fun hc => absurd ((number_at sum hf 7 (lo := 24) rfl rfl).symm.trans hc.2) (by decide)), if_pos ⟨number_at sum hf 5 (lo := 19) rfl rfl, number_at sum hf 7 (lo := 24) rfl rfl⟩]
  rw [field_at sum hf 9 (lo := 29) (f := c) rfl rfl, field_at sum hf 8 (lo := 28) (f := l) rfl rfl, field_at sum hf 6 (lo := 20) (f := a) rfl rfl, field_at sum hf 4 (lo := 13) (f := d) rfl rfl, field_at sum hf 3 (lo := 12) (f := n) rfl rfl, field_at sum hf 2 (lo := 8) (f := p) rfl rfl]

theorem Encodes.redIntW (c : BitVec 3) (l : BitVec 1) (u : BitVec 3) (a : BitVec 4) (d : BitVec 6) (n : BitVec 1) (p : BitVec 4) : Encodes.Statement (.redIntW c l u a d n p) := by
  intro hwf nb word henc
  have hword : some (32, 0xc7 + c.toNat * 2 ^ 29 + l.toNat * 2 ^ 28 + u.toNat * 2 ^ 25 + a.toNat * 2 ^ 20 + d.toNat * 2 ^ 13 + n.toNat * 2 ^ 12 + p.toNat * 2 ^ 8) = some (nb, word) := henc
  obtain ⟨rfl, hsum⟩ := words_of hword
  have sum : word = joined [(1, 1), (7, 0x63), (4, p.toNat), (1, n.toNat), (6, d.toNat), (1, 0), (4, a.toNat), (1, 0), (3, u.toNat), (1, l.toNat), (3, c.toNat)] := by
    rw [← hsum]
    simp only [joined]
    ring
  have hf : Fits [(1, 1), (7, 0x63), (4, p.toNat), (1, n.toNat), (6, d.toNat), (1, 0), (4, a.toNat), (1, 0), (3, u.toNat), (1, l.toNat), (3, c.toNat)] :=
    ⟨by decide, by decide, p.isLt, n.isLt, d.isLt, by decide, a.isLt, by decide, u.isLt, l.isLt, c.isLt, trivial⟩
  refine decode_odd (by omega) ?_ hwf
  rw [fields_63 (number_at sum hf 1 rfl rfl), decodeMajor63, if_pos ⟨number_at sum hf 5 (lo := 19) rfl rfl, number_at sum hf 7 (lo := 24) rfl rfl⟩]
  rw [field_at sum hf 10 (lo := 29) (f := c) rfl rfl, field_at sum hf 9 (lo := 28) (f := l) rfl rfl, field_at sum hf 8 (lo := 25) (f := u) rfl rfl, field_at sum hf 6 (lo := 20) (f := a) rfl rfl, field_at sum hf 4 (lo := 13) (f := d) rfl rfl, field_at sum hf 3 (lo := 12) (f := n) rfl rfl, field_at sum hf 2 (lo := 8) (f := p) rfl rfl]

theorem Encodes.redIntD (c : BitVec 3) (l : BitVec 1) (u : BitVec 3) (a : BitVec 4) (d : BitVec 6) (n : BitVec 1) (p : BitVec 4) : Encodes.Statement (.redIntD c l u a d n p) := by
  intro hwf nb word henc
  have hword : some (32, 0xc9 + c.toNat * 2 ^ 29 + l.toNat * 2 ^ 28 + u.toNat * 2 ^ 25 + a.toNat * 2 ^ 20 + d.toNat * 2 ^ 13 + n.toNat * 2 ^ 12 + p.toNat * 2 ^ 8) = some (nb, word) := henc
  obtain ⟨rfl, hsum⟩ := words_of hword
  have sum : word = joined [(1, 1), (7, 0x64), (4, p.toNat), (1, n.toNat), (6, d.toNat), (1, 0), (4, a.toNat), (1, 0), (3, u.toNat), (1, l.toNat), (3, c.toNat)] := by
    rw [← hsum]
    simp only [joined]
    ring
  have hf : Fits [(1, 1), (7, 0x64), (4, p.toNat), (1, n.toNat), (6, d.toNat), (1, 0), (4, a.toNat), (1, 0), (3, u.toNat), (1, l.toNat), (3, c.toNat)] :=
    ⟨by decide, by decide, p.isLt, n.isLt, d.isLt, by decide, a.isLt, by decide, u.isLt, l.isLt, c.isLt, trivial⟩
  refine decode_odd (by omega) ?_ hwf
  rw [fields_64 (number_at sum hf 1 rfl rfl), decodeMajor64, if_pos ⟨number_at sum hf 5 (lo := 19) rfl rfl, number_at sum hf 7 (lo := 24) rfl rfl⟩]
  rw [field_at sum hf 10 (lo := 29) (f := c) rfl rfl, field_at sum hf 9 (lo := 28) (f := l) rfl rfl, field_at sum hf 8 (lo := 25) (f := u) rfl rfl, field_at sum hf 6 (lo := 20) (f := a) rfl rfl, field_at sum hf 4 (lo := 13) (f := d) rfl rfl, field_at sum hf 3 (lo := 12) (f := n) rfl rfl, field_at sum hf 2 (lo := 8) (f := p) rfl rfl]

theorem Encodes.redFloat (c : BitVec 3) (l : BitVec 1) (u : BitVec 3) (a : BitVec 4) (d : BitVec 6) (n : BitVec 1) (p : BitVec 4) : Encodes.Statement (.redFloat c l u a d n p) := by
  intro hwf nb word henc
  have hword : some (32, 0xcb + c.toNat * 2 ^ 29 + l.toNat * 2 ^ 28 + u.toNat * 2 ^ 25 + a.toNat * 2 ^ 20 + d.toNat * 2 ^ 13 + n.toNat * 2 ^ 12 + p.toNat * 2 ^ 8) = some (nb, word) := henc
  obtain ⟨rfl, hsum⟩ := words_of hword
  have sum : word = joined [(1, 1), (7, 0x65), (4, p.toNat), (1, n.toNat), (6, d.toNat), (1, 0), (4, a.toNat), (1, 0), (3, u.toNat), (1, l.toNat), (3, c.toNat)] := by
    rw [← hsum]
    simp only [joined]
    ring
  have hf : Fits [(1, 1), (7, 0x65), (4, p.toNat), (1, n.toNat), (6, d.toNat), (1, 0), (4, a.toNat), (1, 0), (3, u.toNat), (1, l.toNat), (3, c.toNat)] :=
    ⟨by decide, by decide, p.isLt, n.isLt, d.isLt, by decide, a.isLt, by decide, u.isLt, l.isLt, c.isLt, trivial⟩
  refine decode_odd (by omega) ?_ hwf
  rw [fields_65 (number_at sum hf 1 rfl rfl), decodeMajor65, if_pos ⟨number_at sum hf 5 (lo := 19) rfl rfl, number_at sum hf 7 (lo := 24) rfl rfl⟩]
  rw [field_at sum hf 10 (lo := 29) (f := c) rfl rfl, field_at sum hf 9 (lo := 28) (f := l) rfl rfl, field_at sum hf 8 (lo := 25) (f := u) rfl rfl, field_at sum hf 6 (lo := 20) (f := a) rfl rfl, field_at sum hf 4 (lo := 13) (f := d) rfl rfl, field_at sum hf 3 (lo := 12) (f := n) rfl rfl, field_at sum hf 2 (lo := 8) (f := p) rfl rfl]

theorem Encodes.capld (l : BitVec 4) (b : BitVec 3) (o : BitVec 6) (c : BitVec 3) (n : BitVec 1) (p : BitVec 4) : Encodes.Statement (.capld l b o c n p) := by
  intro hwf nb word henc
  have hword : some (32, 0xcd + l.toNat * 2 ^ 28 + b.toNat * 2 ^ 25 + o.toNat * 2 ^ 19 + c.toNat * 2 ^ 13 + n.toNat * 2 ^ 12 + p.toNat * 2 ^ 8) = some (nb, word) := henc
  obtain ⟨rfl, hsum⟩ := words_of hword
  have sum : word = joined [(1, 1), (7, 0x66), (4, p.toNat), (1, n.toNat), (3, c.toNat), (3, 0), (6, o.toNat), (3, b.toNat), (4, l.toNat)] := by
    rw [← hsum]
    simp only [joined]
    ring
  have hf : Fits [(1, 1), (7, 0x66), (4, p.toNat), (1, n.toNat), (3, c.toNat), (3, 0), (6, o.toNat), (3, b.toNat), (4, l.toNat)] :=
    ⟨by decide, by decide, p.isLt, n.isLt, c.isLt, by decide, o.isLt, b.isLt, l.isLt, trivial⟩
  refine decode_odd (by omega) ?_ hwf
  rw [fields_66 (number_at sum hf 1 rfl rfl), decodeMajor66, if_pos (number_at sum hf 5 (lo := 16) rfl rfl)]
  rw [field_at sum hf 8 (lo := 28) (f := l) rfl rfl, field_at sum hf 7 (lo := 25) (f := b) rfl rfl, field_at sum hf 6 (lo := 19) (f := o) rfl rfl, field_at sum hf 4 (lo := 13) (f := c) rfl rfl, field_at sum hf 3 (lo := 12) (f := n) rfl rfl, field_at sum hf 2 (lo := 8) (f := p) rfl rfl]

theorem Encodes.capst (l : BitVec 4) (b : BitVec 3) (o : BitVec 6) (c : BitVec 3) (n : BitVec 1) (p : BitVec 4) : Encodes.Statement (.capst l b o c n p) := by
  intro hwf nb word henc
  have hword : some (32, 0xcf + l.toNat * 2 ^ 28 + b.toNat * 2 ^ 25 + o.toNat * 2 ^ 19 + c.toNat * 2 ^ 13 + n.toNat * 2 ^ 12 + p.toNat * 2 ^ 8) = some (nb, word) := henc
  obtain ⟨rfl, hsum⟩ := words_of hword
  have sum : word = joined [(1, 1), (7, 0x67), (4, p.toNat), (1, n.toNat), (3, c.toNat), (3, 0), (6, o.toNat), (3, b.toNat), (4, l.toNat)] := by
    rw [← hsum]
    simp only [joined]
    ring
  have hf : Fits [(1, 1), (7, 0x67), (4, p.toNat), (1, n.toNat), (3, c.toNat), (3, 0), (6, o.toNat), (3, b.toNat), (4, l.toNat)] :=
    ⟨by decide, by decide, p.isLt, n.isLt, c.isLt, by decide, o.isLt, b.isLt, l.isLt, trivial⟩
  refine decode_odd (by omega) ?_ hwf
  rw [fields_67 (number_at sum hf 1 rfl rfl), decodeMajor67, if_pos (number_at sum hf 5 (lo := 16) rfl rfl)]
  rw [field_at sum hf 8 (lo := 28) (f := l) rfl rfl, field_at sum hf 7 (lo := 25) (f := b) rfl rfl, field_at sum hf 6 (lo := 19) (f := o) rfl rfl, field_at sum hf 4 (lo := 13) (f := c) rfl rfl, field_at sum hf 3 (lo := 12) (f := n) rfl rfl, field_at sum hf 2 (lo := 8) (f := p) rfl rfl]

theorem Encodes.xset (l : BitVec 4) (a : BitVec 6) (x : BitVec 3) (n : BitVec 1) (p : BitVec 4) : Encodes.Statement (.xset l a x n p) := by
  intro hwf nb word henc
  have hword : some (32, 0xd1 + l.toNat * 2 ^ 28 + a.toNat * 2 ^ 19 + x.toNat * 2 ^ 13 + n.toNat * 2 ^ 12 + p.toNat * 2 ^ 8) = some (nb, word) := henc
  obtain ⟨rfl, hsum⟩ := words_of hword
  have sum : word = joined [(1, 1), (7, 0x68), (4, p.toNat), (1, n.toNat), (3, x.toNat), (3, 0), (6, a.toNat), (3, 0), (4, l.toNat)] := by
    rw [← hsum]
    simp only [joined]
    ring
  have hf : Fits [(1, 1), (7, 0x68), (4, p.toNat), (1, n.toNat), (3, x.toNat), (3, 0), (6, a.toNat), (3, 0), (4, l.toNat)] :=
    ⟨by decide, by decide, p.isLt, n.isLt, x.isLt, by decide, a.isLt, by decide, l.isLt, trivial⟩
  refine decode_odd (by omega) ?_ hwf
  rw [fields_68 (number_at sum hf 1 rfl rfl), decodeMajor68, if_pos ⟨number_at sum hf 5 (lo := 16) rfl rfl, number_at sum hf 7 (lo := 25) rfl rfl⟩]
  rw [field_at sum hf 8 (lo := 28) (f := l) rfl rfl, field_at sum hf 6 (lo := 19) (f := a) rfl rfl, field_at sum hf 4 (lo := 13) (f := x) rfl rfl, field_at sum hf 3 (lo := 12) (f := n) rfl rfl, field_at sum hf 2 (lo := 8) (f := p) rfl rfl]

theorem Encodes.xget (l : BitVec 4) (x : BitVec 3) (d : BitVec 6) (n : BitVec 1) (p : BitVec 4) : Encodes.Statement (.xget l x d n p) := by
  intro hwf nb word henc
  have hword : some (32, 0x20000d1 + l.toNat * 2 ^ 28 + x.toNat * 2 ^ 19 + d.toNat * 2 ^ 13 + n.toNat * 2 ^ 12 + p.toNat * 2 ^ 8) = some (nb, word) := henc
  obtain ⟨rfl, hsum⟩ := words_of hword
  have sum : word = joined [(1, 1), (7, 0x68), (4, p.toNat), (1, n.toNat), (6, d.toNat), (3, x.toNat), (6, 8), (4, l.toNat)] := by
    rw [← hsum]
    simp only [joined]
    ring
  have hf : Fits [(1, 1), (7, 0x68), (4, p.toNat), (1, n.toNat), (6, d.toNat), (3, x.toNat), (6, 8), (4, l.toNat)] :=
    ⟨by decide, by decide, p.isLt, n.isLt, d.isLt, x.isLt, by decide, l.isLt, trivial⟩
  refine decode_odd (by omega) ?_ hwf
  rw [fields_68 (number_at sum hf 1 rfl rfl), decodeMajor68, if_neg (by unfold nbits; have := l.isLt; have := x.isLt; have := d.isLt; have := n.isLt; have := p.isLt; omega), if_pos (number_at sum hf 6 (lo := 22) rfl rfl)]
  rw [field_at sum hf 7 (lo := 28) (f := l) rfl rfl, field_at sum hf 5 (lo := 19) (f := x) rfl rfl, field_at sum hf 4 (lo := 13) (f := d) rfl rfl, field_at sum hf 3 (lo := 12) (f := n) rfl rfl, field_at sum hf 2 (lo := 8) (f := p) rfl rfl]

theorem Encodes.xstep (l : BitVec 4) (a : BitVec 6) (x : BitVec 3) (n : BitVec 1) (p : BitVec 4) : Encodes.Statement (.xstep l a x n p) := by
  intro hwf nb word henc
  have hword : some (32, 0x40000d1 + l.toNat * 2 ^ 28 + a.toNat * 2 ^ 19 + x.toNat * 2 ^ 13 + n.toNat * 2 ^ 12 + p.toNat * 2 ^ 8) = some (nb, word) := henc
  obtain ⟨rfl, hsum⟩ := words_of hword
  have sum : word = joined [(1, 1), (7, 0x68), (4, p.toNat), (1, n.toNat), (3, x.toNat), (3, 0), (6, a.toNat), (3, 2), (4, l.toNat)] := by
    rw [← hsum]
    simp only [joined]
    ring
  have hf : Fits [(1, 1), (7, 0x68), (4, p.toNat), (1, n.toNat), (3, x.toNat), (3, 0), (6, a.toNat), (3, 2), (4, l.toNat)] :=
    ⟨by decide, by decide, p.isLt, n.isLt, x.isLt, by decide, a.isLt, by decide, l.isLt, trivial⟩
  refine decode_odd (by omega) ?_ hwf
  rw [fields_68 (number_at sum hf 1 rfl rfl), decodeMajor68, if_neg (fun hc => absurd ((number_at sum hf 7 (lo := 25) rfl rfl).symm.trans hc.2) (by decide)), if_neg (by unfold nbits; have := l.isLt; have := a.isLt; have := x.isLt; have := n.isLt; have := p.isLt; omega), if_pos ⟨number_at sum hf 5 (lo := 16) rfl rfl, number_at sum hf 7 (lo := 25) rfl rfl⟩]
  rw [field_at sum hf 8 (lo := 28) (f := l) rfl rfl, field_at sum hf 6 (lo := 19) (f := a) rfl rfl, field_at sum hf 4 (lo := 13) (f := x) rfl rfl, field_at sum hf 3 (lo := 12) (f := n) rfl rfl, field_at sum hf 2 (lo := 8) (f := p) rfl rfl]

theorem Encodes.xcur (l : BitVec 4) (a : BitVec 6) (x : BitVec 3) (n : BitVec 1) (p : BitVec 4) : Encodes.Statement (.xcur l a x n p) := by
  intro hwf nb word henc
  have hword : some (32, 0x60000d1 + l.toNat * 2 ^ 28 + a.toNat * 2 ^ 19 + x.toNat * 2 ^ 13 + n.toNat * 2 ^ 12 + p.toNat * 2 ^ 8) = some (nb, word) := henc
  obtain ⟨rfl, hsum⟩ := words_of hword
  have sum : word = joined [(1, 1), (7, 0x68), (4, p.toNat), (1, n.toNat), (3, x.toNat), (3, 0), (6, a.toNat), (3, 3), (4, l.toNat)] := by
    rw [← hsum]
    simp only [joined]
    ring
  have hf : Fits [(1, 1), (7, 0x68), (4, p.toNat), (1, n.toNat), (3, x.toNat), (3, 0), (6, a.toNat), (3, 3), (4, l.toNat)] :=
    ⟨by decide, by decide, p.isLt, n.isLt, x.isLt, by decide, a.isLt, by decide, l.isLt, trivial⟩
  refine decode_odd (by omega) ?_ hwf
  rw [fields_68 (number_at sum hf 1 rfl rfl), decodeMajor68, if_neg (fun hc => absurd ((number_at sum hf 7 (lo := 25) rfl rfl).symm.trans hc.2) (by decide)), if_neg (by unfold nbits; have := l.isLt; have := a.isLt; have := x.isLt; have := n.isLt; have := p.isLt; omega), if_neg (fun hc => absurd ((number_at sum hf 7 (lo := 25) rfl rfl).symm.trans hc.2) (by decide)), if_pos ⟨number_at sum hf 5 (lo := 16) rfl rfl, number_at sum hf 7 (lo := 25) rfl rfl⟩]
  rw [field_at sum hf 8 (lo := 28) (f := l) rfl rfl, field_at sum hf 6 (lo := 19) (f := a) rfl rfl, field_at sum hf 4 (lo := 13) (f := x) rfl rfl, field_at sum hf 3 (lo := 12) (f := n) rfl rfl, field_at sum hf 2 (lo := 8) (f := p) rfl rfl]

theorem Encodes.putreg (v : BitVec 1) (c : BitVec 3) (a : BitVec 6) (t : BitVec 5) (n : BitVec 1) (p : BitVec 4) : Encodes.Statement (.putreg v c a t n p) := by
  intro hwf nb word henc
  have hword : some (32, 0xd3 + v.toNat * 2 ^ 31 + c.toNat * 2 ^ 25 + a.toNat * 2 ^ 19 + t.toNat * 2 ^ 13 + n.toNat * 2 ^ 12 + p.toNat * 2 ^ 8) = some (nb, word) := henc
  obtain ⟨rfl, hsum⟩ := words_of hword
  have sum : word = joined [(1, 1), (7, 0x69), (4, p.toNat), (1, n.toNat), (5, t.toNat), (1, 0), (6, a.toNat), (3, c.toNat), (3, 0), (1, v.toNat)] := by
    rw [← hsum]
    simp only [joined]
    ring
  have hf : Fits [(1, 1), (7, 0x69), (4, p.toNat), (1, n.toNat), (5, t.toNat), (1, 0), (6, a.toNat), (3, c.toNat), (3, 0), (1, v.toNat)] :=
    ⟨by decide, by decide, p.isLt, n.isLt, t.isLt, by decide, a.isLt, c.isLt, by decide, v.isLt, trivial⟩
  refine decode_odd (by omega) ?_ hwf
  rw [fields_69 (number_at sum hf 1 rfl rfl), decodeMajor69, if_pos ⟨number_at sum hf 5 (lo := 18) rfl rfl, number_at sum hf 8 (lo := 28) rfl rfl⟩]
  rw [field_at sum hf 9 (lo := 31) (f := v) rfl rfl, field_at sum hf 7 (lo := 25) (f := c) rfl rfl, field_at sum hf 6 (lo := 19) (f := a) rfl rfl, field_at sum hf 4 (lo := 13) (f := t) rfl rfl, field_at sum hf 3 (lo := 12) (f := n) rfl rfl, field_at sum hf 2 (lo := 8) (f := p) rfl rfl]

theorem Encodes.hold (l : BitVec 4) (d : BitVec 6) (n : BitVec 1) (p : BitVec 4) : Encodes.Statement (.hold l d n p) := by
  intro hwf nb word henc
  have hword : some (32, 0xd5 + l.toNat * 2 ^ 28 + d.toNat * 2 ^ 13 + n.toNat * 2 ^ 12 + p.toNat * 2 ^ 8) = some (nb, word) := henc
  obtain ⟨rfl, hsum⟩ := words_of hword
  have sum : word = joined [(1, 1), (7, 0x6a), (4, p.toNat), (1, n.toNat), (6, d.toNat), (9, 0), (4, l.toNat)] := by
    rw [← hsum]
    simp only [joined]
    ring
  have hf : Fits [(1, 1), (7, 0x6a), (4, p.toNat), (1, n.toNat), (6, d.toNat), (9, 0), (4, l.toNat)] :=
    ⟨by decide, by decide, p.isLt, n.isLt, d.isLt, by decide, l.isLt, trivial⟩
  refine decode_odd (by omega) ?_ hwf
  rw [fields_6a (number_at sum hf 1 rfl rfl), decodeMajor6a, if_pos (number_at sum hf 5 (lo := 19) rfl rfl)]
  rw [field_at sum hf 6 (lo := 28) (f := l) rfl rfl, field_at sum hf 4 (lo := 13) (f := d) rfl rfl, field_at sum hf 3 (lo := 12) (f := n) rfl rfl, field_at sum hf 2 (lo := 8) (f := p) rfl rfl]

theorem Encodes.gname (l : BitVec 4) (c : BitVec 3) (n : BitVec 1) (p : BitVec 4) : Encodes.Statement (.gname l c n p) := by
  intro hwf nb word henc
  have hword : some (32, 0x20000d5 + l.toNat * 2 ^ 28 + c.toNat * 2 ^ 13 + n.toNat * 2 ^ 12 + p.toNat * 2 ^ 8) = some (nb, word) := henc
  obtain ⟨rfl, hsum⟩ := words_of hword
  have sum : word = joined [(1, 1), (7, 0x6a), (4, p.toNat), (1, n.toNat), (3, c.toNat), (12, 512), (4, l.toNat)] := by
    rw [← hsum]
    simp only [joined]
    ring
  have hf : Fits [(1, 1), (7, 0x6a), (4, p.toNat), (1, n.toNat), (3, c.toNat), (12, 512), (4, l.toNat)] :=
    ⟨by decide, by decide, p.isLt, n.isLt, c.isLt, by decide, l.isLt, trivial⟩
  refine decode_odd (by omega) ?_ hwf
  rw [fields_6a (number_at sum hf 1 rfl rfl), decodeMajor6a, if_neg (by unfold nbits; have := l.isLt; have := c.isLt; have := n.isLt; have := p.isLt; omega), if_pos (number_at sum hf 5 (lo := 16) rfl rfl)]
  rw [field_at sum hf 6 (lo := 28) (f := l) rfl rfl, field_at sum hf 4 (lo := 13) (f := c) rfl rfl, field_at sum hf 3 (lo := 12) (f := n) rfl rfl, field_at sum hf 2 (lo := 8) (f := p) rfl rfl]

theorem Encodes.sjoin (l : BitVec 4) (a : BitVec 6) (n : BitVec 1) (p : BitVec 4) : Encodes.Statement (.sjoin l a n p) := by
  intro hwf nb word henc
  have hword : some (32, 0x40000d5 + l.toNat * 2 ^ 28 + a.toNat * 2 ^ 19 + n.toNat * 2 ^ 12 + p.toNat * 2 ^ 8) = some (nb, word) := henc
  obtain ⟨rfl, hsum⟩ := words_of hword
  have sum : word = joined [(1, 1), (7, 0x6a), (4, p.toNat), (1, n.toNat), (6, 0), (6, a.toNat), (3, 2), (4, l.toNat)] := by
    rw [← hsum]
    simp only [joined]
    ring
  have hf : Fits [(1, 1), (7, 0x6a), (4, p.toNat), (1, n.toNat), (6, 0), (6, a.toNat), (3, 2), (4, l.toNat)] :=
    ⟨by decide, by decide, p.isLt, n.isLt, by decide, a.isLt, by decide, l.isLt, trivial⟩
  refine decode_odd (by omega) ?_ hwf
  rw [fields_6a (number_at sum hf 1 rfl rfl), decodeMajor6a, if_neg (by unfold nbits; have := l.isLt; have := a.isLt; have := n.isLt; have := p.isLt; omega), if_neg (by unfold nbits; have := l.isLt; have := a.isLt; have := n.isLt; have := p.isLt; omega), if_pos ⟨number_at sum hf 4 (lo := 13) rfl rfl, number_at sum hf 6 (lo := 25) rfl rfl⟩]
  rw [field_at sum hf 7 (lo := 28) (f := l) rfl rfl, field_at sum hf 5 (lo := 19) (f := a) rfl rfl, field_at sum hf 3 (lo := 12) (f := n) rfl rfl, field_at sum hf 2 (lo := 8) (f := p) rfl rfl]

theorem Encodes.sleave (l : BitVec 4) (a : BitVec 6) (n : BitVec 1) (p : BitVec 4) : Encodes.Statement (.sleave l a n p) := by
  intro hwf nb word henc
  have hword : some (32, 0x60000d5 + l.toNat * 2 ^ 28 + a.toNat * 2 ^ 19 + n.toNat * 2 ^ 12 + p.toNat * 2 ^ 8) = some (nb, word) := henc
  obtain ⟨rfl, hsum⟩ := words_of hword
  have sum : word = joined [(1, 1), (7, 0x6a), (4, p.toNat), (1, n.toNat), (6, 0), (6, a.toNat), (3, 3), (4, l.toNat)] := by
    rw [← hsum]
    simp only [joined]
    ring
  have hf : Fits [(1, 1), (7, 0x6a), (4, p.toNat), (1, n.toNat), (6, 0), (6, a.toNat), (3, 3), (4, l.toNat)] :=
    ⟨by decide, by decide, p.isLt, n.isLt, by decide, a.isLt, by decide, l.isLt, trivial⟩
  refine decode_odd (by omega) ?_ hwf
  rw [fields_6a (number_at sum hf 1 rfl rfl), decodeMajor6a, if_neg (by unfold nbits; have := l.isLt; have := a.isLt; have := n.isLt; have := p.isLt; omega), if_neg (by unfold nbits; have := l.isLt; have := a.isLt; have := n.isLt; have := p.isLt; omega), if_neg (fun hc => absurd ((number_at sum hf 6 (lo := 25) rfl rfl).symm.trans hc.2) (by decide)), if_pos ⟨number_at sum hf 4 (lo := 13) rfl rfl, number_at sum hf 6 (lo := 25) rfl rfl⟩]
  rw [field_at sum hf 7 (lo := 28) (f := l) rfl rfl, field_at sum hf 5 (lo := 19) (f := a) rfl rfl, field_at sum hf 3 (lo := 12) (f := n) rfl rfl, field_at sum hf 2 (lo := 8) (f := p) rfl rfl]

theorem Encodes.smap (l : BitVec 4) (a : BitVec 4) (t : BitVec 6) (n : BitVec 1) (p : BitVec 4) : Encodes.Statement (.smap l a t n p) := by
  intro hwf nb word henc
  have hword : some (32, 0x80000d5 + l.toNat * 2 ^ 28 + a.toNat * 2 ^ 20 + t.toNat * 2 ^ 13 + n.toNat * 2 ^ 12 + p.toNat * 2 ^ 8) = some (nb, word) := henc
  obtain ⟨rfl, hsum⟩ := words_of hword
  have sum : word = joined [(1, 1), (7, 0x6a), (4, p.toNat), (1, n.toNat), (6, t.toNat), (1, 0), (4, a.toNat), (4, 8), (4, l.toNat)] := by
    rw [← hsum]
    simp only [joined]
    ring
  have hf : Fits [(1, 1), (7, 0x6a), (4, p.toNat), (1, n.toNat), (6, t.toNat), (1, 0), (4, a.toNat), (4, 8), (4, l.toNat)] :=
    ⟨by decide, by decide, p.isLt, n.isLt, t.isLt, by decide, a.isLt, by decide, l.isLt, trivial⟩
  refine decode_odd (by omega) ?_ hwf
  rw [fields_6a (number_at sum hf 1 rfl rfl), decodeMajor6a, if_neg (by unfold nbits; have := l.isLt; have := a.isLt; have := t.isLt; have := n.isLt; have := p.isLt; omega), if_neg (by unfold nbits; have := l.isLt; have := a.isLt; have := t.isLt; have := n.isLt; have := p.isLt; omega), if_neg (by unfold nbits; have := l.isLt; have := a.isLt; have := t.isLt; have := n.isLt; have := p.isLt; omega), if_neg (by unfold nbits; have := l.isLt; have := a.isLt; have := t.isLt; have := n.isLt; have := p.isLt; omega), if_pos ⟨number_at sum hf 5 (lo := 19) rfl rfl, number_at sum hf 7 (lo := 24) rfl rfl⟩]
  rw [field_at sum hf 8 (lo := 28) (f := l) rfl rfl, field_at sum hf 6 (lo := 20) (f := a) rfl rfl, field_at sum hf 4 (lo := 13) (f := t) rfl rfl, field_at sum hf 3 (lo := 12) (f := n) rfl rfl, field_at sum hf 2 (lo := 8) (f := p) rfl rfl]

theorem Encodes.ldc (w : BitVec 3) (l : BitVec 1) (c : BitVec 3) (o : BitVec 6) (d : BitVec 6) (n : BitVec 1) (p : BitVec 4) : Encodes.Statement (.ldc w l c o d n p) := by
  intro hwf nb word henc
  have hword : some (32, 0xd7 + w.toNat * 2 ^ 29 + l.toNat * 2 ^ 28 + c.toNat * 2 ^ 25 + o.toNat * 2 ^ 19 + d.toNat * 2 ^ 13 + n.toNat * 2 ^ 12 + p.toNat * 2 ^ 8) = some (nb, word) := henc
  obtain ⟨rfl, hsum⟩ := words_of hword
  have sum : word = joined [(1, 1), (7, 0x6b), (4, p.toNat), (1, n.toNat), (6, d.toNat), (6, o.toNat), (3, c.toNat), (1, l.toNat), (3, w.toNat)] := by
    rw [← hsum]
    simp only [joined]
    ring
  have hf : Fits [(1, 1), (7, 0x6b), (4, p.toNat), (1, n.toNat), (6, d.toNat), (6, o.toNat), (3, c.toNat), (1, l.toNat), (3, w.toNat)] :=
    ⟨by decide, by decide, p.isLt, n.isLt, d.isLt, o.isLt, c.isLt, l.isLt, w.isLt, trivial⟩
  refine decode_odd (by omega) ?_ hwf
  rw [fields_6b (number_at sum hf 1 rfl rfl), decodeMajor6b]
  rw [field_at sum hf 8 (lo := 29) (f := w) rfl rfl, field_at sum hf 7 (lo := 28) (f := l) rfl rfl, field_at sum hf 6 (lo := 25) (f := c) rfl rfl, field_at sum hf 5 (lo := 19) (f := o) rfl rfl, field_at sum hf 4 (lo := 13) (f := d) rfl rfl, field_at sum hf 3 (lo := 12) (f := n) rfl rfl, field_at sum hf 2 (lo := 8) (f := p) rfl rfl]

theorem Encodes.stc (w : BitVec 3) (l : BitVec 1) (c : BitVec 3) (o : BitVec 6) (d : BitVec 6) (n : BitVec 1) (p : BitVec 4) : Encodes.Statement (.stc w l c o d n p) := by
  intro hwf nb word henc
  have hword : some (32, 0xd9 + w.toNat * 2 ^ 29 + l.toNat * 2 ^ 28 + c.toNat * 2 ^ 25 + o.toNat * 2 ^ 19 + d.toNat * 2 ^ 13 + n.toNat * 2 ^ 12 + p.toNat * 2 ^ 8) = some (nb, word) := henc
  obtain ⟨rfl, hsum⟩ := words_of hword
  have sum : word = joined [(1, 1), (7, 0x6c), (4, p.toNat), (1, n.toNat), (6, d.toNat), (6, o.toNat), (3, c.toNat), (1, l.toNat), (3, w.toNat)] := by
    rw [← hsum]
    simp only [joined]
    ring
  have hf : Fits [(1, 1), (7, 0x6c), (4, p.toNat), (1, n.toNat), (6, d.toNat), (6, o.toNat), (3, c.toNat), (1, l.toNat), (3, w.toNat)] :=
    ⟨by decide, by decide, p.isLt, n.isLt, d.isLt, o.isLt, c.isLt, l.isLt, w.isLt, trivial⟩
  refine decode_odd (by omega) ?_ hwf
  rw [fields_6c (number_at sum hf 1 rfl rfl), decodeMajor6c]
  rw [field_at sum hf 8 (lo := 29) (f := w) rfl rfl, field_at sum hf 7 (lo := 28) (f := l) rfl rfl, field_at sum hf 6 (lo := 25) (f := c) rfl rfl, field_at sum hf 5 (lo := 19) (f := o) rfl rfl, field_at sum hf 4 (lo := 13) (f := d) rfl rfl, field_at sum hf 3 (lo := 12) (f := n) rfl rfl, field_at sum hf 2 (lo := 8) (f := p) rfl rfl]

theorem Encodes.amoc (c : BitVec 3) (u : BitVec 3) (o : BitVec 6) (d : BitVec 6) (n : BitVec 1) (p : BitVec 4) : Encodes.Statement (.amoc c u o d n p) := by
  intro hwf nb word henc
  have hword : some (32, 0xdb + c.toNat * 2 ^ 29 + u.toNat * 2 ^ 25 + o.toNat * 2 ^ 19 + d.toNat * 2 ^ 13 + n.toNat * 2 ^ 12 + p.toNat * 2 ^ 8) = some (nb, word) := henc
  obtain ⟨rfl, hsum⟩ := words_of hword
  have sum : word = joined [(1, 1), (7, 0x6d), (4, p.toNat), (1, n.toNat), (6, d.toNat), (6, o.toNat), (3, u.toNat), (1, 0), (3, c.toNat)] := by
    rw [← hsum]
    simp only [joined]
    ring
  have hf : Fits [(1, 1), (7, 0x6d), (4, p.toNat), (1, n.toNat), (6, d.toNat), (6, o.toNat), (3, u.toNat), (1, 0), (3, c.toNat)] :=
    ⟨by decide, by decide, p.isLt, n.isLt, d.isLt, o.isLt, u.isLt, by decide, c.isLt, trivial⟩
  refine decode_odd (by omega) ?_ hwf
  rw [fields_6d (number_at sum hf 1 rfl rfl), decodeMajor6d, if_pos (number_at sum hf 7 (lo := 28) rfl rfl)]
  rw [field_at sum hf 8 (lo := 29) (f := c) rfl rfl, field_at sum hf 6 (lo := 25) (f := u) rfl rfl, field_at sum hf 5 (lo := 19) (f := o) rfl rfl, field_at sum hf 4 (lo := 13) (f := d) rfl rfl, field_at sum hf 3 (lo := 12) (f := n) rfl rfl, field_at sum hf 2 (lo := 8) (f := p) rfl rfl]

theorem Encodes.amocRed (c : BitVec 3) (u : BitVec 3) (o : BitVec 6) (d : BitVec 6) (n : BitVec 1) (p : BitVec 4) : Encodes.Statement (.amocRed c u o d n p) := by
  intro hwf nb word henc
  have hword : some (32, 0x100000db + c.toNat * 2 ^ 29 + u.toNat * 2 ^ 25 + o.toNat * 2 ^ 19 + d.toNat * 2 ^ 13 + n.toNat * 2 ^ 12 + p.toNat * 2 ^ 8) = some (nb, word) := henc
  obtain ⟨rfl, hsum⟩ := words_of hword
  have sum : word = joined [(1, 1), (7, 0x6d), (4, p.toNat), (1, n.toNat), (6, d.toNat), (6, o.toNat), (3, u.toNat), (1, 1), (3, c.toNat)] := by
    rw [← hsum]
    simp only [joined]
    ring
  have hf : Fits [(1, 1), (7, 0x6d), (4, p.toNat), (1, n.toNat), (6, d.toNat), (6, o.toNat), (3, u.toNat), (1, 1), (3, c.toNat)] :=
    ⟨by decide, by decide, p.isLt, n.isLt, d.isLt, o.isLt, u.isLt, by decide, c.isLt, trivial⟩
  refine decode_odd (by omega) ?_ hwf
  rw [fields_6d (number_at sum hf 1 rfl rfl), decodeMajor6d, if_neg (fun hc => absurd ((number_at sum hf 7 (lo := 28) rfl rfl).symm.trans hc) (by decide)), if_pos (number_at sum hf 7 (lo := 28) rfl rfl)]
  rw [field_at sum hf 8 (lo := 29) (f := c) rfl rfl, field_at sum hf 6 (lo := 25) (f := u) rfl rfl, field_at sum hf 5 (lo := 19) (f := o) rfl rfl, field_at sum hf 4 (lo := 13) (f := d) rfl rfl, field_at sum hf 3 (lo := 12) (f := n) rfl rfl, field_at sum hf 2 (lo := 8) (f := p) rfl rfl]

theorem Encodes.capsetA (l : BitVec 4) (a : BitVec 6) (s : BitVec 3) (d : BitVec 3) (n : BitVec 1) (p : BitVec 4) : Encodes.Statement (.capsetA l a s d n p) := by
  intro hwf nb word henc
  have hword : some (32, 0xdd + l.toNat * 2 ^ 28 + a.toNat * 2 ^ 19 + s.toNat * 2 ^ 16 + d.toNat * 2 ^ 13 + n.toNat * 2 ^ 12 + p.toNat * 2 ^ 8) = some (nb, word) := henc
  obtain ⟨rfl, hsum⟩ := words_of hword
  have sum : word = joined [(1, 1), (7, 0x6e), (4, p.toNat), (1, n.toNat), (3, d.toNat), (3, s.toNat), (6, a.toNat), (3, 0), (4, l.toNat)] := by
    rw [← hsum]
    simp only [joined]
    ring
  have hf : Fits [(1, 1), (7, 0x6e), (4, p.toNat), (1, n.toNat), (3, d.toNat), (3, s.toNat), (6, a.toNat), (3, 0), (4, l.toNat)] :=
    ⟨by decide, by decide, p.isLt, n.isLt, d.isLt, s.isLt, a.isLt, by decide, l.isLt, trivial⟩
  refine decode_odd (by omega) ?_ hwf
  rw [fields_6e (number_at sum hf 1 rfl rfl), decodeMajor6e, if_pos (number_at sum hf 7 (lo := 25) rfl rfl)]
  rw [field_at sum hf 8 (lo := 28) (f := l) rfl rfl, field_at sum hf 6 (lo := 19) (f := a) rfl rfl, field_at sum hf 5 (lo := 16) (f := s) rfl rfl, field_at sum hf 4 (lo := 13) (f := d) rfl rfl, field_at sum hf 3 (lo := 12) (f := n) rfl rfl, field_at sum hf 2 (lo := 8) (f := p) rfl rfl]

theorem Encodes.capsetB (l : BitVec 4) (a : BitVec 6) (s : BitVec 3) (d : BitVec 3) (n : BitVec 1) (p : BitVec 4) : Encodes.Statement (.capsetB l a s d n p) := by
  intro hwf nb word henc
  have hword : some (32, 0x20000dd + l.toNat * 2 ^ 28 + a.toNat * 2 ^ 19 + s.toNat * 2 ^ 16 + d.toNat * 2 ^ 13 + n.toNat * 2 ^ 12 + p.toNat * 2 ^ 8) = some (nb, word) := henc
  obtain ⟨rfl, hsum⟩ := words_of hword
  have sum : word = joined [(1, 1), (7, 0x6e), (4, p.toNat), (1, n.toNat), (3, d.toNat), (3, s.toNat), (6, a.toNat), (3, 1), (4, l.toNat)] := by
    rw [← hsum]
    simp only [joined]
    ring
  have hf : Fits [(1, 1), (7, 0x6e), (4, p.toNat), (1, n.toNat), (3, d.toNat), (3, s.toNat), (6, a.toNat), (3, 1), (4, l.toNat)] :=
    ⟨by decide, by decide, p.isLt, n.isLt, d.isLt, s.isLt, a.isLt, by decide, l.isLt, trivial⟩
  refine decode_odd (by omega) ?_ hwf
  rw [fields_6e (number_at sum hf 1 rfl rfl), decodeMajor6e, if_neg (fun hc => absurd ((number_at sum hf 7 (lo := 25) rfl rfl).symm.trans hc) (by decide)), if_pos (number_at sum hf 7 (lo := 25) rfl rfl)]
  rw [field_at sum hf 8 (lo := 28) (f := l) rfl rfl, field_at sum hf 6 (lo := 19) (f := a) rfl rfl, field_at sum hf 5 (lo := 16) (f := s) rfl rfl, field_at sum hf 4 (lo := 13) (f := d) rfl rfl, field_at sum hf 3 (lo := 12) (f := n) rfl rfl, field_at sum hf 2 (lo := 8) (f := p) rfl rfl]

theorem Encodes.capsetP (l : BitVec 4) (a : BitVec 6) (s : BitVec 3) (d : BitVec 3) (n : BitVec 1) (p : BitVec 4) : Encodes.Statement (.capsetP l a s d n p) := by
  intro hwf nb word henc
  have hword : some (32, 0x40000dd + l.toNat * 2 ^ 28 + a.toNat * 2 ^ 19 + s.toNat * 2 ^ 16 + d.toNat * 2 ^ 13 + n.toNat * 2 ^ 12 + p.toNat * 2 ^ 8) = some (nb, word) := henc
  obtain ⟨rfl, hsum⟩ := words_of hword
  have sum : word = joined [(1, 1), (7, 0x6e), (4, p.toNat), (1, n.toNat), (3, d.toNat), (3, s.toNat), (6, a.toNat), (3, 2), (4, l.toNat)] := by
    rw [← hsum]
    simp only [joined]
    ring
  have hf : Fits [(1, 1), (7, 0x6e), (4, p.toNat), (1, n.toNat), (3, d.toNat), (3, s.toNat), (6, a.toNat), (3, 2), (4, l.toNat)] :=
    ⟨by decide, by decide, p.isLt, n.isLt, d.isLt, s.isLt, a.isLt, by decide, l.isLt, trivial⟩
  refine decode_odd (by omega) ?_ hwf
  rw [fields_6e (number_at sum hf 1 rfl rfl), decodeMajor6e, if_neg (fun hc => absurd ((number_at sum hf 7 (lo := 25) rfl rfl).symm.trans hc) (by decide)), if_neg (fun hc => absurd ((number_at sum hf 7 (lo := 25) rfl rfl).symm.trans hc) (by decide)), if_pos (number_at sum hf 7 (lo := 25) rfl rfl)]
  rw [field_at sum hf 8 (lo := 28) (f := l) rfl rfl, field_at sum hf 6 (lo := 19) (f := a) rfl rfl, field_at sum hf 5 (lo := 16) (f := s) rfl rfl, field_at sum hf 4 (lo := 13) (f := d) rfl rfl, field_at sum hf 3 (lo := 12) (f := n) rfl rfl, field_at sum hf 2 (lo := 8) (f := p) rfl rfl]

theorem Encodes.capsetSeal (l : BitVec 4) (s : BitVec 3) (d : BitVec 3) (n : BitVec 1) (p : BitVec 4) : Encodes.Statement (.capsetSeal l s d n p) := by
  intro hwf nb word henc
  have hword : some (32, 0x60000dd + l.toNat * 2 ^ 28 + s.toNat * 2 ^ 16 + d.toNat * 2 ^ 13 + n.toNat * 2 ^ 12 + p.toNat * 2 ^ 8) = some (nb, word) := henc
  obtain ⟨rfl, hsum⟩ := words_of hword
  have sum : word = joined [(1, 1), (7, 0x6e), (4, p.toNat), (1, n.toNat), (3, d.toNat), (3, s.toNat), (9, 192), (4, l.toNat)] := by
    rw [← hsum]
    simp only [joined]
    ring
  have hf : Fits [(1, 1), (7, 0x6e), (4, p.toNat), (1, n.toNat), (3, d.toNat), (3, s.toNat), (9, 192), (4, l.toNat)] :=
    ⟨by decide, by decide, p.isLt, n.isLt, d.isLt, s.isLt, by decide, l.isLt, trivial⟩
  refine decode_odd (by omega) ?_ hwf
  rw [fields_6e (number_at sum hf 1 rfl rfl), decodeMajor6e, if_neg (by unfold nbits; have := l.isLt; have := s.isLt; have := d.isLt; have := n.isLt; have := p.isLt; omega), if_neg (by unfold nbits; have := l.isLt; have := s.isLt; have := d.isLt; have := n.isLt; have := p.isLt; omega), if_neg (by unfold nbits; have := l.isLt; have := s.isLt; have := d.isLt; have := n.isLt; have := p.isLt; omega), if_pos (number_at sum hf 6 (lo := 19) rfl rfl)]
  rw [field_at sum hf 7 (lo := 28) (f := l) rfl rfl, field_at sum hf 5 (lo := 16) (f := s) rfl rfl, field_at sum hf 4 (lo := 13) (f := d) rfl rfl, field_at sum hf 3 (lo := 12) (f := n) rfl rfl, field_at sum hf 2 (lo := 8) (f := p) rfl rfl]

theorem Encodes.caprd (l : BitVec 4) (a : BitVec 6) (s : BitVec 3) (k : BitVec 3) (n : BitVec 1) (p : BitVec 4) : Encodes.Statement (.caprd l a s k n p) := by
  intro hwf nb word henc
  have hword : some (32, 0x80000dd + l.toNat * 2 ^ 28 + a.toNat * 2 ^ 19 + s.toNat * 2 ^ 16 + k.toNat * 2 ^ 13 + n.toNat * 2 ^ 12 + p.toNat * 2 ^ 8) = some (nb, word) := henc
  obtain ⟨rfl, hsum⟩ := words_of hword
  have sum : word = joined [(1, 1), (7, 0x6e), (4, p.toNat), (1, n.toNat), (3, k.toNat), (3, s.toNat), (6, a.toNat), (3, 4), (4, l.toNat)] := by
    rw [← hsum]
    simp only [joined]
    ring
  have hf : Fits [(1, 1), (7, 0x6e), (4, p.toNat), (1, n.toNat), (3, k.toNat), (3, s.toNat), (6, a.toNat), (3, 4), (4, l.toNat)] :=
    ⟨by decide, by decide, p.isLt, n.isLt, k.isLt, s.isLt, a.isLt, by decide, l.isLt, trivial⟩
  refine decode_odd (by omega) ?_ hwf
  rw [fields_6e (number_at sum hf 1 rfl rfl), decodeMajor6e, if_neg (fun hc => absurd ((number_at sum hf 7 (lo := 25) rfl rfl).symm.trans hc) (by decide)), if_neg (fun hc => absurd ((number_at sum hf 7 (lo := 25) rfl rfl).symm.trans hc) (by decide)), if_neg (fun hc => absurd ((number_at sum hf 7 (lo := 25) rfl rfl).symm.trans hc) (by decide)), if_neg (by unfold nbits; have := l.isLt; have := a.isLt; have := s.isLt; have := k.isLt; have := n.isLt; have := p.isLt; omega), if_pos (number_at sum hf 7 (lo := 25) rfl rfl)]
  rw [field_at sum hf 8 (lo := 28) (f := l) rfl rfl, field_at sum hf 6 (lo := 19) (f := a) rfl rfl, field_at sum hf 5 (lo := 16) (f := s) rfl rfl, field_at sum hf 4 (lo := 13) (f := k) rfl rfl, field_at sum hf 3 (lo := 12) (f := n) rfl rfl, field_at sum hf 2 (lo := 8) (f := p) rfl rfl]

theorem Encodes.chdef (l : BitVec 4) (a : BitVec 6) (c : BitVec 5) (n : BitVec 1) (p : BitVec 4) : Encodes.Statement (.chdef l a c n p) := by
  intro hwf nb word henc
  have hword : some (32, 0xe1 + l.toNat * 2 ^ 28 + a.toNat * 2 ^ 19 + c.toNat * 2 ^ 13 + n.toNat * 2 ^ 12 + p.toNat * 2 ^ 8) = some (nb, word) := henc
  obtain ⟨rfl, hsum⟩ := words_of hword
  have sum : word = joined [(1, 1), (7, 0x70), (4, p.toNat), (1, n.toNat), (5, c.toNat), (1, 0), (6, a.toNat), (3, 0), (4, l.toNat)] := by
    rw [← hsum]
    simp only [joined]
    ring
  have hf : Fits [(1, 1), (7, 0x70), (4, p.toNat), (1, n.toNat), (5, c.toNat), (1, 0), (6, a.toNat), (3, 0), (4, l.toNat)] :=
    ⟨by decide, by decide, p.isLt, n.isLt, c.isLt, by decide, a.isLt, by decide, l.isLt, trivial⟩
  refine decode_odd (by omega) ?_ hwf
  rw [fields_70 (number_at sum hf 1 rfl rfl), decodeMajor70, if_pos ⟨number_at sum hf 5 (lo := 18) rfl rfl, number_at sum hf 7 (lo := 25) rfl rfl⟩]
  rw [field_at sum hf 8 (lo := 28) (f := l) rfl rfl, field_at sum hf 6 (lo := 19) (f := a) rfl rfl, field_at sum hf 4 (lo := 13) (f := c) rfl rfl, field_at sum hf 3 (lo := 12) (f := n) rfl rfl, field_at sum hf 2 (lo := 8) (f := p) rfl rfl]

theorem Encodes.chpush (l : BitVec 4) (a : BitVec 6) (c : BitVec 5) (n : BitVec 1) (p : BitVec 4) : Encodes.Statement (.chpush l a c n p) := by
  intro hwf nb word henc
  have hword : some (32, 0x20000e1 + l.toNat * 2 ^ 28 + a.toNat * 2 ^ 19 + c.toNat * 2 ^ 13 + n.toNat * 2 ^ 12 + p.toNat * 2 ^ 8) = some (nb, word) := henc
  obtain ⟨rfl, hsum⟩ := words_of hword
  have sum : word = joined [(1, 1), (7, 0x70), (4, p.toNat), (1, n.toNat), (5, c.toNat), (1, 0), (6, a.toNat), (3, 1), (4, l.toNat)] := by
    rw [← hsum]
    simp only [joined]
    ring
  have hf : Fits [(1, 1), (7, 0x70), (4, p.toNat), (1, n.toNat), (5, c.toNat), (1, 0), (6, a.toNat), (3, 1), (4, l.toNat)] :=
    ⟨by decide, by decide, p.isLt, n.isLt, c.isLt, by decide, a.isLt, by decide, l.isLt, trivial⟩
  refine decode_odd (by omega) ?_ hwf
  rw [fields_70 (number_at sum hf 1 rfl rfl), decodeMajor70, if_neg (fun hc => absurd ((number_at sum hf 7 (lo := 25) rfl rfl).symm.trans hc.2) (by decide)), if_pos ⟨number_at sum hf 5 (lo := 18) rfl rfl, number_at sum hf 7 (lo := 25) rfl rfl⟩]
  rw [field_at sum hf 8 (lo := 28) (f := l) rfl rfl, field_at sum hf 6 (lo := 19) (f := a) rfl rfl, field_at sum hf 4 (lo := 13) (f := c) rfl rfl, field_at sum hf 3 (lo := 12) (f := n) rfl rfl, field_at sum hf 2 (lo := 8) (f := p) rfl rfl]

theorem Encodes.chtake (l : BitVec 4) (c : BitVec 5) (n : BitVec 1) (p : BitVec 4) : Encodes.Statement (.chtake l c n p) := by
  intro hwf nb word henc
  have hword : some (32, 0x40000e1 + l.toNat * 2 ^ 28 + c.toNat * 2 ^ 13 + n.toNat * 2 ^ 12 + p.toNat * 2 ^ 8) = some (nb, word) := henc
  obtain ⟨rfl, hsum⟩ := words_of hword
  have sum : word = joined [(1, 1), (7, 0x70), (4, p.toNat), (1, n.toNat), (5, c.toNat), (10, 256), (4, l.toNat)] := by
    rw [← hsum]
    simp only [joined]
    ring
  have hf : Fits [(1, 1), (7, 0x70), (4, p.toNat), (1, n.toNat), (5, c.toNat), (10, 256), (4, l.toNat)] :=
    ⟨by decide, by decide, p.isLt, n.isLt, c.isLt, by decide, l.isLt, trivial⟩
  refine decode_odd (by omega) ?_ hwf
  rw [fields_70 (number_at sum hf 1 rfl rfl), decodeMajor70, if_neg (by unfold nbits; have := l.isLt; have := c.isLt; have := n.isLt; have := p.isLt; omega), if_neg (by unfold nbits; have := l.isLt; have := c.isLt; have := n.isLt; have := p.isLt; omega), if_pos (number_at sum hf 5 (lo := 18) rfl rfl)]
  rw [field_at sum hf 6 (lo := 28) (f := l) rfl rfl, field_at sum hf 4 (lo := 13) (f := c) rfl rfl, field_at sum hf 3 (lo := 12) (f := n) rfl rfl, field_at sum hf 2 (lo := 8) (f := p) rfl rfl]

theorem Encodes.copy (l : BitVec 4) (a : BitVec 6) (f : BitVec 1) (t : BitVec 1) (n : BitVec 1) (p : BitVec 4) : Encodes.Statement (.copy l a f t n p) := by
  intro hwf nb word henc
  have hword : some (32, 0xe3 + l.toNat * 2 ^ 28 + a.toNat * 2 ^ 19 + f.toNat * 2 ^ 14 + t.toNat * 2 ^ 13 + n.toNat * 2 ^ 12 + p.toNat * 2 ^ 8) = some (nb, word) := henc
  obtain ⟨rfl, hsum⟩ := words_of hword
  have sum : word = joined [(1, 1), (7, 0x71), (4, p.toNat), (1, n.toNat), (1, t.toNat), (1, f.toNat), (4, 0), (6, a.toNat), (3, 0), (4, l.toNat)] := by
    rw [← hsum]
    simp only [joined]
    ring
  have hf : Fits [(1, 1), (7, 0x71), (4, p.toNat), (1, n.toNat), (1, t.toNat), (1, f.toNat), (4, 0), (6, a.toNat), (3, 0), (4, l.toNat)] :=
    ⟨by decide, by decide, p.isLt, n.isLt, t.isLt, f.isLt, by decide, a.isLt, by decide, l.isLt, trivial⟩
  refine decode_odd (by omega) ?_ hwf
  rw [fields_71 (number_at sum hf 1 rfl rfl), decodeMajor71, if_pos ⟨number_at sum hf 6 (lo := 15) rfl rfl, number_at sum hf 8 (lo := 25) rfl rfl⟩]
  rw [field_at sum hf 9 (lo := 28) (f := l) rfl rfl, field_at sum hf 7 (lo := 19) (f := a) rfl rfl, field_at sum hf 5 (lo := 14) (f := f) rfl rfl, field_at sum hf 4 (lo := 13) (f := t) rfl rfl, field_at sum hf 3 (lo := 12) (f := n) rfl rfl, field_at sum hf 2 (lo := 8) (f := p) rfl rfl]

theorem Encodes.retile (l : BitVec 4) (a : BitVec 6) (f : BitVec 1) (n : BitVec 1) (p : BitVec 4) : Encodes.Statement (.retile l a f n p) := by
  intro hwf nb word henc
  have hword : some (32, 0x20000e3 + l.toNat * 2 ^ 28 + a.toNat * 2 ^ 19 + f.toNat * 2 ^ 14 + n.toNat * 2 ^ 12 + p.toNat * 2 ^ 8) = some (nb, word) := henc
  obtain ⟨rfl, hsum⟩ := words_of hword
  have sum : word = joined [(1, 1), (7, 0x71), (4, p.toNat), (1, n.toNat), (1, 0), (1, f.toNat), (4, 0), (6, a.toNat), (3, 1), (4, l.toNat)] := by
    rw [← hsum]
    simp only [joined]
    ring
  have hf : Fits [(1, 1), (7, 0x71), (4, p.toNat), (1, n.toNat), (1, 0), (1, f.toNat), (4, 0), (6, a.toNat), (3, 1), (4, l.toNat)] :=
    ⟨by decide, by decide, p.isLt, n.isLt, by decide, f.isLt, by decide, a.isLt, by decide, l.isLt, trivial⟩
  refine decode_odd (by omega) ?_ hwf
  rw [fields_71 (number_at sum hf 1 rfl rfl), decodeMajor71, if_neg (fun hc => absurd ((number_at sum hf 8 (lo := 25) rfl rfl).symm.trans hc.2) (by decide)), if_pos ⟨number_at sum hf 4 (lo := 13) rfl rfl, number_at sum hf 6 (lo := 15) rfl rfl, number_at sum hf 8 (lo := 25) rfl rfl⟩]
  rw [field_at sum hf 9 (lo := 28) (f := l) rfl rfl, field_at sum hf 7 (lo := 19) (f := a) rfl rfl, field_at sum hf 5 (lo := 14) (f := f) rfl rfl, field_at sum hf 3 (lo := 12) (f := n) rfl rfl, field_at sum hf 2 (lo := 8) (f := p) rfl rfl]

theorem Encodes.gath (l : BitVec 4) (a : BitVec 6) (f : BitVec 1) (n : BitVec 1) (p : BitVec 4) : Encodes.Statement (.gath l a f n p) := by
  intro hwf nb word henc
  have hword : some (32, 0x40000e3 + l.toNat * 2 ^ 28 + a.toNat * 2 ^ 19 + f.toNat * 2 ^ 14 + n.toNat * 2 ^ 12 + p.toNat * 2 ^ 8) = some (nb, word) := henc
  obtain ⟨rfl, hsum⟩ := words_of hword
  have sum : word = joined [(1, 1), (7, 0x71), (4, p.toNat), (1, n.toNat), (1, 0), (1, f.toNat), (4, 0), (6, a.toNat), (3, 2), (4, l.toNat)] := by
    rw [← hsum]
    simp only [joined]
    ring
  have hf : Fits [(1, 1), (7, 0x71), (4, p.toNat), (1, n.toNat), (1, 0), (1, f.toNat), (4, 0), (6, a.toNat), (3, 2), (4, l.toNat)] :=
    ⟨by decide, by decide, p.isLt, n.isLt, by decide, f.isLt, by decide, a.isLt, by decide, l.isLt, trivial⟩
  refine decode_odd (by omega) ?_ hwf
  rw [fields_71 (number_at sum hf 1 rfl rfl), decodeMajor71, if_neg (fun hc => absurd ((number_at sum hf 8 (lo := 25) rfl rfl).symm.trans hc.2) (by decide)), if_neg (fun hc => absurd ((number_at sum hf 8 (lo := 25) rfl rfl).symm.trans hc.2.2) (by decide)), if_pos ⟨number_at sum hf 4 (lo := 13) rfl rfl, number_at sum hf 6 (lo := 15) rfl rfl, number_at sum hf 8 (lo := 25) rfl rfl⟩]
  rw [field_at sum hf 9 (lo := 28) (f := l) rfl rfl, field_at sum hf 7 (lo := 19) (f := a) rfl rfl, field_at sum hf 5 (lo := 14) (f := f) rfl rfl, field_at sum hf 3 (lo := 12) (f := n) rfl rfl, field_at sum hf 2 (lo := 8) (f := p) rfl rfl]

theorem Encodes.chain (l : BitVec 4) (a : BitVec 6) (f : BitVec 1) (n : BitVec 1) (p : BitVec 4) : Encodes.Statement (.chain l a f n p) := by
  intro hwf nb word henc
  have hword : some (32, 0x60000e3 + l.toNat * 2 ^ 28 + a.toNat * 2 ^ 19 + f.toNat * 2 ^ 14 + n.toNat * 2 ^ 12 + p.toNat * 2 ^ 8) = some (nb, word) := henc
  obtain ⟨rfl, hsum⟩ := words_of hword
  have sum : word = joined [(1, 1), (7, 0x71), (4, p.toNat), (1, n.toNat), (1, 0), (1, f.toNat), (4, 0), (6, a.toNat), (3, 3), (4, l.toNat)] := by
    rw [← hsum]
    simp only [joined]
    ring
  have hf : Fits [(1, 1), (7, 0x71), (4, p.toNat), (1, n.toNat), (1, 0), (1, f.toNat), (4, 0), (6, a.toNat), (3, 3), (4, l.toNat)] :=
    ⟨by decide, by decide, p.isLt, n.isLt, by decide, f.isLt, by decide, a.isLt, by decide, l.isLt, trivial⟩
  refine decode_odd (by omega) ?_ hwf
  rw [fields_71 (number_at sum hf 1 rfl rfl), decodeMajor71, if_neg (fun hc => absurd ((number_at sum hf 8 (lo := 25) rfl rfl).symm.trans hc.2) (by decide)), if_neg (fun hc => absurd ((number_at sum hf 8 (lo := 25) rfl rfl).symm.trans hc.2.2) (by decide)), if_neg (fun hc => absurd ((number_at sum hf 8 (lo := 25) rfl rfl).symm.trans hc.2.2) (by decide)), if_pos ⟨number_at sum hf 4 (lo := 13) rfl rfl, number_at sum hf 6 (lo := 15) rfl rfl, number_at sum hf 8 (lo := 25) rfl rfl⟩]
  rw [field_at sum hf 9 (lo := 28) (f := l) rfl rfl, field_at sum hf 7 (lo := 19) (f := a) rfl rfl, field_at sum hf 5 (lo := 14) (f := f) rfl rfl, field_at sum hf 3 (lo := 12) (f := n) rfl rfl, field_at sum hf 2 (lo := 8) (f := p) rfl rfl]

theorem Encodes.coll (l : BitVec 4) (a : BitVec 6) (f : BitVec 1) (n : BitVec 1) (p : BitVec 4) : Encodes.Statement (.coll l a f n p) := by
  intro hwf nb word henc
  have hword : some (32, 0x80000e3 + l.toNat * 2 ^ 28 + a.toNat * 2 ^ 19 + f.toNat * 2 ^ 14 + n.toNat * 2 ^ 12 + p.toNat * 2 ^ 8) = some (nb, word) := henc
  obtain ⟨rfl, hsum⟩ := words_of hword
  have sum : word = joined [(1, 1), (7, 0x71), (4, p.toNat), (1, n.toNat), (1, 0), (1, f.toNat), (4, 0), (6, a.toNat), (3, 4), (4, l.toNat)] := by
    rw [← hsum]
    simp only [joined]
    ring
  have hf : Fits [(1, 1), (7, 0x71), (4, p.toNat), (1, n.toNat), (1, 0), (1, f.toNat), (4, 0), (6, a.toNat), (3, 4), (4, l.toNat)] :=
    ⟨by decide, by decide, p.isLt, n.isLt, by decide, f.isLt, by decide, a.isLt, by decide, l.isLt, trivial⟩
  refine decode_odd (by omega) ?_ hwf
  rw [fields_71 (number_at sum hf 1 rfl rfl), decodeMajor71, if_neg (fun hc => absurd ((number_at sum hf 8 (lo := 25) rfl rfl).symm.trans hc.2) (by decide)), if_neg (fun hc => absurd ((number_at sum hf 8 (lo := 25) rfl rfl).symm.trans hc.2.2) (by decide)), if_neg (fun hc => absurd ((number_at sum hf 8 (lo := 25) rfl rfl).symm.trans hc.2.2) (by decide)), if_neg (fun hc => absurd ((number_at sum hf 8 (lo := 25) rfl rfl).symm.trans hc.2.2) (by decide)), if_pos ⟨number_at sum hf 4 (lo := 13) rfl rfl, number_at sum hf 6 (lo := 15) rfl rfl, number_at sum hf 8 (lo := 25) rfl rfl⟩]
  rw [field_at sum hf 9 (lo := 28) (f := l) rfl rfl, field_at sum hf 7 (lo := 19) (f := a) rfl rfl, field_at sum hf 5 (lo := 14) (f := f) rfl rfl, field_at sum hf 3 (lo := 12) (f := n) rfl rfl, field_at sum hf 2 (lo := 8) (f := p) rfl rfl]

theorem Encodes.wopen (l : BitVec 4) (a : BitVec 6) (d : BitVec 6) (n : BitVec 1) (p : BitVec 4) : Encodes.Statement (.wopen l a d n p) := by
  intro hwf nb word henc
  have hword : some (32, 0xe5 + l.toNat * 2 ^ 28 + a.toNat * 2 ^ 19 + d.toNat * 2 ^ 13 + n.toNat * 2 ^ 12 + p.toNat * 2 ^ 8) = some (nb, word) := henc
  obtain ⟨rfl, hsum⟩ := words_of hword
  have sum : word = joined [(1, 1), (7, 0x72), (4, p.toNat), (1, n.toNat), (6, d.toNat), (6, a.toNat), (3, 0), (4, l.toNat)] := by
    rw [← hsum]
    simp only [joined]
    ring
  have hf : Fits [(1, 1), (7, 0x72), (4, p.toNat), (1, n.toNat), (6, d.toNat), (6, a.toNat), (3, 0), (4, l.toNat)] :=
    ⟨by decide, by decide, p.isLt, n.isLt, d.isLt, a.isLt, by decide, l.isLt, trivial⟩
  refine decode_odd (by omega) ?_ hwf
  rw [fields_72 (number_at sum hf 1 rfl rfl), decodeMajor72, if_pos (number_at sum hf 6 (lo := 25) rfl rfl)]
  rw [field_at sum hf 7 (lo := 28) (f := l) rfl rfl, field_at sum hf 5 (lo := 19) (f := a) rfl rfl, field_at sum hf 4 (lo := 13) (f := d) rfl rfl, field_at sum hf 3 (lo := 12) (f := n) rfl rfl, field_at sum hf 2 (lo := 8) (f := p) rfl rfl]

theorem Encodes.wfinal (l : BitVec 4) (a : BitVec 6) (n : BitVec 1) (p : BitVec 4) : Encodes.Statement (.wfinal l a n p) := by
  intro hwf nb word henc
  have hword : some (32, 0x20000e5 + l.toNat * 2 ^ 28 + a.toNat * 2 ^ 19 + n.toNat * 2 ^ 12 + p.toNat * 2 ^ 8) = some (nb, word) := henc
  obtain ⟨rfl, hsum⟩ := words_of hword
  have sum : word = joined [(1, 1), (7, 0x72), (4, p.toNat), (1, n.toNat), (6, 0), (6, a.toNat), (3, 1), (4, l.toNat)] := by
    rw [← hsum]
    simp only [joined]
    ring
  have hf : Fits [(1, 1), (7, 0x72), (4, p.toNat), (1, n.toNat), (6, 0), (6, a.toNat), (3, 1), (4, l.toNat)] :=
    ⟨by decide, by decide, p.isLt, n.isLt, by decide, a.isLt, by decide, l.isLt, trivial⟩
  refine decode_odd (by omega) ?_ hwf
  rw [fields_72 (number_at sum hf 1 rfl rfl), decodeMajor72, if_neg (fun hc => absurd ((number_at sum hf 6 (lo := 25) rfl rfl).symm.trans hc) (by decide)), if_pos ⟨number_at sum hf 4 (lo := 13) rfl rfl, number_at sum hf 6 (lo := 25) rfl rfl⟩]
  rw [field_at sum hf 7 (lo := 28) (f := l) rfl rfl, field_at sum hf 5 (lo := 19) (f := a) rfl rfl, field_at sum hf 3 (lo := 12) (f := n) rfl rfl, field_at sum hf 2 (lo := 8) (f := p) rfl rfl]

theorem Encodes.bkload (l : BitVec 4) (a : BitVec 6) (d : BitVec 6) (n : BitVec 1) (p : BitVec 4) : Encodes.Statement (.bkload l a d n p) := by
  intro hwf nb word henc
  have hword : some (32, 0xe7 + l.toNat * 2 ^ 28 + a.toNat * 2 ^ 19 + d.toNat * 2 ^ 13 + n.toNat * 2 ^ 12 + p.toNat * 2 ^ 8) = some (nb, word) := henc
  obtain ⟨rfl, hsum⟩ := words_of hword
  have sum : word = joined [(1, 1), (7, 0x73), (4, p.toNat), (1, n.toNat), (6, d.toNat), (6, a.toNat), (3, 0), (4, l.toNat)] := by
    rw [← hsum]
    simp only [joined]
    ring
  have hf : Fits [(1, 1), (7, 0x73), (4, p.toNat), (1, n.toNat), (6, d.toNat), (6, a.toNat), (3, 0), (4, l.toNat)] :=
    ⟨by decide, by decide, p.isLt, n.isLt, d.isLt, a.isLt, by decide, l.isLt, trivial⟩
  refine decode_odd (by omega) ?_ hwf
  rw [fields_73 (number_at sum hf 1 rfl rfl), decodeMajor73, if_pos (number_at sum hf 6 (lo := 25) rfl rfl)]
  rw [field_at sum hf 7 (lo := 28) (f := l) rfl rfl, field_at sum hf 5 (lo := 19) (f := a) rfl rfl, field_at sum hf 4 (lo := 13) (f := d) rfl rfl, field_at sum hf 3 (lo := 12) (f := n) rfl rfl, field_at sum hf 2 (lo := 8) (f := p) rfl rfl]

theorem Encodes.bkvec (l : BitVec 4) (a : BitVec 6) (d : BitVec 6) (n : BitVec 1) (p : BitVec 4) : Encodes.Statement (.bkvec l a d n p) := by
  intro hwf nb word henc
  have hword : some (32, 0x20000e7 + l.toNat * 2 ^ 28 + a.toNat * 2 ^ 19 + d.toNat * 2 ^ 13 + n.toNat * 2 ^ 12 + p.toNat * 2 ^ 8) = some (nb, word) := henc
  obtain ⟨rfl, hsum⟩ := words_of hword
  have sum : word = joined [(1, 1), (7, 0x73), (4, p.toNat), (1, n.toNat), (6, d.toNat), (6, a.toNat), (3, 1), (4, l.toNat)] := by
    rw [← hsum]
    simp only [joined]
    ring
  have hf : Fits [(1, 1), (7, 0x73), (4, p.toNat), (1, n.toNat), (6, d.toNat), (6, a.toNat), (3, 1), (4, l.toNat)] :=
    ⟨by decide, by decide, p.isLt, n.isLt, d.isLt, a.isLt, by decide, l.isLt, trivial⟩
  refine decode_odd (by omega) ?_ hwf
  rw [fields_73 (number_at sum hf 1 rfl rfl), decodeMajor73, if_neg (fun hc => absurd ((number_at sum hf 6 (lo := 25) rfl rfl).symm.trans hc) (by decide)), if_pos (number_at sum hf 6 (lo := 25) rfl rfl)]
  rw [field_at sum hf 7 (lo := 28) (f := l) rfl rfl, field_at sum hf 5 (lo := 19) (f := a) rfl rfl, field_at sum hf 4 (lo := 13) (f := d) rfl rfl, field_at sum hf 3 (lo := 12) (f := n) rfl rfl, field_at sum hf 2 (lo := 8) (f := p) rfl rfl]

theorem Encodes.bkrun (l : BitVec 4) (a : BitVec 6) (d : BitVec 6) (n : BitVec 1) (p : BitVec 4) : Encodes.Statement (.bkrun l a d n p) := by
  intro hwf nb word henc
  have hword : some (32, 0x40000e7 + l.toNat * 2 ^ 28 + a.toNat * 2 ^ 19 + d.toNat * 2 ^ 13 + n.toNat * 2 ^ 12 + p.toNat * 2 ^ 8) = some (nb, word) := henc
  obtain ⟨rfl, hsum⟩ := words_of hword
  have sum : word = joined [(1, 1), (7, 0x73), (4, p.toNat), (1, n.toNat), (6, d.toNat), (6, a.toNat), (3, 2), (4, l.toNat)] := by
    rw [← hsum]
    simp only [joined]
    ring
  have hf : Fits [(1, 1), (7, 0x73), (4, p.toNat), (1, n.toNat), (6, d.toNat), (6, a.toNat), (3, 2), (4, l.toNat)] :=
    ⟨by decide, by decide, p.isLt, n.isLt, d.isLt, a.isLt, by decide, l.isLt, trivial⟩
  refine decode_odd (by omega) ?_ hwf
  rw [fields_73 (number_at sum hf 1 rfl rfl), decodeMajor73, if_neg (fun hc => absurd ((number_at sum hf 6 (lo := 25) rfl rfl).symm.trans hc) (by decide)), if_neg (fun hc => absurd ((number_at sum hf 6 (lo := 25) rfl rfl).symm.trans hc) (by decide)), if_pos (number_at sum hf 6 (lo := 25) rfl rfl)]
  rw [field_at sum hf 7 (lo := 28) (f := l) rfl rfl, field_at sum hf 5 (lo := 19) (f := a) rfl rfl, field_at sum hf 4 (lo := 13) (f := d) rfl rfl, field_at sum hf 3 (lo := 12) (f := n) rfl rfl, field_at sum hf 2 (lo := 8) (f := p) rfl rfl]

theorem Encodes.bkdrain (l : BitVec 4) (a : BitVec 6) (d : BitVec 6) (n : BitVec 1) (p : BitVec 4) : Encodes.Statement (.bkdrain l a d n p) := by
  intro hwf nb word henc
  have hword : some (32, 0x60000e7 + l.toNat * 2 ^ 28 + a.toNat * 2 ^ 19 + d.toNat * 2 ^ 13 + n.toNat * 2 ^ 12 + p.toNat * 2 ^ 8) = some (nb, word) := henc
  obtain ⟨rfl, hsum⟩ := words_of hword
  have sum : word = joined [(1, 1), (7, 0x73), (4, p.toNat), (1, n.toNat), (6, d.toNat), (6, a.toNat), (3, 3), (4, l.toNat)] := by
    rw [← hsum]
    simp only [joined]
    ring
  have hf : Fits [(1, 1), (7, 0x73), (4, p.toNat), (1, n.toNat), (6, d.toNat), (6, a.toNat), (3, 3), (4, l.toNat)] :=
    ⟨by decide, by decide, p.isLt, n.isLt, d.isLt, a.isLt, by decide, l.isLt, trivial⟩
  refine decode_odd (by omega) ?_ hwf
  rw [fields_73 (number_at sum hf 1 rfl rfl), decodeMajor73, if_neg (fun hc => absurd ((number_at sum hf 6 (lo := 25) rfl rfl).symm.trans hc) (by decide)), if_neg (fun hc => absurd ((number_at sum hf 6 (lo := 25) rfl rfl).symm.trans hc) (by decide)), if_neg (fun hc => absurd ((number_at sum hf 6 (lo := 25) rfl rfl).symm.trans hc) (by decide)), if_pos (number_at sum hf 6 (lo := 25) rfl rfl)]
  rw [field_at sum hf 7 (lo := 28) (f := l) rfl rfl, field_at sum hf 5 (lo := 19) (f := a) rfl rfl, field_at sum hf 4 (lo := 13) (f := d) rfl rfl, field_at sum hf 3 (lo := 12) (f := n) rfl rfl, field_at sum hf 2 (lo := 8) (f := p) rfl rfl]

theorem Encodes.ownb (l : BitVec 4) (a : BitVec 6) (d : BitVec 6) (n : BitVec 1) (p : BitVec 4) : Encodes.Statement (.ownb l a d n p) := by
  intro hwf nb word henc
  have hword : some (32, 0x80000e7 + l.toNat * 2 ^ 28 + a.toNat * 2 ^ 19 + d.toNat * 2 ^ 13 + n.toNat * 2 ^ 12 + p.toNat * 2 ^ 8) = some (nb, word) := henc
  obtain ⟨rfl, hsum⟩ := words_of hword
  have sum : word = joined [(1, 1), (7, 0x73), (4, p.toNat), (1, n.toNat), (6, d.toNat), (6, a.toNat), (3, 4), (4, l.toNat)] := by
    rw [← hsum]
    simp only [joined]
    ring
  have hf : Fits [(1, 1), (7, 0x73), (4, p.toNat), (1, n.toNat), (6, d.toNat), (6, a.toNat), (3, 4), (4, l.toNat)] :=
    ⟨by decide, by decide, p.isLt, n.isLt, d.isLt, a.isLt, by decide, l.isLt, trivial⟩
  refine decode_odd (by omega) ?_ hwf
  rw [fields_73 (number_at sum hf 1 rfl rfl), decodeMajor73, if_neg (fun hc => absurd ((number_at sum hf 6 (lo := 25) rfl rfl).symm.trans hc) (by decide)), if_neg (fun hc => absurd ((number_at sum hf 6 (lo := 25) rfl rfl).symm.trans hc) (by decide)), if_neg (fun hc => absurd ((number_at sum hf 6 (lo := 25) rfl rfl).symm.trans hc) (by decide)), if_neg (fun hc => absurd ((number_at sum hf 6 (lo := 25) rfl rfl).symm.trans hc) (by decide)), if_pos (number_at sum hf 6 (lo := 25) rfl rfl)]
  rw [field_at sum hf 7 (lo := 28) (f := l) rfl rfl, field_at sum hf 5 (lo := 19) (f := a) rfl rfl, field_at sum hf 4 (lo := 13) (f := d) rfl rfl, field_at sum hf 3 (lo := 12) (f := n) rfl rfl, field_at sum hf 2 (lo := 8) (f := p) rfl rfl]

theorem Encodes.ownc (l : BitVec 4) (a : BitVec 6) (d : BitVec 6) (n : BitVec 1) (p : BitVec 4) : Encodes.Statement (.ownc l a d n p) := by
  intro hwf nb word henc
  have hword : some (32, 0xa0000e7 + l.toNat * 2 ^ 28 + a.toNat * 2 ^ 19 + d.toNat * 2 ^ 13 + n.toNat * 2 ^ 12 + p.toNat * 2 ^ 8) = some (nb, word) := henc
  obtain ⟨rfl, hsum⟩ := words_of hword
  have sum : word = joined [(1, 1), (7, 0x73), (4, p.toNat), (1, n.toNat), (6, d.toNat), (6, a.toNat), (3, 5), (4, l.toNat)] := by
    rw [← hsum]
    simp only [joined]
    ring
  have hf : Fits [(1, 1), (7, 0x73), (4, p.toNat), (1, n.toNat), (6, d.toNat), (6, a.toNat), (3, 5), (4, l.toNat)] :=
    ⟨by decide, by decide, p.isLt, n.isLt, d.isLt, a.isLt, by decide, l.isLt, trivial⟩
  refine decode_odd (by omega) ?_ hwf
  rw [fields_73 (number_at sum hf 1 rfl rfl), decodeMajor73, if_neg (fun hc => absurd ((number_at sum hf 6 (lo := 25) rfl rfl).symm.trans hc) (by decide)), if_neg (fun hc => absurd ((number_at sum hf 6 (lo := 25) rfl rfl).symm.trans hc) (by decide)), if_neg (fun hc => absurd ((number_at sum hf 6 (lo := 25) rfl rfl).symm.trans hc) (by decide)), if_neg (fun hc => absurd ((number_at sum hf 6 (lo := 25) rfl rfl).symm.trans hc) (by decide)), if_neg (fun hc => absurd ((number_at sum hf 6 (lo := 25) rfl rfl).symm.trans hc) (by decide)), if_pos (number_at sum hf 6 (lo := 25) rfl rfl)]
  rw [field_at sum hf 7 (lo := 28) (f := l) rfl rfl, field_at sum hf 5 (lo := 19) (f := a) rfl rfl, field_at sum hf 4 (lo := 13) (f := d) rfl rfl, field_at sum hf 3 (lo := 12) (f := n) rfl rfl, field_at sum hf 2 (lo := 8) (f := p) rfl rfl]

theorem Encodes.mres (s : BitVec 4) (h : BitVec 4) (n : BitVec 1) : Encodes.Statement (.mres s h n) := by
  intro hwf nb word henc
  have hword : some (32, 0xff1 + s.toNat * 2 ^ 19 + h.toNat * 2 ^ 13 + n.toNat * 2 ^ 12) = some (nb, word) := henc
  obtain ⟨rfl, hsum⟩ := words_of hword
  have sum : word = joined [(1, 1), (7, 0x78), (4, 15), (1, n.toNat), (4, h.toNat), (2, 0), (4, s.toNat), (9, 0)] := by
    rw [← hsum]
    simp only [joined]
    ring
  have hf : Fits [(1, 1), (7, 0x78), (4, 15), (1, n.toNat), (4, h.toNat), (2, 0), (4, s.toNat), (9, 0)] :=
    ⟨by decide, by decide, by decide, n.isLt, h.isLt, by decide, s.isLt, by decide, trivial⟩
  refine decode_odd (by omega) ?_ hwf
  rw [fields_78 (number_at sum hf 1 rfl rfl), decodeMajor78, if_pos ⟨number_at sum hf 2 (lo := 8) rfl rfl, number_at sum hf 5 (lo := 17) rfl rfl, number_at sum hf 7 (lo := 23) rfl rfl⟩]
  rw [field_at sum hf 6 (lo := 19) (f := s) rfl rfl, field_at sum hf 4 (lo := 13) (f := h) rfl rfl, field_at sum hf 3 (lo := 12) (f := n) rfl rfl]

theorem Encodes.mrel (h : BitVec 4) (n : BitVec 1) : Encodes.Statement (.mrel h n) := by
  intro hwf nb word henc
  have hword : some (32, 0x2000ff1 + h.toNat * 2 ^ 13 + n.toNat * 2 ^ 12) = some (nb, word) := henc
  obtain ⟨rfl, hsum⟩ := words_of hword
  have sum : word = joined [(1, 1), (7, 0x78), (4, 15), (1, n.toNat), (4, h.toNat), (15, 256)] := by
    rw [← hsum]
    simp only [joined]
    ring
  have hf : Fits [(1, 1), (7, 0x78), (4, 15), (1, n.toNat), (4, h.toNat), (15, 256)] :=
    ⟨by decide, by decide, by decide, n.isLt, h.isLt, by decide, trivial⟩
  refine decode_odd (by omega) ?_ hwf
  rw [fields_78 (number_at sum hf 1 rfl rfl), decodeMajor78, if_neg (by unfold nbits; have := h.isLt; have := n.isLt; omega), if_pos ⟨number_at sum hf 2 (lo := 8) rfl rfl, number_at sum hf 5 (lo := 17) rfl rfl⟩]
  rw [field_at sum hf 4 (lo := 13) (f := h) rfl rfl, field_at sum hf 3 (lo := 12) (f := n) rfl rfl]

theorem Encodes.mload (s : BitVec 4) (h : BitVec 4) (n : BitVec 1) : Encodes.Statement (.mload s h n) := by
  intro hwf nb word henc
  have hword : some (32, 0xff3 + s.toNat * 2 ^ 19 + h.toNat * 2 ^ 13 + n.toNat * 2 ^ 12) = some (nb, word) := henc
  obtain ⟨rfl, hsum⟩ := words_of hword
  have sum : word = joined [(1, 1), (7, 0x79), (4, 15), (1, n.toNat), (4, h.toNat), (2, 0), (4, s.toNat), (9, 0)] := by
    rw [← hsum]
    simp only [joined]
    ring
  have hf : Fits [(1, 1), (7, 0x79), (4, 15), (1, n.toNat), (4, h.toNat), (2, 0), (4, s.toNat), (9, 0)] :=
    ⟨by decide, by decide, by decide, n.isLt, h.isLt, by decide, s.isLt, by decide, trivial⟩
  refine decode_odd (by omega) ?_ hwf
  rw [fields_79 (number_at sum hf 1 rfl rfl), decodeMajor79, if_pos ⟨number_at sum hf 2 (lo := 8) rfl rfl, number_at sum hf 5 (lo := 17) rfl rfl, number_at sum hf 7 (lo := 23) rfl rfl⟩]
  rw [field_at sum hf 6 (lo := 19) (f := s) rfl rfl, field_at sum hf 4 (lo := 13) (f := h) rfl rfl, field_at sum hf 3 (lo := 12) (f := n) rfl rfl]

theorem Encodes.mchin (s : BitVec 4) (h : BitVec 4) (n : BitVec 1) : Encodes.Statement (.mchin s h n) := by
  intro hwf nb word henc
  have hword : some (32, 0x2000ff3 + s.toNat * 2 ^ 19 + h.toNat * 2 ^ 13 + n.toNat * 2 ^ 12) = some (nb, word) := henc
  obtain ⟨rfl, hsum⟩ := words_of hword
  have sum : word = joined [(1, 1), (7, 0x79), (4, 15), (1, n.toNat), (4, h.toNat), (2, 0), (4, s.toNat), (9, 4)] := by
    rw [← hsum]
    simp only [joined]
    ring
  have hf : Fits [(1, 1), (7, 0x79), (4, 15), (1, n.toNat), (4, h.toNat), (2, 0), (4, s.toNat), (9, 4)] :=
    ⟨by decide, by decide, by decide, n.isLt, h.isLt, by decide, s.isLt, by decide, trivial⟩
  refine decode_odd (by omega) ?_ hwf
  rw [fields_79 (number_at sum hf 1 rfl rfl), decodeMajor79, if_neg (fun hc => absurd ((number_at sum hf 7 (lo := 23) rfl rfl).symm.trans hc.2.2) (by decide)), if_pos ⟨number_at sum hf 2 (lo := 8) rfl rfl, number_at sum hf 5 (lo := 17) rfl rfl, number_at sum hf 7 (lo := 23) rfl rfl⟩]
  rw [field_at sum hf 6 (lo := 19) (f := s) rfl rfl, field_at sum hf 4 (lo := 13) (f := h) rfl rfl, field_at sum hf 3 (lo := 12) (f := n) rfl rfl]

theorem Encodes.mma (v : BitVec 1) (b : BitVec 4) (a : BitVec 4) (c : BitVec 3) (n : BitVec 1) : Encodes.Statement (.mma v b a c n) := by
  intro hwf nb word henc
  have hword : some (32, 0xff5 + v.toNat * 2 ^ 31 + b.toNat * 2 ^ 25 + a.toNat * 2 ^ 19 + c.toNat * 2 ^ 13 + n.toNat * 2 ^ 12) = some (nb, word) := henc
  obtain ⟨rfl, hsum⟩ := words_of hword
  have sum : word = joined [(1, 1), (7, 0x7a), (4, 15), (1, n.toNat), (3, c.toNat), (3, 0), (4, a.toNat), (2, 0), (4, b.toNat), (2, 0), (1, v.toNat)] := by
    rw [← hsum]
    simp only [joined]
    ring
  have hf : Fits [(1, 1), (7, 0x7a), (4, 15), (1, n.toNat), (3, c.toNat), (3, 0), (4, a.toNat), (2, 0), (4, b.toNat), (2, 0), (1, v.toNat)] :=
    ⟨by decide, by decide, by decide, n.isLt, c.isLt, by decide, a.isLt, by decide, b.isLt, by decide, v.isLt, trivial⟩
  refine decode_odd (by omega) ?_ hwf
  rw [fields_7a (number_at sum hf 1 rfl rfl), decodeMajor7a, if_pos ⟨number_at sum hf 2 (lo := 8) rfl rfl, number_at sum hf 5 (lo := 16) rfl rfl, number_at sum hf 7 (lo := 23) rfl rfl, number_at sum hf 9 (lo := 29) rfl rfl⟩]
  rw [field_at sum hf 10 (lo := 31) (f := v) rfl rfl, field_at sum hf 8 (lo := 25) (f := b) rfl rfl, field_at sum hf 6 (lo := 19) (f := a) rfl rfl, field_at sum hf 4 (lo := 13) (f := c) rfl rfl, field_at sum hf 3 (lo := 12) (f := n) rfl rfl]

theorem Encodes.mzero (c : BitVec 3) (n : BitVec 1) : Encodes.Statement (.mzero c n) := by
  intro hwf nb word henc
  have hword : some (32, 0xff7 + c.toNat * 2 ^ 13 + n.toNat * 2 ^ 12) = some (nb, word) := henc
  obtain ⟨rfl, hsum⟩ := words_of hword
  have sum : word = joined [(1, 1), (7, 0x7b), (4, 15), (1, n.toNat), (3, c.toNat), (16, 0)] := by
    rw [← hsum]
    simp only [joined]
    ring
  have hf : Fits [(1, 1), (7, 0x7b), (4, 15), (1, n.toNat), (3, c.toNat), (16, 0)] :=
    ⟨by decide, by decide, by decide, n.isLt, c.isLt, by decide, trivial⟩
  refine decode_odd (by omega) ?_ hwf
  rw [fields_7b (number_at sum hf 1 rfl rfl), decodeMajor7b, if_pos ⟨number_at sum hf 2 (lo := 8) rfl rfl, number_at sum hf 5 (lo := 16) rfl rfl⟩]
  rw [field_at sum hf 4 (lo := 13) (f := c) rfl rfl, field_at sum hf 3 (lo := 12) (f := n) rfl rfl]

theorem Encodes.mout (s : BitVec 4) (c : BitVec 3) (n : BitVec 1) : Encodes.Statement (.mout s c n) := by
  intro hwf nb word henc
  have hword : some (32, 0x2000ff7 + s.toNat * 2 ^ 19 + c.toNat * 2 ^ 13 + n.toNat * 2 ^ 12) = some (nb, word) := henc
  obtain ⟨rfl, hsum⟩ := words_of hword
  have sum : word = joined [(1, 1), (7, 0x7b), (4, 15), (1, n.toNat), (3, c.toNat), (3, 0), (4, s.toNat), (9, 4)] := by
    rw [← hsum]
    simp only [joined]
    ring
  have hf : Fits [(1, 1), (7, 0x7b), (4, 15), (1, n.toNat), (3, c.toNat), (3, 0), (4, s.toNat), (9, 4)] :=
    ⟨by decide, by decide, by decide, n.isLt, c.isLt, by decide, s.isLt, by decide, trivial⟩
  refine decode_odd (by omega) ?_ hwf
  rw [fields_7b (number_at sum hf 1 rfl rfl), decodeMajor7b, if_neg (by unfold nbits; have := s.isLt; have := c.isLt; have := n.isLt; omega), if_pos ⟨number_at sum hf 2 (lo := 8) rfl rfl, number_at sum hf 5 (lo := 16) rfl rfl, number_at sum hf 7 (lo := 23) rfl rfl⟩]
  rw [field_at sum hf 6 (lo := 19) (f := s) rfl rfl, field_at sum hf 4 (lo := 13) (f := c) rfl rfl, field_at sum hf 3 (lo := 12) (f := n) rfl rfl]

theorem Encodes.mstore (s : BitVec 4) (c : BitVec 3) (n : BitVec 1) : Encodes.Statement (.mstore s c n) := by
  intro hwf nb word henc
  have hword : some (32, 0x4000ff7 + s.toNat * 2 ^ 19 + c.toNat * 2 ^ 13 + n.toNat * 2 ^ 12) = some (nb, word) := henc
  obtain ⟨rfl, hsum⟩ := words_of hword
  have sum : word = joined [(1, 1), (7, 0x7b), (4, 15), (1, n.toNat), (3, c.toNat), (3, 0), (4, s.toNat), (9, 8)] := by
    rw [← hsum]
    simp only [joined]
    ring
  have hf : Fits [(1, 1), (7, 0x7b), (4, 15), (1, n.toNat), (3, c.toNat), (3, 0), (4, s.toNat), (9, 8)] :=
    ⟨by decide, by decide, by decide, n.isLt, c.isLt, by decide, s.isLt, by decide, trivial⟩
  refine decode_odd (by omega) ?_ hwf
  rw [fields_7b (number_at sum hf 1 rfl rfl), decodeMajor7b, if_neg (by unfold nbits; have := s.isLt; have := c.isLt; have := n.isLt; omega), if_neg (fun hc => absurd ((number_at sum hf 7 (lo := 23) rfl rfl).symm.trans hc.2.2) (by decide)), if_pos ⟨number_at sum hf 2 (lo := 8) rfl rfl, number_at sum hf 5 (lo := 16) rfl rfl, number_at sum hf 7 (lo := 23) rfl rfl⟩]
  rw [field_at sum hf 6 (lo := 19) (f := s) rfl rfl, field_at sum hf 4 (lo := 13) (f := c) rfl rfl, field_at sum hf 3 (lo := 12) (f := n) rfl rfl]

theorem Encodes.trap (k : BitVec 6) (n : BitVec 1) (p : BitVec 4) : Encodes.Statement (.trap k n p) := by
  intro hwf nb word henc
  have hword : some (32, 0xf9 + k.toNat * 2 ^ 19 + n.toNat * 2 ^ 12 + p.toNat * 2 ^ 8) = some (nb, word) := henc
  obtain ⟨rfl, hsum⟩ := words_of hword
  have sum : word = joined [(1, 1), (7, 0x7c), (4, p.toNat), (1, n.toNat), (6, 0), (6, k.toNat), (7, 0)] := by
    rw [← hsum]
    simp only [joined]
    ring
  have hf : Fits [(1, 1), (7, 0x7c), (4, p.toNat), (1, n.toNat), (6, 0), (6, k.toNat), (7, 0)] :=
    ⟨by decide, by decide, p.isLt, n.isLt, by decide, k.isLt, by decide, trivial⟩
  refine decode_odd (by omega) ?_ hwf
  rw [fields_7c (number_at sum hf 1 rfl rfl), decodeMajor7c, if_pos ⟨number_at sum hf 4 (lo := 13) rfl rfl, number_at sum hf 6 (lo := 25) rfl rfl⟩]
  rw [field_at sum hf 5 (lo := 19) (f := k) rfl rfl, field_at sum hf 3 (lo := 12) (f := n) rfl rfl, field_at sum hf 2 (lo := 8) (f := p) rfl rfl]

theorem Encodes.tret (n : BitVec 1) (p : BitVec 4) : Encodes.Statement (.tret n p) := by
  intro hwf nb word henc
  have hword : some (32, 0x20000f9 + n.toNat * 2 ^ 12 + p.toNat * 2 ^ 8) = some (nb, word) := henc
  obtain ⟨rfl, hsum⟩ := words_of hword
  have sum : word = joined [(1, 1), (7, 0x7c), (4, p.toNat), (1, n.toNat), (19, 4096)] := by
    rw [← hsum]
    simp only [joined]
    ring
  have hf : Fits [(1, 1), (7, 0x7c), (4, p.toNat), (1, n.toNat), (19, 4096)] :=
    ⟨by decide, by decide, p.isLt, n.isLt, by decide, trivial⟩
  refine decode_odd (by omega) ?_ hwf
  rw [fields_7c (number_at sum hf 1 rfl rfl), decodeMajor7c, if_neg (by unfold nbits; have := n.isLt; have := p.isLt; omega), if_pos (number_at sum hf 4 (lo := 13) rfl rfl)]
  rw [field_at sum hf 3 (lo := 12) (f := n) rfl rfl, field_at sum hf 2 (lo := 8) (f := p) rfl rfl]

theorem Encodes.tretNext (n : BitVec 1) (p : BitVec 4) : Encodes.Statement (.tretNext n p) := by
  intro hwf nb word henc
  have hword : some (32, 0x20020f9 + n.toNat * 2 ^ 12 + p.toNat * 2 ^ 8) = some (nb, word) := henc
  obtain ⟨rfl, hsum⟩ := words_of hword
  have sum : word = joined [(1, 1), (7, 0x7c), (4, p.toNat), (1, n.toNat), (19, 4097)] := by
    rw [← hsum]
    simp only [joined]
    ring
  have hf : Fits [(1, 1), (7, 0x7c), (4, p.toNat), (1, n.toNat), (19, 4097)] :=
    ⟨by decide, by decide, p.isLt, n.isLt, by decide, trivial⟩
  refine decode_odd (by omega) ?_ hwf
  rw [fields_7c (number_at sum hf 1 rfl rfl), decodeMajor7c, if_neg (by unfold nbits; have := n.isLt; have := p.isLt; omega), if_neg (fun hc => absurd ((number_at sum hf 4 (lo := 13) rfl rfl).symm.trans hc) (by decide)), if_pos (number_at sum hf 4 (lo := 13) rfl rfl)]
  rw [field_at sum hf 3 (lo := 12) (f := n) rfl rfl, field_at sum hf 2 (lo := 8) (f := p) rfl rfl]

theorem Encodes.brk (k : BitVec 6) (n : BitVec 1) (p : BitVec 4) : Encodes.Statement (.brk k n p) := by
  intro hwf nb word henc
  have hword : some (32, 0x40000f9 + k.toNat * 2 ^ 19 + n.toNat * 2 ^ 12 + p.toNat * 2 ^ 8) = some (nb, word) := henc
  obtain ⟨rfl, hsum⟩ := words_of hword
  have sum : word = joined [(1, 1), (7, 0x7c), (4, p.toNat), (1, n.toNat), (6, 0), (6, k.toNat), (7, 2)] := by
    rw [← hsum]
    simp only [joined]
    ring
  have hf : Fits [(1, 1), (7, 0x7c), (4, p.toNat), (1, n.toNat), (6, 0), (6, k.toNat), (7, 2)] :=
    ⟨by decide, by decide, p.isLt, n.isLt, by decide, k.isLt, by decide, trivial⟩
  refine decode_odd (by omega) ?_ hwf
  rw [fields_7c (number_at sum hf 1 rfl rfl), decodeMajor7c, if_neg (fun hc => absurd ((number_at sum hf 6 (lo := 25) rfl rfl).symm.trans hc.2) (by decide)), if_neg (by unfold nbits; have := k.isLt; have := n.isLt; have := p.isLt; omega), if_neg (by unfold nbits; have := k.isLt; have := n.isLt; have := p.isLt; omega), if_pos ⟨number_at sum hf 4 (lo := 13) rfl rfl, number_at sum hf 6 (lo := 25) rfl rfl⟩]
  rw [field_at sum hf 5 (lo := 19) (f := k) rfl rfl, field_at sum hf 3 (lo := 12) (f := n) rfl rfl, field_at sum hf 2 (lo := 8) (f := p) rfl rfl]

theorem Encodes.ticket (a : BitVec 4) (d : BitVec 6) (n : BitVec 1) (p : BitVec 4) : Encodes.Statement (.ticket a d n p) := by
  intro hwf nb word henc
  have hword : some (32, 0x60000f9 + a.toNat * 2 ^ 20 + d.toNat * 2 ^ 13 + n.toNat * 2 ^ 12 + p.toNat * 2 ^ 8) = some (nb, word) := henc
  obtain ⟨rfl, hsum⟩ := words_of hword
  have sum : word = joined [(1, 1), (7, 0x7c), (4, p.toNat), (1, n.toNat), (6, d.toNat), (1, 0), (4, a.toNat), (8, 6)] := by
    rw [← hsum]
    simp only [joined]
    ring
  have hf : Fits [(1, 1), (7, 0x7c), (4, p.toNat), (1, n.toNat), (6, d.toNat), (1, 0), (4, a.toNat), (8, 6)] :=
    ⟨by decide, by decide, p.isLt, n.isLt, d.isLt, by decide, a.isLt, by decide, trivial⟩
  refine decode_odd (by omega) ?_ hwf
  rw [fields_7c (number_at sum hf 1 rfl rfl), decodeMajor7c, if_neg (by unfold nbits; have := a.isLt; have := d.isLt; have := n.isLt; have := p.isLt; omega), if_neg (by unfold nbits; have := a.isLt; have := d.isLt; have := n.isLt; have := p.isLt; omega), if_neg (by unfold nbits; have := a.isLt; have := d.isLt; have := n.isLt; have := p.isLt; omega), if_neg (by unfold nbits; have := a.isLt; have := d.isLt; have := n.isLt; have := p.isLt; omega), if_pos ⟨number_at sum hf 5 (lo := 19) rfl rfl, number_at sum hf 7 (lo := 24) rfl rfl⟩]
  rw [field_at sum hf 6 (lo := 20) (f := a) rfl rfl, field_at sum hf 4 (lo := 13) (f := d) rfl rfl, field_at sum hf 3 (lo := 12) (f := n) rfl rfl, field_at sum hf 2 (lo := 8) (f := p) rfl rfl]

theorem Encodes.mfs (k : BitVec 7) (d : BitVec 6) (n : BitVec 1) (p : BitVec 4) : Encodes.Statement (.mfs k d n p) := by
  intro hwf nb word henc
  have hword : some (32, 0xfb + k.toNat * 2 ^ 25 + d.toNat * 2 ^ 13 + n.toNat * 2 ^ 12 + p.toNat * 2 ^ 8) = some (nb, word) := henc
  obtain ⟨rfl, hsum⟩ := words_of hword
  have sum : word = joined [(1, 1), (7, 0x7d), (4, p.toNat), (1, n.toNat), (6, d.toNat), (6, 0), (7, k.toNat)] := by
    rw [← hsum]
    simp only [joined]
    ring
  have hf : Fits [(1, 1), (7, 0x7d), (4, p.toNat), (1, n.toNat), (6, d.toNat), (6, 0), (7, k.toNat)] :=
    ⟨by decide, by decide, p.isLt, n.isLt, d.isLt, by decide, k.isLt, trivial⟩
  refine decode_odd (by omega) ?_ hwf
  rw [fields_7d (number_at sum hf 1 rfl rfl), decodeMajor7d, if_pos (number_at sum hf 5 (lo := 19) rfl rfl)]
  rw [field_at sum hf 6 (lo := 25) (f := k) rfl rfl, field_at sum hf 4 (lo := 13) (f := d) rfl rfl, field_at sum hf 3 (lo := 12) (f := n) rfl rfl, field_at sum hf 2 (lo := 8) (f := p) rfl rfl]

theorem Encodes.mts (k : BitVec 7) (a : BitVec 6) (n : BitVec 1) (p : BitVec 4) : Encodes.Statement (.mts k a n p) := by
  intro hwf nb word henc
  have hword : some (32, 0xfd + k.toNat * 2 ^ 25 + a.toNat * 2 ^ 19 + n.toNat * 2 ^ 12 + p.toNat * 2 ^ 8) = some (nb, word) := henc
  obtain ⟨rfl, hsum⟩ := words_of hword
  have sum : word = joined [(1, 1), (7, 0x7e), (4, p.toNat), (1, n.toNat), (6, 0), (6, a.toNat), (7, k.toNat)] := by
    rw [← hsum]
    simp only [joined]
    ring
  have hf : Fits [(1, 1), (7, 0x7e), (4, p.toNat), (1, n.toNat), (6, 0), (6, a.toNat), (7, k.toNat)] :=
    ⟨by decide, by decide, p.isLt, n.isLt, by decide, a.isLt, k.isLt, trivial⟩
  refine decode_odd (by omega) ?_ hwf
  rw [fields_7e (number_at sum hf 1 rfl rfl), decodeMajor7e, if_pos (number_at sum hf 4 (lo := 13) rfl rfl)]
  rw [field_at sum hf 6 (lo := 25) (f := k) rfl rfl, field_at sum hf 5 (lo := 19) (f := a) rfl rfl, field_at sum hf 3 (lo := 12) (f := n) rfl rfl, field_at sum hf 2 (lo := 8) (f := p) rfl rfl]

theorem Encodes.add16 (b : BitVec 5) (d : BitVec 6) : Encodes.Statement (.add16 b d) := by
  intro hwf nb word henc
  have hword : some (16, 0x0 + b.toNat * 2 ^ 11 + d.toNat * 2 ^ 5) = some (nb, word) := henc
  obtain ⟨rfl, hsum⟩ := words_of hword
  have sum : word = joined [(5, 0), (6, d.toNat), (5, b.toNat)] := by
    rw [← hsum]
    simp only [joined]
    ring
  have hf : Fits [(5, 0), (6, d.toNat), (5, b.toNat)] :=
    ⟨by decide, d.isLt, b.isLt, trivial⟩
  have hb : word < 65536 := by have := b.isLt; have := d.isLt; omega
  have hop : nbits word 1 4 = 0 := by unfold nbits; have := b.isLt; have := d.isLt; omega
  have hd : decodeShort word = some (.add16 (bits word 11 5) (bits word 5 6)) := by
    unfold decodeShort
    rw [hop]
    rfl
  refine decode_short hb ?_ hwf
  rw [hd, field_at sum hf 2 (lo := 11) (f := b) rfl rfl, field_at sum hf 1 (lo := 5) (f := d) rfl rfl]

theorem Encodes.sub16 (b : BitVec 5) (d : BitVec 6) : Encodes.Statement (.sub16 b d) := by
  intro hwf nb word henc
  have hword : some (16, 0x2 + b.toNat * 2 ^ 11 + d.toNat * 2 ^ 5) = some (nb, word) := henc
  obtain ⟨rfl, hsum⟩ := words_of hword
  have sum : word = joined [(5, 2), (6, d.toNat), (5, b.toNat)] := by
    rw [← hsum]
    simp only [joined]
    ring
  have hf : Fits [(5, 2), (6, d.toNat), (5, b.toNat)] :=
    ⟨by decide, d.isLt, b.isLt, trivial⟩
  have hb : word < 65536 := by have := b.isLt; have := d.isLt; omega
  have hop : nbits word 1 4 = 1 := by unfold nbits; have := b.isLt; have := d.isLt; omega
  have hd : decodeShort word = some (.sub16 (bits word 11 5) (bits word 5 6)) := by
    unfold decodeShort
    rw [hop]
    rfl
  refine decode_short hb ?_ hwf
  rw [hd, field_at sum hf 2 (lo := 11) (f := b) rfl rfl, field_at sum hf 1 (lo := 5) (f := d) rfl rfl]

theorem Encodes.mul16 (b : BitVec 5) (d : BitVec 6) : Encodes.Statement (.mul16 b d) := by
  intro hwf nb word henc
  have hword : some (16, 0x4 + b.toNat * 2 ^ 11 + d.toNat * 2 ^ 5) = some (nb, word) := henc
  obtain ⟨rfl, hsum⟩ := words_of hword
  have sum : word = joined [(5, 4), (6, d.toNat), (5, b.toNat)] := by
    rw [← hsum]
    simp only [joined]
    ring
  have hf : Fits [(5, 4), (6, d.toNat), (5, b.toNat)] :=
    ⟨by decide, d.isLt, b.isLt, trivial⟩
  have hb : word < 65536 := by have := b.isLt; have := d.isLt; omega
  have hop : nbits word 1 4 = 2 := by unfold nbits; have := b.isLt; have := d.isLt; omega
  have hd : decodeShort word = some (.mul16 (bits word 11 5) (bits word 5 6)) := by
    unfold decodeShort
    rw [hop]
    rfl
  refine decode_short hb ?_ hwf
  rw [hd, field_at sum hf 2 (lo := 11) (f := b) rfl rfl, field_at sum hf 1 (lo := 5) (f := d) rfl rfl]

theorem Encodes.and16 (b : BitVec 5) (d : BitVec 6) : Encodes.Statement (.and16 b d) := by
  intro hwf nb word henc
  have hword : some (16, 0x6 + b.toNat * 2 ^ 11 + d.toNat * 2 ^ 5) = some (nb, word) := henc
  obtain ⟨rfl, hsum⟩ := words_of hword
  have sum : word = joined [(5, 6), (6, d.toNat), (5, b.toNat)] := by
    rw [← hsum]
    simp only [joined]
    ring
  have hf : Fits [(5, 6), (6, d.toNat), (5, b.toNat)] :=
    ⟨by decide, d.isLt, b.isLt, trivial⟩
  have hb : word < 65536 := by have := b.isLt; have := d.isLt; omega
  have hop : nbits word 1 4 = 3 := by unfold nbits; have := b.isLt; have := d.isLt; omega
  have hd : decodeShort word = some (.and16 (bits word 11 5) (bits word 5 6)) := by
    unfold decodeShort
    rw [hop]
    rfl
  refine decode_short hb ?_ hwf
  rw [hd, field_at sum hf 2 (lo := 11) (f := b) rfl rfl, field_at sum hf 1 (lo := 5) (f := d) rfl rfl]

theorem Encodes.or16 (b : BitVec 5) (d : BitVec 6) : Encodes.Statement (.or16 b d) := by
  intro hwf nb word henc
  have hword : some (16, 0x8 + b.toNat * 2 ^ 11 + d.toNat * 2 ^ 5) = some (nb, word) := henc
  obtain ⟨rfl, hsum⟩ := words_of hword
  have sum : word = joined [(5, 8), (6, d.toNat), (5, b.toNat)] := by
    rw [← hsum]
    simp only [joined]
    ring
  have hf : Fits [(5, 8), (6, d.toNat), (5, b.toNat)] :=
    ⟨by decide, d.isLt, b.isLt, trivial⟩
  have hb : word < 65536 := by have := b.isLt; have := d.isLt; omega
  have hop : nbits word 1 4 = 4 := by unfold nbits; have := b.isLt; have := d.isLt; omega
  have hd : decodeShort word = some (.or16 (bits word 11 5) (bits word 5 6)) := by
    unfold decodeShort
    rw [hop]
    rfl
  refine decode_short hb ?_ hwf
  rw [hd, field_at sum hf 2 (lo := 11) (f := b) rfl rfl, field_at sum hf 1 (lo := 5) (f := d) rfl rfl]

theorem Encodes.xor16 (b : BitVec 5) (d : BitVec 6) : Encodes.Statement (.xor16 b d) := by
  intro hwf nb word henc
  have hword : some (16, 0xa + b.toNat * 2 ^ 11 + d.toNat * 2 ^ 5) = some (nb, word) := henc
  obtain ⟨rfl, hsum⟩ := words_of hword
  have sum : word = joined [(5, 10), (6, d.toNat), (5, b.toNat)] := by
    rw [← hsum]
    simp only [joined]
    ring
  have hf : Fits [(5, 10), (6, d.toNat), (5, b.toNat)] :=
    ⟨by decide, d.isLt, b.isLt, trivial⟩
  have hb : word < 65536 := by have := b.isLt; have := d.isLt; omega
  have hop : nbits word 1 4 = 5 := by unfold nbits; have := b.isLt; have := d.isLt; omega
  have hd : decodeShort word = some (.xor16 (bits word 11 5) (bits word 5 6)) := by
    unfold decodeShort
    rw [hop]
    rfl
  refine decode_short hb ?_ hwf
  rw [hd, field_at sum hf 2 (lo := 11) (f := b) rfl rfl, field_at sum hf 1 (lo := 5) (f := d) rfl rfl]

theorem Encodes.shl16 (b : BitVec 5) (d : BitVec 6) : Encodes.Statement (.shl16 b d) := by
  intro hwf nb word henc
  have hword : some (16, 0xc + b.toNat * 2 ^ 11 + d.toNat * 2 ^ 5) = some (nb, word) := henc
  obtain ⟨rfl, hsum⟩ := words_of hword
  have sum : word = joined [(5, 12), (6, d.toNat), (5, b.toNat)] := by
    rw [← hsum]
    simp only [joined]
    ring
  have hf : Fits [(5, 12), (6, d.toNat), (5, b.toNat)] :=
    ⟨by decide, d.isLt, b.isLt, trivial⟩
  have hb : word < 65536 := by have := b.isLt; have := d.isLt; omega
  have hop : nbits word 1 4 = 6 := by unfold nbits; have := b.isLt; have := d.isLt; omega
  have hd : decodeShort word = some (.shl16 (bits word 11 5) (bits word 5 6)) := by
    unfold decodeShort
    rw [hop]
    rfl
  refine decode_short hb ?_ hwf
  rw [hd, field_at sum hf 2 (lo := 11) (f := b) rfl rfl, field_at sum hf 1 (lo := 5) (f := d) rfl rfl]

theorem Encodes.shr16 (b : BitVec 5) (d : BitVec 6) : Encodes.Statement (.shr16 b d) := by
  intro hwf nb word henc
  have hword : some (16, 0xe + b.toNat * 2 ^ 11 + d.toNat * 2 ^ 5) = some (nb, word) := henc
  obtain ⟨rfl, hsum⟩ := words_of hword
  have sum : word = joined [(5, 14), (6, d.toNat), (5, b.toNat)] := by
    rw [← hsum]
    simp only [joined]
    ring
  have hf : Fits [(5, 14), (6, d.toNat), (5, b.toNat)] :=
    ⟨by decide, d.isLt, b.isLt, trivial⟩
  have hb : word < 65536 := by have := b.isLt; have := d.isLt; omega
  have hop : nbits word 1 4 = 7 := by unfold nbits; have := b.isLt; have := d.isLt; omega
  have hd : decodeShort word = some (.shr16 (bits word 11 5) (bits word 5 6)) := by
    unfold decodeShort
    rw [hop]
    rfl
  refine decode_short hb ?_ hwf
  rw [hd, field_at sum hf 2 (lo := 11) (f := b) rfl rfl, field_at sum hf 1 (lo := 5) (f := d) rfl rfl]

theorem Encodes.sra16 (b : BitVec 5) (d : BitVec 6) : Encodes.Statement (.sra16 b d) := by
  intro hwf nb word henc
  have hword : some (16, 0x10 + b.toNat * 2 ^ 11 + d.toNat * 2 ^ 5) = some (nb, word) := henc
  obtain ⟨rfl, hsum⟩ := words_of hword
  have sum : word = joined [(5, 16), (6, d.toNat), (5, b.toNat)] := by
    rw [← hsum]
    simp only [joined]
    ring
  have hf : Fits [(5, 16), (6, d.toNat), (5, b.toNat)] :=
    ⟨by decide, d.isLt, b.isLt, trivial⟩
  have hb : word < 65536 := by have := b.isLt; have := d.isLt; omega
  have hop : nbits word 1 4 = 8 := by unfold nbits; have := b.isLt; have := d.isLt; omega
  have hd : decodeShort word = some (.sra16 (bits word 11 5) (bits word 5 6)) := by
    unfold decodeShort
    rw [hop]
    rfl
  refine decode_short hb ?_ hwf
  rw [hd, field_at sum hf 2 (lo := 11) (f := b) rfl rfl, field_at sum hf 1 (lo := 5) (f := d) rfl rfl]

theorem Encodes.mov16 (b : BitVec 5) (d : BitVec 6) : Encodes.Statement (.mov16 b d) := by
  intro hwf nb word henc
  have hword : some (16, 0x12 + b.toNat * 2 ^ 11 + d.toNat * 2 ^ 5) = some (nb, word) := henc
  obtain ⟨rfl, hsum⟩ := words_of hword
  have sum : word = joined [(5, 18), (6, d.toNat), (5, b.toNat)] := by
    rw [← hsum]
    simp only [joined]
    ring
  have hf : Fits [(5, 18), (6, d.toNat), (5, b.toNat)] :=
    ⟨by decide, d.isLt, b.isLt, trivial⟩
  have hb : word < 65536 := by have := b.isLt; have := d.isLt; omega
  have hop : nbits word 1 4 = 9 := by unfold nbits; have := b.isLt; have := d.isLt; omega
  have hd : decodeShort word = some (.mov16 (bits word 11 5) (bits word 5 6)) := by
    unfold decodeShort
    rw [hop]
    rfl
  refine decode_short hb ?_ hwf
  rw [hd, field_at sum hf 2 (lo := 11) (f := b) rfl rfl, field_at sum hf 1 (lo := 5) (f := d) rfl rfl]

theorem Encodes.min16 (b : BitVec 5) (d : BitVec 6) : Encodes.Statement (.min16 b d) := by
  intro hwf nb word henc
  have hword : some (16, 0x14 + b.toNat * 2 ^ 11 + d.toNat * 2 ^ 5) = some (nb, word) := henc
  obtain ⟨rfl, hsum⟩ := words_of hword
  have sum : word = joined [(5, 20), (6, d.toNat), (5, b.toNat)] := by
    rw [← hsum]
    simp only [joined]
    ring
  have hf : Fits [(5, 20), (6, d.toNat), (5, b.toNat)] :=
    ⟨by decide, d.isLt, b.isLt, trivial⟩
  have hb : word < 65536 := by have := b.isLt; have := d.isLt; omega
  have hop : nbits word 1 4 = 10 := by unfold nbits; have := b.isLt; have := d.isLt; omega
  have hd : decodeShort word = some (.min16 (bits word 11 5) (bits word 5 6)) := by
    unfold decodeShort
    rw [hop]
    rfl
  refine decode_short hb ?_ hwf
  rw [hd, field_at sum hf 2 (lo := 11) (f := b) rfl rfl, field_at sum hf 1 (lo := 5) (f := d) rfl rfl]

theorem Encodes.max16 (b : BitVec 5) (d : BitVec 6) : Encodes.Statement (.max16 b d) := by
  intro hwf nb word henc
  have hword : some (16, 0x16 + b.toNat * 2 ^ 11 + d.toNat * 2 ^ 5) = some (nb, word) := henc
  obtain ⟨rfl, hsum⟩ := words_of hword
  have sum : word = joined [(5, 22), (6, d.toNat), (5, b.toNat)] := by
    rw [← hsum]
    simp only [joined]
    ring
  have hf : Fits [(5, 22), (6, d.toNat), (5, b.toNat)] :=
    ⟨by decide, d.isLt, b.isLt, trivial⟩
  have hb : word < 65536 := by have := b.isLt; have := d.isLt; omega
  have hop : nbits word 1 4 = 11 := by unfold nbits; have := b.isLt; have := d.isLt; omega
  have hd : decodeShort word = some (.max16 (bits word 11 5) (bits word 5 6)) := by
    unfold decodeShort
    rw [hop]
    rfl
  refine decode_short hb ?_ hwf
  rw [hd, field_at sum hf 2 (lo := 11) (f := b) rfl rfl, field_at sum hf 1 (lo := 5) (f := d) rfl rfl]

theorem Encodes.fadd16 (b : BitVec 5) (d : BitVec 6) : Encodes.Statement (.fadd16 b d) := by
  intro hwf nb word henc
  have hword : some (16, 0x18 + b.toNat * 2 ^ 11 + d.toNat * 2 ^ 5) = some (nb, word) := henc
  obtain ⟨rfl, hsum⟩ := words_of hword
  have sum : word = joined [(5, 24), (6, d.toNat), (5, b.toNat)] := by
    rw [← hsum]
    simp only [joined]
    ring
  have hf : Fits [(5, 24), (6, d.toNat), (5, b.toNat)] :=
    ⟨by decide, d.isLt, b.isLt, trivial⟩
  have hb : word < 65536 := by have := b.isLt; have := d.isLt; omega
  have hop : nbits word 1 4 = 12 := by unfold nbits; have := b.isLt; have := d.isLt; omega
  have hd : decodeShort word = some (.fadd16 (bits word 11 5) (bits word 5 6)) := by
    unfold decodeShort
    rw [hop]
    rfl
  refine decode_short hb ?_ hwf
  rw [hd, field_at sum hf 2 (lo := 11) (f := b) rfl rfl, field_at sum hf 1 (lo := 5) (f := d) rfl rfl]

theorem Encodes.fmul16 (b : BitVec 5) (d : BitVec 6) : Encodes.Statement (.fmul16 b d) := by
  intro hwf nb word henc
  have hword : some (16, 0x1a + b.toNat * 2 ^ 11 + d.toNat * 2 ^ 5) = some (nb, word) := henc
  obtain ⟨rfl, hsum⟩ := words_of hword
  have sum : word = joined [(5, 26), (6, d.toNat), (5, b.toNat)] := by
    rw [← hsum]
    simp only [joined]
    ring
  have hf : Fits [(5, 26), (6, d.toNat), (5, b.toNat)] :=
    ⟨by decide, d.isLt, b.isLt, trivial⟩
  have hb : word < 65536 := by have := b.isLt; have := d.isLt; omega
  have hop : nbits word 1 4 = 13 := by unfold nbits; have := b.isLt; have := d.isLt; omega
  have hd : decodeShort word = some (.fmul16 (bits word 11 5) (bits word 5 6)) := by
    unfold decodeShort
    rw [hop]
    rfl
  refine decode_short hb ?_ hwf
  rw [hd, field_at sum hf 2 (lo := 11) (f := b) rfl rfl, field_at sum hf 1 (lo := 5) (f := d) rfl rfl]

theorem Encodes.fmad16 (b : BitVec 5) (d : BitVec 6) : Encodes.Statement (.fmad16 b d) := by
  intro hwf nb word henc
  have hword : some (16, 0x1c + b.toNat * 2 ^ 11 + d.toNat * 2 ^ 5) = some (nb, word) := henc
  obtain ⟨rfl, hsum⟩ := words_of hword
  have sum : word = joined [(5, 28), (6, d.toNat), (5, b.toNat)] := by
    rw [← hsum]
    simp only [joined]
    ring
  have hf : Fits [(5, 28), (6, d.toNat), (5, b.toNat)] :=
    ⟨by decide, d.isLt, b.isLt, trivial⟩
  have hb : word < 65536 := by have := b.isLt; have := d.isLt; omega
  have hop : nbits word 1 4 = 14 := by unfold nbits; have := b.isLt; have := d.isLt; omega
  have hd : decodeShort word = some (.fmad16 (bits word 11 5) (bits word 5 6)) := by
    unfold decodeShort
    rw [hop]
    rfl
  refine decode_short hb ?_ hwf
  rw [hd, field_at sum hf 2 (lo := 11) (f := b) rfl rfl, field_at sum hf 1 (lo := 5) (f := d) rfl rfl]

theorem Encodes.fmax16 (b : BitVec 5) (d : BitVec 6) : Encodes.Statement (.fmax16 b d) := by
  intro hwf nb word henc
  have hword : some (16, 0x1e + b.toNat * 2 ^ 11 + d.toNat * 2 ^ 5) = some (nb, word) := henc
  obtain ⟨rfl, hsum⟩ := words_of hword
  have sum : word = joined [(5, 30), (6, d.toNat), (5, b.toNat)] := by
    rw [← hsum]
    simp only [joined]
    ring
  have hf : Fits [(5, 30), (6, d.toNat), (5, b.toNat)] :=
    ⟨by decide, d.isLt, b.isLt, trivial⟩
  have hb : word < 65536 := by have := b.isLt; have := d.isLt; omega
  have hop : nbits word 1 4 = 15 := by unfold nbits; have := b.isLt; have := d.isLt; omega
  have hd : decodeShort word = some (.fmax16 (bits word 11 5) (bits word 5 6)) := by
    unfold decodeShort
    rw [hop]
    rfl
  refine decode_short hb ?_ hwf
  rw [hd, field_at sum hf 2 (lo := 11) (f := b) rfl rfl, field_at sum hf 1 (lo := 5) (f := d) rfl rfl]

theorem Encodes.fd (g : BitVec 2) (a : BitVec 16) (w : BitVec 8) : Encodes.Statement (.fd g a w) := by
  intro hwf nb word henc
  have hword : some (32, 0x20000000 + g.toNat * 2 ^ 24 + a.toNat * 2 ^ 8 + w.toNat * 2 ^ 0) = some (nb, word) := henc
  obtain ⟨rfl, hsum⟩ := words_of hword
  have sum : word = joined [(8, w.toNat), (16, a.toNat), (2, g.toNat), (6, 8)] := by
    rw [← hsum]
    simp only [joined]
    ring
  have hf : Fits [(8, w.toNat), (16, a.toNat), (2, g.toNat), (6, 8)] :=
    ⟨w.isLt, a.isLt, g.isLt, by decide, trivial⟩
  have hz := back_even (of_decide_eq_true hwf).2
  refine decode_even (by omega) ?_ hwf
  rw [decodeBench, if_pos (number_at sum hf 3 (lo := 26) rfl rfl)]
  rw [field_at sum hf 2 (lo := 24) (f := g) rfl rfl, field_at sum hf 1 (lo := 8) (f := a) rfl rfl, field_at sum hf 0 (lo := 0) (f := w) rfl rfl]

theorem Encodes.fs (b : BitVec 2) (q : BitVec 1) (z : BitVec 1) (a : BitVec 16) (w : BitVec 8) : Encodes.Statement (.fs b q z a w) := by
  intro hwf nb word henc
  have hword : some (32, 0x40000000 + b.toNat * 2 ^ 26 + q.toNat * 2 ^ 25 + z.toNat * 2 ^ 24 + a.toNat * 2 ^ 8 + w.toNat * 2 ^ 0) = some (nb, word) := henc
  obtain ⟨rfl, hsum⟩ := words_of hword
  have sum : word = joined [(8, w.toNat), (16, a.toNat), (1, z.toNat), (1, q.toNat), (2, b.toNat), (4, 4)] := by
    rw [← hsum]
    simp only [joined]
    ring
  have hf : Fits [(8, w.toNat), (16, a.toNat), (1, z.toNat), (1, q.toNat), (2, b.toNat), (4, 4)] :=
    ⟨w.isLt, a.isLt, z.isLt, q.isLt, b.isLt, by decide, trivial⟩
  have hz := back_even (of_decide_eq_true hwf).2
  refine decode_even (by omega) ?_ hwf
  rw [decodeBench, if_neg (by unfold nbits; have := b.isLt; have := q.isLt; have := z.isLt; have := a.isLt; have := w.isLt; omega), if_pos (number_at sum hf 5 (lo := 28) rfl rfl)]
  rw [field_at sum hf 4 (lo := 26) (f := b) rfl rfl, field_at sum hf 3 (lo := 25) (f := q) rfl rfl, field_at sum hf 2 (lo := 24) (f := z) rfl rfl, field_at sum hf 1 (lo := 8) (f := a) rfl rfl, field_at sum hf 0 (lo := 0) (f := w) rfl rfl]

theorem Encodes.mac (f : BitVec 8) (y : BitVec 2) (g : BitVec 2) (e : BitVec 3) (z : BitVec 1) (w : BitVec 8) : Encodes.Statement (.mac f y g e z w) := by
  intro hwf nb word henc
  have hword : some (32, 0x100000 + f.toNat * 2 ^ 24 + y.toNat * 2 ^ 18 + g.toNat * 2 ^ 16 + e.toNat * 2 ^ 13 + z.toNat * 2 ^ 12 + w.toNat * 2 ^ 0) = some (nb, word) := henc
  obtain ⟨rfl, hsum⟩ := words_of hword
  have sum : word = joined [(8, w.toNat), (4, 0), (1, z.toNat), (3, e.toNat), (2, g.toNat), (2, y.toNat), (4, 1), (8, f.toNat)] := by
    rw [← hsum]
    simp only [joined]
    ring
  have hf : Fits [(8, w.toNat), (4, 0), (1, z.toNat), (3, e.toNat), (2, g.toNat), (2, y.toNat), (4, 1), (8, f.toNat)] :=
    ⟨w.isLt, by decide, z.isLt, e.isLt, g.isLt, y.isLt, by decide, f.isLt, trivial⟩
  obtain ⟨rfl, hb⟩ := of_decide_eq_true hwf
  have hz := back_even hb
  have hF : (0 : BitVec 8).toNat = 0 := rfl
  refine decode_even (by omega) ?_ hwf
  rw [decodeBench, if_neg (by unfold nbits; have := hF; have := y.isLt; have := g.isLt; have := e.isLt; have := z.isLt; have := w.isLt; omega), if_neg (by unfold nbits; have := hF; have := y.isLt; have := g.isLt; have := e.isLt; have := z.isLt; have := w.isLt; omega), if_pos ⟨number_at sum hf 1 (lo := 8) rfl rfl, number_at sum hf 6 (lo := 20) rfl rfl⟩]
  rw [field_at sum hf 7 (lo := 24) (f := 0) rfl rfl, field_at sum hf 5 (lo := 18) (f := y) rfl rfl, field_at sum hf 4 (lo := 16) (f := g) rfl rfl, field_at sum hf 3 (lo := 13) (f := e) rfl rfl, field_at sum hf 2 (lo := 12) (f := z) rfl rfl, field_at sum hf 0 (lo := 0) (f := w) rfl rfl]

theorem Encodes.yzero (f : BitVec 8) (y : BitVec 2) (w : BitVec 8) : Encodes.Statement (.yzero f y w) := by
  intro hwf nb word henc
  have hword : some (32, 0x200000 + f.toNat * 2 ^ 24 + y.toNat * 2 ^ 18 + w.toNat * 2 ^ 0) = some (nb, word) := henc
  obtain ⟨rfl, hsum⟩ := words_of hword
  have sum : word = joined [(8, w.toNat), (10, 0), (2, y.toNat), (4, 2), (8, f.toNat)] := by
    rw [← hsum]
    simp only [joined]
    ring
  have hf : Fits [(8, w.toNat), (10, 0), (2, y.toNat), (4, 2), (8, f.toNat)] :=
    ⟨w.isLt, by decide, y.isLt, by decide, f.isLt, trivial⟩
  obtain ⟨rfl, hb⟩ := of_decide_eq_true hwf
  have hz := back_even hb
  have hF : (0 : BitVec 8).toNat = 0 := rfl
  refine decode_even (by omega) ?_ hwf
  rw [decodeBench, if_neg (by unfold nbits; have := hF; have := y.isLt; have := w.isLt; omega), if_neg (by unfold nbits; have := hF; have := y.isLt; have := w.isLt; omega), if_neg (fun hc => absurd ((number_at sum hf 3 (lo := 20) rfl rfl).symm.trans hc.2) (by decide)), if_pos ⟨number_at sum hf 1 (lo := 8) rfl rfl, number_at sum hf 3 (lo := 20) rfl rfl⟩]
  rw [field_at sum hf 4 (lo := 24) (f := 0) rfl rfl, field_at sum hf 2 (lo := 18) (f := y) rfl rfl, field_at sum hf 0 (lo := 0) (f := w) rfl rfl]

theorem Encodes.push (f : BitVec 8) (a : BitVec 16) (y : BitVec 2) : Encodes.Statement (.push f a y) := by
  intro hwf nb word henc
  have hword : some (32, 0x20 + f.toNat * 2 ^ 24 + a.toNat * 2 ^ 8 + y.toNat * 2 ^ 3) = some (nb, word) := henc
  obtain ⟨rfl, hsum⟩ := words_of hword
  have sum : word = joined [(3, 0), (2, y.toNat), (3, 1), (16, a.toNat), (8, f.toNat)] := by
    rw [← hsum]
    simp only [joined]
    ring
  have hf : Fits [(3, 0), (2, y.toNat), (3, 1), (16, a.toNat), (8, f.toNat)] :=
    ⟨by decide, y.isLt, by decide, a.isLt, f.isLt, trivial⟩
  obtain ⟨rfl, rfl⟩ := of_decide_eq_true hwf
  have hF : (0 : BitVec 8).toNat = 0 := rfl
  have hA : (0 : BitVec 16).toNat = 0 := rfl
  refine decode_even (by omega) ?_ hwf
  rw [decodeBench, if_neg (by unfold nbits; have := hF; have := hA; have := y.isLt; omega), if_neg (by unfold nbits; have := hF; have := hA; have := y.isLt; omega), if_neg (by unfold nbits; have := hF; have := hA; have := y.isLt; omega), if_neg (by unfold nbits; have := hF; have := hA; have := y.isLt; omega), if_pos ⟨number_at sum hf 0 (lo := 0) rfl rfl, number_at sum hf 2 (lo := 5) rfl rfl⟩]
  rw [field_at sum hf 4 (lo := 24) (f := 0) rfl rfl, field_at sum hf 3 (lo := 8) (f := 0) rfl rfl, field_at sum hf 1 (lo := 3) (f := y) rfl rfl]

theorem Encodes.next (f : BitVec 8) (a : BitVec 16) : Encodes.Statement (.next f a) := by
  intro hwf nb word henc
  have hword : some (32, 0x40 + f.toNat * 2 ^ 24 + a.toNat * 2 ^ 8) = some (nb, word) := henc
  obtain ⟨rfl, hsum⟩ := words_of hword
  have sum : word = joined [(8, 64), (16, a.toNat), (8, f.toNat)] := by
    rw [← hsum]
    simp only [joined]
    ring
  have hf : Fits [(8, 64), (16, a.toNat), (8, f.toNat)] :=
    ⟨by decide, a.isLt, f.isLt, trivial⟩
  obtain ⟨rfl, rfl⟩ := of_decide_eq_true hwf
  have hF : (0 : BitVec 8).toNat = 0 := rfl
  have hA : (0 : BitVec 16).toNat = 0 := rfl
  refine decode_even (by rw [← hsum]; rfl) ?_ hwf
  rw [decodeBench, if_neg (by unfold nbits; have := hF; have := hA; omega), if_neg (by unfold nbits; have := hF; have := hA; omega), if_neg (by unfold nbits; have := hF; have := hA; omega), if_neg (by unfold nbits; have := hF; have := hA; omega), if_neg (by unfold nbits; have := hF; have := hA; omega), if_pos (number_at sum hf 0 (lo := 0) rfl rfl)]
  rw [field_at sum hf 2 (lo := 24) (f := 0) rfl rfl, field_at sum hf 1 (lo := 8) (f := 0) rfl rfl]

theorem Encodes.pushn (f : BitVec 8) (a : BitVec 16) (y : BitVec 2) : Encodes.Statement (.pushn f a y) := by
  intro hwf nb word henc
  have hword : some (32, 0x60 + f.toNat * 2 ^ 24 + a.toNat * 2 ^ 8 + y.toNat * 2 ^ 3) = some (nb, word) := henc
  obtain ⟨rfl, hsum⟩ := words_of hword
  have sum : word = joined [(3, 0), (2, y.toNat), (3, 3), (16, a.toNat), (8, f.toNat)] := by
    rw [← hsum]
    simp only [joined]
    ring
  have hf : Fits [(3, 0), (2, y.toNat), (3, 3), (16, a.toNat), (8, f.toNat)] :=
    ⟨by decide, y.isLt, by decide, a.isLt, f.isLt, trivial⟩
  obtain ⟨rfl, rfl⟩ := of_decide_eq_true hwf
  have hF : (0 : BitVec 8).toNat = 0 := rfl
  have hA : (0 : BitVec 16).toNat = 0 := rfl
  refine decode_even (by omega) ?_ hwf
  rw [decodeBench, if_neg (by unfold nbits; have := hF; have := hA; have := y.isLt; omega), if_neg (by unfold nbits; have := hF; have := hA; have := y.isLt; omega), if_neg (by unfold nbits; have := hF; have := hA; have := y.isLt; omega), if_neg (by unfold nbits; have := hF; have := hA; have := y.isLt; omega), if_neg (fun hc => absurd ((number_at sum hf 2 (lo := 5) rfl rfl).symm.trans hc.2) (by decide)), if_neg (by unfold nbits; have := hF; have := hA; have := y.isLt; omega), if_pos ⟨number_at sum hf 0 (lo := 0) rfl rfl, number_at sum hf 2 (lo := 5) rfl rfl⟩]
  rw [field_at sum hf 4 (lo := 24) (f := 0) rfl rfl, field_at sum hf 3 (lo := 8) (f := 0) rfl rfl, field_at sum hf 1 (lo := 3) (f := y) rfl rfl]

theorem Encodes.tailRegisterWrite (q : BitVec 10) (val : BitVec 64) : Encodes.Statement (.tailRegisterWrite q val) := fun _ _ _ h => nomatch h

theorem Encodes.registerWrite (off : BitVec 30) (wide : BitVec 1) (val : BitVec 64) : Encodes.Statement (.registerWrite off wide val) := fun _ _ _ h => nomatch h

theorem Encodes.putDelivery (src : BitVec 10) (tag : BitVec 12) (name : BitVec 32) (thread : BitVec 10) (reg : BitVec 5) (wide : BitVec 1) (data : BitVec 64) (ts : BitVec 64) : Encodes.Statement (.putDelivery src tag name thread reg wide data ts) := fun _ _ _ h => nomatch h

theorem Encodes.remoteRequest (hdr : BitVec 256) (offs : BitVec 512) (data : BitVec 4096) : Encodes.Statement (.remoteRequest hdr offs data) := fun _ _ _ h => nomatch h

theorem Encodes.placementReply (die : BitVec 1) (tag : BitVec 12) (status : BitVec 5) (ts : BitVec 64) (mask : BitVec 32) (data : BitVec 4096) : Encodes.Statement (.placementReply die tag status ts mask data) := fun _ _ _ h => nomatch h

theorem Encodes.prepare (coord : BitVec 10) (id : BitVec 42) (part : BitVec 6) (ctx : BitVec 16) (addr : BitVec 64) (timeout : BitVec 32) : Encodes.Statement (.prepare coord id part ctx addr timeout) := fun _ _ _ h => nomatch h

theorem Encodes.ready (id : BitVec 42) (part : BitVec 6) (ts : BitVec 64) : Encodes.Statement (.ready id part ts) := fun _ _ _ h => nomatch h

theorem Encodes.refuse (id : BitVec 42) (part : BitVec 6) : Encodes.Statement (.refuse id part) := fun _ _ _ h => nomatch h

theorem Encodes.commit (coord : BitVec 10) (id : BitVec 42) (part : BitVec 6) (ts : BitVec 64) : Encodes.Statement (.commit coord id part ts) := fun _ _ _ h => nomatch h

theorem Encodes.abort (coord : BitVec 10) (id : BitVec 42) (part : BitVec 6) : Encodes.Statement (.abort coord id part) := fun _ _ _ h => nomatch h

theorem Encodes.partDoneReport (id : BitVec 42) (part : BitVec 6) (status : BitVec 15) : Encodes.Statement (.partDoneReport id part status) := fun _ _ _ h => nomatch h

theorem Encodes.pageFillComplete (pte : BitVec 52) : Encodes.Statement (.pageFillComplete pte) := fun _ _ _ h => nomatch h

theorem Encodes.commandComplete (q : BitVec 10) (i : BitVec 32) : Encodes.Statement (.commandComplete q i) := fun _ _ _ h => nomatch h

theorem Encodes.spawnBinAgeing (q : BitVec 10) (i : BitVec 32) : Encodes.Statement (.spawnBinAgeing q i) := fun _ _ _ h => nomatch h

theorem Encodes.protocolValidationDone (slot : BitVec 3) : Encodes.Statement (.protocolValidationDone slot) := fun _ _ _ h => nomatch h

theorem Encodes.fillLineLands (line : BitVec 45) : Encodes.Statement (.fillLineLands line) := fun _ _ _ h => nomatch h

theorem Encodes.cxlMemRequest (agent : BitVec 9) (write : BitVec 1) (addr : BitVec 52) (mask : BitVec 64) (data : BitVec 512) : Encodes.Statement (.cxlMemRequest agent write addr mask data) := fun _ _ _ h => nomatch h

theorem Encodes.gets (agent : BitVec 9) (line : BitVec 45) (pt : BitVec 64) : Encodes.Statement (.gets agent line pt) := fun _ _ _ h => nomatch h

theorem Encodes.getx (agent : BitVec 9) (line : BitVec 45) (pt : BitVec 64) (off : BitVec 7) (size : BitVec 3) (op : BitVec 8) (data : BitVec 128) : Encodes.Statement (.getx agent line pt off size op data) := fun _ _ _ h => nomatch h

theorem Encodes.upg (agent : BitVec 9) (line : BitVec 45) (pt : BitVec 64) (off : BitVec 7) (size : BitVec 3) (op : BitVec 8) (data : BitVec 128) : Encodes.Statement (.upg agent line pt off size op data) := fun _ _ _ h => nomatch h

theorem Encodes.putx (agent : BitVec 9) (line : BitVec 45) : Encodes.Statement (.putx agent line) := fun _ _ _ h => nomatch h

theorem Encodes.invack (agent : BitVec 9) (line : BitVec 45) : Encodes.Statement (.invack agent line) := fun _ _ _ h => nomatch h

theorem Encodes.uncorrectableError (unit : BitVec 4) (id : BitVec 32) (addr : BitVec 52) : Encodes.Statement (.uncorrectableError unit id addr) := fun _ _ _ h => nomatch h

theorem Encodes.sensorRefresh (die : BitVec 1) (watts : BitVec 16) (temp : BitVec 8) : Encodes.Statement (.sensorRefresh die watts temp) := fun _ _ _ h => nomatch h

theorem Encodes.portDown (port : BitVec 7) : Encodes.Statement (.portDown port) := fun _ _ _ h => nomatch h

theorem Encodes.waitforReevaluate (q : BitVec 10) (i : BitVec 32) : Encodes.Statement (.waitforReevaluate q i) := fun _ _ _ h => nomatch h

theorem Encodes.detourForward (hdr : BitVec 256) (offs : BitVec 512) (data : BitVec 4096) : Encodes.Statement (.detourForward hdr offs data) := fun _ _ _ h => nomatch h

theorem Encodes.mgovstatClear (cluster : BitVec 7) (val : BitVec 32) : Encodes.Statement (.mgovstatClear cluster val) := fun _ _ _ h => nomatch h

theorem Encodes.bundleDraw (core : BitVec 9) (pipe : BitVec 1) : Encodes.Statement (.bundleDraw core pipe) := fun _ _ _ h => nomatch h

theorem Encodes.binAgeingLimit (core : BitVec 9) (bin : BitVec 32) : Encodes.Statement (.binAgeingLimit core bin) := fun _ _ _ h => nomatch h

theorem Encodes.laneChoiceLimit (core : BitVec 9) (slot : BitVec 6) (quad : BitVec 3) : Encodes.Statement (.laneChoiceLimit core slot quad) := fun _ _ _ h => nomatch h

theorem Encodes.schedulerWaitSatisfied (core : BitVec 9) (slot : BitVec 6) (lane : BitVec 5) : Encodes.Statement (.schedulerWaitSatisfied core slot lane) := fun _ _ _ h => nomatch h

theorem Encodes.crewSave (core : BitVec 9) (slot : BitVec 6) : Encodes.Statement (.crewSave core slot) := fun _ _ _ h => nomatch h

theorem Encodes.forcedSave (core : BitVec 9) (slot : BitVec 6) : Encodes.Statement (.forcedSave core slot) := fun _ _ _ h => nomatch h

theorem Encodes.programTimeTick : Encodes.Statement .programTimeTick := fun _ _ _ h => nomatch h

theorem Encodes.puts (agent : BitVec 9) (line : BitVec 45) : Encodes.Statement (.puts agent line) := fun _ _ _ h => nomatch h

theorem Encodes.putc (agent : BitVec 9) (line : BitVec 45) : Encodes.Statement (.putc agent line) := fun _ _ _ h => nomatch h

theorem Encodes.atomic (agent : BitVec 9) (line : BitVec 45) (pt : BitVec 64) (off : BitVec 7) (size : BitVec 3) (op : BitVec 8) (data : BitVec 128) : Encodes.Statement (.atomic agent line pt off size op data) := fun _ _ _ h => nomatch h

theorem Encodes.write (agent : BitVec 9) (line : BitVec 45) (pt : BitVec 64) (data : BitVec 1024) : Encodes.Statement (.write agent line pt data) := fun _ _ _ h => nomatch h

theorem Encodes.renew (agent : BitVec 9) (line : BitVec 45) (pt : BitVec 64) : Encodes.Statement (.renew agent line pt) := fun _ _ _ h => nomatch h

theorem Encodes.recall (line : BitVec 45) : Encodes.Statement (.recall line) := fun _ _ _ h => nomatch h

theorem Encodes.fwddata (agent : BitVec 9) (line : BitVec 45) : Encodes.Statement (.fwddata agent line) := fun _ _ _ h => nomatch h

theorem Encodes.fwdnack (agent : BitVec 9) (line : BitVec 45) : Encodes.Statement (.fwdnack agent line) := fun _ _ _ h => nomatch h

theorem Encodes.memdata (line : BitVec 45) : Encodes.Statement (.memdata line) := fun _ _ _ h => nomatch h

theorem Encodes.memack (line : BitVec 45) : Encodes.Statement (.memack line) := fun _ _ _ h => nomatch h

theorem Encodes.ackzero (line : BitVec 45) : Encodes.Statement (.ackzero line) := fun _ _ _ h => nomatch h

theorem Encodes.updack (agent : BitVec 9) (line : BitVec 45) : Encodes.Statement (.updack agent line) := fun _ _ _ h => nomatch h

theorem Encodes.poisoned (line : BitVec 45) : Encodes.Statement (.poisoned line) := fun _ _ _ h => nomatch h

theorem Encodes.agentlost (agent : BitVec 9) (line : BitVec 45) : Encodes.Statement (.agentlost agent line) := fun _ _ _ h => nomatch h

theorem Encodes.timeout (line : BitVec 45) : Encodes.Statement (.timeout line) := fun _ _ _ h => nomatch h

theorem Encodes.messageResend (line : BitVec 45) : Encodes.Statement (.messageResend line) := fun _ _ _ h => nomatch h

theorem Encodes.deferredRequest (line : BitVec 45) : Encodes.Statement (.deferredRequest line) := fun _ _ _ h => nomatch h

theorem Encodes.inv (agent : BitVec 9) (line : BitVec 45) : Encodes.Statement (.inv agent line) := fun _ _ _ h => nomatch h

theorem Encodes.fwds (agent : BitVec 9) (line : BitVec 45) : Encodes.Statement (.fwds agent line) := fun _ _ _ h => nomatch h

theorem Encodes.fwdx (agent : BitVec 9) (line : BitVec 45) : Encodes.Statement (.fwdx agent line) := fun _ _ _ h => nomatch h

theorem Encodes.upd (agent : BitVec 9) (line : BitVec 45) : Encodes.Statement (.upd agent line) := fun _ _ _ h => nomatch h

theorem Encodes.publishRequest (line : BitVec 45) : Encodes.Statement (.publishRequest line) := fun _ _ _ h => nomatch h

theorem Encodes.chuteAcquire (cluster : BitVec 7) (chute : BitVec 5) : Encodes.Statement (.chuteAcquire cluster chute) := fun _ _ _ h => nomatch h

theorem Encodes.copyFiring (cluster : BitVec 7) (place : BitVec 6) : Encodes.Statement (.copyFiring cluster place) := fun _ _ _ h => nomatch h

theorem Encodes.retileRun (cluster : BitVec 7) (place : BitVec 6) : Encodes.Statement (.retileRun cluster place) := fun _ _ _ h => nomatch h

theorem Encodes.gathFiring (cluster : BitVec 7) (place : BitVec 6) : Encodes.Statement (.gathFiring cluster place) := fun _ _ _ h => nomatch h

theorem Encodes.chainFiring (cluster : BitVec 7) (place : BitVec 6) : Encodes.Statement (.chainFiring cluster place) := fun _ _ _ h => nomatch h

theorem Encodes.collFiring (cluster : BitVec 7) (place : BitVec 6) : Encodes.Statement (.collFiring cluster place) := fun _ _ _ h => nomatch h

theorem Encodes.wfinalWriter (win : BitVec 8) : Encodes.Statement (.wfinalWriter win) := fun _ _ _ h => nomatch h

theorem Encodes.slotFillDone (cluster : BitVec 7) (h : BitVec 4) (slot : BitVec 11) : Encodes.Statement (.slotFillDone cluster h slot) := fun _ _ _ h => nomatch h

theorem Encodes.matrixQueueStart (cluster : BitVec 7) : Encodes.Statement (.matrixQueueStart cluster) := fun _ _ _ h => nomatch h

theorem Encodes.mgovWindow (die : BitVec 1) : Encodes.Statement (.mgovWindow die) := fun _ _ _ h => nomatch h

theorem Encodes.tileSequencerSave (cluster : BitVec 7) : Encodes.Statement (.tileSequencerSave cluster) := fun _ _ _ h => nomatch h

theorem Encodes.benchCommandStart (entry : BitVec 5) : Encodes.Statement (.benchCommandStart entry) := fun _ _ _ h => nomatch h

theorem Encodes.benchCommandComplete (entry : BitVec 5) : Encodes.Statement (.benchCommandComplete entry) := fun _ _ _ h => nomatch h

theorem Encodes.benchRound (stack : BitVec 4) : Encodes.Statement (.benchRound stack) := fun _ _ _ h => nomatch h

theorem Encodes.columnCommand (stack : BitVec 4) : Encodes.Statement (.columnCommand stack) := fun _ _ _ h => nomatch h

theorem Encodes.benchRefresh (stack : BitVec 4) : Encodes.Statement (.benchRefresh stack) := fun _ _ _ h => nomatch h

theorem Encodes.drainPathCycle (stack : BitVec 4) : Encodes.Statement (.drainPathCycle stack) := fun _ _ _ h => nomatch h

theorem Encodes.drainEntryArrival (die : BitVec 1) : Encodes.Statement (.drainEntryArrival die) := fun _ _ _ h => nomatch h

theorem Encodes.benchGovernorWindow (stack : BitVec 4) : Encodes.Statement (.benchGovernorWindow stack) := fun _ _ _ h => nomatch h

theorem Encodes.slabToBank (slab : BitVec 22) : Encodes.Statement (.slabToBank slab) := fun _ _ _ h => nomatch h

theorem Encodes.slabToCore (slab : BitVec 22) : Encodes.Statement (.slabToCore slab) := fun _ _ _ h => nomatch h

theorem Encodes.benchParityError (entry : BitVec 5) : Encodes.Statement (.benchParityError entry) := fun _ _ _ h => nomatch h

theorem Encodes.packetResend (die : BitVec 1) (tag : BitVec 12) : Encodes.Statement (.packetResend die tag) := fun _ _ _ h => nomatch h

theorem Encodes.portUp (port : BitVec 7) : Encodes.Statement (.portUp port) := fun _ _ _ h => nomatch h

theorem Encodes.hostSnoop (line : BitVec 45) : Encodes.Statement (.hostSnoop line) := fun _ _ _ h => nomatch h

theorem Encodes.hostAgentLost (die : BitVec 1) : Encodes.Statement (.hostAgentLost die) := fun _ _ _ h => nomatch h

theorem Encodes.reconcilePass : Encodes.Statement .reconcilePass := fun _ _ _ h => nomatch h

theorem Encodes.launch (q : BitVec 10) (i : BitVec 32) : Encodes.Statement (.launch q i) := fun _ _ _ h => nomatch h

theorem Encodes.ganglaunch (q : BitVec 10) (i : BitVec 32) : Encodes.Statement (.ganglaunch q i) := fun _ _ _ h => nomatch h

theorem Encodes.signal (q : BitVec 10) (i : BitVec 32) : Encodes.Statement (.signal q i) := fun _ _ _ h => nomatch h

theorem Encodes.waitfor (q : BitVec 10) (i : BitVec 32) : Encodes.Statement (.waitfor q i) := fun _ _ _ h => nomatch h

theorem Encodes.hints (q : BitVec 10) (i : BitVec 32) : Encodes.Statement (.hints q i) := fun _ _ _ h => nomatch h

theorem Encodes.preemptYield (q : BitVec 10) (i : BitVec 32) : Encodes.Statement (.preemptYield q i) := fun _ _ _ h => nomatch h

theorem Encodes.preemptHold (q : BitVec 10) (i : BitVec 32) : Encodes.Statement (.preemptHold q i) := fun _ _ _ h => nomatch h

theorem Encodes.preemptRelease (q : BitVec 10) (i : BitVec 32) : Encodes.Statement (.preemptRelease q i) := fun _ _ _ h => nomatch h

theorem Encodes.context (q : BitVec 10) (i : BitVec 32) : Encodes.Statement (.context q i) := fun _ _ _ h => nomatch h

theorem Encodes.ctxfree (q : BitVec 10) (i : BitVec 32) : Encodes.Statement (.ctxfree q i) := fun _ _ _ h => nomatch h

theorem Encodes.qcreate (q : BitVec 10) (i : BitVec 32) : Encodes.Statement (.qcreate q i) := fun _ _ _ h => nomatch h

theorem Encodes.qfree (q : BitVec 10) (i : BitVec 32) : Encodes.Statement (.qfree q i) := fun _ _ _ h => nomatch h

theorem Encodes.slicecfg (q : BitVec 10) (i : BitVec 32) : Encodes.Statement (.slicecfg q i) := fun _ _ _ h => nomatch h

theorem Encodes.range (q : BitVec 10) (i : BitVec 32) : Encodes.Statement (.range q i) := fun _ _ _ h => nomatch h

theorem Encodes.protload (q : BitVec 10) (i : BitVec 32) : Encodes.Statement (.protload q i) := fun _ _ _ h => nomatch h

theorem Encodes.protfree (q : BitVec 10) (i : BitVec 32) : Encodes.Statement (.protfree q i) := fun _ _ _ h => nomatch h

theorem Encodes.govcfg (q : BitVec 10) (i : BitVec 32) : Encodes.Statement (.govcfg q i) := fun _ _ _ h => nomatch h

theorem Encodes.capmint (q : BitVec 10) (i : BitVec 32) : Encodes.Statement (.capmint q i) := fun _ _ _ h => nomatch h

theorem Encodes.placementPass : Encodes.Statement .placementPass := fun _ _ _ h => nomatch h

theorem Encodes.placementPassTimer : Encodes.Statement .placementPassTimer := fun _ _ _ h => nomatch h

theorem Encodes.headAgeBar : Encodes.Statement .headAgeBar := fun _ _ _ h => nomatch h

theorem Encodes.firmwareMessageResend (id : BitVec 42) (part : BitVec 6) : Encodes.Statement (.firmwareMessageResend id part) := fun _ _ _ h => nomatch h

theorem Encodes.ganglaunchPhaseOneTimeout (q : BitVec 10) (i : BitVec 32) : Encodes.Statement (.ganglaunchPhaseOneTimeout q i) := fun _ _ _ h => nomatch h

theorem Encodes.partReservationExpiry (coord : BitVec 10) (id : BitVec 42) (part : BitVec 6) : Encodes.Statement (.partReservationExpiry coord id part) := fun _ _ _ h => nomatch h

theorem Encodes.partUnreachableTimeout (q : BitVec 10) (i : BitVec 32) (part : BitVec 6) : Encodes.Statement (.partUnreachableTimeout q i part) := fun _ _ _ h => nomatch h

theorem Encodes.launchWatchdog (q : BitVec 10) (i : BitVec 32) : Encodes.Statement (.launchWatchdog q i) := fun _ _ _ h => nomatch h

theorem Encodes.firmwareCrewRestart (core : BitVec 9) (err : BitVec 1) : Encodes.Statement (.firmwareCrewRestart core err) := fun _ _ _ h => nomatch h

theorem Encodes.crewDivergenceDeadlock (core : BitVec 9) (slot : BitVec 6) : Encodes.Statement (.crewDivergenceDeadlock core slot) := fun _ _ _ h => nomatch h

theorem Encodes.correctionSummary (unit : BitVec 4) (die : BitVec 1) (id : BitVec 32) (addr : BitVec 52) (count : BitVec 16) : Encodes.Statement (.correctionSummary unit die id addr count) := fun _ _ _ h => nomatch h

theorem Encodes.patrolScrub (granule : BitVec 48) (bad : BitVec 1) : Encodes.Statement (.patrolScrub granule bad) := fun _ _ _ h => nomatch h

theorem Encodes.bootctlGo : Encodes.Statement .bootctlGo := fun _ _ _ h => nomatch h

theorem Encodes.bringupPhaseComplete : Encodes.Statement .bringupPhaseComplete := fun _ _ _ h => nomatch h

theorem Encodes.attgo (val : BitVec 32) : Encodes.Statement (.attgo val) := fun _ _ _ h => nomatch h

theorem Encodes.attestationReport : Encodes.Statement .attestationReport := fun _ _ _ h => nomatch h

theorem Encodes.mstatusAttdoneClear (val : BitVec 32) : Encodes.Statement (.mstatusAttdoneClear val) := fun _ _ _ h => nomatch h

theorem Encodes.powerGoodReset : Encodes.Statement .powerGoodReset := fun _ _ _ h => nomatch h

theorem Encodes.pcieConventionalReset : Encodes.Statement .pcieConventionalReset := fun _ _ _ h => nomatch h

theorem Encodes.packageReset : Encodes.Statement .packageReset := fun _ _ _ h => nomatch h

theorem Encodes.thermalEmergencyCap (die : BitVec 1) : Encodes.Statement (.thermalEmergencyCap die) := fun _ _ _ h => nomatch h

theorem Encodes.thermalShutdown (die : BitVec 1) : Encodes.Statement (.thermalShutdown die) := fun _ _ _ h => nomatch h

theorem Encodes.requesterReply (agent : BitVec 9) (line : BitVec 45) : Encodes.Statement (.requesterReply agent line) := fun _ _ _ h => nomatch h

theorem Encodes.illegalInstruction (word : BitVec 32) : Encodes.Statement (.illegalInstruction word) := fun _ _ _ h => nomatch h

theorem Encodes.fetchFault : Encodes.Statement .fetchFault := fun _ _ _ h => nomatch h

theorem Encodes.summarisingRecord (unit : BitVec 5) (id : BitVec 32) : Encodes.Statement (.summarisingRecord unit id) := fun _ _ _ h => nomatch h

end Sys2Proof.Laws
end

