-- ==== Sys2Proof/Laws/Results.lean ====
section
/-! SUPPORT. What an instruction that ends in one lane leaves as it was: the frame of a result given to a lane. -/

namespace Sys2Proof.Laws

open Sys2Proof.Machine

theorem onlyLane_refl (k l : Nat) (s : State) : OnlyLane k l s s := ⟨rfl, fun _ _ => rfl, fun _ => rfl⟩

theorem onlyLane_trans {k l : Nat} {s t u : State} (h : OnlyLane k l s t) (g : OnlyLane k l t u) : OnlyLane k l s u := by
  refine ⟨?_, fun j hj => (g.others j hj).trans (h.others j hj), fun a => (g.bytes a).trans (h.bytes a)⟩
  have e : u = { t with threads := u.threads } := by
    rw [← g.rest]
  have e' : t = { s with threads := t.threads } := by
    rw [← h.rest]
  rw [e, e']

theorem onlyLane_modThread (k l : Nat) (s : State) (f : Thread → Thread) : OnlyLane k l s (s.modThread k l f) :=
  ⟨rfl, fun _ hj => mfind_mset_other _ _ hj, fun _ => rfl⟩

theorem afterInstr_cases (s : State) (c : Ctx) :
    s.afterInstr c = s ∨ s.afterInstr c = s.modThread c.crew c.lane fun t => { t with st := .stopped } := by
  rw [State.afterInstr]
  split
  · exact .inr rfl
  · exact .inl rfl

theorem onlyLane_afterInstr (s : State) (c : Ctx) : OnlyLane c.crew c.lane s (s.afterInstr c) := by
  obtain h | h := afterInstr_cases s c <;> rw [h]
  · exact onlyLane_refl _ _ _
  · exact onlyLane_modThread _ _ _ _

theorem Stepped.onlyLane {c : Ctx} {s t : State} (h : Stepped c s t) : OnlyLane c.crew c.lane s t := by
  obtain rfl | ⟨_, rfl⟩ := h
  · exact onlyLane_refl _ _ _
  · exact onlyLane_modThread _ _ _ _

theorem onlyLane_begun (s : State) (x : Issue) (k l : Nat) : OnlyLane k l s (s.begun x k l) :=
  onlyLane_trans (onlyLane_modThread k l s _) (onlyLane_modThread k l _ _)

theorem onlyLane_doneLane (s : State) (c : Ctx) (f : Thread → Thread) : OnlyLane c.crew c.lane s (s.doneLane c f) :=
  onlyLane_trans (onlyLane_modThread _ _ _ _) (onlyLane_afterInstr _ _)

/-- What a thread keeps while its lane reads operands and moves past the instruction. -/
structure Kept (t u : Thread) : Prop where
  v : u.v = t.v
  q : u.q = t.q
  arr : u.arr = t.arr
  holds : u.hold = t.hold
  caps : u.c = t.c
  fpctl : u.fpctl = t.fpctl
  trap : u.tcause = t.tcause ∧ u.tpc = t.tpc ∧ u.taddr = t.taddr
  times : u.time = t.time ∧ u.puts = t.puts ∧ u.barCount = t.barCount ∧ u.gbarCount = t.gbarCount
  flags : t.sameFlags u

theorem Kept.refl (t : Thread) : Kept t t := ⟨rfl, rfl, rfl, rfl, rfl, rfl, ⟨rfl, rfl, rfl⟩, ⟨rfl, rfl, rfl, rfl⟩, rfl, rfl⟩

theorem Kept.trans {t u w : Thread} (h : Kept t u) (g : Kept u w) : Kept t w :=
  ⟨g.v.trans h.v, g.q.trans h.q, g.arr.trans h.arr, g.holds.trans h.holds, g.caps.trans h.caps, g.fpctl.trans h.fpctl,
    ⟨g.trap.1.trans h.trap.1, g.trap.2.1.trans h.trap.2.1, g.trap.2.2.trans h.trap.2.2⟩,
    ⟨g.times.1.trans h.times.1, g.times.2.1.trans h.times.2.1, g.times.2.2.1.trans h.times.2.2.1, g.times.2.2.2.trans h.times.2.2.2⟩,
    g.flags.1.trans h.flags.1, g.flags.2.trans h.flags.2⟩

theorem kept_begun (s : State) (x : Issue) (k l : Nat) : Kept (s.thread k l) ((s.begun x k l).thread k l) := by
  have e : (s.begun x k l).thread k l = ((s.thread k l).advance (s.ctxOf x k l).next).countStep := by
    rw [State.begun, State.modThread_thread]
    congr 1
    exact State.modThread_thread _ _ _ _
  rw [e]
  exact ⟨rfl, rfl, rfl, rfl, rfl, rfl, ⟨rfl, rfl, rfl⟩, ⟨rfl, rfl, rfl, rfl⟩, rfl, rfl⟩

theorem Stepped.kept {c : Ctx} {s t : State} (h : Stepped c s t) : Kept (s.thread c.crew c.lane) (t.thread c.crew c.lane) := by
  obtain rfl | ⟨_, rfl⟩ := h
  · exact .refl _
  · rw [State.modThread_thread]
    exact ⟨rfl, rfl, rfl, rfl, rfl, rfl, ⟨rfl, rfl, rfl⟩, ⟨rfl, rfl, rfl, rfl⟩, rfl, rfl⟩

theorem Stepped.trans_kept {c : Ctx} {s t u : State} (h : Kept (s.thread c.crew c.lane) (t.thread c.crew c.lane)) (g : Stepped c t u) :
    Kept (s.thread c.crew c.lane) (u.thread c.crew c.lane) := h.trans g.kept

theorem doneLane_thread (s : State) (c : Ctx) (f : Thread → Thread) :
    ∃ st, (s.doneLane c f).thread c.crew c.lane = { f (s.thread c.crew c.lane) with st := st } := by
  rw [State.doneLane]
  obtain h | h := afterInstr_cases (s.modThread c.crew c.lane f) c <;> rw [h]
  · exact ⟨(f (s.thread c.crew c.lane)).st, by rw [State.modThread_thread]⟩
  · exact ⟨.stopped, by rw [State.modThread_thread, State.modThread_thread]⟩

theorem reg_setReg (t : Thread) (n r : Nat) (x : Word) : (t.setReg n x).reg r = if r = n then x else t.reg r := by
  simp only [Thread.reg, Thread.setReg, mget_mset]

theorem word_mset (t : Thread) (n r : Nat) (x : Word) :
    ({ t with arr := mset t.arr n x } : Thread).word r = if r = n then x else t.word r := by
  simp only [Thread.word, mget_mset]

/-- Storing one word at a place and pushing it keeps the rest of the thread. -/
theorem onlyResult_giveW (t : Thread) (p : Place_) (x : Word) (st : LaneState) :
    OnlyResult p 1 t { t.giveW p x with st := st } := by
  cases p with
  | queue => exact ⟨fun _ _ => rfl, fun _ _ => rfl, rfl, rfl, rfl, ⟨rfl, rfl, rfl⟩, ⟨rfl, rfl, rfl, rfl⟩⟩
  | named r =>
    refine ⟨fun n hn => ?_, fun _ _ => rfl, rfl, rfl, rfl, ⟨rfl, rfl, rfl⟩, ⟨rfl, rfl, rfl, rfl⟩⟩
    have : n ≠ r := by
      simp only [Place_.names, decide_eq_false_iff_not] at hn
      omega
    change mget 0 (mset t.v (r + 0) x) n = _
    rw [mget_mset, if_neg (by simpa using this)]
    rfl
  | array w =>
    refine ⟨fun _ _ => rfl, fun n hn => ?_, rfl, rfl, rfl, ⟨rfl, rfl, rfl⟩, ⟨rfl, rfl, rfl, rfl⟩⟩
    have : n ≠ w := by
      simp only [Place_.covers, decide_eq_false_iff_not] at hn
      omega
    change mget 0 (mset t.arr (w + 0) x) n = _
    rw [mget_mset, if_neg (by simpa using this)]
    rfl

/-- Storing two words at a place and pushing them keeps the rest of the thread. -/
theorem onlyResult_giveD (t : Thread) (p : Place_) (x : DWord) (st : LaneState) :
    OnlyResult p 2 t { t.giveD p x with st := st } := by
  cases p with
  | queue => exact ⟨fun _ _ => rfl, fun _ _ => rfl, rfl, rfl, rfl, ⟨rfl, rfl, rfl⟩, ⟨rfl, rfl, rfl, rfl⟩⟩
  | named r =>
    refine ⟨fun n hn => ?_, fun _ _ => rfl, rfl, rfl, rfl, ⟨rfl, rfl, rfl⟩, ⟨rfl, rfl, rfl, rfl⟩⟩
    have : ¬ (r ≤ n ∧ n < r + 2) := by simpa [Place_.names] using hn
    change mget 0 (mset (mset t.v (r + 0) x.lo) (r + 1) x.hi) n = _
    rw [mget_mset, if_neg (by omega), mget_mset, if_neg (by omega)]
    rfl
  | array w =>
    refine ⟨fun _ _ => rfl, fun n hn => ?_, rfl, rfl, rfl, ⟨rfl, rfl, rfl⟩, ⟨rfl, rfl, rfl, rfl⟩⟩
    have : ¬ (w ≤ n ∧ n < w + 2) := by simpa [Place_.covers] using hn
    change mget 0 (mset (mset t.arr (w + 0) x.lo) (w + 1) x.hi) n = _
    rw [mget_mset, if_neg (by omega), mget_mset, if_neg (by omega)]
    rfl

theorem onlyResult_of_kept {p : Place_} {n : Nat} {t u w : Thread} (h : Kept t u) (g : OnlyResult p n u w) : OnlyResult p n t w where
  named r hr := (g.named r hr).trans (by rw [Thread.reg, Thread.reg, h.v])
  array r hr := (g.array r hr).trans (by rw [Thread.word, Thread.word, h.arr])
  holds := g.holds.trans h.holds
  caps := g.caps.trans h.caps
  fpctl := g.fpctl.trans h.fpctl
  trap := ⟨g.trap.1.trans h.trap.1, g.trap.2.1.trans h.trap.2.1, g.trap.2.2.trans h.trap.2.2⟩
  times := ⟨g.times.1.trans h.times.1, g.times.2.1.trans h.times.2.1, g.times.2.2.1.trans h.times.2.2.1, g.times.2.2.2.trans h.times.2.2.2⟩

/-- The frame of a 32-bit result: `s'` is the state after the operands are read. -/
theorem frame_giveW {x : Issue} {k l : Nat} {s s' : State} (pl : Place_) (r : Word)
    (hk : OnlyLane k l s s') (hq : Kept (s.thread k l) (s'.thread k l)) :
    let t := s'.doneLane (s.ctxOf x k l) fun u => u.giveW pl r
    OnlyLane k l s t ∧ OnlyResult pl 1 (s.thread k l) (t.thread k l) ∧ (s.thread k l).sameFlags (t.thread k l) := by
  intro t
  obtain ⟨st, e⟩ := doneLane_thread s' (s.ctxOf x k l) fun u => u.giveW pl r
  have e' : t.thread k l = { (s'.thread k l).giveW pl r with st := st } := e
  refine ⟨onlyLane_trans hk (onlyLane_doneLane s' (s.ctxOf x k l) _), ?_, ?_⟩
  · rw [e']
    exact onlyResult_of_kept hq (onlyResult_giveW _ _ _ _)
  · rw [e']
    exact ⟨(show (Thread.giveW _ pl r).fpstat = _ by cases pl <;> exact hq.flags.1), (show (Thread.giveW _ pl r).seed = _ by cases pl <;> exact hq.flags.2)⟩

/-- The frame of a 64-bit result. -/
theorem frame_giveD {x : Issue} {k l : Nat} {s s' : State} (pl : Place_) (r : DWord)
    (hk : OnlyLane k l s s') (hq : Kept (s.thread k l) (s'.thread k l)) :
    let t := s'.doneLane (s.ctxOf x k l) fun u => u.giveD pl r
    OnlyLane k l s t ∧ OnlyResult pl 2 (s.thread k l) (t.thread k l) ∧ (s.thread k l).sameFlags (t.thread k l) := by
  intro t
  obtain ⟨st, e⟩ := doneLane_thread s' (s.ctxOf x k l) fun u => u.giveD pl r
  have e' : t.thread k l = { (s'.thread k l).giveD pl r with st := st } := e
  refine ⟨onlyLane_trans hk (onlyLane_doneLane s' (s.ctxOf x k l) _), ?_, ?_⟩
  · rw [e']
    exact onlyResult_of_kept hq (onlyResult_giveD _ _ _ _)
  · rw [e']
    exact ⟨(show (Thread.giveD _ pl r).fpstat = _ by cases pl <;> exact hq.flags.1), (show (Thread.giveD _ pl r).seed = _ by cases pl <;> exact hq.flags.2)⟩

/-- An instruction for lanes that takes no entry of the outstanding-transaction table, issued to one which executes it, and whose computation
succeeds. -/
theorem onThreads_runs {i : Instr} {x : Issue} {k l : Nat} {s t : State} {body : Ctx → LaneM After} (h : Runs i x k l s)
    (he : (shapeOf i).entry = false) (hb : body (s.ctxOf x k l) (s.begun x k l) = .ok (none, t)) :
    onThreads (shapeOf i) body s = .next (t.afterInstr (s.ctxOf x k l)) := by
  rw [onThreads, h.unit]
  simp only
  rw [runLanes_one h.parts h.lane he, runLane_ok h.crew h.legal h.guard hb]

/-- The same for an instruction of lanes and streams. -/
theorem onBoth_runs {i : Instr} {x : Issue} {k l : Nat} {s t : State} {body : Ctx → LaneM After} {f : Cluster → Cluster}
    (h : Runs i x k l s) (he : (shapeOf i).entry = false) (hb : body (s.ctxOf x k l) (s.begun x k l) = .ok (none, t)) :
    onBoth (shapeOf i) body f s = .next (t.afterInstr (s.ctxOf x k l)) := by
  rw [onBoth, h.unit]
  simp only
  rw [runLanes_one h.parts h.lane he, runLane_ok h.crew h.legal h.guard hb]

/-- A memory instruction that takes an entry (R122): where the computation succeeds, the entry stays only while an operation is outstanding. -/
theorem onThreads_enters {i : Instr} {x : Issue} {k l : Nat} {s t : State} {body : Ctx → LaneM After} (h : Enters i x k l s)
    (he : (shapeOf i).entry = true) (hb : body (s.ctxOf x k l) (s.begun x k l) = .ok (none, t)) :
    onThreads (shapeOf i) body s = .next ((t.afterInstr (s.ctxOf x k l)).keepEntries x x.parts) := by
  rw [onThreads, h.unit]
  simp only
  rw [runLanes_entry h.parts h.lane he body s h.room, runLane_ok h.crew h.legal h.guard hb]

end Sys2Proof.Laws
end

