-- ==== Sys2Proof/Tests/Slice0.lean ====
section
/-! SUPPORT. Tests of the model: for every statement of Sys2Proof/Certificates/Slice0/Obligations.lean that has hypotheses a state and
operands that meet them (witness_…), words that WellFormed refuses (ill_…), words written out from the encoding tables that decode to their
instructions (decodes_…), and single steps and instructions whose results follow from a rule of spec/ by hand (test_…). -/

namespace Sys2Proof.Tests

open Sys2Proof Sys2Proof.Machine Sys2Proof.Laws

set_option Elab.async false

/-! ## A small lane -/

/-- An issue to lane 0 of crew 0. -/
def laneIssue : Issue := { core := 0, pipe := 0, parts := [{ crew := 0, lanes := bitOf 0 }], pc := 0x10000, len := 4, word := 0 }

/-- The package with one crew of one thread, which an instruction is being issued to. -/
def laneState : State := { State.reset.withLaneWord 4 1 with unit := .lanes laneIssue }

/-- The same with the thread and the crew changed. -/
def laneWith (f : Thread → Thread) (g : Crew → Crew) : State := (laneState.modThread 0 0 f).modCrew 0 g

/-- The same in lane 1, a helper. -/
def helperIssue : Issue := { laneIssue with parts := [{ crew := 0, lanes := bitOf 1 }] }

/-- The package in which an instruction is being issued to the helper. -/
def helperState : State := { laneState with unit := .lanes helperIssue }

/-- The conditions of Issued, decided. -/
def issued (i : Instr) (x : Issue) (l : Nat) (s : State) : Bool :=
  decide (s.unit = .lanes x) && decide (x.parts = [{ crew := 0, lanes := bitOf l }]) && decide (l < 32) && (mfind s.crews 0).isSome &&
    decide ((shapeOf i).refusal (s.ctxOf x 0 l).n = none)

/-- The conditions of Runs for a list of instructions, decided. -/
def ready (s : State) (is : List Instr) : Bool := is.all fun i => issued i laneIssue 0 s && executes (shapeOf i) s 0 0

theorem issued_of {i : Instr} {x : Issue} {l : Nat} {s : State} (h : issued i x l s = true) : Issued i x 0 l s := by
  simp only [issued, Bool.and_eq_true, decide_eq_true_eq] at h
  exact ⟨h.1.1.1.1, h.1.1.1.2, h.1.1.2, h.1.2, h.2⟩

theorem runs_of {is : List Instr} {s : State} (h : ready s is = true) : ∀ i ∈ is, Runs i laneIssue 0 0 s := by
  intro i hi
  have := List.all_eq_true.1 h i hi
  rw [Bool.and_eq_true] at this
  exact ⟨issued_of this.1, this.2⟩

/-- A lane of the core runs an instruction, and the core's table of outstanding transactions is empty. -/
theorem enters_of {is : List Instr} {s : State} (h : ready s is = true) (ht : (s.core 0).table = []) :
    ∀ i ∈ is, Enters i laneIssue 0 0 s := fun i hi => ⟨runs_of h i hi, admit_empty (k := 0) (l := 0) rfl s ht⟩

/-- The core's table of outstanding transactions is empty. -/
theorem hasEntry_of {i : Instr} {x : Issue} {k l : Nat} {s : State} (hp : x.parts = [{ crew := k, lanes := bitOf l }])
    (ht : (s.core x.core).table = []) : HasEntry i x s := fun _ => admit_empty hp s ht

/-- A computation of a lane that gives a value. -/
def answers {α : Type} (f : LaneM α) (s : State) : Bool :=
  match f s with
  | .ok _ => true
  | .error _ => false

theorem answers_of {α : Type} {f : LaneM α} {s : State} (h : answers f s = true) : ∃ y t, f s = .ok (y, t) := by
  unfold answers at h
  split at h
  · exact ⟨_, _, ‹_›⟩
  · exact absurd h (by simp)

/-- Two computations give values one after the other. -/
def Both {α β : Type} (f : LaneM α) (g : LaneM β) (s : State) : Prop := ∃ y s1 z s2, f s = .ok (y, s1) ∧ g s1 = .ok (z, s2)

/-- Three do. -/
def Three {α β γ : Type} (f : LaneM α) (g : LaneM β) (h : LaneM γ) (s : State) : Prop :=
  ∃ y s1 z s2 w s3, f s = .ok (y, s1) ∧ g s1 = .ok (z, s2) ∧ h s2 = .ok (w, s3)

/-- Four do. -/
def Four {α β γ δ : Type} (f : LaneM α) (g : LaneM β) (h : LaneM γ) (j : LaneM δ) (s : State) : Prop :=
  ∃ y s1 z s2 w s3 v s4, f s = .ok (y, s1) ∧ g s1 = .ok (z, s2) ∧ h s2 = .ok (w, s3) ∧ j s3 = .ok (v, s4)

theorem both_of {α β : Type} {f : LaneM α} {g : LaneM β} {s : State} (h : answers (do let _ ← f; g) s = true) : Both f g s := by
  obtain ⟨z, t, h⟩ := answers_of h
  match hf : f s with
  | .ok (y, s1) => exact ⟨y, s1, z, t, hf, by simpa [bind, StateT.bind, hf, Except.bind] using h⟩
  | .error e => simp [bind, StateT.bind, hf, Except.bind] at h

theorem three_of {α β γ : Type} {f : LaneM α} {g : LaneM β} {h : LaneM γ} {s : State}
    (e : answers (do let _ ← f; let _ ← g; h) s = true) : Three f g h s := by
  obtain ⟨y, s1, z, s2, hf, hg⟩ := both_of e
  obtain ⟨y', s1', z', s2', hg, hh⟩ := both_of (s := s1) (f := g) (g := h) (by simp only [answers]; rw [hg])
  exact ⟨y, s1, y', s1', z', s2', hf, hg, hh⟩

theorem four_of {α β γ δ : Type} {f : LaneM α} {g : LaneM β} {h : LaneM γ} {j : LaneM δ} {s : State}
    (e : answers (do let _ ← f; let _ ← g; let _ ← h; j) s = true) : Four f g h j s := by
  obtain ⟨y, s1, z, s2, hf, hg⟩ := both_of e
  obtain ⟨y', s1', z', s2', w', s3', hg, hh, hj⟩ := three_of (s := s1) (f := g) (g := h) (h := j) (by simp only [answers]; rw [hg])
  exact ⟨y, s1, y', s1', z', s2', w', s3', hf, hg, hh, hj⟩

/-- A computation that gives a value and a state of which a test holds. -/
def holds {α : Type} (f : LaneM α) (p : α → State → Bool) (s : State) : Bool :=
  match f s with
  | .ok (y, t) => p y t
  | .error _ => false

theorem holds_of {α : Type} {f : LaneM α} {p : α → State → Bool} {s : State} (h : holds f p s = true) :
    ∃ y t, f s = .ok (y, t) ∧ p y t = true := by
  unfold holds at h
  split at h
  · exact ⟨_, _, ‹_›, h⟩
  · exact absurd h (by simp)

/-- What the lane knows of itself, and the state in which it computes. -/
def laneCtx : Ctx := laneState.ctxOf laneIssue 0 0

/-- The state in which the lane of a state computes. -/
def now (s : State) : State := s.begun laneIssue 0 0


/-! ## Instructions of one lane -/

/-- A register holding a word. -/
def withReg (r : Nat) (y : Word) : State := laneWith (fun t => { t with v := mset t.v r y }) id

theorem witness_IntegerArithmeticResults :
    (∀ v : BitVec 1, ∀ i ∈ [Instr.add v 2 8 4 0 15, .sub v 2 8 4 0 15, .mul v 2 8 4 0 15, .and v 2 8 4 0 15, .or v 2 8 4 0 15,
      .xor v 2 8 4 0 15, .andn v 2 8 4 0 15, .shl v 2 8 4 0 15, .shr v 2 8 4 0 15, .sra v 2 8 4 0 15], Runs i laneIssue 0 0 laneState) ∧
    (∀ v, Three (srcV laneCtx v 8) (srcV laneCtx v 2) (dstV laneCtx v 4) (now laneState)) ∧
    (∀ v : BitVec 1, ∀ i ∈ [Instr.mulh v 2 1 4 0 15, .min v 2 1 4 0 15, .max v 2 1 4 0 15], Runs i laneIssue 0 0 laneState) ∧
    Three (src laneCtx 1) (src laneCtx 2) (dst laneCtx 4 1) (now laneState) :=
  ⟨fun v => runs_of (by revert v; decide), fun v => three_of (by revert v; decide), fun v => runs_of (by revert v; decide),
    three_of (by decide)⟩

theorem witness_DivisionResults :
    (∀ v : BitVec 1, ∀ i ∈ [Instr.div v 2 1 4 0 15, .rem v 2 1 4 0 15], Runs i laneIssue 0 0 (withReg 2 0xFFFFFFFF)) ∧
    Three (src laneCtx 1) (src laneCtx 2) (dst laneCtx 4 1) (now (withReg 2 0xFFFFFFFF)) :=
  ⟨fun v => runs_of (by revert v; decide), three_of (by decide)⟩

theorem witness_ImmediateAndBitResults :
    (Instr.shli 31 1 4 0 15).wf = true ∧
    (∀ i ∈ [Instr.addi 64 1 4 0 15, .andi 64 1 4 0 15, .ori 64 1 4 0 15, .xori 64 1 4 0 15, .shli 31 1 4 0 15, .shri 31 1 4 0 15,
      .srai 31 1 4 0 15, .movi 0x1000 4 0 15, .movh 0x1FFF 4 0 15, .popc 0 1 4 0 15, .clz 0 1 4 0 15, .ctz 0 1 4 0 15, .brev 0 1 4 0 15,
      .bswap 0 1 4 0 15, .sexb 0 1 4 0 15, .sexh 0 1 4 0 15, .movd 0 30 4 0 15], Runs i laneIssue 0 0 laneState) ∧
    Both (src laneCtx 1) (dst laneCtx 4 1) (now laneState) ∧ Both (src laneCtx 4) (dst laneCtx 4 1) (now laneState) ∧
    Both (srcD laneCtx 30) (dst laneCtx 4 2) (now laneState) :=
  ⟨by decide, runs_of (by decide), both_of (by decide), both_of (by decide), both_of (by decide)⟩

theorem witness_BitFieldResults :
    (∀ v : BitVec 1, Runs (.bfe v 2 1 4 0 15) laneIssue 0 0 (withReg 2 0x1F1F) ∧ Runs (.bfe v 2 1 4 0 15) laneIssue 0 0 (withReg 2 0x1F)) ∧
    Three (src laneCtx 1) (src laneCtx 2) (dst laneCtx 4 1) (now (withReg 2 0x1F1F)) ∧
    src laneCtx 2 (now (withReg 2 0x1F1F)) = .ok (0x1F1F, now (withReg 2 0x1F1F)) ∧
    Three (src laneCtx 1) (src laneCtx 2) (dst laneCtx 4 1) (now (withReg 2 0x1F)) ∧
    src laneCtx 2 (now (withReg 2 0x1F)) = .ok (0x1F, now (withReg 2 0x1F)) :=
  ⟨fun v => ⟨runs_of (is := [.bfe v 2 1 4 0 15]) (by revert v; decide) _ (by simp), runs_of (is := [.bfe v 2 1 4 0 15]) (by revert v; decide) _ (by simp)⟩,
    three_of (by decide), rfl, three_of (by decide), rfl⟩

theorem witness_ShortFormResults :
    (∀ i ∈ [Instr.add16 2 1, .sub16 2 1, .mul16 2 1, .and16 2 1, .or16 2 1, .xor16 2 1, .shl16 2 1, .shr16 2 1, .sra16 2 1, .min16 2 1,
      .max16 2 1, .mov16 2 1, .fadd16 2 1, .fmul16 2 1, .fmax16 2 1, .fmad16 2 1], Runs i laneIssue 0 0 laneState) ∧
    Three (src laneCtx 1) (src laneCtx (short 2)) (dst laneCtx 1 1) (now laneState) ∧
    Both (src laneCtx (short 2)) (dst laneCtx 1 1) (now laneState) ∧
    answers (roundMine laneCtx fmtFP32 ((decodeFmt fmtFP32 0x3F800000).mul (.fin true 1 3 0))) (now laneState) = true ∧
    Four (src laneCtx 32) (src laneCtx (short 2)) (src laneCtx 1) (dst laneCtx 1 1) (now laneState) :=
  ⟨runs_of (by decide), three_of (by decide), both_of (by decide), by decide, four_of (by decide)⟩

theorem witness_CompareResults :
    (∀ v w : BitVec 1, ∀ i ∈ [Instr.ceq 2 4 w 11 0 15, .cne 2 4 w 0 0 15, .clt v 2 4 w 11 0 15, .cle v 2 4 w 11 0 15],
      Runs i laneIssue 0 0 laneState) ∧
    (∀ w, Both (srcV laneCtx w 4) (srcV laneCtx w 2) (now laneState)) ∧
    (∀ u : BitVec 3, u.toNat < 6 → Runs (.plog 0 u 1 11 0 15) laneIssue 0 0 laneState) :=
  ⟨fun v w => runs_of (by revert v w; decide), fun w => both_of (by revert w; decide),
    fun u _ => runs_of (is := [.plog 0 u 1 11 0 15]) (by revert u; decide) _ (by simp)⟩

theorem witness_PredicateMoves :
    (∀ i ∈ [Instr.prd 11 4 0 15, .pwr 1 11 0 15, .pset 0 0 15, .pclr 11 0 15], Runs i laneIssue 0 0 laneState) ∧
    (∃ y t, dst laneCtx 4 1 (now laneState) = .ok (y, t)) ∧ ∃ y t, src laneCtx 1 (now laneState) = .ok (y, t) :=
  ⟨runs_of (by decide), answers_of (by decide), answers_of (by decide)⟩

/-! ## Floating point -/

/-- A thread under mode 4 with every exception enabled, and operands 1.0 and infinity. -/
def floatState : State := laneWith (fun t => { t with fpctl := 0x1F04, seed := 1, v := [(1, 0x3F800000), (2, 0x7F800000)] }) id

theorem witness_FloatArithmeticResults : ∀ v : BitVec 1,
    (∀ i ∈ [Instr.fadd v 2 8 4 0 15, .fsub v 2 8 4 0 15, .fmul v 2 8 4 0 15, .fdiv v 2 8 4 0 15, .fmin v 2 8 4 0 15, .fmax v 2 8 4 0 15,
      .fmac v 2 8 4 0 15, .fnmac v 2 8 4 0 15], Runs i laneIssue 0 0 laneState ∧ Runs i laneIssue 0 0 floatState) ∧
    Three (srcV laneCtx v 8) (srcV laneCtx v 2) (dstV laneCtx v 4) (now floatState) ∧
    Four (srcV laneCtx v 8) (srcV laneCtx v 2) (srcV laneCtx v 4) (dstV laneCtx v 4) (now floatState) ∧
    ((now laneState).thread 0 0).trapen = 0 :=
  fun v => ⟨fun i h => ⟨runs_of (by clear h i; revert v; decide) i h, runs_of (by clear h i; revert v; decide) i h⟩, three_of (by revert v; decide),
    four_of (by revert v; decide), by decide⟩

theorem witness_PackedFloatResults : ∀ v : BitVec 1,
    (∀ i ∈ [Instr.hadd v 2 1 4 0 15, .hsub v 2 1 4 0 15, .hmul v 2 1 4 0 15, .hmac v 2 1 4 0 15, .pack v 2 1 4 0 15, .unpk 0 3 1 4 0 15],
      Runs i laneIssue 0 0 laneState) ∧
    Three (src laneCtx 1) (src laneCtx 2) (dst laneCtx 4 1) (now laneState) ∧
    Four (src laneCtx 1) (src laneCtx 2) (src laneCtx 4) (dst laneCtx 4 1) (now laneState) ∧
    Both (src laneCtx 1) (dst laneCtx 4 1) (now laneState) :=
  fun v => ⟨runs_of (by revert v; decide), three_of (by decide), four_of (by decide), both_of (by decide)⟩

theorem witness_FloatCompareSignClass :
    (∀ v : BitVec 1, ∀ j : BitVec 2, Runs (.fcmp v 2 8 j 11 0 15) laneIssue 0 0 laneState) ∧
    (∀ v, Both (srcV laneCtx v 8) (srcV laneCtx v 2) (now laneState)) ∧
    (∀ i ∈ [Instr.fabsF32 0 1 4 0 15, .fnegF32 0 1 4 0 15, .fclassF32 0 1 4 0 15, .fabsF64 0 2 4 0 15, .fnegF64 0 2 4 0 15,
      .fclassF64 0 2 4 0 15, .fsqrtF64 0 2 4 0 15], Runs i laneIssue 0 0 laneState) ∧
    Both (src laneCtx 1) (dst laneCtx 4 1) (now laneState) ∧ Both (srcD laneCtx 2) (dst laneCtx 4 1) (now laneState) ∧
    Both (srcD laneCtx 2) (dst laneCtx 4 2) (now laneState) :=
  ⟨fun v j => runs_of (is := [.fcmp v 2 8 j 11 0 15]) (by revert v j; decide) _ (by simp), fun v => both_of (by revert v; decide),
    runs_of (by decide), both_of (by decide), both_of (by decide), both_of (by decide)⟩

theorem witness_SpecialFunctionResults :
    (∀ i ∈ [Instr.frcp 0 1 4 0 15, .frsq 0 1 4 0 15, .fexp2 0 1 4 0 15, .flog2 0 1 4 0 15, .fsin 0 1 4 0 15, .fcos 0 1 4 0 15,
      .ftanh 0 1 4 0 15, .fsqrtF32 0 1 4 0 15], Runs i laneIssue 0 0 laneState) ∧
    Both (src laneCtx 1) (dst laneCtx 4 1) (now laneState) ∧ ((now laneState).thread 0 0).trapen = 0 :=
  ⟨runs_of (by decide), both_of (by decide), by decide⟩

theorem witness_ScalingAndConversionResults :
    (∀ v : BitVec 1, Runs (.fscale v 2 8 4 0 15) laneIssue 0 0 laneState ∧ Three (srcV laneCtx v 8) (src laneCtx 2) (dstV laneCtx v 4) (now laneState)) ∧
    (∀ e : BitVec 3, Runs (.cvtf 0 e 8 4 0 15) laneIssue 0 0 laneState ∧ Runs (.cvti 0 e 8 4 0 15) laneIssue 0 0 laneState) ∧
    (∀ v w, Both (srcV laneCtx v 8) (dstV laneCtx w 4) (now laneState)) :=
  ⟨fun v => ⟨runs_of (is := [.fscale v 2 8 4 0 15]) (by revert v; decide) _ (by simp), three_of (by revert v; decide)⟩,
    fun e => ⟨runs_of (is := [.cvtf 0 e 8 4 0 15]) (by revert e; decide) _ (by simp),
      runs_of (is := [.cvti 0 e 8 4 0 15]) (by revert e; decide) _ (by simp)⟩, fun v w => both_of (by revert v w; decide)⟩

theorem witness_NarrowFormatResults :
    controlOk 0x05 = true ∧ controlOk 0x0F = false ∧
    (∀ v : BitVec 1, ∀ i ∈ [Instr.qnt v 2 1 4 0 15, .dqnt v 2 1 4 0 15],
      Runs i laneIssue 0 0 (withReg 2 0x05) ∧ Runs i laneIssue 0 0 (withReg 2 0x0F)) ∧
    Four (src laneCtx 1) (src laneCtx 2) (src laneCtx 4) (dst laneCtx 4 1) (now (withReg 2 0x05)) ∧
    Four (src laneCtx 1) (src laneCtx 2) (src laneCtx 4) (dst laneCtx 4 1) (now (withReg 2 0x0F)) ∧
    Three (src laneCtx 1) (src laneCtx 2) (dst laneCtx 4 1) (now (withReg 2 0x05)) ∧
    src laneCtx 2 (now (withReg 2 0x05)) = .ok (0x05, now (withReg 2 0x05)) ∧ src laneCtx 2 (now (withReg 2 0x0F)) = .ok (0x0F, now (withReg 2 0x0F)) ∧
    Runs (.mxsc 0 0 1 4 0 15) laneIssue 0 0 (withReg 1 0) ∧ Runs (.mxsc 0 0 1 4 0 15) laneIssue 0 0 (withReg 1 0x7F800000) ∧
    decodeIn false fmtFP32 0x7F800000 = .inf false ∧ decodeIn false fmtFP32 0 = .fin false 0 1 (-149) ∧
    Both (src laneCtx 1) (dst laneCtx 4 1) (now laneState) :=
  ⟨by decide, by decide, fun v i h => ⟨runs_of (by clear h i; revert v; decide) i h, runs_of (by clear h i; revert v; decide) i h⟩, four_of (by decide), four_of (by decide), three_of (by decide), rfl, rfl,
    runs_of (is := [.mxsc 0 0 1 4 0 15]) (by decide) _ (by simp),
    runs_of (is := [.mxsc 0 0 1 4 0 15]) (by decide) _ (by simp), rfl, rfl, both_of (by decide)⟩

/-! ## Control -/

theorem witness_TransferResults :
    (∀ i ∈ [Instr.br 1 0 15, .br 0x40000 0 15, .call 0x3FFFF 0 15, .jmp 0 2 0 15, .ret 0 2 0 15, .callr 0 2 4 0 15, .nop 0 15],
      Runs i laneIssue 0 0 laneState) ∧
    (∃ y t, srcD laneCtx 2 (now laneState) = .ok (y, t)) ∧ Both (srcD laneCtx 2) (dst laneCtx 4 2) (now laneState) :=
  ⟨runs_of (by decide), answers_of (by decide), both_of (by decide)⟩

theorem laneWise_onThreads {i : Instr} {x : Issue} {s : State} {body : Ctx → LaneM After} (h : s.unit = .lanes x)
    (e : exec i s = onThreads (shapeOf i) body s) : ∃ body, exec i s = .next (runLanes (shapeOf i) body s x) :=
  ⟨body, by rw [e, onThreads, h]⟩

theorem laneWise_onBoth {i : Instr} {x : Issue} {s : State} {body : Ctx → LaneM After} {f : Cluster → Cluster} (h : s.unit = .lanes x)
    (e : exec i s = onBoth (shapeOf i) body f s) : ∃ body, exec i s = .next (runLanes (shapeOf i) body s x) :=
  ⟨body, by rw [e, onBoth, h]⟩

/-- The lane under predicate p0, which is clear in it. -/
theorem witness_IdleLanePushes :
    (∀ i ∈ [Instr.add 0 2 1 4 0 0, .add 1 2 8 4 0 0, .add 0 2 1 48 0 0, .fsqrtF64 0 2 4 0 0, .nop 0 0], LaneWise i ∧
      Issued i laneIssue 0 0 laneState ∧ HasEntry i laneIssue laneState ∧ executes (shapeOf i) laneState 0 0 = false) ∧
    (shapeOf (.add 0 2 1 4 0 0)).push = .word 4 ∧ (shapeOf (.add 1 2 8 4 0 0)).push = .pair 4 ∧ (shapeOf (.nop 0 0)).push = .none := by
  refine ⟨fun i hi => ⟨fun x s h => ?_, issued_of (by revert i; decide), hasEntry_of (k := 0) (l := 0) rfl rfl, by revert i; decide⟩, by decide⟩
  simp only [List.mem_cons, List.not_mem_nil, or_false] at hi
  rcases hi with rfl | rfl | rfl | rfl | rfl
  · exact laneWise_onBoth h rfl
  · exact laneWise_onBoth h rfl
  · exact laneWise_onBoth h rfl
  · exact laneWise_onThreads h rfl
  · exact laneWise_onThreads h rfl


theorem witness_ConvergenceEffects :
    (∀ i ∈ [Instr.enrol 3 0 15, .strike 0 0 15, .park 0 0 15, .exit 0 15, .reform 0 15], Runs i laneIssue 0 0 laneState) ∧
    (laneState.ctxOf laneIssue 0 0).helper = false ∧ (laneState.ctxOf laneIssue 0 1).helper = true ∧
    Runs (.park 0 0 15) laneIssue 0 0 (laneWith id fun c => { c with j := [(0, 1)] }) :=
  ⟨runs_of (by decide), by decide, by decide, runs_of (is := [.park 0 0 15]) (by decide) _ (by simp)⟩

/-- A crew whose mask 3 names lane 31 alone, which is parked on it. -/
def parkedState : State := (laneState.modThread 0 31 fun t => { t with st := .parked 3 }).modCrew 0 fun c => { c with j := [(3, 0x80000000)] }

theorem witness_RejoinReleases :
    (∀ l < 32, (0x80000000#32).getLsbD l = true → ∃ q, (parkedState.thread 0 l).st = .parked q ∧ q.toNat = 3) ∧
    mget 0 (parkedState.crew 0).j 3 = 0x80000000#32 ∧ mget 0 (laneState.crew 0).j 3 = 0 := by
  refine ⟨fun l hl h => ?_, by decide, by decide⟩
  have : l = 31 := by revert l; decide
  exact ⟨3, by subst this; decide⟩

theorem witness_SafePointEffects :
    (∀ i ∈ [Instr.safept 7 1 16 0 15, .safept 0 0 0 0 15], Runs i laneIssue 0 0 laneState ∧
      Runs i laneIssue 0 0 (laneState.modGroup 0 fun g => { g with preempt := .yield })) ∧
    ((laneState.modGroup 0 fun g => { g with preempt := .yield }).group laneCtx.group).preempt ≠ .none :=
  ⟨fun i h => ⟨runs_of (by clear h i; decide) i h, runs_of (by clear h i; decide) i h⟩, by decide⟩

/-- A thread of a launch whose handler is at 0x20000. -/
def handlerState : State :=
  { laneState with launches := [(launchKey 1 0, { queue := 1, index := 0, ctx := 1, body := List.replicate 42 0 ++ [2] })] }

/-- The same thread in its handler, to return to its own instruction. -/
def trappedState : State := handlerState.modThread 0 0 fun t => { t with tcause := 0x80000002, tpc := 0x10000 }

theorem witness_TrapsEnterTheHandler :
    disposition 2 1 = .user ∧ disposition 0x1F 255 = .user ∧
    BitVec.ofNat 64 ((handlerState.launch (handlerState.group laneCtx.group).launch).f 40 8) = 0x20000#64 ∧
    (handlerState.thread laneCtx.crew laneCtx.lane).tcause.getLsbD 31 = false := by decide

theorem witness_TrapDispositions :
    (∀ e ∈ [(0x13, 0), (0x16, 0), (0x1A, 0), (0x0D, 2), (0x10, 6), (0x14, 5), (0x14, 7)],
      e.1 = 0x13 ∨ e.1 = 0x16 ∨ e.1 = 0x1A ∨ (e.1 = 0x0D ∧ e.2 = 2) ∨ (e.1 = 0x10 ∧ e.2 = 6) ∨ (e.1 = 0x14 ∧ e.2 ≠ 6)) ∧
    (∀ e ∈ [(0x0D, 1), (0x10, 5), (0x14, 6), (0x1B, 1), (0x18, 0), (0x02, 1)],
      ¬ (e.1 = 0x13 ∨ e.1 = 0x16 ∨ e.1 = 0x1A ∨ (e.1 = 0x0D ∧ e.2 = 2) ∨ (e.1 = 0x10 ∧ e.2 = 6) ∨ (e.1 = 0x14 ∧ e.2 ≠ 6)) ∧
        ¬ (e.1 = 0x1B ∧ e.2 = 2)) ∧
    (trappedState.thread 0 0).tcause.getLsbD 31 = true ∧ (laneState.thread 0 0).tcause.getLsbD 31 = false ∧
    BitVec.ofNat 64 ((laneState.launch (laneState.group laneCtx.group).launch).f 40 8) = 0#64 := by decide

theorem isOk_of {α ε : Type} {x : Except ε α} (h : (match x with | .ok _ => true | .error _ => false) = true) : ∃ y, x = .ok y := by
  cases x with
  | ok y => exact ⟨y, rfl⟩
  | error _ => cases h

theorem viewOf_of {c : Ctx} {s : State} {v : View}
    (h : v = { ctx := (s.launch (s.group c.group).launch).ctx, group := c.group, firmware := slotOf c.crew == 63 }) :
    myView c s = .ok (v, s) := by
  rw [h]
  rfl

/-- The thread in its handler, to return to an address; the page at 1 GiB has still to be filled (R431). -/
def handlerAt (pc : DWord) : State :=
  { trappedState.modThread 0 0 fun t => { t with tpc := pc } with mem := memPuts trappedState.mem 0x102008 [6] }

theorem fills_of {α : Type} {x : Except Stop α} (h : (match x with | .error (.fill _ _ _) => true | _ => false) = true) :
    ∃ p e l, x = .error (.fill p e l) := by
  split at h
  · exact ⟨_, _, _, rfl⟩
  · cases h

theorem fails_of {α : Type} {x : Except Stop α} (h : (match x with | .error (.fill _ _ _) => false | .error _ => true | .ok _ => false) = true) :
    ∃ e, x = .error e ∧ ∀ p f l, e ≠ .fill p f l := by
  split at h
  · cases h
  · rename_i e hn
    exact ⟨e, rfl, fun p f l he => hn p f l (by rw [he])⟩
  · cases h

theorem witness_TrapInstructionEffects :
    (∀ i ∈ [Instr.trap 0 0 15, .brk 63 0 15, .tret 0 15, .tretNext 0 15], Runs i laneIssue 0 0 laneState ∧ Runs i laneIssue 0 0 trappedState) ∧
    laneCtx.helper = false ∧ (trappedState.thread 0 0).tcause.getLsbD 31 = true ∧ (laneState.thread 0 0).tcause.getLsbD 31 = false ∧
    (laneState.ctxOf laneIssue 0 1).helper = true ∧ Issued (.tret 0 15) helperIssue 0 1 helperState ∧
    executes (shapeOf (.tret 0 15)) helperState 0 1 = true ∧
    ∃ v, myView laneCtx (now trappedState) = .ok (v, now trappedState) ∧
      (∃ e, (now trappedState).fetchParcel v (trappedState.thread 0 0).tpc = .ok e) ∧
      (∃ p e l, (now (handlerAt 0x40000000)).fetchParcel v ((handlerAt 0x40000000).thread 0 0).tpc = .error (.fill p e l)) ∧
      ∃ e, (now (handlerAt 0x10001)).fetchParcel v ((handlerAt 0x10001).thread 0 0).tpc = .error e ∧ ∀ p f l, e ≠ .fill p f l :=
  ⟨fun i h => ⟨runs_of (by clear h i; decide) i h, runs_of (by clear h i; decide) i h⟩, by decide, by decide, by decide, by decide,
    issued_of (by decide), by decide, { ctx := 1, group := 0 }, viewOf_of (by decide), isOk_of (by decide), fills_of (by decide), fails_of (by decide)⟩

theorem witness_IllegalOperandsTrap :
    LaneWise (.add 0 2 1 33 0 15) ∧ (shapeOf (.add 0 2 1 33 0 15)).refusal laneCtx.n = some (2, 1, 33) ∧
    (shapeOf (.add 1 2 47 4 0 15)).refusal laneCtx.n = some (2, 2, 47) ∧ (shapeOf (.add 0 31 1 4 0 0)).refusal 31 = some (2, 3, 31) ∧
    HasEntry (.add 0 2 1 33 0 15) laneIssue laneState ∧ HasEntry (.add 0 2 1 33 0 15) helperIssue helperState ∧
    laneState.unit = .lanes laneIssue ∧ helperState.unit = .lanes helperIssue ∧ (mfind laneState.crews 0).isSome = true ∧
    (laneState.ctxOf laneIssue 0 0).helper = false ∧ (helperState.ctxOf helperIssue 0 1).helper = true :=
  ⟨fun _ _ h => laneWise_onBoth h rfl, by decide, by decide, by decide, hasEntry_of (k := 0) (l := 0) rfl rfl, hasEntry_of (k := 0) (l := 1) rfl rfl, by decide⟩

/-- A thread whose v3 is held, and whose index registers 0, 1 and 2 are plain, pre-stepping and circular ones on word 63 of its array. -/
def indexState : State := laneWith (fun t => { t with hold := 8, x := [(0, { base := 60, cursor := 3, bound := 4, step := 1 }),
  (1, { mode := 1, base := 60, cursor := 2, bound := 4, step := 1 }), (2, { mode := 2, base := 60, cursor := 3, bound := 4, step := 15 }),
  (3, { base := 60, cursor := 4, bound := 4 }), (4, { base := 60, cursor := 4, bound := 5 })] }) id

theorem witness_OperandReads :
    ((indexState.thread 0 0).held 31 = false ∧ (indexState.thread 0 0).held 3 = true ∧ (indexState.thread 0 0).held 4 = false ∧
      (indexState.thread 0 0).held 5 = false ∧ laneCtx.helper = false ∧ laneCtx.a = 64) ∧
    (∀ x ∈ [0, 1, 2, 3, 4], ((indexState.thread 0 0).xreg x).mode ≠ 3) ∧
    (∀ x ∈ [0, 2], ((indexState.thread 0 0).xreg x).mode ≠ 1 ∧
      ((indexState.thread 0 0).xreg x).cursor.toNat < ((indexState.thread 0 0).xreg x).bound.toNat ∧
      ((indexState.thread 0 0).xreg x).base.toNat + ((indexState.thread 0 0).xreg x).cursor.toNat = 63) ∧
    (((indexState.thread 0 0).xreg 1).mode = 1 ∧ (((indexState.thread 0 0).xreg 1).cursor + BitVec.ofInt 12 1).toNat = 3) ∧
    (((indexState.thread 0 0).xreg 3).bound.toNat ≤ ((indexState.thread 0 0).xreg 3).cursor.toNat) ∧
    (laneCtx.a ≤ ((indexState.thread 0 0).xreg 4).base.toNat + ((indexState.thread 0 0).xreg 4).cursor.toNat) ∧
    (∃ y t, src laneCtx 31 indexState = .ok (y, t)) := by
  refine ⟨by decide, by decide, by decide, by decide, by decide, by decide, answers_of (by decide)⟩

/-! ## Crews -/

theorem witness_ExchangeResults :
    (∀ i ∈ [Instr.qxH 0 1 4 0 15, .qxV 0 1 4 0 15, .qxD 0 1 4 0 15, .qbc 0 0 1 4 0 15, .qbc 0 3 1 4 0 15, .perm 2 1 4 0 15,
      .shfl 0 0 1 4 0 15, .shfl 0 31 1 4 0 15, .shfl 1 31 1 4 0 15, .shfl 2 31 1 4 0 15, .shfl 3 31 1 4 0 15, .blut 0 1 1 4 0 15,
      .blut 1 0 1 4 0 15], Runs i laneIssue 0 0 laneState) ∧
    Both (src laneCtx 1) (dst laneCtx 4 1) (now laneState) ∧ Three (src laneCtx 1) (src laneCtx 2) (dst laneCtx 4 1) (now laneState) :=
  ⟨runs_of (by decide), both_of (by decide), three_of (by decide)⟩

/-- All 32 lanes of the crew run and are issued an instruction. -/
def crewIssue : Issue := { laneIssue with parts := [{ crew := 0, lanes := 0xFFFFFFFF }] }

/-- The package with a crew of 32 threads. -/
def crewState : State := { laneState with unit := .lanes crewIssue, threads := (List.range 32).map fun l => (l, { v := [(1, BitVec.ofNat 32 l)] }) }

theorem witness_WholeCrewSum :
    crewState.unit = .lanes crewIssue ∧ (mfind crewState.crews 0).isSome = true ∧ (crewState.ctxOf crewIssue 0 0).n = 32 ∧
    (∀ l < 32, (0xFFFFFFFF#32).getLsbD l = true → (crewState.thread 0 l).gone = false ∧ (crewState.thread 0 l).hold = 0 ∧
      ((15 : BitVec 4) = 15 ∨ (mget 0 (crewState.crew 0).p (15 : BitVec 4).toNat).getLsbD l = ((0 : BitVec 1) == 0))) := by decide

theorem issuedAll_of {i : Instr} {x : Issue} {m : Word} {s : State}
    (h : (decide (s.unit = .lanes x) && decide (x.parts = [{ crew := 0, lanes := m }]) && (mfind s.crews 0).isSome &&
      decide ((shapeOf i).refusal (s.ctxOf x 0 0).n = none)) = true) : IssuedAll i x 0 m s := by
  simp only [Bool.and_eq_true, decide_eq_true_eq] at h
  exact ⟨h.1.1.1, h.1.1.2, h.1.2, h.2⟩

theorem witness_CrewReductionResults :
    (∀ i ∈ [Instr.vote 0 0 1 4 0 15, .vote 0 1 1 4 0 15, .vote 0 2 1 4 0 15, .vote 0 3 1 4 0 15, .cred 0 0 1 4 0 15, .cred 0 7 1 4 0 15,
      .credf 0 0 1 4 0 15, .credf 0 5 2 4 0 15, .cscan 0 1 1 4 0 15, .cscan 0 7 1 4 0 15, .cscan 0 0 1 4 0 15],
      Runs i laneIssue 0 0 laneState ∧ IssuedAll i crewIssue 0 0xFFFFFFFF crewState) ∧
    laneCtx.helper = false ∧ (laneState.ctxOf laneIssue 0 1).helper = true ∧
    Both (src laneCtx 1) (dst laneCtx 4 1) (now laneState) ∧
    (∀ w, Both (srcV laneCtx w 2) (dstV laneCtx w 4) (now laneState)) ∧
    Named 0 0xFFFFFFFF 1 4 1 crewState ∧ Named 0 0xFFFFFFFF 2 4 2 crewState :=
  ⟨fun i h => ⟨runs_of (by clear h i; decide) i h, issuedAll_of (by revert i; decide)⟩, by decide, by decide, both_of (by decide),
    fun w => both_of (by revert w; decide), ⟨by decide, by decide⟩, ⟨by decide, by decide⟩⟩

/-! ## Memory -/

/-- A crew whose k0 pair holds an address. -/
def atAddr (va : Word) : State := laneWith id fun c => { c with k := mset c.k 0 va }

/-- A write copy of a line of zeros. -/
def lineCopy : Copy := { write := true, line := { data := List.replicate 128 0 } }

/-- The slice beside core 0 holds that copy of the line at 0x4000. -/
def mine (s : State) : State := { s with copies := [(copyKey 0 (0x4000 / 128), lineCopy)] }

/-- A group with a window of 64 KiB in slice 0, whose first word holds 7; the crew's k0 pair points to it. -/
def stageWith (full : Bool) : State :=
  { laneWith id fun c => { c with k := [(1, 0xFFFF00)] } with
    mem := memPuts laneState.mem stagingBase [7]
    groups := laneState.groups.map fun g => (g.1, { g.2 with win0Size := 65536 })
    full := if full then [(stagingBase / 4, true)] else [] }

/-- The access went to memory under a protocol of which the slice beside the core has no copy. -/
def missesAt (pa : Nat) (p : Nat × PageKind) (t : State) : Bool :=
  decide (p = (pa, .coherent)) && t.coreOwned pa && decide (region pa ≠ .device) && decide (mfind t.copies (copyKey 0 (pa / 128)) = none)

/-- The access went to memory under a protocol of which the slice beside the core has the write copy. -/
def ownsAt (pa n : Nat) (p : Nat × PageKind) (t : State) : Bool :=
  decide (p = (pa, .coherent)) && t.coreOwned pa && decide (region pa ≠ .device) &&
    decide (mfind t.copies (copyKey 0 (pa / 128)) = some lineCopy) && !lineCopy.line.bad (pa % 128) n

/-- The access went to a staging word that nothing else has used. -/
def stagedAt (pa n : Nat) (p : Nat × PageKind) (t : State) : Bool :=
  decide (p = (pa, .staging)) && t.coreOwned pa && decide (region pa = .staging) && !t.busyWord pa n && !t.busyWord pa 4 && !t.poisonedAt pa n &&
    decide (pa % n = 0) && t.mem.wf && t.present pa && !t.peekBad pa 4

theorem misses_of {c : Ctx} {va : DWord} {a : Machine.Class} {s : State} {pa : Nat} (hc : c.core = 0) (hg : c.got = [])
    (h : holds (access c va a) (missesAt pa) s = true) : ∃ t, access c va a s = .ok ((pa, .coherent), t) ∧ Misses c pa .coherent t := by
  obtain ⟨p, t, e, h⟩ := holds_of h
  simp only [missesAt, Bool.and_eq_true, decide_eq_true_eq] at h
  obtain ⟨⟨⟨rfl, ho⟩, hr⟩, hm⟩ := h
  exact ⟨t, e, ho, hr, hg, rfl, hc ▸ hm⟩

theorem owned_of {c : Ctx} {va : DWord} {a : Machine.Class} {s : State} {pa n : Nat} (hc : c.core = 0) (hg : c.got = [])
    (h : holds (access c va a) (ownsAt pa n) s = true) : ∃ t, access c va a s = .ok ((pa, .coherent), t) ∧
      OwnsLine c pa .coherent lineCopy t ∧ ReadsNow c n pa .coherent (lineCopy.line.part (pa % 128) n) t ∧
      lineCopy.line.bad (pa % 128) n = false := by
  obtain ⟨p, t, e, h⟩ := holds_of h
  simp only [ownsAt, Bool.and_eq_true, decide_eq_true_eq, Bool.not_eq_true'] at h
  obtain ⟨⟨⟨⟨rfl, ho⟩, hr⟩, hm⟩, hb⟩ := h
  exact ⟨t, e, ⟨ho, hr, hg, .inl rfl, hc ▸ hm, rfl⟩, ⟨ho, hr, hg, lineCopy, hc ▸ hm, fun _ => rfl, .inl rfl, hb, rfl⟩, hb⟩

theorem atStage_of {c : Ctx} {va : DWord} {a : Machine.Class} {s : State} {pa n : Nat} (hg : c.got = [])
    (h : holds (access c va a) (stagedAt pa n) s = true) : ∃ t, access c va a s = .ok ((pa, .staging), t) ∧
      StoresNow c n pa .staging t ∧ ReadsNow c n pa .staging (t.read pa n) t ∧ FindsWord c pa t := by
  obtain ⟨p, t, e, h⟩ := holds_of h
  simp only [stagedAt, Bool.and_eq_true, decide_eq_true_eq, Bool.not_eq_true'] at h
  obtain ⟨⟨⟨⟨⟨⟨⟨⟨⟨rfl, ho⟩, hr⟩, hb⟩, hb4⟩, hp⟩, ha⟩, hw⟩, hs⟩, hk⟩ := h
  have hd : region pa ≠ .device := by rw [hr]; simp
  exact ⟨t, e, ⟨ho, hd, hg, ha, hw, .inr hp, .inl ⟨rfl, hb⟩⟩, ⟨ho, hd, hg, hb, hp, rfl⟩, hr, hg, hb4, hs, hk⟩

theorem owns_of {c : Ctx} {va : DWord} {a : Machine.Class} {s : State} {pa n : Nat} (hc : c.core = 0) (hg : c.got = [])
    (h : holds (access c va a) (ownsAt pa n) s = true) :
    ∃ t, access c va a s = .ok ((pa, .coherent), t) ∧ OwnsLine c pa .coherent lineCopy t := by
  obtain ⟨t, e, h, -⟩ := owned_of hc hg h
  exact ⟨t, e, h⟩

theorem reads_of {c : Ctx} {va : DWord} {a : Machine.Class} {s : State} {pa n : Nat} (hc : c.core = 0) (hg : c.got = [])
    (h : holds (access c va a) (ownsAt pa n) s = true) :
    ∃ t, access c va a s = .ok ((pa, .coherent), t) ∧ ReadsNow c n pa .coherent (lineCopy.line.part (pa % 128) n) t := by
  obtain ⟨t, e, -, h, -⟩ := owned_of hc hg h
  exact ⟨t, e, h⟩

theorem stores_of {c : Ctx} {va : DWord} {a : Machine.Class} {s : State} {pa n : Nat} (hg : c.got = [])
    (h : holds (access c va a) (stagedAt pa n) s = true) :
    ∃ t, access c va a s = .ok ((pa, .staging), t) ∧ StoresNow c n pa .staging t := by
  obtain ⟨t, e, h, -⟩ := atStage_of hg h
  exact ⟨t, e, h⟩

theorem loads_of {c : Ctx} {va : DWord} {a : Machine.Class} {s : State} {pa n : Nat} (hg : c.got = [])
    (h : holds (access c va a) (stagedAt pa n) s = true) :
    ∃ t, access c va a s = .ok ((pa, .staging), t) ∧ ReadsNow c n pa .staging (t.read pa n) t := by
  obtain ⟨t, e, -, h, -⟩ := atStage_of hg h
  exact ⟨t, e, h⟩

/-- The conditions of IssuedAll and Leads for a list of instructions, decided. -/
def led (s : State) (is : List Instr) : Bool := is.all fun i => issued i laneIssue 0 s && Active i 0 1 s 0

theorem led_of {is : List Instr} {s : State} (h : led s is = true) : ∀ i ∈ is, IssuedAll i laneIssue 0 1 s ∧ Leads i 0 1 s 0 := by
  intro i hi
  have := List.all_eq_true.1 h i hi
  rw [Bool.and_eq_true] at this
  have g := issued_of this.1
  exact ⟨⟨g.unit, rfl, g.crew, g.legal⟩, by decide, this.2, fun j hj => absurd hj (by omega)⟩

/-- The state in which a crew-uniform access of crew 0 is made: its one lane leads, at the latest of the lanes' times. -/
def crewStart (s : State) : State :=
  s.modThread 0 0 fun u => { u with time := (orderedLanes s 0).foldl (fun q j => max q (s.thread 0 j).time) 0 }

theorem witness_CrewUniformResults :
    (∀ i ∈ [Instr.kadd 0 2 1 4 0 15, .kadd 1 2 0 4 0 15, .ksub 0 2 1 4 0 15, .ksub 1 2 0 4 0 15, .kaddi 64 1 4 0 15, .kmovi 0x1000 4 0 15,
      .kmovh 0x1FFF 4 0 15, .kfirst 0 1 4 0 15, .kld 0 0 2 0 4 0 15, .kld 0 0 2 1 4 0 15, .kst 0 0 2 0 4 0 15, .kst 0 0 2 1 4 0 15],
      (IssuedAll i laneIssue 0 1 (atAddr 0x4000) ∧ Leads i 0 1 (atAddr 0x4000) 0) ∧ (IssuedAll i laneIssue 0 1 (mine (atAddr 0x4000)) ∧
        Leads i 0 1 (mine (atAddr 0x4000)) 0) ∧ (IssuedAll i laneIssue 0 1 (stageWith true) ∧ Leads i 0 1 (stageWith true) 0) ∧
        HasEntry i laneIssue (atAddr 0x4000) ∧ HasEntry i laneIssue (mine (atAddr 0x4000)) ∧ HasEntry i laneIssue (stageWith true)) ∧
    (∃ y t, src laneCtx 1 (atAddr 0x4000) = .ok (y, t)) ∧
    (∀ l < 32, Active (.kadd 0 2 1 4 0 3) 0 1 (atAddr 0x4000) l = false) ∧ IssuedAll (.kadd 0 2 1 4 0 3) laneIssue 0 1 (atAddr 0x4000) ∧
    laneCtx.got = [] ∧ (∀ n ∈ [4, 8],
      (∃ t, access laneCtx 0x4000 (.load n) (crewStart (atAddr 0x4000)) = .ok ((0x4000, .coherent), t) ∧ Misses laneCtx 0x4000 .coherent t) ∧
      (∃ t, access laneCtx 0x4000 (.store n) (crewStart (atAddr 0x4000)) = .ok ((0x4000, .coherent), t) ∧ Misses laneCtx 0x4000 .coherent t) ∧
      (∃ t, access laneCtx 0x4000 (.load n) (crewStart (mine (atAddr 0x4000))) = .ok ((0x4000, .coherent), t) ∧
        ReadsNow laneCtx n 0x4000 .coherent (lineCopy.line.part 0 n) t) ∧
      (∃ t, access laneCtx 0x4000 (.store n) (crewStart (mine (atAddr 0x4000))) = .ok ((0x4000, .coherent), t) ∧
        OwnsLine laneCtx 0x4000 .coherent lineCopy t) ∧
      ∃ t, access laneCtx 0xFFFF0000000000 (.store n) (crewStart (stageWith true)) = .ok ((stagingBase, .staging), t) ∧
        StoresNow laneCtx n stagingBase .staging t) :=
  ⟨fun i h => ⟨led_of (by clear h i; decide) i h, led_of (by clear h i; decide) i h, led_of (by clear h i; decide) i h,
      hasEntry_of (k := 0) (l := 0) rfl rfl, hasEntry_of (k := 0) (l := 0) rfl rfl, hasEntry_of (k := 0) (l := 0) rfl rfl⟩,
    answers_of (by decide), by decide, ⟨rfl, rfl, by decide, by decide⟩, rfl, fun n hn => ⟨misses_of rfl rfl (by revert n; decide),
      misses_of rfl rfl (by revert n; decide), reads_of (n := n) rfl rfl (by revert n; decide), owns_of (n := n) rfl rfl (by revert n; decide),
      stores_of (n := n) rfl (by revert n; decide)⟩⟩

theorem witness_LoadResults :
    (∀ i ∈ [Instr.ldB 0 0 2 4 0 15, .ldH 0 0 2 4 0 15, .ldW 0 0 2 4 0 15, .ldD 0 0 2 4 0 15, .ldQ 0 0 2 1 0 15],
      Enters i laneIssue 0 0 (atAddr 0x4000) ∧ Enters i laneIssue 0 0 (mine (atAddr 0x4000)) ∧ Enters i laneIssue 0 0 (stageWith true)) ∧
    (∀ n ∈ [1, 2, 4, 8, 16],
      (∃ t, access laneCtx 0x4000 (.load n) (now (atAddr 0x4000)) = .ok ((0x4000, .coherent), t) ∧ Misses laneCtx 0x4000 .coherent t) ∧
      (∃ t, access laneCtx 0x4000 (.load n) (now (mine (atAddr 0x4000))) = .ok ((0x4000, .coherent), t) ∧
        ReadsNow laneCtx n 0x4000 .coherent (lineCopy.line.part 0 n) t) ∧
      ∃ t, access laneCtx 0xFFFF0000000000 (.load n) (now (stageWith true)) = .ok ((stagingBase, .staging), t) ∧
        ReadsNow laneCtx n stagingBase .staging (t.read stagingBase n) t) ∧
    (Both (basePair laneCtx 0 2) (dst laneCtx 4 1) (now (atAddr 0x4000)) ∧ Both (basePair laneCtx 0 2) (dst laneCtx 4 2) (now (atAddr 0x4000))) ∧
    ((now (atAddr 0x4000)).thread 0 0).hold = 0 ∧ laneCtx.helper = false ∧ laneCtx.got = [] ∧ (now (atAddr 0x4000)).mem.wf = true ∧
    ((2 ^ 56 - 1 : Nat) % 2 ≠ 0 ∧ (0x00FFFFFFFFFFFFFF#64).toNat < 2 ^ 56 ∧ 2 ^ 56 ≤ (0x0100000000000000#64).toNat) :=
  ⟨fun i h => ⟨enters_of (by clear h i; decide) rfl i h, enters_of (by clear h i; decide) rfl i h, enters_of (by clear h i; decide) rfl i h⟩,
    fun n hn => ⟨misses_of rfl rfl (by revert n; decide), reads_of (n := n) rfl rfl (by revert n; decide),
      loads_of (n := n) rfl (by revert n; decide)⟩, ⟨both_of (by decide), both_of (by decide)⟩, by decide, by decide, rfl,
    by decide, by decide⟩

theorem witness_StoreEffects :
    (∀ i ∈ [Instr.stB 0 0 2 4 0 15, .stH 0 0 2 4 0 15, .stW 0 0 2 4 0 15, .stD 0 0 2 4 0 15, .stQ 0 0 2 1 0 15],
      Enters i laneIssue 0 0 (atAddr 0x4000) ∧ Enters i laneIssue 0 0 (mine (atAddr 0x4000)) ∧ Enters i laneIssue 0 0 (stageWith true) ∧
      Enters i helperIssue 0 1 helperState) ∧
    (∀ n ∈ [1, 2, 4, 8, 16],
      (∃ t, access laneCtx 0x4000 (.store n) (now (atAddr 0x4000)) = .ok ((0x4000, .coherent), t) ∧ Misses laneCtx 0x4000 .coherent t) ∧
      (∃ t, access laneCtx 0x4000 (.store n) (now (mine (atAddr 0x4000))) = .ok ((0x4000, .coherent), t) ∧
        OwnsLine laneCtx 0x4000 .coherent lineCopy t) ∧
      ∃ t, access laneCtx 0xFFFF0000000000 (.store n) (now (stageWith true)) = .ok ((stagingBase, .staging), t) ∧
        StoresNow laneCtx n stagingBase .staging t) ∧
    Both (basePair laneCtx 0 2) (src laneCtx 4) (now (atAddr 0x4000)) ∧ Both (basePair laneCtx 0 2) (srcD laneCtx 4) (now (atAddr 0x4000)) ∧
    ((now (atAddr 0x4000)).thread 0 0).hold = 0 ∧ laneCtx.helper = false ∧ laneCtx.got = [] ∧ (helperState.ctxOf helperIssue 0 1).helper = true ∧
    (lineCopy.line.data.length = 128 ∧ lineCopy.line.bad 112 16 = false) :=
  ⟨fun i h => ⟨enters_of (by clear h i; decide) rfl i h, enters_of (by clear h i; decide) rfl i h, enters_of (by clear h i; decide) rfl i h,
      ⟨issued_of (by revert i; decide), by revert i; decide⟩, admit_empty (k := 0) (l := 1) rfl _ rfl⟩,
    fun n hn => ⟨misses_of rfl rfl (by revert n; decide), owns_of (n := n) rfl rfl (by revert n; decide),
      stores_of (n := n) rfl (by revert n; decide)⟩, both_of (by decide), both_of (by decide), by decide, by decide, rfl, by decide,
    ⟨List.length_replicate, by decide⟩⟩

/-! ## Tagged words, atomics and capabilities -/

/-- The access went to a staging word, full or empty, that nothing else has used. -/
def wordAt (full : Bool) (p : Nat × PageKind) (t : State) : Bool := stagedAt stagingBase 4 p t && decide (t.isFull stagingBase = full)

theorem finds_of {c : Ctx} {va : DWord} {a : Machine.Class} {s : State} {full : Bool} (hg : c.got = [])
    (h : holds (access c va a) (wordAt full) s = true) : ∃ t, access c va a s = .ok ((stagingBase, .staging), t) ∧
      FindsWord c stagingBase t ∧ t.isFull stagingBase = full ∧ t.poisonedAt stagingBase 4 = false := by
  obtain ⟨p, t, e, h⟩ := holds_of h
  simp only [wordAt, stagedAt, Bool.and_eq_true, decide_eq_true_eq, Bool.not_eq_true'] at h
  obtain ⟨⟨⟨⟨⟨⟨⟨⟨⟨⟨rfl, ho⟩, hr⟩, hb⟩, hb4⟩, hp⟩, ha⟩, hw⟩, hs⟩, hk⟩, hf⟩ := h
  exact ⟨t, e, ⟨hr, hg, hb4, hs, hk⟩, hf, hp⟩

/-- The same word while it serves another operation of the cycle, and while a copy into its line is on its way. -/
def stageBusy : State := { stageWith true with touched := [(stagingBase / 4, stagingBase / 4 + 1)] }
def stageFilling : State := { stageWith true with filling := [(stagingBase / 128, 1)] }

theorem waits_of {α : Type} {f : LaneM α} {s : State} (h : (match f s with | .error (.wait _) => true | _ => false) = true) :
    ∃ w, f s = .error (.wait w) := by
  split at h
  · exact ⟨_, ‹_›⟩
  · cases h

theorem witness_TaggedEffects :
    (∀ i ∈ [Instr.ldf 0 0 0 2 4 0 15, .ldfk 0 0 0 2 4 0 15, .waitv 0 0 0 2 4 0 15, .ste 0 0 0 2 4 0 15, .stf 0 0 0 2 4 0 15,
      .sete 0 0 0 2 0 15], (∀ b, Enters i laneIssue 0 0 (stageWith b)) ∧ Enters i laneIssue 0 0 stageBusy ∧ Enters i laneIssue 0 0 stageFilling ∧
        Enters i laneIssue 0 0 (atAddr 0x4000) ∧ Enters i helperIssue 0 1 helperState) ∧
    (∀ b, Both (basePair laneCtx 0 2) (dst laneCtx 4 1) (now (stageWith b)) ∧ Three (basePair laneCtx 0 2) (src laneCtx 4) (dst laneCtx 4 1) (now (stageWith b))) ∧
    (∀ b, ∀ a ∈ [Machine.Class.tagged, .waitv], ∃ t, access laneCtx 0xFFFF0000000000 a (now (stageWith b)) = .ok ((stagingBase, .staging), t) ∧
      FindsWord laneCtx stagingBase t ∧ t.isFull stagingBase = b ∧ t.poisonedAt stagingBase 4 = false) ∧
    (∃ p t, access laneCtx 0xFFFF0000000000 .tagged (now stageBusy) = .ok (p, t) ∧ (decide (p = (stagingBase, PageKind.staging)) && t.coreOwned stagingBase &&
      t.busyWord stagingBase 4) = true) ∧
    (∃ w, access laneCtx 0xFFFF0000000000 .tagged (now stageFilling) = .error (.wait w)) ∧
    (∃ p t, access laneCtx 0x4000 .waitv (now (atAddr 0x4000)) = .ok (p, t) ∧ (decide (p = (0x4000, PageKind.coherent)) && t.coreOwned 0x4000 &&
      decide (region 0x4000 ≠ Region.staging) && !t.peekBad 0x4000 4) = true) ∧
    laneCtx.helper = false ∧ laneCtx.got = [] ∧ (helperState.ctxOf helperIssue 0 1).helper = true :=
  ⟨fun i h => ⟨fun b => enters_of (by clear h i; revert b; decide) rfl i h, enters_of (by clear h i; decide) rfl i h, enters_of (by clear h i; decide) rfl i h,
      enters_of (by clear h i; decide) rfl i h, ⟨issued_of (by revert i; decide), by revert i; decide⟩, admit_empty (k := 0) (l := 1) rfl _ rfl⟩,
    fun b => ⟨both_of (by revert b; decide), three_of (by revert b; decide)⟩,
    fun b a ha => finds_of rfl (by revert a b; decide),
    holds_of (p := fun p t => decide (p = (stagingBase, PageKind.staging)) && t.coreOwned stagingBase && t.busyWord stagingBase 4) (by decide),
    waits_of (by decide),
    holds_of (p := fun p t => decide (p = (0x4000, PageKind.coherent)) && t.coreOwned 0x4000 && decide (region 0x4000 ≠ Region.staging) && !t.peekBad 0x4000 4) (by decide),
    by decide, rfl, by decide⟩

/-- A thread whose v0 pair points to an address, with a window of one FP32 element per word over the 64 bytes at 0x4000, or none. -/
def pointAt (va : DWord) (window : Bool) (s : State) : State :=
  { s.modThread 0 0 fun t => { t with v := [(0, va.lo), (1, va.hi)] } with
    windows := if window then [(0, { open_ := true, length := 64, phys := [(0x4000, 64)] })] else [] }

/-- The lane points to a line of which its slice has no copy, or the write copy; or to a staging word. -/
def atomState (window : Bool) : State := pointAt 0x4000 window laneState
def atomMine : State := mine (atomState false)
def atomStage : State := pointAt 0xFFFF0000000000 false (stageWith true)

theorem witness_AtomicEffects :
    (∀ i ∈ [Instr.atomIntW 0 0 0 0 4 0 15, .atomIntW 0 0 7 0 4 0 15, .atomIntD 0 0 0 0 4 0 15, .atomIntD 0 0 7 0 4 0 15, .atomSwap 0 0 0 0 4 0 15,
      .atomSwap 0 0 1 0 4 0 15, .atomFadd 0 0 0 0 4 0 15, .atomFadd 0 0 1 0 4 0 15, .atomFminF32 0 0 0 4 0 15, .atomFmaxF32 0 0 0 4 0 15,
      .atomCas 0 0 0 0 4 0 15, .atomCas 0 0 1 0 4 0 15, .redIntW 0 0 0 0 4 0 15, .redIntD 0 0 7 0 4 0 15, .redFloat 0 0 0 0 4 0 15,
      .redFloat 0 0 5 0 4 0 15], (∀ b, Enters i laneIssue 0 0 (atomState b)) ∧ Enters i laneIssue 0 0 atomMine ∧ Enters i laneIssue 0 0 atomStage ∧
        Enters i helperIssue 0 1 helperState) ∧
    (∀ w : BitVec 1, Three (namedPair laneCtx 0) (srcV laneCtx w 4) (dstV laneCtx w 4) (now (atomState false))) ∧
    Four (namedPair laneCtx 0) (srcD laneCtx 4) (srcD laneCtx 6) (dstV laneCtx 1 4) (now (atomState false)) ∧
    (∀ z ∈ [4, 8],
      (∃ t, access laneCtx 0x4000 (.atomic z) (now (atomState false)) = .ok ((0x4000, .coherent), t) ∧ Misses laneCtx 0x4000 .coherent t) ∧
      (∃ t, access laneCtx 0x4000 (.atomic z) (now atomMine) = .ok ((0x4000, .coherent), t) ∧ OwnsLine laneCtx 0x4000 .coherent lineCopy t) ∧
      lineCopy.line.bad (0x4000 % 128) z = false ∧
      ∃ t, access laneCtx 0xFFFF0000000000 (.atomic z) (now atomStage) = .ok ((stagingBase, .staging), t) ∧ StoresNow laneCtx z stagingBase .staging t) ∧
    (∃ p t, access laneCtx 0x4000 (.atomic 4) (now (atomState true)) = .ok (p, t) ∧
      (decide (p = (0x4000, PageKind.coherent)) && t.coreOwned 0x4000 && decide (t.windowAt 0x4000 false = some (0, 0))) = true) ∧
    (atomMine.windowAt 0x4000 false = none ∧ laneCtx.helper = false ∧ laneCtx.got = []) :=
  ⟨fun i h => ⟨fun b => enters_of (by clear h i; revert b; decide) rfl i h, enters_of (by clear h i; decide) rfl i h, enters_of (by clear h i; decide) rfl i h,
      ⟨issued_of (by revert i; decide), by revert i; decide⟩, admit_empty (k := 0) (l := 1) rfl _ rfl⟩,
    fun w => three_of (by revert w; decide), four_of (by decide),
    fun z hz => ⟨misses_of rfl rfl (by revert z; decide), owns_of (n := z) rfl rfl (by revert z; decide), by revert z; decide,
      stores_of (n := z) rfl (by revert z; decide)⟩,
    holds_of (p := fun p t => decide (p = (0x4000, PageKind.coherent)) && t.coreOwned 0x4000 && decide (t.windowAt 0x4000 false = some (0, 0))) (by decide),
    by decide, by decide, rfl⟩

/-- A capability of a package for the whole of memory, at 0x4000, with permissions `p`. -/
def wholeCap (peer p : Nat) : Cap := { bits := BitVec.ofNat 128 (0x4000 + peer * 2 ^ 64 + p * 2 ^ 74 + 47 * 2 ^ 82), tag := true }

/-- A lane with capabilities: c1 for its own package, c2 untagged, c3 without permissions, c4 for package 1, c5 sealed, and c6 for 16 bytes. -/
def capState : State := laneWith (fun t => { t with c := [(1, wholeCap 0 0xFF), (2, { wholeCap 0 0xFF with tag := false }), (3, wholeCap 0 0),
  (4, wholeCap 1 0xFF), (5, (wholeCap 0 0xFF).seal), (6, (wholeCap 0 0xFF).narrow 16)] }) fun c => { c with k := [(0, 0x4000)] }

/-- The same lane, its base and its capability c7 at a staging word. -/
def capStage : State := { (capState.modThread 0 0 fun t => { t with c := mset t.c 7 ((wholeCap 0 0xFF).setAddr 0xFFFF0000000000) }).modCrew 0 fun c =>
  { c with k := [(1, 0xFFFF00)] } with mem := (stageWith true).mem, groups := (stageWith true).groups }

theorem witness_CapabilityDerivations :
    (∀ i ∈ [Instr.capsetA 0 2 1 7 0 15, .capsetB 0 2 1 7 0 15, .capsetP 0 2 1 7 0 15, .capsetSeal 0 1 7 0 15, .caprd 0 4 1 0 0 15,
      .caprd 0 4 1 3 0 15, .caprd 0 4 1 4 0 15, .gname 0 7 0 15], Runs i laneIssue 0 0 capState) ∧
    (∀ i ∈ [Instr.capld 0 0 2 7 0 15, .capst 0 0 2 1 0 15, .capst 0 0 2 3 0 15], Enters i laneIssue 0 0 capState ∧ Enters i laneIssue 0 0 (mine capState) ∧
      Enters i laneIssue 0 0 capStage ∧ Enters i helperIssue 0 1 helperState) ∧
    (∃ y t, srcV laneCtx 1 2 (now capState) = .ok (y, t)) ∧ (∃ y t, dst laneCtx 4 2 (now capState) = .ok (y, t)) ∧
    (∃ y t, basePair laneCtx 0 2 (now capState) = .ok (y, t)) ∧
    (∀ a ∈ [Machine.Class.capld, .capst],
      (∃ t, access laneCtx 0x4000 a (now capState) = .ok ((0x4000, .coherent), t) ∧ Misses laneCtx 0x4000 .coherent t) ∧
      (∃ t, access laneCtx 0x4000 a (now (mine capState)) = .ok ((0x4000, .coherent), t) ∧ OwnsLine laneCtx 0x4000 .coherent lineCopy t) ∧
      (∃ t, access laneCtx 0x4000 a (now (mine capState)) = .ok ((0x4000, .coherent), t) ∧
        ReadsNow laneCtx 16 0x4000 .coherent (lineCopy.line.part 0 16) t) ∧
      (∃ t, access laneCtx 0xFFFF0000000000 a (now capStage) = .ok ((stagingBase, .staging), t) ∧ StoresNow laneCtx 16 stagingBase .staging t) ∧
      ∃ t, access laneCtx 0xFFFF0000000000 a (now capStage) = .ok ((stagingBase, .staging), t) ∧
        ReadsNow laneCtx 16 stagingBase .staging (t.read stagingBase 16) t) ∧
    (∃ p t, access laneCtx 0x4000 .capst (now capState) = .ok (p, t) ∧ (!t.ownPlace { ctx := 1, group := 0 } 0x4000) = true) ∧
    myView laneCtx (now capState) = .ok ({ ctx := 1, group := 0 }, now capState) ∧
    (wholeCap 0 0xFF).bit 75 = true ∧ (wholeCap 0 0).bit 75 = false ∧ (wholeCap 0 0).tag = true ∧ laneCtx.helper = false ∧ laneCtx.got = [] :=
  ⟨runs_of (by decide), fun i h => ⟨enters_of (by clear h i; decide) rfl i h, enters_of (by clear h i; decide) rfl i h, enters_of (by clear h i; decide) rfl i h,
      ⟨issued_of (by revert i; decide), by revert i; decide⟩, admit_empty (k := 0) (l := 1) rfl _ rfl⟩,
    answers_of (by decide), answers_of (by decide), answers_of (by decide),
    fun a h => ⟨misses_of rfl rfl (by revert a; decide), owns_of (n := 16) rfl rfl (by revert a; decide), reads_of (n := 16) rfl rfl (by revert a; decide),
      stores_of (n := 16) rfl (by revert a; decide), loads_of (n := 16) rfl (by revert a; decide)⟩,
    holds_of (p := fun _ t => !t.ownPlace { ctx := 1, group := 0 } 0x4000) (by decide), viewOf_of (by decide), by decide, by decide, by decide, by decide, rfl⟩

theorem witness_CapabilityMonotonicity :
    ((wholeCap 0 0xFF).setAddr 0x5000).tag = true ∧ ((wholeCap 0 0xFF).narrow 16).tag = true ∧ ((wholeCap 0 0xFF).setPerms 3).tag = true ∧
    (wholeCap 0 0xFF).seal.tag = true ∧ ({ wholeCap 0 0xFF with tag := false } : Cap).tag = false := by decide

/-- A capability that passes the checks and names this package gives an own access where the address resolves. -/
theorem own_of {c : Ctx} {q : Nat} {y : Word} {perm n a : Nat} {o : RemoteOp} {s : State} {cap : Cap} {pa : Nat} {kd : PageKind} {P : State → Prop}
    (hr : c.reply = none) (hc : capCheck c q y perm n [0, 1] s = .ok ((cap, a), s)) (hp : cap.peer = s.pkgId) (hk : cap.kind = 0)
    (h : ∃ t, access c (BitVec.ofNat 64 a) (o.cls n) s = .ok ((pa, kd), t) ∧ P t) :
    ∃ t, OwnAccess c q y perm n o s (BitVec.ofNat 64 a) pa kd t ∧ P t := by
  obtain ⟨t, e, hP⟩ := h
  exact ⟨t, ⟨hr, cap, a, hc, hp, rfl, by unfold localPlace; rw [if_pos hk]; exact e⟩, hP⟩

/-- The lane with the answer of another package. -/
def repliedState (status : Nat) : State := capState.modThread 0 0 fun t => { t with reply := some { status := status, data := 7, sent := 0, addr := 0x4000 } }

theorem witness_CapabilityAccesses :
    (∀ i ∈ [Instr.ldc 0 0 1 2 4 0 15, .ldc 3 0 1 2 4 0 15, .ldc 4 0 1 2 4 0 15, .stc 0 0 1 2 4 0 15, .stc 3 0 1 2 4 0 15, .stc 4 0 1 2 4 0 15,
      .stc 2 0 4 2 4 0 15, .amoc 1 0 2 4 0 15, .amoc 1 7 2 4 0 15, .amocRed 1 0 2 4 0 15, .amocRed 1 7 2 4 0 15, .putreg 0 1 4 6 0 15,
      .putreg 1 1 4 6 0 15], Enters i laneIssue 0 0 capState ∧ Enters i laneIssue 0 0 (mine capState) ∧ Enters i laneIssue 0 0 capStage ∧
        (∀ z ∈ [0, 3], Enters i laneIssue 0 0 (repliedState z)) ∧ Enters i helperIssue 0 1 helperState) ∧
    (∀ n ∈ [1, 8, 16], (∃ t, OwnAccess laneCtx 1 0 81 n .load (now (mine capState)) 0x4000 0x4000 .coherent t ∧
        ReadsNow laneCtx n 0x4000 .coherent (lineCopy.line.part 0 n) t) ∧
      (∃ t, OwnAccess laneCtx 1 0 80 n .store (now (mine capState)) 0x4000 0x4000 .coherent t ∧ OwnsLine laneCtx 0x4000 .coherent lineCopy t) ∧
      ∃ t, OwnAccess laneCtx 7 0 80 n .store (now capStage) 0xFFFF0000000000 stagingBase .staging t ∧ StoresNow laneCtx n stagingBase .staging t) ∧
    (∀ o ∈ [RemoteOp.atomic (.ofAmoc 0) false, .reduce (.ofAmoc 0) false],
      (∃ t, OwnAccess laneCtx 1 0 79 4 o (now (mine capState)) 0x4000 0x4000 .coherent t ∧ OwnsLine laneCtx 0x4000 .coherent lineCopy t) ∧
      ∃ t, OwnAccess laneCtx 7 0 79 4 o (now capStage) 0xFFFF0000000000 stagingBase .staging t ∧ StoresNow laneCtx 4 stagingBase .staging t) ∧
    (∀ e ∈ [(81, 0, 16), (80, 1, 4), (79, 8, 4), (79, 16, 4)], ∃ w, FarAccess laneCtx 4 0 e.1 e.2.1 e.2.2 5 (now capState) w) ∧
    (∀ z ∈ [0, 3], ((repliedState z).ctxOf laneIssue 0 0).reply = some { status := z, data := 7, sent := 0, addr := 0x4000 }) ∧
    Three (src laneCtx 2) (src laneCtx 4) (dst laneCtx 4 1) (now capState) ∧ Both (src laneCtx 2) (srcQ laneCtx 4) (now capState) ∧
    Both (src laneCtx 2) (srcD laneCtx 4) (now capState) ∧ Both (src laneCtx 2) (dst laneCtx 4 2) (now capState) ∧
    (∃ y t, srcV laneCtx 1 4 (now capState) = .ok (y, t)) ∧
    (((now capState).thread 0 0).hold = 0 ∧ laneCtx.helper = false ∧ laneCtx.reply = none ∧ laneCtx.got = []) ∧
    (∀ m, m < 3 → ∀ w, (laneState.thread 0 m).st = .waiting w → w.kind ≠ .egress) ∧
    ((capState.modThread 0 0 fun t => { t with st := .waiting { kind := .egress, req := some { op := 1, size := 2, peer := 1, ctx := 1, page := 0, off := 0 } } }).thread
      0 0).pc = laneIssue.pc ∧ capState.freeTag 0 = some 0 := by
  refine ⟨fun i h => ⟨enters_of (by clear h i; decide) rfl i h, enters_of (by clear h i; decide) rfl i h, enters_of (by clear h i; decide) rfl i h,
      fun z hz => enters_of (by clear h i; revert z; decide) rfl i h, ⟨issued_of (by revert i; decide), by revert i; decide⟩, admit_empty (k := 0) (l := 1) rfl _ rfl⟩,
    fun n hn => ⟨own_of (cap := wholeCap 0 0xFF) rfl (by simp only [List.mem_cons, List.not_mem_nil, or_false] at hn; rcases hn with rfl | rfl | rfl <;> rfl) rfl rfl
        (reads_of (n := n) rfl rfl (by revert n; decide)),
      own_of (cap := wholeCap 0 0xFF) rfl (by simp only [List.mem_cons, List.not_mem_nil, or_false] at hn; rcases hn with rfl | rfl | rfl <;> rfl) rfl rfl
        (owns_of (n := n) rfl rfl (by revert n; decide)),
      own_of (cap := (wholeCap 0 0xFF).setAddr 0xFFFF0000000000) rfl
        (by simp only [List.mem_cons, List.not_mem_nil, or_false] at hn; rcases hn with rfl | rfl | rfl <;> rfl) rfl rfl
        (stores_of (n := n) rfl (by revert n; decide))⟩,
    fun o ho => ⟨own_of (cap := wholeCap 0 0xFF) rfl rfl rfl rfl (owns_of (n := 4) rfl rfl (by revert o; decide)),
      own_of (cap := (wholeCap 0 0xFF).setAddr 0xFFFF0000000000) rfl rfl rfl rfl (stores_of (n := 4) rfl (by revert o; decide))⟩,
    fun e he => ?_, by decide, three_of (by decide), both_of (by decide), both_of (by decide), both_of (by decide), answers_of (by decide), by decide,
    fun m hm w h => ?_, by decide, by decide +kernel⟩
  · simp only [List.mem_cons, List.not_mem_nil, or_false] at he
    rcases he with rfl | rfl | rfl | rfl <;> exact ⟨_, rfl, rfl, wholeCap 1 0xFF, 0x4000, rfl, by decide, by decide, by decide, by decide, rfl⟩
  · have : ∀ m < 3, (laneState.thread 0 m).st = .run ∨ (laneState.thread 0 m).st = .helper := by decide
    rcases this m hm with e | e <;> simp [e] at h

/-- A lane whose c1 is the name of its group with permission to put, and whose group has a second thread. -/
def putState : State :=
  { laneWith (fun t => { t with c := [(1, gnameCap 0 (groupName 0 0 0))] }) id with
    groups := laneState.groups.map fun g => (g.1, { g.2 with threads := 2 }) }

/-- A group with a window, and a put that waits for a group. -/
def stageNamed : State := stageWith true
def movedPut : QueuedPut := { name := (groupName 0 0 0).toNat, thread := 1, reg := 3, wide := false, data := 5, time := 0, from_ := .lane 0 }

theorem witness_CapabilityChecks :
    (wholeCap 0 0xFF).bit 81 = true ∧ (wholeCap 0 0).bit 81 = false ∧ (wholeCap 0 0xFF).seal.tag = true ∧ ¬ (wholeCap 0 0xFF).seal.kind ∈ [0, 1] ∧
    ((wholeCap 0 0xFF).narrow 16).bounds = (0x4000, 0x4010) ∧
    (∃ y t, capCheck laneCtx 1 0 81 4 [0, 1] capState = .ok (y, t)) ∧
    (capCheck laneCtx 2 0 81 4 [0, 1] capState = .error (.trap 0x0B 1 2 0x4000 false)) ∧
    (capCheck laneCtx 6 16 81 4 [0, 1] capState = .error (.trap 0x0B 4 6 0x4010 false)) ∧
    (∃ t, OwnAccess laneCtx 1 0 81 4 .load (now (mine capState)) 0x4000 0x4000 .coherent t ∧
      ReadsNow laneCtx 4 0x4000 .coherent (lineCopy.line.part 0 4) t) ∧
    ((now capState).routes 1 (dieOf 0) ((wholeCap 1 0xFF).pageOf 0x4000) ≠ [] ∧ { now capState with ports := (List.range 128).map fun p => (p, true) }.routes 1 (dieOf 0) 0 = []) ∧
    (stageNamed.named (groupName 0 0 0).toNat = some (stageNamed.group 0) ∧ (stageNamed.group 0).win0Size = 65536 ∧
      stageNamed.present ((stageNamed.group 0).win0 0) = true) ∧
    (({ putState with putQueue := [movedPut] }.modGroup 0 fun g => { g with place := .moving }).moving movedPut = true) ∧
    (∃ y t, capCheck laneCtx 1 0 78 4 [1] (now putState) = .ok (y, t) ∧ (y.1.peer == t.pkg && y.2 == (groupName 0 0 0).toNat * 2 ^ 32) = true) ∧
    ((putState.named (groupName 0 0 0).toNat).isSome = true ∧ putState.named 0xFFFFFFFF = none ∧ (putState.group 0).nregs = 32 ∧ (putState.group 0).place = .resident) ∧
    ((putState.crewsOf (nameIndex 0)).find? (fun ck => (putState.crew ck).index == 1 / 32) = some 0) :=
  ⟨by decide, by decide, by decide, by decide, by decide, answers_of (by decide), rfl, rfl, own_of (cap := wholeCap 0 0xFF) rfl rfl rfl rfl (reads_of (n := 4) rfl rfl (by decide)),
    by decide, by decide, by decide,
    holds_of (p := fun (y : Cap × Nat) t => y.1.peer == t.pkg && y.2 == (groupName 0 0 0).toNat * 2 ^ 32) (by decide), by decide, by decide⟩

theorem witness_SystemRegisterMoves :
    (∀ i ∈ [Instr.mfs 0 4 0 15, .mfs 0x12 4 0 15, .mfs 1 4 0 15, .mts 4 2 0 15, .mts 5 2 0 15, .mts 6 2 0 15], Runs i laneIssue 0 0 laneState) ∧
    (∀ w ∈ [1, 2], ∃ y t, dst laneCtx 4 w (now laneState) = .ok (y, t)) ∧ (∃ y t, src laneCtx 2 (now laneState) = .ok (y, t)) ∧
    (∃ y t, srcD laneCtx 2 (now laneState) = .ok (y, t)) ∧ natBits (0x04#32).toNat 0 3 < 5 ∧ 5 ≤ natBits (0x05#32).toNat 0 3 :=
  ⟨runs_of (by decide), fun w hw => answers_of (by revert w; decide), answers_of (by decide), answers_of (by decide), by decide, by decide⟩

theorem witness_IndexRegistersAndHolds :
    (∀ i ∈ [Instr.xset 0 2 0 0 15, .xget 0 2 4 0 15, .xstep 0 2 0 0 15, .xstep 0 2 2 0 15, .xcur 0 2 7 0 15, .hold 0 31 0 15],
      Runs i laneIssue 0 0 indexState) ∧
    (∃ y t, srcD laneCtx 4 (now indexState) = .ok (y, t)) ∧ (∃ y t, dst laneCtx 4 2 (now indexState) = .ok (y, t)) ∧
    (∃ y t, src laneCtx 2 (now indexState) = .ok (y, t)) ∧ ((now indexState).thread 0 0 |>.xreg 2).bound ≠ 0 :=
  ⟨runs_of (by decide), answers_of (by decide), answers_of (by decide), answers_of (by decide), by decide⟩


/-! ## Sharing groups, barriers, chutes and submissions -/

/-- The lane in a package with the sharing groups given, its v0 to v3 a key, its own name, a key of no group, and that name. -/
def shareState (l : List ((Nat × Nat) × List Nat)) : State :=
  { laneWith (fun t => { t with v := [(0, 9), (1, groupName 0 0 0), (2, 8), (3, groupName 0 0 0)] }) id with sharing := l }

/-- The lane under a launch with a pool of the given size holding one record, about to spawn at the address in v8 and v9. -/
def spawnState (pool : Byte) (high : Word) : State :=
  { laneWith (fun t => { t with v := [(8, 0x10001), (9, high)] }) id with
    launches := [(launchKey 1 0, {
      queue := 1, index := 0, ctx := 1, body := List.replicate 68 0 ++ [pool]
      bins := [(0x10000, [{ pc := 0x10000, a0 := 0, a1 := 0, a2 := 0, a3 := 0, time := 1, at_ := 0 }])] })] }

/-- A firmware crew's lane that is issued TICKET. -/
def firmIssue : Issue := { laneIssue with parts := [{ crew := 63, lanes := bitOf 0 }] }

/-- A line that holds a ticket word and zeros. -/
def ticketCopy (next limit : Nat) : Copy := { lineCopy with line := { data := leBytes (next + limit * 2 ^ 32) 8 ++ List.replicate 120 0 } }

/-- A firmware crew's lane with a ticket word at an address, of whose line the slice has a copy where there is one. -/
def firmState (va : Nat) (copies : List (Nat × Copy)) : State :=
  { laneState with
    unit := .lanes firmIssue
    copies := copies
    groups := (stageWith true).groups
    crews := [(63, { group := 0, index := 0 })]
    threads := [(32 * 63, { v := [(0, BitVec.ofNat 32 va), (1, BitVec.ofNat 32 (va / 2 ^ 32))] })] }

/-- What the firmware crew's lane knows of itself. -/
def firmCtx : Ctx := (firmState 0 []).ctxOf firmIssue 63 0

theorem witness_SharingSpawnAndTickets :
    (∀ i ∈ [Instr.sjoin 0 0 0 15, .sleave 0 0 0 15, .smap 0 0 0 0 15, .smap 0 1 63 0 15, .fenceIo 0 15, .isync 0 15, .codepub 2 4 0 15],
      Runs i laneIssue 0 0 (shareState []) ∧ Runs i laneIssue 0 0 (shareState [((1, 9), [0])]) ∧
      Issued i helperIssue 0 1 helperState ∧ executes (shapeOf i) helperState 0 1 = true) ∧
    (Both (src laneCtx 0) (namedPair laneCtx 0) (now (shareState [])) ∧ myView laneCtx (now (shareState [])) = .ok ({ ctx := 1, group := 0 }, now (shareState []))) ∧
    ((shareState []).members (1, 9) = [] ∧ (shareState [((1, 9), [0])]).members (1, 9) = [0] ∧
      ((shareState [((1, 9), List.range 32)]).members (1, 9)).length = 32 ∧ ((shareState [((1, 9), (List.range 32).drop 1)]).members (1, 9)).length = 31) ∧
    (((shareState []).group 0).name = groupName 0 0 0 ∧ natBits (groupName 0 0 0).toNat 8 14 = 0) ∧
    (Runs (.spawn 0 8 12 0 15) laneIssue 0 0 (spawnState 0 0) ∧ Runs (.spawn 0 8 12 0 15) laneIssue 0 0 (spawnState 2 0x01000000)) ∧
    (Both (srcD laneCtx 8) (srcQ laneCtx 12) (now (spawnState 1 0)) ∧ ((spawnState 0 0).launch (launchKey 1 0)).f 68 4 = 0 ∧
      ((spawnState 1 0).launch (launchKey 1 0)).f 68 4 = (spawnState 1 0).pooled (launchKey 1 0) ∧
      (spawnState 2 0).pooled (launchKey 1 0) < ((spawnState 2 0).launch (launchKey 1 0)).f 68 4) ∧
    (Enters (.ticket 0 4 0 15) laneIssue 0 0 laneState ∧ Enters (.codepub 2 4 0 15) laneIssue 0 0 laneState ∧ Enters (.codepub 2 4 0 15) helperIssue 0 1 helperState ∧
      (∀ e ∈ [(0x4000, []), (0x4000, [(copyKey 0 (0x4000 / 128), ticketCopy 0 1)]), (0xFFFF0000000000, [])], Enters (.ticket 0 4 0 15) firmIssue 63 0 (firmState e.1 e.2))) ∧
    (Both (namedPair firmCtx 0) (dst firmCtx 4 2) (firmState 0x4000 []) ∧
      (∃ t, access firmCtx 0x4000 (.atomic 8) (firmState 0x4000 []) = .ok ((0x4000, .coherent), t) ∧ Misses firmCtx 0x4000 .coherent t) ∧
      (∃ p t, access firmCtx 0x4000 (.atomic 8) (firmState 0x4000 [(copyKey 0 (0x4000 / 128), ticketCopy 0 1)]) = .ok (p, t) ∧
        (decide (p = (0x4000, PageKind.coherent)) && t.coreOwned 0x4000 && decide (mfind t.copies (copyKey 0 (0x4000 / 128)) = some (ticketCopy 0 1))) = true) ∧
      (∃ t, access firmCtx 0xFFFF0000000000 (.atomic 8) (firmState 0xFFFF0000000000 []) = .ok ((stagingBase, .staging), t) ∧
        StoresNow firmCtx 8 stagingBase .staging t) ∧ firmCtx.helper = false ∧ firmCtx.got = [] ∧ 63 % 64 = 63 ∧
      leNat ((ticketCopy 0 1).line.part 0 8) = 2 ^ 32 ∧ (ticketCopy 0 1).line.bad 0 8 = false) ∧
    (Both (srcD laneCtx 2) (src laneCtx 4) (now laneState) ∧ myView laneCtx (now laneState) = .ok ({ ctx := 1, group := 0 }, now laneState)) :=
  ⟨fun i h => ⟨runs_of (by clear h i; decide) i h, runs_of (by clear h i; decide) i h, issued_of (by revert i; decide), by revert i; decide⟩,
    ⟨both_of (by decide), viewOf_of (by decide)⟩, by decide, by decide,
    ⟨runs_of (is := [.spawn 0 8 12 0 15]) (by decide) _ (by simp), runs_of (is := [.spawn 0 8 12 0 15]) (by decide) _ (by simp)⟩,
    ⟨both_of (by decide), by decide⟩,
    ⟨enters_of (is := [.ticket 0 4 0 15]) (by decide) rfl _ (by simp), enters_of (is := [.codepub 2 4 0 15]) (by decide) rfl _ (by simp),
      ⟨⟨issued_of (by decide), by decide⟩, admit_empty (k := 0) (l := 1) rfl _ rfl⟩,
      fun e he => ⟨⟨⟨by revert e; decide, rfl, by decide, by revert e; decide, by revert e; decide⟩, by revert e; decide⟩, admit_empty (k := 63) (l := 0) rfl _ rfl⟩⟩,
    ⟨both_of (by decide), misses_of rfl rfl (by decide), holds_of (p := fun p t => decide (p = (0x4000, PageKind.coherent)) && t.coreOwned 0x4000 &&
      decide (mfind t.copies (copyKey 0 (0x4000 / 128)) = some (ticketCopy 0 1))) (by decide), stores_of rfl (by decide), by decide, rfl, by decide, by decide, by decide⟩,
    ⟨both_of (by decide), viewOf_of (by decide)⟩⟩

theorem witness_BarrierArrivals :
    Runs (.bar 0 0 15) laneIssue 0 0 laneState ∧ Runs (.gbar 5 0 15) laneIssue 0 0 laneState ∧ laneCtx.helper = false ∧
    Issued (.bar 0 0 15) helperIssue 0 1 helperState ∧ (laneState.group 0).gang = some 0 ∧
    (laneState.participants [0] = [(0, 0)] ∧ (laneState.thread 0 0).barCount = (laneState.group 0).barInst) ∧
    ∀ e ∈ (laneState.arriveBar laneCtx).participants [0],
      ((laneState.arriveBar laneCtx).group 0).barInst < ((laneState.arriveBar laneCtx).thread e.1 e.2).barCount ∧
      ((laneState.arriveBar laneCtx).thread e.1 e.2).atBarrier .bar = true :=
  ⟨runs_of (is := [.bar 0 0 15]) (by decide) _ (by simp), runs_of (is := [.gbar 5 0 15]) (by decide) _ (by simp), by decide, issued_of (by decide),
    by decide, by decide, by decide⟩

/-- The lane in a gang with the window size given, and a chute 0 of depth 2, entry 128 and the side given. -/
def chuteState (size side : Nat) (c : Chute → Chute) : State :=
  { laneWith (fun t => { t with v := [(0, 0x01000000 + BitVec.ofNat 32 (side * 2 ^ 30)), (1, 1)] }) id with
    gangs := laneState.gangs.map fun g => (g.1, { g.2 with
      win1Size := size, chutes := [(0, c { image := BitVec.ofNat 64 (2 ^ 32 + 0x01000000 + side * 2 ^ 30) })] }) }

theorem witness_ChuteInstructions :
    (∀ i ∈ [Instr.chdef 0 0 0 0 15, .chdef 0 0 31 0 15, .chtake 0 0 0 15, .chpush 0 2 0 0 15], Runs i laneIssue 0 0 (chuteState 256 0 id) ∧
      Runs i laneIssue 0 0 (chuteState 256 1 id) ∧ Issued i helperIssue 0 1 helperState ∧ executes (shapeOf i) helperState 0 1 = true) ∧
    (∃ y t, srcD laneCtx 0 (now (chuteState 256 0 id)) = .ok (y, t)) ∧ (∃ y t, src laneCtx 2 (now (chuteState 256 0 id)) = .ok (y, t)) ∧
    ((chuteState 256 0 id).chuteArmed 0 0 = false ∧ ((chuteState 256 0 id).chute 0 0).busy = false ∧
      ((chuteState 256 0 fun c => { c with wacq := 1 }).chute 0 0).busy = true ∧ imageOk 0x101000000 = true ∧ imageOk 0x108000000 = true ∧
      imageOk 0x100000000 = false ∧ imageOk 0x109000000 = false ∧ imageOk 0x101000040 = false) ∧
    (let c : Chute := { image := 0x101000000 }; c.f 0 24 + c.depth * c.entry = 256) ∧
    (((chuteState 256 0 id).chute 0 0).defined = true ∧ ((chuteState 256 0 id).chute 0 0).side = 0 ∧ ((chuteState 256 0 id).chute 0 0).mayWrite 0 = true ∧
      ((chuteState 256 0 fun c => { c with wacq := 2 }).chute 0 0).mayWrite 0 = false ∧ ((chuteState 256 1 id).chute 0 0).side = 1 ∧
      ((chuteState 256 1 id).chute 0 0).mayRead 0 = false ∧ ((chuteState 256 1 fun c => { c with pub := 1 }).chute 0 0).mayRead 0 = true ∧
      ((chuteState 256 2 id).chute 0 0).side = 2 ∧ (now (chuteState 256 0 id)).takers 0 0 = [] ∧ laneState.clock = 0) ∧
    ({ State.reset.chute 0 0 with wrelAt := 1 }.wrelAt = 0 + 1 ∧ (State.reset.chute 0 0).wrelAt ≠ 0 + 1 ∧ (State.reset.chute 0 0).wreleases = []) ∧
    (0 ∉ ((chuteState 256 0 id).chute 0 0).held ∧ 0 ∈ ((chuteState 256 0 fun c => { c with wacq := 1, held := [0] }).chute 0 0).held) ∧
    ((laneState.modGroup 0 fun g => { g with gang := none }).group laneCtx.group).gang = none :=
  ⟨fun i h => ⟨runs_of (by clear h i; decide) i h, runs_of (by clear h i; decide) i h, issued_of (by revert i; decide), by revert i; decide⟩,
    answers_of (by decide), answers_of (by decide), by decide, by decide, by decide, by decide, by decide, by decide⟩

/-- A COPY descriptor: 16 bytes from 0x6000 to 0x7000, one firing, no chutes. -/
def copyDesc : List Byte := List.replicate 8 0 ++ leBytes 0xFFFFFF 4 ++ leBytes 1 4 ++ leBytes 0x6000 8 ++ leBytes 0x7000 8 ++ leBytes 16 4 ++ List.replicate 28 0

/-- A RETILE descriptor (MXFP layout absent) from the record at 0x4100 to the one at 0x4200. -/
def retileDesc : List Byte :=
  List.replicate 8 0 ++ leBytes 0xFFFFFF 4 ++ leBytes 1 4 ++ leBytes 0x4100 8 ++ leBytes 0x4200 8 ++ leBytes 3 1 ++ List.replicate 31 0

/-- A source record of one row of 512 elements. -/
def sourceRecord : List Byte := leBytes 512 4 ++ leBytes 1 4 ++ leBytes 1 4 ++ leBytes 1 4 ++ List.replicate 12 0 ++ leBytes 1 4 ++ List.replicate 32 0

/-- A WOPEN block: one FP32 target from 0x6000, no flags, no completion word. -/
def openBlock : List Byte := leBytes 0x6000 8 ++ leBytes 4 4 ++ leBytes 1 4 ++ List.replicate 16 0

/-- The lane with a record at 0x4000, which its v0 pair points to and of whose line the slice has a copy, and a word in v4. -/
def recordState (b : List Byte) (y : Word) : State :=
  { laneWith (fun t => { t with v := [(0, 0x4000), (4, y)] }) id with
    copies := [(copyKey 0 (0x4000 / 128), { line := { data := b ++ List.replicate (128 - b.length) 0 } })] }

theorem witness_EngineAndBenchSubmissions :
    (∀ i ∈ [Instr.copy 0 0 0 1 0 15, .retile 0 0 0 0 15, .gath 0 0 1 0 15, .chain 0 0 0 0 15, .coll 0 0 0 0 15, .wopen 0 0 5 0 15,
      .wfinal 0 4 0 15, .bkload 0 0 5 0 15, .bkvec 0 0 4 0 15, .bkrun 0 0 4 0 15, .bkdrain 0 0 4 0 15, .ownb 0 0 4 0 15, .ownc 0 0 4 0 15],
      Enters i laneIssue 0 0 (recordState copyDesc 0) ∧ Enters i laneIssue 0 0 (recordState openBlock 0) ∧ Enters i helperIssue 0 1 helperState) ∧
    (∃ y t, readable laneCtx 0x4008 64 (now (recordState copyDesc 0)) = .ok (y, t)) ∧ (∃ y t, readable laneCtx 0x4008 80 (now (recordState copyDesc 0)) = .ok (y, t)) ∧
    (∃ y t, loadMem laneCtx 0x4000 16 false (now (recordState copyDesc 0)) = .ok (y, t)) ∧
    (laneCtx.helper = false ∧ laneCtx.core / 4 = 0 ∧ mfind (laneState.cluster 0).armed 0 = none ∧
      ∀ q < 64, (mfind ((List.range 64).map fun q => (q, ({ kind := .copy, launch := 0, desc := [] } : Armed))) q).isSome = true) ∧
    (∃ b t, loadRecord laneCtx 0x4000 4 (now (recordState copyDesc 0)) = .ok (b, t) ∧
      (b == copyDesc && decide (descCheck .copy b = none) && decide (t.descChuteCheck (some 0) .copy b = none)) = true) ∧
    (descCheck .retile retileDesc = none ∧ retileCheck retileDesc sourceRecord 1 = none) ∧
    descCheck .copy (List.replicate 64 0) = some 2 ∧ descCheck .coll (List.replicate 64 0) = some 2 ∧
    (∃ cap t, capLoad laneCtx 0x4020 (now (recordState copyDesc 0)) = .ok (cap, t)) ∧
    (∃ b t, loadRecord laneCtx 0x4000 2 (now (recordState openBlock 0)) = .ok (b, t) ∧ (b == openBlock && holds
      (openTargets laneCtx 4 false false 0x6000 0 1 { target := 0x6000, length := 4, f64 := false })
      (fun w u => decide (u.windowAccs (homeDie (targetPa 4 0 w.phys)) false + u.benchReserved (homeDie (targetPa 4 0 w.phys)) + 1 ≤ 65536) &&
        u.windows.isEmpty) t) = true) ∧
    ((laneState.window 0).open_ = false ∧ (laneState.benchLaunch 0).live = false ∧
      (laneState.launch (laneState.group laneCtx.group).launch).ctx = 1) ∧
    (∃ b t, loadRecord laneCtx 0x4000 8 (now (recordState copyDesc 0)) = .ok (b, t)) ∧
    Both (srcD laneCtx 0) (src laneCtx 4) (now (recordState copyDesc 0)) :=
  ⟨fun i h => ⟨enters_of (by clear h i; decide) rfl i h, enters_of (by clear h i; decide) rfl i h, ⟨issued_of (by revert i; decide), by revert i; decide⟩,
      admit_empty (k := 0) (l := 1) rfl _ rfl⟩, answers_of (by decide), answers_of (by decide), answers_of (by decide), by decide, holds_of (by decide +kernel), by decide +kernel, by decide,
    by decide, answers_of (by decide), holds_of (by decide +kernel), by decide, answers_of (by decide +kernel), both_of (by decide)⟩

/-! ## Streams and benches -/

/-- A stream about to execute, with the cluster changed. -/
def streamState (f : Cluster → Cluster) : State :=
  { (State.reset.withStreamWord 0x78).modCluster 0 f with unit := .stream 0 0x10000 0x78 }

theorem witness_StreamScalars :
    (streamState id).unit = .stream 0 0x10000 0x78 ∧ ((streamState id).cluster 0).nz = false ∧
    ((streamState fun k => { k with nz := true }).cluster 0).nz = true ∧ mget 0 ((streamState fun k => { k with s := [(15, 1)] }).cluster 0).s 15 = 1 ∧
    mget 0 ((streamState id).cluster 0).s 0 = 0 ∧ (0x0A#7 ∈ [0x00#7, 0x04#7, 0x06#7, 0x07#7, 0x09#7, 0x0A#7]) ∧
    (0x01#7 ∉ [0x00#7, 0x04#7, 0x06#7, 0x07#7, 0x09#7, 0x0A#7]) := by decide

/-- A reservation record: two tiles of FP32 from offset 0, for A (role 0) or B (1); or an OUT record (2). -/
def handleOf (role : Nat) : Handle :=
  { record := leBytes (if role = 1 then 0x4000 else 0) 4 ++ leBytes (if role = 2 then 0 else 2) 2 ++ leBytes role 1 ++ leBytes 3 1 ++ List.replicate 24 0 }

/-- A stream with handles 0 (A), 1 (B) and 15 (OUT), a chute 0 of the side given, and a queue of the length given. -/
def tileState (side queued : Nat) (c : Chute → Chute) (f : Cluster → Cluster) : State :=
  let s := streamState fun k => f { k with
    handles := [(0, handleOf 0), (1, handleOf 1), (15, handleOf 2)], s := [(2, 0xF00), (3, 15), (5, 1)]
    queue := List.replicate queued { instr := .mzero 0 0, word := 0 } }
  { s with gangs := s.gangs.map fun g => (g.1, { g.2 with win1Size := 256, chutes := [(0, c { image := BitVec.ofNat 64 (2 ^ 32 + 0x01000000 + side * 2 ^ 30) })] }) }

theorem witness_StreamMatrixInstructions :
    (mfind ((tileState 0 0 id id).cluster 0).handles 0 = some (handleOf 0) ∧ mfind ((tileState 0 0 id id).cluster 0).handles 2 = none ∧
      (handleOf 0).role = 0 ∧ (handleOf 1).role = 1 ∧ (handleOf 2).role = 2 ∧ (handleOf 0).tiles = 2 ∧
      recordCheck {} (handleOf 0) = none ∧ recordCheck ((tileState 0 0 id id).cluster 0) (handleOf 0) = some 2 ∧
      mmaPair (handleOf 0).format (handleOf 1).format = some (.fp32, 4)) ∧
    (∃ e, { streamState id with copies := [(copyKey 0 (0x4000 / 128), lineCopy)] }.streamLoad 0 0x4000 32 = .ok e) ∧
    ((∃ f ∈ ((tileState 0 0 id fun k => { k with fills := [{ handle := 0, slot := 0, tile := 0 }] }).cluster 0).fills, f.handle = 0) ∧
      (∀ f ∈ ((tileState 0 0 id id).cluster 0).fills, f.handle ≠ 0) ∧ ∀ o ∈ ((tileState 0 1 id id).cluster 0).queue, 0 ∉ o.names) ∧
    (((tileState 0 0 id id).cluster 0).gang = some 0 ∧ ((tileState 0 0 id id).chute 0 0).defined = true ∧ ((tileState 0 0 id id).chute 0 0).side ≠ 1 ∧
      ((tileState 0 0 id id).chute 0 0).mayRead 0 = false ∧ ((tileState 0 0 (fun c => { c with pub := 1 }) id).chute 0 0).mayRead 0 = true ∧
      (mget 0 ((tileState 0 0 id id).cluster 0).s 5).toNat < (handleOf 0).tiles) ∧
    ((mget 0 ((tileState 1 0 id id).cluster 0).s 2) &&& ~~~0xF1F#64 = 0 ∧
      mfind ((tileState 1 0 id id).cluster 0).handles ((mget 0 ((tileState 1 0 id id).cluster 0).s 2).toNat / 256 % 16) = some (handleOf 2) ∧
      ((tileState 1 0 id id).chute 0 0).side ≠ 0 ∧ ((tileState 1 0 id id).chute 0 0).mayWrite 0 = true ∧
      ((tileState 1 0 (fun c => { c with wacq := 2 }) id).chute 0 0).mayWrite 0 = false) ∧
    (((tileState 1 7 id id).cluster 0).queue.length < 8 ∧ 8 ≤ ((tileState 1 8 id id).cluster 0).queue.length ∧
      (mget 0 ((tileState 1 0 id id).cluster 0).s 3).toNat < 16) :=
  ⟨by decide, isOk_of (by decide +kernel), by decide, by decide, by decide, by decide⟩

/-- A stack stepping a bench word of launch 0. -/
def columnState : State := { State.reset.withBenchWord 0x20001020 with unit := .column 0 }

theorem witness_BenchWords :
    columnState.unit = .column 0 ∧ columnState.copies = [] ∧ columnState.msgs = [] ∧ mfind columnState.trans 0 = none ∧ region 0 = .hbm ∧ ({ launch := {}, entry := 0, e := [], index := 0, slab := 0, t := 0, j0 := 0 } : Site).launch.mx = false ∧
    (0x20200000 / 2 ^ 20 % 16 = 2 ∧ 0x20100000 / 2 ^ 20 % 16 = 1 ∧ 0x20 / 32 % 8 = 1 ∧ 0x60 / 32 % 8 = 3 ∧ 0x40000000 / 2 ^ 29 % 8 = 2) := by decide


/-! ## Coherence -/

/-- A package whose line 0x80 is under the protocol of a slot, in a state, with slot 6 holding a table of zeros that tracks sharers. -/
def lineState (slot state : Nat) : State :=
  { State.reset with dir := [(0x80, { slot := slot, state := state })], slots := [(6, { status := 2, image := [0, 0, 0, 0, 0, 1] })] }

/-- The same with a transaction that has sent INV to agent 5, and a message. -/
def busyState (slot state : Nat) (m : Msg) : State :=
  { lineState slot state with
    trans := [(0x80, { msgs := [(5, 1)], memData := true, memAck := true, ackZero := true, buffer := some { data := List.replicate 128 0 } })]
    msgs := [m] }

/-- The same with a copy in agent 5. -/
def copyState (slot : Nat) (c : Copy) : State := { lineState slot 0 with copies := [(copyKey 5 0x80, c)] }

/-- A line of the set that 0x80 is in. -/
def mate (i : Nat) : Nat := 0x80 + 163840 * i

/-- The set of 0x80 is full of other lines, in a state. -/
def fullSet (st : Nat) : State := { State.reset with dir := (List.range 16).map fun i => (mate (i + 1), { slot := 0, state := st, used := i }) }

/-- The entry of 0x80 waits for the agent of its non-owner publication. -/
def nsvState (asked : Bool) : State := { State.reset with dir := [(0x80, { nsv := true, nsagent := 7, nswait := asked })] }

/-- A request of agent 5 for line 0x80, and an answer of it. -/
def getsMsg : Msg := { event := 0, agent := 5, line := 0x80, req := some { event := 0, agent := 5 } }
def ackMsg (e : Nat) : Msg := { event := e, agent := 5, line := 0x80 }

/-- A line of zeros. -/
def zeroLine : Line := { data := List.replicate 128 0 }

theorem witness_CoherenceHomeEvents :
    (State.reset.unit = .none ∧ coherent 0x80 = true ∧ coherent (deviceBase / 128) = false ∧ 351 < 352 ∧ State.reset.lostAgents = [] ∧
      State.reset.pendingReq = [] ∧ State.reset.coreOwned (128 * 0x80) = true ∧ State.reset.inFlight 0 5 0x80 = none ∧
      (busyState 1 3 getsMsg).inFlight 0 5 0x80 = some getsMsg ∧ (2 : Nat) ≤ 4 ∧ 4 % 2 ^ 2 = 0 ∧ 1 < 2 ^ (8 * 2 ^ 2)) ∧
    (homeSlice (128 * getsMsg.line) ∈ { lineState 1 3 with handled := [homeSlice (128 * 0x80)] }.handled ∧
      (homeSlice (128 * getsMsg.line) ∉ (nsvState true).handled ∧ getsMsg.agent ≠ ((nsvState true).dirAt 0x80).nsagent) ∧
      (((nsvState true).dirAt 0x80).nswait = true ∧ ((nsvState false).dirAt 0x80).nswait = false) ∧ (mfind (lineState 1 3).dir 0x80).isSome = true) ∧
    (∀ st ∈ [0, 2], mfind (fullSet st).dir 0x80 = none ∧ ((fullSet st).dir.filter fun e => dirSet e.1 == dirSet 0x80).length = 16 ∧
      leastUsed ((((fullSet st).dir.filter fun e => dirSet e.1 == dirSet 0x80).filter fun e => !(fullSet st).busyLine e.1).map fun e => (e.1, e.2.used)) =
        some (mate 1) ∧ ((fullSet st).dirAt (mate 1)).state = st) ∧
    (∀ e ∈ (fullSet 2).dir, { fullSet 2 with trans := (List.range 16).map fun i => (mate (i + 1), {}) }.busyLine e.1 = true) ∧
    ((busyState 1 3 { event := 9, agent := 512, line := 0x80 }).msgs.any (fun m => m.line == 0x80 && m.event == 9) = true ∧ region (128 * (hostBase / 128)) = .host ∧
      region (128 * 0x80) ≠ .host ∧ State.reset.inFlight 9 512 0x80 = none) ∧
    (let s := ((lineState 1 3).takeSlot 0x80).strikeLost 0x80;
      (isRequest 0 = true ∧ s.busyLine 0x80 = false ∧ s.transFree 0x80 = true ∧ (s.entryFor 0x80 0).stall = false) ∧ isEviction 4 = true ∧
        (s.entryFor 0x80 4).stall = false ∧ (lineState 1 3).lostAgents = []) ∧
    (let s := ((busyState 1 8 (ackMsg 11)).takeSlot 0x80).strikeLost 0x80;
      (isRequest 0 = true ∧ s.busyLine 0x80 = true) ∧ (isAnswer 11 = true ∧ (s.entryFor 0x80 11).stall = false ∧ (∃ x ∈ (s.transOf 0x80).msgs, x.1 = 5) ∧
        ∀ x ∈ (s.transOf 0x80).msgs, x.1 ≠ 6) ∧ (s.entryFor 0x80 10).stall = true) ∧
    ({ lineState 1 3 with trans := (List.range 64).map fun i => (0x80 + 160 * (i + 1), {}) }.transFree 0x80 = false) ∧
    (((lineState 1 3).protocolOf 0x80).transient ((lineState 1 3).entryFor 0x80 4).next = false ∧
      ((lineState 1 0).protocolOf 0x80).transient ((lineState 1 0).entryFor 0x80 0).next = true) ∧
    (region (128 * 0x80) = .hbm ∧ ((busyState 1 8 (ackMsg 11)).transOf 0x80).buffer = some zeroLine ∧ State.reset.mem.wf = true) ∧
    (let d : DirEntry := { ptrs := [some 1, some 2, some 3, some 4], ackcnt := 1 };
      d.coarse = false ∧ d.ptrs.length = 4 ∧ 1 ∈ d.sharers ∧ 5 ∉ d.sharers ∧ d.sharers.length = 4 ∧ (∀ x ∈ d.sharers, x < 352) ∧ d.coarseBits = 0 ∧ d.hostc = 0 ∧
        0 < d.ackcnt ∧ d.ackcnt < 512 ∧ ({} : DirEntry).sharers.length < 4 ∧ ({} : DirEntry).ptrs.length = 4) ∧
    (let s := { lineState 1 3 with deferred := [(0x80, [getsMsg])] };
      mget [] s.deferred 0x80 = [getsMsg] ∧ getsMsg.line = 0x80 ∧ s.busyLine 0x80 = false ∧ s.transFree 0x80 = true ∧ homeSlice (128 * 0x80) ∉ s.handled ∧
        (mfind s.dir 0x80).isSome = true ∧ (s.dirAt 0x80).nsv = false) ∧
    (mfind (copyState 6 {}).copies (copyKey 5 0x80) = some {} ∧ (copyState 6 {}).inFlight 3 5 0x80 = none ∧
      mfind (copyState 6 { tracked := true }).copies (copyKey 5 0x80) = some { tracked := true } ∧
      ∀ b, mfind (copyState 6 { write := true, dirty := b }).copies (copyKey 5 0x80) = some { write := true, dirty := b }) ∧
    (let s := { busyState 1 8 (ackMsg 11) with msgs := [], trans := [(0x80, { msgs := [(320, 1)] })] };
      (∃ x ∈ (s.transOf 0x80).msgs, x.1 = 320 ∧ answersTo x.2 10 = true ∧ answersTo x.2 11 = true) ∧ s.msgs = [] ∧ 320 ∉ s.lostAgents) ∧
    (let s := busyState 6 0 (ackMsg 10);
      s.busyLine 0x80 = true ∧ (s.transOf 0x80).memData = true ∧ (s.transOf 0x80).memAck = true ∧ (s.transOf 0x80).ackZero = true ∧
        homeSlice (128 * 0x80) ∉ s.handled ∧ ∀ e ∈ [13, 14, 15], (s.entryFor 0x80 e).stall = false) := by
  refine ⟨by decide, by decide, by decide, by decide, by decide, by decide, by decide, by decide, by decide, by decide, by decide, by decide, by decide, by decide,
    by decide⟩

/-- Agent 5 has asked for line 0x80, and a grant or an acknowledgement of it is on its way. -/
def askedState (m : Msg) : State := { busyState 1 0 m with pendingReq := [(5, 0x80, { event := 0, agent := 5, op := some (.store 0 4 7) })] }

theorem witness_CoherenceCopyAndErrorEvents :
    (∀ e ∈ [33, 34, 35, 36], (busyState 6 0 (ackMsg e)).inFlight e 5 0x80 = some (ackMsg e) ∧ State.reset.inFlight e 5 0x80 = none) ∧
    (mfind (copyState 6 { write := true }).copies (copyKey 5 0x80) = some { write := true } ∧ mfind (copyState 6 {}).copies (copyKey 5 0x80) = some {} ∧
      mfind (copyState 6 {}).copies (copyKey 6 0x80) = none) ∧
    (∀ b, (askedState { ackMsg 40 with evict := b, data := some zeroLine }).inFlight 40 5 0x80 = some { ackMsg 40 with evict := b, data := some zeroLine }) ∧
    (let s := askedState { ackMsg 40 with data := some zeroLine, grantx := true, flags := 3 };
      s.pendingReq.find? (fun x => x.1 == 5 && x.2.1 == 0x80) = some (5, 0x80, { event := 0, agent := 5, op := some (.store 0 4 7) }) ∧
        s.asking 5 0x80 = true ∧ State.reset.asking 5 0x80 = false ∧ natBits 3 2 1 = 0 ∧ natBits 3 1 1 = 1 ∧ s.coreOwned (128 * 0x80) = true ∧
        (s.setMates 5 0x80).length < s.ways 5 ∧ (LineOp.store 0 4 7).isLoad = false ∧ (LineOp.load 0 4).isLoad = true ∧ s.watchers 0x80 = []) ∧
    (let s := laneState.modThread 0 0 fun t => { t with st := .waiting { kind := .miss, ticket := 1 } };
      (s.thread 0 0).st = .waiting { kind := .miss, ticket := 1 } ∧ (mfind s.threads 0).isSome = true) ∧
    (State.reset.elog = 0 ∧ (State.reset.dirAt 0x80).slot < 6 ∧ 5 ∉ State.reset.lostAgents ∧ (busyState 1 0 { event := 17, agent := 512, line := 0x80 }).inFlight 17 512 0x80 =
      some { event := 17, agent := 512, line := 0x80 } ∧ (busyState 1 0 (ackMsg 18)).inFlight 18 5 0x80 = some (ackMsg 18)) ∧
    (let s := { State.reset with lostAgents := [5], dir := [(0x80, { slot := 1, state := 3, ptrs := [some 5, none, none, none] })] };
      5 ∈ s.lostAgents ∧ coherent 0x80 = true ∧ 5 ∈ (s.dirAt 0x80).sharers ∧ (s.dirAt 0x80).ptrs.getD 0 none = some 5 ∧ (s.dirAt 0x80).coarse = false) ∧
    (∃ st < 16, (romProtocol 1).cls st = 3) ∧
    (let s := { busyState 1 0 (ackMsg 10) with clock := 2 ^ 20 };
      (s.transOf 0x80).msgs ≠ [] ∧ (s.transOf 0x80).sentAt + 2 ^ 20 ≤ s.clock ∧ (s.transOf 0x80).sentAt + 2 ^ 19 ≤ s.clock ∧ (s.transOf 0x80).resent = false ∧
        (s.dirAt 0x80).slot < 6 ∧ (State.reset.transOf 0x80).msgs = []) ∧
    (((nsvState true).dirAt 0x80).nsv = true ∧ ((nsvState true).dirAt 0x80).nswait = true ∧ (State.reset.dirAt 0x80).nsv = false) ∧
    ((320 - 320) / 16 = 0 ∧ (351 - 320) / 16 = 1 ∧ 0x6000000000 * 2 - 64 < 0x6000000000 * (1 + 1) ∧ (0x6000000000 * 2 - 64) % 64 = 0) ∧
    (State.reset.phase = 0 ∧ { State.reset with mstatus := 0x40000000 }.phase = 4 ∧ State.reset.coreOwned 0 = true ∧ State.reset.copies = [] ∧
      mfind { State.reset with copies := [(copyKey 320 0, lineCopy)] }.copies (copyKey 320 0) = some lineCopy ∧ lineCopy.leased = false ∧
      { State.reset with slabs := [(0, 1)] }.coreOwned 0 = false) ∧
    (mget ({} : ProtSlot) { State.reset with slots := [(6, { status := 1 })] }.slots 6 = { status := 1 } ∧ validate [] = some (1, 0, 0)) ∧
    validate (leBytes 0x4D425054 4 ++ [1]) = none := by
  refine ⟨by decide, by decide, by decide, by decide, by decide, by decide, by decide, by decide, by decide, by decide, by decide, by decide, by decide, by decide +kernel⟩

/-! ## Events between instructions -/

/-- The package in PHASE n, with queue 0 of depth 16. -/
def phaseState (n : Nat) : State :=
  { State.reset with mstatus := BitVec.ofNat 32 (n * 2 ^ 28), queues := [(0, { noQueue with depth := 16, ring := 0x10000, journal := 0x20000, jdepth := 16 })] }

theorem witness_PlatformAndErrorEvents :
    (∀ n ≤ 4, (phaseState n).phase = n) ∧
    (mfind (phaseState 4).queues 1 = none ∧ ∃ x, mfind (phaseState 4).queues 0 = some x ∧ x.lseq = 0 ∧ x.depth = 16 ∧ x.head = 0 ∧ x.tail = 0) ∧
    ((1 + 2 ^ 32 - 0) % 2 ^ 32 ≠ 0 ∧ (2 ^ 31 - 1 + 2 ^ 32 - 0) % 2 ^ 32 < 2 ^ 31 ∧ (16 + 2 ^ 32 - 0) % 2 ^ 32 ≤ 16 ∧ 16 < (17 + 2 ^ 32 - 0) % 2 ^ 32) ∧
    (State.reset.phase = 0 ∧ State.reset.booted = false ∧ (phaseState 2).bootctl.getLsbD 0 = false ∧
      { phaseState 2 with bootctl := 1 }.bootctl.getLsbD 0 = true ∧ field ({ phaseState 2 with bootctl := 1 }.read 0 16) 0 4 ≠ 0x50415443) ∧
    (State.reset.attBusy = 0 ∧ { State.reset with attBusy := 1 }.attBusy ≠ 0 ∧ State.reset.poison = []) ∧
    (State.reset.tlimit 0 = 105 ∧ mfind State.reset.hot 0 = none ∧ mfind { State.reset with hot := [(1, 5)], clock := 800005 }.hot 1 = some 5 ∧
      mget false State.reset.cap8 1 = false ∧ State.reset.temp 0 < 125 ∧ 125 ≤ { State.reset with therm := [(0, 125 + 105 * 2 ^ 16)] }.temp 0) ∧
    (let s := { State.reset with pageFills := [{ pte := 8, entry := 0, level := 4 }] };
      s.pageFills.find? (fun f => f.pte == 8 && f.failed.isNone) = some { pte := 8, entry := 0, level := 4 } ∧
        ((∃ t, s.fillPage 8 0 4 = .ok t) ∨ ∃ sub, s.fillPage 8 0 4 = .error sub)) ∧
    (region 0 = .hbm ∧ region hostBase = .host ∧ region stagingBase = .staging ∧ State.reset.elog = 0) ∧
    (mfind (copyState 0 { write := true }).copies (copyKey 5 (0x4000 / 128)) = some { write := true } ∧
      mfind (copyState 0 {}).copies (copyKey 5 (0x4000 / 128)) = some {} ∧ ((copyState 0 {}).protocol ((copyState 0 {}).dirAt 0x80).slot).tracked = false) ∧
    (slotOf 63 = 63 ∧ slotOf 0 ≠ 63 ∧ mfind State.reset.crews 0 = none ∧ (mfind laneState.crews 0).isSome = true ∧
      (State.reset.cluster 0).gang = none ∧ ((streamState id).cluster 0).gang = some 0) ∧
    (mfind { State.reset with corrections := [(2, (0, 7))], clock := 799999 }.corrections 2 = some (0, 7)) ∧
    (State.reset.coreOwned (16 * 0) = true ∧ { State.reset with slabs := [(0, 1)] }.coreOwned (16 * 0) = false) ∧
    (State.reset.elsewhere = [] ∧ (laneState.modGroup 0 fun g => { g with gang := none }).groups ≠ [] ∧
      mfind (copyState 0 { write := true }).copies (copyKey 5 (0x4000 / 128)) = some { write := true } ∧ State.reset.mem.wf = true) ∧
    (mfind { phaseState 4 with queues := [(0, { noQueue with malformed := 1 })] }.queues 0 = some { noQueue with malformed := 1 } ∧
      mget 0 { State.reset with skippedOrs := [(1, 2)] }.skippedOrs 1 ≠ 0) := by
  refine ⟨by decide, ⟨by decide, _, rfl, by decide⟩, by decide, by decide, by decide, by decide, ⟨by decide, ?_⟩, by decide, by decide, by decide, by decide, by decide,
    by decide, by decide⟩
  cases h : { State.reset with pageFills := [{ pte := 8, entry := 0, level := 4 }] }.fillPage 8 0 4 with
  | ok t => exact .inl ⟨t, rfl⟩
  | error e => exact .inr ⟨e, rfl⟩


/-- The lane's package with a pipe that has drawn nothing: the quad files in a bin of core 0. -/
def binState (aged : Bool) : State :=
  { laneState with unit := .none, cores := [(0, { bins := [{ number := 0, group := 0, pc := 0x10000, quads := [⟨0, 0, 0, true⟩], aged := aged }] })] }

/-- The lane's package with lane 0 waiting as given, or changed. -/
def waitState (w : Wait) : State := { laneWith (fun t => { t with st := .waiting w }) id with unit := .none }

theorem isError_of {α ε : Type} {x : Except ε α} (h : (match x with | .ok _ => false | .error _ => true) = true) : ∃ e, x = .error e := by
  cases x with
  | ok _ => cases h
  | error e => exact ⟨e, rfl⟩

theorem witness_IssueAndSchedulingEvents :
    (mfind ((binState true).core 0).pipes 0 = none ∧ (∃ b ∈ (((binState true).refile 0).core 0).bins, (((binState true).refile 0).core 0).drawable b = true) ∧
      ((laneState.refile 0).core 0).pipes ≠ []) ∧
    (0 ∈ laneState.quadLive 0 0 ∧ 0 ∈ (laneWith (fun t => { t with behind := 64 }) id).quadLive 0 0 ∧
      ({ laneState with cores := [] }.inBundle 0 0 0 = false ∧ (laneState.standQuad 0 0).quadPc 0 0 = some 0x10000)) ∧
    ((laneState.quadRun 0 0) = [0] ∧ (laneState.thread 0 0).behind < 64 ∧
      ((laneWith (fun t => { t with behind := 64 }) id).thread 0 0).behind = 64 ∧ (laneWith (fun t => { t with behind := 64 }) id).quadRun 0 0 = [0]) ∧
    (crewKey 319 62 = 64 * 319 + 62 ∧ (∀ k ∈ [WaitKind.bar, .gbar, .peers], (waitState { kind := k, refile := true }).waitMet 0 0 { kind := k, refile := true } = true) ∧
      (waitState { kind := .bar, key := 1 }).waitMet 0 0 { kind := .bar, key := 1 } = false ∧ WaitKind.ldf.onWord = true ∧ WaitKind.eng.onWord = false ∧
      (waitState { kind := .eng }).waitMet 0 0 { kind := .eng } = true ∧ ((waitState { kind := .eng }).crew 0).saved = false) ∧
    ((waitState { kind := .miss, ticket := 1 }).waitMet 0 0 { kind := .miss, ticket := 1 } = true ∧
      { laneState with pageFills := [{ pte := 8, entry := 0, level := 4, failed := some 4 }] }.pageFills.any (fun f => f.pte == 8 && f.failed.isSome) = true) ∧
    (let s := (laneWith (fun t => { t with st := .stopped }) fun c => { c with saved := true }).modGroup 0 fun g => { g with place := .moving, preempt := .yield };
      (s.group 0).place = .moving ∧ (mfind s.groups 0).isSome = true ∧ s.allSaved [0] = true ∧ mfind laneState.launches (launchKey 1 0) ≠ none) ∧
    (laneState.mustForce 0 = false ∧ laneState.crewStopped 0 = false ∧ laneState.deadlocked 0 = false ∧
      ((laneWith (fun t => { t with safeCount := 2048 }) id).modGroup 0 fun g => { g with preempt := .yield }).mustForce 0 = true ∧
      ((laneWith (fun t => { t with st := .stopped }) id).modGroup 0 fun g => { g with preempt := .yield }).crewStopped 0 = true ∧
      { laneState with saveSize := 1 }.imageRoom [] [2 ^ 20] = some [0] ∧
      (laneWith (fun t => { t with st := .parked 0 }) id).deadlocked 0 = true) ∧
    (((spawnState 1 0).launch (launchKey 1 0)).bins.length = 1 ∧
      ∃ r ∈ (((spawnState 1 0).launch (launchKey 1 0)).bins.map (·.2)).flatten, r.at_ + 4096 ≤ { spawnState 1 0 with clock := 4096 }.clock) ∧
    (((streamState id).cluster 0).gang = some 0 ∧ (streamState id).streamSettled 0 = false ∧
      { streamState id with gangs := (streamState id).gangs.map fun (g : Nat × Gang) => (g.1, { g.2 with preempt := true }) }.streamSettled 0 = true) ∧
    ((mkeys (chuteState 256 0 id).gangs fun _ g => g.cluster == 0) = [0] ∧ (chuteState 256 0 id).takers 0 0 = [] ∧
      { chuteState 256 0 id with threads := [(0, { st := .waiting { kind := .chtake } })] }.takers 0 0 = [(0, 0, { kind := .chtake })] ∧
      ((chuteState 256 0 id).threadAcquire 0 0).isSome = true ∧ (chuteState 256 2 id).threadAcquire 0 0 = none) ∧
    ((∃ e, decode16 0 = .error e) ∧ ∃ e, decode32 0x00000DBB = .error e) ∧
    (∃ e, laneState.fetchInstr (laneState.crewView 0) 0x01000000000000000 = .error e) ∧
    ∃ e, (streamState id).fetchInstr ((streamState id).streamAgent 0).view 1 = .error e := by
  refine ⟨by decide, by decide, by decide, by decide, by decide, by decide, by decide, by decide, by decide, by decide, ⟨⟨_, rfl⟩, ⟨_, rfl⟩⟩, isError_of (by decide), isError_of (by decide)⟩

/-- A request packet to package 1, page 5: a load of one word by lane 31. -/
def packet : Packet := { hdr := BitVec.ofNat 256 (2 * 2 ^ 8 + 1 * 2 ^ 16 + 5 * 2 ^ 64 + 2 ^ 31 * 2 ^ 128), offs := 0, data := 0 }

/-- The package with that packet in flight for crew 0, sent `n` times, and its lane 31 waiting for the reply. -/
def sentState (n : Nat) : State :=
  { laneState with
    unit := .none
    clock := 2 ^ 18
    sent := [(7, { packet := packet, sends := n })]
    threads := [(31, { st := .waiting { kind := .remote, key := 7 } })] }

theorem witness_FabricEvents :
    (mfind State.reset.sent 7 = none ∧ mfind (sentState 1).sent 7 = some { packet := packet, sends := 1 } ∧ packet.lanes[0]? = some 31 ∧
      ((sentState 1).thread 0 31).st = .waiting { kind := .remote, key := 7 } ∧ (0x80000000#32).getLsbD 31 = true) ∧
    ((sentState 1).clock = 0 + 2 ^ 18 ∧ (sentState 1).routes packet.peer 0 packet.page ≠ [] ∧ (mfind (sentState 4).crews 0).isSome = true ∧
      { sentState 1 with ports := (List.range 128).map fun p => (p, true) }.routes packet.peer 0 packet.page = []) ∧
    (packet.peer / 16 = State.reset.pkgId / 16 ∧ State.reset.portDown (cliquePort 0 1 0 + 1) = false ∧ 16 / 16 ≠ State.reset.pkgId / 16) ∧
    (State.reset.keptReply 5 = none ∧ { State.reset with kept := [(5, (0, packet))] }.keptReply 5 = some packet ∧ RemoteOp.ofCode 0 = some .load ∧
      RemoteOp.ofCode 127 = none ∧ RemoteOp.ofCode 0x20 = some .put ∧ mfind State.reset.served 5 = none ∧
      (mfind { State.reset with served := [(5, { packet := packet })] }.served 5).isSome = true ∧
      { State.reset with kept := [(5, (0, packet))] }.routes packet.peer 0 packet.page ≠ [] ∧
      { State.reset with ports := (List.range 128).map fun p => (p, true) }.routes packet.peer 0 packet.page = []) ∧
    (putState.putQueue = [] ∧ putState.moving movedPut = false ∧ (∃ r u, putState.deliverPut movedPut.name movedPut.thread movedPut.reg movedPut.wide movedPut.data
      movedPut.time = (r, u)) ∧ mfind (sentState 1).sent 8 = none) ∧
    (let s := { sentState 1 with sent := [(7, { packet := packet, engine := some 0 })], clusters := [(0, { armed := [(0, { kind := .coll, launch := 0, desc := [] })] })] };
      (mfind (s.cluster (0 / 64)).armed (0 % 64)).isSome = true ∧ mfind s.sent 7 = some { packet := packet, engine := some 0 }) ∧
    (State.reset.coreOwned 0x4000 = true ∧ State.reset.peekBad 0x4000 4 = false ∧ region 0x4000 ≠ .device ∧ PageKind.coherent.ordered = true ∧
      { State.reset with slabs := [(0, 1)] }.coreOwned 0 = false ∧ (stageWith true).named (groupName 0 0 0).toNat ≠ none ∧
      (stageWith true).busyWord ((stageNamed.group 0).win0 0) 4 = false ∧ stageFilling.present ((stageNamed.group 0).win0 0) = false) ∧
    (mfind State.reset.contexts 1 = none ∧ State.reset.named 1 = none ∧ (laneState.named (groupName 0 0 0).toNat).isSome = true ∧
      ∃ e, laneState.reachRemote 1 0x4000 (.load 4) = .ok e) ∧
    (State.reset.portDown 3 = false ∧ { State.reset with ports := [(3, true)] }.portDown 3 = true) ∧
    ((cliqueOrder State.reset.pkgId packet.peer 0 packet.page).find? (fun q => !State.reset.portDown q)).isSome = true :=
  ⟨by decide +kernel, by decide +kernel, by decide, by decide +kernel, ⟨by decide, by decide, ⟨_, _, rfl⟩, by decide⟩, by decide +kernel, by decide, ⟨by decide, by decide, by decide, isOk_of (by decide)⟩, by decide, by decide⟩

/-- A queue entry: opcode, command 1, and the fields given from byte 16. -/
def entryOf (op : Nat) (b : List Byte) : List Byte := leBytes op 4 ++ leBytes 1 4 ++ List.replicate 8 0 ++ b ++ List.replicate (112 - b.length) 0

/-- The package in PHASE 4 with a queue 0 whose entry at HEAD is the one given. -/
def headState (b : List Byte) : State :=
  { phaseState 4 with copies := [], mem := memPuts [] 0x10000 b, queues := [(0, { noQueue with depth := 16, ring := 0x10000, journal := 0x20000, jdepth := 16, tail := 1 })] }

/-- The package with command `c` open in queue 0, at HEAD 1. -/
def openState (c : Cmd) : State :=
  { phaseState 4 with queues := [(0, { noQueue with depth := 16, ring := 0x10000, journal := 0x20000, jdepth := 16, tail := 1, head := 1, open_ := [c] })] }

/-- The entry at HEAD is read, with a STATUS from the checks of its header. -/
def reads (s : State) (st : Nat) : Bool :=
  match s.entryAt (s.queue 0) with
  | .bytes b _ r => r.headerStatus 0 b == st
  | _ => false

theorem witness_FirmwareCommands :
    (reads (headState (entryOf 3 [])) 0 = true ∧ reads (headState (entryOf 4 [])) 0 = true ∧ reads (headState (entryOf 0x10 [])) 0 = true ∧
      reads (headState (entryOf 0x19 [])) 0 = true ∧ reads (headState (entryOf 1 [])) 4 = true ∧ reads (headState (entryOf 5 [])) 4 = true) ∧
    ((headState []).phase = 4 ∧ ((headState []).queue 0).claims = true ∧ ((headState []).queue 0).waitLap = false ∧ ((phaseState 4).queue 0).claims = false ∧
      ((headState []).queue 0).head = 0) ∧
    (∀ op ∈ [3, 4, 5, 0x10, 0x11, 0x12, 0x13, 0x14, 0x15, 0x16, 0x17, 0x18, 0x19, 6, 1], ∀ b : Bool,
      let c : Cmd := { index := 0, op := op, entry := [], started := b }; ((openState c).unit = .none ∧ ((openState c).queue 0).head ≠ 0 ∧
        ((openState c).queue 0).open_.find? (fun d => d.index == 0) = some c ∧ ((openState c).queue 0).mayStart c = true)) ∧
    (let c : Cmd := { index := 0, op := 3, entry := entryOf 3 (leBytes 0x4000 8), started := true };
      ((openState c).wordOf 0 c true).isSome = true ∧ ((openState c).wordOf 0 { c with entry := entryOf 3 [4] } true).isNone = true) ∧
    (let s := { State.reset with slots := [(6, { status := 1 }), (7, { status := 3, check := 8 })], ranges := [(0, { limit := 5, slot := 6, valid := true })] };
      mget ({} : ProtSlot) s.slots 6 = { status := 1 } ∧ s.slotStatus 6 = 1 ∧ s.slotStatus 7 = 3 ∧ State.reset.slotStatus 6 = 0 ∧ s.linesIn [{ limit := 0, base := 0, slot := 0, valid := false }] = [] ∧
        State.reset.stagingUsed 1 = []) ∧
    ({ phaseState 4 with full := [(tokenAt / 4, true)] }.isFull tokenAt = true ∧ (phaseState 4).isFull tokenAt = false ∧ (phaseState 4).pendingReq = [] ∧
      (phaseState 4).contexts = [] ∧ (phaseState 4).windows = [] ∧ (phaseState 4).writers = [] ∧
      (phaseState 4).capmintAt (entryOf 0x19 []) = .error 4) ∧
    (State.reset.units = [] ∧ { State.reset with pending := [{ launch := 0, prio := 0, order := 0 }] }.units = [{ launch := 0, prio := 0, order := 0 }]) ∧
    ({ laneState with groups := [], gangs := [] }.groupsDone (launchKey 1 0) = true ∧ laneState.groupsDone (launchKey 1 0) = false ∧
      laneState.enginesOf (launchKey 1 0) = false ∧ laneState.benchLaunches = [] ∧ laneState.gangLaunch (launchKey 1 0) = none) := by
  refine ⟨by decide +kernel, by decide, by decide, by decide, by decide, ⟨by decide +kernel, by decide +kernel, by decide, by decide, by decide, by decide, rfl⟩, by decide,
    by decide⟩

/-- A pod-wide launch of two parts at its coordinator. -/
def gangOf (decision : Nat) : GangLaunch :=
  { queue := 1, index := 0, entry := [], timeout := 800, began := 0, parts := [(0, 0), (1, 0)], decision := decision, ready := [(0, 5), (1, 9)] }

/-- The package with that launch, and a reservation of its own for a part of a launch of package 1. -/
def gangState (decision : Nat) : State :=
  { phaseState 4 with
    queues := [(1, { noQueue with depth := 16, jdepth := 16 })]
    gangLaunches := [(gangId 1 0, gangOf decision)]
    reservations := [{ coord := 1, id := 3, part := 0, launch := partKey 1 3 0, time := 4, at_ := 0, life := 100 }]
    launches := [(partKey 1 3 0, { queue := 1024, index := 0, ctx := 1, body := [], started := false, part := some (1, 3, 0) })] }

theorem witness_PodWideGangLaunches :
    ((gangState 0).gangLaunch (gangId 1 0) = some (gangOf 0) ∧ (gangState 1).gangLaunch (gangId 1 0) = some (gangOf 1) ∧
      (gangState 0).gangLaunch (gangId 1 1) = none ∧ (gangOf 0).parts.length ≤ (gangOf 0).ready.length ∧ (gangOf 0).report.length < (gangOf 0).parts.length) ∧
    ((mfind (gangState 0).queues 1).isSome = true ∧ ((gangState 0).queue 1).head = (gangOf 0).index ∧ (gangState 0).phase = 4) ∧
    ((gangOf 0).began + (gangOf 0).timeout < { gangState 0 with clock := 801 }.clock ∧ (gangState 0).clock ≤ (gangOf 0).began + (gangOf 0).timeout) ∧
    ((gangState 0).reservation 1 3 0 = some { coord := 1, id := 3, part := 0, launch := partKey 1 3 0, time := 4, at_ := 0, life := 100 } ∧
      (gangState 0).reservation 1 3 1 = none ∧ ((gangState 0).launch (partKey 1 3 0)).started = false ∧ ((gangState 0).launch (partKey 1 3 0)).done = false ∧
      ((gangState 0).launch (partKey 1 3 0)).hintList = []) ∧
    (State.reset.lwatch = 0 ∧ { State.reset with lwatch := 1 }.lwatch ≠ 0 ∧ 800000 * 1 < { State.reset with clock := 800001 }.clock - 0) := by
  refine ⟨by decide, by decide, by decide, by decide, by decide⟩

/-- A closed window whose forked writer has still to run. -/
def closedWindow : Window := { length := 4, phys := [(0x6000, 4)], agent := { view := { ctx := 1, group := 0 } } }

/-- A cluster with an armed COPY of one firing at place 0, and a forked writer of window 0. -/
def armedState (fired : Nat) : State :=
  { laneState with
    unit := .none
    clusters := [(0, { armed := [(0, { kind := .copy, launch := launchKey 1 0, desc := copyDesc, fired := fired, agent := { view := { ctx := 1, group := 0 } } })] })]
    writers := [(0, closedWindow)] }

/-- The armed COPY of that state. -/
def armedCopy (fired : Nat) : Armed :=
  { kind := .copy, launch := launchKey 1 0, desc := copyDesc, fired := fired, agent := { view := { ctx := 1, group := 0 } } }

/-- A cluster's matrix queue with one instruction, and handles 0 and 1 with a ready slot each. -/
def queueState (i : Instr) (credit : Int) : State := streamState fun k => { k with
  handles := [(0, { handleOf 0 with slots := [(0, .ready)] }), (1, { handleOf 1 with slots := [(0, .ready)] })], credit := credit
  queue := [{ instr := i, word := 0 }] }

/-- The same, its COPY waiting for a line that the slice has asked for. -/
def blockedState : State :=
  { armedState 0 with
    agentWaits := [(.engine 0 0, { line := 0x80, slice := 0 })]
    pendingReq := [(0, 0x80, { event := 0, agent := 0 })] }

theorem witness_EngineAndTileEvents :
    ((armedState 0).armedAt 0 0 = some (armedCopy 0) ∧ (armedState 0).armedAt 0 1 = none ∧ (armedState 0).mayFire (armedCopy 0) = true ∧
      (armedState 0).chutesReady (armedCopy 0) = true ∧ (armedState 1).mayFire (armedCopy 1) = false ∧ (armedCopy 1).repeat_ ≤ (armedCopy 1).fired ∧
      (armedCopy 1).f 0 8 = 0 ∧ (armedCopy 1).awaited = 0 ∧ (armedCopy 1).bad = none) ∧
    ((armedState 0).writers.find? (fun e => e.1 == 0) = some (0, closedWindow) ∧ (armedState 0).doneWaits closedWindow.agent closedWindow.done = false ∧
      (armedState 0).targetsReady closedWindow = true ∧ closedWindow.length = closedWindow.size ∧ (∀ e ∈ (armedState 0).writers, e.1 ≠ 1)) ∧
    ((armedState 0).agentBlocked (.engine 0 0) = false ∧ blockedState.agentBlocked (.engine 0 0) = true ∧ (armedCopy 0).firing = none ∧ (armedCopy 0).withdrawn = false) ∧
    (((queueState (.mma 0 1 0 0 0) 64).cluster 0).mmaReady { instr := .mma 0 1 0 0 0, word := 0 } 0 1 = true ∧
      ((tileState 0 0 id id).cluster 0).mmaReady { instr := .mma 0 1 0 0 0, word := 0 } 0 1 = false ∧
      ((queueState (.mzero 0 0) 64).cluster 0).pair64 0 = false ∧ (queueState (.mzero 0 0) 64).filling_ none = false ∧
      ((queueState (.mma 0 1 0 0 0) 0).cluster 0).credit ≤ 0 ∧ 0 < ((queueState (.mma 0 1 0 0 0) 1).cluster 0).credit) ∧
    (((tileState 0 0 id fun k => { k with fills := [{ handle := 0, slot := 1, tile := 0 }] }).cluster 0).fillReady { handle := 0, slot := 1, tile := 0 } = true ∧
      (tileState 0 0 id id).streamPreempted 0 = false ∧ (tileState 0 0 id id).agentBlocked (.fill 0 0) = false ∧ (tileState 0 0 id id).agentBlocked (.matrix 0) = false) := by
  refine ⟨by decide, by decide, by decide, by decide, by decide⟩

/-- A bench launch with one queued command of the kind given. -/
def benchState (op : Nat) (f : BenchLaunch → BenchLaunch) : State :=
  { State.reset with benchLaunches := [(31, f { live := true, queue := [{ op := op, block := [] }] })] }

theorem witness_BenchEvents :
    (((benchState 3 id).benchLaunch 31).live = true ∧ ((benchState 3 id).benchLaunch 31).stalled = false ∧ ((benchState 3 id).benchLaunch 31).current = none ∧
      ((benchState 3 id).benchLaunch 31).queue = [{ op := 3, block := [] }] ∧ (benchState 3 id).benchBlocked 31 = false ∧ (benchState 3 id).filling_ none = false ∧
      ((benchState 5 id).benchLaunch 31).slabs = [] ∧ ((benchState 2 id).benchLaunch 31).owned = false) ∧
    ((benchState 3 id).commandOver { live := true } { op := 3, block := [] } = true ∧ (benchState 3 id).commandOver { outstanding := 1 } { op := 3, block := [] } = false ∧
      (benchState 3 id).doneWaits {} 0 = false) ∧
    (columnState.stepsNow 0 = true ∧ (columnState.stack 0).launch = some 0 ∧ (columnState.stack 0).opened = true ∧ (columnState.stack 0).finished = false ∧
      { columnState with hbmStacks := [(0, { launch := some 0, opened := true, wait := 1 })] }.stepsNow 0 = false ∧ (columnState.benchLaunch 0).stalled = false) ∧
    (let s := { State.reset with benches := [(1023, { drain := [{ lanes := [], flags := 0, row := 0, launch := 0 }] })], drains := [(1, [{ lanes := [], flags := 0, row := 0, launch := 0 }])] };
      1023 / 1024 = 0 ∧ (s.bench 1023).drain ≠ [] ∧ mget [] s.drains 1 ≠ [] ∧ (s.benchLaunch 0).live = false ∧ (s.window 0).open_ = false) ∧
    ({ State.reset with slabs := [(4, 1)] }.slabQuiet 4 = true ∧ { State.reset with slabs := [(4, 1)], copies := [(copyKey 0 (4 * 2048), {})] }.slabQuiet 4 = false) ∧
    ({ State.reset with slabs := [(4, 1), (5, 3)] }.slab 4 = 1 ∧ { State.reset with slabs := [(4, 1), (5, 3)] }.slab 5 = 3) := by
  refine ⟨by decide, by decide, by decide, by decide, by decide, by decide⟩

/-! ## Steps -/

theorem witness_StepRunsDecodedInstruction :
    (let s := State.reset.withLaneWord 4 0x00000F7F;
      s.stopped = false ∧ turnSlot s.turn = .pipe 0 0 ∧ (∃ b, mfind (s.core 0).pipes 0 = some b ∧ b.quads = [(0, 0)])) ∧
    (let s := State.reset.withStreamWord 0x00182FF1; s.stopped = false ∧ turnSlot s.turn = .stream 0 ∧ s.streamIssues 0 = true) ∧
    (let s := State.reset.withBenchWord 0x20001020; s.stopped = false ∧ turnSlot s.turn = .stack 0 ∧ s.columnDue = true ∧ s.stepsNow 0 = true) ∧
    (let s := { State.reset with inputs := [.programTimeTick] }; s.stopped = false ∧ turnSlot s.turn = .events ∧ s.inputs = [.programTimeTick]) ∧
    (let s := { laneState with unit := .none, turn := 0, threads := [(0, { pc := 0x10000, st := .retry 0 })] };
      turnSlot s.turn = .events ∧ s.nextAct = .retry 0 0) ∧
    (turnSlot State.reset.turn = .events ∧ State.reset.nextAct = .idle) := by
  refine ⟨⟨by decide, by decide, _, rfl, rfl⟩, by decide, by decide, by decide, by decide, by decide⟩

theorem witness_EncodingRoundTrip :
    (Instr.add 1 8 2 4 0 15).wf = true ∧ (encode (.add 1 8 2 4 0 15)).isSome = true ∧ (encode (.add16 0 1)).isSome = true ∧
    (decodeTableWord 32 0x8C204F03).isSome = true := by decide

theorem witness_InvariantKept : State.reset.Inv ∧ laneState.mem.wf = true := by
  exact ⟨⟨by decide, rfl⟩, by decide⟩

theorem witness_ExecAndStepAnswer :
    State.reset.stopped = false ∧ { State.reset with dead := [(1, true)] }.stopped = true ∧
    Instr.powerGoodReset ∉ { State.reset with dead := [(1, true)] }.inputs ∧
    Instr.powerGoodReset ∈ { State.reset with dead := [(1, true)], inputs := [.portUp 0, .powerGoodReset] }.inputs := by
  refine ⟨by decide, by decide, by decide, List.mem_cons_of_mem _ (List.mem_cons_self ..)⟩


/-! ## Ill-formed terms

One for each check of WellFormed, each refused. -/

/-- Every instruction of a list is refused. -/
def allIll (is : List Instr) : Bool := is.all fun i => !i.wf

/-- R177: predicate selector 12 is illegal in every instruction that has one. -/
theorem ill_formed_selector_1 : allIll [
  .add 0 0 0 0 0 12, .sub 0 0 0 0 0 12, .mul 0 0 0 0 0 12, .mulh 0 0 0 0 0 12, .div 0 0 0 0 0 12, .rem 0 0 0 0 0 12,
    .and 0 0 0 0 0 12, .or 0 0 0 0 0 12, .xor 0 0 0 0 0 12, .andn 0 0 0 0 0 12, .shl 0 0 0 0 0 12, .shr 0 0 0 0 0 12,
    .sra 0 0 0 0 0 12, .min 0 0 0 0 0 12, .max 0 0 0 0 0 12, .addi 0 0 0 0 12, .andi 0 0 0 0 12, .ori 0 0 0 0 12,
    .xori 0 0 0 0 12, .shli 0 0 0 0 12, .shri 0 0 0 0 12, .srai 0 0 0 0 12, .movi 0 0 0 12, .movh 0 0 0 12, .ceq 0 0 0 0 0 12,
    .cne 0 0 0 0 0 12, .clt 0 0 0 0 0 0 12, .cle 0 0 0 0 0 0 12, .plog 0 0 0 0 0 12, .prd 0 0 0 12, .pwr 0 0 0 12, .pset 0 0 12,
    .pclr 0 0 12, .popc 0 0 0 0 12, .clz 0 0 0 0 12, .ctz 0 0 0 0 12, .brev 0 0 0 0 12, .bswap 0 0 0 0 12, .sexb 0 0 0 0 12,
    .sexh 0 0 0 0 12, .movd 0 0 0 0 12, .bfe 0 0 0 0 0 12, .fadd 0 0 0 0 0 12, .fsub 0 0 0 0 0 12, .fmul 0 0 0 0 0 12,
    .fdiv 0 0 0 0 0 12, .fmin 0 0 0 0 0 12, .fmax 0 0 0 0 0 12, .fmac 0 0 0 0 0 12, .fnmac 0 0 0 0 0 12, .hadd 0 0 0 0 0 12,
    .hsub 0 0 0 0 0 12, .hmul 0 0 0 0 0 12, .hmac 0 0 0 0 0 12, .fcmp 0 0 0 0 0 0 12, .frcp 0 0 0 0 12, .frsq 0 0 0 0 12,
    .fsqrtF32 0 0 0 0 12, .fexp2 0 0 0 0 12, .flog2 0 0 0 0 12] = true := by decide

/-- R177: predicate selector 12 is illegal in every instruction that has one. -/
theorem ill_formed_selector_2 : allIll [
  .fsin 0 0 0 0 12, .fcos 0 0 0 0 12, .ftanh 0 0 0 0 12, .fabsF32 0 0 0 0 12, .fnegF32 0 0 0 0 12, .fabsF64 0 0 0 0 12,
    .fnegF64 0 0 0 0 12, .fclassF32 0 0 0 0 12, .fclassF64 0 0 0 0 12, .fsqrtF64 0 0 0 0 12, .fscale 0 0 0 0 0 12,
    .cvtf 0 0 0 0 0 12, .cvti 0 0 0 0 0 12, .qnt 0 0 0 0 0 12, .dqnt 0 0 0 0 0 12, .pack 0 0 0 0 0 12, .unpk 0 0 0 0 0 12,
    .mxsc 0 0 0 0 0 12, .br 0 0 12, .call 0 0 12, .jmp 0 0 0 12, .callr 0 0 0 0 12, .ret 0 0 0 12, .reform 0 12, .enrol 0 0 12,
    .park 0 0 12, .strike 0 0 12, .exit 0 12, .nop 0 12, .safept 0 0 0 0 12, .spawn 0 0 0 0 12, .bar 0 0 12, .gbar 0 0 12,
    .fenceIo 0 12, .codepub 0 0 0 12, .isync 0 12, .qxH 0 0 0 0 12, .qxV 0 0 0 0 12, .qxD 0 0 0 0 12, .qbc 0 0 0 0 0 12,
    .perm 0 0 0 0 12, .shfl 0 0 0 0 0 12, .vote 0 0 0 0 0 12, .cred 0 0 0 0 0 12, .credf 0 0 0 0 0 12, .cscan 0 0 0 0 0 12,
    .blut 0 0 0 0 0 12, .kadd 0 0 0 0 0 12, .ksub 0 0 0 0 0 12, .kaddi 0 0 0 0 12, .kmovi 0 0 0 12, .kmovh 0 0 0 12,
    .kld 0 0 0 0 0 0 12, .kst 0 0 0 0 0 0 12, .kfirst 0 0 0 0 12, .ldB 0 0 0 0 0 12, .ldH 0 0 0 0 0 12, .ldW 0 0 0 0 0 12,
    .ldD 0 0 0 0 0 12, .ldQ 0 0 0 0 0 12] = true := by decide

/-- R177: predicate selector 12 is illegal in every instruction that has one. -/
theorem ill_formed_selector_3 : allIll [
  .stB 0 0 0 0 0 12, .stH 0 0 0 0 0 12, .stW 0 0 0 0 0 12, .stD 0 0 0 0 0 12, .stQ 0 0 0 0 0 12, .ldf 0 0 0 0 0 0 12,
    .ldfk 0 0 0 0 0 0 12, .ste 0 0 0 0 0 0 12, .stf 0 0 0 0 0 0 12, .sete 0 0 0 0 0 12, .waitv 0 0 0 0 0 0 12,
    .atomIntW 0 0 0 0 0 0 12, .atomIntD 0 0 0 0 0 0 12, .atomSwap 0 0 0 0 0 0 12, .atomCas 0 0 0 0 0 0 12,
    .atomFadd 0 0 0 0 0 0 12, .atomFminF32 0 0 0 0 0 12, .atomFmaxF32 0 0 0 0 0 12, .redIntW 0 0 0 0 0 0 12,
    .redIntD 0 0 0 0 0 0 12, .redFloat 0 0 0 0 0 0 12, .capld 0 0 0 0 0 12, .capst 0 0 0 0 0 12, .xset 0 0 0 0 12,
    .xget 0 0 0 0 12, .xstep 0 0 0 0 12, .xcur 0 0 0 0 12, .putreg 0 0 0 0 0 12, .hold 0 0 0 12, .gname 0 0 0 12,
    .sjoin 0 0 0 12, .sleave 0 0 0 12, .smap 0 0 0 0 12, .ldc 0 0 0 0 0 0 12, .stc 0 0 0 0 0 0 12, .amoc 0 0 0 0 0 12,
    .amocRed 0 0 0 0 0 12, .capsetA 0 0 0 0 0 12, .capsetB 0 0 0 0 0 12, .capsetP 0 0 0 0 0 12, .capsetSeal 0 0 0 0 12,
    .caprd 0 0 0 0 0 12, .chdef 0 0 0 0 12, .chpush 0 0 0 0 12, .chtake 0 0 0 12, .copy 0 0 0 0 0 12, .retile 0 0 0 0 12,
    .gath 0 0 0 0 12, .chain 0 0 0 0 12, .coll 0 0 0 0 12, .wopen 0 0 0 0 12, .wfinal 0 0 0 12, .bkload 0 0 0 0 12,
    .bkvec 0 0 0 0 12, .bkrun 0 0 0 0 12, .bkdrain 0 0 0 0 12, .ownb 0 0 0 0 12, .ownc 0 0 0 0 12, .trap 0 0 12, .tret 0 12] = true := by decide

/-- R177: predicate selector 12 is illegal in every instruction that has one. -/
theorem ill_formed_selector_4 : allIll [
  .tretNext 0 12, .brk 0 0 12, .ticket 0 0 0 12, .mfs 0 0 0 12, .mts 0 0 0 12] = true := by decide

/-- R222: a predicate field names p0 to p11. -/
theorem ill_formed_predicate : allIll [
  .ceq 0 0 0 12 0 15, .cne 0 0 0 12 0 15, .clt 0 0 0 0 12 0 15, .cle 0 0 0 0 12 0 15, .plog 12 0 0 0 0 15, .plog 0 0 12 0 0 15,
    .plog 0 0 0 12 0 15, .prd 12 0 0 15, .pwr 0 12 0 15, .pset 12 0 15, .pclr 12 0 15, .fcmp 0 0 0 0 12 0 15] = true := by decide

/-- R175: scope code 6 is illegal. -/
theorem ill_formed_scope : allIll [
  .bar 6 0 15, .gbar 6 0 15, .ldf 6 0 0 0 0 0 15, .ldfk 6 0 0 0 0 0 15, .ste 6 0 0 0 0 0 15, .stf 6 0 0 0 0 0 15,
    .sete 6 0 0 0 0 15, .waitv 6 0 0 0 0 0 15, .atomIntW 6 0 0 0 0 0 15, .atomIntD 6 0 0 0 0 0 15, .atomSwap 6 0 0 0 0 0 15,
    .atomCas 6 0 0 0 0 0 15, .atomFadd 6 0 0 0 0 0 15, .atomFminF32 6 0 0 0 0 15, .atomFmaxF32 6 0 0 0 0 15,
    .redIntW 6 0 0 0 0 0 15, .redIntD 6 0 0 0 0 0 15, .redFloat 6 0 0 0 0 0 15] = true := by decide

/-- R195, R200, R209, R267, R277, R217: shift counts, logic, reduction, width, component and safe-point codes out of range. -/
theorem ill_formed_limits : allIll [
  .shli 32 0 0 0 15, .shri 32 0 0 0 15, .srai 32 0 0 0 15, .plog 0 6 0 0 0 15, .safept 0 0 17 0 15, .credf 0 6 0 0 0 15,
    .redFloat 0 0 6 0 0 0 15, .ldc 5 0 0 0 0 0 15, .stc 5 0 0 0 0 0 15, .caprd 0 0 0 5 0 15] = true := by decide

/-- R177: so are selectors 13 and 14; scope code 7 (R175); and the 16-bit add of register 0 to register 0, whose word is 0x0000 (R180). -/
theorem ill_formed_others : allIll [.nop 0 13, .nop 0 14, .bar 7 0 15, .add16 0 0] = true := by decide

/-- R311: reserved slot codes and slots whose zero fields are not zero. -/
theorem ill_formed_bench : allIll [
  .fd 0 0x3000 0, .fd 0 0x1001 0, .fd 0 0x2001 0, .fd 0 0x0001 0, .fd 0 0 0x41, .fd 0 0 0x21, .fd 0 0 0x80, .fd 0 0 0x61, .fs 0 0 0 0x3000 0,
  .fs 0 0 0 0 0x41, .mac 1 0 0 0 0 0, .mac 0 0 0 0 0 0x80, .yzero 1 0 0, .yzero 0 0 0x21, .push 1 0 0, .push 0 1 0, .next 1 0, .next 0 1, .pushn 1 0 0,
  .pushn 0 1 0] = true := by decide

/-! ## Words

For every row of the opcode table that has an encoding, a word composed of the fixed bits and the field places that the table gives, with operand values that
differ from each other, decoded. -/

theorem decodes_integer_arithmetic_and_moves :
  decodeTableWord 32 0xB525DF01 = some (.add 1 26 36 46 1 15) ∧
  decodeTableWord 32 0xB525DF03 = some (.sub 1 26 36 46 1 15) ∧
  decodeTableWord 32 0xB525DF05 = some (.mul 1 26 36 46 1 15) ∧
  decodeTableWord 32 0xB525DF07 = some (.mulh 1 26 36 46 1 15) ∧
  decodeTableWord 32 0xB525DF09 = some (.div 1 26 36 46 1 15) ∧
  decodeTableWord 32 0xB525DF0B = some (.rem 1 26 36 46 1 15) ∧
  decodeTableWord 32 0xB525DF0D = some (.and 1 26 36 46 1 15) ∧
  decodeTableWord 32 0xB525DF0F = some (.or 1 26 36 46 1 15) ∧
  decodeTableWord 32 0xB525DF11 = some (.xor 1 26 36 46 1 15) ∧
  decodeTableWord 32 0xB525DF13 = some (.andn 1 26 36 46 1 15) ∧
  decodeTableWord 32 0xB525DF15 = some (.shl 1 26 36 46 1 15) ∧
  decodeTableWord 32 0xB525DF17 = some (.shr 1 26 36 46 1 15) ∧
  decodeTableWord 32 0xB525DF19 = some (.sra 1 26 36 46 1 15) ∧
  decodeTableWord 32 0xB525DF1B = some (.min 1 26 36 46 1 15) ∧
  decodeTableWord 32 0xB525DF1D = some (.max 1 26 36 46 1 15) ∧
  decodeTableWord 32 0x20D49F1F = some (.addi 16 26 36 1 15) ∧
  decodeTableWord 32 0x20D49F21 = some (.andi 16 26 36 1 15) ∧
  decodeTableWord 32 0x20D49F23 = some (.ori 16 26 36 1 15) ∧
  decodeTableWord 32 0x20D49F25 = some (.xori 16 26 36 1 15) ∧
  decodeTableWord 32 0x20D49F27 = some (.shli 16 26 36 1 15) ∧
  decodeTableWord 32 0x20D49F29 = some (.shri 16 26 36 1 15) ∧
  decodeTableWord 32 0x20D49F2B = some (.srai 16 26 36 1 15) ∧
  decodeTableWord 32 0x00835F2D = some (.movi 16 26 1 15) ∧
  decodeTableWord 32 0x00835F2F = some (.movh 16 26 1 15) := by decide

theorem decodes_compares_predicates_bit_operations :
  decodeTableWord 32 0x20D25F31 = some (.ceq 16 26 1 2 1 15) ∧
  decodeTableWord 32 0x20D25F33 = some (.cne 16 26 1 2 1 15) ∧
  decodeTableWord 32 0xB5231F35 = some (.clt 1 26 36 1 8 1 15) ∧
  decodeTableWord 32 0xB5231F37 = some (.cle 1 26 36 1 8 1 15) ∧
  decodeTableWord 32 0x14205F39 = some (.plog 1 2 4 2 1 15) ∧
  decodeTableWord 32 0x000B5F3B = some (.prd 1 26 1 15) ∧
  decodeTableWord 32 0x02815F3B = some (.pwr 16 10 1 15) ∧
  decodeTableWord 32 0x04003F3B = some (.pset 1 1 15) ∧
  decodeTableWord 32 0x06003F3B = some (.pclr 1 1 15) ∧
  decodeTableWord 32 0x10D49F3D = some (.popc 1 26 36 1 15) ∧
  decodeTableWord 32 0x12D49F3D = some (.clz 1 26 36 1 15) ∧
  decodeTableWord 32 0x14D49F3D = some (.ctz 1 26 36 1 15) ∧
  decodeTableWord 32 0x16D49F3D = some (.brev 1 26 36 1 15) ∧
  decodeTableWord 32 0x18D49F3D = some (.bswap 1 26 36 1 15) ∧
  decodeTableWord 32 0x1AD49F3D = some (.sexb 1 26 36 1 15) ∧
  decodeTableWord 32 0x1CD49F3D = some (.sexh 1 26 36 1 15) ∧
  decodeTableWord 32 0x1ED49F3D = some (.movd 1 26 36 1 15) ∧
  decodeTableWord 32 0xB525DF3F = some (.bfe 1 26 36 46 1 15) := by decide

theorem decodes_floating_point_conversions_narrow_formats :
  decodeTableWord 32 0xB525DF41 = some (.fadd 1 26 36 46 1 15) ∧
  decodeTableWord 32 0xB525DF43 = some (.fsub 1 26 36 46 1 15) ∧
  decodeTableWord 32 0xB525DF45 = some (.fmul 1 26 36 46 1 15) ∧
  decodeTableWord 32 0xB525DF47 = some (.fdiv 1 26 36 46 1 15) ∧
  decodeTableWord 32 0xB525DF49 = some (.fmin 1 26 36 46 1 15) ∧
  decodeTableWord 32 0xB525DF4B = some (.fmax 1 26 36 46 1 15) ∧
  decodeTableWord 32 0xB525DF4D = some (.fmac 1 26 36 46 1 15) ∧
  decodeTableWord 32 0xB525DF4F = some (.fnmac 1 26 36 46 1 15) ∧
  decodeTableWord 32 0xB525DF51 = some (.hadd 1 26 36 46 1 15) ∧
  decodeTableWord 32 0xB525DF53 = some (.hsub 1 26 36 46 1 15) ∧
  decodeTableWord 32 0xB525DF55 = some (.hmul 1 26 36 46 1 15) ∧
  decodeTableWord 32 0xB525DF57 = some (.hmac 1 26 36 46 1 15) ∧
  decodeTableWord 32 0xB5251F59 = some (.fcmp 1 26 36 2 8 1 15) ∧
  decodeTableWord 32 0x10D49F5B = some (.frcp 1 26 36 1 15) ∧
  decodeTableWord 32 0x12D49F5B = some (.frsq 1 26 36 1 15) ∧
  decodeTableWord 32 0x14D49F5B = some (.fsqrtF32 1 26 36 1 15) ∧
  decodeTableWord 32 0x16D49F5B = some (.fexp2 1 26 36 1 15) ∧
  decodeTableWord 32 0x18D49F5B = some (.flog2 1 26 36 1 15) ∧
  decodeTableWord 32 0x1AD49F5B = some (.fsin 1 26 36 1 15) ∧
  decodeTableWord 32 0x1CD49F5B = some (.fcos 1 26 36 1 15) ∧
  decodeTableWord 32 0x1ED49F5B = some (.ftanh 1 26 36 1 15) ∧
  decodeTableWord 32 0x10D49F5D = some (.fabsF32 1 26 36 1 15) ∧
  decodeTableWord 32 0x12D49F5D = some (.fnegF32 1 26 36 1 15) ∧
  decodeTableWord 32 0x14D49F5D = some (.fabsF64 1 26 36 1 15) ∧
  decodeTableWord 32 0x16D49F5D = some (.fnegF64 1 26 36 1 15) ∧
  decodeTableWord 32 0x18D49F5D = some (.fclassF32 1 26 36 1 15) ∧
  decodeTableWord 32 0x1AD49F5D = some (.fclassF64 1 26 36 1 15) ∧
  decodeTableWord 32 0x1CD49F5D = some (.fsqrtF64 1 26 36 1 15) ∧
  decodeTableWord 32 0xB525DF5F = some (.fscale 1 26 36 46 1 15) ∧
  decodeTableWord 32 0x1525DF61 = some (.cvtf 1 2 36 46 1 15) ∧
  decodeTableWord 32 0x1525DF63 = some (.cvti 1 2 36 46 1 15) ∧
  decodeTableWord 32 0xB525DF65 = some (.qnt 1 26 36 46 1 15) ∧
  decodeTableWord 32 0xB525DF67 = some (.dqnt 1 26 36 46 1 15) ∧
  decodeTableWord 32 0xB525DF69 = some (.pack 1 26 36 46 1 15) ∧
  decodeTableWord 32 0x1525DF6B = some (.unpk 1 2 36 46 1 15) ∧
  decodeTableWord 32 0x1525DF6D = some (.mxsc 1 2 36 46 1 15) := by decide

theorem decodes_control_convergence_spawn_barriers_fences :
  decodeTableWord 32 0x00021F71 = some (.br 16 1 15) ∧
  decodeTableWord 32 0x00021F73 = some (.call 16 1 15) ∧
  decodeTableWord 32 0x10D01F75 = some (.jmp 1 26 1 15) ∧
  decodeTableWord 32 0x12D49F75 = some (.callr 1 26 36 1 15) ∧
  decodeTableWord 32 0x14D01F75 = some (.ret 1 26 1 15) ∧
  decodeTableWord 32 0x00001F77 = some (.reform 1 15) ∧
  decodeTableWord 32 0x02003F77 = some (.enrol 1 1 15) ∧
  decodeTableWord 32 0x04003F77 = some (.park 1 1 15) ∧
  decodeTableWord 32 0x06003F77 = some (.strike 1 1 15) ∧
  decodeTableWord 32 0x08001F77 = some (.exit 1 15) ∧
  decodeTableWord 32 0x0A001F77 = some (.nop 1 15) ∧
  decodeTableWord 32 0x01CC9F79 = some (.safept 1 1 4 1 15) ∧
  decodeTableWord 32 0x10D49F7B = some (.spawn 1 26 36 1 15) ∧
  decodeTableWord 32 0x20001F7D = some (.bar 1 1 15) ∧
  decodeTableWord 32 0x22001F7D = some (.gbar 1 1 15) ∧
  decodeTableWord 32 0x04001F7D = some (.fenceIo 1 15) ∧
  decodeTableWord 32 0x06835F7D = some (.codepub 16 26 1 15) ∧
  decodeTableWord 32 0x08001F7D = some (.isync 1 15) := by decide

theorem decodes_cross_lane :
  decodeTableWord 32 0x10D49F81 = some (.qxH 1 26 36 1 15) ∧
  decodeTableWord 32 0x12D49F81 = some (.qxV 1 26 36 1 15) ∧
  decodeTableWord 32 0x14D49F81 = some (.qxD 1 26 36 1 15) ∧
  decodeTableWord 32 0x1D25DF81 = some (.qbc 1 2 36 46 1 15) ∧
  decodeTableWord 32 0x20D49F83 = some (.perm 16 26 36 1 15) ∧
  decodeTableWord 32 0x7525DF85 = some (.shfl 1 26 36 46 1 15) ∧
  decodeTableWord 32 0x1525DF87 = some (.vote 1 2 36 46 1 15) ∧
  decodeTableWord 32 0x1525DF89 = some (.cred 1 2 36 46 1 15) ∧
  decodeTableWord 32 0x1525DF8B = some (.credf 1 2 36 46 1 15) ∧
  decodeTableWord 32 0x1525DF8D = some (.cscan 1 2 36 46 1 15) ∧
  decodeTableWord 32 0xF925DF8F = some (.blut 1 1 36 46 1 15) := by decide

theorem decodes_crew_uniform_scalar_unit :
  decodeTableWord 32 0xB421DF91 = some (.kadd 1 26 4 14 1 15) ∧
  decodeTableWord 32 0xB421DF93 = some (.ksub 1 26 4 14 1 15) ∧
  decodeTableWord 32 0x20D09F95 = some (.kaddi 16 26 4 1 15) ∧
  decodeTableWord 32 0x00835F97 = some (.kmovi 16 26 1 15) ∧
  decodeTableWord 32 0x00835F99 = some (.kmovh 16 26 1 15) ∧
  decodeTableWord 32 0x15E71F9B = some (.kld 1 2 4 1 24 1 15) ∧
  decodeTableWord 32 0x15E71F9D = some (.kst 1 2 4 1 24 1 15) ∧
  decodeTableWord 32 0x10D09F9F = some (.kfirst 1 26 4 1 15) := by decide

theorem decodes_memory_tags_atomics_capability_memory :
  decodeTableWord 32 0x1525DFA1 = some (.ldB 1 2 36 46 1 15) ∧
  decodeTableWord 32 0x1525DFA3 = some (.ldH 1 2 36 46 1 15) ∧
  decodeTableWord 32 0x1525DFA5 = some (.ldW 1 2 36 46 1 15) ∧
  decodeTableWord 32 0x1525DFA7 = some (.ldD 1 2 36 46 1 15) ∧
  decodeTableWord 32 0x15231FA9 = some (.ldQ 1 2 36 6 1 15) ∧
  decodeTableWord 32 0x1525DFAB = some (.stB 1 2 36 46 1 15) ∧
  decodeTableWord 32 0x1525DFAD = some (.stH 1 2 36 46 1 15) ∧
  decodeTableWord 32 0x1525DFAF = some (.stW 1 2 36 46 1 15) ∧
  decodeTableWord 32 0x1525DFB1 = some (.stD 1 2 36 46 1 15) ∧
  decodeTableWord 32 0x15231FB3 = some (.stQ 1 2 36 6 1 15) ∧
  decodeTableWord 32 0x39771FB5 = some (.ldf 1 1 4 46 56 1 15) ∧
  decodeTableWord 32 0x39771FB7 = some (.ldfk 1 1 4 46 56 1 15) ∧
  decodeTableWord 32 0x39771FB9 = some (.ste 1 1 4 46 56 1 15) ∧
  decodeTableWord 32 0x39771FBB = some (.stf 1 1 4 46 56 1 15) ∧
  decodeTableWord 32 0x39701FBD = some (.sete 1 1 4 46 1 15) ∧
  decodeTableWord 32 0x39771FBF = some (.waitv 1 1 4 46 56 1 15) ∧
  decodeTableWord 32 0x38E71FC1 = some (.atomIntW 1 1 4 14 56 1 15) ∧
  decodeTableWord 32 0x38E71FC3 = some (.atomIntD 1 1 4 14 56 1 15) ∧
  decodeTableWord 32 0x32E71FC5 = some (.atomSwap 1 1 1 14 56 1 15) ∧
  decodeTableWord 32 0x36E71FC5 = some (.atomCas 1 1 1 14 56 1 15) ∧
  decodeTableWord 32 0x3AE71FC5 = some (.atomFadd 1 1 1 14 56 1 15) ∧
  decodeTableWord 32 0x3C45DFC5 = some (.atomFminF32 1 1 4 46 1 15) ∧
  decodeTableWord 32 0x3E45DFC5 = some (.atomFmaxF32 1 1 4 46 1 15) ∧
  decodeTableWord 32 0x38E71FC7 = some (.redIntW 1 1 4 14 56 1 15) ∧
  decodeTableWord 32 0x38E71FC9 = some (.redIntD 1 1 4 14 56 1 15) ∧
  decodeTableWord 32 0x38E71FCB = some (.redFloat 1 1 4 14 56 1 15) ∧
  decodeTableWord 32 0x1520DFCD = some (.capld 1 2 36 6 1 15) ∧
  decodeTableWord 32 0x1520DFCF = some (.capst 1 2 36 6 1 15) := by decide

theorem decodes_index_registers_names_remote_access_capabilities :
  decodeTableWord 32 0x10D09FD1 = some (.xset 1 26 4 1 15) ∧
  decodeTableWord 32 0x12149FD1 = some (.xget 1 2 36 1 15) ∧
  decodeTableWord 32 0x14D09FD1 = some (.xstep 1 26 4 1 15) ∧
  decodeTableWord 32 0x16D09FD1 = some (.xcur 1 26 4 1 15) ∧
  decodeTableWord 32 0x8521DFD3 = some (.putreg 1 2 36 14 1 15) ∧
  decodeTableWord 32 0x10035FD5 = some (.hold 1 26 1 15) ∧
  decodeTableWord 32 0x12005FD5 = some (.gname 1 2 1 15) ∧
  decodeTableWord 32 0x14D01FD5 = some (.sjoin 1 26 1 15) ∧
  decodeTableWord 32 0x16D01FD5 = some (.sleave 1 26 1 15) ∧
  decodeTableWord 32 0x18A49FD5 = some (.smap 1 10 36 1 15) ∧
  decodeTableWord 32 0x39771FD7 = some (.ldc 1 1 4 46 56 1 15) ∧
  decodeTableWord 32 0x39771FD9 = some (.stc 1 1 4 46 56 1 15) ∧
  decodeTableWord 32 0x2525DFDB = some (.amoc 1 2 36 46 1 15) ∧
  decodeTableWord 32 0x3525DFDB = some (.amocRed 1 2 36 46 1 15) ∧
  decodeTableWord 32 0x10D4DFDD = some (.capsetA 1 26 4 6 1 15) ∧
  decodeTableWord 32 0x12D4DFDD = some (.capsetB 1 26 4 6 1 15) ∧
  decodeTableWord 32 0x14D4DFDD = some (.capsetP 1 26 4 6 1 15) ∧
  decodeTableWord 32 0x16029FDD = some (.capsetSeal 1 2 4 1 15) ∧
  decodeTableWord 32 0x18D43FDD = some (.caprd 1 26 4 1 1 15) := by decide

theorem decodes_chutes_engines_windows_benches :
  decodeTableWord 32 0x10D09FE1 = some (.chdef 1 26 4 1 15) ∧
  decodeTableWord 32 0x12D09FE1 = some (.chpush 1 26 4 1 15) ∧
  decodeTableWord 32 0x14035FE1 = some (.chtake 1 26 1 15) ∧
  decodeTableWord 32 0x10D07FE3 = some (.copy 1 26 1 1 1 15) ∧
  decodeTableWord 32 0x12D05FE3 = some (.retile 1 26 1 1 15) ∧
  decodeTableWord 32 0x14D05FE3 = some (.gath 1 26 1 1 15) ∧
  decodeTableWord 32 0x16D05FE3 = some (.chain 1 26 1 1 15) ∧
  decodeTableWord 32 0x18D05FE3 = some (.coll 1 26 1 1 15) ∧
  decodeTableWord 32 0x10D49FE5 = some (.wopen 1 26 36 1 15) ∧
  decodeTableWord 32 0x12D01FE5 = some (.wfinal 1 26 1 15) ∧
  decodeTableWord 32 0x10D49FE7 = some (.bkload 1 26 36 1 15) ∧
  decodeTableWord 32 0x12D49FE7 = some (.bkvec 1 26 36 1 15) ∧
  decodeTableWord 32 0x14D49FE7 = some (.bkrun 1 26 36 1 15) ∧
  decodeTableWord 32 0x16D49FE7 = some (.bkdrain 1 26 36 1 15) ∧
  decodeTableWord 32 0x18D49FE7 = some (.ownb 1 26 36 1 15) ∧
  decodeTableWord 32 0x1AD49FE7 = some (.ownc 1 26 36 1 15) := by decide

theorem decodes_tile_sequencer :
  decodeTableWord 32 0x00095FF1 = some (.mres 1 10 1) ∧
  decodeTableWord 32 0x02003FF1 = some (.mrel 1 1) ∧
  decodeTableWord 32 0x00095FF3 = some (.mload 1 10 1) ∧
  decodeTableWord 32 0x02095FF3 = some (.mchin 1 10 1) ∧
  decodeTableWord 32 0x9420DFF5 = some (.mma 1 10 4 6 1) ∧
  decodeTableWord 32 0x00003FF7 = some (.mzero 1 1) ∧
  decodeTableWord 32 0x02085FF7 = some (.mout 1 2 1) ∧
  decodeTableWord 32 0x04085FF7 = some (.mstore 1 2 1) := by decide

theorem decodes_system :
  decodeTableWord 32 0x00801FF9 = some (.trap 16 1 15) ∧
  decodeTableWord 32 0x02001FF9 = some (.tret 1 15) ∧
  decodeTableWord 32 0x02003FF9 = some (.tretNext 1 15) ∧
  decodeTableWord 32 0x04801FF9 = some (.brk 16 1 15) ∧
  decodeTableWord 32 0x06135FF9 = some (.ticket 1 26 1 15) ∧
  decodeTableWord 32 0x20035FFB = some (.mfs 16 26 1 15) ∧
  decodeTableWord 32 0x20D01FFD = some (.mts 16 26 1 15) := by decide

theorem decodes_16_bit_forms :
  decodeTableWord 16 0x8340 = some (.add16 16 26) ∧
  decodeTableWord 16 0x8342 = some (.sub16 16 26) ∧
  decodeTableWord 16 0x8344 = some (.mul16 16 26) ∧
  decodeTableWord 16 0x8346 = some (.and16 16 26) ∧
  decodeTableWord 16 0x8348 = some (.or16 16 26) ∧
  decodeTableWord 16 0x834A = some (.xor16 16 26) ∧
  decodeTableWord 16 0x834C = some (.shl16 16 26) ∧
  decodeTableWord 16 0x834E = some (.shr16 16 26) ∧
  decodeTableWord 16 0x8350 = some (.sra16 16 26) ∧
  decodeTableWord 16 0x8352 = some (.mov16 16 26) ∧
  decodeTableWord 16 0x8354 = some (.min16 16 26) ∧
  decodeTableWord 16 0x8356 = some (.max16 16 26) ∧
  decodeTableWord 16 0x8358 = some (.fadd16 16 26) ∧
  decodeTableWord 16 0x835A = some (.fmul16 16 26) ∧
  decodeTableWord 16 0x835C = some (.fmad16 16 26) ∧
  decodeTableWord 16 0x835E = some (.fmax16 16 26) := by decide
theorem decodes_bench_words :
  decodeTableWord 32 0x23000000 = some (.fd 3 0 0) ∧ decodeTableWord 32 0x20100020 = some (.fd 0 0x1000 0x20) ∧
  decodeTableWord 32 0x22168048 = none ∧ decodeTableWord 32 0x22168038 = some (.fd 2 0x1680 0x38) ∧
  decodeTableWord 32 0x4F280040 = some (.fs 3 1 1 0x2800 0x40) ∧ decodeTableWord 32 0x001F9078 = some (.mac 0 3 3 4 1 0x78) ∧
  decodeTableWord 32 0x002C0000 = some (.yzero 0 3 0) ∧ decodeTableWord 32 0x00000030 = some (.push 0 0 2) ∧
  decodeTableWord 32 0x00000040 = some (.next 0 0) ∧ decodeTableWord 32 0x00000068 = some (.pushn 0 0 1) := by decide

/-- R171, R177, R180, R311: majors with no instruction, illegal selectors, the halfword of zeros and reserved slot codes decode to nothing. -/
theorem decodes_nothing :
  decodeTableWord 32 0x00000F6F = none ∧ decodeTableWord 32 0xB525DC01 = none ∧ decodeTableWord 32 0xB525DD01 = none ∧
  decodeTableWord 32 0xB525DE01 = none ∧ decodeTableWord 16 0x0000 = none ∧ decodeTableWord 16 0x0020 = some (.add16 0 1) ∧
  decodeTableWord 32 0x80000000 = none ∧ decodeTableWord 32 0x00300000 = none ∧ decodeTableWord 32 0x00000080 = none ∧
  decodeTableWord 32 0x10000000 = none := by decide

/-- The encoded examples that the manual gives for integer, control and exchange instructions (R184 to R214). -/
theorem decodes_examples :
  decodeTableWord 32 0x0C102F01 = some (.add 0 6 2 1 0 15) ∧ decodeTableWord 32 0x06103301 = some (.add 0 3 2 1 1 3) ∧
  decodeTableWord 32 0x34388FA5 = some (.ldW 3 2 7 4 0 15) ∧ decodeTableWord 32 0x9040CFC1 = some (.atomIntW 4 1 0 4 6 0 15) ∧
  decodeTableWord 32 0x00808F2D = some (.movi 16 4 0 15) ∧ decodeTableWord 32 0x00008F2F = some (.movh 0 4 0 15) ∧
  decodeTableWord 32 0x00204FD1 = some (.xset 0 4 2 0 15) ∧ decodeTableWord 32 0x64082F01 = some (.add 0 50 1 1 0 15) ∧
  decodeTableWord 32 0xFE104F1F = some (.addi 127 2 2 0 15) ∧ decodeTableWord 32 0x7A106F33 = some (.cne 61 2 0 3 0 15) ∧
  decodeTableWord 32 0xFFFF4371 = some (.br 0x7FFFA 0 3) ∧ decodeTableWord 32 0x08000F77 = some (.exit 0 15) ∧
  decodeTableWord 32 0x04300F75 = some (.ret 0 6 0 15) ∧ decodeTableWord 32 0x00084F81 = some (.qxH 0 1 2 0 15) ∧
  decodeTableWord 32 0x0E00CFFB = some (.mfs 7 6 0 15) := by decide

/-- Those it gives for the floating-point and narrow instructions (R229 to R243). -/
theorem decodes_float_examples :
  decodeTableWord 32 0x06102F41 = some (.fadd 0 3 2 1 0 15) ∧ decodeTableWord 32 0x90308F47 = some (.fdiv 1 8 6 4 0 15) ∧
  decodeTableWord 32 0x90308F4D = some (.fmac 1 8 6 4 0 15) ∧ decodeTableWord 32 0x86102F57 = some (.hmac 1 3 2 1 0 15) ∧
  decodeTableWord 32 0x08084F5D = some (.fclassF32 0 1 2 0 15) ∧ decodeTableWord 32 0x06102F5F = some (.fscale 0 3 2 1 0 15) ∧
  decodeTableWord 32 0x00084F5B = some (.frcp 0 1 2 0 15) ∧ decodeTableWord 32 0x06084F5B = some (.fexp2 0 1 2 0 15) ∧
  decodeTableWord 32 0x0820AF61 = some (.cvtf 0 4 4 5 0 15) ∧ decodeTableWord 32 0x04102F63 = some (.cvti 0 2 2 1 0 15) ∧
  decodeTableWord 32 0x84086F69 = some (.pack 1 2 1 3 0 15) ∧ decodeTableWord 32 0x06188F6B = some (.unpk 0 3 3 4 0 15) ∧
  decodeTableWord 32 0x86084F65 = some (.qnt 1 3 1 2 0 15) ∧ decodeTableWord 32 0x0820AF6D = some (.mxsc 0 4 4 5 0 15) := by decide

/-! ## Single steps -/

/-- A property of the state after the first step that runs a word placed in memory, the placed thread changed first. -/
def afterStep (n w : Nat) (f : Thread → Thread) (p : State → Bool) : Bool :=
  match step ((State.reset.withFetchWord n w).modThread 0 0 f) with
  | .next t => p t
  | _ => false

/-- A thread with values in v1 and v2. -/
def twoValues (a b : Word) (t : Thread) : Thread := { t with v := [(1, a), (2, b)] }

/-- The destination v4, the top of the queue and the program counter of the placed thread. -/
def gives (y : Word) (pc : DWord) (t : State) : Bool :=
  decide (mget 0 (t.thread 0 0).v 4 = y) && decide ((t.thread 0 0).q.head? = some y) && decide ((t.thread 0 0).pc = pc)

/-- R193: addition is modulo 2^32; R48: the result is pushed. add.w v4, v1, v2 -/
theorem test_add_wraps : afterStep 32 0x04088F01 (twoValues 0xFFFFFFFF 3) (gives 2 0x10004) = true := by decide +kernel

/-- R193: sub.w v4, v1, v2 is v1 minus v2. -/
theorem test_sub_order : afterStep 32 0x04088F03 (twoValues 1 3) (gives 0xFFFFFFFE 0x10004) = true := by decide +kernel

/-- R193: the high half of -1 times 2 read as signed (variant 0), and of 2^32 - 1 times 2 (variant 1). -/
theorem test_mulh_signed : afterStep 32 0x04088F07 (twoValues 0xFFFFFFFF 2) (gives 0xFFFFFFFF 0x10004) = true := by decide +kernel
theorem test_mulh_unsigned : afterStep 32 0x84088F07 (twoValues 0xFFFFFFFF 2) (gives 1 0x10004) = true := by decide +kernel

/-- R194: division by zero gives all ones, the remainder the dividend. -/
theorem test_div_zero : afterStep 32 0x04088F09 (twoValues 7 0) (gives 0xFFFFFFFF 0x10004) = true := by decide +kernel
theorem test_rem_zero : afterStep 32 0x04088F0B (twoValues 7 0) (gives 7 0x10004) = true := by decide +kernel

/-- R193: sra.w copies the sign; the count is taken modulo 32. -/
theorem test_sra_sign : afterStep 32 0x04088F19 (twoValues 0x80000000 36) (gives 0xF8000000 0x10004) = true := by decide +kernel

/-- R195: addi sign-extends its seven bits. addi v4, v1, -1 -/
theorem test_addi_sign : afterStep 32 0xFE088F1F (twoValues 0 0) (gives 0xFFFFFFFF 0x10004) = true := by decide +kernel

/-- R196: movi sign-extends its thirteen bits. movi v4, -4096 -/
theorem test_movi_sign : afterStep 32 0x80008F2D id (gives 0xFFFFF000 0x10004) = true := by decide +kernel

/-- R197: bit and byte reversals. -/
theorem test_brev : afterStep 32 0x06088F3D (twoValues 0x80000003 0) (gives 0xC0000001 0x10004) = true := by decide +kernel
theorem test_bswap : afterStep 32 0x08088F3D (twoValues 0x11223344 0) (gives 0x44332211 0x10004) = true := by decide +kernel

/-- R180: add16 with b = 2 and d = 1 writes v1 and moves past two bytes. -/
theorem test_add16 :
    afterStep 16 0x1020 (twoValues 5 6) (fun t => decide (mget 0 (t.thread 0 0).v 1 = 11) && decide ((t.thread 0 0).pc = 0x10002)) = true := by
  decide +kernel

/-- R203: a branch adds twice its displacement to its own address: six parcels back. -/
theorem test_br_backwards : afterStep 32 0xFFFF4F71 id (fun t => decide ((t.thread 0 0).pc = 0xFFF4)) = true := by decide +kernel

/-- R203, R57: p3 is clear, so the guard fails and the lane goes on. -/
theorem test_br_guard : afterStep 32 0xFFFF4371 id (fun t => decide ((t.thread 0 0).pc = 0x10004)) = true := by decide +kernel

/-- R204: call pushes the address of the next instruction, bits [31:0] first, and adds 64 bytes. -/
theorem test_call :
    afterStep 32 0x00040F73 id (fun t => decide ((t.thread 0 0).q.take 2 = [0, 0x10004]) && decide ((t.thread 0 0).pc = 0x10040)) = true := by
  decide +kernel

/-- R205: ret goes to the address in the pair v6. -/
theorem test_ret :
    afterStep 32 0x04300F75 (fun t => { t with v := [(6, 0x20000)] }) (fun t => decide ((t.thread 0 0).pc = 0x20000)) = true := by
  decide +kernel

/-- R198: the manual's worked field, bits [35:28] of 0x80007F00. -/
theorem test_bfe_signed : afterStep 32 0x04088F3F (twoValues 0x80007F00 0x81C) (gives 0xFFFFFFF8 0x10004) = true := by decide +kernel
theorem test_bfe_unsigned : afterStep 32 0x84088F3F (twoValues 0x80007F00 0x808) (gives 0x7F 0x10004) = true := by decide +kernel

/-- R199: clt.s.w p4, v1, v2 compares as signed and writes bit 0 of p4. -/
theorem test_clt_signed :
    afterStep 32 0x04088F35 (twoValues 0xFFFFFFFF 1) (fun t => decide (mget 0 (t.crew 0).p 4 = 1) && (t.thread 0 0).q.isEmpty) = true := by
  decide +kernel

/-- The same with the crew's k0 pair 0x4000, and a write copy of the line there in its slice, with five bytes from 0x4008 on. -/
def afterAccess (w : Nat) (p : State → Bool) : Bool :=
  let s := ((State.reset.withFetchWord 32 w).modThread 0 0 (twoValues 0x8899AABB 8)).modCrew 0 fun c => { c with k := [(0, 0x4000)] }
  let line : Line := { data := List.replicate 8 0 ++ [0xF1, 0xE2, 0xD3, 0xC4, 0xB5] ++ List.replicate 115 0 }
  match step { s with copies := [(copyKey 0 (0x4000 / 128), { write := true, line := line })] } with
  | .next t => p t
  | _ => false

/-- R246, R251: ld.w v4, [k0 + v2] reads four bytes, least significant first; ld.b zero-extends. -/
theorem test_load_word : afterAccess 0x00108FA5 (gives 0xC4D3E2F1 0x10004) = true := by decide +kernel
theorem test_load_byte : afterAccess 0x00108FA1 (gives 0xF1 0x10004) = true := by decide +kernel

/-- R251: st.h v1, [k0 + v2] stores the two low bytes, and nothing beside them. -/
theorem test_store_half :
    afterAccess 0x00102FAD (fun t => t.peekNat 0x4008 5 == 0xB5C4D3AABB && (t.thread 0 0).q.isEmpty) = true := by decide +kernel

/-- R124, R132: a load of a line that the slice has no copy of asks the home with GETS, and the lane waits. -/
theorem test_load_miss :
    afterStep 32 0x00108FA5 (twoValues 0 8) (fun t => t.msgs.map (fun m => (m.event, m.agent, m.line)) == [(0, 0, 0)] &&
      decide (((t.thread 0 0).pc, (t.thread 0 0).q) = (0x10000, []))) = true := by decide +kernel

/-- R247, R392, R393: a misaligned word traps; the launch has no handler, so it terminates and its group leaves. -/
theorem test_misaligned_terminates :
    afterStep 32 0x00108FA5 (twoValues 0 3) (fun t => t.threads.isEmpty && t.groups.isEmpty) = true := by decide +kernel

/-- R207, R20: the only thread exits, and its crew and group leave the core. -/
theorem test_exit : afterStep 32 0x08000F77 id (fun t => t.threads.isEmpty && t.crews.isEmpty && t.groups.isEmpty) = true := by decide +kernel

/-- R229: 1.0 + 2.0 is 3.0, and 1.0 / 3.0 is rounded to nearest. -/
theorem test_fadd : afterStep 32 0x04088F41 (twoValues 0x3F800000 0x40000000) (gives 0x40400000 0x10004) = true := by decide +kernel
theorem test_fdiv : afterStep 32 0x04088F47 (twoValues 0x3F800000 0x40400000) (gives 0x3EAAAAAB 0x10004) = true := by decide +kernel

/-- The destination v4 and the flags of the placed thread. -/
def givesFlags (y flags : Word) (t : State) : Bool := gives y 0x10004 t && decide ((t.thread 0 0).fpstat = flags)

/-- R238: the worked conversions to .i32 and .n32: 2.5, -3.5, 3.0e9, -0.3, -0.7 and minus infinity. -/
theorem test_cvti_half_even : afterStep 32 0x04088F63 (twoValues 0x40200000 0) (givesFlags 2 0x10) = true := by decide +kernel
theorem test_cvti_negative : afterStep 32 0x04088F63 (twoValues 0xC0600000 0) (givesFlags 0xFFFFFFFC 0x10) = true := by decide +kernel
theorem test_cvti_clamps : afterStep 32 0x04088F63 (twoValues 0x4F32D05E 0) (givesFlags 0x7FFFFFFF 0x30) = true := by decide +kernel
theorem test_cvti_unsigned_zero : afterStep 32 0x06088F63 (twoValues 0xBE99999A 0) (givesFlags 0 0x10) = true := by decide +kernel
theorem test_cvti_unsigned_clamps : afterStep 32 0x06088F63 (twoValues 0xBF333333 0) (givesFlags 0 0x30) = true := by decide +kernel
theorem test_cvti_infinity : afterStep 32 0x04088F63 (twoValues 0xFF800000 0) (givesFlags 0x80000000 0x20) = true := by decide +kernel

/-- The worked case of R241: 500.0 into slot 2 saturates at 448, and 0.0013 into slot 3 rounds up to 2^-9. -/
theorem test_qnt_saturates : afterStep 32 0x04088F65 (twoValues 0x43FA0000 0x20005) (givesFlags 0x7E0000 0x34) = true := by decide +kernel
theorem test_qnt_subnormal : afterStep 32 0x04088F65 (twoValues 0x3AAA64C3 0x30005) (givesFlags 0x1000000 0x18) = true := by decide +kernel

/-- The worked case of R243: the scale of a block whose largest magnitude is 3.3. -/
theorem test_mxsc : afterStep 32 0x08088F6D (twoValues 0x40533333 0) (givesFlags 0x7E 0) = true := by decide +kernel

/-- The worked race of spec/06_coherence_engines.md: MOESI's entries M x UPG, X_M x PUTX and X_M_WB x FWDNACK, and what X_M x FWDDATA does. -/
theorem test_race_entries :
    romWord 1 3 2 = 0x20300000 ∧ romWord 1 8 4 = 0x28000D27 ∧ romWord 1 10 12 = 0x0C010CB4 ∧
    ((romProtocol 1).at_ 8 11).acts = [7, 4, 11, 12] ∧ ((romProtocol 1).at_ 8 11).grantx = true := by decide +kernel

/-- R136, R141: all six ROM tables pass the nine checks. -/
theorem test_rom_passes : ∀ n < 6, (romProtocol n).failure = none := by decide +kernel

end Sys2Proof.Tests
end

section
/-! PROOFS. The rejoin of lanes at a mask (R35, R36), and which instruction a step executes (R23, R28, R170, R293, R311). -/

namespace Sys2Proof.Proofs.Execution

open Sys2Proof.Machine

/-! ## The check of a rejoin mask -/

/-- A parked thread goes on at the program counter it had. -/
def resumed (t : Thread) : Thread := { t with st := .run }

theorem resumed_resumed (t : Thread) : resumed (resumed t) = resumed t := rfl

/-- What the check does to one lane of the mask: it runs again, and its quad leaves its bundle. -/
def releaseLane (m : Word) (k : Nat) (s : State) (l : Nat) : State :=
  if m.getLsbD l then (s.modThread k l resumed).leaveBundle k l else s

/-- Whether the mask is to be cleared: it names a lane, and every lane it names is parked on it. -/
def Rejoined (s : State) (k j : Nat) (m : Word) : Prop :=
  m ≠ 0 ∧ ∀ l < 32, m.getLsbD l = true → ∃ q, (s.thread k l).st = .parked q ∧ q.toNat = j

theorem parkedOn_iff (s : State) (k j l : Nat) : s.parkedOn k j l = true ↔ ∃ q, (s.thread k l).st = .parked q ∧ q.toNat = j := by
  unfold State.parkedOn
  split
  · next q h => simp [h]
  · next h => simpa using fun q hq => absurd hq (h q)

theorem checkMask_test_iff (s : State) (k j : Nat) (m : Word) :
    (m ≠ 0 ∧ (lanes32.all fun l => !m.getLsbD l || s.parkedOn k j l) = true) ↔ Rejoined s k j m := by
  refine and_congr_right fun _ => ?_
  simp only [lanes32, List.all_eq_true, List.mem_range, Bool.or_eq_true, Bool.not_eq_true', parkedOn_iff]
  refine forall₂_congr fun l _ => ?_
  cases m.getLsbD l <;> simp

theorem checkMask_of_rejoined {s : State} {k j : Nat} (h : Rejoined s k j (mget 0 (s.crew k).j j)) :
    s.checkMask k j =
      (lanes32.foldl (releaseLane (mget 0 (s.crew k).j j) k) s).modCrew k fun c => { c with j := mset c.j j 0 } :=
  if_pos ((checkMask_test_iff s k j _).2 h)

theorem checkMask_of_not_rejoined {s : State} {k j : Nat} (h : ¬ Rejoined s k j (mget 0 (s.crew k).j j)) : s.checkMask k j = s :=
  if_neg fun g => h ((checkMask_test_iff s k j _).1 g)

theorem releaseLane_mem (m : Word) (k : Nat) (s : State) (l : Nat) : (releaseLane m k s l).mem = s.mem := by
  unfold releaseLane; split <;> rfl

theorem releaseLane_crews (m : Word) (k : Nat) (s : State) (l : Nat) : (releaseLane m k s l).crews = s.crews := by
  unfold releaseLane; split <;> rfl

theorem leaveBundle_thread (s : State) (k l k' l' : Nat) : (s.leaveBundle k l).thread k' l' = s.thread k' l' := rfl

theorem releaseLane_thread (m : Word) (k : Nat) (s : State) {x l : Nat} (hx : x < 32) (hl : l < 32) :
    (releaseLane m k s x).thread k l = if l = x ∧ m.getLsbD l = true then resumed (s.thread k l) else s.thread k l := by
  unfold releaseLane
  by_cases hm : m.getLsbD x = true
  · rw [if_pos hm, leaveBundle_thread]
    by_cases e : l = x
    · subst e
      rw [State.modThread_thread, if_pos ⟨rfl, hm⟩]
    · rw [State.modThread_thread_lane _ _ hx hl (.inr e), if_neg (fun h => e h.1)]
  · rw [if_neg hm, if_neg]
    rintro ⟨rfl, h⟩
    exact hm h

/-- Releasing lanes leaves memory and the crews, and the lanes of the mask run at the program counters they had. -/
theorem release_lanes (m : Word) (k : Nat) (ls : List Nat) (hls : ∀ x ∈ ls, x < 32) (s : State) :
    (ls.foldl (releaseLane m k) s).mem = s.mem ∧ (ls.foldl (releaseLane m k) s).crews = s.crews ∧
      ∀ l < 32, (ls.foldl (releaseLane m k) s).thread k l =
        if l ∈ ls ∧ m.getLsbD l = true then resumed (s.thread k l) else s.thread k l := by
  induction ls generalizing s with
  | nil => simp
  | cons x r ih =>
    obtain ⟨hmem, hcrews, hthread⟩ := ih (fun y hy => hls y (List.mem_cons_of_mem _ hy)) (releaseLane m k s x)
    refine ⟨hmem.trans (releaseLane_mem ..), hcrews.trans (releaseLane_crews ..), fun l hl => ?_⟩
    rw [List.foldl_cons, hthread l hl, releaseLane_thread m k s (hls x (List.mem_cons_self ..)) hl]
    by_cases e : l = x
    · subst e
      by_cases hb : m.getLsbD l = true <;> simp [hb, resumed_resumed]
    · simp [e]

/-- Settles O18: the check is a fold over the lanes of the mask, after which the mask is cleared, or nothing. -/
theorem rejoinReleases : Obligations.RejoinReleases := by
  unfold Obligations.RejoinReleases
  intro s k j m hm
  subst hm
  by_cases h : Rejoined s k j (mget 0 (s.crew k).j j)
  · obtain ⟨hmem, hcrews, hthread⟩ :=
      release_lanes (mget 0 (s.crew k).j j) k lanes32 (fun x hx => List.mem_range.1 hx) s
    rw [checkMask_of_rejoined h]
    refine ⟨fun _ => ⟨?_, fun l hl => ?_⟩, fun g => absurd h g, hmem, fun q hq => ?_⟩
    · rw [State.modCrew_crew, mget_mset_same]
    · exact (hthread l hl).trans (by simp only [lanes32, List.mem_range, hl, true_and]; rfl)
    · exact (mfind_mset_other _ _ hq).trans (by rw [hcrews])
  · rw [checkMask_of_not_rejoined h]
    exact ⟨fun g => absurd g h, fun _ => rfl, rfl, fun _ _ => rfl⟩

/-! ## What a step executes -/

theorem step_of_run {s t u : State} {i : Instr} (h : s.todo = .run i t) (hu : exec i t = .next u) : step s = .next (s.after u) := by
  simp only [step, h, hu]

theorem step_of_nothing {s : State} (h : s.todo = .nothing) : step s = .next s.moveOn := by
  simp only [step, h]

theorem todo_events {s : State} (h : s.stopped = false) (ht : turnSlot s.turn = .events) : s.todo = s.actTodo := by
  simp [State.todo, h, ht]

theorem todo_stream {s : State} {cl : Nat} (h : s.stopped = false) (ht : turnSlot s.turn = .stream cl) : s.todo = s.streamTodo cl := by
  simp [State.todo, h, ht]

theorem todo_stack {s : State} {n : Nat} (h : s.stopped = false) (ht : turnSlot s.turn = .stack n) :
    s.todo = if s.columnDue then s.columnTodo n else .nothing := by
  simp [State.todo, h, ht]

theorem todo_pipe {s : State} {c n : Nat} (h : s.stopped = false) (ht : turnSlot s.turn = .pipe c n) : s.todo = s.pipeTodo c n := by
  simp [State.todo, h, ht]

/-- A fetch reads one parcel, and a second where the first is odd; what they decode to goes with them. -/
theorem fetchInstr_ok {s s' : State} {v : View} {pc : DWord} {w len : Nat} {r : Except Illegal Instr}
    (h : s.fetchInstr v pc = .ok (s', w, len, r)) :
    ∃ (s1 : State) (lo : Nat), s.fetchParcel v pc = .ok (s1, lo) ∧
      (lo % 2 = 0 → w = lo ∧ len = 2 ∧ r = decode16 lo ∧ s' = s1) ∧
      (lo % 2 = 1 → ∃ hi, s1.fetchParcel v (pc + 2) = .ok (s', hi) ∧ w = lo + 65536 * hi ∧ len = 4 ∧ r = decode32 w) := by
  unfold State.fetchInstr at h
  split at h
  · cases h
  · next s1 lo hlo =>
    refine ⟨s1, lo, hlo, ?_⟩
    split at h
    · next heven =>
      cases h
      exact ⟨fun _ => ⟨rfl, rfl, rfl, rfl⟩, fun hodd => by omega⟩
    · next heven =>
      refine ⟨fun h => absurd h heven, fun _ => ?_⟩
      split at h
      · cases h
      · next s2 hi hhi =>
        cases h
        exact ⟨hi, hhi, rfl, rfl, rfl⟩

theorem nextAct_of_input {s : State} {i : Instr} {r : List Instr} (h : s.inputs = i :: r) : s.nextAct = .input i := by
  simp [State.nextAct, h]

/-- Settles O55: State.todo names the instruction and the state it runs in, for each kind of turn. -/
theorem stepRunsDecodedInstruction : Obligations.StepRunsDecodedInstruction := by
  unfold Obligations.StepRunsDecodedInstruction
  refine ⟨?_, ?_, ?_, ?_, ?_, ?_, ?_⟩
  · intro s s' c n ck q w len b rest i hs ht hb hq hf u hu
    refine step_of_run (t := { s' with unit := .lanes (s'.issueOf c n b len w) }) ?_ hu
    simp [todo_pipe hs ht, State.pipeTodo, hb, hq, hf]
  · intro s s' cl w len i hs ht hi hf u hu
    refine step_of_run (t := { s'.modCluster cl (fun k => { k with stream := .running }) with
      unit := .stream cl (s.cluster cl).pc w }) ?_ hu
    simp [todo_stream hs ht, State.streamTodo, hi, hf]
  · intro s n i hs ht hc hn hd u hu
    refine step_of_run (t := { s with unit := .column n }) ?_ hu
    simp [todo_stack hs ht, hc, State.columnTodo, hn, hd]
  · intro s s' ck l w len i hs ht ha hf x u hx hu
    subst hx
    refine step_of_run ?_ hu
    simp [todo_events hs ht, State.actTodo, ha, State.retryTodo, hf]
  · intro s i r hs ht hin u hu
    refine step_of_run (t := { s with inputs := r }) ?_ hu
    simp [todo_events hs ht, State.actTodo, nextAct_of_input hin, hin]
  · intro s s' v pc w len r h
    exact fetchInstr_ok h
  · intro s hs h
    apply step_of_nothing
    obtain ⟨ht, ha⟩ | ⟨c, n, ht, hp⟩ | ⟨cl, ht, hi⟩ | ⟨n, ht, hc⟩ := h
    · simp [todo_events hs ht, State.actTodo, ha]
    · simp [todo_pipe hs ht, State.pipeTodo, hp]
    · simp [todo_stream hs ht, State.streamTodo, hi]
    · simp [todo_stack hs ht, hc]

end Sys2Proof.Proofs.Execution
end

section
/-! PROOFS. A deadlocked crew whose launch has a firing in flight: the launch does not end at once (R397, R409). -/

namespace Sys2Proof.Proofs.Execution

open Sys2Proof.Machine

/-- One crew, whose only thread is parked on mask 0 while no lane is named by the mask, so that it is deadlocked (R409); and a COLL operation
of its launch that awaits a reply, so that its firing is in flight (R291). -/
def deadlockedInFlight : State := { State.reset with
  launches := [(0, { queue := 0, index := 0, ctx := 0, body := [] })]
  groups := [(0, { noGroup with launch := 0, threads := 1, crews := 1 })]
  crews := [(0, { group := 0, index := 0 })]
  threads := (List.range 32).map fun l => (l, { st := if l = 0 then .parked 0 else .helper })
  clusters := [(0, { armed := [(0, { kind := .coll, launch := 0, desc := [], awaited := 1 })] })] }

/-- The crew is deadlocked. -/
theorem deadlockedInFlight_deadlocked : deadlockedInFlight.deadlocked 0 = true := by decide

/-- Its launch is being terminated, and has not ended: the firing in flight has to finish first (R397). -/
theorem terminate_deadlockedInFlight :
    ((deadlockedInFlight.terminate 0 0x116).launch 0).ending = some 0x116 ∧ ((deadlockedInFlight.terminate 0 0x116).launch 0).done = false := by
  decide

/-- Refutes O49: the clause on deadlock says that the launch of a deadlocked crew has ended after the event, and it has not where an engine
operation of the launch is in the middle of a firing, which a termination awaits (R397). -/
theorem not_issueAndSchedulingEvents : ¬ Obligations.IssueAndSchedulingEvents := by
  unfold Obligations.IssueAndSchedulingEvents
  intro ⟨_, _, _, _, _, _, _, _, _, _, hcrews, _⟩
  obtain ⟨_, _, _, _, _, hends⟩ := hcrews 0 0 deadlockedInFlight 0 rfl rfl
  obtain ⟨t, ht, hdone, _⟩ := hends 0 _ (by decide) deadlockedInFlight_deadlocked rfl rfl rfl
  have e : exec (.crewDivergenceDeadlock 0 0) deadlockedInFlight = .next (deadlockedInFlight.terminate 0 0x116) := by
    change execCrewDivergenceDeadlock 0 0 deadlockedInFlight = _
    exact congrArg Host.Outcome.next (if_pos (by decide))
  rw [e] at ht
  cases ht
  rw [terminate_deadlockedInFlight.2] at hdone
  cases hdone

end Sys2Proof.Proofs.Execution
end

section
/-! PROOFS. What accesses to memory leave of the commands: firmware's stores, records and completions change no queue, launch, GANGLAUNCH
or clock (R338, R354, R356, R418). -/

namespace Sys2Proof.Proofs.Execution

open Sys2Proof.Machine

/-- The queues, the launches and the clock are the same. -/
structure SameCommands (s t : State) : Prop where
  queues : t.queues = s.queues
  gangLaunches : t.gangLaunches = s.gangLaunches
  launches : t.launches = s.launches
  clock : t.clock = s.clock

theorem SameCommands.refl (s : State) : SameCommands s s := ⟨rfl, rfl, rfl, rfl⟩

theorem SameCommands.trans {s t u : State} (h : SameCommands s t) (g : SameCommands t u) : SameCommands s u :=
  ⟨g.queues.trans h.queues, g.gangLaunches.trans h.gangLaunches, g.launches.trans h.launches, g.clock.trans h.clock⟩

theorem SameCommands.foldl {α : Type} {f : State → α → State} (h : ∀ s x, SameCommands s (f s x)) (l : List α) (s : State) :
    SameCommands s (l.foldl f s) := by
  induction l generalizing s with
  | nil => exact .refl s
  | cons x r ih => exact (h s x).trans (ih (f s x))

/-! ## Lines and staging words -/

theorem sameCommands_stampHome (s : State) (line w r : Nat) : SameCommands s (s.stampHome line w r) := by
  unfold State.stampHome
  split <;> exact ⟨rfl, rfl, rfl, rfl⟩

theorem sameCommands_noteLoad (s : State) (line ts : Nat) : SameCommands s (s.noteLoad line ts) := by
  refine (sameCommands_stampHome s line 0 ts).trans ?_
  unfold State.noteLoad
  dsimp only
  split <;> exact ⟨rfl, rfl, rfl, rfl⟩

theorem sameCommands_holdHost (s : State) (line : Nat) (w : Bool) : SameCommands s (s.holdHost line w) := by
  unfold State.holdHost
  split <;> exact ⟨rfl, rfl, rfl, rfl⟩

theorem sameCommands_loadHome (s : State) (pa : Nat) (op : LineOp) (t : Nat) : SameCommands s (s.loadHome pa op t).2 :=
  (sameCommands_holdHost s (pa / 128) false).trans (sameCommands_noteLoad ..)

theorem sameCommands_wakeWatchers (s : State) (line : Nat) : SameCommands s (s.wakeWatchers line) := by
  refine .foldl (fun s x => ?_) _ s
  dsimp only
  split
  · exact .refl s
  · exact (sameCommands_loadHome s x.2.key _ _).trans ⟨rfl, rfl, rfl, rfl⟩

theorem sameCommands_noteStore (s : State) (line ts : Nat) (l : Line) : SameCommands s (s.noteStore line ts l) := by
  refine .trans ?_ (sameCommands_wakeWatchers _ line)
  have hput : SameCommands s ((s.putLine line l).stampHome line ts ts) :=
    .trans (show SameCommands s (s.putLine line l) from ⟨rfl, rfl, rfl, rfl⟩) (sameCommands_stampHome ..)
  dsimp only
  split
  · exact hput
  · refine (hput.trans (.foldl (fun s x => ?_) _ _)).trans ⟨rfl, rfl, rfl, rfl⟩
    exact ⟨rfl, rfl, rfl, rfl⟩

theorem sameCommands_atHome (s : State) (pa : Nat) (op : LineOp) (t : Nat) : SameCommands s (s.atHome pa op t).2 := by
  unfold State.atHome
  split
  · exact sameCommands_loadHome s pa op t
  · exact (sameCommands_holdHost s (pa / 128) true).trans (sameCommands_noteStore ..)

theorem sameCommands_memRun (s : State) (pa : Nat) (op : LineOp) : SameCommands s (s.memRun pa op).2 := by
  cases op <;> exact ⟨rfl, rfl, rfl, rfl⟩

theorem sameCommands_stageEnter (s : State) (pa : Nat) (load : Bool) (t : Nat) : SameCommands s (s.stageEnter pa load t).2 :=
  ⟨rfl, rfl, rfl, rfl⟩

theorem sameCommands_touch (s : State) (pa n : Nat) : SameCommands s (s.touch pa n) := ⟨rfl, rfl, rfl, rfl⟩

theorem sameCommands_stageOp (s : State) (pa : Nat) (op : LineOp) (t : Nat) : SameCommands s (s.stageOp pa op t).2 :=
  ((sameCommands_stageEnter s pa op.isLoad t).trans (sameCommands_memRun _ pa op)).trans (sameCommands_touch _ pa op.span.2)

theorem sameCommands_opAt (s : State) (pa : Nat) (op : LineOp) (t : Nat) : SameCommands s (s.opAt pa op t).2 := by
  unfold State.opAt
  split
  · exact sameCommands_stageOp s pa op t
  · split
    · exact sameCommands_atHome s pa op t
    · exact sameCommands_memRun s pa op

/-- An operation has its place in the order no earlier than its agent's time (R108). -/
theorem le_opAt_ts (s : State) (pa : Nat) (op : LineOp) (t : Nat) : t ≤ (s.opAt pa op t).1.ts := by
  unfold State.opAt
  split
  · unfold State.stageOp State.stageEnter
    dsimp only
    split <;> exact le_max_left ..
  · split
    · unfold State.atHome
      split <;> exact le_max_left ..
    · exact le_rfl

theorem sameCommands_storeParts (s : State) (pa : Nat) (b : List Byte) (t fuel : Nat) : SameCommands s (s.storeParts pa b t fuel).2 := by
  induction fuel generalizing s pa b with
  | zero => exact .refl s
  | succ n ih =>
    unfold State.storeParts
    split
    · exact .refl s
    · exact (sameCommands_opAt s pa _ t).trans (ih ..)

theorem sameCommands_storeBytes (s : State) (pa : Nat) (b : List Byte) (t : Nat) : SameCommands s (s.storeBytes pa b t).2 :=
  sameCommands_storeParts ..

theorem sameCommands_storeNat (s : State) (pa x n t : Nat) : SameCommands s (s.storeNat pa x n t).2 := sameCommands_storeParts ..

theorem sameCommands_storeBlock (s : State) (pa : Nat) (b : List Byte) (t : Nat) : SameCommands s (s.storeBlock pa b t).2 := by
  unfold State.storeBlock
  split
  · exact SameCommands.trans (t := s.writeBlock pa b) ⟨rfl, rfl, rfl, rfl⟩ (.foldl (fun s l => sameCommands_stampHome s l _ _) _ _)
  · exact sameCommands_storeBytes s pa b t

/-! ## Pages and firmware's accesses -/

theorem sameCommands_amend (s : State) (line : Nat) (f : Line → Line) : SameCommands s (s.amend line f) := by
  unfold State.amend
  dsimp only
  split <;> exact ⟨rfl, rfl, rfl, rfl⟩

theorem sameCommands_markUsed (s : State) (l : Leaf) (w : Bool) : SameCommands s (s.markUsed l w) := by
  unfold State.markUsed
  extract_lets e
  split
  · exact .refl s
  · exact sameCommands_amend ..

theorem sameCommands_pageFills (s : State) (l : List PageFill) : SameCommands s { s with pageFills := l } := ⟨rfl, rfl, rfl, rfl⟩

/-- What succeeds has passed its check. -/
theorem ok_of_not_error {ε α : Type} {p : Prop} [Decidable p] {e : ε} {x : Except ε α} {a : α}
    (h : (if p then .error e else x) = .ok a) : x = .ok a := by
  split at h
  · cases h
  · exact h

theorem sameCommands_fillPage {s t : State} {pte entry level : Nat} (h : s.fillPage pte entry level = .ok t) : SameCommands s t := by
  have h := ok_of_not_error (ok_of_not_error (ok_of_not_error (ok_of_not_error h)))
  split at h
  · cases h
  · next b _ =>
    rw [← Except.ok.inj h]
    exact ((sameCommands_storeBlock s _ b 0).trans (sameCommands_pageFills _ _)).trans (sameCommands_opAt ..)

theorem sameCommands_fwReach {s t : State} {ctx va pa : Nat} {w : Bool} {k : PageKind} (h : s.fwReach ctx va w = some (t, pa, k)) :
    SameCommands s t := by
  have found : ∀ {u : State} {l : Leaf} {p : Bool},
      (if p then some (u.markUsed l w, l.pa, l.kind) else none) = some (t, pa, k) → SameCommands u t := by
    intro u l p e
    split at e
    · cases e; exact sameCommands_markUsed u l w
    · cases e
  unfold State.fwReach at h
  split at h
  · split at h
    · cases h
    · cases h; exact .refl s
  · split at h
    · cases h
    · dsimp only at h
      split at h
      · exact found h
      · cases h
      · split at h
        · cases h
        · next u hu =>
          split at h
          · exact (sameCommands_fillPage hu).trans (found h)
          · cases h

theorem sameCommands_fwOp (s : State) (pa : Nat) (k : PageKind) (op : LineOp) (t : Nat) : SameCommands s (s.fwOp pa k op t).2 := by
  unfold State.fwOp
  split
  · exact sameCommands_opAt s pa op t
  · exact sameCommands_memRun s pa op

theorem sameCommands_fwStore {s t : State} {ctx va x n at_ ts : Nat} (h : s.fwStore ctx va x n at_ = some (t, ts)) : SameCommands s t := by
  unfold State.fwStore at h
  split at h
  · cases h
  · next u pa k hu =>
    have e : (u.fwOp pa k (.store (pa % 128) n x) at_).2 = t := congrArg Prod.fst (Option.some.inj h)
    rw [← e]
    exact (sameCommands_fwReach hu).trans (sameCommands_fwOp ..)

theorem sameCommands_fwPut (s : State) (pa x n : Nat) : SameCommands s (s.fwPut pa x n) := sameCommands_storeParts ..

/-! ## Records for the host -/

theorem sameCommands_msix0 (s : State) : SameCommands s s.msix0 := by
  unfold State.msix0
  split <;> exact ⟨rfl, rfl, rfl, rfl⟩

theorem sameCommands_errSeq (s : State) (n : Nat) : SameCommands s { s with errSeq := n } := ⟨rfl, rfl, rfl, rfl⟩

theorem sameCommands_errorRecord (s : State) (cls unit count paddr unitid ctx gname action : Nat) :
    SameCommands s (s.errorRecord cls unit count paddr unitid ctx gname action) := by
  unfold State.errorRecord
  split
  · exact .refl s
  · have signalled : ∀ u, SameCommands s u → SameCommands s (if 2 ≤ cls then u.msix0 else u) := by
      intro u h
      split
      · exact h.trans (sameCommands_msix0 u)
      · exact h
    extract_lets a body
    have hb := sameCommands_storeBytes s (a + 4) body 0
    generalize s.storeBytes (a + 4) body 0 = r at hb ⊢
    exact signalled _ ((hb.trans (sameCommands_storeNat ..)).trans (sameCommands_errSeq ..))

theorem sameCommands_journalState (s : State) (qn i state status : Nat) : SameCommands s (s.journalState qn i state status) := by
  unfold State.journalState
  split
  · exact .refl s
  · next q _ =>
    dsimp only
    have h := (sameCommands_fwPut s (q.journalAt i + 9) state 1).trans (sameCommands_fwPut _ (q.journalAt i + 10) status 2)
    split
    · split
      · exact h
      · exact h.trans (sameCommands_fwPut ..)
    · exact .refl s

theorem sameCommands_journalCommit (s : State) (qn i cmdid opcode state status ts : Nat) :
    SameCommands s (s.journalCommit qn i cmdid opcode state status ts) := by
  unfold State.journalCommit
  split
  · exact .refl s
  · exact sameCommands_storeBytes ..


theorem sameCommands_send (s : State) (o : Out) : SameCommands s (s.send o) := ⟨rfl, rfl, rfl, rfl⟩

/-- A completion's user interrupt, or the record that it could not be written, or MSI-X (R355). -/
theorem sameCommands_interrupt (s : State) (q : Queue) (qn t : Nat) (running : Bool) :
    SameCommands s (if running then
        match s.fwStore q.ctx q.uint qn 8 t with
        | some (u, _) => u.send (.hostWrite q.uint qn)
        | none => s.errorRecord 4 14 1 q.uint qn 0 0 4
      else s.send (.msix q.msix)) := by
  split
  · split
    · next h => exact (sameCommands_fwStore h).trans (sameCommands_send _ _)
    · exact sameCommands_errorRecord ..
  · exact sameCommands_send ..

theorem sameCommands_notifyHost (s : State) (qn : Nat) (noint : Bool) (t : Nat) : SameCommands s (s.notifyHost qn noint t) := by
  unfold State.notifyHost
  split
  · exact .refl s
  · next q _ =>
    extract_lets skip
    split
    · exact .refl s
    · cases h : s.fwReach q.ctx q.notify true with
      | none => exact (sameCommands_errorRecord s 4 14 1 q.notify qn 0 0 4).trans (sameCommands_interrupt _ q qn t _)
      | some r =>
        obtain ⟨u, pa, k⟩ := r
        exact ((sameCommands_fwReach h).trans (sameCommands_fwOp u pa k (.atomic .or true (pa % 128) (2 ^ (qn % 64))) t)).trans
          (sameCommands_interrupt _ q qn _ _)

/-! ## Commits and completions -/

theorem queue_of_mfind {s : State} {qn : Nat} {x : Queue} (h : mfind s.queues qn = some x) : s.queue qn = x := by
  simp [State.queue, mget, h]

theorem SameCommands.mfind_queue {s t : State} (h : SameCommands s t) {qn : Nat} {x : Queue} (hx : mfind s.queues qn = some x) :
    mfind t.queues qn = some x := by rw [h.queues, hx]

theorem mfind_modQueue_same {s : State} {qn : Nat} {x : Queue} (h : mfind s.queues qn = some x) (f : Queue → Queue) :
    mfind (s.modQueue qn f).queues qn = some (f x) := by
  rw [State.modQueue, queue_of_mfind h]
  exact mfind_mset_same ..

/-- What a commit of the entry at HEAD does to the commands: HEAD moves by one, and the commit's place in the order is no earlier than the
entry's loads (R346). -/
theorem commitWord_spec {s : State} {qn : Nat} {x : Queue} (hx : mfind s.queues qn = some x) (b : List Byte) (t : Nat) :
    t ≤ (s.commitWord qn b t).1 ∧ (s.commitWord qn b t).2.gangLaunches = s.gangLaunches ∧ (s.commitWord qn b t).2.clock = s.clock ∧
      mfind (s.commitWord qn b t).2.queues qn = some { x with head := (x.head + 1) % 2 ^ 32, waitLap := false } := by
  have hts := le_opAt_ts s (commitAt qn) (.atomic .swap false (commitAt qn % 128) ((x.head + 1) % 2 ^ 32)) t
  have hop := sameCommands_opAt s (commitAt qn) (.atomic .swap false (commitAt qn % 128) ((x.head + 1) % 2 ^ 32)) t
  unfold State.commitWord
  rw [hx]
  dsimp only
  generalize s.opAt (commitAt qn) (.atomic .swap false (commitAt qn % 128) ((x.head + 1) % 2 ^ 32)) t = r at hts hop ⊢
  have hst := hop.trans (sameCommands_storeNat r.2 (ticketAt qn) ((x.head + 1) % 2 ^ 32) 4 r.1.ts)
  generalize (r.2.storeNat (ticketAt qn) ((x.head + 1) % 2 ^ 32) 4 r.1.ts).2 = u at hst ⊢
  have hq := mfind_modQueue_same (hst.mfind_queue hx) fun q => { q with head := (x.head + 1) % 2 ^ 32, waitLap := false }
  have after : ∀ v, SameCommands (u.modQueue qn fun q => { q with head := (x.head + 1) % 2 ^ 32, waitLap := false }) v →
      v.gangLaunches = s.gangLaunches ∧ v.clock = s.clock ∧
        mfind v.queues qn = some { x with head := (x.head + 1) % 2 ^ 32, waitLap := false } := fun v hv =>
    ⟨hv.gangLaunches.trans hst.gangLaunches, hv.clock.trans hst.clock, hv.mfind_queue hq⟩
  refine ⟨hts, after _ (.trans ?_ (sameCommands_journalCommit ..))⟩
  split
  · next h => exact sameCommands_fwStore h
  · exact sameCommands_errorRecord ..

/-- A completion leaves the commands, but that its own leaves the queue (R354). -/
theorem complete_eq {s : State} {qn : Nat} {x : Queue} (hx : mfind s.queues qn = some x) (i jstate status done cmdid : Nat) (noint : Bool)
    (t : Nat) :
    ∃ u, SameCommands s u ∧ s.complete qn i jstate status done cmdid noint t =
      u.modQueue qn fun q => { q with open_ := q.open_.filter (·.index ≠ i), time := max q.time t } := by
  have hj := sameCommands_journalState s qn i jstate status
  unfold State.complete
  rw [hx]
  dsimp only
  by_cases hd : done = 0
  · exact ⟨_, hj.trans (sameCommands_notifyHost _ qn noint t), by rw [if_pos hd]⟩
  · rw [if_neg hd]
    cases h : (s.journalState qn i jstate status).fwStore x.ctx done (2 ^ 63 + status * 2 ^ 48 + cmdid) 8 t with
    | none =>
      exact ⟨_, ((hj.trans (sameCommands_journalState _ qn i 3 status)).trans (sameCommands_errorRecord _ 4 14 1 done qn 0 0 4)).trans
        (sameCommands_notifyHost _ qn noint t), rfl⟩
    | some r => exact ⟨_, (hj.trans (sameCommands_fwStore h)).trans (sameCommands_notifyHost _ qn noint r.2), rfl⟩

theorem complete_spec {s : State} {qn : Nat} {x : Queue} (hx : mfind s.queues qn = some x) (i jstate status done cmdid : Nat) (noint : Bool)
    (t : Nat) :
    (s.complete qn i jstate status done cmdid noint t).gangLaunches = s.gangLaunches ∧
      (s.complete qn i jstate status done cmdid noint t).launches = s.launches ∧
      mfind (s.complete qn i jstate status done cmdid noint t).queues qn =
        some { x with open_ := x.open_.filter (·.index ≠ i), time := max x.time t } := by
  obtain ⟨u, hu, e⟩ := complete_eq hx i jstate status done cmdid noint t
  rw [e]
  exact ⟨hu.gangLaunches, hu.launches, mfind_modQueue_same (hu.mfind_queue hx) _⟩

theorem finish_spec {s : State} {qn : Nat} {x : Queue} (hx : mfind s.queues qn = some x) (c : Cmd) (jstate status t : Nat) :
    (s.finish qn c jstate status t).gangLaunches = s.gangLaunches ∧ (s.finish qn c jstate status t).completed qn c.index ∧
      ∃ y, mfind (s.finish qn c jstate status t).queues qn = some y ∧ y.head = x.head := by
  obtain ⟨hgl, -, hy⟩ := complete_spec hx c.index jstate status (c.f 8 8) (c.f 4 4) (entryNoint c.entry) (max c.time t)
  refine ⟨hgl, fun d hd => ?_, _, hy, rfl⟩
  rw [State.finish, queue_of_mfind hy] at hd
  simpa using (List.mem_filter.1 hd).2

theorem complete_launches (s : State) (qn i jstate status done cmdid : Nat) (noint : Bool) (t : Nat) :
    (s.complete qn i jstate status done cmdid noint t).launches = s.launches := by
  cases hx : mfind s.queues qn with
  | none => rw [State.complete, hx]
  | some x => exact (complete_spec hx ..).2.1

end Sys2Proof.Proofs.Execution
end

section
/-! PROOFS. The coordinator of a GANGLAUNCH: its messages, its decision, and the replies and reports of the parts (R353, R447). -/

namespace Sys2Proof.Proofs.Execution

open Sys2Proof.Machine

/-! ## Messages -/

/-- Only messages have gone out, to this package or to others. -/
def OnlyMessages (s t : State) : Prop := ∃ a o, t = { s with agenda := a, outbox := o }

theorem OnlyMessages.refl (s : State) : OnlyMessages s s := ⟨s.agenda, s.outbox, rfl⟩

theorem OnlyMessages.trans {s t u : State} (h : OnlyMessages s t) (g : OnlyMessages t u) : OnlyMessages s u := by
  obtain ⟨a, o, rfl⟩ := h
  obtain ⟨b, p, rfl⟩ := g
  exact ⟨b, p, rfl⟩

theorem OnlyMessages.foldl {α : Type} {f : State → α → State} (h : ∀ s x, OnlyMessages s (f s x)) (l : List α) (s : State) :
    OnlyMessages s (l.foldl f s) := by
  induction l generalizing s with
  | nil => exact .refl s
  | cons x r ih => exact (h s x).trans (ih (f s x))

theorem OnlyMessages.gangLaunches {s t : State} (h : OnlyMessages s t) : t.gangLaunches = s.gangLaunches := by obtain ⟨_, _, rfl⟩ := h; rfl
theorem OnlyMessages.queues {s t : State} (h : OnlyMessages s t) : t.queues = s.queues := by obtain ⟨_, _, rfl⟩ := h; rfl
theorem OnlyMessages.launches {s t : State} (h : OnlyMessages s t) : t.launches = s.launches := by obtain ⟨_, _, rfl⟩ := h; rfl
theorem OnlyMessages.pkg {s t : State} (h : OnlyMessages s t) : t.pkg = s.pkg := by obtain ⟨_, _, rfl⟩ := h; rfl

theorem soon_spec (s : State) (i : Instr) : (s.clock, i) ∈ (s.soon i).agenda ∧ { s.soon i with agenda := s.agenda } = s := by
  unfold State.soon
  split
  · next h =>
    obtain ⟨e, he, heq⟩ := List.any_eq_true.1 h
    exact ⟨eq_of_beq heq ▸ he, rfl⟩
  · exact ⟨List.mem_append_right _ (List.mem_singleton.2 rfl), rfl⟩

theorem message_other {s : State} {p : Nat} (i : Instr) (h : p ≠ s.pkgId) : s.message p i = { s with outbox := s.outbox ++ [.firmware p i] } :=
  if_neg h

theorem message_own {s : State} {p : Nat} (i : Instr) (h : p = s.pkgId) : s.message p i = s.soon i := if_pos h

theorem onlyMessages_soon (s : State) (i : Instr) : OnlyMessages s (s.soon i) := by
  unfold State.soon
  split
  · exact .refl s
  · exact ⟨_, _, rfl⟩

theorem onlyMessages_message (s : State) (p : Nat) (i : Instr) : OnlyMessages s (s.message p i) := by
  unfold State.message
  split
  · exact onlyMessages_soon s i
  · exact ⟨_, _, rfl⟩

/-- A message sent stays in the outbox. -/
theorem outbox_subset_message (s : State) (p : Nat) (i : Instr) : s.outbox ⊆ (s.message p i).outbox := by
  unfold State.message
  split
  · unfold State.soon
    split <;> exact List.Subset.refl _
  · exact List.subset_append_left ..

theorem onlyMessages_sendPrepare (s : State) (id : Nat) (g : GangLaunch) (p : Nat) : OnlyMessages s (s.sendPrepare id g p) :=
  onlyMessages_message ..

theorem onlyMessages_sendDecision (s : State) (id : Nat) (g : GangLaunch) (p : Nat) : OnlyMessages s (s.sendDecision id g p) := by
  unfold State.sendDecision
  dsimp only
  split
  · exact onlyMessages_message ..
  · split
    · exact onlyMessages_message ..
    · exact .refl s

theorem onlyMessages_sendDecisions (s : State) (id : Nat) : OnlyMessages s (s.sendDecisions id) := by
  unfold State.sendDecisions
  split
  · exact .refl s
  · exact .foldl (fun s p => onlyMessages_sendDecision s id _ p) _ s

/-! ## The record of a GANGLAUNCH -/

theorem modGangLaunch_of_some {s : State} {id : Nat} {g : GangLaunch} (h : s.gangLaunch id = some g) (f : GangLaunch → GangLaunch) :
    s.modGangLaunch id f = { s with gangLaunches := mset s.gangLaunches id (f g) } := by
  rw [State.gangLaunch] at h
  rw [State.modGangLaunch, h]

theorem gangLaunch_modGangLaunch {s : State} {id : Nat} {g : GangLaunch} (h : s.gangLaunch id = some g) (f : GangLaunch → GangLaunch) :
    (s.modGangLaunch id f).gangLaunch id = some (f g) := by
  rw [modGangLaunch_of_some h]
  exact mfind_mset_same ..

theorem gangLaunch_congr {s t : State} (h : t.gangLaunches = s.gangLaunches) (id : Nat) : t.gangLaunch id = s.gangLaunch id := by
  rw [State.gangLaunch, State.gangLaunch, h]

theorem gangAtHead_iff {s : State} {g : GangLaunch} {x : Queue} (h : mfind s.queues g.queue = some x) :
    s.gangAtHead g = true ↔ x.head = g.index := by
  simp [State.gangAtHead, h]

/-! ## The decision -/

section
variable {s : State} {id : Nat} {g : GangLaunch} (hg : s.gangLaunch id = some g)
include hg

theorem gangCommit_decided (h : g.decision ≠ 0) : s.gangCommit id = s := by
  unfold State.gangCommit
  rw [hg]
  exact if_pos (.inl h)

theorem gangAbort_decided (h : g.decision ≠ 0) (st : Nat) : s.gangAbort id st = s := by
  unfold State.gangAbort
  rw [hg]
  exact if_pos h

theorem gangCommit_unready (h : g.ready.length < g.parts.length) : s.gangCommit id = s := by
  unfold State.gangCommit
  rw [hg]
  exact if_pos (.inr h)

theorem gangFinish_unreported (h : g.report.length < g.parts.length) : s.gangFinish id = s := by
  unfold State.gangFinish
  rw [hg]
  exact if_pos (.inr h)

end

/-- The commit's timestamp asked for is above the coordinator's time and every READY's. -/
theorem lt_commitTime (l : Map Nat) (n : Nat) : n ≤ l.foldl (fun n e => max n (e.2 + 1)) n ∧
    ∀ e ∈ l, e.2 < l.foldl (fun n e => max n (e.2 + 1)) n := by
  induction l generalizing n with
  | nil => exact ⟨le_rfl, by simp⟩
  | cons e r ih =>
    obtain ⟨h, hr⟩ := ih (max n (e.2 + 1))
    refine ⟨(le_max_left ..).trans h, fun d hd => ?_⟩
    obtain rfl | hd := List.mem_cons.1 hd
    · exact (le_max_right n (d.2 + 1)).trans h
    · exact hr d hd

/-- Phase two, abort (R353). -/
theorem gangAbort_spec {s : State} {id : Nat} {g : GangLaunch} {x : Queue} (hg : s.gangLaunch id = some g) (hd : g.decision = 0)
    (hx : mfind s.queues g.queue = some x) (hh : x.head = g.index) (st : Nat) :
    ∃ h y, (s.gangAbort id st).gangLaunch id = some h ∧ h.decision = 2 ∧ mfind (s.gangAbort id st).queues g.queue = some y ∧
      y.head = (x.head + 1) % 2 ^ 32 ∧ (s.gangAbort id st).completed g.queue g.index := by
  unfold State.gangAbort
  rw [hg]
  dsimp only
  rw [if_neg (not_not.2 hd)]
  have hsent := onlyMessages_sendDecisions (s.modGangLaunch id fun g => { g with decision := 2 }) id
  have hrec := (gangLaunch_congr hsent.gangLaunches id).trans (gangLaunch_modGangLaunch hg _)
  have hq : mfind ((s.modGangLaunch id fun g => { g with decision := 2 }).sendDecisions id).queues g.queue = some x := by
    rw [hsent.queues, modGangLaunch_of_some hg]
    exact hx
  generalize (s.modGangLaunch id fun g => { g with decision := 2 }).sendDecisions id = u at hrec hq ⊢
  rw [if_pos ((gangAtHead_iff hq).2 hh)]
  obtain ⟨-, hgl, -, hy⟩ := commitWord_spec hq g.entry g.time
  obtain ⟨hgl', hdone, y, hy', hhead⟩ := finish_spec hy
    { index := g.index, op := 2, entry := g.entry, time := (u.commitWord g.queue g.entry g.time).1 } 5 st (u.commitWord g.queue g.entry g.time).1
  exact ⟨_, y, (gangLaunch_congr (hgl'.trans hgl) id).trans hrec, rfl, hy', hhead, hdone⟩

/-- Phase two, commit (R353). -/
theorem gangCommit_spec {s : State} {id : Nat} {g : GangLaunch} {x : Queue} (hg : s.gangLaunch id = some g) (hd : g.decision = 0)
    (hx : mfind s.queues g.queue = some x) (hh : x.head = g.index) (hr : g.parts.length ≤ g.ready.length) :
    ∃ h y, (s.gangCommit id).gangLaunch id = some h ∧ h.decision = 1 ∧ (∀ e ∈ g.ready, e.2 < h.time) ∧ g.time < h.time ∧
      h.committed = s.clock ∧ mfind (s.gangCommit id).queues g.queue = some y ∧ y.head = (x.head + 1) % 2 ^ 32 ∧
      y.open_ = x.open_ ++ [{ index := g.index, op := 2, entry := g.entry, time := h.time, started := true }] := by
  obtain ⟨hown, hparts⟩ := lt_commitTime g.ready (g.time + 1)
  obtain ⟨hts, hgl, hclock, hy⟩ := commitWord_spec hx g.entry (g.ready.foldl (fun n e => max n (e.2 + 1)) (g.time + 1))
  unfold State.gangCommit
  rw [hg]
  dsimp only
  rw [if_neg (by omega), if_neg (by simp [(gangAtHead_iff hx).2 hh])]
  generalize s.commitWord g.queue g.entry (g.ready.foldl (fun n e => max n (e.2 + 1)) (g.time + 1)) = r at hts hgl hclock hy ⊢
  obtain ⟨u, hu⟩ : ∃ u, u = r.2.modQueue g.queue fun q => { q with
    open_ := q.open_ ++ [{ index := g.index, op := 2, entry := g.entry, time := r.1, started := true }] } := ⟨_, rfl⟩
  obtain ⟨y, hopen, hhead, hcmds⟩ : ∃ y, mfind u.queues g.queue = some y ∧ y.head = (x.head + 1) % 2 ^ 32 ∧
      y.open_ = x.open_ ++ [{ index := g.index, op := 2, entry := g.entry, time := r.1, started := true }] :=
    ⟨_, hu ▸ mfind_modQueue_same hy _, rfl, rfl⟩
  have hclock' : u.clock = s.clock := hu ▸ hclock
  have hgl' : u.gangLaunches = s.gangLaunches := hu ▸ hgl
  rw [← hu]
  have hj := sameCommands_journalState u g.queue g.index 2 0
  have hrec := (gangLaunch_congr (hj.gangLaunches.trans hgl') id).trans hg
  have hsent := onlyMessages_sendDecisions ((u.journalState g.queue g.index 2 0).modGangLaunch id fun g =>
    { g with decision := 1, time := r.1, committed := u.clock }) id
  refine ⟨_, y, (gangLaunch_congr hsent.gangLaunches id).trans (gangLaunch_modGangLaunch hrec _), rfl,
    fun e he => (hparts e he).trans_le hts, hown.trans hts, hclock', ?_, hhead, hcmds⟩
  rw [hsent.queues, modGangLaunch_of_some hrec]
  exact hj.mfind_queue hopen

/-- A maximum over a list is no less than where it began. -/
theorem le_foldl_max {α : Type} (p : α → Prop) [DecidablePred p] (f : α → Nat) (l : List α) (n : Nat) :
    n ≤ l.foldl (fun t r => if p r then max t (f r) else t) n := by
  induction l generalizing n with
  | nil => exact le_rfl
  | cons r l ih =>
    refine le_trans ?_ (ih _)
    dsimp only
    split
    · exact le_max_left ..
    · exact le_rfl

/-- All parts have reported STATUS 0 (R447). -/
theorem gangFinish_clean {s : State} {id : Nat} {g : GangLaunch} {c : Cmd} (hg : s.gangLaunch id = some g) (hd : g.decision = 1)
    (hr : g.parts.length ≤ g.report.length)
    (hc : (s.queue g.queue).open_.find? (fun c => c.index == g.index && c.op == 2) = some c) (hs : g.status = 0)
    (hz : ∀ p < g.parts.length, mget 0 g.report p = 0) :
    ∃ ts, (Config.freeWord s.free).toNat ≤ ts ∧ s.gangFinish id = { s with free := s.free + 1 }.finish g.queue c 3 0 ts := by
  have hfirst : ((List.range g.parts.length).map fun p => mget 0 g.report p).find? (· != 0) = none := by
    rw [List.find?_eq_none]
    intro n hn
    obtain ⟨p, hp, rfl⟩ := List.mem_map.1 hn
    simp [hz p (List.mem_range.1 hp)]
  unfold State.gangFinish
  rw [hg]
  dsimp only
  rw [if_neg (by omega), hc]
  dsimp only
  rw [if_neg (not_not.2 hs), hfirst]
  exact ⟨_, le_foldl_max (fun r : Reservation => r.coord = s.pkgId ∧ r.id = id)
    (fun r => max (s.launch r.launch).time (s.launch r.launch).last) s.reservations _, rfl⟩

/-! ## Replies and reports of the parts -/

section
variable {s : State} (hu : s.unit = .none) {id : BitVec 42} {p : BitVec 6}
include hu

theorem reply_unknown (hg : s.gangLaunch id.toNat = none) :
    (∀ ts, exec (.ready id p ts) s = .next s) ∧ exec (.refuse id p) s = .next s ∧ ∀ st, exec (.partDoneReport id p st) s = .next s := by
  refine ⟨fun ts => ?_, ?_, fun st => ?_⟩
  · change execReady id p ts s = _
    simp only [execReady, hu, hg]
  · change execRefuse id p s = _
    simp only [execRefuse, hu, hg]
  · change execPartDoneReport id p st s = _
    simp only [execPartDoneReport, hu, hg]

variable {g : GangLaunch} (hg : s.gangLaunch id.toNat = some g)
include hg

/-- A reply of a part that the command does not have. -/
theorem reply_no_part (hp : g.parts.length ≤ p.toNat) (hd : g.decision = 0) :
    (∀ ts, exec (.ready id p ts) s = .next s) ∧ exec (.refuse id p) s = .next s := by
  refine ⟨fun ts => ?_, ?_⟩
  · change execReady id p ts s = _
    simp [execReady, hu, hg, hp, hd]
  · change execRefuse id p s = _
    simp [execRefuse, hu, hg, hp]

theorem reply_undecided (hp : p.toNat < g.parts.length) (hd : g.decision = 0) :
    (∀ ts, exec (.ready id p ts) s = .next ({ s with
        gangLaunches := mset s.gangLaunches id.toNat { g with ready := mset g.ready p.toNat ts.toNat } }.gangCommit id.toNat)) ∧
      exec (.refuse id p) s = .next (s.gangAbort id.toNat 0x401) := by
  refine ⟨fun ts => ?_, ?_⟩
  · change execReady id p ts s = _
    simp [execReady, hu, hg, hp, hd, modGangLaunch_of_some hg]
  · change execRefuse id p s = _
    simp [execRefuse, hu, hg, hp]

theorem ready_decided (hd : g.decision ≠ 0) (ts : BitVec 64) :
    ((mfind g.report p.toNat).isSome = true → exec (.ready id p ts) s = .next s) ∧
      (mfind g.report p.toNat = none → exec (.ready id p ts) s = .next (s.sendDecision id.toNat g p.toNat)) := by
  refine ⟨fun h => ?_, fun h => ?_⟩ <;> change execReady id p ts s = _ <;> simp [execReady, hu, hg, hd, h]

theorem partDoneReport_ignored (st : BitVec 15) (h : g.decision ≠ 1 ∨ g.parts.length ≤ p.toNat ∨ (mfind g.report p.toNat).isSome = true) :
    exec (.partDoneReport id p st) s = .next s := by
  change execPartDoneReport id p st s = _
  simp only [execPartDoneReport, hu, hg]
  exact if_pos (by simpa [or_assoc] using h)

theorem partDoneReport_noted (st : BitVec 15) (hd : g.decision = 1) (hp : p.toNat < g.parts.length) (hr : mfind g.report p.toNat = none) :
    exec (.partDoneReport id p st) s = .next ({ s with
      gangLaunches := mset s.gangLaunches id.toNat { g with report := mset g.report p.toNat st.toNat } }.gangFinish id.toNat) := by
  change execPartDoneReport id p st s = _
  simp [execPartDoneReport, hu, hg, hd, hr, hp, modGangLaunch_of_some hg]

end

/-! ## Timeouts of the coordinator -/

section
variable {s : State} (hu : s.unit = .none) {q : BitVec 10} {i : BitVec 32}
include hu

theorem timeout_unknown (p : BitVec 6) (hg : s.gangLaunch (gangId q.toNat i.toNat) = none) :
    exec (.ganglaunchPhaseOneTimeout q i) s = .next s ∧ exec (.partUnreachableTimeout q i p) s = .next s := by
  constructor
  · change execGanglaunchPhaseOneTimeout q i s = _
    simp only [execGanglaunchPhaseOneTimeout, hu, hg]
  · change execPartUnreachableTimeout q i p s = _
    simp only [execPartUnreachableTimeout, hu, hg]

variable {g : GangLaunch} (hg : s.gangLaunch (gangId q.toNat i.toNat) = some g)
include hg

theorem phaseOneTimeout_eq : exec (.ganglaunchPhaseOneTimeout q i) s =
    .next (if g.began + g.timeout < s.clock then s.gangAbort (gangId q.toNat i.toNat) 0x402 else s) := by
  change execGanglaunchPhaseOneTimeout q i s = _
  simp only [execGanglaunchPhaseOneTimeout, hu, hg]

theorem partUnreachable_reached {p : BitVec 6} (h : mfind g.lost p.toNat = none) : exec (.partUnreachableTimeout q i p) s = .next s := by
  change execPartUnreachableTimeout q i p s = _
  simp only [execPartUnreachableTimeout, hu, hg, h]

theorem partUnreachable_waits {p : BitVec 6} {since : Nat} (hl : mfind g.lost p.toNat = some since)
    (h : g.decision ≠ 1 ∨ s.clock < since + 800000000 ∨ (mfind g.report p.toNat).isSome = true) :
    exec (.partUnreachableTimeout q i p) s = .next s := by
  change execPartUnreachableTimeout q i p s = _
  simp only [execPartUnreachableTimeout, hu, hg, hl]
  exact if_pos (by simpa [or_assoc] using h)

theorem partUnreachable_given_up {p : BitVec 6} {since : Nat} (hl : mfind g.lost p.toNat = some since) (hd : g.decision = 1)
    (hs : since + 800000000 ≤ s.clock) (hr : mfind g.report p.toNat = none) :
    exec (.partUnreachableTimeout q i p) s = .next ({ s with
      gangLaunches := mset s.gangLaunches (gangId q.toNat i.toNat) { g with report := mset g.report p.toNat 0x403, status := 0x403 }
        }.gangFinish (gangId q.toNat i.toNat)) := by
  change execPartUnreachableTimeout q i p s = _
  simp [execPartUnreachableTimeout, hu, hg, hl, hd, hr, hs, modGangLaunch_of_some hg]

end

/-! ## Phase one -/

/-- The record of a GANGLAUNCH whose phase one begins. -/
def phaseOne (q i : Nat) (b : List Byte) (began time : Nat) (parts : List (Nat × Nat)) : GangLaunch :=
  { queue := q, index := i, entry := b, timeout := 800 * field b 28 4, began := began, parts := parts, time := time }

/-- The record is kept, and every part is asked to prepare. -/
def prepared (s : State) (id : Nat) (g : GangLaunch) : State :=
  (List.range g.parts.length).foldl (fun (s : State) (p : Nat) => s.sendPrepare id g p)
    { s with gangLaunches := mset s.gangLaunches id g }

theorem onlyMessages_prepared (s : State) (id : Nat) (g : GangLaunch) :
    OnlyMessages { s with gangLaunches := mset s.gangLaunches id g } (prepared s id g) :=
  .foldl (fun s p => onlyMessages_sendPrepare s id g p) _ _

/-- PREPARE to a part of another package goes out. -/
theorem sendPrepare_sends {s : State} {g : GangLaunch} {p peer a : Nat} (id : Nat) (hp : g.parts[p]? = some (peer, a)) (ho : peer ≠ s.pkgId) :
    ∃ c k, Out.firmware peer (.prepare s.pkg (BitVec.ofNat 42 id) (BitVec.ofNat 6 p) c (BitVec.ofNat 64 a) k) ∈ (s.sendPrepare id g p).outbox := by
  unfold State.sendPrepare
  rw [List.getD_eq_getElem?_getD, hp]
  dsimp only [Option.getD_some]
  rw [message_other _ ho]
  exact ⟨_, _, List.mem_append_right _ (List.mem_singleton.2 rfl)⟩

/-- Every part in a list has been asked, once all have. -/
theorem sendPrepare_foldl_sends (id : Nat) {g : GangLaunch} {p peer a : Nat} (hp : g.parts[p]? = some (peer, a)) (l : List Nat) (hl : p ∈ l)
    (s : State) (ho : peer ≠ s.pkgId) :
    ∃ c k, Out.firmware peer (.prepare s.pkg (BitVec.ofNat 42 id) (BitVec.ofNat 6 p) c (BitVec.ofNat 64 a) k) ∈
      (l.foldl (fun (s : State) (p : Nat) => s.sendPrepare id g p) s).outbox := by
  have stays : ∀ (l : List Nat) (s : State), s.outbox ⊆ (l.foldl (fun (s : State) (p : Nat) => s.sendPrepare id g p) s).outbox := by
    intro l
    induction l with
    | nil => exact fun s => List.Subset.refl _
    | cons p r ih => exact fun s => List.Subset.trans (outbox_subset_message ..) (ih _)
  induction l generalizing s with
  | nil => cases hl
  | cons n r ih =>
    by_cases hn : p = n
    · subst hn
      obtain ⟨c, k, h⟩ := sendPrepare_sends (s := s) id hp ho
      exact ⟨c, k, stays r _ h⟩
    · have hpkg := (onlyMessages_sendPrepare s id g n).pkg
      have h := ih ((List.mem_cons.1 hl).resolve_left hn) (s.sendPrepare id g n) (by rwa [State.pkgId, hpkg])
      rwa [hpkg] at h

section
variable {q : BitVec 10} {i : BitVec 32} {s : State}

/-- Nothing is to be claimed, or phase one is under way. -/
theorem ganglaunch_waits (hu : s.unit = .none)
    (h : mfind s.queues q.toNat = none ∨ (s.queue q.toNat).head ≠ i.toNat ∨ s.phase ≠ 4 ∨ (s.queue q.toNat).claims = false ∨
      (s.queue q.toNat).waitLap = true ∨ (∃ g, s.gangLaunch (gangId q.toNat i.toNat) = some g ∧ g.decision = 0)) :
    exec (.ganglaunch q i) s = .next s := by
  change execGanglaunch q i s = _
  simp only [execGanglaunch, hu]
  refine if_pos ?_
  simp only [Bool.or_eq_true, decide_eq_true_eq, Bool.not_eq_true', Option.isNone_iff_eq_none]
  obtain h | h | h | h | h | ⟨g, hg, hd⟩ := h
  · simp [h]
  · simp [h]
  · simp [h]
  · simp [h]
  · simp [h]
  · simp [hg, hd]

variable {x : Queue} {b : List Byte} {ts : Nat} {r : State} (hc : Claimed q.toNat i.toNat 2 s x b ts r)
  (hg : ∀ g, s.gangLaunch (gangId q.toNat i.toNat) = some g → g.decision ≠ 0)
include hc hg

/-- The entry at HEAD is read, and its checks begin. -/
theorem ganglaunch_claimed : exec (.ganglaunch q i) s =
    if r.headerStatus q.toNat b ≠ 0 then .next (r.commit q.toNat b ts (r.headerStatus q.toNat b)).2
    else
      match r.gangParts x.ctx b with
      | .error e => .next (r.commit q.toNat b ts e).2
      | .ok (u, t, parts) =>
        if !x.mayStart { index := i.toNat, op := 2, entry := b } then .next s
        else .next (prepared u (gangId q.toNat i.toNat) (phaseOne q.toNat i.toNat b s.clock (max ts t) parts)) := by
  have hx := queue_of_mfind hc.queue
  change execGanglaunch q i s = _
  unfold execGanglaunch
  rw [hc.unit]
  dsimp only
  rw [if_neg, hx, hc.read]
  · dsimp only
    rw [if_neg (not_not.2 hc.op)]
    rfl
  · cases h : s.gangLaunch (gangId q.toNat i.toNat) with
    | none => simp [hx, hc.head, hc.claims, hc.lap, hc.phase, hc.queue]
    | some g => simp [hx, hc.head, hc.claims, hc.lap, hc.phase, hc.queue, hg g h]

/-- The command may start: phase one begins. -/
theorem ganglaunch_begins {u : State} {v : Nat} {parts : List (Nat × Nat)} (hs : r.headerStatus q.toNat b = 0)
    (hp : r.gangParts x.ctx b = .ok (u, v, parts)) (hm : x.mayStart { index := i.toNat, op := 2, entry := b } = true) :
    ∃ (t : State) (g : GangLaunch), exec (.ganglaunch q i) s = .next t ∧ t.gangLaunch (gangId q.toNat i.toNat) = some g ∧ g.decision = 0 ∧
      g.ready = [] ∧ g.parts = parts ∧ g.timeout = 800 * field b 28 4 ∧ g.began = s.clock ∧ t.queues = u.queues ∧
      ∀ p peer a, parts[p]? = some (peer, a) → peer ≠ u.pkgId → ∃ c k, Out.firmware peer (.prepare u.pkg
        (BitVec.ofNat 42 (gangId q.toNat i.toNat)) (BitVec.ofNat 6 p) c (BitVec.ofNat 64 a) k) ∈ t.outbox := by
  have hsent := onlyMessages_prepared u (gangId q.toNat i.toNat) (phaseOne q.toNat i.toNat b s.clock (max ts v) parts)
  refine ⟨_, phaseOne q.toNat i.toNat b s.clock (max ts v) parts, ?_,
    (gangLaunch_congr hsent.gangLaunches _).trans (mfind_mset_same ..), rfl, rfl, rfl, rfl, rfl, hsent.queues, fun p peer a hpa ho => ?_⟩
  · rw [ganglaunch_claimed hc hg, if_neg (not_not.2 hs), hp]
    exact if_neg (by simp [hm])
  · obtain ⟨hlt, -⟩ := List.getElem?_eq_some_iff.1 hpa
    exact sendPrepare_foldl_sends _ (g := phaseOne q.toNat i.toNat b s.clock (max ts v) parts) hpa (List.range parts.length)
      (List.mem_range.2 hlt) _ ho

end

end Sys2Proof.Proofs.Execution
end

section
/-! PROOFS. The parts of a GANGLAUNCH and its repeated messages (R353, R447), how a launch is ended early (R397), and the launch
watchdog (R450). -/

namespace Sys2Proof.Proofs.Execution

open Sys2Proof.Machine

/-! ## Maps -/

theorem mem_of_mfind {α : Type} {m : Map α} {k : Nat} {v : α} (h : mfind m k = some v) : (k, v) ∈ m := by
  induction m with
  | nil => cases h
  | cons e r ih =>
    unfold mfind at h
    split at h
    · next hk =>
      cases h
      exact hk ▸ List.mem_cons_self ..
    · exact List.mem_cons_of_mem _ (ih h)

theorem mfind_mmap {α : Type} (m : Map α) (f : Nat → α → α) (k : Nat) : mfind (mmap m f) k = (mfind m k).map (f k) := by
  induction m with
  | nil => rfl
  | cons e r ih =>
    change (if e.1 = k then some (f e.1 e.2) else mfind (mmap r f) k) = (if e.1 = k then some e.2 else mfind r k).map (f k)
    split
    · next h => rw [h]; rfl
    · exact ih

theorem mem_of_mem_mset {α : Type} {m : Map α} {k : Nat} {v : α} {e : Nat × α} (h : e ∈ mset m k v) : e = (k, v) ∨ e ∈ m := by
  have del : ∀ m : Map α, e ∈ mdel m k → e ∈ m := by
    intro m
    induction m with
    | nil => exact id
    | cons d r ih =>
      unfold mdel
      split
      · exact fun h => List.mem_cons_of_mem _ (ih h)
      · exact fun h => (List.mem_cons.1 h).elim (fun h => h ▸ List.mem_cons_self ..) fun h => List.mem_cons_of_mem _ (ih h)
  have ins : ∀ m : Map α, e ∈ minsert m k v → e = (k, v) ∨ e ∈ m := by
    intro m
    induction m with
    | nil => exact fun h => .inl (List.mem_singleton.1 h)
    | cons d r ih =>
      unfold minsert
      split
      · exact fun h => List.mem_cons.1 h
      · intro h
        obtain rfl | h := List.mem_cons.1 h
        · exact .inr (List.mem_cons_self ..)
        · exact (ih h).imp_right (List.mem_cons_of_mem _)
  exact (ins _ h).imp_right (del m)

/-! ## PREPARE -/

/-- The reservation that a part holds once it is placed. -/
def reserved (c id p time at_ timeout : Nat) : Reservation :=
  { coord := c, id := id, part := p, launch := partKey c id p, time := time, at_ := at_, life := 800 * timeout + 800000000 }

section
variable {s : State} (hu : s.unit = .none) {c : BitVec 10} {id : BitVec 42} {p : BitVec 6}
include hu

theorem prepare_known {r : Reservation} (hr : s.reservation c.toNat id.toNat p.toNat = some r)
    (hd : (s.launch (partKey c.toNat id.toNat p.toNat)).done = false) (ctx : BitVec 16) (a : BitVec 64) (k : BitVec 32) :
    exec (.prepare c id p ctx a k) s = .next (if (s.launch (partKey c.toNat id.toNat p.toNat)).started then s
      else s.message c.toNat (.ready id p (BitVec.ofNat 64 r.time))) := by
  change execPrepare c id p ctx a k s = _
  simp only [execPrepare, hu, hr, hd, Bool.false_eq_true, if_false]

section
variable (hr : s.reservation c.toNat id.toNat p.toNat = none) {ctx : BitVec 16} {a : BitVec 64}
include hr

theorem prepare_refused (k : BitVec 32) (hp : s.partLaunch c.toNat id.toNat p.toNat ctx.toNat a.toNat = none) :
    exec (.prepare c id p ctx a k) s = .next (s.message c.toNat (.refuse id p)) := by
  change execPrepare c id p ctx a k s = _
  simp only [execPrepare, hu, hr, hp]

variable {u : State} {t : Nat} {l : Launch} (hp : s.partLaunch c.toNat id.toNat p.toNat ctx.toNat a.toNat = some (u, t, l))
include hp

theorem prepare_unplaced (k : BitVec 32)
    (hn : { u with launches := mset u.launches (partKey c.toNat id.toNat p.toNat) l, nextOrder := u.nextOrder + 1 }.placeAll
      (partKey c.toNat id.toNat p.toNat) l = none) :
    exec (.prepare c id p ctx a k) s = .next (u.message c.toNat (.refuse id p)) := by
  change execPrepare c id p ctx a k s = _
  simp only [execPrepare, hu, hr, hp, hn]

/-- The part is placed: the reservation that it then holds. -/
theorem prepare_placed (k : BitVec 32) {v : State}
    (hv : { u with launches := mset u.launches (partKey c.toNat id.toNat p.toNat) l, nextOrder := u.nextOrder + 1 }.placeAll
      (partKey c.toNat id.toNat p.toNat) l = some v) :
    exec (.prepare c id p ctx a k) s = .next ({ v with
      reservations := (v.reservations.filter fun (x : Reservation) => x.launch != partKey c.toNat id.toNat p.toNat) ++
        [reserved c.toNat id.toNat p.toNat t v.clock k.toNat] }.message c.toNat (.ready id p (BitVec.ofNat 64 t))) := by
  change execPrepare c id p ctx a k s = _
  simp only [execPrepare, hu, hr, hp, hv]
  rfl

end

end

/-! ## COMMIT, ABORT and expiry -/

/-- A part's launch has started: it, its threads and its streams have the commit's timestamp. -/
def partStarted (s : State) (lk ts : Nat) : State :=
  let gangs := mkeys s.gangs fun _ g => g.launch == lk
  let cks := mkeys s.crews fun _ k => (s.group k.group).launch == lk
  { s.modLaunch lk fun l => { l with started := true, time := ts, committed := s.clock } with
    threads := mmap s.threads fun k t => if cks.contains (k / 32) then { t with time := ts } else t
    clusters := mmap s.clusters fun _ k => if k.gang.any gangs.contains then { k with time := ts } else k }

theorem partStarted_launch (s : State) (lk ts : Nat) :
    (partStarted s lk ts).launch lk = { s.launch lk with started := true, time := ts, committed := s.clock } :=
  State.modLaunch_launch s lk fun l => { l with started := true, time := ts, committed := s.clock }

theorem partStarted_thread {s : State} {lk ts ck l : Nat} (hck : (mfind s.crews ck).isSome = true) (hl : l < 32)
    (hlk : (s.group (s.crew ck).group).launch = lk) (ht : (mfind s.threads (32 * ck + l)).isSome = true) :
    ((partStarted s lk ts).thread ck l).time = ts := by
  obtain ⟨w, hw⟩ := Option.isSome_iff_exists.1 hck
  obtain ⟨t, ht⟩ := Option.isSome_iff_exists.1 ht
  have hcrew : s.crew ck = w := by simp [State.crew, mget, hw]
  have hmem : (mkeys s.crews fun _ k => (s.group k.group).launch == lk).contains ((32 * ck + l) / 32) = true := by
    rw [show (32 * ck + l) / 32 = ck by omega, List.contains_iff_mem]
    exact List.mem_map.2 ⟨(ck, w), List.mem_filter.2 ⟨mem_of_mfind hw, by simpa [hcrew] using hlk⟩, rfl⟩
  have hthread : (partStarted s lk ts).thread ck l = { t with time := ts } := by
    rw [State.thread, mget, partStarted]
    dsimp only
    rw [mfind_mmap, ht, Option.map_some, if_pos hmem, Option.getD_some]
  rw [hthread]

section
variable {s : State} (hu : s.unit = .none) {c : BitVec 10} {id : BitVec 42} {p : BitVec 6}
include hu

theorem decision_without_reservation (hr : s.reservation c.toNat id.toNat p.toNat = none) :
    (∀ ts, exec (.commit c id p ts) s = .next (s.message c.toNat (.partDoneReport id p 0x403))) ∧
      exec (.abort c id p) s = .next s ∧ exec (.partReservationExpiry c id p) s = .next s := by
  refine ⟨fun ts => ?_, ?_, ?_⟩
  · change execCommit c id p ts s = _
    simp only [execCommit, hu, hr]
  · change execAbort c id p s = _
    simp only [execAbort, hu, hr]
  · change execPartReservationExpiry c id p s = _
    simp only [execPartReservationExpiry, hu, hr]

variable {r : Reservation} (hr : s.reservation c.toNat id.toNat p.toNat = some r)
include hr

theorem commit_ended (hd : (s.launch r.launch).done = true) (ts : BitVec 64) : exec (.commit c id p ts) s =
    .next (s.message c.toNat (.partDoneReport id p (BitVec.ofNat 15 ((s.launch r.launch).status.getD 0)))) := by
  change execCommit c id p ts s = _
  simp only [execCommit, hu, hr, hd, if_true]

theorem commit_started (hd : (s.launch r.launch).done = false) (hs : (s.launch r.launch).started = true) (ts : BitVec 64) :
    exec (.commit c id p ts) s = .next s := by
  change execCommit c id p ts s = _
  simp only [execCommit, hu, hr, hd, hs, if_true, Bool.false_eq_true, if_false]

/-- The part starts: its launch and its threads have the commit's timestamp. -/
theorem commit_starts (hd : (s.launch r.launch).done = false) (hs : (s.launch r.launch).started = false)
    (hh : (s.launch r.launch).hintList = []) (ts : BitVec 64) : ∃ t : State, exec (.commit c id p ts) s = .next t ∧
      (t.launch r.launch).started = true ∧ (t.launch r.launch).time = ts.toNat ∧
      ∀ ck l, (mfind s.crews ck).isSome = true → l < 32 → (s.group (s.crew ck).group).launch = r.launch →
        (mfind s.threads (32 * ck + l)).isSome = true → (t.thread ck l).time = ts.toNat := by
  refine ⟨partStarted s r.launch ts.toNat, ?_, ?_, ?_, fun ck l hck hl hlk ht => ?_⟩
  · change execCommit c id p ts s = _
    simp only [execCommit, hu, hr, hd, hs, hh, Bool.false_eq_true, if_false]
    rfl
  · rw [partStarted_launch]
  · rw [partStarted_launch]
  · exact partStarted_thread hck hl hlk ht

theorem abort_started (hs : (s.launch r.launch).started = true) :
    exec (.abort c id p) s = .next s ∧ exec (.partReservationExpiry c id p) s = .next s := by
  constructor
  · change execAbort c id p s = _
    simp only [execAbort, hu, hr, hs, if_true]
  · change execPartReservationExpiry c id p s = _
    simp [execPartReservationExpiry, hu, hr, hs]

theorem abort_reserved (hs : (s.launch r.launch).started = false) :
    exec (.abort c id p) s = .next (s.release r) ∧
      exec (.partReservationExpiry c id p) s = .next (if r.at_ + r.life < s.clock then s.release r else s) := by
  constructor
  · change execAbort c id p s = _
    simp only [execAbort, hu, hr, hs, Bool.false_eq_true, if_false]
  · change execPartReservationExpiry c id p s = _
    simp [execPartReservationExpiry, hu, hr, hs]

end

theorem release_spec (s : State) (r : Reservation) :
    (∀ x ∈ (s.release r).reservations, x ≠ r) ∧ mfind (s.release r).launches r.launch = none := by
  unfold State.release
  extract_lets u
  have hm := onlyMessages_soon { u with
    launches := mdel u.launches r.launch
    reservations := u.reservations.filter fun x => x != r } .placementPass
  obtain ⟨a, o, e⟩ := hm
  rw [e]
  exact ⟨fun x hx => by simpa using (List.mem_filter.1 hx).2, mfind_mdel_same ..⟩

/-! ## Repeated messages -/

/-- What the coordinator repeats to a part: PREPARE, or its decision (R447). -/
def coordinatorRepeats (s : State) (id p : Nat) : State :=
  match s.gangLaunch id with
  | none => s
  | some g =>
    if g.parts.length ≤ p then s
    else if g.decision = 0 then if (mfind g.ready p).isSome then s else s.sendPrepare id g p
    else if g.decision = 1 && (mfind g.report p).isNone then s.sendDecision id g p
    else s

/-- What a part repeats to its coordinator: READY, where it holds no decision (R447). -/
def partRepeats (id : BitVec 42) (p : BitVec 6) (s : State) (r : Reservation) : State :=
  if r.id = id.toNat && r.part == p.toNat && !(s.launch r.launch).started then s.message r.coord (.ready id p (BitVec.ofNat 64 r.time)) else s

theorem resend_eq {s : State} (hu : s.unit = .none) (id : BitVec 42) (p : BitVec 6) : exec (.firmwareMessageResend id p) s =
    .next ((coordinatorRepeats s id.toNat p.toNat).reservations.foldl (partRepeats id p) (coordinatorRepeats s id.toNat p.toNat)) := by
  change execFirmwareMessageResend id p s = _
  simp only [execFirmwareMessageResend, hu]
  rfl

theorem onlyMessages_coordinatorRepeats (s : State) (id p : Nat) : OnlyMessages s (coordinatorRepeats s id p) := by
  unfold coordinatorRepeats
  split
  · exact .refl s
  · split
    · exact .refl s
    · split
      · split
        · exact .refl s
        · exact onlyMessages_sendPrepare ..
      · split
        · exact onlyMessages_sendDecision ..
        · exact .refl s

/-- No part of this package repeats READY: only the coordinator may repeat something. -/
theorem resend_coordinator {s : State} (hu : s.unit = .none) {id : BitVec 42} {p : BitVec 6}
    (h : ∀ r ∈ s.reservations, r.id ≠ id.toNat ∨ r.part ≠ p.toNat ∨ (s.launch r.launch).started = true) :
    exec (.firmwareMessageResend id p) s = .next (coordinatorRepeats s id.toNat p.toNat) := by
  have silent : ∀ (l : List Reservation) (t : State),
      (∀ r ∈ l, r.id ≠ id.toNat ∨ r.part ≠ p.toNat ∨ (t.launch r.launch).started = true) → l.foldl (partRepeats id p) t = t := by
    intro l
    induction l with
    | nil => exact fun _ _ => rfl
    | cons r l ih =>
      intro t ht
      have hr : partRepeats id p t r = t := by
        refine if_neg ?_
        obtain h | h | h := ht r (List.mem_cons_self ..) <;> simp [h]
      rw [List.foldl_cons, hr]
      exact ih t fun x hx => ht x (List.mem_cons_of_mem _ hx)
  obtain ⟨a, o, e⟩ := onlyMessages_coordinatorRepeats s id.toNat p.toNat
  rw [resend_eq hu, silent]
  rw [e]
  exact h

theorem coordinatorRepeats_unknown {s : State} {id p : Nat} (hg : s.gangLaunch id = none) : coordinatorRepeats s id p = s := by
  rw [coordinatorRepeats, hg]

section
variable {s : State} {id p : Nat} {g : GangLaunch} (hg : s.gangLaunch id = some g)
include hg

theorem coordinatorRepeats_no_part (hp : g.parts.length ≤ p) : coordinatorRepeats s id p = s := by
  rw [coordinatorRepeats, hg]
  exact if_pos hp

theorem coordinatorRepeats_undecided (hp : p < g.parts.length) (hd : g.decision = 0) :
    coordinatorRepeats s id p = if (mfind g.ready p).isSome then s else s.sendPrepare id g p := by
  rw [coordinatorRepeats, hg]
  exact (if_neg (by omega)).trans (if_pos hd)

theorem coordinatorRepeats_committed (hp : p < g.parts.length) (hd : g.decision = 1) :
    coordinatorRepeats s id p = if (mfind g.report p).isSome then s else s.sendDecision id g p := by
  rw [coordinatorRepeats, hg]
  refine (if_neg (by omega)).trans ((if_neg (by omega)).trans ?_)
  cases h : mfind g.report p <;> simp [hd]

end

/-- A part without a decision repeats READY. -/
theorem resend_part {s : State} (hu : s.unit = .none) {id : BitVec 42} {p : BitVec 6} {r : Reservation} (hg : s.gangLaunch id.toNat = none)
    (hr : s.reservations = [r]) (hid : r.id = id.toNat) (hp : r.part = p.toNat) (hs : (s.launch r.launch).started = false) :
    exec (.firmwareMessageResend id p) s = .next (s.message r.coord (.ready id p (BitVec.ofNat 64 r.time))) := by
  rw [resend_eq hu, coordinatorRepeats_unknown hg, hr]
  exact congrArg _ (if_pos (by simp [hid, hp, hs]))

end Sys2Proof.Proofs.Execution
end

section
/-! PROOFS. How a launch is ended early (R397), the launch watchdog (R450), and the statement on GANGLAUNCHes. -/

namespace Sys2Proof.Proofs.Execution

open Sys2Proof.Machine

/-! ## What the end of groups, streams and benches leaves of a launch -/

/-- No engine operation of a launch is in the middle of a firing (R397). -/
def EnginesIdle (lk : Nat) (s : State) : Prop :=
  ∀ e ∈ s.clusters, ∀ x ∈ e.2.armed, x.2.launch = lk → x.2.firing = none ∧ x.2.awaited = 0

/-- Of the record of a launch only the last time has changed, and no firing of it has begun. -/
structure LaunchKept (lk : Nat) (s t : State) : Prop where
  launch : ∃ n, t.launch lk = { s.launch lk with last := n }
  idle : EnginesIdle lk s → EnginesIdle lk t

section
variable (lk : Nat)

theorem LaunchKept.of_same {s t : State} (hl : t.launches = s.launches) (hc : t.clusters = s.clusters) : LaunchKept lk s t :=
  ⟨⟨(s.launch lk).last, by rw [State.launch, hl]; rfl⟩, fun h => by rwa [EnginesIdle, hc]⟩

theorem LaunchKept.refl (s : State) : LaunchKept lk s s := .of_same lk rfl rfl

theorem LaunchKept.trans {lk : Nat} {s t u : State} (h : LaunchKept lk s t) (g : LaunchKept lk t u) : LaunchKept lk s u := by
  obtain ⟨n, hn⟩ := h.launch
  obtain ⟨m, hm⟩ := g.launch
  exact ⟨⟨m, by rw [hm, hn]⟩, g.idle ∘ h.idle⟩

theorem LaunchKept.foldl {lk : Nat} {α : Type} {f : State → α → State} (h : ∀ s x, LaunchKept lk s (f s x)) (l : List α) (s : State) :
    LaunchKept lk s (l.foldl f s) := by
  induction l generalizing s with
  | nil => exact .refl lk s
  | cons x r ih => exact (h s x).trans (ih (f s x))

theorem launchKept_noteTime (s : State) (j t : Nat) : LaunchKept lk s (s.noteTime j t) := by
  unfold State.noteTime
  split
  · split
    · refine ⟨?_, id⟩
      by_cases e : lk = j
      · subst e
        exact ⟨t, by rw [State.modLaunch_launch]⟩
      · exact ⟨(s.launch lk).last, by rw [State.modLaunch_launch_other _ _ e]⟩
    · exact .refl lk s
  · exact .refl lk s

theorem launchKept_leaveSharing (s : State) (gk : Nat) (key : Option (Nat × Nat)) : LaunchKept lk s (s.leaveSharing gk key) := by
  unfold State.leaveSharing
  extract_lets hit mates left u
  split <;> exact .of_same lk rfl rfl

theorem launchKept_freeGroup (s : State) (gk : Nat) : LaunchKept lk s (s.freeGroup gk) := by
  unfold State.freeGroup
  extract_lets cks t u
  have hdrop : LaunchKept lk s ((s.noteTime (s.group gk).launch t).dropCrews gk) :=
    (launchKept_noteTime lk s _ t).trans (.of_same lk rfl rfl)
  exact (hdrop.trans (launchKept_leaveSharing lk _ gk none)).trans (.of_same lk rfl rfl)

/-- Changing a cluster, but not what is armed in it, begins no firing. -/
theorem launchKept_modCluster (s : State) (cl : Nat) (f : Cluster → Cluster) (hf : ∀ k, (f k).armed = k.armed) :
    LaunchKept lk s (s.modCluster cl f) := by
  refine ⟨⟨(s.launch lk).last, rfl⟩, fun h e he => ?_⟩
  obtain rfl | he := mem_of_mem_mset he
  · intro x hx
    dsimp only at hx
    rw [hf] at hx
    cases hk : mfind s.clusters cl with
    | none => simp [State.cluster, mget, hk] at hx
    | some k =>
      rw [State.cluster, mget, hk] at hx
      exact h _ (mem_of_mfind hk) x hx
  · exact h e he

theorem launchKept_freeCluster (s : State) (cl : Nat) : LaunchKept lk s (s.freeCluster cl) := by
  unfold State.freeCluster
  extract_lets u
  have hu : LaunchKept lk s u := by
    change LaunchKept lk s (match (s.cluster cl).gang with
      | some k => s.noteTime (s.gang k).launch (s.cluster cl).time
      | none => s)
    split
    · exact launchKept_noteTime ..
    · exact .refl lk s
  refine (hu.trans ?_).trans (launchKept_modCluster lk _ cl _ ?_)
  · exact .of_same lk rfl rfl
  · exact fun _ => rfl

theorem launchKept_freeGang (s : State) (gang : Nat) : LaunchKept lk s (s.freeGang gang) := by
  unfold State.freeGang
  extract_lets g u v
  have hu : LaunchKept lk s u := .foldl (launchKept_freeGroup lk) _ s
  have hv : LaunchKept lk u v := by
    change LaunchKept lk u (if g.tile && (u.cluster g.cluster).gang == some gang then u.freeCluster g.cluster else u)
    split
    · exact launchKept_freeCluster ..
    · exact .refl lk u
  exact (hu.trans hv).trans (.of_same lk rfl rfl)

theorem launchKept_returnSlabs (s : State) (l : List Nat) (t : Nat) : LaunchKept lk s (s.returnSlabs_ l t).2 := by
  unfold State.returnSlabs_
  have h : ∀ (f : Nat × State → Nat → Nat × State), (∀ r n, LaunchKept lk r.2 (f r n).2) →
      ∀ r, LaunchKept lk r.2 (l.foldl f r).2 := by
    intro f hf
    induction l with
    | nil => exact fun r => .refl lk r.2
    | cons n l ih => exact fun r => (hf r n).trans (ih (f r n))
  refine h _ ?_ (t, s)
  exact fun r n => .of_same lk rfl rfl

theorem launchKept_stopBench (s : State) (e : Nat) : LaunchKept lk s (s.stopBench e) := by
  unfold State.stopBench
  extract_lets b
  have h := launchKept_returnSlabs lk s b.slabs b.time
  generalize s.returnSlabs_ b.slabs b.time = r at h ⊢
  exact (h.trans (launchKept_noteTime lk r.2 b.launch r.1)).trans (.of_same lk rfl rfl)

theorem launchKept_stopBenches (s : State) (p : BenchLaunch → Bool) : LaunchKept lk s (s.stopBenches p) :=
  .foldl (launchKept_stopBench lk) _ s

theorem launchKept_closeWindows (s : State) (p : Window → Bool) : LaunchKept lk s (s.closeWindows p) := .of_same lk rfl rfl

end

/-! ## Ending a launch -/

/-- Once withdrawn, an idle engine operation is gone (R397). -/
theorem enginesOf_withdraw {lk : Nat} {s : State} (h : EnginesIdle lk s) : (s.withdraw (·.launch == lk)).enginesOf lk = false := by
  rw [State.enginesOf, many, List.any_eq_false]
  intro e he
  obtain ⟨d, hd, rfl⟩ := List.mem_map.1 he
  rw [many, Bool.not_eq_true, List.any_eq_false]
  intro x hx
  obtain ⟨y, hy, rfl⟩ := List.mem_map.1 hx
  obtain ⟨hmem, hstays⟩ := List.mem_filter.1 hy
  intro hlk
  have hyl : y.2.launch = lk := by
    dsimp only at hlk
    split at hlk <;> simpa using hlk
  obtain ⟨hf, ha⟩ := h d hd y hmem hyl
  simp [hyl, hf, ha] at hstays

/-- The end of a launch sets its STATUS, and keeps why it was ended. -/
theorem launchEnd_launch (s : State) (lk jstate st : Nat) :
    (s.launchEnd lk jstate st).launch lk = { s.launch lk with done := true, status := some st } := by
  have hmod : (s.modLaunch lk fun l => { l with done := true, status := some st }).launch lk =
      { s.launch lk with done := true, status := some st } := State.modLaunch_launch ..
  rw [← hmod]
  unfold State.launchEnd
  extract_lets l u
  have same : ∀ v : State, v.launches = u.launches → v.launch lk = u.launch lk := fun v hv => by rw [State.launch, hv]; rfl
  split
  · dsimp only
    split
    · exact same _ (onlyMessages_soon u _).launches
    · exact same _ rfl
  · exact same _ (complete_launches ..)

/-- A launch that is being ended ends at once where no firing of it is in flight (R397). -/
theorem endingCheck_launch {s : State} {lk st : Nat} (he : (s.launch lk).ending = some st) (hd : (s.launch lk).done = false) :
    ((s.endingCheck lk).launch lk).ending = some st ∧
      (s.enginesOf lk = false → ((s.endingCheck lk).launch lk).done = true ∧ ((s.endingCheck lk).launch lk).status = some st) := by
  have hstop := (launchKept_stopBenches lk s (·.launch == lk)).trans (launchKept_closeWindows lk _ (·.launch == lk))
  obtain ⟨n, hn⟩ := hstop.launch
  unfold State.endingCheck
  rw [he]
  dsimp only
  cases h : s.enginesOf lk with
  | true => simp [he]
  | false =>
    rw [if_neg (by simp [hd]), launchEnd_launch, hn]
    exact ⟨he, fun _ => ⟨rfl, rfl⟩⟩

/-- Terminating a launch that runs: it is being ended with the STATUS, and has ended where no firing of it is in flight (R397). -/
theorem terminate_launch {s : State} {lk : Nat} {l : Launch} (hl : mfind s.launches lk = some l) (hd : l.done = false) (he : l.ending = none)
    (st : Nat) :
    ((s.terminate lk st).launch lk).ending = some st ∧
      (EnginesIdle lk s → ((s.terminate lk st).launch lk).done = true ∧ ((s.terminate lk st).launch lk).status = some st) := by
  have hlaunch : s.launch lk = l := by simp [State.launch, mget, hl]
  unfold State.terminate
  rw [hl]
  dsimp only
  rw [if_neg (by simp [hd, he])]
  have hfreed : LaunchKept lk s (List.foldl State.freeGang s (mkeys s.gangs fun _ g => g.launch == lk)) :=
    .foldl (launchKept_freeGang lk) _ s
  generalize List.foldl State.freeGang s (mkeys s.gangs fun _ g => g.launch == lk) = u at hfreed ⊢
  replace hfreed := hfreed.trans (.foldl (launchKept_freeGroup lk) (mkeys u.groups fun _ g => g.launch == lk) u)
  generalize List.foldl State.freeGroup u (mkeys u.groups fun _ g => g.launch == lk) = v at hfreed ⊢
  obtain ⟨n, hn⟩ := hfreed.launch
  have hending : ({ v with pending := v.pending.filter (·.launch ≠ lk) }.modLaunch lk fun l => { l with bins := [], ending := some st }).launch lk =
      { v.launch lk with bins := [], ending := some st } := State.modLaunch_launch ..
  generalize hw : ({ v with pending := v.pending.filter (·.launch ≠ lk) }.modLaunch lk fun l => { l with bins := [], ending := some st }) = w
    at hending ⊢
  have hidle : EnginesIdle lk s → EnginesIdle lk w := fun h => hw ▸ hfreed.idle h
  have hrun : ((w.withdraw (·.launch == lk)).launch lk).ending = some st ∧ ((w.withdraw (·.launch == lk)).launch lk).done = false := by
    rw [show (w.withdraw (·.launch == lk)).launch lk = w.launch lk from rfl, hending, hn, hlaunch]
    exact ⟨rfl, hd⟩
  obtain ⟨hend, hdone⟩ := endingCheck_launch hrun.1 hrun.2
  exact ⟨hend, fun h => hdone (enginesOf_withdraw (hidle h))⟩

/-! ## The launch watchdog -/

section
variable {s : State} (hu : s.unit = .none) {q : BitVec 10} {i : BitVec 32}
include hu

theorem launchWatchdog_off (h : s.lwatch = 0) : exec (.launchWatchdog q i) s = .next s := by
  change execLaunchWatchdog q i s = _
  simp only [execLaunchWatchdog, hu, h]
  split
  · simp
  · split <;> simp
  · rfl

/-- A launch of this package. -/
theorem launchWatchdog_launch {l : Launch} (hl : mfind s.launches (launchKey q.toNat i.toNat) = some l) : exec (.launchWatchdog q i) s =
    .next (if ((s.queue q.toNat).open_.find? fun c => c.index == i.toNat).isSome && !l.done &&
      (s.lwatch != 0 && decide (800000 * s.lwatch < s.clock - l.committed - s.brkCycles l)) then
        s.terminate (launchKey q.toNat i.toNat) 0x501 else s) := by
  change execLaunchWatchdog q i s = _
  simp only [execLaunchWatchdog, hu, hl]

theorem launchWatchdog_waits {l : Launch} (hl : mfind s.launches (launchKey q.toNat i.toNat) = some l)
    (h : l.done = true ∨ (∀ c ∈ (s.queue q.toNat).open_, c.index ≠ i.toNat) ∨
      s.clock - l.committed - s.brkCycles l ≤ 800000 * s.lwatch) : exec (.launchWatchdog q i) s = .next s := by
  rw [launchWatchdog_launch hu hl]
  refine congrArg _ (if_neg ?_)
  obtain h | h | h := h
  · simp [h]
  · have hnone : (s.queue q.toNat).open_.find? (fun c => c.index == i.toNat) = none :=
      List.find?_eq_none.2 fun c hc => by simpa using h c hc
    simp [hnone]
  · simp [h]

theorem launchWatchdog_ends {l : Launch} (hl : mfind s.launches (launchKey q.toNat i.toNat) = some l) (hd : l.done = false)
    (hc : ∃ c ∈ (s.queue q.toNat).open_, c.index = i.toNat) (hw : s.lwatch ≠ 0)
    (ht : 800000 * s.lwatch < s.clock - l.committed - s.brkCycles l) :
    exec (.launchWatchdog q i) s = .next (s.terminate (launchKey q.toNat i.toNat) 0x501) := by
  rw [launchWatchdog_launch hu hl]
  refine congrArg _ (if_pos ?_)
  obtain ⟨c, hc, hi⟩ := hc
  have hsome : ((s.queue q.toNat).open_.find? fun c => c.index == i.toNat).isSome = true :=
    List.find?_isSome.2 ⟨c, hc, by simpa using hi⟩
  simp [hsome, hd, hw, ht]

/-- A GANGLAUNCH none of whose parts runs here. -/
theorem launchWatchdog_gang {g : GangLaunch} {c : Cmd} (hl : mfind s.launches (launchKey q.toNat i.toNat) = none)
    (hg : s.gangLaunch (launchKey q.toNat i.toNat) = some g)
    (hc : (s.queue g.queue).open_.find? (fun c => c.index == g.index && c.op == 2) = some c) (hr : s.reservations = []) (hd : g.decision = 1)
    (hw : s.lwatch ≠ 0) (ht : 800000 * s.lwatch < s.clock - g.committed) :
    exec (.launchWatchdog q i) s = .next (s.finish g.queue c 3 0x501 0) := by
  change execLaunchWatchdog q i s = _
  simp [execLaunchWatchdog, hu, hl, hg, hc, hr, hd, hw, ht]

end

/-! ## The statement -/

/-- Settles O52, clause by clause: phase one at the coordinator, messages, the decision, replies and reports, timeouts, the parts, repeated
messages, and the watchdog. -/
theorem podWideGangLaunches : Obligations.PodWideGangLaunches := by
  unfold Obligations.PodWideGangLaunches
  refine ⟨?_, ?_, ?_, ?_, ?_, ?_, ?_, ?_⟩
  · rintro q i s _ hu rfl
    refine ⟨ganglaunch_waits hu, fun x b ts r hc hg => ⟨fun hs => ?_, fun e hs he => ?_, fun u v parts hs hp => ⟨fun hm => ?_, fun hm => ?_⟩⟩⟩
    · rw [ganglaunch_claimed hc hg, if_pos hs]
    · rw [ganglaunch_claimed hc hg, if_neg (not_not.2 hs), he]
    · rw [ganglaunch_claimed hc hg, if_neg (not_not.2 hs), hp]
      exact if_pos (by simp [hm])
    · exact ganglaunch_begins hc hg hs hp hm
  · intro s p i
    refine ⟨message_other i, fun h => ?_⟩
    rw [message_own i h]
    exact soon_spec s i
  · intro s id g hg
    exact ⟨fun hd st => ⟨gangCommit_decided hg hd, gangAbort_decided hg hd st⟩, gangCommit_unready hg,
      fun x hd hx hh => ⟨gangCommit_spec hg hd hx hh, gangAbort_spec hg hd hx hh⟩, fun _ => gangFinish_unreported hg,
      fun c hd hr hc => gangFinish_clean hg hd hr hc⟩
  · intro id p s hu
    exact ⟨reply_unknown hu, fun g hg => ⟨reply_no_part hu hg, reply_undecided hu hg, ready_decided hu hg, fun st =>
      ⟨partDoneReport_ignored hu hg st, partDoneReport_noted hu hg st⟩⟩⟩
  · rintro q i p s _ hu rfl
    refine ⟨timeout_unknown hu p, fun g hg => ⟨fun h => ?_, fun h => ?_, partUnreachable_reached hu hg, fun since hl =>
      ⟨partUnreachable_waits hu hg hl, partUnreachable_given_up hu hg hl⟩⟩⟩
    · rw [phaseOneTimeout_eq hu hg, if_neg (by omega)]
    · rw [phaseOneTimeout_eq hu hg, if_pos h]
  · rintro c id p s _ hu rfl
    refine ⟨fun ctx a k r hr hd => prepare_known hu hr hd ctx a k, fun ctx a k hr => ⟨prepare_refused hu hr k, fun u t l hp =>
      ⟨prepare_unplaced hu hr hp k, fun v hv => ?_⟩⟩, decision_without_reservation hu, ?_⟩
    · exact ⟨_, prepare_placed hu hr hp k hv, rfl, _, rfl, rfl, rfl, rfl, rfl, rfl, rfl⟩
    · rintro r _ hr rfl
      obtain ⟨hgone, hlaunch⟩ := release_spec s r
      exact ⟨commit_ended hu hr, commit_started hu hr, commit_starts hu hr, abort_started hu hr,
        fun hs => abort_reserved hu hr hs, hgone, hlaunch⟩
  · intro id p s hu
    refine ⟨fun h => ⟨fun hg => ?_, fun g hg => ⟨fun hp => ?_, fun hp hd => ?_, fun hp hd => ?_⟩⟩, fun r => resend_part hu⟩
    · rw [resend_coordinator hu h, coordinatorRepeats_unknown hg]
    · rw [resend_coordinator hu h, coordinatorRepeats_no_part hg hp]
    · rw [resend_coordinator hu h, coordinatorRepeats_undecided hg hp hd]
    · rw [resend_coordinator hu h, coordinatorRepeats_committed hg hp hd]
  · rintro q i s _ hu rfl
    refine ⟨launchWatchdog_off hu, fun l hl => ⟨launchWatchdog_waits hu hl, fun hd he hc hw ht => ?_⟩,
      fun g c hl hg hc hr hd hw ht => launchWatchdog_gang hu hl hg hc hr hd hw ht⟩
    obtain ⟨hending, hends⟩ := terminate_launch hl hd he 0x501
    exact ⟨_, launchWatchdog_ends hu hl hd hc hw ht, hending, hends⟩

end Sys2Proof.Proofs.Execution
end

section
/-! PROOFS. An instruction of lanes in a lane whose guard fails (R49, R189), and the package after reset (R374). -/

namespace Sys2Proof.Proofs.ThreadState

open Sys2Proof.Machine Sys2Proof.Laws

/-! ## An idle lane -/

/-- An instruction that lanes run by themselves, issued to one of them, which is given an entry where it asks for one (R122). -/
theorem exec_laneWise {i : Instr} {x : Issue} {k l : Nat} {s : State} (hw : LaneWise i) (h : Issued i x k l s) (he : HasEntry i x s) :
    ∃ body, exec i s = .next ((runLane (shapeOf i) body x s k l).ended i x) := by
  obtain ⟨body, hb⟩ := hw x s h.unit
  refine ⟨body, ?_⟩
  rw [hb, State.ended]
  cases hentry : (shapeOf i).entry with
  | true => rw [runLanes_entry h.parts h.lane hentry body s (he hentry), if_pos rfl]
  | false => rw [runLanes_one h.parts h.lane hentry, if_neg (by simp)]

/-- An idle lane's push changes its queue alone. -/
theorem idlePush_eq (t : Thread) (p : Push) : t.idlePush p = { t with q := (t.idlePush p).q } := by
  cases p with
  | none => rfl
  | word d => rfl
  | pair d => unfold Thread.idlePush; dsimp only; split <;> rfl
  | quad d => rfl
  | zeros n => match n with
    | 0 => rfl
    | 1 => rfl
    | _ + 2 => rfl

theorem idlePush_word_q (t : Thread) (d : Nat) : (t.idlePush (.word d)).q = ((if d < 32 then t.reg d else 0) :: t.q).take 16 := rfl

theorem idlePush_pair_q (t : Thread) (d : Nat) : (t.idlePush (.pair d)).q =
    ((if d < 32 then t.reg (d + 1) else 0) :: ((if d < 32 then t.reg d else 0) :: t.q).take 16).take 16 := by
  unfold Thread.idlePush
  dsimp only
  split <;> rfl

/-- The state after an instruction whose guard fails in the lane. -/
def idled (i : Instr) (x : Issue) (k l : Nat) (s : State) : State :=
  (s.past (s.ctxOf x k l)).doneLane (s.ctxOf x k l) fun u => u.idlePush (shapeOf i).push

theorem onlyLane_idled (i : Instr) (x : Issue) (k l : Nat) (s : State) : OnlyLane k l s (idled i x k l s) :=
  onlyLane_trans (onlyLane_modThread k l s _) (onlyLane_doneLane _ (s.ctxOf x k l) _)

/-- An idle lane stands at the next instruction with its push made, and may have stopped there. -/
theorem idled_thread (i : Instr) (x : Issue) (k l : Nat) (s : State) : ∃ st, (idled i x k l s).thread k l =
    { (s.thread k l).advance (s.ctxOf x k l).next with
      q := (((s.thread k l).advance (s.ctxOf x k l).next).idlePush (shapeOf i).push).q, st := st } := by
  obtain ⟨st, h⟩ := doneLane_thread (s.past (s.ctxOf x k l)) (s.ctxOf x k l) fun u => u.idlePush (shapeOf i).push
  refine ⟨st, h.trans ?_⟩
  rw [State.past, State.modThread_thread, idlePush_eq]
  rfl

/-- Settles O16: the lane moves past the instruction and changes its queue alone. -/
theorem idleLanePushes : Obligations.IdleLanePushes := by
  unfold Obligations.IdleLanePushes
  intro i x k l s hw h hentry hidle
  obtain ⟨body, hexec⟩ := exec_laneWise hw h hentry
  rw [runLane_idle h.crew h.legal hidle] at hexec
  obtain ⟨st, hthread⟩ := idled_thread i x k l s
  refine ⟨idled i x k l s, hexec, rfl, onlyLane_idled i x k l s, ?_⟩
  rw [hthread]
  refine ⟨⟨fun _ _ => rfl, fun _ _ => rfl, rfl, rfl, rfl, ⟨rfl, rfl, rfl⟩, ⟨rfl, rfl, rfl, rfl⟩⟩, ⟨rfl, rfl⟩, rfl, rfl,
    fun d hp => ?_, fun d hp => ?_, fun hp => ?_⟩
  · rw [hp, idlePush_word_q]
    rfl
  · rw [hp, idlePush_pair_q]
    rfl
  · rw [hp]
    rfl

/-! ## The package after reset -/

/-- A map that lists nothing gives nothing. -/
theorem mfind_nil {α : Type} (k : Nat) : mfind ([] : Map α) k = none := rfl

/-- Settles O59: every map of the state after reset is empty, so each entry has the value of one that is not listed. -/
theorem resetState : Obligations.ResetState := by
  unfold Obligations.ResetState
  have hranges : ∀ n r, mfind State.reset.ranges n = some r → r.valid = false := fun n r h => by
    rw [show State.reset.ranges = [] from rfl, mfind_nil] at h
    cases h
  have htherm : natBits 0x690000 16 8 = 105 ∧ natBits 0x690000 0 8 = 0 := by decide
  have hthrot : (BitVec.ofNat 32 (105 * 65536)).getLsbD 8 = false := by decide
  exact ⟨⟨rfl, rfl⟩, rfl, fun _ => rfl, fun _ => rfl, fun _ => rfl, hranges, fun _ => ⟨rfl, rfl⟩, fun _ => rfl, mfind_nil, rfl, rfl,
    mfind_nil, mfind_nil, fun _ => ⟨htherm.1, htherm.2, hthrot⟩, rfl⟩

end Sys2Proof.Proofs.ThreadState
end

section
/-! PROOFS. What reading an operand specifier and preparing a destination answer (R48, R51, R54, R55, R58, R172, R173). -/

namespace Sys2Proof.Proofs.ThreadState

open Sys2Proof.Machine Sys2Proof.Laws

variable {c : Ctx} {f : Nat} {s : State}

/-! ## Named registers -/

theorem awaitHold_free {u : Thread} {r : Nat} (h : u.held r = false ∨ c.helper = true) : awaitHold c u r s = .ok ((), s) := by
  rw [awaitHold, if_neg (by obtain h | h := h <;> simp [h])]
  rfl

theorem awaitHold_held {u : Thread} {r : Nat} (h : u.held r = true) (hh : c.helper = false) :
    awaitHold c u r s = .error (.wait { kind := .heldReg, key := r }) := by
  rw [awaitHold, if_pos (by simp [h, hh])]
  rfl

section
variable (hf : f < 32)
include hf

/-- A register that is not held is read and written at once; a helper lane does not wait for one. -/
theorem named_free (h : (s.thread c.crew c.lane).held f = false ∨ c.helper = true) :
    src c f s = .ok ((s.thread c.crew c.lane).reg f, s) ∧ dst c f 1 s = .ok (.named f, s) := by
  constructor
  · simp only [src, bind_run, me_run, if_pos hf, awaitHold_free h, pure_run]
  · simp only [dst, if_pos hf, bind_run, me_run, awaitHold_free h, ite_run, pure_run, if_neg (show ¬ 1 = 2 by decide)]

/-- A held register makes both wait for a put into it. -/
theorem named_held (h : (s.thread c.crew c.lane).held f = true) (hh : c.helper = false) :
    src c f s = .error (.wait { kind := .heldReg, key := f }) ∧ dst c f 1 s = .error (.wait { kind := .heldReg, key := f }) := by
  constructor
  · simp only [src, bind_run, me_run, if_pos hf, awaitHold_held h hh]
  · simp only [dst, if_pos hf, bind_run, me_run, awaitHold_held h hh]

/-- Reading a named register changes nothing. -/
theorem src_named_state {y : Word} {t : State} (hy : src c f s = .ok (y, t)) : t = s := by
  by_cases h : (s.thread c.crew c.lane).held f = false ∨ c.helper = true
  · rw [(named_free hf h).1] at hy
    cases hy
    rfl
  · obtain ⟨hheld, hhelper⟩ := not_or.1 h
    rw [(named_held hf (by simpa using hheld) (by simpa using hhelper)).1] at hy
    cases hy

/-- A pair neither of whose registers is held is read and written at once, the high word in the higher register. -/
theorem pair_free (h : (s.thread c.crew c.lane).held f = false) (h' : (s.thread c.crew c.lane).held (f + 1) = false) :
    srcD c f s = .ok ((s.thread c.crew c.lane).reg (f + 1) ++ (s.thread c.crew c.lane).reg f, s) ∧ dst c f 2 s = .ok (.named f, s) := by
  constructor
  · simp only [srcD, bind_run, me_run, if_pos hf, awaitHold_free (.inl h), awaitHold_free (.inl h'), pure_run, DWord.mk]
  · simp only [dst, if_pos hf, bind_run, me_run, if_true, awaitHold_free (.inl h), awaitHold_free (.inl h'), pure_run]

end

/-! ## The queue and the crew-uniform registers -/

theorem src_queue (h : 32 ≤ f) (h' : f < 48) : src c f s = .ok ((s.thread c.crew c.lane).q.getD (f - 32) 0, s) := by
  simp only [src, bind_run, me_run, if_neg (show ¬ f < 32 by omega), if_pos h', pure_run, Thread.qval, Nat.sub_sub]

theorem srcD_queue (h : 32 ≤ f) (h' : f < 48) : srcD c f s =
    .ok ((s.thread c.crew c.lane).q.getD (f - 32) 0 ++ (s.thread c.crew c.lane).q.getD (f - 31) 0, s) := by
  simp only [srcD, bind_run, me_run, if_neg (show ¬ f < 32 by omega), if_pos h', pure_run, Thread.qval, DWord.mk, Nat.sub_sub]

theorem src_uniform (h : 56 ≤ f) : src c f s = .ok (mget 0 (s.crew c.crew).k (f - 56), s) := by
  simp only [src, bind_run, me_run, if_neg (show ¬ f < 32 by omega), if_neg (show ¬ f < 48 by omega), if_neg (show ¬ f < 56 by omega),
    myCrew_run, pure_run]

theorem srcD_uniform (h : 56 ≤ f) : srcD c f s =
    .ok (mget 0 (s.crew c.crew).k (f - 55) ++ mget 0 (s.crew c.crew).k (f - 56), s) := by
  simp only [srcD, bind_run, me_run, if_neg (show ¬ f < 32 by omega), if_neg (show ¬ f < 48 by omega), if_neg (show ¬ f < 56 by omega),
    myCrew_run, pure_run, DWord.mk]

/-! ## Array words -/

/-- The cursor that a use of an index register reads at: mode 1 steps first (R54). -/
def usedCursor (w : IndexReg) : Nat := if w.mode = 1 then w.stepped.toNat else w.cursor.toNat

/-- The cursor that a use leaves (R54). -/
def nextCursor (w : IndexReg) : BitVec 12 := if w.mode = 0 || w.mode = 1 then w.stepped else w.ringStepped

theorem stepped_eq (w : IndexReg) : w.stepped = w.cursor + BitVec.ofInt 12 w.step.toInt := rfl

/-- Whether the window or the array ends at or below the word at a cursor (R54). -/
def outside (c : Ctx) (w : IndexReg) (cur : Nat) : Prop := w.bound.toNat ≤ cur ∨ c.a ≤ w.base.toNat + cur

/-- A use inside the window and the array names the word at the cursor and steps the index register. -/
theorem arrayUse_inside {i : Nat} {w : IndexReg} (hw : w = (s.thread c.crew c.lane).xreg i) (hm : w.mode ≠ 3)
    (h : ¬ outside c w (usedCursor w)) : arrayUse c i 1 s = .ok (w.base.toNat + usedCursor w,
      s.modThread c.crew c.lane fun u => { u with x := mset u.x i { w with cursor := nextCursor w } }) := by
  subst hw
  simp only [outside, usedCursor] at h
  simp only [arrayUse, bind_run, me_run, ite_run, if_neg hm, pure_run, decide_eq_true_eq, if_neg h, modMe_run]
  rfl

/-- A use outside the window or the array takes the index fault. -/
theorem arrayUse_outside {i : Nat} {w : IndexReg} (hw : w = (s.thread c.crew c.lane).xreg i) (hm : w.mode ≠ 3)
    (h : outside c w (usedCursor w)) (words : Nat) :
    arrayUse c i words s = .error (.trap 0x0E i 0 (BitVec.ofNat 64 (w.base.toNat + usedCursor w)) false) := by
  subst hw
  simp only [outside, usedCursor] at h
  simp only [arrayUse, bind_run, me_run, ite_run, if_neg hm, decide_eq_true_eq, if_pos h, trap_run]
  rfl

section
variable (h : 48 ≤ f) (h' : f < 56)
include h h'

theorem src_array_ok {w : Nat} {t : State} (ha : arrayUse c (f - 48) 1 s = .ok (w, t)) :
    src c f s = .ok ((s.thread c.crew c.lane).word w, t) := by
  simp only [src, bind_run, me_run, if_neg (show ¬ f < 32 by omega), if_neg (show ¬ f < 48 by omega), if_pos h', ha, pure_run]

theorem src_array_stops {e : Stop} (ha : arrayUse c (f - 48) 1 s = .error e) : src c f s = .error e := by
  simp only [src, bind_run, me_run, if_neg (show ¬ f < 32 by omega), if_neg (show ¬ f < 48 by omega), if_pos h', ha]

end

/-- Settles O24, by the range that the specifier lies in. -/
theorem operandReads : Obligations.OperandReads := by
  unfold Obligations.OperandReads
  refine ⟨?_, ?_, ?_, ?_, ?_⟩
  · rintro c f s t _ hf rfl
    exact ⟨named_free hf, named_held hf, fun ⟨h, h'⟩ => pair_free hf h h', fun y => src_named_state hf⟩
  · rintro c f s _ h h' rfl
    exact ⟨src_queue h h', srcD_queue h h'⟩
  · exact fun _ _ _ => rfl
  · exact fun c f s h => ⟨src_uniform h, srcD_uniform h⟩
  · rintro c f s _ w _ h h' rfl hw hm rfl
    refine ⟨fun hb ha => ⟨nextCursor w, ?_, fun hlinear => ?_, fun hring => ?_⟩, fun hout => ?_⟩
    · exact src_array_ok h h' (arrayUse_inside hw hm (not_or.2 ⟨Nat.not_le.2 hb, Nat.not_le.2 ha⟩))
    · rw [nextCursor, if_pos (by simpa using hlinear), stepped_eq]
    · rw [nextCursor, if_neg (by simp [hring])]
      rfl
    · exact src_array_stops h h' (arrayUse_outside hw hm hout 1)

end Sys2Proof.Proofs.ThreadState
end

section
/-! PROOFS. An instruction that reads its operands and then changes its lane, and the system registers: MFS and MTS (R66 to R72, R221). -/

namespace Sys2Proof.Proofs.ThreadState

open Sys2Proof.Machine Sys2Proof.Laws

/-! ## An instruction that reads its operands and then changes its lane -/

/-- The lane has read the operands of an instruction it was issued. -/
def Began (x : Issue) (k l : Nat) (s t : State) : Prop := Stepped (s.ctxOf x k l) (s.begun x k l) t

theorem began_refl (x : Issue) (k l : Nat) (s : State) : Began x k l s (s.begun x k l) := .inl rfl

section
variable {i : Instr} {x : Issue} {k l : Nat} {s s1 : State} (h : Runs i x k l s)
include h

/-- What the computation does to the lane's thread last is what the instruction does. -/
theorem exec_changes {body : Ctx → LaneM Unit} {f : Thread → Thread} (he : (shapeOf i).entry = false)
    (hx : exec i s = .next (runLanes (shapeOf i) (quietly body) s x))
    (hb : body (s.ctxOf x k l) (s.begun x k l) = .ok ((), s1.modThread k l f)) :
    exec i s = .next (s1.doneLane (s.ctxOf x k l) f) := by
  rw [hx, runLanes_one h.parts h.lane he, runLane_ok h.crew h.legal h.guard (quietly_ok hb)]
  rfl

theorem onThreads_lanes (body : Ctx → LaneM After) : onThreads (shapeOf i) body s = .next (runLanes (shapeOf i) body s x) := by
  rw [onThreads, h.unit]

end

section
variable {x : Issue} {k l : Nat} {s s1 : State} (h : Began x k l s s1)
include h

theorem Began.onlyLane : OnlyLane k l s s1 :=
  onlyLane_trans (onlyLane_begun s x k l) (Stepped.onlyLane (c := s.ctxOf x k l) h)

theorem Began.onlyLane_done (f : Thread → Thread) : OnlyLane k l s (s1.doneLane (s.ctxOf x k l) f) :=
  onlyLane_trans h.onlyLane (onlyLane_doneLane s1 (s.ctxOf x k l) f)

theorem Began.kept : Kept (s.thread k l) (s1.thread k l) :=
  Stepped.trans_kept (c := s.ctxOf x k l) (kept_begun s x k l) h

end

/-! ## System registers -/

theorem wideSelector_iff (q : BitVec 7) : wideSelector q = true ↔ q ∈ [0x00#7, 0x06#7, 0x07#7, 0x11#7, 0x12#7] := by
  simp [wideSelector, or_assoc]

/-- A 32-bit system register stands in the low word. -/
theorem lo_setWidth (x : Word) : DWord.lo (x.setWidth 64) = x := by
  rw [DWord.lo, BitVec.setWidth_setWidth_of_le _ (by decide), BitVec.setWidth_eq]

/-- What MFS does to its lane once its destination is prepared in the state `t`. -/
def mfsResult (q : BitVec 7) (c : Ctx) (pl : Place_) (t : State) (u : Thread) : Thread :=
  if wideSelector q then u.giveD pl (t.sysReg c q.toNat) else u.giveW pl (t.sysReg c q.toNat).lo

theorem exec_mfs {q : BitVec 7} {d : BitVec 6} {n : BitVec 1} {p : BitVec 4} {x : Issue} {k l : Nat} {s s1 : State} {pl : Place_}
    (h : Runs (.mfs q d n p) x k l s)
    (hd : dst (s.ctxOf x k l) d.toNat (if wideSelector q then 2 else 1) (s.begun x k l) = .ok (pl, s1)) :
    exec (.mfs q d n p) s = .next (s1.doneLane (s.ctxOf x k l) (mfsResult q (s.ctxOf x k l) pl s1)) := by
  refine exec_changes h (body := fun c => do
      let pl ← dst c d.toNat (if wideSelector q then 2 else 1)
      let s ← get
      if wideSelector q then putD c pl (s.sysReg c q.toNat) else put c pl (s.sysReg c q.toNat).lo) rfl ?_ ?_
  · change execMfs q d n p s = _
    rw [execMfs, h.unit]
  · simp only [bind_run, hd, get_run, ite_run, putD, put, modMe_run]
    unfold mfsResult
    cases wideSelector q <;> rfl

/-- The registers that MTS writes from 32 bits (R71, R72). -/
def mtsResult (q : BitVec 7) (y : Word) (u : Thread) : Thread :=
  if q = 4 then { u with fpstat := y &&& 0x3F } else { u with fpctl := fpctlWrite u.fpctl y }

/-- What MTS computes in a lane. -/
def mtsBody (q : BitVec 7) (a : BitVec 6) (c : Ctx) : LaneM Unit := do
  if q = 6 then do
    let y ← srcD c a.toNat
    modMe c fun t => { t with seed := y }
  else do
    let y ← src c a.toNat
    modMe c (mtsResult q y)

section
variable {q : BitVec 7} {a : BitVec 6} {n : BitVec 1} {p : BitVec 4} {x : Issue} {k l : Nat} {s s1 : State}

theorem exec_mts_lanes (h : Runs (.mts q a n p) x k l s) :
    exec (.mts q a n p) s = .next (runLanes (shapeOf (.mts q a n p)) (quietly (mtsBody q a)) s x) := by
  change execMts q a n p s = _
  rw [execMts, h.unit]
  rfl

theorem exec_mts {y : Word} (h : Runs (.mts q a n p) x k l s) (hq : q ≠ 6) (hs : src (s.ctxOf x k l) a.toNat (s.begun x k l) = .ok (y, s1)) :
    exec (.mts q a n p) s = .next (s1.doneLane (s.ctxOf x k l) (mtsResult q y)) := by
  refine exec_changes h rfl (exec_mts_lanes h) ?_
  rw [mtsBody, if_neg hq, bind_run, hs]
  rfl

theorem exec_mts_seed {y : DWord} (h : Runs (.mts 6 a n p) x k l s) (hs : srcD (s.ctxOf x k l) a.toNat (s.begun x k l) = .ok (y, s1)) :
    exec (.mts 6 a n p) s = .next (s1.doneLane (s.ctxOf x k l) fun u => { u with seed := y }) := by
  refine exec_changes h rfl (exec_mts_lanes h) ?_
  rw [mtsBody, if_pos rfl, bind_run, hs]
  rfl

end

/-- MGOV shows the low seven bits of the budget (R305). -/
theorem natBits_mgov (w : Cluster) : natBits (w.mgov.setWidth 64).toNat 0 7 = natBits w.budget 0 7 := by
  simp only [Cluster.mgov, natBits, BitVec.toNat_setWidth, BitVec.toNat_ofNat]
  omega

theorem toNat_setWidth_wide (x : Word) : (x.setWidth 64).toNat % 2 ^ 32 = x.toNat := by
  rw [BitVec.toNat_setWidth_of_le (by decide), Nat.mod_eq_of_lt x.isLt]

/-! ## FPCTL -/

/-- RM is the low three bits of FPCTL (R71). -/
theorem rm_eq (x : Word) : natBits x.toNat 0 3 = (x &&& 7#32).toNat := by
  rw [BitVec.toNat_and, natBits, pow_zero, Nat.div_one]
  exact (Nat.and_two_pow_sub_one_eq_mod _ 3).symm

/-- The bits of a write that FPCTL can take hold its RM. -/
theorem rm_writable (y : Word) : (y &&& 0x3FC7#32) &&& 7#32 = y &&& 7#32 := by
  rw [BitVec.and_assoc]
  rfl

theorem fpctlWrite_valid {y : Word} (old : Word) (h : natBits y.toNat 0 3 < 5) : fpctlWrite old y = y &&& 0x3FC7#32 := by
  unfold fpctlWrite
  dsimp only
  rw [if_neg]
  rw [rm_eq, rm_writable, ← rm_eq]
  omega

theorem fpctlWrite_invalid {y : Word} (old : Word) (h : 5 ≤ natBits y.toNat 0 3) :
    fpctlWrite old y = ((y &&& 0x3FC7#32) &&& ~~~7#32) ||| (old &&& 7#32) := by
  unfold fpctlWrite
  dsimp only
  rw [if_pos]
  rw [rm_eq, rm_writable, ← rm_eq]
  exact h

theorem rm_fpctlWrite_valid {y : Word} (old : Word) (h : natBits y.toNat 0 3 < 5) :
    natBits (fpctlWrite old y).toNat 0 3 = natBits y.toNat 0 3 := by
  rw [fpctlWrite_valid old h, rm_eq, rm_writable, ← rm_eq]

theorem rm_fpctlWrite_invalid {y : Word} (old : Word) (h : 5 ≤ natBits y.toNat 0 3) :
    natBits (fpctlWrite old y).toNat 0 3 = natBits old.toNat 0 3 := by
  rw [fpctlWrite_invalid old h, rm_eq, rm_eq]
  congr 1
  ext i hi
  simp only [BitVec.getElem_and, BitVec.getElem_or, BitVec.getElem_not]
  cases (7#32)[i] <;> simp

/-- Beside RM a word has only the bits 13 to 6 where a write can reach them (R71). -/
theorem getLsbD_writable {i : Nat} (hi : 3 ≤ i) :
    (7#32).getLsbD i = false ∧ (0x3FC7#32).getLsbD i = decide (6 ≤ i ∧ i < 14) := by
  by_cases h : i < 32
  · have hall : ∀ i : Fin 32, 3 ≤ i.val → (7#32).getLsbD i = false ∧ (0x3FC7#32).getLsbD i = decide (6 ≤ i.val ∧ i.val < 14) := by decide
    exact hall ⟨i, h⟩ hi
  · rw [BitVec.getLsbD_of_ge _ _ (by omega), BitVec.getLsbD_of_ge _ _ (by omega)]
    exact ⟨rfl, by simp; omega⟩

theorem getLsbD_fpctlWrite (old y : Word) {i : Nat} (hi : 3 ≤ i) :
    (fpctlWrite old y).getLsbD i = (y.getLsbD i && decide (6 ≤ i ∧ i < 14)) := by
  obtain ⟨hrm, hwritable⟩ := getLsbD_writable hi
  obtain h | h := Nat.lt_or_ge (natBits y.toNat 0 3) 5
  · rw [fpctlWrite_valid old h, BitVec.getLsbD_and, hwritable]
  · rw [fpctlWrite_invalid old h]
    by_cases h32 : i < 32
    · simp only [BitVec.getLsbD_or, BitVec.getLsbD_and, BitVec.getLsbD_not, hrm, hwritable, h32, decide_true, Bool.not_false,
        Bool.and_true, Bool.and_false, Bool.or_false]
    · simp [BitVec.getLsbD_of_ge _ _ (Nat.le_of_not_lt h32)]

/-- Settles O37: MFS puts what State.sysReg gives at its destination, MTS changes the one register, and FPCTL takes its fields. -/
theorem systemRegisterMoves : Obligations.SystemRegisterMoves := by
  unfold Obligations.SystemRegisterMoves
  refine ⟨?_, wideSelector_iff, ?_, ?_, ?_, fun old y => ⟨rm_fpctlWrite_valid old, rm_fpctlWrite_invalid old,
    fun i => getLsbD_fpctlWrite old y⟩⟩
  · rintro q d n p x k l s _ s1 pl h rfl hd
    have hb : Began x k l s s1 := (dst_ok hd).1
    refine ⟨_, exec_mfs h hd, hb.onlyLane_done _, ?_, rfl⟩
    unfold mfsResult
    cases wideSelector q with
    | true => exact (frame_giveD pl _ hb.onlyLane hb.kept).2.1
    | false => exact (frame_giveW pl _ hb.onlyLane hb.kept).2.1
  · rintro s c _ _ rfl rfl
    refine ⟨rfl, lo_setWidth _, lo_setWidth _, lo_setWidth _, rfl, rfl, lo_setWidth _, natBits_mgov _, lo_setWidth _, lo_setWidth _, rfl, rfl,
      ?_, ?_⟩
    · exact (toNat_setWidth_wide _).trans (BitVec.toNat_ofNat ..)
    · exact (toNat_setWidth_wide _).trans (BitVec.toNat_ofNat ..)
  · intro e he a n p x k l s c s1 y h hc hs
    subst hc
    have hb : Began x k l s s1 := src_ok hs
    simp only [List.mem_cons, List.not_mem_nil, or_false] at he
    obtain rfl | rfl := he
    · exact ⟨_, exec_mts h (by decide) hs, hb.onlyLane_done _, rfl⟩
    · exact ⟨_, exec_mts h (by decide) hs, hb.onlyLane_done _, rfl⟩
  · rintro a n p x k l s _ s1 y h rfl hs
    have hb : Began x k l s s1 := srcD_ok hs
    exact ⟨_, exec_mts_seed h hs, hb.onlyLane_done _, rfl⟩

end Sys2Proof.Proofs.ThreadState
end

section
/-! PROOFS. Index registers and holds: XSET, XGET, XSTEP, XCUR and HOLD (R51, R53, R54, R211, R270). -/

namespace Sys2Proof.Proofs.ThreadState

open Sys2Proof.Machine Sys2Proof.Laws

/-! ## The image of an index register -/

/-- A field of a 64-bit image as a number. -/
theorem extract_toNat (y : DWord) (lo n : Nat) : (y.extractLsb' lo n).toNat = natBits y.toNat lo n := by
  rw [BitVec.extractLsb'_toNat, Nat.shiftRight_eq_div_pow]
  rfl

/-- The widths of the fields (R53). -/
theorem fields_lt (w : IndexReg) : w.base.toNat < 2 ^ 11 ∧ w.bound.toNat < 2 ^ 12 ∧ w.cursor.toNat < 2 ^ 12 ∧ w.step.toNat < 2 ^ 4 ∧
    w.mode.toNat < 2 ^ 2 := ⟨w.base.isLt, w.bound.isLt, w.cursor.isLt, w.step.isLt, w.mode.isLt⟩

/-- The image as a number: no field reaches into the next (R53). -/
theorem image_toNat (w : IndexReg) : w.image.toNat =
    w.base.toNat + 2 ^ 11 * w.bound.toNat + 2 ^ 23 * w.cursor.toNat + 2 ^ 35 * w.step.toNat + 2 ^ 39 * w.mode.toNat := by
  obtain ⟨hbase, hbound, hcursor, hstep, hmode⟩ := fields_lt w
  rw [IndexReg.image, BitVec.toNat_ofNat]
  exact Nat.mod_eq_of_lt (by omega)

theorem image_lt (w : IndexReg) : w.image.toNat < 2 ^ 41 := by
  obtain ⟨hbase, hbound, hcursor, hstep, hmode⟩ := fields_lt w
  rw [image_toNat]
  omega

theorem ofImage_image (w : IndexReg) : IndexReg.ofImage w.image = w := by
  obtain ⟨hbase, hbound, hcursor, hstep, hmode⟩ := fields_lt w
  have field : ∀ {lo n : Nat} {v : BitVec n}, natBits w.image.toNat lo n = v.toNat → w.image.extractLsb' lo n = v :=
    fun h => BitVec.eq_of_toNat_eq ((extract_toNat _ _ _).trans h)
  rw [image_toNat] at field
  rw [IndexReg.ofImage, field (lo := 0) (v := w.base) (by unfold natBits; omega), field (lo := 11) (v := w.bound) (by unfold natBits; omega),
    field (lo := 23) (v := w.cursor) (by unfold natBits; omega), field (lo := 35) (v := w.step) (by unfold natBits; omega),
    field (lo := 39) (v := w.mode) (by unfold natBits; omega)]

/-! ## Steps -/

/-- XSTEP moves the cursor and leaves the rest of the register (R211). -/
theorem moved_eq (w : IndexReg) (n : Int) : w.moved n = { w with cursor := (w.moved n).cursor } := by
  unfold IndexReg.moved
  dsimp only
  split
  · rfl
  · split <;> rfl

theorem moved_linear {w : IndexReg} (n : Int) (h : w.mode = 0 ∨ w.mode = 1) :
    (w.moved n).cursor = BitVec.ofInt 12 (w.cursor.toNat + w.step.toInt * n) := by
  unfold IndexReg.moved
  dsimp only
  rw [if_pos h]

theorem moved_ring {w : IndexReg} (n : Int) (h : w.mode = 2) (hb : w.bound ≠ 0) :
    (w.moved n).cursor = BitVec.ofInt 12 ((w.cursor.toNat + w.step.toInt * n) % w.bound.toNat) := by
  unfold IndexReg.moved
  dsimp only
  rw [if_neg (by simp [h]), if_pos ⟨h, hb⟩]

theorem moved_reserved {w : IndexReg} (n : Int) (h : w.mode = 3) : (w.moved n).cursor = w.cursor := by
  unfold IndexReg.moved
  dsimp only
  rw [if_neg (by simp [h]), if_neg (by simp [h])]

/-! ## The instructions -/

/-- Moving past an instruction leaves the index registers. -/
theorem begun_xreg (s : State) (x : Issue) (k l j : Nat) : ((s.begun x k l).thread k l).xreg j = (s.thread k l).xreg j := by
  rw [State.begun, State.modThread_thread, State.past, show (s.ctxOf x k l).crew = k from rfl, show (s.ctxOf x k l).lane = l from rfl,
    State.modThread_thread]
  rfl

section
variable {i : BitVec 4} {a d : BitVec 6} {q : BitVec 3} {n : BitVec 1} {p : BitVec 4} {x : Issue} {k l : Nat} {s s1 : State}

theorem exec_xset {y : DWord} (h : Runs (.xset i a q n p) x k l s) (hs : srcD (s.ctxOf x k l) a.toNat (s.begun x k l) = .ok (y, s1)) :
    exec (.xset i a q n p) s =
      .next (s1.doneLane (s.ctxOf x k l) fun u => { u with x := mset u.x q.toNat (.ofImage y) }) := by
  refine exec_changes h rfl (onThreads_lanes h _) ?_
  rw [bind_run, hs]
  rfl

theorem exec_xget {pl : Place_} (h : Runs (.xget i q d n p) x k l s) (hd : dst (s.ctxOf x k l) d.toNat 2 (s.begun x k l) = .ok (pl, s1)) :
    exec (.xget i q d n p) s =
      .next (s1.doneLane (s.ctxOf x k l) fun u => u.giveD pl ((s.thread k l).xreg q.toNat).image) := by
  refine exec_changes h rfl (onThreads_lanes h _) ?_
  rw [bind_run, me_run]
  dsimp only
  rw [bind_run, hd, ← begun_xreg s x]
  rfl

theorem exec_xstep {y : Word} (h : Runs (.xstep i a q n p) x k l s) (hs : src (s.ctxOf x k l) a.toNat (s.begun x k l) = .ok (y, s1)) :
    exec (.xstep i a q n p) s =
      .next (s1.doneLane (s.ctxOf x k l) fun u => { u with x := mset u.x q.toNat ((u.xreg q.toNat).moved y.toInt) }) := by
  refine exec_changes h rfl (onThreads_lanes h _) ?_
  rw [bind_run, hs]
  rfl

theorem exec_xcur {y : Word} (h : Runs (.xcur i a q n p) x k l s) (hs : src (s.ctxOf x k l) a.toNat (s.begun x k l) = .ok (y, s1)) :
    exec (.xcur i a q n p) s = .next (s1.doneLane (s.ctxOf x k l) fun u =>
      { u with x := mset u.x q.toNat { u.xreg q.toNat with cursor := BitVec.ofNat 12 y.toNat } }) := by
  refine exec_changes h rfl (onThreads_lanes h _) ?_
  rw [bind_run, hs]
  rfl

theorem exec_hold (h : Runs (.hold i d n p) x k l s) : exec (.hold i d n p) s = .next ((s.begun x k l).doneLane (s.ctxOf x k l) fun u =>
    { u with hold := u.hold ||| bitOf d.toNat, holdNow := u.holdNow ||| bitOf d.toNat }) :=
  exec_changes h rfl (onThreads_lanes h _) rfl

end

/-- A lane's change depends only on what it makes of the lane's thread. -/
theorem doneLane_congr {s : State} {c : Ctx} {f g : Thread → Thread} (h : f (s.thread c.crew c.lane) = g (s.thread c.crew c.lane)) :
    s.doneLane c f = s.doneLane c g := by
  rw [State.doneLane, State.modThread, h]
  rfl

/-- Settles O38: each instruction changes its one index register or hold bit, by what the image and the step of a register are. -/
theorem indexRegistersAndHolds : Obligations.IndexRegistersAndHolds := by
  unfold Obligations.IndexRegistersAndHolds
  refine ⟨?_, ?_, fun w => ⟨ofImage_image w, image_lt w⟩, ?_, ?_, ?_⟩
  · rintro i a q n p x k l s _ s1 y h rfl hs
    have hb : Began x k l s s1 := srcD_ok hs
    exact ⟨_, .ofImage y, exec_xset h hs, hb.onlyLane_done _, rfl, extract_toNat .., extract_toNat .., extract_toNat .., extract_toNat ..,
      extract_toNat ..⟩
  · rintro i q d n p x k l s _ s1 pl h rfl hd
    have hb : Began x k l s s1 := (dst_ok hd).1
    exact ⟨_, exec_xget h hd, hb.onlyLane_done _, (frame_giveD pl _ hb.onlyLane hb.kept).2.1, rfl⟩
  · rintro i a q n p x k l s _ s1 y w h rfl hs rfl
    have hb : Began x k l s s1 := src_ok hs
    exact ⟨_, _, exec_xstep h hs, hb.onlyLane_done _, doneLane_congr (by rw [← moved_eq]; rfl), moved_linear _, moved_ring _, moved_reserved _⟩
  · rintro i a q n p x k l s _ s1 y h rfl hs
    have hb : Began x k l s s1 := src_ok hs
    exact ⟨_, exec_xcur h hs, hb.onlyLane_done _, rfl⟩
  · rintro i d n p x k l s _ h rfl
    exact ⟨_, exec_hold h, (began_refl x k l s).onlyLane_done _, rfl⟩

end Sys2Proof.Proofs.ThreadState
end

section
/-! PROOFS. Capabilities: what the derivations leave of a capability's fields and bounds (R98, R99, R265, R266). -/

namespace Sys2Proof.Proofs.MemorySpaces

open Sys2Proof.Machine

/-! ## Fields of a number -/

theorem natBits_lt (x lo n : Nat) : natBits x lo n < 2 ^ n := Nat.mod_lt _ (by positivity)

/-- A field depends on the bits below its end only. -/
theorem natBits_of_mod_eq {x y lo n m : Nat} (h : lo + n ≤ m) (e : x % 2 ^ m = y % 2 ^ m) : natBits x lo n = natBits y lo n := by
  have cut : ∀ z, natBits z lo n = z % 2 ^ m % 2 ^ (lo + n) / 2 ^ lo := fun z => by
    rw [Nat.mod_mod_of_dvd z (Nat.pow_dvd_pow 2 h), pow_add, Nat.mod_mul_right_div_self, natBits]
  rw [cut, cut, e]

/-- A field depends on the bits from its start on only. -/
theorem natBits_of_div_eq {x y lo n m : Nat} (h : m ≤ lo) (e : x / 2 ^ m = y / 2 ^ m) : natBits x lo n = natBits y lo n := by
  obtain ⟨d, rfl⟩ := Nat.exists_eq_add_of_le h
  rw [natBits, natBits, pow_add, ← Nat.div_div_eq_div_mul, ← Nat.div_div_eq_div_mul, e]

/-- A number is what lies below a field, the field, and what lies above it. -/
theorem natBits_split (b lo n : Nat) : b = b % 2 ^ lo + 2 ^ lo * natBits b lo n + 2 ^ (lo + n) * (b / 2 ^ (lo + n)) := by
  have hlow := Nat.mod_add_div b (2 ^ lo)
  have hhigh := Nat.mod_add_div (b / 2 ^ lo) (2 ^ n)
  rw [Nat.div_div_eq_div_mul, ← pow_add] at hhigh
  rw [natBits, pow_add 2 lo n, mul_assoc, add_assoc, ← mul_add, ← pow_add, hhigh, hlow]

/-! ## Replacing a field -/

section
variable (c : Cap) {lo n : Nat} (x : Nat) (h : lo + n ≤ 128)
include h

theorem set_toNat : (c.set lo n x).bits.toNat =
    c.bits.toNat % 2 ^ lo + 2 ^ lo * (x % 2 ^ n) + 2 ^ (lo + n) * (c.bits.toNat / 2 ^ (lo + n)) := by
  have hsplit := natBits_split c.bits.toNat lo n
  have hfit : c.bits.toNat % 2 ^ lo + 2 ^ lo * (x % 2 ^ n) + 2 ^ (lo + n) * (c.bits.toNat / 2 ^ (lo + n)) < 2 ^ 128 := by
    have hlow : c.bits.toNat % 2 ^ lo < 2 ^ lo := Nat.mod_lt _ (by positivity)
    have hval : 2 ^ lo * (x % 2 ^ n + 1) ≤ 2 ^ lo * 2 ^ n := Nat.mul_le_mul_left _ (Nat.mod_lt _ (by positivity))
    have hhigh : c.bits.toNat / 2 ^ (lo + n) < 2 ^ (128 - (lo + n)) := by
      rw [Nat.div_lt_iff_lt_mul (by positivity), ← pow_add, Nat.sub_add_cancel h]
      exact c.bits.isLt
    have htop : 2 ^ (lo + n) * (c.bits.toNat / 2 ^ (lo + n) + 1) ≤ 2 ^ 128 := by
      calc 2 ^ (lo + n) * (c.bits.toNat / 2 ^ (lo + n) + 1) ≤ 2 ^ (lo + n) * 2 ^ (128 - (lo + n)) := Nat.mul_le_mul_left _ hhigh
        _ = 2 ^ 128 := by rw [← pow_add, Nat.add_sub_cancel' h]
    rw [mul_add, mul_one] at hval htop
    rw [← pow_add] at hval
    omega
  rw [Cap.set, BitVec.toNat_ofNat]
  refine (congrArg (· % 2 ^ 128) ?_).trans (Nat.mod_eq_of_lt hfit)
  rw [mul_comm (natBits _ _ _), mul_comm (x % 2 ^ n)]
  omega

/-- A field reads as it was set. -/
theorem f_set_same : (c.set lo n x).f lo n = x % 2 ^ n := by
  have hv : x % 2 ^ n < 2 ^ n := Nat.mod_lt _ (by positivity)
  have hlow : c.bits.toNat % 2 ^ lo < 2 ^ lo := Nat.mod_lt _ (by positivity)
  rw [Cap.f, set_toNat c x h, natBits, pow_add, mul_assoc, add_assoc, ← mul_add, Nat.add_mul_div_left _ _ (by positivity),
    Nat.div_eq_of_lt hlow, zero_add, Nat.add_mul_mod_self_left, Nat.mod_eq_of_lt hv]

/-- Fields below the one set are as before. -/
theorem f_set_below {lo' n' : Nat} (h' : lo' + n' ≤ lo) : (c.set lo n x).f lo' n' = c.f lo' n' := by
  refine natBits_of_mod_eq h' ?_
  rw [set_toNat c x h, pow_add, mul_assoc, add_assoc, ← mul_add, Nat.add_mul_mod_self_left, Nat.mod_mod]

/-- Fields above the one set are as before. -/
theorem f_set_above {lo' n' : Nat} (h' : lo + n ≤ lo') : (c.set lo n x).f lo' n' = c.f lo' n' := by
  have hlow : c.bits.toNat % 2 ^ lo < 2 ^ lo := Nat.mod_lt _ (by positivity)
  have hval : 2 ^ lo * (x % 2 ^ n + 1) ≤ 2 ^ lo * 2 ^ n := Nat.mul_le_mul_left _ (Nat.mod_lt _ (by positivity))
  rw [mul_add, mul_one, ← pow_add] at hval
  refine natBits_of_div_eq h' ?_
  rw [set_toNat c x h, Nat.add_mul_div_left _ _ (by positivity), Nat.div_eq_of_lt (by omega), zero_add]

end

/-! ## Bounds -/

/-- Bounds follow from ADDR, EXP, BM and TM (R99). -/
theorem bounds_congr {c d : Cap} (ha : d.f 0 64 = c.f 0 64) (he : d.exp = c.exp) (hb : d.f 88 18 = c.f 88 18)
    (ht : d.f 106 18 = c.f 106 18) : d.bounds = c.bounds := by
  simp only [Cap.bounds, ha, he, hb, ht]

/-- The middle bits of an address are below BM where the address lies before the base in its block. -/
theorem natBits_lt_iff (a e m : Nat) : natBits a e 18 < m ↔ (a : Int) % 2 ^ (e + 18) < m * 2 ^ e := by
  rw [natBits, ← Nat.mod_mul_right_div_self, ← pow_add, Nat.div_lt_iff_lt_mul (by positivity)]
  norm_cast

/-- The block that an address belongs to begins at most a block's length before it. -/
theorem block_eq {a w m : Int} (hm : 0 ≤ m) (hw : m < w) : (if a % w < m then a / w * w - w else a / w * w) = (a - m) / w * w := by
  have hsplit := Int.mul_ediv_add_emod a w
  have hlt := Int.emod_lt_of_pos a (hm.trans_lt hw)
  have hge := Int.emod_nonneg a (hm.trans_lt hw).ne'
  have quotient : ∀ {q r : Int}, a - m = r + w * q → 0 ≤ r → r < w → (a - m) / w = q :=
    fun e h0 h1 => ((Int.ediv_emod_unique (hm.trans_lt hw)).2 ⟨e.symm, h0, h1⟩).1
  split
  · rw [quotient (q := a / w - 1) (r := a % w - m + w) (by linarith) (by linarith) (by linarith)]
    ring
  · rw [quotient (q := a / w) (r := a % w - m) (by linarith) (by linarith) (by linarith)]

/-- The bounds where they are not the whole space (R99): the base lies in the block that begins before the address. -/
theorem bounds_eq {c : Cap} (h : c.exp < 47) {w m t blk : Int} (hw : w = 2 ^ (c.exp + 18)) (hm : m = c.f 88 18 * 2 ^ c.exp)
    (ht : t = c.f 106 18 * 2 ^ c.exp) (hblk : blk = (c.f 0 64 - m) / w * w) :
    c.bounds = (blk + m, if c.f 106 18 < c.f 88 18 then blk + t + w else blk + t) := by
  have hb : (c.f 88 18 : Int) < 2 ^ 18 := by exact_mod_cast natBits_lt c.bits.toNat 88 18
  have hmw : m < w := by
    rw [hm, hw, pow_add, mul_comm]
    exact mul_lt_mul_of_pos_left hb (by positivity)
  have hm0 : 0 ≤ m := hm ▸ mul_nonneg (Int.natCast_nonneg _) (pow_nonneg (by decide) _)
  subst hblk
  rw [← block_eq hm0 hmw]
  simp only [Cap.bounds, if_neg (Nat.not_le.2 h), natBits_lt_iff, ← hw, ← hm, ← ht]

theorem bounds_whole {c : Cap} (h : 47 ≤ c.exp) : c.bounds = (0, 2 ^ 64) := if_pos h

/-! ## CAPSET.a -/

theorem setAddr_f_same (c : Cap) (y : Nat) : (c.setAddr y).f 0 64 = y % 2 ^ 64 := f_set_same c y (by decide)

theorem setAddr_f_other (c : Cap) (y : Nat) {lo n : Nat} (h : 64 ≤ lo) : (c.setAddr y).f lo n = c.f lo n := f_set_above c y (by decide) h

/-- An address within a block's length of the base leaves the block and so the bounds (R99). -/
theorem setAddr_bounds {c : Cap} {y : Nat} (hy : y < 2 ^ 64) (h : c.covers y = true) : (c.setAddr y).bounds = c.bounds := by
  have hexp : (c.setAddr y).exp = c.exp := setAddr_f_other c y (by decide)
  obtain hlt | hge := Nat.lt_or_ge c.exp 47
  · have hbm : (c.setAddr y).f 88 18 = c.f 88 18 := setAddr_f_other c y (by decide)
    have htm : (c.setAddr y).f 106 18 = c.f 106 18 := setAddr_f_other c y (by decide)
    have haddr : (c.setAddr y).f 0 64 = y := (setAddr_f_same c y).trans (Nat.mod_eq_of_lt hy)
    have hc := bounds_eq hlt rfl rfl rfl rfl
    rw [bounds_eq (c := c.setAddr y) (hexp.symm ▸ hlt) rfl rfl rfl rfl, hexp, hbm, htm, haddr]
    rw [Cap.covers, if_neg (Nat.not_le.2 hlt), hc] at h
    simp only [Bool.and_eq_true, decide_eq_true_eq] at h
    rw [hc]
    have hw : (0 : Int) < 2 ^ (c.exp + 18) := by positivity
    generalize (2 : Int) ^ (c.exp + 18) = w at h hw ⊢
    generalize (c.f 88 18 : Int) * 2 ^ c.exp = m at h ⊢
    have hblock : ((y : Int) - m) / w = (c.f 0 64 - m) / w :=
      ((Int.ediv_emod_unique hw).2 ⟨by rw [mul_comm]; exact sub_add_cancel _ _, by linarith [h.1], by linarith [h.2]⟩).1
    rw [hblock]
  · rw [bounds_whole hge, bounds_whole (hexp.symm ▸ hge)]

/-! ## CAPSET.b -/

/-- A capability with the bounds fields EXP, BM and TM set. -/
def narrowed (c : Cap) (e bm tm : Nat) : Cap := ((c.set 82 6 e).set 88 18 bm).set 106 18 tm

section
variable (c : Cap) (e bm tm : Nat)

theorem narrowed_f_below {lo n : Nat} (h : lo + n ≤ 82) : (narrowed c e bm tm).f lo n = c.f lo n := by
  rw [narrowed, f_set_below _ _ (by decide) (by omega), f_set_below _ _ (by decide) (by omega), f_set_below _ _ (by decide) h]

theorem narrowed_f_above {lo n : Nat} (h : 124 ≤ lo) : (narrowed c e bm tm).f lo n = c.f lo n := by
  rw [narrowed, f_set_above _ _ (by decide) h, f_set_above _ _ (by decide) (by omega), f_set_above _ _ (by decide) (by omega)]

theorem narrowed_exp : (narrowed c e bm tm).exp = e % 2 ^ 6 := by
  rw [Cap.exp, narrowed, f_set_below _ _ (by decide) (by decide), f_set_below _ _ (by decide) (by decide), f_set_same _ _ (by decide)]

theorem narrowed_bm : (narrowed c e bm tm).f 88 18 = bm % 2 ^ 18 := by
  rw [narrowed, f_set_below _ _ (by decide) (by decide), f_set_same _ _ (by decide)]

theorem narrowed_tm : (narrowed c e bm tm).f 106 18 = tm % 2 ^ 18 := by
  rw [narrowed, f_set_same _ _ (by decide)]

end

/-- What a field of 18 bits holds of the top decodes to the top, where it lies less than a block above the base. -/
theorem top_decodes {x y : Nat} (h : x ≤ y) (hlt : y < x + 2 ^ 18) :
    y = if y % 2 ^ 18 < x % 2 ^ 18 then x / 2 ^ 18 * 2 ^ 18 + y % 2 ^ 18 + 2 ^ 18 else x / 2 ^ 18 * 2 ^ 18 + y % 2 ^ 18 := by
  split <;> omega

/-- The bounds fields decode to the base and top that they were set from (R99, R266). -/
theorem narrowed_bounds {c : Cap} {e x y : Nat} (he : e < 47) (hx : x = c.f 0 64 / 2 ^ e) (hxy : x ≤ y) (hlt : y < x + 2 ^ 18) :
    (narrowed c e x y).bounds = (((x * 2 ^ e : Nat) : Int), ((y * 2 ^ e : Nat) : Int)) := by
  have hexp : (narrowed c e x y).exp = e := by rw [narrowed_exp, Nat.mod_eq_of_lt (by omega)]
  have hu : 0 < 2 ^ e := by positivity
  have haddr : c.f 0 64 = 2 ^ e * x + c.f 0 64 % 2 ^ e := by rw [hx, Nat.div_add_mod]
  have hrem : c.f 0 64 % 2 ^ e < 2 ^ e := Nat.mod_lt _ hu
  have hblock : ((c.f 0 64 : Int) - (x % 2 ^ 18 : Nat) * 2 ^ e) / 2 ^ (e + 18) = (x / 2 ^ 18 : Nat) := by
    refine ((Int.ediv_emod_unique (by positivity)).2 ⟨?_, Int.natCast_nonneg (c.f 0 64 % 2 ^ e), ?_⟩).1
    · have hsplit : ((x / 2 ^ 18 : Nat) : Int) * 2 ^ 18 + (x % 2 ^ 18 : Nat) = x := by exact_mod_cast Nat.div_add_mod' x (2 ^ 18)
      have haddr' : (c.f 0 64 : Int) = 2 ^ e * x + (c.f 0 64 % 2 ^ e : Nat) := by exact_mod_cast haddr
      rw [haddr', ← hsplit, pow_add]
      ring
    · have : 2 ^ e ≤ 2 ^ (e + 18) := Nat.pow_le_pow_right (by decide) (by omega)
      exact_mod_cast hrem.trans_le this
  rw [bounds_eq (c := narrowed c e x y) (hexp.symm ▸ he) rfl rfl rfl rfl, hexp, narrowed_bm, narrowed_tm, narrowed_f_below _ _ _ _ (by decide),
    hblock]
  have hbase : ((x / 2 ^ 18 : Nat) : Int) * 2 ^ (e + 18) + (x % 2 ^ 18 : Nat) * 2 ^ e = (x * 2 ^ e : Nat) := by
    have hsplit : ((x / 2 ^ 18 : Nat) : Int) * 2 ^ 18 + (x % 2 ^ 18 : Nat) = x := by exact_mod_cast Nat.div_add_mod' x (2 ^ 18)
    rw [pow_add, Nat.cast_mul, ← hsplit]
    push_cast
    ring
  have htop := top_decodes hxy hlt
  rw [hbase]
  refine congrArg (Prod.mk _) ?_
  split
  · next h =>
    rw [if_pos h] at htop
    have htop' : (y : Int) = (x / 2 ^ 18 : Nat) * 2 ^ 18 + (y % 2 ^ 18 : Nat) + 2 ^ 18 := by exact_mod_cast htop
    rw [Nat.cast_mul, htop', pow_add]
    push_cast
    ring
  · next h =>
    rw [if_neg h] at htop
    have htop' : (y : Int) = (x / 2 ^ 18 : Nat) * 2 ^ 18 + (y % 2 ^ 18 : Nat) := by exact_mod_cast htop
    rw [Nat.cast_mul, htop', pow_add]
    push_cast
    ring

/-- A tagged result of CAPSET.b has the bounds rounded outward to an exponent that holds them, within those of its source (R266). -/
theorem narrow_tagged {c : Cap} {len : Nat} (h : (c.narrow len).tag = true) :
    ∃ e x y, e < 47 ∧ x = c.f 0 64 / 2 ^ e ∧ x ≤ y ∧ y < x + 2 ^ 18 ∧ c.f 0 64 + len ≤ y * 2 ^ e ∧
      c.narrow len = { narrowed c e x y with tag := true } ∧ c.usable = true ∧ c.derive_ = true ∧
      c.bounds.1 ≤ (x * 2 ^ e : Nat) ∧ ((y * 2 ^ e : Nat) : Int) ≤ c.bounds.2 := by
  generalize hdef : c.narrow len = r at h ⊢
  unfold Cap.narrow at hdef
  extract_lets a lo hi at hdef
  split at hdef
  · rw [← hdef] at h
    cases h
  · next e hfind =>
    have hmem := List.mem_range.1 (List.mem_of_find?_eq_some hfind)
    have hfits := List.find?_some hfind
    have hu : 0 < 2 ^ e := by positivity
    have hlo : lo e / 2 ^ e = a / 2 ^ e := Nat.mul_div_cancel _ hu
    have hhi : hi e / 2 ^ e = (a + len + 2 ^ e - 1) / 2 ^ e := Nat.mul_div_cancel _ hu
    rw [hlo, hhi] at hdef
    rw [← hdef] at h ⊢
    have htag : (c.usable && c.derive_ && decide (c.bounds.1 ≤ lo e) && decide ((hi e : Int) ≤ c.bounds.2)) = true := h
    rw [htag]
    simp only [Bool.and_eq_true, decide_eq_true_eq] at htag
    obtain ⟨⟨⟨husable, hderive⟩, hbase⟩, htop⟩ := htag
    refine ⟨e, a / 2 ^ e, (a + len + 2 ^ e - 1) / 2 ^ e, hmem, rfl, Nat.div_le_div_right (by omega), ?_, ?_, rfl, husable, hderive, hbase, htop⟩
    · have hspan : (a + len + 2 ^ e - 1) / 2 ^ e * 2 ^ e - a / 2 ^ e * 2 ^ e < 2 ^ (e + 18) := of_decide_eq_true hfits
      rw [← Nat.sub_mul, pow_add, mul_comm, Nat.mul_lt_mul_left hu] at hspan
      omega
    · have hsplit := Nat.div_add_mod' (a + len + 2 ^ e - 1) (2 ^ e)
      have hrem := Nat.mod_lt (a + len + 2 ^ e - 1) hu
      change a + len ≤ _
      omega

/-! ## CAPSET.p and CAPSET.seal -/

theorem setPerms_bounds (c : Cap) (m : Nat) : (c.setPerms m).bounds = c.bounds :=
  bounds_congr (f_set_below c _ (by decide) (by decide)) (f_set_above c _ (by decide) (by decide)) (f_set_above c _ (by decide) (by decide))
    (f_set_above c _ (by decide) (by decide))

theorem setPerms_perms (c : Cap) (m : Nat) : (c.setPerms m).f 74 8 = (c.f 74 8 &&& m) := by
  refine (f_set_same c _ (by decide)).trans (Nat.mod_eq_of_lt ?_)
  exact Nat.and_le_left.trans_lt (natBits_lt ..)

theorem seal_bounds (c : Cap) : c.seal.bounds = c.bounds :=
  bounds_congr (f_set_below c _ (by decide) (by decide)) (f_set_below c _ (by decide) (by decide)) (f_set_below c _ (by decide) (by decide))
    (f_set_below c _ (by decide) (by decide))

theorem usable_iff (c : Cap) : c.usable = true ↔ c.tag = true ∧ c.kind < 2 := by simp [Cap.usable]

/-- Nothing is derived from an untagged capability (R265). -/
theorem derived_untagged {c : Cap} (h : c.tag = false) (y : Nat) :
    (c.setAddr y).tag = false ∧ (c.narrow y).tag = false ∧ (c.setPerms y).tag = false ∧ c.seal.tag = false := by
  have husable : c.usable = false := by simp [Cap.usable, h]
  refine ⟨by simp [Cap.setAddr, husable], Bool.eq_false_iff.2 fun hn => ?_, by simp [Cap.setPerms, husable], by simp [Cap.seal, h]⟩
  obtain ⟨_, _, _, _, _, _, _, _, _, hu, _⟩ := narrow_tagged hn
  rw [husable] at hu
  cases hu

/-- Settles O34, derivation by derivation: each leaves the fields it does not set, and the bounds decode as they did or inside. -/
theorem capabilityMonotonicity : Obligations.CapabilityMonotonicity := by
  unfold Obligations.CapabilityMonotonicity
  intro c r y hy
  refine ⟨?_, ?_, ?_, ?_, fun h => derived_untagged h y⟩
  · rintro rfl htag
    obtain ⟨husable, hcovers⟩ := Bool.and_eq_true_iff.1 (show (c.usable && c.covers y) = true from htag)
    obtain ⟨hsource, hkind⟩ := (usable_iff c).1 husable
    exact ⟨hsource, hkind, setAddr_bounds hy hcovers, (setAddr_f_same c y).trans (Nat.mod_eq_of_lt hy), setAddr_f_other c y (by decide)⟩
  · rintro rfl htag
    obtain ⟨e, x, t, he, hx, hxt, hlt, hceil, hr, husable, hderive, hbase, htop⟩ := narrow_tagged htag
    obtain ⟨hsource, hkind⟩ := (usable_iff c).1 husable
    have hbounds : (c.narrow y).bounds = (((x * 2 ^ e : Nat) : Int), ((t * 2 ^ e : Nat) : Int)) := by
      rw [hr]
      exact narrowed_bounds he hx hxt hlt
    have hfloor : x * 2 ^ e ≤ c.f 0 64 := by
      rw [hx]
      exact Nat.div_mul_le_self ..
    rw [hbounds, hr]
    exact ⟨hsource, hkind, hderive, hbase, htop, Int.ofNat_le.2 hfloor, Int.ofNat_le.2 hceil, narrowed_f_below c e x t (by decide),
      narrowed_f_below c e x t (by decide), narrowed_f_above c e x t (by decide)⟩
  · rintro rfl
    refine ⟨setPerms_bounds c _, setPerms_perms c _, f_set_below c _ (by decide) (by decide), f_set_above c _ (by decide) (by decide), fun htag => ?_⟩
    obtain ⟨husable, hderive⟩ := Bool.and_eq_true_iff.1 (show (c.usable && c.derive_) = true from htag)
    obtain ⟨hsource, hkind⟩ := (usable_iff c).1 husable
    exact ⟨hsource, hkind, hderive⟩
  · rintro rfl
    exact ⟨seal_bounds c, f_set_same c _ (by decide), f_set_below c _ (by decide) (by decide), fun htag =>
      Bool.and_eq_true_iff.1 (show (c.tag && c.derive_) = true from htag)⟩

end Sys2Proof.Proofs.MemorySpaces
end

section
/-! PROOFS. Accesses through a capability: the checks in their order and where an access goes (R98 to R102, R268), and register puts
(R115, R272). -/

namespace Sys2Proof.Proofs.MemorySpaces

open Sys2Proof.Machine Sys2Proof.Laws

/-! ## The checks -/

/-- The address of an access: ADDR of the capability and the offset, sign-extended (R102). -/
theorem addr_add_sext (cap : Cap) (off : Word) :
    cap.addr + sext 64 off = BitVec.ofNat 64 (cap.bits.toNat % 2 ^ 64) + BitVec.ofInt 64 off.toInt := by
  rw [Cap.addr, Cap.f, natBits, pow_zero, Nat.div_one, sext, BitVec.signExtend]

/-- What the checks of an access answer, in their order. -/
theorem capCheck_run (c : Ctx) (k perm n : Nat) (off : Word) (kinds : List Nat) (s : State) {cap : Cap} {va : DWord}
    (hcap : cap = mget {} (s.thread c.crew c.lane).c k) (hva : va = cap.addr + sext 64 off) :
    capCheck c k off perm n kinds s =
      if cap.tag = false then .error (.trap 0x0B 1 k va false)
      else if ¬ cap.kind ∈ kinds ∨ (cap.kind = 1 ∧ cap.f 54 10 ≠ cap.peer) then .error (.trap 0x0B 2 k va false)
      else if cap.bit perm = false then .error (.trap 0x0B 3 k va false)
      else if (va.toNat : Int) < cap.bounds.1 ∨ cap.bounds.2 < va.toNat + n then .error (.trap 0x0B 4 k va false)
      else .ok ((cap, va.toNat), s) := by
  subst hcap hva
  simp only [capCheck, capReg, bind_run, me_run, pure_run, ite_run, trap_run, BitVec.ofNat_toNat, BitVec.setWidth_eq, Bool.not_eq_true',
    Bool.or_eq_true, Bool.and_eq_true, beq_iff_eq, bne_iff_ne, List.contains_eq_mem, decide_eq_false_iff_not]

/-! ## Accesses -/

section
variable {c : Ctx} {k perm op n y : Nat} {off : Word} {o : RemoteOp} {s : State} (hr : c.reply = none) (hg : c.got = [])
include hr hg

/-- An access that has neither a reply nor anything performed already is checked first. -/
theorem capAccess_run : capAccess c k off perm op n y o s = (do
    let (cap, a) ← capCheck c k off perm n [0, 1]
    if cap.peer = s.pkgId then do
      let (pa, kind) ← localPlace c cap a n (o.cls n)
      let g ← localPerform c o pa kind (BitVec.ofNat 64 a) y n
      pure (g.result.val, if o.returns then g.op.flags g.result else 0)
    else remoteAccess c cap a op n y : LaneM (Nat × Flags)) s := by
  rw [capAccess, hr]
  simp only [bind_run, get_run, hg, List.find?_nil]

theorem capAccess_refused {e : Stop} (h : capCheck c k off perm n [0, 1] s = .error e) : capAccess c k off perm op n y o s = .error e := by
  rw [capAccess_run hr hg, bind_run, h]

theorem capAccess_local {cap : Cap} {a pa : Nat} {kd : PageKind} {g : Got} {s1 s2 : State}
    (h : capCheck c k off perm n [0, 1] s = .ok ((cap, a), s)) (hp : cap.peer = s.pkgId)
    (hplace : localPlace c cap a n (o.cls n) s = .ok ((pa, kd), s1))
    (hperform : localPerform c o pa kd (BitVec.ofNat 64 a) y n s1 = .ok (g, s2)) :
    capAccess c k off perm op n y o s = .ok ((g.result.val, if o.returns then g.op.flags g.result else 0), s2) := by
  rw [capAccess_run hr hg, bind_run, h]
  simp only [ite_run, if_pos hp, bind_run, hplace, hperform, pure_run]

theorem capAccess_remote {cap : Cap} {a : Nat} (h : capCheck c k off perm n [0, 1] s = .ok ((cap, a), s)) (hp : cap.peer ≠ s.pkgId) :
    capAccess c k off perm op n y o s = remoteAccess c cap a op n y s := by
  rw [capAccess_run hr hg, bind_run, h]
  simp only [ite_run, if_neg hp]

end

/-- What stops an access to another package before it leaves, in the order of the checks: no route, the address, the alignment (R401, R442). -/
theorem remoteAccess_stops (c : Ctx) (cap : Cap) (a op n y : Nat) (s : State) :
    ((s.routes cap.peer (dieOf c.core) (cap.pageOf a)).isEmpty = true →
      remoteAccess c cap a op n y s = .error (.trap 0x1B 1 0 (BitVec.ofNat 64 a) false)) ∧
    ((s.routes cap.peer (dieOf c.core) (cap.pageOf a)).isEmpty = false → cap.kind ≠ 1 → 2 ^ 56 ≤ a →
      remoteAccess c cap a op n y s = .error (.trap 5 7 0 (BitVec.ofNat 64 a) false)) ∧
    ((s.routes cap.peer (dieOf c.core) (cap.pageOf a)).isEmpty = false → (cap.kind = 1 ∨ a < 2 ^ 56) → a % n ≠ 0 →
      remoteAccess c cap a op n y s = .error (.trap 6 7 0 (BitVec.ofNat 64 a) false)) := by
  have hview : myView c s = .ok (_, s) := rfl
  have hpage : (if (cap.kind == 1) = true then natBits a 32 32 + 2 ^ 32 * natBits a 16 8 else natBits a 16 40) = cap.pageOf a := by
    simp only [beq_iff_eq, Cap.pageOf]
  simp only [remoteAccess, bind_run, get_run, me_run, hview, hpage, ite_run, trap_run]
  refine ⟨fun h => if_pos h, fun h hk ha => ?_, fun h hk ha => ?_⟩
  · rw [if_neg (by simp [h]), if_pos (by simp only [Bool.and_eq_true, Bool.not_eq_true', beq_eq_false_iff_ne, decide_eq_true_eq]; exact ⟨hk, ha⟩)]
  · rw [if_neg (by simp [h]), if_neg (by simpa [imp_iff_not_or, or_comm] using hk), if_pos ha]

theorem localPlace_memory {c : Ctx} {cap : Cap} (a n : Nat) (o : Sys2Proof.Machine.Class) (s : State) (h : cap.kind = 0) :
    localPlace c cap a n o s = access c (BitVec.ofNat 64 a) o s := by
  rw [localPlace, if_pos h]

/-- Where an access to staging goes: to window 0 of the group that the address names (R100). -/
theorem localPlace_named {c : Ctx} {cap : Cap} (a n : Nat) (o : Sys2Proof.Machine.Class) (s : State) (h : cap.kind ≠ 0) :
    localPlace c cap a n o s = match s.named (natBits a 32 32) with
      | none => .error (.trap 0x1B 4 0 (BitVec.ofNat 64 a) false)
      | some g =>
        if a % n ≠ 0 then .error (.trap 6 0 0 (BitVec.ofNat 64 a) false)
        else if g.win0Size < natBits a 0 32 + n then .error (.trap 0x0A 3 0 (BitVec.ofNat 64 a) false)
        else if s.present (g.win0 (natBits a 0 32)) = true then .ok ((g.win0 (natBits a 0 32), .staging), s)
        else .error (.wait { kind := .presence, addr := BitVec.ofNat 64 a, key := g.win0 (natBits a 0 32) / 128 }) := by
  rw [localPlace, if_neg h]
  simp only [bind_run, get_run]
  cases s.named (natBits a 32 32) with
  | none => rfl
  | some g => simp only [bind_run, ite_run, trap_run, pure_run, stop_run]

/-! ## Register puts -/

/-- A put whose target is being moved stays queued (R272). -/
theorem deliverPuts_moving {s : State} {p : QueuedPut} (h : s.putQueue = [p]) (hm : s.moving p = true) : s.deliverPuts = s := by
  have hm' : ({ s with putQueue := [] } : State).moving p = true := hm
  rw [State.deliverPuts, h, List.foldl_cons, List.foldl_nil, if_pos hm', State.arrivePut, List.nil_append, ← h]

/-- A put into a register of a thread: the register, its hold bit, and neither the queue nor the program counter (R270, R272). -/
theorem takePut_frame (t : Thread) (r : Nat) (x : Word) (ts : Nat) :
    (t.takePut r x ts).v = mset t.v r x ∧ (t.takePut r x ts).hold = t.hold &&& ~~~(bitOf r &&& ~~~t.holdNow) ∧
      (t.takePut r x ts).q = t.q ∧ (t.takePut r x ts).pc = t.pc := by
  unfold Thread.takePut
  dsimp only
  split <;> exact ⟨rfl, rfl, rfl, rfl⟩

/-- A put clears its register's hold bit, unless a HOLD of the same cycle has set it (R270). -/
theorem takePut_held {t : Thread} {r : Nat} (x : Word) (ts : Nat) (h : r < 32) :
    (t.takePut r x ts).held r = (t.held r && t.holdNow.getLsbD r) := by
  rw [Thread.held, (takePut_frame t r x ts).2.1, BitVec.getLsbD_and, BitVec.getLsbD_not, BitVec.getLsbD_and, BitVec.getLsbD_not, bitOf_getLsbD h h]
  simp [h, Thread.held]

theorem takePut_reg (t : Thread) (r j : Nat) (x : Word) (ts : Nat) : (t.takePut r x ts).reg j = if j = r then x else t.reg j := by
  rw [Thread.reg, (takePut_frame t r x ts).1, mget_mset]
  rfl

/-- What a put does to a thread: one register, or two. -/
def putThread (reg : Nat) (wide : Bool) (data : DWord) (ts : Nat) (t : Thread) : Thread :=
  if wide then (t.takePut reg data.lo ts).takePut (reg + 1) data.hi ts else t.takePut reg data.lo ts

section
variable (reg : Nat) (wide : Bool) (data : DWord) (ts : Nat) (t : Thread)

theorem putThread_reg (j : Nat) : (putThread reg wide data ts t).reg j =
    if wide = true ∧ j = reg + 1 then data.hi else if j = reg then data.lo else t.reg j := by
  unfold putThread
  cases wide <;> simp [takePut_reg]

theorem putThread_frame : (putThread reg wide data ts t).q = t.q ∧ (putThread reg wide data ts t).pc = t.pc := by
  unfold putThread
  split
  · exact ⟨(takePut_frame ..).2.2.1.trans (takePut_frame ..).2.2.1, (takePut_frame ..).2.2.2.trans (takePut_frame ..).2.2.2⟩
  · exact (takePut_frame ..).2.2

end

/-- The time of a put's delivery to a thread: after the put's own and after every put that has reached the registers (R115). -/
def putTime (t : Thread) (reg : Nat) (wide : Bool) (time : Nat) : Nat :=
  max time (max (mget 0 t.puts reg) (if wide then mget 0 t.puts (reg + 1) else 0) + 1)

section
variable {s : State} {name thread reg : Nat} {wide : Bool} {data : DWord} {time : Nat} {g : Group} (hn : s.named name = some g)
include hn

theorem deliverPut_thread (h : g.threads ≤ thread) : s.deliverPut name thread reg wide data time = (.error 3, s) := by
  simp only [State.deliverPut, hn, if_pos h]

theorem deliverPut_register (h : thread < g.threads) (hr : g.nregs ≤ (if wide then reg + 1 else reg)) :
    s.deliverPut name thread reg wide data time = (.error 2, s) := by
  simp only [State.deliverPut, hn, if_neg (Nat.not_le.2 h), if_pos hr]

theorem deliverPut_resident {ck : Nat} (h : thread < g.threads) (hr : (if wide then reg + 1 else reg) < g.nregs) (hp : g.place = .resident)
    (hck : (s.crewsOf (nameIndex name)).find? (fun ck => (s.crew ck).index == thread / 32) = some ck) :
    s.deliverPut name thread reg wide data time = (.ok (putTime (s.thread ck (thread % 32)) reg wide time),
      s.modThread ck (thread % 32) (putThread reg wide data (putTime (s.thread ck (thread % 32)) reg wide time))) := by
  simp only [State.deliverPut, hn, if_neg (Nat.not_le.2 h), if_neg (Nat.not_le.2 hr), if_pos hp, hck]
  rfl

end

theorem deliverPut_unnamed {s : State} {name : Nat} (thread reg : Nat) (wide : Bool) (data : DWord) (time : Nat) (h : s.named name = none) :
    s.deliverPut name thread reg wide data time = (.error 1, s) := by
  simp only [State.deliverPut, h]

/-- Settles O36: the checks in their order, the places, and what a put changes of the thread it reaches. -/
theorem capabilityChecks : Obligations.CapabilityChecks := by
  unfold Obligations.CapabilityChecks
  refine ⟨?_, ?_, ?_, ?_, ?_, ?_, ?_, ?_⟩
  · rintro c k perm n off kinds s cap a va hcap hva rfl
    rw [capCheck_run c k perm n off kinds s hcap (hva.trans (addr_add_sext cap off).symm)]
    refine ⟨fun h => if_pos h, fun h hk => ?_, fun h hk hpeer hp => ?_, fun h hk hpeer hp hb => ?_, fun h hk hpeer hp hb ht => ?_⟩
    · rw [if_neg (by simp [h]), if_pos hk]
    · rw [if_neg (by simp [h]), if_neg (by simpa [hk] using hpeer), if_pos hp]
    · rw [if_neg (by simp [h]), if_neg (by simpa [hk] using hpeer), if_neg (by simp [hp]), if_pos (by exact_mod_cast hb)]
    · rw [if_neg (by simp [h]), if_neg (by simpa [hk] using hpeer), if_neg (by simp [hp]), if_neg]
      push_cast at ht
      omega
  · exact fun c k perm op n y off o s sub va hr hg h => capAccess_refused hr hg h
  · exact fun c s k perm op n y pa off o cap a kd g s1 s2 hr hg h hp hplace hperform => capAccess_local hr hg h hp hplace hperform
  · rintro c s k perm op n y off o cap a _ hr hg h hp rfl
    rw [capAccess_remote hr hg h hp]
    exact remoteAccess_stops c cap a op n y s
  · exact fun c cap a n o s h => localPlace_memory a n o s h
  · intro c cap a n o s h
    rw [localPlace_named a n o s h]
    refine ⟨fun hn => by rw [hn], fun g hg => ?_⟩
    simp only [hg]
    refine ⟨fun hal => if_pos hal, fun hal hsize => ?_, fun hal hsize hpres => ?_⟩
    · rw [if_neg (by simp [hal]), if_pos hsize]
    · rw [if_neg (by simp [hal]), if_neg (Nat.not_lt.2 hsize), if_pos hpres]
  · exact fun s p => deliverPuts_moving
  · intro s name thread reg wide data time
    refine ⟨deliverPut_unnamed thread reg wide data time, fun g hg => ⟨deliverPut_thread hg, deliverPut_register hg, fun ck h hr hp hck => ?_⟩⟩
    refine ⟨_, _, deliverPut_resident hg h hr hp hck, le_max_left .., onlyLane_modThread .., ?_, ?_, ?_, ?_, ?_, ?_, ?_⟩
    · exact (Nat.lt_succ_of_le (le_max_left ..)).trans_le (le_max_right ..)
    · rintro hreg rfl
      rw [State.modThread_thread]
      exact takePut_held _ _ hreg
    · rw [State.modThread_thread, putThread_reg, if_neg (by simp), if_pos rfl]
    · rintro rfl
      rw [State.modThread_thread, putThread_reg, if_pos ⟨rfl, rfl⟩]
    · intro r hr' hw
      rw [State.modThread_thread, putThread_reg, if_neg, if_neg hr']
      rintro ⟨rfl, hr''⟩
      exact hw.elim (by simp) (fun h => h hr'')
    · rw [State.modThread_thread, (putThread_frame ..).1]
    · rw [State.modThread_thread, (putThread_frame ..).2]

end Sys2Proof.Proofs.MemorySpaces
end

section
/-! PROOFS. TICKET at a slice's write copy: what the statement's frame of such an operation says of lanes past the last of a crew (R254, R347). -/

namespace Sys2Proof.Proofs.MemorySpaces

open Sys2Proof.Machine Sys2Proof.Laws Sys2Proof.Proofs.ThreadState

/-- A thread's key is that of the lane 32 further on of the crew before. -/
theorem thread_of_crew_before (s : State) {k : Nat} (l : Nat) (h : 0 < k) : s.thread (k - 1) (l + 32) = s.thread k l := by
  rw [State.thread, State.thread, show 32 * (k - 1) + (l + 32) = 32 * k + l by omega]

/-- CopyWritten leaves the program time of every thread but that of lane `l` of crew `k`, also where it is named by a lane past the last of the
crew before: it holds of no operation that moves the lane's time past the copy's lease. -/
theorem not_copyWritten {k l agent line : Nat} {cp : Copy} {new : Line} {s t : State} (hk : 0 < k) (h : (s.thread k l).time ≤ cp.rts) :
    ¬ CopyWritten k l agent line cp new s t := by
  intro hw
  have hkept : (t.thread (k - 1) (l + 32)).time = (s.thread (k - 1) (l + 32)).time :=
    (congrArg Thread.time (hw.threads (k - 1) (l + 32) (.inl (by omega)))).trans rfl
  rw [thread_of_crew_before t l hk, thread_of_crew_before s l hk, hw.time] at hkept
  omega

/-! ## A firmware lane with a ticket word in a write copy -/

/-- TICKET v4, (v0, v1), issued to lane 0 of crew 63, the firmware crew of core 0. -/
def ticketIssue : Issue := { core := 0, pipe := 0, parts := [{ crew := 63, lanes := bitOf 0 }], pc := 0x10000, len := 4, word := 0 }

/-- The write copy of the line: NEXT is 0 and LIMIT 1. -/
def ticketLine : Copy := { write := true, line := { data := leBytes (2 ^ 32) 8 ++ List.replicate 120 0 } }

/-- The firmware crew's lane, whose v0 and v1 point to the ticket word at 0x4000, of whose line the slice holds a write copy. -/
def ticketState : State := { State.reset.withLaneWord 4 1 with
  unit := .lanes ticketIssue
  copies := [(copyKey 0 (0x4000 / 128), ticketLine)]
  crews := [(63, { group := 0, index := 0 })]
  threads := [(32 * 63, { v := [(0, 0x4000)] })] }

/-- What the lane knows of itself. -/
def ticketCtx : Ctx := ticketState.ctxOf ticketIssue 63 0

/-- The state in which the lane computes. -/
def ticketBegun : State := ticketState.begun ticketIssue 63 0

theorem ticketState_enters : Enters (.ticket 0 4 0 15) ticketIssue 63 0 ticketState where
  unit := rfl
  parts := rfl
  lane := by decide
  crew := by decide
  legal := by decide
  guard := by decide
  room := admit_empty (k := 63) (l := 0) rfl _ rfl

/-- Whether the access reaches the line in the write copy, before the copy's lease ends. -/
def reachesTicket : Bool :=
  match access ticketCtx 0x4000 (.atomic 8) ticketBegun with
  | .ok ((pa, kd), t) => decide (pa = 0x4000 ∧ kd = .coherent) && t.coreOwned 0x4000 &&
      decide (mfind t.copies (copyKey 0 (0x4000 / 128)) = some ticketLine ∧ (t.thread 63 0).time ≤ ticketLine.rts)
  | .error _ => false

theorem access_ticket : ∃ t, access ticketCtx 0x4000 (.atomic 8) ticketBegun = .ok ((0x4000, .coherent), t) ∧
    OwnsLine ticketCtx 0x4000 .coherent ticketLine t ∧ (t.thread 63 0).time ≤ ticketLine.rts := by
  have h : reachesTicket = true := by decide
  unfold reachesTicket at h
  split at h
  · next pa kd t ht =>
    simp only [Bool.and_eq_true, decide_eq_true_eq] at h
    obtain ⟨⟨⟨rfl, rfl⟩, howned⟩, hcopy, htime⟩ := h
    exact ⟨t, ht, ⟨howned, by decide, rfl, .inl rfl, hcopy, rfl⟩, htime⟩
  · cases h

/-- Refutes O39: TICKET at a write copy moves its lane's program time past the copy's lease (R108), and the clause on it (CopyWritten) keeps the
time of the thread that lane 32 of the crew before would name, which is the same one. -/
theorem not_sharingSpawnAndTickets : ¬ Obligations.SharingSpawnAndTickets := by
  unfold Obligations.SharingSpawnAndTickets
  intro ⟨_, _, _, _, _, hticket, _, _⟩
  obtain ⟨_, hreads⟩ := hticket 0 4 0 15 ticketIssue 63 0 ticketState ticketCtx ticketState_enters rfl
  obtain ⟨_, haccess⟩ := hreads ticketBegun ticketBegun 0x4000 (.named 4)
    (pair_free (c := ticketCtx) (f := 0) (s := ticketBegun) (by decide) rfl rfl).1
    (pair_free (c := ticketCtx) (f := 4) (s := ticketBegun) (by decide) rfl rfl).2
  obtain ⟨t, ht, howns, htime⟩ := access_ticket
  obtain ⟨_, hcopy, _⟩ := haccess 0x4000 .coherent t rfl (by decide) ht
  obtain ⟨u, _, hwritten⟩ := hcopy (2 ^ 32) 1 ticketLine howns (by decide) (by decide) (by decide) (by decide)
  exact not_copyWritten (by decide) htime hwritten

end Sys2Proof.Proofs.MemorySpaces
end

section
/-! PROOFS. What accesses to memory leave: they change the memory system, the log of what has gone out and what lanes that wait have got, and
no other field of the state (R105, R108, R135, R157, R435). -/

namespace Sys2Proof.Proofs.MemorySpaces

open Sys2Proof.Machine Sys2Proof.Proofs.Execution

/-- A state with the memory system of another: bytes, tags, poison and full bits; homes, copies and messages with their times; pages being
filled; and what accesses raise elsewhere. -/
def withMemory (s t : State) : State := { t with
  mem := s.mem, tags := s.tags, poison := s.poison, full := s.full, dir := s.dir, floor := s.floor, copies := s.copies, trans := s.trans
  msgs := s.msgs, stageTime := s.stageTime, touched := s.touched, cxlHeld := s.cxlHeld, pageFills := s.pageFills, threads := s.threads
  stamp := s.stamp, outbox := s.outbox, skippedOrs := s.skippedOrs }

/-- Two states differ in the memory system alone. -/
def OnlyMemory (s t : State) : Prop := withMemory s t = s

theorem OnlyMemory.refl (s : State) : OnlyMemory s s := rfl

theorem OnlyMemory.trans {s t u : State} (h : OnlyMemory s t) (g : OnlyMemory t u) : OnlyMemory s u :=
  (congrArg (withMemory s) g).trans h

theorem OnlyMemory.foldl {α : Type} {f : State → α → State} (h : ∀ s x, OnlyMemory s (f s x)) (l : List α) (s : State) :
    OnlyMemory s (l.foldl f s) := by
  induction l generalizing s with
  | nil => exact .refl s
  | cons x r ih => exact (h s x).trans (ih (f s x))

theorem OnlyMemory.writers {s t : State} (h : OnlyMemory s t) : t.writers = s.writers := (congrArg State.writers h : (withMemory s t).writers = _)

theorem onlyMemory_threads (s : State) (m : Map Thread) : OnlyMemory s { s with threads := m } := rfl

theorem onlyMemory_pageFills (s : State) (l : List PageFill) : OnlyMemory s { s with pageFills := l } := rfl

theorem onlyMemory_snoop (s : State) (agent line : Nat) : OnlyMemory s ((s.dropCopy agent line).send (.snoop agent line)) := rfl

theorem onlyMemory_followers (s : State) (c : Map Copy) (t : Map Trans) (m : List Msg) :
    OnlyMemory s { s with copies := c, trans := t, msgs := m } := rfl

theorem onlyMemory_writeBlock (s : State) (pa : Nat) (b : List Byte) : OnlyMemory s (s.writeBlock pa b) := rfl

theorem onlyMemory_skippedOrs (s : State) (m : Map Nat) : OnlyMemory s { s with skippedOrs := m } := rfl

/-! ## Lines and staging words -/

theorem onlyMemory_putLine (s : State) (line : Nat) (l : Line) : OnlyMemory s (s.putLine line l) := rfl

theorem onlyMemory_stampHome (s : State) (line w r : Nat) : OnlyMemory s (s.stampHome line w r) := by
  unfold State.stampHome
  split <;> exact rfl

theorem onlyMemory_noteLoad (s : State) (line ts : Nat) : OnlyMemory s (s.noteLoad line ts) := by
  refine (onlyMemory_stampHome s line 0 ts).trans ?_
  unfold State.noteLoad
  dsimp only
  split <;> exact rfl

theorem onlyMemory_holdHost (s : State) (line : Nat) (w : Bool) : OnlyMemory s (s.holdHost line w) := by
  unfold State.holdHost
  split <;> exact rfl

theorem onlyMemory_loadHome (s : State) (pa : Nat) (op : LineOp) (t : Nat) : OnlyMemory s (s.loadHome pa op t).2 :=
  (onlyMemory_holdHost s (pa / 128) false).trans (onlyMemory_noteLoad ..)

theorem onlyMemory_wakeWatchers (s : State) (line : Nat) : OnlyMemory s (s.wakeWatchers line) := by
  refine .foldl (fun s x => ?_) _ s
  dsimp only
  split
  · exact .refl s
  · exact (onlyMemory_loadHome s x.2.key _ _).trans (onlyMemory_threads ..)

theorem onlyMemory_noteStore (s : State) (line ts : Nat) (l : Line) : OnlyMemory s (s.noteStore line ts l) := by
  have hput := (onlyMemory_putLine s line l).trans (onlyMemory_stampHome _ line ts ts)
  refine .trans ?_ (onlyMemory_wakeWatchers _ line)
  dsimp only
  split
  · exact hput
  · have hsnoops := OnlyMemory.foldl (fun (u : State) (x : Nat × Copy) => onlyMemory_snoop u x.1 line)
    exact (hput.trans (hsnoops _ _)).trans (onlyMemory_followers ..)

theorem onlyMemory_atHome (s : State) (pa : Nat) (op : LineOp) (t : Nat) : OnlyMemory s (s.atHome pa op t).2 := by
  unfold State.atHome
  split
  · exact onlyMemory_loadHome s pa op t
  · exact (onlyMemory_holdHost s (pa / 128) true).trans (onlyMemory_noteStore ..)

theorem onlyMemory_memRun (s : State) (pa : Nat) (op : LineOp) : OnlyMemory s (s.memRun pa op).2 := by
  cases op <;> exact rfl

theorem onlyMemory_stageEnter (s : State) (pa : Nat) (load : Bool) (t : Nat) : OnlyMemory s (s.stageEnter pa load t).2 := rfl

theorem onlyMemory_touch (s : State) (pa n : Nat) : OnlyMemory s (s.touch pa n) := rfl

theorem onlyMemory_setFull (s : State) (pa : Nat) (b : Bool) : OnlyMemory s (s.setFull pa b) := rfl

theorem onlyMemory_stageOp (s : State) (pa : Nat) (op : LineOp) (t : Nat) : OnlyMemory s (s.stageOp pa op t).2 :=
  ((onlyMemory_stageEnter s pa op.isLoad t).trans (onlyMemory_memRun _ pa op)).trans (onlyMemory_touch _ pa op.span.2)

theorem onlyMemory_opAt (s : State) (pa : Nat) (op : LineOp) (t : Nat) : OnlyMemory s (s.opAt pa op t).2 := by
  unfold State.opAt
  split
  · exact onlyMemory_stageOp s pa op t
  · split
    · exact onlyMemory_atHome s pa op t
    · exact onlyMemory_memRun s pa op

theorem onlyMemory_storeParts (s : State) (pa : Nat) (b : List Byte) (t fuel : Nat) : OnlyMemory s (s.storeParts pa b t fuel).2 := by
  induction fuel generalizing s pa b with
  | zero => exact .refl s
  | succ n ih =>
    unfold State.storeParts
    split
    · exact .refl s
    · exact (onlyMemory_opAt s pa _ t).trans (ih ..)

theorem onlyMemory_storeNat (s : State) (pa x n t : Nat) : OnlyMemory s (s.storeNat pa x n t).2 := onlyMemory_storeParts ..

theorem onlyMemory_storeBlock (s : State) (pa : Nat) (b : List Byte) (t : Nat) : OnlyMemory s (s.storeBlock pa b t).2 := by
  unfold State.storeBlock
  split
  · exact (onlyMemory_writeBlock s pa b).trans (.foldl (fun s l => onlyMemory_stampHome s l _ _) _ _)
  · exact onlyMemory_storeParts ..

/-! ## Pages, poison and flags -/

theorem onlyMemory_amend (s : State) (line : Nat) (f : Line → Line) : OnlyMemory s (s.amend line f) := by
  unfold State.amend
  dsimp only
  split <;> exact rfl

theorem onlyMemory_poisonBytes (s : State) (pa n : Nat) : OnlyMemory s (s.poisonBytes pa n) :=
  .foldl (fun s g => onlyMemory_amend s (g / 8) _) _ s

theorem onlyMemory_markUsed (s : State) (l : Leaf) (w : Bool) : OnlyMemory s (s.markUsed l w) := by
  unfold State.markUsed
  extract_lets e
  split
  · exact .refl s
  · exact onlyMemory_amend ..

theorem onlyMemory_fillPage {s t : State} {pte entry level : Nat} (h : s.fillPage pte entry level = .ok t) : OnlyMemory s t := by
  have h := ok_of_not_error (ok_of_not_error (ok_of_not_error (ok_of_not_error h)))
  split at h
  · cases h
  · next b _ =>
    rw [← Except.ok.inj h]
    exact ((onlyMemory_storeBlock s _ b 0).trans (onlyMemory_pageFills ..)).trans (onlyMemory_opAt ..)

theorem onlyMemory_fwReach {s t : State} {ctx va pa : Nat} {w : Bool} {k : PageKind} (h : s.fwReach ctx va w = some (t, pa, k)) :
    OnlyMemory s t := by
  have found : ∀ {u : State} {l : Leaf} {p : Bool},
      (if p then some (u.markUsed l w, l.pa, l.kind) else none) = some (t, pa, k) → OnlyMemory u t := by
    intro u l p e
    split at e
    · cases e
      exact onlyMemory_markUsed u l w
    · cases e
  unfold State.fwReach at h
  split at h
  · split at h
    · cases h
    · cases h
      exact .refl s
  · split at h
    · cases h
    · dsimp only at h
      split at h
      · exact found h
      · cases h
      · split at h
        · cases h
        · next hu =>
          split at h
          · exact (onlyMemory_fillPage hu).trans (found h)
          · cases h

/-- ORing flags into a context's memory-exception word is a store, or is skipped and counted (R157). -/
theorem onlyMemory_orFlags (s : State) (ctx : Nat) (flags : BitVec 6) (t : Nat) : OnlyMemory s (s.orFlags ctx flags t) := by
  unfold State.orFlags
  split
  · exact .refl s
  · split
    · exact .refl s
    · dsimp only
      split
      · next hreach =>
        have hreached := onlyMemory_fwReach hreach
        split
        · split
          · exact hreached.trans (onlyMemory_opAt ..)
          · exact onlyMemory_skippedOrs ..
        · exact onlyMemory_skippedOrs ..
      · exact onlyMemory_skippedOrs ..

end Sys2Proof.Proofs.MemorySpaces
end

section
/-! PROOFS. Engine operations between two instructions: fills, firings, the pieces of their work, what follows them, and the end of an
operation (R89, R117, R285, R286 to R291, R405). -/

namespace Sys2Proof.Proofs.MemorySpaces

open Sys2Proof.Machine Sys2Proof.Laws

/-! ## Fills -/

/-- The count of a fill's lines that are still to come, after one of them has landed (R89). -/
def landed (m : Map Nat) (l : Nat) : Map Nat := if mget 0 m l ≤ 1 then mdel m l else mset m l (mget 0 m l - 1)

theorem exec_fillLineLands (l : BitVec 45) {s : State} (h : s.unit = .none) :
    exec (.fillLineLands l) s = .next { s with filling := landed s.filling l.toNat } := by
  change execFillLineLands l s = _
  rw [execFillLineLands, h]
  rfl

theorem landed_same (m : Map Nat) (l : Nat) : mget 0 (landed m l) l = mget 0 m l - 1 := by
  unfold landed
  split
  · next h =>
    rw [mget, mfind_mdel_same]
    exact (Nat.sub_eq_zero_of_le h).symm
  · exact mget_mset_same ..

theorem landed_other (m : Map Nat) {l j : Nat} (h : j ≠ l) : mfind (landed m l) j = mfind m j := by
  unfold landed
  split
  · exact mfind_mdel_other m h
  · exact mfind_mset_other m _ h

/-! ## Firing -/

/-- Each event of an engine fires the operation at its place with the engine's own work. -/
theorem exec_firing {e : (BitVec 7 → BitVec 6 → Instr) × EngineKind × (Armed → Firing → EngM Firing) × (Nat → Nat → Piece)}
    (he : e ∈ [(Instr.copyFiring, EngineKind.copy, copyBegin, fun _ _ => copyPiece), (Instr.retileRun, .retile, noBegin, fun _ _ => retilePiece),
      (Instr.gathFiring, .gath, noBegin, fun _ _ => gathPiece), (Instr.chainFiring, .chain, noBegin, fun _ _ => chainPiece),
      (Instr.collFiring, .coll, noBegin, collPiece)])
    (cl : BitVec 7) (p : BitVec 6) {s : State} (h : s.unit = .none) :
    exec (e.1 cl p) s = .next (s.fire cl.toNat p.toNat e.2.1 e.2.2.1 (e.2.2.2 cl.toNat p.toNat)) := by
  have fired : ∀ kind begin_ work, fireEvent kind cl p begin_ work s = .next (s.fire cl.toNat p.toNat kind begin_ work) := fun _ _ _ => by
    rw [fireEvent, h]
  simp only [List.mem_cons, List.not_mem_nil, or_false] at he
  obtain rfl | rfl | rfl | rfl | rfl := he
  · exact fired ..
  · exact fired ..
  · exact fired ..
  · exact fired ..
  · exact fired ..

section
variable {s : State} {cl p : Nat} {kind : EngineKind} {begin_ : Armed → Firing → EngM Firing} {work : Piece}

theorem fire_nothing (h : s.armedAt cl p = none) : s.fire cl p kind begin_ work = s := by
  rw [State.fire, h]

variable {a : Armed} (h : s.armedAt cl p = some a)
include h

theorem fire_held (hk : a.kind ≠ kind ∨ s.agentBlocked (.engine cl p) = true) : s.fire cl p kind begin_ work = s := by
  rw [State.fire, h]
  dsimp only
  by_cases e : a.kind ≠ kind
  · rw [if_pos e]
  · rw [if_neg e, if_pos (hk.resolve_left e)]

variable (hk : a.kind = kind) (hb : s.agentBlocked (.engine cl p) = false)
include hk hb

theorem fire_finishes (hf : s.mayFire a = false ∨ a.firing = none ∧ s.chutesReady a = false) :
    s.fire cl p kind begin_ work = s.engFinish cl p := by
  rw [State.fire, h]
  dsimp only
  rw [if_neg (by simp [hk]), if_neg (by simp [hb]), if_pos]
  obtain hf | ⟨hf, hc⟩ := hf
  · simp [hf]
  · simp [hf, hc]

/-- The end of an event in which an operation has done pieces of its work. -/
def afterFire (cl p : Nat) (a : Armed) (q : Pieces) : State :=
  (q.run.s.afterPieces cl p ((q.run.s.armedAt cl p).getD a) q).engFinish cl p

theorem fire_goesOn {f : Firing} (hm : s.mayFire a = true) (hf : a.firing = some f) :
    s.fire cl p kind begin_ work = afterFire cl p a (runPieces work a f (s.runOf a.agent (.engine cl p) a.time) pieceFuel) := by
  rw [State.fire, h]
  dsimp only
  rw [if_neg (by simp [hk]), if_neg (by simp [hb]), if_neg (by simp [hm, hf]), hf]
  rfl

theorem fire_begins {f g : Firing} {t : Nat} {u : State} {r : Run} (hm : s.mayFire a = true) (hf : a.firing = none)
    (hc : s.chutesReady a = true) (hbegin : s.beginFiring a = (f, t, u))
    (hr : begin_ a f ((u.setArmed cl p { a with firing := some f }).runOf a.agent (.engine cl p) (max a.time t)) = .ok (g, r)) :
    s.fire cl p kind begin_ work = afterFire cl p a (runPieces work a g r pieceFuel) := by
  rw [State.fire, h]
  dsimp only
  rw [if_neg (by simp [hk]), if_neg (by simp [hb]), if_neg (by simp [hm, hc]), hf]
  simp only [hbegin, hr]
  rfl

end

/-! ## Pieces -/

section
variable {work : Piece} {a : Armed} {f : Firing} {r : Run} (n : Nat)

theorem runPieces_goesOn {g : Firing} {v : Run} (h : work a f r = .ok (some g, v)) :
    runPieces work a f r (n + 1) = runPieces work a g v.next n := by
  rw [runPieces, h]

theorem runPieces_done {v : Run} (h : work a f r = .ok (none, v)) :
    runPieces work a f r (n + 1) = { firing := f, run := v.next, stop := none, done := true } := by
  rw [runPieces, h]

theorem runPieces_stops {x : Stop} (h : work a f r = .error x) :
    runPieces work a f r (n + 1) = { firing := f, run := r, stop := some x, done := false } := by
  rw [runPieces, h]

end

/-! ## After the pieces -/

theorem setArmed_armedAt (s : State) (cl p : Nat) (a : Armed) : (s.setArmed cl p a).armedAt cl p = some a := by
  rw [State.armedAt, State.setArmed, State.modCluster_cluster, mfind_mset_same]

/-- Chutes are fields of gangs: a release changes nothing else. -/
theorem engRelease_frame (s : State) (a : Armed) (write : Bool) (e : Option Entry_) (t : Nat) :
    (s.engRelease a write e t).mem = s.mem ∧ (s.engRelease a write e t).threads = s.threads ∧
      (a.gang = none → s.engRelease a write e t = s) := by
  unfold State.engRelease
  split
  · next hg =>
    refine ⟨?_, ?_, fun h => by rw [h] at hg; cases hg⟩
    all_goals
      unfold State.setChute
      split <;> rfl
  · exact ⟨rfl, rfl, fun _ => rfl⟩

theorem endFiring_frame (s : State) (a : Armed) (f : Firing) (t : Nat) :
    (s.endFiring a f t).mem = s.mem ∧ (s.endFiring a f t).threads = s.threads ∧ (a.gang = none → s.endFiring a f t = s) := by
  have h0 := engRelease_frame s a false f.in0 t
  have h1 := engRelease_frame (s.engRelease a false f.in0 t) a false f.in1 t
  unfold State.endFiring
  dsimp only
  split
  · obtain ⟨hm, ht, hg⟩ := engRelease_frame (s.engRelease a false f.in0 t) a true f.out t
    exact ⟨hm.trans h0.1, ht.trans h0.2.1, fun h => (hg h).trans (h0.2.2 h)⟩
  · obtain ⟨hm, ht, hg⟩ := engRelease_frame ((s.engRelease a false f.in0 t).engRelease a false f.in1 t) a true f.out t
    exact ⟨hm.trans (h1.1.trans h0.1), ht.trans (h1.2.1.trans h0.2.1), fun h => (hg h).trans ((h1.2.2 h).trans (h0.2.2 h))⟩

theorem noteTime_frame (s : State) (lk t : Nat) :
    (s.noteTime lk t).mem = s.mem ∧ (s.noteTime lk t).threads = s.threads ∧ (s.noteTime lk t).gangs = s.gangs := by
  unfold State.noteTime
  split
  · split <;> exact ⟨rfl, rfl, rfl⟩
  · exact ⟨rfl, rfl, rfl⟩

theorem beginFill_mem (s : State) (pte entry level : Nat) : (s.beginFill pte entry level).mem = s.mem := by
  unfold State.beginFill
  split <;> rfl

/-- Once a fill has begun its page is among those being filled (R433). -/
theorem beginFill_listed (s : State) (pte entry level : Nat) : ∃ f ∈ (s.beginFill pte entry level).pageFills, f.pte = pte := by
  unfold State.beginFill
  split
  · next h =>
    obtain ⟨f, hf, e⟩ := List.any_eq_true.1 h
    exact ⟨f, hf, by simpa using e⟩
  · exact ⟨_, List.mem_append_right _ (List.mem_singleton_self _), rfl⟩

theorem foldl_landLine_mem (s : State) (l : List Nat) : (l.foldl State.landLine s).mem = s.mem := by
  induction l generalizing s with
  | nil => rfl
  | cons x r ih => exact ih _

section
variable {s : State} {cl p : Nat} {a b : Armed} {q : Pieces} (hb : b = { a with time := q.run.t, stopped := none })
include hb

theorem afterPieces_done (h : q.done = true) : (s.afterPieces cl p a q).armedAt cl p = some { b with fired := a.fired + 1, firing := none } ∧
    (s.afterPieces cl p a q).mem = s.mem ∧ (s.afterPieces cl p a q).threads = s.threads ∧
    (a.gang = none → (s.afterPieces cl p a q).gangs = s.gangs) := by
  have e : s.afterPieces cl p a q = ((s.endFiring b q.firing q.run.t).noteTime b.launch q.run.t).setArmed cl p
      { b with fired := a.fired + 1, firing := none } := by
    subst hb
    rw [State.afterPieces, if_pos h]
  obtain ⟨hmem, hthreads, hgangs⟩ := endFiring_frame s b q.firing q.run.t
  obtain ⟨hmem', hthreads', hgangs'⟩ := noteTime_frame (s.endFiring b q.firing q.run.t) b.launch q.run.t
  rw [e]
  refine ⟨setArmed_armedAt .., hmem'.trans hmem, hthreads'.trans hthreads, fun h => hgangs'.trans ?_⟩
  rw [hgangs (by subst hb; exact h)]

theorem afterPieces_waits (h : q.done = false) (hs : q.stop = none ∨ ∃ w, q.stop = some (.wait w)) :
    s.afterPieces cl p a q = s.setArmed cl p { b with firing := some q.firing } := by
  subst hb
  rw [State.afterPieces, if_neg (by simp [h])]
  obtain hs | ⟨w, hs⟩ := hs <;> rw [hs]

theorem afterPieces_fill {pte en lv : Nat} (h : q.done = false) (hs : q.stop = some (.fill pte en lv)) :
    (s.afterPieces cl p a q).armedAt cl p = some { b with firing := some q.firing, stopped := some pte } ∧
      (s.afterPieces cl p a q).mem = s.mem ∧ ∃ f ∈ (s.afterPieces cl p a q).pageFills, f.pte = pte := by
  subst hb
  rw [State.afterPieces, if_neg (by simp [h]), hs]
  exact ⟨setArmed_armedAt .., beginFill_mem .., beginFill_listed ..⟩

theorem afterPieces_miss {line : Nat} {x : Req} {y : DWord} {z : Bool} (h : q.done = false) (hs : q.stop = some (.miss line x y z)) :
    s.afterPieces cl p a q = (s.setArmed cl p { b with firing := some q.firing }).missAgent (.engine cl p) line x := by
  subst hb
  rw [State.afterPieces, if_neg (by simp [h]), hs]

/-- A fault ends the launch; the operation is withdrawn, and what the firing has written stays (R405). -/
theorem afterPieces_trap {code sub d : Nat} {va : DWord} {z : Bool} (h : q.done = false) (hs : q.stop = some (.trap code sub d va z)) :
    ∃ u : State, s.afterPieces cl p a q = u.terminate a.launch (0x100 + code) ∧ u.mem = s.mem ∧
      u.armedAt cl p = some { b with firing := none, withdrawn := true } := by
  subst hb
  rw [State.afterPieces, if_neg (by simp [h]), hs]
  exact ⟨_, rfl, foldl_landLine_mem .., setArmed_armedAt ..⟩

end

/-! ## The end of an operation -/

/-- The place of an operation frees. -/
def freePlace (cl p : Nat) (a : Armed) (s : State) : State :=
  ((s.modCluster cl fun k => { k with armed := mdel k.armed p }).clearAgent (.engine cl p)).armedGone a

section
variable {s : State} {cl p : Nat} {a : Armed} (h : s.armedAt cl p = some a)
include h

theorem engFinish_working (hw : a.firing.isSome = true ∨ a.awaited ≠ 0) : s.engFinish cl p = s := by
  rw [State.engFinish, h]
  exact if_pos hw

variable (hf : a.firing = none) (ha : a.awaited = 0)
include hf ha

theorem engFinish_withdrawn (hw : a.withdrawn = true) : s.engFinish cl p = freePlace cl p a s := by
  rw [State.engFinish, h]
  dsimp only
  rw [if_neg (by simp [hf, ha]), if_pos hw]
  rfl

variable (hw : a.withdrawn = false) (hbad : a.bad = none)
include hw hbad

/-- An operation that is idle and not withdrawn goes on until its firings are made, and then writes its DONE where it has one. -/
theorem engFinish_idle : s.engFinish cl p =
    if a.fired < a.repeat_ then s
    else if a.f 0 8 = 0 then freePlace cl p a s
    else if s.doneWaits a.agent (a.f 0 8) = true then s
    else freePlace cl p a (s.agentDone a.agent a.launch (a.f 0 8) (some a.repeat_) a.time) := by
  rw [State.engFinish, h]
  dsimp only
  rw [if_neg (by simp [hf, ha]), if_neg (by simp [hw]), hbad]
  rfl

end

/-- A completion word that can be reached is not waited for. -/
theorem doneWaits_reached {s u : State} {a : Agent} {va pa : Nat} {k : PageKind} (h : s.agentTagged a va = .ok (u, pa, k)) :
    s.doneWaits a va = false := by
  rw [State.doneWaits, h]

theorem agentDone_value {s u v : State} {a : Agent} {va pa x t : Nat} {k : PageKind} {r : LineResult} (lk : Nat)
    (h : s.agentTagged a va = .ok (u, pa, k)) (hs : u.stageOp pa (.store (pa % 128) 4 x) t = (r, v)) :
    s.agentDone a lk va (some x) t = (v.noteTime lk r.ts).setFull pa true := by
  rw [State.agentDone, State.agentDoneAt, h]
  simp only [hs]

theorem agentDone_keep {s u v : State} {a : Agent} {va pa t ts : Nat} {k : PageKind} (lk : Nat)
    (h : s.agentTagged a va = .ok (u, pa, k)) (hs : u.stageEnter pa false t = (ts, v)) :
    s.agentDone a lk va none t = (((v.setTag (pa / 16) false).touch pa 4).noteTime lk ts).setFull pa true := by
  rw [State.agentDone, State.agentDoneAt, h]
  simp only [hs]

/-! ## The words of a CHAIN -/

theorem chainOps_end (d : List Byte) (x y z : Val) (g : Flags) {w : Nat} (r : List Nat) (h : w < 2048) :
    chainOps d x y (w :: r) z g = (z, g) := by
  rw [chainOps]
  exact if_pos (Nat.div_eq_of_lt h)

/-- The second operand of an operation word: an element, or a constant of the descriptor (R290). -/
def chainOperand (d : List Byte) (x y : Val) (w : Nat) : Val :=
  if w / 256 % 8 = 0 then x else if w / 256 % 8 = 1 then y else decodeFmt fmtFP32 (field d (64 + 4 * (w / 256 % 8 - 4)) 4)

theorem chainOps_word (d : List Byte) (x y z : Val) (g : Flags) {w : Nat} (r : List Nat) (h : 2048 ≤ w) :
    chainOps d x y (w :: r) z g =
      chainOps d x y r (chainOp (w / 2048) z (chainOperand d x y w)).1 (g ||| (chainOp (w / 2048) z (chainOperand d x y w)).2) := by
  rw [chainOps]
  exact if_neg (Nat.div_pos h (by decide)).ne'

/-- The sign operations and the rectifier on a value that is no NaN round nothing (R289). -/
theorem chainOp_exact {z : Val} (y : Val) (h : z.isNan = false) :
    chainOp 8 z y = (z.withSign false, 0) ∧ chainOp 9 z y = (z.negate, 0) ∧ (z.neg = true → chainOp 10 z y = (.zero false, 0)) ∧
      (z.neg = false → z.isZero = false → chainOp 10 z y = (z, 0)) := by
  have hn : ¬ z.isNan = true := by simp [h]
  refine ⟨if_neg hn, if_neg hn, fun hneg => ?_, fun hneg hz => ?_⟩
  · exact (if_neg hn).trans (if_pos (by simp [hneg]))
  · exact (if_neg hn).trans (if_neg (by simp [hneg, hz]))

end Sys2Proof.Proofs.MemorySpaces
end

section
/-! PROOFS. Windows, slots and the matrix queue between two instructions: the writer of a closed window, fills of slots, and the head of a
cluster's matrix queue (R260, R299, R301, R302, R307). -/

namespace Sys2Proof.Proofs.MemorySpaces

open Sys2Proof.Machine Sys2Proof.Laws

/-! ## The writer of a closed window -/

/-- One target of a closed window is written: the accumulator's value rounded once, poison where a contribution was poisoned, and the full bit
where the window sets it (R167, R260). -/
def writeTarget (w : Window) (x : State × Nat × Flags) (i : Nat) : State × Nat × Flags :=
  let acc := mget {} w.accs i
  let pa := targetPa w.size i w.phys
  let r := x.1.agentStore pa (acc.result w.f64).1 w.size x.2.1
  let s := if acc.poison then r.2.poisonBytes pa w.size else r.2
  (if w.setFull then s.setFull pa true else s, r.1, x.2.2 ||| (acc.result w.f64).2)

/-- The targets of a closed window are written in order. -/
def writeTargets (w : Window) (s : State) : State × Nat × Flags :=
  (List.range (w.length / w.size)).foldl (writeTarget w) (s, w.time, 0)

theorem onlyMemory_writeTarget (w : Window) (x : State × Nat × Flags) (i : Nat) : OnlyMemory x.1 (writeTarget w x i).1 := by
  have hstore (pa v n t : Nat) : OnlyMemory x.1 (x.1.agentStore pa v n t).2 := onlyMemory_storeNat ..
  unfold writeTarget
  dsimp only
  split <;> split
  · exact ((hstore ..).trans (onlyMemory_poisonBytes ..)).trans (onlyMemory_setFull ..)
  · exact (hstore ..).trans (onlyMemory_setFull ..)
  · exact (hstore ..).trans (onlyMemory_poisonBytes ..)
  · exact hstore ..

theorem onlyMemory_writeTargets (w : Window) (s : State) : OnlyMemory s (writeTargets w s).1 := by
  have fold (l : List Nat) : ∀ x : State × Nat × Flags, OnlyMemory x.1 (l.foldl (writeTarget w) x).1 := by
    induction l with
    | nil => exact fun x => .refl x.1
    | cons i r ih => exact fun x => (onlyMemory_writeTarget w x i).trans (ih _)
  exact fold _ (s, w.time, 0)

/-- A window of one target writes that one. -/
theorem writeTargets_single {w : Window} (s : State) (h : w.length = w.size) : writeTargets w s = writeTarget w (s, w.time, 0) 0 := by
  have hsize : 0 < w.size := by
    unfold Window.size
    split <;> decide
  rw [writeTargets, h, Nat.div_self hsize]
  rfl

section
variable {n : BitVec 8} {s : State} (hu : s.unit = .none)
include hu

theorem exec_writer_absent (h : ∀ e ∈ s.writers, e.1 ≠ n.toNat) : exec (.wfinalWriter n) s = .next s := by
  have hf : (s.writers.find? fun e => e.1 == n.toNat) = none := List.find?_eq_none.2 fun e he => by simpa using h e he
  change execWfinalWriter n s = _
  rw [execWfinalWriter, hu]
  dsimp only
  rw [hf]

variable {w : Window} (hf : s.writers.find? (fun e => e.1 == n.toNat) = some (n.toNat, w))
include hf

theorem exec_writer_waits (h : s.targetsReady w = false ∨ s.doneWaits w.agent w.done = true) : exec (.wfinalWriter n) s = .next s := by
  change execWfinalWriter n s = _
  rw [execWfinalWriter, hu]
  dsimp only
  rw [hf]
  exact if_pos (by simpa using h)

variable (hr : s.targetsReady w = true) (hd : s.doneWaits w.agent w.done = false)
include hr hd

theorem exec_writer {v : State} (hv : v = (writeTargets w s).1.orFlags w.ctx (writeTargets w s).2.2 (writeTargets w s).2.1) :
    exec (.wfinalWriter n) s = .next
      ({ v with writers := v.writers.eraseP fun e => e.1 == n.toNat }.agentDone w.agent w.launch w.done none (writeTargets w s).2.1) := by
  subst hv
  change execWfinalWriter n s = _
  rw [execWfinalWriter, hu]
  dsimp only
  rw [hf]
  exact if_neg (by simp [hr, hd])

/-- Writing the targets leaves the list of writers, from which this one then goes. -/
theorem exec_writer_leaves : ∃ (u : State) (ts : Nat), exec (.wfinalWriter n) s = .next (u.agentDone w.agent w.launch w.done none ts) ∧
    u.writers = s.writers.eraseP (fun e => e.1 == n.toNat) := by
  refine ⟨_, _, exec_writer hu hf hr hd rfl, ?_⟩
  dsimp only
  rw [((onlyMemory_writeTargets w s).trans (onlyMemory_orFlags ..)).writers]

theorem exec_writer_single {acc : ExactAcc} {pa ts : Nat} {u v : State} (hl : w.length = w.size) (hacc : acc = mget {} w.accs 0)
    (hp : acc.poison = false) (hpa : pa = targetPa w.size 0 w.phys) (hs : s.agentStore pa (acc.result w.f64).1 w.size w.time = (ts, u))
    (hv : v = (if w.setFull then u.setFull pa true else u).orFlags w.ctx (acc.result w.f64).2 ts) :
    exec (.wfinalWriter n) s =
      .next ({ v with writers := v.writers.eraseP fun e => e.1 == n.toNat }.agentDone w.agent w.launch w.done none ts) := by
  have written : writeTargets w s = (if w.setFull then u.setFull pa true else u, ts, (acc.result w.f64).2) := by
    have noFlags (g : Flags) : 0 ||| g = g := BitVec.zero_or
    rw [writeTargets_single s hl, writeTarget]
    dsimp only
    rw [← hacc, ← hpa, hs, hp, noFlags]
    rfl
  have h := exec_writer hu hf hr hd (v := v) (by rw [written, hv])
  rwa [written] at h

end

/-! ## Fills of slots -/

/-- The slot of a fill takes a state, and the fill goes on as given or has ended (R299). -/
def putSlot (cl h : Nat) (f : Fill) (x : Handle) (s : State) (rest : Option Fill) (st : SlotState) : State := s.modCluster cl fun k => { k with
  fills := k.fills.filterMap fun y => if y.order = f.order then rest else some y
  handles := mset k.handles h { x with slots := mset x.slots f.slot st } }

theorem putSlot_handle (cl h : Nat) (f : Fill) (x : Handle) (s : State) (rest : Option Fill) (st : SlotState) :
    mfind ((putSlot cl h f x s rest st).cluster cl).handles h = some { x with slots := mset x.slots f.slot st } := by
  rw [putSlot, State.modCluster_cluster]
  exact mfind_mset_same ..

theorem state_putSlot (x : Handle) (slot : Nat) (st : SlotState) : ({ x with slots := mset x.slots slot st } : Handle).state slot = st :=
  mget_mset_same ..

/-- What follows the rows that a fill has taken: all of them, or those before the row it stopped at (R299, R405, R435). -/
def afterRows (cl h : Nat) (f : Fill) (x : Handle) (progress : Nat) (r : Run) : Option Stop → State
  | none => (putSlot cl h f x r.s none .ready).gangOver cl
  | some (.trap code _ _ _ _) => r.s.streamTrap cl code
  | some (.fill pte en level) =>
    putSlot cl h f x (r.s.beginFill pte en level) (some { f with progress := progress, stopped := some pte, time := r.t }) (.filling progress)
  | some (.miss line q _ _) =>
    putSlot cl h f x (r.s.missAgent (.fill cl f.order) line q) (some { f with progress := progress, stopped := none, time := r.t })
      (.filling progress)
  | some _ => putSlot cl h f x r.s (some { f with progress := progress, stopped := none, time := r.t }) (.filling progress)

section
variable {cl : BitVec 7} {h : BitVec 4} {slot : BitVec 11} {s : State} (hu : s.unit = .none)
include hu

theorem exec_slotFill_absent (he : (∀ f ∈ (s.cluster cl.toNat).fills, f.handle ≠ h.toNat ∨ f.slot ≠ slot.toNat) ∨
    mfind (s.cluster cl.toNat).handles h.toNat = none) : exec (.slotFillDone cl h slot) s = .next s := by
  change execSlotFillDone cl h slot s = _
  rw [execSlotFillDone, hu]
  dsimp only
  split
  · next hf hx =>
    obtain he | he := he
    · have ne := he _ (List.mem_of_find?_eq_some hf)
      have eq := List.find?_some hf
      simp only [Bool.and_eq_true, beq_iff_eq] at eq
      exact absurd eq.2 (ne.resolve_left (not_not.2 eq.1))
    · rw [he] at hx
      cases hx
  · rfl

variable {f : Fill} {x : Handle} (hf : (s.cluster cl.toNat).fills.find? (fun f => f.handle == h.toNat && f.slot == slot.toNat) = some f)
  (hx : mfind (s.cluster cl.toNat).handles h.toNat = some x)
include hf hx

theorem exec_slotFill_held (he : s.streamPreempted cl.toNat = true ∨ s.filling_ f.stopped = true ∨
      s.agentBlocked (.fill cl.toNat f.order) = true ∨ (s.cluster cl.toNat).fillReady f = false) :
    exec (.slotFillDone cl h slot) s = .next s := by
  change execSlotFillDone cl h slot s = _
  rw [execSlotFillDone, hu]
  dsimp only
  rw [hf, hx]
  exact if_pos (by simpa [or_assoc] using he)

variable (hs : s.streamPreempted cl.toNat = false) (hl : s.filling_ f.stopped = false)
  (hb : s.agentBlocked (.fill cl.toNat f.order) = false) (hr : (s.cluster cl.toNat).fillReady f = true) (he : f.entry = none)
  {rows left : Nat} {stop : Option Stop} {r : Run} (hrows : rows = if x.role = 1 then 32 else 64)
  (hfill : fillRows (s.streamAgent cl.toNat) cl.toNat x f.slot f.tile (rows - f.progress)
    (s.runOf (s.streamAgent cl.toNat) (.fill cl.toNat f.order) (max f.time (s.cluster cl.toNat).time)) = (left, stop, r))
include hs hl hb hr he hrows hfill

/-- A fill that may run takes the rows that are left, and what follows depends on why it stopped short. -/
theorem exec_slotFill_runs : exec (.slotFillDone cl h slot) s = .next (afterRows cl.toNat h.toNat f x (rows - left) r stop) := by
  subst hrows
  change execSlotFillDone cl h slot s = _
  rw [execSlotFillDone, hu]
  dsimp only
  rw [hf, hx]
  dsimp only
  rw [if_neg (by simp [hs, hl, hb, hr]), he]
  dsimp only
  rw [hfill]
  cases stop with
  | none => rfl
  | some e => cases e <;> simp only [afterRows, putSlot, he]

end

/-! ## The head of the matrix queue -/

section
variable {s : State} {cl : Nat}

theorem matrixStart_empty (hq : (s.cluster cl).queue = []) : s.matrixStart cl = s := by
  rw [State.matrixStart, hq]

variable {o : MatOp} {rest : List MatOp} (hq : (s.cluster cl).queue = o :: rest)
include hq

theorem matrixStart_held (h : o.busy ≠ 0 ∨ s.filling_ o.stopped = true ∨ s.agentBlocked (.matrix cl) = true) : s.matrixStart cl = s := by
  rw [State.matrixStart, hq]
  exact if_pos h

variable (idle : ¬ (o.busy ≠ 0 ∨ s.filling_ o.stopped = true ∨ s.agentBlocked (.matrix cl) = true))
include idle

section
variable {v : BitVec 1} {b a : BitVec 4} {c : BitVec 3} {z : BitVec 1} (hi : o.instr = .mma v b a c z)
include hi

theorem matrixStart_mma_unready (h : (s.cluster cl).mmaReady o a.toNat b.toNat = false) : s.matrixStart cl = s := by
  rw [State.matrixStart, hq]
  dsimp only
  rw [if_neg idle, hi]
  exact if_pos (by simp [h])

variable (hr : (s.cluster cl).mmaReady o a.toNat b.toNat = true)
include hr

/-- Without credit an MMA does not start, and is counted as stalled once (R307). -/
theorem matrixStart_mma_unpaid (h : (s.cluster cl).credit ≤ 0) : s.matrixStart cl =
    if o.held then s
    else s.modCluster cl fun k => { k with stalled := (k.stalled + 1) % 2 ^ 24, queue := { o with held := true } :: rest } := by
  rw [State.matrixStart, hq]
  dsimp only
  rw [if_neg idle, hi]
  dsimp only
  rw [if_neg (by simp [hr]), if_pos h]

variable (hc : 0 < (s.cluster cl).credit)
include hc

/-- An MMA whose accumulator's type forbids it ends the launch (R301). -/
theorem matrixStart_mma_illegal (h : s.mmaRun cl (v == 1) a.toNat b.toNat c.toNat = none) : s.matrixStart cl = s.streamTrap cl 0x13 := by
  rw [State.matrixStart, hq]
  dsimp only
  rw [if_neg idle, hi]
  dsimp only
  rw [if_neg (by simp [hr]), if_neg hc.not_ge, h]

/-- An MMA with slots and credit computes at its start, spends its cost and keeps the unit busy for as long (R302, R307). -/
theorem matrixStart_mma_runs {x y : Handle} {m : AccType} {cost : Nat} {u : State} (hx : mfind (s.cluster cl).handles a.toNat = some x)
    (hy : mfind (s.cluster cl).handles b.toNat = some y) (hm : mmaPair x.format y.format = some (m, cost))
    (h : s.mmaRun cl (v == 1) a.toNat b.toNat c.toNat = some u) :
    s.matrixStart cl = u.modCluster cl fun k => { k with credit := k.credit - cost, queue := { o with busy := cost } :: rest } := by
  rw [State.matrixStart, hq]
  dsimp only
  rw [if_neg idle, hi]
  dsimp only
  rw [if_neg (by simp [hr]), if_neg hc.not_ge, h, hx, hy]
  dsimp only
  rw [hm]
  rfl

end

/-- The state in which MZERO has cleared an accumulator that is no member of a pair and left the queue (R301). -/
def zeroed (cl c : Nat) (s : State) : State := (s.modCluster cl fun k => k.clearAcc c).modCluster cl fun k => { k with queue := k.queue.drop 1 }

theorem matrixStart_mzero {c : BitVec 3} {z : BitVec 1} (hi : o.instr = .mzero c z) (hp : (s.cluster cl).pair64 c.toNat = false) :
    s.matrixStart cl = (zeroed cl c.toNat s).gangOver cl := by
  rw [State.matrixStart, hq]
  dsimp only
  rw [if_neg idle, hi]
  dsimp only
  rw [State.modCluster, hp]
  rfl

section
variable {fmt : BitVec 4} {c : BitVec 3} {z : BitVec 1} (hi : o.instr = .mout fmt c z)
  {d : DrainRows} (hd : d = s.drainRun cl o c.toNat (natBits o.s0.toNat 8 4) false)
include hi hd

theorem matrixStart_mout_ends (h : d.stop = none) : s.matrixStart cl = d.run.s.popQueue cl := by
  rw [State.matrixStart, hq]
  dsimp only
  rw [if_neg idle, hi]
  dsimp only
  rw [← hd, h]

theorem matrixStart_mout_traps {code sub n : Nat} {va : DWord} {b : Bool} (h : d.stop = some (.trap code sub n va b)) :
    s.matrixStart cl = d.run.s.streamTrap cl code := by
  rw [State.matrixStart, hq]
  dsimp only
  rw [if_neg idle, hi]
  dsimp only
  rw [← hd, h]

end
end

theorem zeroed_cluster (cl c : Nat) (s : State) :
    (zeroed cl c s).cluster cl = { (s.cluster cl).clearAcc c with queue := (s.cluster cl).queue.drop 1 } := by
  rw [zeroed, State.modCluster_cluster, State.modCluster_cluster]
  rfl

theorem head_idle {s : State} {cl : Nat} {o : MatOp} (hb : o.busy = 0) (hf : s.filling_ o.stopped = false)
    (ha : s.agentBlocked (.matrix cl) = false) : ¬ (o.busy ≠ 0 ∨ s.filling_ o.stopped = true ∨ s.agentBlocked (.matrix cl) = true) := by
  simp [hb, hf, ha]

theorem exec_matrixStart (cl : BitVec 7) {s : State} (h : s.unit = .none) : exec (.matrixQueueStart cl) s = .next (s.matrixStart cl.toNat) := by
  change execMatrixQueueStart cl s = _
  rw [execMatrixQueueStart, h]

end Sys2Proof.Proofs.MemorySpaces
end

section
/-! PROOFS. The obligation about engine and tile events, from the lemmas about each event. -/

namespace Sys2Proof.Proofs.MemorySpaces

open Sys2Proof.Machine

/-- Settles O53: a clause per event, each by the lemma that says what the event does in that case. A fault's end of the launch is the last
thing done, so the clauses about it name the state that the launch ends in; the list of writers survives the writes of a window because
accesses to memory change the memory system alone (`OnlyMemory`). -/
theorem engineAndTileEvents : Obligations.EngineAndTileEvents := by
  unfold Obligations.EngineAndTileEvents
  refine ⟨?fills, ?firings, ?pieces, ?after, ?finish, ?chain, ?noWriter, ?writer, ?keep, ?slots, ?queue⟩
  case fills =>
    exact fun l s h => ⟨_, exec_fillLineLands l h, rfl, landed_same _ _, fun j hj => landed_other _ hj⟩
  case firings =>
    intro e he cl p s hu
    rw [exec_firing he cl p hu]
    refine ⟨fun h => by rw [fire_nothing h], fun a h => ⟨fun hk => by rw [fire_held h hk], fun hk hb => ⟨fun hf => ?_, ?_, ?_⟩⟩⟩
    · rw [fire_finishes h hk hb hf]
    · rintro f q hm hf rfl
      rw [fire_goesOn h hk hb hm hf]
      rfl
    · rintro f g t u r hm hf hc hbegin hr q rfl
      rw [fire_begins h hk hb hm hf hc hbegin hr]
      rfl
  case pieces =>
    exact fun work a f r n => ⟨fun _ _ h => runPieces_goesOn n h, fun _ h => runPieces_done n h, fun _ h => runPieces_stops n h⟩
  case after =>
    exact fun s cl p a b q hb => ⟨afterPieces_done hb, afterPieces_waits hb, fun _ _ _ h hs => ⟨_, rfl, afterPieces_fill hb h hs⟩,
      fun _ _ _ _ h hs => afterPieces_miss hb h hs, fun _ _ _ _ _ h hs => afterPieces_trap hb h hs⟩
  case finish =>
    intro s cl p a free h hfree
    obtain rfl : free = freePlace cl p a := funext hfree
    refine ⟨engFinish_working h, fun hf ha => ⟨engFinish_withdrawn h hf ha, fun hw hbad => ?_⟩⟩
    rw [engFinish_idle h hf ha hw hbad]
    refine ⟨fun hn => if_pos hn, fun hn hd => ?_, fun hn hd hwait => ?_, fun u pa k r v hn hd hpa hs => ?_⟩
    · rw [if_neg hn.not_gt, if_pos hd]
    · rw [if_neg hn.not_gt, if_neg hd, if_pos hwait]
    · rw [if_neg hn.not_gt, if_neg hd, doneWaits_reached hpa, agentDone_value a.launch hpa hs]
      rfl
  case chain =>
    refine fun d x y w r z g => ⟨rfl, chainOps_end d x y z g r, ?_, chainOp_exact y⟩
    rintro v h rfl
    exact chainOps_word d x y z g r h
  case noWriter => exact fun n s => exec_writer_absent
  case writer =>
    exact fun n s w hu hf => ⟨exec_writer_waits hu hf, fun hr hd => ⟨exec_writer_leaves hu hf hr hd,
      fun _ _ _ _ _ hl hacc hp hpa hs hv => exec_writer_single hu hf hr hd hl hacc hp hpa hs hv⟩⟩
  case keep => exact fun s u v a lk va pa t ts k h hs => agentDone_keep lk h hs
  case slots =>
    rintro cl h slot s k hu rfl
    refine ⟨exec_slotFill_absent hu, fun f x hf hx => ⟨exec_slotFill_held hu hf hx, ?_⟩⟩
    intro rows left stop r hs hl hb hr he hrows hfill
    have hslot : f.slot = slot.toNat := by
      have eq := List.find?_some hf
      simp only [Bool.and_eq_true, beq_iff_eq] at eq
      exact eq.2
    rw [exec_slotFill_runs hu hf hx hs hl hb hr he hrows hfill, ← hslot]
    refine ⟨?_, ?_, ?_⟩
    · rintro rfl
      exact ⟨_, _, rfl, putSlot_handle .., state_putSlot .., rfl⟩
    · rintro w rfl
      exact ⟨_, _, rfl, putSlot_handle .., state_putSlot .., rfl⟩
    · rintro code sub d va b rfl
      rfl
  case queue =>
    rintro cl s k hu rfl
    rw [exec_matrixStart cl hu]
    refine ⟨fun h => by rw [matrixStart_empty h], fun o rest hq => ⟨fun h => by rw [matrixStart_held hq h], ?mma, ?mzero, ?mout⟩⟩
    case mma =>
      intro v b a c z hb hf ha hi
      have idle := head_idle hb hf ha
      refine ⟨fun hr => by rw [matrixStart_mma_unready hq idle hi hr], fun hr hc hheld => ?_, fun hr hc hheld => ?_, ?_⟩
      · rw [matrixStart_mma_unpaid hq idle hi hr hc, if_pos hheld]
      · rw [matrixStart_mma_unpaid hq idle hi hr hc, hheld]
        rfl
      · intro x y m cost hr hc hx hy hm
        refine ⟨fun u hrun => ⟨_, congrArg _ (matrixStart_mma_runs hq idle hi hr hc hx hy hm hrun), ?_⟩, fun hrun => ?_⟩
        · rw [State.modCluster_cluster]
          exact ⟨rfl, rfl, rfl, rfl⟩
        · rw [matrixStart_mma_illegal hq idle hi hr hc hrun]
          rfl
    case mzero =>
      intro c z hb hf ha hi hp
      refine ⟨_, congrArg _ (matrixStart_mzero hq (head_idle hb hf ha) hi hp), rfl, ?_⟩
      rw [zeroed_cluster, hq]
      refine ⟨rfl, mfind_mdel_same .., ?_, fun j hj => mfind_mdel_other _ hj⟩
      exact congrArg (Option.getD · _) (mfind_mdel_same ..)
    case mout =>
      intro fmt c z d hb hf ha hi hd
      have idle := head_idle hb hf ha
      exact ⟨fun h => by rw [matrixStart_mout_ends hq idle hi hd h], fun code sub x va b h => by rw [matrixStart_mout_traps hq idle hi hd h]⟩

end Sys2Proof.Proofs.MemorySpaces
end

section
/-! PROOFS. Barriers: arrivals at those of a group and of a gang, and the departure of the lanes that wait (R113, R207, R262). -/

namespace Sys2Proof.Proofs.MemoryModel

open Sys2Proof.Machine Sys2Proof.Laws Sys2Proof.Proofs.Execution

/-! ## Waking a lane -/

/-- A state with the threads and the cores of another. -/
def withLanes (s t : State) : State := { t with threads := s.threads, cores := s.cores }

/-- Two states differ in their threads, and in which bundles their quads are, alone. -/
def SameButLanes (s t : State) : Prop := withLanes s t = s

theorem SameButLanes.trans {s t u : State} (h : SameButLanes s t) (g : SameButLanes t u) : SameButLanes s u :=
  (congrArg (withLanes s) g).trans h

theorem SameButLanes.foldl {α : Type} {f : State → α → State} (h : ∀ s x, SameButLanes s (f s x)) (l : List α) (s : State) :
    SameButLanes s (l.foldl f s) := by
  induction l generalizing s with
  | nil => rfl
  | cons x r ih => exact (h s x).trans (ih (f s x))

theorem SameButLanes.groups {s t : State} (h : SameButLanes s t) : t.groups = s.groups :=
  (congrArg State.groups h : (withLanes s t).groups = _)

theorem SameButLanes.mem {s t : State} (h : SameButLanes s t) : t.mem = s.mem :=
  (congrArg State.mem h : (withLanes s t).mem = _)

/-- Two threads are alike to the barrier of a group: in their program time, and in whether they wait at it. -/
def AlikeAtBar (t u : Thread) : Prop := u.time = t.time ∧ u.atBarrier .bar = t.atBarrier .bar

theorem AlikeAtBar.refl (t : Thread) : AlikeAtBar t t := ⟨rfl, rfl⟩

theorem AlikeAtBar.trans {t u v : Thread} (h : AlikeAtBar t u) (g : AlikeAtBar u v) : AlikeAtBar t v :=
  ⟨g.1.trans h.1, g.2.trans h.2⟩

/-- A thread after a change of one thread, by the keys of the two. -/
theorem modThread_thread_key (s : State) (k l : Nat) (f : Thread → Thread) (j m : Nat) :
    (s.modThread k l f).thread j m = if 32 * j + m = 32 * k + l then f (s.thread j m) else s.thread j m := by
  refine (mget_mset ..).trans ?_
  split
  · next e => exact congrArg f (congrArg (mget ({} : Thread) s.threads) e).symm
  · rfl

/-- A lane whose wait is met waits at no barrier. -/
theorem atBarrier_ofCode (t : Thread) (n : Nat) (k : WaitKind) : ({ t with st := .ofCode n } : Thread).atBarrier k = false := by
  rcases n with _ | _ | n <;> rfl

/-- One lane of a quad goes on, where it waits only for the others `ls` to complete its instruction (R253). -/
def releasePeer (k : Nat) (ls : List Nat) (s : State) (l : Nat) : State :=
  match (s.thread k l).st with
  | .waiting w =>
    if w.kind = .peers && !w.refile && !(ls.any fun m => (s.thread k m).stillAt w.key) then
      (s.modThread k l fun t => { t with st := .ofCode w.was }).leaveBundle k l
    else s
  | _ => s

theorem releasePeers_eq (s : State) (k l : Nat) : s.releasePeers k l = (quadLanes l).foldl (releasePeer k (quadLanes l)) s := rfl

/-- Releasing a lane from its peers leaves the state, or lets one go on that waited for its peers. -/
theorem releasePeer_cases (k : Nat) (ls : List Nat) (s : State) (l : Nat) : releasePeer k ls s l = s ∨
    ∃ w, (s.thread k l).st = .waiting w ∧ w.kind = .peers ∧
      releasePeer k ls s l = (s.modThread k l fun t => { t with st := .ofCode w.was }).leaveBundle k l := by
  unfold releasePeer
  split
  · next w hw =>
    split
    · next hc =>
      simp only [Bool.and_eq_true, decide_eq_true_eq] at hc
      exact .inr ⟨w, hw, hc.1.1, rfl⟩
    · exact .inl rfl
  · exact .inl rfl

theorem sameButLanes_releasePeer (k : Nat) (ls : List Nat) (s : State) (l : Nat) : SameButLanes s (releasePeer k ls s l) := by
  obtain h | ⟨w, -, -, h⟩ := releasePeer_cases k ls s l
  all_goals
    rw [h]
    rfl

theorem releasePeer_alike (k : Nat) (ls : List Nat) (s : State) (l j m : Nat) :
    AlikeAtBar (s.thread j m) ((releasePeer k ls s l).thread j m) := by
  obtain h | ⟨w, hw, hkind, h⟩ := releasePeer_cases k ls s l
  · rw [h]
    exact .refl _
  · rw [h, leaveBundle_thread, modThread_thread_key]
    split
    · next e =>
      have same : s.thread j m = s.thread k l := congrArg (mget ({} : Thread) s.threads) e
      have waits : (s.thread j m).atBarrier .bar = false := by simp [Thread.atBarrier, same, hw, hkind]
      exact ⟨rfl, (atBarrier_ofCode ..).trans waits.symm⟩
    · exact .refl _

theorem sameButLanes_releasePeers (s : State) (k l : Nat) : SameButLanes s (s.releasePeers k l) :=
  .foldl (sameButLanes_releasePeer k _) _ s

theorem releasePeers_alike (s : State) (k l j m : Nat) : AlikeAtBar (s.thread j m) ((s.releasePeers k l).thread j m) := by
  rw [releasePeers_eq]
  generalize quadLanes l = ls
  suffices h : ∀ (xs : List Nat) (s : State), AlikeAtBar (s.thread j m) ((xs.foldl (releasePeer k ls) s).thread j m) from h ls s
  intro xs
  induction xs with
  | nil => exact fun s => .refl _
  | cons x r ih => exact fun s => (releasePeer_alike k ls s x j m).trans (ih _)

theorem sameButLanes_wake (s : State) (k l : Nat) : SameButLanes s (s.wake k l) :=
  .trans (t := (s.modThread k l fun t => { t with st := .ofCode t.st.code }).leaveBundle k l) rfl (sameButLanes_releasePeers _ k l)

/-- A lane that has been woken waits at no barrier, and keeps its program time; every other lane's are as they were. -/
theorem wake_thread (s : State) (k l j m : Nat) : ((s.wake k l).thread j m).time = (s.thread j m).time ∧
    ((s.wake k l).thread j m).atBarrier .bar = (if 32 * j + m = 32 * k + l then false else (s.thread j m).atBarrier .bar) := by
  obtain ⟨htime, hbar⟩ := releasePeers_alike ((s.modThread k l fun t => { t with st := .ofCode t.st.code }).leaveBundle k l) k l j m
  rw [State.wake, htime, hbar, leaveBundle_thread, modThread_thread_key]
  split
  · exact ⟨rfl, atBarrier_ofCode ..⟩
  · exact ⟨rfl, rfl⟩

/-! ## Departure from the barrier of a group -/

/-- A lane that waits at the barrier of its group goes on with the time given. -/
def departLane (time : Nat) (s : State) (e : Nat × Nat) : State :=
  if (s.thread e.1 e.2).atBarrier .bar then (s.modThread e.1 e.2 fun t => { t with time := time }).wake e.1 e.2 else s

theorem depart_eq (s : State) (time : Nat) (who : List (Nat × Nat)) : s.depart .bar time who = who.foldl (departLane time) s := rfl

theorem sameButLanes_departLane (time : Nat) (s : State) (e : Nat × Nat) : SameButLanes s (departLane time s e) := by
  unfold departLane
  split
  · exact .trans (t := s.modThread e.1 e.2 fun t => { t with time := time }) rfl (sameButLanes_wake ..)
  · rfl

theorem sameButLanes_depart (s : State) (time : Nat) (who : List (Nat × Nat)) : SameButLanes s (s.depart .bar time who) :=
  .foldl (sameButLanes_departLane time) who s

/-- A lane that has gone on waits no longer and has the time given; every other lane is left alike. -/
theorem departLane_thread (time : Nat) (s : State) (e : Nat × Nat) (j m : Nat) :
    if 32 * j + m = 32 * e.1 + e.2 ∧ (s.thread j m).atBarrier .bar = true
    then ((departLane time s e).thread j m).time = time ∧ ((departLane time s e).thread j m).atBarrier .bar = false
    else AlikeAtBar (s.thread j m) ((departLane time s e).thread j m) := by
  unfold departLane
  have same : 32 * j + m = 32 * e.1 + e.2 → s.thread j m = s.thread e.1 e.2 := congrArg (mget ({} : Thread) s.threads)
  by_cases key : 32 * j + m = 32 * e.1 + e.2 <;> by_cases waits : (s.thread e.1 e.2).atBarrier .bar = true
  · obtain ⟨htime, hbar⟩ := wake_thread (s.modThread e.1 e.2 fun t => { t with time := time }) e.1 e.2 j m
    rw [if_pos ⟨key, (same key) ▸ waits⟩, if_pos waits, htime, hbar, modThread_thread_key, if_pos key, if_pos key]
    exact ⟨rfl, rfl⟩
  · rw [if_neg (fun h => waits ((same key) ▸ h.2)), if_neg waits]
    exact .refl _
  · obtain ⟨htime, hbar⟩ := wake_thread (s.modThread e.1 e.2 fun t => { t with time := time }) e.1 e.2 j m
    rw [if_neg (fun h => key h.1), if_pos waits, AlikeAtBar, htime, hbar, modThread_thread_key, if_neg key, if_neg key]
    exact ⟨rfl, rfl⟩
  · rw [if_neg (fun h => key h.1), if_neg waits]
    exact .refl _

/-- Departures leave alike a lane that does not wait. -/
theorem depart_alike {s : State} {j m : Nat} (time : Nat) (who : List (Nat × Nat)) (h : (s.thread j m).atBarrier .bar = false) :
    AlikeAtBar (s.thread j m) ((s.depart .bar time who).thread j m) := by
  rw [depart_eq]
  induction who generalizing s with
  | nil => exact .refl _
  | cons e r ih =>
    have step := departLane_thread time s e j m
    rw [if_neg (by simp [h])] at step
    exact step.trans (ih (step.2.trans h))

/-- Each lane that waits goes on with the time given (R113). -/
theorem depart_waiting {s : State} {who : List (Nat × Nat)} (time : Nat) {e : Nat × Nat} (he : e ∈ who)
    (h : (s.thread e.1 e.2).atBarrier .bar = true) :
    ((s.depart .bar time who).thread e.1 e.2).time = time ∧ ((s.depart .bar time who).thread e.1 e.2).atBarrier .bar = false := by
  induction who generalizing s with
  | nil => cases he
  | cons x r ih =>
    have step := departLane_thread time s x e.1 e.2
    by_cases key : 32 * e.1 + e.2 = 32 * x.1 + x.2
    · rw [if_pos ⟨key, h⟩] at step
      obtain ⟨htime, hbar⟩ := depart_alike time r step.2
      exact ⟨htime.trans step.1, hbar.trans step.2⟩
    · rw [if_neg (fun g => key g.1)] at step
      obtain rfl | hr := List.mem_cons.1 he
      · exact absurd rfl key
      · exact ih hr (step.2.trans h)

/-! ## The check of a group's barrier -/

/-- A group's barrier is to complete: there is a participant, and each has made its arrival (R262). -/
def BarComplete (s : State) (g : Nat) : Prop :=
  s.participants [g] ≠ [] ∧ ∀ e ∈ s.participants [g], (s.group g).barInst < (s.thread e.1 e.2).barCount

theorem barComplete_iff (s : State) (g : Nat) : (!(s.participants [g]).isEmpty &&
    (s.participants [g]).all fun e => decide ((s.group g).barInst < (s.thread e.1 e.2).barCount)) = true ↔ BarComplete s g := by
  simp [BarComplete]

theorem checkBar_of_complete {s : State} {g : Nat} (h : BarComplete s g) : s.checkBar g =
    (s.depart .bar (s.group g).barMax (s.participants [g])).modGroup g fun g => { g with barInst := g.barInst + 1, barMax := 0 } :=
  if_pos ((barComplete_iff s g).2 h)

theorem checkBar_of_not_complete {s : State} {g : Nat} (h : ¬ BarComplete s g) : s.checkBar g = s :=
  if_neg fun c => h ((barComplete_iff s g).1 c)

/-! ## Arrivals -/

/-- The time of a lane's arrival at its group's barrier: later than every arrival before it (R113). -/
def barTime (s : State) (c : Ctx) : Nat := max (s.thread c.crew c.lane).time ((s.group c.group).barMax + 1)

/-- The time of a lane's arrival at its gang's barrier. -/
def gbarTime (s : State) (c : Ctx) (g : Nat) : Nat := max (s.thread c.crew c.lane).time ((s.gang g).gbarMax + 1)

theorem arriveBar_thread (s : State) (c : Ctx) : (s.arriveBar c).thread c.crew c.lane =
    { (s.thread c.crew c.lane).arrive .bar ((s.thread c.crew c.lane).barCount + 1) (barTime s c) s.stamp with
      barCount := (s.thread c.crew c.lane).barCount + 1 } := mget_mset_same ..

theorem arriveBar_barMax (s : State) (c : Ctx) : ((s.arriveBar c).group c.group).barMax = barTime s c :=
  congrArg Group.barMax (State.modGroup_group _ c.group fun g => { g with barMax := barTime s c })

theorem arriveGbar_thread (s : State) (c : Ctx) (g : Nat) : (s.arriveGbar c g).thread c.crew c.lane =
    { (s.thread c.crew c.lane).arrive .gbar ((s.thread c.crew c.lane).gbarCount + 1) (gbarTime s c g) s.stamp with
      gbarCount := (s.thread c.crew c.lane).gbarCount + 1 } := mget_mset_same ..

theorem arriveGbar_gbarMax (s : State) (c : Ctx) (g : Nat) : ((s.arriveGbar c g).gang g).gbarMax = gbarTime s c g :=
  congrArg Gang.gbarMax (State.modGang_gang _ g fun x => { x with gbarMax := gbarTime s c g })

/-! ## The instructions -/

/-- A convergence instruction, issued to one lane which executes it and whose computation succeeds; then the crews settle (R206). -/
theorem converge_runs {i : Instr} {x : Issue} {k l : Nat} {s t : State} {body : Ctx → LaneM Unit} (h : Runs i x k l s)
    (he : (shapeOf i).entry = false) (hb : body (s.ctxOf x k l) (s.begun x k l) = .ok ((), t)) :
    converge i body s = .next ((t.afterInstr (s.ctxOf x k l)).settleCrews x) := by
  rw [converge, h.unit]
  dsimp only
  rw [runLanes_one h.parts h.lane he, runLane_ok h.crew h.legal h.guard (quietly_ok hb)]

/-- Settles O40: an arrival changes the lane and the largest arrival time of its barrier; the check of a barrier lets go the lanes that wait
there, or changes nothing. -/
theorem barrierArrivals : Obligations.BarrierArrivals := by
  unfold Obligations.BarrierArrivals
  refine ⟨?_, ?_, ?_, ?_, ?_⟩
  · rintro j n p x k l s c h rfl
    change execBar j n p s = _
    refine converge_runs h rfl ?_
    split <;> rfl
  · rintro j n p x k l s c h rfl
    change execGbar j n p s = _
    refine converge_runs h rfl ?_
    split <;> rfl
  · rintro s c u v ts rfl rfl rfl
    rw [arriveBar_thread, arriveBar_barMax]
    exact ⟨rfl, rfl, rfl, rfl, rfl, rfl⟩
  · rintro s c g u v ts rfl rfl rfl
    rw [arriveGbar_thread, arriveGbar_gbarMax]
    exact ⟨rfl, rfl, rfl, rfl, rfl, rfl⟩
  · rintro s g t rfl
    refine ⟨fun h => ?_, checkBar_of_not_complete⟩
    rw [checkBar_of_complete h]
    have same := sameButLanes_depart s (s.group g).barMax (s.participants [g])
    have hgroup : (s.depart .bar (s.group g).barMax (s.participants [g])).group g = s.group g :=
      congrArg (fun m => mget noGroup m g) same.groups
    rw [State.modGroup_group, hgroup]
    exact ⟨rfl, rfl, same.mem, fun e he hw => depart_waiting _ he hw⟩

end Sys2Proof.Proofs.MemoryModel
end

section
/-! PROOFS. A reply for a lane whose key the map of threads lists twice: the lane does not keep what its access found (R135, R253). -/

namespace Sys2Proof.Proofs.MemoryModel

open Sys2Proof.Machine

/-- A slice's load of the first word of line 0x80 has missed, for lane 0 of crew 0. -/
def lineLoad : Req := { event := 0, agent := 5, op := some (.load 0 4), who := some (.lane 0), ticket := 1 }

/-- The reply that brings the line. -/
def lineReply : Msg := { event := 40, agent := 5, line := 0x80, data := some Tests.zeroLine }

/-- What lane 0 of crew 0 waits for: the line. -/
def lineWait : Wait := { kind := .miss, ticket := 1 }

/-- The reply is on its way to its lane. The map of threads lists the key of the lane a second time, with a thread that WAITV has descheduled on
the next word of the line (R253): every read of the map finds the first thread, but the list of the line's watchers names the key. -/
def doubledLane : State := { State.reset with
  msgs := [lineReply]
  pendingReq := [(5, 0x80, lineLoad)]
  threads := [(0, { st := .waiting lineWait }), (0, { st := .waiting { kind := .waitv, key := 0x4004, old := 1 } })] }

/-- The state after the reply. -/
def doubledLaneAfter : State := { doubledLane with msgs := [] }.takeReply lineReply lineLoad

theorem doubledLane_reply : exec (.requesterReply 5 0x80) doubledLane = .next doubledLaneAfter := by
  change execRequesterReply 5 0x80 doubledLane = _
  rfl

/-- The reply gives the lane the word of its load, and then wakes the line's watchers by their keys: the lane has got the watcher's word alone. -/
theorem doubledLaneAfter_got : ((doubledLaneAfter.thread 0 0).got.map fun g => g.pa) = [0x4004] := by decide

/-- Refutes O47: the clause on replies says that the lane has got what its access found, and it has not where the map of threads lists its key
twice: the statement speaks of every state, and does not ask that the keys of the threads be distinct. -/
theorem not_coherenceCopyAndErrorEvents : ¬ Obligations.CoherenceCopyAndErrorEvents := by
  unfold Obligations.CoherenceCopyAndErrorEvents
  intro ⟨_, hreplies, _⟩
  obtain ⟨_, hreply⟩ := hreplies 5 0x80 doubledLane lineReply rfl
  obtain ⟨_, hload⟩ := hreply (by decide)
  obtain ⟨t, ht, _, _, _, hgot⟩ := hload lineLoad Tests.zeroLine false rfl (by decide) rfl rfl (by simp [lineLoad]) (by decide) (by decide)
    (by decide) (by decide) (by decide)
  have got := hgot 0 0 lineWait rfl (by decide) rfl rfl rfl (by decide) (.load 0 4) rfl (.inl rfl)
  rw [doubledLane_reply] at ht
  cases ht
  have pas := doubledLaneAfter_got
  rw [got] at pas
  revert pas
  decide

end Sys2Proof.Proofs.MemoryModel
end

section
/-! PROOFS. Packets of this package: their replies, resends and routes, and its ports (R114, R358, R360, R361, R440, R441, R442). -/

namespace Sys2Proof.Proofs.MemoryModel

open Sys2Proof.Machine Sys2Proof.Proofs.Execution Sys2Proof.Proofs.MemorySpaces

/-- Between two instructions an event takes place. -/
theorem match_unit_none {α : Type} {s : State} (hu : s.unit = .none) (a b : α) :
    (match s.unit with | .none => a | _ => b) = a := by rw [hu]

/-! ## Replies -/

/-- What a reply brings to the lanes of its packet: STATUS, timestamp, MASK and elements (R365). -/
structure ReplyFields where
  key : Nat
  status : Nat
  ts : Nat
  mask : Word
  data : Nat

/-- The thread of a lane, the n-th of its packet, that has taken its element, the STATUS and the timestamp of a reply (R114). -/
def taken (r : ReplyFields) (p : Packet) (n : Nat) (w : Wait) (t : Thread) : Thread :=
  { t with
    reply := some { status := r.status, data := natBits r.data (8 * p.size * n) (8 * p.size), sent := p.elem n, addr := w.addr }
    time := max t.time r.ts }

/-- A lane awaits the element that a reply brings it. -/
def Awaits (r : ReplyFields) (l : Nat) (t : Thread) (w : Wait) : Prop :=
  t.st = .waiting w ∧ w.kind = .remote ∧ w.key = r.key ∧ r.mask.getLsbD l = true

/-- A lane of a packet, given with its place, takes its element of a reply where it awaits it. -/
def giveElement (r : ReplyFields) (p : Packet) (crew : Nat) (s : State) (e : Nat × Nat) : State :=
  match (s.thread crew e.1).st with
  | .waiting w => if w.kind = .remote ∧ w.key = r.key ∧ r.mask.getLsbD e.1 then s.modThread crew e.1 (taken r p e.2 w) else s
  | _ => s

theorem giveElement_of_awaits {r : ReplyFields} {p : Packet} {crew : Nat} {s : State} {e : Nat × Nat} {w : Wait}
    (h : Awaits r e.1 (s.thread crew e.1) w) : giveElement r p crew s e = s.modThread crew e.1 (taken r p e.2 w) := by
  obtain ⟨hst, hw⟩ := h
  simp only [giveElement, hst, if_pos hw]

theorem giveElement_of_not_awaits {r : ReplyFields} {p : Packet} {crew : Nat} {s : State} {e : Nat × Nat}
    (h : ∀ w, ¬ Awaits r e.1 (s.thread crew e.1) w) : giveElement r p crew s e = s := by
  unfold giveElement
  split
  · next w hw => exact if_neg fun hc => h w ⟨hw, hc⟩
  · rfl

section
variable (r : ReplyFields) (p : Packet) (crew : Nat) (s : State)

/-- Giving elements changes nothing but threads of the crew. -/
theorem sameButLanes_giveElement (e : Nat × Nat) : SameButLanes s (giveElement r p crew s e) := by
  by_cases h : ∃ w, Awaits r e.1 (s.thread crew e.1) w
  · obtain ⟨w, hw⟩ := h
    rw [giveElement_of_awaits hw]
    rfl
  · rw [giveElement_of_not_awaits fun w hw => h ⟨w, hw⟩]
    rfl

theorem giveElement_others {e : Nat × Nat} {j : Nat} (h : j ≠ 32 * crew + e.1) :
    mfind (giveElement r p crew s e).threads j = mfind s.threads j := by
  by_cases ha : ∃ w, Awaits r e.1 (s.thread crew e.1) w
  · obtain ⟨w, hw⟩ := ha
    rw [giveElement_of_awaits hw]
    exact mfind_mset_other _ _ h
  · rw [giveElement_of_not_awaits fun w hw => ha ⟨w, hw⟩]

theorem giveElement_thread_other {e : Nat × Nat} {l : Nat} (h : l ≠ e.1) :
    (giveElement r p crew s e).thread crew l = s.thread crew l :=
  congrArg (·.getD {}) (giveElement_others r p crew s (by omega))

theorem giveElements_others {xs : List (Nat × Nat)} (h : ∀ e ∈ xs, e.1 < 32) {j : Nat} (hj : j / 32 ≠ crew) :
    mfind (xs.foldl (giveElement r p crew) s).threads j = mfind s.threads j := by
  induction xs generalizing s with
  | nil => rfl
  | cons x xs ih =>
    have hx := h x (List.mem_cons_self ..)
    exact (ih _ fun e he => h e (List.mem_cons_of_mem _ he)).trans (giveElement_others r p crew s (by omega))

/-- A lane that awaits none of the elements is as it was. -/
theorem giveElements_idle {xs : List (Nat × Nat)} {l : Nat} (h : l ∉ xs.map (·.1) ∨ ∀ w, ¬ Awaits r l (s.thread crew l) w) :
    (xs.foldl (giveElement r p crew) s).thread crew l = s.thread crew l := by
  induction xs generalizing s with
  | nil => rfl
  | cons x xs ih =>
    have step : (giveElement r p crew s x).thread crew l = s.thread crew l := by
      by_cases e : l = x.1
      · subst e
        rw [giveElement_of_not_awaits (h.resolve_left (not_not_intro (List.mem_cons_self ..)))]
      · exact giveElement_thread_other r p crew s e
    rw [List.foldl_cons, ih, step]
    exact h.imp (fun hl hm => hl (List.mem_cons_of_mem _ hm)) fun hw => by rwa [step]

/-- A lane that awaits its element takes it. -/
theorem giveElements_taken {xs : List (Nat × Nat)} (h : (xs.map (·.1)).Nodup) {l n : Nat} (he : (l, n) ∈ xs) {w : Wait}
    (hw : Awaits r l (s.thread crew l) w) :
    (xs.foldl (giveElement r p crew) s).thread crew l = taken r p n w (s.thread crew l) := by
  induction xs generalizing s with
  | nil => cases he
  | cons x xs ih =>
    obtain ⟨hx, hxs⟩ := List.nodup_cons.1 h
    obtain rfl | he := List.mem_cons.1 he
    · rw [List.foldl_cons, giveElements_idle r p crew _ (.inl hx), giveElement_of_awaits hw]
      exact State.modThread_thread ..
    · have step : (giveElement r p crew s x).thread crew l = s.thread crew l :=
        giveElement_thread_other r p crew s fun e => hx (List.mem_map.2 ⟨_, he, e⟩)
      rw [List.foldl_cons, ih _ hxs he (by rwa [step]), step]

end

/-- A packet whose reply has come, or is given up: it is no longer kept, and its tag cools (R441). -/
def releaseTag (s : State) (key : Nat) : State := { s with sent := mdel s.sent key, tagFree := mset s.tagFree key (s.clock + 2 ^ 21) }

theorem packet_lanes_map_zipIdx (p : Packet) : p.lanes.zipIdx.map (·.1) = p.lanes := List.zipIdx_map_fst ..

theorem packet_lanes_nodup (p : Packet) : p.lanes.Nodup := List.nodup_range.filter _

theorem packet_lanes_lt (p : Packet) : ∀ l ∈ p.lanes, l < 32 := fun _ h => List.mem_range.1 (List.mem_filter.1 h).1

section
variable {d : BitVec 1} {tag : BitVec 12} {st : BitVec 5} {ts : BitVec 64} {m : BitVec 32} {data : BitVec 4096} {s : State} {x : Sent}
  (hu : s.unit = .none)
include hu

theorem placementReply_none (h : mfind s.sent (4096 * d.toNat + tag.toNat) = none) : exec (.placementReply d tag st ts m data) s = .next s := by
  refine (match_unit_none hu _ _).trans ?_
  simp only [h]

/-- A reply to a packet of lanes. -/
theorem placementReply_lanes (h : mfind s.sent (4096 * d.toNat + tag.toNat) = some x) (he : x.engine = none) :
    exec (.placementReply d tag st ts m data) s = .next (x.packet.lanes.zipIdx.foldl
      (giveElement ⟨4096 * d.toNat + tag.toNat, st.toNat, ts.toNat, m, data.toNat⟩ x.packet x.crew)
      (releaseTag s (4096 * d.toNat + tag.toNat))) := by
  refine (match_unit_none hu _ _).trans ?_
  simp only [h, he]
  rfl

/-- A reply to a packet of a COLL operation. -/
theorem placementReply_engine {e : Nat} (h : mfind s.sent (4096 * d.toNat + tag.toNat) = some x) (he : x.engine = some e) :
    exec (.placementReply d tag st ts m data) s = .next ((releaseTag s (4096 * d.toNat + tag.toNat)).modCluster (e / 64) fun k =>
      { k with armed := mmap k.armed fun p a =>
          if p = e % 64 then { a with time := max a.time ts.toNat, awaited := a.awaited - 1, bad := if st = 0 then a.bad else some st.toNat }
          else a }) := by
  refine (match_unit_none hu _ _).trans ?_
  simp only [h, he]
  rfl

end

/-! ## Resends -/

section
variable {d : BitVec 1} {tag : BitVec 12} {s : State} {x : Sent} (hu : s.unit = .none)
include hu

theorem packetResend_none (h : mfind s.sent (4096 * d.toNat + tag.toNat) = none) : exec (.packetResend d tag) s = .next s := by
  refine (match_unit_none hu _ _).trans ?_
  simp only [h]

variable (h : mfind s.sent (4096 * d.toNat + tag.toNat) = some x)
include h

theorem packetResend_early (ht : s.clock < x.lastSent + 2 ^ 18) : exec (.packetResend d tag) s = .next s := by
  refine (match_unit_none hu _ _).trans ?_
  simp only [h, if_pos ht]

variable (ht : x.lastSent + 2 ^ 18 ≤ s.clock)
include ht

section
variable (hs : x.sends < 4) {l : List Nat} (hl : s.routes x.packet.peer d.toNat x.packet.page = l)
include hs hl

/-- A packet that has no route counts its send all the same (R441). -/
theorem packetResend_no_route (hr : l[(x.route + 1) % max 1 l.length]? = none) : exec (.packetResend d tag) s = .next { s with
    sent := mset s.sent (4096 * d.toNat + tag.toNat) { x with lastSent := s.clock, sends := x.sends + 1 } } := by
  refine (match_unit_none hu _ _).trans ?_
  simp only [h, if_neg (Nat.not_lt.2 ht), if_neg (Nat.not_le.2 hs), hl, hr]

/-- A packet that is sent again goes by the next of its routes (R441). -/
theorem packetResend_routed {port : Nat} (hr : l[(x.route + 1) % max 1 l.length]? = some port) : exec (.packetResend d tag) s =
    .next { s.sendRequest port x.packet x.engine.isSome with
      sent := mset s.sent (4096 * d.toNat + tag.toNat) { x with lastSent := s.clock, sends := x.sends + 1, route := x.route + 1 } } := by
  refine (match_unit_none hu _ _).trans ?_
  simp only [h, if_neg (Nat.not_lt.2 ht), if_neg (Nat.not_le.2 hs), hl, hr]

end

variable (hs : 4 ≤ x.sends)
include hs

/-- A packet of lanes that is given up kills their group (R442). -/
theorem packetResend_kills (he : x.engine = none) : exec (.packetResend d tag) s =
    .next (if (mfind s.crews x.crew).isSome then
      (releaseTag s (4096 * d.toNat + tag.toNat)).killGroup (s.crew x.crew).group 0x11B
    else releaseTag s (4096 * d.toNat + tag.toNat)) := by
  refine (match_unit_none hu _ _).trans ?_
  simp only [h, if_neg (Nat.not_lt.2 ht), if_pos hs, he]
  rfl

/-- A packet of a COLL operation that is given up ends the operation's launch (R442). -/
theorem packetResend_ends {e : Nat} {a : Armed} (he : x.engine = some e) (ha : mfind (s.cluster (e / 64)).armed (e % 64) = some a) :
    exec (.packetResend d tag) s = .next ((releaseTag s (4096 * d.toNat + tag.toNat)).terminate a.launch 0x11B) := by
  have found : mget ({ kind := .coll, launch := 0, desc := [] } : Armed) (s.cluster (e / 64)).armed (e % 64) = a :=
    congrArg (·.getD { kind := .coll, launch := 0, desc := [] }) ha
  refine (match_unit_none hu _ _).trans ?_
  simp only [h, if_neg (Nat.not_lt.2 ht), if_pos hs, he]
  exact congrArg (fun a : Armed => Host.Outcome.next ((releaseTag s (4096 * d.toNat + tag.toNat)).terminate a.launch 0x11B)) found

end

/-! ## Routes -/

/-- The ports of a list that are up. -/
def upPorts (s : State) (l : List Nat) : List Nat := l.filter fun p => !s.portDown p

theorem mem_upPorts {s : State} {l : List Nat} {p : Nat} (h : p ∈ upPorts s l) : s.portDown p = false := by
  simpa using (List.mem_filter.1 h).2

/-- The peer by which packets for another of the clique go where no port towards it is up (R361). -/
def detourPeer (s : State) (peer d page : Nat) : Option Nat :=
  ((List.range 16).map (16 * (s.pkgId / 16) + ·)).find? fun x =>
    x != s.pkgId && x != peer && !(upPorts s (cliqueOrder s.pkgId x d page)).isEmpty && s.peerReaches x peer d page

theorem routes_clique {s : State} {peer d page : Nat} (h : peer / 16 = s.pkgId / 16) (hup : upPorts s (cliqueOrder s.pkgId peer d page) ≠ []) :
    s.routes peer d page = upPorts s (cliqueOrder s.pkgId peer d page) := by
  simp only [State.routes, if_pos h]
  split
  · next e => exact absurd e hup
  · rfl

theorem routes_detour {s : State} {peer d page : Nat} (h : peer / 16 = s.pkgId / 16) (hup : upPorts s (cliqueOrder s.pkgId peer d page) = []) :
    s.routes peer d page = match detourPeer s peer d page with
      | some x => upPorts s (cliqueOrder s.pkgId x d page)
      | none => [] := by
  simp only [State.routes, if_pos h]
  split
  · rfl
  · next hne => exact absurd hup hne

theorem routes_plane {s : State} {peer d page : Nat} (h : peer / 16 ≠ s.pkgId / 16) :
    s.routes peer d page = upPorts s ((List.range 34).map fun i => planePort d ((peer + page % 64 + i) % 34)) := if_neg h

/-- A packet leaves only by a port that is up (R440). -/
theorem routes_up {s : State} {peer d page p : Nat} (hp : p ∈ s.routes peer d page) : s.portDown p = false := by
  by_cases h : peer / 16 = s.pkgId / 16
  · by_cases hup : upPorts s (cliqueOrder s.pkgId peer d page) = []
    · rw [routes_detour h hup] at hp
      split at hp
      · exact mem_upPorts hp
      · cases hp
    · exact mem_upPorts (routes_clique h hup ▸ hp)
  · exact mem_upPorts (routes_plane h ▸ hp)

theorem upPorts_cons {s : State} {p : Nat} (l : List Nat) (h : s.portDown p = false) : upPorts s (p :: l) = p :: upPorts s l :=
  List.filter_cons_of_pos (by simp [h])

theorem upPorts_isEmpty (s : State) (l : List Nat) : (!(upPorts s l).isEmpty) = l.any fun p => !s.portDown p := by
  rw [Bool.eq_iff_iff]
  simp [upPorts]

/-- A list whose first port is up begins with it. -/
theorem head_upPorts_cons {s : State} {p : Nat} (l : List Nat) (h : s.portDown p = false) : (upPorts s (p :: l)).head? = some p := by
  rw [upPorts_cons l h]
  rfl

/-- The first port of a list that is up (R360). -/
theorem head_upPorts (s : State) (l : List Nat) : (upPorts s l).head? = l.find? fun p => !s.portDown p := List.head?_filter ..

theorem routes_head_clique {s : State} {peer d page : Nat} (h : peer / 16 = s.pkgId / 16)
    (hp : s.portDown (cliquePort s.pkgId peer d + page % 2) = false) :
    (s.routes peer d page).head? = some (cliquePort s.pkgId peer d + page % 2) := by
  have hhead : (upPorts s (cliqueOrder s.pkgId peer d page)).head? = some (cliquePort s.pkgId peer d + page % 2) := head_upPorts_cons _ hp
  rw [routes_clique h fun e => by rw [e] at hhead; cases hhead]
  exact hhead

theorem routes_head_plane {s : State} {peer d page : Nat} (h : peer / 16 ≠ s.pkgId / 16)
    (hp : s.portDown (planePort d ((peer + page % 64) % 34)) = false) :
    (s.routes peer d page).head? = some (planePort d ((peer + page % 64) % 34)) := by
  rw [routes_plane h, List.range_eq_range', List.range'_succ, List.map_cons]
  exact head_upPorts_cons _ hp

/-- Where no port towards a peer of the clique is up, its packets go by the ports towards the detour peer (R361). -/
theorem routes_by_detour {s : State} {peer d page x : Nat} (h : peer / 16 = s.pkgId / 16)
    (hdown : ∀ p ∈ cliqueOrder s.pkgId peer d page, s.portDown p = true)
    (hx : ((List.range 16).map (16 * (s.pkgId / 16) + ·)).find? (fun y => y != s.pkgId && y != peer &&
      (cliqueOrder s.pkgId y d page).any (fun p => !s.portDown p) && s.peerReaches y peer d page) = some x) :
    s.routes peer d page = upPorts s (cliqueOrder s.pkgId x d page) := by
  have none_up : upPorts s (cliqueOrder s.pkgId peer d page) = [] := List.filter_eq_nil_iff.2 fun p hp => by simp [hdown p hp]
  have found : detourPeer s peer d page = some x := by
    rw [detourPeer, ← hx]
    exact congrArg (List.find? · _) (funext fun y => by rw [upPorts_isEmpty])
  rw [routes_detour h none_up, found]

/-! ## Ports -/

theorem msix0_ports (s : State) : s.msix0.ports = s.ports := by
  unfold State.msix0
  split <;> rfl

theorem msix0_errSeq (s : State) : s.msix0.errSeq = s.errSeq := by
  unfold State.msix0
  split <;> rfl

section
variable (s : State) (cls unit count paddr unitid ctx gname action : Nat)

theorem errorRecord_of_no_log (h : s.elog = 0) : s.errorRecord cls unit count paddr unitid ctx gname action = s := if_pos h

/-- Where there is a log, an error record is stored and counted, and may be signalled (R418, R419). -/
theorem errorRecord_of_log (h : s.elog ≠ 0) : ∃ u : State, OnlyMemory s u ∧
    s.errorRecord cls unit count paddr unitid ctx gname action =
      if 2 ≤ cls then { u with errSeq := s.errSeq + 1 }.msix0 else { u with errSeq := s.errSeq + 1 } := by
  unfold State.errorRecord
  rw [if_neg h]
  extract_lets a body
  have hbody : OnlyMemory s (s.storeBytes (a + 4) body 0).2 := onlyMemory_storeParts ..
  generalize s.storeBytes (a + 4) body 0 = r at hbody ⊢
  have kept : r.2.errSeq = s.errSeq := (congrArg State.errSeq hbody : (withMemory s r.2).errSeq = _)
  dsimp only
  rw [kept]
  exact ⟨_, hbody.trans (onlyMemory_storeNat r.2 a (s.errSeq + 1) 4 r.1), rfl⟩

theorem errorRecord_ports : (s.errorRecord cls unit count paddr unitid ctx gname action).ports = s.ports := by
  by_cases h : s.elog = 0
  · rw [errorRecord_of_no_log _ _ _ _ _ _ _ _ _ h]
  · obtain ⟨u, hu, e⟩ := errorRecord_of_log s cls unit count paddr unitid ctx gname action h
    have kept : u.ports = s.ports := (congrArg State.ports hu : (withMemory s u).ports = _)
    rw [e]
    split
    · exact (msix0_ports _).trans kept
    · exact kept

theorem errorRecord_errSeq (h : s.elog ≠ 0) :
    (s.errorRecord cls unit count paddr unitid ctx gname action).errSeq = s.errSeq + 1 := by
  obtain ⟨u, -, e⟩ := errorRecord_of_log s cls unit count paddr unitid ctx gname action h
  rw [e]
  split
  · exact msix0_errSeq _
  · rfl

end

/-- The state after the record of a port's change (R440). -/
def portRecord (s : State) (m : Map Bool) (port action : Nat) : State := { s with ports := m }.errorRecord 2 12 1 0 port 0 0 action

theorem portRecord_portDown (s : State) (m : Map Bool) (port action n : Nat) : (portRecord s m port action).portDown n = mget false m n :=
  congrArg (mget false · n) (errorRecord_ports { s with ports := m } 2 12 1 0 port 0 0 action)

theorem portRecord_of_no_log {s : State} (m : Map Bool) (port action : Nat) (h : s.elog = 0) : portRecord s m port action = { s with ports := m } :=
  errorRecord_of_no_log { s with ports := m } 2 12 1 0 port 0 0 action h

theorem portRecord_of_log {s : State} (m : Map Bool) (port action : Nat) (h : s.elog ≠ 0) : (portRecord s m port action).errSeq = s.errSeq + 1 :=
  errorRecord_errSeq { s with ports := m } 2 12 1 0 port 0 0 action h

section
variable {p : BitVec 7} {s : State} (hu : s.unit = .none)
include hu

theorem portDown_again (h : s.portDown p.toNat = true) : exec (.portDown p) s = .next s :=
  (match_unit_none hu _ _).trans (if_pos h)

theorem portUp_again (h : s.portDown p.toNat = false) : exec (.portUp p) s = .next s :=
  (match_unit_none hu _ _).trans (if_neg (by simp [h]))

theorem portDown_record (h : s.portDown p.toNat = false) :
    exec (.portDown p) s = .next (portRecord s (mset s.ports p.toNat true) p.toNat 6) :=
  (match_unit_none hu _ _).trans (if_neg (by simp [h]))

theorem portUp_record (h : s.portDown p.toNat = true) : exec (.portUp p) s = .next (portRecord s (mdel s.ports p.toNat) p.toNat 7) :=
  (match_unit_none hu _ _).trans (if_pos h)

end

/-- A packet that is forwarded goes by the first port towards its target that is up (R361). -/
theorem detourForward_eq {hdr : BitVec 256} {offs : BitVec 512} {data : BitVec 4096} {s : State} {p : Packet} (hu : s.unit = .none)
    (hp : p = { hdr := hdr, offs := offs, data := data }) : exec (.detourForward hdr offs data) s =
    match upPorts s (cliqueOrder s.pkgId p.peer (natBits hdr.toNat 63 1) p.page) with
    | port :: _ =>
      .next (if p.opcode = 0x40 then s.send (.packet port 1 (p.bytes (data != 0)) false) else s.sendRequest port p (p.opcode == 0x18))
    | [] => .next s := by
  subst hp
  exact match_unit_none hu _ _

end Sys2Proof.Proofs.MemoryModel
end

section
/-! PROOFS. Requests of other packages and their replies: what is performed once, and what is answered again (R114, R272, R364, R365, R366,
R441, R443). -/

namespace Sys2Proof.Proofs.MemoryModel

open Sys2Proof.Machine Sys2Proof.Proofs.Execution Sys2Proof.Proofs.MemorySpaces

/-! ## The header of a packet -/

theorem natBits_one_beq (x n : Nat) : (natBits x n 1 == 1) = x.testBit n := by
  rw [Nat.testBit_eq_decide_div_mod_eq, natBits, pow_one]
  rfl

/-- A MASK of one bit names one lane (R365). -/
theorem lanes_of_mask {p : Packet} {l : Nat} (hl : l < 32) (h : natBits p.hdr.toNat 128 32 = 2 ^ l) : p.lanes = [l] := by
  have bits : ∀ i ∈ lanes32, (natBits p.hdr.toNat (128 + i) 1 == 1) = decide (l = i) := by
    intro i hi
    have hbit : (natBits p.hdr.toNat 128 32).testBit i = p.hdr.toNat.testBit (128 + i) := by
      rw [natBits, Nat.testBit_mod_two_pow, Nat.testBit_div_two_pow, decide_eq_true (List.mem_range.1 hi), Bool.true_and, Nat.add_comm]
    rw [natBits_one_beq, ← hbit, h, Nat.testBit_two_pow]
  have one : ∀ l : Fin 32, lanes32.filter (fun i => decide ((l : Nat) = i)) = [(l : Nat)] := by decide
  exact (List.filter_congr bits).trans (one ⟨l, hl⟩)

/-- The fields of a reply's header (R365). -/
theorem replyHeader_fields {size st a b c m t : Nat} (hsize : size < 8) (hst : st < 32) (ha : a < 2 ^ 10) (hb : b < 2 ^ 10) (hc : c < 2 ^ 12)
    (hm : m < 2 ^ 32) (ht : t < 2 ^ 64) {x : Nat}
    (hx : x = 0x40 + 2 ^ 8 * size + 2 ^ 11 * st + 2 ^ 16 * a + 2 ^ 26 * b + 2 ^ 52 * c + 2 ^ 128 * m + 2 ^ 160 * t) :
    x < 2 ^ 256 ∧ natBits x 0 8 = 0x40 ∧ natBits x 11 5 = st ∧ natBits x 16 10 = a ∧ natBits x 52 12 = c ∧ natBits x 128 32 = m ∧
      natBits x 160 64 = t := by
  simp only [natBits]
  omega

/-- The fields of a put's header (R365). -/
theorem putHeader_fields {size a b c name reg wide t : Nat} (hsize : size < 8) (ha : a < 2 ^ 10) (hb : b < 2 ^ 10) (hc : c < 2 ^ 12)
    (hname : name < 2 ^ 32) (hreg : reg < 2 ^ 5) (hwide : wide < 2) (ht : t < 2 ^ 64) {x : Nat}
    (hx : x = 0xA0 + 2 ^ 8 * size + 2 ^ 16 * a + 2 ^ 26 * b + 2 ^ 52 * c + 2 ^ 64 * name + 2 ^ 104 * reg + 2 ^ 109 * wide + 2 ^ 128 +
      2 ^ 160 * t) :
    x < 2 ^ 256 ∧ natBits x 0 7 = 0x20 ∧ natBits x 8 3 = size ∧ natBits x 26 10 = b ∧ natBits x 52 12 = c ∧ natBits x 64 40 = name ∧
      natBits x 104 5 = reg ∧ natBits x 109 1 = wide ∧ natBits x 128 32 = 2 ^ 0 ∧ natBits x 160 64 = t := by
  simp only [natBits]
  omega

/-! ## Replies to other packages -/

theorem sendReply_lost {s : State} {p : Packet} {page : Nat} {elems : Bool} (h : s.routes p.peer (natBits p.hdr.toNat 63 1) page = []) :
    s.sendReply p page elems = s := by
  simp only [State.sendReply, h]

theorem sendReply_sent {s : State} {p : Packet} {page port : Nat} {elems : Bool}
    (h : (s.routes p.peer (natBits p.hdr.toNat 63 1) page).head? = some port) :
    s.sendReply p page elems = { s with outbox := s.outbox ++ [.packet port 1 (p.bytes elems) false] } := by
  obtain ⟨r, hr⟩ := List.head?_eq_some_iff.1 h
  simp only [State.sendReply, hr]
  rfl

/-- The header of a reply (R365). -/
theorem replyPacket_header {h ts status size : Nat} (elems : List Nat) (hsize : size < 8) (hst : status < 32) (hts : ts < 2 ^ 64) {x : Nat}
    (hx : x = (replyPacket h ts status size elems).hdr.toNat) :
    natBits x 0 8 = 0x40 ∧ natBits x 11 5 = status ∧ natBits x 16 10 = natBits h 26 10 ∧ natBits x 52 12 = natBits h 52 12 ∧
      natBits x 128 32 = natBits h 128 32 ∧ natBits x 160 64 = ts := by
  obtain ⟨hfit, hfields⟩ := replyHeader_fields hsize hst (natBits_lt h 26 10) (natBits_lt h 16 10) (natBits_lt h 52 12)
    (natBits_lt h 128 32) hts rfl
  rw [hx, replyPacket, BitVec.toNat_ofNat, Nat.mod_eq_of_lt hfit]
  exact hfields

/-- What fits a width fits a greater one. -/
theorem toNat_ofNat_mod_two_pow (y : Nat) {w W : Nat} (h : w ≤ W) : (BitVec.ofNat W (y % 2 ^ w)).toNat = y % 2 ^ w :=
  (BitVec.toNat_ofNat ..).trans <| Nat.mod_eq_of_lt ((Nat.mod_lt _ (by positivity)).trans_le (Nat.pow_le_pow_right (by decide) h))

/-- A reply to one lane carries its element (R365). -/
theorem replyPacket_element (h ts status y : Nat) {size : Nat} (hsize : size < 8) :
    (replyPacket h ts status size [y]).data.toNat = y % 2 ^ (8 * 2 ^ size) := by
  have hwidth : 8 * 2 ^ size ≤ 4096 := by
    have := Nat.pow_le_pow_right (n := 2) (by decide) (Nat.le_of_lt_succ hsize)
    omega
  rw [replyPacket, concatBits, concatBits, Nat.mul_zero, Nat.add_zero, toNat_ofNat_mod_two_pow y hwidth]

/-! ## The lanes of a request -/

theorem remoteLane_no_context {s : State} {ctx : Nat} (o : RemoteOp) (page off n x t : Nat) (h : mfind s.contexts ctx = none) :
    s.remoteLane false o ctx page off n x t = some (10, 0, t, s) := by
  have refused : s.reachRemote ctx (page * 65536 + off) (o.cls n) = .error 10 := if_pos (by rw [h]; rfl)
  simp only [State.remoteLane, refused]
  rfl

theorem remoteLane_refused {s : State} {o : RemoteOp} {ctx page off n st : Nat} (x t : Nat)
    (h : s.reachRemote ctx (page * 65536 + off) (o.cls n) = .error st) :
    s.remoteLane false o ctx page off n x t = some (st, 0, t, s) := by
  simp only [State.remoteLane, h]
  rfl

theorem remoteLane_reached {s u : State} {o : RemoteOp} {ctx page off n pa : Nat} {k : PageKind} (x t : Nat)
    (h : s.reachRemote ctx (page * 65536 + off) (o.cls n) = .ok (u, pa, k)) :
    s.remoteLane false o ctx page off n x t = some (u.performRemote o ctx pa k n x t) := by
  simp only [State.remoteLane, h]
  rfl

theorem remoteLane_no_name {s : State} {page : Nat} (o : RemoteOp) (ctx off n x t : Nat) (h : s.named (natBits page 0 32) = none) :
    s.remoteLane true o ctx page off n x t = some (12, 0, t, s) := by
  simp only [State.remoteLane, h]
  rfl

/-- A lane of a request on a group's window (R104, R443). -/
theorem remoteLane_window {s : State} {page : Nat} {g : Group} (o : RemoteOp) (ctx off n x t : Nat) {off' : Nat}
    (h : s.named (natBits page 0 32) = some g) (ho : off' = natBits page 32 8 * 65536 + off) :
    s.remoteLane true o ctx page off n x t =
      if g.win0Size < off' + n then some (11, 0, t, s)
      else if !s.present (g.win0 off') || s.busyWord (g.win0 off') n then none
      else some (s.performRemote o ctx (g.win0 off') .staging n x t) := by
  subst ho
  simp only [State.remoteLane, h]
  rfl

theorem performRemote_not_core {s : State} {pa : Nat} (o : RemoteOp) (ctx : Nat) (k : PageKind) (n x t : Nat) (h : s.coreOwned pa = false) :
    s.performRemote o ctx pa k n x t = (8, 0, t, s) := if_pos (by simp [h])

theorem performRemote_poisoned {s : State} {o : RemoteOp} {pa n : Nat} (ctx : Nat) (k : PageKind) (x t : Nat) (h : s.coreOwned pa = true)
    (ho : o.returns = true) (hbad : s.peekBad pa n = true) : s.performRemote o ctx pa k n x t = (9, 0, t, s) :=
  (if_neg (by simp [h])).trans (if_pos (by simp [ho, hbad]))

/-- An operation on a line is performed at its home (R366). -/
theorem performRemote_home {s u : State} {o : RemoteOp} {ctx pa n x t : Nat} {k : PageKind} {r : LineResult} (h : s.coreOwned pa = true)
    (hbad : o.returns = true → s.peekBad pa n = false) (hpa : region pa ≠ .device) (hk : k.ordered = true)
    (hop : s.homeOp pa (o.lineOp ctx (pa % 128) n x) t = (r, u)) : s.performRemote o ctx pa k n x t = (0, r.val, r.ts, u) := by
  have readable : ¬ (o.returns && s.peekBad pa n) = true := by
    rw [Bool.and_eq_true]
    exact fun ⟨ho, hb⟩ => by rw [hbad ho] at hb; cases hb
  refine (if_neg (by simp [h])).trans ((if_neg readable).trans ((if_neg hpa).trans ((if_neg (by simp [hk])).trans ?_)))
  rw [hop]

/-! ## A request that arrives -/

/-- The key of a request: its source and its tag. -/
def requestKey (p : Packet) : Nat := 4096 * natBits p.hdr.toNat 26 10 + natBits p.hdr.toNat 52 12

/-- A request that is being performed, at its start. -/
def begunRequest (p : Packet) : Served := { packet := p, ts := natBits p.hdr.toNat 160 64 }

/-- The state in which a request of another package is being performed. -/
def takenIn (s : State) (p : Packet) : State := { s with served := mset s.served (requestKey p) (begunRequest p) }

theorem mfind_takenIn (s : State) (p : Packet) : mfind (takenIn s p).served (requestKey p) = some (begunRequest p) := mfind_mset_same ..

section
variable {s : State} {p : Packet} {o : RemoteOp}

theorem arrive_unknown (h : RemoteOp.ofCode p.opcode = none) : s.arrive p = s := by
  simp only [State.arrive, h]

variable (h : RemoteOp.ofCode p.opcode = some o)
include h

/-- A request whose reply is kept is answered from it (R441). -/
theorem arrive_kept {r : Packet} (hk : s.keptReply (requestKey p) = some r) : s.arrive p = s.sendReply r p.page o.returns := by
  rw [requestKey] at hk
  simp only [State.arrive, h, hk]

variable (hk : s.keptReply (requestKey p) = none)
include hk

theorem arrive_served (hs : (mfind s.served (requestKey p)).isSome = true) : s.arrive p = s := by
  rw [requestKey] at hk hs
  simp only [State.arrive, h, hk, if_pos hs]

variable (hs : mfind s.served (requestKey p) = none)
include hs

theorem arrive_new : s.arrive p = (takenIn s p).serve (requestKey p) := by
  rw [requestKey] at hk hs
  simp only [State.arrive, h, hk, hs]
  rfl

end

/-- The reply to a request all of whose lanes are done (R365). -/
def replyOf (j : Served) (o : RemoteOp) : Packet :=
  replyPacket j.packet.hdr.toNat j.ts j.status (natBits j.packet.hdr.toNat 8 3) (if o.returns then j.elems else [])

/-- The state in which a request's reply is kept, and goes out (R441). -/
def keepReply (s : State) (key : Nat) (j : Served) (o : RemoteOp) : State :=
  { s with kept := mset s.kept key (s.clock, replyOf j o), served := mdel s.served key }

section
variable {s u : State} {key : Nat} {j k : Served} {o : RemoteOp} (hj : mfind s.served key = some j)
  (ho : RemoteOp.ofCode j.packet.opcode = some o) (hu : s.serveLanes key j o (j.packet.lanes.drop j.next) = u)
  (hk : mfind u.served key = some k)
include hj ho hu hk

/-- A request with lanes or puts that are still to be done waits. -/
theorem serve_waits (h : k.next < k.packet.lanes.length ∨ k.puts ≠ 0) : s.serve key = u := by
  simp only [State.serve, hj, ho, hu, hk, if_pos h]

/-- A request that is done is answered. -/
theorem serve_done (h : ¬ (k.next < k.packet.lanes.length ∨ k.puts ≠ 0)) :
    s.serve key = (keepReply u key k o).sendReply (replyOf k o) k.packet.page o.returns := by
  simp only [State.serve, hj, ho, hu, hk, if_neg h]
  rfl

end

/-! ## A request of one lane -/

/-- A request of one lane that has been performed or refused: its STATUS, element and timestamp. -/
def doneRequest (p : Packet) (st y t : Nat) : Served :=
  { packet := p, next := 1, ts := max (natBits p.hdr.toNat 160 64) t, status := st, elems := [y] }

/-- What the first lane of a request comes to: its STATUS, its element and its timestamp, or nothing where it has to wait. -/
def firstLane (s : State) (p : Packet) (o : RemoteOp) : Option (Nat × Nat × Nat × State) :=
  s.remoteLane (natBits p.hdr.toNat 7 1 == 1) o (natBits p.hdr.toNat 36 16) p.page (natBits p.offs.toNat 0 16) p.size (p.elem 0)
    (natBits p.hdr.toNat 160 64)

theorem serveLanes_one {o : RemoteOp} (s : State) (key : Nat) (p : Packet) (l : Nat) (ho : o ≠ .put) :
    s.serveLanes key (begunRequest p) o [l] = match firstLane s p o with
      | none => { s with served := mset s.served key (begunRequest p) }
      | some (st, y, t, u) => { u with served := mset u.served key (doneRequest p st y t) } := by
  rw [State.serveLanes, if_neg ho]
  rfl

/-- The put that a request of one lane carries (R272). -/
def carriedPut (p : Packet) : QueuedPut :=
  { name := natBits p.page 0 32, thread := natBits p.offs.toNat 0 16, reg := natBits p.hdr.toNat 104 5
    wide := natBits p.hdr.toNat 109 1 == 1, data := BitVec.ofNat 64 (p.elem 0), time := natBits p.hdr.toNat 160 64
    from_ := .request (requestKey p) }

theorem serveLanes_put (s : State) (p : Packet) (l : Nat) :
    s.serveLanes (requestKey p) (begunRequest p) .put [l] = { s.arrivePut (carriedPut p) with
      served := mset s.served (requestKey p) { begunRequest p with next := 1, puts := 1 } } := by
  rw [State.serveLanes, if_pos rfl]
  rfl

section
variable {s : State} {p : Packet} {l : Nat} (hk : s.keptReply (requestKey p) = none) (hs : mfind s.served (requestKey p) = none)
  (hl : p.lanes = [l])
include hk hs hl

/-- A put is queued, and its request is answered once it has been delivered (R272). -/
theorem arrive_put (h : RemoteOp.ofCode p.opcode = some .put) : s.arrive p = { s with
    served := mset (takenIn s p).served (requestKey p) { begunRequest p with next := 1, puts := 1 }
    putQueue := s.putQueue ++ [carriedPut p] } := by
  refine (arrive_new h hk hs).trans (serve_waits (mfind_takenIn s p) h (u := { s with
    served := mset (takenIn s p).served (requestKey p) { begunRequest p with next := 1, puts := 1 }
    putQueue := s.putQueue ++ [carriedPut p] }) ?_ (mfind_mset_same ..) (.inr Nat.one_ne_zero))
  rw [show (begunRequest p).packet.lanes.drop (begunRequest p).next = [l] from hl, serveLanes_put]
  rfl

variable {o : RemoteOp} (h : RemoteOp.ofCode p.opcode = some o) (ho : o ≠ .put)
include h ho

/-- A request whose lane has to wait stays. -/
theorem arrive_waits (hw : firstLane (takenIn s p) p o = none) : s.arrive p = takenIn (takenIn s p) p := by
  refine (arrive_new h hk hs).trans (serve_waits (mfind_takenIn s p) h ?_ (mfind_takenIn ..) (.inl ?_))
  · rw [show (begunRequest p).packet.lanes.drop (begunRequest p).next = [l] from hl, serveLanes_one _ _ _ _ ho, hw]
    rfl
  · exact hl ▸ Nat.zero_lt_one

/-- A request whose lane has been performed or refused is answered, and its reply is kept (R366, R441). -/
theorem arrive_performed {st y t : Nat} {u : State} (hw : firstLane (takenIn s p) p o = some (st, y, t, u)) : s.arrive p =
    (keepReply { u with served := mset u.served (requestKey p) (doneRequest p st y t) } (requestKey p) (doneRequest p st y t) o).sendReply
      (replyOf (doneRequest p st y t) o) p.page o.returns := by
  refine (arrive_new h hk hs).trans (serve_done (k := doneRequest p st y t) (mfind_takenIn s p) h ?_ (mfind_mset_same ..) ?_)
  · rw [show (begunRequest p).packet.lanes.drop (begunRequest p).next = [l] from hl, serveLanes_one _ _ _ _ ho, hw]
  · rintro (hn | hn)
    · exact absurd hn (by change ¬ 1 < p.lanes.length; rw [hl]; exact Nat.lt_irrefl 1)
    · exact hn rfl

end

/-! ## Puts -/

/-- A word fits a greater width. -/
theorem toNat_ofNat_toNat {w W : Nat} (x : BitVec w) (h : w ≤ W) : (BitVec.ofNat W x.toNat).toNat = x.toNat :=
  (BitVec.toNat_ofNat ..).trans <| Nat.mod_eq_of_lt (x.isLt.trans_le (Nat.pow_le_pow_right (by decide) h))

section
variable (src : BitVec 10) (self : Nat) (tag : BitVec 12) (name : BitVec 32) (thread : BitVec 10) (reg : BitVec 5) (wide : Bool)
  (data ts : BitVec 64)

/-- The header of a put's packet (R365). -/
theorem putPacket_header {x : Nat}
    (hx : x = (putPacket src.toNat self tag.toNat name.toNat thread.toNat reg.toNat wide data.toNat ts.toNat).hdr.toNat) :
    natBits x 0 7 = 0x20 ∧ natBits x 8 3 = (if wide then 3 else 2) ∧ natBits x 26 10 = src.toNat ∧ natBits x 52 12 = tag.toNat ∧
      natBits x 64 40 = name.toNat ∧ natBits x 104 5 = reg.toNat ∧ natBits x 109 1 = wide.toNat ∧ natBits x 128 32 = 2 ^ 0 ∧
      natBits x 160 64 = ts.toNat := by
  have hsize : (if wide then 3 else 2) < 8 := by cases wide <;> decide
  have hwide : (if wide then 2 ^ 109 else 0) = 2 ^ 109 * wide.toNat := by cases wide <;> rfl
  obtain ⟨hfit, hfields⟩ := putHeader_fields (a := self % 1024) hsize (Nat.mod_lt self (by decide)) src.isLt tag.isLt name.isLt reg.isLt
    wide.toNat_lt ts.isLt rfl
  rw [hx, putPacket, BitVec.toNat_ofNat, hwide, Nat.mod_eq_of_lt hfit]
  exact hfields

/-- The element of a put is its word or its doubleword. -/
theorem putPacket_element {p : Packet}
    (hp : p = putPacket src.toNat self tag.toNat name.toNat thread.toNat reg.toNat wide data.toNat ts.toNat) :
    BitVec.ofNat 64 (p.elem 0) = if wide then data else (data.truncate 32).zeroExtend 64 := by
  obtain ⟨-, hsize, -⟩ := putPacket_header src self tag name thread reg wide data ts rfl
  have hdata : p.data.toNat = data.toNat := by
    rw [hp]
    exact toNat_ofNat_toNat data (by decide)
  rw [Packet.elem, Packet.size, hdata, hp, hsize, Nat.mul_zero, natBits, pow_zero, Nat.div_one]
  apply BitVec.eq_of_toNat_eq
  cases wide
  · simp
  · simpa using data.isLt

/-- The packet of a put: one lane, which carries it (R365). -/
theorem putPacket_carries {p : Packet}
    (hp : p = putPacket src.toNat self tag.toNat name.toNat thread.toNat reg.toNat wide data.toNat ts.toNat) :
    RemoteOp.ofCode p.opcode = some .put ∧ p.lanes = [0] ∧ requestKey p = 4096 * src.toNat + tag.toNat ∧ p.page = name.toNat ∧
      carriedPut p = { name := name.toNat, thread := thread.toNat, reg := reg.toNat, wide := wide
                       data := if wide then data else (data.truncate 32).zeroExtend 64, time := ts.toNat
                       from_ := .request (4096 * src.toNat + tag.toNat) } := by
  obtain ⟨hop, -, hsrc, htag, hname, hreg, hwide, hmask, hts⟩ := putPacket_header src self tag name thread reg wide data ts rfl
  rw [← hp] at hop hsrc htag hname hreg hwide hmask hts
  have hkey : requestKey p = 4096 * src.toNat + tag.toNat := by rw [requestKey, hsrc, htag]
  have hthread : natBits p.offs.toNat 0 16 = thread.toNat := by
    have hoffs : p.offs.toNat = thread.toNat := by
      rw [hp]
      exact toNat_ofNat_toNat thread (by decide)
    rw [hoffs, natBits, pow_zero, Nat.div_one]
    exact Nat.mod_eq_of_lt (thread.isLt.trans (by decide))
  have hbit : (natBits p.hdr.toNat 109 1 == 1) = wide := by rw [hwide]; cases wide <;> rfl
  have hnamed : natBits p.page 0 32 = name.toNat := by
    rw [Packet.page, hname, natBits, pow_zero, Nat.div_one]
    exact Nat.mod_eq_of_lt name.isLt
  refine ⟨?_, lanes_of_mask (by decide) hmask, hkey, hname, ?_⟩
  · rw [Packet.opcode, hop]
    rfl
  · rw [carriedPut, hnamed, hthread, hreg, hbit, hts, hkey, putPacket_element src self tag name thread reg wide data ts hp]

end

/-- The one put that waits, whose target is not being moved, is delivered or refused, and answered (R272). -/
theorem deliverPuts_one {s s1 u : State} {p : QueuedPut} {r : Delivered} (hq : s.putQueue = [p]) (hm : s.moving p = false)
    (h1 : s1 = { s with putQueue := [] }) (hr : s1.deliverPut p.name p.thread p.reg p.wide p.data p.time = (r, u)) :
    (∀ v, r = .ok v → s.deliverPuts = u.answerPut p.from_ 0 v) ∧
      ∀ code, r = .error code → s.deliverPuts = u.answerPut p.from_ code p.time := by
  subst h1
  have still : ¬ ({ s with putQueue := [] } : State).moving p = true := by
    change ¬ s.moving p = true
    rw [hm]
    exact Bool.false_ne_true
  rw [State.deliverPuts, hq, List.foldl_cons, List.foldl_nil, if_neg still, hr]
  refine ⟨fun v e => ?_, fun code e => ?_⟩
  all_goals
    subst e
    rfl

/-- A request whose put has been delivered or refused counts it, with the largest timestamp and the first refusal (R114, R272). -/
def countedPut (j : Served) (st ts : Nat) : Served :=
  { j with puts := j.puts - 1, ts := max j.ts ts, status := if j.status = 0 then st else j.status }

theorem answerPut_request (s : State) (key st ts : Nat) : s.answerPut (.request key) st ts =
    { s with served := mmap s.served fun k j => if k = key then countedPut j st ts else j } := rfl

theorem mfind_answerPut_request {s : State} {key : Nat} {j : Served} (st ts : Nat) (h : mfind s.served key = some j) :
    mfind (s.answerPut (.request key) st ts).served key = some (countedPut j st ts) := by
  rw [answerPut_request, mfind_mmap, h]
  exact congrArg some (if_pos rfl)

end Sys2Proof.Proofs.MemoryModel
end

section
/-! PROOFS. The obligation about the events of the fabric, from the lemmas about packets and requests. -/

namespace Sys2Proof.Proofs.MemoryModel

open Sys2Proof.Machine Sys2Proof.Proofs.Execution Sys2Proof.Proofs.MemorySpaces

section
variable {d : BitVec 1} {tag : BitVec 12} {st : BitVec 5} {ts : BitVec 64} {m : BitVec 32} {data : BitVec 4096} {s : State} {key : Nat}
  {x : Sent} (hu : s.unit = .none) (hkey : key = 4096 * d.toNat + tag.toNat) (hx : mfind s.sent key = some x)
include hu hkey hx

/-- A reply gives each lane that waits for it its element and STATUS, and changes nothing of the others (R114). -/
theorem placementReply_gives (he : x.engine = none) : ∃ t : State, exec (.placementReply d tag st ts m data) s = .next t ∧
    mfind t.sent key = none ∧ mfind t.tagFree key = some (s.clock + 2 ^ 21) ∧ (∀ j, j ≠ key → mfind t.sent j = mfind s.sent j) ∧
    t.mem = s.mem ∧ (∀ j, j / 32 ≠ x.crew → mfind t.threads j = mfind s.threads j) ∧
    (∀ i l w, x.packet.lanes[i]? = some l → Awaits ⟨key, st.toNat, ts.toNat, m, data.toNat⟩ l (s.thread x.crew l) w →
      t.thread x.crew l = taken ⟨key, st.toNat, ts.toNat, m, data.toNat⟩ x.packet i w (s.thread x.crew l)) ∧
    ∀ l, (l ∉ x.packet.lanes ∨ ∀ w, ¬ Awaits ⟨key, st.toNat, ts.toNat, m, data.toNat⟩ l (s.thread x.crew l) w) →
      t.thread x.crew l = s.thread x.crew l := by
  subst hkey
  refine ⟨_, placementReply_lanes hu hx he, ?_⟩
  generalize 4096 * d.toNat + tag.toNat = key
  have hlanes := packet_lanes_map_zipIdx x.packet
  have lt : ∀ e ∈ x.packet.lanes.zipIdx, e.1 < 32 := fun e h => packet_lanes_lt x.packet e.1 (hlanes ▸ List.mem_map_of_mem h)
  have same := SameButLanes.foldl (sameButLanes_giveElement ⟨key, st.toNat, ts.toNat, m, data.toNat⟩ x.packet x.crew)
    x.packet.lanes.zipIdx (releaseTag s key)
  have hsent := congrArg State.sent same
  refine ⟨(congrArg (mfind · key) hsent).trans (mfind_mdel_same ..),
    (congrArg (mfind · key) (congrArg State.tagFree same)).trans (mfind_mset_same ..),
    fun j hj => (congrArg (mfind · j) hsent).trans (mfind_mdel_other _ hj), same.mem,
    fun j hj => giveElements_others _ _ _ _ lt hj, fun i l w hi hw => ?_, fun l hl => ?_⟩
  · exact giveElements_taken _ _ _ _ (hlanes.symm ▸ packet_lanes_nodup x.packet) (List.mk_mem_zipIdx_iff_getElem?.2 hi) hw
  · exact giveElements_idle _ _ _ _ (hl.imp_left fun h hm => h (hlanes ▸ hm))

/-- A reply to a packet of a COLL operation is counted by the operation (R291). -/
theorem placementReply_counts {e : Nat} {a : Armed} (he : x.engine = some e) (ha : mfind (s.cluster (e / 64)).armed (e % 64) = some a) :
    ∃ t : State, exec (.placementReply d tag st ts m data) s = .next t ∧ mfind t.sent key = none ∧
      mfind (t.cluster (e / 64)).armed (e % 64) = some { a with
        time := max a.time ts.toNat, awaited := a.awaited - 1, bad := if st = 0 then a.bad else some st.toNat } := by
  subst hkey
  refine ⟨_, placementReply_engine hu hx he, mfind_mdel_same .., ?_⟩
  rw [State.modCluster_cluster]
  dsimp only
  rw [mfind_mmap]
  exact (congrArg _ ha).trans (congrArg some (if_pos rfl))

end

/-- A packet that is sent again and has a route goes by the next of its routes (R441). -/
theorem packetResend_next_route {d : BitVec 1} {tag : BitVec 12} {s : State} {x : Sent} {l : List Nat} (hu : s.unit = .none)
    (hx : mfind s.sent (4096 * d.toNat + tag.toNat) = some x) (ht : x.lastSent + 2 ^ 18 ≤ s.clock) (hs : x.sends < 4)
    (hl : l = s.routes x.packet.peer d.toNat x.packet.page) (hne : l ≠ []) : ∃ port ∈ l, l[(x.route + 1) % l.length]? = some port ∧
      exec (.packetResend d tag) s = .next { s with
        outbox := s.outbox ++ [.packet port (x.packet.channel x.engine.isSome) (x.packet.bytes (x.packet.opcode != 0)) x.packet.poison]
        sent := mset s.sent (4096 * d.toNat + tag.toNat) { x with lastSent := s.clock, sends := x.sends + 1, route := x.route + 1 } } := by
  have hlen : 0 < l.length := List.length_pos_iff.2 hne
  have hport := List.getElem?_eq_getElem (Nat.mod_lt (x.route + 1) hlen)
  refine ⟨_, List.getElem_mem _, hport, ?_⟩
  exact packetResend_routed hu hx ht hs hl.symm (by rw [Nat.max_eq_right hlen]; exact hport)

theorem exec_remoteRequest {hdr : BitVec 256} {offs : BitVec 512} {data : BitVec 4096} {s : State} {q : Packet} (hu : s.unit = .none)
    (hq : q = { hdr := hdr, offs := offs, data := data }) : exec (.remoteRequest hdr offs data) s = .next (s.arrive q) := by
  subst hq
  exact match_unit_none hu _ _

theorem exec_putDelivery {src : BitVec 10} {tag : BitVec 12} {name : BitVec 32} {th : BitVec 10} {reg : BitVec 5} {w : BitVec 1}
    {data ts : BitVec 64} {s : State} (hu : s.unit = .none) : exec (.putDelivery src tag name th reg w data ts) s =
      .next (s.arrive (putPacket src.toNat s.pkgId tag.toNat name.toNat th.toNat reg.toNat (w == 1) data.toNat ts.toNat)) :=
  match_unit_none hu _ _

section
variable {s : State} {p : Packet} {o : RemoteOp} {l : Nat} (ho : RemoteOp.ofCode p.opcode = some o)
  (hk : s.keptReply (requestKey p) = none) (hs : mfind s.served (requestKey p) = none) (hl : l < 32)
  (hm : natBits p.hdr.toNat 128 32 = 2 ^ l)
include ho hk hs hl hm

/-- A request of one lane that has been performed or refused is answered: its reply carries the STATUS, the later timestamp and the element, and is
kept (R365, R366, R441). -/
theorem arrive_answers (hput : o ≠ .put) {st y t : Nat} {u : State} (hw : firstLane (takenIn s p) p o = some (st, y, t, u)) :
    ∃ (r : Packet) (v : State), s.arrive p = v.sendReply r p.page o.returns ∧ mfind v.kept (requestKey p) = some (u.clock, r) ∧
      mfind v.served (requestKey p) = none ∧ v.mem = u.mem ∧ v.dir = u.dir ∧ v.threads = u.threads ∧ v.outbox = u.outbox ∧
      (st < 32 → t < 2 ^ 64 → natBits r.hdr.toNat 0 8 = 0x40 ∧ natBits r.hdr.toNat 11 5 = st ∧
        natBits r.hdr.toNat 16 10 = natBits p.hdr.toNat 26 10 ∧ natBits r.hdr.toNat 52 12 = natBits p.hdr.toNat 52 12 ∧
        natBits r.hdr.toNat 128 32 = 2 ^ l ∧ natBits r.hdr.toNat 160 64 = max (natBits p.hdr.toNat 160 64) t ∧
        (o.returns = true → r.data.toNat = y % 2 ^ (8 * p.size))) := by
  refine ⟨_, _, arrive_performed hk hs (lanes_of_mask hl hm) ho hput hw, mfind_mset_same .., mfind_mdel_same .., rfl, rfl, rfl, rfl,
    fun hst ht => ?_⟩
  obtain ⟨hop, hstatus, hpeer, htag, hmask, hts⟩ := replyPacket_header (h := p.hdr.toNat)
    (ts := max (natBits p.hdr.toNat 160 64) t) (if o.returns then [y] else []) (natBits_lt p.hdr.toNat 8 3) hst
    (max_lt (natBits_lt ..) ht) rfl
  refine ⟨hop, hstatus, hpeer, htag, hmask.trans hm, hts, fun hr => ?_⟩
  have element := replyPacket_element p.hdr.toNat (max (natBits p.hdr.toNat 160 64) t) st y (natBits_lt p.hdr.toNat 8 3)
  rw [replyOf, hr]
  exact element

end

/-- Settles O50: each event comes to one of the cases of the packets, requests, puts and ports above. -/
theorem fabricEvents : Obligations.FabricEvents := by
  unfold Obligations.FabricEvents
  refine ⟨?_, ?_, ?_, ?_, ?_, ?_, ?_, ?_, ?_, ?_, ?_, ?_, ?_, ?_, ?_⟩
  · intro d tag st ts m data s key hu hkey
    refine ⟨fun h => placementReply_none hu (hkey ▸ h), fun x hx he => ?_, fun x e a hx he ha => placementReply_counts hu hkey hx he ha⟩
    obtain ⟨t, ht, hsent, htag, hsents, hmem, hthreads, htaken, hidle⟩ := placementReply_gives hu hkey hx he
    refine ⟨t, ht, hsent, htag, hsents, hmem, hthreads, fun i l w hi hst hkind hk hm => ⟨_, rfl, htaken i l w hi ⟨hst, hkind, hk, hm⟩⟩,
      fun l _ hl => hidle l (hl.imp_right ?_)⟩
    rintro (hm | hw) w ⟨hst, -, -, hbit⟩
    · exact Bool.false_ne_true (hm.symm.trans hbit)
    · exact hw w hst
  · rintro d tag s key hu rfl
    refine ⟨packetResend_none hu, fun x hx => ⟨packetResend_early hu hx, fun ht hs =>
      ⟨fun hr => packetResend_no_route hu hx ht hs hr rfl, packetResend_next_route hu hx ht hs rfl⟩, ?_⟩⟩
    rintro s1 ht hs rfl
    refine ⟨fun he hc => ?_, fun he hc => ?_, fun e a he ha => packetResend_ends hu hx ht hs he ha⟩
    · exact (packetResend_kills hu hx ht hs he).trans (congrArg Host.Outcome.next (if_neg (by simp [hc])))
    · exact (packetResend_kills hu hx ht hs he).trans (congrArg Host.Outcome.next (if_pos hc))
  · intro s peer d page p hp
    exact routes_up hp
  · intro s peer d page h hp
    exact routes_head_clique h hp
  · intro s peer d page h hp
    exact routes_head_plane h hp
  · intro s peer d page x h hdown hx
    exact routes_by_detour h hdown hx
  · rintro hdr offs data s h key q hu rfl rfl rfl
    have hexec : exec (.remoteRequest hdr offs data) s = .next (s.arrive { hdr := hdr, offs := offs, data := data }) :=
      exec_remoteRequest hu rfl
    rw [hexec]
    refine ⟨fun h => congrArg _ (arrive_unknown h), fun o p ho hk => congrArg _ (arrive_kept ho hk),
      fun o ho hk hs => congrArg _ (arrive_served ho hk hs), ?_, fun l ho hk hs hl hm =>
        ⟨_, congrArg _ (arrive_put hk hs (lanes_of_mask hl hm) ho), rfl, rfl, rfl, rfl⟩⟩
    rintro o l s1 ho hput hk hs hl hm rfl
    refine ⟨fun hw => ⟨_, congrArg _ (arrive_waits hk hs (lanes_of_mask hl hm) ho hput hw), rfl, rfl, rfl, mfind_takenIn ..⟩,
      fun st y t u hw => ?_⟩
    obtain ⟨r, v, hv, hrest⟩ := arrive_answers ho hk hs hl hm hput hw
    exact ⟨r, v, congrArg _ hv, hrest⟩
  · intro s p page elems
    exact ⟨sendReply_lost, fun port => sendReply_sent⟩
  · intro s o ctx page off n x t
    refine ⟨remoteLane_no_context o page off n x t, remoteLane_no_name o ctx off n x t, fun g off' hg ho => ?_,
      fun st => remoteLane_refused x t, fun u pa k => remoteLane_reached x t⟩
    rw [remoteLane_window o ctx off n x t hg ho]
    refine ⟨fun h => if_pos h, fun h hp => ?_, fun h hp hb => ?_⟩
    · rw [if_neg (Nat.not_lt.2 h), hp]
      rfl
    · rw [if_neg (Nat.not_lt.2 h), hp, hb]
      rfl
  · intro s o ctx pa n x t k
    exact ⟨performRemote_not_core o ctx k n x t, fun h ho hb => performRemote_poisoned ctx k x t h ho hb,
      fun h hb hr hk r u hop => performRemote_home h hb hr hk hop⟩
  · rintro src tag name th reg w data ts s key hu rfl
    obtain ⟨hop, hlanes, hkey, hpage, hput⟩ := putPacket_carries src s.pkgId tag name th reg (w == 1) data ts rfl
    rw [exec_putDelivery hu, ← hkey]
    refine ⟨fun p hk => ?_, fun hk hs => congrArg _ (arrive_served hop hk hs), fun hk hs =>
      ⟨_, congrArg _ (arrive_put hk hs hlanes hop), rfl, rfl, rfl, rfl, ?_, ?_⟩⟩
    · rw [arrive_kept hop hk, hpage]
      rfl
    · exact congrArg Option.isSome (mfind_mset_same ..)
    · rw [hput, hkey]
      simp
  · intro s s1 u p r hq hm h1 hr
    exact deliverPuts_one hq hm h1 hr
  · intro s key st ts j hj
    exact ⟨_, rfl, rfl, rfl, mfind_answerPut_request st ts hj⟩
  · intro p s hu
    refine ⟨portDown_again hu, portUp_again hu, fun h => ⟨_, portDown_record hu h, ?_, ?_, ?_⟩, fun h => ⟨_, portUp_record hu h, ?_, ?_, ?_⟩⟩
    · exact (portRecord_portDown ..).trans (mget_mset_same ..)
    · exact portRecord_of_no_log _ _ _
    · exact portRecord_of_log _ _ _
    · exact (portRecord_portDown ..).trans (congrArg (·.getD false) (mfind_mdel_same ..))
    · exact portRecord_of_no_log _ _ _
    · exact portRecord_of_log _ _ _
  · rintro hdr offs data s p l hu hp rfl
    rw [detourForward_eq hu hp]
    refine ⟨fun h => ?_, fun q hq => ?_⟩
    · rw [show upPorts s (cliqueOrder s.pkgId p.peer (natBits hdr.toNat 63 1) p.page) = [] from
        List.filter_eq_nil_iff.2 fun q hq => by simp [h q hq]]
    · rw [← head_upPorts] at hq
      obtain ⟨r, hr⟩ := List.head?_eq_some_iff.1 hq
      rw [hr]
      exact ⟨fun h => congrArg _ (if_pos h), fun h => congrArg _ (if_neg h)⟩

end Sys2Proof.Proofs.MemoryModel
end

section
/-! PROOFS. The obligation about the events at a line's home, and what its engine does with the head of a deferral queue. -/

namespace Sys2Proof.Proofs.CoherenceEngines

open Sys2Proof.Machine

/-! ## The head of a deferral queue -/

/-- An event may be handled where its line's engine is free, no narrow-scope holder has still to publish, and the directory's set has room
(R125, R139, R140). -/
theorem mayHandle_of_room {s : State} {m : Msg} (hfree : s.engineDone m.line = false) (hnsv : (s.dirAt m.line).nsv = false)
    (hnone : mfind s.dir m.line = none) (hroom : (s.dir.filter fun e => dirSet e.1 == dirSet m.line).length < 16) :
    s.mayHandle m = (true, s) := by
  simp [State.mayHandle, State.wayFor, hfree, hnsv, hnone, hroom]

/-- Between two instructions the head of a line's deferral queue leaves it and is handled, where the line has no transaction, one is free, and
the head may be handled: whether it may is asked at the home of the head's own line (R125). -/
theorem exec_deferredRequest_head {s : State} {l : BitVec 45} {m : Msg} {q : List Msg} (hu : s.unit = .none)
    (hq : mget [] s.deferred l.toNat = m :: q) (hstable : s.busyLine l.toNat = false) (htrans : s.transFree l.toNat = true)
    (hmay : s.mayHandle m = (true, s)) :
    exec (.deferredRequest l) s = .next ((({ s with
      deferred := if q.isEmpty then mdel s.deferred l.toNat else mset s.deferred l.toNat q } : State).engineTakes l.toNat).handle m) := by
  change execDeferredRequest l s = _
  simp [execDeferredRequest, atHome, hu, hq, hstable, htrans, hmay]

/-! ## A queue that holds another line's event -/

/-- An INVACK of agent 5 for line 0x81. -/
def strayAnswer : Msg := { event := 10, agent := 5, line := 0x81 }

/-- Line 0x80's deferral queue holds an event of line 0x81, which has another home; the engine of line 0x80's home has handled its event of the
cycle. -/
def misfiledState : State :=
  { State.reset with deferred := [(0x80, [strayAnswer])], handled := [homeSlice (128 * 0x80)] }

/-- The stray answer leaves the queue of line 0x80: the engine of line 0x81's home is free, and no transaction waits for the answer. -/
theorem exec_deferredRequest_misfiled : ∃ t : State, exec (.deferredRequest 0x80) misfiledState = .next t ∧ t.deferred = [] :=
  ⟨_, exec_deferredRequest_head rfl rfl rfl rfl (mayHandle_of_room (by decide) rfl rfl (by decide)), by decide⟩

/-- Refutes O46: the clause on the deferral queue says that nothing changes where the engine of the queue's line has handled its event of the
cycle (R125). The statement speaks of every state, and asks only in the clause's other part that the queue's head is an event of that line:
one of a line with another home is handled all the same, where that home's engine is free. -/
theorem not_coherenceHomeEvents : ¬ Obligations.CoherenceHomeEvents := by
  unfold Obligations.CoherenceHomeEvents
  intro ⟨_, _, _, _, _, _, _, _, _, hqueue, _⟩
  obtain ⟨hidle, _⟩ := hqueue 0x80 misfiledState rfl
  have hsame : exec (.deferredRequest 0x80) misfiledState = .next misfiledState := hidle (.inr (.inr (.inr (by decide))))
  obtain ⟨t, hnext, hempty⟩ := exec_deferredRequest_misfiled
  rw [hsame] at hnext
  cases hnext
  exact absurd hempty (by decide)

end Sys2Proof.Proofs.CoherenceEngines
end

section
/-! PROOFS. Encoding and decoding: the words of every instruction decode to it, whatever decodes is well-formed, and bytes are read as words
(R170, R171, R177, R180, R311). -/

namespace Sys2Proof.Proofs.EncodingAssembly

open Sys2Proof.Machine Sys2Proof.Laws

/-! ## The words of an instruction fit their length -/

/-- What a list of fields can add to a word, by the widths of the fields' values. -/
inductive Adds : List (Nat × Nat) → Nat → Prop
  | nil : Adds [] 0
  | cons {k b : Nat} {r : List (Nat × Nat)} (v : BitVec k) (lo : Nat) (h : Adds r b) : Adds ((v.toNat, lo) :: r) ((2 ^ k - 1) * 2 ^ lo + b)

/-- What encode answers for a row of the table: no word, or a word of 16 or 32 bits whose fields fit beside its fixed bits. -/
inductive Spelled : Option (Nat × Nat) → Prop
  | event : Spelled none
  | word {n base b : Nat} {fields : List (Nat × Nat)} (hn : (n == 16 || n == 32) = true) (h : Adds fields b)
      (hb : (base + b).blt (2 ^ n) = true) : Spelled (some (n, place base fields))

theorem Adds.place_le {fields : List (Nat × Nat)} {b : Nat} (h : Adds fields b) (base : Nat) : place base fields ≤ base + b := by
  induction h generalizing base with
  | nil => exact Nat.le_refl _
  | @cons k b r v lo _ ih =>
    have hv : v.toNat * 2 ^ lo ≤ (2 ^ k - 1) * 2 ^ lo := Nat.mul_le_mul_right _ (Nat.le_sub_one_of_lt v.isLt)
    calc place base ((v.toNat, lo) :: r) ≤ base + v.toNat * 2 ^ lo + b := ih _
      _ ≤ base + ((2 ^ k - 1) * 2 ^ lo + b) := by omega

theorem Spelled.fits {o : Option (Nat × Nat)} (h : Spelled o) {n w : Nat} (ho : o = some (n, w)) : (n = 16 ∨ n = 32) ∧ w < 2 ^ n := by
  cases h with
  | event => cases ho
  | word hn h hb =>
    cases ho
    simp only [Bool.or_eq_true, beq_iff_eq, Nat.blt_eq] at hn hb
    exact ⟨hn, Nat.lt_of_le_of_lt (h.place_le _) hb⟩

/-- Each row of the table is a word with its fields, and each event none. -/
theorem spelled_encode (i : Instr) : Spelled (encode i) := by
  cases i <;> repeat' constructor

/-- Every instruction's words decode to it, constructor by constructor. -/
theorem encodes (i : Instr) : Encodes.Statement i :=
  @Instr.rec Encodes.Statement
    Encodes.add Encodes.sub Encodes.mul Encodes.mulh Encodes.div Encodes.rem Encodes.and Encodes.or Encodes.xor Encodes.andn Encodes.shl
    Encodes.shr Encodes.sra Encodes.min Encodes.max Encodes.addi Encodes.andi Encodes.ori Encodes.xori Encodes.shli Encodes.shri
    Encodes.srai Encodes.movi Encodes.movh Encodes.ceq Encodes.cne Encodes.clt Encodes.cle Encodes.plog Encodes.prd Encodes.pwr
    Encodes.pset Encodes.pclr Encodes.popc Encodes.clz Encodes.ctz Encodes.brev Encodes.bswap Encodes.sexb Encodes.sexh Encodes.movd
    Encodes.bfe Encodes.fadd Encodes.fsub Encodes.fmul Encodes.fdiv Encodes.fmin Encodes.fmax Encodes.fmac Encodes.fnmac Encodes.hadd
    Encodes.hsub Encodes.hmul Encodes.hmac Encodes.fcmp Encodes.frcp Encodes.frsq Encodes.fsqrtF32 Encodes.fexp2 Encodes.flog2
    Encodes.fsin Encodes.fcos Encodes.ftanh Encodes.fabsF32 Encodes.fnegF32 Encodes.fabsF64 Encodes.fnegF64 Encodes.fclassF32
    Encodes.fclassF64 Encodes.fsqrtF64 Encodes.fscale Encodes.cvtf Encodes.cvti Encodes.qnt Encodes.dqnt Encodes.pack Encodes.unpk
    Encodes.mxsc Encodes.br Encodes.call Encodes.jmp Encodes.callr Encodes.ret Encodes.reform Encodes.enrol Encodes.park Encodes.strike
    Encodes.exit Encodes.nop Encodes.safept Encodes.spawn Encodes.bar Encodes.gbar Encodes.fenceIo Encodes.codepub Encodes.isync
    Encodes.qxH Encodes.qxV Encodes.qxD Encodes.qbc Encodes.perm Encodes.shfl Encodes.vote Encodes.cred Encodes.credf Encodes.cscan
    Encodes.blut Encodes.kadd Encodes.ksub Encodes.kaddi Encodes.kmovi Encodes.kmovh Encodes.kld Encodes.kst Encodes.kfirst Encodes.ldB
    Encodes.ldH Encodes.ldW Encodes.ldD Encodes.ldQ Encodes.stB Encodes.stH Encodes.stW Encodes.stD Encodes.stQ Encodes.ldf Encodes.ldfk
    Encodes.ste Encodes.stf Encodes.sete Encodes.waitv Encodes.atomIntW Encodes.atomIntD Encodes.atomSwap Encodes.atomCas Encodes.atomFadd
    Encodes.atomFminF32 Encodes.atomFmaxF32 Encodes.redIntW Encodes.redIntD Encodes.redFloat Encodes.capld Encodes.capst Encodes.xset
    Encodes.xget Encodes.xstep Encodes.xcur Encodes.putreg Encodes.hold Encodes.gname Encodes.sjoin Encodes.sleave Encodes.smap
    Encodes.ldc Encodes.stc Encodes.amoc Encodes.amocRed Encodes.capsetA Encodes.capsetB Encodes.capsetP Encodes.capsetSeal Encodes.caprd
    Encodes.chdef Encodes.chpush Encodes.chtake Encodes.copy Encodes.retile Encodes.gath Encodes.chain Encodes.coll Encodes.wopen
    Encodes.wfinal Encodes.bkload Encodes.bkvec Encodes.bkrun Encodes.bkdrain Encodes.ownb Encodes.ownc Encodes.mres Encodes.mrel
    Encodes.mload Encodes.mchin Encodes.mma Encodes.mzero Encodes.mout Encodes.mstore Encodes.trap Encodes.tret Encodes.tretNext
    Encodes.brk Encodes.ticket Encodes.mfs Encodes.mts Encodes.add16 Encodes.sub16 Encodes.mul16 Encodes.and16 Encodes.or16 Encodes.xor16
    Encodes.shl16 Encodes.shr16 Encodes.sra16 Encodes.mov16 Encodes.min16 Encodes.max16 Encodes.fadd16 Encodes.fmul16 Encodes.fmad16
    Encodes.fmax16 Encodes.fd Encodes.fs Encodes.mac Encodes.yzero Encodes.push Encodes.next Encodes.pushn Encodes.tailRegisterWrite
    Encodes.registerWrite Encodes.putDelivery Encodes.remoteRequest Encodes.placementReply Encodes.prepare Encodes.ready Encodes.refuse
    Encodes.commit Encodes.abort Encodes.partDoneReport Encodes.pageFillComplete Encodes.commandComplete Encodes.spawnBinAgeing
    Encodes.protocolValidationDone Encodes.fillLineLands Encodes.cxlMemRequest Encodes.gets Encodes.getx Encodes.upg Encodes.putx
    Encodes.invack Encodes.uncorrectableError Encodes.sensorRefresh Encodes.portDown Encodes.waitforReevaluate Encodes.detourForward
    Encodes.mgovstatClear Encodes.bundleDraw Encodes.binAgeingLimit Encodes.laneChoiceLimit Encodes.schedulerWaitSatisfied
    Encodes.crewSave Encodes.forcedSave Encodes.programTimeTick Encodes.puts Encodes.putc Encodes.atomic Encodes.write Encodes.renew
    Encodes.recall Encodes.fwddata Encodes.fwdnack Encodes.memdata Encodes.memack Encodes.ackzero Encodes.updack Encodes.poisoned
    Encodes.agentlost Encodes.timeout Encodes.messageResend Encodes.deferredRequest Encodes.inv Encodes.fwds Encodes.fwdx Encodes.upd
    Encodes.publishRequest Encodes.chuteAcquire Encodes.copyFiring Encodes.retileRun Encodes.gathFiring Encodes.chainFiring
    Encodes.collFiring Encodes.wfinalWriter Encodes.slotFillDone Encodes.matrixQueueStart Encodes.mgovWindow Encodes.tileSequencerSave
    Encodes.benchCommandStart Encodes.benchCommandComplete Encodes.benchRound Encodes.columnCommand Encodes.benchRefresh
    Encodes.drainPathCycle Encodes.drainEntryArrival Encodes.benchGovernorWindow Encodes.slabToBank Encodes.slabToCore
    Encodes.benchParityError Encodes.packetResend Encodes.portUp Encodes.hostSnoop Encodes.hostAgentLost Encodes.reconcilePass
    Encodes.launch Encodes.ganglaunch Encodes.signal Encodes.waitfor Encodes.hints Encodes.preemptYield Encodes.preemptHold
    Encodes.preemptRelease Encodes.context Encodes.ctxfree Encodes.qcreate Encodes.qfree Encodes.slicecfg Encodes.range Encodes.protload
    Encodes.protfree Encodes.govcfg Encodes.capmint Encodes.placementPass Encodes.placementPassTimer Encodes.headAgeBar
    Encodes.firmwareMessageResend Encodes.ganglaunchPhaseOneTimeout Encodes.partReservationExpiry Encodes.partUnreachableTimeout
    Encodes.launchWatchdog Encodes.firmwareCrewRestart Encodes.crewDivergenceDeadlock Encodes.correctionSummary Encodes.patrolScrub
    Encodes.bootctlGo Encodes.bringupPhaseComplete Encodes.attgo Encodes.attestationReport Encodes.mstatusAttdoneClear
    Encodes.powerGoodReset Encodes.pcieConventionalReset Encodes.packageReset Encodes.thermalEmergencyCap Encodes.thermalShutdown
    Encodes.requesterReply Encodes.illegalInstruction Encodes.fetchFault Encodes.summarisingRecord
    i

/-- The words of a well-formed instruction decode to it and fit their length. -/
theorem decode_encode {i : Instr} {n w : Nat} (hwf : i.wf = true) (h : encode i = some (n, w)) :
    decodeTableWord n w = some i ∧ (n = 16 ∨ n = 32) ∧ w < 2 ^ n :=
  ⟨encodes i hwf n w h, (spelled_encode i).fits h⟩

/-! ## Whatever decodes is well-formed -/

theorem decode16_wf {w : Nat} {i : Instr} (h : decode16 w = .ok i) : i.wf = true := by
  unfold decode16 at h
  split at h
  · split at h
    · next hwf => cases h; exact hwf
    · cases h
  · cases h

theorem decode32_wf {w : Nat} {i : Instr} (h : decode32 w = .ok i) : i.wf = true := by
  unfold decode32 at h
  split at h
  · split at h
    · next hwf => cases h; exact hwf
    · cases h
  · cases h

theorem decodeWord_wf {w : Nat} {i : Instr} (h : decodeWord w = some i) : i.wf = true := by
  unfold decodeWord at h
  split at h
  · split at h
    · next hwf => cases h; exact hwf
    · cases h
  · cases h

theorem eq_ok_of_toOption {ε α : Type} {x : Except ε α} {a : α} (h : x.toOption = some a) : x = .ok a := by
  cases x with
  | error e => cases h
  | ok b => cases h; rfl

/-- A word decodes as a short form, a lane or stream word, or a bench word, and each of the three checks the instruction. -/
theorem decodeTableWord_wf {n w : Nat} {i : Instr} (h : decodeTableWord n w = some i) : i.wf = true := by
  unfold decodeTableWord at h
  split at h
  · exact decode16_wf (eq_ok_of_toOption h)
  · split at h
    · exact decode32_wf (eq_ok_of_toOption h)
    · exact decodeWord_wf h

/-! ## Reading an instruction from bytes -/

theorem decode16_of_decodeTableWord {w : Nat} {i : Instr} (hw : w < 65536) (h : decodeTableWord 16 w = some i) : decode16 w = .ok i := by
  rw [decodeTableWord, if_pos rfl, Nat.mod_eq_of_lt hw] at h
  exact eq_ok_of_toOption h

theorem decode32_of_decodeTableWord {w : Nat} {i : Instr} (hw : w % 2 = 1) (h : decodeTableWord 32 w = some i) : decode32 w = .ok i := by
  rw [decodeTableWord, if_neg (by decide), if_pos hw] at h
  exact eq_ok_of_toOption h

/-- The operation of a short form is bits [4:1] of an even halfword (R170, R180). -/
theorem even_of_encode_short {i : Instr} {w : Nat} (h : encode i = some (16, w)) : w % 2 = 0 := by
  cases i <;> cases h <;> simp only [place] <;> omega

theorem decodeBytes_short {w : Nat} (hw : w < 65536) (he : w % 2 = 0) (b : List (BitVec 8)) :
    decodeBytes (leBytes w 2 ++ b) = (decode16 w, 2) := by
  have hfirst : w % 256 + 256 * (w / 256 % 256) = w := by omega
  simp [decodeBytes, leBytes, hfirst, he]

theorem decodeBytes_odd {w : Nat} (hw : w < 2 ^ 32) (ho : w % 2 = 1) (b : List (BitVec 8)) :
    decodeBytes (leBytes w 4 ++ b) = (decode32 w, 4) := by
  have hfirst : (w % 256 + 256 * (w / 256 % 256)) % 2 = 1 := by omega
  have hword : w % 256 + 256 * (w / 256 % 256) + 65536 * (w / 256 / 256 % 256 + 256 * (w / 256 / 256 / 256 % 256)) = w := by omega
  simp [decodeBytes, leBytes, hfirst, hword]

/-- The bytes of a word, least significant first, are read as what the word decodes to, with its length. -/
theorem decodeBytes_encode {i : Instr} {n w : Nat} (hwf : i.wf = true) (h : encode i = some (n, w)) (hn : n = 16 ∨ w % 2 = 1)
    (b : List (BitVec 8)) : decodeBytes (leBytes w (n / 8) ++ b) = (.ok i, n / 8) := by
  obtain ⟨hdec, rfl | rfl, hw⟩ := decode_encode hwf h
  · rw [decodeBytes_short hw (even_of_encode_short h), decode16_of_decodeTableWord hw hdec]
  · obtain hn | ho := hn
    · cases hn
    · rw [decodeBytes_odd hw ho, decode32_of_decodeTableWord ho hdec]

/-- Settles O57: every instruction's words decode to it, so they name no other; decoding checks what it gives; and bytes give the word back. -/
theorem encodingRoundTrip : Obligations.EncodingRoundTrip := by
  unfold Obligations.EncodingRoundTrip
  refine ⟨fun i n w => decode_encode, fun i j n w hi hj hei hej => ?_, fun n w i => decodeTableWord_wf, fun i n w b hwf h hn =>
    decodeBytes_encode hwf h hn b⟩
  have hdec : some i = some j := (decode_encode hi hei).1.symm.trans (decode_encode hj hej).1
  exact Option.some.inj hdec

end Sys2Proof.Proofs.EncodingAssembly
end

section
/-! PROOFS. The 16-bit forms: the results of their 32-bit counterparts, with ds as first source and destination (R180). -/

namespace Sys2Proof.Proofs.EncodingAssembly

open Sys2Proof.Machine Sys2Proof.Laws Sys2Proof.Proofs.ThreadState

/-! ## A thread changed twice -/

theorem mdel_mdel {α : Type} (m : Map α) (k : Nat) : mdel (mdel m k) k = mdel m k := by
  induction m with
  | nil => rfl
  | cons e r ih =>
    by_cases h : e.1 = k
    · simp [mdel, h, ih]
    · simp [mdel, h, ih]

theorem mdel_minsert {α : Type} (m : Map α) (k : Nat) (v : α) : mdel (minsert m k v) k = mdel m k := by
  induction m with
  | nil => simp [minsert, mdel]
  | cons e r ih =>
    by_cases h : k < e.1
    · simp [minsert, mdel, h]
    · simp [minsert, mdel, h, ih]

theorem mset_mset {α : Type} (m : Map α) (k : Nat) (v w : α) : mset (mset m k v) k w = mset m k w := by
  rw [mset, mset, mdel_minsert, mdel_mdel, mset]

theorem modThread_modThread (s : State) (k l : Nat) (f g : Thread → Thread) :
    (s.modThread k l f).modThread k l g = s.modThread k l fun t => g (f t) := by
  rw [State.modThread, State.modThread_thread]
  simp only [State.modThread, State.setThread, mset_mset]

/-! ## Reading the operands of one lane -/

/-- What a lane has changed while it reads the operands of an instruction: of the state only its own thread, and of that nothing that a frame
speaks of. -/
structure OperandsRead (k l : Nat) (s t : State) : Prop where
  onlyLane : OnlyLane k l s t
  kept : Kept (s.thread k l) (t.thread k l)

theorem OperandsRead.begun (s : State) (x : Issue) (k l : Nat) : OperandsRead k l s (s.begun x k l) := ⟨onlyLane_begun s x k l, kept_begun s x k l⟩

theorem OperandsRead.step {x : Issue} {k l : Nat} {s t u : State} (h : OperandsRead k l s t) (g : Stepped (s.ctxOf x k l) t u) : OperandsRead k l s u :=
  ⟨onlyLane_trans h.onlyLane (Stepped.onlyLane g), Stepped.trans_kept h.kept g⟩

/-! ## Integer forms -/

section
variable {i : Instr} {x : Issue} {k l : Nat} {s s1 s2 s3 : State} {b : BitVec 5} {d : BitVec 6} {y z : Word} {pl : Place_}
  (h : Runs i x k l s)
include h

theorem exec_aluShort {f : Word → Word → Word} (he : (shapeOf i).entry = false) (hx : exec i s = aluShort i b d f s)
    (hy : src (s.ctxOf x k l) d.toNat (s.begun x k l) = .ok (y, s1)) (hz : src (s.ctxOf x k l) (short b) s1 = .ok (z, s2))
    (hd : dst (s.ctxOf x k l) d.toNat 1 s2 = .ok (pl, s3)) :
    exec i s = .next (s3.doneLane (s.ctxOf x k l) fun u => u.giveW pl (f y z)) := by
  refine exec_changes h he (hx.trans (onThreads_lanes h _)) ?_
  simp only [bind_run, hy, hz, hd]
  rfl

theorem aluShort_result {f : Word → Word → Word} (he : (shapeOf i).entry = false) (hx : exec i s = aluShort i b d f s)
    (hy : src (s.ctxOf x k l) d.toNat (s.begun x k l) = .ok (y, s1)) (hz : src (s.ctxOf x k l) (short b) s1 = .ok (z, s2))
    (hd : dst (s.ctxOf x k l) d.toNat 1 s2 = .ok (pl, s3)) {r : Word} (hr : f y z = r) :
    ∃ t, exec i s = .next t ∧ t = s3.doneLane (s.ctxOf x k l) (fun u => u.giveW pl r) ∧
      OnlyLane k l s t ∧ OnlyResult pl 1 (s.thread k l) (t.thread k l) ∧ (s.thread k l).sameFlags (t.thread k l) := by
  subst hr
  have hread : OperandsRead k l s s3 := (((OperandsRead.begun s x k l).step (src_ok hy)).step (src_ok hz)).step (dst_ok hd).1
  exact ⟨_, exec_aluShort h he hx hy hz hd, rfl, frame_giveW pl _ hread.onlyLane hread.kept⟩

end

theorem sraW_eq (y z : Word) : sraW y z = BitVec.ofInt 32 (y.toInt / 2 ^ (z.toNat % 32)) := by
  have h : (sraW y z).toInt = y.toInt / 2 ^ (z.toNat % 32) := by
    rw [sraW, BitVec.toInt_sshiftRight, Int.shiftRight_eq_div_pow, Nat.cast_pow, Nat.cast_ofNat]
  rw [← h, BitVec.ofInt_toInt]

theorem minimum_eq (y z : Word) : minimum 0 y z = BitVec.ofInt 32 (min y.toInt z.toInt) := by
  rw [minimum, if_pos rfl]
  split
  · next h => rw [min_eq_left (BitVec.sle_iff_toInt_le.1 h), BitVec.ofInt_toInt]
  · next h => rw [min_eq_right (not_le.1 (mt BitVec.sle_iff_toInt_le.2 h)).le, BitVec.ofInt_toInt]

theorem maximum_eq (y z : Word) : maximum 0 y z = BitVec.ofInt 32 (max y.toInt z.toInt) := by
  rw [maximum, if_pos rfl]
  split
  · next h => rw [max_eq_right (BitVec.sle_iff_toInt_le.1 h), BitVec.ofInt_toInt]
  · next h => rw [max_eq_left (not_le.1 (mt BitVec.sle_iff_toInt_le.2 h)).le, BitVec.ofInt_toInt]

/-! ## Float forms -/

theorem ctxOf_crew (s : State) (x : Issue) (k l : Nat) : (s.ctxOf x k l).crew = k := rfl

theorem ctxOf_lane (s : State) (x : Issue) (k l : Nat) : (s.ctxOf x k l).lane = l := rfl

theorem trapen_giveW (t : Thread) (pl : Place_) (r : Word) : (t.giveW pl r).trapen = t.trapen := by cases pl <;> rfl

theorem fpstat_giveW (t : Thread) (pl : Place_) (r : Word) : (t.giveW pl r).fpstat = t.fpstat := by cases pl <;> rfl

/-- Giving a result and then raising its flags is one change of the lane's thread. -/
theorem raise_put (c : Ctx) (pl : Place_) (r : Word) (g : Flags) (s : State) :
    (put c pl r >>= fun _ => raise c g) s = .ok (if g &&& (s.thread c.crew c.lane).trapen = 0 then none
        else some (0x0F, (g &&& (s.thread c.crew c.lane).trapen).toNat),
      s.modThread c.crew c.lane fun t => { t.giveW pl r with fpstat := t.fpstat ||| g.setWidth 32 }) := by
  have hput : put c pl r s = .ok ((), s.modThread c.crew c.lane fun t => t.giveW pl r) := rfl
  simp only [raise, bind_run, hput, modMe_run, me_run, pure_run, State.modThread_thread, modThread_modThread, fpstat_giveW, trapen_giveW]

/-- A float form ends by giving its result and raising its flags. -/
theorem exec_float {i : Instr} {x : Issue} {k l : Nat} {s t : State} {pl : Place_} {r : Word} {g : Flags} {body : Ctx → LaneM After}
    (h : Runs i x k l s) (he : (shapeOf i).entry = false) (hx : exec i s = onThreads (shapeOf i) body s)
    (hb : body (s.ctxOf x k l) (s.begun x k l) = (put (s.ctxOf x k l) pl r >>= fun _ => raise (s.ctxOf x k l) g) t) :
    exec i s = .next (t.doneFloat (s.ctxOf x k l) (fun u => u.giveW pl r) g) := by
  rw [raise_put] at hb
  rw [hx, onThreads_lanes h, runLanes_one h.parts h.lane he, State.doneFloat]
  split at hb
  · next hg => 
    rw [runLane_ok h.crew h.legal h.guard hb, if_pos (.inl hg)]
  · next hg =>
    rw [runLane_after h.crew h.legal h.guard hb]
    simp only [hg, false_or]

theorem exec_fpShort {i : Instr} {x : Issue} {k l : Nat} {s s1 s2 s3 s4 : State} {b : BitVec 5} {d : BitVec 6} {y z : Word} {pl : Place_}
    {f : Ctx → Bool → Val → Val → LaneM (Nat × Flags)} {bits : Nat} {g : Flags} (h : Runs i x k l s) (he : (shapeOf i).entry = false)
    (hx : exec i s = fpShort i b d f s)
    (hy : src (s.ctxOf x k l) d.toNat (s.begun x k l) = .ok (y, s1)) (hz : src (s.ctxOf x k l) (short b) s1 = .ok (z, s2))
    (hd : dst (s.ctxOf x k l) d.toNat 1 s2 = .ok (pl, s3))
    (hf : f (s.ctxOf x k l) ((s3.thread k l).rm == 3) (decodeIn (s3.thread k l).daz fmtFP32 y.toNat)
      (decodeIn (s3.thread k l).daz fmtFP32 z.toNat) s3 = .ok ((bits, g), s4)) :
    exec i s = .next (s4.doneFloat (s.ctxOf x k l) (fun u => u.giveW pl (BitVec.ofNat 32 bits)) g) := by
  refine exec_float h he hx ?_
  simp only [bind_run, hy, hz, hd, me_run, ctxOf_crew, ctxOf_lane, hf]

/-- Settles O5: each form reads ds and b, prepares ds, and gives its result there. -/
theorem shortFormResults : Obligations.ShortFormResults := by
  unfold Obligations.ShortFormResults
  refine ⟨?_, ?_, ?_, ?_, ?_⟩
  · intro e he b d x k l s c s1 s2 s3 y z pl h hc hy hz hd
    subst hc
    simp only [List.mem_cons, List.not_mem_nil, or_false] at he
    obtain rfl | rfl | rfl | rfl | rfl | rfl | rfl | rfl | rfl | rfl | rfl := he
    iterate 8 exact aluShort_result h rfl rfl hy hz hd rfl
    · exact aluShort_result h rfl rfl hy hz hd (sraW_eq y z)
    · exact aluShort_result h rfl rfl hy hz hd (minimum_eq y z)
    · exact aluShort_result h rfl rfl hy hz hd (maximum_eq y z)
  · rintro b d x k l s _ s1 s2 y pl h rfl hy hd
    have hread : OperandsRead k l s s2 := ((OperandsRead.begun s x k l).step (src_ok hy)).step (dst_ok hd).1
    refine ⟨_, exec_changes h rfl (onThreads_lanes h _) ?_, rfl, frame_giveW pl y hread.onlyLane hread.kept⟩
    simp only [bind_run, hy, hd]
    rfl
  · intro e he b d x k l s c s1 s2 s3 s4 y z pl bits g u h hc hy hz hd hu hr
    subst hc hu
    simp only [List.mem_cons, List.not_mem_nil, or_false] at he
    obtain rfl | rfl := he
    · exact exec_fpShort (i := .fadd16 b d) (f := fun c down y z => roundMine c fmtFP32 (y.add down z)) h rfl rfl hy hz hd hr
    · exact exec_fpShort (i := .fmul16 b d) (f := fun c _ y z => roundMine c fmtFP32 (y.mul z)) h rfl rfl hy hz hd hr
  · rintro b d x k l s _ s1 s2 s3 y z pl _ h rfl hy hz hd rfl
    exact exec_fpShort (i := .fmax16 b d) (f := fun _ _ y z => pure (exactBits fmtFP32 (y.max z).1, (y.max z).2)) h rfl rfl hy hz hd
      (pure_run _ s3)
  · rintro b d x k l s _ s1 s2 s3 s4 s5 y z w pl bits g _ h rfl hy hz hw hd rfl hr
    refine exec_float h rfl rfl ?_
    simp only [bind_run, hy, hz, hw, hd, me_run, ctxOf_crew, ctxOf_lane, hr]

end Sys2Proof.Proofs.EncodingAssembly
end

section
/-! PROOFS. KST at a slice's write copy: what the statement's frame of the store says of lanes past the last of a crew (R106, R179). -/

namespace Sys2Proof.Proofs.EncodingAssembly

open Sys2Proof.Machine Sys2Proof.Laws Sys2Proof.Proofs.MemorySpaces

/-- KST.w k4, [k0:1 + k2], the store of the refutation. -/
def uniformStore : Instr := .kst 0 0 2 0 4 0 15

/-- The firmware crew of core 0, of which lane 0 alone is issued the store: the pair k1:k0 points to the word at 0x4000, of whose line the slice
holds a write copy. -/
def uniformState : State := { ticketState with crews := [(63, { group := 0, index := 0, k := [(0, 0x4000)] })] }

/-- What the lane knows of itself. -/
def uniformCtx : Ctx := uniformState.ctxOf ticketIssue 63 0

/-- The largest program time of the crew's lanes, from which the store's timestamp starts (R106). -/
def uniformTop : Nat := (orderedLanes uniformState 63).foldl (fun q j => max q (uniformState.thread 63 j).time) 0

/-- The state in which the store is performed. -/
def uniformBegun : State := uniformState.modThread 63 0 fun u => { u with time := uniformTop }

theorem uniformState_issued : IssuedAll uniformStore ticketIssue 63 (bitOf 0) uniformState where
  unit := rfl
  parts := rfl
  crew := by decide
  legal := by decide

theorem uniformState_leads : Leads uniformStore 63 (bitOf 0) uniformState 0 := ⟨by decide, by decide, fun _ h => absurd h (Nat.not_lt_zero _)⟩

theorem uniformState_hasEntry : HasEntry uniformStore ticketIssue uniformState := fun _ => admit_empty (k := 63) (l := 0) rfl _ rfl

/-- Whether the store reaches the line in the write copy, before the copy's lease ends. -/
def storeReachesCopy : Bool :=
  match access uniformCtx 0x4000 (.store 4) uniformBegun with
  | .ok ((pa, kd), t) => decide (pa = 0x4000 ∧ kd = .coherent) && t.coreOwned 0x4000 &&
      decide (mfind t.copies (copyKey 0 (0x4000 / 128)) = some ticketLine ∧ (t.thread 63 0).time ≤ ticketLine.rts)
  | .error _ => false

theorem access_uniformStore : ∃ t, access uniformCtx 0x4000 (.store 4) uniformBegun = .ok ((0x4000, .coherent), t) ∧
    OwnsLine uniformCtx 0x4000 .coherent ticketLine t ∧ (t.thread 63 0).time ≤ ticketLine.rts := by
  have h : storeReachesCopy = true := by decide
  unfold storeReachesCopy at h
  split at h
  · next pa kd t ht =>
    simp only [Bool.and_eq_true, decide_eq_true_eq] at h
    obtain ⟨⟨⟨rfl, rfl⟩, howned⟩, hcopy, htime⟩ := h
    exact ⟨t, ht, ⟨howned, by decide, rfl, .inl rfl, hcopy, rfl⟩, htime⟩
  · cases h

/-- Refutes O28: KST at a write copy moves its lane's program time past the copy's lease (R108), and the clause on it (CopyWritten) keeps the
time of the thread that lane 32 of the crew before would name, which is the same one. -/
theorem not_crewUniformResults : ¬ Obligations.CrewUniformResults := by
  unfold Obligations.CrewUniformResults
  intro ⟨_, _, _, _, _, _, hstore, _⟩
  obtain ⟨t, ht, howns, htime⟩ := access_uniformStore
  obtain ⟨_, hcopy, _⟩ := hstore 0 0 2 0 4 0 15 ticketIssue 63 (bitOf 0) 0 uniformState uniformCtx uniformTop 0x4000 uniformBegun t 0x4000 .coherent 0
    uniformState_issued uniformState_hasEntry uniformState_leads rfl rfl rfl rfl (by decide) (by decide) ht
  obtain ⟨_, u, _, _, hwritten, _⟩ := hcopy ticketLine howns
  exact not_copyWritten (by decide) htime hwritten

end Sys2Proof.Proofs.EncodingAssembly
end

section
/-! PROOFS. Every instruction and event answers a next state, and so does a step of a package whose clocks run (R171, R374, R449). -/

namespace Sys2Proof.Proofs.EncodingAssembly

open Sys2Proof.Machine Sys2Proof.Laws
open Sys2Proof.Proofs.Execution (step_of_run step_of_nothing)

/-- The outcome is a next state. -/
def Answers (r : Res) : Prop := ∃ t, r = .next t

theorem answers_next (t : State) : Answers (.next t) := ⟨t, rfl⟩

/-! ## The shared forms of instructions and events -/

theorem answers_onThreads (sh : Shape) (body : Ctx → LaneM After) (s : State) : Answers (onThreads sh body s) := by
  unfold onThreads
  split <;> exact answers_next _

theorem answers_onBoth (sh : Shape) (body : Ctx → LaneM After) (f : Cluster → Cluster) (s : State) : Answers (onBoth sh body f s) := by
  unfold onBoth
  split <;> exact answers_next _

theorem answers_atHome (f : State → State) (s : State) : Answers (atHome f s) := by
  unfold atHome
  split <;> exact answers_next _

theorem answers_transfer (i : Instr) (body : Ctx → LaneM Unit) (target : DWord → Cluster → DWord) (link : Option Nat) (ends : Bool)
    (s : State) : Answers (transfer i body target link ends s) := by
  unfold transfer
  split <;> exact answers_next _

theorem answers_converge (i : Instr) (body : Ctx → LaneM Unit) (s : State) : Answers (converge i body s) := by
  unfold converge
  split <;> exact answers_next _

/-- A crew-uniform instruction: the register check fails, it takes an entry of the core's table, or it runs in each crew (R122, R179). -/
theorem answers_uniform (i : Instr) (op : Ctx → LaneM Unit) (s : State) : Answers (uniform i op s) := by
  unfold uniform
  dsimp only
  split
  · split
    · exact answers_next _
    · split <;> exact answers_next _
  · exact answers_next _
  · exact answers_next _

theorem answers_capInstr (i : Instr) (body : Ctx → LaneM After) (s : State) : Answers (capInstr i body s) := by
  unfold capInstr
  split <;> exact answers_next _

theorem answers_onStream (i : Instr) (f : State → Nat → DWord → Nat → State) (s : State) : Answers (onStream i f s) := by
  unfold onStream
  split <;> exact answers_next _

theorem answers_benchWord (w : Nat) (s : State) : Answers (benchWord w s) := by
  unfold benchWord
  split <;> exact answers_next _

theorem answers_fireEvent (k : EngineKind) (cl : BitVec 7) (place : BitVec 6) (begin_ : Armed → Firing → EngM Firing) (work : Piece) (s : State) :
    Answers (fireEvent k cl place begin_ work s) := by
  unfold fireEvent
  split <;> exact answers_next _

theorem answers_command (op : Nat) (p : Plan) (q : BitVec 10) (i : BitVec 32) (s : State) : Answers (command op p q i s) := by
  unfold command
  split <;> exact answers_next _

theorem answers_preempt (mode : Nat) (q : BitVec 10) (i : BitVec 32) (s : State) : Answers (preempt mode q i s) := by
  unfold preempt
  dsimp only
  split <;> exact answers_next _

theorem answers_andThen {r : Res} {f : State → Res} (hr : Answers r) (hf : ∀ s, Answers (f s)) : Answers (andThen r f) := by
  obtain ⟨t, rfl⟩ := hr
  exact hf t

/-! ## Every instruction and event -/

/-- What a failed host bridge does is followed by the stop of the die's clocks (R449). -/
theorem answers_execThermalShutdown (die : BitVec 1) (s : State) : Answers (execThermalShutdown die s) := by
  unfold execThermalShutdown
  split
  · split
    · exact answers_next _
    · exact answers_andThen (answers_atHome _ _) fun _ => answers_next _
  · exact answers_next _

theorem answers_execBenchParityError (e : BitVec 5) (s : State) : Answers (execBenchParityError e s) := by
  unfold execBenchParityError
  split <;> exact answers_next _

/-- An error in a line at the home, or in a bench, is the home's or the bench's event; the others are the error's own. -/
theorem answers_execUncorrectableError (u : BitVec 4) (id : BitVec 32) (addr : BitVec 52) (s : State) :
    Answers (execUncorrectableError u id addr s) := by
  simp only [execUncorrectableError]
  split
  · split
    case h_4 => exact answers_atHome _ _
    case h_8 =>
      split
      · exact answers_execBenchParityError _ _
      · exact answers_next _
    all_goals exact answers_next _
  · exact answers_next _

/-- Every instruction and event answers a next state: most through the form they share, the others at the
end of each branch of their own. -/
theorem exec_answers (s : State) : (i : Instr) → Answers (exec i s)
  | .add .. | .sub .. | .mul .. | .mulh .. | .div .. | .rem .. | .and .. | .or .. | .xor .. | .andn .. | .shl .. | .shr .. | .sra ..
    | .min .. | .max .. | .addi .. | .andi .. | .ori .. | .xori .. | .shli .. | .shri .. | .srai .. | .movi ..
    | .movh .. => by simp only [exec]; apply answers_onBoth
  | .ceq .. | .cne .. | .clt .. | .cle .. | .plog .. | .prd .. | .pwr .. | .pset .. | .pclr .. | .popc .. | .clz .. | .ctz .. | .brev ..
    | .bswap .. | .sexb .. | .sexh .. | .movd .. | .bfe .. | .fadd .. | .fsub .. | .fmul .. | .fdiv .. | .fmin .. | .fmax .. | .fmac ..
    | .fnmac .. | .hadd .. | .hsub .. | .hmul .. | .hmac .. | .fcmp .. | .frcp .. | .frsq .. | .fsqrtF32 .. | .fexp2 .. | .flog2 .. | .fsin ..
    | .fcos .. | .ftanh .. | .fabsF32 .. | .fnegF32 .. | .fabsF64 .. | .fnegF64 .. | .fclassF32 .. | .fclassF64 .. | .fsqrtF64 .. | .fscale ..
    | .cvtf .. | .cvti .. | .qnt .. | .dqnt .. | .pack .. | .unpk .. | .mxsc .. | .nop .. | .safept .. | .spawn .. | .fenceIo .. | .codepub ..
    | .isync .. | .qxH .. | .qxV .. | .qxD .. | .qbc .. | .perm .. | .shfl .. | .vote .. | .cred .. | .credf .. | .cscan .. | .blut ..
    | .ldB .. | .ldH .. | .ldW .. | .ldD .. | .ldQ .. | .stB .. | .stH .. | .stW .. | .stD .. | .stQ .. | .ldf .. | .ldfk .. | .ste ..
    | .stf .. | .sete .. | .waitv .. | .atomIntW .. | .atomIntD .. | .atomSwap .. | .atomCas .. | .atomFadd .. | .atomFminF32 ..
    | .atomFmaxF32 .. | .redIntW .. | .redIntD .. | .redFloat .. | .capld .. | .capst .. | .xset .. | .xget .. | .xstep .. | .xcur ..
    | .hold .. | .gname .. | .sjoin .. | .sleave .. | .smap .. | .capsetA .. | .capsetB .. | .capsetP .. | .capsetSeal .. | .caprd ..
    | .chdef .. | .chpush .. | .chtake .. | .copy .. | .retile .. | .gath .. | .chain .. | .coll .. | .wopen .. | .wfinal .. | .bkload ..
    | .bkvec .. | .bkrun .. | .bkdrain .. | .ownb .. | .ownc .. | .trap .. | .tret .. | .tretNext .. | .brk .. | .ticket .. | .add16 ..
    | .sub16 .. | .mul16 .. | .and16 .. | .or16 .. | .xor16 .. | .shl16 .. | .shr16 .. | .sra16 .. | .mov16 .. | .min16 .. | .max16 ..
    | .fadd16 .. | .fmul16 .. | .fmad16 .. | .fmax16 .. => by simp only [exec]; apply answers_onThreads
  | .br .. | .call .. | .jmp .. | .callr .. | .ret .. => by simp only [exec]; apply answers_transfer
  | .enrol .. | .park .. | .strike .. | .exit .. | .bar .. | .gbar .. => by simp only [exec]; apply answers_converge
  | .kadd .. | .ksub .. | .kaddi .. | .kmovi .. | .kmovh .. | .kld .. | .kst .. | .kfirst .. => by simp only [exec]; apply answers_uniform
  | .putreg .. | .ldc .. | .stc .. | .amoc .. | .amocRed .. => by simp only [exec]; apply answers_capInstr
  | .mres .. | .mrel .. | .mload .. | .mchin .. | .mma .. | .mzero .. | .mout .. | .mstore .. => by simp only [exec]; apply answers_onStream
  | .fd .. | .fs .. | .mac .. | .yzero .. | .push .. | .next .. | .pushn .. => by simp only [exec]; apply answers_benchWord
  | .protocolValidationDone .. | .cxlMemRequest .. | .gets .. | .getx .. | .upg .. | .putx .. | .invack .. | .crewSave .. | .puts ..
    | .putc .. | .atomic .. | .write .. | .renew .. | .recall .. | .fwddata .. | .fwdnack .. | .memdata .. | .memack .. | .ackzero ..
    | .updack .. | .poisoned .. | .agentlost .. | .timeout .. | .messageResend .. | .deferredRequest .. | .inv .. | .fwds .. | .fwdx ..
    | .upd .. | .publishRequest .. | .hostSnoop .. | .hostAgentLost .. | .requesterReply .. => by simp only [exec]; apply answers_atHome
  | .copyFiring .. | .retileRun .. | .gathFiring .. | .chainFiring .. | .collFiring .. => by simp only [exec]; apply answers_fireEvent
  | .launch .. | .signal .. | .waitfor .. | .hints .. | .context .. | .ctxfree .. | .qcreate .. | .qfree .. | .slicecfg .. | .range ..
    | .protload .. | .protfree .. | .govcfg .. | .capmint .. => by simp only [exec]; apply answers_command
  | .preemptYield .. | .preemptHold .. | .preemptRelease .. => by simp only [exec]; apply answers_preempt
  | .reform .. | .mfs .. | .mts .. | .tailRegisterWrite .. | .registerWrite .. | .putDelivery .. | .remoteRequest .. | .placementReply ..
    | .prepare .. | .ready .. | .refuse .. | .commit .. | .abort .. | .partDoneReport .. | .pageFillComplete .. | .commandComplete ..
    | .spawnBinAgeing .. | .fillLineLands .. | .sensorRefresh .. | .portDown .. | .waitforReevaluate .. | .detourForward ..
    | .mgovstatClear .. | .bundleDraw .. | .binAgeingLimit .. | .laneChoiceLimit .. | .schedulerWaitSatisfied .. | .forcedSave ..
    | .programTimeTick .. | .chuteAcquire .. | .wfinalWriter .. | .slotFillDone .. | .matrixQueueStart .. | .mgovWindow ..
    | .tileSequencerSave .. | .benchCommandStart .. | .benchCommandComplete .. | .benchRound .. | .columnCommand .. | .benchRefresh ..
    | .drainPathCycle .. | .drainEntryArrival .. | .benchGovernorWindow .. | .slabToBank .. | .slabToCore .. | .benchParityError ..
    | .packetResend .. | .portUp .. | .reconcilePass .. | .ganglaunch .. | .placementPass .. | .placementPassTimer .. | .headAgeBar ..
    | .firmwareMessageResend .. | .ganglaunchPhaseOneTimeout .. | .partReservationExpiry .. | .partUnreachableTimeout .. | .launchWatchdog ..
    | .firmwareCrewRestart .. | .crewDivergenceDeadlock .. | .correctionSummary .. | .patrolScrub .. | .bootctlGo ..
    | .bringupPhaseComplete .. | .attgo .. | .attestationReport .. | .mstatusAttdoneClear .. | .powerGoodReset .. | .pcieConventionalReset ..
    | .packageReset .. | .thermalEmergencyCap .. | .illegalInstruction .. | .fetchFault .. | .summarisingRecord .. => by
    simp only [exec, execReform, execMfs, execMts, execTailRegisterWrite, execRegisterWrite, execPutDelivery, execRemoteRequest, execPlacementReply,
      execPrepare, execReady, execRefuse, execCommit, execAbort, execPartDoneReport, execPageFillComplete, execCommandComplete,
      execSpawnBinAgeing, execFillLineLands, execSensorRefresh, execPortDown, execWaitforReevaluate, execDetourForward,
      execMgovstatClear, execBundleDraw, execBinAgeingLimit, execLaneChoiceLimit, execSchedulerWaitSatisfied, execForcedSave,
      execProgramTimeTick, execChuteAcquire, execWfinalWriter, execSlotFillDone, execMatrixQueueStart, execMgovWindow,
      execTileSequencerSave, execBenchCommandStart, execBenchCommandComplete, execBenchRound, execColumnCommand, execBenchRefresh,
      execDrainPathCycle, execDrainEntryArrival, execBenchGovernorWindow, execSlabToBank, execSlabToCore, execBenchParityError,
      execPacketResend, execPortUp, execReconcilePass, execGanglaunch, execPlacementPass, execPlacementPassTimer, execHeadAgeBar,
      execFirmwareMessageResend, execGanglaunchPhaseOneTimeout, execPartReservationExpiry, execPartUnreachableTimeout,
      execLaunchWatchdog, execFirmwareCrewRestart, execCrewDivergenceDeadlock, execCorrectionSummary, execPatrolScrub, execBootctlGo,
      execBringupPhaseComplete, execAttgo, execAttestationReport, execMstatusAttdoneClear, execPowerGoodReset,
      execPcieConventionalReset, execPackageReset, execThermalEmergencyCap, execIllegalInstruction, execFetchFault,
      execSummarisingRecord]
    repeat' split
    all_goals exact answers_next _
  | .thermalShutdown .. => answers_execThermalShutdown ..
  | .uncorrectableError .. => answers_execUncorrectableError ..

/-! ## Doing one thing after another -/

theorem answers_inTurn_nil (s : State) : Answers (inTurn [] s) := answers_next s

theorem answers_inTurn_cons {f : State → Res} {l : List (State → Res)} (hf : ∀ s, Answers (f s)) (hl : ∀ s, Answers (inTurn l s))
    (s : State) : Answers (inTurn (f :: l) s) := by
  obtain ⟨t, ht⟩ := hf s
  have hrest : inTurn (f :: l) s = inTurn l t := congrArg (l.foldl andThen) ht
  rw [hrest]
  exact hl t

theorem answers_forAll {α : Type} {f : α → State → Res} (h : ∀ x s, Answers (f x s)) :
    (l : List α) → (s : State) → Answers (forAll l f s)
  | [], s => answers_next s
  | x :: l, s => by
    obtain ⟨t, ht⟩ := h x s
    have hrest : forAll (x :: l) f s = forAll l f t := congrArg (l.foldl fun r x => andThen r (f x)) ht
    rw [hrest]
    exact answers_forAll h l t

theorem answers_ite {p : Prop} [Decidable p] {a b : Res} (ha : Answers a) (hb : Answers b) : Answers (if p then a else b) := by
  split
  · exact ha
  · exact hb

/-- What is done in some cycles only. -/
theorem answers_either {p : Prop} [Decidable p] {f g : State → Res} (hf : ∀ s, Answers (f s)) (hg : ∀ s, Answers (g s)) (s : State) :
    Answers ((if p then f else g) s) := by
  split
  · exact hf s
  · exact hg s

theorem answers_change (f : State → State) (s : State) : Answers (change f s) := answers_next _

/-! ## What every cycle does -/

theorem answers_timers (s : State) : Answers s.timers :=
  (answers_inTurn_cons (answers_either (fun s => exec_answers s .programTimeTick) (answers_change _)) <|
    answers_inTurn_cons
      (answers_either
        (answers_inTurn_cons (fun s => exec_answers s (.mgovWindow 0)) <|
          answers_inTurn_cons (fun s => exec_answers s (.mgovWindow 1)) <|
          answers_inTurn_cons (answers_forAll (fun _ s => exec_answers s (.crewDivergenceDeadlock _ _)) _)
          answers_inTurn_nil)
        (answers_change _))
    answers_inTurn_nil) s

theorem answers_columnCycle (s : State) : Answers s.columnCycle :=
  answers_ite (answers_next s) <|
    (answers_inTurn_cons (answers_either (answers_forAll (fun n s => exec_answers s (.benchGovernorWindow n)) _) (answers_change _)) <|
      answers_inTurn_cons (answers_either (answers_forAll (fun n s => exec_answers s (.benchRefresh n)) _) (answers_change _)) <|
      answers_inTurn_cons (fun s => answers_forAll (fun _ s => exec_answers s (.drainEntryArrival 0)) _ s) <|
      answers_inTurn_cons (fun s => answers_forAll (fun _ s => exec_answers s (.drainEntryArrival 1)) _ s) <|
      answers_inTurn_cons (answers_either (answers_change _) (answers_forAll (fun n s => exec_answers s (.drainPathCycle n)) _)) <|
      answers_inTurn_cons (answers_change _) <|
      answers_inTurn_cons (answers_forAll (fun e s => exec_answers s (.benchCommandComplete e)) _) <|
      answers_inTurn_cons (answers_forAll (fun e s => exec_answers s (.benchCommandStart e)) _) <|
      answers_inTurn_cons (fun s => answers_forAll (fun _ s => exec_answers s (.benchRound _)) _ s) <|
      answers_inTurn_cons (fun s => answers_forAll (fun _ s => exec_answers s (.slabToBank _)) _ s) <|
      answers_inTurn_cons (fun s => answers_forAll (fun _ s => exec_answers s (.slabToCore _)) _ s) <|
      answers_inTurn_nil) s

theorem answers_engineEvent (x : Nat × Nat × EngineKind) (s : State) : Answers (engineEvent x s) := by
  obtain ⟨cl, place, kind⟩ := x
  cases kind with
  | copy => exact exec_answers s (.copyFiring _ _)
  | retile => exact exec_answers s (.retileRun _ _)
  | gath => exact exec_answers s (.gathFiring _ _)
  | chain => exact exec_answers s (.chainFiring _ _)
  | coll => exact exec_answers s (.collFiring _ _)

theorem answers_matrixCycle (cl : Nat) (s : State) : Answers (matrixCycle cl s) :=
  (answers_inTurn_cons (answers_forAll (fun _ s => exec_answers s (.slotFillDone _ _ _)) _) <|
    answers_inTurn_cons (fun s => exec_answers s (.matrixQueueStart _)) <|
    answers_inTurn_cons (answers_either (fun s => exec_answers s (.tileSequencerSave _)) (answers_change _))
    answers_inTurn_nil) (s.matrixTick cl)

theorem answers_engineCycle (s : State) : Answers s.engineCycle :=
  (answers_inTurn_cons (answers_forAll answers_engineEvent _) <|
    answers_inTurn_cons (fun s => answers_forAll answers_matrixCycle _ s) <|
    answers_inTurn_cons (fun s => answers_forAll (fun _ s => exec_answers s (.wfinalWriter _)) _ s) <|
    answers_inTurn_cons (answers_change _) <|
    answers_inTurn_cons (fun s => answers_forAll (fun _ s => exec_answers s (.packetResend _ _)) _ s)
    answers_inTurn_nil) s

theorem answers_deliverMsg (m : Msg) (s : State) : Answers (deliverMsg m s) := by
  unfold deliverMsg
  dsimp only
  split
  · exact exec_answers s (.inv _ _)
  · exact exec_answers s (.fwds _ _)
  · exact exec_answers s (.fwdx _ _)
  · exact exec_answers s (.upd _ _)
  · exact exec_answers s (.requesterReply _ _)
  · exact answers_atHome _ s

theorem answers_internalEvents (line : Nat) (s : State) : Answers (internalEvents line s) :=
  answers_andThen (answers_andThen (exec_answers s (.ackzero _)) fun s => exec_answers s (.memdata _)) fun s =>
    exec_answers s (.memack _)

theorem answers_coherenceCycle (s : State) : Answers (coherenceCycle s) :=
  (answers_inTurn_cons (answers_forAll answers_internalEvents _) <|
    answers_inTurn_cons (answers_forAll answers_deliverMsg _) <|
    answers_inTurn_cons (answers_forAll answers_deliverMsg _) <|
    answers_inTurn_cons (answers_forAll (fun _ s => exec_answers s (.deferredRequest _)) _) <|
    answers_inTurn_cons (answers_forAll answers_deliverMsg _) <|
    answers_inTurn_cons (answers_forAll answers_deliverMsg _) <|
    answers_inTurn_cons (answers_forAll (fun _ s => exec_answers s (.publishRequest _)) _) <|
    answers_inTurn_cons (answers_forAll (fun _ s => exec_answers s (.timeout _)) _) <|
    answers_inTurn_cons (answers_forAll (fun _ s => exec_answers s (.messageResend _)) _) <|
    answers_inTurn_cons (fun _ => answers_next _)
    answers_inTurn_nil) s

theorem answers_saveCycle (s : State) : Answers s.saveCycle :=
  (answers_inTurn_cons (fun s => answers_forAll (fun _ s => exec_answers s (.forcedSave _ _)) _ s) <|
    answers_inTurn_cons (fun s => answers_forAll (fun _ s => exec_answers s (.crewSave _ _)) _ s) <|
    answers_inTurn_cons (answers_change _) <|
    answers_inTurn_cons (answers_change _)
    answers_inTurn_nil) s

/-! ## Firmware -/

theorem answers_entryEvent (op mode : Nat) (q : BitVec 10) (i : BitVec 32) (s : State) : Answers (entryEvent op mode q i s) := by
  unfold entryEvent
  split
  · exact exec_answers s (.launch q i)
  · exact exec_answers s (.ganglaunch q i)
  · exact exec_answers s (.signal q i)
  · exact answers_ite (exec_answers s (.waitforReevaluate q i)) (exec_answers s (.waitfor q i))
  · exact exec_answers s (.hints q i)
  · exact answers_ite (exec_answers s (.preemptHold q i))
      (answers_ite (exec_answers s (.preemptRelease q i)) (exec_answers s (.preemptYield q i)))
  · exact exec_answers s (.context q i)
  · exact exec_answers s (.ctxfree q i)
  · exact exec_answers s (.qcreate q i)
  · exact exec_answers s (.qfree q i)
  · exact exec_answers s (.slicecfg q i)
  · exact exec_answers s (.range q i)
  · exact exec_answers s (.protload q i)
  · exact exec_answers s (.protfree q i)
  · exact exec_answers s (.govcfg q i)
  · exact exec_answers s (.capmint q i)
  · exact answers_next _

theorem answers_queueCycle (qn : Nat) (s : State) : Answers (queueCycle qn s) := by
  refine answers_andThen (answers_forAll (fun i s => ?_) _ s) fun s => ?_
  · split
    · exact answers_entryEvent ..
    · exact answers_next _
  · split
    · exact answers_next _
    · split
      · exact answers_entryEvent ..
      · exact answers_next _

theorem answers_gangCycle (s : State) : Answers s.gangCycle :=
  (answers_inTurn_cons (answers_forAll (fun _ s => exec_answers s (.ganglaunchPhaseOneTimeout _ _)) _) <|
    answers_inTurn_cons (answers_change _) <|
    answers_inTurn_cons (fun s => answers_forAll (fun _ s => exec_answers s (.partUnreachableTimeout _ _ _)) _ s) <|
    answers_inTurn_cons (answers_forAll (fun _ s => exec_answers s (.partReservationExpiry _ _ _)) _)
    answers_inTurn_nil) s

theorem answers_millisecond (s : State) : Answers s.millisecond :=
  answers_ite (answers_next s) <|
    (answers_inTurn_cons (fun s => exec_answers s .reconcilePass) <|
      answers_inTurn_cons (fun s => answers_forAll (fun _ s => exec_answers s (.summarisingRecord 14 _)) _ s) <|
      answers_inTurn_cons (fun s => answers_forAll (fun _ s => exec_answers s (.summarisingRecord 16 _)) _ s) <|
      answers_inTurn_cons (fun s => answers_forAll (fun _ s => exec_answers s (.firmwareMessageResend _ _)) _ s) <|
      answers_inTurn_cons (fun s => answers_forAll (fun _ s => exec_answers s (.firmwareMessageResend _ _)) _ s)
      answers_inTurn_nil) s

theorem answers_firmwareCycle (s : State) : Answers s.firmwareCycle :=
  answers_ite (answers_next s) <|
    (answers_inTurn_cons (answers_forAll answers_queueCycle _) <|
      answers_inTurn_cons (answers_either (fun s => exec_answers s .placementPassTimer) (answers_change _)) <|
      answers_inTurn_cons (answers_change _) <|
      answers_inTurn_cons (fun s => exec_answers s .headAgeBar) <|
      answers_inTurn_cons answers_gangCycle <|
      answers_inTurn_cons
        (fun s => answers_ite (answers_next s) (answers_forAll (fun _ s => exec_answers s (.launchWatchdog _ _)) _ s)) <|
      answers_inTurn_cons answers_millisecond
      answers_inTurn_nil) s

theorem answers_platformCycle (s : State) : Answers s.platformCycle :=
  (answers_inTurn_cons (answers_either (fun s => exec_answers s .bringupPhaseComplete) (answers_change _)) <|
    answers_inTurn_cons (answers_either (answers_change _) fun s => exec_answers s .attestationReport) <|
    answers_inTurn_cons (answers_change _) <|
    answers_inTurn_cons (answers_forAll (fun _ s => exec_answers s (.thermalEmergencyCap _)) _) <|
    answers_inTurn_cons (answers_forAll (fun _ s => exec_answers s (.thermalShutdown _)) _)
    answers_inTurn_nil) s

theorem answers_cycle (s : State) : Answers s.cycle :=
  (answers_inTurn_cons answers_timers <|
    answers_inTurn_cons answers_columnCycle <|
    answers_inTurn_cons answers_engineCycle <|
    answers_inTurn_cons answers_coherenceCycle <|
    answers_inTurn_cons answers_saveCycle <|
    answers_inTurn_cons answers_firmwareCycle <|
    answers_inTurn_cons answers_platformCycle <|
    answers_inTurn_cons (answers_change _) <|
    answers_inTurn_cons (fun s => answers_forAll (fun _ s => exec_answers s (.pageFillComplete _)) _ s)
    answers_inTurn_nil) s

theorem answers_drawCycle (core : Nat) (s : State) : Answers (drawCycle core s) :=
  (answers_inTurn_cons (answers_forAll (fun _ s => exec_answers s (.binAgeingLimit _ _)) _) <|
    answers_inTurn_cons (fun s => exec_answers s (.bundleDraw _ 0)) <|
    answers_inTurn_cons (fun s => exec_answers s (.bundleDraw _ 1))
    answers_inTurn_nil) (s.refile core)

/-! ## What a unit has to do -/

/-- Where a unit has gone on already, it has gone on to a next state. -/
inductive GoesOn : Todo → Prop where
  | nothing : GoesOn .nothing
  | run (i : Instr) (s : State) : GoesOn (.run i s)
  | did {r : Res} (h : Answers r) : GoesOn (.did r)

theorem goesOn_ite {p : Prop} [Decidable p] {a b : Todo} (ha : GoesOn a) (hb : GoesOn b) : GoesOn (if p then a else b) := by
  split
  · exact ha
  · exact hb

theorem answers_illegalInstruction (w : BitVec 32) (s : State) : Answers (execIllegalInstruction w s) := exec_answers s (.illegalInstruction w)

theorem answers_fetchFault (s : State) : Answers (execFetchFault s) := exec_answers s .fetchFault

theorem goesOn_retryTodo (s : State) (ck lane : Nat) : GoesOn (s.retryTodo ck lane) := by
  unfold State.retryTodo
  dsimp only
  split
  · exact .run ..
  · exact .did (answers_illegalInstruction ..)
  · exact .did (answers_fetchFault _)

theorem goesOn_pipeTodo (s : State) (core pipe : Nat) : GoesOn (s.pipeTodo core pipe) := by
  unfold State.pipeTodo
  dsimp only
  split
  · exact .nothing
  · split
    · exact .nothing
    · split
      · exact .run ..
      · exact .did (answers_illegalInstruction ..)
      · exact .did (answers_fetchFault _)

theorem goesOn_streamTodo (s : State) (cl : Nat) : GoesOn (s.streamTodo cl) := by
  unfold State.streamTodo
  refine goesOn_ite .nothing ?_
  dsimp only
  split
  · exact .run ..
  · exact .did (answers_illegalInstruction ..)
  · exact .did (answers_fetchFault _)

theorem goesOn_columnTodo (s : State) (n : Nat) : GoesOn (s.columnTodo n) := by
  unfold State.columnTodo
  refine goesOn_ite (.did (answers_next _)) ?_
  dsimp only
  split
  · exact .run ..
  · exact .did (answers_next _)

theorem goesOn_actTodo (s : State) : GoesOn s.actTodo := by
  unfold State.actTodo
  split
  · exact .nothing
  · exact .run ..
  · exact .run ..
  · exact goesOn_retryTodo ..
  · exact .did (exec_answers s (.schedulerWaitSatisfied _ _ _))

/-- While the clocks run, whatever comes next goes on. -/
theorem goesOn_todo {s : State} (h : s.stopped = false) : GoesOn s.todo := by
  unfold State.todo
  rw [if_neg (by simp [h])]
  split
  · exact goesOn_actTodo s
  · exact .did (answers_cycle s)
  · exact goesOn_streamTodo ..
  · exact goesOn_ite (goesOn_columnTodo ..) .nothing
  · exact .did (answers_forAll (fun _ s => exec_answers s (.chuteAcquire _ _)) _ s)
  · exact .did (answers_drawCycle ..)
  · exact goesOn_pipeTodo ..

/-! ## The step -/

theorem step_of_did {s u : State} (h : s.todo = .did (.next u)) : step s = .next (s.after u) := by
  simp only [step, h]

theorem step_of_fault {s : State} {e : Fault} (h : s.todo = .did (.fault e)) : step s = .fault e := by
  simp only [step, h]

theorem step_answers {s : State} (h : GoesOn s.todo) : Answers (step s) := by
  generalize hs : s.todo = x at h
  cases h with
  | nothing => exact ⟨_, step_of_nothing hs⟩
  | run i t =>
    obtain ⟨u, hu⟩ := exec_answers t i
    exact ⟨_, step_of_run hs hu⟩
  | did hr =>
    obtain ⟨u, rfl⟩ := hr
    exact ⟨_, step_of_did hs⟩

theorem todo_of_stopped {s : State} (h : s.stopped = true) : s.todo = s.stoppedTodo := if_pos h

/-- Stopped clocks hear no other input (R449). -/
theorem step_of_stopped {s : State} (h : s.stopped = true) (hin : Instr.powerGoodReset ∉ s.inputs) : step s = .fault .clocksStopped := by
  have hnone : (s.inputs.dropWhile fun i => i != .powerGoodReset) = [] :=
    List.dropWhile_eq_nil_iff.2 fun i hi => bne_iff_ne.2 fun he => hin (he ▸ hi)
  refine step_of_fault ((todo_of_stopped h).trans ?_)
  unfold State.stoppedTodo
  rw [hnone]

/-- The inputs before a power-good reset are dropped (R449). -/
theorem stoppedTodo_of_mem {s : State} (hin : Instr.powerGoodReset ∈ s.inputs) :
    ∃ r, s.stoppedTodo = .run .powerGoodReset { s with inputs := r } := by
  unfold State.stoppedTodo
  split
  next r _ => exact ⟨r, rfl⟩
  next hnone => exact absurd (List.dropWhile_eq_nil_iff.1 hnone _ hin) (by simp)

theorem exec_powerGoodReset {s : State} (h : s.unit = .none) : exec .powerGoodReset s = .next { s.resetAll with dead := [] } := by
  simp only [exec, execPowerGoodReset, h]

theorem after_of_stopped {s : State} (h : s.stopped = true) (t : State) : s.after t = { t with unit := .none } := if_pos h

theorem resetAll_phase (s : State) : s.resetAll.phase = 0 := show State.reset.phase = 0 by decide

/-- The clocks run again from a power-good reset (R374, R449). -/
theorem step_powerGoodReset {s : State} (h : s.stopped = true) (hin : Instr.powerGoodReset ∈ s.inputs) (hu : s.unit = .none) :
    ∃ t : State, step s = .next t ∧ t.dead = [] ∧ t.phase = 0 := by
  obtain ⟨r, hr⟩ := stoppedTodo_of_mem hin
  have hrun := step_of_run ((todo_of_stopped h).trans hr) (exec_powerGoodReset (s := { s with inputs := r }) hu)
  refine ⟨_, hrun, ?_⟩
  rw [after_of_stopped h]
  exact ⟨rfl, resetAll_phase { s with inputs := r }⟩

/-- Settles O60: every form of instruction and event ends in a next state, and so does each unit's turn while the clocks run. -/
theorem execAndStepAnswer : Obligations.ExecAndStepAnswer := by
  unfold Obligations.ExecAndStepAnswer
  exact ⟨fun i s => exec_answers s i, fun _ h => step_answers (goesOn_todo h), fun _ => step_of_stopped, fun _ => step_powerGoodReset⟩

end Sys2Proof.Proofs.EncodingAssembly
end

section
/-! PROOFS. What the integer operations of the model compute, as R193 to R198 state it of numbers. -/

namespace Sys2Proof.Proofs.LaneControl

open Sys2Proof Sys2Proof.Machine Sys2Proof.Laws

/-! ## Register-register operations (R193, R194) -/

section
variable {n : Nat} (x y : BitVec n)

theorem sshiftRight_eq_ofInt (j : Nat) : x.sshiftRight j = BitVec.ofInt n (x.toInt / 2 ^ j) := by
  have h : (x.sshiftRight j).toInt = x.toInt / 2 ^ j := by
    rw [BitVec.toInt_sshiftRight, Int.shiftRight_eq_div_pow, Nat.cast_pow, Nat.cast_ofNat]
  rw [← h, BitVec.ofInt_toInt]

theorem minimum_eq_min (v : BitVec 1) : minimum v x y =
    if v = 0 then BitVec.ofInt n (min x.toInt y.toInt) else BitVec.ofNat n (min x.toNat y.toNat) := by
  unfold minimum
  by_cases hv : v = 0
  · simp only [if_pos hv, BitVec.sle_iff_toInt_le, min_def]
    split <;> simp only [BitVec.ofInt_toInt]
  · simp only [if_neg hv, BitVec.ule_iff_toNat_le, min_def]
    split <;> simp only [BitVec.ofNat_toNat, BitVec.setWidth_eq]

theorem maximum_eq_max (v : BitVec 1) : maximum v x y =
    if v = 0 then BitVec.ofInt n (max x.toInt y.toInt) else BitVec.ofNat n (max x.toNat y.toNat) := by
  unfold maximum
  by_cases hv : v = 0
  · simp only [if_pos hv, BitVec.sle_iff_toInt_le, max_def]
    split <;> simp only [BitVec.ofInt_toInt]
  · simp only [if_neg hv, BitVec.ule_iff_toNat_le, max_def]
    split <;> simp only [BitVec.ofNat_toNat, BitVec.setWidth_eq]

theorem quotient_eq_div (v : BitVec 1) : quotient v x y = if y = 0 then BitVec.allOnes n
    else if v = 0 then BitVec.ofInt n (x.toInt.tdiv y.toInt) else BitVec.ofNat n (x.toNat / y.toNat) := by
  have hsigned : x.sdiv y = BitVec.ofInt n (x.toInt.tdiv y.toInt) :=
    BitVec.eq_of_toInt_eq (by rw [BitVec.toInt_sdiv, BitVec.toInt_ofInt])
  have hunsigned : x.udiv y = BitVec.ofNat n (x.toNat / y.toNat) := by
    rw [BitVec.udiv_eq, ← BitVec.toNat_udiv, BitVec.ofNat_toNat, BitVec.setWidth_eq]
  rw [quotient, hsigned, hunsigned]

theorem remainder_eq_mod (v : BitVec 1) : remainder v x y = if y = 0 then x
    else if v = 0 then BitVec.ofInt n (x.toInt.tmod y.toInt) else BitVec.ofNat n (x.toNat % y.toNat) := by
  have hsigned : x.srem y = BitVec.ofInt n (x.toInt.tmod y.toInt) := by
    rw [← BitVec.toInt_srem, BitVec.ofInt_toInt]
  have hunsigned : x.umod y = BitVec.ofNat n (x.toNat % y.toNat) := by
    rw [BitVec.umod_eq, ← BitVec.toNat_umod, BitVec.ofNat_toNat, BitVec.setWidth_eq]
  rw [remainder, hsigned, hunsigned]

/-- The upper half of a product of numbers reduced to twice the width is that of the product itself. -/
theorem setWidth_ofInt_ushiftRight {m : Nat} (h : m = n + n) (a : Int) :
    (BitVec.ofInt m a >>> n).setWidth n = BitVec.ofInt n (a / 2 ^ n) := by
  subst h
  have hpow : (2 : Int) ^ (n + n) = 2 ^ n * 2 ^ n := pow_add ..
  have hpos : (0 : Int) < 2 ^ n := by positivity
  have hlow : a % 2 ^ (n + n) = a - 2 ^ n * (2 ^ n * (a / 2 ^ (n + n))) := by
    rw [Int.emod_def, hpow]
    ring
  have hnonneg : 0 ≤ a % 2 ^ (n + n) := Int.emod_nonneg _ (by positivity)
  have hdiv : a % 2 ^ (n + n) / 2 ^ n = a / 2 ^ n - 2 ^ n * (a / 2 ^ (n + n)) := by
    rw [hlow, sub_eq_add_neg, ← mul_neg, Int.add_mul_ediv_left _ _ hpos.ne', sub_eq_add_neg]
  apply BitVec.eq_of_toNat_eq
  zify
  rw [BitVec.toNat_setWidth, BitVec.toNat_ushiftRight, Nat.shiftRight_eq_div_pow, BitVec.toNat_ofInt, BitVec.toNat_ofInt]
  push_cast
  rw [Int.toNat_of_nonneg hnonneg, Int.toNat_of_nonneg (Int.emod_nonneg _ hpos.ne'), hdiv, Int.sub_mul_emod_self_left]

theorem signedHigh_eq {m : Nat} (h : m = n + n) :
    ((x.signExtend m * y.signExtend m) >>> n).setWidth n = BitVec.ofInt n (x.toInt * y.toInt / 2 ^ n) := by
  rw [BitVec.signExtend, BitVec.signExtend, ← BitVec.ofInt_mul, setWidth_ofInt_ushiftRight h]

theorem unsignedHigh_eq {m : Nat} (h : m = n + n) :
    ((x.setWidth m * y.setWidth m) >>> n).setWidth n = BitVec.ofNat n (x.toNat * y.toNat / 2 ^ n) := by
  have hlt : x.toNat * y.toNat < 2 ^ m := by
    rw [h, pow_add]
    exact Nat.mul_lt_mul'' x.isLt y.isLt
  apply BitVec.eq_of_toNat_eq
  rw [BitVec.toNat_setWidth, BitVec.toNat_ushiftRight, Nat.shiftRight_eq_div_pow, BitVec.toNat_mul, BitVec.toNat_setWidth,
    BitVec.toNat_setWidth, ← Nat.mul_mod, Nat.mod_eq_of_lt hlt, BitVec.toNat_ofNat]

end

theorem mulHigh_eq (v : BitVec 1) (x y : Word) : mulHigh v x y =
    if v = 0 then BitVec.ofInt 32 (x.toInt * y.toInt / 2 ^ 32) else BitVec.ofNat 32 (x.toNat * y.toNat / 2 ^ 32) := by
  rw [mulHigh, ← signedHigh_eq x y (m := 64) rfl, ← unsignedHigh_eq x y (m := 64) rfl]

theorem mulHighD_eq (v : BitVec 1) (x y : DWord) : mulHighD v x y =
    if v = 0 then BitVec.ofInt 64 (x.toInt * y.toInt / 2 ^ 64) else BitVec.ofNat 64 (x.toNat * y.toNat / 2 ^ 64) := by
  rw [mulHighD, ← signedHigh_eq x y (m := 128) rfl, ← unsignedHigh_eq x y (m := 128) rfl]

/-- The one quotient that does not fit: the least word divided by -1 is the least word, and leaves no remainder (R194). -/
theorem least_div_allOnes : BitVec.ofInt 32 ((0x80000000#32).toInt.tdiv (0xFFFFFFFF#32).toInt) = 0x80000000#32 ∧
    BitVec.ofInt 32 ((0x80000000#32).toInt.tmod (0xFFFFFFFF#32).toInt) = 0 := by decide

theorem quotient_word (v : BitVec 1) (x y : Word) : quotient v x y = if y = 0 then 0xFFFFFFFF#32 else if v = 0 then
    (if x = 0x80000000#32 ∧ y = 0xFFFFFFFF#32 then 0x80000000#32 else BitVec.ofInt 32 (x.toInt.tdiv y.toInt))
    else BitVec.ofNat 32 (x.toNat / y.toNat) := by
  rw [quotient_eq_div]
  have hleast : BitVec.ofInt 32 (x.toInt.tdiv y.toInt) =
      if x = 0x80000000#32 ∧ y = 0xFFFFFFFF#32 then 0x80000000#32 else BitVec.ofInt 32 (x.toInt.tdiv y.toInt) := by
    split
    · next h => rw [h.1, h.2, least_div_allOnes.1]
    · rfl
  rw [← hleast]
  rfl

theorem remainder_word (v : BitVec 1) (x y : Word) : remainder v x y = if y = 0 then x else if v = 0 then
    (if x = 0x80000000#32 ∧ y = 0xFFFFFFFF#32 then 0 else BitVec.ofInt 32 (x.toInt - x.toInt.tdiv y.toInt * y.toInt))
    else BitVec.ofNat 32 (x.toNat - x.toNat / y.toNat * y.toNat) := by
  rw [remainder_eq_mod, Nat.mod_eq_sub_div_mul]
  have hleast : BitVec.ofInt 32 (x.toInt.tmod y.toInt) =
      if x = 0x80000000#32 ∧ y = 0xFFFFFFFF#32 then 0 else BitVec.ofInt 32 (x.toInt - x.toInt.tdiv y.toInt * y.toInt) := by
    split
    · next h => rw [h.1, h.2, least_div_allOnes.2]
    · rw [Int.tmod_def, mul_comm]
  rw [← hleast]

/-! ## Immediates and bit operations (R196, R197) -/

theorem moveHigh_eq {n : Nat} (x : BitVec n) (i : BitVec 13) : moveHigh x i = BitVec.ofNat n (x.toNat * 2 ^ 13 + i.toNat) := by
  have hshift : x <<< 13 = BitVec.ofNat n (x.toNat <<< 13) := by
    apply BitVec.eq_of_toNat_eq
    rw [BitVec.toNat_shiftLeft, BitVec.toNat_ofNat]
  rw [moveHigh, hshift, ← BitVec.ofNat_toNat, ← BitVec.ofNat_or, ← Nat.shiftLeft_add_eq_or_of_lt i.isLt, Nat.shiftLeft_eq]

theorem toNat_ofNat_onesCount (x : Word) : (BitVec.ofNat 32 (onesCount x)).toNat = (List.range 32).countP fun j => x.getLsbD j := by
  have hle : onesCount x ≤ 32 := List.countP_le_length (l := lanes32)
  rw [BitVec.toNat_ofNat, Nat.mod_eq_of_lt (by omega)]
  rfl

/-- The scan for the highest set bit, from the lowest bit up. -/
def bitLength (p : Nat → Bool) (n : Nat) : Nat := (List.range n).foldl (fun h i => if p i then i + 1 else h) 0

theorem bitLength_succ (p : Nat → Bool) (n : Nat) : bitLength p (n + 1) = if p n then n + 1 else bitLength p n := by
  rw [bitLength, List.range_succ, List.foldl_append]
  rfl

theorem bitLength_le (p : Nat → Bool) (n : Nat) : bitLength p n ≤ n := by
  induction n with
  | zero => exact Nat.le_refl 0
  | succ n ih =>
    rw [bitLength_succ]
    split <;> omega

/-- No bit from the length on is set. -/
theorem not_of_bitLength_le (p : Nat → Bool) (n : Nat) : ∀ i < n, bitLength p n ≤ i → p i = false := by
  induction n with
  | zero => exact fun i h => absurd h (Nat.not_lt_zero i)
  | succ n ih =>
    intro i hi hle
    rw [bitLength_succ] at hle
    split at hle
    · omega
    · next hn =>
      obtain rfl | hlt : i = n ∨ i < n := by omega
      · simpa using hn
      · exact ih i hlt hle

/-- The bit below the length is set, unless none is. -/
theorem bitLength_top (p : Nat → Bool) (n : Nat) (h : bitLength p n ≠ 0) : p (bitLength p n - 1) = true := by
  induction n with
  | zero => exact absurd rfl h
  | succ n ih =>
    rw [bitLength_succ] at h ⊢
    split
    · next hn => exact hn
    · next hn => exact ih (by simpa [hn] using h)

theorem bitLength_getLsbD {x : Word} (hx : x ≠ 0) : bitLength x.getLsbD 32 = Nat.log2 x.toNat + 1 := by
  have hne : x.toNat ≠ 0 := fun h => hx (BitVec.eq_of_toNat_eq (by simpa using h))
  have hlt : x.toNat < 2 ^ bitLength x.getLsbD 32 := Nat.lt_pow_two_of_testBit _ fun i hi => by
    rw [BitVec.testBit_toNat]
    by_cases h32 : i < 32
    · exact not_of_bitLength_le _ 32 i h32 hi
    · exact BitVec.getLsbD_of_ge _ _ (by omega)
  have hpos : bitLength x.getLsbD 32 ≠ 0 := fun h => by
    rw [h] at hlt
    omega
  have hge : 2 ^ (bitLength x.getLsbD 32 - 1) ≤ x.toNat := Nat.ge_two_pow_of_testBit (by
    rw [BitVec.testBit_toNat]
    exact bitLength_top _ 32 hpos)
  have hlog := (Nat.log2_eq_iff hne).2 ⟨hge, by rwa [Nat.sub_add_cancel (Nat.pos_of_ne_zero hpos)]⟩
  omega

theorem toNat_ofNat_leadingZeros (x : Word) :
    (BitVec.ofNat 32 (leadingZeros x)).toNat = if x = 0 then 32 else 31 - Nat.log2 x.toNat := by
  have heq : leadingZeros x = 32 - bitLength x.getLsbD 32 := rfl
  rw [BitVec.toNat_ofNat, Nat.mod_eq_of_lt (by omega), heq]
  split
  · next h =>
    subst h
    rfl
  · next h =>
    rw [bitLength_getLsbD h]
    omega

theorem trailingZeros_zero : trailingZeros 0 = 32 := by decide

theorem trailingZeros_spec {x : Word} (hx : x ≠ 0) : trailingZeros x < 32 ∧ x.getLsbD (trailingZeros x) = true ∧
    ∀ j < trailingZeros x, x.getLsbD j = false := by
  cases h : (List.range 32).find? fun i => x.getLsbD i with
  | none =>
    have hnone := List.find?_range_eq_none.1 h
    exact absurd (BitVec.eq_of_getLsbD_eq fun i hi => by simpa using hnone i hi) hx
  | some i =>
    have heq : trailingZeros x = i := by
      rw [trailingZeros, lanes32, h]
      rfl
    obtain ⟨hbit, hmem, hlow⟩ := List.find?_range_eq_some.1 h
    rw [heq]
    exact ⟨List.mem_range.1 hmem, hbit, fun j hj => by simpa using hlow j hj⟩

/-- CTZ's result: 32 for zero, and otherwise the place of the lowest set bit (R197). -/
theorem ofNat_trailingZeros (x : Word) : (x = 0 → BitVec.ofNat 32 (trailingZeros x) = 32) ∧
    (x ≠ 0 → x.getLsbD (BitVec.ofNat 32 (trailingZeros x)).toNat = true ∧
      ∀ j < (BitVec.ofNat 32 (trailingZeros x)).toNat, x.getLsbD j = false) := by
  constructor
  · rintro rfl
    rw [trailingZeros_zero]
    rfl
  · intro hx
    obtain ⟨hlt, hspec⟩ := trailingZeros_spec hx
    rwa [BitVec.toNat_ofNat, Nat.mod_eq_of_lt (by omega)]

/-- One bit more is reversed. -/
theorem getLsbD_reverse_step (x y : Word) {i j : Nat} (hi : i < 32) (hj : j < 32) :
    (if x.getLsbD i then y ||| bitOf (31 - i) else y).getLsbD j = (y.getLsbD j || (decide (31 - j = i) && x.getLsbD (31 - j))) := by
  have hbit : (bitOf (31 - i)).getLsbD j = decide (31 - j = i) := by
    rw [bitOf_getLsbD (by omega) hj]
    exact decide_eq_decide.2 (by omega)
  split
  · next hx =>
    rw [BitVec.getLsbD_or, hbit]
    by_cases h : 31 - j = i
    · rw [h, hx, Bool.and_true]
    · rw [decide_eq_false h, Bool.false_and]
  · next hx =>
    by_cases h : 31 - j = i
    · rw [h, Bool.eq_false_of_not_eq_true hx, Bool.and_false, Bool.or_false]
    · rw [decide_eq_false h, Bool.false_and, Bool.or_false]

theorem getLsbD_foldl_reverse (x : Word) {j : Nat} (hj : j < 32) (l : List Nat) (hl : ∀ i ∈ l, i < 32) (y : Word) :
    (l.foldl (fun y i => if x.getLsbD i then y ||| bitOf (31 - i) else y) y).getLsbD j =
      (y.getLsbD j || (decide (31 - j ∈ l) && x.getLsbD (31 - j))) := by
  induction l generalizing y with
  | nil => simp
  | cons i l ih =>
    rw [List.foldl_cons, ih (fun m hm => hl m (List.mem_cons_of_mem _ hm)), getLsbD_reverse_step x y (hl i (List.mem_cons_self ..)) hj]
    simp only [List.mem_cons, Bool.decide_or, Bool.and_or_distrib_right, Bool.or_assoc]

theorem getLsbD_bitReverse (x : Word) {j : Nat} (hj : j < 32) : (bitReverse x).getLsbD j = x.getLsbD (31 - j) := by
  have hmem : 31 - j ∈ lanes32 := List.mem_range.2 (by omega)
  rw [bitReverse, getLsbD_foldl_reverse x hj lanes32 (fun i hi => List.mem_range.1 hi), decide_eq_true hmem]
  simp

theorem extractLsb'_byteSwap (x : Word) (j : Nat) (hj : j < 4) : (byteSwap x).extractLsb' (8 * j) 8 = x.extractLsb' (8 * (3 - j)) 8 := by
  apply BitVec.eq_of_getLsbD_eq
  intro i hi
  rw [byteSwap]
  simp only [BitVec.getLsbD_extractLsb', BitVec.getLsbD_append, hi, decide_true, Bool.true_and]
  interval_cases j
  · rw [if_pos (by omega)]
    simp [hi]
  · rw [if_neg (by omega), if_pos (by omega)]
    simp [hi]
  · rw [if_neg (by omega), if_neg (by omega), if_pos (by omega)]
    simp [hi, show 16 + i - 8 - 8 = i by omega]
  · rw [if_neg (by omega), if_neg (by omega), if_neg (by omega)]
    simp [hi, show 24 + i - 8 - 8 - 8 = i by omega]

/-! ## Bit fields (R198) -/

theorem bitField_zero (v : BitVec 1) (x y : Word) (h : y.toNat / 256 % 32 = 0) : bitField v x y = 0 := if_pos h

/-- Shifting up and down again keeps the low bits. -/
theorem toNat_shiftLeft_ushiftRight (t : DWord) {len : Nat} (h : len ≤ 64) :
    (t <<< (64 - len) >>> (64 - len)).toNat = t.toNat % 2 ^ len := by
  have hpow : 2 ^ 64 = 2 ^ len * 2 ^ (64 - len) := by rw [← pow_add, Nat.add_sub_cancel' h]
  rw [BitVec.toNat_ushiftRight, BitVec.toNat_shiftLeft, Nat.shiftRight_eq_div_pow, Nat.shiftLeft_eq, hpow, Nat.mul_mod_mul_right,
    Nat.mul_div_cancel _ (by positivity)]

/-- Shifting up and down again with the sign extends the low bits as a number. -/
theorem shiftLeft_sshiftRight_eq (t : DWord) {len : Nat} (h0 : len ≠ 0) (h : len < 32) :
    ((t <<< (64 - len)).sshiftRight (64 - len)).setWidth 32 = (t.setWidth len).signExtend 32 := by
  apply BitVec.eq_of_getLsbD_eq
  intro i hi
  rw [BitVec.getLsbD_setWidth, BitVec.getLsbD_sshiftRight, BitVec.getLsbD_signExtend]
  by_cases hlt : i < len
  · simp [hi, hlt, show i < 64 by omega, show 64 - len + i < 64 by omega]
  · have hmsb : (t <<< (64 - len)).msb = (t.setWidth len).msb := by
      simp [-BitVec.getLsbD_eq_getElem, BitVec.msb_eq_getLsbD_last, show len - 1 < len by omega, show ¬ 63 < 64 - len by omega, show 63 - (64 - len) = len - 1 by omega]
    rw [if_neg (by omega), if_neg hlt, hmsb]
    simp [hi, show i < 64 by omega]

/-- The bits of a field do not show whether the shift to it kept the sign. -/
theorem setWidth_ushiftRight_eq (t : DWord) {pos len : Nat} (h : pos + len ≤ 64) :
    (t >>> pos).setWidth len = (t.sshiftRight pos).setWidth len := by
  apply BitVec.eq_of_getLsbD_eq
  intro i hi
  simp [-BitVec.getLsbD_eq_getElem, BitVec.getLsbD_sshiftRight, hi, show pos + i < 64 by omega, show i < 64 by omega]

/-- The unsigned field: the bits of the shifted operand below the length. -/
theorem bitField_unsigned (x y : Word) (h : y.toNat / 256 % 32 ≠ 0) :
    (bitField 1 x y).toNat = x.toNat / 2 ^ (y.toNat % 32) % 2 ^ (y.toNat / 256 % 32) := by
  have hlen : natBits y.toNat 8 5 = y.toNat / 256 % 32 := rfl
  have hlt : y.toNat / 256 % 32 < 32 := Nat.mod_lt _ (by decide)
  simp only [bitField, hlen, if_neg h, if_neg (show ¬ (1 : BitVec 1) = 0 by decide)]
  have hx : x.toNat < 2 ^ 64 := x.isLt.trans (by decide)
  have hfield : x.toNat / 2 ^ (y.toNat % 32) % 2 ^ (y.toNat / 256 % 32) < 2 ^ 32 :=
    (Nat.mod_lt _ (by positivity)).trans (Nat.pow_lt_pow_right (by decide) hlt)
  rw [BitVec.toNat_setWidth, toNat_shiftLeft_ushiftRight _ (by omega), BitVec.toNat_ushiftRight, BitVec.toNat_setWidth,
    Nat.mod_eq_of_lt hx, Nat.shiftRight_eq_div_pow, Nat.mod_eq_of_lt hfield]

/-- The signed field: the shifted operand's residue of least magnitude. -/
theorem bitField_signed (x y : Word) (h : y.toNat / 256 % 32 ≠ 0) :
    (bitField 0 x y).toInt = (x.toInt / 2 ^ (y.toNat % 32)).bmod (2 ^ (y.toNat / 256 % 32)) := by
  have hlen : natBits y.toNat 8 5 = y.toNat / 256 % 32 := rfl
  have hlt : y.toNat / 256 % 32 < 32 := Nat.mod_lt _ (by decide)
  have hpos : y.toNat % 32 < 32 := Nat.mod_lt _ (by decide)
  have hshift : ((sext 64 x).sshiftRight (y.toNat % 32)).toInt = x.toInt / 2 ^ (y.toNat % 32) := by
    rw [BitVec.toInt_sshiftRight, BitVec.toInt_signExtend_of_le (by decide), Int.shiftRight_eq_div_pow, Nat.cast_pow, Nat.cast_ofNat]
  simp only [bitField, hlen, if_neg h, if_true]
  rw [shiftLeft_sshiftRight_eq _ h hlt, BitVec.toInt_signExtend_of_le (by omega), setWidth_ushiftRight_eq _ (by omega), BitVec.toInt_setWidth,
    ← hshift, BitVec.toInt_eq_toNat_bmod, Int.bmod_bmod_of_dvd (by exact_mod_cast pow_dvd_pow 2 (by omega))]

end Sys2Proof.Proofs.LaneControl
end

section
/-! PROOFS. Integer instructions in one lane: they read their operands, give the result, and leave the rest (R193 to R198). -/

namespace Sys2Proof.Proofs.LaneControl

open Sys2Proof Sys2Proof.Machine Sys2Proof.Laws Sys2Proof.Proofs.ThreadState Sys2Proof.Proofs.EncodingAssembly

/-! ## The forms of an integer instruction -/

section
variable {i : Instr} {x : Issue} {k l : Nat} {s s1 s2 s3 : State} {pl : Place_} (h : Runs i x k l s)
include h

/-- An instruction of lanes and streams, issued to lanes. -/
theorem onBoth_lanes (body : Ctx → LaneM After) (f : Cluster → Cluster) :
    onBoth (shapeOf i) body f s = .next (runLanes (shapeOf i) body s x) := by
  rw [onBoth, h.unit]

/-- An instruction whose computation ends by giving a word. -/
theorem gives_word {body : Ctx → LaneM Unit} {r r' : Word} (he : (shapeOf i).entry = false)
    (hx : exec i s = .next (runLanes (shapeOf i) (quietly body) s x)) (hread : OperandsRead k l s s1)
    (hb : body (s.ctxOf x k l) (s.begun x k l) = put (s.ctxOf x k l) pl r s1) (hr : r = r') :
    ∃ t, exec i s = .next t ∧ t = s1.doneLane (s.ctxOf x k l) (fun u => u.giveW pl r') ∧
      OnlyLane k l s t ∧ OnlyResult pl 1 (s.thread k l) (t.thread k l) ∧ (s.thread k l).sameFlags (t.thread k l) :=
  hr ▸ ⟨_, exec_changes h he hx hb, rfl, frame_giveW pl r hread.onlyLane hread.kept⟩

/-- An instruction whose computation ends by giving a pair. -/
theorem gives_pair {body : Ctx → LaneM Unit} {r r' : DWord} (he : (shapeOf i).entry = false)
    (hx : exec i s = .next (runLanes (shapeOf i) (quietly body) s x)) (hread : OperandsRead k l s s1)
    (hb : body (s.ctxOf x k l) (s.begun x k l) = putD (s.ctxOf x k l) pl r s1) (hr : r = r') :
    ∃ t, exec i s = .next t ∧ t = s1.doneLane (s.ctxOf x k l) (fun u => u.giveD pl r') ∧
      OnlyLane k l s t ∧ OnlyResult pl 2 (s.thread k l) (t.thread k l) ∧ (s.thread k l).sameFlags (t.thread k l) :=
  hr ▸ ⟨_, exec_changes h he hx hb, rfl, frame_giveD pl r hread.onlyLane hread.kept⟩

theorem alu2_result {v : BitVec 1} {b a d : BitVec 6} {fw : Word → Word → Word} {fd : DWord → DWord → DWord} {y z : DWord} {r : Word}
    {r' : DWord}
    (hy : srcV (s.ctxOf x k l) v a.toNat (s.begun x k l) = .ok (y, s1)) (hz : srcV (s.ctxOf x k l) v b.toNat s1 = .ok (z, s2))
    (hd : dstV (s.ctxOf x k l) v d.toNat s2 = .ok (pl, s3))
    (he : (shapeOf i).entry = false) (hx : exec i s = alu2 i v b a d fw fd s) (hw : fw y.lo z.lo = r) (hD : fd y z = r') :
    ∃ t, exec i s = .next t ∧ t = s3.doneLane (s.ctxOf x k l) (fun u => if v = 0 then u.giveW pl r else u.giveD pl r') ∧
      OnlyLane k l s t ∧ OnlyResult pl (if v = 0 then 1 else 2) (s.thread k l) (t.thread k l) ∧
      (s.thread k l).sameFlags (t.thread k l) := by
  have hread : OperandsRead k l s s3 := (((OperandsRead.begun s x k l).step (srcV_ok hy)).step (srcV_ok hz)).step (dstV_ok hd).1
  have hlanes := hx.trans (onBoth_lanes h _ _)
  by_cases hv : v = 0
  · simp only [if_pos hv]
    refine gives_word h he hlanes hread (r := DWord.lo ((fw y.lo z.lo).setWidth 64)) ?_ ((lo_setWidth _).trans hw)
    simp only [bind_run, hy, hz, hd, putV, if_pos hv]
  · simp only [if_neg hv]
    refine gives_pair h he hlanes hread (r := fd y z) ?_ hD
    simp only [bind_run, hy, hz, hd, putV, if_neg hv]

theorem alu2w_result {b a d : BitVec 6} {fw : Word → Word → Word} {fd : DWord → DWord → DWord} {y z r : Word}
    (hy : src (s.ctxOf x k l) a.toNat (s.begun x k l) = .ok (y, s1)) (hz : src (s.ctxOf x k l) b.toNat s1 = .ok (z, s2))
    (hd : dst (s.ctxOf x k l) d.toNat 1 s2 = .ok (pl, s3))
    (he : (shapeOf i).entry = false) (hx : exec i s = alu2w i b a d fw fd s) (hr : fw y z = r) :
    ∃ t, exec i s = .next t ∧ t = s3.doneLane (s.ctxOf x k l) (fun u => u.giveW pl r) ∧
      OnlyLane k l s t ∧ OnlyResult pl 1 (s.thread k l) (t.thread k l) ∧ (s.thread k l).sameFlags (t.thread k l) := by
  refine gives_word h he (hx.trans (onBoth_lanes h _ _))
    ((((OperandsRead.begun s x k l).step (src_ok hy)).step (src_ok hz)).step (dst_ok hd).1) ?_ hr
  simp only [bind_run, hy, hz, hd]

theorem aluImm_result {a d : BitVec 6} {fw : Word → Word} {fd : DWord → DWord} {y r : Word}
    (hy : src (s.ctxOf x k l) a.toNat (s.begun x k l) = .ok (y, s1)) (hd : dst (s.ctxOf x k l) d.toNat 1 s1 = .ok (pl, s2))
    (he : (shapeOf i).entry = false) (hx : exec i s = aluImm i a d fw fd s) (hr : fw y = r) :
    ∃ t, exec i s = .next t ∧ t = s2.doneLane (s.ctxOf x k l) (fun u => u.giveW pl r) ∧
      OnlyLane k l s t ∧ OnlyResult pl 1 (s.thread k l) (t.thread k l) ∧ (s.thread k l).sameFlags (t.thread k l) := by
  refine gives_word h he (hx.trans (onBoth_lanes h _ _))
    (((OperandsRead.begun s x k l).step (src_ok hy)).step (dst_ok hd).1) ?_ hr
  simp only [bind_run, hy, hd]

theorem alu1_result {a d : BitVec 6} {f : Word → Word} {P : Word → Word → Prop} {y : Word}
    (hy : src (s.ctxOf x k l) a.toNat (s.begun x k l) = .ok (y, s1)) (hd : dst (s.ctxOf x k l) d.toNat 1 s1 = .ok (pl, s2))
    (he : (shapeOf i).entry = false) (hx : exec i s = alu1 i a d f s) (hP : P y (f y)) :
    ∃ t r, exec i s = .next t ∧ P y r ∧ t = s2.doneLane (s.ctxOf x k l) (fun u => u.giveW pl r) ∧
      OnlyLane k l s t ∧ OnlyResult pl 1 (s.thread k l) (t.thread k l) ∧ (s.thread k l).sameFlags (t.thread k l) := by
  obtain ⟨t, hexec, hframe⟩ := gives_word h he (hx.trans (onThreads_lanes h _))
    (((OperandsRead.begun s x k l).step (src_ok hy)).step (dst_ok hd).1) (r := f y) (by simp only [bind_run, hy, hd]; rfl) rfl
  exact ⟨t, f y, hexec, hP, hframe⟩

end

/-! ## The statements -/

/-- Settles O1: each instruction reads its two sources, prepares its destination and gives the result there. -/
theorem integerArithmeticResults : Obligations.IntegerArithmeticResults := by
  unfold Obligations.IntegerArithmeticResults
  constructor
  · intro e he v b a d n p x k l s c s1 s2 s3 y z pl h hc hy hz hd
    subst hc
    simp only [List.mem_cons, List.not_mem_nil, or_false] at he
    obtain rfl | rfl | rfl | rfl | rfl | rfl | rfl | rfl | rfl | rfl := he
    · exact alu2_result h hy hz hd rfl (rfl : _ = execAdd v b a d n p s) rfl rfl
    · exact alu2_result h hy hz hd rfl (rfl : _ = execSub v b a d n p s) rfl rfl
    · exact alu2_result h hy hz hd rfl (rfl : _ = execMul v b a d n p s) rfl rfl
    · exact alu2_result h hy hz hd rfl (rfl : _ = execAnd v b a d n p s) rfl rfl
    · exact alu2_result h hy hz hd rfl (rfl : _ = execOr v b a d n p s) rfl rfl
    · exact alu2_result h hy hz hd rfl (rfl : _ = execXor v b a d n p s) rfl rfl
    · exact alu2_result h hy hz hd rfl (rfl : _ = execAndn v b a d n p s) rfl rfl
    · exact alu2_result h hy hz hd rfl (rfl : _ = execShl v b a d n p s) rfl rfl
    · exact alu2_result h hy hz hd rfl (rfl : _ = execShr v b a d n p s) rfl rfl
    · exact alu2_result h hy hz hd rfl (rfl : _ = execSra v b a d n p s) (sshiftRight_eq_ofInt ..) (sshiftRight_eq_ofInt ..)
  · intro e he v b a d n p x k l s c s1 s2 s3 y z pl h hc hy hz hd
    subst hc
    simp only [List.mem_cons, List.not_mem_nil, or_false] at he
    obtain rfl | rfl | rfl := he
    · exact alu2w_result h hy hz hd rfl rfl (mulHigh_eq v y z)
    · exact alu2w_result h hy hz hd rfl rfl (minimum_eq_min y z v)
    · exact alu2w_result h hy hz hd rfl rfl (maximum_eq_max y z v)

/-- Settles O2: the quotient and the remainder are those of truncated division, and a zero divisor is a case of its own. -/
theorem divisionResults : Obligations.DivisionResults := by
  unfold Obligations.DivisionResults
  intro e he v b a d n p x k l s c s1 s2 s3 y z pl h hc hy hz hd
  subst hc
  simp only [List.mem_cons, List.not_mem_nil, or_false] at he
  obtain rfl | rfl := he
  · exact alu2w_result h hy hz hd rfl rfl (quotient_word v y z)
  · exact alu2w_result h hy hz hd rfl rfl (remainder_word v y z)

/-- The shifts by an immediate are well-formed up to 31 (R195). -/
theorem shift_count_of_wf (i : BitVec 7) (a d : BitVec 6) (n : BitVec 1) (p : BitVec 4)
    (h : (Instr.shli i a d n p).wf = true ∨ (Instr.shri i a d n p).wf = true ∨ (Instr.srai i a d n p).wf = true) : i.toNat < 32 := by
  have hcount : decide (selOk p ∧ i.toNat < 32) = true := h.elim id (·.elim id id)
  exact (of_decide_eq_true hcount).2

/-- Settles O3: each instruction reads its source, prepares its destination and gives the result there. -/
theorem immediateAndBitResults : Obligations.ImmediateAndBitResults := by
  unfold Obligations.ImmediateAndBitResults
  refine ⟨shift_count_of_wf, ?_, ?_, ?_, ?_, ?_⟩
  · intro e he i a d n p x k l s c s1 s2 y pl h hc hy hd
    subst hc
    simp only [List.mem_cons, List.not_mem_nil, or_false] at he
    obtain rfl | rfl | rfl | rfl | rfl | rfl | rfl := he
    · exact aluImm_result h hy hd rfl (rfl : _ = execAddi i a d n p s) rfl
    · exact aluImm_result h hy hd rfl (rfl : _ = execAndi i a d n p s) rfl
    · exact aluImm_result h hy hd rfl (rfl : _ = execOri i a d n p s) rfl
    · exact aluImm_result h hy hd rfl (rfl : _ = execXori i a d n p s) rfl
    · exact aluImm_result h hy hd rfl (rfl : _ = execShli i a d n p s) rfl
    · exact aluImm_result h hy hd rfl (rfl : _ = execShri i a d n p s) rfl
    · exact aluImm_result h hy hd rfl (rfl : _ = execSrai i a d n p s) (sshiftRight_eq_ofInt ..)
  · rintro i d n p x k l s _ s1 pl h rfl hd
    refine gives_word h rfl (onBoth_lanes h _ _) ((OperandsRead.begun s x k l).step (dst_ok hd).1) ?_ rfl
    simp only [bind_run, hd]
    rfl
  · rintro i d n p x k l s _ s1 s2 y pl h rfl hy hd
    refine gives_word h rfl (onBoth_lanes h _ _) (((OperandsRead.begun s x k l).step (src_ok hy)).step (dst_ok hd).1) ?_ (moveHigh_eq y i)
    simp only [bind_run, hy, hd]
  · intro e he i a d n p x k l s c s1 s2 y pl h hc hy hd
    subst hc
    simp only [List.mem_cons, List.not_mem_nil, or_false] at he
    obtain rfl | rfl | rfl | rfl | rfl | rfl | rfl := he
    · exact alu1_result h hy hd rfl rfl (toNat_ofNat_onesCount y)
    · exact alu1_result h hy hd rfl rfl (toNat_ofNat_leadingZeros y)
    · exact alu1_result h hy hd rfl rfl (ofNat_trailingZeros y)
    · exact alu1_result h hy hd rfl rfl fun j hj => getLsbD_bitReverse y hj
    · exact alu1_result h hy hd rfl rfl (extractLsb'_byteSwap y)
    · exact alu1_result h hy hd rfl rfl (BitVec.toInt_signExtend_of_le (by decide))
    · exact alu1_result h hy hd rfl rfl (BitVec.toInt_signExtend_of_le (by decide))
  · rintro i a d n p x k l s _ s1 s2 y pl h rfl hy hd
    refine gives_pair h rfl (onThreads_lanes h _) (((OperandsRead.begun s x k l).step (srcD_ok hy)).step (dst_ok hd).1) ?_ rfl
    simp only [bind_run, hy, hd]

/-- Settles O4: the field is empty, or the low bits of the shifted operand with zeros or copies of the sign above them. -/
theorem bitFieldResults : Obligations.BitFieldResults := by
  unfold Obligations.BitFieldResults
  rintro v b a d n p x k l s _ s1 s2 s3 y z pl h rfl hy hz hd
  obtain ⟨t, hexec, ht, hframe⟩ := gives_word h rfl (onThreads_lanes h _)
    ((((OperandsRead.begun s x k l).step (src_ok hy)).step (src_ok hz)).step (dst_ok hd).1)
    (r := bitField v y z) (by simp only [bind_run, hy, hz, hd]; rfl) rfl
  refine ⟨t, bitField v y z, hexec, ht, bitField_zero v y z, ?_, ?_, hframe⟩
  · rintro hlen rfl
    exact bitField_unsigned y z hlen
  · rintro hlen rfl
    exact bitField_signed y z hlen

end Sys2Proof.Proofs.LaneControl
end

section
/-! PROOFS. Compares and predicates in one lane: the lane's bit of a predicate and nothing else (R57, R199 to R201). -/

namespace Sys2Proof.Proofs.LaneControl

open Sys2Proof Sys2Proof.Machine Sys2Proof.Laws Sys2Proof.Proofs.ThreadState Sys2Proof.Proofs.EncodingAssembly

/-! ## A lane that has moved past an instruction -/

/-- A thread that has moved past an instruction and used its index registers, and is otherwise as it was. -/
structure Advanced (next : DWord) (t u : Thread) : Prop where
  fields : u = { t with x := u.x, pc := u.pc, st := u.st, reply := u.reply, got := u.got, safeCount := u.safeCount }
  pc : u.pc = next

theorem begun_thread (s : State) (x : Issue) (k l : Nat) :
    (s.begun x k l).thread k l = ((s.thread k l).advance (s.ctxOf x k l).next).countStep := by
  rw [State.begun, State.modThread_thread]
  exact congrArg Thread.countStep (State.modThread_thread s k l _)

theorem advanced_begun (s : State) (x : Issue) (k l : Nat) : Advanced (s.ctxOf x k l).next (s.thread k l) ((s.begun x k l).thread k l) := by
  rw [begun_thread]
  exact ⟨rfl, rfl⟩

theorem Advanced.stepped {c : Ctx} {next : DWord} {t : Thread} {u w : State} (h : Advanced next t (u.thread c.crew c.lane))
    (g : Stepped c u w) : Advanced next t (w.thread c.crew c.lane) := by
  obtain rfl | ⟨xs, rfl⟩ := g
  · exact h
  · rw [State.modThread_thread]
    exact ⟨by rw [h.fields], h.pc⟩

theorem Advanced.afterInstr {next : DWord} {t : Thread} {u : State} {c : Ctx} (h : Advanced next t (u.thread c.crew c.lane)) :
    Advanced next t ((u.afterInstr c).thread c.crew c.lane) := by
  obtain e | e := afterInstr_cases u c <;> rw [e]
  · exact h
  · rw [State.modThread_thread]
    exact ⟨by rw [h.fields], h.pc⟩

/-- What a lane has read the operands of an instruction in: its own thread has moved on, and nothing else. -/
structure ReadOn (x : Issue) (k l : Nat) (s t : State) : Prop where
  onlyLane : OnlyLane k l s t
  advanced : Advanced (s.ctxOf x k l).next (s.thread k l) (t.thread k l)

theorem ReadOn.begun (s : State) (x : Issue) (k l : Nat) : ReadOn x k l s (s.begun x k l) := ⟨onlyLane_begun s x k l, advanced_begun s x k l⟩

theorem ReadOn.step {x : Issue} {k l : Nat} {s t u : State} (h : ReadOn x k l s t) (g : Stepped (s.ctxOf x k l) t u) : ReadOn x k l s u :=
  ⟨onlyLane_trans h.onlyLane (Stepped.onlyLane g), Advanced.stepped (c := s.ctxOf x k l) h.advanced g⟩

/-- A state in which one lane has changed is the old one with other threads. -/
theorem exists_threads_of_onlyLane {k l : Nat} {s t : State} (h : OnlyLane k l s t) : ∃ th, t = { s with threads := th } :=
  ⟨t.threads, by rw [← h.rest]⟩

theorem onlyLane_crews {k l : Nat} {s t : State} (h : OnlyLane k l s t) : t.crews = s.crews := by
  obtain ⟨_, rfl⟩ := exists_threads_of_onlyLane h
  rfl

theorem onlyLane_crew {k l : Nat} {s t : State} (h : OnlyLane k l s t) (j : Nat) : t.crew j = s.crew j := by
  rw [State.crew, State.crew, onlyLane_crews h]

/-! ## A predicate bit -/

/-- A crew one of whose predicate bits is written. -/
def writeBit (q : BitVec 4) (l : Nat) (b : Bool) (w : Crew) : Crew :=
  { w with p := mset w.p q.toNat (if b then mget 0 w.p q.toNat ||| bitOf l else mget 0 w.p q.toNat &&& ~~~bitOf l) }

theorem setPred_run (c : Ctx) (q : BitVec 4) (b : Bool) (s : State) : setPred c q b s = .ok ((), s.modCrew c.crew (writeBit q c.lane b)) := rfl

theorem getPred_run (c : Ctx) (q : BitVec 4) (s : State) : getPred c q s = .ok ((mget 0 (s.crew c.crew).p q.toNat).getLsbD c.lane, s) := rfl

theorem writesBit_writeBit (q : BitVec 4) {l : Nat} (hl : l < 32) (b : Bool) (w : Crew) : WritesBit q l b w (writeBit q l b w) where
  bit := by
    rw [writeBit, mget_mset_same]
    cases b <;> simp [-BitVec.getLsbD_eq_getElem, bitOf_getLsbD hl hl, hl]
  lanes m hm hne := by
    rw [writeBit, mget_mset_same]
    cases b <;> simp [-BitVec.getLsbD_eq_getElem, bitOf_getLsbD hl hm, hm, hne]
  others r hr := mfind_mset_other _ _ hr
  rest := rfl

section
variable {i : Instr} {x : Issue} {k l : Nat} {s s1 : State}

/-- Only threads and crews change where a lane has read its operands and its crew is then changed. -/
theorem rest_modCrew_afterInstr (h : OnlyLane k l s s1) (f : Crew → Crew) (c : Ctx) :
    { (s1.modCrew k f).afterInstr c with threads := s.threads, crews := s.crews } = s := by
  obtain ⟨th, rfl⟩ := exists_threads_of_onlyLane h
  obtain e | e := afterInstr_cases (State.modCrew { s with threads := th } k f) c <;> rw [e] <;> rfl

/-- The frame of a predicate bit: `s1` is the state after the sources are read. -/
theorem onlyPredicate_of_readOn (hl : l < 32) (h : ReadOn x k l s s1) (q : BitVec 4) (b : Bool) :
    OnlyPredicate q k l b s ((s1.modCrew k (writeBit q l b)).afterInstr (s.ctxOf x k l)) :=
  have hafter : OnlyLane k l (s1.modCrew k (writeBit q l b)) ((s1.modCrew k (writeBit q l b)).afterInstr (s.ctxOf x k l)) :=
    onlyLane_afterInstr _ (s.ctxOf x k l)
  { rest := rest_modCrew_afterInstr h.onlyLane _ _
    crew := by
      rw [onlyLane_crew hafter, State.modCrew_crew, onlyLane_crew h.onlyLane]
      exact writesBit_writeBit q hl b _
    crews := fun j hj => by
      rw [onlyLane_crews hafter, ← onlyLane_crews h.onlyLane]
      exact mfind_mset_other _ _ hj
    others := fun j hj => (hafter.others j hj).trans (h.onlyLane.others j hj)
    bytes := fun a => (hafter.bytes a).trans (h.onlyLane.bytes a)
    lane := (Advanced.afterInstr (u := s1.modCrew k (writeBit q l b)) (c := s.ctxOf x k l) h.advanced).fields }

/-- An instruction whose computation ends by writing a predicate bit. -/
theorem writes_predicate {body : Ctx → LaneM Unit} {q : BitVec 4} {b b' : Bool} (h : Runs i x k l s) (hread : ReadOn x k l s s1)
    (he : (shapeOf i).entry = false) (hx : exec i s = onThreads (shapeOf i) (quietly body) s)
    (hb : body (s.ctxOf x k l) (s.begun x k l) = setPred (s.ctxOf x k l) q b s1) (hbit : b = b') :
    ∃ t, exec i s = .next t ∧ OnlyPredicate q k l b' s t ∧ (t.thread k l).pc = (s.ctxOf x k l).next := by
  subst hbit
  refine ⟨_, ?_, onlyPredicate_of_readOn h.lane hread q b,
    (Advanced.afterInstr (u := s1.modCrew k (writeBit q l b)) (c := s.ctxOf x k l) hread.advanced).pc⟩
  rw [hx, onThreads_lanes h, runLanes_one h.parts h.lane he, runLane_ok h.crew h.legal h.guard (quietly_ok (hb.trans (setPred_run ..)))]
  rfl

/-- A compare reads its two sources and writes their outcome. -/
theorem compare2_result {w : BitVec 1} {b a : BitVec 6} {q : BitVec 4} {fw : Word → Word → Bool} {fd : DWord → DWord → Bool}
    {s2 : State} {y z : DWord} {r r' : Bool} (h : Runs i x k l s)
    (hy : srcV (s.ctxOf x k l) w a.toNat (s.begun x k l) = .ok (y, s1)) (hz : srcV (s.ctxOf x k l) w b.toNat s1 = .ok (z, s2))
    (he : (shapeOf i).entry = false) (hx : exec i s = compare2 i w b a q fw fd s) (hw : fw y.lo z.lo = r) (hd : fd y z = r') :
    ∃ t, exec i s = .next t ∧ OnlyPredicate q k l (if w = 0 then r else r') s t ∧ (t.thread k l).pc = (s.ctxOf x k l).next := by
  subst hw hd
  refine writes_predicate h (((ReadOn.begun s x k l).step (srcV_ok hy)).step (srcV_ok hz)) he hx ?_ rfl
  simp only [bind_run, hy, hz]

end

theorem less_eq {n : Nat} (v : BitVec 1) (y z : BitVec n) :
    less v y z = if v = 0 then decide (y.toInt < z.toInt) else decide (y.toNat < z.toNat) := by
  rw [less, BitVec.slt_eq_decide, BitVec.ult_eq_decide]

theorem atMost_eq {n : Nat} (v : BitVec 1) (y z : BitVec n) :
    atMost v y z = if v = 0 then decide (y.toInt ≤ z.toInt) else decide (y.toNat ≤ z.toNat) := by
  rw [atMost, BitVec.sle_eq_decide, BitVec.ule_eq_decide]

/-- PLOG reads two bits of the lane and writes the outcome of its operation. -/
theorem plog_result {b a d p : BitVec 4} {u : BitVec 3} {n : BitVec 1} {x : Issue} {k l : Nat} {s : State} {r : Bool}
    (h : Runs (.plog b u a d n p) x k l s)
    (hr : predLogic u ((mget 0 (s.crew k).p a.toNat).getLsbD l) ((mget 0 (s.crew k).p b.toNat).getLsbD l) = r) :
    ∃ t, exec (.plog b u a d n p) s = .next t ∧ OnlyPredicate d k l r s t ∧ (t.thread k l).pc = (s.ctxOf x k l).next := by
  refine writes_predicate h (ReadOn.begun s x k l) rfl (rfl : _ = execPlog b u a d n p s) ?_ hr
  simp only [bind_run, getPred_run]
  rfl

/-- A PLOG with a sub-op of 6 or 7 is not well-formed (R200). -/
theorem plog_wf_false (b : BitVec 4) (u : BitVec 3) (a d : BitVec 4) (n : BitVec 1) (p : BitVec 4) (hu : 6 ≤ u.toNat) : (Instr.plog b u a d n p).wf = false :=
  decide_eq_false fun h => absurd h.2.2.1 (Nat.not_lt.2 hu)

/-- Settles O6: each instruction reads its sources and writes one bit of its predicate. -/
theorem compareResults : Obligations.CompareResults := by
  unfold Obligations.CompareResults
  refine ⟨?_, ?_, ?_, fun b a d n p => ⟨plog_wf_false b 6 a d n p (by decide), plog_wf_false b 7 a d n p (by decide)⟩⟩
  · intro e he b a w q n p x k l s c s1 s2 y z h hc hy hz
    subst hc
    simp only [List.mem_cons, List.not_mem_nil, or_false] at he
    obtain rfl | rfl := he
    · exact compare2_result h hy hz rfl (rfl : _ = execCeq b a w q n p s) rfl rfl
    · exact compare2_result h hy hz rfl (rfl : _ = execCne b a w q n p s) rfl rfl
  · intro e he v b a w q n p x k l s c s1 s2 y z h hc hy hz
    subst hc
    simp only [List.mem_cons, List.not_mem_nil, or_false] at he
    obtain rfl | rfl := he
    · exact compare2_result h hy hz rfl (rfl : _ = execClt v b a w q n p s) (less_eq ..) (less_eq ..)
    · exact compare2_result h hy hz rfl (rfl : _ = execCle v b a w q n p s) (atMost_eq ..) (atMost_eq ..)
  · intro e he b a d n p x k l s h
    simp only [List.mem_cons, List.not_mem_nil, or_false] at he
    obtain rfl | rfl | rfl | rfl | rfl | rfl := he <;> exact plog_result h rfl

/-- Settles O7: each instruction moves the lane's bit between a predicate and a register, or sets or clears it. -/
theorem predicateMoves : Obligations.PredicateMoves := by
  unfold Obligations.PredicateMoves
  refine ⟨?_, ?_, ?_, ?_⟩
  · rintro a d n p x k l s _ s1 pl h rfl hd
    refine gives_word h rfl (onThreads_lanes h _) ((OperandsRead.begun s x k l).step (dst_ok hd).1) ?_ rfl
    simp only [bind_run, getPred_run, hd]
    rfl
  · rintro a d n p x k l s _ s1 y h rfl hy
    refine writes_predicate h ((ReadOn.begun s x k l).step (src_ok hy)) rfl (rfl : _ = execPwr a d n p s) ?_ rfl
    simp only [bind_run, hy]
  · intro d n p x k l s h
    exact writes_predicate h (ReadOn.begun s x k l) rfl (rfl : _ = execPset d n p s) rfl rfl
  · intro d n p x k l s h
    exact writes_predicate h (ReadOn.begun s x k l) rfl (rfl : _ = execPclr d n p s) rfl rfl

end Sys2Proof.Proofs.LaneControl
end

section
/-! PROOFS. Control in one lane: transfers (R203 to R206), convergence and retirement (R206 to R208), safe points (R209), and operand fields that
name no legal operand (R222, R402). -/

namespace Sys2Proof.Proofs.LaneControl

open Sys2Proof Sys2Proof.Machine Sys2Proof.Laws Sys2Proof.Proofs.ThreadState Sys2Proof.Proofs.EncodingAssembly
open Sys2Proof.Proofs.MemoryModel

/-! ## Transfers -/

/-- A displacement counts parcels (R182). -/
theorem branchTarget_eq (pc : DWord) (d : BitVec 19) : branchTarget pc d = pc + BitVec.ofInt 64 (2 * d.toInt) := by
  rw [branchTarget, BitVec.shiftLeft_eq_mul_twoPow, BitVec.ofInt_mul, mul_comm]
  rfl

/-- A thread whose control alone has changed, and its queue, has given no other result. -/
theorem onlyResult_control (t : Thread) (q : List Word) (pc : DWord) (st : LaneState) (n : Nat) :
    OnlyResult .queue 1 t { t with q := q, pc := pc, st := st, safeCount := n } :=
  ⟨fun _ _ => rfl, fun _ _ => rfl, rfl, rfl, rfl, ⟨rfl, rfl, rfl⟩, ⟨rfl, rfl, rfl, rfl⟩⟩

/-- The program counter stands in no frame of a result. -/
theorem onlyResult_withPc {p : Place_} {words : Nat} {t u : Thread} (h : OnlyResult p words t u) (pc : DWord) :
    OnlyResult p words t { u with pc := pc } :=
  ⟨h.named, h.array, h.holds, h.caps, h.fpctl, h.trap, h.times⟩

theorem push2_eq (t : Thread) (x : DWord) : t.push2 x = { t with q := (x.hi :: (x.lo :: t.q).take 16).take 16 } := rfl

section
variable {i : Instr} {x : Issue} {k l : Nat} {s s1 s2 : State}

theorem thread_doneLane (s s1 : State) (x : Issue) (k l : Nat) (f : Thread → Thread) :
    ∃ st, (s1.doneLane (s.ctxOf x k l) f).thread k l = { f (s1.thread k l) with st := st } := doneLane_thread s1 (s.ctxOf x k l) f

/-- A lane that stops after an instruction keeps what it has read on. -/
theorem operandsRead_afterInstr (h : OperandsRead k l s s1) : OperandsRead k l s (s1.afterInstr (s.ctxOf x k l)) := by
  refine ⟨onlyLane_trans h.onlyLane (onlyLane_afterInstr s1 (s.ctxOf x k l)), ?_⟩
  obtain e | e := afterInstr_cases s1 (s.ctxOf x k l) <;> rw [e]
  · exact h.kept
  · refine h.kept.trans ?_
    rw [ctxOf_crew, ctxOf_lane, State.modThread_thread]
    exact ⟨rfl, rfl, rfl, rfl, rfl, rfl, ⟨rfl, rfl, rfl⟩, ⟨rfl, rfl, rfl, rfl⟩, rfl, rfl⟩

theorem transfer_lanes (h : Runs i x k l s) (body : Ctx → LaneM Unit) (target : DWord → Cluster → DWord) (link : Option Nat) (ends : Bool) :
    transfer i body target link ends s = .next (runLanes (shapeOf i) (quietly body) s x) := by
  rw [transfer, h.unit]

/-- The frame of a transfer: `s1` is the state after the operands are read, and `f` changes the queue, the program counter, the safe-point
counter and whether the lane runs. -/
theorem frame_control {f : Thread → Thread} (h : OperandsRead k l s s1)
    (hf : ∀ u, f u = { u with q := (f u).q, pc := (f u).pc, st := (f u).st, safeCount := (f u).safeCount }) :
    let t := s1.doneLane (s.ctxOf x k l) f
    OnlyLane k l s t ∧ OnlyResult .queue 1 (s.thread k l) (t.thread k l) ∧
      (t.thread k l).q = (f (s1.thread k l)).q ∧ (t.thread k l).safeCount = (f (s1.thread k l)).safeCount := by
  intro t
  obtain ⟨st, ht⟩ : ∃ st, t.thread k l = { f (s1.thread k l) with st := st } := thread_doneLane s s1 x k l f
  refine ⟨onlyLane_trans h.onlyLane (onlyLane_doneLane s1 (s.ctxOf x k l) f), ?_, by rw [ht], by rw [ht]⟩
  rw [ht, hf]
  exact onlyResult_of_kept h.kept (onlyResult_control ..)

/-- A transfer to an address pushes nothing. -/
theorem jump_result {body : Ctx → LaneM Unit} {pc : DWord} (h : Runs i x k l s) (hread : OperandsRead k l s s1)
    (he : (shapeOf i).entry = false) (hx : exec i s = .next (runLanes (shapeOf i) (quietly body) s x))
    (hb : body (s.ctxOf x k l) (s.begun x k l) = goTo (s.ctxOf x k l) pc s1) :
    ∃ t, exec i s = .next t ∧ t = s1.doneLane (s.ctxOf x k l) (fun u => { u with pc := pc }) ∧
      OnlyLane k l s t ∧ OnlyResult .queue 1 (s.thread k l) (t.thread k l) ∧ (t.thread k l).q = (s.thread k l).q := by
  obtain ⟨honly, hresult, hq, -⟩ := frame_control (x := x) (f := fun u => { u with pc := pc }) hread fun _ => rfl
  exact ⟨_, exec_changes h he hx hb, rfl, honly, hresult, hq.trans hread.kept.q⟩

/-- JMP and RET read their target. -/
theorem jumpTo_result {a : BitVec 6} {target : DWord → Cluster → DWord} {link : Option Nat} {ends : Bool} {y : DWord} (h : Runs i x k l s)
    (hy : srcD (s.ctxOf x k l) a.toNat (s.begun x k l) = .ok (y, s1)) (he : (shapeOf i).entry = false)
    (hx : exec i s = transfer i (fun c => do
      let y ← srcD c a.toNat
      goTo c y) target link ends s) :
    ∃ t, exec i s = .next t ∧ t = s1.doneLane (s.ctxOf x k l) (fun u => { u with pc := y }) ∧
      OnlyLane k l s t ∧ OnlyResult .queue 1 (s.thread k l) (t.thread k l) ∧ (t.thread k l).q = (s.thread k l).q := by
  refine jump_result h ((OperandsRead.begun s x k l).step (srcD_ok hy)) he (hx.trans (transfer_lanes h _ _ _ _)) ?_
  simp only [bind_run, hy]

end

/-- Settles O15: a transfer changes the program counter of its lane, and a call gives the return address as a result. -/
theorem transferResults : Obligations.TransferResults := by
  unfold Obligations.TransferResults
  refine ⟨?_, ?_, ?_, ?_, ?_⟩
  · rintro d n p x k l s _ h rfl
    rw [← branchTarget_eq]
    exact jump_result h (OperandsRead.begun s x k l) rfl ((rfl : _ = execBr d n p s).trans (transfer_lanes h _ _ _ _)) rfl
  · rintro d n p x k l s _ h rfl
    rw [← branchTarget_eq]
    obtain ⟨honly, hresult, -⟩ := frame_control (x := x) (f := fun u => { u.push2 (x.pc + 4) with pc := branchTarget x.pc d })
      (OperandsRead.begun s x k l) fun u => by simp only [push2_eq]
    exact ⟨_, exec_changes h rfl ((rfl : _ = execCall d n p s).trans (transfer_lanes h _ _ _ _)) rfl, rfl, honly, hresult⟩
  · intro e he i a n p x k l s c s1 y h hc hy
    subst hc
    simp only [List.mem_cons, List.not_mem_nil, or_false] at he
    obtain rfl | rfl := he
    · exact jumpTo_result h hy rfl (rfl : _ = execJmp i a n p s)
    · exact jumpTo_result h hy rfl (rfl : _ = execRet i a n p s)
  · rintro i a d n p x k l s _ s1 s2 y pl h rfl hy hd
    have hread : OperandsRead k l s s2 := ((OperandsRead.begun s x k l).step (srcD_ok hy)).step (dst_ok hd).1
    refine ⟨_, exec_changes (f := fun u => { u.giveD pl (x.pc + 4) with pc := y }) h rfl
      ((rfl : _ = execCallr i a d n p s).trans (transfer_lanes h _ _ _ _)) ?_, rfl,
      onlyLane_trans hread.onlyLane (onlyLane_doneLane s2 (s.ctxOf x k l) _), ?_⟩
    · simp only [bind_run, hy, hd, putD, goTo, modMe_run, modThread_modThread]
      rfl
    · obtain ⟨st, ht⟩ := thread_doneLane s s2 x k l fun u => { u.giveD pl (x.pc + 4) with pc := y }
      rw [ht]
      exact onlyResult_of_kept hread.kept (onlyResult_withPc (onlyResult_giveD _ pl _ st) y)
  · rintro n p x k l s _ h rfl
    have hread := operandsRead_afterInstr (x := x) (OperandsRead.begun s x k l)
    exact ⟨_, (rfl : _ = execNop n p s).trans (onThreads_runs h rfl (quietly_ok rfl)), rfl,
      (Advanced.afterInstr (c := s.ctxOf x k l) (advanced_begun s x k l)).pc, hread.onlyLane,
      onlyResult_of_kept hread.kept (onlyResult_control _ _ _ _ _), hread.kept.q⟩

/-! ## Convergence -/

/-- A computation of a lane that is left out of a helper. -/
theorem unless_run {p : Bool} (m : LaneM Unit) {s t : State} (h : m s = .ok ((), t)) :
    (if p then pure () else m) s = .ok ((), if p then s else t) := by
  cases p
  · exact h
  · rfl

/-- Settles O17: each instruction changes its lane's rejoin bits or state, and the crews then settle. -/
theorem convergenceEffects : Obligations.ConvergenceEffects := by
  unfold Obligations.ConvergenceEffects
  refine ⟨?_, ?_, ?_, ?_⟩
  · intro e he j n p x k l s c h hc
    subst hc
    simp only [List.mem_cons, List.not_mem_nil, or_false] at he
    obtain rfl | rfl := he
    · exact (rfl : _ = execEnrol j n p s).trans (converge_runs h rfl (unless_run (modMyCrew _ _) rfl))
    · exact (rfl : _ = execStrike j n p s).trans (converge_runs h rfl (unless_run (modMyCrew _ _) rfl))
  · rintro j n p x k l s _ h rfl
    refine (rfl : _ = execPark j n p s).trans (converge_runs h rfl ?_)
    simp only [bind_run, myCrew_run, ite_run, modMe_run, pure_run, Bool.and_eq_true, Bool.not_eq_true']
    by_cases hparks : (s.ctxOf x k l).helper = false ∧ (mget 0 (s.crew k).j j.toNat).getLsbD l = true
    · rw [if_pos hparks]
      exact if_pos hparks
    · rw [if_neg hparks]
      exact if_neg hparks
  · rintro n p x k l s _ h rfl
    exact (rfl : _ = execExit n p s).trans (converge_runs h rfl (unless_run _ rfl))
  · rintro n p x k l s _ h rfl
    refine ⟨_, ?_, rfl, (Advanced.afterInstr (c := s.ctxOf x k l) (advanced_begun s x k l)).pc⟩
    change execReform n p s = _
    rw [execReform, h.unit]
    dsimp only
    rw [runLanes_one h.parts h.lane rfl, runLane_ok h.crew h.legal h.guard (quietly_ok rfl)]
    rfl

/-! ## Safe points -/

/-- What SAFEPT does to its lane: the counter restarts, and the lane stops with its live state where a pre-emption is pending (R40, R209). -/
def safePoint (pending : Prop) [Decidable pending] (st : LaneState) (u : Thread) : Thread :=
  if pending then { u with safeCount := 0, st := st } else { u with safeCount := 0 }

theorem safePoint_eq (pending : Prop) [Decidable pending] (st : LaneState) (u : Thread) :
    safePoint pending st u = { u with st := (safePoint pending st u).st, safeCount := 0 } := by
  unfold safePoint
  split <;> rfl

theorem exec_safept {q : BitVec 3} {f : BitVec 1} {m : BitVec 5} {n : BitVec 1} {p : BitVec 4} {x : Issue} {k l : Nat} {s : State}
    (h : Runs (.safept q f m n p) x k l s) : exec (.safept q f m n p) s = .next ((s.begun x k l).doneLane (s.ctxOf x k l)
      (safePoint ((s.ctxOf x k l).helper = false ∧ (s.group (s.ctxOf x k l).group).preempt ≠ .none)
        (.safept (mget 0 (s.crew k).k q.toNat) m.toNat (f == 1)))) := by
  refine exec_changes h rfl ((rfl : _ = execSafept q f m n p s).trans (onThreads_lanes h _)) ?_
  have hmask : src (s.ctxOf x k l) (56 + q.toNat) (s.begun x k l) = .ok (mget 0 (s.crew k).k q.toNat, s.begun x k l) := by
    rw [src_uniform (by omega), Nat.add_sub_cancel_left]
    rfl
  simp only [bind_run, hmask, modMe_run, get_run, ite_run, pure_run, Bool.and_eq_true, Bool.not_eq_true', bne_iff_ne, modThread_modThread]
  unfold safePoint
  by_cases hpending : (s.ctxOf x k l).helper = false ∧ (s.group (s.ctxOf x k l).group).preempt ≠ .none
  · simp only [if_pos hpending]
    exact if_pos hpending
  · simp only [if_neg hpending]
    exact if_neg hpending

/-- Settles O19: the counter restarts, and the lane stops where its group is about to be saved. -/
theorem safePointEffects : Obligations.SafePointEffects := by
  unfold Obligations.SafePointEffects
  constructor
  · rintro q f m n p x k l s _ h rfl
    have hread := OperandsRead.begun s x k l
    obtain ⟨honly, hresult, hq, hcount⟩ := frame_control (x := x) hread (f := safePoint
      ((s.ctxOf x k l).helper = false ∧ (s.group (s.ctxOf x k l).group).preempt ≠ .none)
      (.safept (mget 0 (s.crew k).k q.toNat) m.toNat (f == 1))) fun u => by rw [safePoint_eq]
    rw [safePoint_eq] at hq hcount
    exact ⟨_, exec_safept h, rfl, honly, hresult, hq.trans hread.kept.q, hcount⟩
  · intro x k l s
    rw [begun_thread]
    rfl

/-! ## Operand fields that name no legal operand -/

/-- An instruction that lanes run by themselves, issued to one lane which takes its entry where it asks for one (R122). -/
theorem exec_laneWise_one {i : Instr} {x : Issue} {k l : Nat} {s : State} (hw : LaneWise i) (hu : s.unit = .lanes x)
    (hp : x.parts = [{ crew := k, lanes := bitOf l }]) (hl : l < 32) (he : HasEntry i x s) :
    ∃ body, exec i s = .next ((runLane (shapeOf i) body x s k l).ended i x) := by
  obtain ⟨body, hb⟩ := hw x s hu
  refine ⟨body, ?_⟩
  rw [hb, State.ended]
  cases hentry : (shapeOf i).entry with
  | true => rw [runLanes_entry hp hl hentry body s (he hentry), if_pos rfl]
  | false => rw [runLanes_one hp hl hentry, if_neg (by simp)]

/-- A helper lane moves past an instruction whose operand fields name no legal operand (R393). -/
theorem runLane_refused_helper {sh : Shape} {body : Ctx → LaneM After} {x : Issue} {s : State} {k l code sub detail : Nat}
    (hk : (mfind s.crews k).isSome = true) (hr : sh.refusal (s.ctxOf x k l).n = some (code, sub, detail))
    (hh : (s.ctxOf x k l).helper = true) : runLane sh body x s k l = s.past (s.ctxOf x k l) := by
  rw [runLane, if_neg (by simpa [Option.isSome_iff_ne_none] using hk)]
  simp only [hr, hh, if_true]

section
variable {n f : Nat}

/-- A named register at or above the launch's count is no operand (R47). -/
theorem need_register (hf : f < 32) (hn : n ≤ f) :
    Need.ok n .srcW f = false ∧ Need.ok n .dstW f = false ∧ Need.ok n .srcD f = false ∧ Need.ok n .dstD f = false := by
  simp only [Need.ok, Bool.or_eq_false_iff, decide_eq_false_iff_not, beq_eq_false_iff_ne]
  omega

/-- Queue entries past the first and crew-uniform registers are no destinations (R172). -/
theorem need_destination (h : 33 ≤ f ∧ f < 48 ∨ 56 ≤ f) : Need.ok n .dstW f = false ∧ Need.ok n .dstD f = false := by
  simp only [Need.ok, Bool.or_eq_false_iff, decide_eq_false_iff_not, beq_eq_false_iff_ne]
  omega

/-- The oldest queue entry begins no pair (R173). -/
theorem need_last_entry : Need.ok n .srcD 47 = false := by
  simp only [Need.ok, Bool.or_eq_false_iff, decide_eq_false_iff_not]
  omega

end

section
variable {i : Instr}

theorem laneWise_onThreads {body : State → Ctx → LaneM After} (h : ∀ s, exec i s = onThreads (shapeOf i) (body s) s) : LaneWise i :=
  fun x s hu => ⟨body s, (h s).trans (by rw [onThreads, hu])⟩

theorem laneWise_onBoth {body : Ctx → LaneM After} {f : Cluster → Cluster} (h : ∀ s, exec i s = onBoth (shapeOf i) body f s) : LaneWise i :=
  fun x s hu => ⟨body, (h s).trans (by rw [onBoth, hu])⟩

theorem laneWise_transfer {body : Ctx → LaneM Unit} {target : DWord → Cluster → DWord} {link : Option Nat} {ends : Bool}
    (h : ∀ s, exec i s = transfer i body target link ends s) : LaneWise i :=
  fun x s hu => ⟨quietly body, (h s).trans (by rw [transfer, hu])⟩

end

/-- Settles O23: the operand fields are looked at before the guard, and the lane traps with the first that names no legal operand. -/
theorem illegalOperandsTrap : Obligations.IllegalOperandsTrap := by
  unfold Obligations.IllegalOperandsTrap
  refine ⟨?_, fun _ _ => need_register, fun _ _ h h' => need_destination (.inl ⟨h, h'⟩), fun _ _ h _ => need_destination (.inr h),
    fun _ => need_last_entry, ?_⟩
  · rintro i x k l s _ sub detail hw hu hp hl hk rfl he hr
    obtain ⟨body, hexec⟩ := exec_laneWise_one hw hu hp hl he
    constructor
    · intro hh
      rw [hexec, runLane_refused hk hr hh]
      rfl
    · intro hh
      rw [hexec, runLane_refused_helper hk hr hh]
  · intro v w j q b a d n p i h e g
    exact ⟨laneWise_onBoth fun s => (rfl : _ = execAdd v b a d n p s), laneWise_onBoth fun s => (rfl : _ = execAddi i a d n p s),
      laneWise_onThreads fun s => (rfl : _ = execCeq b a w q n p s), laneWise_onThreads fun s => (rfl : _ = execFadd v b a d n p s),
      laneWise_onThreads fun s => (rfl : _ = execFcmp v b a j q n p s), laneWise_transfer fun s => (rfl : _ = execBr g n p s),
      laneWise_onThreads fun s => (rfl : _ = execQxH h a d n p s), laneWise_onThreads fun s => (rfl : _ = execPerm b a d n p s),
      laneWise_onThreads fun s => (rfl : _ = execVote h j a d n p s), laneWise_onThreads fun s => (rfl : _ = execLdW h e b d n p s),
      laneWise_onThreads fun s => (rfl : _ = execStW h e b d n p s), laneWise_onThreads fun s => (rfl : _ = execXset h a e n p s),
      laneWise_onThreads fun s => (rfl : _ = execCapsetA h a e e n p s), laneWise_onThreads fun s => (rfl : _ = execTrap a n p s)⟩

end Sys2Proof.Proofs.LaneControl
end

section
/-! PROOFS. The tile-sequencer stream's scalars: integer, transfer and system-register instructions (R178, R202, R293, R294, R402, R403). -/

namespace Sys2Proof.Proofs.LaneControl

open Sys2Proof Sys2Proof.Machine

/-! ## Whether a stream may execute an instruction -/

section
variable {sh : Shape}

theorem streamRefusal_none (hs : sh.stream = true) (hg : sh.guard.sel = 15) (hf : ∀ f ∈ sh.uses.map (·.2.2), f < 16) :
    sh.streamRefusal false = none := by
  have huses : (sh.uses.any fun u => decide (16 ≤ u.2.2)) = false :=
    List.any_eq_false.2 fun u hu => by simpa using hf _ (List.mem_map_of_mem hu)
  simp [Shape.streamRefusal, hs, hg, huses]

theorem streamRefusal_operand (hs : sh.stream = true) (hg : sh.guard.sel = 15) (hf : ∃ f ∈ sh.uses.map (·.2.2), 16 ≤ f) :
    sh.streamRefusal false = some 2 := by
  have huses : (sh.uses.any fun u => decide (16 ≤ u.2.2)) = true := by
    obtain ⟨f, hmem, hle⟩ := hf
    obtain ⟨u, hu, rfl⟩ := List.mem_map.1 hmem
    exact List.any_eq_true.2 ⟨u, hu, decide_eq_true hle⟩
  simp [Shape.streamRefusal, hs, hg, huses]

theorem streamRefusal_guard (hs : sh.stream = true) (hg : sh.guard.sel ≠ 15) : sh.streamRefusal false = some 1 := by
  rw [Shape.streamRefusal, if_neg (by simp [hs]), if_pos hg]

end

/-! ## Instructions that change the cluster -/

theorem modCluster_congr {s : State} {cl : Nat} {f g : Cluster → Cluster} (h : f (s.cluster cl) = g (s.cluster cl)) :
    s.modCluster cl f = s.modCluster cl g := by
  rw [State.modCluster, State.modCluster, h]

section
variable {s : State} {cl w : Nat} {pc : DWord} (hu : s.unit = .stream cl pc w)
include hu

theorem onBoth_stream (sh : Shape) (body : Ctx → LaneM After) (f : Cluster → Cluster) :
    onBoth sh body f s = .next (streamStep sh s cl pc f) := by
  rw [onBoth, hu]

theorem onThreads_stream (sh : Shape) (body : Ctx → LaneM After) : onThreads sh body s = .next (s.terminate (s.streamLaunch cl) 0x101) := by
  rw [onThreads, hu]
  rfl

theorem converge_stream (i : Instr) (body : Ctx → LaneM Unit) : converge i body s = .next (s.terminate (s.streamLaunch cl) 0x101) := by
  rw [converge, hu]
  rfl

omit hu in
theorem streamStep_runs {sh : Shape} (h : sh.streamRefusal false = none) (f : Cluster → Cluster) :
    streamStep sh s cl pc f = s.modCluster cl fun k => { f k with pc := pc + 4 } := by
  rw [streamStep, h]

omit hu in
theorem streamStep_refused {sh : Shape} {code : Nat} (h : sh.streamRefusal false = some code) (f : Cluster → Cluster) :
    streamStep sh s cl pc f = s.terminate (s.streamLaunch cl) (0x100 + code) := by
  rw [streamStep, h]
  rfl

/-- An integer instruction that the stream may execute writes its result, sets NZ and goes on (R202, R293). -/
theorem scalar_runs {i : Instr} {body : Ctx → LaneM After} {d : Nat} {g : Cluster → DWord} {r : DWord}
    (h : (shapeOf i).streamRefusal false = none) (hx : exec i s = onBoth (shapeOf i) body (fun k => k.result d (g k)) s)
    (hr : g (s.cluster cl) = r) :
    exec i s = .next (s.modCluster cl fun k => { k with s := mset k.s d r, nz := r != 0, pc := pc + 4 }) := by
  subst hr
  rw [hx, onBoth_stream hu, streamStep_runs h]
  exact congrArg Host.Outcome.next (modCluster_congr rfl)

/-- A form of an instruction by its guard's selector: two scalar operands and a destination. -/
structure RegisterForm (mk : BitVec 4 → Instr) (d a b : Nat) : Prop where
  stream : ∀ p, (shapeOf (mk p)).stream = true
  guard : ∀ p, (shapeOf (mk p)).guard.sel = p
  uses : ∀ p, (shapeOf (mk p)).uses.map (·.2.2) = [d, a, b]

/-- A register-register instruction of a stream: its result, or the end of the launch for an operand or a guard that streams do not have. -/
theorem register_form {mk : BitVec 4 → Instr} {d a b : Nat} (hform : RegisterForm mk d a b) {body : BitVec 4 → Ctx → LaneM After}
    {g : DWord → DWord → DWord} {r : DWord}
    (hx : ∀ p, exec (mk p) s = onBoth (shapeOf (mk p)) (body p) (fun k => k.result d (g (k.sreg a) (k.sreg b))) s)
    (hr : g (mget 0 (s.cluster cl).s a) (mget 0 (s.cluster cl).s b) = r) :
    (a < 16 → b < 16 → d < 16 →
      exec (mk 15) s = .next (s.modCluster cl fun k => { k with s := mset k.s d r, nz := r != 0, pc := pc + 4 })) ∧
    (16 ≤ a ∨ 16 ≤ b ∨ 16 ≤ d → exec (mk 15) s = .next (s.terminate (s.streamLaunch cl) 0x102)) ∧
    ∀ p, p ≠ 15 → exec (mk p) s = .next (s.terminate (s.streamLaunch cl) 0x101) := by
  refine ⟨fun ha hb hd => ?_, fun hbig => ?_, fun p hp => ?_⟩
  · refine scalar_runs hu (streamRefusal_none (hform.stream 15) (hform.guard 15) ?_) (hx 15) hr
    rw [hform.uses]
    simp [ha, hb, hd]
  · rw [hx, onBoth_stream hu, streamStep_refused (code := 2)]
    refine streamRefusal_operand (hform.stream 15) (hform.guard 15) ?_
    rw [hform.uses]
    obtain h | h | h := hbig
    · exact ⟨a, by simp, h⟩
    · exact ⟨b, by simp, h⟩
    · exact ⟨d, by simp, h⟩
  · rw [hx, onBoth_stream hu, streamStep_refused (code := 1)]
    exact streamRefusal_guard (hform.stream p) fun h => hp ((hform.guard p).symm.trans h)

/-- An instruction of one scalar, or none, and an immediate. -/
theorem immediate_runs {i : Instr} {body : Ctx → LaneM After} {d : Nat} {g : Cluster → DWord} {r : DWord} {l : List Nat}
    (hs : (shapeOf i).stream = true ∧ (shapeOf i).guard.sel = 15 ∧ (shapeOf i).uses.map (·.2.2) = l) (hl : ∀ f ∈ l, f < 16)
    (hx : exec i s = onBoth (shapeOf i) body (fun k => k.result d (g k)) s) (hr : g (s.cluster cl) = r) :
    exec i s = .next (s.modCluster cl fun k => { k with s := mset k.s d r, nz := r != 0, pc := pc + 4 }) :=
  scalar_runs hu (streamRefusal_none hs.1 hs.2.1 (hs.2.2 ▸ hl)) hx hr

/-! ## Transfers -/

theorem transfer_stream (i : Instr) (body : Ctx → LaneM Unit) (target : DWord → Cluster → DWord) (link : Option Nat) (ends : Bool) :
    transfer i body target link ends s = .next (streamJump (shapeOf i) s cl pc (target pc) link ends) := by
  rw [transfer, hu]

end

section
variable {s : State} {cl : Nat} {pc : DWord} {sh : Shape} {target : Cluster → DWord} {link : Option Nat} {ends : Bool}
  (h : sh.streamRefusal false = none)
include h

/-- A transfer whose sense is 1 where NZ is 0 goes on at the next instruction (R293). -/
theorem streamJump_passes (hn : sh.guard.sense = 1) (hz : (s.cluster cl).nz = false) :
    streamJump sh s cl pc target link ends = s.modCluster cl fun k => { k with pc := pc + 4 } := by
  rw [streamJump, h]
  exact if_neg (by simp [hn, hz])

section
variable (ht : sh.guard.sense = 0 ∨ (s.cluster cl).nz = true)
include ht

theorem streamJump_ends (hy : target (s.cluster cl) = 0) : streamJump sh s cl pc target link true = s.streamEnd cl := by
  rw [streamJump, h]
  exact (if_pos (by simpa using ht)).trans (if_pos (by simpa using hy))

theorem streamJump_goes (hy : ends = true → target (s.cluster cl) ≠ 0) :
    streamJump sh s cl pc target none ends = s.modCluster cl fun k => { k with pc := target (s.cluster cl) } := by
  rw [streamJump, h]
  exact (if_pos (by simpa using ht)).trans (if_neg (by simpa using hy))

theorem streamJump_links (r : Nat) :
    streamJump sh s cl pc target (some r) false =
      s.modCluster cl fun k => { k with s := mset k.s r (pc + 4), pc := target (s.cluster cl) } := by
  rw [streamJump, h]
  exact (if_pos (by simpa using ht)).trans (if_neg (by simp))

end
end

/-! ## System registers -/

/-- The system registers of a sequencer (R294). -/
def streamRegister (s : State) (k : Cluster) (q : BitVec 7) : DWord :=
  if q = 0x00 then feature else if q = 0x04 then k.fpstat.setWidth 64 else if q = 0x06 then k.gen else if q = 0x07 then BitVec.ofNat 64 s.clock
  else if q = 0x09 then k.mgov.setWidth 64 else k.mgovstat.setWidth 64

theorem streamMfs_iff {q : BitVec 7} : streamMfs q.toNat = true ↔ q ∈ [0x00#7, 0x04#7, 0x06#7, 0x07#7, 0x09#7, 0x0A#7] := by
  revert q
  decide

section
variable {q : BitVec 7} {d : BitVec 6} {n : BitVec 1} {s : State} {cl w : Nat} {pc : DWord} (hu : s.unit = .stream cl pc w)
include hu

theorem exec_mfs_stream (hq : q ∈ [0x00#7, 0x04#7, 0x06#7, 0x07#7, 0x09#7, 0x0A#7]) (hd : d.toNat < 16) : exec (.mfs q d n 15) s =
    .next (s.modCluster cl fun k => { k with s := mset k.s d.toNat (streamRegister s k q), pc := pc + 4 }) := by
  change execMfs q d n 15 s = _
  have hrefusal : ({ shapeOf (.mfs q d n 15) with bad := none } : Shape).streamRefusal false = none :=
    streamRefusal_none rfl rfl fun f hf => (List.mem_singleton.1 hf).trans_lt hd
  rw [execMfs, hu]
  dsimp only
  rw [if_neg (by simp [streamMfs_iff.2 hq]), streamStep_runs hrefusal]
  simp only [List.mem_cons, List.not_mem_nil, or_false] at hq
  obtain rfl | rfl | rfl | rfl | rfl | rfl := hq <;> rfl

theorem exec_mfs_stream_refused (hq : q ∉ [0x00#7, 0x04#7, 0x06#7, 0x07#7, 0x09#7, 0x0A#7]) :
    exec (.mfs q d n 15) s = .next (s.terminate (s.streamLaunch cl) 0x101) := by
  change execMfs q d n 15 s = _
  rw [execMfs, hu]
  exact if_pos (by simpa using mt streamMfs_iff.1 hq)

theorem exec_mts_stream (hq : q = 4 ∨ q = 6) (hd : d.toNat < 16) : exec (.mts q d n 15) s = .next (s.modCluster cl fun k =>
    { (if q = 4 then { k with fpstat := (mget 0 k.s d.toNat).lo &&& 0x3F } else { k with gen := mget 0 k.s d.toNat }) with pc := pc + 4 }) := by
  change execMts q d n 15 s = _
  have hrefusal : ({ shapeOf (.mts q d n 15) with bad := none } : Shape).streamRefusal false = none :=
    streamRefusal_none rfl rfl fun f hf => (List.mem_singleton.1 hf).trans_lt hd
  rw [execMts, hu]
  dsimp only
  rw [if_neg (by tauto), streamStep_runs hrefusal]
  rfl

theorem exec_mts_stream_refused (h4 : q ≠ 4) (h6 : q ≠ 6) : exec (.mts q d n 15) s = .next (s.terminate (s.streamLaunch cl) 0x101) := by
  change execMts q d n 15 s = _
  rw [execMts, hu]
  exact if_pos ⟨h4, h6⟩

end

/-! ## The statement -/

section
variable {s : State} {cl w : Nat} {pc : DWord} (hu : s.unit = .stream cl pc w) {v : BitVec 1} {a b d : BitVec 6} {mk : BitVec 4 → Instr}
  {fw : Word → Word → Word} {fd : DWord → DWord → DWord} {r : DWord}
include hu

theorem alu2_stream (hr : fd (mget 0 (s.cluster cl).s a.toNat) (mget 0 (s.cluster cl).s b.toNat) = r)
    (hx : ∀ p, exec (mk p) s = alu2 (mk p) v b a d fw fd s)
    (hform : RegisterForm mk d.toNat a.toNat b.toNat := by exact ⟨fun _ => rfl, fun _ => rfl, fun _ => rfl⟩) :
    (a.toNat < 16 → b.toNat < 16 → d.toNat < 16 →
      exec (mk 15) s = .next (s.modCluster cl fun k => { k with s := mset k.s d.toNat r, nz := r != 0, pc := pc + 4 })) ∧
    (16 ≤ a.toNat ∨ 16 ≤ b.toNat ∨ 16 ≤ d.toNat → exec (mk 15) s = .next (s.terminate (s.streamLaunch cl) 0x102)) ∧
    ∀ p, p ≠ 15 → exec (mk p) s = .next (s.terminate (s.streamLaunch cl) 0x101) :=
  register_form hu hform hx hr

theorem alu2w_stream (hr : fd (mget 0 (s.cluster cl).s a.toNat) (mget 0 (s.cluster cl).s b.toNat) = r)
    (hx : ∀ p, exec (mk p) s = alu2w (mk p) b a d fw fd s)
    (hform : RegisterForm mk d.toNat a.toNat b.toNat := by exact ⟨fun _ => rfl, fun _ => rfl, fun _ => rfl⟩) :
    (a.toNat < 16 → b.toNat < 16 → d.toNat < 16 →
      exec (mk 15) s = .next (s.modCluster cl fun k => { k with s := mset k.s d.toNat r, nz := r != 0, pc := pc + 4 })) ∧
    (16 ≤ a.toNat ∨ 16 ≤ b.toNat ∨ 16 ≤ d.toNat → exec (mk 15) s = .next (s.terminate (s.streamLaunch cl) 0x102)) ∧
    ∀ p, p ≠ 15 → exec (mk p) s = .next (s.terminate (s.streamLaunch cl) 0x101) :=
  register_form hu hform hx hr

theorem aluImm_stream {i : Instr} {fw : Word → Word} {fd : DWord → DWord} (ha : a.toNat < 16) (hd : d.toNat < 16)
    (hr : fd (mget 0 (s.cluster cl).s a.toNat) = r) (hx : exec i s = aluImm i a d fw fd s)
    (hs : (shapeOf i).stream = true ∧ (shapeOf i).guard.sel = 15 ∧ (shapeOf i).uses.map (·.2.2) = [d.toNat, a.toNat] :=
      by exact ⟨rfl, rfl, rfl⟩) :
    exec i s = .next (s.modCluster cl fun k => { k with s := mset k.s d.toNat r, nz := r != 0, pc := pc + 4 }) :=
  immediate_runs hu hs (by simp [ha, hd]) hx hr

end

/-- Settles O43: each form of instruction by what the stream may execute of it. -/
theorem streamScalars : Obligations.StreamScalars := by
  unfold Obligations.StreamScalars
  refine ⟨?_, ?_, ?_, ?_, ?_, ?_, ?_⟩
  · intro e he v b a d n s cl pc w r hu hr
    subst hr
    simp only [List.mem_cons, List.not_mem_nil, or_false] at he
    obtain rfl | rfl | rfl | rfl | rfl | rfl | rfl | rfl | rfl | rfl | rfl | rfl | rfl | rfl | rfl := he
    · exact alu2_stream hu rfl (mk := .add v b a d n) fun p => (rfl : _ = execAdd v b a d n p s)
    · exact alu2_stream hu rfl (mk := .sub v b a d n) fun p => (rfl : _ = execSub v b a d n p s)
    · exact alu2_stream hu rfl (mk := .mul v b a d n) fun p => (rfl : _ = execMul v b a d n p s)
    · exact alu2_stream hu rfl (mk := .and v b a d n) fun p => (rfl : _ = execAnd v b a d n p s)
    · exact alu2_stream hu rfl (mk := .or v b a d n) fun p => (rfl : _ = execOr v b a d n p s)
    · exact alu2_stream hu rfl (mk := .xor v b a d n) fun p => (rfl : _ = execXor v b a d n p s)
    · exact alu2_stream hu rfl (mk := .andn v b a d n) fun p => (rfl : _ = execAndn v b a d n p s)
    · exact alu2_stream hu rfl (mk := .shl v b a d n) fun p => (rfl : _ = execShl v b a d n p s)
    · exact alu2_stream hu rfl (mk := .shr v b a d n) fun p => (rfl : _ = execShr v b a d n p s)
    · exact alu2_stream hu (sshiftRight_eq_ofInt ..) (mk := .sra v b a d n) fun p => (rfl : _ = execSra v b a d n p s)
    · exact alu2w_stream hu (mulHighD_eq ..) (mk := .mulh v b a d n) fun p => (rfl : _ = execMulh v b a d n p s)
    · exact alu2w_stream hu (quotient_eq_div ..) (mk := .div v b a d n) fun p => (rfl : _ = execDiv v b a d n p s)
    · exact alu2w_stream hu (remainder_eq_mod ..) (mk := .rem v b a d n) fun p => (rfl : _ = execRem v b a d n p s)
    · exact alu2w_stream hu (minimum_eq_min ..) (mk := .min v b a d n) fun p => (rfl : _ = execMin v b a d n p s)
    · exact alu2w_stream hu (maximum_eq_max ..) (mk := .max v b a d n) fun p => (rfl : _ = execMax v b a d n p s)
  · intro e he i a d n s cl pc w r hu ha hd hr
    subst hr
    simp only [List.mem_cons, List.not_mem_nil, or_false] at he
    obtain rfl | rfl | rfl | rfl | rfl | rfl | rfl := he
    · exact aluImm_stream hu ha hd rfl (rfl : _ = execAddi i a d n 15 s)
    · exact aluImm_stream hu ha hd rfl (rfl : _ = execAndi i a d n 15 s)
    · exact aluImm_stream hu ha hd rfl (rfl : _ = execOri i a d n 15 s)
    · exact aluImm_stream hu ha hd rfl (rfl : _ = execXori i a d n 15 s)
    · exact aluImm_stream hu ha hd rfl (rfl : _ = execShli i a d n 15 s)
    · exact aluImm_stream hu ha hd rfl (rfl : _ = execShri i a d n 15 s)
    · exact aluImm_stream hu ha hd (sshiftRight_eq_ofInt ..) (rfl : _ = execSrai i a d n 15 s)
  · intro e he i d n s cl pc w r hu hd hr
    subst hr
    simp only [List.mem_cons, List.not_mem_nil, or_false] at he
    obtain rfl | rfl := he
    · exact immediate_runs hu (l := [d.toNat]) ⟨rfl, rfl, rfl⟩ (by simp [hd]) (rfl : _ = execMovi i d n 15 s) rfl
    · exact immediate_runs hu (l := [d.toNat, d.toNat]) ⟨rfl, rfl, rfl⟩ (by simp [hd]) (rfl : _ = execMovh i d n 15 s) (moveHigh_eq _ i)
  · intro d n s cl pc w hu
    have hbr : exec (.br d n 15) s = .next (streamJump (shapeOf (.br d n 15)) s cl pc (fun _ => branchTarget pc d) none false) :=
      (rfl : _ = execBr d n 15 s).trans (transfer_stream hu _ _ _ _ _)
    have hcall : exec (.call d n 15) s = .next (streamJump (shapeOf (.call d n 15)) s cl pc (fun _ => branchTarget pc d) (some 15) false) :=
      (rfl : _ = execCall d n 15 s).trans (transfer_stream hu _ _ _ _ _)
    have hrefusal : (shapeOf (.br d n 15)).streamRefusal false = none := rfl
    have hrefusal' : (shapeOf (.call d n 15)).streamRefusal false = none := rfl
    rw [hbr, hcall, ← branchTarget_eq]
    constructor
    · intro ht
      rw [streamJump_goes hrefusal ht (by simp), streamJump_links hrefusal' ht]
      exact ⟨rfl, rfl⟩
    · rintro hn hz
      rw [streamJump_passes hrefusal hn hz, streamJump_passes hrefusal' hn hz]
      exact ⟨rfl, rfl⟩
  · intro i a d n s cl pc w y hu ha hd hy
    subst hy
    have hjmp : exec (.jmp i a n 15) s = .next (streamJump (shapeOf (.jmp i a n 15)) s cl pc (fun k => k.sreg a.toNat) none true) :=
      (rfl : _ = execJmp i a n 15 s).trans (transfer_stream hu _ _ _ _ _)
    have hret : exec (.ret i a n 15) s = .next (streamJump (shapeOf (.jmp i a n 15)) s cl pc (fun k => k.sreg a.toNat) none true) :=
      (rfl : _ = execRet i a n 15 s).trans (transfer_stream hu _ _ _ _ _)
    have hcallr : exec (.callr i a d n 15) s =
        .next (streamJump (shapeOf (.callr i a d n 15)) s cl pc (fun k => k.sreg a.toNat) (some d.toNat) false) :=
      (rfl : _ = execCallr i a d n 15 s).trans (transfer_stream hu _ _ _ _ _)
    have hrefusal : (shapeOf (.jmp i a n 15)).streamRefusal false = none :=
      streamRefusal_none rfl rfl fun f hf => (List.mem_singleton.1 hf).trans_lt ha
    have hrefusal' : (shapeOf (.callr i a d n 15)).streamRefusal false = none :=
      streamRefusal_none rfl rfl fun f hf => by
        obtain rfl | rfl := List.mem_pair.1 hf
        · exact hd
        · exact ha
    rw [hjmp, hret, hcallr]
    constructor
    · intro ht
      refine ⟨fun hy => ?_, fun hy => ?_, ?_⟩
      · rw [streamJump_goes hrefusal ht fun _ => hy]
        exact ⟨rfl, rfl⟩
      · rw [streamJump_ends hrefusal ht hy]
        exact ⟨rfl, rfl⟩
      · rw [streamJump_links hrefusal' ht]
        rfl
    · intro hn hz
      rw [streamJump_passes hrefusal hn hz, streamJump_passes hrefusal' hn hz]
      exact ⟨rfl, rfl, rfl⟩
  · intro q d n s cl pc w hu
    refine ⟨fun hq hd => ⟨streamRegister s (s.cluster cl) q, ?_, ?_, ?_, ?_, ?_⟩, exec_mfs_stream_refused hu, ?_, ?_, exec_mts_stream_refused hu⟩
    · rw [exec_mfs_stream hu hq hd]
      exact congrArg Host.Outcome.next (modCluster_congr rfl)
    · rintro rfl
      rfl
    · rintro rfl
      rfl
    · rintro rfl
      rfl
    · rintro rfl
      rfl
    · rintro hd rfl
      exact exec_mts_stream hu (.inl rfl) hd
    · rintro hd rfl
      exact exec_mts_stream hu (.inr rfl) hd
  · intro v b a d n p i s cl pc w hu
    exact ⟨(rfl : _ = execFadd v b a d n p s).trans (onThreads_stream hu _ _), (rfl : _ = execPopc i a d n p s).trans (onThreads_stream hu _ _),
      (rfl : _ = execExit n p s).trans (converge_stream hu _ _), (rfl : _ = execTret n p s).trans (onThreads_stream hu _ _)⟩

end Sys2Proof.Proofs.LaneControl
end

section
/-! PROOFS. What reading operands depends on: the lane's registers, queue, array and index registers, and its crew's k registers (R190, R212). -/

namespace Sys2Proof.Proofs.LaneControl

open Sys2Proof Sys2Proof.Machine Sys2Proof.Laws Sys2Proof.Proofs.ThreadState Sys2Proof.Proofs.EncodingAssembly

/-- The operands of a lane read the same in two states. -/
structure SameOperands (c : Ctx) (s t : State) : Prop where
  v : (t.thread c.crew c.lane).v = (s.thread c.crew c.lane).v
  q : (t.thread c.crew c.lane).q = (s.thread c.crew c.lane).q
  arr : (t.thread c.crew c.lane).arr = (s.thread c.crew c.lane).arr
  x : (t.thread c.crew c.lane).x = (s.thread c.crew c.lane).x
  hold : (t.thread c.crew c.lane).hold = (s.thread c.crew c.lane).hold
  k : (t.crew c.crew).k = (s.crew c.crew).k

/-- Two runs of a lane computation that succeed with one value, and leave operands that read the same, or stop alike. -/
inductive SameRun {α : Type} (c : Ctx) : Except Stop (α × State) → Except Stop (α × State) → Prop
  | ok (y : α) {s t : State} (h : SameOperands c s t) : SameRun c (.ok (y, s)) (.ok (y, t))
  | error (e : Stop) : SameRun c (.error e) (.error e)

section
variable {c : Ctx} {s t : State}

theorem SameRun.bind {α β : Type} {m m' : LaneM α} {f g : α → LaneM β} (hm : SameRun c (m s) (m' t))
    (hf : ∀ y s t, SameOperands c s t → SameRun c (f y s) (g y t)) : SameRun c ((m >>= f) s) ((m' >>= g) t) := by
  rw [bind_run, bind_run]
  generalize m s = r, m' t = r' at hm
  cases hm with
  | ok y h => exact hf y _ _ h
  | error e => exact .error e

theorem SameRun.ite {α : Type} {m n m' n' : LaneM α} (p : Prop) [Decidable p] (hm : SameRun c (m s) (m' t)) (hn : SameRun c (n s) (n' t)) :
    SameRun c ((if p then m else n) s) ((if p then m' else n') t) := by
  by_cases h : p
  · simpa only [if_pos h] using hm
  · simpa only [if_neg h] using hn

variable (h : SameOperands c s t)
include h

theorem SameOperands.pure {α : Type} (y : α) : SameRun c ((pure y : LaneM α) s) ((pure y : LaneM α) t) := .ok y h

theorem SameOperands.reg (r : Nat) : (t.thread c.crew c.lane).reg r = (s.thread c.crew c.lane).reg r := by rw [Thread.reg, Thread.reg, h.v]

theorem SameOperands.xreg (i : Nat) : (t.thread c.crew c.lane).xreg i = (s.thread c.crew c.lane).xreg i := by rw [Thread.xreg, Thread.xreg, h.x]

theorem sameOperands_step (i : Nat) (w : IndexReg) :
    SameOperands c (s.modThread c.crew c.lane fun u => { u with x := mset u.x i w })
      (t.modThread c.crew c.lane fun u => { u with x := mset u.x i w }) where
  v := by simpa only [State.modThread_thread] using h.v
  q := by simpa only [State.modThread_thread] using h.q
  arr := by simpa only [State.modThread_thread] using h.arr
  x := by simp only [State.modThread_thread, h.x]
  hold := by simpa only [State.modThread_thread] using h.hold
  k := h.k

/-- A use of [xi] fails alike, or steps to the same place. -/
theorem arrayUse_same (i words : Nat) : SameRun c (arrayUse c i words s) (arrayUse c i words t) := by
  simp only [arrayUse, bind_run, me_run, h.xreg i]
  exact .ite _ (.error _) (.ite _ (.error _) (.ite _ (.error _) (.ok _ (sameOperands_step h i _))))

theorem awaitHold_same {u u' : Thread} (hu : u'.hold = u.hold) (r : Nat) : SameRun c (awaitHold c u r s) (awaitHold c u' r t) := by
  rw [awaitHold, awaitHold, Thread.held, Thread.held, hu]
  exact .ite _ (.error _) (h.pure ())

/-- A source reads the same. -/
theorem src_same (f : Nat) : SameRun c (src c f s) (src c f t) := by
  simp only [src, bind_run, me_run, Thread.qval, Thread.word, h.q, h.arr, h.reg]
  refine .ite _ ?_ (.ite _ (h.pure _) (.ite _ ?_ ?_))
  · exact SameRun.bind (awaitHold_same h h.hold f) fun _ _ _ g => g.pure _
  · exact SameRun.bind (arrayUse_same h _ _) fun _ _ _ g => g.pure _
  · simp only [bind_run, myCrew_run, h.k]
    exact h.pure _

/-- A destination is prepared alike. -/
theorem dst_same (f words : Nat) : SameRun c (dst c f words s) (dst c f words t) := by
  rw [dst]
  refine .ite _ ?_ (.ite _ (h.pure _) ?_)
  · simp only [bind_run (me c), me_run]
    refine SameRun.bind (awaitHold_same h h.hold f) fun _ _ _ g => .ite _ ?_ (g.pure _)
    exact SameRun.bind (awaitHold_same g h.hold (f + 1)) fun _ _ _ g => g.pure _
  · exact SameRun.bind (arrayUse_same h _ _) fun _ _ _ g => g.pure _

end

end Sys2Proof.Proofs.LaneControl
end

section
/-! PROOFS. Exchanges in one lane: what a lane supplies to the others, and what it is given (R212 to R215, R220). -/

namespace Sys2Proof.Proofs.LaneControl

open Sys2Proof Sys2Proof.Machine Sys2Proof.Laws Sys2Proof.Proofs.ThreadState Sys2Proof.Proofs.EncodingAssembly
open Sys2Proof.Proofs.MemorySpaces

/-! ## The sources of an exchange -/

theorem begun_sameOperands (s : State) (x : Issue) (k l : Nat) : SameOperands (s.ctxOf x k l) (s.begun x k l) s := by
  have hthread : (s.begun x k l).thread (s.ctxOf x k l).crew (s.ctxOf x k l).lane = _ := begun_thread s x k l
  constructor
  case k => rfl
  all_goals
    rw [hthread]
    rfl

theorem readOthers_same {c : Ctx} (others : List Nat) {s t : State} (h : SameOperands c s t) :
    SameRun c ((others.forM fun g => do let _ ← src c g; pure () : LaneM Unit) s)
      ((others.forM fun g => do let _ ← src c g; pure () : LaneM Unit) t) := by
  induction others generalizing s t with
  | nil => exact h.pure ()
  | cons g r ih =>
    exact SameRun.bind (SameRun.bind (src_same h g) fun _ _ _ h => h.pure ()) fun _ _ _ h => ih h

theorem readAll_same {c : Ctx} {s t : State} (h : SameOperands c s t) (f : Nat) (others : List Nat) :
    SameRun c (readAll c f others s) (readAll c f others t) := by
  rw [readAll]
  exact SameRun.bind (src_same h f) fun _ _ _ h => SameRun.bind (readOthers_same others h) fun _ _ _ h => h.pure _

/-- A computation that succeeds in one of two states succeeds with its value in the other. -/
theorem SameRun.eq_ok {α : Type} {c : Ctx} {y : α} {s1 : State} {r r' : Except Stop (α × State)} (h : SameRun c r r') (hr : r = .ok (y, s1)) :
    ∃ t1, r' = .ok (y, t1) ∧ SameOperands c s1 t1 := by
  subst hr
  cases h with | ok _ h => exact ⟨_, rfl, h⟩

/-! ## An exchange in every lane -/

/-- An exchange in which no lane waits gives each lane the value of its `value`. -/
theorem exchange_runs {i : Instr} {f d : Nat} {others : List Nat} {mates : Nat → List Nat} {value : (Nat → Word) → Ctx → Word → LaneM Word}
    {x : Issue} {s : State} (hx : s.unit = .lanes x) :
    ∃ body, exchange i f others d mates value s = .next (runLanes (shapeOf i) (quietly body) s x) ∧
      ∀ c own r pl u s1 s2 s3, (∀ m ∈ mates c.lane, laneWaits (shapeOf i) x s c.crew f others d m = false) → src c f u = .ok (own, s1) →
        value (supply (shapeOf i) x s c.crew f others) c own s1 = .ok (r, s2) → dst c d 1 s2 = .ok (pl, s3) → body c u = put c pl r s3 := by
  refine ⟨_, by rw [exchange, onThreads, hx], fun c own r pl u s1 s2 s3 hwait hown hvalue hd => ?_⟩
  have hnone : ¬ ((mates c.lane).any fun l => laneWaits (shapeOf i) x s c.crew f others d l) = true := by simpa using hwait
  simp only [if_neg hnone, bind_run, hown, hvalue, hd]

section
variable {i : Instr} {x : Issue} {k l : Nat} {s s1 s2 s3 : State} {f d : Nat} {others : List Nat} {y : Word} {pl : Place_}

theorem issue_has (h : Runs i x k l s) {m : Nat} (hm : m < 32) : x.has k m = decide (m = l) := by
  simp [-BitVec.getLsbD_eq_getElem, Issue.has, h.parts, bitOf_getLsbD h.lane hm]

/-- In an issue to one lane, that lane supplies what it reads, and every other its current value. -/
theorem supply_one (h : Runs i x k l s) (hread : readAll (s.ctxOf x k l) f others (s.begun x k l) = .ok (y, s1)) {m : Nat} (hm : m < 32) :
    supply (shapeOf i) x s k f others m = if m = l then y else s.currentValue (s.ctxOf x k m) f := by
  by_cases hl : m = l
  · subst hl
    obtain ⟨t, ht, -⟩ := (readAll_same (begun_sameOperands s x k m) f others).eq_ok hread
    simp only [supply, issue_has h hm, h.guard, ht, decide_true, Bool.and_self, if_true]
  · simp only [supply, issue_has h hm, hl, decide_false, Bool.false_and, Bool.false_eq_true, if_false]

/-- In an issue to one lane that can read its sources and prepare its destination, no lane waits. -/
theorem laneWaits_one (h : Runs i x k l s) (hread : readAll (s.ctxOf x k l) f others (s.begun x k l) = .ok (y, s1))
    (hd : dst (s.ctxOf x k l) d 1 s1 = .ok (pl, s2)) {m : Nat} (hm : m < 32) : laneWaits (shapeOf i) x s k f others d m = false := by
  by_cases hl : m = l
  · subst hl
    obtain ⟨t, ht, hsame⟩ := (readAll_same (begun_sameOperands s x k m) f others).eq_ok hread
    obtain ⟨u, hu, -⟩ := (dst_same hsame d 1).eq_ok hd
    simp only [laneWaits, bind_run, pure_run, ht, hu, ite_self]
  · simp only [laneWaits, issue_has h hm, hl, decide_false, Bool.false_and, Bool.false_eq_true, if_false]

/-- An exchange issued to one lane: `value` gives the result from what the lanes supply. -/
theorem exchange_result {d : BitVec 6} {mates : Nat → List Nat} {value : (Nat → Word) → Ctx → Word → LaneM Word} {r : Word} (h : Runs i x k l s)
    (he : (shapeOf i).entry = false) (hx : exec i s = exchange i f others d.toNat mates value s) (hmates : ∀ m ∈ mates l, m < 32)
    (hown : src (s.ctxOf x k l) f (s.begun x k l) = .ok (y, s1)) (hread : readAll (s.ctxOf x k l) f others (s.begun x k l) = .ok (y, s2))
    (hvalue : ∀ sup, (∀ m < 32, sup m = if m = l then y else s.currentValue (s.ctxOf x k m) f) →
      value sup (s.ctxOf x k l) y s1 = .ok (r, s2)) (hstep : OperandsRead k l s s2) (hd : dst (s.ctxOf x k l) d.toNat 1 s2 = .ok (pl, s3)) :
    ∃ t, exec i s = .next t ∧ t = s3.doneLane (s.ctxOf x k l) (fun u => u.giveW pl r) ∧
      OnlyLane k l s t ∧ OnlyResult pl 1 (s.thread k l) (t.thread k l) := by
  obtain ⟨body, hrun, hbody⟩ := exchange_runs (i := i) (f := f) (d := d.toNat) (others := others) (mates := mates) (value := value) h.unit
  obtain ⟨t, hexec, ht, honly, hresult, -⟩ := gives_word h he (hx.trans hrun) (hstep.step (dst_ok hd).1)
    (hbody _ y r pl _ s1 s2 s3 (fun m hm => laneWaits_one h hread hd (hmates m hm)) hown
      (hvalue _ fun m hm => supply_one h hread hm) hd) rfl
  exact ⟨t, hexec, ht, honly, hresult⟩

theorem readAll_nil {c : Ctx} {u : State} (hy : src c f u = .ok (y, s1)) : readAll c f [] u = .ok (y, s1) := by
  rw [readAll, bind_run, hy]
  rfl

theorem readAll_one {c : Ctx} {u : State} {g : Nat} {z : Word} (hy : src c f u = .ok (y, s1)) (hz : src c g s1 = .ok (z, s2)) :
    readAll c f [g] u = .ok (y, s2) := by
  simp only [readAll, List.forM, bind_run, hy, hz]
  rfl

theorem mem_lanes32 {m : Nat} (h : m ∈ lanes32) : m < 32 := List.mem_range.1 h

theorem mem_quadLanes {m : Nat} (hl : l < 32) (h : m ∈ quadLanes l) : m < 32 := by
  simp only [quadLanes, List.mem_map, List.mem_range] at h
  obtain ⟨j, hj, rfl⟩ := h
  omega

/-- An exchange whose lane reads one source, and whose result is the value of a lane or its own. -/
theorem exchange_pick {a d : BitVec 6} {mates : Nat → List Nat} {value : (Nat → Word) → Ctx → Word → LaneM Word} {r : Word} (h : Runs i x k l s)
    (he : (shapeOf i).entry = false) (hx : exec i s = exchange i a.toNat [] d.toNat mates value s) (hmates : ∀ m ∈ mates l, m < 32)
    (hy : src (s.ctxOf x k l) a.toNat (s.begun x k l) = .ok (y, s1)) (hd : dst (s.ctxOf x k l) d.toNat 1 s1 = .ok (pl, s2))
    (hvalue : ∀ sup, (∀ m < 32, sup m = if m = l then y else s.currentValue (s.ctxOf x k m) a.toNat) →
      value sup (s.ctxOf x k l) y s1 = .ok (r, s1)) :
    ∃ t, exec i s = .next t ∧ t = s2.doneLane (s.ctxOf x k l) (fun u => u.giveW pl r) ∧
      OnlyLane k l s t ∧ OnlyResult pl 1 (s.thread k l) (t.thread k l) :=
  exchange_result h he hx hmates hy (readAll_nil hy) hvalue ((OperandsRead.begun s x k l).step (src_ok hy)) hd

/-- A quad exchange gives the value of the lane that `pick` names. -/
theorem quadExchange_result {a d : BitVec 6} {pick : Nat → Nat} (h : Runs i x k l s)
    (he : (shapeOf i).entry = false) (hx : exec i s = quadExchange i a d pick s) {m : Nat} (hm : m = 4 * (l / 4) + pick (l % 4)) (hlt : m < 32)
    (hy : src (s.ctxOf x k l) a.toNat (s.begun x k l) = .ok (y, s1)) (hd : dst (s.ctxOf x k l) d.toNat 1 s1 = .ok (pl, s2)) :
    ∃ t, exec i s = .next t ∧
      t = s2.doneLane (s.ctxOf x k l) (fun u => u.giveW pl (if m = l then y else s.currentValue (s.ctxOf x k m) a.toNat)) ∧
      OnlyLane k l s t ∧ OnlyResult pl 1 (s.thread k l) (t.thread k l) := by
  refine exchange_pick h he hx (fun _ => mem_quadLanes h.lane) hy hd fun sup hsup => ?_
  rw [pure_run, ctxOf_lane, ← hm, hsup m hlt]

/-- The lane beside, below or across in the quad is another lane of it. -/
theorem quadMate_ne {l e : Nat} (he : e ∈ [1, 2, 3]) : l % 4 ^^^ e ≠ l % 4 ∧ l % 4 ^^^ e < 4 := by
  have h : ∀ j : Fin 4, ∀ e ∈ [1, 2, 3], (j : Nat) ^^^ e ≠ j ∧ (j : Nat) ^^^ e < 4 := by decide
  exact h ⟨l % 4, Nat.mod_lt _ (by decide)⟩ e he

/-- QX gives the value of another lane, so its current value. -/
theorem quadMate_result {a d : BitVec 6} {e m : Nat} (he : e ∈ [1, 2, 3]) (h : Runs i x k l s)
    (hentry : (shapeOf i).entry = false) (hx : exec i s = quadExchange i a d (fun j => j ^^^ e) s) (hm : m = 4 * (l / 4) + (l % 4 ^^^ e))
    (hy : src (s.ctxOf x k l) a.toNat (s.begun x k l) = .ok (y, s1)) (hd : dst (s.ctxOf x k l) d.toNat 1 s1 = .ok (pl, s2)) :
    ∃ t, exec i s = .next t ∧
      t = s2.doneLane (s.ctxOf x k l) (fun u => u.giveW pl (s.currentValue (s.ctxOf x k m) a.toNat)) ∧
      OnlyLane k l s t ∧ OnlyResult pl 1 (s.thread k l) (t.thread k l) := by
  obtain ⟨hne, hlt⟩ := quadMate_ne (l := l) he
  have hl := h.lane
  have hother : m ≠ l := by omega
  have hresult := quadExchange_result h hentry hx hm (by omega) hy hd
  rwa [if_neg hother] at hresult

end

/-! ## Looking up a table -/

/-- Words in a row hold word `q` from bit `32 * q` on. -/
theorem natBits_wordsNat (ws : List Word) (q : Nat) {lo n : Nat} (h : lo + n ≤ 32) :
    natBits (wordsNat ws) (32 * q + lo) n = natBits (ws.getD q 0).toNat lo n := by
  induction ws generalizing q with
  | nil => simp [wordsNat, natBits]
  | cons w r ih =>
    rw [wordsNat]
    cases q with
    | zero => exact (congrArg (natBits _ · n) (by omega)).trans (natBits_of_mod_eq h (Nat.add_mul_mod_self_left ..))
    | succ q =>
      have hdiv : (w.toNat + 2 ^ 32 * wordsNat r) / 2 ^ 32 = wordsNat r := by have := w.isLt; omega
      rw [List.getD_cons_succ, ← ih q, natBits, natBits, Nat.mul_succ, Nat.add_right_comm, Nat.add_comm _ 32, Nat.pow_add,
        ← Nat.div_div_eq_div_mul, hdiv]

/-- Four bytes in a word. -/
theorem natBits_bytes {b : Nat → Nat} (hb : ∀ j, b j < 2 ^ 8) {j : Nat} (hj : j < 4) :
    natBits (BitVec.ofNat 32 (b 0 + 2 ^ 8 * b 1 + 2 ^ 16 * b 2 + 2 ^ 24 * b 3)).toNat (8 * j) 8 = b j := by
  have h0 := hb 0
  have h1 := hb 1
  have h2 := hb 2
  have h3 := hb 3
  rw [BitVec.toNat_ofNat, Nat.mod_eq_of_lt (by omega), natBits]
  match j, hj with
  | 0, _ | 1, _ | 2, _ | 3, _ => omega

/-- Byte `j` of a lookup is the byte of the table that the nibble of byte `j` names. -/
theorem tableLookup_byte (hi : Bool) (ws : List Word) (y : Word) {i j : Nat} (hj : j < 4)
    (h : i = natBits y.toNat (8 * j + if hi then 4 else 0) 4) :
    natBits (tableLookup hi (wordsNat ws) y).toNat (8 * j) 8 = natBits (ws.getD (i / 4) 0).toNat (8 * (i % 4)) 8 := by
  have hbytes := natBits_bytes (fun _ => natBits_lt _ _ 8) hj
    (b := fun j => natBits (wordsNat ws) (8 * natBits y.toNat (8 * j + if hi then 4 else 0) 4) 8)
  have hplace : 8 * i = 32 * (i / 4) + 8 * (i % 4) := by omega
  refine hbytes.trans ?_
  rw [← h, hplace, natBits_wordsNat ws (i / 4) (by omega)]

/-! ## The statements -/

/-- BLUT looks its source up in four k registers. -/
theorem blut_result {v g n : BitVec 1} {a d : BitVec 6} {p : BitVec 4} {x : Issue} {k l : Nat} {s s1 s2 : State} {y : Word} {pl : Place_}
    (h : Runs (.blut v g a d n p) x k l s) (hy : src (s.ctxOf x k l) a.toNat (s.begun x k l) = .ok (y, s1))
    (hd : dst (s.ctxOf x k l) d.toNat 1 s1 = .ok (pl, s2)) :
    ∃ t, exec (.blut v g a d n p) s = .next t ∧
      t = s2.doneLane (s.ctxOf x k l) (fun u => u.giveW pl
        (tableLookup (v == 1) (wordsNat ((List.range 4).map fun i => mget 0 (s.crew k).k (4 * g.toNat + i))) y)) ∧
      OnlyLane k l s t ∧ OnlyResult pl 1 (s.thread k l) (t.thread k l) := by
  have hcrew : s1.crew k = s.crew k := onlyLane_crew ((OperandsRead.begun s x k l).step (src_ok hy)).onlyLane k
  refine exchange_pick h rfl (rfl : _ = execBlut v g a d n p s) (fun _ => mem_lanes32) hy hd fun sup _ => ?_
  rw [bind_run, myCrew_run, ctxOf_crew, hcrew]
  rfl

/-- SHFL gives the value of the lane it names, or the lane's own. -/
theorem shfl_result {m : BitVec 2} {j : BitVec 5} {a d : BitVec 6} {n : BitVec 1} {p : BitVec 4} {x : Issue} {k l : Nat} {s s1 s2 : State}
    {y r : Word} {pl : Place_} (o : Option Nat) (h : Runs (.shfl m j a d n p) x k l s)
    (hy : src (s.ctxOf x k l) a.toNat (s.begun x k l) = .ok (y, s1)) (hd : dst (s.ctxOf x k l) d.toNat 1 s1 = .ok (pl, s2))
    (ho : shuffleLane m j l = o) (hlt : ∀ q, o = some q → q < 32)
    (hr : o.elim y (fun q => if q = l then y else s.currentValue (s.ctxOf x k q) a.toNat) = r) :
    ∃ t, exec (.shfl m j a d n p) s = .next t ∧ t = s2.doneLane (s.ctxOf x k l) (fun u => u.giveW pl r) ∧
      OnlyLane k l s t ∧ OnlyResult pl 1 (s.thread k l) (t.thread k l) := by
  refine exchange_pick h rfl (rfl : _ = execShfl m j a d n p s) (fun _ => mem_lanes32) hy hd fun sup hsup => ?_
  rw [pure_run, ctxOf_lane, ho, ← hr]
  cases o with
  | none => rfl
  | some q => simp only [hsup q (hlt q rfl), Option.elim_some]

/-- Settles O25: an exchange issued to one lane gives it what the lane it names supplies, which is its current value where that is another. -/
theorem exchangeResults : Obligations.ExchangeResults := by
  unfold Obligations.ExchangeResults
  refine ⟨?_, ?_, ?_, ?_, ?_⟩
  · intro e he i a d n p x k l s c s1 s2 y pl m h hc hy hd hm
    subst hc
    simp only [List.mem_cons, List.not_mem_nil, or_false] at he
    obtain rfl | rfl | rfl := he
    · exact quadMate_result (e := 1) (by decide) h rfl (rfl : _ = execQxH i a d n p s) hm hy hd
    · exact quadMate_result (e := 2) (by decide) h rfl (rfl : _ = execQxV i a d n p s) hm hy hd
    · exact quadMate_result (e := 3) (by decide) h rfl (rfl : _ = execQxD i a d n p s) hm hy hd
  · rintro i j a d n p x k l s _ s1 s2 y pl m h rfl hy hd hm
    have hlt : m < 32 := by have := h.lane; have := j.isLt; omega
    exact quadExchange_result h rfl (rfl : _ = execQbc i j a d n p s) hm hlt hy hd
  · rintro b a d n p x k l s _ s1 s2 s3 y z pl m h rfl hy hz hd hm
    refine exchange_result h rfl (rfl : _ = execPerm b a d n p s) (fun _ => mem_lanes32) hy (readAll_one hy hz) (fun sup hsup => ?_)
      (((OperandsRead.begun s x k l).step (src_ok hy)).step (src_ok hz)) hd
    simp only [bind_run, hz, pure_run, ← hm, hsup m (by omega)]
  · intro e he j a d n p x k l s c s1 s2 y pl h hc hy hd
    subst hc
    have hl := h.lane
    have hj := j.isLt
    simp only [List.mem_cons, List.not_mem_nil, or_false] at he
    obtain rfl | rfl | rfl | rfl := he
    · refine shfl_result (if j.toNat ≤ l then some (l - j.toNat) else none) h hy hd rfl (fun q hq => ?_) (by dsimp only; split_ifs <;> rfl)
      split_ifs at hq
      cases hq
      omega
    · refine shfl_result (if l + j.toNat < 32 then some (l + j.toNat) else none) h hy hd rfl (fun q hq => ?_) (by dsimp only; split_ifs <;> rfl)
      split_ifs at hq with hlt
      cases hq
      exact hlt
    · refine shfl_result (some (l ^^^ j.toNat)) h hy hd rfl (fun q hq => ?_) rfl
      cases hq
      exact Nat.xor_lt_two_pow (n := 5) hl hj
    · refine shfl_result (some ((l + 32 - j.toNat) % 32)) h hy hd rfl (fun q hq => ?_) rfl
      cases hq
      exact Nat.mod_lt _ (by decide)
  · rintro v g a d n p x k l s _ s1 s2 y pl h rfl hy hd
    obtain ⟨t, hexec, ht, honly, hresult⟩ := blut_result h hy hd
    refine ⟨t, _, hexec, ht, fun j hj i hi => ?_, honly, hresult⟩
    have hi4 : i / 4 < 4 := by have := natBits_lt y.toNat (8 * j + if v = 1 then 4 else 0) 4; omega
    rw [tableLookup_byte (v == 1) _ y hj (i := i) (by simpa only [beq_iff_eq] using hi),
      List.getD_eq_getElem _ _ (by simpa using hi4), List.getElem_map, List.getElem_range]

end Sys2Proof.Proofs.LaneControl
end

section
/-! PROOFS. An instruction over a whole issue: each lane computes from what the others had, and changes its own thread alone (R189, R253). -/

namespace Sys2Proof.Proofs.LaneControl

open Sys2Proof Sys2Proof.Machine Sys2Proof.Laws Sys2Proof.Proofs.ThreadState Sys2Proof.Proofs.EncodingAssembly

/-! ## A fold over the lanes of one crew -/

/-- Between the lanes of an issue: of the state only threads have changed, and lane `l` is still to come. -/
structure LaneToCome (k l : Nat) (s u : State) : Prop where
  rest : { u with threads := s.threads } = s
  lane : u.thread k l = s.thread k l

/-- The lanes of `m` below `n` have changed their own threads as `P` says, and nothing else has changed. -/
structure LanesDone (k : Nat) (m : Word) (n : Nat) (P : Nat → Thread → Prop) (s t : State) : Prop where
  rest : { t with threads := s.threads } = s
  done : ∀ l < n, m.getLsbD l = true → P l (t.thread k l)
  others : ∀ j, (∀ l < n, m.getLsbD l = true → j ≠ 32 * k + l) → mfind t.threads j = mfind s.threads j

theorem thread_of_mfind {s t : State} {k l : Nat} (h : mfind t.threads (32 * k + l) = mfind s.threads (32 * k + l)) : t.thread k l = s.thread k l := by
  rw [State.thread, State.thread, mget, mget, h]

section
variable {k n : Nat} {m : Word} {P : Nat → Thread → Prop} {s t u : State}

theorem LanesDone.zero : LanesDone k m 0 P s s := ⟨rfl, fun _ h => absurd h (Nat.not_lt_zero _), fun _ _ => rfl⟩

theorem LanesDone.toCome (h : LanesDone k m n P s u) : LaneToCome k n s u :=
  ⟨h.rest, thread_of_mfind (h.others _ fun _ hl _ => by omega)⟩

theorem LanesDone.skip (h : LanesDone k m n P s t) (hn : m.getLsbD n = false) : LanesDone k m (n + 1) P s t where
  rest := h.rest
  done l hl hm := h.done l (Nat.lt_of_le_of_ne (Nat.le_of_lt_succ hl) (by rintro rfl; simp_all)) hm
  others j hj := h.others j fun l hl => hj l (Nat.lt_succ_of_lt hl)

theorem LanesDone.step (h : LanesDone k m n P s u) (hn : m.getLsbD n = true) (ht : OnlyLane k n u t) (hP : P n (t.thread k n)) :
    LanesDone k m (n + 1) P s t where
  rest := by
    obtain ⟨th, rfl⟩ := exists_threads_of_onlyLane ht
    exact h.rest
  done l hl hm := by
    obtain hl | rfl := Nat.lt_succ_iff_lt_or_eq.1 hl
    · rw [thread_of_mfind (ht.others _ (by omega))]
      exact h.done l hl hm
    · exact hP
  others j hj := (ht.others j (hj n (Nat.lt_succ_self n) hn)).trans (h.others j fun l hl => hj l (Nat.lt_succ_of_lt hl))

/-- A fold over the lanes of one crew, each of which changes its own thread. -/
theorem lanesDone_overLanes {x : Issue} {f : State → Nat → Nat → State} (hx : x.parts = [{ crew := k, lanes := m }])
    (hf : ∀ l < 32, m.getLsbD l = true → ∀ u, LaneToCome k l s u → OnlyLane k l u (f u k l) ∧ P l ((f u k l).thread k l)) :
    LanesDone k m 32 P s (overLanes x f s) := by
  have fold : ∀ n ≤ 32, LanesDone k m n P s
      ((List.range n).foldl (fun u l => x.parts.foldl (fun u p => if p.lanes.getLsbD l then f u p.crew l else u) u) s) := by
    intro n
    induction n with
    | zero => exact fun _ => .zero
    | succ n ih =>
      intro hn
      have hu := ih (Nat.le_of_succ_le hn)
      rw [List.range_succ, List.foldl_append, List.foldl_cons, List.foldl_nil]
      generalize (List.range n).foldl _ s = u at hu ⊢
      rw [hx, List.foldl_cons, List.foldl_nil]
      cases hm : m.getLsbD n with
      | false =>
        rw [if_neg (by decide)]
        exact hu.skip hm
      | true =>
        obtain ⟨honly, hP⟩ := hf n hn hm u hu.toCome
        rw [if_pos rfl]
        exact hu.step hm honly hP
  exact fold 32 (Nat.le_refl 32)

end

/-! ## The lanes of an issue that complete -/

section
variable {i : Instr} {x : Issue} {k l : Nat} {m : Word} {s u : State}

theorem LaneToCome.ctxOf (h : LaneToCome k l s u) : u.ctxOf x k l = s.ctxOf x k l := by
  obtain ⟨hrest, hlane⟩ := h
  have hu : u = { s with threads := u.threads } := by rw [← hrest]
  generalize u.threads = th at hu
  subst hu
  rw [State.ctxOf, hlane]
  rfl

theorem LaneToCome.crews (h : LaneToCome k l s u) : u.crews = s.crews := by rw [← h.rest]

theorem LaneToCome.executes (h : LaneToCome k l s u) (sh : Shape) : executes sh u k l = executes sh s k l := by
  rw [Machine.executes, Machine.executes, h.lane, State.crew, State.crew, h.crews]

/-- What a lane leaves that has done what an instruction does in it. -/
def MovedOn (x : Issue) (t v : Thread) : Prop :=
  ∃ st n, v = { t with pc := x.pc + BitVec.ofNat 64 x.len, st := st, reply := none, got := [], safeCount := n }

/-- A lane of an issue whose computation changes its thread. -/
theorem runLane_movedOn {sh : Shape} {body : Ctx → LaneM After} {f : Thread → Thread} (hu : LaneToCome k l s u)
    (hcrew : (mfind s.crews k).isSome = true) (hlegal : sh.refusal (s.ctxOf x k l).n = none) (hexec : executes sh s k l = true)
    (hb : body (s.ctxOf x k l) (u.begun x k l) = .ok (none, (u.begun x k l).modThread k l f))
    (hf : ∀ t pc st n, f { t with pc := pc, st := st, reply := none, got := [], safeCount := n } =
      { f t with pc := pc, st := st, reply := none, got := [], safeCount := n }) :
    OnlyLane k l u (runLane sh body x u k l) ∧ MovedOn x (f (s.thread k l)) ((runLane sh body x u k l).thread k l) := by
  have hrun : runLane sh body x u k l = (u.begun x k l).doneLane (u.ctxOf x k l) f :=
    runLane_ok (by rw [hu.crews]; exact hcrew) (by rw [hu.ctxOf]; exact hlegal) (by rw [hu.executes]; exact hexec) (by rw [hu.ctxOf]; exact hb)
  rw [hrun]
  refine ⟨onlyLane_trans (onlyLane_begun u x k l) (onlyLane_doneLane _ (u.ctxOf x k l) f), ?_⟩
  obtain ⟨st, ht⟩ := thread_doneLane u (u.begun x k l) x k l f
  rw [ht, begun_thread, hu.lane]
  exact ⟨st, _, congrArg (fun t => { t with st := st }) (hf (s.thread k l) _ _ _)⟩

/-- Descheduling the lanes of a quad changes only whether a lane runs. -/
theorem holdPeers_done (hx : x.parts = [{ crew := k, lanes := m }]) (ran : Nat → Nat → Bool) (s : State) :
    LanesDone k m 32 (fun l v => ∃ st, v = { s.thread k l with st := st }) s (s.holdPeers x ran) := by
  refine lanesDone_overLanes hx fun l _ _ u hu => ?_
  split
  · refine ⟨onlyLane_modThread .., .waiting { kind := .peers, key := x.pc.toNat }, ?_⟩
    rw [State.modThread_thread, hu.lane]
  · exact ⟨onlyLane_refl .., (s.thread k l).st, hu.lane⟩

/-- An instruction whose computation succeeds in every lane of its issue: the lanes have moved on, each with what it did. -/
theorem lanesMove_runLanes {body : Ctx → LaneM After} {f : Nat → Thread → Thread} (h : IssuedAll i x k m s) (he : (shapeOf i).entry = false)
    (hexec : ∀ l < 32, m.getLsbD l = true → executes (shapeOf i) s k l = true)
    (hb : ∀ l < 32, m.getLsbD l = true → ∀ u, LaneToCome k l s u →
      body (s.ctxOf x k l) (u.begun x k l) = .ok (none, (u.begun x k l).modThread k l (f l)))
    (hf : ∀ l t pc st n, f l { t with pc := pc, st := st, reply := none, got := [], safeCount := n } =
      { f l t with pc := pc, st := st, reply := none, got := [], safeCount := n }) :
    LanesMove x k m f s (runLanes (shapeOf i) body s x) := by
  rw [runLanes, he, if_neg (by decide), runAll]
  have hran := lanesDone_overLanes (s := s) (f := runLane (shapeOf i) body x) (P := fun l => MovedOn x (f l (s.thread k l))) h.parts
    fun l hl hm u hu => runLane_movedOn hu h.crew h.legal (hexec l hl hm) (hb l hl hm u hu) (hf l)
  generalize overLanes x (runLane (shapeOf i) body x) s = t at hran ⊢
  have hheld := holdPeers_done h.parts (fun crew lane => executes (shapeOf i) s crew lane && !(s.thread crew lane).gone) t
  generalize t.holdPeers x _ = w at hheld ⊢
  refine ⟨?_, fun l hl hm => ?_, fun j hj => (hheld.others j hj).trans (hran.others j hj)⟩
  · have hw : w = { t with threads := w.threads } := by rw [← hheld.rest]
    rw [hw]
    exact hran.rest
  · obtain ⟨st, n, ht⟩ := hran.done l hl hm
    obtain ⟨st', hw⟩ := hheld.done l hl hm
    exact ⟨st', n, by rw [hw, ht]⟩

end

end Sys2Proof.Proofs.LaneControl
end

section
/-! PROOFS. CRED.ADD and QX.h over any lanes of a crew (R212, R213, R217). -/

namespace Sys2Proof.Proofs.LaneControl

open Sys2Proof Sys2Proof.Machine Sys2Proof.Laws Sys2Proof.Proofs.ThreadState Sys2Proof.Proofs.EncodingAssembly

/-! ## A crew reduction -/

/-- The sum of a crew reduction, from a value on. -/
theorem toNat_foldl_add (vals : List (Nat × DWord)) (x : Word) :
    (vals.foldl (fun x e => x + e.2.lo) x).toNat = (x.toNat + (vals.map fun e => e.2.lo.toNat).sum) % 2 ^ 32 := by
  induction vals generalizing x with
  | nil => simp [Nat.mod_eq_of_lt x.isLt]
  | cons e r ih => rw [List.foldl_cons, ih, BitVec.toNat_add, Nat.mod_add_mod, List.map_cons, List.sum_cons, Nat.add_assoc]

/-- CRED.ADD adds the values modulo 2^32. -/
theorem toNat_combine_add (vals : List (Nat × DWord)) : (combine 0 vals).toNat = (vals.map fun e => e.2.lo.toNat).sum % 2 ^ 32 :=
  (toNat_foldl_add vals 0).trans (by rw [show (0 : Word).toNat = 0 from rfl, Nat.zero_add])

/-- A lane of an issue reads its source and prepares its destination. -/
def CanReduce (x : Issue) (s : State) (k : Nat) (wide : BitVec 1) (a d : BitVec 6) (l : Nat) : Prop :=
  ∃ y s1 pl s2, srcV (s.ctxOf x k l) wide a.toNat s = .ok (y, s1) ∧ dstV (s.ctxOf x k l) wide d.toNat s1 = .ok (pl, s2)

/-- A reduction in which no lane waits gives each lane its result and raises its flags. -/
theorem reduce_runs {i : Instr} {wide : BitVec 1} {a d : BitVec 6} {result : List (Nat × DWord) → Nat → DWord × Flags} {x : Issue} {s : State}
    (hx : s.unit = .lanes x) :
    ∃ body, reduce i wide a d result s = .next (runLanes (shapeOf i) body s x) ∧
      ∀ c y pl u s1 s2 r, (∀ l < 32, x.has c.crew l = true → CanReduce x s c.crew wide a d l) → srcV c wide a.toNat u = .ok (y, s1) →
        dstV c wide d.toNat s1 = .ok (pl, s2) → result (activeValues (shapeOf i) x s c.crew fun c => srcV c wide a.toNat) c.lane = r →
        body c u = (putV c wide pl r.1 >>= fun _ => raise c r.2) s2 := by
  refine ⟨_, by rw [reduce, onThreads, hx], fun c y pl u s1 s2 r hcan hy hd hr => ?_⟩
  dsimp only
  rw [bind_run, hy]
  dsimp only
  rw [bind_run, hd]
  dsimp only
  rw [if_neg, hr]
  rw [List.any_eq_true]
  rintro ⟨l, hl, hwait⟩
  rw [Bool.and_eq_true, Bool.and_eq_true, Bool.and_eq_true] at hwait
  obtain ⟨⟨⟨hhas, -⟩, -⟩, hstop⟩ := hwait
  obtain ⟨_, _, _, _, hread, hplace⟩ := hcan l (mem_lanes32 hl) hhas
  simp only [bind_run, hread, hplace, pure_run, Bool.false_eq_true] at hstop

section
variable {i : Instr} {x : Issue} {k l f : Nat} {m : Word} {s u : State}

theorem issuedAll_has (h : IssuedAll i x k m s) (l : Nat) : x.has k l = m.getLsbD l := by
  simp [-BitVec.getLsbD_eq_getElem, Issue.has, h.parts]

/-- The values of a reduction over lanes that all take part. -/
theorem activeValues_eq {read : Ctx → LaneM DWord} {g : Nat → DWord} (h : IssuedAll i x k m s)
    (hrun : ∀ l < 32, m.getLsbD l = true → (s.thread k l).gone = false ∧ executes (shapeOf i) s k l = true)
    (hread : ∀ l < 32, m.getLsbD l = true → ∃ s1, read (s.ctxOf x k l) s = .ok (g l, s1)) :
    activeValues (shapeOf i) x s k read = ((List.range 32).filter fun l => m.getLsbD l).map fun l => (l, g l) := by
  rw [activeValues, ← List.filterMap_eq_map, ← List.filterMap_eq_filter, List.filterMap_filterMap]
  refine List.filterMap_congr fun l hl => ?_
  have hl : l < 32 := mem_lanes32 hl
  rw [issuedAll_has h]
  cases hm : m.getLsbD l with
  | false => simp [-BitVec.getLsbD_eq_getElem, Option.guard, hm]
  | true =>
    obtain ⟨hgone, hexec⟩ := hrun l hl hm
    obtain ⟨s1, hs1⟩ := hread l hl hm
    have hhelper : (s.ctxOf x k l).helper = false := hgone
    simp [-BitVec.getLsbD_eq_getElem, hhelper, hexec, hs1, Option.guard, hm]

/-! ## Named registers that nothing holds -/

theorem held_of_hold_zero {t : Thread} (h : t.hold = 0) (r : Nat) : t.held r = false := by
  rw [Thread.held, h]
  exact BitVec.getLsbD_zero

theorem named_now (hf : f < 32) (hhold : (s.thread k l).hold = 0) :
    src (s.ctxOf x k l) f s = .ok ((s.thread k l).reg f, s) ∧ dst (s.ctxOf x k l) f 1 s = .ok (.named f, s) :=
  named_free (c := s.ctxOf x k l) hf (.inl (held_of_hold_zero hhold f))

/-- A lane whose turn has come reads its register and prepares its destination. -/
theorem named_begun (hu : LaneToCome k l s u) (hf : f < 32) (hhold : (s.thread k l).hold = 0) :
    src (s.ctxOf x k l) f (u.begun x k l) = .ok ((s.thread k l).reg f, u.begun x k l) ∧
      dst (s.ctxOf x k l) f 1 (u.begun x k l) = .ok (.named f, u.begun x k l) := by
  have ht : (u.begun x k l).thread k l = ((s.thread k l).advance (u.ctxOf x k l).next).countStep := by rw [begun_thread, hu.lane]
  have hheld : ((u.begun x k l).thread k l).held f = false := by
    rw [ht]
    exact held_of_hold_zero hhold f
  have hreg : ((u.begun x k l).thread k l).reg f = (s.thread k l).reg f := by
    rw [ht]
    rfl
  rw [← hreg]
  exact named_free (c := s.ctxOf x k l) hf (.inl hheld)

/-- What a whole issue leaves that gives each lane a word in a named register. -/
theorem lanesMove_gives {F : Nat → Thread → Thread} {r : Nat → Word} {d : Nat} {t : State} (h : LanesMove x k m F s t)
    (hv : ∀ l u, (F l u).v = mset u.v d (r l)) (hq : ∀ l u, (F l u).q = (r l :: u.q).take 16) :
    (∀ b, memGet t.mem b = memGet s.mem b) ∧
      (∀ l < 32, m.getLsbD l = true → (t.thread k l).reg d = r l ∧ (t.thread k l).q = ((t.thread k l).reg d :: (s.thread k l).q).take 16) ∧
      (∀ l < 32, m.getLsbD l = false → (t.thread k l).v = (s.thread k l).v ∧ (t.thread k l).q = (s.thread k l).q) := by
  refine ⟨fun b => ?_, fun l hl hm => ?_, fun l hl hm => ?_⟩
  · rw [← h.rest]
  · obtain ⟨st, n, ht⟩ := h.issued l hl hm
    have hreg : (t.thread k l).reg d = r l := by rw [ht, Thread.reg, hv, mget_mset_same]
    exact ⟨hreg, by rw [hreg, ht, hq]⟩
  · have ht : t.thread k l = s.thread k l := thread_of_mfind (h.others _ fun j hj hjm => by rintro e; simp_all)
    exact ⟨by rw [ht], by rw [ht]⟩

/-- A named source and destination that the launch has are legal. -/
theorem refusal_named {a d n : Nat} {g : Guard} {p : Push} (ha : a < n) (hd : d < n) (hd32 : d < 32) :
    ({ guard := g, push := p, uses := [(1, .dstW, d), (2, .srcW, a)] } : Shape).refusal n = none := by
  simp [Shape.refusal, Need.ok, ha, hd, hd32]

/-! ## CRED.ADD and QX.h over an issue -/

/-- An instruction over lanes that all take part and hold nothing, with a named source and destination. -/
structure NamedIssue (i : Instr) (x : Issue) (k : Nat) (m : Word) (a d : BitVec 6) (s : State) : Prop extends IssuedAll i x k m s where
  source : a.toNat < 32
  place : d.toNat < 32
  free : ∀ l < 32, m.getLsbD l = true → (s.thread k l).hold = 0
  runs : ∀ l < 32, m.getLsbD l = true → (s.thread k l).gone = false ∧ executes (shapeOf i) s k l = true

theorem srcV_word {c : Ctx} {f : Nat} {y : Word} {s s1 : State} (h : src c f s = .ok (y, s1)) : srcV c 0 f s = .ok (y.setWidth 64, s1) := by
  simp only [srcV, ite_true, bind_run, h, pure_run]

theorem dstV_word {c : Ctx} {f : Nat} {pl : Place_} {s s1 : State} (h : dst c f 1 s = .ok (pl, s1)) : dstV c 0 f s = .ok (pl, s1) := by
  rw [dstV, if_pos rfl, h]

section
variable {a d : BitVec 6}

/-- CRED.ADD gives each lane the sum. -/
theorem cred_lanes {j p : BitVec 4} {n : BitVec 1} {y : Word} (h : NamedIssue (.cred j 0 a d n p) x k m a d s)
    (hy : y = combine 0 (((List.range 32).filter fun l => m.getLsbD l).map fun l => (l, ((s.thread k l).reg a.toNat).setWidth 64))) :
    ∃ t, exec (.cred j 0 a d n p) s = .next t ∧
      LanesMove x k m (fun _ u => { u.giveW (.named d.toNat) y with fpstat := u.fpstat ||| (0 : Flags).setWidth 32 }) s t := by
  obtain ⟨body, hrun, hbody⟩ := reduce_runs (i := .cred j 0 a d n p) (wide := 0) (a := a) (d := d) (x := x)
    (result := fun vals _ => plain (combine 0 vals)) h.unit
  have hread : ∀ l < 32, m.getLsbD l = true →
      srcV (s.ctxOf x k l) 0 a.toNat s = .ok (((s.thread k l).reg a.toNat).setWidth 64, s) := fun l hl hm =>
    srcV_word (named_now h.source (h.free l hl hm)).1
  have hvals := activeValues_eq (read := fun c => srcV c 0 a.toNat) h.toIssuedAll h.runs fun l hl hm => ⟨s, hread l hl hm⟩
  have hcan : ∀ l < 32, x.has k l = true → CanReduce x s k 0 a d l := fun l hl hhas => by
    have hm := (issuedAll_has h.toIssuedAll l).symm.trans hhas
    exact ⟨_, s, _, s, hread l hl hm, dstV_word (named_now h.place (h.free l hl hm)).2⟩
  refine ⟨_, (rfl : _ = execCred j 0 a d n p s).trans hrun, lanesMove_runLanes h.toIssuedAll rfl (fun l hl hm => (h.runs l hl hm).2)
    (fun l hl hm u hu => ?_) fun _ _ _ _ _ => rfl⟩
  rw [hbody (s.ctxOf x k l) _ _ _ _ _ _ hcan (srcV_word (named_begun hu h.source (h.free l hl hm)).1)
    (dstV_word (named_begun hu h.place (h.free l hl hm)).2) rfl, ctxOf_crew, hvals, ← hy, plain, putV, if_pos rfl, lo_setWidth, raise_put, if_pos]
  · rfl
  · exact BitVec.zero_and

/-- Whether it is issued or not, a lane supplies its named register. -/
theorem supply_named {i : Instr} (h : NamedIssue i x k m a d s) {l : Nat} (hl : l < 32) :
    supply (shapeOf i) x s k a.toNat [] l = (s.thread k l).reg a.toNat := by
  have hcurrent : s.currentValue (s.ctxOf x k l) a.toNat = (s.thread k l).reg a.toNat := by
    rw [State.currentValue]
    exact if_pos h.source
  rw [supply, issuedAll_has h.toIssuedAll]
  cases hm : m.getLsbD l with
  | false => exact hcurrent
  | true => simp only [(h.runs l hl hm).2, Bool.and_self, if_true, readAll_nil (named_now h.source (h.free l hl hm)).1]

theorem laneWaits_named {i : Instr} (h : NamedIssue i x k m a d s) {l : Nat} (hl : l < 32) :
    laneWaits (shapeOf i) x s k a.toNat [] d.toNat l = false := by
  rw [laneWaits, issuedAll_has h.toIssuedAll]
  cases hm : m.getLsbD l with
  | false => simp only [Bool.false_and, Bool.false_eq_true, if_false]
  | true =>
    have hhold := h.free l hl hm
    simp only [bind_run, pure_run, readAll_nil (named_now h.source hhold).1, (named_now h.place hhold).2, ite_self]

/-- QX.h gives each lane the register of the lane beside it. -/
theorem qxH_lanes {j p : BitVec 4} {n : BitVec 1} (h : NamedIssue (.qxH j a d n p) x k m a d s) :
    ∃ t, exec (.qxH j a d n p) s = .next t ∧
      LanesMove x k m (fun l u => u.giveW (.named d.toNat) ((s.thread k (4 * (l / 4) + (l % 4 ^^^ 1))).reg a.toNat)) s t := by
  obtain ⟨body, hrun, hbody⟩ := exchange_runs (i := .qxH j a d n p) (f := a.toNat) (d := d.toNat) (others := []) (mates := quadLanes)
    (value := fun sup c _ => pure (sup (4 * (c.lane / 4) + (c.lane % 4 ^^^ 1)))) h.unit
  refine ⟨_, (rfl : _ = execQxH j a d n p s).trans hrun, lanesMove_runLanes h.toIssuedAll rfl (fun l hl hm => (h.runs l hl hm).2)
    (fun l hl hm u hu => ?_) fun _ _ _ _ _ => rfl⟩
  have hmate : 4 * (l / 4) + (l % 4 ^^^ 1) < 32 := by
    have := (quadMate_ne (l := l) (e := 1) (by decide)).2
    omega
  refine quietly_ok ?_
  rw [hbody (s.ctxOf x k l) _ _ _ _ _ _ _ (fun q hq => laneWaits_named h (mem_quadLanes hl hq))
    (named_begun hu h.source (h.free l hl hm)).1 rfl (named_begun hu h.place (h.free l hl hm)).2]
  simp only [ctxOf_crew, ctxOf_lane, supply_named h hmate]
  rfl

end

/-- A guard passes where its selector is 15, or the bit it selects has its sense. -/
theorem guard_passes {w : Crew} {p : BitVec 4} {n : BitVec 1} (h : p = 15 ∨ (mget 0 w.p p.toNat).getLsbD l = (n == 0)) :
    Guard.passes ⟨p, n⟩ w l = true := by
  rw [Guard.passes]
  split
  · rfl
  · next hp =>
    have hsense : ∀ n : BitVec 1, ((n == 0) != (n == 1)) = true := by decide
    rw [h.resolve_left hp, hsense]

end

/-- Settles O27: each lane of the issue computes from what the lanes had before the instruction, and changes its own thread alone. -/
theorem wholeCrewSum : Obligations.WholeCrewSum := by
  unfold Obligations.WholeCrewSum
  intro s x k m i a d n p hunit hparts hcrew ha hd hna hnd _ hlanes
  have hruns : ∀ l < 32, m.getLsbD l = true →
      (s.thread k l).gone = false ∧ executes (shapeOf (.cred i 0 a d n p)) s k l = true := fun l hl hm => by
    obtain ⟨hgone, -, hguard⟩ := hlanes l hl hm
    refine ⟨hgone, ?_⟩
    rw [executes, hgone, Bool.false_or]
    exact guard_passes hguard
  have hfree : ∀ l < 32, m.getLsbD l = true → (s.thread k l).hold = 0 := fun l hl hm => (hlanes l hl hm).2.1
  have hlegal : (shapeOf (.cred i 0 a d n p)).refusal (s.ctxOf x k 0).n = none := refusal_named hna hnd hd
  constructor
  · obtain ⟨t, hexec, hmove⟩ := cred_lanes (j := i) (n := n) (p := p) ⟨⟨hunit, hparts, hcrew, hlegal⟩, ha, hd, hfree, hruns⟩ rfl
    obtain ⟨hmem, hissued, hothers⟩ := lanesMove_gives (d := d.toNat) (r := fun _ => _) hmove (fun _ _ => rfl) fun _ _ => rfl
    refine ⟨t, hexec, hmem, fun l hl hm => ⟨?_, (hissued l hl hm).2⟩, hothers⟩
    rw [(hissued l hl hm).1, toNat_combine_add, List.map_map]
    simp only [Function.comp_def, lo_setWidth]
  · obtain ⟨t, hexec, hmove⟩ := qxH_lanes (j := i) (n := n) (p := p) (a := a) (d := d) ⟨⟨hunit, hparts, hcrew, hlegal⟩, ha, hd, hfree, hruns⟩
    exact ⟨t, hexec, lanesMove_gives (r := fun l => (s.thread k (4 * (l / 4) + (l % 4 ^^^ 1))).reg a.toNat) hmove (fun _ _ => rfl) fun _ _ => rfl⟩

end Sys2Proof.Proofs.LaneControl
end

section
/-! PROOFS. A crew reduction over no value (R217, R218). -/

namespace Sys2Proof.Proofs.LaneControl

open Sys2Proof Sys2Proof.Machine

/-- The sum of no value is zero, which E8M0 has no code for: rounding it to that format raises NX and SAT (R151). -/
theorem combineF_e8m0_nil : combineF .e8m0 0 [] = (0, flagNX ||| flagSAT) := by decide

/-- Refutes O26: the statement says of every format that a float sum over no value raises no flag, and in E8M0 it raises NX and SAT
(`combineF_e8m0_nil`). -/
theorem not_crewReductionResults : ¬ Obligations.CrewReductionResults := by
  unfold Obligations.CrewReductionResults
  intro ⟨_, _, _, _, _, _, _, _, hempty, _⟩
  have hflags : (combineF .e8m0 0 []).2 = 0 := (hempty .e8m0).1
  rw [combineF_e8m0_nil] at hflags
  exact absurd hflags (by decide)

end Sys2Proof.Proofs.LaneControl
end

section
/-! PROOFS. A float instruction in one lane: it reads its operands, draws where it rounds, gives its result and raises its flags (R224 to R226,
R408). -/

namespace Sys2Proof.Proofs.FloatNarrow

open Sys2Proof Sys2Proof.Machine Sys2Proof.Laws Sys2Proof.Proofs.ThreadState Sys2Proof.Proofs.EncodingAssembly

/-! ## What a result does to a thread -/

/-- A change of a thread gives a result of `n` words at `p`: beside that it changes nothing that a frame speaks of, and no flag. -/
structure Gives (p : Place_) (n : Nat) (f : Thread → Thread) : Prop where
  result : ∀ t, OnlyResult p n t (f t)
  fpstat : ∀ t, (f t).fpstat = t.fpstat

theorem gives_giveW (p : Place_) (r : Word) : Gives p 1 fun t => t.giveW p r :=
  ⟨fun t => onlyResult_giveW t p r (t.giveW p r).st, fun t => fpstat_giveW t p r⟩

theorem gives_giveD (p : Place_) (r : DWord) : Gives p 2 fun t => t.giveD p r :=
  ⟨fun t => onlyResult_giveD t p r (t.giveD p r).st, fun t => by cases p <;> rfl⟩

theorem gives_giveV (v : BitVec 1) (p : Place_) (r : DWord) : Gives p (if v = 0 then 1 else 2) fun t => t.giveV v p r := by
  unfold Thread.giveV
  split
  · exact gives_giveW p r.lo
  · exact gives_giveD p r

/-- A push alone writes no word of any place. -/
theorem gives_push (p : Place_) (r : Word) : Gives p 0 fun t => t.push r :=
  ⟨fun _ => ⟨fun _ _ => rfl, fun _ _ => rfl, rfl, rfl, rfl, ⟨rfl, rfl, rfl⟩, ⟨rfl, rfl, rfl, rfl⟩⟩, fun _ => rfl⟩

/-- The generator is no part of a frame: a result may be given to a thread that has drawn. -/
theorem Gives.of_seed {p : Place_} {n : Nat} {f : Thread → Thread} (h : Gives p n f) (seed : Thread → DWord) :
    Gives p n fun t => f { t with seed := seed t } where
  result t :=
    have g := h.result { t with seed := seed t }
    ⟨g.named, g.array, g.holds, g.caps, g.fpctl, g.trap, g.times⟩
  fpstat _ := h.fpstat _

theorem Gives.trapen {p : Place_} {n : Nat} {f : Thread → Thread} (h : Gives p n f) (t : Thread) : (f t).trapen = t.trapen := by
  rw [Thread.trapen, (h.result t).fpctl, Thread.trapen]

/-! ## Draws -/

/-- A thread that has rounded under a mode: under mode 4 its generator has stepped. -/
def drawnUnder (mode : Nat) (t : Thread) : Thread := { t with seed := if mode = 4 then stepSeed t.seed else t.seed }

theorem drawnUnder_rm (t : Thread) : drawnUnder t.rm t = t.drawn := by
  unfold drawnUnder Thread.drawn
  split <;> rfl

theorem drawn_eq (t : Thread) : t.drawn = { t with seed := if t.rm = 4 then stepSeed t.seed else t.seed } := (drawnUnder_rm t).symm

theorem seed_drawn_of_rm {t : Thread} (h : t.rm = 4) : t.drawn.seed = stepSeed t.seed := by rw [drawn_eq, if_pos h]

theorem Gives.drawnUnder {p : Place_} {n : Nat} {f : Thread → Thread} (h : Gives p n f) (mode : Nat) :
    Gives p n fun t => f (drawnUnder mode t) :=
  h.of_seed fun t => if mode = 4 then stepSeed t.seed else t.seed

theorem Gives.drawn {p : Place_} {n : Nat} {f : Thread → Thread} (h : Gives p n f) : Gives p n fun t => f t.drawn := by
  simp only [drawn_eq]
  exact h.of_seed fun t => if t.rm = 4 then stepSeed t.seed else t.seed

/-- The state after a lane's draw under a mode. -/
def afterDraw (c : Ctx) (mode : Nat) (s : State) : State :=
  if mode = 4 then s.modThread c.crew c.lane fun t => { t with seed := stepSeed t.seed } else s

/-- What the draw under a mode gives a thread (R158). -/
def drawOf (mode : Nat) (t : Thread) : Nat := if mode = 4 then seedDraw (stepSeed t.seed) else 0

theorem draw_run (c : Ctx) (mode : Nat) (s : State) : draw c mode s = .ok (drawOf mode (s.thread c.crew c.lane), afterDraw c mode s) := by
  unfold draw drawOf afterDraw
  split
  · simp only [bind_run, modMe_run, me_run, pure_run, State.modThread_thread]
  · rfl

theorem afterDraw_thread (c : Ctx) (mode : Nat) (s : State) :
    (afterDraw c mode s).thread c.crew c.lane = drawnUnder mode (s.thread c.crew c.lane) := by
  unfold afterDraw drawnUnder
  split
  · exact State.modThread_thread ..
  · rfl

/-- A thread changed after a draw is changed once, from what it has drawn. -/
theorem modThread_afterDraw (c : Ctx) (mode : Nat) (s : State) (f : Thread → Thread) :
    (afterDraw c mode s).modThread c.crew c.lane f = s.modThread c.crew c.lane fun t => f (drawnUnder mode t) := by
  unfold afterDraw drawnUnder
  split
  · exact modThread_modThread ..
  · rfl

/-- The state after a lane has rounded once under its own mode. -/
def rounds (c : Ctx) (s : State) : State := afterDraw c (s.thread c.crew c.lane).rm s

theorem rounds_thread (c : Ctx) (s : State) : (rounds c s).thread c.crew c.lane = (s.thread c.crew c.lane).drawn :=
  (afterDraw_thread ..).trans (drawnUnder_rm _)

theorem modThread_congr {k l : Nat} {s : State} {f g : Thread → Thread} (h : f (s.thread k l) = g (s.thread k l)) :
    s.modThread k l f = s.modThread k l g := by rw [State.modThread, h, State.modThread]

theorem modThread_rounds (c : Ctx) (s : State) (f : Thread → Thread) :
    (rounds c s).modThread c.crew c.lane f = s.modThread c.crew c.lane fun t => f t.drawn :=
  (modThread_afterDraw ..).trans (modThread_congr (congrArg f (drawnUnder_rm _)))

theorem roundMine_run (c : Ctx) (f : Fmt) (z : Val × Flags) (s : State) :
    roundMine c f z s = .ok ((((s.thread c.crew c.lane).rounded f z).1, ((s.thread c.crew c.lane).rounded f z).2), rounds c s) := by
  have hdraw : drawOf (s.thread c.crew c.lane).rm (s.thread c.crew c.lane) =
      if (s.thread c.crew c.lane).rm = 4 then seedDraw (s.thread c.crew c.lane).drawn.seed else 0 := by
    unfold drawOf
    split
    · next h => rw [seed_drawn_of_rm h]
    · rfl
  simp only [roundMine, bind_run, me_run, draw_run, pure_run, hdraw]
  rfl

/-! ## Results and flags -/

theorem put_run (c : Ctx) (p : Place_) (r : Word) (s : State) :
    put c p r s = .ok ((), s.modThread c.crew c.lane fun t => t.giveW p r) := rfl

theorem putD_run (c : Ctx) (p : Place_) (r : DWord) (s : State) :
    putD c p r s = .ok ((), s.modThread c.crew c.lane fun t => t.giveD p r) := rfl

theorem putV_run (c : Ctx) (v : BitVec 1) (p : Place_) (r : DWord) (s : State) :
    putV c v p r s = .ok ((), s.modThread c.crew c.lane fun t => t.giveV v p r) := by
  unfold putV Thread.giveV
  split <;> rfl

theorem raise_run (c : Ctx) (g : Flags) (s : State) : raise c g s =
    .ok (if g &&& (s.thread c.crew c.lane).trapen = 0 then none else some (0x0F, (g &&& (s.thread c.crew c.lane).trapen).toNat),
      s.modThread c.crew c.lane fun t => { t with fpstat := t.fpstat ||| g.setWidth 32 }) := rfl

/-- A change of a thread, and flags that join FPSTAT. -/
def withFlags (f : Thread → Thread) (g : Flags) (t : Thread) : Thread := { f t with fpstat := t.fpstat ||| g.setWidth 32 }

/-- A result that is given before the flags are raised is one change of the thread with them. -/
theorem doneFloat_modThread {p : Place_} {n : Nat} {f : Thread → Thread} (h : Gives p n f) (c : Ctx) (g : Flags) (s : State) :
    (s.modThread c.crew c.lane f).doneFloat c (fun t => t) g = s.doneFloat c f g := by
  simp only [State.doneFloat, State.modThread_thread, modThread_modThread, h.trapen, h.fpstat]

section
variable {i : Instr} {x : Issue} {k l : Nat} {s s1 : State} {p : Place_} {n : Nat} {f : Thread → Thread} {g : Flags}

/-- An instruction whose computation ends by raising flags. -/
theorem exec_raises {body : Ctx → LaneM After} (h : Runs i x k l s) (he : (shapeOf i).entry = false)
    (hx : exec i s = onThreads (shapeOf i) body s) (hb : body (s.ctxOf x k l) (s.begun x k l) = raise (s.ctxOf x k l) g s1) :
    exec i s = .next (s1.doneFloat (s.ctxOf x k l) (fun t => t) g) := by
  rw [raise_run] at hb
  rw [hx, onThreads_lanes h, runLanes_one h.parts h.lane he, State.doneFloat]
  split at hb
  · next hg => rw [runLane_ok h.crew h.legal h.guard hb, if_pos (.inl hg)]
  · next hg =>
    rw [runLane_after h.crew h.legal h.guard hb]
    simp only [hg, false_or]

/-- Where no enabled flag is raised, the lane has its result and its flags and has done nothing else. -/
theorem onlyFloat_doneFloat (hread : OperandsRead k l s s1) (hf : Gives p n f) (hg : g &&& (s1.thread k l).trapen = 0) :
    OnlyFloat p n k l g s (s1.doneFloat (s.ctxOf x k l) f g) := by
  have hdone : s1.doneFloat (s.ctxOf x k l) f g = s1.doneLane (s.ctxOf x k l) (withFlags f g) := by
    rw [State.doneFloat, if_pos (.inl hg)]
    rfl
  obtain ⟨st, e⟩ := doneLane_thread s1 (s.ctxOf x k l) (withFlags f g)
  have hthread : (s1.doneFloat (s.ctxOf x k l) f g).thread k l = { withFlags f g (s1.thread k l) with st := st } := by
    rw [hdone]
    exact e
  have hgiven := hf.result (s1.thread k l)
  refine ⟨?_, ?_, ?_⟩
  · rw [hdone]
    exact onlyLane_trans hread.onlyLane (onlyLane_doneLane s1 (s.ctxOf x k l) _)
  · rw [hthread]
    exact onlyResult_of_kept hread.kept
      ⟨hgiven.named, hgiven.array, hgiven.holds, hgiven.caps, hgiven.fpctl, hgiven.trap, hgiven.times⟩
  · rw [hthread, ← hread.kept.flags.1]
    rfl

/-- What the statements say of a float instruction that has read its operands in `s1`: it answers the state in which `f` gives its result and
the flags `g` are raised, with nothing else changed where none of them is enabled. -/
def FloatOutcome (i : Instr) (x : Issue) (k l : Nat) (s s1 : State) (p : Place_) (n : Nat) (f : Thread → Thread) (g : Flags) : Prop :=
  ∃ t, exec i s = .next t ∧ t = s1.doneFloat (s.ctxOf x k l) f g ∧ (g &&& (s1.thread k l).trapen = 0 → OnlyFloat p n k l g s t)

/-- An instruction whose computation ends by giving a result and raising flags. -/
theorem float_outcome {body : Ctx → LaneM After} (h : Runs i x k l s) (he : (shapeOf i).entry = false)
    (hx : exec i s = onThreads (shapeOf i) body s) (hread : OperandsRead k l s s1) (hf : Gives p n f)
    (hb : body (s.ctxOf x k l) (s.begun x k l) = raise (s.ctxOf x k l) g (s1.modThread (s.ctxOf x k l).crew (s.ctxOf x k l).lane f)) :
    FloatOutcome i x k l s s1 p n f g :=
  ⟨_, (exec_raises h he hx hb).trans (congrArg _ (doneFloat_modThread hf _ g s1)), rfl, onlyFloat_doneFloat hread hf⟩

end

end Sys2Proof.Proofs.FloatNarrow
end

section
/-! PROOFS. Float arithmetic and packed halves in one lane (R229 to R231, R239). -/

namespace Sys2Proof.Proofs.FloatNarrow

open Sys2Proof Sys2Proof.Machine Sys2Proof.Laws Sys2Proof.Proofs.ThreadState Sys2Proof.Proofs.EncodingAssembly

/-! ## Arithmetic -/

section
variable {i : Instr} {x : Issue} {k l : Nat} {s s1 s2 s3 s4 : State} {v : BitVec 1} {b a d : BitVec 6} {y z w : DWord} {pl : Place_}
  (h : Runs i x k l s) (he : (shapeOf i).entry = false)
  (hy : srcV (s.ctxOf x k l) v a.toNat (s.begun x k l) = .ok (y, s1)) (hz : srcV (s.ctxOf x k l) v b.toNat s1 = .ok (z, s2))
include h he hy hz

theorem fp2_outcome {f : Bool → Val → Val → Val × Flags} {o : Nat × Flags} (hx : exec i s = fp2 i v b a d f s)
    (hd : dstV (s.ctxOf x k l) v d.toNat s2 = .ok (pl, s3))
    (ho : o = (s3.thread k l).rounded (fmtV v) (f ((s3.thread k l).rm == 3) (decodeIn (s3.thread k l).daz (fmtV v) y.toNat)
      (decodeIn (s3.thread k l).daz (fmtV v) z.toNat))) :
    FloatOutcome i x k l s s3 pl (if v = 0 then 1 else 2) (fun t => t.drawn.giveV v pl (BitVec.ofNat 64 o.1)) o.2 := by
  refine float_outcome h he hx ((((OperandsRead.begun s x k l).step (srcV_ok hy)).step (srcV_ok hz)).step (dstV_ok hd).1)
    (gives_giveV v pl _).drawn ?_
  rw [ho]
  simp only [bind_run, hy, hz, hd, me_run, roundMine_run, putV_run, modThread_rounds]
  rfl

theorem fpPick_outcome {f : Val → Val → Val × Flags} {o : Val × Flags} (hx : exec i s = fpPick i v b a d f s)
    (hd : dstV (s.ctxOf x k l) v d.toNat s2 = .ok (pl, s3))
    (ho : o = f (decodeIn (s3.thread k l).daz (fmtV v) y.toNat) (decodeIn (s3.thread k l).daz (fmtV v) z.toNat)) :
    FloatOutcome i x k l s s3 pl (if v = 0 then 1 else 2) (fun t => t.giveV v pl (BitVec.ofNat 64 (exactBits (fmtV v) o.1))) o.2 := by
  refine float_outcome h he hx ((((OperandsRead.begun s x k l).step (srcV_ok hy)).step (srcV_ok hz)).step (dstV_ok hd).1)
    (gives_giveV v pl _) ?_
  rw [ho]
  simp only [bind_run, hy, hz, hd, me_run, putV_run]
  rfl

theorem fpMac_outcome {minus : Bool} {o : Nat × Flags} (hx : exec i s = fpMac i v b a d minus s)
    (hw : srcV (s.ctxOf x k l) v d.toNat s2 = .ok (w, s3)) (hd : dstV (s.ctxOf x k l) v d.toNat s3 = .ok (pl, s4))
    (ho : o = (s4.thread k l).rounded (fmtV v) (Val.fma ((s4.thread k l).rm == 3) (decodeIn (s4.thread k l).daz (fmtV v) w.toNat)
      (if minus then (decodeIn (s4.thread k l).daz (fmtV v) y.toNat).negate else decodeIn (s4.thread k l).daz (fmtV v) y.toNat)
      (decodeIn (s4.thread k l).daz (fmtV v) z.toNat))) :
    FloatOutcome i x k l s s4 pl (if v = 0 then 1 else 2) (fun t => t.drawn.giveV v pl (BitVec.ofNat 64 o.1)) o.2 := by
  refine float_outcome h he hx (((((OperandsRead.begun s x k l).step (srcV_ok hy)).step (srcV_ok hz)).step (srcV_ok hw)).step
    (dstV_ok hd).1) (gives_giveV v pl _).drawn ?_
  rw [ho]
  simp only [bind_run, hy, hz, hw, hd, me_run, roundMine_run, putV_run, modThread_rounds]
  rfl

end

/-- Settles O8: each instruction reads its operands, prepares its destination, and gives the exact result rounded once, or an operand. -/
theorem floatArithmeticResults : Obligations.FloatArithmeticResults := by
  unfold Obligations.FloatArithmeticResults
  refine ⟨?_, ?_, ?_⟩
  · rintro e he v b a d n p x k l s _ s1 s2 s3 y z pl _ o h rfl hy hz hd rfl ho
    simp only [List.mem_cons, List.not_mem_nil, or_false] at he
    obtain rfl | rfl | rfl | rfl := he
    · exact fp2_outcome h rfl hy hz (rfl : _ = execFadd v b a d n p s) hd ho
    · exact fp2_outcome h rfl hy hz (rfl : _ = execFsub v b a d n p s) hd ho
    · exact fp2_outcome h rfl hy hz (rfl : _ = execFmul v b a d n p s) hd ho
    · exact fp2_outcome h rfl hy hz (rfl : _ = execFdiv v b a d n p s) hd ho
  · rintro e he v b a d n p x k l s _ s1 s2 s3 y z pl _ o h rfl hy hz hd rfl ho
    simp only [List.mem_cons, List.not_mem_nil, or_false] at he
    obtain rfl | rfl := he
    · exact fpPick_outcome h rfl hy hz (rfl : _ = execFmin v b a d n p s) hd ho
    · exact fpPick_outcome h rfl hy hz (rfl : _ = execFmax v b a d n p s) hd ho
  · rintro e he v b a d n p x k l s _ s1 s2 s3 s4 y z w pl _ o h rfl hy hz hw hd rfl ho
    simp only [List.mem_cons, List.not_mem_nil, or_false] at he
    obtain rfl | rfl := he
    · exact fpMac_outcome h rfl hy hz (rfl : _ = execFmac v b a d n p s) hw hd ho
    · exact fpMac_outcome h rfl hy hz (rfl : _ = execFnmac v b a d n p s) hw hd ho

/-! ## Packed halves -/

theorem gives_packed (pl : Place_) (r : Word) : Gives pl 1 fun t => t.drawn.drawn.giveW pl r := (gives_giveW pl r).drawn.drawn

theorem packed_outcome {i : Instr} {x : Issue} {k l : Nat} {s s1 s2 s3 s4 : State} {v : BitVec 1} {b a d : BitVec 6} {y z w : Word}
    {pl : Place_} {acc : Bool} {f : Bool → Val → Val → Val → Val × Flags} {dec : Word → Nat → Val} {lo hi : Nat × Flags}
    (h : Runs i x k l s) (he : (shapeOf i).entry = false) (hx : exec i s = packed i v b a d acc f s)
    (hy : src (s.ctxOf x k l) a.toNat (s.begun x k l) = .ok (y, s1)) (hz : src (s.ctxOf x k l) b.toNat s1 = .ok (z, s2))
    (hw : if acc then src (s.ctxOf x k l) d.toNat s2 = .ok (w, s3) else w = 0 ∧ s3 = s2)
    (hd : dst (s.ctxOf x k l) d.toNat 1 s3 = .ok (pl, s4))
    (hdec : dec = fun q j => decodeIn (s4.thread k l).daz (fmtH v) (natBits q.toNat (16 * j) 16))
    (hlo : lo = (s4.thread k l).rounded (fmtH v) (f ((s4.thread k l).rm == 3) (dec w 0) (dec y 0) (dec z 0)))
    (hhi : hi = (s4.thread k l).drawn.rounded (fmtH v) (f ((s4.thread k l).rm == 3) (dec w 1) (dec y 1) (dec z 1))) :
    FloatOutcome i x k l s s4 pl 1 (fun t => t.drawn.drawn.giveW pl (BitVec.ofNat 32 (lo.1 + 65536 * hi.1))) (lo.2 ||| hi.2) := by
  have hacc : Stepped (s.ctxOf x k l) s2 s3 ∧ ∀ rest : Word → LaneM After,
      (if acc then src (s.ctxOf x k l) d.toNat >>= rest else pure 0 >>= rest) s2 = rest w s3 := by
    cases acc with
    | true =>
      refine ⟨src_ok hw, fun rest => ?_⟩
      simp only [if_true, bind_run, show src (s.ctxOf x k l) d.toNat s2 = .ok (w, s3) from hw]
    | false =>
      obtain ⟨rfl, rfl⟩ := hw
      exact ⟨.inl rfl, fun rest => rfl⟩
  refine float_outcome h he hx (((((OperandsRead.begun s x k l).step (src_ok hy)).step (src_ok hz)).step hacc.1).step (dst_ok hd).1)
    (gives_packed pl _) ?_
  rw [hlo, hhi, hdec]
  simp only [bind_run, hy, hz, hacc.2, hd, me_run, roundMine_run, rounds_thread, put_run, modThread_rounds]
  rfl

/-- Settles O9: both halves are decoded, rounded the low one first, and given in one word. -/
theorem packedFloatResults : Obligations.PackedFloatResults := by
  unfold Obligations.PackedFloatResults
  refine ⟨?_, ?_, ?_⟩
  · rintro e he v b a d n p x k l s _ s1 s2 s3 s4 y z w pl _ dec lo hi h rfl hy hz hw hd rfl hdec hlo hhi
    simp only [List.mem_cons, List.not_mem_nil, or_false] at he
    obtain rfl | rfl | rfl | rfl := he
    · exact packed_outcome h rfl (rfl : _ = execHadd v b a d n p s) hy hz hw hd hdec hlo hhi
    · exact packed_outcome h rfl (rfl : _ = execHsub v b a d n p s) hy hz hw hd hdec hlo hhi
    · exact packed_outcome h rfl (rfl : _ = execHmul v b a d n p s) hy hz hw hd hdec hlo hhi
    · exact packed_outcome h rfl (rfl : _ = execHmac v b a d n p s) hy hz hw hd hdec hlo hhi
  · rintro v b a d n p x k l s _ s1 s2 s3 y z pl _ lo hi h rfl hy hz hd rfl hlo hhi
    refine float_outcome h rfl (rfl : _ = execPack v b a d n p s)
      ((((OperandsRead.begun s x k l).step (src_ok hy)).step (src_ok hz)).step (dst_ok hd).1) (gives_packed pl _) ?_
    rw [hlo, hhi]
    simp only [bind_run, hy, hz, hd, me_run, roundMine_run, rounds_thread, put_run, modThread_rounds]
    rfl
  · rintro i e a d n p x k l s _ s1 s2 y pl _ f z h rfl hy hd rfl hf hz
    refine float_outcome h rfl (rfl : _ = execUnpk i e a d n p s)
      (((OperandsRead.begun s x k l).step (src_ok hy)).step (dst_ok hd).1) (gives_giveW pl _) ?_
    rw [hz, hf]
    simp only [bind_run, hy, hd, me_run, pure_run, put_run]
    rfl

end Sys2Proof.Proofs.FloatNarrow
end

section
/-! PROOFS. Compares, signs, classes, roots, special functions, scaling and conversions in one lane (R232 to R238). -/

namespace Sys2Proof.Proofs.FloatNarrow

open Sys2Proof Sys2Proof.Machine Sys2Proof.Laws Sys2Proof.Proofs.ThreadState Sys2Proof.Proofs.EncodingAssembly Sys2Proof.Proofs.LaneControl

/-- An instruction that raises no flag never traps for one. -/
theorem FloatOutcome.quiet {i : Instr} {x : Issue} {k l : Nat} {s s1 : State} {p : Place_} {n : Nat} {f : Thread → Thread}
    (h : FloatOutcome i x k l s s1 p n f 0) :
    ∃ t, exec i s = .next t ∧ t = s1.doneFloat (s.ctxOf x k l) f 0 ∧ OnlyFloat p n k l 0 s t := by
  obtain ⟨t, hexec, ht, hframe⟩ := h
  exact ⟨t, hexec, ht, hframe BitVec.zero_and⟩

/-! ## Instructions of one operand -/

section
variable {i : Instr} {x : Issue} {k l : Nat} {s s1 s2 : State} {a d : BitVec 6} {pl : Place_} {g : Flags}
  (h : Runs i x k l s) (he : (shapeOf i).entry = false)
include h he

/-- An operation of a 32-bit operand that draws nothing. -/
theorem fp1_outcome {f : Ctx → Word → LaneM (Nat × Flags)} {y r : Word} {bits : Nat} (hx : exec i s = fp1 i a d f s)
    (hy : src (s.ctxOf x k l) a.toNat (s.begun x k l) = .ok (y, s1)) (hd : dst (s.ctxOf x k l) d.toNat 1 s1 = .ok (pl, s2))
    (hf : f (s.ctxOf x k l) y s2 = .ok ((bits, g), s2)) (hr : BitVec.ofNat 32 bits = r) :
    FloatOutcome i x k l s s2 pl 1 (fun t => t.giveW pl r) g := by
  refine float_outcome h he hx (((OperandsRead.begun s x k l).step (src_ok hy)).step (dst_ok hd).1) (gives_giveW pl r) ?_
  simp only [bind_run, hy, hd, hf, put_run, hr]

/-- An operation of a 64-bit operand that draws nothing. -/
theorem fp1D_outcome {f : Ctx → DWord → LaneM (Nat × Flags)} {y r : DWord} {bits : Nat} (hx : exec i s = fp1D i a d f s)
    (hy : srcD (s.ctxOf x k l) a.toNat (s.begun x k l) = .ok (y, s1)) (hd : dst (s.ctxOf x k l) d.toNat 2 s1 = .ok (pl, s2))
    (hf : f (s.ctxOf x k l) y s2 = .ok ((bits, g), s2)) (hr : BitVec.ofNat 64 bits = r) :
    FloatOutcome i x k l s s2 pl 2 (fun t => t.giveD pl r) g := by
  refine float_outcome h he hx (((OperandsRead.begun s x k l).step (srcD_ok hy)).step (dst_ok hd).1) (gives_giveD pl r) ?_
  simp only [bind_run, hy, hd, hf, putD_run, hr]

/-- A special function of the unit. -/
theorem special_outcome {op : Nat} {y : Word} {o : Nat × Flags} (hx : exec i s = special i op a d s)
    (hy : src (s.ctxOf x k l) a.toNat (s.begun x k l) = .ok (y, s1)) (hd : dst (s.ctxOf x k l) d.toNat 1 s1 = .ok (pl, s2))
    (ho : o = flush (s2.thread k l).ftz fmtFP32 (sfu op y (decodeIn (s2.thread k l).daz fmtFP32 y.toNat))) :
    FloatOutcome i x k l s s2 pl 1 (fun t => t.giveW pl (BitVec.ofNat 32 o.1)) o.2 :=
  fp1_outcome h he hx hy hd (by rw [ho]; rfl) rfl

end

/-- Settles O11: each function gives the unit's value of its operand, and the root is rounded under the thread's mode. -/
theorem specialFunctionResults : Obligations.SpecialFunctionResults := by
  unfold Obligations.SpecialFunctionResults
  constructor
  · rintro e he i a d n p x k l s _ s1 s2 y pl _ o h rfl hy hd rfl ho
    simp only [List.mem_cons, List.not_mem_nil, or_false] at he
    obtain rfl | rfl | rfl | rfl | rfl | rfl | rfl := he
    · exact special_outcome h rfl (rfl : _ = execFrcp i a d n p s) hy hd ho
    · exact special_outcome h rfl (rfl : _ = execFrsq i a d n p s) hy hd ho
    · exact special_outcome h rfl (rfl : _ = execFexp2 i a d n p s) hy hd ho
    · exact special_outcome h rfl (rfl : _ = execFlog2 i a d n p s) hy hd ho
    · exact special_outcome h rfl (rfl : _ = execFsin i a d n p s) hy hd ho
    · exact special_outcome h rfl (rfl : _ = execFcos i a d n p s) hy hd ho
    · exact special_outcome h rfl (rfl : _ = execFtanh i a d n p s) hy hd ho
  · rintro i a d n p x k l s _ s1 s2 y pl _ o h rfl hy hd rfl ho
    refine float_outcome h rfl (rfl : _ = execFsqrtF32 i a d n p s)
      (((OperandsRead.begun s x k l).step (src_ok hy)).step (dst_ok hd).1) (gives_giveW pl _).drawn ?_
    rw [ho]
    simp only [bind_run, hy, hd, me_run, roundMine_run, put_run, modThread_rounds]
    rfl

/-! ## The edges of the special functions -/

/-- The unit gives the canonical NaN for a NaN (R227). -/
theorem sfu_nan (op : Nat) (y : Word) (b : Bool) : (sfu op y (.nan b)).1 = 0x7FC00000 := rfl

/-- A reciprocal root or a logarithm of a value below -0 is a NaN (R236). -/
theorem sfu_negative (y : Word) {n : Nat} (d : Nat) (e : Int) (hn : n ≠ 0) :
    sfu 1 y (.fin true n d e) = (0x7FC00000, flagNV) ∧ sfu 4 y (.fin true n d e) = (0x7FC00000, flagNV) := by
  obtain ⟨m, rfl⟩ := Nat.exists_eq_succ_of_ne_zero hn
  exact ⟨rfl, rfl⟩

/-- Settles O12: a zero and an infinity are cases of their own, which no free value of Config reaches. -/
theorem specialFunctionEdges : Obligations.SpecialFunctionEdges := by
  unfold Obligations.SpecialFunctionEdges
  refine ⟨fun y => ?_, sfu_nan, fun y n d e => sfu_negative y d e⟩
  exact ⟨rfl, rfl, rfl, rfl, rfl, rfl, rfl, rfl, rfl, rfl, rfl, rfl, rfl, rfl, rfl, rfl, rfl, rfl, rfl, rfl, rfl, rfl, rfl, rfl, rfl, rfl⟩

/-! ## Compares -/

/-- The frame of a predicate bit that is written after the sources are read in `s1`. -/
theorem onlyPredicate_modCrew {x : Issue} {k l : Nat} {s s1 : State} (hl : l < 32) (h : ReadOn x k l s s1) (q : BitVec 4) (b : Bool) :
    OnlyPredicate q k l b s (s1.modCrew k (writeBit q l b)) where
  rest := by
    obtain ⟨th, rfl⟩ := exists_threads_of_onlyLane h.onlyLane
    rfl
  crew := by
    rw [State.modCrew_crew, onlyLane_crew h.onlyLane]
    exact writesBit_writeBit q hl b _
  crews j hj := by
    rw [← onlyLane_crews h.onlyLane]
    exact mfind_mset_other _ _ hj
  others j hj := h.onlyLane.others j hj
  bytes a := h.onlyLane.bytes a
  lane := h.advanced.fields

theorem lt_of_nan {f g : Val} (h : (f.isNan || g.isNan) = true) : f.lt g = false := by
  cases f with
  | nan => cases g <;> rfl
  | inf =>
    cases g with
    | nan => rfl
    | inf => cases h
    | fin => cases h
  | fin =>
    cases g with
    | nan => rfl
    | inf => cases h
    | fin => cases h

theorem eq_of_nan {f g : Val} (h : (f.isNan || g.isNan) = true) : f.eq g = false := by
  rw [Val.eq, ← Bool.not_or, h]
  rfl

/-- What FCMP writes and raises, as R232 has it by the condition. -/
theorem fcmpCond_eq (j : BitVec 2) (f g : Val) : fcmpCond j f g =
    (if f.isNan || g.isNan then (if j = 3 then true else false)
      else if j = 0 then f.eq g else if j = 1 then f.lt g else if j = 2 then f.lt g || f.eq g else false,
    if j = 0 ∨ j = 3 then flagIf (f.isSig || g.isSig) flagNV else flagIf (f.isNan || g.isNan) flagNV) := by
  have hj : j = 0 ∨ j = 1 ∨ j = 2 ∨ j = 3 := by
    revert j
    decide
  cases hnan : f.isNan || g.isNan with
  | true =>
    have hlt := lt_of_nan hnan
    have heq := eq_of_nan hnan
    obtain rfl | rfl | rfl | rfl := hj <;> simp [fcmpCond, hnan, hlt, heq]
  | false => obtain rfl | rfl | rfl | rfl := hj <;> simp [fcmpCond, hnan]

theorem fcmp_outcome {v : BitVec 1} {b a : BitVec 6} {j : BitVec 2} {q : BitVec 4} {n : BitVec 1} {p : BitVec 4} {x : Issue} {k l : Nat}
    {s s1 s2 : State} {y z : DWord} {r : Bool} {g : Flags} (h : Runs (.fcmp v b a j q n p) x k l s)
    (hy : srcV (s.ctxOf x k l) v a.toNat (s.begun x k l) = .ok (y, s1)) (hz : srcV (s.ctxOf x k l) v b.toNat s1 = .ok (z, s2))
    (hr : fcmpCond j (decodeIn (s2.thread k l).daz (fmtV v) y.toNat) (decodeIn (s2.thread k l).daz (fmtV v) z.toNat) = (r, g)) :
    ∃ t w, exec (.fcmp v b a j q n p) s = .next t ∧ OnlyPredicate q k l r s w ∧ t = w.doneFloat (s.ctxOf x k l) (fun u => u) g := by
  refine ⟨_, s2.modCrew k (writeBit q l r), exec_raises h rfl (rfl : _ = execFcmp v b a j q n p s) ?_,
    onlyPredicate_modCrew h.lane (((ReadOn.begun s x k l).step (srcV_ok hy)).step (srcV_ok hz)) q r, rfl⟩
  simp only [bind_run, hy, hz, me_run, ctxOf_crew, ctxOf_lane, hr, setPred_run]

/-! ## Classes -/

/-- The class of an FP32 encoding by its sign, exponent and fraction (R144, R233). -/
def fieldClass (neg : Bool) (e m : Nat) : Nat :=
  if e = 255 then if m = 0 then (if neg then 2 ^ 0 else 2 ^ 7) else if natBits m 22 1 == 0 then 2 ^ 8 else 2 ^ 9
  else if e = 0 then if m = 0 then (if neg then 2 ^ 3 else 2 ^ 4) else if neg then 2 ^ 2 else 2 ^ 5
  else if neg then 2 ^ 1 else 2 ^ 6

theorem classMask_fp32 (b : Nat) : classMask fmtFP32 b = fieldClass (natBits b 31 1 == 1) (natBits b 23 8) (natBits b 0 23) := by
  unfold fieldClass classMask decodeFmt fmtFP32
  by_cases h255 : natBits b 23 8 = 255
  · by_cases hm : natBits b 0 23 = 0
    · simp [h255, hm]
    · simp [h255, hm]
  · by_cases h0 : natBits b 23 8 = 0
    · by_cases hm : natBits b 0 23 = 0
      · simp [h0, hm]
      · simp [h0, hm, Fmt.isSubnormal]
    · simp [h255, h0, Fmt.isSubnormal]

theorem fieldClass_one_bit (neg : Bool) (e m : Nat) : ∃ j < 10, fieldClass neg e m = 2 ^ j := by
  unfold fieldClass
  split_ifs
  all_goals exact ⟨_, by decide, rfl⟩

/-- The classes of the zeros and the infinities hold one encoding each. -/
theorem fieldClass_special (neg : Bool) (e m : Nat) :
    (fieldClass neg e m = 2 ^ 4 ↔ neg = false ∧ e = 0 ∧ m = 0) ∧ (fieldClass neg e m = 2 ^ 3 ↔ neg = true ∧ e = 0 ∧ m = 0) ∧
    (fieldClass neg e m = 2 ^ 7 ↔ neg = false ∧ e = 255 ∧ m = 0) ∧ (fieldClass neg e m = 1 ↔ neg = true ∧ e = 255 ∧ m = 0) := by
  unfold fieldClass
  split_ifs <;> simp_all

theorem word_eq_iff_fields (b c : Word) : b = c ↔ (natBits b.toNat 31 1 == 1) = (natBits c.toNat 31 1 == 1) ∧
    natBits b.toNat 23 8 = natBits c.toNat 23 8 ∧ natBits b.toNat 0 23 = natBits c.toNat 0 23 := by
  refine ⟨fun h => h ▸ ⟨rfl, rfl, rfl⟩, fun ⟨hs, he, hm⟩ => BitVec.eq_of_toNat_eq ?_⟩
  have hb := b.isLt
  have hc := c.isLt
  have hsign : natBits b.toNat 31 1 = 1 ↔ natBits c.toNat 31 1 = 1 := by
    rw [← beq_iff_eq, hs, beq_iff_eq]
  unfold natBits at hsign he hm
  omega

theorem classMask_words (b : Word) : (∃ j < 10, classMask fmtFP32 b.toNat = 2 ^ j) ∧
    (classMask fmtFP32 b.toNat = 2 ^ 4 ↔ b = 0) ∧ (classMask fmtFP32 b.toNat = 2 ^ 3 ↔ b = 0x80000000#32) ∧
    (classMask fmtFP32 b.toNat = 2 ^ 7 ↔ b = 0x7F800000#32) ∧ (classMask fmtFP32 b.toNat = 1 ↔ b = 0xFF800000#32) := by
  obtain ⟨hpos, hneg, hposInf, hnegInf⟩ := fieldClass_special (natBits b.toNat 31 1 == 1) (natBits b.toNat 23 8) (natBits b.toNat 0 23)
  rw [classMask_fp32, hpos, hneg, hposInf, hnegInf]
  exact ⟨fieldClass_one_bit .., (word_eq_iff_fields b 0).symm, (word_eq_iff_fields b 0x80000000).symm,
    (word_eq_iff_fields b 0x7F800000).symm, (word_eq_iff_fields b 0xFF800000).symm⟩

/-- Settles O10: FCMP writes one bit and raises its flags, the others give their result with no flag, and the root is rounded. -/
theorem floatCompareSignClass : Obligations.FloatCompareSignClass := by
  unfold Obligations.FloatCompareSignClass
  refine ⟨?_, ?_, ?_, ?_, ?_, classMask_words⟩
  · rintro v b a j q n p x k l s _ s1 s2 y z _ _ _ _ h rfl hy hz rfl rfl rfl rfl
    exact fcmp_outcome h hy hz (fcmpCond_eq j _ _)
  · rintro e he i a d n p x k l s _ s1 s2 y pl h rfl hy hd
    simp only [List.mem_cons, List.not_mem_nil, or_false] at he
    obtain rfl | rfl | rfl := he
    · exact (fp1_outcome h rfl (rfl : _ = execFabsF32 i a d n p s) hy hd rfl ((BitVec.ofNat_toNat ..).trans (BitVec.setWidth_eq _))).quiet
    · exact (fp1_outcome h rfl (rfl : _ = execFnegF32 i a d n p s) hy hd rfl ((BitVec.ofNat_toNat ..).trans (BitVec.setWidth_eq _))).quiet
    · exact (fp1_outcome h rfl (rfl : _ = execFclassF32 i a d n p s) hy hd rfl rfl).quiet
  · rintro e he i a d n p x k l s _ s1 s2 y pl h rfl hy hd
    simp only [List.mem_cons, List.not_mem_nil, or_false] at he
    obtain rfl | rfl := he
    · exact (fp1D_outcome h rfl (rfl : _ = execFabsF64 i a d n p s) hy hd rfl ((BitVec.ofNat_toNat ..).trans (BitVec.setWidth_eq _))).quiet
    · exact (fp1D_outcome h rfl (rfl : _ = execFnegF64 i a d n p s) hy hd rfl ((BitVec.ofNat_toNat ..).trans (BitVec.setWidth_eq _))).quiet
  · rintro i a d n p x k l s _ s1 s2 y pl h rfl hy hd
    have hread := ((OperandsRead.begun s x k l).step (srcD_ok hy)).step (dst_ok hd).1
    obtain ⟨t, hexec, ht, hlane, -⟩ := gives_word h rfl (onThreads_lanes h _) hread (pl := pl) (r := BitVec.ofNat 32 (classMask fmtFP64 y.toNat))
      (by simp only [bind_run, hy, hd]) rfl
    exact ⟨t, hexec, ht, hlane⟩
  · rintro i a d n p x k l s _ s1 s2 y pl _ o h rfl hy hd rfl ho
    refine float_outcome h rfl (rfl : _ = execFsqrtF64 i a d n p s)
      (((OperandsRead.begun s x k l).step (srcD_ok hy)).step (dst_ok hd).1) (gives_giveD pl _).drawn ?_
    rw [ho]
    simp only [bind_run, hy, hd, me_run, roundMine_run, putD_run, modThread_rounds]
    rfl

/-! ## Scaling and conversions -/

section
variable {i : BitVec 4} {e : BitVec 3} {a d : BitVec 6} {n : BitVec 1} {p : BitVec 4} {x : Issue} {k l : Nat} {s s1 s2 : State} {y : DWord}
  {pl : Place_} {tf sf : Fmt} {wd ws : BitVec 1} {z : Val} {o : Nat × Flags}
  (hy : srcV (s.ctxOf x k l) ws a.toNat (s.begun x k l) = .ok (y, s1)) (hd : dstV (s.ctxOf x k l) wd d.toNat s1 = .ok (pl, s2))
include hy hd

/-- CVTF from one format to another, each in a register or a pair. -/
theorem cvtf_outcome (h : Runs (.cvtf i e a d n p) x k l s) (hf : cvtfFmts e = (tf, sf)) (hwd : (if tf = fmtFP64 then 1 else 0) = wd)
    (hws : (if sf = fmtFP64 then 1 else 0) = ws) (hz : z = decodeIn (s2.thread k l).daz sf (ofContainer sf y.toNat))
    (ho : o = if tf.bits < sf.bits then (s2.thread k l).rounded tf (z, flagIf z.isSig flagNV) else (exactBits tf z, flagIf z.isSig flagNV)) :
    FloatOutcome (.cvtf i e a d n p) x k l s s2 pl (if wd = 0 then 1 else 2)
      (fun t => (if tf.bits < sf.bits then t.drawn else t).giveV wd pl (BitVec.ofNat 64 (toContainer tf o.1))) o.2 := by
  have hread := ((OperandsRead.begun s x k l).step (srcV_ok hy)).step (dstV_ok hd).1
  by_cases hn : tf.bits < sf.bits
  · simp only [if_pos hn]
    refine float_outcome h rfl (rfl : _ = execCvtf i e a d n p s) hread (gives_giveV wd pl _).drawn ?_
    rw [ho, hz]
    simp only [bind_run, hf, hwd, hws, hy, hd, me_run, if_pos hn, roundMine_run, putV_run, modThread_rounds]
    rfl
  · simp only [if_neg hn]
    refine float_outcome h rfl (rfl : _ = execCvtf i e a d n p s) hread (gives_giveV wd pl _) ?_
    rw [ho, hz]
    simp only [bind_run, hf, hwd, hws, hy, hd, me_run, if_neg hn, pure_run, putV_run]
    rfl

/-- CVTI from one format to another, each in a register or a pair. -/
theorem cvti_outcome (h : Runs (.cvti i e a d n p) x k l s) (hf : cvtiFmts e = (tf, sf)) (hwd : (if tf.bits = 64 then 1 else 0) = wd)
    (hws : (if sf.bits = 64 then 1 else 0) = ws) (hz : z = decodeIn (s2.thread k l).daz sf y.toNat)
    (ho : o = if e = 4 then (exactBits tf z, 0) else (s2.thread k l).rounded tf (z, 0)) :
    FloatOutcome (.cvti i e a d n p) x k l s s2 pl (if wd = 0 then 1 else 2)
      (fun t => (if e = 4 then t else t.drawn).giveV wd pl (BitVec.ofNat 64 o.1)) o.2 := by
  have hread := ((OperandsRead.begun s x k l).step (srcV_ok hy)).step (dstV_ok hd).1
  by_cases he : e = 4
  · simp only [if_pos he]
    refine float_outcome h rfl (rfl : _ = execCvti i e a d n p s) hread (gives_giveV wd pl _) ?_
    rw [ho, hz]
    simp only [bind_run, hf, hwd, hws, hy, hd, me_run, if_pos he, pure_run, putV_run]
    rfl
  · simp only [if_neg he]
    refine float_outcome h rfl (rfl : _ = execCvti i e a d n p s) hread (gives_giveV wd pl _).drawn ?_
    rw [ho, hz]
    simp only [bind_run, hf, hwd, hws, hy, hd, me_run, if_neg he, roundMine_run, putV_run, modThread_rounds]
    rfl

end

/-- Settles O13: each instruction reads its operand in the source format and rounds it, or encodes it exactly, in the target format. -/
theorem scalingAndConversionResults : Obligations.ScalingAndConversionResults := by
  unfold Obligations.ScalingAndConversionResults
  refine ⟨?_, ?_, ?_⟩
  · rintro v b a d n p x k l s _ s1 s2 s3 y z pl _ o h rfl hy hz hd rfl ho
    refine float_outcome h rfl (rfl : _ = execFscale v b a d n p s)
      ((((OperandsRead.begun s x k l).step (srcV_ok hy)).step (src_ok hz)).step (dstV_ok hd).1) (gives_giveV v pl _).drawn ?_
    rw [ho]
    simp only [bind_run, hy, hz, hd, me_run, roundMine_run, putV_run, modThread_rounds]
    rfl
  · rintro e he i a d n p x k l s _ s1 s2 y pl _ z o h rfl hy hd rfl hz ho
    simp only [List.mem_cons, List.not_mem_nil, or_false] at he
    obtain rfl | rfl | rfl | rfl | rfl | rfl | rfl | rfl := he <;> exact cvtf_outcome hy hd h rfl rfl rfl hz ho
  · rintro e he i a d n p x k l s _ s1 s2 y pl _ z o h rfl hy hd rfl hz ho
    simp only [List.mem_cons, List.not_mem_nil, or_false] at he
    obtain rfl | rfl | rfl | rfl | rfl | rfl | rfl | rfl := he <;> exact cvti_outcome hy hd h rfl rfl rfl hz ho

end Sys2Proof.Proofs.FloatNarrow
end

section
/-! PROOFS. Narrow formats in one lane: control words, QNT, DQNT and MXSC (R240 to R243). -/

namespace Sys2Proof.Proofs.FloatNarrow

open Sys2Proof Sys2Proof.Machine Sys2Proof.Laws Sys2Proof.Proofs.ThreadState Sys2Proof.Proofs.EncodingAssembly

/-! ## Control words -/

theorem slotWidth_eq_four (code : Nat) : slotWidth code = 4 ↔ code = 9 ∨ code = 11 := by
  unfold slotWidth
  split
  · omega
  · omega
  · simp
  · simp
  · next h9 h11 =>
    constructor
    · intro h
      cases h
    · exact fun h => absurd h (not_or.2 ⟨h9, h11⟩)

/-- A slot has to be below 4, except in a format of four bits, which has all the slots that the field names. -/
theorem slot_ok_iff (z code : Nat) : natBits z 16 3 < 4 ∨ slotWidth code = 4 ↔ natBits z 16 3 < (if code = 9 ∨ code = 11 then 8 else 4) := by
  have hfield : natBits z 16 3 < 8 := Nat.mod_lt _ (by decide)
  rw [slotWidth_eq_four]
  split
  · next h => exact ⟨fun _ => hfield, fun _ => .inr h⟩
  · next h => exact ⟨fun hs => hs.resolve_right h, .inl⟩

theorem controlOk_iff (z : Word) : controlOk z = true ↔
    (5 ≤ natBits z.toNat 0 4 ∧ natBits z.toNat 0 4 ≤ 12 ∧ natBits z.toNat 4 3 ≠ 5 ∧ natBits z.toNat 4 3 ≠ 6 ∧
      natBits z.toNat 16 3 < (if natBits z.toNat 0 4 = 9 ∨ natBits z.toNat 0 4 = 11 then 8 else 4) ∧
      natBits z.toNat 7 1 = 0 ∧ natBits z.toNat 12 4 = 0 ∧ natBits z.toNat 19 5 = 0) := by
  rw [← slot_ok_iff]
  simp only [controlOk, Bool.and_eq_true, Bool.or_eq_true, beq_iff_eq, bne_iff_ne, decide_eq_true_eq]
  tauto

/-- CE is a bit of the control word. -/
theorem getLsbD_eq_natBits {n : Nat} (z : BitVec n) (j : Nat) : (z.getLsbD j = true) = (natBits z.toNat j 1 = 1) := by
  rw [← BitVec.testBit_toNat, Nat.testBit_eq_decide_div_mod_eq, decide_eq_true_eq]
  rfl

theorem myCompand_run (c : Ctx) (s : State) : myCompand c s = .ok ((s.launch (s.group c.group).launch).compand, s) := rfl

/-! ## QNT, DQNT and MXSC -/

/-- A word is given to a thread that has drawn as it is to one whose generator is stepped afterwards. -/
theorem giveW_drawnUnder (pl : Place_) (r : Word) (mode : Nat) : (fun t => (drawnUnder mode t).giveW pl r) =
    fun t : Thread => { t.giveW pl r with seed := if mode = 4 then stepSeed t.seed else t.seed } := by
  funext t
  cases pl <;> rfl

/-- Settles O14: a control word that is not valid leaves the operand alone, and one that is valid says how the element is read and written. -/
theorem narrowFormatResults : Obligations.NarrowFormatResults := by
  unfold Obligations.NarrowFormatResults
  refine ⟨controlOk_iff, ?_, ?_, ?_⟩
  · rintro v b a d n p x k l s _ s1 s2 s3 s4 y z w pl _ _ _ mode _ _ _ _ _ h rfl hy hz hw hd rfl rfl rfl hmode rfl rfl rfl rfl rfl
    have hread := ((((OperandsRead.begun s x k l).step (src_ok hy)).step (src_ok hz)).step (src_ok hw)).step (dst_ok hd).1
    constructor
    · intro hinvalid
      refine float_outcome h rfl (rfl : _ = execQnt v b a d n p s) hread (gives_push pl w) ?_
      simp only [bind_run, hy, hz, hw, hd, hinvalid, Bool.not_false, if_true, modMe_run]
    · intro hvalid
      rw [← giveW_drawnUnder]
      refine float_outcome h rfl (rfl : _ = execQnt v b a d n p s) hread ((gives_giveW pl _).drawnUnder mode) ?_
      rw [hmode]
      simp only [bind_run, hy, hz, hw, hd, hvalid, Bool.not_true, Bool.false_eq_true, if_false, me_run, myCompand_run, draw_run, put_run,
        modThread_afterDraw, getLsbD_eq_natBits]
      rfl
  · rintro v b a d n p x k l s _ s1 s2 s3 y z pl _ _ _ _ _ _ _ _ _ h rfl hy hz hd rfl rfl rfl rfl rfl rfl rfl rfl rfl
    have hread := (((OperandsRead.begun s x k l).step (src_ok hy)).step (src_ok hz)).step (dst_ok hd).1
    constructor
    · intro hinvalid
      refine float_outcome h rfl (rfl : _ = execDqnt v b a d n p s) hread (gives_giveW pl _) ?_
      simp only [bind_run, hy, hz, hd, hinvalid, Bool.not_false, if_true, put_run]
    · intro hvalid
      refine float_outcome h rfl (rfl : _ = execDqnt v b a d n p s) hread (gives_giveW pl _) ?_
      simp only [bind_run, hy, hz, hd, hvalid, Bool.not_true, Bool.false_eq_true, if_false, me_run, myCompand_run, put_run,
        Bool.and_eq_true, bne_iff_ne, getLsbD_eq_natBits]
      rfl
  · rintro i e a d n p x k l s _ s1 s2 y pl _ o h rfl hy hd rfl ho
    refine fp1_outcome (bits := o.1) (g := o.2) h rfl (rfl : _ = execMxsc i e a d n p s) hy hd ?_ rfl
    rw [ho]
    simp only [bind_run, me_run, pure_run, ctxOf_crew, ctxOf_lane]
    cases decodeIn (s2.thread k l).daz fmtFP32 y.toNat with
    | nan => rfl
    | inf => rfl
    | fin neg m q j =>
      dsimp only
      split <;> rfl

end Sys2Proof.Proofs.FloatNarrow
end

section
/-! PROOFS. Stores, atomics and accesses through a capability at a slice's write copy: what the statements' frame of such an operation says of
lanes past the last of a crew (R106, R108, R254, R255, R264, R268). -/

namespace Sys2Proof.Proofs.MemorySync

open Sys2Proof Sys2Proof.Machine Sys2Proof.Laws Sys2Proof.Proofs.ThreadState Sys2Proof.Proofs.MemorySpaces

/-! ## A firmware lane with a line in a write copy -/

/-- A capability of package 0 for the whole of memory, at 0x4000, with every permission. -/
def copyCap : Cap := { bits := BitVec.ofNat 128 (0x4000 + 0xFF * 2 ^ 74 + 47 * 2 ^ 82), tag := true }

/-- The firmware crew of core 0: k1:k0, its lane's v1:v0 and the lane's c1 point to 0x4000, of whose line the slice holds a write copy. -/
def copyState : State := { ticketState with
  crews := [(63, { group := 0, index := 0, k := [(0, 0x4000)] })]
  threads := [(32 * 63, { v := [(0, 0x4000)], c := [(1, copyCap)] })] }

/-- What the lane knows of itself. -/
def copyCtx : Ctx := copyState.ctxOf ticketIssue 63 0

/-- The state in which the lane computes. -/
def copyBegun : State := copyState.begun ticketIssue 63 0

theorem copyState_enters {i : Instr} (hlegal : (shapeOf i).refusal copyCtx.n = none) (hguard : executes (shapeOf i) copyState 63 0 = true) :
    Enters i ticketIssue 63 0 copyState where
  unit := rfl
  parts := rfl
  lane := by decide
  crew := by decide
  legal := hlegal
  guard := hguard
  room := admit_empty (k := 63) (l := 0) rfl _ rfl

/-- Whether an access of a class reaches the line in the write copy, before the copy's lease ends. -/
def reachesCopy (a : Machine.Class) : Bool :=
  match access copyCtx 0x4000 a copyBegun with
  | .ok ((pa, kd), t) => decide (pa = 0x4000 ∧ kd = .coherent) && t.coreOwned 0x4000 &&
      decide (mfind t.copies (copyKey 0 (0x4000 / 128)) = some ticketLine ∧ (t.thread 63 0).time ≤ ticketLine.rts)
  | .error _ => false

theorem access_of_reachesCopy {a : Machine.Class} (h : reachesCopy a = true) : ∃ t, access copyCtx 0x4000 a copyBegun = .ok ((0x4000, .coherent), t) ∧
    OwnsLine copyCtx 0x4000 .coherent ticketLine t ∧ (t.thread 63 0).time ≤ ticketLine.rts := by
  unfold reachesCopy at h
  split at h
  · next pa kd t ht =>
    simp only [Bool.and_eq_true, decide_eq_true_eq] at h
    obtain ⟨⟨⟨rfl, rfl⟩, howned⟩, hcopy, htime⟩ := h
    exact ⟨t, ht, ⟨howned, by decide, rfl, .inl rfl, hcopy, rfl⟩, htime⟩
  · cases h

/-- No register of the lane is held: v2 and v4 are read at once. -/
theorem copyBegun_reads : src copyCtx 2 copyBegun = .ok (0, copyBegun) ∧ src copyCtx 4 copyBegun = .ok (0, copyBegun) :=
  ⟨(named_free (c := copyCtx) (f := 2) (s := copyBegun) (by decide) (.inl rfl)).1,
    (named_free (c := copyCtx) (f := 4) (s := copyBegun) (by decide) (.inl rfl)).1⟩

/-- So is v4 as the data of an atomic of a word. -/
theorem copyBegun_word : srcV copyCtx 0 4 copyBegun = .ok (0, copyBegun) := by
  rw [srcV, if_pos rfl, bind_run, copyBegun_reads.2]
  rfl

/-- The address of [k0:1 + v2]. -/
theorem copyBegun_base : basePair copyCtx 0 2 copyBegun = .ok (0x4000, copyBegun) := by
  rw [basePair, bind_run, show (2 : BitVec 6).toNat = 2 from rfl, copyBegun_reads.1]
  rfl

/-- The access of c1 at the offset in v2 goes to the line in this package. -/
theorem copyBegun_ownAccess {perm n : Nat} {o : RemoteOp} {t : State}
    (hcheck : capCheck copyCtx 1 0 perm n [0, 1] copyBegun = .ok ((copyCap, 0x4000), copyBegun))
    (ht : access copyCtx 0x4000 (o.cls n) copyBegun = .ok ((0x4000, .coherent), t)) :
    OwnAccess copyCtx 1 0 perm n o copyBegun 0x4000 0x4000 .coherent t :=
  ⟨rfl, copyCap, 0x4000, hcheck, rfl, rfl, (localPlace_memory 0x4000 n (o.cls n) copyBegun rfl).trans ht⟩

/-! ## The statements -/

/-- Refutes O30: ST at a write copy moves its lane's program time past the copy's lease (R108), and the clause on it (CopyWritten) keeps the time
of the thread that lane 32 of the crew before would name, which is the same one. -/
theorem not_storeEffects : ¬ Obligations.StoreEffects := by
  unfold Obligations.StoreEffects
  intro ⟨hstore, _⟩
  obtain ⟨t, ht, howns, htime⟩ := access_of_reachesCopy (a := .store 4) (by decide)
  obtain ⟨_, haccess⟩ := hstore (Instr.stW, 4) (by simp) 0 0 2 4 0 15 ticketIssue 63 0 copyState copyCtx copyBegun copyBegun 0x4000 0
    (copyState_enters (by decide) (by decide)) rfl copyBegun_base copyBegun_reads.2
  obtain ⟨_, hcopy, _⟩ := haccess 0x4000 .coherent t (by decide) rfl ht
  obtain ⟨_, _, hwritten, _⟩ := hcopy ticketLine howns
  exact not_copyWritten (by decide) htime hwritten

/-- Refutes O32: ATOM.add at a write copy moves its lane's program time past the copy's lease, and CopyWritten keeps that time under the name of
lane 32 of the crew before. -/
theorem not_atomicEffects : ¬ Obligations.AtomicEffects := by
  unfold Obligations.AtomicEffects
  intro ⟨hatom, _⟩
  obtain ⟨t, ht, howns, htime⟩ := access_of_reachesCopy (a := .atomic 4) (by decide)
  obtain ⟨_, haccess⟩ := hatom (.atomIntW 0 0 0 0 4 0 15) .add 0 0 0 4 0 15 ⟨0, 0, .inl ⟨rfl, rfl, rfl⟩⟩ ticketIssue 63 0 copyState copyCtx
    copyBegun copyBegun copyBegun 0x4000 0 (.named 4) 4 (copyState_enters (by decide) (by decide)) rfl rfl
    (pair_free (c := copyCtx) (f := 0) (s := copyBegun) (by decide) rfl rfl).1 copyBegun_word
    (named_free (c := copyCtx) (f := 4) (s := copyBegun) (by decide) (.inl rfl)).2
  obtain ⟨_, hcopy, _⟩ := haccess 0x4000 .coherent t (by decide) ht
  obtain ⟨_, _, hwritten⟩ := hcopy _ _ ticketLine howns (by decide) rfl rfl
  exact not_copyWritten (by decide) htime hwritten

/-- Refutes O33: CAPST of an untagged capability at a write copy moves its lane's program time past the copy's lease, and CopyWritten keeps that
time under the name of lane 32 of the crew before. -/
theorem not_capabilityDerivations : ¬ Obligations.CapabilityDerivations := by
  unfold Obligations.CapabilityDerivations
  intro ⟨_, _, _, _, _, hcapst⟩
  obtain ⟨t, ht, howns, htime⟩ := access_of_reachesCopy (a := .capst) (by decide)
  obtain ⟨_, haccess⟩ := hcapst 0 0 2 2 0 15 ticketIssue 63 0 copyState copyCtx copyBegun 0x4000 {}
    (copyState_enters (by decide) (by decide)) rfl copyBegun_base (by decide)
  obtain ⟨_, hstores⟩ := haccess 0x4000 .coherent _ t (by decide) rfl rfl ht
  obtain ⟨_, hcopy, _⟩ := hstores (.inl rfl)
  obtain ⟨_, _, _, hwritten, _⟩ := hcopy ticketLine howns
  exact not_copyWritten (by decide) htime hwritten

/-- Refutes O35: STC at a write copy moves its lane's program time past the copy's lease, and CopyWritten keeps that time under the name of
lane 32 of the crew before. -/
theorem not_capabilityAccesses : ¬ Obligations.CapabilityAccesses := by
  unfold Obligations.CapabilityAccesses
  intro ⟨_, _, hstc, _⟩
  obtain ⟨t, ht, howns, htime⟩ := access_of_reachesCopy (a := .store 4) (by decide)
  obtain ⟨_, haccess, _⟩ := hstc 2 0 1 2 4 0 15 ticketIssue 63 0 copyState copyCtx copyBegun copyBegun 0 0 4
    (copyState_enters (by decide) (by decide)) rfl copyBegun_reads.1 rfl (fun _ => ⟨0, copyBegun_reads.2, rfl⟩) (fun h => absurd h (by decide))
    (fun h => absurd h (by decide)) (by decide)
  obtain ⟨_, hcopy⟩ := haccess 0x4000 0x4000 .coherent t (by decide) (copyBegun_ownAccess (o := .store) rfl ht)
  obtain ⟨_, _, hwritten⟩ := hcopy ticketLine howns
  exact not_copyWritten (by decide) htime hwritten

end Sys2Proof.Proofs.MemorySync
end

section
/-! PROOFS. Memory instructions issued to one lane: what they come to where their computation succeeds, waits, misses or traps (R122, R132, R248,
R392), and what resolving an address leaves of the threads (R82, R401). -/

namespace Sys2Proof.Proofs.MemorySync

open Sys2Proof Sys2Proof.Machine Sys2Proof.Laws Sys2Proof.Proofs.ThreadState Sys2Proof.Proofs.EncodingAssembly

/-! ## A lane that stops -/

section
variable {sh : Shape} {body : Ctx → LaneM After} {x : Issue} {s : State} {k l : Nat} (hcrew : (mfind s.crews k).isSome = true)
  (hlegal : sh.refusal (s.ctxOf x k l).n = none) (hexec : executes sh s k l = true)
include hcrew hlegal hexec

/-- A lane that is no helper and whose instruction waits for anything but a held register has done nothing of it. -/
theorem runLane_waits {w : Wait} (hhelper : (s.ctxOf x k l).helper = false) (hkind : w.kind ≠ .heldReg)
    (hb : body (s.ctxOf x k l) (s.begun x k l) = .error (.wait w)) : runLane sh body x s k l = s.deschedule k l w := by
  have hb : body (s.ctxOf x k l) ((s.past (s.ctxOf x k l)).modThread k l Thread.countStep) = _ := hb
  have hcrew : (mfind s.crews k).isNone = false := by rw [Option.isNone_eq_false_iff, hcrew]
  rw [runLane]
  simp only [hcrew, hlegal, hexec, hb, hhelper, Bool.false_eq_true, if_false, Bool.not_true, Shape.joining, if_neg hkind]
  rfl

/-- A lane whose instruction has to ask a line's home has done nothing of it; its slice asks. -/
theorem runLane_misses {line : Nat} {r : Req} {addr : DWord} {refile : Bool}
    (hb : body (s.ctxOf x k l) (s.begun x k l) = .error (.miss line r addr refile)) :
    runLane sh body x s k l = s.missLane (s.ctxOf x k l) line r addr refile := by
  have hb : body (s.ctxOf x k l) ((s.past (s.ctxOf x k l)).modThread k l Thread.countStep) = _ := hb
  have hcrew : (mfind s.crews k).isNone = false := by rw [Option.isNone_eq_false_iff, hcrew]
  rw [runLane]
  simp only [hcrew, hlegal, hexec, hb, Bool.false_eq_true, if_false, Bool.not_true, Shape.joining]
  split <;> rfl

end

/-! ## A memory instruction in one lane -/

theorem quietly_stops {body : Ctx → LaneM Unit} {e : Stop} {c : Ctx} {s : State} (hb : body c s = .error e) : quietly body c s = .error e := by
  rw [quietly_run, hb]

section
variable {i : Instr} {x : Issue} {k l : Nat} {s : State} {body : Ctx → LaneM Unit} (h : Enters i x k l s) (he : (shapeOf i).entry = true)
  (hx : exec i s = onThreads (shapeOf i) (quietly body) s)
include h he hx

/-- An instruction that finds room in its core's table is what it does in its lane. -/
theorem exec_enters : exec i s = .next ((runLane (shapeOf i) (quietly body) x s k l).keepEntries x x.parts) := by
  rw [hx, onThreads, h.unit]
  dsimp only
  rw [runLanes_entry h.parts h.lane he _ s h.room]

theorem enters_done {t : State} (hb : body (s.ctxOf x k l) (s.begun x k l) = .ok ((), t)) :
    exec i s = .next ((t.afterInstr (s.ctxOf x k l)).keepEntries x x.parts) := by
  rw [exec_enters h he hx, runLane_ok h.crew h.legal h.guard (quietly_ok hb)]

theorem enters_waits {w : Wait} (hhelper : (s.ctxOf x k l).helper = false) (hkind : w.kind ≠ .heldReg)
    (hb : body (s.ctxOf x k l) (s.begun x k l) = .error (.wait w)) :
    exec i s = .next ((s.deschedule k l w).keepEntries x x.parts) := by
  rw [exec_enters h he hx, runLane_waits h.crew h.legal h.guard hhelper hkind (quietly_stops hb)]

theorem enters_misses {line : Nat} {r : Req} {addr : DWord} {refile : Bool}
    (hb : body (s.ctxOf x k l) (s.begun x k l) = .error (.miss line r addr refile)) :
    exec i s = .next ((s.missLane (s.ctxOf x k l) line r addr refile).keepEntries x x.parts) := by
  rw [exec_enters h he hx, runLane_misses h.crew h.legal h.guard (quietly_stops hb)]

theorem enters_traps {code sub detail : Nat} {addr : DWord} (hhelper : (s.ctxOf x k l).helper = false) (hcode : code ≠ 4)
    (hb : body (s.ctxOf x k l) (s.begun x k l) = .error (.trap code sub detail addr false)) :
    exec i s = .next (((s.takeTrap (s.ctxOf x k l) code sub detail x.pc addr).afterInstr (s.ctxOf x k l)).keepEntries x x.parts) := by
  rw [exec_enters h he hx, runLane_trap h.crew h.legal h.guard hhelper (quietly_stops hb), State.stopLane]
  simp only [Bool.false_eq_true, if_false, if_neg hcode]
  rfl

end

/-! ## Resolving an address -/

theorem amend_threads (s : State) (line : Nat) (f : Line → Line) : (s.amend line f).threads = s.threads := by
  unfold State.amend
  dsimp only
  split <;> rfl

theorem markUsed_threads (s : State) (l : Leaf) (w : Bool) : (s.markUsed l w).threads = s.threads := by
  unfold State.markUsed
  extract_lets e
  split
  · rfl
  · exact amend_threads ..

/-- A page's checks answer with a trap (R81, R401). -/
theorem pageCheck_error {v : View} {a : Machine.Class} {l : Leaf} {addr : DWord} {e : Stop} (h : pageCheck v a l addr = .error e) :
    ∃ code sub, e = .trap code sub 0 addr false := by
  unfold pageCheck at h
  repeat' split at h
  all_goals cases h
  all_goals exact ⟨_, _, rfl⟩

/-- What resolving an address can answer (R401): a staging word of a line that is present, or a page whose entry it marks. -/
theorem resolve_ok {s t : State} {v : View} {va : DWord} {a : Machine.Class} {pa : Nat} {kd : PageKind} (h : s.resolve v va a = .ok (t, pa, kd)) :
    t = s ∧ kd = .staging ∨ ∃ l : Leaf, t = s.markUsed l a.writes := by
  unfold State.resolve at h
  dsimp only at h
  split at h
  · cases h
  split at h
  · cases h
  split at h
  · cases h
  split at h
  · split at h
    · cases h
    · split at h
      · cases h
        exact .inl ⟨rfl, rfl⟩
      · cases h
  · split at h
    · cases h
    · split at h
      · cases h
      · cases h
      · split at h
        · cases h
        · cases h
          exact .inr ⟨_, rfl⟩

/-- An address that has to be waited for is a staging address whose line is absent (R89). -/
theorem resolve_wait {s : State} {v : View} {va : DWord} {a : Machine.Class} {w : Wait} (h : s.resolve v va a = .error (.wait w)) :
    w.kind = .presence := by
  unfold State.resolve at h
  dsimp only at h
  split at h
  · cases h
  split at h
  · split at h <;> cases h
  split at h
  · cases h
  split at h
  · split at h
    · split at h <;> cases h
    · split at h
      · cases h
      · cases h
        rfl
  · split at h
    · cases h
    · split at h
      · split at h <;> cases h
      · cases h
      · split at h
        · next hpage =>
          cases h
          obtain ⟨_, _, e⟩ := pageCheck_error hpage
          cases e
        · cases h

/-- The view in which a lane's addresses are resolved (R75). -/
def viewOf (c : Ctx) (s : State) : View :=
  { ctx := (s.launch (s.group c.group).launch).ctx, group := c.group, firmware := slotOf c.crew == 63 }

theorem access_run (c : Ctx) (va : DWord) (a : Machine.Class) (s : State) :
    access c va a s = match s.resolve (viewOf c s) va a with
      | .ok (t, pa, kd) => .ok ((pa, kd), t)
      | .error e => .error e := rfl

theorem access_eq_ok {c : Ctx} {va : DWord} {a : Machine.Class} {s t : State} {pa : Nat} {kd : PageKind}
    (h : access c va a s = .ok ((pa, kd), t)) : s.resolve (viewOf c s) va a = .ok (t, pa, kd) := by
  rw [access_run] at h
  split at h
  · next heq =>
    cases h
    exact heq
  · cases h

/-- Resolving an address changes no thread. -/
theorem access_threads {c : Ctx} {va : DWord} {a : Machine.Class} {s t : State} {pa : Nat} {kd : PageKind}
    (h : access c va a s = .ok ((pa, kd), t)) : t.threads = s.threads := by
  obtain ⟨rfl, -⟩ | ⟨l, rfl⟩ := resolve_ok (access_eq_ok h)
  · rfl
  · exact markUsed_threads ..

theorem access_wait {c : Ctx} {va : DWord} {a : Machine.Class} {s : State} {w : Wait} (h : access c va a s = .error (.wait w)) :
    w.kind = .presence := by
  rw [access_run] at h
  split at h
  · cases h
  · next heq =>
    cases h
    exact resolve_wait heq

section
variable {c : Ctx} {va : DWord} {a : Machine.Class} (s : State) (ha : a ≠ .fetch)
include ha

/-- An address with one of bits 63:56 is refused (R401). -/
theorem access_address (hva : 2 ^ 56 ≤ va.toNat) : access c va a s = .error (.trap 5 0 0 va false) := by
  rw [access_run, State.resolve]
  simp only [if_neg (show ¬ (a = .fetch ∧ va.toNat % 2 ≠ 0) from fun h => ha h.1), if_pos (show va.toNat / 2 ^ 56 ≠ 0 by omega), if_neg ha]

/-- After that, one that is no multiple of the access's size is (R401). -/
theorem access_misaligned (hva : va.toNat < 2 ^ 56) (hsize : a.size ≠ 0) (halign : va.toNat % a.size ≠ 0) :
    access c va a s = .error (.trap 6 0 0 va false) := by
  rw [access_run, State.resolve]
  simp only [if_neg (show ¬ (a = .fetch ∧ va.toNat % 2 ≠ 0) from fun h => ha h.1), if_neg (show ¬ va.toNat / 2 ^ 56 ≠ 0 by omega),
    if_pos (And.intro hsize halign)]

end

end Sys2Proof.Proofs.MemorySync
end

section
/-! PROOFS. Loads: what a lane's load answers at each kind of page, and LD.b to LD.q (R105, R108, R124, R246, R251, R254). -/

namespace Sys2Proof.Proofs.MemorySync

open Sys2Proof Sys2Proof.Machine Sys2Proof.Laws Sys2Proof.Proofs.ThreadState Sys2Proof.Proofs.EncodingAssembly

/-! ## Bytes of memory -/

theorem memGet_below {lo x : Nat} {m : Memory} (h : Memory.wfFrom lo m = true) (hx : x < lo) : memGet m x = 0 := by
  induction m generalizing lo with
  | nil => rfl
  | cons e r ih =>
    obtain ⟨a, b⟩ := e
    simp only [Memory.wfFrom, Bool.and_eq_true, decide_eq_true_eq] at h
    have hne : a ≠ x := by omega
    rw [memGet, mget, mfind, if_neg hne]
    exact ih h.2 (by omega)

/-- A walk along a memory in rising order gives the byte of each address. -/
theorem memWalk_eq {m : Memory} {a : Nat} (h : Memory.wfFrom a m = true) (n : Nat) :
    memWalk m a n = (List.range n).map fun j => memGet m (a + j) := by
  induction n generalizing m a with
  | zero => cases m <;> rfl
  | succ n ih =>
    rw [List.range_succ_eq_map, List.map_cons, List.map_map]
    have next : ∀ j, a + 1 + j = a + (j + 1) := fun j => by omega
    cases m with
    | nil =>
      rw [memWalk, ih rfl]
      rfl
    | cons e r =>
      obtain ⟨k, b⟩ := e
      simp only [Memory.wfFrom, Bool.and_eq_true, decide_eq_true_eq] at h
      obtain ⟨⟨hk, hb⟩, hr⟩ := h
      rw [memWalk]
      split
      · next he =>
        subst he
        rw [ih hr]
        refine congrArg₂ _ (by simp [memGet, mget, mfind]) (List.map_congr_left fun j _ => ?_)
        have hne : k ≠ k + (j + 1) := by omega
        simp only [Function.comp, next, memGet, mget, mfind, if_neg hne, Nat.succ_eq_add_one]
      · next he =>
        have hwf : Memory.wfFrom (a + 1) ((k, b) :: r) = true := by
          simp only [Memory.wfFrom, Bool.and_eq_true, decide_eq_true_eq]
          exact ⟨⟨by omega, hb⟩, hr⟩
        rw [ih hwf]
        refine congrArg₂ _ (memGet_below hwf (by omega)).symm (List.map_congr_left fun j _ => ?_)
        simp only [Function.comp, next, Nat.succ_eq_add_one]

/-- Reading memory in its canonical form gives the byte of each address. -/
theorem read_eq {s : State} (h : s.mem.wf = true) (pa n : Nat) : s.read pa n = (List.range n).map fun j => memGet s.mem (pa + j) := by
  have hwf : Memory.wfFrom pa (memBelow (memFrom s.mem pa) (pa + n)) = true := Memory.wfFrom_filter _ (Memory.wfFrom_memFrom h)
  rw [State.read, memGets, memWalk_eq hwf]
  refine List.map_congr_left fun j hj => ?_
  have hj := List.mem_range.1 hj
  rw [memGet, mget, mfind_memBelow, if_pos (by omega), mfind_memFrom, if_pos (by omega)]
  rfl

/-! ## What a load leaves -/

/-- A lane's program time that rises, in a state that has the bytes, tags, crews and threads of another. -/
theorem onlyRead_rise {k l : Nat} {s u : State} (time : Nat → Nat) (hmem : u.mem = s.mem) (htags : u.tags = s.tags) (hcrews : u.crews = s.crews)
    (hthreads : u.threads = s.threads) (htime : (s.thread k l).time ≤ time (s.thread k l).time) :
    OnlyRead k l s (u.modThread k l fun t => { t with time := time t.time }) := by
  have hthread : u.thread k l = s.thread k l := by rw [State.thread, hthreads, State.thread]
  refine ⟨fun a => by rw [State.modThread_mem, hmem], by rw [State.modThread_tags, htags], by rw [State.modThread_crews, hcrews],
    fun j hj => ?_, ?_, ?_⟩
  · rw [← hthreads]
    exact mfind_mset_other _ _ hj
  · rw [State.modThread_thread, hthread]
  · rw [State.modThread_thread, hthread]
    exact htime

theorem onlyRead_refl (k l : Nat) (s : State) : OnlyRead k l s s := ⟨fun _ => rfl, rfl, rfl, fun _ _ => rfl, rfl, le_rfl⟩

/-! ## A load at each kind of page -/

/-- A copy whose lease covers the load performs it at its time (R108). -/
theorem loadTime_covered {cp : Copy} {t : Nat} (h : cp.leased = false ∨ max t cp.wts ≤ cp.rts) : cp.loadTime t = some (max t cp.wts) := by
  rw [Copy.loadTime, if_pos (by simpa using h)]

/-- What the copy in a slice answers to a load that its lease covers. -/
theorem atOwn_load {s : State} {agent line off n t : Nat} {cp : Copy} (hcp : mfind s.copies (copyKey agent line) = some cp)
    (hlease : cp.leased = false ∨ max t cp.wts ≤ cp.rts) : s.atOwn agent line (.load off n) t =
      some ({ val := leNat (cp.line.part off n), tag := cp.line.tags.contains (off / 16), poison := cp.line.bad off n, ts := max t cp.wts },
        s.setCopy agent line (cp.loaded (max t cp.wts))) := by
  rw [State.atOwn, hcp]
  simp only [LineOp.isLoad, if_true, loadTime_covered hlease, Option.map_some]
  rfl

/-- A page in the order that is no staging page is served by the copy of its line, where the slice holds one that may serve it (R124, R142, R143). -/
theorem sliceOp_held {s : State} {agent group pa t : Nat} {kd : PageKind} {op : LineOp} {cp : Copy} {r : LineResult × State}
    (hcp : mfind s.copies (copyKey agent (pa / 128)) = some cp) (hpriv : kd = .priv → cp.write = true)
    (h : s.atOwn agent (pa / 128) op t = some r) : s.sliceOp agent group kd pa op t = some r := by
  unfold State.sliceOp
  cases kd with
  | priv =>
    simp only [State.bringPrivate, hcp, hpriv rfl, if_true, h, Option.getD_some]
  | readonly =>
    simp only [State.bringReadonly, hcp, h, Option.getD_some]
  | _ => exact h

theorem noteNarrow_zero (s : State) (agent line : Nat) : s.noteNarrow agent line 0 = s := by
  unfold State.noteNarrow
  split <;> rfl

section
variable {c : Ctx} {va : DWord} {pa scope : Nat} {kd : PageKind} {op : LineOp} {refile : Bool} {s : State} (hgot : c.got = [])
include hgot

/-- A staging word that has served no operation of the cycle serves the lane's (R254). -/
theorem laneOp_staging (hbusy : s.busyWord pa op.span.2 = false) : laneOp c va pa .staging op scope refile s =
    .ok ((s.stageOp pa op (s.thread c.crew c.lane).time).1, (s.stageOp pa op (s.thread c.crew c.lane).time).2.modThread c.crew c.lane fun t =>
      { t with time := max t.time (s.stageOp pa op (s.thread c.crew c.lane).time).1.ts }) := by
  unfold laneOp
  simp only [hgot, List.find?_nil, hbusy, Bool.false_eq_true, if_false]

/-- Memory outside the order performs the operation (R121). -/
theorem laneOp_unordered (hkind : kd.ordered = false) : laneOp c va pa kd op scope refile s = .ok (s.memRun pa op) := by
  unfold laneOp
  simp only [hgot, List.find?_nil]
  cases kd with
  | io | device => rfl
  | _ => cases hkind

section
variable (hkind : kd.ordered = true) (hstage : kd ≠ .staging)
include hkind hstage

/-- The slice beside the core serves the operation at its copy (R124). -/
theorem laneOp_served {r : LineResult} {u : State} (h : s.sliceOp c.core c.group kd pa op (s.thread c.crew c.lane).time = some (r, u)) :
    laneOp c va pa kd op scope refile s =
      .ok (r, (u.noteNarrow c.core (pa / 128) scope).modThread c.crew c.lane fun t => { t with time := max t.time r.ts }) := by
  unfold laneOp
  simp only [hgot, List.find?_nil]
  cases kd with
  | io | device => cases hkind
  | staging => exact absurd rfl hstage
  | _ => simp only [h]

/-- The slice asks the line's home (R132). -/
theorem laneOp_asks (h : s.sliceOp c.core c.group kd pa op (s.thread c.crew c.lane).time = none) : laneOp c va pa kd op scope refile s =
    .error (.miss (pa / 128) { event := s.requestEvent c.core (pa / 128) op scope, agent := c.core, time := (s.thread c.crew c.lane).time, op := some op }
      va refile) := by
  unfold laneOp
  simp only [hgot, List.find?_nil]
  cases kd with
  | io | device => cases hkind
  | staging => exact absurd rfl hstage
  | _ => simp only [h]

end

end

section
variable {c : Ctx} {va : DWord} {pa n : Nat} {kd : PageKind} {s : State} {b : List Byte} {refile : Bool}

/-- What a load gives that its lane performs at once, and what it leaves. -/
def Loads (c : Ctx) (b : List Byte) (s : State) (x : Except Stop (LineResult × State)) : Prop :=
  ∃ r u, x = .ok (r, u) ∧ r.val = leNat b ∧ r.poison = false ∧ OnlyRead c.crew c.lane s u

theorem loads_staging (h : ReadsNow c n pa .staging b s) : Loads c b s (laneOp c va pa .staging (.load (pa % 128) n) 0 refile s) := by
  obtain ⟨-, -, hgot, hbusy, hpoison, rfl⟩ := h
  exact ⟨_, _, laneOp_staging (op := .load (pa % 128) n) hgot hbusy, rfl, hpoison, onlyRead_rise (max · _) rfl rfl rfl rfl (le_max_left ..)⟩

theorem loads_copy (hkind : kd.ordered = true) (hstage : kd ≠ .staging) (hgot : c.got = [])
    (h : ∃ cp, mfind s.copies (copyKey c.core (pa / 128)) = some cp ∧ (kd = .priv → cp.write = true) ∧
      (cp.leased = false ∨ max (s.thread c.crew c.lane).time cp.wts ≤ cp.rts) ∧ cp.line.bad (pa % 128) n = false ∧ b = cp.line.part (pa % 128) n) :
    Loads c b s (laneOp c va pa kd (.load (pa % 128) n) 0 refile s) := by
  obtain ⟨cp, hcp, hpriv, hlease, hpoison, rfl⟩ := h
  have hserved := laneOp_served (va := va) (scope := 0) (refile := refile) hgot hkind hstage
    (sliceOp_held hcp hpriv (atOwn_load (off := pa % 128) (n := n) hcp hlease))
  rw [noteNarrow_zero] at hserved
  exact ⟨_, _, hserved, rfl, hpoison, onlyRead_rise (max · _) rfl rfl rfl rfl (le_max_left ..)⟩

/-- A load that its lane performs at once gives the bytes, without poison, and leaves all but times as it was. -/
theorem loads_of_readsNow (h : ReadsNow c n pa kd b s) : Loads c b s (laneOp c va pa kd (.load (pa % 128) n) 0 refile s) := by
  obtain ⟨-, -, hgot, hplace⟩ := id h
  have memory : s.poisonedAt pa n = false ∧ b = s.read pa n → kd.ordered = false →
      Loads c b s (laneOp c va pa kd (.load (pa % 128) n) 0 refile s) := by
    rintro ⟨hpoison, rfl⟩ hkind
    exact ⟨_, _, laneOp_unordered hgot hkind, rfl, hpoison, onlyRead_refl ..⟩
  cases kd with
  | staging => exact loads_staging h
  | io | device => exact memory hplace rfl
  | _ => exact loads_copy rfl (by decide) hgot hplace

/-- A load whose line the slice beside the core lacks asks the home for it. -/
theorem laneOp_misses (h : Misses c pa kd s) : laneOp c va pa kd (.load (pa % 128) n) 0 refile s =
    .error (.miss (pa / 128) (c.asks 0 (s.thread c.crew c.lane).time (.load (pa % 128) n)) va refile) := by
  obtain ⟨-, -, hgot, rfl, hnone⟩ := h
  have hslice : s.sliceOp c.core c.group .coherent pa (.load (pa % 128) n) (s.thread c.crew c.lane).time = none := by
    change s.atOwn c.core (pa / 128) _ _ = none
    rw [State.atOwn, hnone]
  rw [laneOp_asks hgot rfl (by decide) hslice, State.requestEvent, hnone]
  rfl

theorem loadMem_reads {t : State} (hacc : access c va (.load n) s = .ok ((pa, kd), t)) (h : ReadsNow c n pa kd b t) :
    ∃ u, loadMem c va n refile s = .ok (leNat b, u) ∧ OnlyRead c.crew c.lane t u := by
  obtain ⟨r, u, hop, hval, hpoison, hread⟩ := loads_of_readsNow (va := va) (refile := refile) h
  obtain ⟨howned, hdevice, -⟩ := h
  refine ⟨u, ?_, hread⟩
  simp only [loadMem, bind_run, hacc, owned, howned, if_true, get_run, if_neg hdevice, hop, clean, hpoison, pure_run, hval]
  rfl

theorem loadMem_misses {t : State} (hacc : access c va (.load n) s = .ok ((pa, kd), t)) (h : Misses c pa kd t) : loadMem c va n refile s =
    .error (.miss (pa / 128) (c.asks 0 (t.thread c.crew c.lane).time (.load (pa % 128) n)) va refile) := by
  obtain ⟨howned, hdevice, -⟩ := id h
  simp only [loadMem, bind_run, hacc, owned, howned, if_true, get_run, if_neg hdevice, laneOp_misses h]

theorem loadMem_stops {e : Stop} (h : access c va (.load n) s = .error e) : loadMem c va n refile s = .error e := by
  rw [loadMem, bind_run, h]

theorem storeMem_stops {e : Stop} {y : Nat} (hgot : c.got = []) (h : access c va (.store n) s = .error e) : storeMem c va y n refile s = .error e := by
  simp only [storeMem, once, hgot, List.find?_nil, bind_run, h]

end

/-! ## The instructions -/

section
variable {i : Instr} {x : Issue} {k l : Nat} {s s2 : State} {body : Ctx → LaneM Unit} {va : DWord} {n : Nat} {f : Nat → Thread → Thread}
  (h : Enters i x k l s) (he : (shapeOf i).entry = true) (hx : exec i s = onThreads (shapeOf i) (quietly body) s)
  (hb : body (s.ctxOf x k l) (s.begun x k l) = (loadMem (s.ctxOf x k l) va n >>= fun y => modMe (s.ctxOf x k l) (f y)) s2)
include h he hx hb

/-- A load instruction that has read its operands in `s2` gives what its lane reads at once, or the slice asks for the line and the lane waits. -/
theorem load_outcome {s3 : State} {pa : Nat} {kd : PageKind} (hread : OperandsRead k l s s2)
    (hacc : access (s.ctxOf x k l) va (.load n) s2 = .ok ((pa, kd), s3)) :
    (∀ bytes, ReadsNow (s.ctxOf x k l) n pa kd bytes s3 → ∃ t, exec i s =
        .next ((t.doneLane (s.ctxOf x k l) (f (leNat bytes))).keepEntries x x.parts) ∧ OnlyRead k l s3 t) ∧
    (Misses (s.ctxOf x k l) pa kd s3 → exec i s = .next ((s.missLane (s.ctxOf x k l) (pa / 128)
      ((s.ctxOf x k l).asks 0 (s.thread k l).time (.load (pa % 128) n)) va false).keepEntries x x.parts)) := by
  constructor
  · intro bytes hnow
    obtain ⟨t, hload, honly⟩ := loadMem_reads (refile := false) hacc hnow
    refine ⟨t, enters_done h he hx ?_, honly⟩
    rw [hb, bind_run, hload]
    rfl
  · intro hmiss
    have htime : (s3.thread k l).time = (s.thread k l).time := by
      rw [State.thread, access_threads hacc]
      exact hread.kept.times.1
    refine enters_misses h he hx ?_
    rw [hb, bind_run, loadMem_misses hacc hmiss, ← htime]
    rfl

/-- A load instruction at an address that is refused traps (R246, R401). -/
theorem load_refused {code : Nat} (hhelper : (s.ctxOf x k l).helper = false) (hn : n ≠ 0)
    (hcode : code = 5 ∧ 2 ^ 56 ≤ va.toNat ∨ code = 6 ∧ va.toNat < 2 ^ 56 ∧ va.toNat % n ≠ 0) :
    exec i s = .next (((s.takeTrap (s.ctxOf x k l) code 0 0 x.pc va).afterInstr (s.ctxOf x k l)).keepEntries x x.parts) := by
  obtain ⟨rfl, hva⟩ | ⟨rfl, hva, hmod⟩ := hcode
  · exact enters_traps h he hx hhelper (by decide) (by rw [hb, bind_run, loadMem_stops (access_address s2 (by simp) hva)])
  · exact enters_traps h he hx hhelper (by decide) (by rw [hb, bind_run, loadMem_stops (access_misaligned s2 (by simp) hva hn hmod)])

end

section
variable {c : Ctx} {b : BitVec 3} {o : BitVec 6} {s s1 : State}

/-- An operand use changes no crew. -/
theorem stepped_crew {t : State} (h : Stepped c s t) (j : Nat) : t.crew j = s.crew j := by
  obtain rfl | ⟨_, rfl⟩ := h <;> rfl

/-- The address of a memory format: the crew's k pair and the offset operand, sign-extended (R246). -/
theorem basePair_of_src {y : Word} (hy : src c o.toNat s = .ok (y, s1)) : basePair c b o s = .ok (mget 0 (s1.crew c.crew).k (2 * b.toNat + 1) ++
    mget 0 (s1.crew c.crew).k (2 * b.toNat) + BitVec.ofInt 64 y.toInt, s1) := by
  rw [basePair, bind_run, hy]
  rfl

/-- Reading the address reads the offset operand and the crew, and steps at most an index register. -/
theorem basePair_ok {va : DWord} (h : basePair c b o s = .ok (va, s1)) : Stepped c s s1 := by
  rw [basePair, bind_run] at h
  split at h
  · next hy =>
    cases h
    exact src_ok hy
  · cases h

end

/-! ## LD.b, LD.h and LD.w -/

section
variable {i : Instr} {x : Issue} {k l n : Nat} {s s1 s2 : State} {b : BitVec 3} {o d : BitVec 6} {va : DWord} {pl : Place_}
  (h : Enters i x k l s) (he : (shapeOf i).entry = true) (hx : exec i s = loadWord i n b o d s)
  (hva : basePair (s.ctxOf x k l) b o (s.begun x k l) = .ok (va, s1)) (hd : dst (s.ctxOf x k l) d.toNat 1 s1 = .ok (pl, s2))

/-- What the lane computes. -/
def loadWordBody (n : Nat) (b : BitVec 3) (o d : BitVec 6) (c : Ctx) : LaneM Unit := do
  let va ← basePair c b o
  let pl ← dst c d.toNat 1
  let y ← loadMem c va n
  put c pl (BitVec.ofNat 32 y)

include hva hd in
/-- Once the operands are read, the computation is one load. -/
theorem loadWordBody_run : loadWordBody n b o d (s.ctxOf x k l) (s.begun x k l) =
    (loadMem (s.ctxOf x k l) va n >>= fun y => modMe (s.ctxOf x k l) fun u => u.giveW pl (BitVec.ofNat 32 y)) s2 := by
  rw [loadWordBody, bind_run, hva]
  dsimp only
  rw [bind_run, hd]
  rfl

include h he hx hva hd

theorem loadWord_outcome {s3 : State} {pa : Nat} {kd : PageKind} (hacc : access (s.ctxOf x k l) va (.load n) s2 = .ok ((pa, kd), s3)) :
    (∀ bytes, ReadsNow (s.ctxOf x k l) n pa kd bytes s3 → ∃ t, exec i s =
        .next ((t.doneLane (s.ctxOf x k l) fun u => u.giveW pl (BitVec.ofNat 32 (leNat bytes))).keepEntries x x.parts) ∧ OnlyRead k l s3 t) ∧
    (Misses (s.ctxOf x k l) pa kd s3 → exec i s = .next ((s.missLane (s.ctxOf x k l) (pa / 128)
      ((s.ctxOf x k l).asks 0 (s.thread k l).time (.load (pa % 128) n)) va false).keepEntries x x.parts)) :=
  load_outcome (f := fun y u => u.giveW pl (BitVec.ofNat 32 y)) h he hx (loadWordBody_run hva hd)
    (((OperandsRead.begun s x k l).step (basePair_ok hva)).step (dst_ok hd).1) hacc

theorem loadWord_refused {code : Nat} (hhelper : (s.ctxOf x k l).helper = false) (hn : n ≠ 0)
    (hcode : code = 5 ∧ 2 ^ 56 ≤ va.toNat ∨ code = 6 ∧ va.toNat < 2 ^ 56 ∧ va.toNat % n ≠ 0) :
    exec i s = .next (((s.takeTrap (s.ctxOf x k l) code 0 0 x.pc va).afterInstr (s.ctxOf x k l)).keepEntries x x.parts) :=
  load_refused (f := fun y u => u.giveW pl (BitVec.ofNat 32 y)) h he hx (loadWordBody_run hva hd) hhelper hn hcode

end

/-! ## LD.d and LD.q -/

/-- Four registers of a lane that holds none are waited for no longer (R273). -/
theorem awaitFour_free {c : Ctx} {s : State} (h : (s.thread c.crew c.lane).hold = 0) (r : Nat) : awaitFour c r s = .ok ((), s) := by
  have hfree : ∀ r, awaitHold c (s.thread c.crew c.lane) r s = .ok ((), s) := fun r => awaitHold_free (.inl (by simp [Thread.held, h]))
  simp only [awaitFour, srcQ, bind_run, me_run, hfree, pure_run]

section
variable {x : Issue} {k l : Nat} {s s1 : State} {i : BitVec 4} {b : BitVec 3} {o : BitVec 6} {n : BitVec 1} {p : BitVec 4} {va : DWord} {pa : Nat}
  {kd : PageKind} (hva : basePair (s.ctxOf x k l) b o (s.begun x k l) = .ok (va, s1))
include hva

theorem loadPair_outcome {d : BitVec 6} {s2 s3 : State} {pl : Place_} (h : Enters (.ldD i b o d n p) x k l s)
    (hd : dst (s.ctxOf x k l) d.toNat 2 s1 = .ok (pl, s2)) (hacc : access (s.ctxOf x k l) va (.load 8) s2 = .ok ((pa, kd), s3)) :
    (∀ bytes, ReadsNow (s.ctxOf x k l) 8 pa kd bytes s3 → ∃ t, exec (.ldD i b o d n p) s =
        .next ((t.doneLane (s.ctxOf x k l) fun u => u.giveD pl (BitVec.ofNat 64 (leNat bytes))).keepEntries x x.parts) ∧ OnlyRead k l s3 t) ∧
    (Misses (s.ctxOf x k l) pa kd s3 → exec (.ldD i b o d n p) s = .next ((s.missLane (s.ctxOf x k l) (pa / 128)
      ((s.ctxOf x k l).asks 0 (s.thread k l).time (.load (pa % 128) 8)) va false).keepEntries x x.parts)) := by
  refine load_outcome (f := fun y u => u.giveD pl (BitVec.ofNat 64 y)) h rfl (rfl : _ = execLdD i b o d n p s) ?_
    (((OperandsRead.begun s x k l).step (basePair_ok hva)).step (dst_ok hd).1) hacc
  rw [bind_run, hva]
  dsimp only
  rw [bind_run, hd]
  rfl

/-- Four named registers, and the queue, that are given 16 bytes. -/
def giveFour (d y : Nat) (u : Thread) : Thread :=
  let w := fun j => BitVec.ofNat 32 (natBits y (32 * j) 32)
  let u := (((u.setReg d (w 0)).setReg (d + 1) (w 1)).setReg (d + 2) (w 2)).setReg (d + 3) (w 3)
  (((u.push (w 0)).push (w 1)).push (w 2)).push (w 3)

theorem loadFour_outcome {d : BitVec 3} {s3 : State} (h : Enters (.ldQ i b o d n p) x k l s) (hhold : (s1.thread k l).hold = 0)
    (hacc : access (s.ctxOf x k l) va (.load 16) s1 = .ok ((pa, kd), s3)) :
    (∀ bytes, ReadsNow (s.ctxOf x k l) 16 pa kd bytes s3 → ∃ t, exec (.ldQ i b o d n p) s =
        .next ((t.doneLane (s.ctxOf x k l) (giveFour (4 * d.toNat) (leNat bytes))).keepEntries x x.parts) ∧ OnlyRead k l s3 t) ∧
    (Misses (s.ctxOf x k l) pa kd s3 → exec (.ldQ i b o d n p) s = .next ((s.missLane (s.ctxOf x k l) (pa / 128)
      ((s.ctxOf x k l).asks 0 (s.thread k l).time (.load (pa % 128) 16)) va false).keepEntries x x.parts)) := by
  refine load_outcome (f := giveFour (4 * d.toNat)) h rfl (rfl : _ = execLdQ i b o d n p s) ?_
    ((OperandsRead.begun s x k l).step (basePair_ok hva)) hacc
  rw [bind_run, hva]
  dsimp only
  rw [bind_run, awaitFour_free (c := s.ctxOf x k l) hhold]
  rfl

end

/-! ## The statement -/

/-- Settles O29: each instruction is one load after its operands, which its lane performs at once or has to ask for. -/
theorem loadResults : Obligations.LoadResults := by
  unfold Obligations.LoadResults
  refine ⟨?_, ?_, ?_, ?_, ?_, ?_, ?_, ?_, ?_⟩
  · rintro e he i b o d n p x k l s _ s1 s2 s3 va pl pa kd h rfl hva hd hacc
    simp only [List.mem_cons, List.not_mem_nil, or_false] at he
    obtain rfl | rfl | rfl := he
    · exact loadWord_outcome h rfl (rfl : _ = execLdB i b o d n p s) hva hd hacc
    · exact loadWord_outcome h rfl (rfl : _ = execLdH i b o d n p s) hva hd hacc
    · exact loadWord_outcome h rfl (rfl : _ = execLdW i b o d n p s) hva hd hacc
  · rintro i b o d n p x k l s _ s1 s2 s3 va pl pa kd h rfl hva hd hacc
    exact loadPair_outcome hva h hd hacc
  · rintro i b o d n p x k l s _ s1 s3 va pa kd h rfl hva hhold hacc
    exact loadFour_outcome hva h hhold hacc
  · intro b o c s s1 y hy
    rw [basePair_of_src hy, stepped_crew (src_ok hy)]
  · intro s pa n hwf
    rw [read_eq hwf]
    exact ⟨by simp, fun j hj => by simp [hj]⟩
  · intro c va n s hva hn hmod
    have hn : n ≠ 0 := by rintro rfl; simp at hn
    exact ⟨loadMem_stops (access_misaligned s (by simp) hva hn hmod), fun hgot _ => storeMem_stops hgot (access_misaligned s (by simp) hva hn hmod)⟩
  · exact fun c va n s t pa kd bytes hacc hnow => loadMem_reads hacc hnow
  · exact fun c va n s hva => ⟨loadMem_stops (access_address s (by simp) hva), fun hgot _ => storeMem_stops hgot (access_address s (by simp) hva)⟩
  · rintro e he i b o d n p x k l s _ s1 s2 va pl code h rfl hhelper hva hd hcode
    simp only [List.mem_cons, List.not_mem_nil, or_false] at he
    obtain rfl | rfl | rfl := he
    · exact loadWord_refused h rfl (rfl : _ = execLdB i b o d n p s) hva hd hhelper (by decide) hcode
    · exact loadWord_refused h rfl (rfl : _ = execLdH i b o d n p s) hva hd hhelper (by decide) hcode
    · exact loadWord_refused h rfl (rfl : _ = execLdW i b o d n p s) hva hd hhelper (by decide) hcode

end Sys2Proof.Proofs.MemorySync
end

section
/-! PROOFS. Tagged operations and WAITV at a word that their lane reaches: what the word's slice or home does, and when the lane waits (R88, R110, R252,
R253, R254). -/

namespace Sys2Proof.Proofs.MemorySync

open Sys2Proof Sys2Proof.Machine Sys2Proof.Laws Sys2Proof.Proofs.ThreadState Sys2Proof.Proofs.EncodingAssembly

/-! ## An attempt at a word -/

/-- Whether a word is as a tagged operation or WAITV with data `y` waits for it: empty, changed from `y`, or full (R252). -/
def wordReady (e : WaitKind) (s : State) (w y : Word) (pa : Nat) : Bool :=
  match e with
  | .ste => !s.isFull pa
  | .waitv => w != y
  | _ => s.isFull pa

/-- LDF and LDFK wait for full. -/
theorem wordReady_full {e : WaitKind} (hste : e ≠ .ste) (hwaitv : e ≠ .waitv) (s : State) (w y : Word) (pa : Nat) :
    wordReady e s w y pa = s.isFull pa := by
  unfold wordReady
  split
  · exact absurd rfl hste
  · exact absurd rfl hwaitv
  · rfl

/-- What the operation does to a word that is ready (R252). -/
def performWord (e : WaitKind) (c : Ctx) (pa : Nat) (w y : Word) (pl : Place_) : LaneM Unit :=
  if e = .ste then do
    let _ ← tagLane c pa (some y.toNat) (some true)
  else if !(region pa == .staging) then do
    watchLane c pa
    put c pl w
  else do
    let _ ← tagLane c pa none (if e = .ldf then some false else none)
    put c pl w

/-- The first attempt of a lane that has resolved the address: it waits for the slice, or for the word to be ready, or is made (R253, R254). -/
def attemptWord (e : WaitKind) (b : BitVec 3) (o d : BitVec 6) (c : Ctx) (va : DWord) (y : Word) (pl : Place_) (pa : Nat) : LaneM Unit := do
  let s ← get
  if region pa == .staging && (!s.present pa || s.busyWord pa 4) then stop (.wait { kind := .slice, addr := va, key := pa / 4 })
  else do
    cleanWord pa
    if !wordReady e s (s.wordNow c pa) y pa then
      stop (.wait { kind := e, addr := va, key := pa, data := d, off := o, base := b, old := y.toNat })
    else performWord e c pa (s.wordNow c pa) y pl

/-- The operation of a lane that has read its operands (R248, R252). -/
def afterOperands (e : WaitKind) (b : BitVec 3) (o d : BitVec 6) (c : Ctx) (va : DWord) (y : Word) (pl : Place_) : LaneM Unit :=
  if c.helper then if e = .ste then pure () else put c pl 0
  else do
    let (pa, _) ← access c va (if e = .waitv then .waitv else .tagged)
    owned pa va
    attemptWord e b o d c va y pl pa

/-- Once the operands are read, the first attempt follows. -/
theorem tagged_run {e : WaitKind} {b : BitVec 3} {o d : BitVec 6} {c : Ctx} {s s1 s2 s3 : State} {va : DWord} {y : Word} {pl : Place_}
    (hva : basePair c b o s = .ok (va, s1)) (hy : (if e = .ste ∨ e = .waitv then src c d.toNat else pure 0) s1 = .ok (y, s2))
    (hd : (if e = .ste then pure Place_.queue else dst c d.toNat 1) s2 = .ok (pl, s3)) :
    tagged e b o d none c s = afterOperands e b o d c va y pl s3 := by
  simp only [tagged, bind_run, hva, Bool.or_eq_true, beq_iff_eq]
  by_cases hste : e = .ste
  · simp only [hste, true_or, if_true] at hy hd ⊢
    cases hd
    rw [bind_run, hy]
    rfl
  · simp only [hste, false_or, if_false] at hy hd ⊢
    by_cases hwaitv : e = .waitv
    · simp only [hwaitv, if_true] at hy ⊢
      rw [bind_run, hy]
      dsimp only
      rw [bind_run, hd]
      rfl
    · simp only [hwaitv, if_false] at hy ⊢
      cases hy
      rw [bind_run, pure_run]
      dsimp only
      rw [bind_run, hd]
      simp only [afterOperands, attemptWord, performWord, wordReady_full hste hwaitv, hste, hwaitv, if_false]
      rfl

section
variable {e : WaitKind} {b : BitVec 3} {o d : BitVec 6} {c : Ctx} {va : DWord} {y : Word} {pl : Place_} {s : State}

/-- A helper's operation gives zero where it gives anything (R248). -/
theorem afterOperands_helper (h : c.helper = true) : afterOperands e b o d c va y pl s = if e = .ste then .ok ((), s) else put c pl 0 s := by
  rw [afterOperands, if_pos h]
  split <;> rfl

section
variable (hhelper : c.helper = false)
include hhelper

theorem afterOperands_stops {z : Stop} (h : access c va (if e = .waitv then .waitv else .tagged) s = .error z) :
    afterOperands e b o d c va y pl s = .error z := by
  rw [afterOperands, if_neg (by simp [hhelper]), bind_run, h]

/-- At a word of this core the attempt is made. -/
theorem afterOperands_run {t : State} {pa : Nat} {kd : PageKind} (h : access c va (if e = .waitv then .waitv else .tagged) s = .ok ((pa, kd), t))
    (howned : t.coreOwned pa = true) : afterOperands e b o d c va y pl s = attemptWord e b o d c va y pl pa t := by
  rw [afterOperands, if_neg (by simp [hhelper]), bind_run, h]
  simp only [bind_run, owned, howned, if_true]

end

variable {pa : Nat}

/-- A staging word whose slice has served an operation of the cycle (R254). -/
theorem attemptWord_busy (hregion : region pa = .staging) (hbusy : s.busyWord pa 4 = true) :
    attemptWord e b o d c va y pl pa s = .error (.wait { kind := .slice, addr := va, key := pa / 4 }) := by
  simp only [attemptWord, bind_run, get_run, hregion, beq_self_eq_true, hbusy, Bool.or_true, Bool.and_self, if_true, stop_run]

/-- A word that the lane reaches: in staging present and served by nothing else in the cycle, and without poison. -/
def Reached (pa : Nat) (s : State) : Prop :=
  (region pa = .staging → s.present pa = true ∧ s.busyWord pa 4 = false) ∧ s.peekBad pa 4 = false

/-- A word that the lane reaches is operated on where it is ready, and waited for where it is not. -/
theorem attemptWord_reached (h : Reached pa s) : attemptWord e b o d c va y pl pa s =
    if wordReady e s (s.wordNow c pa) y pa = true then performWord e c pa (s.wordNow c pa) y pl s
    else .error (.wait { kind := e, addr := va, key := pa, data := d, off := o, base := b, old := y.toNat }) := by
  obtain ⟨hstaging, hclean⟩ := h
  have hslice : ¬ (region pa == .staging && (!s.present pa || s.busyWord pa 4)) = true := by
    simp only [Bool.and_eq_true, beq_iff_eq, Bool.or_eq_true, Bool.not_eq_true']
    rintro ⟨hregion, hwait⟩
    obtain ⟨hpresent, hbusy⟩ := hstaging hregion
    simp [hpresent, hbusy] at hwait
  rw [attemptWord, bind_run, get_run]
  simp only [if_neg hslice, bind_run, cleanWord, hclean, Bool.false_eq_true, if_false, Bool.not_eq_true', ite_run, stop_run]
  cases wordReady e s (s.wordNow c pa) y pa <;> rfl

end

/-! ## What an operation does to its staging word -/

theorem mget_mdel {α : Type} (v : α) (m : Map α) (q j : Nat) : mget v (mdel m q) j = if j = q then v else mget v m j := by
  split
  · next h => rw [mget, h, mfind_mdel_same, Option.getD_none]
  · next h => rw [mget, mfind_mdel_other m h, mget]

theorem isFull_setFull (s : State) (pa q : Nat) (full : Bool) : (s.setFull pa full).isFull q = if q / 4 = pa / 4 then full else s.isFull q := by
  cases full with
  | true => exact mget_mset false s.full (pa / 4) (q / 4) true
  | false => exact mget_mdel false s.full (pa / 4) (q / 4)

theorem length_leBytes (x n : Nat) : (leBytes x n).length = n := by
  induction n generalizing x with
  | zero => rfl
  | succ n ih => rw [leBytes, List.length_cons, ih]

/-- The bytes of a number, the lowest first. -/
theorem leBytes_getD (x : Nat) {n j : Nat} (h : j < n) : ((leBytes x n).getD j 0).toNat = x / 2 ^ (8 * j) % 256 := by
  induction n generalizing x j with
  | zero => cases h
  | succ n ih =>
    rw [leBytes]
    cases j with
    | zero => simp
    | succ j =>
      rw [List.getD_cons_succ, ih _ (by omega), Nat.div_div_eq_div_mul, show 8 * (j + 1) = 8 + 8 * j by omega, pow_add]
      rfl

/-- A word that holds no poison is stored, and the tag of its granule cleared (R101). -/
theorem writeNat_word {s : State} {pa : Nat} (x : Nat) (halign : pa % 4 = 0) (hclean : s.poisonedAt pa 4 = false) :
    s.writeNat pa x 4 = { s with mem := memPuts s.mem pa (leBytes x 4) }.setTag (pa / 16) false := by
  have hgranule : mget false s.poison (pa / 16) = false := by
    rw [State.poisonedAt, granules, if_neg (by decide), show pa + 4 - 1 = pa + 3 by omega, show (pa + 3) / 16 = pa / 16 by omega] at hclean
    simpa using hclean
  have hlength := length_leBytes x 4
  have htake : (leBytes x 4).take (16 - pa % 16) = leBytes x 4 := List.take_of_length_le (by omega)
  have hdrop : (leBytes x 4).drop (16 - pa % 16) = [] := List.drop_of_length_le (by omega)
  have hsome : (leBytes x 4).isEmpty = false := rfl
  have hpart : (leBytes x 4).length ≠ 16 := by omega
  rw [State.writeNat, State.write, hlength, State.writeGranules]
  simp only [hsome, htake, hdrop, State.writeGranule, if_neg hpart, hgranule, Bool.false_eq_true, if_false]
  rfl

section
variable (c : Ctx) (pa : Nat) (s : State)

theorem tagLane_run (val : Option Nat) (full : Option Bool) : tagLane c pa val full s =
    .ok ((s.tagOp pa val full (s.thread c.crew c.lane).time).1.val, (s.tagOp pa val full (s.thread c.crew c.lane).time).2.modThread c.crew c.lane
      fun t => { t with time := (s.tagOp pa val full (s.thread c.crew c.lane).time).1.ts }) := rfl

/-- A load of the word leaves it and its bit. -/
theorem tagLane_reads : ∃ v u, tagLane c pa none none s = .ok (v, u) ∧ OnlyRead c.crew c.lane s u ∧ u.full = s.full :=
  ⟨_, _, rfl, onlyRead_rise (fun _ => _) rfl rfl rfl rfl (le_max_left ..), rfl⟩

/-- An operation on the bit alone leaves the word. -/
theorem tagLane_marks (full : Bool) : ∃ v u, tagLane c pa none (some full) s = .ok (v, u) ∧ OnlyBit c.crew c.lane pa full s u := by
  refine ⟨_, _, rfl, (isFull_setFull s pa pa full).trans (if_pos rfl), fun q hq => (isFull_setFull s pa q full).trans (if_neg hq), fun _ => rfl,
    (mget_mdel false s.tags (pa / 16) (pa / 16)).trans (if_pos rfl), fun g hg => (mget_mdel false s.tags (pa / 16) g).trans (if_neg hg), rfl,
    fun j hj => mfind_mset_other _ _ hj, ?_⟩
  rw [State.modThread_thread]
  rfl

variable {pa s}

theorem tagOp_fills {x : Nat} (halign : pa % 4 = 0) (hclean : s.poisonedAt pa 4 = false) (t : Nat) : (s.tagOp pa (some x) (some true) t).2 =
    (({ (s.stageEnter pa false t).2 with mem := memPuts s.mem pa (leBytes x 4) }.setTag (pa / 16) false).setFull pa true).touch pa 4 :=
  congrArg (fun w : State => (w.setFull pa true).touch pa 4) (writeNat_word (s := (s.stageEnter pa false t).2) x halign hclean)

/-- A store of the word sets its bit. -/
theorem tagLane_fills (x : Nat) (halign : pa % 4 = 0) (hclean : s.poisonedAt pa 4 = false) : ∃ v u, tagLane c pa (some x) (some true) s = .ok (v, u) ∧
    StoresAt c.crew c.lane pa 4 x s u ∧ u.isFull pa = true ∧ ∀ q, q / 4 ≠ pa / 4 → u.isFull q = s.isFull q := by
  have hlength := length_leBytes x 4
  have hgranule : ∀ j < 4, (pa + j) / 16 = pa / 16 := fun j hj => by omega
  refine ⟨_, _, tagLane_run c pa s _ _, ?_⟩
  rw [tagOp_fills halign hclean]
  refine ⟨⟨fun j hj => ?_, fun j hj => ?_, fun a ha => (memGet_memPuts s.mem pa (leBytes x 4) a).trans (if_neg (by omega)),
    fun g hg => (mget_mdel false s.tags (pa / 16) g).trans (if_neg (hg 0 (by decide))), rfl, fun j hj => mfind_mset_other _ _ hj, ?_⟩,
    (isFull_setFull s pa pa true).trans (if_pos rfl), fun q hq => (isFull_setFull s pa q true).trans (if_neg hq)⟩
  · rw [← leBytes_getD x hj]
    refine congrArg BitVec.toNat ((memGet_memPuts s.mem pa (leBytes x 4) (pa + j)).trans ?_)
    rw [if_pos (by omega), Nat.add_sub_cancel_left]
  · rw [hgranule j hj]
    exact (mget_mdel false s.tags (pa / 16) (pa / 16)).trans (if_pos rfl)
  · rw [State.modThread_thread]
    rfl

end

/-- A load at a line's home leaves the bytes, tags, full bits, crews and threads. -/
theorem loadHome_leaves (s : State) (pa : Nat) (op : LineOp) (t : Nat) : (s.loadHome pa op t).2.tags = s.tags ∧ (s.loadHome pa op t).2.full = s.full ∧
    (s.loadHome pa op t).2.crews = s.crews ∧ (s.loadHome pa op t).2.threads = s.threads := by
  unfold State.loadHome State.noteLoad State.stampHome State.holdHost
  dsimp only
  split <;> split <;> split <;> exact ⟨rfl, rfl, rfl, rfl⟩

section
variable {c : Ctx} {pa : Nat} {s : State} {w y : Word} {pl : Place_}

section
variable (hgot : c.got = [])
include hgot

theorem watchLane_run : watchLane c pa s = .ok ((), (s.loadHome pa (.load (pa % 128) 4) (s.thread c.crew c.lane).time).2.modThread c.crew c.lane
    fun t => { t with time := (s.loadHome pa (.load (pa % 128) 4) (s.thread c.crew c.lane).time).1.ts }) := by
  simp only [watchLane, hgot, List.find?_nil]

/-- The home performs a load of the word that WAITV watches, and changes nothing but times and the leases of copies (R253). -/
theorem watchLane_reads : ∃ u, watchLane c pa s = .ok ((), u) ∧ OnlyRead c.crew c.lane s u ∧ u.full = s.full := by
  obtain ⟨htags, hfull, hcrews, hthreads⟩ := loadHome_leaves s pa (.load (pa % 128) 4) (s.thread c.crew c.lane).time
  exact ⟨_, watchLane_run hgot, onlyRead_rise (fun _ => _) (loadHome_mem ..) htags hcrews hthreads (le_max_left ..), hfull⟩

/-- LDFK and WAITV give the word and leave it and its bit. -/
theorem performWord_reads {e : WaitKind} (hste : e ≠ .ste) (hldf : e ≠ .ldf) : ∃ u, performWord e c pa w y pl s = put c pl w u ∧
    OnlyRead c.crew c.lane s u ∧ u.full = s.full := by
  rw [performWord, if_neg hste, if_neg hldf]
  split
  · obtain ⟨u, hrun, hread⟩ := watchLane_reads (pa := pa) (s := s) hgot
    exact ⟨u, by rw [bind_run, hrun], hread⟩
  · obtain ⟨_, u, hrun, hread⟩ := tagLane_reads c pa s
    exact ⟨u, by rw [bind_run, hrun], hread⟩

theorem wordNow_fresh : s.wordNow c pa = BitVec.ofNat 32 (s.peekNat pa 4) := by
  rw [State.wordNow, hgot, List.find?_nil]

end

/-- LDF gives the word and leaves it empty. -/
theorem performWord_empties (hregion : region pa = .staging) : ∃ u, performWord .ldf c pa w y pl s = put c pl w u ∧
    OnlyBit c.crew c.lane pa false s u := by
  obtain ⟨_, u, hrun, hbit⟩ := tagLane_marks c pa s false
  refine ⟨u, ?_, hbit⟩
  rw [performWord, if_neg (by decide), if_neg (by simp [hregion]), if_pos rfl, bind_run, hrun]

/-- STE stores its data and leaves the word full. -/
theorem performWord_fills (halign : pa % 4 = 0) (hclean : s.poisonedAt pa 4 = false) : ∃ u, performWord .ste c pa w y pl s = .ok ((), u) ∧
    StoresAt c.crew c.lane pa 4 y.toNat s u ∧ u.isFull pa = true ∧ ∀ q, q / 4 ≠ pa / 4 → u.isFull q = s.isFull q := by
  obtain ⟨_, u, hrun, hstores⟩ := tagLane_fills c y.toNat halign hclean
  refine ⟨u, ?_, hstores⟩
  rw [performWord, if_pos rfl, bind_run, hrun]
  rfl

/-- A staging word is one of this core, and found so it is reached (R89, R254). -/
theorem reached_of_findsWord (h : FindsWord c pa s) : s.coreOwned pa = true ∧ Reached pa s := by
  obtain ⟨hregion, -, hbusy, hpresent, hclean⟩ := h
  exact ⟨by simp [State.coreOwned, hregion], fun _ => ⟨hpresent, hbusy⟩, hclean⟩

end

/-! ## LDF, LDFK, STE and WAITV -/

section
variable {i : Instr} {x : Issue} {k l : Nat} {s s1 s2 s3 : State} {e : WaitKind} {b : BitVec 3} {o d : BitVec 6} {va : DWord} {y : Word} {pl : Place_}
  (h : Enters i x k l s) (he : (shapeOf i).entry = true) (hx : exec i s = taggedInstr i e b o d s)
  (hva : basePair (s.ctxOf x k l) b o (s.begun x k l) = .ok (va, s1))
  (hy : (if e = .ste ∨ e = .waitv then src (s.ctxOf x k l) d.toNat else pure 0) s1 = .ok (y, s2))
  (hd : (if e = .ste then pure Place_.queue else dst (s.ctxOf x k l) d.toNat 1) s2 = .ok (pl, s3))
include h he hx hva hy hd

theorem taggedInstr_helper (hhelper : (s.ctxOf x k l).helper = true) (hste : e ≠ .ste) :
    exec i s = .next ((s3.doneLane (s.ctxOf x k l) fun u => u.giveW pl 0).keepEntries x x.parts) :=
  enters_done h he hx (by rw [tagged_run hva hy hd, afterOperands_helper hhelper, if_neg hste]; rfl)

section
variable (hhelper : (s.ctxOf x k l).helper = false)
include hhelper

theorem taggedInstr_waits {w : Wait} (hacc : access (s.ctxOf x k l) va (if e = .waitv then .waitv else .tagged) s3 = .error (.wait w)) :
    exec i s = .next ((s.deschedule k l w).keepEntries x x.parts) :=
  enters_waits h he hx hhelper (by rw [access_wait hacc]; decide) (by rw [tagged_run hva hy hd, afterOperands_stops hhelper hacc])

variable {s4 : State} {pa : Nat} {kd : PageKind}
  (hacc : access (s.ctxOf x k l) va (if e = .waitv then .waitv else .tagged) s3 = .ok ((pa, kd), s4)) (howned : s4.coreOwned pa = true)
include hacc howned

theorem taggedInstr_busy (hregion : region pa = .staging) (hbusy : s4.busyWord pa 4 = true) :
    exec i s = .next ((s.deschedule k l { kind := .slice, addr := va, key := pa / 4 }).keepEntries x x.parts) :=
  enters_waits h he hx hhelper (by simp) (by rw [tagged_run hva hy hd, afterOperands_run hhelper hacc howned, attemptWord_busy hregion hbusy])

variable (hreached : Reached pa s4)
include hreached

theorem taggedInstr_unready (hkind : e ≠ .heldReg) (hready : wordReady e s4 (s4.wordNow (s.ctxOf x k l) pa) y pa = false) :
    exec i s = .next ((s.deschedule k l { kind := e, addr := va, key := pa, data := d, off := o, base := b, old := y.toNat }).keepEntries x x.parts) :=
  enters_waits h he hx hhelper hkind (by
    rw [tagged_run hva hy hd, afterOperands_run hhelper hacc howned, attemptWord_reached hreached, if_neg (by simp [hready])])

theorem taggedInstr_gives {u : State} (hready : wordReady e s4 (s4.wordNow (s.ctxOf x k l) pa) y pa = true)
    (hperform : performWord e (s.ctxOf x k l) pa (s4.wordNow (s.ctxOf x k l) pa) y pl s4 = put (s.ctxOf x k l) pl (s4.wordNow (s.ctxOf x k l) pa) u) :
    exec i s = .next ((u.doneLane (s.ctxOf x k l) fun v => v.giveW pl (s4.wordNow (s.ctxOf x k l) pa)).keepEntries x x.parts) :=
  enters_done h he hx (by
    rw [tagged_run hva hy hd, afterOperands_run hhelper hacc howned, attemptWord_reached hreached, if_pos hready, hperform]
    rfl)

theorem taggedInstr_done {u : State} (hready : wordReady e s4 (s4.wordNow (s.ctxOf x k l) pa) y pa = true)
    (hperform : performWord e (s.ctxOf x k l) pa (s4.wordNow (s.ctxOf x k l) pa) y pl s4 = .ok ((), u)) :
    exec i s = .next ((u.afterInstr (s.ctxOf x k l)).keepEntries x x.parts) :=
  enters_done h he hx (by
    rw [tagged_run hva hy hd, afterOperands_run hhelper hacc howned, attemptWord_reached hreached, if_pos hready, hperform])

end

end

/-! ## STF and SETE -/

section
variable {c : Ctx} {va : DWord} {z : Option Word} {s : State}

theorem tagStore_helper (hhelper : c.helper = true) : tagStore c va z s = .ok ((), s) := by
  rw [tagStore, if_pos hhelper]
  rfl

section
variable {t : State} {pa : Nat} {kd : PageKind} (hhelper : c.helper = false) (hacc : access c va .tagged s = .ok ((pa, kd), t))
include hhelper hacc

theorem tagStore_busy (hbusy : t.busyWord pa 4 = true) : tagStore c va z s = .error (.wait { kind := .slice, addr := va, key := pa / 4 }) := by
  simp only [tagStore, hhelper, Bool.false_eq_true, if_false, bind_run, hacc, get_run, hbusy, if_true, stop_run]

/-- A word that has served nothing else in the cycle, and holds no poison, is operated on at once, be it full or empty (R252). -/
theorem tagStore_run (hbusy : t.busyWord pa 4 = false) (hclean : t.peekBad pa 4 = false) {v : Nat} {u : State}
    (hrun : tagLane c pa (z.map BitVec.toNat) (some z.isSome) t = .ok (v, u)) : tagStore c va z s = .ok ((), u) := by
  simp only [tagStore, hhelper, Bool.false_eq_true, if_false, bind_run, hacc, get_run, hbusy, cleanWord, hclean, hrun, pure_run]

end

end

section
variable {i : Instr} {x : Issue} {k l : Nat} {s s2 : State} {body : Ctx → LaneM Unit} {va : DWord} {z : Option Word}
  (h : Enters i x k l s) (he : (shapeOf i).entry = true) (hx : exec i s = onThreads (shapeOf i) (quietly body) s)
  (hb : body (s.ctxOf x k l) (s.begun x k l) = tagStore (s.ctxOf x k l) va z s2)
include h he hx hb

theorem storeTagged_helper (hhelper : (s.ctxOf x k l).helper = true) :
    exec i s = .next ((s2.afterInstr (s.ctxOf x k l)).keepEntries x x.parts) :=
  enters_done h he hx (by rw [hb, tagStore_helper hhelper])

section
variable {s3 : State} {pa : Nat} {kd : PageKind} (hhelper : (s.ctxOf x k l).helper = false)
  (hacc : access (s.ctxOf x k l) va .tagged s2 = .ok ((pa, kd), s3))
include hhelper hacc

theorem storeTagged_busy (hbusy : s3.busyWord pa 4 = true) :
    exec i s = .next ((s.deschedule k l { kind := .slice, addr := va, key := pa / 4 }).keepEntries x x.parts) :=
  enters_waits h he hx hhelper (by simp) (by rw [hb, tagStore_busy hhelper hacc hbusy])

theorem storeTagged_done (hfinds : FindsWord (s.ctxOf x k l) pa s3) {v : Nat} {u : State}
    (hrun : tagLane (s.ctxOf x k l) pa (z.map BitVec.toNat) (some z.isSome) s3 = .ok (v, u)) :
    exec i s = .next ((u.afterInstr (s.ctxOf x k l)).keepEntries x x.parts) := by
  obtain ⟨-, -, hbusy, -, hclean⟩ := hfinds
  exact enters_done h he hx (by rw [hb, tagStore_run hhelper hacc hbusy hclean hrun])

end

end

/-! ## The instructions -/

section
variable {i : Instr} {x : Issue} {k l : Nat} {s s1 s2 : State} {e : WaitKind} {b : BitVec 3} {o d : BitVec 6} {va : DWord} {pl : Place_}

/-- LDF and LDFK: the word is given where it is full, and waited for where it is empty. -/
theorem taggedLoad_outcome (h : Enters i x k l s) (he : (shapeOf i).entry = true) (hx : exec i s = taggedInstr i e b o d s)
    (hload : e = .ldf ∨ e = .ldfk)
    (hva : basePair (s.ctxOf x k l) b o (s.begun x k l) = .ok (va, s1)) (hd : dst (s.ctxOf x k l) d.toNat 1 s1 = .ok (pl, s2)) :
    ((s.ctxOf x k l).helper = true → exec i s = .next ((s2.doneLane (s.ctxOf x k l) fun u => u.giveW pl 0).keepEntries x x.parts)) ∧
    (∀ w, (s.ctxOf x k l).helper = false → access (s.ctxOf x k l) va .tagged s2 = .error (.wait w) → exec i s =
      .next ((s.deschedule k l w).keepEntries x x.parts)) ∧
    (∀ pa kd s3, (s.ctxOf x k l).helper = false → access (s.ctxOf x k l) va .tagged s2 = .ok ((pa, kd), s3) →
      (region pa = .staging → s3.coreOwned pa = true → s3.busyWord pa 4 = true → exec i s =
        .next ((s.deschedule k l { kind := .slice, addr := va, key := pa / 4 }).keepEntries x x.parts)) ∧
      (FindsWord (s.ctxOf x k l) pa s3 → s3.isFull pa = false → exec i s =
        .next ((s.deschedule k l { kind := e, addr := va, key := pa, data := d, off := o, base := b }).keepEntries x x.parts)) ∧
      (FindsWord (s.ctxOf x k l) pa s3 → s3.isFull pa = true → ∃ t, exec i s =
          .next ((t.doneLane (s.ctxOf x k l) fun u => u.giveW pl (BitVec.ofNat 32 (s3.peekNat pa 4))).keepEntries x x.parts) ∧
        (e = .ldf → OnlyBit k l pa false s3 t) ∧ (e = .ldfk → OnlyRead k l s3 t ∧ t.full = s3.full))) := by
  have hste : e ≠ .ste := by rintro rfl; simp at hload
  have hwaitv : e ≠ .waitv := by rintro rfl; simp at hload
  have hy : (if e = .ste ∨ e = .waitv then src (s.ctxOf x k l) d.toNat else pure 0) s1 = .ok (0, s1) := by
    rw [if_neg (not_or.2 ⟨hste, hwaitv⟩)]
    rfl
  have hd : (if e = .ste then pure Place_.queue else dst (s.ctxOf x k l) d.toNat 1) s1 = .ok (pl, s2) := by rw [if_neg hste, hd]
  refine ⟨fun hhelper => taggedInstr_helper h he hx hva hy hd hhelper hste,
    fun w hhelper hacc => taggedInstr_waits h he hx hva hy hd hhelper (by rw [if_neg hwaitv, hacc]), fun pa kd s3 hhelper hacc => ?_⟩
  have hacc : access (s.ctxOf x k l) va (if e = .waitv then .waitv else .tagged) s2 = .ok ((pa, kd), s3) := by rw [if_neg hwaitv, hacc]
  refine ⟨fun hregion howned hbusy => taggedInstr_busy h he hx hva hy hd hhelper hacc howned hregion hbusy,
    fun hfinds hempty => ?_, fun hfinds hfull => ?_⟩
  · obtain ⟨howned, hreached⟩ := reached_of_findsWord hfinds
    exact taggedInstr_unready h he hx hva hy hd hhelper hacc howned hreached (by rintro rfl; simp at hload)
      (by rw [wordReady_full hste hwaitv, hempty])
  · obtain ⟨howned, hreached⟩ := reached_of_findsWord hfinds
    obtain ⟨hregion, hgot, -⟩ := hfinds
    have hready : wordReady e s3 (s3.wordNow (s.ctxOf x k l) pa) 0 pa = true := by rw [wordReady_full hste hwaitv, hfull]
    rw [← wordNow_fresh hgot]
    obtain rfl | rfl := hload
    · obtain ⟨t, hperform, hbit⟩ := performWord_empties (c := s.ctxOf x k l) (s := s3) (w := s3.wordNow (s.ctxOf x k l) pa) (y := 0) (pl := pl) hregion
      exact ⟨t, taggedInstr_gives h he hx hva hy hd hhelper hacc howned hreached hready hperform, fun _ => hbit, nofun⟩
    · obtain ⟨t, hperform, hread⟩ := performWord_reads (c := s.ctxOf x k l) (pa := pa) (s := s3) (w := s3.wordNow (s.ctxOf x k l) pa) (y := 0) (pl := pl)
        hgot hste (by decide)
      exact ⟨t, taggedInstr_gives h he hx hva hy hd hhelper hacc howned hreached hready hperform, nofun, fun _ => hread⟩

end

section
variable {x : Issue} {k l : Nat} {s s1 s2 : State} {h : BitVec 3} {j : BitVec 1} {b : BitVec 3} {o d : BitVec 6} {n : BitVec 1} {p : BitVec 4} {va : DWord}
  {y : Word} (hva : basePair (s.ctxOf x k l) b o (s.begun x k l) = .ok (va, s1))
include hva

/-- WAITV: the word is given where it differs from the data, and watched where it does not. -/
theorem waitv_outcome {s3 s4 : State} {pl : Place_} {pa : Nat} {kd : PageKind} {z : Word} (hi : Enters (.waitv h j b o d n p) x k l s)
    (hy : src (s.ctxOf x k l) d.toNat s1 = .ok (y, s2)) (hd : dst (s.ctxOf x k l) d.toNat 1 s2 = .ok (pl, s3)) (hhelper : (s.ctxOf x k l).helper = false)
    (hacc : access (s.ctxOf x k l) va .waitv s3 = .ok ((pa, kd), s4)) (howned : s4.coreOwned pa = true) (hreached : Reached pa s4)
    (hgot : (s.ctxOf x k l).got = []) (hz : z = BitVec.ofNat 32 (s4.peekNat pa 4)) :
    (z = y → exec (.waitv h j b o d n p) s =
      .next ((s.deschedule k l { kind := .waitv, addr := va, key := pa, data := d, off := o, base := b, old := y.toNat }).keepEntries x x.parts)) ∧
    (z ≠ y → ∃ t, exec (.waitv h j b o d n p) s = .next ((t.doneLane (s.ctxOf x k l) fun u => u.giveW pl z).keepEntries x x.parts) ∧
      OnlyRead k l s4 t ∧ t.full = s4.full) := by
  have hx : exec (.waitv h j b o d n p) s = execWaitv h j b o d n p s := rfl
  rw [← wordNow_fresh hgot] at hz
  subst hz
  constructor
  · intro heq
    exact taggedInstr_unready (e := .waitv) hi rfl hx hva hy hd hhelper hacc howned hreached (by decide) (by rw [wordReady, heq]; simp)
  · intro hne
    obtain ⟨t, hperform, hread⟩ := performWord_reads (c := s.ctxOf x k l) (pa := pa) (s := s4) (w := s4.wordNow (s.ctxOf x k l) pa) (y := y) (pl := pl)
      (e := .waitv) hgot (by decide) (by decide)
    exact ⟨t, taggedInstr_gives (e := .waitv) hi rfl hx hva hy hd hhelper hacc howned hreached (by rw [wordReady]; simpa using hne) hperform, hread⟩

/-- STE: the word is stored where it is empty, and waited for where it is full. -/
theorem ste_outcome {s3 : State} {pa : Nat} {kd : PageKind} (hi : Enters (.ste h j b o d n p) x k l s)
    (hy : src (s.ctxOf x k l) d.toNat s1 = .ok (y, s2)) (hhelper : (s.ctxOf x k l).helper = false)
    (hacc : access (s.ctxOf x k l) va .tagged s2 = .ok ((pa, kd), s3)) (hfinds : FindsWord (s.ctxOf x k l) pa s3) :
    (s3.isFull pa = true → exec (.ste h j b o d n p) s =
      .next ((s.deschedule k l { kind := .ste, addr := va, key := pa, data := d, off := o, base := b, old := y.toNat }).keepEntries x x.parts)) ∧
    (s3.isFull pa = false → pa % 4 = 0 → s3.poisonedAt pa 4 = false → ∃ t, exec (.ste h j b o d n p) s =
        .next ((t.afterInstr (s.ctxOf x k l)).keepEntries x x.parts) ∧ StoresAt k l pa 4 y.toNat s3 t ∧ t.isFull pa = true ∧
      ∀ q, q / 4 ≠ pa / 4 → t.isFull q = s3.isFull q) := by
  have hx : exec (.ste h j b o d n p) s = execSte h j b o d n p s := rfl
  obtain ⟨howned, hreached⟩ := reached_of_findsWord hfinds
  constructor
  · intro hfull
    exact taggedInstr_unready (e := .ste) hi rfl hx hva hy rfl hhelper hacc howned hreached (by decide) (by rw [wordReady, hfull]; rfl)
  · intro hempty halign hclean
    obtain ⟨t, hperform, hstores⟩ := performWord_fills (c := s.ctxOf x k l) (w := s3.wordNow (s.ctxOf x k l) pa) (y := y) (pl := .queue) halign hclean
    exact ⟨t, taggedInstr_done (e := .ste) hi rfl hx hva hy rfl hhelper hacc howned hreached (by rw [wordReady, hempty]; rfl) hperform, hstores⟩

/-- Once its operands are read, STF is a store to the word and its bit. -/
theorem stf_body (hy : src (s.ctxOf x k l) d.toNat s1 = .ok (y, s2)) :
    (do let va ← basePair (s.ctxOf x k l) b o
        let y ← src (s.ctxOf x k l) d.toNat
        tagStore (s.ctxOf x k l) va (some y) : LaneM Unit) (s.begun x k l) = tagStore (s.ctxOf x k l) va (some y) s2 := by
  rw [bind_run, hva]
  dsimp only
  rw [bind_run, hy]

/-- Once its address is read, SETE is a store to the word's bit. -/
theorem sete_body : (do let va ← basePair (s.ctxOf x k l) b o
                        tagStore (s.ctxOf x k l) va none : LaneM Unit) (s.begun x k l) = tagStore (s.ctxOf x k l) va none s1 := by
  rw [bind_run, hva]

end

/-! ## The statement -/

/-- Settles O31: the operation is made on a word that is as it waits for, and otherwise the lane waits with nothing done. -/
theorem taggedEffects : Obligations.TaggedEffects := by
  unfold Obligations.TaggedEffects
  refine ⟨?_, ?_, ?_, ?_, ?_⟩
  · rintro e he h j b o d n p x k l s _ s1 s2 va pl hi rfl hva hd
    simp only [List.mem_cons, List.not_mem_nil, or_false] at he
    obtain rfl | rfl := he
    · exact taggedLoad_outcome hi rfl (rfl : _ = execLdf h j b o d n p s) (.inl rfl) hva hd
    · exact taggedLoad_outcome hi rfl (rfl : _ = execLdfk h j b o d n p s) (.inr rfl) hva hd
  · rintro h j b o d n p x k l s _ s1 s2 s3 va pl y hi rfl hva hy hd
    refine ⟨fun hhelper => taggedInstr_helper (e := .waitv) hi rfl (rfl : _ = execWaitv h j b o d n p s) hva hy hd hhelper (by decide),
      fun pa kd s4 z hhelper hacc howned hword hz => ?_⟩
    have hfound : Reached pa s4 ∧ (s.ctxOf x k l).got = [] := by
      obtain ⟨hregion, hgot, hclean⟩ | hfinds := hword
      · exact ⟨⟨fun h => absurd h hregion, hclean⟩, hgot⟩
      · obtain ⟨-, hreached⟩ := reached_of_findsWord hfinds
        obtain ⟨-, hgot, -⟩ := hfinds
        exact ⟨hreached, hgot⟩
    exact waitv_outcome hva hi hy hd hhelper hacc howned hfound.1 hfound.2 hz
  · rintro h j b o d n p x k l s _ s1 s2 va y hi rfl hva hy
    refine ⟨fun hhelper => enters_done hi rfl (rfl : _ = execSte h j b o d n p s) ?_,
      fun pa kd s3 hhelper hacc hfinds => ste_outcome hva hi hy hhelper hacc hfinds⟩
    rw [tagged_run (e := .ste) hva hy rfl, afterOperands_helper hhelper, if_pos rfl]
  · rintro h j b o d n p x k l s _ s1 s2 va y hi rfl hva hy
    have hx : exec (.stf h j b o d n p) s = execStf h j b o d n p s := rfl
    have hb := stf_body hva hy
    refine ⟨storeTagged_helper hi rfl hx hb, fun pa kd s3 hhelper hacc => ⟨storeTagged_busy hi rfl hx hb hhelper hacc, fun hfinds halign hclean => ?_⟩⟩
    obtain ⟨_, t, hrun, hstores⟩ := tagLane_fills (s.ctxOf x k l) y.toNat halign hclean
    exact ⟨t, storeTagged_done hi rfl hx hb hhelper hacc hfinds hrun, hstores⟩
  · rintro h j b o n p x k l s _ s1 va hi rfl hva
    have hx : exec (.sete h j b o n p) s = execSete h j b o n p s := rfl
    have hb := sete_body hva
    refine ⟨storeTagged_helper hi rfl hx hb, fun pa kd s2 hhelper hacc => ⟨storeTagged_busy hi rfl hx hb hhelper hacc, fun hfinds => ?_⟩⟩
    obtain ⟨_, t, hrun, hbit⟩ := tagLane_marks (s.ctxOf x k l) pa s2 false
    exact ⟨t, storeTagged_done hi rfl hx hb hhelper hacc hfinds hrun, hbit⟩

end Sys2Proof.Proofs.MemorySync
end
